-- ==== Sys2Proof/Word.lean ====
section
/-! DEFINITION. The word types of the module: the spec is little-endian throughout (R10) and speaks of bytes, 16-bit status codes, 32-bit registers, 48-bit device addresses and steps, and 64-bit pairs. -/

namespace Sys2Proof

abbrev U8 := BitVec 8
abbrev U16 := BitVec 16
abbrev U32 := BitVec 32
abbrev U48 := BitVec 48
abbrev U64 := BitVec 64

end Sys2Proof
end

