-- ==== Sys2Proof/Machine/FabricTypes.lean ====
section
/-! DEFINITION. The state of the Windway fabric as plain data: frames (R331), ports and their link layers (R326 to R345), Window Map entries (R352, R353), collectives (R360 to R366) and the twin link (R368 to R370). -/

namespace Sys2Proof.Machine

/-- A frame: the header of R331 field by field, and its payload. -/
structure Frame where
  type : Nat
  cls : Nat
  bcast : Bool
  dst : Nat
  src : Nat
  hops : Nat
  jobKey : U32
  cseq : Nat
  group : Nat
  srcRank : Nat
  phase : Nat
  grain : U32
  offset : Nat
  req : Nat
  /-- Whether every reserved bit of the header is 0 (R333). -/
  clean : Bool
  payload : List U8
  deriving DecidableEq, Repr

/-- Frame types (R332). -/
def ftWrite : Nat := 1
def ftReadReq : Nat := 2
def ftReadResp : Nat := 3
def ftWriteAck : Nat := 4
def ftCollReady : Nat := 5
def ftCollData : Nat := 6
def ftTwin : Nat := 7
def ftSwell : Nat := 8
def ftHeartbeat : Nat := 9
def ftDigest : Nat := 10
def ftClean : Nat := 11
def ftRetract : Nat := 12

/-- A link unit on the wire (R327 to R329): the link word, the bytes between it and the trailer, and the trailer; for a unit received, also the FEC codewords of it that were corrected and that could not be (R342, R371). -/
structure LinkUnit where
  word : U64
  body : List U8
  trailer : List U8
  fecCorr : Nat
  fecUncorr : Nat
  deriving DecidableEq, Repr

/-- A DATA unit kept for replay (R342). -/
structure Kept where
  lseq : Nat
  frame : Frame
  deriving DecidableEq, Repr

/-- One Windway port: its training step, what the peer's INIT said, its link layer, its queues and its keys. -/
structure Port where
  /-- The step of R326 in progress, 0 disabled, 5 up. -/
  train : Nat
  up : Bool
  signal : Bool
  enc : Bool
  peerId : Nat
  peerPort : Nat
  /-- The peer's INIT record as received at step 4, and whether this side's has been sent. -/
  peerInit : Option (List U8)
  initSent : Bool
  /-- Credits held toward the peer, by class (R341), in 64-byte units. -/
  credits : List Nat
  /-- Credits to return to the peer in the next unit, by class. -/
  owed : List Nat
  /-- LSEQ of the next DATA unit to send, and of the last one received in order, 0 before any. -/
  txSeq : Nat
  rxSeq : Nat
  nak : Bool
  /-- Units received since the last ACK was sent. -/
  unacked : Nat
  /-- DATA units sent and not acknowledged, oldest first (R342). -/
  replay : List Kept
  /-- How many of them still have to be sent again. -/
  resend : Nat
  /-- Replays since the last ACK progress. -/
  replays : Nat
  /-- Frames waiting to leave, by class, oldest first (R337). -/
  queue : List Frame
  /-- The weighted round-robin between classes 1 and 2: class-1 and class-2 frames left in the round. -/
  wrr1 : Nat
  wrr2 : Nat
  /-- Frames accepted from the link and still in the receive buffer, oldest first. -/
  rxBuf : List Frame
  /-- The keys of phases 0 and 1, as eight words each (R345). -/
  keys : List (List U32)
  keyPhase : Nat
  /-- DATA units sealed under the current key (R344). -/
  sealedUnits : Nat
  /-- The phase the peer seals under, and the sealed units received under it. -/
  rxPhase : Nat
  rxUnits : Nat
  /-- ENC_REQ as this training took it (R371). -/
  encReq : Bool
  deriving DecidableEq, Repr

/-- The kinds of Window Map entry (R352). -/
inductive WKind
  | outbound
  | inbound
  | slow
  | group
  | members
  deriving DecidableEq, Repr

/-- A Window Map entry (R352, R353). -/
structure WEntry where
  kind : WKind
  phases : Nat
  job : Nat
  num : Nat
  /-- SIZE in 2,048-byte blocks, or for MEMBERS FIRST_RANK. -/
  size : Nat
  /-- COUNT of GROUP or MEMBERS. -/
  count : Nat
  /-- VBASE, LBASE, or SELF_RANK. -/
  base : Nat
  /-- DST endpoint, HPA, or 0. -/
  target : Nat
  write : Bool
  read : Bool
  /-- TAG_HPA of SLOW. -/
  tagHpa : Nat
  /-- The endpoints of MEMBERS. -/
  endpoints : List Nat
  deriving DecidableEq, Repr

/-- A collective in progress at one Consort engine (R364). Lists run over the group's ranks. -/
structure Coll where
  base : Nat
  stream : Nat
  slot : Nat
  node : Nat
  job : Nat
  group : Nat
  cseq : Nat
  phase : Nat
  selfRank : Nat
  count : Nat
  /-- Endpoints of the group by rank. -/
  members : List Nat
  /-- The intake firing has read X: `out` holds this member's blocks. -/
  loaded : Bool
  /-- Blocks, as (OFFSET, bytes), expected from each rank and due to each. -/
  expect : List (List (Nat × Nat))
  due : List (List (Nat × Nat))
  /-- SHAPE of the data from each rank, and of that to each (R365). -/
  shapeIn : List U32
  shapeOut : List U32
  /-- This member's blocks for each rank, its own included, once it has read X. -/
  out : List (List (Nat × List U8))
  /-- Blocks each rank has granted this member, and blocks sent to it. -/
  granted : List Nat
  sent : List Nat
  /-- Blocks granted to each rank, blocks received from it, and the grant it needs in all. -/
  gave : List Nat
  got : List Nat
  need : List Nat
  /-- Blocks received, by rank. -/
  parts : List (List (Nat × List U8))
  /-- Offsets of blocks that failed their GRAIN and are asked for again. -/
  bad : List (List Nat)
  /-- Frames to send again: those dropped on their way, each with whether its drop is a fault of its own that the sending repeats, and those that could not leave when they were free to (R343, R402, R420). -/
  again : List (Frame × Bool)
  deriving DecidableEq, Repr

/-- A re-add check not yet decided (R419, R420): its own number, its Consort engine and block, the collective's stream, job and group, and the frames held back for it in the UPDATE phase. -/
structure Readd where
  id : Nat
  base : Nat
  /-- The first 2 KiB block of the collective's element space that it covers, and how many (R428). -/
  block : Nat
  count : Nat
  /-- It checks a block of the result, not one that is sent. -/
  result : Bool
  stream : Nat
  job : Nat
  group : Nat
  held : List Frame
  deriving DecidableEq, Repr

/-- A COLL_READY that came ahead of its collective (R364). -/
structure HeldReady where
  job : Nat
  group : Nat
  cseq : Nat
  rank : Nat
  phase : Nat
  grant : Nat
  shape : U32
  bytes : Nat
  deriving DecidableEq, Repr

/-- A commit whose mirror has not been sent (R369, R370): where the shard's STATE tensor lies, VERSION_STEP, the active slot and the steps retained, and NMOM, N and LATE once its header has been read. -/
structure MirrorJob where
  state : Nat
  step : Nat
  active : Nat
  retained : List Nat
  shape : Option (Nat × Nat × Nat)
  deriving DecidableEq, Repr

/-- A port after a start, before it is enabled. -/
def Port.disabled : Port :=
  { train := 0, up := false, signal := false, enc := false, peerId := 0, peerPort := 0, peerInit := none
    initSent := false, credits := [0, 0, 0, 0], owed := [0, 0, 0, 0], txSeq := 1, rxSeq := 0, nak := false
    unacked := 0, replay := [], resend := 0, replays := 0, queue := [], wrr1 := 0, wrr2 := 0, rxBuf := []
    keys := [[], []], keyPhase := 0, sealedUnits := 0, rxPhase := 0, rxUnits := 0, encReq := false }

/-- The twin link (R368 to R370, R376): the commits still to mirror, oldest first, the mirror in progress and the REQ of its frames that await their WRITE_ACK, and the last complete mirror. -/
structure TwinSt where
  mirroring : Bool
  stopped : Bool
  queue : List MirrorJob
  waiting : List Nat
  cur : Option MirrorJob
  /-- Blocks of the mirror in progress that are still to be sent, by device address, in order. -/
  blocks : List Nat
  /-- The slow-tier reads of the first of them that have no completion yet, as (request, device address or place of its tag, host address, length), and the bytes brought. -/
  reads : List (Nat × Nat × Nat × Nat)
  fetched : List (Nat × U8)
  lastStep : Nat
  deriving DecidableEq, Repr

def TwinSt.off : TwinSt :=
  { mirroring := false, stopped := false, queue := [], waiting := [], cur := none, blocks := [], reads := [], fetched := [], lastStep := 0 }

/-- What stands for the twin link among the units that slow-tier requests are made for. -/
def twinUnit : Nat := 822

end Sys2Proof.Machine
end

