-- ==== Sys2Proof/Machine/Galad.lean ====
section
/-! DEFINITION. The parts of a Galad program image (R77 to R91) as plain data, and the program the binder has bound: bound nodes, their firings and their edges (R21 to R28, R610, R613). -/

namespace Sys2Proof.Machine

/-- A tensor entry (R81), field by field. -/
structure Tensor where
  dtype : Nat
  rank : Nat
  kind : Nat
  tflags : Nat
  aux : Nat
  /-- The six extents as stored; the first `rank` are used. -/
  ext6 : List Nat
  loc : Nat
  shardCount : Nat
  shardAxis : Nat
  hintFirst : Nat
  hintCount : Nat
  deriving DecidableEq, Repr

/-- A shard entry (R87). -/
structure Shard where
  extent : Nat
  rank : Nat
  sflags : Nat
  loc : Nat
  deriving DecidableEq, Repr

/-- A node entry (R90) with the bytes of its attribute record. -/
structure GNode where
  op : Nat
  sub : Nat
  nflags : Nat
  inCount : Nat
  outCount : Nat
  attrOffset : Nat
  attrBytes : Nat
  imm0 : Nat
  imm1 : Nat
  hintFirst : Nat
  hintCount : Nat
  attr : List Nat
  deriving DecidableEq, Repr

/-- An edge entry (R91). -/
structure GEdge where
  tensor : Nat
  src : Nat
  dst : Nat
  srcPort : Nat
  dstPort : Nat
  deriving DecidableEq, Repr

/-- A hint entry (R100). -/
structure Hint where
  kind : Nat
  value : Nat
  deriving DecidableEq, Repr

/-- The image as the binder has read it (R105): the header fields it acts on and the sections. -/
structure Program where
  addr : Nat
  imageBytes : Nat
  noCache : Bool
  requiredCaps : Nat
  scratchLoc : Nat
  scratchBytes : Nat
  constAddr : Nat
  constBytes : Nat
  tensors : List Tensor
  shards : List Shard
  nodes : List GNode
  edges : List GEdge
  hints : List Hint
  outputs : List Nat
  deriving DecidableEq, Repr

/-- A run of 2 KiB grain blocks of one tensor's (or local shard's) storage, counted from its first block. -/
structure BlkRun where
  tensor : Nat
  first : Nat
  count : Nat
  deriving DecidableEq, Repr

/-- The kinds of Lathe firing (R306, R303, R315). -/
inductive LathePart
  | unsaid
  | first
  | retain
  | apply
  | commit
  | verdict
  | shadow
  deriving DecidableEq, Repr

/-- One bound node (R22, R610): the engine (numbered as R411 numbers them) and which of the submission's slots on it the node uses, the Galad node it works for, its working area in SRAM, the output blocks each of its firings produces, how many firings have completed, and whether the slot is revoked or freed (R59, R611). `slot` is its number in the bound program. -/
structure BNode where
  unit : Nat
  place : Nat
  node : Nat
  slot : Nat
  /-- Device address and bytes of its stationary tiles and running sums (R225). -/
  area : Nat × Nat
  firings : List (List BlkRun)
  next : Nat
  revoked : Bool
  freed : Bool
  /-- Its last firing ended with a detected fault and its next one repeats it, with the tokens and credits already taken (R402); `code` is what that fault reported (R442). -/
  rep : Bool
  code : BitVec 16
  /-- The part of an UPDATE or SHADOW that the faulted Lathe firing did, and over how many grain blocks (R314). -/
  part : LathePart × Nat
  deriving DecidableEq, Repr

/-- A token (R20); the stream and the edge on which it travels are those it is kept under. -/
structure BlockToken where
  block : Nat
  addr : Nat
  bytes : Nat
  tagged : Bool
  deriving DecidableEq, Repr

/-- One bound edge: the block slots of its consumer's input queue in SRAM, the tokens waiting there, oldest first, the credits left at the producer, and how many tokens it has carried (R20, R21, R28, R225). -/
structure BEdge where
  src : Nat
  dst : Nat
  depth : Nat
  /-- Device address of the first block slot, and a block's length. -/
  addr : Nat
  bytes : Nat
  tagged : Bool
  tokens : List BlockToken
  credits : Nat
  sent : Nat
  deriving DecidableEq, Repr

/-- The token of the edge's block `i`: the block slots are used in turn. -/
def BEdge.token (e : BEdge) (i : Nat) : BlockToken := ⟨i, e.addr + i % max 1 e.depth * e.bytes, e.bytes, e.tagged⟩

/-- One token placed into the consumer's input queue (R25, R26). -/
def BEdge.put (e : BEdge) (k : BlockToken) : BEdge := { e with tokens := e.tokens ++ [k], sent := e.sent + 1 }

/-- A bound program: the submission's node slots and edges, and where each tensor's storage lies. -/
structure Bound where
  prog : Program
  nodes : List BNode
  edges : List BEdge
  /-- Device address of each INTERNAL tensor that has storage, and its footprint (R613). -/
  internals : List (Nat × Nat × Nat)
  /-- Storage that a node reads as it stood on entry into BINDING, as (node, address, bytes), and its bytes (R94). -/
  olds : List (Nat × Nat × Nat)
  then0 : List (Nat × BitVec 8)
  deriving DecidableEq, Repr

/-- The binder's placement of one node slot, as BINDING_COMPLETE reports it (R612: the binder is free to choose it). -/
structure PlanNode where
  unit : Nat
  /-- Which of the submission's bound nodes on that engine: one that works for several Galad nodes in turn stands here once for each (R107). -/
  place : Nat
  node : Nat
  firings : List (List BlkRun)
  /-- Device address and bytes of the node's stationary tiles and running sums (R225). -/
  area : Nat × Nat
  deriving DecidableEq, Repr

/-- One edge of the placement: between slots `src` and `dst` of the plan, with its queue depth, its block slots in SRAM (the first one's address, the length of each, whether tags are stored with them) and the tokens ready at start (R20, R28, R225). -/
structure PlanEdge where
  src : Nat
  dst : Nat
  depth : Nat
  addr : Nat
  bytes : Nat
  tagged : Bool
  initTokens : Nat
  deriving DecidableEq, Repr

/-- The binder's placement of a whole program, with the device address of each INTERNAL tensor that it holds outside the scratch area: in free main store, or off-loaded to the bench tier (R613). -/
structure Plan where
  nodes : List PlanNode
  edges : List PlanEdge
  outside : List (Nat × Nat)
  /-- The image as the binder read it, where it lies in the Window Map region (R232). -/
  remote : List (BitVec 8)
  deriving DecidableEq, Repr

end Sys2Proof.Machine
end

