-- ==== Sys2Proof/Machine/CommandTypes.lean ====
section
/-! DEFINITION. The operands of the module's commands as plain data: pages and requesters of BAR0 (R580 to R583, R590), flits of the die-to-die links (R451), and what the surroundings report with an event (temperatures, link tests, start reports, requests of the service port and of SPDM). -/

namespace Sys2Proof.Machine

/-- A register page of BAR0 (R581 to R583). -/
inductive Page
  | tol
  | swl
  | brt
  | pwr
  | fwu
  | sec
  | grn
  | tun
  | uni
  | stmJob
  | stmRgn
  | stmQrm
  | cnsMap
  | wwyMod
  | twn
  | stm (b : Fin 3)
  | glb (b : Fin 3)
  | lth (b : Fin 3)
  | cns (b : Fin 3)
  | wwy (p : Fin 12)
  | hbc (s : Fin 16)
  | gdc (g : Fin 32)
  | bnd (d : Fin 12)
  | rdl (r : Fin 4)
  | cxp (p : Fin 2)
  | mxa (n : Fin 192)
  | vxe (n : Fin 192)
  | crv (n : Fin 192)
  | cpe (n : Fin 192)
  | ats (q : Fin 48)
  deriving DecidableEq, Repr

/-- A requester of BAR0 accesses (R590): the CXL function of a port, or a service session. -/
inductive Requester
  | fn (p : Fin 2)
  | svc (i : Fin 4)
  deriving DecidableEq, Repr

/-- A memory controller: an HBM stack's or a GDDR7 device's. -/
inductive MemDev
  | hbm (s : Fin 16)
  | gddr (g : Fin 32)
  deriving DecidableEq, Repr

/-- What ECC says of one read (R214, R222, R227). -/
inductive EccRead
  | clean
  | corrected
  | uncorrectable
  deriving DecidableEq, Repr

/-- A die. -/
inductive Die
  | compute (d : Fin 12)
  | base (b : Fin 3)
  deriving DecidableEq, Repr

/-- The receiving end of a die-to-die link: an RDL page's end of a Reed junction, the base die's end of a bond interface (its BND page), or the compute die's end of it. -/
inductive LinkEnd
  | rdl (r : Fin 4)
  | bondBase (d : Fin 12)
  | bondDie (d : Fin 12)
  deriving DecidableEq, Repr

/-- A flit (R451): its trailer fields and its payload. -/
structure Flit where
  fseq : U16
  fack : U16
  kind : Nat
  reserved : List U8
  payload : List U8
  crc : U32
  deriving DecidableEq, Repr

/-- A REPORT message (R465). -/
structure DieReport where
  epoch : U16
  powerW8 : U16
  tempC : U8
  duty : U8
  clkMhz : U16
  rflags : U8
  deriving DecidableEq, Repr

/-- A BUDGET message (R465). -/
structure Budget where
  epoch : U16
  limitW8 : U16
  descantOff : Bool
  deriving DecidableEq, Repr

/-- Why a binding failed (R105, R109, R613). -/
inductive BindCause
  /-- The first of the ordered checks that the image fails gives the code; `remote` is the image as read where it lies in the Window Map region. -/
  | check (remote : List U8)
  /-- A read of the image met an uncorrectable error at a device address. -/
  | memory (addr : Nat)
  deriving DecidableEq, Repr

/-- A read that delivered good data although something had to be mended: an error that the code corrected (R214), or GDDR7 bursts repeated after a failed EDC check (R222). -/
structure ReadNote where
  addr : Nat
  corrected : Bool
  retries : Nat
  deriving DecidableEq, Repr

/-- What one core's engines did for an attention sequencer's firing where the spec does not say it: the instructions of its vector engine and curve unit, lanes masked, and the curve unit's nonzero summaries, with the flags of the last and whether it was of 1/x (R190, R206, R207). -/
structure QuadObs where
  core : Nat
  insns : Nat
  masked : Nat
  evals : Nat
  hot : Nat
  inverse : Bool
  summary : BitVec 4
  deriving DecidableEq, Repr

/-- What is reported with the end of a firing: what the spec leaves to the binder's cut of the work (R612) and what the surroundings did. -/
structure FireObs where
  /-- Vector instructions of a REDUCE firing and the lanes masked in them (R206). -/
  work : Nat
  masked : Nat
  /-- Vectors that had left row 31 of an array when a TALLY_ONE written during the firing was (R151). -/
  before : Nat
  mem : List ReadNote
  quad : List QuadObs
  deriving DecidableEq, Repr

/-- The detected fault with which a firing ends (R27, R405). -/
inductive FaultCause
  /-- A tally mismatch (R146): the core of the array, the vector's pass and its index there, and the difference and bound seen. -/
  | tally (core pass vector : Nat) (diff bound : U32)
  /-- An uncorrectable memory or SRAM error (R215, R222, R227): memory kind of record 0x03, the address, and the EDC retries before it. -/
  | memory (kind : Nat) (addr : Nat) (retries : Nat)
  /-- A grain tag mismatch of the block at an address (R410), with the tag that its bytes as read have. -/
  | grain (addr : Nat) (found : U32)
  deriving DecidableEq, Repr

/-- An error that a patrol scrub finds in a granule (R237, R238): the 64-byte line within it, and whether it can be corrected. -/
structure ScrubFind where
  line : Nat
  uncorrectable : Bool
  deriving DecidableEq, Repr

/-- What a failing or passing run of a tuning pass reports (R416, R417). -/
structure TuneObs where
  pass : Bool
  /-- The failing test's number. -/
  test : Nat
  /-- For an array: the data columns the fault was located in; none where it lies anywhere else. -/
  columns : Option (List Nat)
  deriving DecidableEq, Repr

/-- One part of a link at start-up (R458, R459): the failed lanes found by group. -/
structure LaneFinding where
  link : LinkEnd
  bundle : Nat
  group : Nat
  lanes : List Nat
  deriving DecidableEq, Repr

/-- What the start sequence meets (R515 to R517): everything in it that the surroundings decide. -/
structure StartReport where
  /-- Regulators report power-good (step 2). -/
  powerGood : Bool
  /-- Dies that fail at steps 5 or 7 (no power-good, PLL, memory ready, or a load hash that differs). -/
  deadDies : List Die
  /-- Whether one of those failures is a failed load check (R543 item 3). -/
  loadFail : Bool
  /-- Lanes found failed in the start test of R458. -/
  lanes : List LaneFinding
  /-- Stacks and GDDR7 devices that fail training (steps 8 and 9). -/
  badStacks : List (Fin 16)
  badGddr : List (Fin 32)
  /-- CXL ports that link, as (port, lanes, at 64 GT/s, behind a switch). -/
  cxlLinked : List (Fin 2 × Nat × Bool × Bool)
  /-- Windway ports whose training reaches the exchange of INIT records in its time, with the peer's record (R326, R328). -/
  ports : List (Fin 12 × List U8)
  /-- Measured input power (R510). -/
  inputW : Nat
  /-- SMBus address straps (R604). -/
  straps : Fin 8
  /-- Command words that hosts send to BAR2 after base die 1's logic is out of reset and before module-ready, as (stream, word), in order (R516, R556). -/
  early : List (Fin 16384 × U64)
  /-- Milliseconds from step 2 to module-ready. -/
  startMs : Nat
  deriving DecidableEq, Repr

/-- What a LANE_TEST flit finds (R455): the lanes that mismatch, and the groups whose unused shim lane showed errors in its PRBS31 pattern since the last one. -/
structure LaneCheck where
  lanes : List (Fin 16 × Fin 33)
  prbs : List (Fin 16)
  deriving DecidableEq, Repr

/-- What a link test counts (R480): errors by lane of the PRBS31 run, and by lane and step of the margin sweep. -/
structure LaneErrors where
  run : List (Fin 16 × Fin 16 × Fin 33 × U32)
  margin : List (Fin 16 × Fin 16 × Fin 33 × Fin 19 × U32)
  deriving DecidableEq, Repr

/-- What the Swell controller measures at a loop (R493, R506, R507). -/
structure SwellObs where
  /-- Milliseconds since the last loop. -/
  elapsedMs : Nat
  inputW : Nat
  input10mV : Nat
  /-- Hottest sensor of each base die, °C. -/
  baseTemp : List Int
  deriving DecidableEq, Repr

/-- A TLS handshake on the service port as it ends (R529, R530). -/
structure Handshake where
  tls13 : Bool
  suite : Nat
  group : Nat
  clientCert : Bool
  /-- Bits of an RSA client key; 384 for ECDSA P-384 with `ecdsa` set. -/
  keyBits : Nat
  ecdsa : Bool
  resumption : Bool
  earlyData : Bool
  /-- SHA-256 of the CA public keys the client certificate chains to. -/
  chain : List (List U8)
  valid : Bool
  deriving DecidableEq, Repr

/-- The header words of a service request that vary (R531): its FORCE flag and TAG. -/
structure SvcReq where
  session : Fin 4
  force : Bool
  tag : U32
  deriving DecidableEq, Repr

/-- A transport of SPDM requests (R527): the DOE mailbox of a CXL port, or MCTP over SMBus. -/
inductive SpdmTransport
  | doe (p : Fin 2)
  | mctp
  deriving DecidableEq, Repr

/-- One HDM decoder as host software programs it before a commit (R557, R558). -/
structure HdmSetup where
  hpaBase : Nat
  size : Nat
  ig : Nat
  iw : Nat
  target : Nat
  skip : Nat
  deriving DecidableEq, Repr

/-- An operator trust anchor (R530). -/
structure Anchor where
  caHash : List U8
  roles : Nat
  deriving DecidableEq, Repr

/-- The calibration record (R491, R493, R520): relative powers in millionths by step, lambda in millionths, and c0 in milliwatts. -/
structure Calib where
  p : List Nat
  lambda : Nat
  c0 : Nat
  deriving DecidableEq, Repr

/-- A column repair record (R520, R138). -/
structure Repair where
  core : Nat
  col0 : Nat
  col1 : Nat
  retire : Bool
  deriving DecidableEq, Repr

/-- The body of a settings copy (R520). -/
inductive SettingBody
  /-- Lane map: the base dies whose ports it maps. -/
  | laneMap (bases : List Nat)
  /-- Shim lane records: (lane group number, lane). -/
  | lanes (l : List (Nat × Nat))
  | repairs (l : List Repair)
  | calib (c : Calib)
  | anchors (l : List Anchor)
  | network (body : List U8)
  /-- Operating defaults: (BAR0 offset of the register, value), Breath windows apart as (sensor, low, high). -/
  | defaults (regs : List (Nat × U32)) (windows : List (Nat × U16 × U16))
  deriving DecidableEq, Repr

end Sys2Proof.Machine
end

