-- ==== Sys2Proof/Syntax.lean ====
section
/-! DEFINITION. The commands of the module: one constructor per row of the table of operations and events, with the row's operands. -/

namespace Sys2Proof

open Machine

/-- The commands of the module. A row that is a register access names the value written; a row that is an event names the unit it befalls and what the surroundings decide in it. -/
inductive Instr
  -- stream commands (chapter 1)
  | openStream (n : Fin 16384) (body : BitVec 60)
  | ring (n : Fin 16384) (body : BitVec 60)
  | abort (n : Fin 16384) (body : BitVec 60)
  | close (n : Fin 16384) (body : BitVec 60)
  | bar2DroppedWrite (off : BitVec 20) (size : Nat)
  -- binding and firing (chapters 1 to 7)
  | bindingComplete (n : Fin 16384) (plan : Plan)
  | bindingFail (n : Fin 16384) (cause : BindCause)
  | firingStart (u : Fin 822)
  | firingComplete (u : Fin 822) (obs : FireObs)
  | firingFault (u : Fin 822) (cause : FaultCause) (flags : BitVec 4)
  | firingWatchdog (u : Fin 822)
  | abortDrainDone (n : Fin 16384)
  | stallTimeout (n : Fin 16384)
  -- job contexts and registers
  | jobValidSet (v : U32)
  | jobValidClear (v : U32)
  | jobCfgFieldsWrite (v : U32)
  | clearBar2Drop
  | readLoLatch (r : Requester) (pg : Page) (off : BitVec 12) (size : Nat)
  | writeLoHold (r : Requester) (pg : Page) (off : BitVec 12) (size : Nat) (v : U32)
  | writeHiCommit (r : Requester) (pg : Page) (off : BitVec 12) (size : Nat) (v : U32)
  | registerWrite (pg : Page) (off : BitVec 12) (size : Nat) (v : U32)
  | errStatClear (pg : Page) (v : U32)
  | errMaskWrite (pg : Page) (v : U32)
  | clearCounts (pg : Page)
  | numflagsClear (pg : Page) (v : U32)
  | bindCacheFlush (b : Fin 3)
  | mxaRepairWrite (n : Fin 192) (v : U32)
  | injectTallyOne (n : Fin 192) (v : U32)
  -- memories (chapter 6)
  | hbmTempSample (k : Fin 16) (t : Option (BitVec 8))
  | gddr7TempSample (g : Fin 32) (t : Option (BitVec 8))
  | memoryScrubRead (d : MemDev) (found : List ScrubFind) (retries : Nat)
  | sramScrubRead (m : Fin 195) (ecc : EccRead)
  | hbcClearMax (d : MemDev)
  | injectMemCorr (d : MemDev)
  | injectMemUncorr (d : MemDev)
  | slowTierCompletion (req : Nat) (data : Option (List U8))
  | slowTierTimeout (req : Nat)
  | regionValidSet (v : U32)
  | regionValidClear (v : U32)
  | regionBoundsWrite (limit : Bool) (v : U48)
  | injectGrainOne (n : Fin 192)
  -- the Lathe (chapter 8)
  | updateFirstFiring (b : Fin 3) (n : Fin 16384) (node : Nat)
  | latheRetainFiring (b : Fin 3) (n : Fin 16384) (node : Nat) (blocks : Nat)
  | latheApplyFiring (b : Fin 3) (n : Fin 16384) (node : Nat) (blocks : Nat)
  | latheCommitFiring (b : Fin 3) (n : Fin 16384) (node : Nat)
  | shadowFiring (b : Fin 3) (n : Fin 16384) (node : Nat)
  | verdict (b : Fin 3) (n : Fin 16384) (node : Nat)
  | recipeLoad (b : Fin 3) (v : U32)
  | recipeLoadDone
  | commitRecordRelease (b : Fin 3) (v : U32)
  | injectRecordOne (b : Fin 3)
  | latheInjectGrainOne (b : Fin 3)
  -- Windway ports (chapter 9)
  | portSignalDetect (p : Fin 12)
  | linkTrainingDone (p : Fin 12)
  | fecLock (p : Fin 12)
  | linkTrainRetry (p : Fin 12)
  | initSendTimer (p : Fin 12)
  | initUnitReceived (p : Fin 12) (u : LinkUnit)
  | dataUnitReceived (p : Fin 12) (u : LinkUnit)
  | emptyUnitReceived (p : Fin 12) (u : LinkUnit)
  | replayTimeout (p : Fin 12)
  | ackSendTimer (p : Fin 12)
  | unitSend (p : Fin 12)
  | linkDown (p : Fin 12)
  | frameForward (p : Fin 12)
  | writeFrame (p : Fin 12)
  | readReqFrame (p : Fin 12)
  | readRespFrame (p : Fin 12)
  | writeAckFrame (p : Fin 12)
  | windowRequestTimeout (req : Nat)
  | collReadyFrame (p : Fin 12)
  | collDataFrame (p : Fin 12)
  | collReadyRepeat (b : Fin 3)
  | collectiveTimeout (b : Fin 3) (n : Fin 16384)
  | readdCheckDecided (b : Fin 3) (block : Nat) (agree : Bool)
  | twinFrame (p : Fin 12)
  | twinMirrorSend
  | swellFrame (p : Fin 12)
  | heartbeatFrame (p : Fin 12)
  | digestFrame (p : Fin 12)
  | cleanFrame (p : Fin 12)
  | retractFrame (p : Fin 12)
  | portRetrain (p : Fin 12)
  | portEnableWrite (p : Fin 12) (v : U32)
  | keyPhaseSwitch (p : Fin 12)
  | keyNextWrite (p : Fin 12) (i : Fin 8) (v : U32)
  | selfIdWrite (v : U32)
  | routeWrite (v : U32)
  | keytabWrite (v : U32)
  | injectCrcOne (p : Fin 12)
  | wmapLoad (v : U32)
  | wmapLoadDone
  | twinEnable (v : U32)
  | twinDisable (v : U32)
  -- seats (chapter 10)
  | heartbeatSend
  | seatListLoad (v : U32)
  | seatListLoadDone
  | seatLivenessExpiry (slot : Fin 8) (seat : Nat)
  | streamFreeze (n : Fin 16384)
  | quorumResume
  | quorumRefuse
  | seatSlotUnload
  | cleanSend (j : Fin 256)
  -- tuning and unison (chapter 11)
  | tuningDue (u : Fin 822)
  | tuningDeadline (u : Fin 822)
  | tuningStart (u : Fin 822)
  | tuningResult (u : Fin 822) (obs : TuneObs)
  | tuningRunNow
  | tuningRotateAll
  | injectTuningFail
  | injectReaddOne
  | clearRetracted
  | unisonEntryTimeout (j : Fin 256) (key : U32) (step : U48)
  | unisonClear
  -- package links (chapter 12)
  | flitReceived (e : LinkEnd) (bundle : Fin 16) (f : Flit)
  | flitReplayTimeout (e : LinkEnd) (bundle : Fin 16)
  | laneTestSend (e : LinkEnd) (bundle : Fin 16)
  | laneTestReceived (e : LinkEnd) (bundle : Fin 16) (mismatch : LaneCheck)
  | clockMonitorWindow (e : LinkEnd) (edges : List Nat) (expected : Nat)
  | resetNoticeReceived (e : LinkEnd)
  | budgetReceived (d : Die) (m : Budget)
  | budgetRepeat (d : Die)
  | reportSend (d : Die) (powerW8 : U16) (tempC : U8)
  | reportReceived (d : Die) (m : DieReport)
  | budgetFallback (d : Die)
  | linkTestStart (e : LinkEnd)
  | linkTestDone (e : LinkEnd) (errs : LaneErrors) (logic sram : Bool)
  | injectLaneFail (e : LinkEnd)
  -- power (chapter 13)
  | setpointWrite (v : U32)
  | swellControlLoop (obs : SwellObs)
  | descantRestore
  | powerReqRun
  | powerReqHold
  | powerReqBreath
  | powerReqOff
  | holdReached
  | wakeComplete (r : StartReport)
  | breathSample (samples : List U16)
  | brtCrossClear (v : U32)
  | dieThermalTick (d : Fin 12) (t : BitVec 8)
  | flowTachWindow (edges : Nat)
  | flowLowDetected
  | flowRestored
  | leakDetected
  | inputUndervoltage
  -- start-up, service port, firmware (chapter 14)
  | powerOn (r : StartReport)
  | serviceConnect (h : Handshake)
  | serviceIdleTimeout (i : Fin 4)
  | svcInfo (q : SvcReq)
  | svcLogRead (q : SvcReq) (seq : U32) (count : Nat)
  | svcSettingGet (q : SvcReq) (type : Nat)
  | svcSettingSet (q : SvcReq) (type : Nat) (body : Option SettingBody)
  | svcSetpoint (q : SvcReq) (w : U16)
  | svcPower (q : SvcReq) (state : Fin 4)
  | svcRegRead (q : SvcReq) (off : BitVec 26) (count : Nat)
  | fwBegin (q : SvcReq) (payload : List U8)
  | fwData (q : SvcReq) (off : Nat) (bytes : List U8)
  | fwEnd (q : SvcReq)
  | fwActivate (q : SvcReq)
  | fwCancel (q : SvcReq)
  | svcReset (q : SvcReq) (r : StartReport)
  | svcDieTest (q : SvcReq) (d : Die)
  | spdmGetVersion (t : SpdmTransport)
  | spdmGetCapabilities (t : SpdmTransport)
  | spdmNegotiateAlgorithms (t : SpdmTransport) (asym hash dhe aead : U32)
  | spdmGetDigests (t : SpdmTransport)
  | spdmGetCertificate (t : SpdmTransport) (slot : Nat) (off len : U16)
  | spdmChallenge (t : SpdmTransport) (slot : Nat) (nonce : List U8)
  | spdmGetMeasurements (t : SpdmTransport) (index : U8) (sign : Bool) (nonce : List U8)
  | spdmKeyExchange (t : SpdmTransport) (slot : Nat) (share : List U8)
  | spdmFinish (t : SpdmTransport) (valid : Bool)
  | spdmEndSession (t : SpdmTransport)
  | spdmUnsupported (t : SpdmTransport) (code : U8)
  | ideKeyProgram (p : Fin 2) (stream : Fin 4) (key : List U8)
  -- board management (chapter 17)
  | mctpReadSensors (samples : List U16)
  | mctpReadLog (seq : U32) (count : Nat)
  | mctpReadStatus
  | mctpControlMessage (cmd : U8)
  -- host attachment (chapter 15)
  | hostHdmRead (p : Fin 2) (hpa : U64) (caches corrected : Bool)
  | hostHdmWrite (p : Fin 2) (hpa : U64) (data : List U8) (mask : List Bool)
  | h2dSnoop (p : Fin 2)
  | birspReceived (p : Fin 2) (line : Nat)
  | bisnpTimeout (line : Nat)
  | hdmDecoderCommit (i : Fin 4) (setup : HdmSetup)
  | cdatRead (p : Fin 2) (entry : Nat)
  | doeDiscovery (p : Fin 2) (index : U8)
  | cxlLinkUp (p : Fin 2) (lanes : Nat) (fast viaSwitch : Bool)
  | cxlLinkDown (p : Fin 2)
  | failoverSwitch
  | perstAssert (p : Fin 2)
  | functionLevelReset (p : Fin 2)
  | ideFailure (p : Fin 2)
  | injectBiDrop (p : Fin 2)
  -- rows added later
  | badCommand (n : Fin 16384) (word : U64)
  | serviceSessionEnd (i : Fin 4)
  | leakDetectReleased
  deriving DecidableEq, Repr

end Sys2Proof
end

