-- ==== Sys2Proof/Decode.lean ====
section
/-! DEFINITION. Commands as words of the table of operations and events: no row of it gives bits. -/

namespace Sys2Proof

/-- The command that a word spells by the table's bits: every row has an empty list of fields, so none. -/
def decodeTableWord (_nbits _w : Nat) : Option Instr := none

end Sys2Proof
end

