-- ==== Sys2Proof/Machine/Num.lean ====
section
/-! DEFINITION. Number formats and arithmetic (R153 to R171, R620): exact decoding, one rounding to nearest even, the sticky flags, conversions between the element formats, and the exact additions and products every engine is built on. -/

namespace Sys2Proof.Machine

/-- The four sticky flags (R171): bit 0 overflow, 1 underflow, 2 inexact, 3 invalid. -/
abbrev Flags := BitVec 4

def fOvf : Flags := 1#4
def fUnf : Flags := 2#4
def fInx : Flags := 4#4
def fInv : Flags := 8#4

/-- A floating value held exactly: NaN, an infinity, or `(-1)^s × m × 2^e`; `m = 0` is the zero of sign `s`. -/
inductive Fl
  | nan
  | inf (s : Bool)
  | fin (s : Bool) (m : Nat) (e : Int)
  deriving DecidableEq, Repr

/-- How a floating format encodes infinities and NaN (R153). -/
inductive Specials
  | ieee
  | nanOnly
  | none
  deriving DecidableEq, Repr

/-- A floating format of R153. -/
structure Fmt where
  ebits : Nat
  mbits : Nat
  bias : Int
  specials : Specials
  deriving DecidableEq, Repr

def fmtF16 : Fmt := ⟨5, 10, 15, .ieee⟩
def fmtBf16 : Fmt := ⟨8, 7, 127, .ieee⟩
def fmtF32 : Fmt := ⟨8, 23, 127, .ieee⟩
def fmtE4m3 : Fmt := ⟨4, 3, 7, .nanOnly⟩
def fmtE5m2 : Fmt := ⟨5, 2, 15, .ieee⟩
def fmtE3m2 : Fmt := ⟨3, 2, 3, .none⟩
def fmtE2m3 : Fmt := ⟨2, 3, 1, .none⟩
def fmtE2m1 : Fmt := ⟨2, 1, 1, .none⟩

def Fmt.bits (f : Fmt) : Nat := 1 + f.ebits + f.mbits

/-- The code of the largest finite magnitude. -/
def Fmt.maxCode (f : Fmt) : Nat :=
  match f.specials with
  | .ieee => (2 ^ f.ebits - 1) * 2 ^ f.mbits - 1
  | .nanOnly => 2 ^ (f.ebits + f.mbits) - 2
  | .none => 2 ^ (f.ebits + f.mbits) - 1

/-- The canonical NaN (R154); a format without NaN has no use of it. -/
def Fmt.nanCode (f : Fmt) : Nat :=
  match f.specials with
  | .ieee => (2 ^ f.ebits - 1) * 2 ^ f.mbits + 2 ^ (f.mbits - 1)
  | _ => 2 ^ (f.ebits + f.mbits) - 1

def Fmt.infCode (f : Fmt) : Nat := (2 ^ f.ebits - 1) * 2 ^ f.mbits

/-- The exponent of the smallest normal. -/
def Fmt.emin (f : Fmt) : Int := 1 - f.bias

def signBit (f : Fmt) (s : Bool) : Nat := if s then 2 ^ (f.ebits + f.mbits) else 0

/-- The value of an encoding (R153). -/
def Fmt.decode (f : Fmt) (w : Nat) : Fl :=
  let m := w % 2 ^ f.mbits
  let e := w / 2 ^ f.mbits % 2 ^ f.ebits
  let s := decide (w / 2 ^ (f.ebits + f.mbits) % 2 = 1)
  let special : Option Fl :=
    match f.specials with
    | .ieee => if e = 2 ^ f.ebits - 1 then some (if m = 0 then .inf s else .nan) else none
    | .nanOnly => if e = 2 ^ f.ebits - 1 ∧ m = 2 ^ f.mbits - 1 then some .nan else none
    | .none => none
  match special with
  | some x => x
  | none => if e = 0 then .fin s m (1 - f.bias - f.mbits) else .fin s (2 ^ f.mbits + m) (e - f.bias - f.mbits)

/-- `m × 2^k` rounded to an integer, ties to even, and whether it changed; `k` may be negative. -/
def rneShift (m : Nat) (k : Int) : Nat × Bool :=
  if 0 ≤ k then (m * 2 ^ k.toNat, false)
  else
    let d := (-k).toNat
    let q := m / 2 ^ d
    let r := m % 2 ^ d
    let half := 2 ^ (d - 1)
    if r = 0 then (q, false)
    else if r < half then (q, true)
    else if half < r then (q + 1, true)
    else (if q % 2 = 0 then q else q + 1, true)

/-- The exponent of a nonzero `m × 2^e`: that of its leading bit. -/
def topExp (m : Nat) (e : Int) : Int := (Nat.log2 m : Int) + e

/-- One rounding of the nonzero `(-1)^s × m × 2^e` (R165, R620, R171). An overflow becomes an infinity, or with `sat` the largest finite value (R169). -/
def Fmt.round (f : Fmt) (sat : Bool) (s : Bool) (m : Nat) (e : Int) : Nat × Flags :=
  let ex := topExp m e
  let q : Int := max ex f.emin - f.mbits
  let r := rneShift m (e - q)
  let be : Int := q + f.mbits + f.bias
  let code : Nat := (be - 1).toNat * 2 ^ f.mbits + r.1
  if f.maxCode < code then
    (signBit f s + (if sat then f.maxCode else f.infCode), fOvf ||| fInx)
  else
    (signBit f s + code,
      (if r.2 then fInx else 0) ||| (if r.2 ∧ ex < f.emin then fUnf else 0))

/-- The encoding of a value: NaN is canonical (R154), infinities and zeros keep their sign, a finite value is rounded once. -/
def Fmt.encode (f : Fmt) (x : Fl) : Nat × Flags :=
  match x with
  | .nan => (f.nanCode, 0)
  | .inf s => (signBit f s + f.infCode, 0)
  | .fin s m e => if m = 0 then (signBit f s, 0) else f.round false s m e

/-- One rounding to a format, read back as a value. -/
def Fmt.rn (f : Fmt) (x : Fl) : Fl × Flags :=
  let r := f.encode x
  (f.decode r.1, r.2)

/-- One rounding to binary32. -/
def rn32 (x : Fl) : Fl × Flags := fmtF32.rn x

def Fl.isNan : Fl → Bool
  | .nan => true
  | _ => false

def Fl.isInf : Fl → Bool
  | .inf _ => true
  | _ => false

def Fl.isZero : Fl → Bool
  | .fin _ m _ => decide (m = 0)
  | _ => false

def Fl.sign : Fl → Bool
  | .nan => false
  | .inf s => s
  | .fin s _ _ => s

def Fl.neg : Fl → Fl
  | .nan => .nan
  | .inf s => .inf (!s)
  | .fin s m e => .fin (!s) m e

def Fl.abs : Fl → Fl
  | .nan => .nan
  | .inf _ => .inf false
  | .fin _ m e => .fin false m e

def Fl.zero (s : Bool) : Fl := .fin s 0 0

def Fl.one : Fl := .fin false 1 0

/-- `(-1)^s m` as an integer. -/
def signedNat (s : Bool) (m : Nat) : Int := if s then -(m : Int) else m

/-- An exact sum of two finite values; an exactly zero sum is +0 unless both are -0 (R163). -/
def addFin (s1 : Bool) (m1 : Nat) (e1 : Int) (s2 : Bool) (m2 : Nat) (e2 : Int) : Fl :=
  if m1 = 0 ∧ m2 = 0 then .fin (s1 && s2) 0 0
  else if m1 = 0 then .fin s2 m2 e2
  else if m2 = 0 then .fin s1 m1 e1
  else
    let e := min e1 e2
    let t := signedNat s1 (m1 * 2 ^ (e1 - e).toNat) + signedNat s2 (m2 * 2 ^ (e2 - e).toNat)
    if t = 0 then .fin false 0 0 else .fin (decide (t < 0)) t.natAbs e

/-- The exact sum, with invalid for the sum of opposite infinities (R163, R171). -/
def addExact (a b : Fl) : Fl × Flags :=
  match a, b with
  | .nan, _ => (.nan, 0)
  | _, .nan => (.nan, 0)
  | .inf s, .inf t => if s = t then (.inf s, 0) else (.nan, fInv)
  | .inf s, .fin _ _ _ => (.inf s, 0)
  | .fin _ _ _, .inf t => (.inf t, 0)
  | .fin s1 m1 e1, .fin s2 m2 e2 => (addFin s1 m1 e1 s2 m2 e2, 0)

/-- The exact product, with invalid for zero times an infinity (R171). -/
def mulExact (a b : Fl) : Fl × Flags :=
  match a, b with
  | .nan, _ => (.nan, 0)
  | _, .nan => (.nan, 0)
  | .inf s, .inf t => (.inf (xor s t), 0)
  | .inf s, .fin t m _ => if m = 0 then (.nan, fInv) else (.inf (xor s t), 0)
  | .fin s m _, .inf t => if m = 0 then (.nan, fInv) else (.inf (xor s t), 0)
  | .fin s1 m1 e1, .fin s2 m2 e2 => (.fin (xor s1 s2) (m1 * m2) (e1 + e2), 0)

/-- ADD, MUL and FMA in binary32: exact, then rounded once (R168, R176). -/
def add32 (a b : Fl) : Fl × Flags :=
  let x := addExact a b
  let y := rn32 x.1
  (y.1, x.2 ||| y.2)

def mul32 (a b : Fl) : Fl × Flags :=
  let x := mulExact a b
  let y := rn32 x.1
  (y.1, x.2 ||| y.2)

def fma32 (a b c : Fl) : Fl × Flags :=
  let p := mulExact a b
  let x := addExact p.1 c
  let y := rn32 x.1
  (y.1, p.2 ||| x.2 ||| y.2)

/-- Numeric order of two values neither NaN: whether `a < b`, with the zeros equal. -/
def Fl.lt (a b : Fl) : Bool :=
  match a, b with
  | .nan, _ => false
  | _, .nan => false
  | .inf s, .inf t => s && !t
  | .inf s, .fin _ _ _ => s
  | .fin _ _ _, .inf t => !t
  | .fin s1 m1 e1, .fin s2 m2 e2 =>
    let e := min e1 e2
    decide (signedNat s1 (m1 * 2 ^ (e1 - e).toNat) < signedNat s2 (m2 * 2 ^ (e2 - e).toNat))

/-- The order of MAX, MIN and ARGMAX: -0 below +0 (R170). -/
def Fl.ltZ (a b : Fl) : Bool :=
  a.lt b || (a.isZero && b.isZero && a.sign && !b.sign)

/-- MAX and MIN (R170). -/
def flMax (a b : Fl) : Fl := if a.isNan || b.isNan then .nan else if a.ltZ b then b else a

def flMin (a b : Fl) : Fl := if a.isNan || b.isNan then .nan else if b.ltZ a then b else a

/-- CMP by predicate number: 0 EQ, 1 NE, 2 LT, 3 LE, 4 GT, 5 GE (R95, R170). -/
def flCmp (pred : Nat) (a b : Fl) : Bool :=
  if a.isNan || b.isNan then decide (pred = 1)
  else
    match pred with
    | 0 => !(a.lt b) && !(b.lt a)
    | 1 => a.lt b || b.lt a
    | 2 => a.lt b
    | 3 => !(b.lt a)
    | 4 => b.lt a
    | _ => !(a.lt b)

def intCmp (pred : Nat) (a b : Int) : Bool :=
  match pred with
  | 0 => decide (a = b)
  | 1 => decide (a ≠ b)
  | 2 => decide (a < b)
  | 3 => decide (a ≤ b)
  | 4 => decide (b < a)
  | _ => decide (b ≤ a)

/-! ### Integer formats -/

/-- Two's complement reading of `bits` low bits. -/
def toSigned (bits w : Nat) : Int :=
  let v := w % 2 ^ bits
  if v < 2 ^ (bits - 1) then v else (v : Int) - 2 ^ bits

/-- The two's complement code of an integer. -/
def ofSigned (bits : Nat) (i : Int) : Nat := (i % (2 ^ bits : Int)).toNat

def intMax (bits : Nat) : Int := 2 ^ (bits - 1) - 1

def intMin (bits : Nat) : Int := -(2 ^ (bits - 1) : Int)

def clampInt (bits : Nat) (i : Int) : Int := max (intMin bits) (min (intMax bits) i)

def inRange (bits : Nat) (i : Int) : Bool := decide (intMin bits ≤ i) && decide (i ≤ intMax bits)

/-- An exact integer fitted into a format: clamped with SAT, its low bits kept without; overflow when the value changes (R164, R168, R171). -/
def fitInt (bits : Nat) (sat : Bool) (i : Int) : Int × Flags :=
  if inRange bits i then (i, 0)
  else (if sat then clampInt bits i else toSigned bits (ofSigned bits i), fOvf)

/-- A floating value converted to an integer format (R166). -/
def flToInt (bits : Nat) (x : Fl) : Int × Flags :=
  match x with
  | .nan => (0, fInv)
  | .inf s => (if s then intMin bits else intMax bits, fInv)
  | .fin s m e =>
    let r := rneShift m e
    let i := signedNat s r.1
    if inRange bits i then (i, if r.2 then fInx else 0) else (clampInt bits i, fInv)

/-- An integer as an exact floating value. -/
def intToFl (i : Int) : Fl := .fin (decide (i < 0)) i.natAbs 0

/-! ### The element formats by DTYPE (R82) -/

/-- The element of each DTYPE: a floating format, MXINT8, or an integer of a width. -/
inductive Elem
  | flt (f : Fmt)
  | mxint8
  | int (bits : Nat)
  deriving DecidableEq, Repr

def dF16 : Nat := 0x01
def dBf16 : Nat := 0x02
def dF32 : Nat := 0x03
def dInt8 : Nat := 0x20
def dInt4 : Nat := 0x21
def dInt32 : Nat := 0x22

/-- The element format of a DTYPE; none where the code is not of R82. -/
def elemOf (d : Nat) : Option Elem :=
  match d with
  | 0x01 => some (.flt fmtF16)
  | 0x02 => some (.flt fmtBf16)
  | 0x03 => some (.flt fmtF32)
  | 0x10 => some (.flt fmtE4m3)
  | 0x11 => some (.flt fmtE5m2)
  | 0x12 => some (.flt fmtE3m2)
  | 0x13 => some (.flt fmtE2m3)
  | 0x14 => some (.flt fmtE2m1)
  | 0x15 => some .mxint8
  | 0x20 => some (.int 8)
  | 0x21 => some (.int 4)
  | 0x22 => some (.int 32)
  | _ => none

/-- MX formats are DTYPE 0x10 to 0x15 (R155). -/
def isMX (d : Nat) : Bool := decide (0x10 ≤ d) && decide (d ≤ 0x15)

def isIntD (d : Nat) : Bool := decide (0x20 ≤ d) && decide (d ≤ 0x22)

/-- Floating class; MX formats count as floating (R95). -/
def isFloatD (d : Nat) : Bool := !isIntD d

/-- Bits of one element. -/
def elemBits (d : Nat) : Nat :=
  match d with
  | 0x01 => 16
  | 0x02 => 16
  | 0x03 => 32
  | 0x10 => 8
  | 0x11 => 8
  | 0x12 => 6
  | 0x13 => 6
  | 0x14 => 4
  | 0x15 => 8
  | 0x20 => 8
  | 0x21 => 4
  | _ => 32

/-- emax of R169. -/
def mxEmax (d : Nat) : Int :=
  match d with
  | 0x10 => 8
  | 0x11 => 15
  | 0x12 => 4
  | 0x13 => 2
  | 0x14 => 2
  | _ => 0

/-- One element's value: floating, or an exact integer. -/
inductive Val
  | fl (x : Fl)
  | int (i : Int)
  deriving DecidableEq, Repr

/-- An element without its block scale. -/
def elemRaw (d w : Nat) : Val :=
  match elemOf d with
  | some (.flt f) => .fl (f.decode w)
  | some .mxint8 =>
    let i := toSigned 8 w
    .fl (.fin (decide (i < 0)) i.natAbs (-6))
  | some (.int b) => .int (toSigned b w)
  | none => .int 0

/-- A value times a power of two, exactly. -/
def Fl.scale (x : Fl) (k : Int) : Fl :=
  match x with
  | .fin s m e => .fin s m (e + k)
  | y => y

/-- An element with its block's scale code (R155). -/
def elemVal (d w sc : Nat) : Val :=
  if isMX d then
    if sc = 0xFF then .fl .nan
    else
      match elemRaw d w with
      | .fl x => .fl (x.scale ((sc : Int) - 127))
      | v => v
  else elemRaw d w

def Val.toFl : Val → Fl
  | .fl x => x
  | .int i => intToFl i

def Val.toInt : Val → Int
  | .fl _ => 0
  | .int i => i

/-- A floating value widened to binary32 (R166). -/
def widen (v : Val) : Fl × Flags := rn32 v.toFl

/-- One value converted into a format other than MX (R166). `sat` is the rule for an integer result of integer class. -/
def convTo (d : Nat) (sat : Bool) (v : Val) : Nat × Flags :=
  match elemOf d, v with
  | some (.flt f), v => f.encode v.toFl
  | some (.int b), .fl x =>
    let r := flToInt b x
    (ofSigned b r.1, r.2)
  | some (.int b), .int i =>
    let r := fitInt b sat i
    (ofSigned b r.1, r.2)
  | _, _ => (0, 0)

/-! ### Conversion into an MX format (R169) -/

def flags {β : Type} (l : List (β × Flags)) : Flags := l.foldl (fun a p => a ||| p.2) 0

/-- The largest exponent among the finite nonzero values of a block. -/
def blockTop : List Fl → Option Int
  | [] => none
  | .fin _ m e :: xs =>
    if m = 0 then blockTop xs
    else
      match blockTop xs with
      | none => some (topExp m e)
      | some t => some (max (topExp m e) t)
  | _ :: xs => blockTop xs

/-- One element of a block with exponent `x`. MXINT8 has no smallest normal (R153), so none of its results is tiny. -/
def mxElem (d : Nat) (x : Int) (v : Fl) : Nat × Flags :=
  match v with
  | .fin s m e =>
    match elemOf d with
    | some (.flt f) => if m = 0 then (signBit f s, 0) else f.round true s m (e - x)
    | _ =>
      let r := rneShift m (e - x + 6)
      if 127 < r.1 then (ofSigned 8 (signedNat s 127), fOvf ||| fInx)
      else
        (ofSigned 8 (signedNat s r.1), if r.2 then fInx else 0)
  | _ => (0, 0)

/-- A block of source values: the scale code, the element codes and the flags. -/
def mxBlock (d : Nat) (xs : List Fl) : Nat × List Nat × Flags :=
  if xs.any (fun x => x.isNan || x.isInf) then
    (0xFF, xs.map (fun _ => 0), if xs.any Fl.isInf then fInv else 0)
  else
    match blockTop xs with
    | none => (0, xs.map (fun x => (mxElem d 0 x).1), 0)
    | some t =>
      let x := max (-127) (min 127 (t - mxEmax d))
      let r := xs.map (mxElem d x)
      ((x + 127).toNat, r.map (·.1), flags r)

end Sys2Proof.Machine
end

