-- ==== Sys2Proof/Machine/Curve.lean ====
section
/-! DEFINITION. The fourteen curve functions (R98, R186 to R190): exact and special results by the table of R187, every other result the correctly rounded FP32 value, computed in fixed point with far more bits than a rounding needs and a sticky bit below them. -/

namespace Sys2Proof.Machine

/-- ln 2 × 2^1400, rounded down. -/
def lnTwo : Nat := 0xb17217f7d1cf79abc9e3b39803f2f6af40f343267298b62d8a0d175b8baafa2be7b876206debac98559552fb4afa1b10ed2eae35c138214427573b291169b8253e96ca16224ae8c51acbda11317c387eb9ea9bc3b136603b256fa0ec7657f74b72ce87b19d6548caf5dfa6bd38303248655fa1872f20e3a2da2d97c50f3fd5c607f4ca11fb5bfb90610d30f88fe551a2ee569d6dfc1efa157d2e23de1400b39617460775db8990e5c943e732b479cd

/-- π × 2^1400, rounded down. -/
def piFix : Nat := 0x3243f6a8885a308d313198a2e03707344a4093822299f31d0082efa98ec4e6c89452821e638d01377be5466cf34e90c6cc0ac29b7c97c50dd3f84d5b5b54709179216d5d98979fb1bd1310ba698dfb5ac2ffd72dbd01adfb7b8e1afed6a267e96ba7c9045f12c7f9924a19947b3916cf70801f2e2858efc16636920d871574e69a458fea3f4933d7e0d95748f728eb658718bcd5882154aee7b54a41dc25a59b59c30d5392af26013c5d1b023286085

/-- (2/√π) × 2^1400, rounded down. -/
def twoOverSqrtPi : Nat := 0x120dd750429b6d11ae3a914fed7fd8688281341d7587cea2e7342b06199cc416180eb39f0b24e1e2281806c12d98f35d77a3e9ddc91c394f0e9eedf0efffd84a2a4ac3b98489b8cbd3845e8fef6ff6af92a45e5f27c2d6547a4f46505b5b4e62dd73fd6486de5e4e5585911777503638ea0ea96813d29a65a31a7d235b9fed80735a739f0cdba12c519a4d0308fceb248f76d1a1b6642fad251a58a530d43df05fad7bc33a90c79b03bcd7729e27b62

/-- A constant of 1,400 fraction bits cut to `p`. -/
def constAt (c p : Nat) : Nat := c / 2 ^ (1400 - p)

/-- An approximation `(-1)^s × m × 2^e` of a value that is not exact in FP32, rounded once with a sticky bit; inexact always, underflow below 2^-126 (R189). -/
def roundApprox (s : Bool) (m : Nat) (e : Int) : Nat × Flags :=
  let r := fmtF32.round false s (2 * m + 1) (e - 1)
  (r.1, (r.2 &&& fOvf) ||| fInx ||| (if r.1 % 0x80000000 < 0x800000 then fUnf else 0))

/-- An exact value: no flag but those of overflow (R189). -/
def roundExact (s : Bool) (m : Nat) (e : Int) : Nat × Flags := fmtF32.encode (.fin s m e)

/-- Newton's integer square root, rounded down. -/
def isqrtAux : Nat → Nat → Nat → Nat
  | 0, _, x => x
  | k + 1, n, x =>
    let y := (x + n / x) / 2
    if y < x then isqrtAux k n y else x

def isqrt (n : Nat) : Nat := if n = 0 then 0 else isqrtAux (Nat.log2 n + 8) n (2 ^ (Nat.log2 n / 2 + 1))

/-- The fraction bits used for an input of leading exponent `t`. -/
def curvePrec (base : Nat) (t : Int) : Nat := base + 4 * (-t).toNat

/-- Σ rⁿ/n! with `p` fraction bits. -/
def expTaylor (p r : Nat) : Nat → Nat → Nat → Nat → Nat
  | 0, _, _, acc => acc
  | k + 1, n, term, acc =>
    let t := term * r / 2 ^ p / n
    if t = 0 then acc else expTaylor p r k (n + 1) t (acc + t)

/-- e^(x/2^p) as (T, k): T × 2^(k - p). -/
def expFx (p : Nat) (x : Int) : Nat × Int :=
  let l : Int := constAt lnTwo p
  let k := x / l
  let r := (x - k * l).toNat
  (expTaylor p r 400 1 (2 ^ p) (2 ^ p), k)

/-- A magnitude in fixed point. -/
def fixOf (p m : Nat) (e : Int) : Nat := if -(p : Int) ≤ e then m * 2 ^ (e + p).toNat else m / 2 ^ (-(p : Int) - e).toNat

def signedFix (s : Bool) (p m : Nat) (e : Int) : Int := signedNat s (fixOf p m e)

/-- eˣ for a nonzero finite x. -/
def curveExp (s : Bool) (m : Nat) (e : Int) : Nat × Flags :=
  if 8 ≤ topExp m e then (if s then roundApprox false 1 (-300) else roundApprox false 1 300)
  else
    let p := curvePrec 256 (topExp m e)
    let r := expFx p (signedFix s p m e)
    roundApprox false r.1 (r.2 - p)

/-- Whether `m × 2^e` is an integer. -/
def isIntVal (m : Nat) (e : Int) : Bool := decide (0 ≤ e) || decide (m % 2 ^ (-e).toNat = 0)

/-- 2ˣ for a nonzero finite x. -/
def curveExp2 (s : Bool) (m : Nat) (e : Int) : Nat × Flags :=
  if 8 ≤ topExp m e then (if s then roundApprox false 1 (-300) else roundApprox false 1 300)
  else if isIntVal m e then
    let n := signedNat s (fixOf 0 m e)
    if -149 ≤ n ∧ n ≤ 127 then roundExact false 1 n else roundApprox false 1 (if n < 0 then -300 else 300)
  else
    let p := curvePrec 256 (topExp m e)
    let x := signedFix s p m e
    let k := x / 2 ^ p
    let f := (x - k * 2 ^ p).toNat
    let r := f * constAt lnTwo p / 2 ^ p
    roundApprox false (expTaylor p r 400 1 (2 ^ p) (2 ^ p)) (k - p)

/-- Σ z^(2n+1)/(2n+1). -/
def atanhSeries (p z2 : Nat) : Nat → Nat → Nat → Nat → Nat
  | 0, _, _, acc => acc
  | k + 1, n, term, acc =>
    let t := term * z2 / 2 ^ p
    if t = 0 then acc else atanhSeries p z2 k (n + 2) t (acc + t / n)

/-- ln of a positive value with `p` fraction bits. -/
def lnFx (p m : Nat) (e : Int) : Int :=
  let t := Nat.log2 m
  let f := fixOf p m (-(t : Int))
  let z := (f - 2 ^ p) * 2 ^ p / (f + 2 ^ p)
  let a := atanhSeries p (z * z / 2 ^ p) 400 3 z z
  2 * (a : Int) + (t + e) * constAt lnTwo p

def isPow2 (m : Nat) : Bool := decide (m = 2 ^ Nat.log2 m)

/-- A signed fixed-point approximation rounded. -/
def roundFx (x : Int) (e : Int) : Nat × Flags := roundApprox (decide (x < 0)) x.natAbs e

def curveLn (m : Nat) (e : Int) : Nat × Flags :=
  if isPow2 m ∧ topExp m e = 0 then (0, 0) else roundFx (lnFx 320 m e) (-320)

def curveLog2 (m : Nat) (e : Int) : Nat × Flags :=
  if isPow2 m then
    let n := topExp m e
    fmtF32.encode (intToFl n)
  else
    let x := lnFx 320 m e
    let q := signedNat (decide (x < 0)) (x.natAbs * 2 ^ 320 / constAt lnTwo 320)
    roundFx q (-320)

def curveRecip (s : Bool) (m : Nat) (e : Int) : Nat × Flags :=
  if isPow2 m then roundExact s 1 (-(topExp m e))
  else
    let t := Nat.log2 m
    roundApprox s (2 ^ (t + 128) / m) (-((t + 128 : Nat) : Int) - e)

def curveSqrt (m : Nat) (e : Int) : Nat × Flags :=
  let s : Nat := if (e % 2 = 0) then 128 else 129
  let n := m * 2 ^ s
  let r := isqrt n
  let q := (e - s) / 2
  if r * r = n then roundExact false r q else roundApprox false r q

def curveRsqrt (m : Nat) (e : Int) : Nat × Flags :=
  let t := topExp m e
  if isPow2 m ∧ t % 2 = 0 then roundExact false 1 (-(t / 2))
  else
    let m' := if e % 2 = 0 then m else 2 * m
    let e' := if e % 2 = 0 then e else e - 1
    roundApprox false (isqrt (2 ^ 400 / m')) (-200 - e' / 2)

/-- tanh of a positive value. -/
def curveTanh (s : Bool) (m : Nat) (e : Int) : Nat × Flags :=
  if 6 ≤ topExp m e then roundApprox s (2 ^ 200 - 1) (-200)
  else
    let p := curvePrec 256 (topExp m e)
    let r := expFx p (fixOf p m (e + 1))
    let a := r.1 * 2 ^ r.2.toNat
    roundApprox s ((a - 2 ^ p) * 2 ^ p / (a + 2 ^ p)) (-(p : Int))

/-- σ(x) as a magnitude and an exponent. -/
def sigmoidApprox (s : Bool) (m : Nat) (e : Int) : Nat × Int :=
  if 8 ≤ topExp m e then (if s then (1, -300) else (2 ^ 200 - 1, -200))
  else
    let p := curvePrec 448 (topExp m e)
    let r := expFx p (signedFix (!s) p m e)
    let a := if 0 ≤ r.2 then r.1 * 2 ^ r.2.toNat else r.1 / 2 ^ (-r.2).toNat
    (2 ^ (2 * p + 500) / (2 ^ p + a), -((p + 500 : Nat) : Int))

def curveSigmoid (s : Bool) (m : Nat) (e : Int) : Nat × Flags :=
  let r := sigmoidApprox s m e
  roundApprox false r.1 r.2

def curveSilu (s : Bool) (m : Nat) (e : Int) : Nat × Flags :=
  let r := sigmoidApprox s m e
  roundApprox s (m * r.1) (e + r.2)

/-- Σ 2ⁿ x^(2n+1)/(2n+1)!!. -/
def erfSeries (p x2 : Nat) : Nat → Nat → Nat → Nat → Nat
  | 0, _, _, acc => acc
  | k + 1, n, term, acc =>
    let t := term * (2 * x2) / 2 ^ p / n
    if t = 0 then acc else erfSeries p x2 k (n + 2) t (acc + t)

/-- erf of a positive fixed-point value below 16. -/
def erfFx (p x : Nat) : Nat :=
  let x2 := x * x / 2 ^ p
  let g := expFx p (-(x2 : Int))
  let s := erfSeries p x2 2000 3 x x
  let a := s * g.1 / 2 ^ p * constAt twoOverSqrtPi p / 2 ^ p
  if 0 ≤ g.2 then a * 2 ^ g.2.toNat else a / 2 ^ (-g.2).toNat

def curveErf (s : Bool) (m : Nat) (e : Int) : Nat × Flags :=
  if 3 ≤ topExp m e then roundApprox s (2 ^ 200 - 1) (-200)
  else
    let p := curvePrec 512 (topExp m e)
    roundApprox s (erfFx p (fixOf p m e)) (-(p : Int))

def curveGelu (s : Bool) (m : Nat) (e : Int) : Nat × Flags :=
  if 4 ≤ topExp m e then
    (if s then roundApprox true 1 (-300) else roundApprox false (m * (2 ^ 200 - 1)) (e - 200))
  else
    let p := curvePrec 704 (topExp m e)
    let x := fixOf p m e
    let f := erfFx p (isqrt (x * x / 2))
    let h := if s then 2 ^ p - f else 2 ^ p + f
    roundApprox s (m * h) (e - p - 1)

/-- Taylor sums of sine and cosine: the term of order n to that of order n + 2. -/
def trigTaylor (q : Nat) (r2 : Int) : Nat → Nat → Int → Int → Int
  | 0, _, _, acc => acc
  | k + 1, n, term, acc =>
    let t := -(term * r2 / 2 ^ q) / ((n + 1) * (n + 2) : Nat)
    trigTaylor q r2 k (n + 2) t (acc + t)

/-- sin (quadrant offset 0) or cos (1) of a positive value, as a signed fixed-point number and its fraction bits. -/
def trigFx (off m : Nat) (e : Int) : Int × Nat :=
  let p := curvePrec 256 (topExp m e)
  let q := p + 160
  let x := fixOf q m e
  let hp := constAt piFix (q - 1) 
  let k := x / hp
  let r : Int := ((x - k * hp : Nat) : Int)
  let r2 := r * r / 2 ^ q
  let sn := trigTaylor q r2 160 1 r r
  let cs := trigTaylor q r2 160 0 (2 ^ q) (2 ^ q)
  let v := match (k + off) % 4 with
    | 0 => sn
    | 1 => cs
    | 2 => -sn
    | _ => -cs
  (v, q)

def curveSin (s : Bool) (m : Nat) (e : Int) : Nat × Flags :=
  let r := trigFx 0 m e
  roundFx (if s then -r.1 else r.1) (-(r.2 : Int))

def curveCos (m : Nat) (e : Int) : Nat × Flags :=
  let r := trigFx 1 m e
  roundFx r.1 (-(r.2 : Int))

def posInf32 : Nat := fmtF32.infCode
def negInf32 : Nat := signBit fmtF32 true + fmtF32.infCode
def one32 : Nat := 0x3F800000
def negOne32 : Nat := 0xBF800000
def nan32 : Nat := fmtF32.nanCode
def negZero32 : Nat := signBit fmtF32 true

/-- f(±0) by R187. -/
def curveZero (fn : Nat) (s : Bool) : Nat :=
  let z := signBit fmtF32 s
  match fn with
  | 0x00 => one32
  | 0x01 => one32
  | 0x02 => negInf32
  | 0x03 => negInf32
  | 0x04 => if s then negInf32 else posInf32
  | 0x05 => z
  | 0x06 => if s then negInf32 else posInf32
  | 0x08 => 0x3F000000
  | 0x0C => one32
  | _ => z

/-- f(±∞) by R187, with its flags. -/
def curveInf (fn : Nat) (s : Bool) : Nat × Flags :=
  match fn with
  | 0x00 => (if s then 0 else posInf32, 0)
  | 0x01 => (if s then 0 else posInf32, 0)
  | 0x02 => if s then (nan32, fInv) else (posInf32, 0)
  | 0x03 => if s then (nan32, fInv) else (posInf32, 0)
  | 0x04 => (signBit fmtF32 s, 0)
  | 0x05 => if s then (nan32, fInv) else (posInf32, 0)
  | 0x06 => if s then (nan32, fInv) else (0, 0)
  | 0x07 => (if s then negOne32 else one32, 0)
  | 0x08 => (if s then 0 else one32, 0)
  | 0x09 => (if s then negZero32 else posInf32, 0)
  | 0x0A => (if s then negZero32 else posInf32, 0)
  | 0x0B => (nan32, fInv)
  | 0x0C => (nan32, fInv)
  | _ => (if s then negOne32 else one32, 0)

/-- f(x) of a nonzero finite x. -/
def curveFin (fn : Nat) (s : Bool) (m : Nat) (e : Int) : Nat × Flags :=
  match fn with
  | 0x00 => curveExp s m e
  | 0x01 => curveExp2 s m e
  | 0x02 => if s then (nan32, fInv) else curveLn m e
  | 0x03 => if s then (nan32, fInv) else curveLog2 m e
  | 0x04 => curveRecip s m e
  | 0x05 => if s then (nan32, fInv) else curveSqrt m e
  | 0x06 => if s then (nan32, fInv) else curveRsqrt m e
  | 0x07 => curveTanh s m e
  | 0x08 => curveSigmoid s m e
  | 0x09 => curveGelu s m e
  | 0x0A => curveSilu s m e
  | 0x0B => curveSin s m e
  | 0x0C => curveCos m e
  | _ => curveErf s m e

/-- One curve evaluation (R187, R189): the FP32 bits and the flags. -/
def curveEval (fn : Nat) (x : Fl) : Nat × Flags :=
  match x with
  | .nan => (nan32, 0)
  | .inf s => curveInf fn s
  | .fin s m e => if m = 0 then (curveZero fn s, 0) else curveFin fn s m e

/-- The same, read back as a value. -/
def curve32 (fn : Nat) (x : Fl) : Fl × Flags :=
  let r := curveEval fn x
  (fmtF32.decode r.1, r.2)

end Sys2Proof.Machine
end

