-- ==== Sys2Proof/Machine/Dpu.lean ====
section
/-! DEFINITION. Dot products as the matrix array forms them: chunk results in the alignment window (R159 to R162), the running sum (R163, R164), pair mode (R147, R148), the output stage (R128, R167), and the tally column's check of one vector (R140 to R145, R618, R619). -/

namespace Sys2Proof.Machine

/-- A list cut into pieces of `n`; the last may be shorter. -/
def chunksAux {β : Type} (n : Nat) : Nat → List β → List (List β)
  | 0, _ => []
  | _ + 1, [] => []
  | k + 1, l => l.take n :: chunksAux n k (l.drop n)

def chunks {β : Type} (n : Nat) (l : List β) : List (List β) := chunksAux n l.length l

/-- The product exponent of R159: the sum of the operands' leading-bit exponents; none for a zero, an infinity or NaN. -/
def prodExp (p : Fl × Fl) : Option Int :=
  match p with
  | (.fin _ m1 e1, .fin _ m2 e2) => if m1 = 0 ∨ m2 = 0 then none else some (topExp m1 e1 + topExp m2 e2)
  | _ => none

/-- E of R160: the largest product exponent among the finite nonzero products. -/
def windowTop : List (Fl × Fl) → Option Int
  | [] => none
  | p :: ps =>
    match prodExp p, windowTop ps with
    | none, t => t
    | some x, none => some x
    | some x, some t => some (max x t)

/-- A magnitude truncated toward zero to a multiple of `2^q`, in units of `2^q` (R160). -/
def truncTo (m : Nat) (e q : Int) : Nat :=
  if q ≤ e then m * 2 ^ (e - q).toNat else m / 2 ^ (q - e).toNat

/-- The truncated product as a signed count of `2^q`. -/
def prodTrunc (q : Int) (p : Fl × Fl) : Int :=
  match p with
  | (.fin s1 m1 e1, .fin s2 m2 e2) => signedNat (xor s1 s2) (truncTo (m1 * m2) (e1 + e2) q)
  | _ => 0

def isNegZeroProd (p : Fl × Fl) : Bool :=
  match mulExact p.1 p.2 with
  | (.fin s m _, _) => s && decide (m = 0)
  | _ => false

def isInfProd (s : Bool) (p : Fl × Fl) : Bool := decide ((mulExact p.1 p.2).1 = .inf s)

def isBadProd (p : Fl × Fl) : Bool := decide ((mulExact p.1 p.2).2 = fInv)

/-- The chunk result of the present products (R160 to R162), exact, with its invalid flag. -/
def chunkResult (ps : List (Fl × Fl)) : Fl × Flags :=
  let bad := ps.any isBadProd
  let pInf := ps.any (isInfProd false)
  let nInf := ps.any (isInfProd true)
  let inv : Flags := if bad || (pInf && nInf) then fInv else 0
  if bad || (pInf && nInf) || ps.any (fun p => p.1.isNan || p.2.isNan) then (.nan, inv)
  else if pInf then (.inf false, 0)
  else if nInf then (.inf true, 0)
  else
    match windowTop ps with
    | none => (.fin (!ps.isEmpty && ps.all isNegZeroProd) 0 0, 0)
    | some e =>
      let q := e - 26
      let t := (ps.map (prodTrunc q)).foldl (· + ·) 0
      if t = 0 then (.fin false 0 0, 0) else (.fin (decide (t < 0)) t.natAbs q, 0)

/-- One chunk result added into the FP32 running sum, rounded once (R163). -/
def accChunk (acc : Fl × Flags) (c : Fl × Flags) : Fl × Flags :=
  let r := add32 acc.1 c.1
  (r.1, acc.2 ||| c.2 ||| r.2)

/-- The running sum of a sequence of chunks in ascending order (R113, R126). -/
def accChunks (init : Fl × Flags) (cs : List (List (Fl × Fl))) : Fl × Flags :=
  (cs.map chunkResult).foldl accChunk init

/-- The width classes of R122. -/
inductive WidthClass
  | w4
  | w8
  | w16
  | pair
  deriving DecidableEq, Repr

/-- The chunk length of a class (R122). -/
def WidthClass.chunk : WidthClass → Nat
  | .w4 => 64
  | .w8 => 32
  | .w16 => 16
  | .pair => 16

/-- MXA_MISS_INFO.CLASS (R150). -/
def WidthClass.code : WidthClass → Nat
  | .w4 => 0
  | .w8 => 1
  | .w16 => 2
  | .pair => 3

/-- The class of one operand format (R122, R158). -/
def classOf (d : Nat) : WidthClass :=
  if d = 0x14 ∨ d = 0x21 then .w4 else if d = dF16 ∨ d = dBf16 then .w16 else if d = dF32 then .pair else .w8

/-- The class of a pass is that of its wider operand (R123). -/
def passClass (a b : Nat) : WidthClass :=
  match classOf a, classOf b with
  | .pair, _ => .pair
  | _, .pair => .pair
  | .w16, _ => .w16
  | _, .w16 => .w16
  | .w8, _ => .w8
  | _, .w8 => .w8
  | .w4, .w4 => .w4

/-- The two halves of an FP32 value (R147): 12 leading significand bits, and the next 12. DEDUCED (log entry 53): a low half with leading zeros takes part as the number it stands for, with the exponent of its own leading bit. -/
def halves (x : Fl) : Fl × Fl :=
  match x with
  | .nan => (.nan, .fin false 0 0)
  | .inf s => (.inf s, .fin s 0 0)
  | .fin s m e =>
    if m = 0 then (.fin s 0 0, .fin s 0 0)
    else
      let t := topExp m e
      let h := truncTo m e (t - 11)
      let w := truncTo m e (t - 23)
      (.fin s h (t - 11), .fin s (w - h * 2 ^ 12) (t - 23))

/-- The three sub-chunks of one pair-mode chunk (R148). -/
def subChunks (ps : List (Fl × Fl)) : List (List (Fl × Fl)) :=
  [ps.map (fun p => ((halves p.1).1, (halves p.2).1)),
   ps.map (fun p => ((halves p.1).1, (halves p.2).2)),
   ps.map (fun p => ((halves p.1).2, (halves p.2).1))]

/-- The K sequence cut into the chunks that the array's rows hold, in order (R113, R126, R148). -/
def kChunks (c : WidthClass) (ps : List (Fl × Fl)) : List (List (Fl × Fl)) :=
  match c with
  | .pair => ((chunks 16 ps).map subChunks).flatten
  | _ => chunks c.chunk ps

/-- The floating dot product from a running sum (R163). -/
def dotFrom (c : WidthClass) (init : Fl × Flags) (ps : List (Fl × Fl)) : Fl × Flags := accChunks init (kChunks c ps)

def dotFl (c : WidthClass) (ps : List (Fl × Fl)) : Fl × Flags := dotFrom c (.fin false 0 0, 0) ps

def chunkInt (ps : List (Int × Int)) : Int := ps.foldl (fun a p => a + p.1 * p.2) 0

/-- The integer running sum: each exact total fitted into INT32 (R164). -/
def accInt (sat : Bool) (acc : Int × Flags) (c : Int) : Int × Flags :=
  let r := fitInt 32 sat (acc.1 + c)
  (r.1, acc.2 ||| r.2)

def dotInt (sat : Bool) (c : WidthClass) (init : Int × Flags) (ps : List (Int × Int)) : Int × Flags :=
  ((chunks c.chunk ps).map chunkInt).foldl (accInt sat) init

/-! ### The output stage (R128, R167) -/

/-- SCALE, then ACCUM, for a floating sum: each step one rounding to FP32. -/
def outStageFl (scale : Option Fl) (c : Option Fl) (x : Fl × Flags) : Fl × Flags :=
  let y : Fl × Flags :=
    match scale with
    | none => x
    | some k =>
      let r := mul32 x.1 k
      (r.1, x.2 ||| r.2)
  match c with
  | none => y
  | some v =>
    let r := add32 y.1 v
    (r.1, y.2 ||| r.2)

/-! ### The tally check of one vector -/

/-- What the checker decides for a vector: accepted, not compared (R144), accepted on pass increments (R142), or a mismatch with the values of MXA_MISS_DIFF and MXA_MISS_BOUND. -/
inductive TallyResult
  | accept
  | skip
  | sat
  | miss (diff bound : Nat)
  deriving DecidableEq, Repr

def sum32 (xs : List Fl) : Fl := xs.foldl (fun a x => (add32 a x).1) (.fin false 0 0)

/-- The tally weights of one row: the FP32 sums of its columns' weights, position by position, in ascending logical column order (R140). -/
def tallyWeights (f : Fl → Fl) (n : Nat) (cols : List (List Fl)) : List Fl :=
  (List.range n).map (fun j => sum32 (cols.map (fun c => f (c.getD j (.fin false 0 0)))))

/-- The bound of R143 in FP32: 2^-TOL × (Mag + Σ|in_c|). DESIGN CHOICE (log entry 21): the sums of the bound, the bound and |S - T| are rounded to FP32 step by step; R143 names roundings for S alone. -/
def tallyBound (tol : Nat) (mag : Fl) (ins : List Fl) : Fl :=
  (rn32 ((add32 mag (sum32 (ins.map Fl.abs))).1.scale (-(tol : Int)))).1

/-- The check of a floating vector (R141, R143, R144, R618): `act` the activation chunks, `cols` each column's chunks, `ins` and `outs` the running sums entering and leaving. -/
def tallyFl (tol : Nat) (act : List (List Fl)) (cols : List (List (List Fl))) (ins outs : List Fl) : TallyResult :=
  let row (f : Fl → Fl) (r : Nat) : List (Fl × Fl) :=
    let a := (act.getD r []).map f
    a.zip (tallyWeights f a.length (cols.map (fun c => c.getD r [])))
  let acc (f : Fl → Fl) : Fl :=
    (((List.range act.length).map (fun r => chunkResult (row f r))).foldl accChunk (.fin false 0 0, 0)).1
  let t := acc id
  let mag := acc Fl.abs
  let s := sum32 ((outs.zip ins).map (fun p => (add32 p.1 p.2.neg).1))
  let finite (x : Fl) : Bool := !(x.isNan || x.isInf)
  if !(outs.all finite && finite t && finite mag) then .skip
  else
    let d := (add32 s t.neg).1.abs
    let b := tallyBound tol mag ins
    if b.lt d then .miss (fmtF32.encode d).1 (fmtF32.encode b).1 else .accept

/-- The check of an integer vector (R142): `incs` the exact pass increments, `satd` which columns saturated. A column's output that is not what its in_c and its increment make is always a mismatch (R619). DESIGN CHOICE (log entry 22): MXA_MISS_DIFF is |S - T| over the exact sum of out_c - in_c in either mode. -/
def tallyInt (t : Int) (ins outs incs : List Int) (sat : Bool) (satd : List Bool) : TallyResult :=
  let diff := ((outs.zip ins).map (fun p => p.1 - p.2)).foldl (· + ·) 0
  let gap (x : Int) : Nat := min (x - t).natAbs (2 ^ 32 - 1)
  if sat && satd.any id then
    let limits := ((ins.zip incs).zip (outs.zip satd)).all
      (fun p => decide (p.2.1 = if p.2.2 then clampInt 32 (p.1.1 + p.1.2) else p.1.1 + p.1.2))
    if decide (t = incs.foldl (· + ·) 0) && limits then .sat else .miss (gap diff) 0
  else if (diff - t) % 2 ^ 32 = 0 then .accept
  else .miss (gap diff) 0

/-- The running sums that enter and leave each pass of an accumulation (R124, R126, R618), `alter` acting on the sum that leaves pass `f` (R619). -/
def passSums {σ γ : Type} (step : σ → γ → σ) (alter : σ → σ) (init : σ) : List (List γ) → Option Nat → List (σ × σ)
  | [], _ => []
  | l :: rest, f =>
    let o := l.foldl step init
    match f with
    | some 0 => (init, alter o) :: passSums step alter (alter o) rest none
    | some (k + 1) => (init, o) :: passSums step alter o rest (some k)
    | none => (init, o) :: passSums step alter o rest none

/-- The sum that the last pass leaves. -/
def lastSum {σ : Type} (init : σ) (l : List (σ × σ)) : σ := match l.getLast? with | some p => p.2 | none => init

/-- Bit 12 of an FP32 running sum flipped (R619). -/
def flip12 (x : Fl) : Fl := fmtF32.decode (((BitVec.ofNat 32 (fmtF32.encode x).1) ^^^ 0x1000#32).toNat)

def flip12Int (i : Int) : Int := toSigned 32 (((BitVec.ofNat 32 (ofSigned 32 i)) ^^^ 0x1000#32).toNat)

end Sys2Proof.Machine
end

