-- ==== Sys2Proof/Machine/Crc.lean ====
section
/-! DEFINITION. CRC-32C, the check value of images (R77), records and every grain tag (R2), and the byte helpers of little-endian fields (R10). -/

namespace Sys2Proof.Machine

/-- A little-endian number from its bytes (R10). -/
def leNat : List U8 → Nat
  | [] => 0
  | b :: bs => b.toNat + 256 * leNat bs

/-- The `n` little-endian bytes of a number (R10). -/
def leBytes : Nat → Nat → List U8
  | 0, _ => []
  | n + 1, v => BitVec.ofNat 8 v :: leBytes n (v / 256)

/-- One bit of the reflected CRC-32C (polynomial 0x1EDC6F41). -/
def crcBit (c : Nat) : Nat := if c % 2 = 1 then Nat.xor (c / 2) 0x82F63B78 else c / 2

def crcByte (c : Nat) (b : U8) : Nat :=
  crcBit (crcBit (crcBit (crcBit (crcBit (crcBit (crcBit (crcBit (Nat.xor c b.toNat))))))))

/-- `k n`, with `n` worked out first: evaluation goes step by step instead of piling up. -/
def force {α : Type} (n : Nat) (k : Nat → α) : α :=
  match n with
  | 0 => k 0
  | m + 1 => k (m + 1)

/-- The register after a byte string. -/
def crcRun (c : Nat) : List U8 → Nat
  | [] => c
  | b :: bs => force (crcByte c b) (fun x => crcRun x bs)

/-- CRC-32C of a byte string: all-ones start, reflected, complemented. -/
def crc32c (bs : List U8) : U32 := BitVec.ofNat 32 (Nat.xor (crcRun 0xFFFFFFFF bs) 0xFFFFFFFF)

/-- The grain tag of an all-zero 2 KiB block (R216): the CRC-32C of 2,048 zero bytes. -/
def zeroTag : U32 := 0xA489834F#32

end Sys2Proof.Machine
end

