-- ==== Sys2Proof/Machine/Tensors.lean ====
section
/-! DEFINITION. Stored tensors: the dense layout of R83, the packing of MX and INT4 rows (R155, R156), reading an element, and forming the bytes of a range of a tensor's storage from the results of its rows. -/

namespace Sys2Proof.Machine

/-- A dense tensor in memory: DTYPE, extents (innermost last) and the device address of its first byte. -/
structure TView where
  d : Nat
  exts : List Nat
  addr : Nat
  deriving DecidableEq, Repr

def prodL (l : List Nat) : Nat := l.foldl (· * ·) 1

def roundUp (n k : Nat) : Nat := (n + k - 1) / k * k

/-- The packed bytes of an innermost row of `n` elements: element bytes, then scale bytes (R156). -/
def packedRow (d n : Nat) : Nat := n * elemBits d / 8 + (if isMX d then n / 32 else 0)

/-- Bytes from one innermost row to the next (R83). -/
def rowPitch (d n : Nat) : Nat := roundUp (packedRow d n) 64

/-- The innermost extent. -/
def inner (exts : List Nat) : Nat := exts.getLastD 1

/-- The number of innermost rows. -/
def rowCount (exts : List Nat) : Nat := prodL exts.dropLast

/-- The footprint of a dense tensor (R83). -/
def footprint (d : Nat) (exts : List Nat) : Nat := roundUp (rowCount exts * rowPitch d (inner exts)) 2048

def TView.bytes (v : TView) : Nat := footprint v.d v.exts

/-- Row-major index from a multi-index. -/
def flattenIdx (exts idx : List Nat) : Nat := (exts.zip idx).foldl (fun a p => a * p.1 + p.2) 0

/-- Multi-index from a row-major index, by extents taken innermost first. -/
def unflattenRev : List Nat → Nat → List Nat
  | [], _ => []
  | e :: es, i => (if e = 0 then 0 else i % e) :: unflattenRev es (if e = 0 then 0 else i / e)

def unflattenIdx (exts : List Nat) (i : Nat) : List Nat := (unflattenRev exts.reverse i).reverse

/-- The broadcasting of R616: the operand index that a result index reads, the operand's leading axes taken as extent 1. -/
def bcastIdx (opExts idx : List Nat) : List Nat :=
  (opExts.zip (idx.drop (idx.length - opExts.length))).map (fun p => if p.1 = 1 then 0 else p.2)

/-- `bits` bits from a bit offset of a little-endian byte string. -/
def bitsAt (rd : Nat → U8) (base off bits : Nat) : Nat :=
  leNat ((List.range 5).map (fun i => rd (base + off / 8 + i))) / 2 ^ (off % 8) % 2 ^ bits

/-- The element code at row `r`, column `c`. -/
def TView.code (v : TView) (rd : Nat → U8) (r c : Nat) : Nat :=
  bitsAt rd (v.addr + r * rowPitch v.d (inner v.exts)) (c * elemBits v.d) (elemBits v.d)

/-- The scale code of the block that holds column `c` of row `r` (R156). -/
def TView.scaleCode (v : TView) (rd : Nat → U8) (r c : Nat) : Nat :=
  (rd (v.addr + r * rowPitch v.d (inner v.exts) + inner v.exts * elemBits v.d / 8 + c / 32)).toNat

/-- The element at row `r`, column `c` (R155). -/
def TView.at (v : TView) (rd : Nat → U8) (r c : Nat) : Val :=
  elemVal v.d (v.code rd r c) (if isMX v.d then v.scaleCode rd r c else 0)

/-- The element at a row-major index. -/
def TView.get (v : TView) (rd : Nat → U8) (i : Nat) : Val :=
  if inner v.exts = 0 then .int 0 else v.at rd (i / inner v.exts) (i % inner v.exts)

/-- The element at a multi-index. -/
def TView.idx (v : TView) (rd : Nat → U8) (ix : List Nat) : Val := v.get rd (flattenIdx v.exts ix)

/-- Element codes packed into bytes, element 0 in the lowest bits (R156). -/
def packCodes (bits : Nat) (codes : List Nat) : List U8 :=
  leBytes (codes.length * bits / 8) (codes.foldr (fun c a => c + 2 ^ bits * a) 0)

def blocks32 {β : Type} : Nat → List β → List (List β)
  | 0, _ => []
  | k + 1, l => l.take 32 :: blocks32 k (l.drop 32)

/-- One row of results as its packed bytes, with the flags of the conversion (R166, R169). -/
def rowToBytes (d : Nat) (sat : Bool) (vals : List (Val × Flags)) : List U8 × Flags :=
  if isMX d then
    let bs := (blocks32 (vals.length / 32) (vals.map (fun p => p.1.toFl))).map (mxBlock d)
    (packCodes (elemBits d) (bs.map (fun b => b.2.1)).flatten ++ bs.map (fun b => BitVec.ofNat 8 b.1),
      flags vals ||| (bs.map (fun b => b.2.2)).foldl (· ||| ·) 0)
  else
    let cs := vals.map (fun p => convTo d sat p.1)
    (packCodes (elemBits d) (cs.map (·.1)), flags vals ||| flags cs)

/-- The writes of one row that fall into `[lo, hi)` of the tensor's storage: bytes of elements only, never the padding of a row (R185). -/
def rowWrites (v : TView) (sat : Bool) (rowF : Nat → List (Val × Flags)) (lo hi r : Nat) : List (Nat × List U8) × Flags :=
  let n := inner v.exts
  let rs := r * rowPitch v.d n
  let a := max lo rs
  let b := min hi (rs + packedRow v.d n)
  if b ≤ a then ([], 0)
  else if isMX v.d then
    let x := rowToBytes v.d sat (rowF r)
    ([(v.addr + a, (x.1.drop (a - rs)).take (b - a))], x.2)
  else
    let bits := elemBits v.d
    let c0 := (a - rs) * 8 / bits
    let c1 := (b - rs) * 8 / bits
    let x := rowToBytes v.d sat (((rowF r).drop c0).take (c1 - c0))
    ([(v.addr + a, x.1)], x.2)

/-- The writes that form bytes `[lo, hi)` of a tensor's storage, with the flags they raise. -/
def rangeWrites (v : TView) (sat : Bool) (rowF : Nat → List (Val × Flags)) (lo hi : Nat) : List (Nat × List U8) × Flags :=
  let p := rowPitch v.d (inner v.exts)
  if p = 0 ∨ hi ≤ lo then ([], 0)
  else
    let r0 := lo / p
    let r1 := min (rowCount v.exts) ((hi - 1) / p + 1)
    ((List.range (r1 - r0)).map (fun i => rowWrites v sat rowF lo hi (r0 + i))).foldl
      (fun a w => (a.1 ++ w.1, a.2 ||| w.2)) ([], 0)

end Sys2Proof.Machine
end

