-- ==== Sys2Proof/Machine/Eval.lean ====
section
/-! DEFINITION. What the compute nodes of R95 compute, one innermost output row at a time, in the canonical orders of R113: MATMUL, ELEMENTWISE, CURVE, REDUCE and COPY. A row is the values before their conversion into the output's format, with the flags raised so far. -/

namespace Sys2Proof.Machine

abbrev RowF := Nat → List (Val × Flags)

/-- Operation codes (R95). -/
def opMatmul : Nat := 0x01
def opElementwise : Nat := 0x02
def opCurve : Nat := 0x03
def opAttention : Nat := 0x04
def opReduce : Nat := 0x05
def opCopy : Nat := 0x06
def opCollective : Nat := 0x07
def opUpdate : Nat := 0x08
def opShadow : Nat := 0x09
def opPhase : Nat := 0x0A

def nflag (n : GNode) (b : Nat) : Bool := decide (n.nflags / 2 ^ b % 2 = 1)

/-- The attribute byte at an offset. -/
def GNode.attrByte (n : GNode) (o : Nat) : Nat := n.attr.getD o 0

/-- A little-endian attribute field of `k` bytes. -/
def GNode.attrLe (n : GNode) (o k : Nat) : Nat :=
  (List.range k).foldl (fun a i => a + n.attrByte (o + i) * 256 ^ i) 0

def imm32 (w : Nat) : Fl := fmtF32.decode w

def dummyView : TView := ⟨0, [], 0⟩

def viewAt (l : List TView) (i : Nat) : TView := l.getD i dummyView

/-! ### MATMUL -/

/-- Where an injected flip acts (R619): the output row, the tile by its first column and how many it holds, the logical column of the array within it, and the pass of the accumulation. In an attention sequencer's firing pass 0 is a product of the row with keys, `col0` the first key, and pass `b + 1` the pass of block `b`'s weights into o. -/
structure Flip where
  row : Nat
  col0 : Nat
  cols : Nat
  off : Nat
  pass : Nat
  /-- Which product of an ATTENTION BACKWARD it is (1 to 7, as `BackPass` numbers them); 0 elsewhere. -/
  kind : Nat
  deriving DecidableEq, Repr

/-- The pass after which the flip alters the running sum of an output element. -/
def Flip.passAt (f : List Flip) (r c : Nat) : Option Nat :=
  (f.find? (fun x => decide (x.row = r) && decide (x.col0 + x.off = c) && decide (x.off < x.cols))).map (·.pass)

/-- The logical column of a vector that a flip alters in one tile of one pass, weights or none in it. -/
def Flip.lane (f : List Flip) (r col0 pass : Nat) : Option Nat :=
  (f.find? (fun x => decide (x.row = r) && decide (x.col0 = col0) && decide (x.pass = pass))).map (·.off)

/-- The K operand pairs of output element `n` of row `r`: the row of A and the column of B, batch axes broadcast (R616). -/
def matPairs (rd : Nat → U8) (a b : TView) (outExts : List Nat) (r n : Nat) : List (Val × Val) :=
  let k := inner a.exts
  let row := unflattenIdx outExts.dropLast r
  let batch := row.dropLast
  let m := row.getLastD 0
  let ab := bcastIdx a.exts.dropLast.dropLast batch
  let bb := bcastIdx b.exts.dropLast.dropLast batch
  (List.range k).map (fun i => (a.idx rd (ab ++ [m, i]), b.idx rd (bb ++ [i, n])))

/-- One MATMUL element: the accumulation, then SCALE, then ACCUM (R113, R128, R163, R164, R167). `flip` names the pass whose sum is altered (R619). -/
def matElem (rd : Nat → U8) (nd : GNode) (a b : TView) (c : Option TView) (outExts : List Nat) (flip : Option Nat) (r n : Nat) :
    Val × Flags :=
  let ps := matPairs rd a b outExts r n
  let cls := passClass a.d b.d
  let row := unflattenIdx outExts.dropLast r
  let cv : Option Val := c.map (fun t => t.idx rd (bcastIdx t.exts.dropLast.dropLast row.dropLast ++ [row.getLastD 0, n]))
  let sat := nflag nd 0
  let scale : Option Fl := if nflag nd 3 then some (imm32 nd.imm0) else none
  if isIntD a.d then
    let cs := (chunks cls.chunk (ps.map (fun p => (p.1.toInt, p.2.toInt)))).map chunkInt
    let s := lastSum (0, 0) (passSums (accInt sat) (fun x => (flip12Int x.1, x.2)) (0, 0) (chunks 32 cs) flip)
    match scale with
    | none =>
      match cv with
      | none => (.int s.1, s.2)
      | some v =>
        let t := accInt sat s v.toInt
        (.int t.1, t.2)
    | some k =>
      let x := rn32 (intToFl s.1)
      let y := outStageFl (some k) (cv.map Val.toFl) (x.1, s.2 ||| x.2)
      (.fl y.1, y.2)
  else
    let cs := (kChunks cls (ps.map (fun p => (p.1.toFl, p.2.toFl)))).map chunkResult
    let s := lastSum (.fin false 0 0, 0) (passSums accChunk (fun x => (flip12 x.1, x.2)) (.fin false 0 0, 0) (chunks 32 cs) flip)
    let y := outStageFl scale (cv.map Val.toFl) s
    (.fl y.1, y.2)

def matRow (rd : Nat → U8) (nd : GNode) (ins : List TView) (out : TView) (flip : List Flip) : RowF := fun r =>
  let c := if nflag nd 1 then some (viewAt ins 2) else none
  (List.range (inner out.exts)).map (fun n =>
    matElem rd nd (viewAt ins 0) (viewAt ins 1) c out.exts (Flip.passAt flip r n) r n)

/-! ### ELEMENTWISE -/

/-- An operand of an ELEMENTWISE node at a result index: a port's element, broadcast, or an immediate (R180, R616). -/
def ewOperand (rd : Nat → U8) (ins : List TView) (port : Option Nat) (imm : Nat) (int : Bool) (ix : List Nat) : Val :=
  match port with
  | some p =>
    let v := viewAt ins p
    v.idx rd (bcastIdx v.exts ix)
  | none => if int then .int (toSigned 32 imm) else .fl (imm32 imm)

def boolVal (int b : Bool) : Val := if int then .int (if b then 1 else 0) else .fl (if b then .one else .zero false)

/-- SELECT's reading of its condition (R182). -/
def valTrue : Val → Bool
  | .int i => decide (i ≠ 0)
  | .fl x => !x.isZero

/-- The integer class of the operands an ELEMENTWISE node computes on (R181): that of its b and c for SELECT, of its operands otherwise. -/
def ewIntClass (nd : GNode) (ins : List TView) (outD : Nat) : Bool :=
  if nd.sub = 4 then
    (if !nflag nd 1 then isIntD (viewAt ins 1).d
     else if !nflag nd 2 then isIntD (viewAt ins 1).d
     else isIntD outD)
  else isIntD (viewAt ins 0).d

/-- One ELEMENTWISE result (R168, R179, R182, R183). -/
def ewElem (nd : GNode) (int : Bool) (a b c : Val) (outInt : Bool) : Val × Flags :=
  let pred := nd.nflags / 16 % 8
  if int then
    let x := a.toInt
    let y := b.toInt
    let z := c.toInt
    match nd.sub with
    | 0 => (.int (x + y), 0)
    | 1 => (.int (x * y), 0)
    | 2 => (.int (x * y + z), 0)
    | 3 => (boolVal outInt (intCmp pred x y), 0)
    | 4 => (if valTrue a then b else c, 0)
    | 5 => (.int (min x y), 0)
    | _ => (.int (max x y), 0)
  else if nd.sub = 4 then (if valTrue a then b else c, 0)
  else
    let wa := widen a
    let wb := widen b
    let wc := widen c
    let w2 := wa.2 ||| wb.2
    match nd.sub with
    | 0 => let r := add32 wa.1 wb.1; (.fl r.1, w2 ||| r.2)
    | 1 => let r := mul32 wa.1 wb.1; (.fl r.1, w2 ||| r.2)
    | 2 => let r := fma32 wa.1 wb.1 wc.1; (.fl r.1, w2 ||| wc.2 ||| r.2)
    | 3 => (boolVal outInt (flCmp pred wa.1 wb.1), w2)
    | 5 => (.fl (flMin wa.1 wb.1), w2)
    | _ => (.fl (flMax wa.1 wb.1), w2)

def ewRow (rd : Nat → U8) (nd : GNode) (ins : List TView) (out : TView) : RowF := fun r =>
  let int := ewIntClass nd ins out.d
  let immB := nflag nd 1
  let immC := nflag nd 2
  let portB : Option Nat := if immB then none else some 1
  let portC : Option Nat := if immC then none else some (if immB then 1 else 2)
  let useC := decide (nd.sub = 2 ∨ nd.sub = 4)
  (List.range (inner out.exts)).map (fun c =>
    let ix := unflattenIdx out.exts.dropLast r ++ [c]
    ewElem nd int (ewOperand rd ins (some 0) 0 int ix) (ewOperand rd ins portB nd.imm0 int ix)
      (if useC then ewOperand rd ins portC nd.imm1 int ix else .int 0) (isIntD out.d))

/-! ### CURVE -/

/-- One curve lane (R186): its result, the flags of widening its input, and those of the SCALE step and the evaluation, which enter the instruction's summary (R190). -/
def curveLane (nd : GNode) (v : Val) : Val × Flags × Flags :=
  let w := widen v
  let x : Fl × Flags := if nflag nd 3 then mul32 w.1 (imm32 nd.imm0) else (w.1, 0)
  let y := curve32 nd.sub x.1
  (.fl y.1, w.2, x.2 ||| y.2)

def curveElem (nd : GNode) (v : Val) : Val × Flags := let l := curveLane nd v; (l.1, l.2.1 ||| l.2.2)

def curveRow (rd : Nat → U8) (nd : GNode) (ins : List TView) (out : TView) : RowF := fun r =>
  (List.range (inner out.exts)).map (fun c => curveElem nd ((viewAt ins 0).get rd (r * inner out.exts + c)))

/-! ### REDUCE -/

/-- Pairs combined level by level, each sum rounded to FP32 (R113, R196). -/
def pairTree : Nat → List Fl → Fl × Flags
  | 0, l => (l.headD (.zero false), 0)
  | k + 1, l =>
    let rec level : List Fl → List (Fl × Flags)
      | [] => []
      | [x] => [(x, 0)]
      | x :: y :: t => add32 x y :: level t
    let q := level l
    let r := pairTree k (q.map (·.1))
    (r.1, flags q ||| r.2)

/-- The elements of partial `p` of 64, in ascending order (R113). -/
def strided {β : Type} (p : Nat) (l : List β) : List β :=
  ((l.zip (List.range l.length)).filter (fun x => decide (x.2 % 64 = p))).map (·.1)

/-- REDUCE SUM and SUMSQ of floating values (R113). -/
def reduceSumFl (sq : Bool) (xs : List Fl) : Fl × Flags :=
  let part (p : Nat) : Fl × Flags := (strided p xs).foldl
    (fun a x => let r := if sq then fma32 x x a.1 else add32 a.1 x; (r.1, a.2 ||| r.2)) (.zero false, 0)
  let ps := (List.range 64).map part
  let t := pairTree 6 (ps.map (·.1))
  (t.1, flags ps ||| t.2)

/-- The order of ARGMAX: NaN above every number, -0 below +0 (R170). -/
def argLess (a b : Val) : Bool :=
  match a, b with
  | .int x, .int y => decide (x < y)
  | .fl .nan, _ => false
  | _, .fl .nan => true
  | .fl x, .fl y => x.ltZ y
  | _, _ => false

/-- The index of the first largest value (R95). -/
def argMax (vs : List Val) : Nat :=
  match vs with
  | [] => 0
  | v :: t => (t.foldl (fun (s : Nat × Nat × Val) x =>
      if argLess s.2.2 x then (s.1 + 1, s.1 + 1, x) else (s.1 + 1, s.2.1, s.2.2)) (0, 0, v)).2.1

/-- The values a REDUCE result takes in, in row-major order of the reduced axes. -/
def reduceInputs (rd : Nat → U8) (x : TView) (axes keep : Nat) (outIx : List Nat) : List Val :=
  let isRed (i : Nat) : Bool := decide (axes / 2 ^ i % 2 = 1)
  let rank := x.exts.length
  let redExts := ((List.range rank).filter isRed).map (fun i => x.exts.getD i 1)
  let keptPos (i : Nat) : Nat := if keep = 1 then i else ((List.range i).filter (fun j => !isRed j)).length
  let redPos (i : Nat) : Nat := ((List.range i).filter isRed).length
  (List.range (prodL redExts)).map (fun j =>
    let rix := unflattenIdx redExts j
    x.idx rd ((List.range rank).map (fun i => if isRed i then rix.getD (redPos i) 0 else outIx.getD (keptPos i) 0)))

def reduceElem (nd : GNode) (int : Bool) (vs : List Val) : Val × Flags :=
  let is := vs.map Val.toInt
  if nd.sub = 4 then (.int (argMax vs), 0)
  else if int then
    match nd.sub with
    | 0 => (.int (is.foldl (· + ·) 0), 0)
    | 3 => (.int (is.foldl (fun a x => a + x * x) 0), 0)
    | 1 => (.int (is.foldl max (is.headD 0)), 0)
    | _ => (.int (is.foldl min (is.headD 0)), 0)
  else
    let ws := vs.map widen
    let fs := ws.map (·.1)
    match nd.sub with
    | 0 => let r := reduceSumFl false fs; (.fl r.1, flags ws ||| r.2)
    | 3 => let r := reduceSumFl true fs; (.fl r.1, flags ws ||| r.2)
    | 1 => (.fl (fs.foldl flMax (fs.headD (.inf true))), flags ws)
    | _ => (.fl (fs.foldl flMin (fs.headD (.inf false))), flags ws)

def reduceRow (rd : Nat → U8) (nd : GNode) (ins : List TView) (out : TView) : RowF := fun r =>
  let x := viewAt ins 0
  (List.range (inner out.exts)).map (fun c =>
    reduceElem nd (isIntD x.d)
      (reduceInputs rd x (nd.attrByte 0) (nd.attrByte 1) (unflattenIdx out.exts.dropLast r ++ [c])))

/-! ### COPY -/

def copyPerm (nd : GNode) (i : Nat) : Nat := nd.attrByte i
def copyAxis (nd : GNode) : Nat := nd.attrByte 6
def copyFill (nd : GNode) : Nat := nd.attrLe 8 4

/-- The index element at a position, as INT32. -/
def indexAt (rd : Nat → U8) (ix : TView) (j : Nat) : Int := (ix.get rd j).toInt

/-- Whether an index element lies outside 0 to `ext - 1` (R259, R260). -/
def oob (ext : Nat) (i : Int) : Bool := decide (i < 0) || decide ((ext : Int) ≤ i)

/-- The source index of a TRANSPOSE result: output axis i is input axis PERM[i] (R95). -/
def transposeSrc (nd : GNode) (yIx : List Nat) : List Nat :=
  (List.range yIx.length).map (fun a =>
    ((List.range yIx.length).find? (fun i => decide (copyPerm nd i = a))).elim 0 (fun i => yIx.getD i 0))

/-- FILL as an element of X's format, an MX one with scale 0x7F (R259). -/
def fillVal (d fill : Nat) : Val := elemVal d (fill % 2 ^ elemBits d) 0x7F

/-- The sum SCATTER_ADD forms for one element of Y (R262). -/
def scatterElem (rd : Nat → U8) (nd : GNode) (x ix : TView) (yIx : List Nat) : Val × Flags :=
  let ax := copyAxis nd
  let hits := (List.range (prodL ix.exts)).filter (fun j => decide (indexAt rd ix j = (yIx.getD ax 0 : Nat)))
  let vs := hits.map (fun j => x.idx rd (yIx.set ax j))
  if isIntD x.d then
    let r := vs.foldl (fun a v => accInt (nflag nd 0) a v.toInt) ((0 : Int), (0 : Flags))
    (.int r.1, r.2)
  else
    let r := vs.foldl (fun a v => let w := widen v; let t := add32 a.1 w.1; (t.1, a.2 ||| w.2 ||| t.2)) (Fl.zero false, (0 : Flags))
    (.fl r.1, r.2)

def copyRow (rd : Nat → U8) (nd : GNode) (ins : List TView) (out : TView) : RowF := fun r =>
  let x := viewAt ins 0
  let ix := viewAt ins 1
  (List.range (inner out.exts)).map (fun c =>
    let yIx := unflattenIdx out.exts.dropLast r ++ [c]
    match nd.sub with
    | 0 => (x.idx rd yIx, 0)
    | 1 => (x.idx rd (transposeSrc nd yIx), 0)
    | 2 =>
      let ax := copyAxis nd
      let i := indexAt rd ix (yIx.getD ax 0)
      if oob (x.exts.getD ax 0) i then (fillVal x.d (copyFill nd), 0) else (x.idx rd (yIx.set ax i.toNat), 0)
    | _ => scatterElem rd nd x ix yIx)

/-- Elements of Y among parts of rows, given as row, first column and past-the-end column, that GATHER fills (R259). -/
def gatherFills (rd : Nat → U8) (nd : GNode) (x ix out : TView) (segs : List (Nat × Nat × Nat)) : Nat :=
  let ax := copyAxis nd
  (segs.map (fun q =>
    ((List.range (q.2.2 - q.2.1)).filter (fun i =>
      oob (x.exts.getD ax 0) (indexAt rd ix ((unflattenIdx out.exts.dropLast q.1 ++ [q.2.1 + i]).getD ax 0)))).length)).sum

/-- Elements of X that SCATTER_ADD drops (R260). -/
def scatterDrops (rd : Nat → U8) (nd : GNode) (x ix out : TView) : Nat :=
  let ax := copyAxis nd
  let rows := ((List.range (prodL ix.exts)).filter (fun j => oob (out.exts.getD ax 0) (indexAt rd ix j))).length
  rows * prodL (x.exts.set ax 1)

/-- The SAT rule for the final conversion into an integer D: MATMUL, ELEMENTWISE and REDUCE by their SAT flag, a COPY always clamps (R95, R166, R168). -/
def finalSat (nd : GNode) : Bool := if nd.op = opCopy then true else nflag nd 0

end Sys2Proof.Machine
end

