-- ==== Sys2Proof/Machine/Attention.lean ====
section
/-! DEFINITION. ATTENTION (R193 to R204): the mask generator, the streaming soft maximum of R196 row by row, its edge cases, and the backward pass of R204. -/

namespace Sys2Proof.Machine

/-- The attribute fields of R99. -/
def attnMode (nd : GNode) : Nat := nd.attrByte 0
def attnQPos (nd : GNode) : Nat := nd.attrLe 4 4
def attnKPos (nd : GNode) : Nat := nd.attrLe 8 4
def attnWindow (nd : GNode) : Nat := nd.attrLe 12 4

/-- Whether a pair is allowed by its positions (R193); mode 4 is decided by the mask tensor. -/
def maskAllows (mode w i j : Nat) : Bool :=
  match mode with
  | 0 => true
  | 1 => decide (j ≤ i)
  | 2 => decide ((i - j) + (j - i) < w)
  | 3 => decide (j ≤ i) && decide (i - j < w)
  | _ => true

/-- Whether the pair of query row `r` and key `c` of batch `b`, head `h` is allowed (R193, R194). -/
def pairAllowed (rd : Nat → U8) (nd : GNode) (mask : Option TView) (b h r c : Nat) : Bool :=
  if attnMode nd = 4 then
    match mask with
    | some m => valTrue (m.idx rd (bcastIdx m.exts [b, h, r, c]))
    | none => true
  else maskAllows (attnMode nd) (attnWindow nd) (attnQPos nd + r) (attnKPos nd + c)

/-- The operands of a pair's product over Dh (R195). -/
def scorePairs (rd : Nat → U8) (q k : TView) (b h hk r c : Nat) : List (Fl × Fl) :=
  (List.range (inner q.exts)).map (fun i => ((q.idx rd [b, h, r, i]).toFl, (k.idx rd [b, hk, c, i]).toFl))

/-- The score of a pair (R195): the product over Dh, which an injected flip may have altered (R619), times IMM0. -/
def score (rd : Nat → U8) (nd : GNode) (q k : TView) (b h hk r c : Nat) (flip : Bool) : Fl × Flags :=
  let p := dotFl (passClass q.d k.d) (scorePairs rd q k b h hk r c)
  let s := mul32 (if flip then flip12 p.1 else p.1) (imm32 nd.imm0)
  (s.1, p.2 ||| s.2)

/-- The mode of a row (R196). -/
inductive RowMode
  | normal
  | inf
  | nan
  deriving DecidableEq, Repr

/-- The running state of one query row (R196), its flags apart: those of its allowed scores, of the soft maximum's own steps, of the curve units' part in these (R190), and of the array passes into o. -/
structure SoftRow where
  m : Fl
  l : Fl
  o : List Fl
  mode : RowMode
  scores : Flags
  soft : Flags
  curve : Flags
  passes : Flags
  deriving DecidableEq, Repr

def SoftRow.init (dh : Nat) : SoftRow := ⟨.inf true, .zero false, List.replicate dh (.zero false), .normal, 0, 0, 0, 0⟩

/-- exp of an exact difference, rounded once: the subtraction is fused (R196). -/
def expDiff (s m : Fl) : Fl × Flags := curve32 0 (addExact s m.neg).1

def isPosInf (x : Fl) : Bool := decide (x = .inf false)
def isNegInf (x : Fl) : Bool := decide (x = .inf true)

/-- The weights converted to V's format (R196): under R166 for 16-bit V, under R169 for MX V in 32-key blocks. -/
def cvtWeights (d : Nat) (ps : List Fl) : List Fl × Flags :=
  if isMX d then
    let padded := ps ++ List.replicate ((32 - ps.length % 32) % 32) (.zero false)
    let bs := (blocks32 (padded.length / 32) padded).map (mxBlock d)
    ((bs.map (fun b => b.2.1.map (fun w => (elemVal d w b.1).toFl))).flatten.take ps.length,
      (bs.map (fun b => b.2.2)).foldl (· ||| ·) 0)
  else
    let r := ps.map (fun p => (convTo d true (.fl p)))
    (r.map (fun c => (elemRaw d c.1).toFl), flags r)

/-- The array pass of one block: each element of o takes in the products of the weights and its V column, in ascending key order (R126, R196). -/
def passPV (d : Nat) (o : List Fl) (ps : List Fl) (vcols : List (List Fl)) : List (Fl × Flags) :=
  (o.zip vcols).map (fun x => dotFrom (passClass d d) (x.1, 0) (ps.zip x.2))

/-- One key block up to its array pass (R196): `ss` the scores of its keys in order, each with whether the pair is allowed. The row with o rescaled, and the converted weights where a pass follows. The flags of allowed scores count in every block (R203). -/
def softStep (vd : Nat) (st0 : SoftRow) (ss : List (Bool × Fl × Flags)) : SoftRow × Option (List Fl) :=
  let u := ss.filter (fun x => x.1)
  let st := { st0 with scores := st0.scores ||| flags (u.map (fun x => ((), x.2.2))) }
  if st.mode = .nan ∨ u.isEmpty then (st, none)
  else if u.any (fun x => x.2.1.isNan) then ({ st with mode := .nan }, none)
  else
    let st1 := if st.mode = .normal ∧ u.any (fun x => isPosInf x.2.1) then
        { st with mode := .inf, m := .inf false, l := .zero false, o := st.o.map (fun _ => Fl.zero false) }
      else st
    let mn := u.foldl (fun a x => flMax a x.2.1) st1.m
    if st1.mode = .normal ∧ isNegInf mn then (st1, none)
    else
      let pw : List (Fl × Flags) :=
        if st1.mode = .inf then
          ss.map (fun x => (if x.1 && isPosInf x.2.1 then Fl.one else Fl.zero false, 0))
        else ss.map (fun x => if x.1 then expDiff x.2.1 mn else (Fl.zero false, 0))
      let a : Fl × Flags × Flags :=
        if st1.mode = .inf then (Fl.one, 0, 0)
        else if isNegInf st1.m then (Fl.zero false, 0, 0)
        else
          let d := add32 st1.m mn.neg
          let e := curve32 0 d.1
          (e.1, d.2 ||| e.2, e.2)
      let ps := pw.map (·.1)
      let sum := pairTree 7 (ps ++ List.replicate (128 - ps.length) (Fl.zero false))
      let la := mul32 st1.l a.1
      let l' := add32 la.1 sum.1
      let oa := st1.o.map (fun x => mul32 x a.1)
      let cw := cvtWeights vd ps
      ({ st1 with
          m := if st1.mode = .inf then st1.m else mn
          l := l'.1
          o := oa.map (·.1)
          soft := st1.soft ||| flags pw ||| a.2.1 ||| sum.2 ||| la.2 ||| l'.2 ||| flags oa ||| cw.2
          curve := st1.curve ||| flags pw ||| a.2.2 }, some cw.1)

/-- One key block (R196); `vcols` the block's V, column by column, `alt` the element of o that an injected flip alters (R619). -/
def softBlock (vd : Nat) (st : SoftRow) (ss : List (Bool × Fl × Flags)) (vcols : List (List Fl)) (alt : Option Nat) : SoftRow :=
  match softStep vd st ss with
  | (t, none) => t
  | (t, some w) =>
    let o := passPV vd t.o w vcols
    let o' := o.map (·.1)
    { t with o := (match alt with | some c => o'.set c (flip12 (o'.getD c (.zero false))) | none => o'), passes := t.passes ||| flags o }

/-- A finished row: its O elements, its stats before the finishing step, its flags, those that the curve units raised, and whether it was empty, finished in infinity mode or a NaN row (R197 to R199). -/
structure AttnRow where
  o : List Fl
  m : Fl
  l : Fl
  fl : Flags
  curve : Flags
  empty : Bool
  infRow : Bool
  nanRow : Bool
  deriving DecidableEq, Repr

/-- The finishing step (R196). An empty row raises no flag (R197); in infinity mode the soft maximum raises none, so that the flags of the scores and of the array passes are left (R198, DEDUCED, log entry 26); a NaN row raises invalid (R199). -/
def softFinish (st : SoftRow) : AttnRow :=
  if st.mode = .nan then
    ⟨st.o.map (fun _ => Fl.nan), .nan, .nan, st.scores ||| st.soft ||| st.passes ||| fInv, st.curve, false, false, true⟩
  else if st.l.isZero then
    ⟨st.o.map (fun _ => Fl.zero false), st.m, st.l, 0, st.curve, true, false, false⟩
  else
    let r := curve32 4 st.l
    let o := st.o.map (fun x => mul32 x r.1)
    let own := if st.mode = .inf then 0 else st.soft ||| r.2 ||| flags o
    ⟨o.map (·.1), st.m, st.l, st.scores ||| st.passes ||| own, st.curve ||| (if st.mode = .inf then 0 else r.2), false, decide (st.mode = .inf), false⟩

/-- The extents of an ATTENTION node: H heads, Hk key heads, Lk keys. -/
def keyHead (q k : TView) (h : Nat) : Nat := h / (q.exts.getD 1 1 / k.exts.getD 1 1)

/-- The key whose product an injected flip alters in a query row (R619). -/
def Flip.keyAt (f : List Flip) (r : Nat) : Option Nat :=
  (f.find? (fun x => decide (x.row = r) && decide (x.pass = 0) && decide (x.off < x.cols))).map (fun x => x.col0 + x.off)

/-- The element of o that an injected flip alters in the pass of block `bi`'s weights (R619). -/
def Flip.outAt (f : List Flip) (r bi : Nat) : Option Nat :=
  (f.find? (fun x => decide (x.row = r) && decide (x.pass = bi + 1) && decide (x.off < x.cols))).map (fun x => x.col0 + x.off)

/-- The keys of block `bi` (R196). -/
def blockKeys (lk bi : Nat) : List Nat := (List.range (min 128 (lk - bi * 128))).map (fun i => bi * 128 + i)

/-- The scores of a row in a key block; `flip` is the key whose product an injection alters. -/
def blockScores (rd : Nat → U8) (nd : GNode) (q k : TView) (mask : Option TView) (b h r : Nat) (flip : Option Nat) (keys : List Nat) :
    List (Bool × Fl × Flags) :=
  keys.map (fun c => (pairAllowed rd nd mask b h r c, score rd nd q k b h (keyHead q k h) r c (decide (flip = some c))))

/-- V over a key block, column by column. -/
def blockV (rd : Nat → U8) (v : TView) (b hk dh : Nat) (keys : List Nat) : List (List Fl) :=
  (List.range dh).map (fun d => keys.map (fun c => (v.idx rd [b, hk, c, d]).toFl))

/-- Number of query row `r` of head `h` of batch `b` among all rows. -/
def flatRow (q : TView) (b h r : Nat) : Nat := flattenIdx q.exts.dropLast [b, h, r]

/-- One row, block by block in ascending order (R196). -/
def attnForwardRow (rd : Nat → U8) (nd : GNode) (q k v : TView) (mask : Option TView) (b h r : Nat) (flips : List Flip) : AttnRow :=
  let lk := k.exts.getD 2 0
  let dh := inner q.exts
  let flat := flatRow q b h r
  let block (st : SoftRow) (bi : Nat) : SoftRow :=
    let keys := blockKeys lk bi
    softBlock v.d st (blockScores rd nd q k mask b h r (Flip.keyAt flips flat) keys) (blockV rd v b (keyHead q k h) dh keys) (Flip.outAt flips flat bi)
  softFinish ((List.range ((lk + 127) / 128)).foldl block (SoftRow.init dh))

/-- The mask port, present exactly in mode 4 (R194). -/
def attnMask (nd : GNode) (ins : List TView) : Option TView := if attnMode nd = 4 then some (viewAt ins 3) else none

/-- Rows of O (port 0) or of stats (port 1). -/
def attnRowF (rd : Nat → U8) (nd : GNode) (ins : List TView) (port : Nat) (flips : List Flip) : RowF := fun r =>
  let q := viewAt ins 0
  let ix := unflattenIdx q.exts.dropLast r
  let x := attnForwardRow rd nd q (viewAt ins 1) (viewAt ins 2) (attnMask nd ins) (ix.getD 0 0) (ix.getD 1 0) (ix.getD 2 0) flips
  if port = 0 then x.o.map (fun y => (.fl y, x.fl)) else [(.fl x.m, x.fl), (.fl x.l, x.fl)]

/-! ### BACKWARD (R204) -/

/-- The tensors of a BACKWARD node, in port order: Q, K, V, the mask in mode 4, O, dO, stats. -/
structure BackIns where
  q : TView
  k : TView
  v : TView
  mask : Option TView
  o : TView
  dO : TView
  stats : TView
  deriving DecidableEq, Repr

def backIns (nd : GNode) (ins : List TView) : BackIns :=
  let n := if attnMode nd = 4 then 4 else 3
  ⟨viewAt ins 0, viewAt ins 1, viewAt ins 2, attnMask nd ins, viewAt ins n, viewAt ins (n + 1), viewAt ins (n + 2)⟩

/-- p and dS of one pair, with their flags, and those the curve unit raised. -/
structure BackPair where
  p : Fl
  ds : Fl
  fl : Flags
  curve : Flags
  deriving DecidableEq, Repr

/-- A floating dot product whose sum an injected flip may alter after a pass (R126, R163, R619). -/
def dotFlip (c : WidthClass) (ps : List (Fl × Fl)) (flip : Option Nat) : Fl × Flags :=
  match flip with
  | none => dotFl c ps
  | some _ => lastSum (.fin false 0 0, 0) (passSums accChunk (fun x => (flip12 x.1, x.2)) (.fin false 0 0, 0) (chunks 32 ((kChunks c ps).map chunkResult)) flip)

/-- The pass after which an injected flip alters an element of a product of a BACKWARD firing, by the product's number, the vector's row and the element's column. -/
def Flip.hits (f : List Flip) (kind row col : Nat) : Option Nat :=
  (f.find? (fun x => decide (x.kind = kind) && decide (x.row = row) && decide (x.off < x.cols) && decide (x.col0 + x.off = col))).map (·.pass)

/-- The product of a query row and a key over Dh, and that of a dO row and a V row (R195, R204). -/
def BackIns.scoreOps (rd : Nat → U8) (t : BackIns) (b h i j : Nat) : List (Fl × Fl) := scorePairs rd t.q t.k b h (keyHead t.q t.k h) i j
def BackIns.dpOps (rd : Nat → U8) (t : BackIns) (b h i j : Nat) : List (Fl × Fl) := scorePairs rd t.dO t.v b h (keyHead t.q t.k h) i j

/-- p and dS of a pair (R204); `fs` and `fd` the flips of its two products. -/
def backPair (rd : Nat → U8) (nd : GNode) (t : BackIns) (b h i j : Nat) (fs fd : Option Nat) : BackPair :=
  let dh := inner t.q.exts
  let m := (t.stats.idx rd [b, h, i, 0]).toFl
  let l := (t.stats.idx rd [b, h, i, 1]).toFl
  if !pairAllowed rd nd t.mask b h i j then ⟨.zero false, .zero false, 0, 0⟩
  else if m.isNan || l.isNan then ⟨.nan, .nan, fInv, 0⟩
  else if isNegInf m then ⟨.zero false, .zero false, 0, 0⟩
  else
    let x := dotFlip (passClass t.q.d t.k.d) (t.scoreOps rd b h i j) fs
    let y := mul32 x.1 (imm32 nd.imm0)
    let s : Fl × Flags := (y.1, x.2 ||| y.2)
    let r := curve32 4 l
    if isPosInf m then
      (if isPosInf s.1 then ⟨r.1, .zero false, s.2 ||| r.2, r.2⟩ else ⟨.zero false, .zero false, s.2, 0⟩)
    else
      let e := expDiff s.1 m
      let p := mul32 e.1 r.1
      let prods := (List.range dh).map (fun d => mul32 (t.dO.idx rd [b, h, i, d]).toFl (t.o.idx rd [b, h, i, d]).toFl)
      let dsum := reduceSumFl false (prods.map (·.1))
      let dp := dotFlip (passClass t.dO.d t.v.d) (t.dpOps rd b h i j) fd
      let df := add32 dp.1 dsum.1.neg
      let ds := mul32 p.1 df.1
      ⟨p.1, ds.1, s.2 ||| r.2 ||| e.2 ||| p.2 ||| flags prods ||| dsum.2 ||| dp.2 ||| df.2 ||| ds.2, r.2 ||| e.2⟩

/-- A weight or dS converted to a 16-bit format. -/
def cvt16 (d : Nat) (x : Fl) : Fl × Flags :=
  let c := convTo d true (.fl x)
  ((elemRaw d c.1).toFl, c.2)

/-- The pairs of a query row with every key, for dQ. -/
def rowPairs (rd : Nat → U8) (nd : GNode) (t : BackIns) (f : List Flip) (b h i : Nat) : List BackPair :=
  let row := flatRow t.q b h i
  (List.range (t.k.exts.getD 2 0)).map (fun j => backPair rd nd t b h i j (Flip.hits f 1 row j) (Flip.hits f 2 row j))

/-- The query rows of a key head's group, by head and position, in the order in which dK and dV add their terms. -/
def groupRows (t : BackIns) (hk : Nat) : List (Nat × Nat) :=
  let group := t.q.exts.getD 1 1 / t.k.exts.getD 1 1
  (List.range group).flatMap (fun g => (List.range (t.q.exts.getD 2 0)).map (fun i => (hk * group + g, i)))

/-- The pairs of a key with every query row of its group, for dK and dV. -/
def keyPairs (rd : Nat → U8) (nd : GNode) (t : BackIns) (f : List Flip) (b hk j : Nat) : List BackPair :=
  (groupRows t hk).map (fun x =>
    let row := flatRow t.q b x.1 x.2
    backPair rd nd t b x.1 x.2 j (Flip.hits f 4 row j) (Flip.hits f 5 row j))

/-- One element of dQ (port 0), dK (1) or dV (2). -/
def backElem (rd : Nat → U8) (nd : GNode) (t : BackIns) (f : List Flip) (port b h r d : Nat) : Val × Flags :=
  let lk := t.k.exts.getD 2 0
  if port = 0 then
    let hk := keyHead t.q t.k h
    let m := (t.stats.idx rd [b, h, r, 0]).toFl
    if m.isNan then (.fl .nan, fInv)
    else
      let bp := (rowPairs rd nd t f b h r).zip ((List.range lk).map (fun j => (t.k.idx rd [b, hk, j, d]).toFl))
      let cs := bp.map (fun x => (cvt16 t.k.d x.1.ds, x.2))
      let s := dotFlip (passClass t.k.d t.k.d) (cs.map (fun x => (x.1.1, x.2))) (Flip.hits f 3 (flatRow t.q b h r) d)
      let y := mul32 (imm32 nd.imm0) s.1
      (.fl y.1, flags (bp.map (fun x => ((), x.1.fl))) ||| flags (cs.map (fun x => ((), x.1.2))) ||| s.2 ||| y.2)
  else
    let bp := (keyPairs rd nd t f b h r).zip (groupRows t h)
    if port = 1 then
      let cs := bp.map (fun x => (cvt16 t.q.d x.1.ds, (t.q.idx rd [b, x.2.1, x.2.2, d]).toFl))
      let s := dotFlip (passClass t.q.d t.q.d) (cs.map (fun x => (x.1.1, x.2))) (Flip.hits f 6 (flatRow t.k b h r) d)
      let y := mul32 (imm32 nd.imm0) s.1
      (.fl y.1, flags (bp.map (fun x => ((), x.1.fl))) ||| flags (cs.map (fun x => ((), x.1.2))) ||| s.2 ||| y.2)
    else
      let cs := bp.map (fun x => (cvt16 t.dO.d x.1.p, (t.dO.idx rd [b, x.2.1, x.2.2, d]).toFl))
      let s := dotFlip (passClass t.dO.d t.dO.d) (cs.map (fun x => (x.1.1, x.2))) (Flip.hits f 7 (flatRow t.k b h r) d)
      (.fl s.1, flags (bp.map (fun x => ((), x.1.fl))) ||| flags (cs.map (fun x => ((), x.1.2))) ||| s.2)

def backRowF (rd : Nat → U8) (nd : GNode) (ins : List TView) (port : Nat) (out : TView) (flips : List Flip) : RowF := fun r =>
  let t := backIns nd ins
  let ix := unflattenIdx out.exts.dropLast r
  (List.range (inner out.exts)).map (fun d => backElem rd nd t flips port (ix.getD 0 0) (ix.getD 1 0) (ix.getD 2 0) d)

/-- The row function of a compute node's output port. -/
def nodeRowF (rd : Nat → U8) (nd : GNode) (ins outs : List TView) (port : Nat) (flips : List Flip) : RowF :=
  let out := viewAt outs port
  if nd.op = opMatmul then matRow rd nd ins out flips
  else if nd.op = opElementwise then ewRow rd nd ins out
  else if nd.op = opCurve then curveRow rd nd ins out
  else if nd.op = opReduce then reduceRow rd nd ins out
  else if nd.op = opCopy then copyRow rd nd ins out
  else if nd.op = opAttention then (if nd.sub = 0 then attnRowF rd nd ins port flips else backRowF rd nd ins port out flips)
  else fun _ => []

end Sys2Proof.Machine
end

