-- ==== Sys2Proof/Machine/SMap.lean ====
section
/-! DEFINITION. Sparse tables held as plain data: a list of (key, value) pairs in one canonical form, keys strictly rising and no entry equal to what an unlisted key reads as. Every table, register file and memory of State is one of these. -/

namespace Sys2Proof.Machine

variable {α : Type}

/-- What key `a` reads as; `d` is what an unlisted key reads as. -/
def SMap.get (d : Nat → α) : List (Nat × α) → Nat → α
  | [], a => d a
  | p :: m, a => if p.1 = a then p.2 else SMap.get d m a

/-- The pair put in before the first entry of a greater key. -/
def SMap.ins : List (Nat × α) → Nat → α → List (Nat × α)
  | [], a, v => [(a, v)]
  | p :: m, a, v => if a < p.1 then (a, v) :: p :: m else p :: SMap.ins m a v

/-- Every entry of key `a` taken out. -/
def SMap.del (m : List (Nat × α)) (a : Nat) : List (Nat × α) := m.filter (fun p => decide (p.1 ≠ a))

/-- The write of one key; writing what an unlisted key reads as removes the entry. -/
def SMap.set [DecidableEq α] (d : Nat → α) (m : List (Nat × α)) (a : Nat) (v : α) : List (Nat × α) :=
  if v = d a then SMap.del m a else SMap.ins (SMap.del m a) a v

/-- Read, change and write back one key. -/
def SMap.upd [DecidableEq α] (d : Nat → α) (m : List (Nat × α)) (a : Nat) (f : α → α) : List (Nat × α) :=
  SMap.set d m a (f (SMap.get d m a))

/-- Keys strictly rising from `lo` on, and no entry equal to the default. -/
def SMap.wfFrom [DecidableEq α] (d : Nat → α) : Nat → List (Nat × α) → Bool
  | _, [] => true
  | lo, p :: m => decide (lo ≤ p.1) && decide (p.2 ≠ d p.1) && SMap.wfFrom d (p.1 + 1) m

/-- The canonical form. -/
def SMap.wf [DecidableEq α] (d : Nat → α) (m : List (Nat × α)) : Bool := SMap.wfFrom d 0 m

/-- A run of values written at rising keys, the first at `a`. -/
def SMap.setMany [DecidableEq α] (d : Nat → α) : List (Nat × α) → Nat → List α → List (Nat × α)
  | m, _, [] => m
  | m, a, v :: vs => SMap.setMany d (SMap.set d m a v) (a + 1) vs

/-- Puts an element before the first one that it does not come after. -/
def insertBy (le : α → α → Bool) (x : α) : List α → List α
  | [] => [x]
  | y :: l => if le x y then x :: y :: l else y :: insertBy le x l

/-- A list in order, equal elements as they stood. -/
def sortBy (le : α → α → Bool) : List α → List α
  | [] => []
  | x :: l => insertBy le x (sortBy le l)

end Sys2Proof.Machine
end

