-- ==== Sys2Proof/Machine/Mem.lean ====
section
/-! DEFINITION. The device address map and the memories behind it (R209 to R217): bytes by device address, one grain tag per 2 KiB block of HBM and of the bench tier, and the lines that hold an uncorrectable error. -/

namespace Sys2Proof.Machine

/-- The memories of the module: bytes by 48-bit device address (an unlisted address reads 0, R216), grain tags by block number `address / 2048` (an unlisted block has the tag of zeros, R216), and the 64-byte lines (by number `address / 64`) left with an uncorrectable error (R215). -/
structure Memory where
  bytes : List (Nat × U8)
  tags : List (Nat × U32)
  bad : List Nat
  deriving DecidableEq, Repr

/-- An error that has come over a line and that no access has met yet: one that the code corrects (R214, R227), or bursts that fail their EDC check and are repeated (R222). -/
structure Upset where
  line : Nat
  corrected : Bool
  retries : Nat
  deriving DecidableEq, Repr

/-- Memory as every start leaves it (R216). -/
def Memory.zero : Memory := ⟨[], [], []⟩

def byteDefault : Nat → U8 := fun _ => 0#8

def tagDefault : Nat → U32 := fun _ => zeroTag

/-- The canonical form of the memory's tables. -/
def Memory.wf (m : Memory) : Bool := SMap.wf byteDefault m.bytes && SMap.wf tagDefault m.tags

/-- The byte at a device address. -/
def Memory.byte (m : Memory) (a : Nat) : U8 := SMap.get byteDefault m.bytes a

/-- `n` bytes from a device address. -/
def Memory.read (m : Memory) (a n : Nat) : List U8 := (List.range n).map (fun i => m.byte (a + i))

/-- The stored tag of a block. -/
def Memory.tag (m : Memory) (blk : Nat) : U32 := SMap.get tagDefault m.tags blk

/-! ### The address map (R209) -/

def stackSize : Nat := 0xC00000000
def visibleSize : Nat := 0xBF8000000
def hbmEnd : Nat := 0xC000000000
def benchBase : Nat := 0x10000000000
def benchEnd : Nat := 0x12000000000
def stagingBase : Nat := 0x20000000000
def stagingEnd : Nat := 0x20030000000
def tileBase : Nat := 0x30000000000
def tileEnd : Nat := 0x30030000000
def windowBase : Nat := 0x100000000000
def windowEnd : Nat := 0x800000000000

/-- The HBM stack an address lies in, visible range only. -/
def hbmStack (a : Nat) : Option Nat := if a < hbmEnd ∧ a % stackSize < visibleSize then some (a / stackSize) else none

def inBench (a : Nat) : Bool := decide (benchBase ≤ a) && decide (a < benchEnd)

def inWindow (a : Nat) : Bool := decide (windowBase ≤ a) && decide (a < windowEnd)

def inSram (a : Nat) : Bool :=
  (decide (stagingBase ≤ a) && decide (a < stagingEnd)) || (decide (tileBase ≤ a) && decide (a < tileEnd))

/-- Memory that keeps a grain tag (R212). -/
def taggable (a : Nat) : Bool := (hbmStack a).isSome || inBench a

/-- Whether `[lo, hi)` lies wholly inside one permitted range of R232. -/
def inOneRange (lo hi : Nat) : Bool :=
  decide (lo < hi) &&
  (((hbmStack lo).isSome && decide (hbmStack lo = hbmStack (hi - 1)) )
    || (inBench lo && inBench (hi - 1)) || (inWindow lo && inWindow (hi - 1)))

/-- The base die that serves an HBM stack (R9). -/
def baseOfStack (s : Nat) : Nat := if s < 6 then 0 else if s < 10 then 1 else 2

/-- The GDDR7 device of a bench address (R221). -/
def gddrOf (a : Nat) : Nat := (a - benchBase) / 2048 % 32

/-- The pseudo-channel of a stack offset (R213). -/
def pseudoChannel (o : Nat) : Nat := Nat.xor (o / 4096 % 64) (o / 4096 / 64 % 64)

/-- Where a byte of a stack lies (R213). -/
structure HbmPlace where
  channel : Nat
  pseudo : Nat
  place : Nat
  deriving DecidableEq, Repr

def hbmPlace (o : Nat) : HbmPlace := ⟨pseudoChannel o / 2, pseudoChannel o % 2, o / 4096 / 64 * 4096 + o % 4096⟩

/-- Offset of the reserved area in a stack (R209). -/
def reservedOffset : Nat := 0xBF8000000

/-- Device address of the tag entry of a block in a stack's visible range or in the bench tier (R212). -/
def tagAddr (blk : Nat) : Option Nat :=
  let a := blk * 2048
  match hbmStack a with
  | some k => some (k * stackSize + reservedOffset + 4 * (a % stackSize / 2048))
  | none =>
    if inBench a then
      let i := (a - benchBase) / 2048
      some (i % 16 * stackSize + reservedOffset + 0x05FC0000 + 4 * (i / 16))
    else none

/-! ### Writes (R217) -/

/-- The tag the controller computes over a block as stored. -/
def Memory.computeTag (m : Memory) (blk : Nat) : U32 := crc32c (m.read (blk * 2048) 2048)

/-- The tags of the `n` blocks from `blk` computed anew, where the memory keeps tags. -/
def Memory.retag (m : Memory) : Nat → Nat → Memory
  | _, 0 => m
  | blk, n + 1 =>
    let t := if taggable (blk * 2048) then SMap.set tagDefault m.tags blk (m.computeTag blk) else m.tags
    ({ m with tags := t }).retag (blk + 1) n

/-- The blocks a run of bytes touches: the first and how many. -/
def blocksOf (a n : Nat) : Nat × Nat := if n = 0 then (a / 2048, 0) else (a / 2048, (a + n - 1) / 2048 - a / 2048 + 1)

/-- Bytes put into memory; lines written whole lose their error (R215). -/
def Memory.put (m : Memory) (a : Nat) (bs : List U8) : Memory :=
  { m with
    bytes := SMap.setMany byteDefault m.bytes a bs,
    bad := m.bad.filter (fun l => !(decide (a ≤ l * 64) && decide (l * 64 + 64 ≤ a + bs.length))) }

/-- A write without a tag of its own: the controller computes the tag of every block it touches (R217). -/
def Memory.write (m : Memory) (a : Nat) (bs : List U8) : Memory :=
  (m.put a bs).retag (blocksOf a bs.length).1 (blocksOf a bs.length).2

/-- A write of one whole block that carries its tag (R217). -/
def Memory.writeTagged (m : Memory) (a : Nat) (bs : List U8) (t : U32) : Memory :=
  let m' := m.put a bs
  { m' with tags := if taggable a then SMap.set tagDefault m'.tags (a / 2048) t else m'.tags }

/-- A block put into staging or tile SRAM, with its grain tags beside it where its token says so. A tag that came with the block has been checked against these bytes, so it is the one that they have (R267, R269). -/
def Memory.stage (m : Memory) (a : Nat) (bs : List U8) (tagged : Bool) : Memory :=
  let m' := m.put a bs
  if tagged then
    { m' with tags := SMap.setMany tagDefault m'.tags (a / 2048) ((List.range ((bs.length + 2047) / 2048)).map (fun i => m'.computeTag (a / 2048 + i))) }
  else m'

/-- Several writes in order. -/
def Memory.writeAll (m : Memory) (ws : List (Nat × List U8)) : Memory := ws.foldl (fun m w => m.write w.1 w.2) m

/-- Whether a run of bytes meets a line with an uncorrectable error. -/
def Memory.meetsBad (m : Memory) (a n : Nat) : Bool :=
  m.bad.any (fun l => decide (l * 64 < a + n) && decide (a < l * 64 + 64))

/-- A line marked as holding an uncorrectable error. -/
def Memory.spoil (m : Memory) (line : Nat) : Memory :=
  if m.bad.contains line then m else { m with bad := line :: m.bad }

/-- Whether the stored tag of every block of a run of bytes fits its content. -/
def Memory.tagsGood (m : Memory) (a n : Nat) : Bool :=
  (List.range (blocksOf a n).2).all (fun i => decide (m.tag ((blocksOf a n).1 + i) = m.computeTag ((blocksOf a n).1 + i)))

end Sys2Proof.Machine
end

