-- ==== Sys2Proof/Machine/LatheData.lean ====
section
/-! DEFINITION. The data of the Lathe: shard headers (R280), STATE layout (R279), commit records (R283 to R286), recipes and their steps (R289 to R295, R304), and the unison digest (R318). -/

namespace Sys2Proof.Machine

/-! ### Recipes -/

/-- One recipe step (R290). -/
structure RStep where
  op : Nat
  d : Nat
  a : Nat
  b : Nat
  c : Nat
  pred : Nat
  deriving DecidableEq, Repr

/-- A loaded recipe (R289). -/
structure Recipe where
  nmom : Nat
  nhyp : Nat
  steps : List RStep
  deriving DecidableEq, Repr

def rFma (d a b c : Nat) : RStep := ⟨0, d, a, b, c, 0⟩
def rAdd (d a b : Nat) : RStep := ⟨1, d, a, b, 0, 0⟩
def rMul (d a b : Nat) : RStep := ⟨2, d, a, b, 0, 0⟩
def rMin (d a b : Nat) : RStep := ⟨3, d, a, b, 0, 0⟩
def rMax (d a b : Nat) : RStep := ⟨4, d, a, b, 0, 0⟩
def rCmp (p d a b : Nat) : RStep := ⟨5, d, a, b, 0, p⟩
def rSel (d a b c : Nat) : RStep := ⟨6, d, a, b, c, 0⟩
def rUn (op d a : Nat) : RStep := ⟨op, d, a, 0, 0, 0⟩

/-- Operand codes (R291): H0 is 8, T0 is 16, then the constants +0, +1, -1, 0.5, 2. -/
def rH (i : Nat) : Nat := 8 + i
def rT (i : Nat) : Nat := 16 + i
def rZero : Nat := 32
def rOne : Nat := 33
def rNegOne : Nat := 34

/-- Recipe 0, AdamW (R295). -/
def recipeAdamW : Recipe := ⟨2, 7,
  [rFma (rT 0) (rH 1) rNegOne rOne, rMul (rT 1) (rT 0) 1, rFma 2 2 (rH 1) (rT 1),
   rFma (rT 2) (rH 2) rNegOne rOne, rMul (rT 3) 1 1, rMul (rT 4) (rT 2) (rT 3),
   rFma 3 3 (rH 2) (rT 4), rMul (rT 5) 2 (rH 5), rMul (rT 6) 3 (rH 6),
   rUn 7 (rT 7) (rT 6), rAdd (rT 8) (rT 7) (rH 3), rUn 8 (rT 9) (rT 8),
   rMul (rT 10) (rT 5) (rT 9), rFma (rT 11) 0 (rH 4) (rT 10),
   rMul (rT 12) (rT 11) (rH 0), rFma 0 (rT 12) rNegOne 0]⟩

/-- Recipe 1, SGD with momentum (R295). -/
def recipeSgd : Recipe := ⟨1, 3,
  [rFma (rT 0) 0 (rH 2) 1, rFma 2 2 (rH 1) (rT 0), rMul (rT 1) (rH 0) rNegOne, rFma 0 2 (rT 1) 0]⟩

/-- Recipe 2, Lion (R295). -/
def recipeLion : Recipe := ⟨1, 4,
  [rFma (rT 0) (rH 1) rNegOne rOne, rMul (rT 1) (rT 0) 1, rFma (rT 2) 2 (rH 1) (rT 1),
   rUn 9 (rT 3) (rT 2), rFma (rT 4) 0 (rH 3) (rT 3), rMul (rT 5) (rT 4) (rH 0),
   rFma 0 (rT 5) rNegOne 0, rFma (rT 6) (rH 2) rNegOne rOne,
   rMul (rT 7) (rT 6) 1, rFma 2 2 (rH 2) (rT 7)]⟩

/-- Recipe 63, SCALE (R304). -/
def recipeScale : Recipe := ⟨1, 5,
  [rCmp 1 (rT 0) 1 rZero, rAdd (rT 1) 2 rOne, rCmp 5 (rT 2) (rT 1) (rH 2),
   rMul (rT 3) 0 (rH 0), rMin (rT 3) (rT 3) (rH 4), rMul (rT 4) 0 (rH 1),
   rMax (rT 4) (rT 4) (rH 3), rSel (rT 5) (rT 2) (rT 3) 0,
   rSel (rT 6) (rT 2) rZero (rT 1),
   rSel 0 (rT 0) (rT 4) (rT 5), rSel 2 (rT 0) rZero (rT 6)]⟩

/-- VERDICT holds no steps; it is not an update (R303). -/
def recipeVerdict : Recipe := ⟨1, 0, []⟩

/-- The shipped recipes (R294). -/
def shippedRecipe (n : Nat) : Option Recipe :=
  match n with
  | 0 => some recipeAdamW
  | 1 => some recipeSgd
  | 2 => some recipeLion
  | 62 => some recipeVerdict
  | 63 => some recipeScale
  | _ => none

def operandReadable (nmom nhyp c : Nat) : Bool :=
  decide (c ≤ 1) || (decide (2 ≤ c) && decide (c < 2 + nmom) && decide (c ≤ 7)) ||
    (decide (8 ≤ c) && decide (c < 8 + nhyp) && decide (c ≤ 15)) || (decide (16 ≤ c) && decide (c ≤ 36))

def operandWritable (nmom c : Nat) : Bool :=
  decide (c = 0) || (decide (2 ≤ c) && decide (c < 2 + nmom) && decide (c ≤ 7)) || (decide (16 ≤ c) && decide (c ≤ 31))

/-- How many operands an OP reads (R290). -/
def stepArity (op : Nat) : Nat := if op = 0 ∨ op = 6 then 3 else if op ≤ 5 then 2 else 1

/-- A step word decoded (R290). -/
def decodeStep (w : Nat) : RStep :=
  ⟨w % 256, w / 2 ^ 8 % 64, w / 2 ^ 14 % 64, w / 2 ^ 20 % 64, w / 2 ^ 26 % 64, w / 2 ^ 32 % 8⟩

/-- The permissions and unused fields of a step (R290, R291). -/
def stepLegal (nmom nhyp w : Nat) : Bool :=
  let s := decodeStep w
  let n := stepArity s.op
  decide (s.op ≤ 9) && decide (w / 2 ^ 35 = 0) && operandWritable nmom s.d && operandReadable nmom nhyp s.a
    && (if 2 ≤ n then operandReadable nmom nhyp s.b else decide (s.b = 0))
    && (if 3 ≤ n then operandReadable nmom nhyp s.c else decide (s.c = 0))
    && decide (s.pred ≤ 5)

/-- A step as its word (R290). -/
def encodeStep (x : RStep) : Nat := x.op + x.d * 2 ^ 8 + x.a * 2 ^ 14 + x.b * 2 ^ 20 + x.c * 2 ^ 26 + x.pred * 2 ^ 32

/-- A recipe as its image (R289). -/
def recipeImage (r : Recipe) : List U8 :=
  let head := leBytes 4 0x5043524C ++ leBytes 1 r.steps.length ++ leBytes 1 r.nmom ++ leBytes 1 r.nhyp ++ [0]
  let steps := r.steps.flatMap (fun x => leBytes 8 (encodeStep x))
  head ++ leBytes 4 (crc32c (head ++ List.replicate 8 0 ++ steps)).toNat ++ List.replicate 4 0 ++ steps

/-- The recipes that a start puts into the recipe store, with their numbers; VERDICT has no steps and so no image (R283, R289, R294, R303). -/
def storedRecipes : List (Nat × Recipe) := [(0, recipeAdamW), (1, recipeSgd), (2, recipeLion), (63, recipeScale)]

/-- A recipe image checked and decoded (R289 to R291); `none` is refused with S_L_RECIPE. `img` holds at least the 16-byte header and the steps it names. -/
def parseRecipe (img : List U8) : Option Recipe :=
  let b (o k : Nat) : Nat := leNat ((img.drop o).take k)
  let ns := b 4 1
  let nm := b 5 1
  let nh := b 6 1
  let body := img.take (16 + 8 * ns)
  let ws := (List.range ns).map (fun i => b (16 + 8 * i) 8)
  let crc := crc32c (body.take 8 ++ List.replicate 4 0#8 ++ body.drop 12)
  if b 0 4 = 0x5043524C ∧ 1 ≤ ns ∧ ns ≤ 64 ∧ nm ≤ 6 ∧ nh ≤ 8 ∧ b 7 1 = 0 ∧ b 12 4 = 0 ∧
      crc.toNat = b 8 4 ∧ ws.all (stepLegal nm nh) = true then
    some ⟨nm, nh, ws.map decodeStep⟩
  else none

/-- The registers of one lane (R291): code to value. -/
abbrev LaneRegs := List Fl

def laneConst (c : Nat) : Fl :=
  match c with
  | 33 => .one
  | 34 => .fin true 1 0
  | 35 => .fin false 1 (-1)
  | 36 => .fin false 2 0
  | _ => .zero false

def laneGet (r : LaneRegs) (c : Nat) : Fl := if c < 32 then r.getD c (.zero false) else laneConst c

/-- SIGN (R290, R292). -/
def flSign (x : Fl) : Fl :=
  match x with
  | .nan => .nan
  | y => if y.isZero then .zero false else .fin y.sign 1 0

/-- One step's result and flags (R290, R292). -/
def stepResult (r : LaneRegs) (s : RStep) : Fl × Flags :=
  let a := laneGet r s.a
  let b := laneGet r s.b
  let c := laneGet r s.c
  match s.op with
  | 0 => fma32 a b c
  | 1 => add32 a b
  | 2 => mul32 a b
  | 3 => (flMin a b, 0)
  | 4 => (flMax a b, 0)
  | 5 => (if flCmp s.pred a b then .one else .zero false, 0)
  | 6 => (if a.isZero then c else b, 0)
  | 7 => curve32 5 a
  | 8 => curve32 4 a
  | _ => (flSign a, 0)

def runStep (r : LaneRegs × Flags) (s : RStep) : LaneRegs × Flags :=
  let x := stepResult r.1 s
  (r.1.set s.d x.1, r.2 ||| x.2)

/-- The start of one element: W, G, the moments, HYP, temporaries +0 (R291). -/
def laneInit (w g : Fl) (moms hyp : List Fl) : LaneRegs :=
  let z (n : Nat) (l : List Fl) : List Fl := l.take n ++ List.replicate (n - l.length) (Fl.zero false)
  w :: g :: (z 6 moms ++ z 8 hyp ++ List.replicate 16 (Fl.zero false))

/-- One element through a recipe: the final W and moments, with the lane's flags (R292, R293). -/
def runElem (rc : Recipe) (w g : Fl) (moms hyp : List Fl) : List Fl × Flags :=
  let r := rc.steps.foldl runStep (laneInit w g moms hyp, 0)
  (laneGet r.1 0 :: (List.range rc.nmom).map (fun i => laneGet r.1 (2 + i)), r.2)

/-- Register G (R299): the gradient times the rounded reciprocal of the scale. -/
def unscale (g s : Fl) : Fl × Flags :=
  let r := curve32 4 s
  let x := mul32 g r.1
  (x.1, r.2 ||| x.2)

/-! ### Shard headers and layout -/

/-- A shard header (R280). -/
structure LHeader where
  magic : Nat
  version : Nat
  recipe : Nat
  nmom : Nat
  n : Nat
  late : Nat
  castFmt : Nat
  hflags : Nat
  commitIndex : Nat
  initStep : Nat
  scaleLoc : Nat
  shadowLoc0 : Nat
  shadowLoc1 : Nat
  /-- Whether every reserved field is 0. -/
  clean : Bool
  deriving DecidableEq, Repr

def rdLe (rd : Nat → U8) (a k : Nat) : Nat := leNat ((List.range k).map (fun i => rd (a + i)))

def readHeader (rd : Nat → U8) (a : Nat) : LHeader :=
  { magic := rdLe rd a 4
    version := rdLe rd (a + 4) 2
    recipe := rdLe rd (a + 6) 1
    nmom := rdLe rd (a + 7) 1
    n := rdLe rd (a + 8) 4
    late := rdLe rd (a + 0x0C) 1
    castFmt := rdLe rd (a + 0x0D) 1
    hflags := rdLe rd (a + 0x0E) 2
    commitIndex := rdLe rd (a + 0x10) 4
    initStep := rdLe rd (a + 0x18) 8
    scaleLoc := rdLe rd (a + 0x20) 8
    shadowLoc0 := rdLe rd (a + 0x28) 8
    shadowLoc1 := rdLe rd (a + 0x30) 8
    clean := decide (rdLe rd (a + 0x14) 4 = 0) && decide (rdLe rd (a + 0x38) 8 = 0)
      && decide (rdLe rd (a + 0x80) 1920 = 0) && decide (rdLe rd (a + 0x0E) 2 < 2)
      && decide (rdLe rd (a + 0x18) 8 < 2 ^ 48) && decide (rdLe rd (a + 0x10) 4 < 2 ^ 20) }

def LHeader.fresh (h : LHeader) : Bool := decide (h.hflags % 2 = 1)

/-- The stack COMMIT_INDEX names, bits [19:16], and its record number. -/
def LHeader.stack (h : LHeader) : Nat := h.commitIndex / 2 ^ 16 % 16
def LHeader.record (h : LHeader) : Nat := h.commitIndex % 2 ^ 16

/-- SB and RB of R279. -/
def shardSB (n : Nat) : Nat := roundUp (4 * n) 2048
def shardRB (n : Nat) : Nat := roundUp (2 * n) 2048

/-- Offset of a slot within the STATE tensor (R279). -/
def slotOffset (nmom n slot : Nat) : Nat := 2048 + slot * ((1 + nmom) * shardSB n)

/-- Offset of a gradient ring entry (R279). -/
def ringOffset (nmom n e : Nat) : Nat := 2048 + 2 * ((1 + nmom) * shardSB n) + e * shardRB n

/-- The least extent of a STATE tensor (R279). -/
def stateBytes (nmom n late : Nat) : Nat := ringOffset nmom n (late + 1)

/-! ### Commit records -/

/-- A commit record (R284). -/
structure CRecord where
  owner : Nat
  job : Nat
  claimed : Bool
  nextStep : Nat
  active : Nat
  lastSkip : Bool
  recipe : Nat
  versionStep : Nat
  digest : U64
  ringS : List Nat
  ringOvf : Nat
  ringCount : Nat
  skips : Nat
  deriving DecidableEq, Repr

/-- Device address of a commit record (R212, R283). -/
def recordAddr (stack record : Nat) : Nat := visibleSize + 0x06FC0000 + stackSize * stack + 64 * record

/-- Device address of a recipe's place in the recipe store of a stack (R212, R283). -/
def recipeAddr (stack n : Nat) : Nat := stack * stackSize + visibleSize + 0x06FC0000 + 0x00400000 + 4096 * n

/-- The 60 bytes under the CRC. -/
def recordBody (r : CRecord) : List U8 :=
  leBytes 6 r.owner ++ leBytes 1 r.job ++ leBytes 1 (if r.claimed then 0x80 else 0)
    ++ leBytes 6 r.nextStep ++ leBytes 1 (r.active % 2 + (if r.lastSkip then 2 else 0)) ++ leBytes 1 r.recipe
    ++ leBytes 8 r.versionStep ++ leBytes 8 r.digest.toNat
    ++ (r.ringS.map (leBytes 4)).flatten ++ leBytes 1 r.ringOvf ++ leBytes 1 r.ringCount ++ leBytes 2 0
    ++ leBytes 4 r.skips

/-- The 64 bytes of a record, with its CRC. -/
def recordBytes (r : CRecord) : List U8 :=
  recordBody r ++ leBytes 4 (crc32c (recordBody r)).toNat

/-- How a record's 64 bytes read (R286): all zero and so unclaimed, bad, or a record. -/
inductive RecordRead
  | zero
  | bad
  | good (r : CRecord)
  deriving DecidableEq, Repr

def readRecordBytes (bs : List U8) : RecordRead :=
  let f (o k : Nat) : Nat := leNat ((bs.drop o).take k)
  if bs.all (fun b => decide (b = 0#8)) then .zero
  else if (crc32c (bs.take 60)).toNat ≠ f 0x3C 4 then .bad
  else .good
    { owner := f 0 6
      job := f 6 1
      claimed := decide (f 7 1 / 128 % 2 = 1)
      nextStep := f 8 6
      active := f 0x0E 1 % 2
      lastSkip := decide (f 0x0E 1 / 2 % 2 = 1)
      recipe := f 0x0F 1
      versionStep := f 0x10 6
      digest := BitVec.ofNat 64 (f 0x18 8)
      ringS := (List.range 5).map (fun e => f (0x20 + 4 * e) 4)
      ringOvf := f 0x34 1
      ringCount := f 0x35 1
      skips := f 0x38 4 }

/-! ### The unison digest (R318) -/

def mix64 (z : U64) : U64 :=
  let a := (z ^^^ (z >>> 30)) * 0xBF58476D1CE4E5B9#64
  let b := (a ^^^ (a >>> 27)) * 0x94D049BB133111EB#64
  b ^^^ (b >>> 31)

def digestTerm (i : Nat) (c : U32) : U64 := mix64 (BitVec.ofNat 64 (i * 2 ^ 32 + c.toNat))

/-- The digest of a version from its slot's tags in order. -/
def digestOf (versionStep : Nat) (tags : List U32) : U64 :=
  ((List.range tags.length).zip tags).foldl (fun d p => d ^^^ digestTerm p.1 p.2) (mix64 (BitVec.ofNat 64 versionStep))

/-- The digest after a skipped step. -/
def digestSkip (d : U64) (old new : Nat) : U64 := d ^^^ mix64 (BitVec.ofNat 64 old) ^^^ mix64 (BitVec.ofNat 64 new)

/-- A shard header that no node could fit (R280, R282). -/
def LHeader.broken (h : LHeader) (extent : Nat) : Bool :=
  decide (h.magic ≠ 0x5348544C) || decide (h.version ≠ 1) || !h.clean || decide (6 < h.nmom) || decide (h.n = 0) || decide (2 ^ 30 < h.n) || decide (4 < h.late)
    || decide (extent < stateBytes h.nmom h.n h.late)

end Sys2Proof.Machine
end

