-- ==== Sys2Proof/Machine/Image.lean ====
section
/-! DEFINITION. Program images as bytes (R75 to R91, R100): the header, the section table, the entries, the reserved fields that check 5 tests, and the program read from them. -/

namespace Sys2Proof.Machine

/-- A byte of the image, by its offset. -/
abbrev ImgRd := Nat → U8

/-! ### Header and section table (R77, R78) -/

structure ImgHeader where
  magic : Nat
  major : Nat
  minor : Nat
  imageBytes : Nat
  flags : Nat
  sections : Nat
  tableAt : Nat
  crc : Nat
  caps : Nat
  scratchLoc : Nat
  scratchBytes : Nat
  reserved : Nat
  deriving DecidableEq, Repr

def readImgHeader (rd : ImgRd) : ImgHeader :=
  { magic := rdLe rd 0 4, major := rdLe rd 4 2, minor := rdLe rd 6 2, imageBytes := rdLe rd 8 4, flags := rdLe rd 0x0C 4
    sections := rdLe rd 0x10 4, tableAt := rdLe rd 0x14 4, crc := rdLe rd 0x18 4, caps := rdLe rd 0x1C 4
    scratchLoc := rdLe rd 0x20 8, scratchBytes := rdLe rd 0x28 8, reserved := rdLe rd 0x30 16 }

/-- IMAGE_CRC as R77 forms it: over the whole image with its own field taken as 0. -/
def imageCrc (rd : ImgRd) (n : Nat) : U32 :=
  crc32c ((List.range n).map (fun i => if 0x18 ≤ i ∧ i < 0x1C then 0#8 else rd i))

/-- A section table entry (R78). -/
structure Sect where
  type : Nat
  reserved : Nat
  off : Nat
  bytes : Nat
  count : Nat
  deriving DecidableEq, Repr

def readSect (rd : ImgRd) (a : Nat) : Sect := ⟨rdLe rd a 2, rdLe rd (a + 2) 2, rdLe rd (a + 4) 4, rdLe rd (a + 8) 4, rdLe rd (a + 12) 4⟩

/-- Bytes of an entry of a section type, 0 for a byte pool; none for a type not known (R78, R79). -/
def sectEntry (t : Nat) : Option Nat :=
  match t with
  | 1 => some 64
  | 2 => some 16
  | 3 => some 32
  | 4 => some 16
  | 5 => some 0
  | 6 => some 4
  | 7 => some 8
  | 8 => some 0
  | _ => none

def readTable (rd : ImgRd) (h : ImgHeader) : List Sect := (List.range h.sections).map (fun i => readSect rd (h.tableAt + 16 * i))

/-- Whether one entry is well formed by itself (R76, R78, R79). -/
def Sect.ok (imageBytes : Nat) (x : Sect) : Bool :=
  decide (x.reserved = 0) && decide (x.off % 64 = 0) && decide (x.off + x.bytes ≤ imageBytes)
    && (match sectEntry x.type with
        | some 0 => decide (x.count = 0)
        | some k => decide (x.count * k = x.bytes)
        | none => decide (0x8000 ≤ x.type))

/-- Whether no two of a list of byte ranges meet; an empty range meets nothing. -/
def apart : List (Nat × Nat) → Bool
  | [] => true
  | r :: l => l.all (fun q => decide (r.2 ≤ q.1) || decide (q.2 ≤ r.1) || decide (r.2 ≤ r.1) || decide (q.2 ≤ q.1)) && apart l

/-- The part of check 5 that the header and the section table must pass before an entry can be read (R76 to R79, R614). DESIGN CHOICE (log entry 10): a SCRATCH_BYTES that is no multiple of 2,048 fails here too, with S_G_FORMAT, which R77 does not say. -/
def tableOk (rd : ImgRd) (h : ImgHeader) : Bool :=
  let l := readTable rd h
  decide (1 ≤ h.sections) && decide (h.sections ≤ 16) && decide (h.tableAt % 64 = 0) && decide (h.tableAt + 16 * h.sections ≤ h.imageBytes)
    && decide (h.flags < 2) && decide (h.reserved = 0) && decide (h.scratchBytes % 2048 = 0) && decide (h.scratchLoc < 2 ^ 48)
    && (decide (h.scratchBytes ≠ 0) || decide (h.scratchLoc = 0))
    && l.all (Sect.ok h.imageBytes) && decide ((l.map (·.type)).Nodup)
    && apart ((0, 64) :: (h.tableAt, h.tableAt + 16 * h.sections) :: l.map (fun x => (x.off, x.off + x.bytes)))

/-- The section of a type; an absent one is empty. -/
def sectOf (l : List Sect) (t : Nat) : Sect := (l.find? (fun x => decide (x.type = t))).getD ⟨t, 0, 0, 0, 0⟩

def hasSect (l : List Sect) (t : Nat) : Bool := l.any (fun x => decide (x.type = t))

/-- Offsets of a section's entries. -/
def sectRows (l : List Sect) (t size : Nat) : List Nat := (List.range (sectOf l t).count).map (fun i => (sectOf l t).off + size * i)

/-! ### Entries -/

def readTensor (rd : ImgRd) (a : Nat) : Tensor :=
  { dtype := rdLe rd a 1, rank := rdLe rd (a + 1) 1, kind := rdLe rd (a + 2) 1, tflags := rdLe rd (a + 3) 1
    aux := rdLe rd (a + 4) 4, ext6 := (List.range 6).map (fun i => rdLe rd (a + 8 + 4 * i) 4), loc := rdLe rd (a + 0x20) 8
    shardCount := rdLe rd (a + 0x28) 4, shardAxis := rdLe rd (a + 0x2C) 1, hintFirst := rdLe rd (a + 0x30) 4
    hintCount := rdLe rd (a + 0x34) 2 }

def readShard (rd : ImgRd) (a : Nat) : Shard := ⟨rdLe rd a 4, rdLe rd (a + 4) 2, rdLe rd (a + 6) 1, rdLe rd (a + 8) 8⟩

/-- A node entry; its attribute record is taken from ATTR where it lies inside that section. -/
def readNode (rd : ImgRd) (attr : Sect) (a : Nat) : GNode :=
  let off := rdLe rd (a + 8) 4
  let n := rdLe rd (a + 12) 4
  { op := rdLe rd a 1, sub := rdLe rd (a + 1) 1, nflags := rdLe rd (a + 2) 2, inCount := rdLe rd (a + 4) 1
    outCount := rdLe rd (a + 5) 1, attrOffset := off, attrBytes := n, imm0 := rdLe rd (a + 0x10) 4, imm1 := rdLe rd (a + 0x14) 4
    hintFirst := rdLe rd (a + 0x18) 4, hintCount := rdLe rd (a + 0x1C) 2
    attr := if off + n ≤ attr.bytes then (List.range n).map (fun i => (rd (attr.off + off + i)).toNat) else [] }

def readEdge (rd : ImgRd) (a : Nat) : GEdge := ⟨rdLe rd a 4, rdLe rd (a + 4) 2, rdLe rd (a + 6) 2, rdLe rd (a + 8) 1, rdLe rd (a + 9) 1⟩

/-- The program an image of well-formed table holds. -/
def readProgram (rd : ImgRd) (addr : Nat) (h : ImgHeader) : Program :=
  let l := readTable rd h
  { addr := addr, imageBytes := h.imageBytes, noCache := decide (h.flags % 2 = 1), requiredCaps := h.caps
    scratchLoc := h.scratchLoc, scratchBytes := h.scratchBytes, constAddr := addr + (sectOf l 8).off, constBytes := (sectOf l 8).bytes
    tensors := (sectRows l 1 64).map (readTensor rd), shards := (sectRows l 2 16).map (readShard rd)
    nodes := (sectRows l 3 32).map (readNode rd (sectOf l 5)), edges := (sectRows l 4 16).map (readEdge rd)
    hints := (sectRows l 7 8).map (fun a => ⟨rdLe rd a 1, rdLe rd (a + 4) 4⟩), outputs := (sectRows l 6 4).map (fun a => rdLe rd a 4) }

/-! ### Check 5 on the entries (R614) -/

/-- The numbers of the entries of a section that a test finds wrong. -/
def badRows (l : List Sect) (t size : Nat) (bad : Nat → Bool) : List Nat :=
  (((sectRows l t size).zip (List.range (sectOf l t).count)).filter (fun p => bad p.1)).map (·.2)

def tensorBad (rd : ImgRd) (a : Nat) : Bool :=
  let t := readTensor rd a
  !(decide (1 ≤ t.rank) && decide (t.rank ≤ 6) && decide (t.kind ≤ 4) && decide (t.tflags < 2)
    && (t.ext6.drop t.rank).all (fun e => decide (e = 0))
    && decide (rdLe rd (a + 0x2D) 3 = 0) && decide (rdLe rd (a + 0x36) 10 = 0) && decide (t.hintCount ≤ 8) && decide (t.loc < 2 ^ 48)
    && (decide (t.loc = 0) || decide (t.kind = 0) || decide (t.kind = 4))
    && (decide (t.aux = 0) || decide (t.kind = 2) || decide (t.kind = 3))
    && decide ((t.shardCount ≠ 0) = (t.kind = 3)) && (decide (t.shardAxis = 0) || decide (t.kind = 3 ∧ t.shardAxis < t.rank)))

/-- Check 5 on a shard entry (R87, R614). DESIGN CHOICE (log entry 13): a RANK of 1,024 or more, which names no module, fails here, of which no rule speaks. -/
def shardBad (rd : ImgRd) (a : Nat) : Bool :=
  let x := readShard rd a
  !(decide (x.sflags < 2) && decide (rdLe rd (a + 7) 1 = 0) && decide (x.rank < 1024) && decide (x.loc < 2 ^ 48)
    && (decide (x.sflags = 1) || decide (x.loc = 0)))

/-- Length of an operation's attribute record (R95). -/
def attrLen (op : Nat) : Nat :=
  match op with
  | 4 => 16
  | 5 => 8
  | 6 => 16
  | 7 => 16
  | 8 => 48
  | 9 => 16
  | 10 => 8
  | _ => 0

/-- NFLAGS bits that an operation uses (R95). -/
def nflagMask (op : Nat) : Nat :=
  match op with
  | 1 => 0x0B
  | 2 => 0x77
  | 3 => 0x08
  | 5 => 0x01
  | 6 => 0x01
  | _ => 0

/-- Reserved bytes of an operation's attribute record (R95, R99). -/
def attrReserved (op : Nat) : List Nat :=
  match op with
  | 4 => [1, 2, 3]
  | 5 => [2, 3, 4, 5, 6, 7]
  | 6 => [7, 12, 13, 14, 15]
  | 7 => [3, 8, 9, 10, 11, 12, 13, 14, 15]
  | 8 => [6, 7, 10, 11, 12, 13, 14, 15]
  | 9 => [6, 7, 9, 10, 11, 12, 13, 14, 15]
  | 10 => [6, 7]
  | _ => []

/-- Whether an operation code is one of R95. -/
def knownOp (op : Nat) : Bool := decide (1 ≤ op) && decide (op ≤ 10)

/-- Check 5 on a node entry (R89, R90, R95, R614). DESIGN CHOICE (log entry 14): an ATTR_OFFSET that is no multiple of 8 fails here, of which no rule speaks. -/
def nodeBad (rd : ImgRd) (attr : Sect) (a : Nat) : Bool :=
  let n := readNode rd attr a
  !(decide (rdLe rd (a + 6) 2 = 0) && decide (rdLe rd (a + 0x1E) 2 = 0) && decide (n.attrOffset % 8 = 0)
    && (decide (n.attrBytes ≠ 0) || decide (n.attrOffset = 0)) && decide (n.hintCount ≤ 8)
    && (!knownOp n.op || (decide (n.attrBytes = attrLen n.op) && decide (Nat.land n.nflags (nflagMask n.op) = n.nflags)
      && (n.attr.isEmpty || ((attrReserved n.op).all (fun i => decide (n.attr.getD i 0 = 0))
        && (decide (n.op ≠ 7 ∨ n.sub = 3 ∨ n.sub = 5 ∨ n.sub = 6) || (n.attr.drop 4).take 4 = [0, 0, 0, 0]))))))

def edgeBad (rd : ImgRd) (a : Nat) : Bool :=
  let e := readEdge rd a
  let src := decide (e.src = 0xFFFF)
  let dst := decide (e.dst = 0xFFFF)
  !(decide (rdLe rd (a + 10) 6 = 0) && !(src && dst)
    && (decide (e.tensor ≠ 0xFFFFFFFF) || (!src && !dst && decide (e.srcPort = 0xFF) && decide (e.dstPort = 0xFF)))
    && (!src || decide (e.srcPort = 0xFF)) && (!dst || decide (e.dstPort = 0xFF)))

/-- REDUCE nodes whose AXES hold no bit or one at or above X's RANK (R95). -/
def axesBad (p : Program) : List Nat :=
  (List.range p.nodes.length).filter (fun i => match p.nodes[i]? with
    | some n =>
      decide (n.op = 5) && !n.attr.isEmpty && (decide (n.attr.getD 0 0 = 0)
        || (match p.edges.find? (fun e => decide (e.dst = i ∧ e.dstPort = 0 ∧ e.tensor ≠ 0xFFFFFFFF)) with
            | some e => (match p.tensors[e.tensor]? with
                | some t => decide (2 ^ t.rank ≤ n.attr.getD 0 0)
                | none => false)
            | none => false))
    | none => false)

/-- Items at fault under check 5 once the table itself is sound; 0xFFFF stands for the image as a whole (R78, R115, R614). -/
def formatItems (rd : ImgRd) (h : ImgHeader) (p : Program) : List Nat :=
  let l := readTable rd h
  let whole :=
    [1, 3, 4, 6].any (fun t => !hasSect l t)
      || (p.tensors.any (fun t => decide (t.kind = 3)) && !hasSect l 2)
      || (p.nodes.any (fun n => decide (n.attrBytes ≠ 0)) && !hasSect l 5)
      || (p.tensors.any (fun t => decide (t.kind = 2)) && !hasSect l 8)
      || (badRows l 2 16 (shardBad rd)).length ≠ 0
      || (badRows l 7 8 (fun a => decide (rdLe rd (a + 1) 3 ≠ 0))).length ≠ 0
      || !decide p.outputs.Nodup
  badRows l 1 64 (tensorBad rd) ++ badRows l 3 32 (nodeBad rd (sectOf l 5)) ++ badRows l 4 16 (edgeBad rd) ++ axesBad p
    ++ (if whole then [0xFFFF] else [])

end Sys2Proof.Machine
end

