-- ==== Sys2Proof/Config.lean ====
section
/-! DEFINITION. What an implementation fixes and the values the spec leaves open. Every constant here is opaque: nothing can be proved of its value. -/

namespace Sys2Proof

/-- Time of an error record: Tolium's own clock (R70, R441). Applied to the state's free-value counter. -/
opaque Config.freeTime : Nat → U64

/-- RUN_TICKS of a submission as it ends: a count of a clock the model does not hold (R49, R70). -/
opaque Config.freeTicks : Nat → U32

/-- Any other count of time that a register shows and the model does not keep. -/
opaque Config.freeCount : Nat → U32

/-- A byte of host memory that the module reads and does not hold, by a free value's number and its place. -/
opaque Config.freeByte : Nat → Nat → U8

/-- The memory error that comes over a line at an idle step, if one does: the line, and how it shows (0 corrected, 1 to 4 bursts repeated, more uncorrectable) (R214, R222, R227). -/
opaque Config.freeUpset : Nat → Option (Nat × Nat)

/-- The module serial number (R547). -/
opaque Config.serial : U64

/-- The X.509 certificate chain of the identity area (R524). -/
opaque Config.certChain : List U8

/-- The device identity key: its modulus and its private exponent (R524). -/
opaque Config.deviceModulus : Nat
opaque Config.devicePrivate : Nat

/-- What DSP0274 has signed in a response, by the response (1 CHALLENGE_AUTH, 2 MEASUREMENTS, 3 KEY_EXCHANGE_RSP) and what it says (R527). -/
opaque Config.spdmSigned : Nat → List U8 → List U8

/-- Byte `i` of the random salt of an RSAPSS signature over a message (R527). -/
opaque Config.signSalt : List U8 → Nat → U8

/-- The module's key-exchange share for a requester's share (R527). -/
opaque Config.keyShare : List U8 → List U8

/-- The modulus of a Plovnan firmware key in the ROM (R523). -/
opaque Config.romKey : Nat → Nat

/-- SHA-256 of the Tolium ROM (R528). -/
opaque Config.romDigest : List U8

/-- Bytes a settings record's content is written as, by type and content: the spec gives no layout of the bodies (R520). -/
opaque Config.settingBytes : Nat → List Nat → List U8

/-- How much the relative powers of the calibration record of assembly test fall from step to step, and those of the default table in the base-die firmware (R491, R520). -/
opaque Config.calibP : Nat → Nat
opaque Config.defaultP : Nat → Nat

/-- Word `i` of the 16 DETAIL bytes of an error record of a kind with given contents: the spec names the contents and gives no packing (R442). -/
opaque Config.detailWord : Nat → List Nat → Nat → U32

/-- The reply to an MCTP control message, which the MCTP base specification fixes (R604). -/
opaque Config.mctpControl : U8 → List U8

/-- The fixed pattern of a LANE_TEST flit, byte by byte (R454). -/
opaque Config.lanePattern : Nat → U8

/-- The bytes of a token's message and of a credit's, by stream, edge and what it says, and of a FENCE notice for a compute die: the spec gives their content and no layout (R20, R21, R453, R470). -/
opaque Config.tokenBytes : Nat → Nat → List Nat → List U8
opaque Config.creditBytes : Nat → Nat → Nat → List U8
opaque Config.fenceBytes : Nat → List U8

/-- Whether a tensor hinted both ways costs less to recompute than to bring back from the bench tier, by the image's SHA-256, the job's region table, GLB_CAP_GEN and the tensor: what R391 lets decide; it gives no costs. -/
opaque Config.recomputeCheaper : List U8 → List Nat → Nat → Nat → Bool

/-- Which one of several items at fault a binder names (R104). -/
opaque Config.freePick : Nat → Nat

end Sys2Proof
end

