-- ==== Sys2Proof/Machine/Array.lean ====
section
/-! DEFINITION. The matrix array as a grid of dot-product units (R121 to R146, R618, R619): its weight registers, the map of logical columns, the passes into which a firing is cut, the tally check of every vector of every pass, and the passes of an attention sequencer's firing. -/

namespace Sys2Proof.Machine

/-! ### The grid and its loader (R121, R131, R132, R135, R136, R140) -/

/-- One weight register: the entries of a data DPU, or of a tally DPU with the matching sums of magnitudes. -/
structure DpuW where
  w : List Val
  mag : List Val
  deriving DecidableEq, Repr

def DpuW.none : DpuW := ⟨[], []⟩

/-- The weight registers of one array, by physical column 0 to 32 and then by row 0 to 31. -/
structure ArraySt where
  active : List (List DpuW)
  next : List (List DpuW)
  deriving DecidableEq, Repr

/-- The spec gives the weight registers no reset value. DESIGN CHOICE (log entry 27): no entries. -/
def ArraySt.fresh : ArraySt :=
  ⟨List.replicate 33 (List.replicate 32 DpuW.none), List.replicate 33 (List.replicate 32 DpuW.none)⟩

/-- The physical data columns that logical columns 0, 1, … stand for (R135). -/
def logicalCols (mapped : List Nat) : List Nat := (List.range 32).filter (fun c => !mapped.contains c)

def Val.mag : Val → Val
  | .int i => .int i.natAbs
  | .fl x => .fl x.abs

/-- The tally weights of a row from its logical columns' weights (R140): exact integer sums, or FP32 sums in ascending column order. -/
def tallyRow (int : Bool) (cols : List (List Val)) : DpuW :=
  let n := (cols.map List.length).foldl max 0
  if int then
    let sum (f : Int → Int) (i : Nat) : Val := .int ((cols.map (fun c => f ((c.getD i (.int 0)).toInt))).foldl (· + ·) 0)
    ⟨(List.range n).map (sum id), (List.range n).map (sum (fun x => x.natAbs))⟩
  else
    let f (c : List Val) : List Fl := c.map Val.toFl
    ⟨(tallyWeights id n (cols.map f)).map .fl, (tallyWeights Fl.abs n (cols.map f)).map .fl⟩

/-- A stationary tile: the weights of each logical column, row by row (R124). -/
abbrev Tile := List (List (List Val))

/-- Zero weights in the form of given ones. -/
def zeroWeights (l : List Val) : List Val := l.map (fun v => match v with | .int _ => .int 0 | .fl _ => .fl (.zero false))

/-- What the loader writes into a physical column of a row (R132, R136, R140). -/
def loadedAt (int : Bool) (mapped : List Nat) (tile : Tile) (col row : Nat) : DpuW :=
  let cols := tile.map (fun c => c.getD row [])
  if col = 32 then tallyRow int cols
  else
    match (logicalCols mapped).findIdx? (fun c => decide (c = col)) with
    | some k => ⟨cols.getD k [], []⟩
    | none => ⟨zeroWeights (cols.headD []), []⟩

/-- The loader writes the next weight registers of a tile's rows, column by column in ascending physical order, the tally column last (R132). -/
def ArraySt.load (x : ArraySt) (int : Bool) (mapped : List Nat) (tile : Tile) : ArraySt :=
  let rows := (tile.headD []).length
  (List.range 33).foldl (fun (y : ArraySt) c =>
    { y with next := y.next.set c (((List.range 32).zip (y.next.getD c [])).map (fun p => if p.1 < rows then loadedAt int mapped tile c p.1 else p.2)) }) x

/-- The front of a pass moves every next weight register into its active one (R131). -/
def ArraySt.swap (x : ArraySt) : ArraySt := { x with active := x.next }

/-- The tiles of a firing's passes go through the weight registers in order (R131, R132). -/
def ArraySt.run (x : ArraySt) (int : Bool) (mapped : List Nat) (tiles : List Tile) : ArraySt :=
  tiles.foldl (fun y t => (y.load int mapped t).swap) x

/-! ### The check of a vector (R140 to R144, R618) -/

/-- A floating vector of one pass: activation chunks, each column's weights, running sums entering and leaving. -/
def checkFl (tol : Nat) (act : List (List Fl)) (cols : List (List (List Fl))) (ins outs : List Fl) : TallyResult := tallyFl tol act cols ins outs

/-- An integer vector of one pass: T formed with the tally weights (R140, R141), against the sums entering and leaving. -/
def checkInt (act : List (List Int)) (cols : List (List (List Int))) (ins outs incs : List Int) (sat : Bool) (satd : List Bool) : TallyResult :=
  let t := (((List.range act.length).map (fun r =>
    let a := act.getD r []
    let w := (List.range a.length).map (fun i => (cols.map (fun c => (c.getD r []).getD i 0)).foldl (· + ·) 0)
    chunkInt (a.zip w)))).foldl (· + ·) 0
  tallyInt t ins outs incs sat satd

/-! ### Passes of a MATMUL firing (R124, R126, R127, R134) -/

/-- A pass: the output rows whose vectors stream through it, in order, the first output column and the number of columns of its tile, and its number `p` in the accumulation. -/
structure ArrayPass where
  rows : List Nat
  col0 : Nat
  cols : Nat
  p : Nat
  deriving DecidableEq, Repr

/-- Columns of a row whose stored bytes a byte range of the tensor meets; a row of an MX tensor whose scales it meets is formed whole (R156). -/
def TView.colsIn (v : TView) (r lo hi : Nat) : Nat × Nat :=
  let n := inner v.exts
  let p := rowPitch v.d n
  let bits := max 1 (elemBits v.d)
  let a := lo - r * p
  let b := min hi ((r + 1) * p) - r * p
  if isMX v.d then
    (if n * bits / 8 < b then (0, n) else (min n (a * 8 / bits / 32 * 32), min n (roundUp ((b * 8 + bits - 1) / bits) 32)))
  else (min n (a * 8 / bits), min n ((b * 8 + bits - 1) / bits))

/-- A row with the range of its columns that a firing forms. -/
abbrev RowSeg := Nat × Nat × Nat

/-- Rows next to each other with the same key and the same columns put together. -/
def groupSegs (key : Nat → List Nat) (l : List RowSeg) : List (List Nat × Nat × Nat) :=
  l.foldr (fun x acc =>
    match acc with
    | (r :: rs, c) :: rest => if key r = key x.1 ∧ c = x.2 then (x.1 :: r :: rs, c) :: rest else ([x.1], x.2) :: acc
    | _ => ([x.1], x.2) :: acc) []

/-- The batch position of an output row (R616): rows of one batch share their stationary tiles. -/
def batchOf (outExts : List Nat) (r : Nat) : List Nat := (unflattenIdx outExts.dropLast r).dropLast

/-- Chunks of the K sequence of a class (R122, R126, R148). -/
def WidthClass.chunksOf (c : WidthClass) (k : Nat) : Nat :=
  match c with
  | .pair => (k + 15) / 16 * 3
  | _ => (k + c.chunk - 1) / c.chunk

/-- The passes that form the columns of groups of rows on an array of width `w`, at most 4,096 vectors each (R124). DESIGN CHOICE (log entry 28): the order, which R612 leaves to the binder, is tile by tile in ascending columns, and the passes of one accumulation one after the other. -/
def passesOf (w nch : Nat) (groups : List (List Nat × Nat × Nat)) : List ArrayPass :=
  if w = 0 then []
  else
    groups.flatMap (fun g =>
      (List.range ((g.2.2 - g.2.1 + w - 1) / w)).flatMap (fun t =>
        let c0 := g.2.1 + t * w
        (chunks 4096 g.1).flatMap (fun rows => (List.range ((nch + 31) / 32)).map (fun p => ⟨rows, c0, min w (g.2.2 - c0), p⟩))))

/-- The operand pairs of every logical column of a pass's vector: columns beyond the tile hold zero weights (R127). -/
def passCols (rd : Nat → U8) (a b : TView) (outExts : List Nat) (w : Nat) (x : ArrayPass) (row : Nat) : List (List (Val × Val)) :=
  let first := matPairs rd a b outExts row x.col0
  (List.range w).map (fun c => if c < x.cols then matPairs rd a b outExts row (x.col0 + c) else first.map (fun q => (q.1, match q.2 with | .int _ => .int 0 | .fl _ => .fl (.zero false))))

/-- The pass after which an injected flip alters the running sum of a logical column of a vector in a tile. -/
def flipOf (f : List Flip) (x : ArrayPass) (row c : Nat) : Option Nat :=
  (f.find? (fun y => decide (y.row = row) && decide (y.col0 = x.col0) && decide (y.off = c))).map (·.pass)

/-- The tally check of one vector of a MATMUL pass (R142 to R144, R618). -/
def matCheck (rd : Nat → U8) (nd : GNode) (ins : List TView) (out : TView) (tol w : Nat) (flip : List Flip) (x : ArrayPass) (row : Nat) : TallyResult :=
  let a := viewAt ins 0
  let b := viewAt ins 1
  let cls := passClass a.d b.d
  let cols := passCols rd a b out.exts w x row
  if isIntD a.d then
    let sat := nflag nd 0
    let parts := cols.map (fun q => chunks 32 ((chunks cls.chunk (q.map (fun p => (p.1.toInt, p.2.toInt))))))
    let sums := (numberedCols parts).map (fun q =>
      (passSums (fun s c => (accInt sat (s, 0) (chunkInt c)).1) flip12Int 0 q.2 (flipOf flip x row q.1)).getD x.p (0, 0))
    let here := parts.map (fun l => l.getD x.p [])
    let incs := here.map (fun l => (l.map chunkInt).foldl (· + ·) 0)
    let satd := (here.zip sums).map (fun q => decide ((q.1.map chunkInt).foldl (accInt sat) (q.2.1, 0) ≠ (q.2.1 + (q.1.map chunkInt).foldl (· + ·) 0, 0)))
    checkInt ((here.headD []).map (fun l => l.map (·.1))) (here.map (fun l => l.map (fun c => c.map (·.2)))) (sums.map (·.1)) (sums.map (·.2)) incs sat satd
  else
    let parts := cols.map (fun q => chunks 32 (kChunks cls (q.map (fun p => (p.1.toFl, p.2.toFl)))))
    let sums := (numberedCols parts).map (fun q =>
      (passSums (fun (s : Fl) c => (accChunk (s, 0) (chunkResult c)).1) flip12 (.fin false 0 0) q.2 (flipOf flip x row q.1)).getD x.p (.zero false, .zero false))
    let here := parts.map (fun l => l.getD x.p [])
    checkFl tol ((here.headD []).map (fun l => l.map (·.1))) (here.map (fun l => l.map (fun c => c.map (·.2)))) (sums.map (·.1)) (sums.map (·.2))
where
  /-- A list with the numbers of its entries. -/
  numberedCols {β : Type} (l : List β) : List (Nat × β) := (List.range l.length).zip l

/-- The stationary tile of a pass (R124, R127). -/
def passTile (rd : Nat → U8) (ins : List TView) (out : TView) (w : Nat) (x : ArrayPass) : Tile :=
  let a := viewAt ins 0
  let b := viewAt ins 1
  let cls := passClass a.d b.d
  let cols := passCols rd a b out.exts w x (x.rows.headD 0)
  if isIntD a.d then
    cols.map (fun q => (((chunks 32 (chunks cls.chunk (q.map (fun p => p.2)))).getD x.p [])))
  else
    cols.map (fun q => ((chunks 32 (kChunks cls (q.map (fun p => (p.1.toFl, p.2.toFl))))).getD x.p []).map (fun c => c.map (fun p => Val.fl p.2)))

/-! ### What the checker finds over a firing -/

/-- The checks of a firing as they are decided, up to the first mismatch: passes completed, vectors not compared, vectors compared on increments, and the mismatch's pass, vector, difference and bound. -/
structure TallySeen where
  passes : Nat
  skips : Nat
  sats : Nat
  miss : Option (Nat × Nat × Nat × Nat)
  deriving DecidableEq, Repr

def TallySeen.start : TallySeen := ⟨0, 0, 0, none⟩

/-- One more vector decided. -/
def TallySeen.vector (t : TallySeen) (pass v : Nat) (r : TallyResult) : TallySeen :=
  if t.miss.isSome then t
  else
    match r with
    | .accept => t
    | .skip => { t with skips := t.skips + 1 }
    | .sat => { t with sats := t.sats + 1 }
    | .miss d b => { t with miss := some (pass, v, d, b) }

/-- One pass decided. -/
def TallySeen.pass (t : TallySeen) (i : Nat) (l : List TallyResult) : TallySeen :=
  let u := ((List.range l.length).zip l).foldl (fun (a : TallySeen) q => a.vector i q.1 q.2) t
  if u.miss.isSome then u else { u with passes := u.passes + 1 }

/-- The passes of a firing decided in order. -/
def tallySeen (ls : List (List TallyResult)) : TallySeen :=
  ((List.range ls.length).zip ls).foldl (fun a q => a.pass q.1 q.2) TallySeen.start

/-- Idle cycles at the left edge behind short passes; none follow a firing's last pass (R133, R134). -/
def idleCycles (vs : List Nat) : Nat := (vs.dropLast.map (fun v => 33 - v)).sum

/-- The vector numbered `k` over all passes, as its pass and its place there. -/
def vectorAt : List Nat → Nat → Nat → Option (Nat × Nat)
  | [], _, _ => none
  | v :: l, i, k => if k < v then some (i, k) else vectorAt l (i + 1) (k - v)

/-! ### Passes of an attention sequencer's firing (R195, R196, R201, R205) -/

/-- Whether the sequencer skips a key block for the rows of a tile: in modes 1 to 3, when every pair is masked (R201). -/
def blockSkipped (rd : Nat → U8) (nd : GNode) (b h : Nat) (rows keys : List Nat) : Bool :=
  decide (1 ≤ attnMode nd) && decide (attnMode nd ≤ 3) && rows.all (fun r => keys.all (fun c => !pairAllowed rd nd none b h r c))

/-- A tile of a FORWARD firing: the batch, the head and the query rows. -/
abbrev QTile := Nat × Nat × List Nat

/-- The tiles among flat query rows. -/
def qTiles (q : TView) (rows : List Nat) : List QTile :=
  ((rows.map (fun r => let ix := unflattenIdx q.exts.dropLast r; (ix.getD 0 0, ix.getD 1 0, ix.getD 2 0)))).foldr (fun x acc =>
    match acc with
    | (b, h, l) :: rest => if b = x.1 ∧ h = x.2.1 then (b, h, x.2.2 :: l) :: rest else (x.1, x.2.1, [x.2.2]) :: acc
    | [] => [(x.1, x.2.1, [x.2.2])]) []

/-- Key blocks of a node. -/
def keyBlocks (k : TView) : List (List Nat) := (List.range ((k.exts.getD 2 0 + 127) / 128)).map (blockKeys (k.exts.getD 2 0))

/-- (Tile, block) pairs that a FORWARD firing skips (R201). -/
def skippedPairs (rd : Nat → U8) (nd : GNode) (q k : TView) (rows : List Nat) : Nat :=
  ((qTiles q rows).map (fun t => ((keyBlocks k).filter (fun ks => blockSkipped rd nd t.1 t.2.1 t.2.2 ks)).length)).sum

/-- The share of a firing's rows that core `i` of `n` usable ones serves. DESIGN CHOICE (log entry 28): equal runs of rows in order, as R205 leaves it. -/
def coreRows (rows : List Nat) (n i : Nat) : List Nat :=
  let k := (rows.length + n - 1) / max 1 n
  (rows.drop (i * k)).take k

/-- The check of the vector of one query row in a tile of keys, the sum of one logical column altered by an injection. -/
def scoreCheck (rd : Nat → U8) (q k : TView) (tol w b h r : Nat) (keys : List Nat) (flip : Option Nat) : TallyResult :=
  let hk := keyHead q k h
  let cls := passClass q.d k.d
  let first := scorePairs rd q k b h hk r (keys.headD 0)
  let cols := (List.range w).map (fun c => match keys[c]? with
    | some key => kChunks cls (scorePairs rd q k b h hk r key)
    | none => kChunks cls (first.map (fun p => (p.1, Fl.zero false))))
  let outs := ((List.range w).zip cols).map (fun p =>
    let o := (accChunks (.fin false 0 0, 0) p.2).1
    if flip = some p.1 then flip12 o else o)
  checkFl tol ((cols.headD []).map (fun l => l.map (·.1))) (cols.map (fun l => l.map (fun c => c.map (·.2)))) (outs.map (fun _ => Fl.zero false)) outs

/-- The check of a row's vector in a tile of V's columns: the rescaled o enters as the running sum (R196). -/
def weightCheck (vd tol w : Nat) (o ps : List Fl) (vcols : List (List Fl)) (flip : Option Nat) : TallyResult :=
  let cls := passClass vd vd
  let cols := (List.range w).map (fun c => kChunks cls (ps.zip (vcols.getD c (ps.map (fun _ => Fl.zero false)))))
  let ins := (List.range w).map (fun c => o.getD c (.zero false))
  let outs := ((ins.zip cols).zip (List.range w)).map (fun p =>
    let o := (accChunks (p.1.1, 0) p.1.2).1
    if flip = some p.2 then flip12 o else o)
  checkFl tol ((cols.headD []).map (fun l => l.map (·.1))) (cols.map (fun l => l.map (fun c => c.map (·.2)))) ins outs

/-- One pass of a sequencer's firing on one array: its batch, head and key block, whether it is the pass of weights into o, and its tile by the first key or the first column of V. -/
structure AttnPass where
  b : Nat
  h : Nat
  block : Nat
  into : Bool
  col0 : Nat
  cols : Nat
  deriving DecidableEq, Repr

/-- The passes of a tile's rows over one key block on an array of width `w`: the tiles of keys, then those of V's columns (R195, R196). -/
def blockPasses (k : TView) (dh w b h bi : Nat) : List AttnPass :=
  let n := (blockKeys (k.exts.getD 2 0) bi).length
  ((List.range ((n + w - 1) / max 1 w)).map (fun i => ⟨b, h, bi, false, bi * 128 + i * w, min w (n - i * w)⟩))
    ++ ((List.range ((dh + w - 1) / max 1 w)).map (fun i => ⟨b, h, bi, true, i * w, min w (dh - i * w)⟩))

/-- The number of a pass in a flip (R619). -/
def AttnPass.num (x : AttnPass) : Nat := if x.into then x.block + 1 else 0

/-- A row's checks in one block, pass by pass, and the row after it; a row that makes no weights of its own sends no vector into o (R195, R196). -/
def rowChecks (rd : Nat → U8) (nd : GNode) (q k v : TView) (mask : Option TView) (tol w b h r : Nat) (flips : List Flip) (bi : Nat) (st : SoftRow) :
    List (Option TallyResult) × SoftRow :=
  let keys := blockKeys (k.exts.getD 2 0) bi
  let dh := inner q.exts
  let flat := flatRow q b h r
  let ss := blockScores rd nd q k mask b h r (Flip.keyAt flips flat) keys
  let step := softStep v.d st ss
  let vcols := blockV rd v b (keyHead q k h) dh keys
  ((blockPasses k dh w b h bi).map (fun x =>
      let lane := Flip.lane flips flat x.col0 x.num
      if x.into then
        step.2.map (fun ps => weightCheck v.d tol w ((step.1.o.drop x.col0).take x.cols) ps ((vcols.drop x.col0).take x.cols) lane)
      else some (scoreCheck rd q k tol w b h r ((List.range x.cols).map (x.col0 + ·)) lane)),
    softBlock v.d st ss vcols (Flip.outAt flips flat bi))

/-- A pass with its decided vectors: the query row of each and what the checker found. -/
abbrev AttnChecks := AttnPass × List (Nat × TallyResult)

/-- The passes of one query tile's rows on one core, in order, with their vectors in row order; `whole` are the tile's rows on all cores. -/
def tileChecks (rd : Nat → U8) (nd : GNode) (q k v : TView) (mask : Option TView) (tol w : Nat) (flips : List Flip) (whole : List Nat) (t : QTile) :
    List AttnChecks :=
  let start := t.2.2.map (fun r => (r, SoftRow.init (inner q.exts)))
  ((List.range (keyBlocks k).length).foldl (fun (a : List (Nat × SoftRow) × List AttnChecks) bi =>
    if blockSkipped rd nd t.1 t.2.1 whole ((keyBlocks k).getD bi []) then a
    else
      let l := a.1.map (fun x => (x.1, rowChecks rd nd q k v mask tol w t.1 t.2.1 x.1 flips bi x.2))
      let passes := blockPasses k (inner q.exts) w t.1 t.2.1 bi
      (l.map (fun x => (x.1, x.2.2)), a.2 ++ ((List.range passes.length).zip passes).map (fun p =>
        (p.2, l.filterMap (fun x => (x.2.1.getD p.1 none).map (fun c => (x.1, c))))))) (start, [])).2

/-- The stationary tile of a pass (R124, R127, R195, R196). -/
def AttnPass.tile (rd : Nat → U8) (q k v : TView) (w : Nat) (x : AttnPass) : Tile :=
  let hk := keyHead q k x.h
  let dh := inner q.exts
  let l : Tile :=
    if x.into then ((blockV rd v x.b hk dh (blockKeys (k.exts.getD 2 0) x.block)).drop x.col0 |>.take x.cols).map (fun col => chunks (passClass v.d v.d).chunk (col.map Val.fl))
    else (List.range x.cols).map (fun c => chunks (passClass q.d k.d).chunk ((List.range dh).map (fun i => Val.fl (k.idx rd [x.b, hk, x.col0 + c, i]).toFl)))
  l ++ List.replicate (w - l.length) ((l.headD []).map zeroWeights)

/-- The class of a sequencer's pass. -/
def AttnPass.cls (q k v : TView) (x : AttnPass) : WidthClass := if x.into then passClass v.d v.d else passClass q.d k.d

/-! ### What a firing does on one array -/

/-- The passes of one firing on one array: the vectors and the tile of each, what the checker found, the class of the pass with the first mismatch, and the flip that alters what the firing writes. -/
structure ArrayRun where
  core : Nat
  int : Bool
  vs : List Nat
  tiles : List Tile
  /-- What the checker finds of each vector of each pass. -/
  found : List (List TallyResult)
  classes : List WidthClass
  flips : List Flip
  /-- The pass and vector on which an armed TALLY_ONE has acted (R151). -/
  hit : Option (Nat × Nat)

/-- A MATMUL firing over parts of output rows on an array of width `w` and tolerance `tol`; `sel` names an injected flip by pass and vector, and its column (R619). -/
def matRun (rd : Nat → U8) (nd : GNode) (ins : List TView) (out : TView) (core w tol : Nat) (segs : List RowSeg) (sel : List Nat → Option (Nat × Nat × Nat)) : ArrayRun :=
  let a := viewAt ins 0
  let cls := passClass a.d (viewAt ins 1).d
  let ps := passesOf w (cls.chunksOf (inner a.exts)) (groupSegs (batchOf out.exts) segs)
  let vs := ps.map (fun x => x.rows.length)
  let hit := sel vs
  let flips : List Flip := match hit with
    | some (i, v, col) => (match ps[i]? with
        | some x => if col < w then [⟨x.rows.getD v 0, x.col0, x.cols, col, x.p, 0⟩] else []
        | none => [])
    | none => []
  { core := core, int := isIntD a.d, vs := vs, tiles := ps.map (passTile rd ins out w), flips := flips, hit := hit.map (fun h => (h.1, h.2.1)), classes := ps.map (fun _ => cls)
    found := ps.map (fun x => x.rows.map (matCheck rd nd ins out tol w flips x)) }

/-- An ATTENTION FORWARD firing's share on one core of the quad: `rows` of the firing's `all` flat query rows (R195, R196, R205). -/
def attnRun (rd : Nat → U8) (nd : GNode) (ins : List TView) (core w tol : Nat) (all rows : List Nat) (sel : List Nat → Option (Nat × Nat × Nat)) : ArrayRun :=
  let q := viewAt ins 0
  let k := viewAt ins 1
  let v := viewAt ins 2
  let whole (t : QTile) : List Nat := (qTiles q all).flatMap (fun x => if x.1 = t.1 ∧ x.2.1 = t.2.1 then x.2.2 else [])
  let run (f : List Flip) : List AttnChecks :=
    ((qTiles q rows).flatMap (fun t => tileChecks rd nd q k v (attnMask nd ins) tol w f (whole t) t)).filter (fun x => !x.2.isEmpty)
  let plain := run []
  let vs := plain.map (fun x => x.2.length)
  let hit := sel vs
  let flips : List Flip := match hit with
    | some (i, n, col) => (match plain[i]? with
        | some x => if col < w then [⟨flatRow q x.1.b x.1.h ((x.2.map (·.1)).getD n 0), x.1.col0, x.1.cols, col, x.1.num, 0⟩] else []
        | none => [])
    | none => []
  let done := if flips.isEmpty then plain else run flips
  { core := core, int := false, vs := vs, tiles := plain.map (fun x => x.1.tile rd q k v w), flips := flips, hit := hit.map (fun h => (h.1, h.2.1))
    classes := plain.map (fun x => x.1.cls q k v), found := done.map (fun x => x.2.map (·.2)) }

/-- What the checks of a firing on an array come to. -/
def ArrayRun.seen (x : ArrayRun) : TallySeen := tallySeen x.found

/-- A firing's work with a mismatch put at a vector of a pass, which ends it there (R146). -/
def ArrayRun.missAt (x : ArrayRun) (pass vector diff bound : Nat) : ArrayRun :=
  { x with found := x.found.take pass ++ [(x.found.getD pass []).take vector ++ [.miss diff bound]]
           hit := x.hit.filter (fun h => decide (h.1 < pass) || decide (h.1 = pass) && decide (h.2 ≤ vector)) }

/-- Passes that a firing has begun: those decided, and the one with the mismatch. -/
def ArrayRun.begun (x : ArrayRun) : Nat := x.seen.passes + (if x.seen.miss.isSome then 1 else 0)

end Sys2Proof.Machine
end

