-- ==== Sys2Proof/Machine/Chuck.lean ====
section
/-! DEFINITION. The Chucks of a copy engine (R263, R264): the sub-blocks into which a transposing firing cuts its source view, and the entries it leaves in them. -/

namespace Sys2Proof.Machine

/-- A Chuck: 64 rows of 64 entries of 32 bits (R263). -/
abbrev Chuck := List (List U32)

/-- The spec gives a Chuck's entries no reset value. DESIGN CHOICE (log entry 27): zeros. -/
def Chuck.blank : Chuck := List.replicate 64 (List.replicate 64 0)

/-- The two Chucks of a copy engine. -/
structure ChuckPair where
  first : Chuck
  second : Chuck
  deriving DecidableEq, Repr

def ChuckPair.blank : ChuckPair := ⟨.blank, .blank⟩

/-- Axes of Y and of X by position in the views of a TRANSPOSE (R258). -/
def transposeAxes (n : GNode) (r : Nat) : List Nat × List Nat :=
  let all := List.range r
  if copyPerm n (r - 1) = r - 1 then (all, all.map (copyPerm n))
  else
    let a := (all.find? (fun i => decide (copyPerm n i = r - 1))).getD 0
    let front := (all.filter (fun i => decide (i ≠ r - 1) && decide (i ≠ a)))
    (front ++ [a, r - 1], front.map (copyPerm n) ++ [copyPerm n (r - 1), r - 1])

/-- Whether a COPY node's firings go through the Chucks: their descriptors carry TRANSPOSE (R258, R264). -/
def transposes (n : GNode) (r : Nat) : Bool := decide (n.sub = 1) && decide (copyPerm n (r - 1) ≠ r - 1)

/-- A sub-block of the source view: the index of the leading dimensions, and the numbers of its 64 rows and 64 columns. -/
structure SubBlock where
  front : List Nat
  row : Nat
  col : Nat
  deriving DecidableEq, Repr

/-- The sub-blocks from which parts of the rows of Y are read, in the order in which they are first needed (R264). -/
def subBlocks (n : GNode) (y : TView) (segs : List RowSeg) : List SubBlock :=
  let r := y.exts.length
  let axes := (transposeAxes n r).1
  (segs.flatMap (fun s =>
    let ix := unflattenIdx y.exts.dropLast s.1
    let front := (axes.take (r - 2)).map (fun a => ix.getD a 0)
    let p := ix.getD (axes.getD (r - 2) 0) 0
    (List.range ((s.2.2 - 1) / 64 + 1 - s.2.1 / 64)).map (fun i => ⟨front, s.2.1 / 64 + i, p / 64⟩))).foldl
      (fun l b => if l.contains b then l else l ++ [b]) []

/-- An element as a Chuck entry holds it (R263). -/
def TView.entry (v : TView) (rd : Nat → U8) (ix : List Nat) : U32 :=
  let i := flattenIdx v.exts ix
  let n := max 1 (inner v.exts)
  BitVec.ofNat 32 (v.code rd (i / n) (i % n) + (if isMX v.d then 256 * v.scaleCode rd (i / n) (i % n) else 0))

/-- A sub-block written into a Chuck by rows; entries outside a partial one stay (R264). -/
def SubBlock.write (rd : Nat → U8) (n : GNode) (x y : TView) (b : SubBlock) (c : Chuck) : Chuck :=
  let r := y.exts.length
  let axes := (transposeAxes n r).2
  let rows := y.exts.getD (r - 1) 0
  let cols := y.exts.getD ((transposeAxes n r).1.getD (r - 2) 0) 0
  ((List.range 64).zip c).map (fun row => ((List.range 64).zip row.2).map (fun e =>
    let q := b.row * 64 + row.1
    let p := b.col * 64 + e.1
    if q < rows ∧ p < cols then
      let at' := axes.zip (b.front ++ [q, p])
      x.entry rd ((List.range r).map (fun a => ((at'.find? (fun z => decide (z.1 = a))).map (·.2)).getD 0))
    else e.2))

/-- The sub-blocks of a firing pass through the two Chucks in turn. -/
def ChuckPair.run (rd : Nat → U8) (n : GNode) (x y : TView) (c : ChuckPair) (l : List SubBlock) : ChuckPair :=
  ((List.range l.length).zip l).foldl (fun (t : ChuckPair) b =>
    if b.1 % 2 = 0 then { t with first := b.2.write rd n x y t.first } else { t with second := b.2.write rd n x y t.second }) c

end Sys2Proof.Machine
end

