-- ==== Sys2Proof/Machine/StreamTypes.lean ====
section
/-! DEFINITION. The state of streams, job contexts, regions, engines and UPDATEs as plain data (R19, R35 to R42, R49, R232, R288, R301). -/

namespace Sys2Proof.Machine

/-- Stream states (R40). -/
inductive SState
  | free
  | idle
  | binding
  | running
  | draining
  | completed
  | aborted
  | failed
  | frozen
  deriving DecidableEq, Repr

/-- The STATE value of R40. -/
def SState.code : SState → Nat
  | .free => 0
  | .idle => 1
  | .binding => 2
  | .running => 3
  | .draining => 4
  | .completed => 5
  | .aborted => 6
  | .failed => 7
  | .frozen => 8

/-- A submission waiting behind the current one. -/
structure Sub where
  seq : U16
  addr : U48
  deriving DecidableEq, Repr

/-- One stream: the status record field by field (R49), and what its home stream manager keeps beside it. -/
structure Stream where
  st : SState
  home : Nat
  descant : Bool
  stalled : Bool
  job : Nat
  seq : U16
  endStatus : U16
  cmdResult : U16
  cmdOp : Nat
  cmdSeq : U16
  discarded : Nat
  prevEnd : Nat
  gen : U32
  outTotal : Nat
  outDone : Nat
  outPrefix : Nat
  oobWrites : U32
  nodesDone : Nat
  nodesTotal : Nat
  firings : U48
  faultUnit : U16
  step : U48
  numflags : Flags
  emptyRows : Bool
  runTicks : U32
  submit : U48
  prevSeq : U16
  /-- Submissions queued behind SEQ, oldest first (R38); PENDING is its length. -/
  pend : List Sub
  /-- The last accepted SEQ; 0 after OPEN (R42). -/
  lastSeq : U16
  /-- Submissions an ABORT of a pending one has discarded since the current one began (R57). -/
  dropped : Nat
  /-- The bound program of the submission while it holds node slots (R610). -/
  bound : Option Bound
  /-- Complete output blocks as (first, count) runs, rising and apart (R52). -/
  doneRuns : List (Nat × Nat)
  /-- When the submission entered BINDING, as a place in the order of all entries (R108). -/
  order : Nat
  /-- The job's active phase as the submission entered BINDING (R360). -/
  phase0 : Nat
  /-- Memory as the submission entered BINDING (R94). -/
  entryMem : List (Nat × U8)
  deriving DecidableEq, Repr

/-- A stream never opened. -/
def Stream.fresh : Stream :=
  { st := .free, home := 0, descant := false, stalled := false, job := 0, seq := 0, endStatus := 0, cmdResult := 0
    cmdOp := 0, cmdSeq := 0, discarded := 0, prevEnd := 0, gen := 0, outTotal := 0, outDone := 0, outPrefix := 0
    oobWrites := 0, nodesDone := 0, nodesTotal := 0, firings := 0, faultUnit := 0xF000, step := 0, numflags := 0
    emptyRows := false, runTicks := 0, submit := 0, prevSeq := 0, pend := [], lastSeq := 0, dropped := 0
    bound := none, doneRuns := [], order := 0, phase0 := 0, entryMem := [] }

/-- A binding that waits for node slots (R108): its stream, the placement it waits for, the bound program it will run and its output blocks. -/
structure WaitingBind where
  stream : Nat
  plan : Plan
  bound : Bound
  outTotal : Nat
  deriving DecidableEq, Repr

/-- One region entry (R232, R236). -/
structure Region where
  base : Nat
  limit : Nat
  valid : Bool
  rd : Bool
  wr : Bool
  deriving DecidableEq, Repr

def Region.empty : Region := ⟨0, 0, false, false, false⟩

/-- A request a running firing waits for: a snoop of a host-cached line (R561), a window request by REQ with the device addresses it covers (R357), or a slow-tier request with its device address (or the place its tag is kept under), its host address and, for a write, its data (R229, R230). -/
inductive Wait
  | snoop (line : Nat)
  | window (req addr len : Nat) (write : Bool)
  | slow (req addr hpa len : Nat) (data : Option (List U8))
  deriving DecidableEq, Repr

/-- The firing an engine runs: its stream, its node slot (by position in the bound program), whether it is the repetition of a faulted firing (R402), the tokens it took, what it waits for and the bytes that remote reads have brought. -/
structure Running where
  stream : Nat
  slot : Nat
  rep : Bool
  waits : List Wait
  fetched : List (Nat × U8)
  /-- Whether the firing's remote writes have been sent (R357). -/
  sent : Bool
  /-- Numeric flags the firing has raised so far (R173). -/
  flags : Flags
  /-- Whether it took a token from each input queue and a credit from each output counter of its slot (R24). -/
  took : Bool × Bool
  /-- For a Lathe firing, which part of its UPDATE or SHADOW it does and over how many grain blocks (R306); nothing where the engine has not said. -/
  part : LathePart × Nat
  deriving DecidableEq, Repr

/-- What an engine is doing. -/
structure Engine where
  cur : Option Running
  /-- The node slots last served, for the round-robin of R32. -/
  lastPrimary : Nat
  lastDescant : Nat
  /-- The attention sequencer (by unit number) that has reserved or uses this engine (R33). -/
  reservedBy : Option Nat
  /-- A tuning pass is running on it. -/
  tuning : Bool
  deriving DecidableEq, Repr

def Engine.idle : Engine := ⟨none, 0, 0, none, false⟩

/-- An UPDATE or SHADOW that holds its shard's commit record (R288). -/
structure Upd where
  stream : Nat
  node : Nat
  /-- The base die whose Lathe serves it (R276). -/
  lathe : Nat
  stack : Nat
  record : Nat
  /-- Device address of the STATE tensor. -/
  state : Nat
  hdr : LHeader
  /-- The record as the first firing found or claimed it (R285). -/
  found : CRecord
  step : Nat
  /-- The step the UPDATE applies or skips; none where it applies none (R308). -/
  applies : Option Nat
  /-- It retains and applies nothing: an UPDATE whose STEP is below NEXT_STEP (R307), a VERDICT (R303), a SHADOW (R315). -/
  castOnly : Bool
  /-- The loss scale of STEP, as binary32 bits (R297). -/
  scale : Nat
  /-- Elements retained so far, from the shard's start; for a SHADOW, the blocks written. -/
  retained : Nat
  /-- Elements of the new version, or of the cast copy of the version that stays, written so far. -/
  applied : Nat
  /-- An infinite or NaN element has been taken in (R296). -/
  ringOvf : Bool
  /-- The digest terms of the new version formed so far (R318). -/
  digest : U64
  deriving DecidableEq, Repr

/-- Whether the shard has loss scaling (R280). -/
def Upd.scaled (u : Upd) : Bool := decide (u.hdr.scaleLoc ≠ 0)

/-- Ring entry of a step (R284). -/
def Upd.entry (u : Upd) (step : Nat) : Nat := step % (u.hdr.late + 1)

/-- Whether the applied step's RING_OVF bit makes a loss-scaled shard skip it (R300). -/
def Upd.skips (u : Upd) : Bool :=
  match u.applies with
  | some a => u.scaled && (if u.hdr.late = 0 then u.ringOvf else u.found.ringOvf.testBit (u.entry a))
  | none => false

/-- Whether its apply firings run the recipe and write the inactive slot (R292, R300, R308). In a shard with LATE = 0 they run beside the retain firings that may still bring an overflow, so they run for a skipped step too, over every range: what they write never becomes current, and is the same whatever the order of firings (R317 and the worked example of the Lathe chapter). DEDUCED (log entry 25). -/
def Upd.runsRecipe (u : Upd) : Bool := u.applies.isSome && (decide (u.hdr.late = 0) || !u.skips)

/-- Whether an UPDATE has a cast copy (R280, R282). -/
def Upd.hasCast (u : Upd) : Bool := decide (u.hdr.castFmt ≠ 0)

/-- Whether an UPDATE that retains has only its commit left (R306). -/
def Upd.workDone (u : Upd) : Bool :=
  !u.castOnly && decide (u.retained = u.hdr.n) && (decide (u.applied = u.hdr.n) || (!u.runsRecipe && !u.hasCast))

/-- A Lathe's overflow word of one job (R301). -/
structure OvfWord where
  set : Bool
  step : Nat
  ovf : Bool
  deriving DecidableEq, Repr

def OvfWord.clear : OvfWord := ⟨false, 0, false⟩

/-- A binding cache entry: its base die and its key (R110), and the units its placement uses (R418). -/
structure CacheEntry where
  base : Nat
  sha : List U8
  job : Nat
  gen : U32
  units : List Nat
  deriving DecidableEq, Repr

end Sys2Proof.Machine
end

