-- ==== Sys2Proof/Machine/JobTypes.lean ====
section
/-! DEFINITION. The state of job contexts, quorum slots, the unison check and tuning passes as plain data (R71, R378 to R397, R411 to R447). -/

namespace Sys2Proof.Machine

/-- A contribution end that has not been vouched for yet (R422, R423): its step, and what still has to end before the CLEAN token may leave. -/
structure ContribEnd where
  step : Nat
  /-- Units whose firing of the job started before the contribution end and still runs. -/
  firings : List Nat
  /-- Base dies and blocks whose re-add check is not decided yet. -/
  checks : List (Nat × Nat)
  deriving DecidableEq, Repr

/-- A job context (R71): its configuration, its phase and collective sequence numbers (R354, R364), its clean horizon and retracts (R422 to R430), and its unison state (R431 to R438). -/
structure Job where
  valid : Bool
  descant : Bool
  keySlot : Nat
  descSram : Nat
  phase : Nat
  /-- CSEQ of the last collective of each group, by group number. -/
  cseq : List (Nat × Nat)
  /-- STEP of the most recently completed PHASE or UPDATE node; 0 if none (R381). -/
  lastStep : Nat
  contribs : List ContribEnd
  /-- Steps whose contribution end a retract has undone, until they have nodes to do again or a PHASE node ends them anew (R423). -/
  undone : List Nat
  /-- Highest step whose contribution end has been reached with everything before it ended (R423). -/
  allowed : Option Nat
  cleanSent : Option Nat
  /-- The lowest step retracted by this module since; no token for it or a later one until a new contribution end of it (R423). -/
  held : Option Nat
  horizon : Option Nat
  retractNext : U32
  retracted : List Nat
  uniEnable : Bool
  uniPeriod : Nat
  uniGroup : Nat
  /-- UNI_WAIT, the matching wait in seconds (R434). -/
  uniWait : Nat
  expelled : Bool
  disputed : Bool
  rotating : Bool
  /-- Units whose verdict a rotation of R438 still waits for. -/
  rotation : List Nat
  unresolved : Bool
  disputeKey : U32
  disputeStep : U48
  /-- The module's own digest of the disputed version (R436 to R438). -/
  disputeOwn : U64
  deriving DecidableEq, Repr

/-- A job context as reset leaves it (R71, R447). -/
def Job.fresh : Job :=
  { valid := false, descant := false, keySlot := 0, descSram := 0x10, phase := 0, cseq := [], lastStep := 0
    contribs := [], undone := [], allowed := none, cleanSent := none, held := none, horizon := none, retractNext := 0
    retracted := [], uniEnable := false, uniPeriod := 8, uniGroup := 0, uniWait := 60, expelled := false, disputed := false
    rotating := false, rotation := [], unresolved := false, disputeKey := 0, disputeStep := 0, disputeOwn := 0 }

/-- A CLEAN token held for a seat (R424, R425). -/
structure Token where
  step : Nat
  passive : Bool
  none : Bool
  deriving DecidableEq, Repr

/-- A quorum slot (R378, R397): the seat list, which seats are not live, and what each seat last reported. -/
structure Slot where
  valid : Bool
  job : Nat
  hbMiss : Nat
  /-- Endpoint of each seat. -/
  seats : List Nat
  self : Nat
  /-- Seats that are not live, rising. -/
  dead : List Nat
  /-- STEP of each seat's last counted heartbeat. -/
  steps : List (Nat × U48)
  tokens : List (Nat × Token)
  /-- The last counted RETRACT_ID of each seat (R429). -/
  retractIds : List (Nat × U32)
  hbSeq : U32
  quorum : Bool
  losses : U32
  deriving DecidableEq, Repr

def Slot.empty : Slot :=
  { valid := false, job := 0, hbMiss := 4, seats := [], self := 0, dead := [], steps := [], tokens := []
    retractIds := [], hbSeq := 0, quorum := false, losses := 0 }

/-- A load in progress: of a seat list (R380) or of a Window Map (R356): job, count, image address. -/
structure Load where
  job : Nat
  count : Nat
  addr : Nat
  deriving DecidableEq, Repr

/-- An entry of the unison table (R434), oldest first. -/
structure UniEntry where
  job : Nat
  key : U32
  step : U48
  own : Option U64
  left : Option U64
  right : Option U64
  deriving DecidableEq, Repr

/-- Where a unit's tuning pass stands (R413, R446). -/
inductive TuneState
  | idle
  | due
  | takeover
  | running
  deriving DecidableEq, Repr

def TuneState.code : TuneState → Nat
  | .idle => 0
  | .due => 1
  | .takeover => 2
  | .running => 3

/-- A tuning unit (R411, R446). -/
structure TuneUnit where
  st : TuneState
  /-- The run in progress is the repeat of a failed one (R417). -/
  rep : Bool
  fenced : Bool
  /-- When its transient faults happened, by the module's clock in milliseconds, and which of them a firing's repetition cleared (R404, R417). -/
  faults : List (Nat × Bool)
  /-- The module's clock, in milliseconds, at the last passed run (R446). -/
  age : Nat
  deriving DecidableEq, Repr

def TuneUnit.fresh : TuneUnit := ⟨.idle, false, false, [], 0⟩

/-- A day in milliseconds (R406, R446). -/
def dayMs : Nat := 86400000

/-- The transient faults of the last 24 hours (R406, R446). -/
def TuneUnit.recent (t : TuneUnit) (now : Nat) : List (Nat × Bool) := t.faults.filter (fun f => decide (now < f.1 + dayMs))

/-- A transient fault noted. -/
def TuneUnit.noteFault (t : TuneUnit) (now : Nat) (byFiring : Bool) : TuneUnit := { t with faults := t.recent now ++ [(now, byFiring)] }

end Sys2Proof.Machine
end

