-- ==== Sys2Proof/Machine/PackageTypes.lean ====
section
/-! DEFINITION. The state of the dies, the die-to-die links, power and start-up as plain data (R450 to R483, R486 to R512, R515 to R547). -/

namespace Sys2Proof.Machine

/-- The number by which a die is listed: compute dies 0 to 11, base dies 12 to 14. -/
def Die.num : Die → Nat
  | .compute d => d.val
  | .base b => 12 + b.val

/-- A die: whether it is up, why it went down (R482), test mode (R478), its budget at the sender and as applied (R465 to R467), its last report, and its clock step and duty (R491, R506). -/
structure DieSt where
  up : Bool
  cause : Nat
  test : Bool
  sent : Budget
  applied : Budget
  fallback : Bool
  /-- Floor limit of a base die, a Tolium setting (R467, R497); a compute die's is BND_FLOOR. -/
  floorW8 : Nat
  rep : DieReport
  step : Nat
  duty : Nat
  /-- The die is stepping down for temperature (R506). -/
  hot : Bool
  /-- Its monitors have been reset and nothing of it runs until the next start. -/
  stopped : Bool
  /-- Its power is off in Breath or Off, from which it wakes (R486, R505). -/
  asleep : Bool
  /-- The stacks of a base die are in self-refresh (R476, R486). -/
  refresh : Bool
  deriving DecidableEq, Repr

def Budget.zero : Budget := ⟨0, 0, false⟩
def DieReport.zero : DieReport := ⟨0, 0, 0, 0, 0, 0⟩

def DieSt.unpowered : DieSt :=
  { up := false, cause := 0, test := false, sent := .zero, applied := .zero, fallback := false, floorW8 := 0
    rep := .zero, step := 0, duty := 256, hot := false, stopped := false, asleep := false, refresh := false }

/-- The number by which a link end is listed: RDL pages 0 to 3, base ends of the bonds 4 to 15, die ends 16 to 27. -/
def LinkEnd.num : LinkEnd → Nat
  | .rdl r => r.val
  | .bondBase d => 4 + d.val
  | .bondDie d => 16 + d.val

/-- Bundles of the link (R450). -/
def LinkEnd.bundles : LinkEnd → Nat
  | .rdl _ => 8
  | _ => 16

/-- Lane groups of a bundle (R450). -/
def LinkEnd.groups : LinkEnd → Nat
  | .rdl _ => 16
  | _ => 8

/-- Flit payload bytes (R450). -/
def LinkEnd.payload : LinkEnd → Nat
  | .rdl _ => 480
  | _ => 240

/-- The other end of the link. -/
def LinkEnd.peer : LinkEnd → LinkEnd
  | .rdl r => .rdl (if r.val = 0 then 1 else if r.val = 1 then 0 else if r.val = 2 then 3 else 2)
  | .bondBase d => .bondDie d
  | .bondDie d => .bondBase d

/-- The die that holds this end, and the die at the far end (R457, R463). -/
def LinkEnd.own : LinkEnd → Die
  | .rdl r => .base (if r.val = 0 then 0 else if r.val = 3 then 2 else 1)
  | .bondBase d => .base ⟨d.val / 4, by omega⟩
  | .bondDie d => .compute d

def LinkEnd.far (e : LinkEnd) : Die := e.peer.own

/-- The die that goes down when the link has no bundle left: the compute die, B0 for J01, B2 for J12 (R457). -/
def LinkEnd.farDie : LinkEnd → Die
  | .rdl r => if r.val < 2 then .base 0 else .base 2
  | .bondBase d => .compute d
  | .bondDie d => .compute d

/-- A message that waits to be sent over a link: the stream whose tokens or credits it carries, if it is such a message, the retired bundle it was first sent on, if any, and the flit's KIND and payload (R451, R453, R456). -/
structure HeldMsg where
  stream : Option Nat
  old : Option Nat
  kind : Nat
  payload : List U8
  deriving DecidableEq, Repr

/-- One end of a die-to-die link (R481, R482). -/
structure LinkSt where
  up : Bool
  fenced : Bool
  peerClk : Bool
  /-- Bundles enabled at start, and those retired since, as masks. -/
  enabled : Nat
  retired : Nat
  /-- Consecutive clock-presence windows found short (R462). -/
  short : Nat
  /-- Lane errors of the last test run, by (bundle, group, lane) number; of its margin sweep, by that number and the step from −9 to 9 thirty-seconds of a unit interval, as 0 to 18; and the results of the die's two self-tests (R480). -/
  testErrs : List (Nat × U32)
  testMargin : List (Nat × Nat × U32)
  testLogic : Bool
  testSram : Bool
  /-- The bundle on which this end sends a stream's token and credit messages, by stream (R453). -/
  places : List (Nat × Nat)
  /-- Flits of retired bundles sent again and not yet acknowledged: the old bundle, the new one, and the FSEQ there (R453, R456). -/
  moved : List (Nat × Nat × U16)
  /-- Messages that wait to be sent, oldest first. -/
  held : List HeldMsg
  deriving DecidableEq, Repr

def LinkSt.down : LinkSt := ⟨false, false, false, 0, 0, 0, [], [], false, false, [], [], []⟩

/-- One bundle at one end: its sending and receiving sides (R451, R452). -/
structure BundleSt where
  txSeq : U16
  rxSeq : U16
  unacked : List Flit
  replays : Nat
  deriving DecidableEq, Repr

/-- After bring-up FSEQ and FACK stand at 0 (R451, R458). DEDUCED (log entry 31): these are the last numbers sent and received, so that the first flit carries FSEQ 1 and a FACK of 0 acknowledges nothing. -/
def BundleSt.fresh : BundleSt := ⟨1, 1, [], 0⟩

/-- One lane group at its receiving end (R454 to R459). -/
structure LaneGroup where
  /-- The lane shifted around. -/
  lane : Option Nat
  shimBad : Bool
  twoBad : Bool
  /-- Lanes that mismatched in the last LANE_TEST flit. -/
  last : List Nat
  /-- The shim lane not in use showed errors in its PRBS31 pattern in the last test interval (R455). -/
  prbs : Bool
  deriving DecidableEq, Repr

def LaneGroup.whole : LaneGroup := ⟨none, false, false, [], false⟩

/-- Power states (R486). -/
inductive PState
  | run
  | hold
  | breath
  | off
  deriving DecidableEq, Repr

def PState.code : PState → Nat
  | .run => 0
  | .hold => 1
  | .breath => 2
  | .off => 3

/-- Sources of a setpoint (R487). -/
inductive SwellSource
  | register
  | frame
  | service
  deriving DecidableEq, Repr

def SwellSource.code : SwellSource → Nat
  | .register => 0
  | .frame => 1
  | .service => 2

/-- Power, Swell and thermal state (R486 to R508). -/
structure PowerSt where
  st : PState
  /-- The state a change in progress leads to (R500, R511). -/
  change : Option PState
  target : Nat
  source : SwellSource
  ramp : Nat
  thermalCap : Nat
  /-- Milliseconds since a base-die or stack response was last active (R507). -/
  calmMs : Nat
  /-- Base dies in a response of R506 for their own temperature. -/
  hotBases : List Nat
  inputW : Nat
  input10mV : Nat
  step : Nat
  duty : Nat
  cap : Nat
  limiter : Nat
  stage : Nat
  shed : Bool
  /-- EPOCH of the last SWELL frame accepted (R351). -/
  epoch : Option U32
  flowLow : Bool
  leak : Bool
  mlpm : Nat
  throttleMs : Nat
  /-- Milliseconds since module-ready as the control loop and the Breath sampler count them: the module's clock for R406 and R446 (DESIGN CHOICE, log entry 49). -/
  clockMs : Nat
  /-- The last sample of each Breath sensor (R503), and its window bounds. -/
  brtLast : List U16
  brtLow : List U16
  brtHigh : List U16
  deriving DecidableEq, Repr

/-- Start-up state of Tolium (R515, R547). -/
structure StartSt where
  /-- Input power is present and Tolium runs. -/
  powered : Bool
  ready : Bool
  step : Nat
  slot : Nat
  recovery : Bool
  calDefault : Bool
  settingsBad : Bool
  startMs : Nat
  boots : U32
  straps : Nat
  /-- Measurements 1 to 10 as taken at step 4 of the last start (R528). -/
  measured : List (List U8)
  /-- The GDDR7 devices are all usable until the next start (R517 step 9). -/
  benchOk : Bool
  contentVersion : U32
  /-- Units retired at the last start (R417). -/
  retired : List Nat
  /-- The operator trust anchors as step 4 of the last start read them (R520, R530). -/
  anchors : List Anchor
  /-- Arrays whose repair record has been written since their reset (R11, R138). -/
  repaired : List Nat
  /-- Repair records in force since the last start (R138, R139). -/
  records : List Repair
  deriving DecidableEq, Repr

end Sys2Proof.Machine
end

