-- ==== Sys2Proof/Machine/Codes.lean ====
section
/-! DEFINITION. The status codes of R595: every code the module returns, by the spec's own name. -/

namespace Sys2Proof.Machine

/-- Success (R16, R595). -/
abbrev S_OK : U16 := 0x0000
/-- Row start or stride not a multiple of 64 bytes (R273, R595). -/
abbrev S_ALIGN : U16 := 0x1001
/-- Write view meets a source or index view (R273, R595). -/
abbrev S_OVERLAP : U16 := 0x1002
/-- Write view fails the nest rule (R273, R595). -/
abbrev S_ALIAS : U16 := 0x1003
/-- Zero stride on a written dimension (R273, R595). -/
abbrev S_WRITE_BCAST : U16 := 0x1004
/-- Innermost stride not allowed (R273, R595). -/
abbrev S_INNER : U16 := 0x1005
/-- Malformed descriptor set (R273, R595). -/
abbrev S_DESC_FORMAT : U16 := 0x1006
/-- Views disagree in shape (R273, R595). -/
abbrev S_DESC_SHAPE : U16 := 0x1007
/-- Outside the job's regions or permissions (R243, R595). -/
abbrev S_ACCESS : U16 := 0x2001
/-- Uncorrectable memory or SRAM error (R243, R595). -/
abbrev S_MEM_UNCORR : U16 := 0x2002
/-- Slow-tier request failed (R243, R595). -/
abbrev S_SLOW_TIER : U16 := 0x2003
/-- Back-invalidate unanswered (R579, R595). -/
abbrev S_HOST_COHERENCE : U16 := 0x2004
/-- Window Map would exceed 32,768 entries (R377, R595). -/
abbrev S_WMAP_FULL : U16 := 0x4001
/-- Malformed or conflicting entries (R377, R595). -/
abbrev S_WMAP_BAD : U16 := 0x4002
/-- Endpoint above 262,143 (R377, R595). -/
abbrev S_WMAP_ENDPOINT : U16 := 0x4003
/-- Load while the job has work (R377, R595). -/
abbrev S_WMAP_BUSY : U16 := 0x4004
/-- Window request unanswered (R377, R595). -/
abbrev S_FAB_TIMEOUT : U16 := 0x4005
/-- Remote refusal (R377, R595). -/
abbrev S_FAB_REFUSED : U16 := 0x4006
/-- No usable route (R377, R595). -/
abbrev S_FAB_UNREACHABLE : U16 := 0x4007
/-- Collective members disagree (R377, R595). -/
abbrev S_COLL_SHAPE : U16 := 0x4008
/-- Collective idle past CNS_COLL_TO (R377, R595). -/
abbrev S_COLL_TIMEOUT : U16 := 0x4009
/-- Seat list malformed or job unfit (R399, R595). -/
abbrev S_SEAT_BAD : U16 := 0x400A
/-- No quorum slot free (R399, R595). -/
abbrev S_SEAT_FULL : U16 := 0x400B
/-- Seat list load while the job has work (R399, R595). -/
abbrev S_SEAT_BUSY : U16 := 0x400C
/-- A die of the submission went down, or a command needed a home base die that is down (R484, R595). -/
abbrev S_DIE_DOWN : U16 := 0x5001
/-- Tally mismatch (R152, R595). -/
abbrev S_TALLY : U16 := 0x5010
/-- Grain tag mismatch persisted (R449, R595). -/
abbrev S_GRAIN : U16 := 0x5020
/-- Work withdrawn (R449, R595). -/
abbrev S_RETRACTED : U16 := 0x5021
/-- Expelled by the unison check (replica digest comparison) (R449, R595). -/
abbrev S_EXPELLED : U16 := 0x5022
/-- Two replicas disagree (R449, R595). -/
abbrev S_DISPUTED : U16 := 0x5023
/-- Work bound to a fenced unit (R449, R595). -/
abbrev S_UNIT_FENCED : U16 := 0x5024
/-- Breath or Off refused for work in progress (R514, R595). -/
abbrev S_PWR_BUSY : U16 := 0x6001
/-- Request not valid from the state (R514, R595). -/
abbrev S_PWR_STATE : U16 := 0x6002
/-- Stream failed by a forced Off (R514, R595). -/
abbrev S_PWR_FORCED_OFF : U16 := 0x6003
/-- Signature or manifest hash fails (R552, R595). -/
abbrev S_FW_SIGNATURE : U16 := 0x7001
/-- Key revoked or out of range (R552, R595). -/
abbrev S_FW_KEY_REVOKED : U16 := 0x7002
/-- SVN below the floor (R552, R595). -/
abbrev S_FW_ROLLBACK : U16 := 0x7003
/-- Image for another part (R552, R595). -/
abbrev S_FW_MODEL : U16 := 0x7004
/-- Delta source differs (R552, R595). -/
abbrev S_FW_BASE : U16 := 0x7005
/-- Malformed update file (R552, R595). -/
abbrev S_FW_FORMAT : U16 := 0x7006
/-- Built part fails its hash (R552, R595). -/
abbrev S_FW_HASH : U16 := 0x7007
/-- Update lock held elsewhere (R552, R595). -/
abbrev S_FW_SESSION : U16 := 0x7008
/-- Out of order, or during TRIAL (R552, R595). -/
abbrev S_FW_STATE : U16 := 0x7009
/-- RESET refused for work in progress (R552, R595). -/
abbrev S_FW_BUSY : U16 := 0x700A
/-- Outside the session's roles (R552, R595). -/
abbrev S_SVC_DENIED : U16 := 0x700B
/-- Settings body malformed (R552, R595). -/
abbrev S_SET_BAD : U16 := 0x700C
/-- Abort of an ended, draining or unrung submission (R74, R595). -/
abbrev S_NOTHING_TO_ABORT : U16 := 0x8001
/-- RING with the wrong SEQ (R74, R595). -/
abbrev S_SEQ : U16 := 0x8002
/-- Four submissions pending (R74, R595). -/
abbrev S_RING_FULL : U16 := 0x8003
/-- Command to a FREE stream (R74, R595). -/
abbrev S_NOT_OPEN : U16 := 0x8004
/-- OPEN to an open stream (R74, R595). -/
abbrev S_ALREADY_OPEN : U16 := 0x8005
/-- Job context not VALID (R74, R595). -/
abbrev S_NO_JOB : U16 := 0x8006
/-- CLOSE with work in progress (R74, R595). -/
abbrev S_BUSY : U16 := 0x8007
/-- Unknown OP or nonzero unused field (R74, R595). -/
abbrev S_BAD_COMMAND : U16 := 0x8008
/-- Submission ended by abort (R74, R595). -/
abbrev S_ABORTED : U16 := 0x8009
/-- Firing reached the watchdog (R74, R595). -/
abbrev S_FIRE_OVERRUN : U16 := 0x800A
/-- Command before module-ready (R552, R595). -/
abbrev S_NOT_READY : U16 := 0x800B
/-- Image lacks MAGIC (R120, R595). -/
abbrev S_G_MAGIC : U16 := 0x8010
/-- Contract version not supported (R120, R595). -/
abbrev S_G_VERSION : U16 := 0x8011
/-- IMAGE_CRC mismatch (R120, R595). -/
abbrev S_G_CRC : U16 := 0x8012
/-- Section table or field wrong (R120, R595). -/
abbrev S_G_FORMAT : U16 := 0x8013
/-- A count exceeds its capability (R120, R595). -/
abbrev S_G_TOO_LARGE : U16 := 0x8014
/-- Reference out of range (R120, R595). -/
abbrev S_G_INDEX : U16 := 0x8015
/-- Feature absent or undeclared (R120, R595). -/
abbrev S_G_CAPS : U16 := 0x8016
/-- Illegal operation or format combination (R120, R595). -/
abbrev S_G_TYPE : U16 := 0x8017
/-- Extents or positions wrong (R120, R595). -/
abbrev S_G_SHAPE : U16 := 0x8018
/-- Producer, cycle or ordering fault (R120, R595). -/
abbrev S_G_GRAPH : U16 := 0x8019
/-- Storage overlap (R120, R595). -/
abbrev S_G_LAYOUT : U16 := 0x801A
/-- Program does not fit the part (R120, R595). -/
abbrev S_G_NO_ROOM : U16 := 0x801B
/-- Shard header mismatch (R323, R595). -/
abbrev S_L_HEADER : U16 := 0x8020
/-- STEP out of sequence (R323, R595). -/
abbrev S_L_STEP : U16 := 0x8021
/-- Scale record step mismatch (R323, R595). -/
abbrev S_L_SCALE : U16 := 0x8022
/-- Commit record held (R323, R595). -/
abbrev S_L_BUSY : U16 := 0x8023
/-- Commit record claimed by another (R323, R595). -/
abbrev S_L_OWNER : U16 := 0x8024
/-- Commit record CRC fails (R323, R595). -/
abbrev S_L_RECORD : U16 := 0x8025
/-- State in a tier not allowed (R323, R595). -/
abbrev S_L_TIER : U16 := 0x8026
/-- Recipe load refused (R323, R595). -/
abbrev S_L_RECIPE : U16 := 0x8027
/-- FROZEN stream refused rejoin (R399, R595). -/
abbrev S_REJOIN_REFUSED : U16 := 0x8030
/-- UPDATE of STEP 2⁴⁸ − 1 (R399, R595). -/
abbrev S_STEP_LIMIT : U16 := 0x8031

/-- Every code of R595, in the table's order. -/
def allCodes : List U16 :=
  [S_OK, S_ALIGN, S_OVERLAP, S_ALIAS, S_WRITE_BCAST,
   S_INNER, S_DESC_FORMAT, S_DESC_SHAPE, S_ACCESS, S_MEM_UNCORR,
   S_SLOW_TIER, S_HOST_COHERENCE, S_WMAP_FULL, S_WMAP_BAD, S_WMAP_ENDPOINT,
   S_WMAP_BUSY, S_FAB_TIMEOUT, S_FAB_REFUSED, S_FAB_UNREACHABLE, S_COLL_SHAPE,
   S_COLL_TIMEOUT, S_SEAT_BAD, S_SEAT_FULL, S_SEAT_BUSY, S_DIE_DOWN,
   S_TALLY, S_GRAIN, S_RETRACTED, S_EXPELLED, S_DISPUTED,
   S_UNIT_FENCED, S_PWR_BUSY, S_PWR_STATE, S_PWR_FORCED_OFF, S_FW_SIGNATURE,
   S_FW_KEY_REVOKED, S_FW_ROLLBACK, S_FW_MODEL, S_FW_BASE, S_FW_FORMAT,
   S_FW_HASH, S_FW_SESSION, S_FW_STATE, S_FW_BUSY, S_SVC_DENIED,
   S_SET_BAD, S_NOTHING_TO_ABORT, S_SEQ, S_RING_FULL, S_NOT_OPEN,
   S_ALREADY_OPEN, S_NO_JOB, S_BUSY, S_BAD_COMMAND, S_ABORTED,
   S_FIRE_OVERRUN, S_NOT_READY, S_G_MAGIC, S_G_VERSION, S_G_CRC,
   S_G_FORMAT, S_G_TOO_LARGE, S_G_INDEX, S_G_CAPS, S_G_TYPE,
   S_G_SHAPE, S_G_GRAPH, S_G_LAYOUT, S_G_NO_ROOM, S_L_HEADER,
   S_L_STEP, S_L_SCALE, S_L_BUSY, S_L_OWNER, S_L_RECORD,
   S_L_TIER, S_L_RECIPE, S_REJOIN_REFUSED, S_STEP_LIMIT]

/-- The class of a status code (R16). -/
def codeClass (c : U16) : Nat := c.toNat / 4096

end Sys2Proof.Machine
end

