-- ==== Sys2Proof/Machine/RegTables.lean ====
section
/-! DEFINITION. The register tables of the spec, page class by page class: for each register its offset, the masks of its access types (R11) and its reset value. Registers that show other state are computed in Registers.lean; their rows here give only their access types. -/

namespace Sys2Proof.Machine

/-- One 32-bit register of a page: its offset, the bits of each access type (R11), the reset value, and whether CLR_COUNTS zeroes it (R587). Bits in no mask are RO or reserved (R15). -/
structure RegDef where
  off : Nat
  rw : Nat := 0
  w1c : Nat := 0
  w1s : Nat := 0
  reset : Nat := 0
  count : Bool := false
  deriving DecidableEq, Repr

/-- The registers of stmJob (R71). -/
def regsStmJob : List RegDef :=
  [{ off := 0x040, rw := 0xFF },
   { off := 0x044, rw := 0x7FFF03, reset := 0x100000 },
   { off := 0x048 },
   { off := 0x04C },
   { off := 0x050, count := true },
   { off := 0x054 }]

/-- The registers of stm (R73). -/
def regsStm : List RegDef :=
  [{ off := 0x040, rw := 0xFFFF, reset := 0x3E8 },
   { off := 0x044 },
   { off := 0x048 },
   { off := 0x04C, count := true },
   { off := 0x050, count := true }]

/-- The registers of glb (R104). -/
def regsGlb : List RegDef :=
  [{ off := 0x040, rw := 0xFFFF },
   { off := 0x044 },
   { off := 0x048 },
   { off := 0x04C },
   { off := 0x050, count := true },
   { off := 0x054, count := true },
   { off := 0x058, reset := 0xFFFF0000 },
   { off := 0x05C },
   { off := 0x060 }]

/-- The LO offsets of the LO/HI pairs of glb; HI stands 4 above (R13, R14). -/
def pairsGlb : List Nat := [0x044]

/-- The registers of mxa (R150). -/
def regsMxa : List RegDef :=
  [{ off := 0x040, reset := 0x21820 },
   { off := 0x044, rw := 0x80003F3F, reset := 0x3F3F },
   { off := 0x048, rw := 0x1F, reset := 0x10 },
   { off := 0x04C, count := true },
   { off := 0x050, count := true },
   { off := 0x054, count := true },
   { off := 0x058 },
   { off := 0x05C },
   { off := 0x060 },
   { off := 0x064, count := true },
   { off := 0x068, count := true },
   { off := 0x06C, count := true },
   { off := 0x070, count := true }]

/-- The LO offsets of the LO/HI pairs of mxa; HI stands 4 above (R13, R14). -/
def pairsMxa : List Nat := [0x064, 0x06C]

/-- The registers of vxe (R206). -/
def regsVxe : List RegDef :=
  [{ off := 0x040, reset := 0x2040 },
   { off := 0x044, count := true },
   { off := 0x048, count := true },
   { off := 0x04C, count := true }]

/-- The LO offsets of the LO/HI pairs of vxe; HI stands 4 above (R13, R14). -/
def pairsVxe : List Nat := [0x044]

/-- The registers of crv (R207). -/
def regsCrv : List RegDef :=
  [{ off := 0x040, reset := 0x3FFF },
   { off := 0x044, count := true },
   { off := 0x048, count := true },
   { off := 0x04C },
   { off := 0x050, count := true }]

/-- The LO offsets of the LO/HI pairs of crv; HI stands 4 above (R13, R14). -/
def pairsCrv : List Nat := [0x044]

/-- The registers of ats (R208). -/
def regsAts : List RegDef :=
  [{ off := 0x040, reset := 0x808004 },
   { off := 0x044, count := true },
   { off := 0x048, count := true },
   { off := 0x04C, count := true },
   { off := 0x050, count := true },
   { off := 0x054, count := true },
   { off := 0x058, count := true },
   { off := 0x05C, count := true },
   { off := 0x060 }]

/-- The LO offsets of the LO/HI pairs of ats; HI stands 4 above (R13, R14). -/
def pairsAts : List Nat := [0x044, 0x058]

/-- The registers of stmRgn (R236). -/
def regsStmRgn : List RegDef :=
  [{ off := 0x040, rw := 0x3FFF },
   { off := 0x044, rw := 0xFFFFF800 },
   { off := 0x048, rw := 0xFFFF },
   { off := 0x04C, rw := 0xFFFFF800 },
   { off := 0x050, rw := 0xFFFF },
   { off := 0x054, rw := 0x7 },
   { off := 0x058 }]

/-- The LO offsets of the LO/HI pairs of stmRgn; HI stands 4 above (R13, R14). -/
def pairsStmRgn : List Nat := [0x044, 0x04C]

/-- The registers of hbc (R240). -/
def regsHbc : List RegDef :=
  [{ off := 0x040, reset := 0x4020 },
   { off := 0x044 },
   { off := 0x048 },
   { off := 0x04C, count := true },
   { off := 0x050, count := true },
   { off := 0x054, rw := 0xFF, reset := 0x18 },
   { off := 0x058 },
   { off := 0x05C, count := true },
   { off := 0x060 },
   { off := 0x064 },
   { off := 0x068 },
   { off := 0x06C }]

/-- The LO offsets of the LO/HI pairs of hbc; HI stands 4 above (R13, R14). -/
def pairsHbc : List Nat := [0x060]

/-- The registers of cpe (R271). -/
def regsCpe : List RegDef :=
  [{ off := 0x040, reset := 0x80204040 },
   { off := 0x044, count := true },
   { off := 0x048, count := true },
   { off := 0x04C, count := true },
   { off := 0x050, count := true },
   { off := 0x054, count := true },
   { off := 0x058 },
   { off := 0x05C, reset := 0xFFFF },
   { off := 0x080 },
   { off := 0x084 },
   { off := 0x088 },
   { off := 0x08C },
   { off := 0x090 },
   { off := 0x094 },
   { off := 0x098 },
   { off := 0x09C },
   { off := 0x0A0 },
   { off := 0x0A4 },
   { off := 0x0A8 },
   { off := 0x0AC },
   { off := 0x0B0 },
   { off := 0x0B4 },
   { off := 0x0B8 },
   { off := 0x0BC },
   { off := 0x0C0 },
   { off := 0x0C4 },
   { off := 0x0C8 },
   { off := 0x0CC },
   { off := 0x0D0 },
   { off := 0x0D4 },
   { off := 0x0D8 },
   { off := 0x0DC },
   { off := 0x0E0 },
   { off := 0x0E4 },
   { off := 0x0E8 },
   { off := 0x0EC },
   { off := 0x0F0 },
   { off := 0x0F4 },
   { off := 0x0F8 },
   { off := 0x0FC },
   { off := 0x100 },
   { off := 0x104 },
   { off := 0x108 },
   { off := 0x10C },
   { off := 0x110 },
   { off := 0x114 },
   { off := 0x118 },
   { off := 0x11C },
   { off := 0x120 },
   { off := 0x124 },
   { off := 0x128 },
   { off := 0x12C },
   { off := 0x130 },
   { off := 0x134 },
   { off := 0x138 },
   { off := 0x13C }]

/-- The LO offsets of the LO/HI pairs of cpe; HI stands 4 above (R13, R14). -/
def pairsCpe : List Nat := [0x044]

/-- The registers of lth (R321). -/
def regsLth : List RegDef :=
  [{ off := 0x040, reset := 0x11020400 },
   { off := 0x044, rw := 0x3F },
   { off := 0x048 },
   { off := 0x04C, rw := 0xFFFFFFFF },
   { off := 0x050, rw := 0xFFFF },
   { off := 0x054 },
   { off := 0x058 },
   { off := 0x05C, rw := 0xFFFFF },
   { off := 0x060 },
   { off := 0x064 },
   { off := 0x068 },
   { off := 0x06C },
   { off := 0x070 },
   { off := 0x074 },
   { off := 0x078, count := true },
   { off := 0x07C, count := true },
   { off := 0x080 },
   { off := 0x084, count := true },
   { off := 0x088, rw := 0xFF },
   { off := 0x08C },
   { off := 0x090 }]

/-- The LO offsets of the LO/HI pairs of lth; HI stands 4 above (R13, R14). -/
def pairsLth : List Nat := [0x04C, 0x064, 0x06C, 0x08C]

/-- The registers of wwy (R371). -/
def regsWwy : List RegDef :=
  [{ off := 0x040 },
   { off := 0x044, rw := 0xF, reset := 0x5 },
   { off := 0x048, rw := 0x1FFF, reset := 0x1000 },
   { off := 0x04C, rw := 0xFF, reset := 0x14 },
   { off := 0x050, count := true },
   { off := 0x054, count := true },
   { off := 0x058, count := true },
   { off := 0x05C, count := true },
   { off := 0x060, count := true },
   { off := 0x064, count := true },
   { off := 0x068, count := true },
   { off := 0x06C },
   { off := 0x070, rw := 0xFFFFFFFF },
   { off := 0x080 },
   { off := 0x084 },
   { off := 0x088 },
   { off := 0x08C },
   { off := 0x090 },
   { off := 0x094 },
   { off := 0x098 },
   { off := 0x09C }]

/-- The registers of wwyMod (R373). -/
def regsWwyMod : List RegDef :=
  [{ off := 0x040, rw := 0x3FFFF },
   { off := 0x044, rw := 0x3FFFF },
   { off := 0x048, rw := 0xFF, reset := 0xFF },
   { off := 0x04C, rw := 0xFF },
   { off := 0x050, rw := 0xFFFFFFFF },
   { off := 0x054, rw := 0x8003FFFF },
   { off := 0x058, rw := 0x8003FFFF },
   { off := 0x05C, rw := 0x8003FFFF },
   { off := 0x060, rw := 0x8003FFFF },
   { off := 0x064 },
   { off := 0x068, rw := 0xFFFF, reset := 0x1F4 },
   { off := 0x06C, rw := 0xFFF },
   { off := 0x070 }]

/-- The registers of cns (R374). -/
def regsCns : List RegDef :=
  [{ off := 0x040, reset := 0x4080 },
   { off := 0x044 },
   { off := 0x048, rw := 0xFFFF },
   { off := 0x04C, count := true },
   { off := 0x050, count := true },
   { off := 0x054, count := true },
   { off := 0x058, count := true },
   { off := 0x05C },
   { off := 0x060 }]

/-- The LO offsets of the LO/HI pairs of cns; HI stands 4 above (R13, R14). -/
def pairsCns : List Nat := [0x04C]

/-- The registers of cnsMap (R375). -/
def regsCnsMap : List RegDef :=
  [{ off := 0x040, rw := 0xFFFFFFFF },
   { off := 0x044, rw := 0xFFFF },
   { off := 0x048, rw := 0xFFFFFF },
   { off := 0x04C },
   { off := 0x050 },
   { off := 0x054, reset := 0xFFFF },
   { off := 0x058, rw := 0xFF },
   { off := 0x05C }]

/-- The LO offsets of the LO/HI pairs of cnsMap; HI stands 4 above (R13, R14). -/
def pairsCnsMap : List Nat := [0x040]

/-- The registers of twn (R376). -/
def regsTwn : List RegDef :=
  [{ off := 0x040, rw := 0x7FFFF },
   { off := 0x044, rw := 0x3FFFF },
   { off := 0x048, rw := 0xFFFF },
   { off := 0x04C },
   { off := 0x050 },
   { off := 0x054 },
   { off := 0x058 }]

/-- The LO offsets of the LO/HI pairs of twn; HI stands 4 above (R13, R14). -/
def pairsTwn : List Nat := [0x054]

/-- The registers of stmQrm (R397). -/
def regsStmQrm : List RegDef :=
  [{ off := 0x040, rw := 0x7 },
   { off := 0x044, rw := 0xF0000, reset := 0x40000 },
   { off := 0x048, rw := 0xFFFFFFFF },
   { off := 0x04C, rw := 0xFFFF },
   { off := 0x050, rw := 0x1FFFFFF },
   { off := 0x054 },
   { off := 0x058 },
   { off := 0x05C },
   { off := 0x060 },
   { off := 0x064, reset := 0x10000 },
   { off := 0x068 },
   { off := 0x06C },
   { off := 0x070 },
   { off := 0x074, rw := 0x7FF },
   { off := 0x078 },
   { off := 0x07C },
   { off := 0x080, count := true },
   { off := 0x084, count := true }]

/-- The LO offsets of the LO/HI pairs of stmQrm; HI stands 4 above (R13, R14). -/
def pairsStmQrm : List Nat := [0x048, 0x068]

/-- The registers of grn (R445). -/
def regsGrn : List RegDef :=
  [{ off := 0x040 },
   { off := 0x044 },
   { off := 0x048, rw := 0xFFFFFFFF },
   { off := 0x04C },
   { off := 0x050, rw := 0xFF },
   { off := 0x054 },
   { off := 0x058 },
   { off := 0x05C, reset := 0x10000 },
   { off := 0x060 },
   { off := 0x064 },
   { off := 0x068 },
   { off := 0x06C },
   { off := 0x070 },
   { off := 0x074, count := true },
   { off := 0x078, count := true },
   { off := 0x07C, count := true },
   { off := 0x080 },
   { off := 0x084 },
   { off := 0x088 },
   { off := 0x08C },
   { off := 0x090 },
   { off := 0x094 },
   { off := 0x098 },
   { off := 0x09C },
   { off := 0x0A0 },
   { off := 0x0A4 },
   { off := 0x0A8 },
   { off := 0x0AC },
   { off := 0x0B0 },
   { off := 0x0B4 },
   { off := 0x0B8 },
   { off := 0x0BC }]

/-- The LO offsets of the LO/HI pairs of grn; HI stands 4 above (R13, R14). -/
def pairsGrn : List Nat := [0x054, 0x060]

/-- The registers of tun (R446). -/
def regsTun : List RegDef :=
  [{ off := 0x040, rw := 0xFFFF, reset := 0x15E },
   { off := 0x044, rw := 0xFFFF, reset := 0x258 },
   { off := 0x048, rw := 0x3FF },
   { off := 0x04C },
   { off := 0x050 },
   { off := 0x054 },
   { off := 0x058, count := true },
   { off := 0x05C, count := true },
   { off := 0x060 },
   { off := 0x064 },
   { off := 0x068 }]

/-- The registers of uni (R447). -/
def regsUni : List RegDef :=
  [{ off := 0x040, rw := 0xFF },
   { off := 0x044, rw := 0xFFFF01FF, reset := 0x10 },
   { off := 0x048, rw := 0xFFFF, reset := 0x3C },
   { off := 0x04C },
   { off := 0x050 },
   { off := 0x054 },
   { off := 0x058 },
   { off := 0x05C, count := true },
   { off := 0x060, count := true },
   { off := 0x064, count := true },
   { off := 0x068 },
   { off := 0x06C },
   { off := 0x070, count := true }]

/-- The LO offsets of the LO/HI pairs of uni; HI stands 4 above (R13, R14). -/
def pairsUni : List Nat := [0x054]

/-- The registers of rdl (R481). -/
def regsRdl : List RegDef :=
  [{ off := 0x040 },
   { off := 0x044, rw := 0xF7 },
   { off := 0x048, reset := 0xFFF },
   { off := 0x04C, count := true },
   { off := 0x050, count := true },
   { off := 0x054 },
   { off := 0x058, rw := 0x3 },
   { off := 0x05C, rw := 0x3FF7 },
   { off := 0x060, count := true }]

/-- The registers of bnd (R482). -/
def regsBnd : List RegDef :=
  [{ off := 0x040 },
   { off := 0x044, rw := 0x7F },
   { off := 0x048 },
   { off := 0x04C, count := true },
   { off := 0x050, count := true },
   { off := 0x054 },
   { off := 0x058, rw := 0x3 },
   { off := 0x05C, rw := 0x3F7F },
   { off := 0x060, count := true },
   { off := 0x064 },
   { off := 0x068 },
   { off := 0x06C },
   { off := 0x070, rw := 0xFFFF }]

/-- The registers of swl (R510). -/
def regsSwl : List RegDef :=
  [{ off := 0x040, rw := 0xFFFF, reset := 0x960 },
   { off := 0x044, rw := 0xFFF, reset := 0x2 },
   { off := 0x048, rw := 0x7, reset := 0x7 },
   { off := 0x04C, reset := 0x1C2 },
   { off := 0x050, reset := 0x960 },
   { off := 0x054 },
   { off := 0x058, reset := 0x834FF00 },
   { off := 0x05C, rw := 0xFFFF, reset := 0x64 },
   { off := 0x060, count := true },
   { off := 0x064, count := true }]

/-- The registers of pwr (R511). -/
def regsPwr : List RegDef :=
  [{ off := 0x040 },
   { off := 0x044 },
   { off := 0x048 },
   { off := 0x04C },
   { off := 0x050 },
   { off := 0x054, rw := 0xFFFF, reset := 0x4B0 },
   { off := 0x058 }]

/-- The registers of brt (R512). -/
def regsBrt : List RegDef :=
  [{ off := 0x040, rw := 0x3FFF, reset := 0x3E8 },
   { off := 0x044, rw := 0x1F },
   { off := 0x048, rw := 0xFFFFFFFF },
   { off := 0x04C },
   { off := 0x050, w1c := 0xFFFFFF },
   { off := 0x054, rw := 0x1 },
   { off := 0x058, count := true }]

/-- The registers of tol (R547). -/
def regsTol : List RegDef :=
  [{ off := 0x040 },
   { off := 0x044 },
   { off := 0x048 },
   { off := 0x04C },
   { off := 0x050, count := true },
   { off := 0x054 },
   { off := 0x058 },
   { off := 0x05C }]

/-- The LO offsets of the LO/HI pairs of tol; HI stands 4 above (R13, R14). -/
def pairsTol : List Nat := [0x058]

/-- The registers of fwu (R548). -/
def regsFwu : List RegDef :=
  [{ off := 0x040 },
   { off := 0x044 },
   { off := 0x048 },
   { off := 0x04C },
   { off := 0x050 },
   { off := 0x054 },
   { off := 0x058 },
   { off := 0x05C, count := true }]

/-- The registers of sec (R549). -/
def regsSec : List RegDef :=
  [{ off := 0x040, reset := 0x1 },
   { off := 0x044, rw := 0xF, reset := 0x1 },
   { off := 0x048 },
   { off := 0x04C },
   { off := 0x050 },
   { off := 0x054 },
   { off := 0x058 },
   { off := 0x05C },
   { off := 0x060 },
   { off := 0x064 },
   { off := 0x068, count := true },
   { off := 0x06C },
   { off := 0x070, count := true }]

/-- The registers of cxp (R576). -/
def regsCxp : List RegDef :=
  [{ off := 0x040 },
   { off := 0x044 },
   { off := 0x048, rw := 0x1, reset := 0x1 },
   { off := 0x04C, rw := 0x1 },
   { off := 0x050, count := true },
   { off := 0x054, count := true },
   { off := 0x058, count := true },
   { off := 0x05C, count := true },
   { off := 0x060, count := true },
   { off := 0x064 },
   { off := 0x068, count := true },
   { off := 0x06C, count := true },
   { off := 0x070, count := true },
   { off := 0x074, count := true }]

/-- The registers of gdc (R241). -/
def regsGdc : List RegDef :=
  [{ off := 0x040 },
   { off := 0x044 },
   { off := 0x048 },
   { off := 0x04C, count := true },
   { off := 0x050, count := true },
   { off := 0x054, rw := 0xFF, reset := 0x18 },
   { off := 0x058 },
   { off := 0x05C, count := true },
   { off := 0x060 },
   { off := 0x064 },
   { off := 0x068 },
   { off := 0x06C },
   { off := 0x070, count := true }]

/-- The LO offsets of the LO/HI pairs of gdc; HI stands 4 above (R13, R14). -/
def pairsGdc : List Nat := [0x060]

end Sys2Proof.Machine
end

