-- ==== Sys2Proof/Machine/ServiceTypes.lean ====
section
/-! DEFINITION. The state of the SPI NOR, of the service port, of SPDM and of the CXL ports, and the error records, as plain data (R440, R441, R519 to R549, R553 to R576). -/

namespace Sys2Proof.Machine

/-- The signed header of an update file or slot (R534), field by field; `sigOk` says whether the signature verifies under the key KEY_INDEX names. -/
structure FwHeader where
  magic : U32
  format : U16
  keyIndex : Nat
  model : U32
  svn : Nat
  version : U32
  manifestBytes : Nat
  partCount : Nat
  flags : U32
  manifestHash : List U8
  reservedZero : Bool
  sigOk : Bool
  deriving DecidableEq, Repr

/-- A manifest entry (R535). -/
structure FwEntry where
  part : Nat
  kind : Nat
  partVersion : U32
  size : Nat
  streamBytes : Nat
  resultHash : List U8
  sourceHash : List U8
  deriving DecidableEq, Repr

/-- A firmware slot of the SPI NOR (R519, R538): nothing in its header area, or a header, its manifest's bytes and entries, and the parts in order. -/
structure FwSlot where
  header : Option FwHeader
  /-- The header's 512 bytes. -/
  headerRaw : List U8
  manifestRaw : List U8
  manifest : List FwEntry
  parts : List (List U8)
  /-- FW_END has found every part to fit its RESULT_HASH (R538). -/
  checked : Bool
  deriving DecidableEq, Repr

def FwSlot.erased : FwSlot := ⟨none, [], [], [], [], false⟩

/-- A firmware commit record (R540); a sector without a valid one holds none. -/
structure FwCommit where
  gen : U32
  active : Nat
  trial : Bool
  tries : Nat
  manifestHash : List U8
  svn : Nat
  deriving DecidableEq, Repr

/-- One valid copy of a settings record (R520, R521): type 1 to 8, copy 0 or 1. -/
structure SettingCopy where
  type : Nat
  copy : Nat
  gen : U32
  body : SettingBody
  deriving DecidableEq, Repr

/-- The SPI NOR and the fuses (R519 to R524, R540 to R544). -/
structure Flash where
  commit0 : Option FwCommit
  commit1 : Option FwCommit
  slotA : FwSlot
  slotB : FwSlot
  settings : List SettingCopy
  /-- Units other than arrays retired for good (R417, R440). -/
  retired : List Nat
  /-- Blown bits of the SVN floor, and the revoked ROM keys as a mask. -/
  floor : Nat
  revoked : Nat
  /-- Moduli of the four ROM keys (R523). -/
  romKeys : List Nat
  identityOk : Bool
  certChain : List U8
  deriving DecidableEq, Repr

/-- A service session (R529, R530). -/
structure Session where
  roles : Nat
  deriving DecidableEq, Repr

/-- Stages of the update session (R548). -/
inductive FwStage
  | receiving
  | verified
  | activated
  deriving DecidableEq, Repr

/-- The update session (R537, R538). -/
structure FwSession where
  owner : Nat
  stage : FwStage
  header : FwHeader
  headerRaw : List U8
  manifestRaw : List U8
  manifest : List FwEntry
  /-- The op-stream bytes delivered so far, in order. -/
  got : List U8
  deriving DecidableEq, Repr

/-- SPDM on one transport: what has been negotiated and the secured session (R527). -/
structure SpdmSt where
  negotiated : Bool
  /-- Whether RSAPSS-3072 was selected, RSASSA-3072 otherwise (R527). -/
  pss : Bool
  /-- A session opened by KEY_EXCHANGE, and whether FINISH has completed it. -/
  session : Option Bool
  deriving DecidableEq, Repr

def SpdmSt.fresh : SpdmSt := ⟨false, false, none⟩

/-- A CXL port (R571, R573, R576). -/
structure CxlPort where
  up : Bool
  lanes : Nat
  fast : Bool
  viaSwitch : Bool
  /-- IDE keys by stream. -/
  keys : List (Nat × List U8)
  doe : SpdmSt
  /-- Written configuration-space registers of the function, which a reset clears. -/
  cfg : List (Nat × U32)
  deriving DecidableEq, Repr

def CxlPort.down : CxlPort := ⟨false, 0, false, false, [], .fresh, []⟩

/-- An HDM decoder (R557, R558). -/
structure HdmDecoder where
  setup : HdmSetup
  committed : Bool
  err : Bool
  dpaBase : Nat
  deriving DecidableEq, Repr

def HdmDecoder.off : HdmDecoder := ⟨⟨0, 0, 0, 0, 0, 0⟩, false, false, 0⟩

/-- A snoop awaiting its BIRsp (R561): a 64-byte line and the port it went out on. -/
structure Snoop where
  line : Nat
  port : Nat
  deriving DecidableEq, Repr

/-- An outstanding slow-tier request (R229, R565). -/
structure UioReq where
  req : Nat
  port : Nat
  unit : Nat
  deriving DecidableEq, Repr

/-- The host attachment of the module. -/
structure Cxl where
  ports : List CxlPort
  active : Option Nat
  decoders : List HdmDecoder
  /-- Lines of each base die's snoop filter, oldest first (R560). -/
  filters : List (List Nat)
  snoops : List Snoop
  uio : List UioReq
  /-- Base dies whose loss a host request has already met (R564). -/
  seen : List Nat
  cdatSeq : U32
  deriving DecidableEq, Repr

/-- An error record (R441); `detail` lists the contents of R442, R513, R551 and R578 in their order. -/
structure ErrRec where
  seq : U32
  code : U16
  kind : Nat
  outcome : Nat
  unit : U16
  stream : Option Nat
  subSeq : U16
  job : Nat
  step : Nat
  addr : Nat
  /-- Microseconds since module-ready: a free value. -/
  time : U64
  detail : List Nat
  deriving DecidableEq, Repr

/-- What an SPDM response carries (R527, R528). -/
inductive SpdmResp
  | version (v : Nat)
  | capabilities
  | algorithms (asym hash dhe aead : U32)
  | digests (d : List U8)
  | certificate (bytes : List U8) (remainder : Nat)
  | challengeAuth (certHash : List U8) (signature : List U8)
  | measurements (total : Nat) (blocks : List (Nat × List U8)) (signature : List U8)
  | keyExchange (share signature : List U8)
  | finish
  | endSession
  | error (code : Nat)
  deriving DecidableEq, Repr

/-- What leaves the module by command: the model's own record of its outputs, oldest first. -/
inductive Out
  | unit (port : Nat) (u : LinkUnit)
  | flit (e : LinkEnd) (bundle : Nat) (f : Flit)
  | budget (die : Nat) (m : Budget)
  | report (die : Nat) (m : DieReport)
  /-- The lanes of a LANE_TEST flit, as (group, physical lane): each carries the fixed pattern (R454). -/
  | laneTest (e : LinkEnd) (bundle : Nat) (lanes : List (Nat × Nat))
  /-- The FENCE notice for a compute die that goes to Tolium (R470). -/
  | fence (die : Nat)
  | flitData (e : LinkEnd) (bundle : Nat) (payload : List U8)
  | regRead (r : Requester) (off : Nat) (v : U32)
  | service (session : Nat) (op : Nat) (tag : U32) (status : U16) (payload : List U8)
  | serviceClosed (session : Nat)
  | spdm (t : SpdmTransport) (r : SpdmResp)
  | mctp (payload : List U8)
  | hostData (port : Nat) (data : List U8)
  | hostDone (port : Nat)
  | aer (port : Nat)
  | rspI (port : Nat)
  | bisnp (port : Nat) (line : Nat)
  | uioRead (port req hpa len : Nat)
  | uioWrite (port req hpa : Nat) (data : List U8)
  | doe (port : Nat) (words : List Nat)
  | alert (on : Bool)
  deriving DecidableEq, Repr

end Sys2Proof.Machine
end

