-- ==== Sys2Proof/Machine/State.lean ====
section
/-! DEFINITION. The state of the module, with every piece of state the spec gives it, and the state right after power is first connected. -/

namespace Sys2Proof.Machine

/-- Why a command stops the model with a fault: no meaning raises one, since every command of the table has an effect in the spec (safe). -/
inductive Fault
  /-- A command whose operands are outside every range the spec gives them, raised by no meaning (safe). -/
  | malformed
  deriving DecidableEq, Repr

/-- Why a command is refused by the model. -/
inductive Refusal
  /-- A command that has no meaning yet, raised only by its arm of exec (safe). -/
  | notModelled (mnemonic : String)
  deriving DecidableEq, Repr

/-- A LO read that latched HI for a requester (R13, R590). -/
structure Latch where
  requester : Requester
  /-- BAR0 offset of the LO register. -/
  lo : Nat
  hi : U32
  deriving DecidableEq, Repr

/-- A LO write held for a requester (R14, R590). -/
structure HeldLo where
  requester : Requester
  lo : Nat
  value : U32
  deriving DecidableEq, Repr

/-- The state. Tables are lists in the canonical form of SMap; `free` counts the free values drawn, `out` records what the module has sent. -/
structure State where
  /-- Commands waiting, first in, first out. -/
  pending : List Instr
  regs : List (Nat × U32)
  latches : List Latch
  heldLo : List HeldLo
  mem : Memory
  streams : List (Nat × Stream)
  jobs : List (Nat × Job)
  regions : List (Nat × Region)
  engines : List (Nat × Engine)
  /-- Weight registers of the arrays, by core (R121). -/
  arrays : List (Nat × ArraySt)
  /-- Chucks of the copy engines, by unit (R263). -/
  chucks : List (Nat × ChuckPair)
  waiting : List WaitingBind
  caches : List CacheEntry
  upds : List Upd
  ovf : List (Nat × OvfWord)
  recipes : List (Nat × Recipe)
  recipeLoad : Option Load
  ports : List (Nat × Port)
  route : List (Nat × U32)
  keytab : List (Nat × U32)
  wmap : List (Nat × List WEntry)
  wmapLoad : Option Load
  colls : List Coll
  readys : List HeldReady
  readds : List Readd
  /-- Frames that the module has addressed to itself, to be taken as if they had arrived (R346). -/
  looped : List Frame
  /-- Places of the SRAM scrubs (R237). -/
  sramScrub : List (Nat × Nat)
  /-- Errors that have come over lines and were met by no access yet. -/
  upsets : List Upset
  /-- Corrected errors of staging and tile SRAM (R227), a count that no register shows. -/
  sramCorr : Nat
  twin : TwinSt
  slots : List (Nat × Slot)
  seatLoad : Option Load
  unison : List UniEntry
  tune : List (Nat × TuneUnit)
  log : List ErrRec
  logHead : U32
  dies : List (Nat × DieSt)
  links : List (Nat × LinkSt)
  bundles : List (Nat × BundleSt)
  lanes : List (Nat × LaneGroup)
  pwr : PowerSt
  start : StartSt
  flash : Flash
  sessions : List (Nat × Session)
  fw : Option FwSession
  spdm : SpdmSt
  cxl : Cxl
  /-- Numbers the module's own requests and entries into BINDING. -/
  nextReq : Nat
  free : Nat
  out : List Out
  deriving DecidableEq, Repr

/-! ### What an unlisted key of each table reads as -/

def streamDefault : Nat → Stream := fun _ => .fresh
def jobDefault : Nat → Job := fun _ => .fresh
def regionDefault : Nat → Region := fun _ => .empty
def engineDefault : Nat → Engine := fun _ => .idle
def arrayDefault : Nat → ArraySt := fun _ => .fresh
def chuckDefault : Nat → ChuckPair := fun _ => .blank
def scrubDefault : Nat → Nat := fun _ => 0
def ovfDefault : Nat → OvfWord := fun _ => .clear
def recipeDefault : Nat → Recipe := fun _ => ⟨0, 0, []⟩
def portDefault : Nat → Port := fun _ => .disabled
def wordDefault : Nat → U32 := fun _ => 0
/-- A route entry that drops (R373). -/
def routeDefault : Nat → U32 := fun _ => 0xFF
def wmapDefault : Nat → List WEntry := fun _ => []
def slotDefault : Nat → Slot := fun _ => .empty
def tuneDefault : Nat → TuneUnit := fun _ => .fresh
def dieDefault : Nat → DieSt := fun _ => .unpowered
def linkDefault : Nat → LinkSt := fun _ => .down
def bundleDefault : Nat → BundleSt := fun _ => .fresh
def laneDefault : Nat → LaneGroup := fun _ => .whole

/-! ### Reset -/

/-- Default lower bounds of the Breath windows (R503). -/
def brtLow0 : List U16 :=
  List.replicate 15 0 ++ [3800, 0, 0, 0, 5, 5, 0, 0, 0]

/-- Default upper bounds of the Breath windows (R503). -/
def brtHigh0 : List U16 :=
  List.replicate 15 70 ++ [4800, 150, 65535, 0, 45, 55, 85, 85, 85]

def PowerSt.reset : PowerSt :=
  { st := .run, change := none, target := 2400, source := .register, ramp := 450, thermalCap := 2400, calmMs := 0
    hotBases := [], inputW := 0, input10mV := 0, step := 0, duty := 256, cap := 450, limiter := 0, stage := 0
    shed := false, epoch := none, flowLow := false, leak := false, mlpm := 0, throttleMs := 0, clockMs := 0
    brtLast := List.replicate 24 0, brtLow := brtLow0, brtHigh := brtHigh0 }

def StartSt.reset : StartSt :=
  { powered := false, ready := false, step := 0, slot := 0, recovery := false, calDefault := false
    settingsBad := false, startMs := 0, boots := 0, straps := 0, measured := [], benchOk := false, contentVersion := 0, retired := [], anchors := [], repaired := [], records := [] }

/-- Relative powers of the clock steps from one on, each below the one before by what a table says, in millionths (R491). -/
def powersFrom (drop : Nat → Nat) : Nat → Nat → Nat → List Nat
  | 0, _, _ => []
  | n + 1, k, p => p :: powersFrom drop n (k + 1) (p - (1 + drop k % 17000))

/-- A table of relative powers: P₀ is 1, the others decrease with the step and stay above 0 (R491). -/
def relPowers (drop : Nat → Nat) : List Nat := powersFrom drop 57 0 1000000

/-- The settings records as assembly test and manufacture leave them: one copy of each, generation 0, naming no lane and no column. -/
def factorySettings : List SettingCopy :=
  [⟨1, 0, 0, .laneMap [0, 1, 2]⟩, ⟨2, 0, 0, .lanes []⟩, ⟨3, 0, 0, .lanes []⟩, ⟨4, 0, 0, .repairs []⟩,
   ⟨5, 0, 0, .calib ⟨relPowers Config.calibP, 70000, 70000⟩⟩, ⟨6, 0, 0, .anchors [⟨List.replicate 32 0, 15⟩]⟩,
   ⟨7, 0, 0, .network []⟩, ⟨8, 0, 0, .defaults [] []⟩]

/-- The SPI NOR and fuses before any update: no valid commit record, so slot A counts as active and CONFIRMED (R541), no image in either slot, nothing fused. -/
def Flash.reset : Flash :=
  { commit0 := none, commit1 := none, slotA := .erased, slotB := .erased, settings := factorySettings, retired := []
    floor := 0, revoked := 0, romKeys := (List.range 4).map Config.romKey, identityOk := true, certChain := Config.certChain }

def Cxl.reset : Cxl :=
  { ports := [.down, .down], active := none, decoders := [.off, .off, .off, .off], filters := [[], [], []]
    snoops := [], uio := [], seen := [], cdatSeq := 0 }

/-- The module with its 42 V input just connected and no start step begun: every register at its reset value. -/
def State.reset : State :=
  { pending := [], regs := [], latches := [], heldLo := [], mem := .zero, streams := [], jobs := [], regions := []
    engines := [], arrays := [], chucks := [], waiting := [], caches := [], upds := [], ovf := [], recipes := [], recipeLoad := none, ports := []
    route := [], keytab := [], wmap := [], wmapLoad := none, colls := [], readys := [], readds := [], looped := [], sramScrub := [], upsets := [], sramCorr := 0, twin := .off, slots := []
    seatLoad := none, unison := [], tune := [], log := [], logHead := 0, dies := [], links := [], bundles := []
    lanes := [], pwr := .reset, start := .reset, flash := .reset, sessions := [], fw := none, spdm := .fresh
    cxl := .reset, nextReq := 0, free := 0, out := [] }

end Sys2Proof.Machine
end

