-- ==== Sys2Proof/Machine/Registers.lean ====
section
/-! DEFINITION. BAR0: where every page lies (R580 to R583), its common header (R584 to R588), and the one place where the register file is read and written. -/

namespace Sys2Proof.Machine

/-! ### Pages -/

/-- First stack, first GDDR7 device of base die `b` (R582). -/
def firstStack (b : Nat) : Nat := if b = 0 then 0 else if b = 1 then 6 else 10
def firstGddr (b : Nat) : Nat := if b = 0 then 0 else if b = 1 then 12 else 20

/-- The base die that serves a stack, a GDDR7 device (R9). -/
def baseOfGddr (g : Nat) : Nat := if g < 12 then 0 else if g < 20 then 1 else 2

/-- BAR0 offset of base die `b`'s range (R580). -/
def baseRange (b : Nat) : Nat := 0x01000000 + b * 0x00800000

/-- BAR0 offset of page `p` of core `n` (R583). -/
def corePage (n p : Nat) : Nat :=
  let d := n / 16
  baseRange (d / 4) + 0x00400000 + (d % 4) * 0x00100000 + (n % 16) * 0x00010000 + p * 0x1000

/-- BAR0 offset of a page (R581 to R583). -/
def Page.base : Page → Nat
  | .tol => 0x0000
  | .swl => 0x1000
  | .brt => 0x2000
  | .pwr => 0x3000
  | .fwu => 0x4000
  | .sec => 0x5000
  | .grn => 0x6000
  | .tun => 0x7000
  | .uni => 0x8000
  | .stmJob => 0x9000
  | .stmRgn => 0xA000
  | .stmQrm => 0xB000
  | .cnsMap => 0xC000
  | .wwyMod => 0xD000
  | .twn => 0xE000
  | .stm b => baseRange b.val
  | .glb b => baseRange b.val + 0x1000
  | .lth b => baseRange b.val + 0x2000
  | .cns b => baseRange b.val + 0x3000
  | .wwy p => baseRange (p.val / 4) + 0x10000 + (p.val % 4) * 0x1000
  | .hbc s => baseRange (baseOfStack s.val) + 0x20000 + (s.val - firstStack (baseOfStack s.val)) * 0x1000
  | .gdc g => baseRange (baseOfGddr g.val) + 0x30000 + (g.val - firstGddr (baseOfGddr g.val)) * 0x1000
  | .bnd d => baseRange (d.val / 4) + 0x40000 + (d.val % 4) * 0x1000
  | .rdl r => if r.val = 0 then baseRange 0 + 0x50000 else if r.val = 1 then baseRange 1 + 0x50000
              else if r.val = 2 then baseRange 1 + 0x51000 else baseRange 2 + 0x50000
  | .cxp p => baseRange 1 + 0x60000 + p.val * 0x1000
  | .mxa n => corePage n.val 0
  | .vxe n => corePage n.val 1
  | .crv n => corePage n.val 2
  | .cpe n => corePage n.val 3
  | .ats q => corePage (q.val * 4) 4

/-- A number below `n` as a Fin, if it is one. -/
def finOf (n k : Nat) : Option (Fin n) := if h : k < n then some ⟨k, h⟩ else none

/-- The module page at page number `i` (R581). -/
def modulePageAt : Nat → Option Page
  | 0 => some .tol
  | 1 => some .swl
  | 2 => some .brt
  | 3 => some .pwr
  | 4 => some .fwu
  | 5 => some .sec
  | 6 => some .grn
  | 7 => some .tun
  | 8 => some .uni
  | 9 => some .stmJob
  | 10 => some .stmRgn
  | 11 => some .stmQrm
  | 12 => some .cnsMap
  | 13 => some .wwyMod
  | 14 => some .twn
  | _ => none

/-- The page of base die `b` at page number `i` of its own pages (R582). -/
def basePageAt (b i : Nat) : Option Page :=
  if i = 0 then (finOf 3 b).map .stm
  else if i = 1 then (finOf 3 b).map .glb
  else if i = 2 then (finOf 3 b).map .lth
  else if i = 3 then (finOf 3 b).map .cns
  else if 0x10 ≤ i ∧ i < 0x14 then (finOf 12 (4 * b + (i - 0x10))).map .wwy
  else if 0x20 ≤ i ∧ i < 0x20 + (if b = 1 then 4 else 6) then (finOf 16 (firstStack b + (i - 0x20))).map .hbc
  else if 0x30 ≤ i ∧ i < 0x30 + (if b = 1 then 8 else 12) then (finOf 32 (firstGddr b + (i - 0x30))).map .gdc
  else if 0x40 ≤ i ∧ i < 0x44 then (finOf 12 (4 * b + (i - 0x40))).map .bnd
  else if i = 0x50 then (finOf 4 (if b = 0 then 0 else if b = 1 then 1 else 3)).map .rdl
  else if i = 0x51 ∧ b = 1 then some (.rdl 2)
  else if (i = 0x60 ∨ i = 0x61) ∧ b = 1 then (finOf 2 (i - 0x60)).map .cxp
  else none

/-- The page `p` of core `n` (R583). -/
def corePageAt (n p : Nat) : Option Page :=
  match p with
  | 0 => (finOf 192 n).map .mxa
  | 1 => (finOf 192 n).map .vxe
  | 2 => (finOf 192 n).map .crv
  | 3 => (finOf 192 n).map .cpe
  | 4 => if n % 4 = 0 then (finOf 48 (n / 4)).map .ats else none
  | _ => none

/-- The page that holds a BAR0 offset, or none (R580). -/
def pageAt (off : Nat) : Option Page :=
  if off < 0x01000000 then modulePageAt (off / 0x1000)
  else if 0x02800000 ≤ off then none
  else
    let b := (off - 0x01000000) / 0x00800000
    let r := (off - 0x01000000) % 0x00800000
    if r < 0x00400000 then basePageAt b (r / 0x1000)
    else
      let c := (r - 0x00400000) / 0x00100000
      let k := r / 0x10000 % 16
      corePageAt (64 * b + 16 * c + k) (r / 0x1000 % 16)

/-- PAGE_ID.TYPE (R594). -/
def Page.type : Page → Nat
  | .tol => 0x01
  | .swl => 0x02
  | .brt => 0x03
  | .stmJob | .stmRgn | .stmQrm | .stm _ => 0x04
  | .glb _ => 0x05
  | .mxa _ => 0x06
  | .vxe _ => 0x07
  | .crv _ => 0x08
  | .ats _ => 0x09
  | .cpe _ => 0x0A
  | .lth _ => 0x0B
  | .cns _ | .cnsMap => 0x0C
  | .wwy _ | .wwyMod => 0x0D
  | .twn => 0x0E
  | .rdl _ => 0x0F
  | .bnd _ => 0x10
  | .hbc _ => 0x11
  | .gdc _ => 0x12
  | .cxp _ => 0x13
  | .grn => 0x14
  | .tun => 0x15
  | .uni => 0x16
  | .pwr => 0x17
  | .fwu => 0x18
  | .sec => 0x19

/-- PAGE_ID.INSTANCE (R594). -/
def Page.inst : Page → Nat
  | .stm b | .glb b | .lth b | .cns b => b.val
  | .stmJob | .cnsMap => 3
  | .stmRgn => 4
  | .stmQrm => 5
  | .wwy p => p.val
  | .wwyMod => 12
  | .mxa n | .vxe n | .crv n | .cpe n => n.val
  | .ats q => q.val
  | .rdl r => r.val
  | .bnd d => d.val
  | .hbc s => s.val
  | .gdc g => g.val
  | .cxp p => p.val
  | .tol | .swl | .brt | .pwr | .fwu | .sec | .grn | .tun | .uni | .twn => 0

/-- PAGE_CAP.NUMFLAGS (R594). -/
def Page.hasNumflags : Page → Bool
  | .mxa _ | .vxe _ | .crv _ | .ats _ | .cpe _ | .lth _ | .cns _ => true
  | _ => false

/-- PAGE_CAP.ERR_INJ (R594). -/
def Page.hasInj : Page → Bool
  | .mxa _ | .cpe _ | .lth _ | .wwy _ | .rdl _ | .bnd _ | .hbc _ | .gdc _ | .cxp _ | .grn | .tun => true
  | _ => false

/-- The block-specific registers of a page. -/
def Page.regs : Page → List RegDef
  | .tol => regsTol
  | .swl => regsSwl
  | .brt => regsBrt
  | .pwr => regsPwr
  | .fwu => regsFwu
  | .sec => regsSec
  | .grn => regsGrn
  | .tun => regsTun
  | .uni => regsUni
  | .stmJob => regsStmJob
  | .stmRgn => regsStmRgn
  | .stmQrm => regsStmQrm
  | .cnsMap => regsCnsMap
  | .wwyMod => regsWwyMod
  | .twn => regsTwn
  | .stm _ => regsStm
  | .glb _ => regsGlb
  | .lth _ => regsLth
  | .cns _ => regsCns
  | .wwy _ => regsWwy
  | .hbc _ => regsHbc
  | .gdc _ => regsGdc
  | .bnd _ => regsBnd
  | .rdl _ => regsRdl
  | .cxp _ => regsCxp
  | .mxa _ => regsMxa
  | .vxe _ => regsVxe
  | .crv _ => regsCrv
  | .cpe _ => regsCpe
  | .ats _ => regsAts

/-- LO offsets of the page's LO/HI pairs (R13, R14). -/
def Page.pairs : Page → List Nat
  | .tol => pairsTol
  | .grn => pairsGrn
  | .uni => pairsUni
  | .stmRgn => pairsStmRgn
  | .stmQrm => pairsStmQrm
  | .cnsMap => pairsCnsMap
  | .twn => pairsTwn
  | .glb _ => pairsGlb
  | .lth _ => pairsLth
  | .cns _ => pairsCns
  | .hbc _ => pairsHbc
  | .gdc _ => pairsGdc
  | .mxa _ => pairsMxa
  | .vxe _ => pairsVxe
  | .crv _ => pairsCrv
  | .cpe _ => pairsCpe
  | .ats _ => pairsAts
  | _ => []

/-- The table row of a register of a page. -/
def Page.reg (pg : Page) (off : Nat) : Option RegDef := pg.regs.find? (fun r => decide (r.off = off))

/-- PAGE_CAP.TOP: the page's highest block-specific register (R584). -/
def Page.top (pg : Page) : Nat := pg.regs.foldl (fun m r => if r.off < 0xF00 then max m r.off else m) 0

/-! ### The register file -/

/-- The reset value of the register at a BAR0 offset (R584; the blocks' tables). -/
def regDefault : Nat → U32 := fun k =>
  match pageAt k with
  | some pg =>
    match pg.reg (k % 0x1000) with
    | some r => BitVec.ofNat 32 r.reset
    | none => 0
  | none => 0

/-- A stored register. -/
def State.reg (s : State) (pg : Page) (off : Nat) : U32 := SMap.get regDefault s.regs (pg.base + off)

/-- The write of a stored register. -/
def State.setReg (s : State) (pg : Page) (off : Nat) (v : U32) : State :=
  { s with regs := SMap.set regDefault s.regs (pg.base + off) v }

/-- A bit field of a register, as a number: `w` bits from bit `lo`. -/
def fieldOf (v : U32) (lo w : Nat) : Nat := v.toNat / 2 ^ lo % 2 ^ w

def State.field (s : State) (pg : Page) (off lo w : Nat) : Nat := fieldOf (s.reg pg off) lo w

/-- A register word put together from fields: (value, low bit, width). -/
def packFields (l : List (Nat × Nat × Nat)) : U32 :=
  BitVec.ofNat 32 (l.foldl (fun a f => a + f.1 % 2 ^ f.2.2 * 2 ^ f.2.1) 0)

/-- Register bits replaced under a mask. -/
def mergeBits (old new : U32) (mask : Nat) : U32 := (old &&& ~~~(BitVec.ofNat 32 mask)) ||| (new &&& BitVec.ofNat 32 mask)

/-- One bit of a register set or cleared. -/
def State.setBits (s : State) (pg : Page) (off : Nat) (v : U32) (mask : Nat) : State :=
  s.setReg pg off (mergeBits (s.reg pg off) v mask)

/-- A count that saturates at the top of 32 bits. -/
def satAdd (v : U32) (n : Nat) : U32 := if v.toNat + n < 0x100000000 then BitVec.ofNat 32 (v.toNat + n) else 0xFFFFFFFF

def State.countSat (s : State) (pg : Page) (off : Nat) (n : Nat := 1) : State := s.setReg pg off (satAdd (s.reg pg off) n)

/-- A count that wraps. -/
def State.countWrap (s : State) (pg : Page) (off : Nat) (n : Nat := 1) : State :=
  s.setReg pg off (s.reg pg off + BitVec.ofNat 32 n)

/-- A 64-bit count in a LO/HI pair, which wraps (R587). -/
def State.countPair (s : State) (pg : Page) (lo : Nat) (n : Nat) : State :=
  let t := (s.reg pg lo).toNat + (s.reg pg (lo + 4)).toNat * 0x100000000 + n
  (s.setReg pg lo (BitVec.ofNat 32 t)).setReg pg (lo + 4) (BitVec.ofNat 32 (t / 0x100000000))

/-- A 64-bit value put into a LO/HI pair. -/
def State.setPair (s : State) (pg : Page) (lo : Nat) (v : Nat) : State :=
  (s.setReg pg lo (BitVec.ofNat 32 v)).setReg pg (lo + 4) (BitVec.ofNat 32 (v / 0x100000000))

/-- The value of a LO/HI pair as stored. -/
def State.pair (s : State) (pg : Page) (lo : Nat) : Nat := (s.reg pg lo).toNat + (s.reg pg (lo + 4)).toNat * 0x100000000

/-! ### Errors (R585, R586) -/

def offErrStat : Nat := 0x010
def offErrMask : Nat := 0x014
def offErrInj : Nat := 0x018
def offErrFirst : Nat := 0x01C

/-- The lowest bit set in a word, alone. -/
def lowestBit (v : U32) : U32 := v &&& (0 - v)

/-- ERR_FIRST after ERR_STAT or ERR_MASK has changed (R585): kept while any unmasked bit stays, the lowest new bit where there was none, 0 where none is left. -/
def errFirstNext (before after first : U32) : U32 :=
  if after = 0 then 0 else if before = 0 then lowestBit after else first

/-- New ERR_STAT and ERR_MASK words of a page, with ERR_FIRST following them (R585). -/
def State.setErr (s : State) (pg : Page) (stat mask : U32) : State :=
  let before := s.reg pg offErrStat &&& ~~~(s.reg pg offErrMask)
  let first := errFirstNext before (stat &&& ~~~mask) (s.reg pg offErrFirst)
  ((s.setReg pg offErrStat stat).setReg pg offErrMask mask).setReg pg offErrFirst first

/-- An event sets a bit of ERR_STAT (R585). -/
def State.raise (s : State) (pg : Page) (bit : Nat) : State :=
  s.setErr pg (s.reg pg offErrStat ||| BitVec.ofNat 32 (2 ^ bit)) (s.reg pg offErrMask)

/-- Whether an injection bit is armed (R584). -/
def State.armed (s : State) (pg : Page) (bit : Nat) : Bool := (s.reg pg offErrInj).toNat.testBit bit

/-- A W1S write of an injection bit. -/
def State.arm (s : State) (pg : Page) (bit : Nat) : State := s.setBits pg offErrInj (BitVec.ofNat 32 (2 ^ bit)) (2 ^ bit)

/-- An injection has acted: its bit clears (R586). -/
def State.disarm (s : State) (pg : Page) (bit : Nat) : State := s.setBits pg offErrInj 0 (2 ^ bit)

end Sys2Proof.Machine
end

