-- ==== Sys2Proof/Machine/Flags.lean ====
section
/-! DEFINITION. The sticky numeric flags of the engine pages and of a stream's record (R171 to R174). -/

namespace Sys2Proof.Machine

/-- The page that holds a unit's sticky flags and counters (R172, R411). -/
def unitPage (u : Nat) : Page :=
  if h : u < 768 then
    let n : Fin 192 := ⟨u / 4, by omega⟩
    if u % 4 = 0 then .mxa n else if u % 4 = 1 then .vxe n else if u % 4 = 2 then .crv n else .cpe n
  else if h : u < 816 then .ats ⟨u - 768, by omega⟩
  else if h : u < 819 then .cns ⟨u - 816, by omega⟩
  else .lth (if u = 819 then 0 else if u = 820 then 1 else 2)

/-- BLK_NUMFLAGS after a firing posts its flags: bits [3:0] for a firing without a detected fault, FAULTED for one with (R172, R173). -/
def numflagsAfter (old : U32) (f : Flags) (faulted : Bool) : U32 :=
  old ||| (if faulted then (f.zeroExtend 32) <<< 8 else f.zeroExtend 32)

/-- BLK_NUMFLAGS_SRC after a posting: the stream that set the first of bits [3:0] since they were last all clear. -/
def numflagsSrcAfter (old src : U32) (f : Flags) (stream : Nat) : U32 :=
  if old &&& 0xF#32 = 0 ∧ f ≠ 0 then BitVec.ofNat 32 (stream % 0x4000 + 0x4000) else src

/-- All the flags of a firing posted in one update as it ends (R173). -/
def State.postFlags (s : State) (u stream : Nat) (f : Flags) (faulted : Bool) : State :=
  let pg := unitPage u
  let src := if faulted then s.reg pg 0xF04 else numflagsSrcAfter (s.reg pg 0xF00) (s.reg pg 0xF04) f stream
  (s.setReg pg 0xF04 src).setReg pg 0xF00 (numflagsAfter (s.reg pg 0xF00) f faulted)

/-- A W1C write of BLK_NUMFLAGS: VALID of the source clears when bits [3:0] are all clear (R172). -/
def State.clearFlags (s : State) (pg : Page) (v : U32) : State :=
  let n := s.reg pg 0xF00 &&& ~~~(v &&& 0xF0F)
  let s' := s.setReg pg 0xF00 n
  if n &&& 0xF = 0 then s'.setReg pg 0xF04 (s'.reg pg 0xF04 &&& ~~~0x4000#32) else s'

end Sys2Proof.Machine
end

