-- ==== Sys2Proof/Machine/Operands.lean ====
section
/-! DEFINITION. The operand forms of the commands: the fields of a BAR2 command word (R44), of the registers a command writes, and of the numbers that name units and dies (R51, R411). -/

namespace Sys2Proof.Machine

/-! ### Command words (R44) -/

def opRing : Nat := 1
def opAbort : Nat := 2
def opOpen : Nat := 3
def opClose : Nat := 4

/-- SEQ of a RING or ABORT word. -/
def cmdSeqOf (body : BitVec 60) : U16 := BitVec.ofNat 16 (body.toNat / 2 ^ 44)

/-- SUBMIT of a RING word: a device address, a multiple of 64. -/
def cmdSubmit (body : BitVec 60) : U48 := BitVec.ofNat 48 (body.toNat % 2 ^ 42 * 64)

/-- JOB and HOME_BD of an OPEN word. -/
def cmdJob (body : BitVec 60) : Nat := body.toNat / 2 ^ 8 % 2 ^ 8
def cmdHome (body : BitVec 60) : Nat := body.toNat % 4

/-- Whether every field not listed for the OP is 0 (R44). -/
def cmdClean (op : Nat) (body : BitVec 60) : Bool :=
  let w := body.toNat
  if op = opRing then decide (w / 2 ^ 42 % 4 = 0)
  else if op = opAbort then decide (w % 2 ^ 44 = 0)
  else if op = opOpen then decide (w / 2 ^ 16 = 0) && decide (w / 4 % 2 ^ 6 = 0)
  else decide (w = 0)

/-- Whether an OP is one of the four (R44). -/
def cmdKnown (op : Nat) : Bool := decide (1 ≤ op) && decide (op ≤ 4)

/-- CMD_SEQ of a command word: its SEQ field, 0 for OPEN and CLOSE (R49). After a word whose OP is not listed, which has no SEQ field, bits 59:44 of the word (DESIGN CHOICE, log entry 3). -/
def cmdSeqField (op : Nat) (body : BitVec 60) : U16 := if op = opOpen ∨ op = opClose then 0 else cmdSeqOf body

/-! ### Units (R51, R411) -/

/-- FAULT_UNIT of a unit number (R51). -/
def unitField (u : Nat) : U16 :=
  if u < 768 then BitVec.ofNat 16 (u % 4 * 0x1000 + u / 64 * 0x100 + u / 4 % 16 * 0x10)
  else if u < 816 then BitVec.ofNat 16 (0x4000 + (u - 768) / 4 * 0x100 + (u - 768) % 4 * 0x10)
  else if u < 819 then BitVec.ofNat 16 (0x5000 + (u - 816) * 0x100)
  else BitVec.ofNat 16 (0x6000 + (u - 819) * 0x100)

/-- FAULT_UNIT of a base die's binder, and of none (R51). -/
def unitBinder (b : Nat) : U16 := BitVec.ofNat 16 (0x7000 + b * 0x100)
def unitNone : U16 := 0xF000

/-- UNIT of an error record for types 8 to 11 (R441): the type in [15:12], the instance in [11:4]. -/
def unitOther (type inst : Nat) : U16 := BitVec.ofNat 16 (type * 0x1000 + inst % 256 * 0x10)
def unitModule : U16 := 0xB000

/-- The die (by number, base dies from 12) a unit lies on. -/
def unitDie (u : Nat) : Nat :=
  if u < 768 then u / 64 else if u < 816 then (u - 768) / 4 else if u < 819 then 12 + (u - 816) else 12 + (u - 819)

/-- The GRN offsets that Tolium's log window answers in every state (R592). -/
def logOffset (off : Nat) : Bool := (decide (0x040 ≤ off) && decide (off ≤ 0x04C)) || (decide (0x080 ≤ off) && decide (off ≤ 0x0BC))

/-- The items of a list with their numbers. -/
def numbered {β : Type} (l : List β) : List (Nat × β) := (List.range l.length).zip l

/-- The base die of a unit. -/
def unitBase (u : Nat) : Nat := if 816 ≤ u then unitDie u - 12 else unitDie u / 4

/-- Kinds of unit. -/
def isArray (u : Nat) : Bool := decide (u < 768) && decide (u % 4 = 0)
def isVector (u : Nat) : Bool := decide (u < 768) && decide (u % 4 = 1)
def isCurve (u : Nat) : Bool := decide (u < 768) && decide (u % 4 = 2)
def isCopy (u : Nat) : Bool := decide (u < 768) && decide (u % 4 = 3)
def isSequencer (u : Nat) : Bool := decide (768 ≤ u) && decide (u < 816)
def isConsort (u : Nat) : Bool := decide (816 ≤ u) && decide (u < 819)
def isLathe (u : Nat) : Bool := decide (819 ≤ u) && decide (u < 822)

/-- The core of a core unit, and the units of a sequencer's quad that it reserves (R33): four cores' arrays, vector engines and curve units. -/
def coreOf (u : Nat) : Nat := u / 4

def quadUnits (u : Nat) : List Nat :=
  let q := u - 768
  (List.range 4).flatMap (fun i => let n := q * 4 + i; [4 * n, 4 * n + 1, 4 * n + 2])

/-! ### Widths and signs -/

/-- A temperature in two's complement of 8 bits. -/
def tempOf (t : BitVec 8) : Int := t.toInt

/-- A sensor sample in two's complement of 16 bits (R503). -/
def sampleOf (v : U16) : Int := v.toInt

/-- A sequence number ahead of another under a window of half its range (R351, R429, R521). -/
def aheadOf (a b : U32) : Bool := decide (1 ≤ (a - b).toNat) && decide ((a - b).toNat < 0x80000000)

end Sys2Proof.Machine
end

