-- ==== Sys2Proof/Machine/Access.lean ====
section
/-! DEFINITION. Access to the state's tables, the dies and the capability values, error records, and what a stream's record says. -/

namespace Sys2Proof.Machine

abbrev Res := Host.Outcome State Fault Refusal

/-! ### Tables -/

def State.stream (s : State) (n : Nat) : Stream := SMap.get streamDefault s.streams n
def State.setStream (s : State) (n : Nat) (x : Stream) : State := { s with streams := SMap.set streamDefault s.streams n x }
def State.job (s : State) (j : Nat) : Job := SMap.get jobDefault s.jobs j
def State.setJob (s : State) (j : Nat) (x : Job) : State := { s with jobs := SMap.set jobDefault s.jobs j x }
def State.updJob (s : State) (j : Nat) (f : Job → Job) : State := s.setJob j (f (s.job j))
def State.region (s : State) (j r : Nat) : Region := SMap.get regionDefault s.regions (j * 64 + r)
def State.setRegion (s : State) (j r : Nat) (x : Region) : State :=
  { s with regions := SMap.set regionDefault s.regions (j * 64 + r) x }
def State.array (s : State) (core : Nat) : ArraySt := SMap.get arrayDefault s.arrays core
def State.setArray (s : State) (core : Nat) (x : ArraySt) : State := { s with arrays := SMap.set arrayDefault s.arrays core x }
def State.chuck (s : State) (u : Nat) : ChuckPair := SMap.get chuckDefault s.chucks u
def State.setChuck (s : State) (u : Nat) (x : ChuckPair) : State := { s with chucks := SMap.set chuckDefault s.chucks u x }
def State.engine (s : State) (u : Nat) : Engine := SMap.get engineDefault s.engines u
def State.setEngine (s : State) (u : Nat) (x : Engine) : State := { s with engines := SMap.set engineDefault s.engines u x }
def State.updEngine (s : State) (u : Nat) (f : Engine → Engine) : State := s.setEngine u (f (s.engine u))
def State.port (s : State) (p : Nat) : Port := SMap.get portDefault s.ports p
def State.setPort (s : State) (p : Nat) (x : Port) : State := { s with ports := SMap.set portDefault s.ports p x }
def State.slot (s : State) (i : Nat) : Slot := SMap.get slotDefault s.slots i
def State.setSlot (s : State) (i : Nat) (x : Slot) : State := { s with slots := SMap.set slotDefault s.slots i x }
def State.tuneUnit (s : State) (u : Nat) : TuneUnit := SMap.get tuneDefault s.tune u
def State.setTune (s : State) (u : Nat) (x : TuneUnit) : State := { s with tune := SMap.set tuneDefault s.tune u x }
def State.die (s : State) (d : Nat) : DieSt := SMap.get dieDefault s.dies d
def State.setDie (s : State) (d : Nat) (x : DieSt) : State := { s with dies := SMap.set dieDefault s.dies d x }
def State.updDie (s : State) (d : Nat) (f : DieSt → DieSt) : State := s.setDie d (f (s.die d))
def State.link (s : State) (e : LinkEnd) : LinkSt := SMap.get linkDefault s.links e.num
def State.setLink (s : State) (e : LinkEnd) (x : LinkSt) : State := { s with links := SMap.set linkDefault s.links e.num x }
def State.bundle (s : State) (e : LinkEnd) (b : Nat) : BundleSt := SMap.get bundleDefault s.bundles (e.num * 16 + b)
def State.setBundle (s : State) (e : LinkEnd) (b : Nat) (x : BundleSt) : State :=
  { s with bundles := SMap.set bundleDefault s.bundles (e.num * 16 + b) x }
/-- Number of a lane group: its link end, bundle and group. -/
def laneKey (e : LinkEnd) (b g : Nat) : Nat := (e.num * 16 + b) * 16 + g
def State.laneGroup (s : State) (e : LinkEnd) (b g : Nat) : LaneGroup := SMap.get laneDefault s.lanes (laneKey e b g)
def State.setLaneGroup (s : State) (e : LinkEnd) (b g : Nat) (x : LaneGroup) : State :=
  { s with lanes := SMap.set laneDefault s.lanes (laneKey e b g) x }
def State.window (s : State) (j : Nat) : List WEntry := SMap.get wmapDefault s.wmap j
def State.emit (s : State) (o : Out) : State := { s with out := s.out ++ [o] }

/-- The counter of the next free value, and the state with it advanced. -/
def State.draw (s : State) : State := { s with free := s.free + 1 }

/-- A function applied over a list of things to do, in order. -/
def State.forEach {β : Type} (s : State) (l : List β) (f : State → β → State) : State := l.foldl f s

/-! ### Dies (R469, R477) -/

def State.baseUp (s : State) (b : Nat) : Bool := (s.die (12 + b)).up
def State.computeUp (s : State) (d : Nat) : Bool := (s.die d).up
def State.allBasesUp (s : State) : Bool := s.baseUp 0 && s.baseUp 1 && s.baseUp 2

/-- Whether the device address lies in memory that a down base die serves, the whole bench tier while any is down (R475, R224). -/
def State.memDown (s : State) (a : Nat) : Bool :=
  match hbmStack a with
  | some k => !s.baseUp (baseOfStack k)
  | none =>
    if inBench a then !s.allBasesUp || !s.start.benchOk
    else if stagingBase ≤ a ∧ a < stagingEnd then !s.baseUp ((a - stagingBase) / 0x10000000)
    else false

/-- Whether a core is retired (R138, R417). -/
def State.coreRetired (s : State) (n : Nat) : Bool :=
  (if h : n < 192 then decide (s.field (.mxa ⟨n, h⟩) 0x040 20 1 = 1) else true)
    || s.start.retired.any (fun u => decide (u / 4 = n) && decide (u < 768))

/-- A fault in a core's vector engine, curve unit or copy engine fences the core for the binder (R417). -/
def State.coreFenced (s : State) (n : Nat) : Bool := ([1, 2, 3] : List Nat).any (fun i => (s.tuneUnit (4 * n + i)).fenced)

/-- The cores of a quad that its sequencer uses (R205). -/
def State.quadCores (s : State) (q : Nat) : List Nat :=
  ((List.range 4).map (4 * q + ·)).filter (fun n => s.computeUp (n / 16) && !s.coreRetired n && !s.coreFenced n && !(s.tuneUnit (4 * n)).fenced)

/-- Cores that count as usable: on an up compute die and not retired (R138, R477). -/
def State.usableCores (s : State) : List Nat :=
  (List.range 192).filter (fun n => s.computeUp (n / 16) && !s.coreRetired n)

/-- Reported width of an array (R135, R138). -/
def State.arrayWidth (s : State) (n : Nat) : Nat := if h : n < 192 then s.field (.mxa ⟨n, h⟩) 0x040 0 6 else 0

/-- Usable bytes of a stack: 47.875 GiB while its base die is up (R102, R477). -/
def State.domainBytes (s : State) (i : Nat) : Nat := if s.baseUp (baseOfStack i) then visibleSize else 0

/-- The recipes loaded: the shipped ones and those of 16 to 61 (R102, R289). -/
def State.recipeOf (s : State) (n : Nat) : Option Recipe :=
  match shippedRecipe n with
  | some r => some r
  | none => (s.recipes.find? (fun p => decide (p.1 = n))).map (·.2)

def State.recipeMask (s : State) : Nat := (List.range 64).foldl (fun m n => if (s.recipeOf n).isSome then m + 2 ^ n else m) 0

def State.benchBytes (s : State) : Nat := if s.allBasesUp && s.start.benchOk then 0x2000000000 else 0

/-- Value of a capability key (R102, R138, R477); every other key reads 0. -/
def State.capability (s : State) (key : Nat) : Nat :=
  match key with
  | 0x0000 => 0x00010002
  | 0x0001 => 1
  | 0x0002 => 1024
  | 0x0003 => 2048
  | 0x0004 => 2048
  | 0x0005 => 6
  | 0x0006 => (List.range 64).foldl (fun m d => if (elemOf d).isSome then m + 2 ^ d else m) 0
  | 0x0007 => 0x3FFF
  | 0x0008 => 0x7F
  | 0x0009 => s.recipeMask
  | 0x000A => 16
  | 0x000B => (List.range 16).foldl (fun t i => t + s.domainBytes i) 0
  | 0x000C => s.benchBytes
  | 0x000D => 16777216
  | 0x000E => s.usableCores.length
  | 0x000F => s.usableCores.foldl (fun t n => t + s.arrayWidth n) 0
  | 0x0010 => (s.usableCores.map s.arrayWidth).min?.getD 0
  | 0x0011 => 4194304
  | 0x0012 => 4
  | 0x0013 => 1024
  | 0x0014 => 68719476736
  | 0x0015 => if s.benchBytes = 0 then 0xEF else 0xFF
  | k => if 0x0100 ≤ k ∧ k < 0x0110 then s.domainBytes (k - 0x0100) else 0

/-- GLB_CAP_GEN (R104). -/
def State.capGen (s : State) : U32 := s.reg (.glb 1) 0x04C

/-- Capability values change: the generation rises on every binder, bind caches empty, and bindings in progress start again (R103, R473). -/
def State.capChanged (s : State) : State :=
  let s1 := ([0, 1, 2] : List (Fin 3)).foldl (fun (t : State) (b : Fin 3) =>
    let t1 := t.countWrap (.glb b) 0x04C
    if s.start.ready then t1.raise (.glb b) 1 else t1) s
  { s1 with caches := [], waiting := [] }

/-! ### Error records (R440 to R442) -/

/-- An event to be recorded, before its number and time. -/
structure Event where
  kind : Nat
  code : U16 := 0
  outcome : Nat := 1
  unit : U16 := unitModule
  stream : Option Nat := none
  subSeq : U16 := 0
  job : Nat := 0
  step : Nat := 0
  addr : Nat := 0
  detail : List Nat := []

/-- The last `n` entries of a list. -/
def keepLast {α : Type} (n : Nat) (l : List α) : List α := (l.reverse.take n).reverse

/-- Tolium stores an error record; it keeps the last 4,096 (R440, R441). -/
def State.record (s : State) (e : Event) : State :=
  let r : ErrRec :=
    { seq := s.logHead, code := e.code, kind := e.kind, outcome := e.outcome, unit := e.unit, stream := e.stream
      subSeq := e.subSeq, job := e.job, step := e.step, addr := e.addr, time := Config.freeTime s.free, detail := e.detail }
  { s.draw with log := keepLast 4096 (s.log ++ [r]), logHead := s.logHead + 1 }

/-- An error record that names a stream. -/
def State.recordStream (s : State) (n : Nat) (e : Event) : State :=
  s.record { e with stream := some n, subSeq := (s.stream n).seq, job := (s.stream n).job }

/-! ### ALERT_N (R504) -/

/-- ALERT_N is asserted while a Breath crossing, a leak or recovery stands; asserted means low. -/
def State.alert (s : State) : Bool :=
  decide (s.reg .brt 0x050 ≠ 0) || s.pwr.leak || s.start.recovery

/-- ALERT_N as it stands after a command that found it at `before`: shown where it has changed, and released with everything else while the module has no power (R1, R504). -/
def State.alertFrom (s before : State) : State := if s.alert = before.alert then s else s.emit (.alert s.alert)

/-! ### Streams -/

/-- An open stream (R40). -/
def Stream.isOpen (x : Stream) : Bool := decide (x.st ≠ .free)

/-- A submission in progress: BINDING, RUNNING, DRAINING or FROZEN. -/
def Stream.active (x : Stream) : Bool :=
  decide (x.st = .binding) || decide (x.st = .running) || decide (x.st = .draining) || decide (x.st = .frozen)

/-- The busy case of R235, R356, R380, R397, R445, R500 and R545. -/
def Stream.busy (x : Stream) : Bool := x.active || !x.pend.isEmpty

/-- An ended state (R40). -/
def Stream.ended (x : Stream) : Bool := decide (x.st = .completed) || decide (x.st = .aborted) || decide (x.st = .failed)

/-- The submission whose slots the stream may still hold is over: it has ended, and the stream may have been closed or opened again since (R41, R611). -/
def Stream.over (x : Stream) : Bool := x.ended || decide (x.st = .free) || decide (x.st = .idle)

/-- Numbers of the streams of a job that are open. -/
def State.streamsOf (s : State) (j : Nat) : List Nat :=
  (s.streams.filter (fun p => p.2.isOpen && decide (p.2.job = j))).map (·.1)

def State.jobBusy (s : State) (j : Nat) : Bool := (s.streamsOf j).any (fun n => (s.stream n).busy)

def State.anyBusy (s : State) : Bool := s.streams.any (fun p => p.2.busy)

def State.openCount (s : State) (f : Stream → Bool) : Nat := (s.streams.filter (fun p => p.2.isOpen && f p.2)).length

/-- Rewriting a status record: GEN rises by one (R49). -/
def State.updRec (s : State) (n : Nat) (f : Stream → Stream) : State :=
  let x := f (s.stream n)
  s.setStream n { x with gen := x.gen + 1 }

/-- The home manager's page. -/
def stmPage (b : Nat) : Page := .stm (if b = 0 then 0 else if b = 1 then 1 else 2)
def glbPage (b : Nat) : Page := .glb (if b = 0 then 0 else if b = 1 then 1 else 2)

end Sys2Proof.Machine
end

