-- ==== Sys2Proof/Machine/Flits.lean ====
section
/-! DEFINITION. Flits of the package's links (R451, R452): how one is sent, and the placement of messages on bundles (R453, R456). -/

namespace Sys2Proof.Machine

/-- The page that shows a link end; the compute die's end of a bond has none. -/
def LinkEnd.page : LinkEnd → Option Page
  | .rdl r => some (.rdl r)
  | .bondBase d => some (.bnd d)
  | .bondDie _ => none

/-- The page that shows what befalls a link end: a bond's two ends share the BND page (R482, R483). -/
def LinkEnd.shown : LinkEnd → Page
  | .rdl r => .rdl r
  | .bondBase d => .bnd d
  | .bondDie d => .bnd d

def State.onPage (s : State) (e : LinkEnd) (f : State → Page → State) : State :=
  match e.page with
  | some pg => f s pg
  | none => s

/-- A bundle in use: enabled at start and not retired since. -/
def LinkSt.uses (x : LinkSt) (b : Nat) : Bool := x.enabled.testBit b && !x.retired.testBit b

/-- A link over which flits pass. -/
def LinkSt.carries (x : LinkSt) (b : Nat) : Bool := x.up && !x.fenced && x.uses b

/-! ### Flits (R451 to R453) -/

/-- The bytes a flit's CRC covers: the payload and every trailer byte before CRC. -/
def Flit.covered (f : Flit) : List U8 :=
  f.payload ++ leBytes 2 f.fseq.toNat ++ leBytes 2 f.fack.toNat ++ leBytes 1 f.kind ++ f.reserved

def Flit.good (f : Flit) : Bool := decide (crc32c f.covered = f.crc)

/-- Reserved trailer bytes of a link's flits (R451). -/
def LinkEnd.spareBytes : LinkEnd → Nat
  | .rdl _ => 23
  | _ => 7

/-- A payload filled with zeros to the flit's size. -/
def padTo (n : Nat) (l : List U8) : List U8 := (l ++ List.replicate (n - l.length) 0).take n

/-- A flit sent on a bundle: numbered, kept for replay while at most 256 are kept (R452). -/
def State.sendFlit (s : State) (e : LinkEnd) (b kind : Nat) (payload : List U8) : State :=
  let x := s.bundle e b
  if (s.link e).carries b ∧ x.unacked.length < 256 then
    let f0 : Flit := ⟨x.txSeq, x.rxSeq - 1, kind, List.replicate e.spareBytes 0, padTo e.payload payload, 0⟩
    let f := { f0 with crc := crc32c f0.covered }
    (s.setBundle e b { x with txSeq := x.txSeq + 1, unacked := x.unacked ++ [f] }).emit (.flit e b f)
  else s

/-- The lowest bundle of a link that is in use. -/
def LinkSt.firstBundle (x : LinkSt) (n : Nat) : Option Nat := (List.range n).find? (fun b => x.uses b)

/-! ### Where messages go (R453, R456) -/

/-- Whether every flit that a retired bundle left unacknowledged has been acknowledged since. -/
def LinkSt.settled (x : LinkSt) (b : Nat) : Bool := !x.moved.any (fun m => decide (m.1 = b)) && !x.held.any (fun m => decide (m.old = some b))

/-- The bundle on which a stream's next token or credit message may go now: the stream's own; another one only once every flit of the old one has been acknowledged (R453). -/
def LinkSt.placeOf (x : LinkSt) (bundles n : Nat) : Option Nat :=
  match x.places.find? (fun p => decide (p.1 = n)) with
  | some p => if x.uses p.2 then some p.2 else if x.settled p.2 then x.firstBundle bundles else none
  | none => x.firstBundle bundles

/-- The bundle a message may go on now. -/
def LinkSt.routeFor (x : LinkSt) (bundles : Nat) (m : HeldMsg) : Option Nat :=
  match m.stream with
  | some n => x.placeOf bundles n
  | none => x.firstBundle bundles

/-- A message put on a bundle with room, its stream placed there and a moved flit remembered until it is acknowledged; none where it cannot go now. -/
def State.tryMessage (s : State) (e : LinkEnd) (m : HeldMsg) : Option State :=
  let x := s.link e
  match x.routeFor e.bundles m with
  | some b =>
    if x.carries b ∧ (s.bundle e b).unacked.length < 256 then
      let y := { x with
        places := (match m.stream with | some n => x.places.filter (fun p => !decide (p.1 = n)) ++ [(n, b)] | none => x.places)
        moved := (match m.old with | some o => x.moved ++ [(o, b, (s.bundle e b).txSeq)] | none => x.moved) }
      some ((s.setLink e y).sendFlit e b m.kind m.payload)
    else none
  | none => none

/-- Messages that wait at a link end go as far as they now can, in order. -/
def State.releaseHeld (s : State) (e : LinkEnd) : State :=
  let l := (s.link e).held
  (s.setLink e { s.link e with held := [] }).forEach l (fun t m =>
    match t.tryMessage e m with
    | some t1 => t1
    | none => t.setLink e { t.link e with held := (t.link e).held ++ [m] })

/-- A message offered to a link: behind those that already wait there. -/
def State.offer (s : State) (e : LinkEnd) (m : HeldMsg) : State :=
  (s.setLink e { s.link e with held := (s.link e).held ++ [m] }).releaseHeld e

/-- A message of no stream sent as a DATA flit. -/
def State.sendMessage (s : State) (e : LinkEnd) (payload : List U8) : State := s.offer e ⟨none, none, 0, payload⟩

/-- The bytes of a BUDGET message (R465). -/
def Budget.bytes (m : Budget) : List U8 :=
  leBytes 2 m.epoch.toNat ++ leBytes 2 m.limitW8.toNat ++ leBytes 1 (if m.descantOff then 1 else 0) ++ List.replicate 3 0

/-- A BUDGET put on its way: over a base die's Tolium link, and from an up base die to its compute die as a DATA flit message (R465). -/
def State.putBudget (s : State) (d : Nat) (m : Budget) : State :=
  let s1 := s.emit (.budget d m)
  match finOf 12 d with
  | some c => if s.baseUp (d / 4) then s1.sendMessage (.bondBase c) m.bytes else s1
  | none => s1

/-- The link ends that a die holds. -/
def Die.ends : Die → List LinkEnd
  | .compute d => [.bondDie d]
  | .base b => (if b = 0 then [.rdl 0] else if b = 1 then [.rdl 1, .rdl 2] else [.rdl 3])
      ++ ((List.finRange 12).filter (fun d => decide (d.val / 4 = b.val))).map LinkEnd.bondBase

/-- A die about to be reset sends one RESET_NOTICE flit on every bundle it can still drive (R463). -/
def State.noticeReset (s : State) (d : Die) : State :=
  s.forEach d.ends (fun t e => t.forEach (List.range e.bundles) (fun t b => t.sendFlit e b 4 []))

/-- Unacknowledged flits after a FACK: those up to it are dropped, modulo 2¹⁶. -/
def ackFlits (fack : U16) (l : List Flit) : List Flit := l.filter (fun f => !decide ((fack - f.fseq).toNat < 0x8000))

/-- What an acknowledgement on a bundle settles: moved flits that it covers, and the messages that waited for them or for room. -/
def State.ackedBy (s : State) (e : LinkEnd) (b : Nat) (fack : U16) : State :=
  let x := s.link e
  (s.setLink e { x with moved := x.moved.filter (fun m => !(decide (m.2.1 = b) && decide ((fack - m.2.2).toNat < 0x8000))) }).releaseHeld e

/-- A link on which nothing more is sent: the flits and messages there are discarded (R470, R474). -/
def State.dropFlits (s : State) (e : LinkEnd) : State :=
  (s.setLink e { s.link e with places := [], moved := [], held := [] }).forEach (List.range e.bundles) (fun t b => t.setBundle e b { t.bundle e b with unacked := [] })

/-- The sending ends that a message passes from a die to another (numbered with base dies from 12): up the bond, along the row of base dies, and down the bond. -/
def linkPath (a b : Nat) : List LinkEnd :=
  if a = b then []
  else
    let base (d : Nat) : Nat := if d < 12 then d / 4 else d - 12
    let up : List LinkEnd := match finOf 12 a with | some d => [.bondDie d] | none => []
    let down : List LinkEnd := match finOf 12 b with | some d => [.bondBase d] | none => []
    let across : List LinkEnd :=
      match base a, base b with
      | 0, 1 => [.rdl 0]
      | 0, 2 => [.rdl 0, .rdl 2]
      | 1, 2 => [.rdl 2]
      | 1, 0 => [.rdl 1]
      | 2, 1 => [.rdl 3]
      | 2, 0 => [.rdl 3, .rdl 1]
      | _, _ => []
    up ++ across ++ down

/-- A message of a stream sent from one die to another. DESIGN CHOICE (log entry 32): it leaves every die on its way in the same step, and what it says has its effect at once. -/
def State.tell (s : State) (a b n : Nat) (payload : List U8) : State := s.forEach (linkPath a b) (fun t e => t.offer e ⟨some n, none, 0, payload⟩)

/-- The FENCE notice that the base die of a lost compute die sends to the other base dies and to Tolium (R470 step 3). -/
def State.fenceNotice (s : State) (d : Nat) : State :=
  (s.forEach ((([12, 13, 14] : List Nat).filter (fun o => !decide (o = 12 + d / 4))).flatMap (linkPath (12 + d / 4))) (fun t e => t.offer e ⟨none, none, 3, Config.fenceBytes d⟩)).emit (.fence d)

end Sys2Proof.Machine
end

