-- ==== Sys2Proof/Machine/Ops.lean ====
section
/-! DEFINITION. The named operations over the state that the commands share: node slots, streams and their ends, detected faults. -/

namespace Sys2Proof.Machine

/-! ### Node slots (R22, R610) -/

/-- Whether an engine runs a firing of a stream. -/
def State.runs (s : State) (u n : Nat) : Bool :=
  match (s.engine u).cur with
  | some r => decide (r.stream = n)
  | none => false

/-- Bound nodes that the binder makes of a node on one engine, by the queues that join it to others: a COLLECTIVE's intake and a VERDICT's first firing have none of the queues of the firings that write, and an UPDATE's retain firings have its input queues and its last firing its credit counters alone (R22). DESIGN CHOICE (log entry 24). -/
def splitOf (op sub : Nat) (ins outs : Bool) : Nat :=
  if op = 8 ∧ sub ≠ 62 then 1 + ins.toNat + outs.toNat else if op = 7 ∨ op = 8 then 1 + (ins || outs).toNat else 1

/-- Bound nodes, and so node slots, of one node of a bound program (R610). -/
def Bound.split (b : Bound) (y : BNode) : Nat :=
  match b.prog.nodes[y.node]? with
  | some n => splitOf n.op n.sub (b.edges.any (fun e => decide (e.dst = y.slot))) (b.edges.any (fun e => decide (e.src = y.slot)))
  | none => 1

/-- Node slots of an engine that a bound program holds: one for each bound node (R610). -/
def Bound.slotsOn (b : Bound) (u : Nat) : Nat :=
  let l := b.nodes.filter (fun x => decide (x.unit = u) && !x.freed)
  (l.map (·.place)).dedup.length + (l.map (fun y => b.split y - 1)).sum

/-- A place that a bound program has free on an engine. -/
def Bound.freePlace (b : Bound) (u : Nat) : Nat :=
  ((List.range 32).find? (fun k => !b.nodes.any (fun x => decide (x.unit = u) && !x.freed && decide (x.place = k)))).getD 32

/-- The SRAM areas a bound program holds: working areas and the block slots of its edges (R225). -/
def Bound.areas (b : Bound) : List (Nat × Nat) :=
  (b.nodes.filter (fun x => !x.freed)).map (·.area) ++ b.edges.map (fun e => (e.addr, e.depth * e.bytes))

/-- Slots of an engine that submissions hold. -/
def State.slotsUsed (s : State) (u : Nat) : Nat :=
  s.streams.foldl (fun t p => match p.2.bound with | some b => t + b.slotsOn u | none => t) 0

/-- Slots of an engine that the submissions of one job hold. -/
def State.slotsOfJob (s : State) (j u : Nat) : Nat :=
  s.streams.foldl (fun t p => match p.2.bound with
    | some b => if p.2.job = j then t + b.slotsOn u else t
    | none => t) 0

/-- Whether an engine has that many free slots for a job, a descant job's share kept at 8 (R610, R66). -/
def State.roomOn (s : State) (j u k : Nat) : Bool :=
  decide (s.slotsUsed u + k ≤ 32) && (!(s.job j).descant || decide (s.slotsOfJob j u + k ≤ 8))

/-- Bytes of a list of SRAM areas that lie in a core's tile SRAM (R209). -/
def tileBytes (l : List (Nat × Nat)) (core : Nat) : Nat :=
  ((l.filter (fun a => decide (tileBase + core * 0x400000 ≤ a.1) && decide (a.1 < tileBase + (core + 1) * 0x400000))).map (·.2)).sum

/-- Whether two memory ranges meet. -/
def meets (lo hi lo' hi' : Nat) : Bool := decide (lo < hi') && decide (lo' < hi)

/-- The SRAM areas that submissions hold, of one job or of all. -/
def State.areasHeld (s : State) (j : Option Nat) : List (Nat × Nat) :=
  s.streams.flatMap (fun p => match p.2.bound with
    | some b => if j = none ∨ j = some p.2.job then b.areas else []
    | none => [])

/-- Tile SRAM quota of a descant job on each core (R66). -/
def Job.sramQuota (x : Job) : Nat := x.descSram * 65536

/-- Whether every engine of a placement has as many free slots as it needs, a descant job's share kept at 8 and its tile SRAM within its quota, and the SRAM it places its blocks in is free (R610, R66, R225). -/
def State.slotsFit (s : State) (j : Nat) (p : Bound) : Bool :=
  p.nodes.all (fun x => s.roomOn j x.unit (p.slotsOn x.unit))
    && (let held := s.areasHeld none
        p.areas.all (fun a => held.all (fun h => !meets a.1 (a.1 + a.2) h.1 (h.1 + h.2))))
    && (!(s.job j).descant || (List.range 192).all (fun c =>
      decide (tileBytes p.areas c = 0) || decide (tileBytes (s.areasHeld (some j)) c + tileBytes p.areas c ≤ (s.job j).sramQuota)))

/-- The bound program a placement makes: every slot at its first firing, every edge with the initial tokens and credits of R28. -/
def Plan.bound (p : Plan) (prog : Program) (internals : List (Nat × Nat × Nat)) : Bound :=
  { prog := prog
    nodes := (p.nodes.zip (List.range p.nodes.length)).map (fun x =>
      { unit := x.1.unit, place := x.1.place, node := x.1.node, slot := x.2, area := x.1.area, firings := x.1.firings, next := 0
        revoked := false, freed := false, rep := false, code := 0, part := (.unsaid, 0) })
    edges := p.edges.map (fun e =>
      let b : BEdge := ⟨e.src, e.dst, e.depth, e.addr, e.bytes, e.tagged, [], e.depth, e.initTokens⟩
      { b with tokens := (List.range e.initTokens).map b.token })
    internals := internals, olds := [], then0 := [] }

/-! ### Entry into a submission, and its ends (R41) -/

/-- A submission enters BINDING: counts cleared (R41, R49). PREV names the submission that ended last. -/
def Stream.enterBinding (x : Stream) (sub : Sub) (order phase : Nat) (mem : List (Nat × U8)) : Stream :=
  { x with
    st := .binding, stalled := false, seq := sub.seq, endStatus := 0, discarded := 0
    prevEnd := if x.st = .completed then 1 else if x.st = .aborted then 2 else if x.st = .failed then 3 else 0
    prevSeq := if x.ended then x.seq else 0
    dropped := 0, outTotal := 0, outDone := 0, outPrefix := 0, oobWrites := 0, nodesDone := 0, nodesTotal := 0, firings := 0
    faultUnit := unitNone, step := 0, numflags := 0, emptyRows := false, runTicks := 0, submit := sub.addr
    bound := none, doneRuns := [], order := order, phase0 := phase, entryMem := mem }

/-- The next pending submission starts where the stream has ended and its slots are freed (R41, R611). -/
def State.startNext (s : State) (n : Nat) : State :=
  let x := s.stream n
  match x.pend with
  | sub :: rest =>
    if (x.ended || decide (x.st = .idle)) && x.bound.isNone then
      { s.updRec n (fun x => { x.enterBinding sub s.nextReq (s.job x.job).phase s.mem.bytes with pend := rest }) with nextReq := s.nextReq + 1 }
    else s
  | [] => s

/-- The die of a slot's engine. -/
def Bound.dieOf (b : Bound) (slot : Nat) : Nat := match b.nodes[slot]? with | some y => unitDie y.unit | none => 12

/-- The message of a token (R20, R453). -/
def BlockToken.message (k : BlockToken) (n edge : Nat) : List U8 := Config.tokenBytes n edge [k.block, k.addr, k.bytes, if k.tagged then 1 else 0]

/-- The initial tokens and credits that the home stream manager issues: over each edge its tokens to the consumer, in order, and its credits to the producer (R28, R453). -/
def State.issueInitial (s : State) (n : Nat) (b : Bound) : State :=
  let home := 12 + (s.stream n).home
  s.forEach (numbered b.edges) (fun t q =>
    let t1 := t.forEach q.2.tokens (fun t k => t.tell home (b.dieOf q.2.dst) n (k.message n q.1))
    t1.tell home (b.dieOf q.2.src) n (Config.creditBytes n q.1 q.2.credits))

/-- A waiting binding gets its slots: RUNNING, with the initial tokens and credits (R28, R108, R115). -/
def State.enterRunning (s : State) (n : Nat) (b : Bound) (outTotal : Nat) : State :=
  (s.updRec n (fun x => { x with st := .running, bound := some b, outTotal := outTotal, nodesTotal := b.prog.nodes.length })).issueInitial n b

/-- The order in which waiting bindings are served: primary jobs before descant jobs, each in the order of entry into BINDING (R108). -/
def State.servedBefore (s : State) (a b : WaitingBind) : Bool :=
  let ja := (s.job (s.stream a.stream).job).descant
  let jb := (s.job (s.stream b.stream).job).descant
  if ja = jb then decide ((s.stream a.stream).order ≤ (s.stream b.stream).order) else !ja

def insertWaiting (s : State) (w : WaitingBind) : List WaitingBind → List WaitingBind
  | [] => [w]
  | v :: l => if s.servedBefore w v then w :: v :: l else v :: insertWaiting s w l

/-- First and past-the-end address of a region (R232). -/
def Region.lo (r : Region) : Nat := r.base
def Region.hi (r : Region) : Nat := r.limit + 2048

/-- Whether a range meets free main store that the binder holds for a submission (R613). -/
def State.heldMeets (s : State) (lo hi : Nat) : Bool :=
  s.streams.any (fun p => match p.2.bound with
    | some b => b.internals.any (fun x => meets lo hi x.2.1 (x.2.1 + x.2.2))
    | none => false)

/-- Whether memory is free main store or free bench tier: in no valid region of a VALID job and not held for a submission (R613). -/
def State.memFree (s : State) (lo hi : Nat) : Bool :=
  !s.heldMeets lo hi
    && !s.regions.any (fun (p : Nat × Region) => p.2.valid && (s.job (p.1 / 64)).valid && meets lo hi p.2.lo p.2.hi)

/-- Whether the memory that a waiting binding has chosen outside the scratch area is still free. -/
def State.placeFree (s : State) (w : WaitingBind) : Bool :=
  w.bound.internals.all (fun (x : Nat × Nat × Nat) => !w.plan.outside.any (fun q => decide (q.1 = x.1)) || s.memFree x.2.1 (x.2.1 + x.2.2))

/-- Freed node slots handed to the waiting bindings in their order, to each whose engines have as many free slots as it needs; the others go on waiting (R610). One whose memory has been taken since is left to its binder to place again. -/
def State.grantLoop (s : State) : List WaitingBind → List WaitingBind → State
  | [], kept => { s with waiting := kept }
  | w :: l, kept =>
    if s.slotsFit (s.stream w.stream).job w.bound then
      (if s.placeFree w then s.enterRunning w.stream w.bound w.outTotal else s).grantLoop l kept
    else s.grantLoop l (kept ++ [w])

def State.grantSlots (s : State) : State := s.grantLoop s.waiting []

/-- Nodes of a bound program revoked, each freed at once where its engine runs no firing of the stream (R59, R611). -/
def State.revokeBound (s : State) (n : Nat) (b : Bound) : Bound :=
  { b with nodes := b.nodes.map (fun (x : BNode) => { x with revoked := true, freed := x.freed || !s.runs x.unit n }) }

/-- A bound program all of whose slots are freed holds nothing any more. -/
def Bound.keep (b : Bound) : Option Bound := if b.nodes.all (·.freed) then none else some b

/-- Every node slot of a stream's submission revoked. -/
def State.revoke (s : State) (n : Nat) : State :=
  match (s.stream n).bound with
  | some b => s.setStream n { s.stream n with bound := (s.revokeBound n b).keep }
  | none => s

/-- A failed or aborted submission leaves the Lathes and Consort engines where no firing of it runs, and no block of it that waits for its re-add check is sent any more (R61, R62, R288). DESIGN CHOICE (log entry 6): the group's CSEQ stays as it was, which R364 moves as a COLLECTIVE node ends. -/
def State.abandon (s : State) (n : Nat) : State :=
  { s with
    upds := s.upds.filter (fun u => !decide (u.stream = n) || s.runs (819 + u.lathe) n)
    colls := s.colls.filter (fun c => !decide (c.stream = n) || s.runs (816 + c.base) n)
    readds := s.readds.map (fun r => if r.stream = n then { r with held := [] } else r)
    waiting := s.waiting.filter (fun w => !decide (w.stream = n)) }

/-- The record of a submission as it ends (R38, R49). -/
def Stream.endRec (x : Stream) (st : SState) (code unit : U16) (ticks : U32) : Stream :=
  { x with
    st := st, stalled := false, endStatus := code, faultUnit := unit, runTicks := ticks
    discarded := x.dropped + (if st = .completed then 0 else x.pend.length)
    dropped := 0
    pend := if st = .completed then x.pend else [] }

/-- A submission ends: its record, its slots, the waiting bindings, and the next submission of its stream (R38, R41, R108, R611). -/
def State.endSubmission (s : State) (n : Nat) (st : SState) (code unit : U16) : State :=
  let s1 := (s.updRec n (fun x => x.endRec st code unit (Config.freeTicks s.free))).draw
  let s2 := if st = .failed then s1.raise (stmPage (s1.stream n).home) 1 else s1
  ((((s2.revoke n).abandon n).grantSlots).startNext n)

/-- A failure report at the completion point: BINDING, RUNNING and FROZEN streams fail, others keep their state (R41). -/
def State.failStream (s : State) (n : Nat) (code unit : U16) : State :=
  let x := s.stream n
  if x.st = .binding ∨ x.st = .running ∨ x.st = .frozen then s.endSubmission n .failed code unit else s

/-- A forced end (R474, R508): DRAINING streams fail as well. -/
def State.forceFail (s : State) (n : Nat) (code unit : U16) : State :=
  if (s.stream n).active then s.endSubmission n .failed code unit else s

/-- Whether a DRAINING stream has no firing left on any engine (R59). -/
def State.drained (s : State) (n : Nat) : Bool :=
  s.engines.all (fun p => match p.2.cur with | some r => !decide (r.stream = n) | none => true)

/-- The last engine of a DRAINING stream has released: ABORTED (R59), in Run only (R486). -/
def State.drainDone (s : State) (n : Nat) : State :=
  if (s.stream n).st = .draining ∧ s.drained n ∧ s.pwr.st = .run then s.endSubmission n .aborted S_ABORTED unitNone else s

/-- A firing has ended: no contribution end waits for it any more (R423). -/
def State.clearFiring (s : State) (u j : Nat) : State :=
  s.updJob j (fun x => { x with contribs := x.contribs.map (fun (c : ContribEnd) => { c with firings := c.firings.filter (fun v => !decide (v = u)) }) })

/-- An engine has ended its firing of a stream: it stands at a firing boundary, and slots revoked while it ran are freed (R59, R611). -/
def State.freeAfterFiring (s : State) (u n : Nat) : State :=
  let s1 := (s.updEngine u (fun e => { e with cur := none })).clearFiring u (s.stream n).job
  match (s1.stream n).bound with
  | some b =>
    let b' := { b with nodes := b.nodes.map (fun (x : BNode) => if x.unit = u ∧ x.revoked then { x with freed := true } else x) }
    (((s1.setStream n { s1.stream n with bound := b'.keep }).abandon n).grantSlots).startNext n
  | none => (s1.abandon n).startNext n

/-! ### Detected faults (R402 to R407) -/

/-- A unit's tuning pass becomes due at once with a deadline of 0 (R405, R406, R446). -/
def State.dueNow (s : State) (u : Nat) : State :=
  let t := s.tuneUnit u
  if t.st = .running ∨ t.fenced then s else s.setTune u { t with st := .takeover }

/-- What a slot's last fault reported, where its next firing repeats it (R402). -/
def State.slotCode (s : State) (n slot : Nat) : U16 :=
  match (s.stream n).bound with
  | some b => (match b.nodes[slot]? with | some y => y.code | none => 0)
  | none => 0

/-- A unit's firing repeats one that a tally mismatch ended, and the stream still waits for it: a second mismatch ends the stream and makes the pass due (R402, R403, R405). -/
def State.lastTry (s : State) (u : Nat) : Bool :=
  match (s.engine u).cur with
  | some r => r.rep && decide (s.slotCode r.stream r.slot = S_TALLY) && decide ((s.stream r.stream).st ≠ .draining) && !(s.stream r.stream).over && !(s.tuneUnit u).fenced
  | none => false

/-- A base die's Consort page (R374). -/
def cnsPage (b : Nat) : Page := .cns (if b = 0 then 0 else if b = 1 then 1 else 2)

/-- What a Consort page shows of a collective that has failed (R374). -/
def State.noteCollFail (s : State) (base group stream : Nat) (code : U16) : State :=
  let pg := cnsPage base
  ((s.setReg pg 0x05C (packFields [(code.toNat, 0, 16), (group, 16, 16)])).setReg pg 0x060 (BitVec.ofNat 32 stream)).raise pg 1

/-- The group of the COLLECTIVE node whose firing a unit runs. -/
def State.collGroupOf (s : State) (u : Nat) : Option (Nat × Nat) :=
  match (s.engine u).cur with
  | some r =>
    (match (s.stream r.stream).bound with
    | some b => ((b.nodes[r.slot]?).bind (fun y => b.prog.nodes[y.node]?)).bind (fun n => if n.op = opCollective then some (n.attrLe 0 2, r.stream) else none)
    | none => none)
  | none => none

/-- A Consort engine's firing that fails its stream shows on its page (R374). -/
def State.noteUnitFail (s : State) (u : Nat) (code : U16) : State :=
  match s.collGroupOf u with
  | some (g, n) => if isConsort u then s.noteCollFail (u - 816) g n code else s
  | none => s

/-- A sequencer lets go of the engines it has reserved (R33, R205). -/
def State.releaseQuad (s : State) (u : Nat) : State :=
  s.forEach (quadUnits u) (fun t v => if (t.engine v).reservedBy = some u then t.updEngine v (fun e => { e with reservedBy := none }) else t)

/-- The engine stands at a firing boundary; a sequencer's engines are released with it. -/
def State.boundary (s : State) (u : Nat) : State :=
  let s1 := match (s.engine u).cur with
    | some r => (s.updEngine u (fun e => { e with cur := none })).clearFiring u (s.stream r.stream).job
    | none => s
  if isSequencer u then s1.releaseQuad u else s1

/-- A change of one node slot of a bound program. -/
def Bound.updSlot (b : Bound) (i : Nat) (f : BNode → BNode) : Bound :=
  { b with nodes := b.nodes.map (fun (x : BNode) => if x.slot = i then f x else x) }

def State.updSlot (s : State) (n i : Nat) (f : BNode → BNode) : State :=
  match (s.stream n).bound with
  | some b => s.setStream n { s.stream n with bound := some (b.updSlot i f) }
  | none => s

/-- The firing of an engine ends with a detected fault (R27, R172, R402 to R405): its flags are posted in FAULTED, its slot keeps its tokens and credits and is repeated once; a second fault fails the stream with the code reported; a stream that is DRAINING or has ended, and a fenced engine, see no repetition (R403). Each way leaves a record (R400): the first fault of a slot as its repetition ends (R404, R405); DESIGN CHOICE (log entry 46): one that is not repeated leaves kind 0x02. -/
def State.detectedFault (s : State) (u : Nat) (code : U16) : State :=
  match (s.engine u).cur with
  | none => s
  | some r =>
    let x := s.stream r.stream
    let s1 := (s.postFlags u r.stream r.flags true).boundary u
    let lost : Event := { kind := 0x02, code := code, unit := unitField u, detail := [u] }
    if x.st = .draining ∨ x.over ∨ (s.tuneUnit u).fenced then (s1.recordStream r.stream lost).freeAfterFiring u r.stream
    else if r.rep then
      let s2 := ((((s.noteUnitFail u code).postFlags u r.stream r.flags true).boundary u)).recordStream r.stream lost
      (s2.failStream r.stream code (unitField u)).freeAfterFiring u r.stream
    else s1.updSlot r.stream r.slot (fun x => { x with rep := true, code := code, part := r.part })

/-- The firing of an engine ends in a failure that is never repeated (R254, R403, R421, R623). -/
def State.failFiring (s : State) (u : Nat) (code : U16) : State :=
  match (s.engine u).cur with
  | none => s
  | some r => (((((s.noteUnitFail u code).postFlags u r.stream r.flags true).boundary u).failStream r.stream code (unitField u)).freeAfterFiring u r.stream)

/-- Whether a fault cleared by repetition is an engine's third within 24 hours (R406). -/
def State.thirdFault (s : State) (u : Nat) : Bool := decide (2 ≤ (((s.tuneUnit u).recent s.pwr.clockMs).filter (·.2)).length)

/-- A fault cleared by repetition; the third within 24 hours makes the unit's pass due (R404, R406, R445). -/
def State.noteTransient (s : State) (u n : Nat) (code : U16) : State :=
  let s1 := (s.recordStream n { kind := 0x01, code := code, unit := unitField u, detail := [code.toNat] }).countSat .grn 0x078
  let s2 := s1.setTune u ((s1.tuneUnit u).noteFault s1.pwr.clockMs true)
  if s.thirdFault u then s2.dueNow u else s2

end Sys2Proof.Machine
end

