-- ==== Sys2Proof/Machine/FabricOps.lean ====
section
/-! DEFINITION. The operations over the Windway ports that commands of several chapters share: job keys (R349, R350), routing and sending of frames (R346 to R348, R368), and the loss of a link (R343). -/

namespace Sys2Proof.Machine

/-- The page of a port. -/
def wwyPage (p : Nat) : Page := if h : p < 12 then .wwy ⟨p, h⟩ else .wwyMod

/-- A frame dropped at a port is counted there (R371). -/
def State.countDrop (s : State) (p : Nat) : State := if p < 12 then s.countSat (wwyPage p) 0x05C else s

/-- WWY_SELF.ID (R373). -/
def State.selfId (s : State) : Nat := s.field .wwyMod 0x040 0 18

/-- The key in a key slot, and a job's key (R349, R373). -/
def State.keyAt (s : State) (slot : Nat) : U32 := SMap.get wordDefault s.keytab slot
def State.jobKey (s : State) (j : Nat) : U32 := s.keyAt (s.job j).keySlot

/-- The VALID job a key selects; a key of 0 selects none (R349). -/
def State.jobOfKey (s : State) (k : U32) : Option Nat :=
  if k = 0 then none
  else (s.jobs.find? (fun p => p.2.valid && decide (s.keyAt p.2.keySlot = k))).map (·.1)

/-- PORT and ALT of the route entry for an endpoint (R346). -/
def State.routeOf (s : State) (id : Nat) : Nat × Nat :=
  let w := SMap.get routeDefault s.route id
  (fieldOf w 0 4, fieldOf w 4 4)

def State.portUp (s : State) (p : Nat) : Bool := decide (p < 12) && (s.port p).up

/-- Whether the twin link is on, and its port (R368, R376). -/
def State.twinOn (s : State) : Bool := decide (s.field .twn 0x040 0 1 = 1)
def State.twinPort (s : State) : Nat := s.field .twn 0x040 1 4
def State.twinPartner (s : State) : Nat := s.field .twn 0x044 0 18

/-- Whether a port may carry a frame: the twin link carries only TWIN, WRITE_ACK and class-0 frames between the two modules, broadcasts of this module among the last (R368). -/
def State.carries (s : State) (p : Nat) (f : Frame) : Bool :=
  !(s.twinOn && decide (p = s.twinPort)) ||
    ((decide (f.type = ftTwin) || decide (f.type = ftWriteAck) || decide (f.cls = 0))
      && (decide (f.src = s.selfId) && (f.bcast || decide (f.dst = s.twinPartner))))

/-- A frame put at the end of a port's queue (R337); a class-0 frame that finds more than 32 of its class ahead of it is counted (R338, R371). -/
def State.enqueue (s : State) (p : Nat) (f : Frame) : State :=
  let q := (s.port p).queue
  let late := decide (f.cls = 0) && decide (32 < (q.filter (fun g => decide (g.cls = 0))).length)
  (if late then s.countSat (wwyPage p) 0x068 else s).setPort p { s.port p with queue := q ++ [f] }

/-- The port a unicast frame leaves on, if any (R346). -/
def State.egress (s : State) (f : Frame) : Option Nat :=
  let r := s.routeOf f.dst
  if 12 ≤ r.1 then none
  else if s.portUp r.1 then some r.1
  else if s.portUp r.2 then some r.2
  else none

/-- A frame the module itself sends (R346): kept for delivery where it is addressed to the module, else queued, or dropped and counted at the routed port; says whether it goes on. No frame of class 1 to 3 leaves for a job without a fabric key (R350). DESIGN CHOICE (log entry 50): the rule names no end for a request that its key's clearing leaves unsent; it ends as an unroutable one does. -/
def State.sendFrame (s : State) (f : Frame) : State × Bool :=
  if 1 ≤ f.cls ∧ f.cls ≤ 3 ∧ f.jobKey = 0 then (s, false)
  else if f.dst = s.selfId then ({ s with looped := s.looped ++ [f] }, true)
  else match s.egress f with
  | some p => if s.carries p f then (s.enqueue p f, true) else (s.countDrop p, false)
  | none => (s.countDrop (s.routeOf f.dst).1, false)

def State.send (s : State) (f : Frame) : State := (s.sendFrame f).1

/-- A broadcast put on every port of a mask that is up (R348); what the twin link does not carry is dropped and counted there (R368). -/
def State.broadcastOn (s : State) (mask : Nat) (f : Frame) : State :=
  s.forEach (List.range 12) (fun t p => if mask.testBit p && t.portUp p then (if t.carries p f then t.enqueue p f else t.countDrop p) else t)

/-- A broadcast the module itself sends (R348). -/
def State.broadcast (s : State) (f : Frame) : State := s.broadcastOn (s.field .wwyMod 0x06C 0 12) f

/-- A frame header with every field 0 but those given. -/
def frameOf (type cls dst src : Nat) (key : U32) (payload : List U8) : Frame :=
  { type := type, cls := cls, bcast := false, dst := dst, src := src, hops := 15, jobKey := key, cseq := 0, group := 0
    srcRank := 0, phase := 0, grain := 0, offset := 0, req := 0, clean := true, payload := payload }

/-- The unit whose running firing waits for a window request. -/
def Engine.waitsFor (e : Engine) (req : Nat) : Bool :=
  match e.cur with
  | some r => r.waits.any (fun w => match w with | .window q _ _ _ => decide (q = req) | _ => false)
  | none => false

def State.unitWaiting (s : State) (req : Nat) : Option Nat := (s.engines.find? (fun p => p.2.waitsFor req)).map (·.1)

/-- A collective in the list put in the place of the one of its stream and slot. -/
def State.setColl (s : State) (c : Coll) : State :=
  { s with colls := s.colls.map (fun (x : Coll) => if x.stream = c.stream ∧ x.slot = c.slot then c else x) }

/-- A frame of a collective that is dropped on its way (R343, R346, R402). Where the engine runs the node's firing, that firing ends with a detected fault and its repetition sends the frame again; between the node's firings it is sent again by itself. -/
def State.collLost (s : State) (c : Coll) (f : Frame) : State :=
  let u := 816 + c.base
  let mine := match (s.engine u).cur with | some r => decide (r.stream = c.stream) && decide (r.slot = c.slot) | none => false
  let s1 := s.setColl { c with again := c.again ++ [(f, !mine)] }
  if mine then s1.detectedFault u S_FAB_UNREACHABLE else s1

/-- The collective a frame of the module's own belongs to. -/
def State.collOf (s : State) (f : Frame) : Option Coll :=
  s.colls.find? (fun (c : Coll) => decide (c.group = f.group) && decide (c.cseq = f.cseq) && decide (s.jobKey c.job = f.jobKey))

/-- A frame of the module's own that is dropped: the firing that waits on it ends with a detected fault, S_FAB_UNREACHABLE (R343, R346). -/
def State.lostOwn (s : State) (f : Frame) : State :=
  if f.src ≠ s.selfId then s
  else if f.type = ftWrite ∨ f.type = ftReadReq then
    match s.unitWaiting f.req with
    | some u => s.detectedFault u S_FAB_UNREACHABLE
    | none => s
  else if f.type = ftCollReady ∨ f.type = ftCollData then
    match s.collOf f with
    | some c => s.collLost c f
    | none => s
  else s

/-- A frame sent whose drop its firing reports (R343, R346). -/
def State.sendOwn (s : State) (f : Frame) : State :=
  let r := s.sendFrame f
  if r.2 then r.1 else r.1.lostOwn f

/-- Mirroring stops, its last complete mirror left as it is (R370); what has not been mirrored stays counted. -/
def State.stopTwin (s : State) : State :=
  if s.twin.mirroring then
    { s.raise .twn 0 with twin := { s.twin with
        mirroring := false, stopped := true, queue := s.twin.cur.toList ++ s.twin.queue, waiting := [], cur := none, blocks := [], reads := [], fetched := [] } }
  else s

/-- A slow-tier request has failed for whom it was made (R231): a firing ends with a detected fault, a mirror stops. -/
def State.slowLost (s : State) (u : Nat) : State := if u = twinUnit then s.stopTwin else s.detectedFault u S_SLOW_TIER

/-- The port with its link down: link-layer state gone, keys and settings kept (R343). LSEQ and ACK start at 0 (R326); DEDUCED (log entry 31): these are the last numbers sent and received, so that the first DATA unit carries LSEQ 1 and an ACK of 0 acknowledges nothing. -/
def Port.downed (x : Port) : Port :=
  { x with
    up := false, enc := false, peerInit := none, initSent := false, credits := [0, 0, 0, 0], owed := [0, 0, 0, 0]
    txSeq := 1, rxSeq := 0, nak := false, unacked := 0, replay := [], resend := 0, replays := 0, queue := []
    wrr1 := 0, wrr2 := 0, train := if x.train = 0 then 0 else 2 }

/-- A link that was up goes down (R343): counted, its queue re-routed to alternates or dropped, the twin link's mirror stopped (R370). -/
def State.loseLink (s : State) (p : Nat) (cause : Nat) : State :=
  let x := s.port p
  if x.up then
    let s1 := ((s.setPort p x.downed).countWrap (wwyPage p) 0x060).raise (wwyPage p) 0
    let s2 := s1.record { kind := 0x10, unit := unitOther 9 p, detail := [p, cause] }
    let s3 := s2.forEach x.queue (fun t f =>
      let alt := (t.routeOf f.dst).2
      if !f.bcast && t.portUp alt && t.carries alt f then t.enqueue alt f else (t.countDrop p).lostOwn f)
    if s3.twinOn && decide (s3.twinPort = p) then s3.stopTwin else s3
  else s.setPort p x.downed

/-! ### INIT records (R326, R328, R330) -/

/-- Whether a port is the twin link. -/
def State.isTwinPort (s : State) (p : Nat) : Bool := s.twinOn && decide (s.twinPort = p)

/-- A field of a record. -/
def recField (r : List U8) (o k : Nat) : Nat := leNat ((r.drop o).take k)

/-- The cases of R330, in which the port stays at step 4. -/
def State.initMismatch (s : State) (p : Nat) (r : List U8) : Bool :=
  let id := recField r 0 4 % 2 ^ 18
  let fl := recField r 5 1
  let twin := s.isTwinPort p
  decide (id = s.selfId)
    || decide (fl.testBit 0 ≠ (s.port p).encReq)
    || decide (fl.testBit 1 ≠ twin)
    || (twin && fl.testBit 1 && (decide (recField r 0x10 4 % 2 ^ 18 ≠ s.selfId) || decide (s.twinPartner ≠ id)))

/-- Both INIT records are there: compared, and the link comes up (R326 steps 4 and 5). -/
def State.tryUp (s : State) (p : Nat) : State :=
  let x := s.port p
  match x.peerInit with
  | some r =>
    if x.train = 4 ∧ x.initSent then
      if s.initMismatch p r then s.raise (wwyPage p) 2
      else
        s.setPort p { x.downed with
          train := 5, up := true, enc := x.encReq, peerId := recField r 0 4 % 2 ^ 18, peerPort := recField r 4 1 % 16, peerInit := some r, initSent := true
          credits := (List.range 4).map (fun c => recField r (8 + 2 * c) 2) }
    else s
  | none => s

end Sys2Proof.Machine
end

