-- ==== Sys2Proof/Machine/DieLoss.lean ====
section
/-! DEFINITION. One die down (R469 to R477): what the loss of a compute die or a base die does to its units, to streams, to links and to the capability values. -/

namespace Sys2Proof.Machine

/-- Tuning units of a compute die in the order of R411: cores, then sequencers. -/
def dieUnits (d : Nat) : List Nat := (List.range 64).map (fun i => 64 * d + i) ++ (List.range 4).map (fun q => 768 + 4 * d + q)

/-- Streams whose submission holds a node slot on one of the units (R471). -/
def State.affected (s : State) (us : List Nat) : List Nat :=
  (s.streams.filter (fun p => match p.2.bound with
    | some b => b.nodes.any (fun x => !x.freed && us.contains x.unit)
    | none => false)).map (·.1)

/-- The lowest unit of a list on which a stream holds a slot (R471). -/
def State.lowestHeld (s : State) (us : List Nat) (n : Nat) : Nat :=
  match (s.stream n).bound with
  | some b => (us.find? (fun u => b.nodes.any (fun x => !x.freed && decide (x.unit = u)))).getD 0
  | none => 0

/-- The slots of lost units are gone from every bound program, and nothing runs there (R470). Bindings that wait are about to start again under the new capability values (R473): no slot given back now goes to one. -/
def State.dropUnits (s : State) (us : List Nat) : State :=
  let s1 := { s with
    engines := s.engines.filter (fun p => !us.contains p.1)
    waiting := []
    jobs := s.jobs.map (fun (p : Nat × Job) => (p.1, { p.2 with contribs := p.2.contribs.map (fun (c : ContribEnd) => { c with firings := c.firings.filter (fun u => !us.contains u) }) })) }
  s1.forEach (s1.affected us) (fun t n =>
    match (t.stream n).bound with
    | some b => t.setStream n { t.stream n with bound := some { b with nodes := b.nodes.map (fun (x : BNode) => if us.contains x.unit then { x with freed := true } else x) } }
    | none => t)

/-- A stream at its completion point after a fenced completion (R471): a failure in BINDING, RUNNING or FROZEN, a release in DRAINING; a stream that has ended only frees its slots. -/
def State.fencedCompletion (s : State) (n : Nat) (unit : U16) : State :=
  if (s.stream n).st = .draining then s.drainDone n
  else if (s.stream n).active then s.failStream n S_DIE_DOWN unit
  else
    match (s.stream n).bound with
    | some b => ((s.setStream n { s.stream n with bound := b.keep }).grantSlots).startNext n
    | none => s

/-- The die's own state as it goes down: its clocks, budget and reports end (R468, R469). -/
def DieSt.lost (x : DieSt) (cause : Nat) : DieSt :=
  { x with up := false, cause := cause, test := false, applied := .zero, fallback := false, hot := false, asleep := false }

/-- Both ends of a link are fenced: nothing more is sent, and every arrival is discarded (R469, R470, R474). -/
def State.fenceLink (s : State) (e : LinkEnd) : State :=
  let shut (t : State) (e : LinkEnd) : State := (t.setLink e { t.link e with up := false, fenced := true, peerClk := false }).dropFlits e
  shut (shut s e) e.peer

/-- The far die of a link end went down: PEER_DOWN on the page of the end (R483). -/
def State.peerDown (s : State) (e : LinkEnd) : State := s.raise e.shown 2

/-- Loss of compute die `d` (R470 to R473); cause as BND_STAT.CAUSE. -/
def State.computeDown (s : State) (d cause : Nat) : State :=
  if h : d < 12 then
    if s.computeUp d then
      let us := dieUnits d
      let hit := (s.affected us).map (fun n => (n, unitField (s.lowestHeld us n)))
      let s1 := (s.updDie d (fun x => x.lost cause)).dropUnits us
      let e : LinkEnd := .bondBase ⟨d, h⟩
      let s2 := ((s1.fenceLink e).peerDown e).fenceNotice d
      let s3 := s2.forEach hit (fun t p => t.fencedCompletion p.1 p.2)
      (s3.capChanged).record { kind := 0x11, code := S_DIE_DOWN, detail := [d] }
    else s
  else s

/-- The compute dies of a base die. -/
def bondsOf (b : Nat) : List (Fin 12) := (List.finRange 12).filter (fun d => decide (d.val / 4 = b))

/-- The surviving end of a lost base die's junction (R474). -/
def junctionEnd (b : Nat) : LinkEnd := if b = 0 then .rdl 1 else .rdl 2

/-- The ports of a base die present link-down (R474, R476). -/
def State.portsDown (s : State) (b : Nat) : State := s.forEach [4 * b, 4 * b + 1, 4 * b + 2, 4 * b + 3] (fun t p => t.loseLink p 1)

/-- Loss of base die 0 or 2, with its compute dies (R474, R475). -/
def State.outerDown (s : State) (b cause : Nat) : State :=
  let cds := [4 * b, 4 * b + 1, 4 * b + 2, 4 * b + 3]
  let us := cds.flatMap dieUnits ++ [816 + b, 819 + b]
  let hit := s.affected us
  let homed := (s.streams.filter (fun p => decide (p.2.home = b) && p.2.active)).map (·.1)
  let s1 := s.forEach cds (fun t d => t.updDie d (fun x => x.lost (if x.up then cause else x.cause)))
  let s2 := (s1.updDie (12 + b) (fun x => x.lost cause)).dropUnits us
  let e := junctionEnd b
  let s3 := (s2.fenceLink e).forEach ((bondsOf b).map LinkEnd.bondBase) State.fenceLink
  let s4 := s3.peerDown e
  let s5 := { s4 with upds := s4.upds.filter (fun u => !decide (u.lathe = b)), colls := s4.colls.filter (fun c => !decide (c.base = b)), readds := s4.readds.filter (fun c => !decide (c.base = b)) }
  let s6 := s5.forEach homed (fun t n => t.forceFail n S_DIE_DOWN (unitBinder b))
  let s7 := s6.forEach hit (fun t n => t.fencedCompletion n (unitBinder b))
  (((s7.capChanged).portsDown b).record { kind := 0x11, code := S_DIE_DOWN, unit := unitBinder b, detail := [12 + b] })

/-- What dies with base die 1: the records of every stream, the job tables, and its own work; a firing on the other base dies runs on to its end (R476). -/
def State.loseCentre (s : State) : State :=
  { s with
    streams := [], jobs := [], regions := [], engines := s.engines.filter (fun p => !decide (unitBase p.1 = 1)), waiting := [], caches := [], upds := [], ovf := []
    recipeLoad := none, wmap := [], wmapLoad := none, colls := [], readys := [], readds := [], looped := [], twin := .off, slots := []
    seatLoad := none, unison := [], tune := [], latches := [], heldLo := []
    cxl := { s.cxl with ports := [.down, .down], active := none, filters := [[], [], []], snoops := [], uio := [] } }

/-- Loss of base die 1 (R476): base dies 0 and 2 stop, every link drops, every stream is lost. -/
def State.centreDown (s : State) (cause : Nat) : State :=
  let s1 := s.forEach [0, 1, 2] (fun t b => t.portsDown b)
  let s2 := s1.forEach (List.range 12) (fun t d => t.updDie d (fun x => if d / 4 = 1 then x.lost cause else { x with stopped := true }))
  let s3 := (s2.updDie 13 (fun x => x.lost cause))
  let s4 := s3.forEach [12, 14] (fun t d => t.updDie d (fun x => { x with stopped := true, refresh := x.up }))
  let s5 := s4.forEach (.rdl 1 :: .rdl 2 :: (bondsOf 1).map LinkEnd.bondBase) State.fenceLink
  let s6 := (s5.peerDown (.rdl 0)).peerDown (.rdl 3)
  (s6.loseCentre).record { kind := 0x11, code := S_DIE_DOWN, unit := unitBinder 1, detail := [13] }

/-- A base die goes down. -/
def State.baseDown (s : State) (b cause : Nat) : State :=
  if s.baseUp b then (if b = 1 then s.centreDown cause else s.outerDown b cause) else s

/-- A die goes down (R469). -/
def State.dieDown (s : State) (d : Die) (cause : Nat) : State :=
  match d with
  | .compute c => s.computeDown c.val cause
  | .base b => s.baseDown b.val cause

end Sys2Proof.Machine
end

