-- ==== Sys2Proof/Machine/FlashOps.lean ====
section
/-! DEFINITION. The settings records and the firmware commit record of the SPI NOR: which copy counts and how a new one is written (R520, R521, R541). -/

namespace Sys2Proof.Machine

/-- What a settings body is written as (R520): its layout is the implementation's. -/
def SettingBody.code : SettingBody → List Nat
  | .laneMap l => l
  | .lanes l => l.flatMap (fun p => [p.1, p.2])
  | .repairs l => l.flatMap (fun r => [r.core, r.col0, r.col1, if r.retire then 1 else 0])
  | .calib c => c.p ++ [c.lambda, c.c0]
  | .anchors l => l.flatMap (fun a => a.caHash.map (fun (b : U8) => b.toNat) ++ [a.roles])
  | .network b => b.map (fun (x : U8) => x.toNat)
  | .defaults r w => r.flatMap (fun p => [p.1, p.2.toNat]) ++ w.flatMap (fun p => [p.1, p.2.1.toNat, p.2.2.toNat])

/-- The newer of two copies by GEN (R521). -/
def newerCopy (a b : SettingCopy) : SettingCopy := if aheadOf b.gen a.gen then b else a

/-- The copy of a settings type in force: the valid one with the newer GEN (R521). -/
def Flash.setting (f : Flash) (t : Nat) : Option SettingCopy :=
  (f.settings.filter (fun c => decide (c.type = t))).foldl (fun m c => match m with | some a => some (newerCopy a c) | none => some c) none

/-- A new version written over the other copy, GEN one above (R521). -/
def Flash.writeSetting (f : Flash) (t : Nat) (b : SettingBody) : Flash :=
  match f.setting t with
  | some c =>
    { f with settings := f.settings.filter (fun x => !(decide (x.type = t) && decide (x.copy ≠ c.copy))) ++ [⟨t, 1 - c.copy, c.gen + 1, b⟩] }
  | none => { f with settings := f.settings ++ [⟨t, 0, 0, b⟩] }

def Flash.laneRecords (f : Flash) (t : Nat) : List (Nat × Nat) :=
  match f.setting t with
  | some ⟨_, _, _, .lanes l⟩ => l
  | _ => []

def Flash.repairs (f : Flash) : List Repair :=
  match f.setting 4 with
  | some ⟨_, _, _, .repairs l⟩ => l
  | _ => []

def Flash.anchors (f : Flash) : List Anchor :=
  match f.setting 6 with
  | some ⟨_, _, _, .anchors l⟩ => l
  | _ => []

/-- A lane named by the assembly record or the field record of its group (R459). -/
def Flash.laneOf (f : Flash) (t key : Nat) : Option Nat := ((f.laneRecords t).find? (fun p => decide (p.1 = key))).map (·.2)

/-- A failed lane put into its group's field record, where the group has no failed lane recorded yet (R460). -/
def Flash.noteLane (f : Flash) (key lane : Nat) : Flash :=
  if (f.laneOf 2 key).isSome || (f.laneOf 3 key).isSome then f else f.writeSetting 3 (.lanes (f.laneRecords 3 ++ [(key, lane)]))

/-- The repair record of a core replaced (R139, R417). -/
def Flash.noteRepair (f : Flash) (r : Repair) : Flash :=
  f.writeSetting 4 (.repairs (f.repairs.filter (fun x => !decide (x.core = r.core)) ++ [r]))

/-- The calibration in force: the record's, or the default table of the base-die firmware (R520). -/
def Flash.calib (f : Flash) : Calib :=
  match f.setting 5 with
  | some ⟨_, _, _, .calib c⟩ => c
  | _ => ⟨relPowers Config.defaultP, 70000, 70000⟩

/-! ### The commit record (R540, R541) -/

/-- The commit record in use, and the sector that holds it: the valid one with the newer GEN. -/
def Flash.commit (f : Flash) : Option (Nat × FwCommit) :=
  match f.commit0, f.commit1 with
  | some a, some b => if aheadOf b.gen a.gen then some (1, b) else some (0, a)
  | some a, none => some (0, a)
  | none, some b => some (1, b)
  | none, none => none

/-- What the record says; with none valid, slot A is ACTIVE and CONFIRMED (R541). -/
def Flash.commitOr (f : Flash) : FwCommit :=
  match f.commit with
  | some (_, c) => c
  | none => ⟨0, 0, false, 0, [], 0⟩

/-- A new record written into the other sector (R541). -/
def Flash.writeCommit (f : Flash) (c : FwCommit) : Flash :=
  match f.commit with
  | some (0, _) => { f with commit1 := some c }
  | _ => { f with commit0 := some c }

def Flash.slot (f : Flash) (i : Nat) : FwSlot := if i = 0 then f.slotA else f.slotB
def Flash.setSlot (f : Flash) (i : Nat) (x : FwSlot) : Flash := if i = 0 then { f with slotA := x } else { f with slotB := x }

/-- The slot not in use. -/
def Flash.inactive (f : Flash) : Nat := 1 - f.commitOr.active

def Flash.keyRevoked (f : Flash) (k : Nat) : Bool := f.revoked.testBit k

end Sys2Proof.Machine
end

