-- ==== Sys2Proof/Machine/Package.lean ====
section
/-! DEFINITION. The package's links: flits and their retry, lane tests, clock monitors, budget messages and link tests (R450 to R483). -/

namespace Sys2Proof.Machine

/-- What is remembered of flits moved to a bundle that is retired in its turn: they are now that bundle's. -/
def LinkSt.rejoin (x : LinkSt) (b : Nat) : LinkSt :=
  let here (o : Nat) : Nat := if x.moved.any (fun m => decide (m.1 = o) && decide (m.2.1 = b)) then b else o
  { x with
    places := x.places.map (fun p => (p.1, here p.2))
    moved := (x.moved.filter (fun m => !decide (m.2.1 = b))).map (fun m => (here m.1, m.2))
    held := x.held.map (fun m => { m with old := m.old.map here }) }

/-- The unacknowledged flits of a retired bundle wait, in order and ahead of all else, to be sent on other bundles of the link (R456). -/
def State.moveFlits (s : State) (e : LinkEnd) (b : Nat) : State :=
  let fs := (s.bundle e b).unacked
  let s1 := s.setBundle e b { s.bundle e b with unacked := [] }
  let x := (s1.link e).rejoin b
  (s1.setLink e { x with held := fs.map (fun f => ⟨none, some b, f.kind, f.payload⟩) ++ x.held }).releaseHeld e

/-- Why a bundle is retired or a lane has failed, as the error record's cause (R442): the replay limit, a lane's tests, or its forwarded clock. DESIGN CHOICE (log entry 45): the numbers. -/
def causeReplay : Nat := 1
def causeLane : Nat := 2
def causeClock : Nat := 3

/-- A bundle retired in service, in both directions, and shown at both ends (R456, R457, R483). -/
def State.retireBundle (s : State) (e : LinkEnd) (b why : Nat) : State :=
  if (s.link e).uses b then
    let mark (t : State) (e : LinkEnd) : State := t.setLink e { t.link e with retired := (t.link e).retired ||| 2 ^ b }
    let s1 := mark (mark s e) e.peer
    let s2 := (s1.raise e.shown 1).raise e.peer.shown 1
    let s3 := ((s2.record { kind := 0x10, unit := unitOther 10 e.num, detail := [e.num, b, why] }).moveFlits e b).moveFlits e.peer b
    if ((s3.link e).firstBundle e.bundles).isNone then s3.dieDown e.farDie 3 else s3
  else s

/-- What a loss declared at a link end does: the far die is down; a compute die that loses its base die stops (R462, R463, R467). -/
def State.peerLost (s : State) (e : LinkEnd) (cause : Nat) : State :=
  match e with
  | .bondDie d => s.updDie d.val (fun x => { x with stopped := true })
  | .rdl _ => s.dieDown e.far cause
  | .bondBase _ => s.dieDown e.far cause

/-- FLIT_RECEIVED (R451, R452): CRC, then order, then the acknowledgement it carries and its content. -/
def execFlitReceived (e : LinkEnd) (b : Fin 16) (f : Flit) (s : State) : Res :=
  let x := s.bundle e b.val
  .next (
    if !(s.link e).carries b.val then s
    else if !f.good then s.onPage e (fun t pg => t.countSat pg 0x04C)
    else if f.fseq ≠ x.rxSeq then s
    else
      let un := ackFlits f.fack x.unacked
      let s0 := s.setBundle e b.val { x with rxSeq := x.rxSeq + 1, unacked := un, replays := if un.length < x.unacked.length then 0 else x.replays }
      let s1 := s0.ackedBy e b.val f.fack
      if f.kind = 0 then s1.emit (.flitData e b.val f.payload)
      else if f.kind = 4 then s1.peerLost e 2
      else s1)

/-- FLIT_REPLAY_TIMEOUT (R452, R456): every unacknowledged flit is sent again; after 64 replays without progress the bundle is retired. -/
def execFlitReplayTimeout (e : LinkEnd) (b : Fin 16) (s : State) : Res :=
  let x := s.bundle e b.val
  .next (
    if (s.link e).carries b.val ∧ x.unacked ≠ [] then
      if 64 ≤ x.replays then s.retireBundle e b.val causeReplay
      else
        let s1 := (s.setBundle e b.val { x with replays := x.replays + 1 }).onPage e (fun t pg => t.countSat pg 0x050)
        s1.forEach x.unacked (fun t f => t.emit (.flit e b.val f))
    else s)

/-! ### Lane tests (R454 to R456, R483) -/

/-- Every physical lane of a bundle, the shim lanes included, as (group, lane) (R450, R454). -/
def LinkEnd.lanes (e : LinkEnd) : List (Nat × Nat) := (List.range e.groups).flatMap (fun g => (List.range 33).map (fun l => (g, l)))

/-- LANE_TEST_SEND (R454): in the flit's time every physical lane carries the fixed pattern. -/
def execLaneTestSend (e : LinkEnd) (b : Fin 16) (s : State) : Res :=
  .next (
    if (s.link e).carries b.val ∧ (s.bundle e b.val).unacked.length < 256 then
      (s.sendFlit e b.val 2 ((List.range e.payload).map Config.lanePattern)).emit (.laneTest e b.val e.lanes)
    else s)

/-- The lane a page's TEST_SEL names: bundle, group, lane (R481, R482). -/
def State.testLane (s : State) (e : LinkEnd) : Option (Nat × Nat × Nat) :=
  match e with
  | .rdl r => some (s.field (.rdl r) 0x05C 0 3, s.field (.rdl r) 0x05C 4 4, s.field (.rdl r) 0x05C 8 6)
  | .bondBase d => some (s.field (.bnd d) 0x05C 0 4, s.field (.bnd d) 0x05C 4 3, s.field (.bnd d) 0x05C 8 6)
  | .bondDie _ => none

/-- Whether a physical lane of a group carries data: not the lane shifted around, nor the shim lane of a group without a shift. -/
def LaneGroup.inUse (g : LaneGroup) (lane : Nat) : Bool := !decide (lane = g.lane.getD 32)

/-- LANE_FAIL with its VALID bit (R481, R482). -/
def laneFailWord (e : LinkEnd) (b g lane : Nat) : U32 :=
  match e with
  | .rdl _ => packFields [(b, 0, 3), (g, 4, 4), (lane, 8, 6), (1, 31, 1)]
  | _ => packFields [(b, 0, 4), (g, 4, 3), (lane, 8, 6), (1, 31, 1)]

/-- A lane has failed in service (R455, R456, R460): recorded; one that carries data retires its bundle, an unused shim lane only sets SHIM_BAD. -/
def State.laneFailed (s : State) (e : LinkEnd) (b g lane : Nat) : State :=
  let grp := s.laneGroup e b g
  let s1 := (s.setReg e.shown 0x054 (laneFailWord e b g lane)).raise e.shown 0
  let s2 := { s1 with flash := s1.flash.noteLane (laneKey e b g) lane }
  if grp.inUse lane then s2.retireBundle e b causeLane
  else (s2.setLaneGroup e b g { grp with shimBad := true }).record { kind := 0x10, unit := unitOther 10 e.num, detail := [e.num, b, causeLane, g, lane] }

/-- The mismatching lanes of one LANE_TEST flit, the injected one with them (R483). -/
def State.laneMismatch (s : State) (e : LinkEnd) (b : Nat) (mis : List (Fin 16 × Fin 33)) : List (Nat × Nat) :=
  let l := mis.map (fun p => (p.1.val, p.2.val))
  match e.page, s.testLane e with
  | some pg, some (tb, tg, tl) => if s.armed pg 0 ∧ tb = b then (tg, tl) :: l else l
  | _, _ => l

/-- The lanes of a group that a test finds failed: those that mismatched in the last test as well, and a shim lane not in use whose PRBS31 pattern showed errors in both intervals; not the lane shifted around, nor a shim lane already known to be bad (R455, R456). -/
def LaneGroup.failing (grp : LaneGroup) (lanes : List Nat) (prbs : Bool) : List Nat :=
  ((lanes.filter (fun l => grp.last.contains l && !decide (grp.lane = some l))
      ++ (if prbs && grp.prbs && grp.lane.isNone then [32] else [])).filter (fun l => grp.inUse l || !grp.shimBad)).dedup

/-- One group's lanes after a test, and after the interval before it (R455). -/
def State.groupTested (s : State) (e : LinkEnd) (b g : Nat) (lanes : List Nat) (prbs : Bool) : State :=
  let grp := s.laneGroup e b g
  let s1 := s.setLaneGroup e b g { grp with last := lanes, prbs := prbs && grp.lane.isNone }
  s1.forEach (grp.failing lanes prbs) (fun t l => t.laneFailed e b g l)

/-- An injection that has now acted in two tests clears (R483). -/
def State.endInjection (s before : State) (e : LinkEnd) (b : Nat) : State :=
  match e.page, before.testLane e with
  | some pg, some (tb, tg, tl) => if before.armed pg 0 ∧ tb = b ∧ (before.laneGroup e b tg).last.contains tl then s.disarm pg 0 else s
  | _, _ => s

/-- LANE_TEST_RECEIVED (R455, R456). -/
def execLaneTestReceived (e : LinkEnd) (b : Fin 16) (found : LaneCheck) (s : State) : Res :=
  .next (
    if (s.link e).carries b.val then
      let l := s.laneMismatch e b.val found.lanes
      (s.forEach (List.range e.groups) (fun t g =>
        t.groupTested e b.val g ((l.filter (fun p => decide (p.1 = g))).map (·.2)).dedup (found.prbs.any (fun x => decide (x.val = g))))).endInjection s e b.val
    else s)

/-! ### Clocks and resets (R462 to R464) -/

/-- Monitors are suspended from the start of entry into Hold, Breath or Off until the wake order has finished (R464). -/
def State.monitorsOn (s : State) : Bool := decide (s.pwr.st = .run) && decide (s.pwr.change = none)

/-- Bundles whose forwarded clock has stopped while others run, which counts as a lane failure (R462). -/
def stoppedClocks (edges : List Nat) : List Nat := (List.range edges.length).filter (fun i => decide (edges.getD i 1 = 0))

/-- A forwarded clock that stops on one bundle while others run: a lane failure of that bundle (R462, R455, R460). Of the lane shown the spec says the bundle alone: group and lane are free values. -/
def State.clockStopped (s : State) (e : LinkEnd) (b : Nat) : State :=
  let k := Config.freePick s.free
  ((s.draw.setReg e.shown 0x054 (laneFailWord e b (k % e.groups) (k / 16 % 33))).raise e.shown 0).retireBundle e b causeClock

/-- Every forwarded clock of a peer shows fewer than half its edges (R462). -/
def allShort (edges : List Nat) (expected : Nat) : Bool := edges.all (fun n => decide (2 * n < expected))

/-- CLOCK_MONITOR_WINDOW (R462, R464): two windows in a row in which every forwarded clock shows fewer than half its edges declare the peer lost. While the monitors are suspended a window declares nothing; in Hold it is kept for the check before Run resumes (DESIGN CHOICE, log entry 44). -/
def execClockMonitorWindow (e : LinkEnd) (edges : List Nat) (expected : Nat) (s : State) : Res :=
  let x := s.link e
  .next (
    if s.monitorsOn && x.up && !x.fenced then
      if allShort edges expected then
        let s1 := s.setLink e { x with short := x.short + 1, peerClk := false }
        if 2 ≤ x.short + 1 then s1.peerLost e 1 else s1
      else
        let s1 := s.setLink e { x with short := 0, peerClk := true }
        s1.forEach (stoppedClocks edges) (fun t b => if (t.link e).uses b then t.clockStopped e b else t)
    else if s.pwr.st = .hold ∧ s.pwr.change = none ∧ x.up = true ∧ x.fenced = false then
      s.setLink e { x with short := if allShort edges expected then x.short + 1 else 0 }
    else s)

/-- RESET_NOTICE_RECEIVED (R463): loss of the sending die at once. -/
def execResetNoticeReceived (e : LinkEnd) (s : State) : Res :=
  .next (if (s.link e).up && !(s.link e).fenced then s.peerLost e 2 else s)

/-! ### Budgets by message (R465 to R467) -/

/-- Array clock of a step, MHz (R491). -/
def stepMhz (k : Nat) : Nat := 2100 - 25 * k

/-- Duty as a REPORT shows it: 255 stands for 256 (R465, R510). -/
def dutyByte (d : Nat) : U8 := if 255 ≤ d then 255 else BitVec.ofNat 8 d

/-- BUDGET_RECEIVED (R466, R467, R493): the die applies the limit, leaves fallback, and a compute die takes the controller's step and duty, or its own where its temperature holds it lower. -/
def execBudgetReceived (d : Die) (m : Budget) (s : State) : Res :=
  let x := s.die d.num
  let y := { x with applied := m, fallback := false }
  .next (
    if x.up && !x.test && !x.stopped then
      s.setDie d.num (match d with
        | .compute _ => if x.hot then { y with step := max x.step s.pwr.step, duty := min x.duty s.pwr.duty } else { y with step := s.pwr.step, duty := s.pwr.duty }
        | .base _ => y)
    else s)

/-- BUDGET_REPEAT (R465): the sender repeats its last BUDGET to a die. -/
def execBudgetRepeat (d : Die) (s : State) : Res :=
  .next (if (s.die d.num).up && !(s.die d.num).test then s.putBudget d.num (s.die d.num).sent else s)

/-- The REPORT a die sends (R465). -/
def DieSt.report (x : DieSt) (compute : Bool) (powerW8 : U16) (tempC : U8) : DieReport :=
  { epoch := x.applied.epoch, powerW8 := powerW8, tempC := tempC
    duty := if compute then dutyByte x.duty else 255
    clkMhz := BitVec.ofNat 16 (if compute then stepMhz x.step else 1600)
    rflags := BitVec.ofNat 8 ((if x.applied.limitW8.toNat ≤ powerW8.toNat then 1 else 0) + (if x.hot then 2 else 0) + (if x.fallback then 4 else 0)) }

def DieReport.bytes (m : DieReport) : List U8 :=
  leBytes 2 m.epoch.toNat ++ leBytes 2 m.powerW8.toNat ++ [m.tempC, m.duty] ++ leBytes 2 m.clkMhz.toNat ++ [m.rflags] ++ List.replicate 7 0

/-- REPORT_SEND (R465). -/
def execReportSend (d : Die) (powerW8 : U16) (tempC : U8) (s : State) : Res :=
  let x := s.die d.num
  .next (
    if x.up && !x.test then
      match d with
      | .compute c =>
        let m := x.report true powerW8 tempC
        (s.emit (.report d.num m)).sendMessage (.bondDie c) m.bytes
      | .base _ => s.emit (.report d.num (x.report false powerW8 tempC))
    else s)

/-- REPORT_RECEIVED (R493): the figures the controller computes from; FALLBACK shows on the die's page (R483, R588). -/
def execReportReceived (d : Die) (m : DieReport) (s : State) : Res :=
  .next (
    if (s.die d.num).up then
      let s1 := s.updDie d.num (fun x => { x with rep := m })
      if m.rflags.toNat.testBit 2 then (match d with | .compute c => s1.raise (.bnd c) 4 | .base _ => s1.raise .swl 1) else s1
    else s)

/-- A die's floor limit (R467, R497). -/
def State.floorOf (s : State) (d : Die) : Nat :=
  match d with
  | .compute c => s.field (.bnd c) 0x070 0 16
  | .base b => (s.die (12 + b.val)).floorW8

/-- A compute die's own choice of step and duty under a limit that it lowers itself, no faster than it ran (R466, R467): free values, the spec naming none. -/
def DieSt.slowed (x : DieSt) (free : Nat) : DieSt :=
  let k := Config.freePick free
  { x with step := x.step + k % (57 - min 56 x.step), duty := x.duty - k / 57 % (x.duty - min x.duty 64 + 1) }

/-- BUDGET_FALLBACK (R466, R467): no BUDGET for 5 ms, so the die applies its floor limit and meets it by its own choice; a compute die whose base die is down stops instead. -/
def execBudgetFallback (d : Die) (s : State) : Res :=
  let x := s.die d.num
  let l : U16 := BitVec.ofNat 16 (s.floorOf d)
  let fall := { x with fallback := true, applied := { x.applied with limitW8 := l } }
  .next (
    if x.up && !x.test then
      match d with
      | .compute c =>
        if s.baseUp (c.val / 4) then
          (if l < x.applied.limitW8 then s.draw.setDie d.num (fall.slowed s.free) else s.setDie d.num fall)
        else s.setDie d.num { x with stopped := true }
      | .base _ => s.setDie d.num fall
    else s)

/-! ### Stand-alone link tests (R478 to R480, R483) -/

/-- Whether the end is in test mode (R478, R481, R482): its die is, for a bond the compute die. -/
def State.testMode (s : State) (e : LinkEnd) : Bool :=
  match e with
  | .rdl _ => (s.die e.own.num).test
  | .bondBase d => (s.die d.val).test
  | .bondDie d => (s.die d.val).test

/-- The end that loops a port's lanes back in far mode is fenced or in test mode (R479): for a bond the port tested is the compute die's, its peer the base die's. -/
def State.farReady (s : State) (e : LinkEnd) : Bool :=
  match e with
  | .rdl _ => (s.link e.peer).fenced || s.testMode e.peer
  | .bondBase d | .bondDie d => (s.link (.bondBase d)).fenced || (s.die (12 + d.val / 4)).test

/-- Whether a port's loop-back has the path that a test run needs (R479): none with LOOP 0, the port being idle. DESIGN CHOICE (log entry 8): a run does not start without one, nor with the value 3, which R479 does not name. -/
def State.loopReady (s : State) (e : LinkEnd) : Bool :=
  let loop := s.field e.shown 0x058 0 2
  decide (loop = 1) || (decide (loop = 2) && s.farReady e)

/-- LINK_TEST_START (R479, R480): a run begins in test mode over the loop-back set; bit 2 of the stored TEST_CTRL says that it runs. -/
def execLinkTestStart (e : LinkEnd) (s : State) : Res :=
  .next (if s.testMode e && s.loopReady e then s.setBits e.shown 0x058 0x4 0x1C else s)

/-- The number of a lane of a link. -/
def laneNumber (b g : Fin 16) (l : Fin 33) : Nat := (b.val * 16 + g.val) * 64 + l.val

/-- The end at which a page's test results are kept. -/
def LinkEnd.tested : LinkEnd → LinkEnd
  | .rdl r => .rdl r
  | .bondBase d | .bondDie d => .bondBase d

/-- LINK_TEST_DONE (R480): errors by lane of the PRBS31 run, errors by lane and step of the margin sweep, the result of each self-test, DONE and PASS; repair records do not change. DESIGN CHOICE (log entry 8): PASS asks for both self-tests and for no lane error in the PRBS31 run. -/
def execLinkTestDone (e : LinkEnd) (errs : LaneErrors) (logic sram : Bool) (s : State) : Res :=
  let l := errs.run.map (fun p => (laneNumber p.1 p.2.1 p.2.2.1, p.2.2.2))
  let m := errs.margin.map (fun p => (laneNumber p.1 p.2.1 p.2.2.1, p.2.2.2.1.val, p.2.2.2.2))
  let pass := logic && sram && l.all (fun p => decide (p.2 = 0))
  .next (
    if (s.reg e.shown 0x058).toNat.testBit 2 then
      (s.setLink e.tested { s.link e.tested with testErrs := l, testMargin := m, testLogic := logic, testSram := sram }).setBits e.shown 0x058 (if pass then 0x18 else 0x08) 0x1C
    else s)

/-- The check of every peer before Run resumes from Hold (R464): one whose last two windows were short is down, every other is present. -/
def State.checkPeers (s : State) (ends : List LinkEnd) : State :=
  s.forEach ends (fun t e =>
    let x := t.link e
    if x.up && !x.fenced then (if 2 ≤ x.short then t.peerLost e 1 else t.setLink e { x with short := 0, peerClk := true }) else t)

/-- The monitors' counts begin anew (R464). -/
def State.clearShort (s : State) (ends : List LinkEnd) : State := s.forEach ends (fun t e => t.setLink e { t.link e with short := 0 })

end Sys2Proof.Machine
end

