-- ==== Sys2Proof/Machine/Bar2.lean ====
section
/-! DEFINITION. A command word of BAR2 in the order of tests of R609, and its effect (R41, R42, R45, R47, R56 to R59). -/

namespace Sys2Proof.Machine

/-! ### The order of tests (R609) -/

/-- The base die whose stream manager orders a command: the stream's home, base die 1 for a FREE stream or a lost home (R47, R474). -/
def State.orderedAt (s : State) (n : Nat) : Nat :=
  let x := s.stream n
  if x.isOpen && s.baseUp x.home then x.home else 1

/-- The base die an OPEN names, or the one the module chooses (R47). -/
def State.chooseHome (s : State) (b : Nat) : Nat :=
  if b = 3 then
    let load (k : Nat) : Nat := s.openCount (fun x => decide (x.home = k))
    ((List.range 3).filter s.baseUp).foldl (fun m k => if m = 3 then k else if load k < load m then k else m) 3
  else b

/-- OPEN on a FREE stream (R41, R47). -/
def State.cmdOpen (s : State) (n : Nat) (body : BitVec 60) : U16 × State :=
  let j := cmdJob body
  let b := s.chooseHome (cmdHome body)
  if !(s.job j).valid then (S_NO_JOB, s)
  else if !(decide (b < 3) && s.baseUp b) then (S_DIE_DOWN, s)
  else
    let x := s.stream n
    (S_OK, s.setStream n { Stream.fresh with st := .idle, home := b, descant := (s.job j).descant, job := j, gen := x.gen, bound := x.bound })

/-- The next SEQ a RING must carry (R42). -/
def Stream.nextSeq (x : Stream) : U16 := if x.lastSeq = 0xFFFF then 1 else x.lastSeq + 1

/-- Whether an access of a job is allowed: every byte in one valid region that allows its kind (R233). -/
def State.allowed (s : State) (j a n : Nat) (write : Bool) : Bool :=
  s.regions.any (fun p => decide (p.1 / 64 = j) && p.2.valid && (if write then p.2.wr else p.2.rd)
    && decide (p.2.lo ≤ a) && decide (a + n ≤ p.2.hi))

/-- Whether the 64-byte header lies in one valid region that allows READ (R45). -/
def State.headerOk (s : State) (j : Nat) (a : U48) : Bool := s.allowed j a.toNat 64 false

/-- RING on an open stream (R38, R41, R42, R45). -/
def State.cmdRing (s : State) (n : Nat) (body : BitVec 60) : U16 × State :=
  let x := s.stream n
  if cmdSeqOf body ≠ x.nextSeq then (S_SEQ, s)
  else if 4 ≤ x.pend.length then (S_RING_FULL, s)
  else if !s.headerOk x.job (cmdSubmit body) then (S_ACCESS, s)
  else
    (S_OK, (s.setStream n { x with lastSeq := cmdSeqOf body, pend := x.pend ++ [⟨cmdSeqOf body, cmdSubmit body⟩] }).startNext n)

/-- An ABORT of the current submission: DRAINING, its node slots revoked and its pending submissions discarded (R56, R59). -/
def State.drain (s : State) (n : Nat) : State :=
  let s1 := s.setStream n { s.stream n with st := .draining, stalled := false, dropped := (s.stream n).dropped + (s.stream n).pend.length, pend := [] }
  ((s1.revoke n).abandon n).grantSlots

/-- ABORT on an open stream (R56 to R58). -/
def State.cmdAbort (s : State) (n : Nat) (body : BitVec 60) : U16 × State :=
  let x := s.stream n
  let q := cmdSeqOf body
  let i := x.pend.findIdx (fun (p : Sub) => decide (p.seq = q))
  if x.seq = q ∧ (x.st = .binding ∨ x.st = .running ∨ x.st = .frozen) then (S_OK, s.drain n)
  else if i < x.pend.length then (S_OK, s.setStream n { x with dropped := x.dropped + (x.pend.length - i), pend := x.pend.take i })
  else (S_NOTHING_TO_ABORT, s)

/-- CLOSE on an open stream (R41). -/
def State.cmdClose (s : State) (n : Nat) : U16 × State :=
  let x := s.stream n
  if x.busy then (S_BUSY, s) else (S_OK, s.setStream n { x with st := .free })

/-- The tests of R609 in order, and the command's effect where all of them pass. -/
def State.decideCmd (s : State) (n op : Nat) (body : BitVec 60) : U16 × State :=
  let x := s.stream n
  if !s.start.ready then (S_NOT_READY, s)
  else if !(cmdKnown op && cmdClean op body) then (S_BAD_COMMAND, s)
  else if x.isOpen && !s.baseUp x.home then
    (if op = opClose ∧ x.busy = false then s.cmdClose n else (S_DIE_DOWN, s))
  else if !x.isOpen then (if op = opOpen then s.cmdOpen n body else (S_NOT_OPEN, s))
  else if op = opOpen then (S_ALREADY_OPEN, s)
  else if op = opRing then s.cmdRing n body
  else if op = opAbort then s.cmdAbort n body
  else s.cmdClose n

/-- A command word is ordered at a completion point, and its result stands in the record (R46, R73, R609). -/
def State.ordered (s : State) (n op : Nat) (body : BitVec 60) : State :=
  let s0 := s.countWrap (stmPage (s.orderedAt n)) 0x050
  let r := s0.decideCmd n op body
  r.2.updRec n (fun x => { x with cmdOp := op, cmdSeq := cmdSeqField op body, cmdResult := r.1 })

end Sys2Proof.Machine
end

