-- ==== Sys2Proof/Machine/StartOps.lean ====
section
/-! DEFINITION. Starting the module: the boot chain (R525, R541 to R546), the bring-up of dies, links, memories and ports (R515 to R518, R458 to R461), and what Breath and Off retain (R486). -/

namespace Sys2Proof.Machine

/-! ### Arrays' repair records (R135, R137, R138) -/

/-- MXA_REPAIR of a repair record. -/
def repairWord (r : Repair) : U32 := packFields [(r.col0, 0, 6), (r.col1, 8, 6), (if r.retire then 1 else 0, 31, 1)]

/-- Columns a record maps out; none of it is valid when a number is above 31 or a column is named twice (R137). -/
def repairCols (c0 c1 : Nat) : List Nat := (if c0 = 0x3F then [] else [c0]) ++ (if c1 = 0x3F then [] else [c1])

def repairValid (c0 c1 : Nat) : Bool := (repairCols c0 c1).all (fun c => decide (c < 32)) && decide (c0 = 0x3F ∨ c0 ≠ c1)

/-- MXA_GEOM under a repair record: width 32 less the columns named, 0 where the array is retired (R135, R137, R150). DESIGN CHOICE (log entry 23): REPAIRS of a retired array reads 0 too. -/
def geomWord (c0 c1 : Nat) (retire : Bool) : U32 :=
  let dead := retire || !repairValid c0 c1
  let k := (repairCols c0 c1).length
  packFields [(if dead then 0 else 32 - k, 0, 6), (32, 6, 6), (33, 12, 6), (if dead then 0 else k, 18, 2), (if dead then 1 else 0, 20, 1)]

/-- The write of an array's repair record, with the geometry and the error bits that follow from it (R135, R137, R151). -/
def State.setRepair (s : State) (n : Fin 192) (v : U32) : State :=
  let c0 := fieldOf v 0 6
  let c1 := fieldOf v 8 6
  let ok := repairValid c0 c1
  let s1 := (s.setReg (.mxa n) 0x044 (v &&& 0x80003F3F)).setReg (.mxa n) 0x040 (geomWord c0 c1 (v.toNat.testBit 31))
  let s2 := if ok then s1 else s1.raise (.mxa n) 1
  if ok && !v.toNat.testBit 31 then s2 else s2.raise (.mxa n) 2

/-! ### The boot chain (R525, R541 to R546) -/

def fwMagic : U32 := 0x4C44474E
def fwModel : U32 := 0x00120768

/-- Format check of a signed header (R537 check 1). -/
def FwHeader.formatOk (h : FwHeader) : Bool :=
  decide (h.magic = fwMagic) && decide (h.format = 1) && h.reservedZero && decide (h.partCount = 7) && decide (h.manifestBytes = 560)

/-- Checks 1 to 4 of R537, first failing check first: format, key, signature, model. -/
def Flash.headerCheck (f : Flash) (h : FwHeader) : Option U16 :=
  if !h.formatOk then some S_FW_FORMAT
  else if decide (4 ≤ h.keyIndex) || f.keyRevoked h.keyIndex then some S_FW_KEY_REVOKED
  else if !h.sigOk then some S_FW_SIGNATURE
  else if h.model ≠ fwModel then some S_FW_MODEL
  else none

/-- Whether every part has the hash its manifest entry gives (R525 checks 3 and 4). -/
def partsGood : List FwEntry → List (List U8) → Bool
  | [], [] => true
  | e :: es, p :: ps => decide (sha256 p = e.resultHash) && partsGood es ps
  | _, _ => false

/-- The lowest PART whose hash is not its manifest entry's. -/
def badPart (x : FwSlot) : Nat := (List.range 7).findIdx (fun i => !partsGood ((x.manifest.drop i).take 1) ((x.parts.drop i).take 1)) + 1

/-- The check of R525 that a slot fails first, 1 to 4, after the PART that fails it (0 where none does); none where it passes them all. -/
def Flash.bootCheck (f : Flash) (i : Nat) : Option (Nat × Nat) :=
  let x := f.slot i
  match x.header with
  | none => some (0, 1)
  | some h =>
    if (f.headerCheck h).isSome then some (0, 1)
    else if sha256 x.manifestRaw ≠ h.manifestHash ∨ h.svn < f.floor then some (0, 2)
    else if !partsGood (x.manifest.take 1) (x.parts.take 1) then some (1, 3)
    else if !partsGood x.manifest x.parts then some (badPart x, 4)
    else none

/-- Whether the other slot may stand in for a CONFIRMED slot that fails: its header is valid and its SVN not below the floor (R543 item 4). -/
def Flash.standIn (f : Flash) (i : Nat) : Bool :=
  match (f.slot i).header with
  | some h => (f.headerCheck h).isNone && decide (f.floor ≤ h.svn)
  | none => false

/-- What the ROM settles at a start: the flash as it leaves it, the slot it starts, whether it made the other slot active, the slots that failed with the part and the check they failed, and TRIES_LEFT where it left a trial. -/
structure BootResult where
  flash : Flash
  slot : Option Nat
  reverted : Bool
  failed : List (Nat × Nat × Nat)
  tries : Nat
  deriving DecidableEq, Repr

/-- A record naming the other slot ACTIVE and CONFIRMED (R543 item 2). -/
def Flash.revert (f : Flash) : Flash :=
  let c := f.commitOr
  let o := 1 - c.active
  let h := (f.slot o).header
  f.writeCommit ⟨c.gen + 1, o, false, 0, (h.map (·.manifestHash)).getD [], (h.map (·.svn)).getD 0⟩

/-- The ROM's choice among CONFIRMED slots (R543 item 4). -/
def Flash.bootConfirmed (f : Flash) (rev : Bool) (tries : Nat) (failed : List (Nat × Nat × Nat)) : BootResult :=
  let a := f.commitOr.active
  match f.bootCheck a with
  | none => ⟨f, some a, rev, failed, tries⟩
  | some k =>
    let o := 1 - a
    if f.standIn o then
      match f.bootCheck o with
      | none => ⟨f, some o, rev, failed ++ [(a, k)], tries⟩
      | some k' => ⟨f, none, rev, failed ++ [(a, k), (o, k')], tries⟩
    else ⟨f, none, rev, failed ++ [(a, k)], tries⟩

/-- How the ROM handles the commit record at a start (R543). -/
def Flash.boot (f : Flash) : BootResult :=
  let c := f.commitOr
  if !c.trial then f.bootConfirmed false 0 []
  else if c.tries = 0 then f.revert.bootConfirmed true 0 []
  else
    let f1 := f.writeCommit { c with gen := c.gen + 1, tries := c.tries - 1 }
    match f1.bootCheck c.active with
    | none => ⟨f1, some c.active, false, [], 0⟩
    | some k => f1.revert.bootConfirmed true (c.tries - 1) [(c.active, k)]

/-- A start step that fails: its error record, and START_FAIL (R517, R588). -/
def State.startFail (s : State) (e : Event) : State := (s.record e).raise .tol 0

/-! ### Links at a start (R458 to R461) -/

/-- The link end of a number (PackageTypes), if it is one. -/
def linkEndOf (k : Nat) : Option LinkEnd :=
  if k < 4 then (finOf 4 k).map .rdl else if k < 16 then (finOf 12 (k - 4)).map .bondBase else (finOf 12 (k - 16)).map .bondDie

/-- Every failed lane of a start, by lane group number: found in the test, or named by a record (R459). -/
def State.startLanes (s : State) (r : StartReport) : List (Nat × Nat) :=
  (r.lanes.flatMap (fun f => f.lanes.map (fun l => (laneKey f.link f.bundle f.group, l)))
    ++ s.flash.laneRecords 2 ++ s.flash.laneRecords 3).dedup

/-- One lane group at a start (R459, R460). -/
def State.startGroup (s : State) (all : List (Nat × Nat)) (key : Nat) : State :=
  let lanes := (all.filter (fun p => decide (p.1 = key))).map (·.2)
  match linkEndOf (key / 256), lanes with
  | some e, [l] =>
    let s1 := s.setLaneGroup e (key / 16 % 16) (key % 16) ⟨some l, false, false, [], false⟩
    if s.flash.laneOf 2 key = some l then s1
    else ({ s1 with flash := s1.flash.noteLane key l }).raise e.shown 3
  | some e, _ :: _ :: _ =>
    let s1 := s.setLaneGroup e (key / 16 % 16) (key % 16) ⟨none, false, true, [], false⟩
    let drop (t : State) (x : LinkEnd) : State := t.setLink x { t.link x with enabled := (t.link x).enabled &&& (0xFFFF - 2 ^ (key / 16 % 16)) }
    drop (drop s1 e) e.peer
  | _, _ => s

/-- Every link end of the module. -/
def allEnds : List LinkEnd := (List.range 28).filterMap linkEndOf

/-- Bundles, lanes and flit numbers as every start begins with them, between dies that are up (R458 step 6). -/
def State.startLinks (s : State) (r : StartReport) : State :=
  let up (e : LinkEnd) : Bool := (s.die e.own.num).up && (s.die e.far.num).up
  let s1 := { s with bundles := [], lanes := [] }
  let s2 := s1.forEach allEnds (fun t e => t.setLink e ⟨up e, !up e && (t.die e.own.num).up, up e, 2 ^ e.bundles - 1, 0, 0, [], [], false, false, [], [], []⟩)
  let all := s2.startLanes r
  s2.forEach ((all.map (·.1)).dedup) (fun t k => t.startGroup all k)

/-- A die that turns out to be down at start, a base die with its compute dies (R461, R469). -/
def State.downAtStart (s : State) (d : Die) : State :=
  let gone (t : State) (k : Nat) : State := t.updDie k (fun y => if y.up then { y with up := false, cause := 4 } else y)
  match d with
  | .compute c => gone s c.val
  | .base b => gone (s.forEach [4 * b.val, 4 * b.val + 1, 4 * b.val + 2, 4 * b.val + 3] gone) (12 + b.val)

/-- The links of dies that are not both up are fenced at the end that is. -/
def State.fenceEnds (s : State) : State := s.forEach allEnds (fun t e =>
  let x := t.link e
  if x.up && !((t.die e.own.num).up && (t.die e.far.num).up) then t.setLink e { x with up := false, fenced := (t.die e.own.num).up, peerClk := false } else t)

/-- The end of a link whose far die is `farDie`: the one that survives it. -/
def LinkEnd.survivor (e : LinkEnd) : LinkEnd := if e.far = e.farDie then e else e.peer

/-- A link left with no enabled bundle takes its far die down at start (R461, R483, R517). -/
def State.deadLinks (s : State) : State :=
  (s.forEach allEnds (fun t e =>
    if (t.link e).up && decide ((t.link e).enabled = 0) && (t.die e.farDie.num).up then
      ((t.downAtStart e.farDie).peerDown e.survivor).startFail { kind := 0x10, unit := unitOther 10 e.num, detail := [e.num] }
    else t)).fenceEnds

/-! ### Dies, memories and ports (R515 to R518) -/

/-- A die as it comes out of reset at full rate with no budget yet (R465, R491). -/
def DieSt.started (floorW8 : Nat) : DieSt := { DieSt.unpowered with up := true, floorW8 := floorW8 }

/-- Base dies that a start finds dead: no power-good, lock or memory, a load that differs, or a stack that fails training (R517). -/
def StartReport.deadBase (r : StartReport) (b : Fin 3) : Bool :=
  r.deadDies.contains (.base b) || r.badStacks.any (fun k => decide (baseOfStack k.val = b.val))

def StartReport.deadCompute (r : StartReport) (d : Fin 12) : Bool :=
  r.deadDies.contains (.compute d) || r.deadBase (if d.val < 4 then 0 else if d.val < 8 then 1 else 2)

/-- The dies out of reset, each that fails recorded (R515 steps 5 and 7, R517); the compute dies of a dead base die are down with it (R469). -/
def State.startDies (s : State) (r : StartReport) : State :=
  let bring (t : State) (d : Die) (dead own : Bool) (fl : Nat) : State :=
    if dead then
      let t1 := t.setDie d.num { DieSt.unpowered with cause := 4 }
      if own then t1.startFail { kind := 0x11, code := S_DIE_DOWN, detail := [d.num] } else t1
    else t.setDie d.num (.started fl)
  let s1 := s.forEach (List.finRange 3) (fun t b => bring t (.base b) (r.deadBase b) true 560)
  s1.forEach (List.finRange 12) (fun t d => bring t (.compute d) (r.deadCompute d) (s1.baseUp (d.val / 4)) 0)

/-- The repair records in force and the floor shares written into the compute dies as they come out of reset. -/
def State.writeArrays (s : State) : State :=
  let s1 := s.forEach s.start.records (fun t r => match finOf 192 r.core with | some n => t.setRepair n (repairWord r) | none => t)
  s1.forEach (List.finRange 12) (fun t d => t.setReg (.bnd d) 0x070 0x60)

/-- What Tolium writes into the compute dies: repair records and floor shares (R138, R497). -/
def State.startArrays (s : State) : State :=
  let s1 := ({ s with start := { s.start with retired := s.flash.retired, records := s.flash.repairs } }).writeArrays
  { s1 with start := { s1.start with repaired := List.range 192 } }

/-- A port trains (R326, R515 step 11): where its peer's INIT record has come it is at step 4 and links, unless R330 holds it there; else it waits for a signal. -/
def State.trainPort (s : State) (p : Nat) (peer : Option (List U8)) : State :=
  let x := Port.disabled
  match peer with
  | some r => (s.setPort p { x with train := 4, signal := true, peerInit := some r, initSent := true, encReq := decide (s.field (wwyPage p) 0x044 1 1 = 1) }).tryUp p
  | none => s.setPort p { x with train := 1 }

/-- Ports whose base die is up, has a lane map (R520) and whose ENABLE is set train; one that has not linked leaves its record and keeps training (R515 step 11, R517). -/
def State.startPorts (s : State) (r : StartReport) : State :=
  let bases := match s.flash.setting 1 with | some ⟨_, _, _, .laneMap l⟩ => l | _ => []
  s.forEach (List.range 12) (fun t p =>
    if t.baseUp (p / 4) && bases.contains (p / 4) && decide (t.field (wwyPage p) 0x044 0 1 = 1) then
      let t1 := t.trainPort p ((r.ports.find? (fun q => decide (q.1.val = p))).map (·.2))
      if (t1.port p).up then t1 else t1.startFail { kind := 0x10, unit := unitOther 9 p, detail := [p, 0] }
    else t.setPort p Port.disabled)

/-- The CXL ports after their step, and the active memory port (R554, R567); a port that did not link leaves its record (R517). -/
def State.startCxl (s : State) (r : StartReport) : State :=
  let portOf (p : Fin 2) : CxlPort :=
    match r.cxlLinked.find? (fun x => decide (x.1 = p)) with
    | some (_, lanes, fast, sw) => { CxlPort.down with up := true, lanes := lanes, fast := fast, viaSwitch := sw }
    | none => .down
  let ports := [portOf 0, portOf 1]
  let ok (p : Nat) : Bool := ((ports.getD p .down).up && (ports.getD p .down).viaSwitch)
    && decide (s.field (.cxp (if p = 0 then 0 else 1)) 0x048 0 1 = 1)
  let pri := s.field (.cxp 0) 0x04C 0 1
  let act := if ok pri then some pri else if ok (1 - pri) then some (1 - pri) else none
  let s1 : State := { s with cxl := { Cxl.reset with ports := ports, active := act, cdatSeq := s.cxl.cdatSeq } }
  s1.forEach [0, 1] (fun t p => if (ports.getD p .down).up then t else t.startFail { kind := 0x10, detail := [p, 0] })

/-- Operating defaults of the type 8 record put into their registers and windows (R520, step 12). -/
def State.startDefaults (s : State) : State :=
  match s.flash.setting 8 with
  | some ⟨_, _, _, .defaults regs wins⟩ =>
    let s1 := s.forEach regs (fun t (p : Nat × U32) => match pageAt p.1 with
      | some pg => t.setBits pg (p.1 % 0x1000) p.2 (((pg.reg (p.1 % 0x1000)).map (·.rw)).getD 0)
      | none => t)
    { s1 with pwr := wins.foldl (fun w (p : Nat × U16 × U16) => if p.1 = 18 then w else { w with brtLow := w.brtLow.set p.1 p.2.1, brtHigh := w.brtHigh.set p.1 p.2.2 }) s1.pwr }
  | _ => s

/-- Every array's tuning pass due at once where no repair record is valid (R520 type 4). -/
def State.startTuning (s : State) : State :=
  if (s.flash.setting 4).isNone then s.forEach (List.range 192) (fun t n => t.dueNow (4 * n)) else s

/-- The ramped setpoint at 450 W (R489): at module-ready and on every return to Run. -/
def State.startRamp (s : State) : State :=
  { s with pwr := { s.pwr with st := .run, change := none, ramp := 450, cap := 450, limiter := (if s.pwr.target = 450 then 0 else 1) } }

/-- No thermal response is active on dies that have been without power (R507). -/
def State.coolStart (s : State) : State := { s with pwr := { s.pwr with thermalCap := 2400, calmMs := 0, hotBases := [] } }

/-- Module-ready with the slot in TRIAL running (R543): the image is confirmed, with its floor and revocations. DEDUCED (log entry 102): a return from Off that still runs the slot before an activation confirms nothing, as the new image runs from the next start on (R542). -/
def State.confirmTrial (s : State) : State :=
  let c := s.flash.commitOr
  if c.trial && decide (c.active = s.start.slot) then
    let h := (s.flash.slot c.active).header
    let fl := (h.map (·.flags)).getD 0
    let f1 := s.flash.writeCommit { c with gen := c.gen + 1, trial := false, tries := 0 }
    let f2 := if fl.toNat.testBit 1 then { f1 with floor := max f1.floor (min 64 c.svn) } else f1
    let rev := fieldOf fl 2 4
    let all := f2.revoked ||| rev
    let f3 := if rev = 0 then f2 else { f2 with revoked := if all = 15 ∧ f2.revoked % 2 = 0 then all - 1 else all }
    let s1 := { s with flash := f3 }
    if f3.floor ≠ s.flash.floor ∨ f3.revoked ≠ s.flash.revoked then s1.record { kind := 0x34, outcome := 0, detail := [f3.floor, f3.revoked] } else s1
  else s

/-- A GDDR7 device that fails its training leaves its record (R517 step 9). -/
def State.failGddr (s : State) (r : StartReport) : State :=
  s.forEach r.badGddr (fun t g => t.startFail { kind := 0x03, unit := unitOther 8 g.val, detail := [1] })

/-- The command words that reach base die 1 before module-ready, each refused with S_NOT_READY (R516, R556). -/
def State.earlyCommands (s : State) (r : StartReport) : State :=
  s.forEach r.early (fun t p => t.ordered p.1.val (p.2.toNat / 2 ^ 60) (BitVec.ofNat 60 p.2.toNat))

/-- Memory as a start leaves it: zero-filled (R216), with the shipped recipes in the recipe store of stacks 0, 6 and 10 whose base dies are up (R283, R515 step 9). -/
def State.startedMemory (s : State) : Memory :=
  ([0, 6, 10].filter (fun k => s.baseUp (baseOfStack k))).foldl (fun m k =>
    storedRecipes.foldl (fun (m : Memory) x => m.put (recipeAddr k x.1) (recipeImage x.2)) m) .zero

/-- HBM4 and GDDR7 trained and zero-filled, and the shipped recipes placed (R216, R515 steps 8 and 9). -/
def State.startMemory (s : State) (r : StartReport) : State :=
  ({ s with mem := s.startedMemory, start := { s.start with benchOk := r.badGddr.isEmpty } }).failGddr r

/-- The commands of the host that come before module-ready (R516). -/
def State.beforeReady (s : State) (r : StartReport) : State :=
  ({ s with start := { s.start with ready := false } }).earlyCommands r

/-- TOL_STATUS.READY is set (R515 step 12). -/
def State.setReady (s : State) (r : StartReport) : State :=
  { s with start := { s.start with ready := true, step := 0, startMs := min r.startMs 65535 } }

/-- Steps 5 to 12 of a start, and the return from Off (R515, R518). Base die 1 down: no module-ready, STEP stays 5 (R517). -/
def State.bringUp (s : State) (r : StartReport) : State :=
  let s1 := (s.startDies r)
  if !s1.baseUp 1 then { s1 with start := { s1.start with step := 5, ready := false } }
  else
    let s2 := ((s1.startLinks r).deadLinks).startArrays
    let s3 := ((s2.startMemory r).startCxl r).startPorts r
    let s4 := (s3.beforeReady r).startDefaults
    let s5 := (s4.capChanged).setReady r
    (((s5.startTuning).coolStart).startRamp).confirmTrial

/-- Settings types whose two copies are both invalid (R517 step 4, R520). -/
def Flash.badSettings (f : Flash) : List Nat := ([1, 2, 3, 4, 5, 6, 7, 8] : List Nat).filter (fun t => (f.setting t).isNone)

/-- Measurement blocks 1 to 10 of R528 as step 4 takes them. -/
def Flash.measure (f : Flash) (slot : Nat) : List (List U8) :=
  let x := f.slot slot
  let part (i : Nat) : List U8 := sha256 (x.parts.getD i [])
  [Config.romDigest, part 0, part 1, part 2, part 3, part 4, part 5, part 6, sha256 (x.headerRaw ++ x.manifestRaw),
   sha256 (([1, 2, 3, 4, 5, 6] : List Nat).flatMap (fun t => match f.setting t with | some c => Config.settingBytes t (c.gen.toNat :: c.body.code) | none => []))]

/-- Every register and table that is lost with the module's power, kept apart from what Tolium keeps (R440, R486). -/
def State.coldStart (s : State) : State :=
  { State.reset with
    pending := s.pending, out := s.out, free := s.free, nextReq := s.nextReq, log := s.log, logHead := s.logHead
    flash := s.flash, sessions := s.sessions, start := s.start
    pwr := { PowerSt.reset with mlpm := s.pwr.mlpm } }

/-- What Off keeps: Tolium's own pages and state (R486, R501). -/
def State.offStart (s : State) (r : StartReport) : State :=
  { s.coldStart with
    regs := s.regs.filter (fun p => decide (p.1 < 0x6000)), pwr := { s.pwr with inputW := r.inputW, clockMs := 0 }, sessions := s.sessions, fw := s.fw, spdm := s.spdm }

/-- Recovery mode: no slot passes, no die is powered (R546). -/
def State.recover (s : State) (failed : List (Nat × Nat × Nat)) : State :=
  ({ s with start := { s.start with recovery := true, ready := false, step := 3 } }).record { kind := 0x35, detail := failed.flatMap (fun (p : Nat × Nat × Nat) => [p.1, p.2.1, p.2.2]) }

/-- Steps 3 and 4: the boot chain and the settings, and then the rest; a load failure in TRIAL makes the ROM revert and start again once (R543 item 3). -/
def State.startFrom3 (s : State) (r : StartReport) : State :=
  let b := s.flash.boot
  let trialNow := b.flash.commitOr.trial
  let b' := if r.loadFail && trialNow then b.flash.revert.bootConfirmed true b.flash.commitOr.tries (b.failed ++ [(b.flash.commitOr.active, 0, 5)]) else b
  let s1 := { s with flash := b'.flash, start := { s.start with recovery := false, ready := false, step := 3, boots := s.start.boots + 1, anchors := b'.flash.anchors } }
  let s2 := s1.forEach b'.failed (fun t (p : Nat × Nat × Nat) => (t.startFail { kind := 0x30, detail := [p.1, p.2.1, p.2.2] }).raise .fwu 0)
  let s3 := if b'.reverted then ((s2.record { kind := 0x31, detail := [1 - b'.flash.commitOr.active, b'.flash.commitOr.active, b'.tries] }).raise .fwu 1).countSat .fwu 0x05C else s2
  match b'.slot with
  | none => s3.recover b'.failed
  | some k =>
    let bad := s3.flash.badSettings
    let s4 := s3.forEach bad (fun t ty => (t.startFail { kind := 0x32, detail := [ty] }).raise .tol 1)
    let s5 := { s4 with start := { s4.start with
      slot := k, calDefault := (s4.flash.setting 5).isNone, settingsBad := !bad.isEmpty, straps := r.straps.val
      measured := s4.flash.measure k
      contentVersion := (((s4.flash.slot k).manifest.getD 6 ⟨0, 0, 0, 0, 0, [], []⟩).partVersion) } }
    let r' := if r.loadFail && trialNow then { r with deadDies := [] } else r
    let s6 := s5.bringUp r'
    { s6 with pwr := { s6.pwr with inputW := r.inputW } }

end Sys2Proof.Machine
end

