-- ==== Sys2Proof/Machine/Power.lean ====
section
/-! DEFINITION. Power, Swell and Breath: setpoints, the control loop, state requests, the Breath sampler, and thermal, coolant and input responses (R487 to R508, R606, R607). -/

namespace Sys2Proof.Machine

/-! ### Setpoints and the cap (R487 to R489, R507) -/

/-- SWL_SLEW.W_PER_MS; 0 acts as 1 (R510). -/
def State.slew (s : State) : Nat := max 1 (s.field .swl 0x044 0 12)

def swellFloor : Nat := 450
def swellTop : Nat := 2400

/-- A setpoint inside 450 W to 2,400 W (R488). -/
def clampSetpoint (w : Nat) : Nat := if w < swellFloor then swellFloor else if swellTop < w then swellTop else w

/-- C and the term of R489 that sets it: 0 setpoint, 1 slew ramp, 2 thermal, 3 coolant flow. DESIGN CHOICE (log entry 38): of equal terms coolant flow is named first, and the thermal cap last. -/
def PowerSt.capOf (p : PowerSt) : Nat × Nat :=
  let c1 := if p.ramp < p.target then (p.ramp, 1) else (p.target, 0)
  let c2 := if p.thermalCap < c1.1 then (p.thermalCap, 2) else c1
  if p.flowLow ∧ swellFloor ≤ c2.1 then (swellFloor, 3) else c2

def PowerSt.withCap (p : PowerSt) : PowerSt := { p with cap := p.capOf.1, limiter := p.capOf.2 }

/-! ### Limits (R493) -/

def Calib.pOf (c : Calib) (k : Nat) : Rat := (c.p.getD k 0 : Nat) / (1000000 : Rat)

/-- Power of a die's last REPORT, watts. -/
def State.dieWatts (s : State) (d : Nat) : Rat := ((s.die d).rep.powerW8.toNat : Rat) / 8

/-- The allowance for compute dies under a cap (R493). -/
def State.allowance (s : State) (cap : Nat) : Rat :=
  let c := s.flash.calib
  ((cap : Rat) - (c.c0 : Rat) / 1000) / (1 + (c.lambda : Rat) / 1000000)
    - (([0, 1, 2] : List Nat).filter s.baseUp).foldl (fun t b => t + s.dieWatts (12 + b)) 0

def State.upDies (s : State) : List Nat := (List.range 12).filter s.computeUp

/-- A die's demand at step 0 and full duty (R493). -/
def State.demand (s : State) (d : Nat) : Rat := s.dieWatts d / (s.flash.calib.pOf s.pwr.step * s.pwr.duty / 256)

/-- The common step and duty for an allowance and a summed demand (R493). -/
def chooseStep (c : Calib) (a dsum : Rat) : Nat × Nat :=
  if dsum ≤ a then (0, 256)
  else if dsum * c.pOf 56 ≤ a then (((List.range 57).find? (fun k => decide (dsum * c.pOf k ≤ a))).getD 56, 256)
  else (56, max 64 (Int.toNat (256 * a / (dsum * c.pOf 56)).floor))

/-- LIMIT_W8 of a compute die, rounded down (R493); of a base die, 10 % above its reported power, rounded up: the spec asks for at least 10 % (R490; DESIGN CHOICE, log entry 38). -/
def State.limitFor (s : State) (step duty d : Nat) : Nat :=
  if d < 12 then (s.demand d * s.flash.calib.pOf step * duty / 256 * 8).floor.toNat % 65536
  else ((s.die d).rep.powerW8.toNat * 11 + 9) / 10 % 65536

/-- A new limit sent to a die: EPOCH rises with each new limit (R465). -/
def State.sendBudget (s : State) (d limit : Nat) (off : Bool) : State :=
  let x := s.die d
  if x.up && !x.test then
    let l := BitVec.ofNat 16 limit
    let m : Budget := ⟨if l = x.sent.limitW8 then x.sent.epoch else x.sent.epoch + 1, l, off⟩
    (s.setDie d { x with sent := m }).putBudget d m
  else s

/-- The controller's computation on a new cap or at a loop (R490, R493): descant work is shed once the cap is below the measured input power, and always before a clock step or a duty below the full one. -/
def State.swellCompute (s : State) : State :=
  let s0 := { s with pwr := s.pwr.withCap }
  let p := s0.pwr
  let dsum := s0.upDies.foldl (fun t d => t + s0.demand d) 0
  let sd := chooseStep s0.flash.calib (s0.allowance p.cap) dsum
  let shed := p.shed || decide (p.cap < p.inputW) || decide (0 < sd.1) || decide (sd.2 < 256)
  let limits := (s0.upDies ++ (([0, 1, 2] : List Nat).filter s0.baseUp).map (12 + ·)).map (fun d => (d, s0.limitFor sd.1 sd.2 d))
  let s1 := { s0 with pwr := { p with
    step := sd.1, duty := sd.2, shed := shed
    stage := if sd.2 < 256 then 3 else if 0 < sd.1 then 2 else if shed then 1 else 0 } }
  s1.forEach limits (fun t l => t.sendBudget l.1 l.2 shed)

/-- A setpoint accepted (R487, R488, R501): clamped and counted; a decrease is followed at once, and in Run the limits are computed anew. -/
def State.acceptSetpoint (s : State) (src : SwellSource) (w : Nat) : State :=
  let t := clampSetpoint w
  let s1 := s.countWrap .swl 0x060
  let s2 := if t = w then s1 else (s1.countSat .swl 0x064).raise .swl 0
  let s3 := { s2 with pwr := { s2.pwr with target := t, source := src, ramp := min s2.pwr.ramp t } }
  if s.pwr.st = .run then s3.swellCompute else s3

/-- Whether a source is enabled in SWL_SRC_EN (R487, R510). -/
def State.sourceOn (s : State) (src : SwellSource) : Bool := (s.reg .swl 0x048).toNat.testBit src.code

/-- Whether a BAR0 write of a host reaches a page of base die 1 or Tolium (R589, R592). -/
def State.hostReach (s : State) : Bool := s.start.powered && s.baseUp 1 && (decide (s.pwr.st = .run) || decide (s.pwr.st = .hold))

/-- SETPOINT_WRITE (R487, R510). -/
def execSetpointWrite (v : U32) (s : State) : Res :=
  .next (
    if s.hostReach then
      let s1 := s.setBits .swl 0x040 v 0xFFFF
      if s.sourceOn .register then s1.acceptSetpoint .register (fieldOf v 0 16) else s1
    else s)

/-! ### The control loop (R489, R493, R506, R507) -/

/-- Stacks of an up base die in HBM band 3 (R218, R506). -/
def State.hotStacks (s : State) : List (Fin 16) :=
  (List.finRange 16).filter (fun k => s.baseUp (baseOfStack k.val) && decide (s.field (.hbc k) 0x044 8 2 = 3))

/-- Base dies in a response after a reading: entered at 95 °C, left below 93 °C (R506). -/
def hotNext (old : List Nat) (temps : List Int) : List Nat :=
  ([0, 1, 2] : List Nat).filter (fun b => decide (95 ≤ temps.getD b 0) || (old.contains b && decide (93 ≤ temps.getD b 0)))

/-- A thermal response of R506 is active. -/
def State.throttled (s : State) : Bool :=
  !s.pwr.hotBases.isEmpty || !s.hotStacks.isEmpty || s.dies.any (fun p => p.2.hot)

/-- The thermal cap at one loop (R507). -/
def PowerSt.thermalNext (p : PowerSt) (active : Bool) (elapsed slew : Nat) : PowerSt :=
  if active then { p with thermalCap := max swellFloor (97 * p.inputW / 100), calmMs := 0 }
  else if 1000 ≤ p.calmMs + elapsed then { p with calmMs := p.calmMs + elapsed, thermalCap := min swellTop (p.thermalCap + slew * elapsed) }
  else { p with calmMs := p.calmMs + elapsed }

/-- A thermal trip: the die sends its notice, resets and goes down (R463, R506). -/
def State.thermalTrip (s : State) (d : Die) (temp : Nat) : State :=
  if (s.die d.num).up then
    (((s.record { kind := 0x20, detail := [d.num, temp] }).raise .pwr 1).noticeReset d).dieDown d 2
  else s

/-- SWELL_CONTROL_LOOP (R489, R493, R506, R507): the measured power, the thermal responses, and in Run the ramp and new limits. -/
def execSwellControlLoop (obs : SwellObs) (s : State) : Res :=
  .next (
    if s.start.powered = true ∧ (s.pwr.st = .run ∨ s.pwr.st = .hold) then
      let running := decide (s.pwr.st = .run)
      let trip := ([0, 1, 2] : List Nat).filter (fun b => s.baseUp b && decide (110 ≤ obs.baseTemp.getD b 0))
      let hot := (hotNext s.pwr.hotBases obs.baseTemp).filter (fun b => s.baseUp b)
      let p0 := { s.pwr with inputW := obs.inputW, input10mV := obs.input10mV, hotBases := hot, clockMs := s.pwr.clockMs + obs.elapsedMs }
      let active := !hot.isEmpty || !s.hotStacks.isEmpty
      let began := active && s.pwr.hotBases.isEmpty && decide (s.pwr.calmMs ≠ 0)
      let p1 := p0.thermalNext active obs.elapsedMs s.slew
      let p2 := { p1 with
        ramp := if !running then p1.ramp else if p1.target ≤ p1.ramp then p1.target else min p1.target (p1.ramp + s.slew * obs.elapsedMs)
        throttleMs := if active || s.throttled then min 0xFFFFFFFF (p1.throttleMs + obs.elapsedMs) else p1.throttleMs }
      let s1 := { s with pwr := p2 }
      let s2 := if began then s1.raise .pwr 0 else s1
      let s3 := if running then s2.swellCompute else s2
      s3.forEach trip (fun t b => match finOf 3 b with | some f => t.thermalTrip (.base f) (obs.baseTemp.getD b 0).toNat | none => t)
    else s)

/-- DESCANT_RESTORE (R494): step 0 at full duty and margin have held for 1 s. -/
def execDescantRestore (s : State) : Res :=
  .next (
    if s.pwr.shed ∧ s.pwr.step = 0 ∧ s.pwr.duty = 256 ∧ s.pwr.inputW + s.field .swl 0x05C 0 16 ≤ s.pwr.cap then
      let s1 := { s with pwr := { s.pwr with shed := false, stage := 0 } }
      s1.forEach (List.range 15) (fun t d => t.sendBudget d (t.die d).sent.limitW8.toNat false)
    else s)

/-- DIE_THERMAL_TICK (R506): one step down each 1 ms from 95 °C until below 93 °C, or duty at the last step; then back up to what the controller computed; a trip at 110 °C. -/
def execDieThermalTick (d : Fin 12) (t : BitVec 8) (s : State) : Res :=
  let x := s.die d.val
  let c := tempOf t
  .next (
    if !x.up then s
    else if 110 ≤ c then s.thermalTrip (.compute d) c.toNat
    else
      let hot := decide (95 ≤ c) || (x.hot && decide (93 ≤ c))
      let y :=
        if hot then
          if x.step < 56 then { x with hot := true, step := x.step + 1 } else { x with hot := true, duty := max 64 (x.duty - 16) }
        else if x.duty < s.pwr.duty then { x with hot := false, duty := min s.pwr.duty (x.duty + 16) }
        else { x with hot := false, step := if s.pwr.step < x.step then x.step - 1 else x.step }
      let s1 := s.setDie d.val y
      if hot && !x.hot then s1.raise .pwr 0 else s1)

/-! ### State requests (R500, R505, R508) -/

/-- The busy check of Breath and Off (R500). -/
def State.powerBusy (s : State) : Bool := s.anyBusy || s.slots.any (fun p => p.2.valid)

/-- A refused request (R511, R588). -/
def State.refuse (s : State) (code : U16) : State := (s.setReg .pwr 0x048 (code.zeroExtend 32)).raise .pwr 4

/-- An accepted request. -/
def State.granted (s : State) : State := s.setReg .pwr 0x048 0

/-- Pages whose registers Breath retains: Tolium's own, and STM, GLB, CNS, UNI and TUN (R486). DEDUCED (log entry 40): of GRN the log window, which is Tolium's own (R592), and CNS means all four of its pages. -/
def keptInBreath (k : Nat) : Bool :=
  decide (k < 0x6000) ||
  match pageAt k with
  | some .grn => logOffset (k % 0x1000)
  | some .tun | some .uni | some .stmJob | some .stmRgn | some .stmQrm | some .cnsMap => true
  | some (.stm _) | some (.glb _) | some (.cns _) => true
  | _ => false

/-- The links to neighbours and hosts are down in Breath and Off (R486, R571). -/
def State.linksOff (s : State) : State :=
  let s1 := s.forEach (List.range 12) (fun t p => t.setPort p Port.disabled)
  { s1 with
    cxl := { s1.cxl with ports := [.down, .down], active := none, snoops := [], uio := [] }
    latches := s1.latches.filter (fun l => match l.requester with | .fn _ => false | .svc _ => true)
    heldLo := s1.heldLo.filter (fun l => match l.requester with | .fn _ => false | .svc _ => true) }

/-- The power of every die that is up is cut (R486); with the stacks of base dies left in self-refresh, or not. -/
def State.sleepDies (s : State) (refresh : Bool) : State :=
  let s1 := s.forEach (List.range 15) (fun t d => t.updDie d (fun x => if x.up then { x with up := false, asleep := true, refresh := refresh && decide (12 ≤ d) } else { x with refresh := x.refresh && refresh }))
  s1.forEach allEnds (fun t e => t.setLink e { t.link e with up := false, peerClk := false })

/-- Entry into Breath: HBM kept in self-refresh, SRAM and GDDR7 lost, most registers lost (R486). -/
def State.enterBreath (s : State) : State :=
  let hbm (a : Nat) : Bool := decide (a < hbmEnd)
  let s1 := s.linksOff.sleepDies true
  { s1 with
    regs := s1.regs.filter (fun p => keptInBreath p.1), route := [], keytab := [], looped := [], ovf := [], twin := .off, arrays := [], chucks := [], sramScrub := []
    upsets := s1.upsets.filter (fun x => hbm (x.line * 64))
    mem := ⟨s1.mem.bytes.filter (fun p => hbm p.1), s1.mem.tags.filter (fun p => hbm (p.1 * 2048)), s1.mem.bad.filter (fun l => hbm (l * 64))⟩
    pwr := { s1.pwr with st := .breath, change := none, epoch := none } }

/-- Entry into Off: every memory tier lost and every engine stopped (R486); what base die 1 held is read no more and starts afresh with the next start. -/
def State.enterOff (s : State) : State :=
  let s1 := s.linksOff.sleepDies false
  { s1 with
    mem := .zero, upsets := [], engines := [], twin := .off
    pwr := { s1.pwr with st := .off, change := none, epoch := none }, start := { s1.start with ready := false } }

/-- A request for a power state (R500): a change under way, the present state, Breath from Off and Hold from below are S_PWR_STATE; Breath and Off with work in progress are S_PWR_BUSY; leaving Off waits for the leak to end (R508). DESIGN CHOICE (log entry 39): the answers to a request during a change and to Hold from Breath or Off, and Off from Breath, which needs no busy check. -/
def State.requestPower (s : State) (want : PState) : State :=
  let p := s.pwr
  if !s.start.powered || s.start.recovery || p.change.isSome || decide (p.st = want) then s.refuse S_PWR_STATE
  else match p.st, want with
    | .run, .hold => { s.granted with pwr := { p with change := some .hold } }
    | .hold, .run => ((s.granted.checkPeers allEnds).startRamp).swellCompute
    | .run, .breath | .run, .off => if s.powerBusy then s.refuse S_PWR_BUSY else { s.granted with pwr := { p with change := some want } }
    | .hold, .breath => if s.powerBusy then s.refuse S_PWR_BUSY else s.granted.enterBreath
    | .hold, .off => if s.powerBusy then s.refuse S_PWR_BUSY else s.granted.enterOff
    | .breath, .off => s.granted.enterOff
    | .breath, .run => { s.granted with pwr := { p with change := some .run } }
    | .off, .run => if p.leak then s.refuse S_PWR_STATE else { s.granted with pwr := { p with change := some .run } }
    | _, _ => s.refuse S_PWR_STATE

/-- POWER_REQ_RUN (R500, R505). -/
def execPowerReqRun (s : State) : Res := .next (s.requestPower .run)
/-- POWER_REQ_HOLD (R500). -/
def execPowerReqHold (s : State) : Res := .next (s.requestPower .hold)
/-- POWER_REQ_BREATH (R500). -/
def execPowerReqBreath (s : State) : Res := .next (s.requestPower .breath)
/-- POWER_REQ_OFF (R500). -/
def execPowerReqOff (s : State) : Res := .next (s.requestPower .off)

/-- Whether any engine runs a firing. -/
def State.anyFiring (s : State) : Bool := s.engines.any (fun p => p.2.cur.isSome)

/-- Tuning passes in progress are abandoned, to be due at once when Run returns (R415). -/
def State.abandonPasses (s : State) : State :=
  let running := (s.tune.filter (fun p => decide (p.2.st = .running))).map (·.1)
  let s1 := s.forEach running (fun t u => (t.setTune u { t.tuneUnit u with st := .takeover, rep := false }).releaseQuad u)
  let s2 := { s1 with engines := s1.engines.map (fun (p : Nat × Engine) => (p.1, { p.2 with tuning := false })) }
  if running.isEmpty then s else s2.raise .tun 2

/-- HOLD_REACHED (R500): every running firing has ended; a request for Breath or Off goes on to it. -/
def execHoldReached (s : State) : Res :=
  .next (
    if s.pwr.st = .run ∧ s.anyFiring = false then
      let s1 := s.abandonPasses
      match s.pwr.change with
      | some .hold => { s1.clearShort allEnds with pwr := { s1.pwr with st := .hold, change := none } }
      | some .breath => s1.enterBreath
      | some .off => s1.enterOff
      | _ => s
    else s)

/-- A die that does not come up, at a wake from Breath, goes down as one does in service (R469, R518). -/
def State.wakeFail (s : State) (d : Die) : State := (s.dieDown d 4).raise .tol 0

/-- The dies that a wake from Breath brings up: one that was down before stays down until the next start, and one that has stopped starts nothing (R469, R476). -/
def State.wakeDies (s : State) (r : StartReport) : State :=
  let all : List Die := (List.finRange 3).map .base ++ (List.finRange 12).map .compute
  let live := all.filter (fun d => (s.die d.num).asleep)
  let s1 := s.forEach live (fun t d => t.updDie d.num (fun x => { DieSt.started (match d with | .base _ => 560 | .compute _ => 0) with stopped := x.stopped }))
  s1.forEach (live.filter (fun d => r.deadDies.contains d)) State.wakeFail

/-- The links brought up again after Breath; a bundle disabled or retired before stays so until the next start (R456, R459). -/
def State.wakeLinks (s : State) (r : StartReport) : State :=
  (s.startLinks r).forEach allEnds (fun t e => let x := t.link e; t.setLink e { x with enabled := x.enabled &&& (s.link e).enabled, retired := (s.link e).retired })

/-- A link left with no bundle in use takes its far die down (R457, R461). -/
def State.wakeDeadLinks (s : State) : State :=
  s.forEach allEnds (fun t e => let x := t.link e; if x.up && (List.range 16).all (fun b => !x.uses b) then t.wakeFail e.farDie else t)

/-- FENCED shown again for the arrays that are fenced until the next start (R139, R417). -/
def State.showFenced (s : State) : State :=
  s.forEach (List.finRange 192) (fun t n => if (t.tuneUnit (4 * n.val)).fenced then t.setBits (.mxa n) 0x040 (BitVec.ofNat 32 (2 ^ 21)) (2 ^ 21) else t)

/-- The return from Breath, which is no start (R103, R139, R469, R505, R518): dies, links, GDDR7 and ports come up again over retained HBM under the repair records of the last start; a die that fails now is down, its base die's HBM with it. The bench tier stays unusable where it was (R517). DESIGN CHOICE (log entry 20): a GDDR7 training failure here changes BENCH_BYTES and counts as a capability change, which R103 does not list. -/
def State.wakeBreath (s : State) (r : StartReport) : State :=
  let s1 := s.wakeDies r
  if !s1.baseUp 1 then { s1 with start := { s1.start with step := 5, ready := false } }
  else
    let s2 := (((s1.wakeLinks r).wakeDeadLinks).writeArrays).showFenced
    let s3 := ({ s2 with start := { s2.start with benchOk := s2.start.benchOk && r.badGddr.isEmpty } }).failGddr r
    let s4 := ((({ s3 with pwr := { s3.pwr with inputW := r.inputW } }).startCxl r).startPorts r).coolStart.startRamp
    if s.start.benchOk && !s4.start.benchOk then s4.capChanged else s4

/-- Base die 1 lost in service stays down in a return from Off as well: only a module reset brings it back (R476). -/
def State.offReport (s : State) (r : StartReport) : StartReport :=
  if (s.die 13).up || (s.die 13).asleep then r else { r with deadDies := .base 1 :: r.deadDies }

/-- WAKE_COMPLETE (R505, R518): the wake order from Breath, or steps 5 to 12 from Off. -/
def execWakeComplete (r : StartReport) (s : State) : Res :=
  .next (
    if s.pwr.change = some .run then
      match s.pwr.st with
      | .breath => s.wakeBreath r
      | .off => (s.offStart r).bringUp (s.offReport r)
      | _ => s
    else s)

/-! ### The Breath sampler (R502 to R504, R512) -/

/-- Sensors whose samples are compared as signed degrees (R503). -/
def signedSensor (i : Nat) : Bool := decide (i < 15) || decide (19 ≤ i)

/-- Whether a sample lies outside its window; both bounds belong to it (R503). -/
def crosses (i : Nat) (v lo hi : U16) : Bool :=
  if signedSensor i then decide (sampleOf v < sampleOf lo) || decide (sampleOf hi < sampleOf v)
  else decide (v.toNat < lo.toNat) || decide (hi.toNat < v.toNat)

/-- The sensors that cross, as a mask and as a list. -/
def PowerSt.crossing (p : PowerSt) (samples : List U16) : List Nat :=
  (List.range 24).filter (fun i => crosses i (samples.getD i 0) (p.brtLow.getD i 0) (p.brtHigh.getD i 0))

def maskOf (l : List Nat) : Nat := l.foldl (fun m i => m ||| 2 ^ i) 0

/-- BRT_PERIOD in force: 0 acts as 1, a value above 10,000 as 10,000 (R512). -/
def State.breathMs (s : State) : Nat := max 1 (min 10000 (s.field .brt 0x040 0 14))

/-- BREATH_SAMPLE (R502 to R504): a crossing sets its bit, asserts ALERT_N, is recorded, and returns the module to Run where RESUME is set. -/
def execBreathSample (samples : List U16) (s : State) : Res :=
  .next (
    if s.pwr.st = .breath then
      let l := s.pwr.crossing samples
      let s1 := ({ s with pwr := { s.pwr with brtLast := (List.range 24).map (fun i => samples.getD i 0), clockMs := s.pwr.clockMs + s.breathMs } }).countWrap .brt 0x058
      if l.isEmpty then s1
      else
        let s2 := ((s1.setReg .brt 0x050 (s1.reg .brt 0x050 ||| BitVec.ofNat 32 (maskOf l))).raise .brt 0).record { kind := 0x23, outcome := 0, detail := maskOf l :: l.map (fun i => (samples.getD i 0).toNat) }
        let s3 := s2.alertFrom s
        if s3.field .brt 0x054 0 1 = 1 ∧ s3.pwr.change = none then { s3 with pwr := { s3.pwr with change := some .run } } else s3
    else s)

/-- BRT_CROSS_CLEAR (R504, R512). -/
def execBrtCrossClear (v : U32) (s : State) : Res :=
  .next (if s.hostReach then (s.setReg .brt 0x050 (s.reg .brt 0x050 &&& ~~~(v &&& 0xFFFFFF))).alertFrom s else s)

/-! ### Coolant, leak and input (R506 to R508, R606, R607) -/

/-- FLOW_TACH_WINDOW (R606): edges of a 1 s window times 60, saturating. -/
def execFlowTachWindow (edges : Nat) (s : State) : Res :=
  .next (if s.start.powered then { s with pwr := { s.pwr with mlpm := min 65535 (edges * 60) } } else s)

/-- FLOW_LOW_DETECTED (R506): flow below PWR_FLOW_MIN for 1 s, C held at 450 W; without effect once a leak has forced Off (R607). -/
def execFlowLowDetected (s : State) : Res :=
  .next (
    if s.start.powered ∧ s.pwr.flowLow = false ∧ s.pwr.leak = false ∧ s.pwr.mlpm < s.field .pwr 0x054 0 16 then
      let s1 := (({ s with pwr := { s.pwr with flowLow := true } }).record { kind := 0x22, detail := [s.pwr.mlpm, s.field .pwr 0x054 0 16] }).raise .pwr 2
      if s.pwr.st = .run then s1.swellCompute else s1
    else s)

/-- FLOW_RESTORED (R506): the hold ends after 10 s of flow at or above PWR_FLOW_MIN. -/
def execFlowRestored (s : State) : Res :=
  .next (
    if s.pwr.flowLow = true ∧ s.field .pwr 0x054 0 16 ≤ s.pwr.mlpm then
      let s1 := { s with pwr := { s.pwr with flowLow := false } }
      if s.pwr.st = .run then s1.swellCompute else s1
    else s)

/-- A forced Off (R508): active streams fail, an update session ends (R539), and Off is reached without the busy check as soon as every engine stands at a firing boundary. -/
def State.forcedOff (s : State) : State :=
  let act := (s.streams.filter (fun p => p.2.active)).map (·.1)
  let s1 : State := { s.forEach act (fun t n => t.forceFail n S_PWR_FORCED_OFF unitNone) with fw := none }
  if decide (s.pwr.st = .run) && s1.anyFiring then { s1 with pwr := { s1.pwr with change := some .off } } else s1.enterOff

/-- LEAK_DETECTED (R506, R508, R607): LEAK_N low for 1 ms. -/
def execLeakDetected (s : State) : Res :=
  .next (
    if s.start.powered ∧ s.pwr.leak = false then
      let s1 := ({ s with pwr := { s.pwr with leak := true, flowLow := false } }).alertFrom s
      let s2 := (s1.record { kind := 0x21, detail := [s.pwr.st.code] }).raise .pwr 3
      if s.pwr.st = .off ∧ s.pwr.change = none then s2 else s2.forcedOff
    else s)

/-- LEAK_DETECT_RELEASED (R504, R508). -/
def execLeakDetectReleased (s : State) : Res :=
  .next (if s.pwr.leak then ({ s with pwr := { s.pwr with leak := false } }).alertFrom s else s)

/-- INPUT_UNDERVOLTAGE (R506, R600): as on loss of the 42 V input: nothing stays but the SPI NOR and the fuses. -/
def execInputUndervoltage (s : State) : Res :=
  .next (({ State.reset with pending := s.pending, out := s.out, free := s.free, nextReq := s.nextReq, flash := s.flash } : State).alertFrom s)

end Sys2Proof.Machine
end

