-- ==== Sys2Proof/Machine/MemOps.lean ====
section
/-! DEFINITION. Memory controllers (R213 to R224, R237 to R242): the ECC outcome of reads, temperature bands, scrubbing and injection; and the region tables (R232 to R236). -/

namespace Sys2Proof.Machine

/-! ### Controllers -/

def MemDev.page : MemDev → Page
  | .hbm k => .hbc k
  | .gddr g => .gdc g

/-- UNIT of an error record for a controller (R441): type 8 and the page instance; the memory kind tells HBM from GDDR7. -/
def MemDev.unit : MemDev → U16
  | .hbm k => unitOther 8 k.val
  | .gddr g => unitOther 8 (g.val)

/-- Memory kind of record 0x03 (R442). -/
def MemDev.kind : MemDev → Nat
  | .hbm _ => 0
  | .gddr _ => 1

/-- The base die that serves a device. -/
def MemDev.base : MemDev → Nat
  | .hbm k => baseOfStack k.val
  | .gddr g => baseOfGddr g.val

/-- The controller of a device address, the reserved areas included (R209, R221). -/
def devOf (a : Nat) : Option MemDev :=
  if a < hbmEnd then (finOf 16 (a / stackSize)).map .hbm
  else if inBench a then (finOf 32 (gddrOf a)).map .gddr
  else none

/-- An uncorrectable error found at an address (R215, R238): counted, its address kept; `bit` is the ERR_STAT bit it sets. -/
def State.countUncorr (s : State) (d : MemDev) (addr bit : Nat) : State :=
  ((s.countSat d.page 0x050).setPair d.page 0x060 addr).raise d.page bit

/-- The same, with the error record of R215. -/
def State.noteUncorr (s : State) (d : MemDev) (addr bit : Nat) : State :=
  (s.countUncorr d addr bit).record { kind := 0x03, code := S_MEM_UNCORR, unit := d.unit, addr := addr, detail := [d.kind] }

/-- A corrected error (R214, R240). -/
def State.noteCorr (s : State) (d : MemDev) : State := (s.countSat d.page 0x04C).raise d.page 0

/-- The controllers a run of bytes meets, each with the first address there. -/
def devsOf (a n : Nat) : List (MemDev × Nat) :=
  ((List.range (blocksOf a n).2).filterMap (fun i =>
    let x := max a (((blocksOf a n).1 + i) * 2048)
    (devOf x).map (fun d => (d, x)))).foldl (fun (l : List (MemDev × Nat)) p => if l.any (fun q => decide (q.1 = p.1)) then l else l ++ [p]) []

/-- The lines with an uncorrectable error that a read meets, by address, in rising order. -/
def Memory.badIn (m : Memory) (a n : Nat) : List Nat :=
  (sortBy (fun x y => decide (x ≤ y)) (m.bad.filter (fun l => decide (l * 64 < a + n) && decide (a < l * 64 + 64)))).map (fun l => l * 64)

/-- What was mended in an access that went well: a corrected error, and in GDDR7 up to four retries of a burst (R214, R222). Of SRAM it is counted alone (R227). -/
def State.readNote (s : State) (x : ReadNote) : State :=
  match devOf x.addr with
  | some d =>
    let s1 := if x.corrected then s.noteCorr d else s
    (match d with
    | .gddr g => if x.retries ≤ 4 then s1.countSat (.gdc g) 0x070 x.retries else s1
    | .hbm _ => s1)
  | none => if x.corrected ∧ inSram x.addr then { s with sramCorr := s.sramCorr + 1 } else s

/-- Whether an error lies on a line that a run of bytes touches. -/
def Upset.within (x : Upset) (a n : Nat) : Bool := decide (x.line * 64 < a + n) && decide (a < x.line * 64 + 64)

/-- The errors that a read meets: mended, and gone with that (R215, R222, R227). -/
def State.meetUpsets (s : State) (a n : Nat) : State :=
  let l := s.upsets.filter (fun x => x.within a n)
  if l.isEmpty then s
  else { s.forEach l (fun t x => t.readNote ⟨x.line * 64, x.corrected, x.retries⟩) with upsets := s.upsets.filter (fun x => !x.within a n) }

/-- A read of a run of bytes at the controllers (R214, R215, R242): every armed injection there acts and clears; the addresses of the uncorrectable errors met, first those that injections report. -/
def State.eccMeets (s : State) (a n : Nat) : State × List Nat :=
  let ds := devsOf a n
  let s1 := (s.meetUpsets a n).forEach ds (fun t p => if t.armed p.1.page 0 then (t.noteCorr p.1).disarm p.1.page 0 else t)
  let hit := ds.filter (fun p => s1.armed p.1.page 1)
  (s1.forEach hit (fun t p => t.disarm p.1.page 1), hit.map (·.2) ++ s.mem.badIn a n)

/-- A demand read of an engine, or of the module for itself: every uncorrectable error counted and recorded, one in SRAM recorded; the address of the first (R215, R227). -/
def State.eccRead (s : State) (a n : Nat) : State × Option Nat :=
  let r := s.eccMeets a n
  (r.1.forEach r.2 (fun t x => match devOf x with
    | some d => t.noteUncorr d x 1
    | none => t.record { kind := 0x03, code := S_MEM_UNCORR, addr := x, detail := [2] }), r.2.head?)

/-- A host read: its uncorrectable errors are counted as for any read, and its record is that of R563. -/
def State.eccHostRead (s : State) (a n : Nat) : State × Option Nat :=
  let r := s.eccMeets a n
  (r.1.forEach r.2 (fun t x => match devOf x with | some d => t.countUncorr d x 1 | none => t), r.2.head?)

/-! ### Writes at the controllers -/

/-- The parts of the blocks at a write's ends that it leaves as they are: the controller reads them for the tag (R217). -/
def restOf (a n : Nat) : List (Nat × Nat) :=
  let lo := a / 2048 * 2048
  let hi := (a + n + 2047) / 2048 * 2048
  if n = 0 ∨ taggable a = false then [] else ([(lo, a - lo), (a + n, hi - (a + n))]).filter (fun x => decide (0 < x.2))

/-- What a write does at the controllers beside storing: the reads for the tags of blocks written in part (R217), a line's own rest among them, and bursts repeated (R222). Errors in lines written whole are gone. DEDUCED (log entry 54): an uncorrectable error that a controller's own read meets is counted and recorded as R215 says and ends no firing, for no engine issued the read. -/
def State.writeBurst (s : State) (a n : Nat) : State :=
  let s1 := s.forEach (restOf a n) (fun t x => (t.eccRead x.1 x.2).1)
  let met := s1.upsets.filter (fun x => x.within a n)
  if met.isEmpty then s1
  else { s1.forEach met (fun t x => t.readNote ⟨x.line * 64, false, x.retries⟩) with upsets := s1.upsets.filter (fun x => !x.within a n) }

/-- Bytes written through the controllers without a tag of their own (R217). -/
def State.writeMem (s : State) (a : Nat) (bs : List U8) : State :=
  let s1 := s.writeBurst a bs.length
  { s1 with mem := s1.mem.write a bs }

/-- A whole block written with its tag (R217). -/
def State.writeMemTagged (s : State) (a : Nat) (bs : List U8) (t : U32) : State :=
  let s1 := s.writeBurst a bs.length
  { s1 with mem := s1.mem.writeTagged a bs t }

/-- Several writes in order. -/
def State.writeMemAll (s : State) (ws : List (Nat × List U8)) : State := s.forEach ws (fun t w => t.writeMem w.1 w.2)

/-! ### Errors that come of themselves -/

/-- An error comes over a line of a memory that the module has (R214, R222, R227). -/
def State.upset (s : State) (line kind : Nat) : State :=
  if (devOf (line * 64)).isSome ∨ inSram (line * 64) = true then
    if kind ≤ 4 then { s with upsets := s.upsets ++ [⟨line, decide (kind = 0), kind⟩] } else { s with mem := s.mem.spoil line }
  else s

/-- What happens at a step with no command waiting: memory may take an error. DESIGN CHOICE (log entry 7): every other event of time is a command. -/
def State.idle (s : State) : State :=
  match Config.freeUpset s.free with
  | some x => s.draw.upset x.1 x.2
  | none => s.draw

/-! ### Temperature bands (R218, R219, R223) -/

/-- Lower bound of a band. -/
def bandLow (b : Nat) : Nat := if b = 1 then 85 else if b = 2 then 95 else if b = 3 then 105 else 0

/-- The band after a reading: entered at its lower bound, left 2 °C beneath it (R218). -/
def bandNext (old t : Nat) : Nat :=
  let holds (b : Nat) : Bool := if b ≤ old then decide (b = 0) || decide (bandLow b < t + 2) else decide (bandLow b ≤ t)
  if holds 3 then 3 else if holds 2 then 2 else if holds 1 then 1 else 0

/-- HBC_TEMP or GDC_TEMP (R240). -/
def tempWord (deg band : Nat) (bad : Bool) : U32 :=
  packFields [(deg, 0, 8), (band, 8, 2), (if band = 3 then 1 else 0, 10, 1), (if bad then 1 else 0, 11, 1)]

/-- A 1 ms temperature reading of a memory device. -/
def State.tempSample (s : State) (d : MemDev) (t : Option (BitVec 8)) : State :=
  if !s.baseUp d.base then s
  else
    let pg := d.page
    let old := s.field pg 0x044 8 2
    match t with
    | none => (s.setReg pg 0x044 (tempWord (s.field pg 0x044 0 8) 2 true)).raise pg 4
    | some c =>
      let b := bandNext old c.toNat
      let s1 := s.setReg pg 0x044 (tempWord c.toNat b false)
      let s2 := if (s1.reg pg 0x048).toNat < c.toNat then s1.setReg pg 0x048 (c.zeroExtend 32) else s1
      let s3 := if b = 3 then s2.countSat pg 0x068 else s2
      if b = 3 ∧ old ≠ 3 then s3.raise pg 2 else s3

/-- A stack at 115 °C trips the base die that serves it (R506). -/
def State.stackTrip (s : State) (k : Nat) (t : Nat) : State :=
  if 115 ≤ t ∧ s.baseUp (baseOfStack k) then
    let s1 := (s.record { kind := 0x20, detail := [16 + k, t] }).raise .pwr 1
    (match finOf 3 (baseOfStack k) with | some b => s1.noticeReset (.base b) | none => s1).baseDown (baseOfStack k) 2
  else s

/-- HBM_TEMP_SAMPLE (R218, R219, R506). -/
def execHbmTempSample (k : Fin 16) (t : Option (BitVec 8)) (s : State) : Res :=
  let s1 := s.tempSample (.hbm k) t
  .next (match t with | some c => s1.stackTrip k.val c.toNat | none => s1)

/-- GDDR7_TEMP_SAMPLE (R223). -/
def execGddr7TempSample (g : Fin 32) (t : Option (BitVec 8)) (s : State) : Res := .next (s.tempSample (.gddr g) t)

/-- HBC_CLEAR_MAX (R240, R241): the highest reading starts again from the current one. -/
def execHbcClearMax (d : MemDev) (s : State) : Res :=
  .next (if s.hostReach ∧ s.baseUp d.base then s.setReg d.page 0x048 (BitVec.ofNat 32 (s.field d.page 0x044 0 8)) else s)

/-- A host access reaches a page of an up base die. -/
def State.devReach (s : State) (d : MemDev) : Bool := s.hostReach && s.baseUp d.base

/-- INJECT_MEM_CORR (R242). -/
def execInjectMemCorr (d : MemDev) (s : State) : Res := .next (if s.devReach d then s.arm d.page 0 else s)
/-- INJECT_MEM_UNCORR (R242). -/
def execInjectMemUncorr (d : MemDev) (s : State) : Res := .next (if s.devReach d then s.arm d.page 1 else s)

/-! ### Scrubbing (R237 to R239) -/

/-- Granules of a device: 4 KiB of a stack, 2 KiB of a GDDR7 device (R240, R241). -/
def MemDev.granules : MemDev → Nat
  | .hbm _ => 0xC00000
  | .gddr _ => 0x200000

/-- Device address and bytes of a granule. -/
def MemDev.granuleAt (d : MemDev) (i : Nat) : Nat × Nat :=
  match d with
  | .hbm k => (k.val * stackSize + i * 4096, 4096)
  | .gddr g => (benchBase + (i * 32 + g.val) * 2048, 2048)

/-- One line of a granule scrubbed (R237, R238): an armed injection of the page acts on it and clears, a correctable error is corrected, an uncorrectable one counted, recorded and left in the line (R215, R242). -/
def State.scrubLine (s : State) (d : MemDev) (a : Nat) (find : Option ScrubFind) : State :=
  let pg := d.page
  let s0 := s.meetUpsets a 64
  let s1 := if s0.armed pg 0 then (s0.noteCorr d).disarm pg 0 else s0
  let inj := s1.armed pg 1
  let s2 := if inj then (s1.noteUncorr d a 3).disarm pg 1 else s1
  if s2.mem.bad.contains (a / 64) then (if inj then s2 else s2.noteUncorr d a 3)
  else
    match find with
    | some x =>
      if x.uncorrectable then
        let s3 : State := { s2 with mem := s2.mem.spoil (a / 64) }
        if inj then s3 else s3.noteUncorr d a 3
      else s2.noteCorr d
    | none => s2

/-- The scrub's position moved to the next granule, a completed pass counted (R237, R240). -/
def State.scrubNext (s : State) (d : MemDev) : State :=
  let pos := s.field d.page 0x058 0 24
  if pos + 1 < d.granules then s.setReg d.page 0x058 (BitVec.ofNat 32 (pos + 1))
  else (s.setReg d.page 0x058 0).countWrap d.page 0x05C

/-- MEMORY_SCRUB_READ (R237, R238): the lines of the next granule are read in ascending order; nothing happens while the period is 0. GDDR7 bursts may have been retried (R222). -/
def execMemoryScrubRead (d : MemDev) (found : List ScrubFind) (retries : Nat) (s : State) : Res :=
  let g := d.granuleAt (s.field d.page 0x058 0 24)
  .next (
    if !s.baseUp d.base || decide (s.field d.page 0x054 0 8 = 0) then s
    else
      let s1 := s.forEach (List.range (g.2 / 64)) (fun t i => t.scrubLine d (g.1 + 64 * i) (found.find? (fun (x : ScrubFind) => decide (x.line = i))))
      (s1.readNote ⟨g.1, false, retries⟩).scrubNext d)

/-- First address, bytes and die of a staging SRAM (0 to 2) or of core `m - 3`'s tile SRAM (R209). -/
def sramAt (m : Nat) : Nat × Nat × Nat :=
  if m < 3 then (stagingBase + m * 0x10000000, 0x10000000, 12 + m) else (tileBase + (m - 3) * 0x400000, 0x400000, (m - 3) / 16)

/-- SRAM_SCRUB_READ (R227, R237, R238): the next 64-bit word of an SRAM is read, in ascending order, while its die is up. SRAM has no controller page, so an uncorrectable word shows in the error record alone. -/
def execSramScrubRead (m : Fin 195) (ecc : EccRead) (s : State) : Res :=
  let x := sramAt m.val
  let pos := SMap.get scrubDefault s.sramScrub m.val
  .next (
    if (s.die x.2.2).up then
      let s0 := s.meetUpsets (x.1 + 8 * pos) 8
      let s1 := match ecc with
        | .uncorrectable => s0.record { kind := 0x03, code := S_MEM_UNCORR, addr := x.1 + 8 * pos, detail := [2] }
        | .corrected => s0.readNote ⟨x.1 + 8 * pos, true, 0⟩
        | .clean => s0
      { s1 with sramScrub := SMap.set scrubDefault s1.sramScrub m.val (if 8 * (pos + 1) < x.2.1 then pos + 1 else 0) }
    else s)

/-! ### Region tables (R232 to R236) -/

/-- Reasons of R235. -/
def reasonBounds : Nat := 1
def reasonRange : Nat := 2
def reasonOverlap : Nat := 3
def reasonBusy : Nat := 4
def reasonLocked : Nat := 5

/-- Valid regions of VALID jobs other than `j`, as (job, region). -/
def State.otherRegions (s : State) (j : Nat) : List (Nat × Region) :=
  (s.regions.filter (fun p => p.2.valid && decide (p.1 / 64 ≠ j) && (s.job (p.1 / 64)).valid)).map (fun p => (p.1 / 64, p.2))

/-- OVERLAP (R235). -/
def State.regionOverlaps (s : State) (j : Nat) (r : Region) : Bool :=
  (s.otherRegions j).any (fun p => meets r.lo r.hi p.2.lo p.2.hi && (p.2.wr || r.wr || (s.job p.1).descant || (s.job j).descant))
    || s.heldMeets r.lo r.hi

/-- Whether a region's range is a permitted one: no bench tier while a base die is down, no main store of a down one (R224, R232, R475). -/
def State.rangeOk (s : State) (r : Region) : Bool := inOneRange r.lo r.hi && !s.memDown r.lo

/-- The first reason for which setting VALID is refused (R235). -/
def State.regionRefusal (s : State) (j : Nat) (r : Region) : Option Nat :=
  if s.jobBusy j then some reasonBusy
  else if r.limit < r.base ∨ 0x40000000000 ≤ r.limit - r.base then some reasonBounds
  else if !s.rangeOk r then some reasonRange
  else if s.regionOverlaps j r then some reasonOverlap
  else none

/-- A refused change (R235, R236). -/
def State.refuseRegion (s : State) (j n reason : Nat) : State :=
  (s.setReg .stmRgn 0x058 (packFields [(reason, 0, 3), (j, 3, 8), (n, 11, 6)])).raise .stmRgn 0

def State.rgnJob (s : State) : Nat := s.field .stmRgn 0x040 0 8
def State.rgnNum (s : State) : Nat := s.field .stmRgn 0x040 8 6

/-- A write of STM_RGN_CTRL (R235). -/
def State.regionCtrl (s : State) (v : U32) : State :=
  let j := s.rgnJob
  let n := s.rgnNum
  let r := s.region j n
  let w : Region := { r with rd := v.toNat.testBit 1, wr := v.toNat.testBit 2 }
  if r.valid then
    if v.toNat.testBit 0 then (if w = r then s else s.refuseRegion j n reasonLocked)
    else if s.jobBusy j then s.refuseRegion j n reasonBusy
    else s.setRegion j n { w with valid := false }
  else if v.toNat.testBit 0 then
    match s.regionRefusal j w with
    | some k => (s.setRegion j n w).refuseRegion j n k
    | none => s.setRegion j n { w with valid := true }
  else s.setRegion j n w

/-- REGION_VALID_SET (R235). -/
def execRegionValidSet (v : U32) (s : State) : Res := .next (if s.hostReach then s.regionCtrl (v ||| 1) else s)
/-- REGION_VALID_CLEAR (R235). -/
def execRegionValidClear (v : U32) (s : State) : Res := .next (if s.hostReach then s.regionCtrl (v &&& ~~~1#32) else s)

/-- A write of BASE or LIMIT as one value, multiples of 2,048 (R232, R235). -/
def State.regionBounds (s : State) (limit : Bool) (v : Nat) : State :=
  let j := s.rgnJob
  let n := s.rgnNum
  let r := s.region j n
  let a := v % 0x1000000000000 / 2048 * 2048
  if r.valid then s.refuseRegion j n reasonLocked
  else s.setRegion j n (if limit then { r with limit := a } else { r with base := a })

/-- REGION_BOUNDS_WRITE (R14, R235). -/
def execRegionBoundsWrite (limit : Bool) (v : U48) (s : State) : Res := .next (if s.hostReach then s.regionBounds limit v.toNat else s)


end Sys2Proof.Machine
end

