-- ==== Sys2Proof/Machine/ModuleOps.lean ====
section
/-! DEFINITION. The operations that base die 1 carries out for a job as a whole: quorum slots and liveness (R378 to R389), clean tokens, the clean horizon and retracts (R419 to R430), the unison table (R431 to R438), and the bytes of an error record (R441). -/

namespace Sys2Proof.Machine

/-- A value put under a key of a list kept by rising keys. -/
def putKey {β : Type} (m : List (Nat × β)) (k : Nat) (v : β) : List (Nat × β) := SMap.ins (SMap.del m k) k v

def getKey {β : Type} (m : List (Nat × β)) (k : Nat) : Option β := (m.find? (fun (p : Nat × β) => decide (p.1 = k))).map (·.2)

/-- A number put into a rising list without repeats. -/
def putSorted : Nat → List Nat → List Nat
  | n, [] => [n]
  | n, m :: l => if n < m then n :: m :: l else if n = m then m :: l else m :: putSorted n l

/-! ### Quorum slots (R378, R383, R384) -/

/-- The quorum slot a job holds. -/
def State.slotOf (s : State) (j : Nat) : Option Nat :=
  (List.range 8).find? (fun i => (s.slot i).valid && decide ((s.slot i).job = j))

def Slot.count (x : Slot) : Nat := x.seats.length

/-- L, the number of live seats. -/
def Slot.live (x : Slot) : Nat := x.count - x.dead.length

/-- R384. -/
def Slot.holdsQuorum (x : Slot) : Bool :=
  decide (x.count < 2 * x.live) || (decide (2 * x.live = x.count) && !x.dead.contains 0)

/-- Whether a job has a slot without quorum (R385, R386). -/
def State.quorumLost (s : State) (j : Nat) : Bool :=
  match s.slotOf j with
  | some i => !(s.slot i).quorum
  | none => false

/-- The job mirrored over the twin link (R376). -/
def State.twinJob (s : State) : Nat := s.field .twn 0x040 5 8
def State.twinRegion (s : State) : Nat := s.field .twn 0x040 13 6

/-- Mirroring of a job stops (R370, R389). -/
def State.stopTwinOf (s : State) (j : Nat) : State := if s.twinOn && decide (s.twinJob = j) then s.stopTwin else s

/-- Mirroring stops when the mirrored job's key slot comes to hold key 0 (R370). -/
def State.checkTwinKey (s : State) : State := if s.twinOn && decide (s.jobKey s.twinJob = 0) then s.stopTwin else s

/-- QUORUM after liveness has changed: a loss is counted, sets ERR_STAT bit 1 and stops the mirror (R385, R389); regaining it sets the bit again (R387). -/
def State.checkQuorum (s : State) (i : Nat) : State :=
  let x := s.slot i
  if !x.valid then s
  else if x.quorum && !x.holdsQuorum then
    ((s.setSlot i { x with quorum := false, losses := x.losses + 1 }).raise .stmQrm 1).stopTwinOf x.job
  else s.setSlot i { x with quorum := x.holdsQuorum }

/-- The endpoint of a seat. -/
def Slot.endpoint (x : Slot) (seat : Nat) : Option Nat := x.seats[seat]?

/-- The tests of R382 on a frame that names a seat: the slot it counts for. -/
def State.seatFrame (s : State) (f : Frame) (seat : Nat) : Option Nat :=
  match s.jobOfKey f.jobKey with
  | some j =>
    match s.slotOf j with
    | some i => if (s.slot i).endpoint seat = some f.src then some i else none
    | none => none
  | none => none

/-- STM_QRM_MINSTEP: the lowest STEP among live seats' last counted heartbeats, and the lowest seat that reported it. -/
def Slot.minStep (x : Slot) : Nat × Nat :=
  (x.steps.filter (fun (p : Nat × U48) => !x.dead.contains p.1)).foldl
    (fun (m : Option (Nat × Nat)) (p : Nat × U48) => match m with
      | some (v, seat) => if p.2.toNat < v then some (p.2.toNat, p.1) else some (v, seat)
      | none => some (p.2.toNat, p.1)) none |>.getD (0, 0)

/-- STM_QRM_DEAD.SEAT, with NONE in bit 16. -/
def Slot.firstDead (x : Slot) : Nat := match x.dead with | d :: _ => d | [] => 0x10000

/-- One word of the liveness map (R397). -/
def Slot.mapWord (x : Slot) (w : Nat) : U32 :=
  BitVec.ofNat 32 ((List.range 32).foldl (fun m i => if 32 * w + i < x.count ∧ !x.dead.contains (32 * w + i) then m + 2 ^ i else m) 0)

/-- A slot freed: its seat list goes, its HB_MISS and its count of losses stay. -/
def Slot.freed (x : Slot) : Slot := { Slot.empty with hbMiss := x.hbMiss, losses := x.losses }

/-- A class-0 frame of the module itself for a job, with its key and its active phase (R331). -/
def State.jobFrame (s : State) (j type dst : Nat) (payload : List U8) : Frame :=
  { frameOf type 0 dst s.selfId (s.jobKey j) payload with phase := (s.job j).phase }

/-- The frame of a class-0 broadcast of the module itself for a job (R381). -/
def State.ownBroadcast (s : State) (j type : Nat) (payload : List U8) : Frame :=
  { s.jobFrame j type s.selfId payload with bcast := true }

/-! ### The clean horizon (R422 to R427) -/

/-- Whether a token vouches for a step (R424, R426). -/
def Token.covers (t : Token) (u : Nat) : Bool := t.passive || (!t.none && decide (u ≤ t.step))

/-- Whether a seat's held token covers a step. -/
def Slot.covers (x : Slot) (seat u : Nat) : Bool :=
  match getKey x.tokens seat with
  | some t => t.covers u
  | none => false

/-- The steps that the other seats' tokens let pass: none at all, any, or those up to one. -/
def Slot.othersPass (x : Slot) (own : Nat) : Option Nat :=
  (List.range x.count).foldl (fun (m : Option Nat) seat =>
    if seat = x.self then m else
    match m, getKey x.tokens seat with
    | some v, some t => if t.passive then some v else if t.none then none else some (min v t.step)
    | _, _ => none) (some own)

/-- The highest step whose clean horizon the tokens at hand let pass (R426). -/
def State.horizonNow (s : State) (j : Nat) : Option Nat :=
  match (s.job j).cleanSent with
  | none => none
  | some own =>
    match s.slotOf j with
    | some i => (s.slot i).othersPass own
    | none => some own

def maxOpt (a b : Option Nat) : Option Nat :=
  match a, b with
  | some x, some y => some (max x y)
  | some x, none => some x
  | none, y => y

/-- The job's horizon after its tokens have changed; one that has passed stays passed (R426). -/
def State.checkHorizon (s : State) (j : Nat) : State := s.updJob j (fun x => { x with horizon := maxOpt x.horizon (s.horizonNow j) })

/-- GRN_HORIZON_WAIT: the lowest seat that holds the next step back, own seat included; bit 16 is NONE (R445). -/
def State.horizonWait (s : State) (j : Nat) : Nat :=
  let next := match (s.job j).horizon with | some h => h + 1 | none => 0
  match s.slotOf j with
  | some i =>
    let x := s.slot i
    let own := match (s.job j).cleanSent with | some c => decide (next ≤ c) | none => false
    ((List.range x.count).find? (fun seat => if seat = x.self then !own else !x.covers seat next)).getD 0x10000
  | none => 0x10000

/-- The units that run a firing of a job. -/
def State.jobFirings (s : State) (j : Nat) : List Nat :=
  (s.engines.filter (fun (p : Nat × Engine) => match p.2.cur with | some r => decide ((s.stream r.stream).job = j) | none => false)).map (·.1)

/-- A contribution end of step `u` (R422): noted once for a step, with the firings and re-add checks it waits for (R423). -/
def State.contribEnd (s : State) (j u : Nat) : State :=
  let x := s.job j
  let known := x.contribs.any (fun c => decide (c.step = u))
  let old := match x.cleanSent with | some c => decide (u ≤ c) | none => false
  if known || old then s
  else
    let checks := (s.readds.filter (fun (r : Readd) => decide (r.job = j))).map (fun (r : Readd) => (r.base, r.id))
    s.setJob j { x with contribs := x.contribs ++ [⟨u, s.jobFirings j, checks⟩] }

/-- A re-add check has been decided well. -/
def State.clearCheck (s : State) (base id j : Nat) : State :=
  s.updJob j (fun x => { x with contribs := x.contribs.map (fun (c : ContribEnd) => { c with checks := c.checks.filter (fun p => !decide (p = (base, id))) }) })

/-- Steps whose contribution end waits for nothing more. -/
def Job.ready (x : Job) : List Nat := (x.contribs.filter (fun c => c.firings.isEmpty && c.checks.isEmpty)).map (·.step)

/-- From a retracted step on, tokens go step by step: each needs its own contribution end after the retract (R423). -/
def consecutive (l : List Nat) : Nat → Nat → Option Nat
  | 0, _ => none
  | fuel + 1, h => if l.contains h then some ((consecutive l fuel (h + 1)).getD h) else none

/-- The highest step for which R423 allows a token. -/
def Job.allowedNow (x : Job) : Option Nat :=
  let l := x.ready
  match x.held with
  | none => maxOpt x.cleanSent l.max?
  | some h => maxOpt (maxOpt x.cleanSent ((l.filter (fun u => decide (u < h))).max?)) (consecutive l (l.length + 1) h)

/-- CONTRIB and STEP of the job's CLEAN frame (R424). -/
def State.cleanPayload (s : State) (j seat : Nat) : List U8 :=
  let x := s.job j
  let opens := !(s.streamsOf j).isEmpty
  let none := opens && x.cleanSent.isNone
  leBytes 8 (x.cleanSent.getD 0) ++ leBytes 4 (seat % 0x10000 + (if opens then 0 else 0x10000) + (if none then 0x20000 else 0)) ++ leBytes 4 0

/-- The CLEAN frame sent for a job with a seat list (R424). -/
def State.sendClean (s : State) (j : Nat) : State :=
  match s.slotOf j with
  | some i => s.broadcast (s.ownBroadcast j ftClean (s.cleanPayload j (s.slot i).self))
  | none => s

/-! ### Retracts (R428 to R430) -/

/-- STEP of an UPDATE, SHADOW or PHASE node (R95). -/
def GNode.step (n : GNode) : Nat := n.attrLe 0 6

/-- The lowest STEP of any PHASE or UPDATE node the job holds (R428). -/
def State.lowestStep (s : State) (j : Nat) : Option Nat :=
  ((s.streamsOf j).flatMap (fun n => match (s.stream n).bound with
    | some b => (b.prog.nodes.filter (fun (x : GNode) => decide (x.op = opPhase) || decide (x.op = opUpdate))).map GNode.step
    | none => [])).min?

/-- STEP of a retract the module sends (R428); where the job has sent no token and holds no such node the manual names none. -/
def State.retractStep (s : State) (j : Nat) : Nat :=
  match (s.job j).cleanSent with
  | some c => c + 1
  | none => (s.lowestStep j).getD (Config.freeCount s.free).toNat

/-- Whether a retract of step `r` stands against an UPDATE that holds its record (R430). -/
def Upd.standsAgainst (u : Upd) (r : Nat) : Bool :=
  !u.castOnly && (decide (r ≤ u.step) || (match u.applies with | some a => decide (r ≤ a) | none => false))

/-- An UPDATE ended by a retract: its firing, if one runs, and its stream (R309, R430). -/
def State.retractUpd (s : State) (u : Upd) : State :=
  if s.runs (819 + u.lathe) u.stream then s.failFiring (819 + u.lathe) S_RETRACTED
  else s.failStream u.stream S_RETRACTED (unitField (819 + u.lathe))

/-- What a retract of step `r`, sent or counted, does on the module (R430), the error record apart. -/
def State.retractEffects (s : State) (j r : Nat) : State :=
  let x := s.job j
  let s1 := s.setJob j { x with retracted := if x.retracted.contains r ∨ 16 ≤ x.retracted.length then x.retracted else x.retracted ++ [r] }
  let hit := s1.upds.filter (fun (u : Upd) => decide ((s1.stream u.stream).job = j) && u.standsAgainst r)
  s1.forEach hit (fun t u => t.retractUpd u)

/-- An error record for every stream concerned, or one that names none (R430, R441, R444). DESIGN CHOICE (log entry 47): one each, so that a host finds every record that names its stream. -/
def State.recordEach (s : State) (l : List Nat) (e : Event) : State := if l.isEmpty then s.record e else s.forEach l (fun t n => t.recordStream n e)

/-- The streams whose UPDATE a retract of a step ends (R430). -/
def State.retractHits (s : State) (j r : Nat) : List Nat :=
  ((s.upds.filter (fun (u : Upd) => decide ((s.stream u.stream).job = j) && u.standsAgainst r)).map (·.stream)).dedup

/-- A retract sent for a stream's collective (R421, R423, R428, R430). -/
def State.sendRetract (s : State) (j n group first count : Nat) : State :=
  let r := s.retractStep j
  let s0 := s.draw
  let x := s0.job j
  let id := x.retractNext
  let s1 := s0.setJob j { x with
    retractNext := id + 1, held := some (match x.held with | some h => min h r | none => r)
    contribs := x.contribs.filter (fun c => decide (c.step < r))
    undone := (x.undone ++ (x.contribs.map (·.step)).filter (fun u => decide (r ≤ u))).dedup }
  let payload := leBytes 4 id.toNat ++ leBytes 4 0 ++ leBytes 8 r ++ leBytes 2 group ++ leBytes 2 0 ++ leBytes 4 first ++ leBytes 4 count ++ leBytes 4 0
  let s2 := (s1.broadcast (s1.ownBroadcast j ftRetract payload)).raise .grn 0
  (s2.retractEffects j r).recordEach (n :: (s2.retractHits j r).filter (fun m => !decide (m = n))) { kind := 0x08, job := j, step := r, detail := [id.toNat, group, first, count] }

/-! ### Groups (R352 to R354) -/

/-- The job's GROUP entry of a number whose PHASES include a phase (0 FORWARD to 3 SPARE). -/
def State.groupEntry (s : State) (j g phase : Nat) : Option WEntry :=
  (s.window j).find? (fun e => decide (e.kind = .group) && decide (e.num = g) && e.phases.testBit phase)

/-- The endpoint of a rank under the MEMBERS entries of the group's own phases. -/
def State.memberOf (s : State) (j : Nat) (e : WEntry) (rank : Nat) : Nat :=
  match (s.window j).find? (fun m => decide (m.kind = .members) && decide (m.num = e.num) && decide (m.phases = e.phases)
      && decide (m.size ≤ rank) && decide (rank < m.size + m.count)) with
  | some m => m.endpoints.getD (rank - m.size) 0
  | none => 0

/-- The unison group of a job (R431): own rank, COUNT, and the endpoints to the right and to the left. -/
def State.unisonGroup (s : State) (j : Nat) : Option (Nat × Nat × Nat × Nat) :=
  (s.groupEntry j (s.job j).uniGroup 2).map (fun e =>
    (e.base, e.count, s.memberOf j e ((e.base + 1) % e.count), s.memberOf j e ((e.base + e.count - 1) % e.count)))

/-! ### The unison table (R434 to R438) -/

/-- An entry dropped undecided. -/
def State.unmatched (s : State) (e : UniEntry) : State :=
  ((s.countSat .uni 0x064).raise .uni 4).record { kind := 0x0F, outcome := 2, job := e.job, step := e.step.toNat, detail := [e.key.toNat] }

/-- A job expelled (R436). -/
def State.expel (s : State) (j : Nat) (key : U32) (step : Nat) (own : Nat) : State :=
  let s1 := (s.updJob j (fun x => { x with expelled := true, rotating := false, rotation := [] })).raise .uni 1
  let hit := (s1.streamsOf j).filter (fun n => let x := s1.stream n; decide (x.st = .binding) || decide (x.st = .running) || decide (x.st = .frozen))
  let s2 := s1.recordEach hit { kind := 0x0B, code := S_EXPELLED, outcome := 2, job := j, step := step, detail := [key.toNat, own] }
  let s3 := s2.forEach (s2.streamsOf j) (fun t n => t.failStream n S_EXPELLED unitNone)
  let s4 := match s3.slotOf j with | some i => (s3.setSlot i (s3.slot i).freed).checkHorizon j | none => s3
  s4.stopTwinOf j

/-- A job disputed (R437). -/
def State.dispute (s : State) (e : UniEntry) (own other : Nat) : State :=
  let s1 := (s.updJob e.job (fun x => { x with disputed := true, disputeKey := e.key, disputeStep := e.step, disputeOwn := BitVec.ofNat 64 own })).raise .uni 2
  let s2 := s1.record { kind := 0x0C, code := S_DISPUTED, outcome := 2, job := e.job, step := e.step.toNat, detail := [e.key.toNat, own, other] }
  s2.forEach (s2.streamsOf e.job) (fun t n => t.failStream n S_DISPUTED unitNone)

/-- A neighbour suspected (R435). -/
def State.suspect (s : State) (e : UniEntry) (rank own other : Nat) : State :=
  ((s.countSat .uni 0x060).raise .uni 0).record
    { kind := 0x0A, outcome := 2, job := e.job, step := e.step.toNat, detail := [e.key.toNat, rank, own, other] }

/-- Verdicts of R435. -/
inductive Verdict
  | agree
  | suspectLeft
  | suspectRight
  | expelled
  | disputed
  deriving DecidableEq, Repr

/-- R435. -/
def verdictOf (n : Nat) (own left right : U64) : Verdict :=
  if own = left ∧ own = right then .agree
  else if n = 2 then .disputed
  else if own = left then .suspectRight
  else if own = right then .suspectLeft
  else if left = right then .expelled
  else .disputed

/-- Whether a unit can have a verdict in a rotation: it is not fenced and its die is up. -/
def State.testable (s : State) (u : Nat) : Bool := !(s.tuneUnit u).fenced && (s.die (unitDie u)).up

/-- The units that a rotation tests. -/
def State.rotationUnits (s : State) : List Nat := (List.range 822).filter s.testable

/-- Every tuning unit due at once with a deadline of 0 (R438, R446). -/
def State.rotateAll (s : State) : State := s.forEach s.rotationUnits (fun t u => t.dueNow u)

/-- A disputed entry compared again whose digests differ still: the member rotates until every unit has a verdict (R438). -/
def State.rotate (s : State) (j : Nat) : State := (s.updJob j (fun x => { x with rotating := true, rotation := s.rotationUnits })).rotateAll

/-- A decided entry leaves the table and has its effect (R435 to R438). -/
def State.decideUnison (s : State) (e : UniEntry) (r n : Nat) (own left right : U64) : State :=
  let x := s.job e.job
  let v := verdictOf n own left right
  let again := x.disputed && decide (x.disputeKey = e.key) && decide (x.disputeStep = e.step)
  let s1 := s.countWrap .uni 0x05C
  let l := (r + n - 1) % n
  let rt := (r + 1) % n
  if again && !decide (v = .agree) then s1.rotate e.job
  else match v with
  | .agree =>
    if again then
      (s1.updJob e.job (fun x => { x with disputed := false, rotating := false, rotation := [] })).record
        { kind := 0x0D, outcome := 2, job := e.job, step := e.step.toNat, detail := [e.key.toNat] }
    else s1
  | .suspectLeft => s1.suspect e l own.toNat left.toNat
  | .suspectRight => s1.suspect e rt own.toNat right.toNat
  | .expelled => s1.expel e.job e.key e.step.toNat own.toNat
  | .disputed => s1.dispute e own.toNat left.toNat

/-- Decides an entry once it holds its own digest and every neighbour's (R434). -/
def State.tryDecide (s : State) (e : UniEntry) : State :=
  match s.unisonGroup e.job, e.own, e.left, e.right with
  | some (r, n, _, _), some o, some a, some b =>
    ({ s with unison := s.unison.filter (fun x => !decide (x = e)) }).decideUnison e r n o a b
  | _, _, _, _ => s

/-- A digest put into the table under its key; a full table loses its oldest entry (R434). -/
def State.storeDigest (s : State) (j : Nat) (key : U32) (step : U48) (f : UniEntry → UniEntry) : State :=
  let same (e : UniEntry) : Bool := decide (e.job = j) && decide (e.key = key) && decide (e.step = step)
  match s.unison.find? same with
  | some e =>
    let e' := f e
    ({ s with unison := s.unison.map (fun x => if same x then e' else x) }).tryDecide e'
  | none =>
    let e' := f ⟨j, key, step, none, none, none⟩
    let s1 := match s.unison with
      | old :: rest => if 8192 ≤ s.unison.length then ({ s with unison := rest }).unmatched old else s
      | [] => s
    ({ s1 with unison := s1.unison ++ [e'] }).tryDecide e'

/-- The digest of a commit sent to both neighbours, once where they are one, and kept as the module's own (R432, R434). -/
def State.sendDigest (s : State) (j : Nat) (key : U32) (step : Nat) (d : U64) : State :=
  let x := s.job j
  let period := max 1 x.uniPeriod
  if !x.uniEnable || x.expelled || decide (step % period ≠ 0) then s
  else
    match s.unisonGroup j with
    | none => s.raise .uni 3
    | some (_, n, right, left) =>
      if n ≤ 1 then s
      else
        let frame (dst : Nat) : Frame := s.jobFrame j ftDigest dst (leBytes 8 d.toNat ++ leBytes 8 step ++ leBytes 4 key.toNat ++ leBytes 4 0)
        let s1 := s.send (frame right)
        let s2 := if n = 2 then s1 else s1.send (frame left)
        s2.storeDigest j key (BitVec.ofNat 48 step) (fun e => { e with own := some d })

/-! ### Error records (R441) -/

/-- The 64 bytes of an error record. -/
def ErrRec.bytes (r : ErrRec) : List U8 :=
  let stream := match r.stream with | some n => n % 0x4000 | none => 0x4000
  let body := leBytes 4 r.seq.toNat ++ leBytes 2 r.code.toNat ++ leBytes 1 r.kind ++ leBytes 1 r.outcome ++ leBytes 2 r.unit.toNat
    ++ leBytes 2 stream ++ leBytes 2 r.subSeq.toNat ++ leBytes 1 r.job ++ leBytes 1 0 ++ leBytes 8 (r.step % 0x1000000000000)
    ++ leBytes 8 r.addr ++ leBytes 8 r.time.toNat
    ++ ([0, 1, 2, 3] : List Nat).flatMap (fun i => leBytes 4 (Config.detailWord r.kind r.detail i).toNat) ++ leBytes 4 0
  body ++ leBytes 4 (crc32c body).toNat

/-- The record of a SEQ, if it is held. -/
def State.logRecord (s : State) (seq : U32) : Option ErrRec := s.log.find? (fun r => decide (r.seq = seq))

/-- GRN_LOG_TAIL: the oldest SEQ held (R445); the next one where none is. -/
def State.logTail (s : State) : U32 := match s.log with | r :: _ => r.seq | [] => s.logHead

/-- Up to `n` records from a SEQ on; from the oldest where the SEQ is older (R532, R604). -/
def State.logFrom (s : State) (seq : U32) (n : Nat) : List ErrRec :=
  let start := if aheadOf s.logTail seq then s.logTail else seq
  (s.log.filter (fun r => decide ((r.seq - start).toNat < 0x80000000))).take n

end Sys2Proof.Machine
end

