-- ==== Sys2Proof/Machine/Checks.lean ====
section
/-! DEFINITION. The binder's checks 6 to 13 of R105 on a program read from an image, each as the list of the nodes, edges or tensors at fault (R87 to R99, R106, R114, R156, R158, R181, R191 to R194, R256, R278, R281, R360, R361, R614 to R617, R622). -/

namespace Sys2Proof.Machine

/-! ### The program's parts -/

def Tensor.exts (t : Tensor) : List Nat := t.ext6.take t.rank

/-- The shards of a SHARDED tensor, in order. -/
def Program.shardsOf (p : Program) (t : Tensor) : List Shard := if t.kind = 3 then (p.shards.drop t.aux).take t.shardCount else []

def Shard.isLocal (x : Shard) : Bool := decide (x.sflags % 2 = 1)

/-- The extents under which a shard is stored (R88). -/
def Tensor.shardExts (t : Tensor) (x : Shard) : List Nat := t.exts.set t.shardAxis x.extent

def Program.localShards (p : Program) (t : Tensor) : List Shard := (p.shardsOf t).filter Shard.isLocal

/-- The extents a node other than COLLECTIVE sees: those of the one LOCAL shard of a SHARDED tensor (R617). -/
def Program.denseExts (p : Program) (t : Tensor) : List Nat :=
  match p.localShards t with
  | x :: _ => t.shardExts x
  | [] => t.exts

/-- The tensor on an input port, and on an output port. -/
def Program.inPort (p : Program) (i port : Nat) : Option Nat :=
  (p.edges.find? (fun (e : GEdge) => decide (e.dst = i ∧ e.dstPort = port ∧ e.tensor ≠ 0xFFFFFFFF))).map (·.tensor)

def Program.outPort (p : Program) (i port : Nat) : Option Nat :=
  (p.edges.find? (fun (e : GEdge) => decide (e.src = i ∧ e.srcPort = port ∧ e.tensor ≠ 0xFFFFFFFF))).map (·.tensor)

def Program.ins (p : Program) (i : Nat) (n : GNode) : List (Option Tensor) :=
  (List.range n.inCount).map (fun k => (p.inPort i k).bind (fun t => p.tensors[t]?))

def Program.outs (p : Program) (i : Nat) (n : GNode) : List (Option Tensor) :=
  (List.range n.outCount).map (fun k => (p.outPort i k).bind (fun t => p.tensors[t]?))

/-- Numbers of the nodes, edges or tensors that a test finds wrong. -/
def badItems {β : Type} (l : List β) (bad : Nat → β → Bool) : List Nat :=
  ((l.zip (List.range l.length)).filter (fun x => bad x.2 x.1)).map (·.2)

/-! ### Paths of edges -/

/-- The nodes with an edge into a node. -/
def Program.preds (p : Program) (i : Nat) : List Nat :=
  (p.edges.filter (fun (e : GEdge) => decide (e.dst = i ∧ e.src ≠ 0xFFFF))).map (·.src)

/-- Everything reached by repeated steps from a list. -/
def reach (step : Nat → List Nat) : Nat → List Nat → List Nat → List Nat
  | 0, _, seen => seen
  | fuel + 1, todo, seen =>
    let fresh := ((todo.flatMap step).dedup).filter (fun x => !seen.contains x)
    if fresh.isEmpty then seen else reach step fuel fresh (seen ++ fresh)

/-- The nodes ordered before a node by a path of edges. -/
def Program.before (p : Program) (i : Nat) : List Nat := reach p.preds (p.nodes.length + 1) [i] []

def Program.ordered (p : Program) (a b : Nat) : Bool := (p.before a).contains b || (p.before b).contains a

def Program.opOf (p : Program) (i : Nat) : Nat := match p.nodes[i]? with | some n => n.op | none => 0

/-- The PHASE nodes before a node with no PHASE node of the same kind after them; the highest-numbered is taken as the last (R360). -/
def Program.lastPhase (p : Program) (i : Nat) : Option Nat :=
  let l := (p.before i).filter (fun k => decide (p.opOf k = opPhase))
  ((l.filter (fun k => !l.any (fun m => (p.before m).contains k))).max?)

/-- The phase of a COLLECTIVE (R360). -/
def Program.phaseOf (p : Program) (phase0 i : Nat) : Nat :=
  match p.lastPhase i with
  | some k => (match p.nodes[k]? with | some n => n.sub % 4 | none => 0)
  | none => phase0

/-- The GROUP entry a COLLECTIVE is checked against. -/
def State.collGroup (s : State) (j : Nat) (p : Program) (phase0 i : Nat) : Option WEntry :=
  match p.nodes[i]? with
  | some n => s.groupEntry j (n.attrLe 0 2) (p.phaseOf phase0 i)
  | none => none

/-! ### Locations (R80) -/

def locRegion (loc : Nat) : Nat := loc / 2 ^ 42 % 64
def locOffset (loc : Nat) : Nat := loc % 2 ^ 42

/-- The device address of a location in a job's region table. -/
def State.locAddr (s : State) (j loc : Nat) : Nat := (s.region j (locRegion loc)).base + locOffset loc

/-- Whether `n` bytes at a location lie wholly inside its region, which allows the accesses asked for (R80, R233). -/
def State.locFits (s : State) (j loc n : Nat) (rd wr : Bool) : Bool :=
  let r := s.region j (locRegion loc)
  r.valid && decide (r.lo + locOffset loc + n ≤ r.hi) && (!rd || r.rd) && (!wr || r.wr)

/-- FEATURES bits 4 and 5 that a location uses (R615). -/
def State.tierUse (s : State) (j loc n : Nat) : Nat :=
  let r := s.region j (locRegion loc)
  if !r.valid then 0
  else if inBench r.base then 0x10
  else if inWindow r.base ∧ (s.window j).any (fun (e : WEntry) => decide (e.kind = .slow)
      && meets (s.locAddr j loc) (s.locAddr j loc + n) e.base (e.base + e.size * 2048)) then 0x20
  else 0

/-! ### Checks 6 and 7 -/

/-- Check 6, S_G_TOO_LARGE. -/
def State.tooLarge (s : State) (p : Program) : List Nat :=
  (if s.capability 2 < p.nodes.length ∨ s.capability 3 < p.edges.length ∨ s.capability 4 < p.tensors.length
      ∨ s.capability 0x14 < p.scratchBytes then [0xFFFF] else [])
    ++ badItems p.tensors (fun _ t => decide (s.capability 0x13 < t.shardCount))

def hintsIn (p : Program) (first n : Nat) : Bool := decide (n = 0) || decide (first + n ≤ p.hints.length)

/-- Check 7, S_G_INDEX. DESIGN CHOICE (log entry 11): a CONSTANT tensor whose bytes run beyond the CONST section is reported here, which R105 and R614 do not say. -/
def State.badIndex (s : State) (j phase0 attrBytes : Nat) (p : Program) : List Nat :=
  badItems p.tensors (fun _ t => !hintsIn p t.hintFirst t.hintCount || (decide (t.kind = 3) && decide (p.shards.length < t.aux + t.shardCount))
      || (decide (t.kind = 2) && decide (p.constBytes < t.aux + footprint t.dtype t.exts)))
    ++ badItems p.nodes (fun i n => !hintsIn p n.hintFirst n.hintCount || (decide (n.attrBytes ≠ 0) && decide (attrBytes < n.attrOffset + n.attrBytes))
      || (decide (n.op = opCollective) && (s.collGroup j p phase0 i).isNone))
    ++ badItems p.edges (fun _ e =>
      !(decide (e.tensor = 0xFFFFFFFF) || decide (e.tensor < p.tensors.length))
        || !(decide (e.src = 0xFFFF) || decide (e.src < p.nodes.length)) || !(decide (e.dst = 0xFFFF) || decide (e.dst < p.nodes.length))
        || (decide (e.tensor ≠ 0xFFFFFFFF) && (
          (decide (e.src ≠ 0xFFFF) && (match p.nodes[e.src]? with | some n => decide (n.outCount ≤ e.srcPort) | none => false))
          || (decide (e.dst ≠ 0xFFFF) && (match p.nodes[e.dst]? with | some n => decide (n.inCount ≤ e.dstPort) | none => false)))))
    ++ (if p.outputs.any (fun t => decide (p.tensors.length ≤ t)) then [0xFFFF] else [])

/-! ### Check 8 -/

/-- Whether the part supports an OP and SUB (R95, R102, R614). -/
def State.subOk (s : State) (n : GNode) : Bool :=
  match n.op with
  | 1 => decide (n.sub = 0)
  | 2 => decide (n.sub < 7)
  | 3 => (s.capability 7).testBit n.sub
  | 4 => decide (n.sub < 2)
  | 5 => decide (n.sub < 5)
  | 6 => decide (n.sub < 4)
  | 7 => (s.capability 8).testBit n.sub
  | 8 => (s.capability 9).testBit n.sub
  | 9 => decide (n.sub = 0)
  | 10 => decide (n.sub < 4)
  | _ => false

def dtypeIs (t : Option Tensor) (d : Nat) : Bool := match t with | some x => decide (x.dtype = d) | none => false

/-- FEATURES bits that a node uses (R615). -/
def Program.nodeUse (p : Program) (i : Nat) (n : GNode) : Nat :=
  if n.op = opMatmul then (if dtypeIs ((p.ins i n).getD 0 none) dF32 && dtypeIs ((p.ins i n).getD 1 none) dF32 then 4 else 0)
  else if n.op = opAttention ∧ n.sub = 1 then 8
  else if n.op = opCollective then 0x40
  else if n.op = opShadow then 0x90
  else if n.op = opUpdate then 0x80
  else 0

/-- FEATURES bits that a tensor uses (R615). -/
def State.tensorUse (s : State) (j : Nat) (p : Program) (t : Tensor) : Nat :=
  let fmt := if isMX t.dtype then 1 else if t.dtype = dInt4 then 2 else 0
  let tier := if t.kind = 0 ∨ t.kind = 4 then s.tierUse j t.loc (footprint t.dtype t.exts)
    else (p.localShards t).foldl (fun a x => Nat.lor a (s.tierUse j x.loc (footprint t.dtype (t.shardExts x)))) 0
  Nat.lor fmt tier

/-- Whether every bit of a mask is set in another. -/
def bitsIn (a b : Nat) : Bool := decide (Nat.land a b = a)

/-- Check 8, S_G_CAPS. -/
def State.badCaps (s : State) (j : Nat) (p : Program) : List Nat :=
  (if bitsIn p.requiredCaps (s.capability 0x15) then [] else [0xFFFF])
    ++ badItems p.tensors (fun _ t => (elemOf t.dtype).isNone || !bitsIn (s.tensorUse j p t) p.requiredCaps)
    ++ badItems p.nodes (fun i n => !s.subOk n || !bitsIn (p.nodeUse i n) p.requiredCaps)
    ++ (if p.scratchBytes ≠ 0 ∧ bitsIn (s.tierUse j p.scratchLoc p.scratchBytes) p.requiredCaps = false then [0xFFFF] else [])

/-! ### Check 9 -/

/-- A test of a port's tensor; a port without an edge is left to check 11. -/
def onPort (t : Option Tensor) (f : Tensor → Bool) : Bool := match t with | some x => f x | none => true

def isFlt (d : Nat) : Bool := decide (d = dF16) || decide (d = dBf16) || decide (d = dF32)
def is16 (d : Nat) : Bool := decide (d = dF16) || decide (d = dBf16)
def isMxF (d : Nat) : Bool := decide (0x10 ≤ d) && decide (d ≤ 0x14)
def isSmallInt (d : Nat) : Bool := decide (d = dInt8) || decide (d = dInt4)

/-- R158. -/
def matmulOk (n : GNode) (a b : Nat) (c d : Option Tensor) : Bool :=
  let flt := onPort c (fun t => isFlt t.dtype) && onPort d (fun t => isFlt t.dtype)
  if (is16 a && is16 b) || (isMxF a && isMxF b) || (decide (a = 0x15) && decide (b = 0x15)) || (decide (a = dF32) && decide (b = dF32)) then flt
  else if isSmallInt a && isSmallInt b then
    (if nflag n 3 then flt else onPort c (fun t => decide (t.dtype = dInt32)) && onPort d (fun t => decide (t.dtype = dInt32 ∨ t.dtype = dInt8)))
  else false

/-- Whether the tensors present are of one class (R181). -/
def oneClass (l : List (Option Tensor)) : Bool :=
  l.all (fun t => onPort t (fun x => isIntD x.dtype)) || l.all (fun t => onPort t (fun x => isFloatD x.dtype))

/-- R95, R181: the operands a, b and c of an ELEMENTWISE node, those that are immediates left out. -/
def ewTypes (n : GNode) (xs ys : List (Option Tensor)) : Bool :=
  let hasC := decide (n.sub = 2) || decide (n.sub = 4)
  let pred := n.nflags / 16 % 8
  let count := (if hasC then 3 else 2) - (if nflag n 1 then 1 else 0) - (if nflag n 2 then 1 else 0)
  let grouped := if n.sub = 4 then xs.drop 1 else xs
  (hasC || !nflag n 2) && (decide (pred = 0) || (decide (n.sub = 3) && decide (pred ≤ 5)))
    && decide (xs.length = count) && decide (ys.length = 1)
    && (if n.sub = 3 then oneClass grouped else oneClass (grouped ++ ys))

/-- R192, R194. -/
def attnTypes (n : GNode) (xs ys : List (Option Tensor)) : Bool :=
  let mode := attnMode n
  let m := if mode = 4 then 1 else 0
  let qkv := xs.take 3
  let all (f : Nat → Bool) : Bool := qkv.all (fun t => onPort t (fun x => f x.dtype))
  let isF32 (t : Option Tensor) : Bool := onPort t (fun x => decide (x.dtype = dF32))
  let half := all (fun d => decide (d = dF16)) || all (fun d => decide (d = dBf16))
  decide (mode ≤ 4) && (decide (mode ≠ 4) || onPort (xs.getD 3 none) (fun x => decide (x.dtype = dInt8)))
    && (if n.sub = 0 then
          decide (xs.length = 3 + m) && decide (1 ≤ ys.length) && decide (ys.length ≤ 2)
            && (half || all (fun d => decide (d = 0x10 ∨ d = 0x11))) && onPort (ys.getD 0 none) (fun x => isFlt x.dtype) && isF32 (ys.getD 1 none)
        else
          decide (xs.length = 6 + m) && decide (ys.length = 3) && half
            && (match xs.getD 0 none with
                | some q => ((xs.drop (3 + m)).take 2).all (fun t => onPort t (fun x => decide (x.dtype = q.dtype)))
                | none => true)
            && isF32 (xs.getD (5 + m) none) && ys.all (fun t => onPort t (fun x => isFlt x.dtype)))

/-- R95. DESIGN CHOICE (log entry 19): a KEEP above 1 fails here, for which the spec gives no code. -/
def reduceTypes (n : GNode) (xs ys : List (Option Tensor)) : Bool :=
  decide (xs.length = 1) && decide (ys.length = 1) && decide (n.attrByte 1 ≤ 1)
    && (if n.sub = 4 then onPort (ys.getD 0 none) (fun y => decide (y.dtype = dInt32))
        else onPort (xs.getD 0 none) (fun x => onPort (ys.getD 0 none) (fun y => if isIntD x.dtype then isIntD y.dtype else isFlt y.dtype)))

/-- The type condition of R256; what the index must be is a shape condition there. -/
def copyTypes (n : GNode) (xs ys : List (Option Tensor)) : Bool :=
  let packedAxis (t : Option Tensor) : Bool :=
    match t with
    | some x => decide (copyAxis n + 1 = x.rank) && (isMX x.dtype || decide (x.dtype = dInt4))
    | none => false
  decide (xs.length = if n.sub < 2 then 1 else 2) && decide (ys.length = 1)
    && (decide (n.sub < 2) || (!packedAxis (xs.getD 0 none) && !packedAxis (ys.getD 0 none)))

/-- The shard rules of R360 on one tensor of a collective: how it must be laid out. -/
inductive CollLayout
  | dense
  | own
  | allLocal
  deriving DecidableEq, Repr

def layoutOk (p : Program) (g : Option WEntry) (want : CollLayout) (t : Option Tensor) : Bool :=
  match t, g with
  | some x, some e =>
    (match want with
    | .dense => decide (x.kind ≠ 3)
    | .own => decide (x.kind = 3) && (p.shardsOf x).all (fun q => decide (q.rank < e.count) && decide (q.isLocal = decide (q.rank = e.base)))
    | .allLocal => decide (x.kind = 3) && decide (x.shardCount = e.count)
        && ((p.shardsOf x).zip (List.range x.shardCount)).all (fun q => decide (q.1.rank = q.2) && q.1.isLocal))
  | _, _ => true

/-- R360, R361. DESIGN CHOICE (log entry 19): a RED_OP above 2 fails here, for which the spec gives no code. -/
def collTypes (p : Program) (g : Option WEntry) (n : GNode) (xs ys : List (Option Tensor)) : Bool :=
  let x := xs.getD 0 none
  let y := ys.getD 0 none
  let counts (a b : Nat) : Bool := decide (xs.length = a) && decide (ys.length = b)
  let lay (a b : CollLayout) : Bool := counts 1 1 && layoutOk p g a x && layoutOk p g b y
  let same := onPort x (fun a => onPort y (fun b => decide (a.dtype = b.dtype)))
  let red := onPort x (fun a => (isFlt a.dtype && onPort y (fun b => isFlt b.dtype)) || (decide (a.dtype = dInt32) && onPort y (fun b => decide (b.dtype = dInt32))))
  decide (n.attrByte 2 ≤ 2)
    && (match n.sub with
        | 0 => lay .dense .dense && red
        | 1 => lay .dense .own && red
        | 2 => lay .own .dense && same
        | 3 => lay .dense .dense && same
        | 4 => lay .allLocal .allLocal && same
        | 5 => counts 1 0 && layoutOk p g .dense x
        | _ => counts 0 1 && layoutOk p g .dense y)

/-- R95, R281. -/
def State.updateTypes (s : State) (n : GNode) (xs ys : List (Option Tensor)) : Bool :=
  decide (xs.length = 2) && decide (ys.length ≤ 1) && decide (n.attrByte 8 ≤ 4)
    && (match s.recipeOf n.sub with | some r => decide (n.attrByte 9 = r.nhyp) | none => true)
    && onPort (xs.getD 0 none) (fun x => decide (x.dtype = dF16)) && onPort (xs.getD 1 none) (fun x => decide (x.kind = 4))
    && onPort (ys.getD 0 none) (fun y => isFlt y.dtype)

/-- The port that may take a STATE tensor (R622). -/
def statePort (op : Nat) : Option Nat := if op = opUpdate then some 1 else if op = opShadow then some 0 else none

/-- R617, R622 on the tensors that every edge of a node names, as an input on a port or as an output. -/
def tensorUseOk (p : Program) (i : Nat) (n : GNode) : Bool :=
  p.edges.all (fun (e : GEdge) => onPort p.tensors[e.tensor]? (fun t =>
    (!decide (e.dst = i) || decide (t.kind ≠ 4) || decide (statePort n.op = some e.dstPort))
      && (!decide (e.src = i) || decide (t.kind ≠ 4))
      && (!decide (e.dst = i ∨ e.src = i) || decide (n.op = opCollective) || decide (t.kind ≠ 3) || decide ((p.localShards t).length = 1))))

/-- Whether a node passes check 9. DESIGN CHOICE (log entry 19): a SHADOW's SLOT above 1 fails here, for which the spec gives no code. -/
def State.typeOk (s : State) (j phase0 : Nat) (p : Program) (i : Nat) (n : GNode) : Bool :=
  let xs := p.ins i n
  let ys := p.outs i n
  tensorUseOk p i n
    && (match n.op with
        | 1 => decide (xs.length = if nflag n 1 then 3 else 2) && decide (ys.length = 1)
            && onPort (xs.getD 0 none) (fun a => onPort (xs.getD 1 none) (fun b => matmulOk n a.dtype b.dtype (xs.getD 2 none) (ys.getD 0 none)))
        | 2 => ewTypes n xs ys
        | 3 => decide (xs.length = 1) && decide (ys.length = 1)
        | 4 => attnTypes n xs ys
        | 5 => reduceTypes n xs ys
        | 6 => copyTypes n xs ys
        | 7 => collTypes p (s.collGroup j p phase0 i) n xs ys
        | 8 => s.updateTypes n xs ys
        | 9 => decide (xs.length = 1) && decide (ys.length = 0) && decide (n.attrByte 8 ≤ 1) && onPort (xs.getD 0 none) (fun x => decide (x.kind = 4))
        | _ => decide (xs.length = 0) && decide (ys.length = 0))

/-- Check 9, S_G_TYPE. -/
def State.badTypes (s : State) (j phase0 : Nat) (p : Program) : List Nat :=
  badItems p.tensors (fun _ t => decide (t.kind = 4) && !(decide (t.rank = 1) && decide (t.dtype = dInt8)))
    ++ badItems p.nodes (fun i n => !s.typeOk j phase0 p i n)
    ++ p.outputs.filter (fun o => match p.tensors[o]? with | some t => decide (t.kind = 4) | none => false)

/-! ### Check 10 -/

/-- R88 and R156 on one tensor. -/
def tensorShape (p : Program) (t : Tensor) : Bool :=
  let unit := if isMX t.dtype then 32 else if t.dtype = dInt4 then 2 else 1
  let l := p.shardsOf t
  decide (inner t.exts % unit = 0)
    && (decide (t.kind ≠ 3) || (decide (l.foldl (fun a x => a + x.extent) 0 = t.exts.getD t.shardAxis 0)
      && (decide (t.shardAxis + 1 ≠ t.rank) || l.all (fun x => decide (x.extent % unit = 0)))))

/-- The result's extents under R616. -/
def bcastExts (l : List (List Nat)) : List Nat :=
  let r := (l.map List.length).foldl max 0
  (List.range r).map (fun i => (l.map (fun e => if r ≤ i + e.length then e.getD (i + e.length - r) 1 else 1)).foldl max 0)

/-- R616: the operands' extents fit the result's. -/
def bcastOk (out : List Nat) (l : List (List Nat)) : Bool :=
  decide (out = bcastExts l)
    && l.all (fun e => (e.zip (out.drop (out.length - e.length))).all (fun q => decide (q.1 = q.2) || decide (q.1 = 1)))

def matShape (a b d : List Nat) (c : Option (List Nat)) : Bool :=
  let two (e : List Nat) : Bool := decide (2 ≤ e.length)
  let m (e : List Nat) : Nat := e.dropLast.getLastD 0
  let batch (e : List Nat) : List Nat := e.dropLast.dropLast
  two a && two b && two d && decide (inner a = m b) && decide (m d = m a) && decide (inner d = inner b)
    && (match c with
        | some e => two e && decide (m e = m a) && decide (inner e = inner b) && bcastOk (batch d) [batch a, batch b, batch e]
        | none => bcastOk (batch d) [batch a, batch b])

/-- R95: a REDUCE result's extents. -/
def reduceExts (axes keep : Nat) (x : List Nat) : List Nat :=
  let l := (x.zip (List.range x.length)).filterMap (fun q => if axes.testBit q.2 then (if keep = 1 then some 1 else none) else some q.1)
  if l.isEmpty then [1] else l

/-- The shape conditions of R256; `idx` and `idxD` the index's extents and DTYPE. -/
def copyShape (n : GNode) (x y idx : List Nat) (idxD : Nat) : Bool :=
  let ax := copyAxis n
  match n.sub with
  | 0 => decide (x = y)
  | 1 =>
    let perm := (List.range x.length).map (copyPerm n)
    perm.all (fun k => decide (k < x.length)) && decide perm.Nodup && decide (y = perm.map (fun k => x.getD k 0))
  | 2 => decide (idxD = dInt32) && decide (idx.length = 1) && decide (ax < x.length) && decide (y = x.set ax (idx.getD 0 0))
  | _ => decide (idxD = dInt32) && decide (idx.length = 1) && decide (ax < y.length) && decide (x = y.set ax (idx.getD 0 0))

/-- R191, R194, R95 on ATTENTION's extents. -/
def attnShape (n : GNode) (qd kd : Nat) (xs ys : List (List Nat)) : Bool :=
  let q := xs.getD 0 []
  let k := xs.getD 1 []
  let v := xs.getD 2 []
  let b := q.getD 0 0
  let h := q.getD 1 0
  let lq := q.getD 2 0
  let dh := q.getD 3 0
  let hk := k.getD 1 0
  let lk := k.getD 2 0
  let m := if attnMode n = 4 then 1 else 0
  let mask := xs.getD 3 []
  let stats := [b, h, lq, 2]
  decide (q.length = 4) && decide (k = [b, hk, lk, dh]) && decide (v = k) && decide (1 ≤ hk) && decide (h % hk = 0)
    && decide (16 ≤ dh) && decide (dh ≤ 256) && decide (dh % 16 = 0) && (!(isMX qd || isMX kd) || decide (dh % 32 = 0))
    && decide (attnQPos n + lq ≤ 16777216) && decide (attnKPos n + lk ≤ 16777216)
    && (decide (m = 0) || (decide (mask.length = 4) && decide (mask.getD 0 0 = 1 ∨ mask.getD 0 0 = b)
      && decide (mask.getD 1 0 = 1 ∨ mask.getD 1 0 = h) && decide (mask.getD 2 0 = lq) && decide (mask.getD 3 0 = lk)))
    && (if n.sub = 0 then decide (ys.getD 0 [] = q) && (decide (ys.length < 2) || decide (ys.getD 1 [] = stats))
        else decide (xs.getD (3 + m) [] = q) && decide (xs.getD (4 + m) [] = q) && decide (xs.getD (5 + m) [] = stats)
          && decide (ys = [q, k, k]))

/-- R360. -/
def collShape (n : GNode) (x y : Option Tensor) : Bool :=
  match x, y with
  | some a, some b =>
    if n.sub ≤ 3 then decide (a.exts = b.exts)
    else if n.sub = 4 then decide (a.rank = b.rank) && decide (a.shardAxis = b.shardAxis) && decide (a.exts.set a.shardAxis 0 = b.exts.set b.shardAxis 0)
    else true
  | _, _ => true

/-- Whether a node passes check 10; one with a port that no edge feeds is left to check 11. -/
def shapeOk (p : Program) (i : Nat) (n : GNode) : Bool :=
  let xs := p.ins i n
  let ys := p.outs i n
  let ex (l : List (Option Tensor)) : List (List Nat) := l.map (fun t => match t with | some x => p.denseExts x | none => [])
  let dt (k : Nat) : Nat := match xs.getD k none with | some x => x.dtype | none => 0
  let a := ex xs
  let d := (ex ys).getD 0 []
  if (xs ++ ys).any Option.isNone then true
  else
    match n.op with
    | 1 => matShape (a.getD 0 []) (a.getD 1 []) d (if nflag n 1 then some (a.getD 2 []) else none)
    | 2 => bcastOk d a
    | 3 => decide (a.getD 0 [] = d)
    | 4 => attnShape n (dt 0) (dt 1) a (ex ys)
    | 5 => decide (d = reduceExts (n.attrByte 0) (n.attrByte 1) (a.getD 0 []))
    | 6 => copyShape n (a.getD 0 []) d (a.getD 1 []) (dt 1)
    | 7 => collShape n (xs.getD 0 none) (ys.getD 0 none)
    | _ => true

/-- Check 10, S_G_SHAPE. -/
def badShapes (p : Program) : List Nat := badItems p.tensors (fun _ t => !tensorShape p t) ++ badItems p.nodes (fun i n => !shapeOk p i n)

/-! ### Check 11 -/

/-- Check 11, S_G_GRAPH: R92, R93, R96, R281. DESIGN CHOICE (log entry 18): a SHARDED tensor may be read without a producer, which R93 neither allows nor forbids by name. -/
def badGraph (p : Program) : List Nat :=
  let data := p.edges.filter (fun (e : GEdge) => decide (e.tensor ≠ 0xFFFFFFFF))
  let kindOf (t : Nat) : Nat := match p.tensors[t]? with | some x => x.kind | none => 0
  let stateOf (i : Nat) : Option Nat := (statePort (p.opOf i)).bind (fun k => p.inPort i k)
  let phases := (List.range p.nodes.length).filter (fun i => decide (p.opOf i = opPhase))
  badItems p.edges (fun _ e => decide (e.tensor ≠ 0xFFFFFFFF) && (
      (decide (e.src = 0xFFFF) && decide (kindOf e.tensor = 1))
      || (decide (e.src ≠ 0xFFFF) && data.any (fun (f : GEdge) => decide (f.src ≠ 0xFFFF)
        && (decide (f.src = e.src ∧ f.srcPort = e.srcPort) != decide (f.tensor = e.tensor))))))
    ++ badItems p.nodes (fun i n =>
      !(List.range n.inCount).all (fun k => decide ((data.filter (fun (e : GEdge) => decide (e.dst = i ∧ e.dstPort = k))).length = 1))
        || !(List.range n.outCount).all (fun k => data.any (fun (e : GEdge) => decide (e.src = i ∧ e.srcPort = k)))
        || (p.before i).contains i
        || (decide (n.op = opCollective) && !phases.all (p.ordered i))
        || (match stateOf i with
            | some t => (List.range p.nodes.length).any (fun k => decide (k ≠ i) && decide (stateOf k = some t) && !p.ordered i k)
            | none => false))
    ++ badItems p.tensors (fun t x => decide (x.kind = 1) && !data.any (fun (e : GEdge) => decide (e.tensor = t ∧ e.src ≠ 0xFFFF)))

/-! ### Checks 12 and 13 -/

/-- Whether a node reads a tensor, and whether one writes it. -/
def Program.readIn (p : Program) (t : Nat) : Bool := p.edges.any (fun (e : GEdge) => decide (e.tensor = t ∧ e.dst ≠ 0xFFFF))
def Program.writtenIn (p : Program) (t : Nat) : Bool := p.edges.any (fun (e : GEdge) => decide (e.tensor = t ∧ e.src ≠ 0xFFFF))

/-- Check 12, S_ACCESS. DESIGN CHOICE (log entry 12): no check refuses a node's output that names a CONSTANT tensor; it is written into the image where the image's region allows it. -/
def State.badAccess (s : State) (j : Nat) (p : Program) : List Nat :=
  badItems p.tensors (fun i t =>
    let rd := decide (t.kind = 4) || p.readIn i
    let wr := decide (t.kind = 4) || p.writtenIn i
    if t.kind = 0 ∨ t.kind = 4 then !s.locFits j t.loc (footprint t.dtype t.exts) rd wr
    else (p.localShards t).any (fun x => decide (x.extent ≠ 0) && !s.locFits j x.loc (footprint t.dtype (t.shardExts x)) rd wr))
    ++ (if p.scratchBytes ≠ 0 ∧ s.locFits j p.scratchLoc p.scratchBytes true true = false then [0xFFFF] else [])

/-- The storage of a program's tensors in memory that regions cover: (first, past the end, tensor). -/
def State.spans (s : State) (j : Nat) (p : Program) : List (Nat × Nat × Nat) :=
  (p.tensors.zip (List.range p.tensors.length)).flatMap (fun q =>
    let t := q.1
    if t.kind = 0 ∨ t.kind = 4 then [(s.locAddr j t.loc, s.locAddr j t.loc + footprint t.dtype t.exts, q.2)]
    else ((p.localShards t).filter (fun x => decide (x.extent ≠ 0))).map
      (fun x => (s.locAddr j x.loc, s.locAddr j x.loc + footprint t.dtype (t.shardExts x), q.2)))

def Program.constSpans (p : Program) : List (Nat × Nat × Nat) :=
  ((p.tensors.zip (List.range p.tensors.length)).filter (fun q => decide (q.1.kind = 2))).map
    (fun q => (p.constAddr + q.1.aux, p.constAddr + q.1.aux + footprint q.1.dtype q.1.exts, q.2))

/-- Items of a list of spans that meet another one of it, two LOCAL shards of one tensor among them. DESIGN CHOICE (log entry 17): R84 speaks of the storage of other tensors, the image and the scratch area alone. -/
def clashes (l : List (Nat × Nat × Nat)) : List Nat :=
  ((l.zip (List.range l.length)).filter (fun q => (l.zip (List.range l.length)).any (fun r =>
    decide (q.2 ≠ r.2) && decide (q.1.1 < q.1.2.1) && decide (r.1.1 < r.1.2.1) && meets q.1.1 q.1.2.1 r.1.1 r.1.2.1))).map (fun q => q.1.2.2)

/-- Check 13, S_G_LAYOUT (R84): CONSTANT tensors lie in the image and are compared with one another. -/
def State.badLayout (s : State) (j : Nat) (p : Program) : List Nat :=
  let scratch := s.locAddr j p.scratchLoc
  clashes (s.spans j p ++ [(p.addr, p.addr + p.imageBytes, 0xFFFF)] ++ (if p.scratchBytes = 0 then [] else [(scratch, scratch + p.scratchBytes, 0xFFFF)]))
    ++ clashes p.constSpans

end Sys2Proof.Machine
end

