-- ==== Sys2Proof/Machine/Binding.lean ====
section
/-! DEFINITION. Binding: the image read and checked in order (R105), the placement of INTERNAL tensors (R391, R613), the binder's placement of nodes (R22, R66, R111, R265, R610, R612), the bind cache (R110), and the two ends of a binding. -/

namespace Sys2Proof.Machine

/-! ### Reading and checking the image (R105) -/

/-- A byte of the image: from memory, or as the binder has read it from the Window Map region. -/
def State.imgRd (s : State) (a : Nat) (remote : List U8) : ImgRd := fun o => if inWindow a then remote.getD o 0 else s.mem.byte (a + o)

/-- A read of the image by the binder. -/
def State.imgRead (s : State) (a n : Nat) : State × Option Nat := if inWindow a then (s, none) else s.eccRead a n

/-- What the checks find: a failure with its code and the items at fault, or the program. -/
inductive ImgCheck
  | fail (s : State) (code : U16) (items : List Nat)
  | ok (s : State) (p : Program)

/-- Checks 1 to 3 on a header (R75, R105). -/
def State.headCheck (s : State) (j a : Nat) (h : ImgHeader) : Option U16 :=
  if h.magic ≠ 0x44414C47 then some S_G_MAGIC
  else if h.major ≠ 1 ∨ 2 < h.minor then some S_G_VERSION
  else if h.imageBytes < 64 ∨ h.imageBytes % 64 ≠ 0 ∨ a % 64 ≠ 0 ∨ s.allowed j a h.imageBytes false = false then some S_ACCESS
  else none

/-- The first check of a list that finds something. -/
def firstFault : List (U16 × List Nat) → Option (U16 × List Nat)
  | [] => none
  | x :: l => if x.2.isEmpty then firstFault l else some x

/-! ### Check 14: what the image and the part alone decide -/

def Tensor.fp (t : Tensor) : Nat := footprint t.dtype t.exts

/-- Whether a tensor has a hint of a kind with VALUE 0 (R100). -/
def Program.hinted (p : Program) (t : Tensor) (k : Nat) : Bool :=
  ((p.hints.drop t.hintFirst).take t.hintCount).any (fun h => decide (h.kind = k) && decide (h.value = 0))


/-- Main-store bytes of the tensors a program does not leave to the binder (R391). -/
def State.mainFixed (s : State) (j : Nat) (p : Program) : Nat :=
  let main (loc : Nat) : Bool := decide ((s.region j (locRegion loc)).base < hbmEnd)
  p.tensors.foldl (fun a (t : Tensor) =>
    if t.kind = 0 ∨ t.kind = 4 then (if main t.loc then a + t.fp else a)
    else (p.localShards t).foldl (fun b (x : Shard) => if x.extent ≠ 0 ∧ main x.loc = true then b + footprint t.dtype (t.shardExts x) else b) a)
    (if p.scratchBytes ≠ 0 ∧ main p.scratchLoc = true then p.scratchBytes else 0)

/-- Bench-tier bytes outside the job's own regions (R391: the image, the job's region table and the capabilities decide). -/
def State.benchRoom (s : State) (j : Nat) : Nat :=
  s.benchBytes - s.regions.foldl (fun a (q : Nat × Region) => if q.1 / 64 = j ∧ q.2.valid = true ∧ inBench q.2.base = true then a + (q.2.hi - q.2.lo) else a) 0

/-- The INTERNAL tensors recomputed and off-loaded so far, the bench bytes they take, and the main-store bytes still needed (R391). -/
structure Taken where
  recomputed : List Nat
  offloaded : List Nat
  bench : Nat
  rest : Nat
  deriving DecidableEq, Repr

/-- A job's region table as numbers. -/
def State.regionTable (s : State) (j : Nat) : List Nat :=
  (s.regions.filter (fun (q : Nat × Region) => decide (q.1 / 64 = j) && q.2.valid)).flatMap (fun q => [q.1 % 64, q.2.lo, q.2.hi])

/-- Whether recomputing a tensor costs less than its round trip to the bench tier, as the image, the region table and the capabilities decide (R391). -/
def State.cheaper (s : State) (j : Nat) (sha : List U8) (t : Nat) : Bool := Config.recomputeCheaper sha (s.regionTable j) s.capGen.toNat t

/-- One INTERNAL tensor under R391, of the image whose SHA-256 is given. -/
def State.takeOne (s : State) (j : Nat) (p : Program) (sha : List U8) (a : Taken) (q : Nat × Tensor) : Taken :=
  let re := p.hinted q.2 3
  let off := p.hinted q.2 4 && decide (a.bench + q.2.fp ≤ s.benchRoom j)
  if q.2.kind ≠ 1 ∨ a.rest ≤ s.capability 0x0B then a
  else if off && !(re && s.cheaper j sha q.1) then { a with offloaded := a.offloaded ++ [q.1], bench := a.bench + q.2.fp, rest := a.rest - q.2.fp }
  else if re then { a with recomputed := a.recomputed ++ [q.1], rest := a.rest - q.2.fp }
  else a

/-- R391 over a whole program. -/
def State.takeHinted (s : State) (j : Nat) (p : Program) (sha : List U8) : Taken :=
  (numbered p.tensors).foldl (s.takeOne j p sha)
    ⟨[], [], 0, p.tensors.foldl (fun a (t : Tensor) => if t.kind = 1 then a + t.fp else a) (s.mainFixed j p)⟩

/-- Tensors laid into the scratch area in order (R613): those placed, by offset, and those that do not fit its rest. -/
def scratchFit (limit : Nat) : List (Nat × Nat) → Nat → List (Nat × Nat) × List (Nat × Nat)
  | [], _ => ([], [])
  | (t, n) :: l, next =>
    if next + n ≤ limit then
      let r := scratchFit limit l (next + n)
      ((t, next) :: r.1, r.2)
    else
      let r := scratchFit limit l next
      (r.1, (t, n) :: r.2)

/-- The INTERNAL tensors that keep storage in the main store, with their footprints. -/
def Program.mainInternals (p : Program) (k : Taken) : List (Nat × Nat) :=
  ((numbered p.tensors).filter (fun q => decide (q.2.kind = 1) && !k.recomputed.contains q.1 && !k.offloaded.contains q.1)).map (fun q => (q.1, q.2.fp))

/-- Free main store of the module: the visible ranges of up stacks outside every valid region of a VALID job and what is held; measured in bytes with each overlap counted once. -/
def State.freeMain (s : State) : Nat :=
  let taken : List (Nat × Nat) :=
    (s.regions.filter (fun (q : Nat × Region) => q.2.valid && (s.job (q.1 / 64)).valid)).map (fun q => (q.2.lo, q.2.hi))
      ++ s.streams.flatMap (fun (q : Nat × Stream) => match q.2.bound with | some b => b.internals.map (fun x => (x.2.1, x.2.1 + x.2.2)) | none => [])
  (List.range 16).foldl (fun a i =>
    if s.baseUp (baseOfStack i) = false then a
    else
      let lo := i * stackSize
      let hi := lo + visibleSize
      let cuts := sortBy (fun x y => decide (x.1 ≤ y.1)) ((taken.filter (fun r => meets lo hi r.1 r.2)).map (fun r => (max lo r.1, min hi r.2)))
      let used := cuts.foldl (fun (u : Nat × Nat) r => (u.1 + (max u.2 r.2 - max u.2 r.1), max u.2 r.2)) (0, lo)
      a + (visibleSize - used.1)) 0

/-- Whether a kind of unit runs an operation (R19, R95); 0xFFFF stands for a staging move, which a copy engine runs. -/
def unitRuns (u : Nat) (op : Option Nat) : Bool :=
  match op with
  | none => isCopy u
  | some 1 => isArray u
  | some 2 | some 5 => isVector u
  | some 3 => isCurve u
  | some 4 => isSequencer u
  | some 6 => isCopy u
  | some 7 => isConsort u
  | some 8 | some 9 => isLathe u
  | some _ => decide (u < 768) || isConsort u

def PlanNode.opIn (x : PlanNode) (p : Program) : Option Nat := (p.nodes[x.node]?).map (·.op)

/-- Whether a unit can be given node slots: its die is up, it is not fenced or retired, and its core is neither: a fenced array alone bars array work only (R138, R139, R417). A fenced Lathe fails its UPDATEs as they start. -/
def State.placeable (s : State) (u : Nat) : Bool :=
  decide (u < 822) && (s.die (unitDie u)).up && (isLathe u || !(s.tuneUnit u).fenced)
    && (!decide (u < 768) || (!s.coreRetired (coreOf u) && !s.coreFenced (coreOf u))) && !s.start.retired.contains u

/-- The least SRAM that a node's firings work in: a grain block for each of its ports (R111, R225). DESIGN CHOICE (log entry 51): the spec says what lies in SRAM and not how much of it a firing needs. -/
def leastArea (n : GNode) : Nat := 2048 * (n.inCount + n.outCount)

/-- The engines that may run an operation: how many a module has that the binder may use. -/
def State.enginesFor (s : State) (op : Nat) : Nat := ((List.range 822).filter (fun u => s.placeable u && unitRuns u (some op))).length

/-- Nodes of a descant job for which no placement of the program alone keeps within 8 node slots on every engine and within its tile SRAM on every core; of any job, within the tile SRAM there is (R66, R107, R111). -/
def State.overQuota (s : State) (j : Nat) (p : Program) : List Nat :=
  let x := s.job j
  let core := badItems p.nodes (fun _ n => decide (n.op ≤ 6))
  let quota := if x.descant then x.sramQuota else 0x400000
  let need := ((p.nodes.filter (fun n => decide (n.op ≤ 6))).map leastArea).sum
  let tight := (List.range 7).any (fun k => decide (8 * s.enginesFor (k + 1) < (p.nodes.filter (fun n => decide (n.op = k + 1))).length))
  let far := badItems p.nodes (fun _ n => decide (7 ≤ n.op ∧ n.op ≤ 9))
  (if quota * s.enginesFor 1 < need ∨ (p.nodes.any (fun n => decide (n.op ≤ 6) && decide (quota < leastArea n))) = true then core else [])
    ++ (if x.descant ∧ tight = true then core ++ badItems p.nodes (fun _ n => decide (n.op = 7)) else [])
    ++ (if x.descant ∧ 24 < (p.nodes.filter (fun n => decide (n.op = 8 ∨ n.op = 9))).length then far else [])

/-- COPY nodes with an MX destination row too long (R265). -/
def longRows (p : Program) : List Nat :=
  badItems p.nodes (fun i n => decide (n.op = opCopy) && (p.outs i n).any (fun t => match t with
    | some y => isMX y.dtype && decide (262144 < inner (p.denseExts y))
    | none => false))

/-- What of check 14 the image, the job and free memory decide. -/
def State.noRoom (s : State) (j : Nat) (p : Program) (sha : List U8) : List Nat :=
  let k := s.takeHinted j p sha
  let left := (scratchFit p.scratchBytes (p.mainInternals k) 0).2
  longRows p ++ s.overQuota j p
    ++ (if s.capability 0x0B < k.rest then [0xFFFF] else [])
    ++ (if s.freeMain < (left.map (·.2)).sum then [0xFFFF] else [])

/-- Checks 4 to 13 on an image read whole (R105). -/
def State.bodyCheck (s : State) (n : Nat) (rd : ImgRd) (h : ImgHeader) : Option (U16 × List Nat) × Program :=
  let x := s.stream n
  let j := x.job
  let p := readProgram rd x.submit.toNat h
  if (imageCrc rd h.imageBytes).toNat ≠ h.crc then (some (S_G_CRC, []), p)
  else if tableOk rd h = false then (some (S_G_FORMAT, []), p)
  else
    (firstFault [(S_G_FORMAT, formatItems rd h p), (S_G_TOO_LARGE, s.tooLarge p),
      (S_G_INDEX, s.badIndex j x.phase0 (sectOf (readTable rd h) 5).bytes p), (S_G_CAPS, s.badCaps j p),
      (S_G_TYPE, s.badTypes j x.phase0 p), (S_G_SHAPE, badShapes p), (S_G_GRAPH, badGraph p), (S_ACCESS, s.badAccess j p),
      (S_G_LAYOUT, s.badLayout j p)], p)

/-- The image of a submission read and checked, check 14 apart. -/
def State.checkImage (s : State) (n : Nat) (remote : List U8) : ImgCheck :=
  let x := s.stream n
  let a := x.submit.toNat
  let rd := s.imgRd a remote
  let h := readImgHeader rd
  let r1 := s.imgRead a 64
  if r1.2.isSome then .fail r1.1 S_MEM_UNCORR []
  else
    match s.headCheck x.job a h with
    | some c => .fail r1.1 c []
    | none =>
      let r2 := r1.1.imgRead (a + 64) (h.imageBytes - 64)
      if r2.2.isSome then .fail r2.1 S_MEM_UNCORR []
      else
        match s.bodyCheck n rd h with
        | (some (c, l), _) => .fail r2.1 c l
        | (none, p) => .ok r2.1 p

/-! ### The placement (R612) -/

/-- The storage parts of a tensor as (extents, footprint): one, or one for each LOCAL shard (R88, R115). -/
def Program.partExts (p : Program) (t : Tensor) : List (List Nat) :=
  if t.kind = 3 then ((p.localShards t).filter (fun (x : Shard) => decide (x.extent ≠ 0))).map t.shardExts else [t.exts]

/-- Grain blocks of a tensor's storage. -/
def Program.blocks (p : Program) (t : Tensor) : Nat := ((p.partExts t).map (fun e => footprint t.dtype e / 2048)).sum

/-- OUT_TOTAL (R115). -/
def Program.outTotal (p : Program) : Nat := (p.outputs.map (fun o => match p.tensors[o]? with | some t => p.blocks t | none => 0)).sum

/-- The runs of one tensor in the firings of one Galad node's slots. -/
def Plan.runsOf (pl : Plan) (i t : Nat) : List BlkRun :=
  (pl.nodes.filter (fun x => decide (x.node = i))).flatMap (fun x => x.firings.flatten.filter (fun r => decide (r.tensor = t)))

/-- Whether runs cover blocks 0 to `n - 1` each exactly once. -/
def coverOnce (n : Nat) (l : List BlkRun) : Bool :=
  let s := sortBy (fun a b => decide (a.first ≤ b.first)) l
  decide (s.foldl (fun (a : Option Nat) r => if a = some r.first then some (r.first + r.count) else none) (some 0) = some n)

/-- Whether the runs of an MX COPY destination end at ends of rows (R265). -/
def rowsWhole (t : Tensor) (e : List Nat) (l : List BlkRun) : Bool :=
  !isMX t.dtype || l.all (fun r =>
    let p := rowPitch t.dtype (inner e)
    decide (r.first * 2048 % p = 0) && (decide ((r.first + r.count) * 2048 % p = 0) || decide (rowCount e * p ≤ (r.first + r.count) * 2048)))

/-- Whether the firings of a node write each block of its outputs once and nothing else (R29, R265, R612). A firing that forms only part of its sums, over some of K or of the keys, writes no block. -/
def Plan.covers (pl : Plan) (p : Program) (i : Nat) (n : GNode) : Bool :=
  let slots := pl.nodes.filter (fun x => decide (x.node = i))
  let outs := (List.range n.outCount).filterMap (p.outPort i)
  !slots.isEmpty && slots.all (fun x => !x.firings.isEmpty)
    && (!decide (n.op = opCollective) || decide (slots.length = 1))
    && (if 8 ≤ n.op ∨ outs.isEmpty then decide (slots.length = 1) && slots.all (fun x => x.firings = [[]])
        else outs.dedup.all (fun t => match p.tensors[t]? with
            | some y => coverOnce (p.blocks y) (pl.runsOf i t) && (!decide (n.op = opCopy) || rowsWhole y (p.denseExts y) (pl.runsOf i t))
            | none => false)
          && slots.all (fun x => x.firings.flatten.all (fun r => outs.contains r.tensor && decide (0 < r.count))))

/-- Whether each firing of a staging move moves one run of blocks of a tensor of the program, into its area, or by the block slots of edges. -/
def Plan.movesOk (pl : Plan) (p : Program) : Bool :=
  pl.nodes.all (fun x => decide (x.node < p.nodes.length)
    || (decide (x.node = 0xFFFF) && !x.firings.isEmpty && x.firings.all (fun l => match l with
        | [r] => (match p.tensors[r.tensor]? with
            | some t => decide (0 < r.count) && decide (r.first + r.count ≤ p.blocks t)
                && (pl.edges.any (fun e => decide (pl.nodes[e.src]? = some x) || decide (pl.nodes[e.dst]? = some x)) || decide (r.count * 2048 ≤ x.area.2))
            | none => false)
        | _ => false)))

/-! #### SRAM (R66, R111, R225, R226) -/

/-- Whether an engine reaches an address in SRAM: its base die's staging SRAM, its own core's tile SRAM, and a sequencer that of its quad's cores (R226). -/
def reachesSram (u a : Nat) : Bool :=
  let base := if 816 ≤ u then unitDie u - 12 else unitDie u / 4
  if stagingBase ≤ a ∧ a < stagingEnd then decide ((a - stagingBase) / 0x10000000 = base)
  else if tileBase ≤ a ∧ a < tileEnd then
    let core := (a - tileBase) / 0x400000
    (decide (u < 768) && decide (core = coreOf u)) || (isSequencer u && decide (core / 4 = u - 768))
  else false

/-- Whether an SRAM area is reached by an engine and lies in one SRAM. -/
def areaReached (u : Nat) (x : Nat × Nat) : Bool :=
  reachesSram u x.1 && reachesSram u (x.1 + x.2 - 1)
    && decide (x.1 / (if x.1 < tileBase then 0x10000000 else 0x400000) = (x.1 + x.2 - 1) / (if x.1 < tileBase then 0x10000000 else 0x400000))

/-- Whether an engine's firings may put blocks at an address in SRAM: what it reaches, and from a base die the tile SRAM of its compute dies (R226). -/
def putsSram (u a : Nat) : Bool :=
  reachesSram u a || (decide (816 ≤ u) && decide (tileBase ≤ a) && decide (a < tileEnd) && decide ((a - tileBase) / 0x400000 / 64 = unitDie u - 12))

/-- Whether areas are apart from each other. -/
def areasApart : List (Nat × Nat) → Bool
  | [] => true
  | x :: l => l.all (fun y => !meets x.1 (x.1 + x.2) y.1 (y.1 + y.2)) && areasApart l

/-- A slot's working area: tile SRAM that its engine reaches, for every firing of a core engine or sequencer but a PHASE node's; the base dies' engines may do without (R111, R226). -/
def PlanNode.areaOk (x : PlanNode) (p : Program) : Bool :=
  if (x.unit < 768 ∨ isSequencer x.unit = true) ∧ x.opIn p ≠ some opPhase then
    decide ((match p.nodes[x.node]? with | some n => leastArea n | none => 1) ≤ x.area.2) && decide (tileBase ≤ x.area.1) && areaReached x.unit x.area
  else decide (x.area = (0, 0)) || (decide (0 < x.area.2) && areaReached x.unit x.area)

/-- An edge: it joins slots of nodes that a tensor edge of the program joins, or a staging move to a node, or the slots of one node; its consumer's queue is 8 tokens deep and its block slots lie in SRAM that the consumer reaches and the producer may put blocks into; a staging move's blocks keep their tags, and one that moves blocks out of SRAM takes each as its producer leaves it (R20, R22, R28, R226, R245, R267). -/
def PlanEdge.ok (e : PlanEdge) (p : Program) (a b : PlanNode) : Bool :=
  decide (e.depth = 8) && decide (e.initTokens ≤ e.depth) && decide (64 ≤ e.bytes) && decide (e.bytes ≤ 65536)
    && areaReached b.unit (e.addr, e.depth * e.bytes) && putsSram a.unit e.addr
    && (!e.tagged || decide (e.addr % 2048 = 0) && decide (e.bytes % 2048 = 0))
    && (decide (b.node ≠ 0xFFFF)
      || decide (e.initTokens = 0) && decide (a.firings.map (fun l => l.filter (fun (r : BlkRun) => b.firings.flatten.any (fun q => decide (q.tensor = r.tensor)))) = b.firings)
          && b.firings.all (fun l => decide ((l.map (fun (r : BlkRun) => r.count * 2048)).sum ≤ e.bytes)))
    && (if a.node = 0xFFFF then e.tagged
          && a.firings.all (fun l => decide ((l.map (fun (r : BlkRun) => r.count * 2048)).sum ≤ e.bytes))
        else decide (b.node = 0xFFFF) || decide (a.node = b.node)
          || p.edges.any (fun (g : GEdge) => decide (g.src = a.node ∧ g.dst = b.node ∧ g.tensor ≠ 0xFFFFFFFF)))

/-- The queues and credit counters of R22 and the 12-bit edge numbers of R20. -/
def Plan.edgesOk (pl : Plan) (p : Program) : Bool :=
  decide (pl.edges.length ≤ 4096)
    && pl.edges.all (fun e => match pl.nodes[e.src]?, pl.nodes[e.dst]? with
      | some a, some b => e.ok p a b
      | _, _ => false)
    && (List.range pl.nodes.length).all (fun i =>
      decide ((pl.edges.filter (fun e => decide (e.dst = i))).length ≤ 4) && decide ((pl.edges.filter (fun e => decide (e.src = i))).length ≤ 2))

/-! #### Sizes of firings (R191, R231, R359) -/

/-- Whether a tensor's storage lies in the Window Map region. -/
def State.windowed (s : State) (j : Nat) (p : Program) (t : Nat) : Bool :=
  match p.tensors[t]? with
  | some y =>
    if y.kind = 1 then decide (0 < p.scratchBytes) && inWindow (s.locAddr j p.scratchLoc)
    else if y.kind = 2 then inWindow p.constAddr
    else (inWindow (s.locAddr j y.loc) || (p.localShards y).any (fun (x : Shard) => inWindow (s.locAddr j x.loc)))
  | none => false

/-- Innermost rows of a tensor that a run of its blocks touches. -/
def Program.rowsTouched (p : Program) (r : BlkRun) : List Nat :=
  match p.tensors[r.tensor]? with
  | some y =>
    let e := p.denseExts y
    let w := rowPitch y.dtype (inner e)
    if w = 0 ∨ r.count = 0 then [] else
      let lo := r.first * 2048 / w
      (List.range (min (rowCount e) (((r.first + r.count) * 2048 - 1) / w + 1) - lo)).map (lo + ·)
  | none => []

/-- Bytes of the source elements that runs of a COPY node's result come from. -/
def Program.sourceBytes (p : Program) (i : Nat) (l : List BlkRun) : Nat :=
  let bits (t : Option Nat) : Nat := match t.bind (fun k => p.tensors[k]?) with | some y => max 1 (elemBits y.dtype) | none => 1
  (l.map (fun (r : BlkRun) => r.count * 2048)).sum * bits (p.inPort i 0) / bits (p.outPort i 0)

/-- A copy firing through the Window Map region reads and writes at most 256 KiB each (R231, R359). One MX row cannot be cut (R265). -/
def State.copySized (s : State) (j : Nat) (p : Program) (x : PlanNode) : Bool :=
  let far := match p.nodes[x.node]? with
    | some n => decide (n.op = opCopy) && ((List.range n.inCount).filterMap (p.inPort x.node) ++ (List.range n.outCount).filterMap (p.outPort x.node)).any (s.windowed j p)
    | none => x.firings.flatten.any (fun r => s.windowed j p r.tensor)
  !far || x.firings.all (fun l => decide ((l.map (fun (r : BlkRun) => r.count * 2048)).sum ≤ 262144)
    && (decide (p.sourceBytes x.node l ≤ 262144) || l.all (fun r => decide ((p.rowsTouched r).length ≤ 1) && (match p.tensors[r.tensor]? with | some y => isMX y.dtype | none => false))))

/-- An attention sequencer's firing works on a tile of at most 128 query rows (R191): rows of O and of the stats, or of dQ. -/
def PlanNode.tileOk (x : PlanNode) (p : Program) : Bool :=
  match p.nodes[x.node]? with
  | some n =>
    if n.op = opAttention then
      let ports := if n.sub = 0 then [0, 1] else [0]
      let ts := (ports.filter (fun k => decide (k < n.outCount))).filterMap (p.outPort x.node)
      x.firings.all (fun l => decide ((((l.filter (fun (r : BlkRun) => ts.contains r.tensor)).flatMap p.rowsTouched).dedup).length ≤ 128))
    else true
  | none => true

/-- The base dies that the AFFINITY hints of a node's inputs name (R100, R101). -/
def Program.affineBases (p : Program) (i : Nat) : List Nat :=
  match p.nodes[i]? with
  | some n => ((List.range n.inCount).filterMap (p.inPort i)).flatMap (fun t => match p.tensors[t]? with
      | some y => (((p.hints.drop y.hintFirst).take y.hintCount).filter (fun h => decide (h.kind = 1) && decide (h.value < 16))).map (fun h => baseOfStack h.value)
      | none => [])
  | none => []

/-- A node that consumes a tensor with an AFFINITY hint stands on the base die that serves the domain, while that die is up; the Lathes are those of R276 (R101). -/
def State.affine (s : State) (p : Program) (x : PlanNode) : Bool :=
  let l := (p.affineBases x.node).filter s.baseUp
  l.isEmpty || isLathe x.unit || l.contains (unitBase x.unit)

/-- Whether no bound node works for several Galad nodes but where the program has more of them on an engine than the engine has slots: R107 never fails a primary program for lack of slots. Such a node has no queues. DESIGN CHOICE (log entry 51). -/
def Plan.sharedOk (pl : Plan) (b : Bound) (descant : Bool) : Bool :=
  (numbered pl.nodes).all (fun q => !(numbered pl.nodes).any (fun r => decide (r.1 ≠ q.1) && decide (r.2.unit = q.2.unit) && decide (r.2.place = q.2.place))
    || (!descant && decide (b.slotsOn q.2.unit = 32) && !pl.edges.any (fun e => decide (e.src = q.1) || decide (e.dst = q.1))))

/-- Whether the binder may place a program so (R22, R29, R66, R101, R111, R191, R225, R231, R265, R359, R610, R612). -/
def State.planOk (s : State) (j : Nat) (p : Program) (pl : Plan) : Bool :=
  let b := pl.bound p []
  let cap := if (s.job j).descant then 8 else 32
  pl.nodes.all (fun x => s.placeable x.unit && unitRuns x.unit (x.opIn p) && decide (b.slotsOn x.unit ≤ cap) && decide (x.place < 32)
      && x.areaOk p && s.copySized j p x && x.tileOk p && s.affine p x)
    && pl.sharedOk b (s.job j).descant
    && areasApart (b.areas.filter (fun a => decide (0 < a.2)))
    && (!(s.job j).descant || (List.range 192).all (fun c => decide (tileBytes b.areas c ≤ (s.job j).sramQuota)))
    && (numbered p.nodes).all (fun q => pl.covers p q.1 q.2) && pl.movesOk p && pl.edgesOk p

/-- The placement of one INTERNAL tensor outside the scratch area: whole blocks of memory that is free (R85, R613). -/
def State.outsideOk (s : State) (bench : Bool) (a n : Nat) : Bool :=
  decide (a % 2048 = 0)
    && (if bench then inBench a && inBench (a + n - 1) else (hbmStack a).isSome && decide (hbmStack a = hbmStack (a + n - 1)))
    && !s.memDown a && s.memFree a (a + n)

/-- SHA-256 of the image that was bound. -/
def State.imageSha (s : State) (p : Program) (remote : List U8) : List U8 := sha256 ((List.range p.imageBytes).map (s.imgRd p.addr remote))

/-- Storage of the INTERNAL tensors under a plan: (tensor, address, bytes); none where the plan does not place them as R391 and R613 say. A recomputed tensor has no storage (R613): its values are kept under numbers of its own beyond the device address space. -/
def State.internalsOf (s : State) (n j : Nat) (p : Program) (pl : Plan) : Option (List (Nat × Nat × Nat)) :=
  let k := s.takeHinted j p (s.imageSha p pl.remote)
  let f := scratchFit p.scratchBytes (p.mainInternals k) 0
  let size (t : Nat) : Nat := match p.tensors[t]? with | some y => y.fp | none => 0
  let scratch := f.1.map (fun q => (q.1, s.locAddr j p.scratchLoc + q.2, size q.1))
  let out := pl.outside.map (fun q => (q.1, q.2, size q.1))
  let fresh := k.recomputed.map (fun t => (t, 2 ^ 64 + (n * 4096 + t) * 2 ^ 48, size t))
  if decide (pl.outside.map (·.1) = f.2.map (·.1) ++ k.offloaded)
      && out.all (fun x => s.outsideOk (k.offloaded.contains x.1) x.2.1 x.2.2)
      && (clashes (out.map (fun x => (x.2.1, x.2.1 + x.2.2, x.1)))).isEmpty then
    some (scratch ++ out ++ fresh)
  else none

/-! ### The two ends of a binding -/

/-- Whether a stream is at its binder: BINDING and not waiting for node slots, with the binders running (R108, R486). -/
def State.atBinder (s : State) (n : Nat) : Bool :=
  decide ((s.stream n).st = .binding) && !s.waiting.any (fun w => decide (w.stream = n)) && decide (s.pwr.st = .run)

/-- The bind cache entry of an image and a placement (R110). -/
def State.cacheKey (s : State) (n : Nat) (rd : ImgRd) (bytes : Nat) (plan : Plan) : CacheEntry :=
  ⟨(s.stream n).home, sha256 ((List.range bytes).map rd), (s.stream n).job, s.capGen, (plan.nodes.map (·.unit)).dedup⟩

/-- Whether two entries have one key (R110). -/
def CacheEntry.sameKey (a b : CacheEntry) : Bool := decide (a.base = b.base) && decide (a.sha = b.sha) && decide (a.job = b.job) && decide (a.gen = b.gen)

/-- A binding's cache look-up counted, and its entry stored (R104, R110). -/
def State.useCache (s : State) (n : Nat) (p : Program) (plan : Plan) : State :=
  let k := s.cacheKey n (s.imgRd p.addr plan.remote) p.imageBytes plan
  if p.noCache then s
  else if s.caches.any k.sameKey then s.countWrap (glbPage (s.stream n).home) 0x054
  else { s with caches := s.caches ++ [k] }

/-! #### Storage of the program's tensors -/

/-- Device address of a tensor's first byte; for a SHARDED one, of a given shard (R80, R86, R613). -/
def State.tensorAddr (s : State) (j : Nat) (b : Bound) (t : Nat) (y : Tensor) (loc : Nat) : Nat :=
  if y.kind = 1 then ((b.internals.find? (fun (x : Nat × Nat × Nat) => decide (x.1 = t))).map (fun x => x.2.1)).getD 0
  else if y.kind = 2 then b.prog.constAddr + y.aux
  else s.locAddr j loc

/-- The stored parts of a tensor: itself, or its LOCAL shards with elements, in shard order (R88, R115). -/
def State.parts (s : State) (j : Nat) (b : Bound) (t : Nat) : List TView :=
  match b.prog.tensors[t]? with
  | some y =>
    if y.kind = 3 then
      ((b.prog.localShards y).filter (fun (x : Shard) => decide (x.extent ≠ 0))).map (fun x => ⟨y.dtype, y.shardExts x, s.locAddr j x.loc⟩)
    else [⟨y.dtype, y.exts, s.tensorAddr j b t y y.loc⟩]
  | none => []

/-- The producer of a tensor, if it has one. -/
def Program.producer (p : Program) (t : Nat) : Option Nat :=
  (p.edges.find? (fun (e : GEdge) => decide (e.tensor = t ∧ e.src ≠ 0xFFFF))).map (·.src)

/-- Nodes whose last firing a node waits for: the sources of its edges, and the producers of the tensors it reads by an edge from outside (R91, R94). -/
def Program.predsAll (p : Program) (i : Nat) : List Nat :=
  p.preds i ++ (p.edges.filter (fun (e : GEdge) => decide (e.dst = i ∧ e.src = 0xFFFF))).filterMap (fun (e : GEdge) => p.producer e.tensor)

/-- Whether a node reads a tensor as it stood at binding although the program writes it: it writes the tensor itself (R253), or the producer's work depends on this node's. -/
def Program.readsOld (p : Program) (i t : Nat) : Bool :=
  !p.edges.any (fun (e : GEdge) => decide (e.tensor = t ∧ e.dst = i ∧ e.src ≠ 0xFFFF))
    && (match p.producer t with
        | some k => decide (k = i) || (reach p.predsAll (p.nodes.length + 1) [k] []).contains i
        | none => false)

/-- Local storage that nodes read as it stood when the submission entered BINDING: that of tensors without a producer, and of those that the program writes only later (R94), as (node, address, bytes). -/
def State.oldReads (s : State) (j : Nat) (b : Bound) : List (Nat × Nat × Nat) :=
  ((numbered b.prog.nodes).filter (fun q => decide (q.2.op < 8))).flatMap (fun q => (((List.range q.2.inCount).filterMap (b.prog.inPort q.1)).dedup.filter (fun t => b.prog.readsOld q.1 t || (b.prog.producer t).isNone)).flatMap (fun t =>
    ((s.parts j b t).filter (fun v => !inWindow v.addr)).map (fun v => (q.1, v.addr, v.bytes))))

/-- A bound program with the memory as it was on entry into BINDING, where a node needs it (R94). -/
def State.withOlds (s : State) (n j : Nat) (b : Bound) : Bound :=
  let l := s.oldReads j b
  if l.isEmpty then b else { b with olds := l, then0 := (s.stream n).entryMem }

/-- A binding that has passed its checks: it takes its slots, or waits for them (R28, R107, R108); a program without nodes has no firing to wait for and is complete (R114). -/
def State.bound (s : State) (n : Nat) (plan : Plan) (p : Program) (internals : List (Nat × Nat × Nat)) : State :=
  let s1 := (s.useCache n p plan).countWrap (glbPage (s.stream n).home) 0x050
  let w : WaitingBind := { stream := n, plan := plan, bound := s.withOlds n (s.stream n).job (plan.bound p internals), outTotal := p.outTotal }
  if p.nodes.isEmpty then (s1.enterRunning n w.bound w.outTotal).endSubmission n .completed S_OK unitNone
  else ({ s1 with waiting := insertWaiting s1 w s1.waiting }).grantSlots

/-- BINDING_COMPLETE (R105, R108, R110, R612, R613): a placement that the rules do not allow, or an image that fails a check, completes nothing. -/
def execBindingComplete (n : Fin 16384) (plan : Plan) (s : State) : Res :=
  let j := (s.stream n.val).job
  .next (
    if s.atBinder n.val ∧ (s.job j).expelled = false then
      match s.checkImage n.val plan.remote with
      | .ok s1 p =>
        (match s.internalsOf n.val j p plan with
        | some l => if (s.noRoom j p (s.imageSha p plan.remote)).isEmpty ∧ s.planOk j p plan = true then s1.bound n.val plan p l else s
        | none => s)
      | .fail _ _ _ => s
    else s)

/-- The item a binder names among those at fault. -/
def pickItem (free : Nat) (l : List Nat) : Nat := if l.isEmpty then 0xFFFF else l.getD (Config.freePick free % l.length) 0xFFFF

/-- A binding failed: GLB_LAST_ERR of the home binder, its error bit, and the end of the submission (R51, R104, R105). -/
def State.bindFailed (s : State) (n : Nat) (code : U16) (items : List Nat) : State :=
  let home := (s.stream n).home
  let s1 := s.draw.setReg (glbPage home) 0x058 (packFields [(code.toNat, 0, 16), (pickItem s.free items, 16, 16)])
  let s2 := (s1.setReg (glbPage home) 0x05C (BitVec.ofNat 32 n)).raise (glbPage home) 0
  s2.endSubmission n .failed code (unitBinder home)

/-- An uncorrectable error met at an address of the image: the line stays bad (R105, R215). -/
def State.bindMemory (s : State) (n addr : Nat) : State :=
  let x := s.stream n
  let a := x.submit.toNat
  let h := readImgHeader (s.imgRd a [])
  let head := decide (a ≤ addr) && decide (addr < a + 64)
  let body := decide (a + 64 ≤ addr) && decide (addr < a + h.imageBytes) && (s.headCheck x.job a h).isNone
  match devOf addr with
  | some d =>
    if (head || body) && !inWindow a then
      (({ s with mem := s.mem.spoil (addr / 64) }).noteUncorr d addr 1).bindFailed n S_MEM_UNCORR []
    else s
  | none => s

/-- BINDING_FAIL (R105, R107, R436): the first failing check, or an error in the image's memory; an image that passes every check fails none. -/
def execBindingFail (n : Fin 16384) (cause : BindCause) (s : State) : Res :=
  let j := (s.stream n.val).job
  .next (
    if s.atBinder n.val = false then s
    else if (s.job j).expelled then s.bindFailed n.val S_EXPELLED []
    else
      match cause with
      | .memory a => s.bindMemory n.val a
      | .check remote =>
        (match s.checkImage n.val remote with
        | .fail s1 c l => s1.bindFailed n.val c l
        | .ok s1 p => let l := s.noRoom j p (s.imageSha p remote); if l.isEmpty then s else s1.bindFailed n.val S_G_NO_ROOM l))

end Sys2Proof.Machine
end

