-- ==== Sys2Proof/Machine/BackArray.lean ====
section
/-! DEFINITION. The array passes of an ATTENTION BACKWARD firing (R124 to R127, R131 to R134, R140 to R144, R204, R205, R618, R619): the products that form its results, cut into passes, each vector checked. -/

namespace Sys2Proof.Machine

/-- One pass of a BACKWARD firing on one array: the product (1 S and 2 dP of query rows, 3 dQ, 4 S and 5 dP of key rows, 6 dK, 7 dV), its class, the vectors by row number, the tile's columns with the number of the first, and its place in the accumulation. DESIGN CHOICE (log entry 28): R204 names the products and R612 leaves their passes to the binder; they go product by product, tile by tile in ascending columns, as those of a MATMUL do. -/
structure BackPass where
  kind : Nat
  cls : WidthClass
  rows : List (Nat × List Fl)
  cols : List (List Fl)
  col0 : Nat
  p : Nat

/-- Numbers next to each other, as first and count. -/
def runsIn (l : List Nat) : List (Nat × Nat) :=
  l.foldr (fun a acc => match acc with
    | (s, k) :: rest => if a + 1 = s then (a, k + 1) :: rest else (a, 1) :: acc
    | [] => [(a, 1)]) []

/-- The passes of one product on an array of width `w`: `rows` its vectors, `cols` the numbers of its columns, `col` a column over the product's whole sum. -/
def productPasses (kind : Nat) (cls : WidthClass) (w : Nat) (rows : List (Nat × List Fl)) (cols : List Nat) (col : Nat → List Fl) : List BackPass :=
  if w = 0 then []
  else
    let n := (cls.chunksOf ((rows.map (fun x => x.2.length)).foldl max 0) + 31) / 32
    (runsIn cols).flatMap (fun q => (List.range ((q.2 + w - 1) / w)).flatMap (fun t =>
      let c0 := q.1 + t * w
      let tile := (List.range (min w (q.2 - t * w))).map (fun i => col (c0 + i))
      (chunks 4096 rows).flatMap (fun l => (List.range n).map (fun p => ⟨kind, cls, l, tile, c0, p⟩))))

/-- A dS or p row as the next product takes it. -/
def narrowed (d : Nat) (l : List Fl) : List Fl := l.map (fun x => (cvt16 d x).1)

/-- The passes that form dQ for query rows of one batch and head (R204). -/
def dqPasses (rd : Nat → U8) (nd : GNode) (t : BackIns) (w : Nat) (f : List Flip) (x : QTile) : List BackPass :=
  let b := x.1
  let h := x.2.1
  let hk := keyHead t.q t.k h
  let dh := inner t.q.exts
  let keys := List.range (t.k.exts.getD 2 0)
  let row (v : TView) (hd i : Nat) : List Fl := (List.range dh).map (fun d => (v.idx rd [b, hd, i, d]).toFl)
  let vecs (v : TView) : List (Nat × List Fl) := x.2.2.map (fun i => (flatRow t.q b h i, row v h i))
  productPasses 1 (passClass t.q.d t.k.d) w (vecs t.q) keys (row t.k hk)
    ++ productPasses 2 (passClass t.dO.d t.v.d) w (vecs t.dO) keys (row t.v hk)
    ++ productPasses 3 (passClass t.k.d t.k.d) w (x.2.2.map (fun i => (flatRow t.q b h i, narrowed t.k.d ((rowPairs rd nd t f b h i).map (·.ds)))))
        (List.range dh) (fun d => keys.map (fun j => (t.k.idx rd [b, hk, j, d]).toFl))

/-- The passes that form dK and dV for keys of one batch and key head, those of a result the firing does not write left out (R204). -/
def dkvPasses (rd : Nat → U8) (nd : GNode) (t : BackIns) (w : Nat) (f : List Flip) (dk dv : Bool) (x : QTile) : List BackPass :=
  let b := x.1
  let hk := x.2.1
  let dh := inner t.q.exts
  let rows := groupRows t hk
  let row (v : TView) (hd i : Nat) : List Fl := (List.range dh).map (fun d => (v.idx rd [b, hd, i, d]).toFl)
  let vecs (v : TView) : List (Nat × List Fl) := rows.map (fun q => (flatRow t.q b q.1 q.2, row v q.1 q.2))
  let col (v : TView) (d : Nat) : List Fl := rows.map (fun q => (v.idx rd [b, q.1, q.2, d]).toFl)
  let pairs := x.2.2.map (fun j => (flatRow t.k b hk j, keyPairs rd nd t f b hk j))
  productPasses 4 (passClass t.q.d t.k.d) w (vecs t.q) x.2.2 (row t.k hk)
    ++ (if dk then productPasses 5 (passClass t.dO.d t.v.d) w (vecs t.dO) x.2.2 (row t.v hk)
          ++ productPasses 6 (passClass t.q.d t.q.d) w (pairs.map (fun q => (q.1, narrowed t.q.d (q.2.map (·.ds))))) (List.range dh) (col t.q) else [])
    ++ (if dv then productPasses 7 (passClass t.dO.d t.dO.d) w (pairs.map (fun q => (q.1, narrowed t.dO.d (q.2.map (·.p))))) (List.range dh) (col t.dO) else [])

/-- The pass after which an injected flip alters a logical column of a vector. -/
def BackPass.flipOf (f : List Flip) (x : BackPass) (row c : Nat) : Option Nat :=
  (f.find? (fun y => decide (y.kind = x.kind) && decide (y.row = row) && decide (y.col0 = x.col0) && decide (y.off = c))).map (·.pass)

/-- The check of one vector of a pass (R141 to R144, R618); columns beyond the tile hold zero weights (R127). -/
def BackPass.check (tol w : Nat) (f : List Flip) (x : BackPass) (v : Nat × List Fl) : TallyResult :=
  let zeros := v.2.map (fun _ => Fl.zero false)
  let parts := (List.range w).map (fun c => chunks 32 (kChunks x.cls (v.2.zip (x.cols.getD c zeros))))
  let sums := ((List.range w).zip parts).map (fun q =>
    (passSums (fun (s : Fl) c => (accChunk (s, 0) (chunkResult c)).1) flip12 (.fin false 0 0) q.2 (x.flipOf f v.1 q.1)).getD x.p (.zero false, .zero false))
  let here := parts.map (fun l => l.getD x.p [])
  checkFl tol ((here.headD []).map (fun l => l.map (·.1))) (here.map (fun l => l.map (fun c => c.map (·.2)))) (sums.map (·.1)) (sums.map (·.2))

/-- The stationary tile of a pass (R124, R127). -/
def BackPass.tile (w : Nat) (x : BackPass) : Tile :=
  let l : Tile := x.cols.map (fun c => ((chunks 32 (kChunks x.cls (c.map (fun v => (v, v))))).getD x.p []).map (fun q => q.map (fun p => Val.fl p.2)))
  l ++ List.replicate (w - l.length) ((l.headD []).map zeroWeights)

/-- A BACKWARD firing's share on one core of the quad: the flat query rows of dQ and key rows of dK and dV that it serves (R204, R205). -/
def backRun (rd : Nat → U8) (nd : GNode) (ins : List TView) (core w tol : Nat) (qrows krows : List Nat) (dk dv : Bool) (sel : List Nat → Option (Nat × Nat × Nat)) : ArrayRun :=
  let t := backIns nd ins
  let run (f : List Flip) : List BackPass := (qTiles t.q qrows).flatMap (dqPasses rd nd t w f) ++ (qTiles t.k krows).flatMap (dkvPasses rd nd t w f dk dv)
  let plain := run []
  let vs := plain.map (fun x => x.rows.length)
  let hit := sel vs
  let flips : List Flip := match hit with
    | some (i, n, col) => (match plain[i]? with
        | some x => if col < w then [⟨(x.rows.map (·.1)).getD n 0, x.col0, x.cols.length, col, x.p, x.kind⟩] else []
        | none => [])
    | none => []
  let done := if flips.isEmpty then plain else run flips
  { core := core, int := false, vs := vs, tiles := plain.map (fun x => x.tile w), flips := flips, hit := hit.map (fun h => (h.1, h.2.1))
    classes := plain.map (·.cls), found := done.map (fun x => x.rows.map (x.check tol w flips)) }

/-- The flags that the curve units raise for a BACKWARD firing over query rows and key rows (R190, R204). -/
def backCurve (rd : Nat → U8) (nd : GNode) (ins : List TView) (f : List Flip) (qrows krows : List Nat) : Flags :=
  let t := backIns nd ins
  ((qTiles t.q qrows).flatMap (fun x => x.2.2.flatMap (fun i => (rowPairs rd nd t f x.1 x.2.1 i).map (·.curve)))
    ++ (qTiles t.k krows).flatMap (fun x => x.2.2.flatMap (fun j => (keyPairs rd nd t f x.1 x.2.1 j).map (·.curve)))).foldl (· ||| ·) 0

end Sys2Proof.Machine
end

