-- ==== Sys2Proof/Machine/FrameOps.lean ====
section
/-! DEFINITION. Frames that have arrived: what a port drops on sight (R333), how a frame leaves its receive buffer and its credits return (R341), forwarding (R347, R348), and the job a key selects (R349). -/

namespace Sys2Proof.Machine

/-- The payload bytes a frame type may hold (R332, R333). -/
def payloadMax (type : Nat) : Nat :=
  if type = ftSwell then 8 else if type = ftHeartbeat then 16 else if type = ftDigest then 24 else if type = ftClean then 16
  else if type = ftRetract then 32 else 2048

/-- The classes R332 allows for a type. -/
def classOk (type cls : Nat) : Bool :=
  if 8 ≤ type then decide (cls = 0)
  else if type = ftCollReady ∨ type = ftCollData then decide (cls = 1) || decide (cls = 3)
  else decide (cls = 2) || decide (cls = 3)

/-- Reserved bytes of a payload (R332, R334). -/
def reservedZero (type : Nat) (p : List U8) : Bool :=
  let z (o k : Nat) : Bool := decide (leNat ((p.drop o).take k) = 0)
  if type = ftSwell then z 6 2
  else if type = ftHeartbeat then z 6 2 && z 10 2
  else if type = ftDigest then z 20 4
  else if type = ftReadReq then z 4 4
  else if type = ftWriteAck then z 2 2
  else if type = ftClean then z 12 4
  else if type = ftRetract then z 4 4 && z 18 2 && z 28 4
  else true

/-- Whether a frame passes the tests of R333, its HOPS apart. -/
def Frame.wellFormed (f : Frame) : Bool :=
  decide (1 ≤ f.type) && decide (f.type ≤ 12) && classOk f.type f.cls && decide (f.payload.length ≤ payloadMax f.type)
    && f.clean && reservedZero f.type f.payload

/-- Credits a frame takes (R341). -/
def Frame.credits (f : Frame) : Nat := (32 + f.payload.length + 63) / 64

/-- The frame at the head of a port's receive buffer leaves it, and its credits are owed to the peer (R341). -/
def State.popFrame (s : State) (p : Nat) (f : Frame) : State :=
  let x := s.port p
  s.setPort p { x with rxBuf := x.rxBuf.tail, owed := x.owed.set f.cls (x.owed.getD f.cls 0 + f.credits) }

/-- Whether an arriving frame may pass the port at all: the twin link carries only its own frames (R368). -/
def State.arrives (s : State) (p : Nat) (f : Frame) : Bool :=
  !s.isTwinPort p ||
    ((decide (f.type = ftTwin) || decide (f.type = ftWriteAck) || decide (f.cls = 0)) && (decide (f.src = s.twinPartner) && (f.bcast || decide (f.dst = s.selfId))))

/-- Whether a frame is delivered here (R346, R348). -/
def State.delivered (s : State) (p : Nat) (f : Frame) : Bool :=
  s.arrives p f && (if f.bcast then decide (s.field (wwyPage p) 0x048 12 1 = 1) else decide (f.dst = s.selfId))

/-- A broadcast sent on from its arrival port (R347, R348); the twin link forwards nothing (R368). -/
def State.forwardBcast (s : State) (p : Nat) (f : Frame) : State :=
  let mask := s.field (wwyPage p) 0x048 0 12
  if mask = 0 || s.isTwinPort p then s
  else if f.hops ≤ 1 then s.countDrop p
  else s.broadcastOn mask { f with hops := f.hops - 1 }

/-- The frame of a type at the head of a port's buffer, if it is delivered here: taken out, a broadcast sent on as well; with the port. -/
def State.takePort (s : State) (p type : Nat) : Option (State × Nat × Frame) :=
  match (s.port p).rxBuf with
  | f :: _ =>
    if f.type = type ∧ s.delivered p f then
      let s1 := s.popFrame p f
      some (if f.bcast then s1.forwardBcast p f else s1, p, f)
    else none
  | [] => none

/-- The frame of a type that a delivery takes: the oldest that the module has addressed to itself, which came by no port (12), or else the one a port holds (R346). DESIGN CHOICE (log entry 33): the order between the two. -/
def State.takeFrame (s : State) (p type : Nat) : Option (State × Nat × Frame) :=
  match s.looped with
  | f :: rest => if f.type = type then some ({ s with looped := rest }, 12, f) else s.takePort p type
  | [] => s.takePort p type

/-- A delivered frame handled, with the port it came by; where no such frame is there, nothing happens. -/
def State.onFrame (s : State) (p type : Nat) (k : State → Nat → Frame → State) : State :=
  match s.takeFrame p type with
  | some (t, q, f) => k t q f
  | none => s

/-- FRAME_FORWARD (R346 to R348, R368): the head frame, not for this module, is sent on, sent round, or dropped. -/
def execFrameForward (p : Fin 12) (s : State) : Res :=
  .next (
    match (s.port p.val).rxBuf with
    | f :: _ =>
      if s.delivered p.val f then s
      else
        let s1 := s.popFrame p.val f
        if !s.arrives p.val f || s.isTwinPort p.val then s1.countDrop p.val
        else if f.bcast then s1.forwardBcast p.val f
        else if f.hops ≤ 1 then s1.countDrop p.val
        else
          let g := { f with hops := f.hops - 1 }
          match s1.egress g with
          | some e => if s1.carries e g then s1.enqueue e g else s1.countDrop e
          | none => s1.countDrop p.val
    | [] => s)

/-- The job a frame of class 1 to 3 is accepted for (R336, R349). -/
def State.frameJob (s : State) (f : Frame) : Option Nat :=
  match s.jobOfKey f.jobKey with
  | some j => if (s.job j).descant = decide (f.cls = 3) then some j else none
  | none => none

/-- A frame of class 1 to 3 handled for its job, or dropped and counted (R349). -/
def State.onJobFrame (s : State) (p type : Nat) (k : State → Nat → Frame → Nat → State) : State :=
  s.onFrame p type (fun t q f => match t.frameJob f with | some j => k t q f j | none => t.countDrop q)

/-- A field of a payload. -/
def Frame.field (f : Frame) (o k : Nat) : Nat := leNat ((f.payload.drop o).take k)

end Sys2Proof.Machine
end

