-- ==== Sys2Proof/Machine/Rsa.lean ====
section
/-! DEFINITION. RSASSA-PSS with SHA-256 and MGF1-SHA-256, a 32-byte salt, RSA-3072 and exponent 65,537, by which firmware is verified, and the module's own signatures, RSASSA or RSAPSS (R2, R523, R524, R527, R534). PRESUMED (log entry 34): the spec names the schemes, and their steps are those of RFC 8017. -/

namespace Sys2Proof.Machine

/-- The number that bytes spell, the most significant first, and back. -/
def rsaNat (bs : List U8) : Nat := leNat bs.reverse
def rsaBytes (n k : Nat) : List U8 := (leBytes n k).reverse

/-- `x` squared `k` times modulo `n`. -/
def squares (n : Nat) : Nat → Nat → Nat
  | 0, x => x
  | k + 1, x => squares n k (x * x % n)

/-- `x` to the power 65,537 modulo `n` (R523). -/
def rsaPublic (n x : Nat) : Nat := squares n 16 (x % n) * x % n

/-- The mask of `len` bytes that MGF1 forms of a seed. -/
def mgf1 (seed : List U8) (len : Nat) : List U8 :=
  ((List.range ((len + 31) / 32)).flatMap (fun i => sha256 (seed ++ rsaBytes 4 i))).take len

/-- Whether an encoded message of 384 bytes is one of a hash: the padding, and the hash of the salted hash. -/
def pssOk (em mHash : List U8) : Bool :=
  let masked := em.take 351
  let h := (em.drop 351).take 32
  let db : List U8 := (masked.zip (mgf1 h 351)).map (fun p => p.1 ^^^ p.2)
  let db1 : List U8 := match db with | b :: l => (b &&& 0x7F) :: l | [] => []
  decide (em.length = 384) && decide (em.getLast? = some 0xBC) && decide ((masked.headD 0) < 0x80)
    && (db1.take 318).all (fun b => decide (b = 0)) && decide (db1.getD 318 0 = 1)
    && decide (sha256 (List.replicate 8 0 ++ mHash ++ db1.drop 319) = h)

/-- Whether a signature of 384 bytes verifies over a hash under a modulus. -/
def rsaVerify (n : Nat) (sig mHash : List U8) : Bool :=
  let x := rsaNat sig
  decide (sig.length = 384) && decide (x < n) && pssOk (rsaBytes 384 (rsaPublic n x)) mHash

/-- `x` to the power of a number of at most `k` bits, modulo `n`. -/
def powMod (n : Nat) : Nat → Nat → Nat → Nat
  | 0, _, _ => 1 % n
  | k + 1, x, d => let y := powMod n k (x * x % n) (d / 2); if d % 2 = 1 then x * y % n else y

/-- The encoded message of RSASSA: the padding, the name of SHA-256, and the hash. -/
def rsassaEncode (mHash : List U8) : List U8 :=
  [0, 1] ++ List.replicate 330 0xFF ++ [0, 0x30, 0x31, 0x30, 0x0D, 0x06, 0x09, 0x60, 0x86, 0x48, 0x01, 0x65, 0x03, 0x04, 0x02, 0x01, 0x05, 0x00, 0x04, 0x20] ++ mHash

/-- The encoded message of RSAPSS with a salt of 32 bytes. -/
def pssEncode (mHash salt : List U8) : List U8 :=
  let h := sha256 (List.replicate 8 0 ++ mHash ++ salt)
  let masked : List U8 := ((List.replicate 318 0 ++ [1] ++ salt).zip (mgf1 h 351)).map (fun (p : U8 × U8) => p.1 ^^^ p.2)
  (match masked with | b :: l => (b &&& 0x7F) :: l | [] => []) ++ h ++ [0xBC]

/-- A signature of 384 bytes by the device identity key over a message, RSASSA or RSAPSS (R2, R524, R527). -/
def deviceSign (pss : Bool) (m : List U8) : List U8 :=
  let em := if pss then pssEncode (sha256 m) ((List.range 32).map (Config.signSalt m)) else rsassaEncode (sha256 m)
  rsaBytes 384 (powMod Config.deviceModulus 3072 (rsaNat em) Config.devicePrivate)

end Sys2Proof.Machine
end

