-- ==== Sys2Proof/Machine/ServiceOps.lean ====
section
/-! DEFINITION. The service port's sessions and the form of its replies (R529 to R532), and the end of a session (R539, R590). -/

namespace Sys2Proof.Machine

/-- Roles (R530). -/
def roleRead : Nat := 0
def roleOperate : Nat := 1
def roleUpdate : Nat := 2
def roleSecurity : Nat := 3

/-- The session of an index, if it is open. -/
def State.session (s : State) (i : Nat) : Option Session := (s.sessions.find? (fun p => decide (p.1 = i))).map (·.2)

def Session.holds (x : Session) (role : Nat) : Bool := x.roles.testBit role

/-- The one reply to a request (R531): its OP, TAG, status and payload. -/
def State.reply (s : State) (q : SvcReq) (op : Nat) (status : U16) (payload : List U8) : State :=
  s.emit (.service q.session.val op q.tag status payload)

/-- A service request (R530 to R532, R546): on an open session that holds the role; in recovery mode only the operations R546 names. DESIGN CHOICE (log entry 41): any other is answered S_SVC_DENIED. -/
def State.serve (s : State) (q : SvcReq) (op role : Nat) (inRecovery : Bool) (f : State → State) : State :=
  match s.session q.session.val with
  | none => s
  | some x =>
    if !x.holds role || (s.start.recovery && !inRecovery) then s.reply q op S_SVC_DENIED []
    else f s

/-- The update lock's holder (R538, R539). -/
def State.lockedBy (s : State) (i : Nat) : Bool :=
  match s.fw with
  | some w => decide (w.owner = i) && decide (w.stage ≠ .activated)
  | none => false

def State.locked (s : State) : Bool :=
  match s.fw with
  | some w => decide (w.stage ≠ .activated)
  | none => false

/-- The update lock released (R539): the inactive slot stays invalid unless FW_END has succeeded. -/
def State.releaseLock (s : State) : State := if s.locked then { s with fw := none } else s

/-- A service session ends: its update lock, its latch and its held LO writes go (R539, R590). -/
def State.endSession (s : State) (i : Fin 4) : State :=
  let s1 := if s.lockedBy i.val then s.releaseLock else s
  { s1 with
    sessions := s1.sessions.filter (fun p => !decide (p.1 = i.val))
    latches := s1.latches.filter (fun l => !decide (l.requester = .svc i))
    heldLo := s1.heldLo.filter (fun l => !decide (l.requester = .svc i)) }

/-- Whether a handshake fits R529, the certificate chain apart. -/
def Handshake.fits (h : Handshake) : Bool :=
  h.tls13 && h.valid && (decide (h.suite = 0x1302) || decide (h.suite = 0x1301)) && (decide (h.group = 0x18) || decide (h.group = 0x1D))
    && h.clientCert && (if h.ecdsa then decide (h.keyBits = 384) else decide (2048 ≤ h.keyBits) && decide (h.keyBits ≤ 4096))
    && !h.resumption && !h.earlyData

/-- The anchor a client certificate chains to (R530). -/
def State.anchorFor (s : State) (h : Handshake) : Option Anchor := s.start.anchors.find? (fun a => h.chain.contains a.caHash)

/-- The lowest session index free. -/
def State.freeSession (s : State) : Option Nat := (List.range 4).find? (fun i => (s.session i).isNone)

/-- SERVICE_CONNECT (R529, R530): a fitting handshake opens a session with its anchor's roles; any other is refused and counted. -/
def execServiceConnect (h : Handshake) (s : State) : Res :=
  .next (
    if s.start.powered then
      match s.freeSession, s.anchorFor h with
      | some i, some a =>
        if h.fits then { s with sessions := s.sessions ++ [(i, ⟨a.roles⟩)] } else (s.countSat .sec 0x070).raise .sec 0
      | _, _ => (s.countSat .sec 0x070).raise .sec 0
    else s)

/-- SERVICE_IDLE_TIMEOUT (R529, R539): 300 s without a request. -/
def execServiceIdleTimeout (i : Fin 4) (s : State) : Res :=
  .next (if (s.session i.val).isSome then (s.endSession i).emit (.serviceClosed i.val) else s)

/-- SERVICE_SESSION_END (R539, R590). -/
def execServiceSessionEnd (i : Fin 4) (s : State) : Res :=
  .next (if (s.session i.val).isSome then s.endSession i else s)

end Sys2Proof.Machine
end

