-- ==== Sys2Proof/Machine/Firmware.lean ====
section
/-! DEFINITION. Firmware update over the service port (R533 to R542): header and manifest, op streams, the inactive slot and its activation. -/

namespace Sys2Proof.Machine

/-! ### Reading the file (R534 to R536) -/

def leAt (bs : List U8) (o k : Nat) : Nat := leNat ((bs.drop o).take k)

def allZero (bs : List U8) : Bool := bs.all (fun b => decide (b = 0))

/-- The signed header of a payload (R534), its signature checked under the key it names, over the SHA-256 of its first 128 bytes. -/
def readFwHeader (keys : List Nat) (bs : List U8) : FwHeader :=
  { magic := BitVec.ofNat 32 (leAt bs 0 4), format := BitVec.ofNat 16 (leAt bs 4 2), keyIndex := leAt bs 6 1
    model := BitVec.ofNat 32 (leAt bs 8 4), svn := leAt bs 0xC 4, version := BitVec.ofNat 32 (leAt bs 0x10 4)
    manifestBytes := leAt bs 0x14 4, partCount := leAt bs 0x18 4, flags := BitVec.ofNat 32 (leAt bs 0x1C 4)
    manifestHash := (bs.drop 0x20).take 32
    reservedZero := allZero ((bs.drop 7).take 1) && allZero ((bs.drop 0x40).take 64) && decide (leAt bs 0x1C 4 < 64)
    sigOk := rsaVerify (keys.getD (leAt bs 6 1) 0) ((bs.drop 0x80).take 384) (sha256 (bs.take 0x80)) }

/-- A manifest entry (R535). -/
def readFwEntry (bs : List U8) : FwEntry :=
  ⟨leAt bs 0 1, leAt bs 1 1, BitVec.ofNat 32 (leAt bs 4 4), leAt bs 8 4, leAt bs 0xC 4, (bs.drop 0x10).take 32, (bs.drop 0x30).take 32⟩

def readManifest (bs : List U8) : List FwEntry := (List.range 7).map (fun i => readFwEntry ((bs.drop (80 * i)).take 80))

/-- Largest size of a part (R533). -/
def partMax (p : Nat) : Nat :=
  match p with
  | 1 => 0x400000
  | 2 => 0x800000
  | 3 => 0x200000
  | 4 => 0x10000
  | 5 => 0x400000
  | 6 => 0x200000
  | _ => 0x780000

/-- One entry's form (R535, R537 check 6). -/
def entryOk (i : Nat) (e : FwEntry) : Bool :=
  decide (e.part = i + 1) && decide (e.kind ≤ 2) && decide (e.size ≤ partMax e.part) && decide (e.size % 4096 = 0)
    && (decide (e.kind ≠ 0) || decide (e.streamBytes = 0))

/-- R537 check 6: parts in order, kinds, sizes, the room in a slot, and FULL only without SAME or DELTA parts. -/
def manifestOk (h : FwHeader) (es : List FwEntry) : Bool :=
  (es.zip (List.range es.length)).all (fun p => entryOk p.2 p.1)
    && decide (0x10000 + es.foldl (fun t e => t + e.size) 0 ≤ 0x1C00000)
    && (!h.flags.toNat.testBit 0 || es.all (fun e => decide (e.kind = 2)))

/-- R537 check 8: every SAME or DELTA part derives from the installed one. -/
def sourcesOk (es act : List FwEntry) : Bool :=
  (es.zip (List.range es.length)).all (fun p => decide (p.1.kind = 2) || decide ((act.map (·.resultHash)).getD p.2 [] = p.1.sourceHash))

/-- The checks of FW_BEGIN in order (R537); in recovery mode only FULL files, without check 8 (R546; DESIGN CHOICE, log entry 41: any other is answered S_FW_BASE). -/
def State.fwCheck (s : State) (i : Nat) (h : FwHeader) (raw : List U8) (es : List FwEntry) : Option U16 :=
  match s.flash.headerCheck h with
  | some c => some c
  | none =>
    let act := (s.flash.slot s.flash.commitOr.active).manifest
    if sha256 raw ≠ h.manifestHash then some S_FW_SIGNATURE
    else if !manifestOk h es then some S_FW_FORMAT
    else if h.svn < s.flash.floor then some S_FW_ROLLBACK
    else if (if s.start.recovery then !h.flags.toNat.testBit 0 else !sourcesOk es act) then some S_FW_BASE
    else if s.locked && !s.lockedBy i then some S_FW_SESSION
    else if s.flash.commitOr.trial then some S_FW_STATE
    else none

/-! ### Op streams (R536) -/

/-- An op stream run over the installed part: the bytes it builds, or nothing where anything in it is wrong; `size` bounds the output. -/
def runOps (src : List U8) (size : Nat) : Nat → List U8 → List U8 → Option (List U8)
  | 0, _, _ => none
  | fuel + 1, bs, out =>
    match bs with
    | [] => none
    | op :: rest =>
      if op = 0 then (if rest = [] ∧ out.length = size then some out else none)
      else if op = 1 then
        let o := leAt rest 0 4
        let n := leAt rest 4 4
        if 8 ≤ rest.length ∧ 1 ≤ n ∧ o + n ≤ src.length ∧ out.length + n ≤ size then
          runOps src size fuel (rest.drop 8) (out ++ (src.drop o).take n) else none
      else if op = 2 then
        let n := leAt rest 0 4
        if 4 + n ≤ rest.length ∧ 1 ≤ n ∧ out.length + n ≤ size then
          runOps src size fuel (rest.drop (4 + n)) (out ++ (rest.drop 4).take n) else none
      else if op = 3 then
        let n := leAt rest 0 4
        if 5 ≤ rest.length ∧ 1 ≤ n ∧ out.length + n ≤ size then
          runOps src size fuel (rest.drop 5) (out ++ List.replicate n ((rest.getD 4 0))) else none
      else none

/-- Whether an op stream holds a COPY, which a FULL part may not (R535). -/
def hasCopy : Nat → List U8 → Bool
  | 0, _ => false
  | fuel + 1, bs =>
    match bs with
    | [] => false
    | op :: rest =>
      if op = 1 then true
      else if op = 2 then hasCopy fuel (rest.drop (4 + leAt rest 0 4))
      else if op = 3 then hasCopy fuel (rest.drop 5)
      else false

/-- What building has come to with the stream bytes delivered so far. -/
inductive Build
  | bad
  | more (parts : List (List U8))
  | whole (parts : List (List U8))
  deriving DecidableEq, Repr

/-- The parts built in order: SAME copied from the active slot, the others from their op streams once each is whole (R538). -/
def buildParts (src : List (List U8)) : List FwEntry → Nat → List U8 → List (List U8) → Build
  | [], _, got, acc => if got = [] then .whole acc else .bad
  | e :: es, i, got, acc =>
    let inst := src.getD i []
    if e.kind = 0 then buildParts src es (i + 1) got (acc ++ [inst])
    else if got.length < e.streamBytes then .more acc
    else
      let st := got.take e.streamBytes
      if e.kind = 2 ∧ hasCopy (st.length + 1) st then .bad
      else match runOps inst e.size (st.length + 1) st [] with
        | some p => buildParts src es (i + 1) (got.drop e.streamBytes) (acc ++ [p])
        | none => .bad

def State.fwBuild (s : State) (w : FwSession) : Build :=
  buildParts (s.flash.slot s.flash.commitOr.active).parts w.manifest 0 w.got []

/-- Code of the last update operation (R548). -/
def State.fwResult (s : State) (c : U16) : State := s.setReg .fwu 0x050 (c.zeroExtend 32)

/-- The reply to an update operation, with FWU_RESULT. -/
def State.fwReply (s : State) (q : SvcReq) (op : Nat) (c : U16) : State := (s.fwResult c).reply q op c []

/-! ### The operations (R537 to R542) -/

def opFwBegin : Nat := 0x10
def opFwData : Nat := 0x11
def opFwEnd : Nat := 0x12
def opFwActivate : Nat := 0x13
def opFwCancel : Nat := 0x14

/-- FW_BEGIN (R537, R538): the checks in order; an accepted update takes the lock and erases the inactive slot's header. -/
def execFwBegin (q : SvcReq) (payload : List U8) (s : State) : Res :=
  .next (s.serve q opFwBegin roleUpdate true (fun s =>
    let h := readFwHeader s.flash.romKeys payload
    let raw := (payload.drop 512).take 560
    let es := readManifest raw
    match (if payload.length = 1072 then s.fwCheck q.session.val h raw es else some S_FW_FORMAT) with
    | some c => (s.raise .fwu 2).fwReply q opFwBegin c
    | none =>
      let s1 : State := { s with
        flash := s.flash.setSlot s.flash.inactive .erased
        fw := some ⟨q.session.val, .receiving, h, payload.take 512, raw, es, []⟩ }
      s1.fwReply q opFwBegin S_OK))

/-- An update operation of the lock's holder; anyone else's is out of order, or meets another's lock (R538, R552). -/
def State.withUpdate (s : State) (q : SvcReq) (op : Nat) (f : FwSession → State) : State :=
  match s.fw with
  | some w => if w.owner = q.session.val then f w else s.fwReply q op (if w.stage = .activated then S_FW_STATE else S_FW_SESSION)
  | none => s.fwReply q op S_FW_STATE

/-- FW_DATA (R532, R536): bytes at the offset that follows the last; a malformed stream fails the session. -/
def execFwData (q : SvcReq) (off : Nat) (bytes : List U8) (s : State) : Res :=
  .next (s.serve q opFwData roleUpdate true (fun s => s.withUpdate q opFwData (fun w =>
    if w.stage ≠ .receiving ∨ off ≠ w.got.length then s.fwReply q opFwData S_FW_STATE
    else
      let w' := { w with got := w.got ++ bytes }
      match s.fwBuild w' with
      | .bad => ({ s with fw := none }).fwReply q opFwData S_FW_FORMAT
      | _ => ({ s with fw := some w' }).fwReply q opFwData S_OK)))

/-- FW_END (R538): every part checked against its RESULT_HASH. -/
def execFwEnd (q : SvcReq) (s : State) : Res :=
  .next (s.serve q opFwEnd roleUpdate true (fun s => s.withUpdate q opFwEnd (fun w =>
    if w.stage ≠ .receiving then (s.raise .fwu 2).fwReply q opFwEnd S_FW_STATE
    else match s.fwBuild w with
      | .whole parts =>
        if partsGood w.manifest parts then
          ({ s with
            flash := s.flash.setSlot s.flash.inactive ⟨some w.header, w.headerRaw, w.manifestRaw, w.manifest, parts, true⟩
            fw := some { w with stage := .verified } }).fwReply q opFwEnd S_OK
        else (s.raise .fwu 2).fwReply q opFwEnd S_FW_HASH
      | _ => (s.raise .fwu 2).fwReply q opFwEnd S_FW_STATE)))

/-- FW_ACTIVATE (R542): a TRIAL record naming the new slot; the lock is released (R539). -/
def execFwActivate (q : SvcReq) (s : State) : Res :=
  .next (s.serve q opFwActivate roleUpdate true (fun s => s.withUpdate q opFwActivate (fun w =>
    if w.stage ≠ .verified then s.fwReply q opFwActivate S_FW_STATE
    else
      let c := s.flash.commitOr
      let old := ((s.flash.slot c.active).header.map (·.version.toNat)).getD 0
      let f := s.flash.writeCommit ⟨c.gen + 1, s.flash.inactive, true, 3, w.header.manifestHash, w.header.svn⟩
      (({ s with flash := f, fw := some { w with stage := .activated } }).record
        { kind := 0x33, outcome := 0, detail := [old, c.svn, w.header.version.toNat, w.header.svn] }).fwReply q opFwActivate S_OK)))

/-- FW_CANCEL (R532, R539). -/
def execFwCancel (q : SvcReq) (s : State) : Res :=
  .next (s.serve q opFwCancel roleUpdate false (fun s => s.withUpdate q opFwCancel (fun w =>
    if w.stage = .activated then s.fwReply q opFwCancel S_FW_STATE else (s.releaseLock).fwReply q opFwCancel S_OK)))

end Sys2Proof.Machine
end

