-- ==== Sys2Proof/Machine/Views.lean ====
section
/-! DEFINITION. What a read of a BAR0 register returns: registers that show other state are computed from it here, page by page; every other one reads as stored (R584, R589 to R592 and the blocks' tables). -/

namespace Sys2Proof.Machine

def lo32 (n : Nat) : U32 := BitVec.ofNat 32 n
def hi32 (n : Nat) : U32 := BitVec.ofNat 32 (n / 0x100000000)
def bit1 (b : Bool) : Nat := if b then 1 else 0

/-- The header registers (R584). -/
def State.viewHeader (s : State) (pg : Page) (off : Nat) : U32 :=
  match off with
  | 0x000 => packFields [(pg.type, 0, 16), (pg.inst, 16, 8), (1, 24, 8)]
  | 0x004 => packFields [(bit1 pg.hasNumflags, 0, 1), (bit1 pg.hasInj, 1, 1), (pg.top, 12, 12)]
  | 0x00C => packFields [(bit1 (decide (s.reg pg offErrStat &&& ~~~(s.reg pg offErrMask) ≠ 0)), 0, 1), (bit1 (decide (s.reg pg offErrInj &&& 0xFF ≠ 0)), 1, 1)]
  | 0x010 => s.reg pg offErrStat
  | 0x014 => s.reg pg offErrMask
  | 0x018 => s.reg pg offErrInj
  | 0x01C => s.reg pg offErrFirst
  | _ => 0

/-! ### Tolium's pages (R510 to R512, R547 to R549) -/

def State.runningVersion (s : State) : U32 := ((s.flash.slot s.start.slot).header.map (·.version)).getD 0

/-- TOL_STATUS, TOL_DIES and TOL_LINKS (R547). -/
def State.tolStatus (s : State) : U32 :=
  packFields [(bit1 s.start.ready, 0, 1), (s.start.step, 1, 4), (s.start.slot, 5, 1), (bit1 s.flash.commitOr.trial, 6, 1),
    (bit1 s.start.recovery, 7, 1), (bit1 s.start.calDefault, 8, 1), (bit1 s.start.settingsBad, 9, 1)]

def State.tolDies (s : State) : U32 :=
  packFields ((List.range 3).map (fun b => (bit1 (s.baseUp b), b, 1)) ++ (List.range 12).map (fun d => (bit1 (s.computeUp d), 3 + d, 1)))

def State.cxlUp (s : State) (p : Nat) : Bool := (s.cxl.ports.getD p .down).up

def State.tolLinks (s : State) : U32 :=
  packFields ((List.range 2).map (fun p => (bit1 (s.cxlUp p), p, 1)) ++ (List.range 12).map (fun p => (bit1 (s.portUp p), 2 + p, 1)))

def State.viewTol (s : State) (off : Nat) : U32 :=
  match off with
  | 0x040 => s.tolStatus
  | 0x044 => s.tolDies
  | 0x048 => s.tolLinks
  | 0x04C => lo32 s.start.startMs
  | 0x050 => s.start.boots
  | 0x054 => s.runningVersion
  | 0x058 => lo32 Config.serial.toNat
  | 0x05C => hi32 Config.serial.toNat
  | _ => s.reg .tol off

def State.swlCap (s : State) : U32 :=
  packFields [(s.pwr.cap, 0, 16), (s.pwr.limiter, 16, 2), (s.pwr.source.code, 18, 2), (s.pwr.stage, 20, 2)]

def State.viewSwl (s : State) (off : Nat) : U32 :=
  let p := s.pwr
  match off with
  | 0x04C => s.swlCap
  | 0x050 => lo32 (p.target % 65536)
  | 0x054 => packFields [(p.inputW, 0, 16), (p.input10mV, 16, 16)]
  | 0x058 => packFields [(p.step, 0, 6), ((dutyByte p.duty).toNat, 8, 8), (stepMhz p.step, 16, 16)]
  | _ => s.reg .swl off

def State.viewBrt (s : State) (off : Nat) : U32 :=
  let i := s.field .brt 0x044 0 5
  match off with
  | 0x048 => packFields [((s.pwr.brtLow.getD i 0).toNat, 0, 16), ((s.pwr.brtHigh.getD i 0).toNat, 16, 16)]
  | 0x04C => (s.pwr.brtLast.getD i 0).zeroExtend 32
  | _ => s.reg .brt off

/-- The hottest up die by its last REPORT, the lowest number on a tie (R511). -/
def State.hottest (s : State) : Nat × Nat :=
  ((List.range 15).filter (fun d => (s.die d).up)).foldl (fun (m : Nat × Nat) d => if m.1 < (s.die d).rep.tempC.toNat then ((s.die d).rep.tempC.toNat, d) else m) (0, 0)

def State.thermBits (s : State) : Nat := bit1 s.throttled + 2 * bit1 s.pwr.flowLow + 4 * bit1 s.pwr.leak

def State.viewPwr (s : State) (off : Nat) : U32 :=
  match off with
  | 0x040 => packFields [(s.pwr.st.code, 0, 2), (bit1 s.pwr.change.isSome, 2, 1)]
  | 0x04C => packFields [(s.hottest.1, 0, 8), (s.hottest.2, 8, 4), (s.thermBits, 12, 3)]
  | 0x050 => lo32 s.pwr.mlpm
  | 0x058 => lo32 s.pwr.throttleMs
  | _ => s.reg .pwr off

/-- Whether the inactive slot holds a checked image (R548). -/
def Flash.inactiveOk (f : Flash) : Bool := (f.slot f.inactive).checked

/-- Slot bytes written in the session (R548): the header area erased, the parts built, those of the part under way by the operations delivered whole. -/
def State.fwProgress (s : State) : Nat :=
  match s.fw with
  | some w =>
    match s.fwBuild w with
    | .more parts | .whole parts => 0x10000 + parts.foldl (fun t p => t + p.length) 0
    | .bad => 0x10000
  | none => 0

def State.viewFwu (s : State) (off : Nat) : U32 :=
  let c := s.flash.commitOr
  let ok := s.flash.inactiveOk
  let hdr (i : Nat) : Option FwHeader := (s.flash.slot i).header
  match off with
  | 0x040 => packFields [(match s.fw with | some w => (match w.stage with | .receiving => 1 | .verified => 2 | .activated => 3) | none => 0, 0, 2),
      (c.active, 2, 1), (bit1 ok, 3, 1), (c.tries, 4, 2), (bit1 c.trial, 6, 1)]
  | 0x044 => packFields [(s.flash.floor, 0, 8), (((hdr c.active).map (·.svn)).getD 0, 8, 8), (if ok then ((hdr s.flash.inactive).map (·.svn)).getD 0 else 0, 16, 8)]
  | 0x048 => ((hdr c.active).map (·.version)).getD 0
  | 0x04C => if ok then ((hdr s.flash.inactive).map (·.version)).getD 0 else 0
  | 0x054 => lo32 s.fwProgress
  | 0x058 => c.gen
  | _ => s.reg .fwu off

/-- The digest of a measurement block (R528): 1 to 10 as taken at the last start, 11 as its state now stands. -/
def State.measurement (s : State) (i : Nat) : List U8 :=
  if i = 11 then sha256 (Config.settingBytes 11 [s.flash.floor, s.flash.revoked, 1, bit1 s.flash.commitOr.trial])
  else if 1 ≤ i ∧ i ≤ 10 then s.start.measured.getD (i - 1) []
  else []

def State.viewSec (s : State) (off : Nat) : U32 :=
  if 0x048 ≤ off ∧ off ≤ 0x064 then lo32 (leNat (((s.measurement (s.field .sec 0x044 0 4)).drop (off - 0x048)).take 4))
  else match off with
  | 0x040 => packFields [(1, 0, 1), (s.flash.revoked, 1, 4), (bit1 s.flash.identityOk, 5, 1)]
  | 0x06C => lo32 s.sessions.length
  | _ => s.reg .sec off

/-! ### Module pages of base die 1 (R71, R236, R375, R376, R397, R445 to R447) -/

def State.viewGrn (s : State) (off : Nat) : U32 :=
  let j := s.field .grn 0x050 0 8
  let x := s.job j
  let sel := s.reg .grn 0x048
  if 0x080 ≤ off ∧ off ≤ 0x0BC then
    match s.logRecord sel with
    | some r => lo32 (leNat ((r.bytes.drop (off - 0x080)).take 4))
    | none => 0
  else match off with
  | 0x040 => s.logHead
  | 0x044 => s.logTail
  | 0x04C => lo32 (bit1 (s.logRecord sel).isSome)
  | 0x054 => lo32 (x.horizon.getD 0)
  | 0x058 => packFields [(x.horizon.getD 0 / 0x100000000, 0, 16), (bit1 x.horizon.isSome, 31, 1)]
  | 0x05C => lo32 (s.horizonWait j)
  | 0x060 => lo32 (x.cleanSent.getD 0)
  | 0x064 => packFields [(x.cleanSent.getD 0 / 0x100000000, 0, 16), (bit1 x.cleanSent.isSome, 31, 1)]
  | 0x068 => x.retractNext
  | 0x06C => lo32 x.retracted.length
  | _ => s.reg .grn off

/-- TUN_UNIT_AGE (R446): a count of time the model does not keep. -/
def State.ageMin (s : State) (t : TuneUnit) : Nat := min 0xFFFF ((s.pwr.clockMs - t.age) / 60000)

def State.viewTun (s : State) (off : Nat) : U32 :=
  let t := s.tuneUnit (s.field .tun 0x048 0 10)
  match off with
  | 0x04C => packFields [(t.st.code, 0, 2), (bit1 t.fenced, 2, 1), (min (t.recent s.pwr.clockMs).length 255, 3, 8)]
  | 0x050 => lo32 (s.ageMin t)
  | 0x064 => s.start.contentVersion
  | 0x068 => lo32 ((((List.range 822).filter (fun u => !(s.tuneUnit u).fenced)).map (fun u => s.ageMin (s.tuneUnit u))).foldl max 0)
  | _ => s.reg .tun off

def State.viewUni (s : State) (off : Nat) : U32 :=
  let x := s.job (s.field .uni 0x040 0 8)
  match off with
  | 0x044 => packFields [(bit1 x.uniEnable, 0, 1), (x.uniPeriod, 1, 8), (x.uniGroup, 16, 16)]
  | 0x048 => lo32 x.uniWait
  | 0x04C => packFields [(bit1 x.expelled, 0, 1), (bit1 x.disputed, 1, 1), (bit1 x.rotating, 2, 1), (bit1 x.unresolved, 3, 1)]
  | 0x050 => x.disputeKey
  | 0x054 => lo32 x.disputeStep.toNat
  | 0x058 => hi32 x.disputeStep.toNat
  | 0x068 => lo32 s.unison.length
  | _ => s.reg .uni off

def State.viewStmJob (s : State) (off : Nat) : U32 :=
  let j := s.field .stmJob 0x040 0 8
  let x := s.job j
  match off with
  | 0x044 => packFields [(bit1 x.valid, 0, 1), (bit1 x.descant, 1, 1), (x.keySlot, 8, 8), (x.descSram, 16, 7)]
  | 0x048 => lo32 (s.streamsOf j).length
  | 0x04C => lo32 (s.openCount (fun _ => true))
  | _ => s.reg .stmJob off

/-- The region entry STM_RGN_SEL selects (R236). -/
def State.selRegion (s : State) : Region := s.region (s.field .stmRgn 0x040 0 8) (s.field .stmRgn 0x040 8 6)

def State.viewStmRgn (s : State) (off : Nat) : U32 :=
  let r := s.selRegion
  match off with
  | 0x044 => lo32 r.base
  | 0x048 => hi32 r.base
  | 0x04C => lo32 r.limit
  | 0x050 => hi32 r.limit
  | 0x054 => packFields [(bit1 r.valid, 0, 1), (bit1 r.rd, 1, 1), (bit1 r.wr, 2, 1)]
  | _ => s.reg .stmRgn off

def State.viewStmQrm (s : State) (off : Nat) : U32 :=
  let x := s.slot (s.field .stmQrm 0x040 0 3)
  match off with
  | 0x044 => packFields [(bit1 x.valid, 0, 1), (x.job, 8, 8), (x.hbMiss, 16, 4)]
  | 0x054 => mergeBits (s.reg .stmQrm 0x054) (packFields [(bit1 s.seatLoad.isSome, 31, 1)]) 0x80000000
  | 0x058 => lo32 x.count
  | 0x05C => lo32 x.self
  | 0x060 => packFields [(x.live, 0, 17), (bit1 (decide (0 < x.count) && !x.dead.contains 0), 29, 1), (bit1 x.quorum, 30, 1)]
  | 0x064 => lo32 x.firstDead
  | 0x068 => lo32 x.minStep.1
  | 0x06C => hi32 x.minStep.1
  | 0x070 => lo32 x.minStep.2
  | 0x078 => x.mapWord (s.field .stmQrm 0x074 0 11)
  | 0x084 => x.losses
  | _ => s.reg .stmQrm off

/-- Window Map entries in use, all jobs (R375). -/
def State.wmapUsed (s : State) : Nat := s.wmap.foldl (fun t (p : Nat × List WEntry) => t + p.2.length) 0

def State.viewCnsMap (s : State) (off : Nat) : U32 :=
  match off with
  | 0x04C => mergeBits (s.reg .cnsMap 0x04C) (packFields [(bit1 s.wmapLoad.isSome, 31, 1)]) 0x80000000
  | 0x050 => lo32 s.wmapUsed
  | 0x05C => lo32 (s.job (s.field .cnsMap 0x058 0 8)).phase
  | _ => s.reg .cnsMap off

def State.viewWwyMod (s : State) (off : Nat) : U32 :=
  match off with
  | 0x048 => SMap.get routeDefault s.route (s.field .wwyMod 0x044 0 18)
  | 0x050 => s.keyAt (s.field .wwyMod 0x04C 0 8)
  | 0x064 => s.pwr.epoch.getD 0
  | 0x070 => lo32 (bit1 s.pwr.epoch.isSome)
  | _ => s.reg .wwyMod off

/-- Commits not yet mirrored (R370, R376). -/
def TwinSt.lag (t : TwinSt) : Nat := t.queue.length + (if t.cur.isSome then 1 else 0)

def State.viewTwn (s : State) (off : Nat) : U32 :=
  match off with
  | 0x04C => packFields [(bit1 s.twin.mirroring, 0, 1), (bit1 s.twin.stopped, 1, 1)]
  | 0x050 => lo32 (min s.twin.lag 65535)
  | 0x054 => lo32 s.twin.lastStep
  | 0x058 => hi32 s.twin.lastStep
  | _ => s.reg .twn off

/-! ### Base-die pages (R73, R104, R321, R371, R374, R481, R482, R576) -/

def State.viewStm (s : State) (b : Fin 3) (off : Nat) : U32 :=
  match off with
  | 0x044 => lo32 (bit1 s.pwr.shed)
  | 0x048 => lo32 (s.openCount (fun x => decide (x.home = b.val)))
  | _ => s.reg (.stm b) off

def State.viewGlb (s : State) (b : Fin 3) (off : Nat) : U32 :=
  match off with
  | 0x044 => lo32 (s.capability (s.field (.glb b) 0x040 0 16))
  | 0x048 => hi32 (s.capability (s.field (.glb b) 0x040 0 16))
  | _ => s.reg (.glb b) off

/-- A commit record as it lies in its stack's reserved area (R283, R286). -/
def State.commitRecord (s : State) (stack record : Nat) : RecordRead := readRecordBytes (s.mem.read (recordAddr stack record) 64)

/-- Whether an UPDATE or SHADOW holds a commit record (R288). -/
def State.recordHeld (s : State) (stack record : Nat) : Bool := s.upds.any (fun (u : Upd) => decide (u.stack = stack) && decide (u.record = record))

/-- Whether a step's clean horizon has passed for a job (R426). -/
def State.horizonPassed (s : State) (j step : Nat) : Bool := match (s.job j).horizon with | some h => decide (step ≤ h) | none => false

/-- Whether an UPDATE has come to the wait for the clean horizon of the step it applies or skips (R306, R309). -/
def State.updWaits (s : State) (u : Upd) : Bool :=
  u.workDone && (match u.applies with | some a => !s.horizonPassed (s.stream u.stream).job a | none => false)

def State.viewLth (s : State) (b : Fin 3) (off : Nat) : U32 :=
  let num := s.field (.lth b) 0x044 0 6
  let rec' := s.field (.lth b) 0x05C 0 16
  let stack := s.field (.lth b) 0x05C 16 4
  let cr := s.commitRecord stack rec'
  let good := match cr with | .good r => some r | _ => none
  let ov := SMap.get ovfDefault s.ovf (b.val * 256 + s.field (.lth b) 0x088 0 8)
  match off with
  | 0x048 => match s.recipeOf num with
    | some r => packFields [(1, 0, 1), (bit1 (shippedRecipe num).isSome, 1, 1), (r.steps.length, 2, 7), (r.nmom, 9, 3), (r.nhyp, 12, 4)]
    | none => 0
  | 0x058 => mergeBits (s.reg (.lth b) 0x058) (packFields [(bit1 s.recipeLoad.isSome, 31, 1)]) 0x80000000
  | 0x060 => packFields [(bit1 ((good.map (·.claimed)).getD false), 0, 1), ((good.map (·.active)).getD 0, 1, 1), (bit1 (s.recordHeld stack rec'), 2, 1),
      (bit1 (decide (cr = .bad)), 3, 1), ((good.map (·.job)).getD 0, 8, 8), ((good.map (·.ringCount)).getD 0, 16, 3)]
  | 0x064 => lo32 ((good.map (·.nextStep)).getD 0)
  | 0x068 => hi32 ((good.map (·.nextStep)).getD 0)
  | 0x06C => lo32 ((good.map (·.digest.toNat)).getD 0)
  | 0x070 => hi32 ((good.map (·.digest.toNat)).getD 0)
  | 0x080 => lo32 (s.upds.filter (fun (u : Upd) => decide (u.lathe = b.val) && s.updWaits u)).length
  | 0x08C => lo32 ov.step
  | 0x090 => packFields [(ov.step / 0x100000000, 0, 16), (bit1 ov.ovf, 16, 1), (bit1 ov.set, 31, 1)]
  | _ => s.reg (.lth b) off

def State.viewCns (s : State) (b : Fin 3) (off : Nat) : U32 :=
  match off with
  | 0x044 => lo32 (s.colls.filter (fun (c : Coll) => decide (c.base = b.val))).length
  | _ => s.reg (.cns b) off

def State.viewWwy (s : State) (p : Fin 12) (off : Nat) : U32 :=
  let x := s.port p.val
  match off with
  | 0x040 => packFields [(bit1 x.up, 0, 1), (x.train, 1, 3), (bit1 x.enc, 4, 1), (bit1 (s.twinOn && decide (s.twinPort = p.val)), 5, 1), (x.peerId, 6, 18), (x.peerPort, 24, 4)]
  | 0x06C => lo32 x.keyPhase
  | _ => s.reg (.wwy p) off

/-- RDL_SHIM and BND_SHIM of the selected group (R481, R482). -/
def State.shimWord (s : State) (e : LinkEnd) (b g : Nat) : U32 :=
  let x := s.laneGroup e b g
  packFields [(x.lane.getD 0x3F, 0, 6), ((s.flash.laneOf 2 (laneKey e b g)).getD 0x3F, 6, 6), (bit1 x.shimBad, 12, 1), (bit1 x.twoBad, 13, 1)]

/-- PRBS errors of the selected lane (R480). -/
def State.testErrs (s : State) (e : LinkEnd) : U32 :=
  match s.testLane e with
  | some (b, g, l) => (getKey (s.link e).testErrs ((b * 16 + g) * 64 + l)).getD 0
  | none => 0

/-- TEST_CTRL as read: its START bit, which stands for a run in progress, reads 0. -/
def State.testCtrl (s : State) (pg : Page) : U32 := s.reg pg 0x058 &&& 0x1B

def State.viewRdl (s : State) (r : Fin 4) (off : Nat) : U32 :=
  let e : LinkEnd := .rdl r
  let x := s.link e
  match off with
  | 0x040 => packFields [(bit1 x.up, 0, 1), (bit1 x.fenced, 1, 1), (bit1 x.peerClk, 2, 1), (bit1 (s.testMode e), 3, 1), (x.enabled, 4, 8), (x.retired, 12, 8)]
  | 0x048 => s.shimWord e (s.field (.rdl r) 0x044 0 3) (s.field (.rdl r) 0x044 4 4)
  | 0x058 => s.testCtrl (.rdl r)
  | 0x060 => s.testErrs e
  | _ => s.reg (.rdl r) off

def State.viewBnd (s : State) (d : Fin 12) (off : Nat) : U32 :=
  let e : LinkEnd := .bondBase d
  let x := s.link e
  let y := s.die d.val
  match off with
  | 0x040 => packFields [(bit1 x.up, 0, 1), (bit1 x.fenced, 1, 1), (bit1 x.peerClk, 2, 1), (bit1 y.test, 3, 1), (x.enabled, 4, 16), (if y.up then 0 else y.cause, 20, 3)]
  | 0x048 => s.shimWord e (s.field (.bnd d) 0x044 0 4) (s.field (.bnd d) 0x044 4 3)
  | 0x058 => s.testCtrl (.bnd d)
  | 0x060 => s.testErrs e
  | 0x064 => lo32 x.retired
  | 0x068 => packFields [(y.sent.limitW8.toNat, 0, 16), (y.sent.epoch.toNat, 16, 16)]
  | 0x06C => packFields [(y.rep.powerW8.toNat, 0, 16), (y.rep.tempC.toNat, 16, 8), (y.rep.duty.toNat, 24, 8)]
  | _ => s.reg (.bnd d) off

def State.viewCxp (s : State) (p : Fin 2) (off : Nat) : U32 :=
  let x := s.cxl.ports.getD p.val .down
  match off with
  | 0x040 => packFields [(bit1 x.up, 0, 1), (x.lanes, 1, 4), (bit1 x.fast, 5, 1), (bit1 (!x.keys.isEmpty), 6, 1)]
  | 0x044 => lo32 (bit1 (decide (s.cxl.active = some p.val)))
  | 0x064 => lo32 (s.cxl.uio.filter (fun (u : UioReq) => decide (u.port = p.val))).length
  | _ => s.reg (.cxp p) off

/-- ATS_GEOM with the usable cores of the quad (R205, R208). -/
def State.viewAts (s : State) (q : Fin 48) (off : Nat) : U32 :=
  let cores := (s.quadCores q.val).length
  if off = 0x040 then packFields [(cores, 0, 3), (0x80, 8, 8), (0x80, 16, 8)] else s.reg (.ats q) off

/-- CPE_REJ.VALID stands as long as ERR_STAT bit 0 (R271). -/
def State.viewCpe (s : State) (n : Fin 192) (off : Nat) : U32 :=
  let v := s.reg (.cpe n) off
  if off = 0x058 then (v &&& 0x7FFFFFFF#32) ||| (if (s.reg (.cpe n) offErrStat).toNat.testBit 0 then 0x80000000#32 else 0) else v

/-- What an answering page's register reads as. -/
def State.view (s : State) (pg : Page) (off : Nat) : U32 :=
  if off < 0x040 then s.viewHeader pg off
  else if (pg.reg off).isNone && !(pg.hasNumflags && (decide (off = 0xF00) || decide (off = 0xF04))) then 0
  else match pg with
  | .tol => s.viewTol off
  | .swl => s.viewSwl off
  | .brt => s.viewBrt off
  | .pwr => s.viewPwr off
  | .fwu => s.viewFwu off
  | .sec => s.viewSec off
  | .grn => s.viewGrn off
  | .tun => s.viewTun off
  | .uni => s.viewUni off
  | .stmJob => s.viewStmJob off
  | .stmRgn => s.viewStmRgn off
  | .stmQrm => s.viewStmQrm off
  | .cnsMap => s.viewCnsMap off
  | .wwyMod => s.viewWwyMod off
  | .twn => s.viewTwn off
  | .stm b => s.viewStm b off
  | .glb b => s.viewGlb b off
  | .lth b => s.viewLth b off
  | .cns b => s.viewCns b off
  | .wwy p => s.viewWwy p off
  | .rdl r => s.viewRdl r off
  | .bnd d => s.viewBnd d off
  | .cxp p => s.viewCxp p off
  | .hbc k => if off = 0x040 then packFields [(0x20, 0, 8), (0x40, 8, 8), (k.val, 16, 8)] else s.reg pg off
  | .gdc g => if off = 0x040 then packFields [(g.val, 16, 8)] else s.reg pg off
  | .ats q => s.viewAts q off
  | .cpe n => s.viewCpe n off
  | pg => s.reg pg off

/-! ### Which pages answer (R589, R592) -/

/-- The die that holds a page, by number; Tolium's pages lie on none. -/
def Page.die : Page → Option Nat
  | .tol | .swl | .brt | .pwr | .fwu | .sec => none
  | .grn | .tun | .uni | .stmJob | .stmRgn | .stmQrm | .cnsMap | .wwyMod | .twn | .cxp _ => some 13
  | .stm b | .glb b | .lth b | .cns b => some (12 + b.val)
  | .wwy p => some (12 + p.val / 4)
  | .hbc s => some (12 + baseOfStack s.val)
  | .gdc g => some (12 + baseOfGddr g.val)
  | .bnd d => some (12 + d.val / 4)
  | .rdl r => some (12 + (if r.val = 0 then 0 else if r.val = 3 then 2 else 1))
  | .mxa n | .vxe n | .crv n | .cpe n => some (n.val / 16)
  | .ats q => some (q.val / 4)

/-- Whether a page's die is up; host accesses go through base die 1. -/
def State.pageUp (s : State) (pg : Page) : Bool :=
  match pg.die with
  | some d => (s.die d).up && !(s.die d).stopped
  | none => s.start.powered

/-- Whether an access of a requester to a page meets anything (R589, R592). -/
def State.answers (s : State) (r : Requester) (pg : Page) (off : Nat) : Bool :=
  let awake := decide (s.pwr.st = .run) || decide (s.pwr.st = .hold)
  let kept := s.start.powered && (pg.die.isNone || (decide (pg = .grn) && logOffset off))
  match r with
  | .fn _ => s.hostReach && s.pageUp pg
  | .svc _ => kept || (awake && s.baseUp 1 && s.pageUp pg)

/-- A read of an offset of a page (R12, R589). -/
def State.readReg (s : State) (r : Requester) (pg : Page) (off : Nat) : U32 := if s.answers r pg off then s.view pg off else 0

/-- The latches of every requester but one (R590). -/
def State.dropLatch (s : State) (r : Requester) : State := { s with latches := s.latches.filter (fun (l : Latch) => !decide (l.requester = r)) }

/-- One BAR0 read of a requester, by offset (R12, R13, R590): reading LO latches HI, and a HI read returns the latched value only right after it. A misaligned read between the two, of which the spec says only that it returns 0, leaves the latch (DESIGN CHOICE, log entry 1). -/
def State.barRead (s : State) (r : Requester) (off : Nat) : State × U32 :=
  if off % 4 ≠ 0 then (s, 0)
  else
    let s1 := s.dropLatch r
    match pageAt off with
    | none => (s1, 0)
    | some pg =>
      let o := off % 0x1000
      if pg.pairs.contains o then ({ s1 with latches := s1.latches ++ [⟨r, off, s.readReg r pg (o + 4)⟩] }, s.readReg r pg o)
      else match s.latches.find? (fun (l : Latch) => decide (l.requester = r) && decide (l.lo + 4 = off)) with
        | some l => (s1, l.hi)
        | none => (s1, s.readReg r pg o)

/-- A run of BAR0 reads of consecutive registers. -/
def State.barReads (s : State) (r : Requester) (off : Nat) : Nat → State × List U32
  | 0 => (s, [])
  | n + 1 =>
    let a := s.barRead r off
    let b := a.1.barReads r (off + 4) n
    (b.1, a.2 :: b.2)

end Sys2Proof.Machine
end

