-- ==== Sys2Proof/Machine/Spdm.lean ====
section
/-! DEFINITION. SPDM on the DOE mailboxes and over MCTP, and the IDE keys that its secured sessions carry (R527, R528, R573). -/

namespace Sys2Proof.Machine

/-- The state of SPDM on a transport. -/
def State.spdmOf (s : State) (t : SpdmTransport) : SpdmSt :=
  match t with
  | .doe p => (s.cxl.ports.getD p.val .down).doe
  | .mctp => s.spdm

/-- One CXL port changed. -/
def State.updPort (s : State) (p : Nat) (f : CxlPort → CxlPort) : State :=
  { s with cxl := { s.cxl with ports := s.cxl.ports.set p (f (s.cxl.ports.getD p .down)) } }

def State.setSpdm (s : State) (t : SpdmTransport) (x : SpdmSt) : State :=
  match t with
  | .doe p => s.updPort p.val (fun y => { y with doe := x })
  | .mctp => { s with spdm := x }

/-- Whether requests reach the module on a transport: a mailbox of a port whose link is up, or SMBus while Tolium runs (R527, R604). -/
def State.spdmReach (s : State) (t : SpdmTransport) : Bool :=
  match t with
  | .doe p => s.cxlUp p.val
  | .mctp => s.start.powered

/-- SPDM ERROR codes of DSP0274: InvalidRequest, UnexpectedRequest, UnsupportedRequest. -/
def spdmInvalid : Nat := 0x01
def spdmUnexpected : Nat := 0x04
def spdmUnsupported : Nat := 0x07

/-- A request answered: counted, and an ERROR response sets ERR_STAT bit 1 (R549, R550). -/
def State.spdmAnswer (s : State) (t : SpdmTransport) (r : SpdmResp) : State :=
  let s1 := s.countWrap .sec 0x068
  let s2 := match r with | .error _ => s1.raise .sec 1 | _ => s1
  s2.emit (.spdm t r)

/-- An SPDM request that has reached the module. -/
def State.onSpdm (s : State) (t : SpdmTransport) (f : State → State) : State := if s.spdmReach t then f s else s

/-- A request that needs the algorithms negotiated first. -/
def State.negotiated (s : State) (t : SpdmTransport) (f : State → State) : State :=
  if (s.spdmOf t).negotiated then f s else s.spdmAnswer t (.error spdmUnexpected)

/-- A signature by the algorithm selected. -/
def SpdmSt.sign (x : SpdmSt) (what : Nat) (m : List U8) : List U8 := deviceSign x.pss (Config.spdmSigned what m)

/-- SPDM_GET_VERSION (R527): version 1.2; what was negotiated before is forgotten. -/
def execSpdmGetVersion (t : SpdmTransport) (s : State) : Res :=
  .next (s.onSpdm t (fun s => (s.setSpdm t .fresh).spdmAnswer t (.version 0x12)))

/-- SPDM_GET_CAPABILITIES (R527). -/
def execSpdmGetCapabilities (t : SpdmTransport) (s : State) : Res :=
  .next (s.onSpdm t (fun s => s.spdmAnswer t .capabilities))

/-- The algorithms of R527 as bits of DSP0274's selection fields. -/
def asymMask : U32 := 0x0000000C
def hashMask : U32 := 0x00000001
def dheMask : U32 := 0x00000010
def aeadMask : U32 := 0x00000002

/-- SPDM_NEGOTIATE_ALGORITHMS (R527): of what the requester offers, only the algorithms of the subset are selected, one of each kind; without a base asymmetric algorithm and a base hash there is no agreement. -/
def execSpdmNegotiateAlgorithms (t : SpdmTransport) (asym hash dhe aead : U32) (s : State) : Res :=
  .next (s.onSpdm t (fun s =>
    let a := lowestBit (asym &&& asymMask)
    let h := hash &&& hashMask
    if a = 0 ∨ h = 0 then s.spdmAnswer t (.error spdmInvalid)
    else (s.setSpdm t { s.spdmOf t with negotiated := true, pss := decide (a = 8) }).spdmAnswer t (.algorithms a h (dhe &&& dheMask) (aead &&& aeadMask))))

/-- SPDM_GET_DIGESTS (R527): slot 0 alone. -/
def execSpdmGetDigests (t : SpdmTransport) (s : State) : Res :=
  .next (s.onSpdm t (fun s => s.negotiated t (fun s => s.spdmAnswer t (.digests (sha256 s.flash.certChain)))))

/-- SPDM_GET_CERTIFICATE (R524, R527): a piece of the chain of slot 0. -/
def execSpdmGetCertificate (t : SpdmTransport) (slot : Nat) (off len : U16) (s : State) : Res :=
  .next (s.onSpdm t (fun s => s.negotiated t (fun s =>
    if slot ≠ 0 ∨ s.flash.certChain.length < off.toNat then s.spdmAnswer t (.error spdmInvalid)
    else
      let piece := (s.flash.certChain.drop off.toNat).take len.toNat
      s.spdmAnswer t (.certificate piece (s.flash.certChain.length - off.toNat - piece.length)))))

/-- SPDM_CHALLENGE (R524, R527): signed with the device identity key. -/
def execSpdmChallenge (t : SpdmTransport) (slot : Nat) (nonce : List U8) (s : State) : Res :=
  .next (s.onSpdm t (fun s => s.negotiated t (fun s =>
    if slot ≠ 0 then s.spdmAnswer t (.error spdmInvalid)
    else
      let h := sha256 s.flash.certChain
      s.spdmAnswer t (.challengeAuth h ((s.spdmOf t).sign 1 (h ++ nonce))))))

/-- SPDM_GET_MEASUREMENTS (R528): index 0 asks how many blocks there are, 0xFF for all, 1 to 11 for one. -/
def execSpdmGetMeasurements (t : SpdmTransport) (index : U8) (sign : Bool) (nonce : List U8) (s : State) : Res :=
  .next (s.onSpdm t (fun s => s.negotiated t (fun s =>
    let all := (List.range 11).map (fun i => (i + 1, s.measurement (i + 1)))
    let i := index.toNat
    if 11 < i ∧ i < 0xFF then s.spdmAnswer t (.error spdmInvalid)
    else
      let blocks := if i = 0xFF then all else all.filter (fun (b : Nat × List U8) => decide (b.1 = i))
      let sig := if sign then (s.spdmOf t).sign 2 (blocks.flatMap (fun (b : Nat × List U8) => b.2) ++ nonce) else []
      s.spdmAnswer t (.measurements 11 blocks sig))))

/-- Secured sessions exist on DOE alone (R527). -/
def State.onDoe (s : State) (t : SpdmTransport) (f : State → State) : State :=
  match t with
  | .doe _ => s.negotiated t f
  | .mctp => s.spdmAnswer t (.error spdmUnsupported)

/-- SPDM_KEY_EXCHANGE (R527). -/
def execSpdmKeyExchange (t : SpdmTransport) (slot : Nat) (share : List U8) (s : State) : Res :=
  .next (s.onSpdm t (fun s => s.onDoe t (fun s =>
    if slot ≠ 0 then s.spdmAnswer t (.error spdmInvalid)
    else
      let k := Config.keyShare share
      (s.setSpdm t { s.spdmOf t with session := some false }).spdmAnswer t (.keyExchange k ((s.spdmOf t).sign 3 (share ++ k))))))

/-- SPDM_FINISH (R527): completes the session that KEY_EXCHANGE has opened. -/
def execSpdmFinish (t : SpdmTransport) (valid : Bool) (s : State) : Res :=
  .next (s.onSpdm t (fun s => s.onDoe t (fun s =>
    match (s.spdmOf t).session with
    | some false =>
      if valid then (s.setSpdm t { s.spdmOf t with session := some true }).spdmAnswer t .finish
      else (s.setSpdm t { s.spdmOf t with session := none }).spdmAnswer t (.error spdmInvalid)
    | _ => s.spdmAnswer t (.error spdmUnexpected))))

/-- SPDM_END_SESSION (R527). -/
def execSpdmEndSession (t : SpdmTransport) (s : State) : Res :=
  .next (s.onSpdm t (fun s => s.onDoe t (fun s =>
    match (s.spdmOf t).session with
    | some true => (s.setSpdm t { s.spdmOf t with session := none }).spdmAnswer t .endSession
    | _ => s.spdmAnswer t (.error spdmUnexpected))))

/-- SPDM_UNSUPPORTED (R527): any other request. -/
def execSpdmUnsupported (t : SpdmTransport) (_code : U8) (s : State) : Res :=
  .next (s.onSpdm t (fun s => s.spdmAnswer t (.error spdmUnsupported)))

/-- IDE_KEY_PROGRAM (R573): keys arrive only inside a completed secured session of the port's own mailbox, and are held per port and stream. -/
def execIdeKeyProgram (p : Fin 2) (stream : Fin 4) (key : List U8) (s : State) : Res :=
  .next (
    if s.cxlUp p.val && decide ((s.spdmOf (.doe p)).session = some true) then
      s.updPort p.val (fun x => { x with keys := putKey x.keys stream.val key })
    else s)

end Sys2Proof.Machine
end

