-- ==== Sys2Proof/Machine/Host.lean ====
section
/-! DEFINITION. Host attachment over CXL: HDM windows and their decoders, back-invalidation, failover, resets, and the DOE mailboxes (R553 to R577). -/

namespace Sys2Proof.Machine

def cxpPage (p : Nat) : Page := .cxp (if p = 0 then 0 else 1)

/-- AER Uncorrectable Internal Error on a port (R563). -/
def State.aer (s : State) (p : Nat) : State := s.emit (.aer p)

/-! ### Decoders (R557, R558) -/

/-- DPA bytes of a decoder: its part of the interleaved window. -/
def HdmSetup.dpaBytes (x : HdmSetup) : Nat := x.size / max 1 x.iw

def gran256M : Nat := 0x10000000

/-- Whether a setup has a form R553 and R557 allow, with the DPA base that R558 gives it. -/
def hdmFits (x : HdmSetup) (dpa : Nat) : Bool :=
  ([1, 2, 4, 8] : List Nat).contains x.iw && ([256, 512, 1024, 2048, 4096, 8192, 16384] : List Nat).contains x.ig
    && decide (x.target < x.iw) && decide (0 < x.size) && decide (x.size % x.iw = 0)
    && decide (x.skip % gran256M = 0) && decide (x.dpaBytes % gran256M = 0) && decide (dpa % gran256M = 0)
    && decide (dpa < hbmEnd) && decide (dpa % stackSize + x.dpaBytes ≤ 0xBF0000000)

/-- End of the DPA range of the decoder before (R558), which must be committed first (DEDUCED, log entry 42). -/
def Cxl.prevEnd (c : Cxl) (i : Nat) : Option Nat :=
  if i = 0 then some 0
  else
    let d := c.decoders.getD (i - 1) .off
    if d.committed then some (d.dpaBase + d.setup.dpaBytes) else none

/-- HDM_DECODER_COMMIT (R557, R558, R575): a commit that fits is in force and rebuilds the CDAT; any other shows Error Not Committed. -/
def execHdmDecoderCommit (i : Fin 4) (x : HdmSetup) (s : State) : Res :=
  .next (
    if s.hostReach then
      match s.cxl.prevEnd i.val with
      | some e =>
        let dpa := e + x.skip
        if hdmFits x dpa then
          { s with cxl := { s.cxl with decoders := s.cxl.decoders.set i.val ⟨x, true, false, dpa⟩, cdatSeq := s.cxl.cdatSeq + 1 } }
        else { s with cxl := { s.cxl with decoders := s.cxl.decoders.set i.val ⟨x, false, true, 0⟩ } }
      | none => { s with cxl := { s.cxl with decoders := s.cxl.decoders.set i.val ⟨x, false, true, 0⟩ } }
    else s)

/-- The DPA of a host physical address under one decoder (R558). -/
def HdmDecoder.dpaOf (d : HdmDecoder) (hpa : Nat) : Option Nat :=
  let x := d.setup
  let o := hpa - x.hpaBase
  if d.committed && decide (x.hpaBase ≤ hpa) && decide (o < x.size) && decide (o / x.ig % x.iw = x.target) then
    some (d.dpaBase + o / (x.ig * x.iw) * x.ig + o % x.ig)
  else none

/-- The DPA of a host physical address. -/
def Cxl.dpaOf (c : Cxl) (hpa : Nat) : Option Nat := c.decoders.findSome? (fun d => d.dpaOf hpa)

/-! ### Snoop filters (R560, R561) -/

/-- BISnpInv for a line, on the active memory port; without one the snoop goes nowhere and times out (R561, R570). -/
def State.snoopLine (s : State) (line : Nat) : State :=
  match s.cxl.active with
  | some p =>
    let s1 : State := { s with cxl := { s.cxl with snoops := s.cxl.snoops ++ [⟨line, p⟩] } }
    (s1.countWrap (cxpPage p) 0x05C).emit (.bisnp p line)
  | none => { s with cxl := { s.cxl with snoops := s.cxl.snoops ++ [⟨line, 2⟩] } }

/-- The base die whose filter holds a line. -/
def filterOf (line : Nat) : Nat := baseOfStack (line * 64 / stackSize)

/-- Whether a line may be cached by the host. -/
def State.cachedLine (s : State) (line : Nat) : Bool := (s.cxl.filters.getD (filterOf line) []).contains line

/-- A line entered in its filter; a full filter evicts its oldest entry with a snoop first (R560). -/
def State.enterFilter (s : State) (line : Nat) : State :=
  let b := filterOf line
  let l := s.cxl.filters.getD b []
  if l.contains line then s
  else
    let s1 := match l with
      | old :: rest => if 262144 ≤ l.length then ({ s with cxl := { s.cxl with filters := s.cxl.filters.set b rest } }).snoopLine old else s
      | [] => s
    { s1 with cxl := { s1.cxl with filters := s1.cxl.filters.set b (s1.cxl.filters.getD b [] ++ [line]) } }

/-- Whether an engine waits for a snoop of a line. -/
def Engine.waitsSnoop (e : Engine) (line : Nat) : Bool :=
  match e.cur with
  | some r => r.waits.any (fun w => match w with | .snoop l => decide (l = line) | _ => false)
  | none => false

/-- A line leaves its filter, and the engines that waited for it go on. -/
def State.releaseLine (s : State) (line : Nat) : State :=
  let b := filterOf line
  { s with
    cxl := { s.cxl with
      snoops := s.cxl.snoops.filter (fun (x : Snoop) => !decide (x.line = line))
      filters := s.cxl.filters.set b ((s.cxl.filters.getD b []).filter (fun l => !decide (l = line))) }
    engines := s.engines.map (fun (p : Nat × Engine) => (p.1, { p.2 with cur := p.2.cur.map (fun (r : Running) =>
      { r with waits := r.waits.filter (fun w => match w with | .snoop l => !decide (l = line) | _ => true) }) })) }

/-- BIRSP_RECEIVED (R561, R577): an armed BI_DROP discards it. -/
def execBirspReceived (p : Fin 2) (line : Nat) (s : State) : Res :=
  .next (
    if s.cxlUp p.val ∧ s.cxl.snoops.any (fun (x : Snoop) => decide (x.line = line ∧ x.port = p.val)) then
      if s.armed (.cxp p) 0 then s.disarm (.cxp p) 0 else s.releaseLine line
    else s)

/-- BISNP_TIMEOUT (R561): every firing that waits for the line ends with a detected fault; its repetition sends the snoop again. -/
def execBisnpTimeout (line : Nat) (s : State) : Res :=
  .next (
    match s.cxl.snoops.find? (fun (x : Snoop) => decide (x.line = line)) with
    | some x =>
      let us := (s.engines.filter (fun (e : Nat × Engine) => e.2.waitsSnoop line)).map (·.1)
      let s1 : State := { s with cxl := { s.cxl with snoops := s.cxl.snoops.filter (fun (y : Snoop) => !decide (y.line = line)) } }
      let s2 := if x.port < 2 then (s1.countSat (cxpPage x.port) 0x060).raise (cxpPage x.port) 2 else s1
      s2.forEach us (fun t u => t.detectedFault u S_HOST_COHERENCE)
    | none => s)

/-! ### Host requests (R559 to R564, R568) -/

/-- R564: the record and the AER message of the first request that meets one cause of unreachable memory; causes 0 to 2 are the base dies, 3 and 4 the ports that are not the active one. -/
def State.unreachable (s : State) (p cause hpa dpa : Nat) (read : Bool) : State :=
  let s1 := (if read then s.countSat (cxpPage p) 0x070 else s).raise (cxpPage p) 3
  if s1.cxl.seen.contains cause then s1
  else (({ s1 with cxl := { s1.cxl with seen := s1.cxl.seen ++ [cause] } }).record
    { kind := 0x41, addr := dpa, detail := [hpa % 0x100000000, hpa / 0x100000000, dpa % 0x100000000, cause] }).aer p

/-- HOST_HDM_READ (R214, R558 to R564, R568): 64 bytes, an error in them perhaps `corrected`; a line the host may cache enters the snoop filter. -/
def execHostHdmRead (p : Fin 2) (hpa : U64) (caches corrected : Bool) (s : State) : Res :=
  let line := hpa.toNat / 64 * 64
  let pg : Page := .cxp p
  .next (
    if !s.cxlUp p.val then s
    else if s.cxl.active ≠ some p.val then
      ((s.countSat pg 0x06C).unreachable p.val (3 + p.val) line ((s.cxl.dpaOf line).getD 0) true).emit (.hostData p.val (List.replicate 64 0xFF))
    else match s.cxl.dpaOf line with
      | none => s
      | some dpa =>
        let b := baseOfStack (dpa / stackSize)
        if !s.baseUp b then (s.unreachable p.val b line dpa true).emit (.hostData p.val (List.replicate 64 0xFF))
        else
          let r := (if corrected then s.readNote ⟨dpa, true, 0⟩ else s).eccHostRead dpa 64
          let s1 := if caches then r.1.enterFilter (dpa / 64) else r.1
          let s2 := match r.2 with
            | some _ => (((s1.countSat pg 0x070).raise pg 3).record
                { kind := 0x41, addr := dpa, detail := [line % 0x100000000, line / 0x100000000, dpa % 0x100000000, 5] }).aer p.val
            | none => s1
          s2.emit (.hostData p.val (s.mem.read dpa 64)))

/-- The bytes of a line after a write under a byte mask. -/
def maskBytes (old data : List U8) (mask : List Bool) : List U8 :=
  (List.range 64).map (fun i => if mask.getD i false then data.getD i 0 else old.getD i 0)

/-- HOST_HDM_WRITE (R559, R562, R564, R568): stored with tags that the controller forms (R217), or dropped; a host that has cached the line is held in the filter again. -/
def execHostHdmWrite (p : Fin 2) (hpa : U64) (data : List U8) (mask : List Bool) (s : State) : Res :=
  let line := hpa.toNat / 64 * 64
  .next (
    if !s.cxlUp p.val then s
    else if s.cxl.active ≠ some p.val then
      ((s.countSat (.cxp p) 0x06C).unreachable p.val (3 + p.val) line ((s.cxl.dpaOf line).getD 0) false).emit (.hostDone p.val)
    else match s.cxl.dpaOf line with
      | none => s
      | some dpa =>
        let b := baseOfStack (dpa / stackSize)
        if !s.baseUp b then (s.unreachable p.val b line dpa false).emit (.hostDone p.val)
        else
          let whole := mask.length = 64 ∧ mask.all id
          let bytes := maskBytes (s.mem.read dpa 64) data mask
          let t := (if whole then s else (s.eccRead dpa 64).1).writeMem dpa bytes
          let m' := if whole then t.mem else { t.mem with bad := s.mem.bad }
          (({ t with mem := m' }).enterFilter (dpa / 64)).emit (.hostDone p.val))

/-- H2D_SNOOP (R553): a port with no cache answers RspI. -/
def execH2dSnoop (p : Fin 2) (s : State) : Res := .next (if s.cxlUp p.val then s.emit (.rspI p.val) else s)

/-! ### Failover (R567 to R570) -/

/-- Units whose firings wait for slow-tier requests, with the requests of a port. -/
def State.uioOf (s : State) (p : Nat) : List UioReq := s.cxl.uio.filter (fun (u : UioReq) => decide (u.port = p))

/-- The outstanding UIO requests of a port fail, and their firings end with a detected fault (R231, R569). -/
def State.failUio (s : State) (p : Nat) : State :=
  let l := s.uioOf p
  let s1 : State := { s with cxl := { s.cxl with uio := s.cxl.uio.filter (fun (u : UioReq) => !decide (u.port = p)) } }
  let s2 := s1.countSat (cxpPage p) 0x068 l.length
  s2.forEach ((l.map (·.unit)).dedup) State.slowLost

/-- The snoops still unanswered sent again on the active port (R569). -/
def State.resendSnoops (s : State) : State :=
  let l := s.cxl.snoops.map (·.line)
  ({ s with cxl := { s.cxl with snoops := [] } }).forEach l (fun t n => t.snoopLine n)

/-- The active memory port changes (R567, R569): FAILOVER, the record, and what was under way. -/
def State.moveActive (s : State) (old new cause : Nat) : State :=
  let s1 := s.failUio old
  let s2 : State := { s1 with cxl := { s1.cxl with active := some new, seen := s1.cxl.seen.filter (fun c => decide (c < 3)) } }
  let s3 := ((s2.raise (.cxp 0) 1).raise (.cxp 1) 1).countWrap (cxpPage new) 0x050
  (s3.record { kind := 0x40, outcome := 0, detail := [new, old, new, cause] }).resendSnoops

/-- Whether a port may be the active memory port: up, behind a switch, with MEM_OK (R554, R569). -/
def State.memOk (s : State) (p : Nat) : Bool :=
  s.cxlUp p && (s.cxl.ports.getD p .down).viaSwitch && decide (s.field (cxpPage p) 0x048 0 1 = 1)

/-- A CXL port's link goes down (R569 to R571, R574): only that port's function, mailbox and keys are reset; its held LO writes and latch go (R590). -/
def State.cxlDown (s : State) (p : Fin 2) (cause : Nat) : State :=
  if s.cxlUp p.val then
    let s0 := (s.updPort p.val (fun _ => .down)).raise (.cxp p) 0
    let s1 : State := { s0 with
      latches := s0.latches.filter (fun (l : Latch) => !decide (l.requester = .fn p))
      heldLo := s0.heldLo.filter (fun (l : HeldLo) => !decide (l.requester = .fn p)) }
    let s2 := s1.record { kind := 0x40, detail := [p.val, (s.cxl.active.getD 2), (if s.cxl.active = some p.val then (if s1.memOk (1 - p.val) then 1 - p.val else 2) else s.cxl.active.getD 2), cause] }
    if s.cxl.active = some p.val then
      if s2.memOk (1 - p.val) then s2.moveActive p.val (1 - p.val) cause
      else { s2.failUio p.val with cxl := { (s2.failUio p.val).cxl with active := none } }
    else s2
  else s

/-- CXL_LINK_UP (R554, R570): without an active memory port the first fit port becomes it. -/
def execCxlLinkUp (p : Fin 2) (lanes : Nat) (fast viaSwitch : Bool) (s : State) : Res :=
  .next (
    if s.start.powered ∧ s.baseUp 1 ∧ (s.pwr.st = .run ∨ s.pwr.st = .hold) ∧ s.cxlUp p.val = false ∧ (lanes = 8 ∨ lanes = 4) then
      let s1 := s.updPort p.val (fun x => { x with up := true, lanes := lanes, fast := fast, viaSwitch := viaSwitch })
      if s1.cxl.active = none ∧ s1.memOk p.val then
        let s2 : State := { s1 with cxl := { s1.cxl with active := some p.val, seen := s1.cxl.seen.filter (fun c => decide (c < 3)) } }
        (((s2.raise (.cxp 0) 1).raise (.cxp 1) 1).record { kind := 0x40, outcome := 0, detail := [p.val, 2, p.val, 0] })
      else s1
    else s)

/-- CXL_LINK_DOWN (R569). -/
def execCxlLinkDown (p : Fin 2) (s : State) : Res := .next (s.cxlDown p 0)

/-- FAILOVER_SWITCH (R569): ignored unless both ports are up; the other port must be one that may carry memory. -/
def execFailoverSwitch (s : State) : Res :=
  .next (
    match s.cxl.active with
    | some a => if s.hostReach && s.cxlUp 0 && s.cxlUp 1 && s.memOk (1 - a) then s.moveActive a (1 - a) 3 else s
    | none => s)

/-- PERST_ASSERT (R571): as a hot reset. -/
def execPerstAssert (p : Fin 2) (s : State) : Res := .next (s.cxlDown p 1)

/-- FUNCTION_LEVEL_RESET (R571): configuration space and mailbox only. -/
def execFunctionLevelReset (p : Fin 2) (s : State) : Res :=
  .next (if s.cxlUp p.val then s.updPort p.val (fun x => { x with doe := .fresh, cfg := [] }) else s)

/-- IDE_FAILURE (R574): counted, and the link goes down. -/
def execIdeFailure (p : Fin 2) (s : State) : Res :=
  .next (if s.cxlUp p.val then ((s.countSat (.cxp p) 0x074).raise (.cxp p) 4).cxlDown p 2 else s)

/-- INJECT_BI_DROP (R577). -/
def execInjectBiDrop (p : Fin 2) (s : State) : Res := .next (if s.hostReach then s.arm (.cxp p) 0 else s)

/-! ### DOE (R553, R575) -/

/-- Committed decoders, the DSMAS of each by its number. -/
def Cxl.committed (c : Cxl) : List HdmDecoder := c.decoders.filter (·.committed)

/-- The entries of the CDAT (R575): its sequence number; then for each committed decoder DSMAS with its DPA range, DSLBIS with 600 ns, 400 ns and 64 GB/s each way, and DSEMTS of conventional memory. The numbering of the entries and the place of the fields are the model's (DESIGN CHOICE, log entry 42). -/
def Cxl.cdat (c : Cxl) : List (List Nat) :=
  [c.cdatSeq.toNat] :: c.committed.flatMap (fun (d : HdmDecoder) => [[0, d.dpaBase, d.setup.dpaBytes], [1, 600, 400, 64, 64], [4, 0, d.setup.dpaBytes]])

/-- CDAT_READ (R575). -/
def execCdatRead (p : Fin 2) (entry : Nat) (s : State) : Res :=
  .next (if s.cxlUp p.val then s.emit (.doe p.val (s.cxl.cdat.getD entry [])) else s)

/-- The protocols of the mailbox (R553), by vendor and type: discovery, CMA/SPDM, secured CMA/SPDM, CDAT. -/
def doeProtocols : List (List Nat) := [[0x0001, 0], [0x0001, 1], [0x0001, 2], [0x1E98, 2]]

/-- DOE_DISCOVERY (R553): the protocol of an index and the next index, 0 after the last. -/
def execDoeDiscovery (p : Fin 2) (index : U8) (s : State) : Res :=
  .next (
    if s.cxlUp p.val then
      let i := index.toNat
      s.emit (.doe p.val (if i < 4 then doeProtocols.getD i [] ++ [if i < 3 then i + 1 else 0] else []))
    else s)

end Sys2Proof.Machine
end

