-- ==== Sys2Proof/Machine/Windows.lean ====
section
/-! DEFINITION. Remote memory: the Window Map entry an access uses (R228, R357), the frames and slow-tier requests of a firing (R229 to R231, R357, R565, R566), and the frames that ask for or answer an access (R358, R359, R409). -/

namespace Sys2Proof.Machine

/-! ### Entries (R352 to R354, R357) -/

/-- Whether an entry acts in its job's active phase. -/
def State.acts (s : State) (j : Nat) (e : WEntry) : Bool := e.phases.testBit (s.job j).phase

/-- The OUTBOUND or SLOW entry of a job that covers a device address. -/
def State.windowAt (s : State) (j a : Nat) : Option WEntry :=
  (s.window j).find? (fun e => (decide (e.kind = .outbound) || decide (e.kind = .slow)) && s.acts j e
    && decide (e.base ≤ a) && decide (a < e.base + e.size * 2048))

/-- Whether a run of bytes lies in one OUTBOUND or SLOW entry. -/
def WEntry.holds (e : WEntry) (a n : Nat) : Bool := decide (e.base ≤ a) && decide (a + n ≤ e.base + e.size * 2048)

/-- Whether a run of bytes lies in slow-tier entries of a job, from one to the next. -/
def State.slowSpan (s : State) (j : Nat) : Nat → Nat → Nat → Bool
  | 0, _, _ => false
  | fuel + 1, a, n =>
    match s.windowAt j a with
    | some e => decide (e.kind = .slow) && (e.holds a n || s.slowSpan j fuel (e.base + e.size * 2048) (a + n - (e.base + e.size * 2048)))
    | none => false

/-- Whether a run of bytes lies wholly in the slow tier of a job (R228, R277). -/
def State.slowRun (s : State) (j a n : Nat) : Bool := s.slowSpan j ((s.window j).length + 1) a n

/-- The job's INBOUND entry of a window number. -/
def State.inboundOf (s : State) (j num : Nat) : Option WEntry :=
  (s.window j).find? (fun e => decide (e.kind = .inbound) && decide (e.num = num) && s.acts j e)

/-- The class of a job's memory frames (R336). -/
def State.memClass (s : State) (j : Nat) : Nat := if (s.job j).descant then 3 else 2

/-- A run of bytes cut at multiples of `k`. -/
def cutAt (k : Nat) (a n : Nat) : List (Nat × Nat) :=
  if n = 0 ∨ k = 0 then []
  else (List.range ((a + n - 1) / k - a / k + 1)).map (fun i =>
    let lo := max a ((a / k + i) * k)
    (lo, min (a + n) ((a / k + i + 1) * k) - lo))

/-! ### Requests of a firing -/

/-- A wait added to the firing an engine runs. -/
def State.addWait (s : State) (u : Nat) (w : Wait) : State :=
  s.updEngine u (fun e => { e with cur := e.cur.map (fun (r : Running) => { r with waits := r.waits ++ [w] }) })

/-- A frame of a job's window access (R357). -/
def State.windowFrame (s : State) (j type : Nat) (e : WEntry) (a : Nat) (payload : List U8) : Frame :=
  { frameOf type (s.memClass j) e.target s.selfId (s.jobKey j) payload with
    group := e.num, phase := (s.job j).phase, offset := a - e.base, req := s.nextReq % 65536 }

/-- A frame the module sends for a firing: with no usable route the firing ends with S_FAB_UNREACHABLE (R343, R346). -/
def State.sendFor (s : State) (u : Nat) (f : Frame) (w : Wait) : State :=
  let r := ({ s with nextReq := s.nextReq + 1 }).sendFrame f
  if r.2 then r.1.addWait u w else r.1.detectedFault u S_FAB_UNREACHABLE

/-- One READ_REQ of at most 2,048 bytes. -/
def State.askWindow (s : State) (u j : Nat) (e : WEntry) (a n : Nat) : State :=
  if (s.engine u).cur.isNone then s
  else s.sendFor u (s.windowFrame j ftReadReq e a (leBytes 4 n ++ leBytes 4 0)) (.window (s.nextReq % 65536) a n false)

/-- One WRITE of at most 2,048 bytes, its GRAIN the CRC of its payload (R409). -/
def State.putWindow (s : State) (u j : Nat) (e : WEntry) (a : Nat) (bs : List U8) : State :=
  if (s.engine u).cur.isNone then s
  else s.sendFor u { s.windowFrame j ftWrite e a bs with grain := crc32c bs } (.window (s.nextReq % 65536) a bs.length true)

/-- Where the tag of a window block read from the slow tier is kept among a firing's fetched bytes. -/
def tagKey (a : Nat) : Nat := 0x1000000000000 + a / 2048 * 4

/-- Host address of a block's tag in the entry's tag area (R230). -/
def tagHpaOf (e : WEntry) (a : Nat) : Nat := e.tagHpa + (a - e.base) / 2048 * 4

/-- A slow-tier request noted for a firing, to be issued as requests outstanding allow. -/
def State.askSlow (s : State) (u a hpa n : Nat) (data : Option (List U8)) : State :=
  ({ s with nextReq := s.nextReq + 1 }).addWait u (.slow s.nextReq a hpa n data)

/-- The slow-tier requests that firings, and the mirror in progress, wait for and that are not yet on a port. -/
def State.unissued (s : State) : List (Nat × Wait) :=
  s.engines.flatMap (fun (p : Nat × Engine) => match p.2.cur with
    | some r => (r.waits.filter (fun w => match w with
        | .slow q _ _ _ _ => !s.cxl.uio.any (fun (x : UioReq) => decide (x.req = q))
        | _ => false)).map (fun w => (p.1, w))
    | none => [])
    ++ ((s.twin.reads.filter (fun (q : Nat × Nat × Nat × Nat) => !s.cxl.uio.any (fun (x : UioReq) => decide (x.req = q.1)))).map (fun q =>
      (twinUnit, Wait.slow q.1 q.2.1 q.2.2.1 q.2.2.2 none)))

/-- A slow-tier request put on the active memory port (R229, R565). -/
def State.issueOne (s : State) (p : Nat) (x : Nat × Wait) : State :=
  match x.2 with
  | .slow q _ hpa n data =>
    let s1 : State := { s with cxl := { s.cxl with uio := s.cxl.uio ++ [⟨q, p, x.1⟩] } }
    match data with
    | some d => s1.emit (.uioWrite p q hpa d)
    | none => s1.emit (.uioRead p q hpa n)
  | _ => s

/-- Waiting slow-tier requests issued, at most 512 outstanding on the active port (R566); without one they fail (R231). -/
def State.issueUio (s : State) : State :=
  match s.cxl.active with
  | some p => s.forEach (s.unissued.take (512 - (s.uioOf p).length)) (fun t x => t.issueOne p x)
  | none => s.forEach (s.unissued.map (·.1)).dedup State.slowLost

/-- Slow-tier requests whose firing or mirror has ended are outstanding no more. -/
def State.pruneUio (s : State) : State :=
  { s with cxl := { s.cxl with uio := s.cxl.uio.filter (fun (x : UioReq) => match (s.engine x.unit).cur with
      | some r => r.waits.any (fun w => match w with | .slow q _ _ _ _ => decide (q = x.req) | _ => false)
      | none => decide (x.unit = twinUnit) && s.twin.reads.any (fun q => decide (q.1 = x.req))) } }

/-- Whether an access of a run of bytes is allowed by the entries that cover it, block by block: every block has an entry, and an OUTBOUND one allows the kind (R228, R357). -/
def State.windowsAllow (s : State) (j a n : Nat) (write : Bool) : Bool :=
  (cutAt 2048 a n).all (fun p => match s.windowAt j p.1 with
    | some e => decide (e.kind = .slow) || (if write then e.write else e.read)
    | none => false)

/-- Naturally aligned pieces of at most 256 bytes, whose lengths are powers of two (R229). -/
def naturalCuts : Nat → Nat → Nat → List (Nat × Nat)
  | 0, _, _ => []
  | fuel + 1, a, n =>
    if n = 0 then []
    else
      let k := (([256, 128, 64, 32, 16, 8, 4, 2] : List Nat).find? (fun k => decide (a % k = 0) && decide (k ≤ n))).getD 1
      (a, k) :: naturalCuts fuel (a + k) (n - k)

/-- A piece of one block asked for: in 64-byte multiples through a window, and in the slow tier the whole block with its tag (R229, R230, R357). -/
def State.fetchPiece (s : State) (u j a n : Nat) : State :=
  match s.windowAt j a with
  | none => s
  | some e =>
    if e.kind = .outbound then s.askWindow u j e (a / 64 * 64) ((a + n + 63) / 64 * 64 - a / 64 * 64)
    else
      let lo := a / 2048 * 2048
      let s1 := s.forEach (cutAt 256 lo 2048) (fun t p => t.askSlow u p.1 (e.target + (p.1 - e.base)) p.2 none)
      s1.askSlow u (tagKey lo) (tagHpaOf e lo) 4 none

/-- The bytes of a remote run asked for (R228, R357). -/
def State.fetchRun (s : State) (u j a n : Nat) : State :=
  if s.windowsAllow j a n false then s.forEach (cutAt 2048 a n) (fun t p => t.fetchPiece u j p.1 p.2) else s.failFiring u S_ACCESS

/-- A piece of one block written, in the slow tier with the block's tag, `blk` giving a block's whole content (R229, R230, R357). -/
def State.storePiece (s : State) (u j a : Nat) (bs : List U8) (blk : Nat → List U8) : State :=
  match s.windowAt j a with
  | none => s
  | some e =>
    if e.kind = .outbound then s.putWindow u j e a bs
    else
      let s1 := s.forEach (naturalCuts (bs.length + 1) a bs.length) (fun t p =>
        t.askSlow u p.1 (e.target + (p.1 - e.base)) p.2 (some ((bs.drop (p.1 - a)).take p.2)))
      s1.askSlow u (tagKey a) (tagHpaOf e a) 4 (some (leBytes 4 (crc32c (blk (a / 2048))).toNat))

/-- The bytes of a remote run written (R228, R357). -/
def State.storeRun (s : State) (u j a : Nat) (bs : List U8) (blk : Nat → List U8) : State :=
  if s.windowsAllow j a bs.length true then
    s.forEach (cutAt 2048 a bs.length) (fun t p => t.storePiece u j p.1 ((bs.drop (p.1 - a)).take p.2) blk)
  else s.failFiring u S_ACCESS

/-! ### Answers -/

/-- The firing that waits for a window request, and the request. -/
def State.windowWait (s : State) (req : Nat) : Option (Nat × Nat × Nat × Bool) :=
  match s.unitWaiting req with
  | some u =>
    match (s.engine u).cur with
    | some r =>
      match r.waits.find? (fun w => match w with | .window q _ _ _ => decide (q = req) | _ => false) with
      | some (.window _ a n wr) => some (u, a, n, wr)
      | _ => none
    | none => none
  | none => none

/-- A wait over, with the bytes it has brought. -/
def State.endWait (s : State) (u : Nat) (w : Wait) (a : Nat) (bs : List U8) : State :=
  s.updEngine u (fun e => { e with cur := e.cur.map (fun (r : Running) =>
    { r with waits := r.waits.filter (fun x => !decide (x = w)), fetched := r.fetched ++ ((List.range bs.length).map (a + ·)).zip bs }) })

/-! ### Inbound accesses (R358) -/

/-- Where an inbound access lands, if R358 admits it. DEDUCED (log entry 52): the range is local, so that none lies in the Window Map region. -/
def State.inboundPlace (s : State) (j : Nat) (f : Frame) (n : Nat) (write : Bool) : Option Nat :=
  match s.inboundOf j f.group with
  | some e =>
    let a := e.base + f.offset
    if (if write then e.write else e.read) ∧ f.offset + n ≤ e.size * 2048 ∧ s.allowed j a n write ∧ s.memDown a = false ∧ inWindow a = false then some a else none
  | none => none

/-- A frame that answers another (R358). -/
def State.replyFrame (s : State) (j type : Nat) (f : Frame) (payload : List U8) : Frame :=
  { frameOf type f.cls f.src s.selfId (s.jobKey j) payload with phase := (s.job j).phase, req := f.req, offset := if type = ftReadResp then f.offset else 0 }

def State.ack (s : State) (j : Nat) (f : Frame) (code : U16) : State := s.send (s.replyFrame j ftWriteAck f (leBytes 2 code.toNat ++ leBytes 2 0))

/-- Payload of a whole block stored with its GRAIN as tag, any other with the controller's tags (R217, R409). -/
def State.storeInbound (s : State) (a : Nat) (f : Frame) : State :=
  if a % 2048 = 0 ∧ f.payload.length = 2048 then s.writeMemTagged a f.payload f.grain
  else s.writeMem a f.payload

/-- An inbound block whose GRAIN does not match its payload: detected by no engine, it is recorded with no unit (R400, R409, R442). -/
def State.inboundMiss (s : State) (j a : Nat) (f : Frame) : State :=
  s.record { kind := 0x04, code := S_GRAIN, job := j, addr := a, detail := [f.grain.toNat, (crc32c f.payload).toNat] }

/-- Stored where R358 admits it, and answered. -/
def State.inboundWrite (s : State) (j : Nat) (f : Frame) : State :=
  match s.inboundPlace j f f.payload.length true with
  | some a => if f.grain = crc32c f.payload then (s.storeInbound a f).ack j f S_OK else (s.inboundMiss j a f).ack j f S_FAB_REFUSED
  | none => s.ack j f S_FAB_REFUSED

/-- WRITE_FRAME (R349, R358). -/
def execWriteFrame (p : Fin 12) (s : State) : Res := .next (s.onJobFrame p.val ftWrite (fun t _ f j => t.inboundWrite j f))

/-- GRAIN of a READ_RESP: the stored tag of a whole block, else the CRC of the payload (R409). -/
def State.readGrain (s : State) (a : Nat) (bs : List U8) : U32 :=
  if a % 2048 = 0 ∧ bs.length = 2048 ∧ taggable a then s.mem.tag (a / 2048) else crc32c bs

/-- A refused read: an empty READ_RESP, the status in a WRITE_ACK (R358). -/
def State.refuseRead (s : State) (j : Nat) (f : Frame) : State :=
  (s.send (s.replyFrame j ftReadResp f [])).ack j f S_FAB_REFUSED

/-- READ_REQ_FRAME (R349, R358, R409): a read that meets an uncorrectable error is refused. -/
def execReadReqFrame (p : Fin 12) (s : State) : Res :=
  .next (s.onJobFrame p.val ftReadReq (fun t _ f j =>
    let n := f.field 0 4
    if f.payload.length = 8 ∧ 64 ≤ n ∧ n ≤ 2048 ∧ n % 64 = 0 then
      match t.inboundPlace j f n false with
      | some a =>
        let r := t.eccRead a n
        match r.2 with
        | some _ => r.1.refuseRead j f
        | none =>
          let bs := r.1.mem.read a n
          r.1.send { r.1.replyFrame j ftReadResp f bs with grain := r.1.readGrain a bs }
      | none => t.refuseRead j f
    else t.refuseRead j f))

/-- A grain tag mismatch in what a unit's firing has read: its error record and the engine's error bit (R272, R322, R410, R442). -/
def State.grainMiss (s : State) (u addr : Nat) (stored found : U32) : State :=
  match (s.engine u).cur with
  | none => s
  | some r =>
    let s1 := s.recordStream r.stream { kind := 0x04, code := S_GRAIN, unit := unitField u, addr := addr, detail := [stored.toNat, found.toNat] }
    if isCopy u || isLathe u then s1.raise (unitPage u) 1 else s1

/-- READ_RESP_FRAME (R402, R409, R410): checked against its GRAIN and handed to the firing that asked; an empty one, or one of another length, brings nothing. -/
def execReadRespFrame (p : Fin 12) (s : State) : Res :=
  .next (s.onJobFrame p.val ftReadResp (fun t _ f _ =>
    match t.windowWait f.req with
    | some (u, a, n, false) =>
      if f.payload.length ≠ n then t
      else if f.grain ≠ crc32c f.payload then (t.grainMiss u a f.grain (crc32c f.payload)).detectedFault u S_GRAIN
      else t.endWait u (.window f.req a n false) a f.payload
    | _ => t))

/-- A TWIN frame acknowledged (R369, R370): the last one of a mirror completes it, a refusal stops mirroring. Of frames with one REQ the oldest is meant. -/
def State.twinAck (s : State) (req : Nat) (code : U16) : State :=
  if s.twin.waiting.contains req then
    if code ≠ S_OK then s.stopTwin
    else
      let w := s.twin.waiting.erase req
      match s.twin.cur with
      | some m =>
        if w.isEmpty && s.twin.blocks.isEmpty then { s with twin := { s.twin with waiting := w, cur := none, lastStep := m.step } }
        else { s with twin := { s.twin with waiting := w } }
      | none => s
  else s

/-- WRITE_ACK_FRAME (R359, R370). -/
def execWriteAckFrame (p : Fin 12) (s : State) : Res :=
  .next (s.onJobFrame p.val ftWriteAck (fun t _ f _ =>
    let code : U16 := BitVec.ofNat 16 (f.field 0 2)
    match t.windowWait f.req with
    | some (u, a, n, wr) =>
      if code ≠ S_OK then t.detectedFault u S_FAB_REFUSED
      else if wr then t.endWait u (.window f.req a n true) a []
      else t
    | none => t.twinAck f.req code))

/-- WINDOW_REQUEST_TIMEOUT (R359). -/
def execWindowRequestTimeout (req : Nat) (s : State) : Res :=
  .next (match s.unitWaiting req with | some u => s.detectedFault u S_FAB_TIMEOUT | none => s)

/-! ### The slow tier (R229 to R231) -/

/-- A slow-tier request outstanding. -/
def State.uioReq (s : State) (req : Nat) : Option UioReq := s.cxl.uio.find? (fun (x : UioReq) => decide (x.req = req))

def State.dropUio (s : State) (req : Nat) : State := { s with cxl := { s.cxl with uio := s.cxl.uio.filter (fun (x : UioReq) => !decide (x.req = req)) } }

/-- A slow-tier request failed (R231). -/
def State.slowFailed (s : State) (x : UioReq) : State :=
  ((((s.dropUio x.req).countSat (cxpPage x.port) 0x068).slowLost x.unit).pruneUio).issueUio

/-- The wait of a slow-tier request. -/
def State.slowWait (s : State) (x : UioReq) : Option Wait :=
  match (s.engine x.unit).cur with
  | some r => r.waits.find? (fun w => match w with | .slow q _ _ _ _ => decide (q = x.req) | _ => false)
  | none =>
    if x.unit = twinUnit then (s.twin.reads.find? (fun q => decide (q.1 = x.req))).map (fun q => .slow q.1 q.2.1 q.2.2.1 q.2.2.2 none) else none

/-- SLOW_TIER_TIMEOUT (R231). -/
def execSlowTierTimeout (req : Nat) (s : State) : Res := .next (match s.uioReq req with | some x => s.slowFailed x | none => s)

end Sys2Proof.Machine
end

