-- ==== Sys2Proof/Machine/Fire.lean ====
section
/-! DEFINITION. Firings (R19 to R35): where a bound program's tensors lie, which node slots are eligible, the choice at a firing boundary, the reservation of a quad, and the end of a firing: tokens, credits, the stream's record and its completion. -/

namespace Sys2Proof.Machine

/-! ### Storage of a bound program's tensors -/

/-- A tensor as a node other than COLLECTIVE sees it (R617). -/
def State.tview (s : State) (j : Nat) (b : Bound) (t : Nat) : TView :=
  match b.prog.tensors[t]? with
  | some y =>
    let loc := match b.prog.localShards y with | x :: _ => x.loc | [] => y.loc
    ⟨y.dtype, b.prog.denseExts y, s.tensorAddr j b t y loc⟩
  | none => dummyView

def State.inViews (s : State) (j : Nat) (b : Bound) (i : Nat) (n : GNode) : List TView :=
  (List.range n.inCount).map (fun k => match b.prog.inPort i k with | some t => s.tview j b t | none => dummyView)

def State.outViews (s : State) (j : Nat) (b : Bound) (i : Nat) (n : GNode) : List TView :=
  (List.range n.outCount).map (fun k => match b.prog.outPort i k with | some t => s.tview j b t | none => dummyView)

/-- The byte ranges of a tensor's parts that a run of its blocks covers. -/
def splitRun : List TView → Nat → Nat → List (TView × Nat × Nat)
  | [], _, _ => []
  | v :: l, first, count =>
    let nb := v.bytes / 2048
    if nb ≤ first then splitRun l (first - nb) count
    else
      let here := min count (nb - first)
      (if here = 0 then [] else [(v, first * 2048, (first + here) * 2048)]) ++ splitRun l 0 (count - here)

/-- Bytes of a view's rows `[r0, r1)`, as a range of its storage. -/
def TView.rowRange (v : TView) (r0 r1 : Nat) : Nat × Nat := (r0 * rowPitch v.d (inner v.exts), r1 * rowPitch v.d (inner v.exts))

/-- Rows of a view that a range of its storage touches. -/
def TView.rowsIn (v : TView) (lo hi : Nat) : Nat × Nat :=
  let p := rowPitch v.d (inner v.exts)
  if p = 0 ∨ hi ≤ lo then (0, 0) else (lo / p, min (rowCount v.exts) ((hi - 1) / p + 1))

/-- Ports whose rows pair with the result's rows: every operand of ELEMENTWISE and CURVE, A and C of MATMUL, X of COPY CONVERT. -/
def rowwise (n : GNode) (port : Nat) : Bool :=
  decide (n.op = opElementwise) || decide (n.op = opCurve) || decide (n.op = opMatmul ∧ port ≠ 1) || decide (n.op = opCopy ∧ n.sub = 0)

/-- A part of a tensor that a firing reads or writes: the tensor, its view, and the byte range. -/
structure Piece where
  tensor : Nat
  view : TView
  lo : Nat
  hi : Nat
  deriving DecidableEq, Repr

/-- What a firing writes: the pieces of its runs. -/
def State.writesOf (s : State) (j : Nat) (b : Bound) (runs : List BlkRun) : List Piece :=
  runs.flatMap (fun r => (splitRun (s.parts j b r.tensor) r.first r.count).map (fun q => ⟨r.tensor, q.1, q.2.1, q.2.2⟩))

/-- What a firing reads: the rows that pair with the rows it writes, or whole tensors. -/
def State.readsOf (s : State) (j : Nat) (b : Bound) (i : Nat) (n : GNode) (runs : List BlkRun) : List Piece :=
  let out := s.writesOf j b runs
  (List.range n.inCount).flatMap (fun k => match b.prog.inPort i k with
    | some t =>
      let v := s.tview j b t
      let whole : Piece := ⟨t, v, 0, rowCount v.exts * rowPitch v.d (inner v.exts)⟩
      if rowwise n k && out.all (fun w => decide (w.view.exts.dropLast = v.exts.dropLast)) then
        out.map (fun w => let r := w.view.rowsIn w.lo w.hi; let q := v.rowRange r.1 r.2; ⟨t, v, q.1, q.2⟩)
      else [whole]
    | none => [])

/-! ### What has been produced -/

/-- Runs of a tensor's blocks whose firings have completed. -/
def Bound.doneRuns (b : Bound) (t : Nat) : List BlkRun :=
  (b.nodes.filter (fun (x : BNode) => decide (x.node < b.prog.nodes.length))).flatMap (fun x =>
    ((x.firings.take x.next).flatten).filter (fun (r : BlkRun) => decide (r.tensor = t)))

/-- Whether a Galad node's last firing has completed. -/
def Bound.nodeDone (b : Bound) (i : Nat) : Bool :=
  (b.nodes.filter (fun (x : BNode) => decide (x.node = i))).all (fun x => decide (x.next = x.firings.length))

/-- The node that an input of a node waits for (R94): the source of its edge, or the tensor's producer; none where the tensor is read as it stood at binding. -/
def Program.feeder (p : Program) (i t : Nat) : Option Nat :=
  match p.edges.find? (fun (e : GEdge) => decide (e.tensor = t ∧ e.dst = i ∧ e.src ≠ 0xFFFF)) with
  | some e => some e.src
  | none => if p.readsOld i t then none else p.producer t

/-- Whether the blocks of a piece have all been produced, or need no producer. -/
def Bound.pieceReady (b : Bound) (first : Nat) (producer : Option Nat) (q : Piece) : Bool :=
  match producer with
  | none => true
  | some i =>
    b.nodeDone i || (let l := b.doneRuns q.tensor
      (List.range ((q.hi + 2047) / 2048 - q.lo / 2048)).all (fun k =>
        let m := first + q.lo / 2048 + k
        l.any (fun r => decide (r.first ≤ m) && decide (m < r.first + r.count))))

/-- Order-only edges and PHASE nodes let a node start (R94, R97). -/
def Bound.orderOk (b : Bound) (i : Nat) : Bool :=
  b.prog.edges.all (fun (e : GEdge) => !decide (e.tensor = 0xFFFFFFFF ∧ e.dst = i ∧ e.src ≠ 0xFFFF) || b.nodeDone e.src)
    && (b.prog.before i).all (fun k => !(decide (b.prog.opOf i = opPhase) || decide (b.prog.opOf k = opPhase)) || b.nodeDone k)

/-! ### Eligibility (R23, R33, R34) -/

/-- A token in every input queue and a credit in every output counter of a slot (R23), on the sides that the firing uses. -/
def Bound.tokensOk (b : Bound) (slot : Nat) (sides : Bool × Bool) : Bool :=
  b.edges.all (fun (e : BEdge) =>
    (!(sides.1 && decide (e.dst = slot)) || !e.tokens.isEmpty) && (!(sides.2 && decide (e.src = slot)) || decide (0 < e.credits)))

/-- One token from each input queue and one credit from each output counter of a slot (R24). -/
def Bound.take (b : Bound) (slot : Nat) (sides : Bool × Bool) : Bound :=
  { b with edges := b.edges.map (fun (e : BEdge) =>
    { e with tokens := if sides.1 ∧ e.dst = slot then e.tokens.tail else e.tokens
             credits := if sides.2 ∧ e.src = slot then e.credits - 1 else e.credits }) }

/-- The sides of a COLLECTIVE node's firing: the intake takes X's tokens, the firings that write Y send Y's (R364). DEDUCED (log entry 24). -/
def State.collSides (s : State) (n slot : Nat) : Bool × Bool :=
  match s.colls.find? (fun (c : Coll) => decide (c.stream = n) && decide (c.slot = slot)) with
  | some c => (!c.loaded, c.loaded)
  | none => (true, false)

/-- The sides of a slot's next firing outside a Lathe. -/
def State.sidesOf (s : State) (n : Nat) (b : Bound) (y : BNode) : Bool × Bool :=
  if b.prog.opOf y.node = opCollective then s.collSides n y.slot else (true, true)

/-- Whether what a slot's next firing reads is there. -/
def State.inputsReady (s : State) (j : Nat) (b : Bound) (x : BNode) : Bool :=
  let runs := (x.firings[x.next]?).getD []
  match b.prog.nodes[x.node]? with
  | some n =>
    if n.op = opCollective ∨ 8 ≤ n.op then (List.range n.inCount).all (fun k => match b.prog.inPort x.node k with
      | some t => (match b.prog.feeder x.node t with | some i => b.nodeDone i | none => true)
      | none => true)
    else (s.readsOf j b x.node n runs).all (fun q => b.pieceReady 0 (b.prog.feeder x.node q.tensor) q)
  | none => runs.all (fun r => b.pieceReady r.first (b.prog.producer r.tensor) ⟨r.tensor, dummyView, 0, r.count * 2048⟩)

/-- Whether a member has every block it expects, and has sent every block that is due (R364). -/
def Coll.full (c : Coll) : Bool :=
  (c.expect.zip c.parts).all (fun q => q.1.all (fun e => q.2.any (fun b => decide (b.1 = e.1) && decide (b.2.length = e.2))))
    && (c.due.zip c.sent).all (fun q => decide (q.1.length ≤ q.2)) && c.again.isEmpty

/-- A COLLECTIVE's slot: its first firing reads X, one collective of a group at a time; the firings that write Y start when the exchange is over (R364). A PEER outside the group never answers. -/
def State.collSlotOk (s : State) (n : Nat) (x : Stream) (b : Bound) (y : BNode) : Bool :=
  match b.prog.nodes[y.node]? with
  | some g =>
    (match s.colls.find? (fun (c : Coll) => decide (c.stream = n) && decide (c.slot = y.slot)) with
    | some c => !c.loaded || (c.full && (decide (g.sub < 3) || decide (g.sub = 4) || decide (g.attrLe 4 4 < c.count)))
    | none => !s.colls.any (fun (c : Coll) => decide (c.job = x.job) && decide (c.group = g.attrLe 0 2)))
  | none => false

/-- The sides of the firing that a key of the round-robin names. -/
def State.keySides (s : State) (key : Nat) : Bool × Bool :=
  match (s.stream (key / 65536)).bound with
  | some b => (match b.nodes[key % 65536]? with | some y => s.sidesOf (key / 65536) b y | none => (true, true))
  | none => (true, true)

/-- Whether a node slot is eligible. -/
def State.slotReady (s : State) (n : Nat) (x : Stream) (b : Bound) (y : BNode) : Bool :=
  decide (x.st = .running) && !y.revoked && !y.freed && decide (y.next < y.firings.length) && (y.rep || b.tokensOk y.slot (s.sidesOf n b y))
    && (decide (b.prog.nodes.length ≤ y.node) || b.orderOk y.node) && s.inputsReady x.job b y
    && (decide (b.prog.opOf y.node ≠ opCollective) || (!s.quorumLost x.job && s.collSlotOk n x b y))

/-- Key of a slot in the round-robin of R32, which says no order among eligible slots. DESIGN CHOICE (log entry 4): streams in ascending number, then slots in ascending number, starting after key 0. -/
def slotKey (n slot : Nat) : Nat := n * 65536 + slot

/-- The eligible slots of a unit, by key, of primary or of descant jobs. -/
def State.eligible (s : State) (u : Nat) (descant : Bool) : List Nat :=
  s.streams.flatMap (fun (p : Nat × Stream) => match p.2.bound with
    | some b =>
      if (s.job p.2.job).descant = descant then
        (b.nodes.filter (fun y => decide (y.unit = u) && s.slotReady p.1 p.2 b y)).map (fun y => slotKey p.1 y.slot)
      else []
    | none => [])

/-- The next key after the last one served. -/
def roundRobin (last : Nat) (l : List Nat) : Option Nat :=
  match (l.filter (fun k => decide (last < k))).min? with
  | some k => some k
  | none => l.min?

/-- Whether the module's engines may start firings at all (R34, R486, R500). -/
def State.firingOn (s : State) : Bool := decide (s.pwr.st = .run) && decide (s.pwr.change = none)

/-- Whether a unit can run a firing: its die up, the unit not fenced, nothing on it. -/
def State.unitFree (s : State) (u : Nat) : Bool :=
  decide (u < 822) && (s.die (unitDie u)).up && !(s.tuneUnit u).fenced && (s.engine u).cur.isNone && !(s.engine u).tuning

/-- The sequencer of a core unit's quad. -/
def sequencerOf (u : Nat) : Nat := 768 + u / 16

/-- Engines of a quad that a sequencer has to hold (R33, R205). -/
def State.quadHeld (s : State) (q : Nat) : List Nat := (s.quadCores (q - 768)).flatMap (fun n => [4 * n, 4 * n + 1, 4 * n + 2])

/-- Whether Swell has shed descant work where a unit stands: every descant slot is ineligible (R67, R492, R493). -/
def State.descantShed (s : State) (u : Nat) : Bool := s.pwr.shed || (s.die (unitDie u)).applied.descantOff

/-- A reservation stands while the sequencer runs a firing or a pass, or has an eligible slot or a due pass (R33, R413). -/
def State.wants (s : State) (q : Nat) : Bool :=
  (s.engine q).cur.isSome || (s.engine q).tuning || !(s.eligible q false).isEmpty
    || (!(s.eligible q true).isEmpty && !s.descantShed q)
    || decide ((s.tuneUnit q).st = .due) || decide ((s.tuneUnit q).st = .takeover)

/-- Reservations that no eligible firing or due pass stands behind any more are gone (R33). -/
def State.lapse (s : State) : State :=
  s.forEach (s.engines.map (·.1)) (fun t v => match (t.engine v).reservedBy with
    | some q => if t.wants q then t else t.updEngine v (fun e => { e with reservedBy := none })
    | none => t)

/-- The sequencer that holds an engine (R33). -/
def State.heldBy (s : State) (v : Nat) : Option Nat :=
  match (s.engine v).reservedBy with
  | some q => if s.wants q then some q else none
  | none => none

/-- What a unit starts at a firing boundary (R32): a slot, by key, or the reservation of its sequencer. -/
inductive Choice
  | nothing
  | fire (key : Nat) (descant : Bool)
  | reserve (key : Nat) (descant : Bool)
  deriving DecidableEq, Repr

/-- The reservation an unheld engine would give its sequencer, as a slot of one class (R33). -/
def State.asked (s : State) (u : Nat) (descant : Bool) : Option Nat :=
  if isArray u || isVector u || isCurve u then
    let q := sequencerOf u
    if s.unitFree q ∧ (s.tuneUnit q).st ≠ .takeover then
      roundRobin (if descant then (s.engine q).lastDescant else (s.engine q).lastPrimary) (s.eligible q descant)
    else none
  else none

def State.choose (s : State) (u : Nat) (descant : Bool) : Option Choice :=
  let own := s.eligible u descant
  let ask := s.asked u descant
  let last := if descant then (s.engine u).lastDescant else (s.engine u).lastPrimary
  match roundRobin last (own ++ (match ask with | some k => [k] | none => [])) with
  | some k => some (if ask = some k then .reserve k descant else .fire k descant)
  | none => none

/-- R32 on a unit that stands at a boundary. -/
def State.pick (s : State) (u : Nat) : Choice :=
  if !s.firingOn || !s.unitFree u || (s.heldBy u).isSome || decide ((s.tuneUnit u).st = .takeover) then .nothing
  else
    match s.choose u false with
    | some c => c
    | none =>
      if (s.tuneUnit u).st = .due ∨ s.descantShed u = true then .nothing
      else (s.choose u true).getD .nothing

/-- The key is the last one served in its class. -/
def State.served (s : State) (u key : Nat) (descant : Bool) : State :=
  s.updEngine u (fun e => if descant then { e with lastDescant := key } else { e with lastPrimary := key })

/-- Whether a slot's next firing repeats one that took its tokens and credits (R402): a Lathe firing that ended before its part was said had taken none. -/
def BNode.taken (y : BNode) : Bool := y.rep && (!isLathe y.unit || decide (y.part.1 ≠ .unsaid))

/-- A slot's tokens and credits taken at once (R24), unless it repeats a firing that has them (R402). -/
def State.takeTokens (s : State) (n slot : Nat) (sides : Bool × Bool) : State :=
  match (s.stream n).bound with
  | some b =>
    (match b.nodes[slot]? with
    | some y => if y.taken then s else s.setStream n { s.stream n with bound := some (b.take slot sides) }
    | none => s)
  | none => s

/-- A firing starts (R24, R402, R445). -/
def State.startFiring (s : State) (u key : Nat) (descant : Bool) (sides : Bool × Bool) (part : LathePart × Nat) : State :=
  let n := key / 65536
  let slot := key % 65536
  let rep := match (s.stream n).bound with
    | some b => (match b.nodes[slot]? with | some y => y.rep | none => false)
    | none => false
  let r : Running := { stream := n, slot := slot, rep := rep, waits := [], fetched := [], sent := false, flags := 0, took := sides, part := part }
  let s1 := ((s.takeTokens n slot sides).served u key descant).updEngine u (fun e => { e with cur := some r })
  if rep then s1.countSat .grn 0x074 else s1

/-- An engine reserved for its sequencer (R33). -/
def State.reserve (s : State) (u : Nat) : State := s.updEngine u (fun e => { e with reservedBy := some (sequencerOf u) })

/-- One boundary of a core engine at which its sequencer's reservation is what it starts. -/
def State.tryReserve (s : State) (u : Nat) : State :=
  match s.pick u with
  | .reserve k d => (s.served u k d).reserve u
  | _ => s

/-- Whether a sequencer holds every usable engine of its quad, at least one. -/
def State.quadReady (s : State) (q : Nat) : Bool :=
  let l := s.quadHeld q
  !l.isEmpty && l.all (fun v => decide ((s.engine v).reservedBy = some q) && (s.engine v).cur.isNone && !(s.engine v).tuning)

/-! ### The end of a firing (R25, R52, R114, R422) -/

/-- What a completed firing leaves beside its writes. -/
structure Done where
  flags : Flags := 0
  oob : Nat := 0
  empty : Bool := false
  /-- Bytes written, or brought by a staging move, by address. -/
  wrote : List (Nat × List U8) := []

/-- A run of output blocks put among those complete, kept rising and apart. -/
def addRun : List (Nat × Nat) → Nat × Nat → List (Nat × Nat)
  | [], r => [r]
  | q :: l, r =>
    if r.1 + r.2 < q.1 then r :: q :: l
    else if q.1 + q.2 < r.1 then q :: addRun l r
    else addRun l (min q.1 r.1, max (q.1 + q.2) (r.1 + r.2) - min q.1 r.1)

/-- The place of a tensor's first block among the submission's output blocks, for each time it is listed (R115). -/
def Program.outBase (p : Program) : List Nat → Nat → List (Nat × Nat)
  | [], _ => []
  | o :: l, k => (o, k) :: p.outBase l (k + (match p.tensors[o]? with | some t => p.blocks t | none => 0))

/-- Output blocks among runs of tensor blocks. -/
def Program.outRuns (p : Program) (runs : List BlkRun) : List (Nat × Nat) :=
  runs.flatMap (fun r => ((p.outBase p.outputs 0).filter (fun q => decide (q.1 = r.tensor ∧ r.count ≠ 0))).map (fun q => (q.2 + r.first, r.count)))

/-- Whether a slot has no firing left to do. -/
def Bound.slotOver (b : Bound) (slot : Nat) : Bool :=
  match b.nodes[slot]? with | some y => decide (y.firings.length ≤ y.next) | none => true

/-- An edge whose consumer has no firing left holds no token: what reaches it is freed and its credit returned. DEDUCED (log entry 24): from R25 and R107, for a consumer that needs fewer firings than its producer, as an UPDATE of R307 does. -/
def Bound.drainEdge (b : Bound) (e : BEdge) : BEdge :=
  if b.slotOver e.dst then { e with tokens := [], credits := e.credits + e.tokens.length } else e

/-- Whether an edge carries blocks of a tensor: one that a core engine, a sequencer or the Consort engine writes and the consumer reads, or that a staging move at either end moves. -/
def Bound.carries (b : Bound) (e : BEdge) (t : Nat) : Bool :=
  match b.nodes[e.src]?, b.nodes[e.dst]? with
  | some x, some y => (match b.prog.nodes[x.node]?, b.prog.nodes[y.node]? with
    | some g, some n => decide (g.op < 8) && (List.range n.inCount).any (fun k => decide (b.prog.inPort y.node k = some t))
    | some g, none => decide (g.op < 8) && y.firings.flatten.any (fun (r : BlkRun) => decide (r.tensor = t))
    | none, _ => true)
  | _, _ => false

/-- The blocks of a slot's firing `k` that an edge carries on. -/
def Bound.edgeRuns (b : Bound) (e : BEdge) (k : Nat) : List BlkRun :=
  match b.nodes[e.src]? with
  | some x => ((x.firings[k]?).getD []).filter (fun (r : BlkRun) => b.carries e r.tensor)
  | none => []

/-- Firings that a slot has completed. -/
def Bound.firingsDone (b : Bound) (slot : Nat) : Nat := match b.nodes[slot]? with | some x => x.next | none => 0

/-- The token of an edge for firing `k` of its producer: as long as the blocks it carries, or as a block slot where these are not blocks of a tensor (R20). -/
def Bound.edgeToken (b : Bound) (e : BEdge) (k : Nat) : BlockToken :=
  let n := ((b.edgeRuns e k).map (fun (r : BlkRun) => r.count * 2048)).sum
  { e.token e.sent with bytes := if n = 0 then e.bytes else min e.bytes n }

/-- Tokens and credits of a completed firing (R25): one token on each output edge, one credit back on each input edge, on the sides that the firing had taken. -/
def Bound.settle (b : Bound) (slot : Nat) (sides : Bool × Bool) : Bound :=
  { b with edges := b.edges.map (fun (e : BEdge) =>
    let e1 := if sides.2 ∧ e.src = slot then e.put (b.edgeToken e (b.firingsDone slot - 1)) else e
    b.drainEdge (if sides.1 ∧ e.dst = slot then { e1 with credits := e1.credits + 1 } else e1)) }

/-- The messages that carry a firing's tokens and credits to other dies (R25, R26, R453), tokens first: `b` is the bound program before them. -/
def State.edgeMessages (s : State) (n : Nat) (b : Bound) (slot : Nat) (sides : Bool × Bool) : State :=
  let es := (numbered b.edges).filter (fun q => (sides.2 && decide (q.2.src = slot)) || (sides.1 && decide (q.2.dst = slot)))
  let s1 := s.forEach (es.filter (fun q => sides.2 && decide (q.2.src = slot))) (fun t q =>
    t.tell (b.dieOf q.2.src) (b.dieOf q.2.dst) n ((b.edgeToken q.2 (b.firingsDone slot)).message n q.1))
  s1.forEach (es.filter (fun q => sides.1 && decide (q.2.dst = slot))) (fun t q => t.tell (b.dieOf q.2.dst) (b.dieOf q.2.src) n (Config.creditBytes n q.1 1))

/-- The bytes of the blocks that an edge carries on from firing `k`: those just written, or as they stand in memory. -/
def State.edgeBytes (s : State) (j : Nat) (b : Bound) (e : BEdge) (k : Nat) (wrote : List (Nat × List U8)) : List U8 :=
  ((s.writesOf j b (b.edgeRuns e k)).flatMap (fun q => (List.range (q.hi - q.lo)).map (fun i =>
    let a := q.view.addr + q.lo + i
    (wrote.findSome? (fun w => if w.1 ≤ a then w.2[a - w.1]? else none)).getD (s.mem.byte a)))).take e.bytes

/-- The blocks of a firing put into the block slots that its tokens name (R20, R225, R267). -/
def State.stageBlocks (s : State) (j : Nat) (b : Bound) (slot k : Nat) (wrote : List (Nat × List U8)) : State :=
  s.forEach (b.edges.filter (fun (e : BEdge) => decide (e.src = slot))) (fun t e =>
    let bs := t.edgeBytes j b e k wrote
    if bs.isEmpty then t else { t with mem := t.mem.stage (b.edgeToken e k).addr bs e.tagged })

/-- A slot's firing counted. -/
def Bound.advance (b : Bound) (slot : Nat) : Bound :=
  { b with nodes := b.nodes.map (fun (y : BNode) => if y.slot = slot then { y with next := y.next + 1, rep := false } else y) }

/-- A completed firing of a slot (R25). -/
def Bound.deliver (b : Bound) (slot : Nat) (sides : Bool × Bool) : Bound := (b.advance slot).settle slot sides

/-- STEPs of the UPDATE nodes that a job's submissions hold. -/
def State.updateSteps (s : State) (j : Nat) : List Nat :=
  ((s.streamsOf j).flatMap (fun n => match (s.stream n).bound with
    | some b => (b.prog.nodes.filter (fun (x : GNode) => decide (x.op = opUpdate))).map GNode.step
    | none => [])).dedup

/-- Whether a program holds an UPDATE of a step. -/
def Program.updates (p : Program) (u : Nat) : Bool := p.nodes.any (fun (x : GNode) => decide (x.op = opUpdate) && decide (x.step = u))

/-- Whether an image in the module's memory holds an UPDATE of a step; one in the Window Map region is known only once it is bound. -/
def State.imageUpdates (s : State) (j a u : Nat) : Bool :=
  let rd := s.imgRd a []
  let h := readImgHeader rd
  !inWindow a && (s.headCheck j a h).isNone && (readProgram rd a h).updates u

/-- The images of a stream's submissions that are not bound yet: the one in BINDING, and those pending. -/
def Stream.unboundImages (x : Stream) : List Nat :=
  (if x.st = .binding ∧ x.bound.isNone then [x.submit.toNat] else []) ++ x.pend.map (fun (q : Sub) => q.addr.toNat)

/-- Whether every node but UPDATE and SHADOW of the job's submissions that hold an UPDATE of a step is done (R422): one still to be bound has none done. -/
def State.contribDone (s : State) (j u : Nat) : Bool :=
  (s.streamsOf j).all (fun n =>
    let x := s.stream n
    (match x.bound with
    | some b => !b.prog.updates u || (numbered b.prog.nodes).all (fun q => decide (q.2.op = opUpdate) || decide (q.2.op = opShadow) || b.nodeDone q.1)
    | none => true)
    && x.unboundImages.all (fun a => !s.imageUpdates j a u))

/-- A step whose contribution end was retracted may have a new one, once its nodes are not all done (R423). -/
def State.reopen (s : State) (j u : Nat) : State := s.updJob j (fun x => { x with undone := x.undone.filter (fun v => !decide (v = u)) })

/-- The contribution ends by completed nodes (R422): `before` is the state before the completion. One that a retract has undone does not come again by itself (R423). -/
def State.noteContribs (s before : State) (j : Nat) : State :=
  s.forEach (s.updateSteps j) (fun t u =>
    let t1 := if before.contribDone j u then t else t.reopen j u
    if t1.contribDone j u && !(t1.job j).undone.contains u then t1.contribEnd j u else t1)

/-- The record after a completed firing (R49, R52, R53, R174). -/
def Stream.fired (x : Stream) (b : Bound) (runs : List BlkRun) (d : Done) (step : Option Nat) : Stream :=
  let dr := (b.prog.outRuns runs).foldl addRun x.doneRuns
  { x with
    bound := some b, doneRuns := dr, outDone := (dr.map (·.2)).sum, outPrefix := (match dr with | (0, k) :: _ => k | _ => 0)
    firings := x.firings + 1, nodesDone := ((List.range b.prog.nodes.length).filter b.nodeDone).length
    numflags := x.numflags ||| d.flags, emptyRows := x.emptyRows || d.empty, oobWrites := x.oobWrites + BitVec.ofNat 32 d.oob
    stalled := false, step := (match step with | some u => BitVec.ofNat 48 u | none => x.step) }

/-- The job's side of a node that has just completed: its phase and last step, and a contribution end (R97, R381, R422). -/
def State.nodeCompleted (s : State) (j : Nat) (n : GNode) : State :=
  if n.op = opPhase then
    let s1 := s.updJob j (fun x => { x with phase := n.sub % 4, lastStep := n.step })
    if n.sub = 2 then (s1.reopen j n.step).contribEnd j n.step else s1
  else if n.op = opUpdate then s.updJob j (fun x => { x with lastStep := n.step })
  else s

/-- Whether every Galad node of a bound program is done (R114). -/
def Bound.allDone (b : Bound) : Bool := (List.range b.prog.nodes.length).all b.nodeDone

/-- A firing completes without a detected fault: flags posted, tokens and credits, the record, and what completes with it (R25, R114, R173, R404, R611). `runs` are the output blocks it has written. -/
def State.finishFiring (s : State) (u : Nat) (runs : List BlkRun) (d : Done) : State :=
  match (s.engine u).cur with
  | none => s
  | some r =>
    let n := r.stream
    let x := s.stream n
    let s1 := (s.boundary u).postFlags u n d.flags false
    match x.bound with
    | none => s1.freeAfterFiring u n
    | some b =>
      if x.over then s1.freeAfterFiring u n
      else
        match b.nodes[r.slot]? with
        | none => s1.freeAfterFiring u n
        | some y =>
          let b1 := b.deliver r.slot r.took
          let s0 := if r.took.2 then s1.stageBlocks x.job b r.slot y.next d.wrote else s1
          let s2 := (if r.rep then s0.noteTransient u n y.code else s0).edgeMessages n b r.slot r.took
          match b.prog.nodes[y.node]? with
          | none => (s2.updRec n (fun x => x.fired b1 [] d none)).freeAfterFiring u n
          | some g =>
            let done := b1.nodeDone y.node
            let step := if done ∧ (g.op = opPhase ∨ g.op = opUpdate) then some g.step else none
            let s3 := s2.updRec n (fun x => x.fired b1 runs d step)
            let s4 := if done then (s3.nodeCompleted x.job g).noteContribs s x.job else s3
            if b1.allDone ∧ (s4.stream n).st = .running then s4.endSubmission n .completed S_OK unitNone
            else if y.revoked then s4.freeAfterFiring u n else s4

/-- The node slot and Galad node of the firing a unit runs. -/
def State.firingOf (s : State) (u : Nat) : Option (Running × Bound × BNode) :=
  match (s.engine u).cur with
  | some r =>
    (match (s.stream r.stream).bound with
    | some b => (b.nodes[r.slot]?).map (fun y => (r, b, y))
    | none => none)
  | none => none

/-- A detected fault with the flags the firing had raised (R172). -/
def State.faultWith (s : State) (u : Nat) (code : U16) (f : Flags) : State :=
  (s.updEngine u (fun e => { e with cur := e.cur.map (fun (r : Running) => { r with flags := r.flags ||| f }) })).detectedFault u code

end Sys2Proof.Machine
end

