-- ==== Sys2Proof/Machine/Copy.lean ====
section
/-! DEFINITION. Tensor descriptors of COPY firings (R247 to R250, R256, R258), the check of R251 and what a rejection does (R253 to R255, R271). -/

namespace Sys2Proof.Machine

/-- A tensor descriptor (R247), with the device address its BASE stands for. -/
structure Desc where
  dtype : Nat
  innerCode : Nat
  grain : Bool
  transpose : Bool
  write : Bool
  space : Nat
  indexed : Bool
  axis : Nat
  fill : Nat
  exts : List Nat
  base : Nat
  strides : List Int
  addr : Nat
  /-- The tensor is INTERNAL: the binder's own storage, which no region need cover. -/
  own : Bool
  deriving DecidableEq, Repr

/-- Bytes of a stride unit (R248). -/
def strideUnit (d : Nat) : Nat := if isMX d ∨ d = dInt4 then 64 else elemBits d / 8

/-- The 64 bytes of a descriptor (R247). -/
def Desc.bytes (x : Desc) : List U8 :=
  leBytes 1 x.dtype
    ++ leBytes 1 (x.exts.length % 8 + 8 * x.innerCode + (if x.grain then 32 else 0) + (if x.transpose then 64 else 0) + (if x.write then 128 else 0))
    ++ leBytes 1 (x.space + (if x.indexed then 2 else 0) + 4 * x.axis) ++ leBytes 1 0 ++ leBytes 4 x.fill
    ++ (List.range 6).flatMap (fun i => leBytes 4 (x.exts.getD i 0)) ++ leBytes 6 x.base
    ++ (List.range 5).flatMap (fun i => leBytes 5 (ofSigned 40 (x.strides.getD i 0))) ++ leBytes 1 0

/-- A view without elements (R249). -/
def Desc.empty (x : Desc) : Bool := x.exts.any (fun e => decide (e = 0))

/-- Bytes of one innermost row (R250). -/
def Desc.rowBytes (x : Desc) : Nat := if x.innerCode = 2 then elemBits x.dtype / 8 else packedRow x.dtype (inner x.exts)

/-- Lowest byte of row (0, …, 0) (R250). -/
def Desc.low (x : Desc) : Int := if x.innerCode = 1 then (x.addr : Int) - (inner x.exts - 1 : Nat) * (elemBits x.dtype / 8 : Nat) else x.addr

/-- Outer dimensions as (extent, stride in bytes). -/
def Desc.outer (x : Desc) : List (Nat × Int) := (x.exts.dropLast.zip x.strides).map (fun p => (p.1, p.2 * strideUnit x.dtype))

/-- The covered range of a non-empty view (R250). -/
def Desc.covered (x : Desc) : Int × Int :=
  x.outer.foldl (fun (r : Int × Int) (p : Nat × Int) =>
    let span := p.2 * (p.1 - 1 : Nat)
    if span < 0 then (r.1 + span, r.2) else (r.1, r.2 + span)) (x.low, x.low + (roundUp x.rowBytes 64 : Nat))

/-! ### The checks of R251 -/

/-- Check 1 on one descriptor. -/
def Desc.formatOk (x : Desc) : Bool :=
  (elemOf x.dtype).isSome && decide (1 ≤ x.exts.length) && decide (x.exts.length ≤ 6) && decide (x.innerCode < 3)
    && (!x.transpose || (x.write && decide (2 ≤ x.exts.length))) && (!x.indexed || decide (x.axis < x.exts.length))

/-- Check 2. -/
def Desc.innerOk (x : Desc) : Bool :=
  (!(isMX x.dtype || decide (x.dtype = dInt4)) || decide (x.innerCode = 0)) && (!x.write || decide (x.innerCode < 2))

/-- Check 3. -/
def Desc.alignOk (x : Desc) : Bool := decide (x.low % 64 = 0) && x.outer.all (fun p => decide (p.2 % 64 = 0))

/-- Check 4. -/
def Desc.bcastOk (x : Desc) : Bool :=
  !x.write || (x.outer.all (fun p => decide (p.1 ≤ 1) || decide (p.2 ≠ 0)) && (decide (inner x.exts ≤ 1) || decide (x.innerCode ≠ 2)))

/-- The rule of R252 on dimensions sorted by stride. -/
def nested : Nat → List (Nat × Nat) → Bool
  | _, [] => true
  | need, (e, st) :: l => decide (need ≤ st) && nested (st * e) l

/-- Check 5 (R249, R252). -/
def Desc.nestOk (x : Desc) : Bool :=
  !x.write || x.empty
    || nested x.rowBytes (sortBy (fun a b => decide (a.2 ≤ b.2)) ((x.outer.filter (fun p => decide (p.1 ≠ 1))).map (fun p => (p.1, p.2.natAbs))))

/-- Whether two covered ranges meet (R249, R253). -/
def Desc.meets (x y : Desc) : Bool := !x.empty && !y.empty && decide (x.covered.1 < y.covered.2) && decide (y.covered.1 < x.covered.2)

/-- Check 8 (R233). -/
def Desc.accessOk (s : State) (j : Nat) (x : Desc) : Bool :=
  x.empty || x.own || (let c := x.covered; decide (0 ≤ c.1) && s.allowed j c.1.toNat (c.2 - c.1).toNat x.write)

/-- The descriptors of one COPY firing. -/
structure DescSet where
  dst : Desc
  src : Desc
  idx : Option Desc
  deriving DecidableEq, Repr

/-- Check 6 (R256). -/
def DescSet.shapeOk (d : DescSet) (sub axis : Nat) : Bool :=
  let y := d.dst.exts
  let x := d.src.exts
  let l := match d.idx with | some i => i.exts.getD 0 0 | none => 0
  let idxOk := match d.idx with | some i => decide (i.dtype = dInt32) && decide (i.exts.length = 1) | none => false
  match sub with
  | 0 => decide (x = y)
  | 1 =>
    if d.dst.transpose then
      let r := y.length
      decide (x.length = r) && decide (y = ((x.set (r - 2) (x.getD (r - 1) 0)).set (r - 1) (x.getD (r - 2) 0)))
    else decide (x = y)
  | 2 => idxOk && decide (y = x.set axis l)
  | _ => idxOk && decide (x = y.set axis l)

/-- The first descriptor of the set that fails a test: 0 destination, 1 source, 2 index. -/
def DescSet.firstBad (d : DescSet) (ok : Desc → Bool) : Option Nat :=
  if !ok d.dst then some 0 else if !ok d.src then some 1
  else match d.idx with
    | some i => if !ok i then some 2 else none
    | none => none

/-- R251: the first failing check's code and the failing descriptor. -/
def DescSet.reject (s : State) (j sub axis : Nat) (d : DescSet) : Option (U16 × Nat) :=
  let each : List (U16 × (Desc → Bool)) :=
    [(S_DESC_FORMAT, Desc.formatOk), (S_INNER, Desc.innerOk), (S_ALIGN, Desc.alignOk), (S_WRITE_BCAST, Desc.bcastOk), (S_ALIAS, Desc.nestOk)]
  match each.findSome? (fun c => (d.firstBad c.2).map (fun w => (c.1, w))) with
  | some r => some r
  | none =>
    if !d.shapeOk sub axis then some (S_DESC_SHAPE, 0)
    else if d.dst.meets d.src then some (S_OVERLAP, 1)
    else if (match d.idx with | some i => d.dst.meets i | none => false) then some (S_OVERLAP, 2)
    else (d.firstBad (Desc.accessOk s j)).map (fun w => (S_ACCESS, w))

/-! ### The descriptors of a COPY node (R256, R258) -/

/-- The location of a device address in a job's regions; an address in none stands for itself. -/
def State.locOf (s : State) (j a : Nat) : Nat :=
  match (s.regions.filter (fun (p : Nat × Region) => decide (p.1 / 64 = j) && p.2.valid && decide (p.2.lo ≤ a) && decide (a < p.2.hi))).head? with
  | some p => p.1 % 64 * 2 ^ 42 + (a - p.2.lo)
  | none => a % 2 ^ 48

/-- Strides of a dense tensor's axes but the innermost, in bytes (R83). -/
def denseStrides (d : Nat) (exts : List Nat) : List Nat :=
  (List.range (exts.length - 1)).map (fun k => prodL ((exts.drop (k + 1)).dropLast) * rowPitch d (inner exts))

/-- A view of a tensor with its axes at given positions, the innermost one last. -/
def descOf (s : State) (j : Nat) (v : TView) (axes : List Nat) (write grain own : Bool) : Desc :=
  let st := denseStrides v.d v.exts
  { dtype := v.d, innerCode := 0, grain := grain, transpose := false, write := write, space := 0, indexed := false, axis := 0, fill := 0
    exts := axes.map (fun a => v.exts.getD a 0), base := s.locOf j v.addr
    strides := axes.dropLast.map (fun a => ((st.getD a 0 / strideUnit v.d : Nat) : Int)), addr := v.addr, own := own }

/-- The descriptors of a COPY node. -/
def State.copyDescs (s : State) (j : Nat) (b : Bound) (i : Nat) (n : GNode) : DescSet :=
  let tensor (t : Option Nat) : TView × Bool × Bool :=
    match t with
    | some k => (s.tview j b k, (match b.prog.tensors[k]? with | some y => (decide (y.tflags % 2 = 1), decide (y.kind = 1)) | none => (false, false)))
    | none => (dummyView, false, false)
  let x := tensor (b.prog.inPort i 0)
  let y := tensor (b.prog.outPort i 0)
  let ix := tensor (b.prog.inPort i 1)
  let plain (v : TView) : List Nat := List.range v.exts.length
  let axes := if n.sub = 1 then transposeAxes n y.1.exts.length else (plain y.1, plain x.1)
  let dst := descOf s j y.1 axes.1 true y.2.1 y.2.2
  let src := descOf s j x.1 axes.2 false x.2.1 x.2.2
  { dst := { dst with
      transpose := transposes n y.1.exts.length
      indexed := decide (n.sub = 3), axis := if n.sub = 3 then copyAxis n else 0 }
    src := { src with indexed := decide (n.sub = 2), axis := if n.sub = 2 then copyAxis n else 0, fill := if n.sub = 2 then copyFill n else 0 }
    idx := if n.sub < 2 then none else some (descOf s j ix.1 (plain ix.1) false ix.2.1 ix.2.2) }

/-! ### A rejection (R254, R255, R271, R272) -/

/-- Sixteen words of a descriptor window. -/
def State.setWindow (s : State) (pg : Page) (off : Nat) (bs : List U8) : State :=
  s.forEach (List.range 16) (fun t i => t.setReg pg (off + 4 * i) (BitVec.ofNat 32 (leNat ((bs.drop (4 * i)).take 4))))

/-- The first rejection since ERR_STAT bit 0 was last clear, recorded. -/
def State.recordReject (s : State) (u : Nat) (d : DescSet) (code : U16) (node which : Nat) : State :=
  let pg := unitPage u
  match (s.engine u).cur with
  | none => s
  | some r =>
    if (s.reg pg offErrStat).toNat.testBit 0 then s
    else
      let s1 := s.setReg pg 0x058 (packFields [(code.toNat, 0, 16), (r.stream, 16, 14), (1, 31, 1)])
      let s2 := s1.setReg pg 0x05C (packFields [(node, 0, 16), (which, 16, 2)])
      ((s2.setWindow pg 0x080 d.dst.bytes).setWindow pg 0x0C0 d.src.bytes).setWindow pg 0x100 (match d.idx with | some i => i.bytes | none => [])

/-- A rejected firing: nothing moves, no token, no credit, never repeated; the stream fails (R254). -/
def State.rejectFiring (s : State) (u : Nat) (d : DescSet) (code : U16) (node which : Nat) : State :=
  match (s.engine u).cur with
  | none => s
  | some r =>
    let s1 := (s.recordReject u d code node which).raise (unitPage u) 0
    (s1.recordStream r.stream { kind := 0x05, code := code, unit := unitField u, detail := [node, which] }).failFiring u code

/-- The edge that feeds a staging move: it moves blocks that stand in SRAM (R245). -/
def Bound.moveIn (b : Bound) (y : BNode) : Option BEdge := b.edges.find? (fun (e : BEdge) => decide (e.dst = y.slot))

/-- Where in SRAM a staging move puts its blocks: the next block slot of an output edge, or its own area where it has neither an output edge nor an input edge; none where it moves them out to the tensor's storage (R20, R225, R245). -/
def Bound.moveDst (b : Bound) (y : BNode) : Option (Nat × Bool) :=
  match b.edges.find? (fun (e : BEdge) => decide (e.src = y.slot)) with
  | some e => some ((e.token e.sent).addr, e.tagged)
  | none => if (b.moveIn y).isSome then none else some (y.area.1, false)

/-- The block in SRAM that a staging move's next firing takes: its address, and whether tags stand beside it. -/
def Bound.moveSrc (b : Bound) (y : BNode) : Option (Nat × Bool) := (b.moveIn y).map (fun e => ((e.token y.next).addr, e.tagged))

/-- The descriptors of a staging move of a piece of a tensor: its bytes as they are, into SRAM or out of it (R244, R245, R269). -/
def State.moveDescs (s : State) (j : Nat) (b : Bound) (y : BNode) (q : Piece) : DescSet :=
  let n := q.hi - q.lo
  let own := match b.prog.tensors[q.tensor]? with | some t => decide (t.kind = 1) | none => false
  let side (write : Bool) (x : Option (Nat × Bool)) : Desc :=
    match x with
    | some (a, tagged) => { descOf s j ⟨dInt8, [n], a⟩ [0] write tagged true with space := 1, base := a }
    | none => descOf s j ⟨dInt8, [n], q.view.addr + q.lo⟩ [0] write (taggable (q.view.addr + q.lo)) own
  { dst := side true (b.moveDst y), src := side false (b.moveSrc y), idx := none }

/-- The check at the start of a copy engine's firing, a COPY node's or a staging move's (R251, R271). -/
def State.checkCopy (s : State) (u : Nat) : State :=
  match s.firingOf u with
  | some (r, b, y) =>
    let j := (s.stream r.stream).job
    (match b.prog.nodes[y.node]? with
    | some n =>
      if n.op = opCopy then
        let d := s.copyDescs j b y.node n
        match d.reject s j n.sub (copyAxis n) with
        | some (c, w) => s.rejectFiring u d c y.node w
        | none => s
      else s
    | none =>
      match (s.writesOf j b ((y.firings[y.next]?).getD [])).findSome? (fun q => ((s.moveDescs j b y q).reject s j 0 0).map (fun x => (s.moveDescs j b y q, x))) with
      | some (d, c, w) => s.rejectFiring u d c 0xFFFF w
      | none => s)
  | none => s

end Sys2Proof.Machine
end

