-- ==== Sys2Proof/Machine/Firing.lean ====
section
/-! DEFINITION. Firings of the core engines, attention sequencers and staging moves: what they read and how it is checked, what they compute and write, their counters, and the commands FIRING_START, FIRING_COMPLETE, FIRING_FAULT and FIRING_WATCHDOG (R23 to R34, R94 to R97, R142 to R146, R172, R215, R230, R267 to R271, R357, R402 to R410, R475, R561, R619). -/

namespace Sys2Proof.Machine

/-! ### Reading (shared with the Consort engine and the Lathe) -/

/-- A run of device memory that a firing reads or writes: whether regions cover it, and whether its grain tags are checked. -/
structure Acc where
  addr : Nat
  n : Nat
  own : Bool
  tagged : Bool
  deriving DecidableEq, Repr

def Piece.acc (q : Piece) (p : Program) (tagged : Bool) : Acc :=
  ⟨q.view.addr + q.lo, q.hi - q.lo, match p.tensors[q.tensor]? with | some t => decide (t.kind = 1) | none => false, tagged⟩

/-- Lines of a run that the host may cache (R560, R561). -/
def State.cachedIn (s : State) (x : Acc) : List Nat :=
  s.cxl.filters.flatten.filter (fun l => decide (l * 64 < x.addr + x.n) && decide (x.addr < l * 64 + 64))

/-- A firing's access to a line waits for the line's snoop, which is sent unless it is under way (R561). -/
def State.waitSnoop (s : State) (u line : Nat) : State :=
  let s1 := if s.cxl.snoops.any (fun (x : Snoop) => decide (x.line = line)) then s else s.snoopLine line
  s1.addWait u (.snoop line)

/-- The bytes a firing sees: those brought by its remote reads, and memory. -/
def State.rdOf (s : State) (r : Running) : Nat → U8 :=
  if r.fetched.isEmpty then s.mem.byte
  else fun a => match r.fetched.find? (fun (p : Nat × U8) => decide (p.1 = a)) with | some p => p.2 | none => s.mem.byte a

/-- The bytes that the firing an engine runs sees. -/
def State.rdAt (s : State) (u : Nat) : Nat → U8 := match (s.engine u).cur with | some r => s.rdOf r | none => s.mem.byte

/-- The bytes a node's firing sees: storage it reads as it stood on entry into BINDING is read so (R94). -/
def State.nodeRd (s : State) (u : Nat) (b : Bound) (i : Nat) : Nat → U8 :=
  let l := b.olds.filter (fun (x : Nat × Nat × Nat) => decide (x.1 = i))
  let rd := s.rdAt u
  if l.isEmpty then rd
  else fun a => if l.any (fun (x : Nat × Nat × Nat) => decide (x.2.1 ≤ a) && decide (a < x.2.1 + x.2.2)) then SMap.get byteDefault b.then0 a else rd a

/-! #### Grain tags (R217, R230, R269, R409, R410) -/

/-- Whether a block lies in the slow tier of a job. -/
def State.slowBlock (s : State) (j blk : Nat) : Bool := s.slowRun j (blk * 2048) 2048

/-- Blocks that a run of bytes touches. -/
def Acc.blocks (x : Acc) : List Nat := (List.range (blocksOf x.addr x.n).2).map (fun i => (blocksOf x.addr x.n).1 + i)

/-- The blocks whose tags a firing checks, in the order of its reads: those of local runs that are to be checked, and every block read from the slow tier (R230, R409). -/
def State.checked (s : State) (j : Nat) (reads : List Acc) : List Nat :=
  reads.flatMap (fun x => x.blocks.filter (fun b => if inWindow (b * 2048) then s.slowBlock j b else x.tagged && taggable (b * 2048)))

/-- The tag stored for a block: in the slow tier, the one read from the window's tag area. -/
def State.storedTag (s : State) (u blk : Nat) : U32 :=
  if inWindow (blk * 2048) then BitVec.ofNat 32 (rdLe (s.rdAt u) (tagKey (blk * 2048)) 4) else s.mem.tag blk

/-- The tag of a block as a firing has read it. -/
def State.foundTag (s : State) (u blk : Nat) : U32 := let rd := s.rdAt u; crc32c ((List.range 2048).map (fun i => rd (blk * 2048 + i)))

/-- A grain tag mismatch: its error record, the engine's error bit, and a detected fault (R269, R272, R322, R410). -/
def State.grainFault (s : State) (u addr : Nat) (stored found : U32) (f : Flags) : State :=
  (s.grainMiss u addr stored found).faultWith u S_GRAIN f

/-- ERR_INJ bit of GRAIN_ONE on a unit's page (R272, R322). -/
def grainBit (u : Nat) : Nat := if isLathe u then 1 else 0

def hasGrainInject (u : Nat) : Bool := isCopy u || isLathe u

/-- Bytes brought to the firing an engine runs, ahead of those it has. -/
def State.bring (s : State) (u : Nat) (l : List (Nat × U8)) : State :=
  s.updEngine u (fun e => { e with cur := e.cur.map (fun (r : Running) => { r with fetched := l ++ r.fetched }) })

/-- The blocks a firing has read checked in order; GRAIN_ONE flips bit 0 of the first one as read, and is used up (R272, R322). Says whether the firing goes on. -/
def State.tagCheck (s : State) (u : Nat) (l : List Nat) : State × Bool :=
  let s1 := match l with
    | b :: _ =>
      if hasGrainInject u && s.armed (unitPage u) (grainBit u) then (s.disarm (unitPage u) (grainBit u)).bring u [(b * 2048, s.rdAt u (b * 2048) ^^^ 1#8)] else s
    | [] => s
  match l.find? (fun b => decide (s1.foundTag u b ≠ s1.storedTag u b)) with
  | some b => (s1.grainFault u (b * 2048) (s1.storedTag u b) (s1.foundTag u b) 0, false)
  | none => (s1, true)

/-! #### Everything a firing's reads need -/

/-- The runs that a firing's local reads bring through the controllers: a checked block whole, with its tag (R212, R268). -/
def localRuns (reads : List Acc) : List (Nat × Nat) :=
  (reads.filter (fun x => !inWindow x.addr && decide (0 < x.n))).flatMap (fun x =>
    if x.tagged && taggable x.addr then x.blocks.flatMap (fun b => (b * 2048, 2048) :: (match tagAddr b with | some a => [(a, 4)] | none => []))
    else [(x.addr, x.n)])

/-- ECC over runs of local memory: the address of an uncorrectable error, if one is met. -/
def State.eccAll (s : State) (l : List (Nat × Nat)) : State × Option Nat :=
  l.foldl (fun (t : State × Option Nat) x => if t.2.isSome then t else t.1.eccRead x.1 x.2) (s, none)

/-- The blocks in SRAM that a running firing takes by its input tokens. -/
def State.tokenRuns (s : State) (r : Running) : List (Nat × Nat) :=
  match (s.stream r.stream).bound with
  | some b => if r.took.1 then (b.edges.filter (fun (e : BEdge) => decide (e.dst = r.slot))).map (fun e => ((e.token (b.firingsDone r.slot)).addr, e.bytes)) else []
  | none => []

/-- A firing whose stream is gone, as after the loss of base die 1 (R476), or has been closed and perhaps opened for another job since, runs to its end and leaves nothing. DESIGN CHOICE (log entry 55): R611 says that its writes may still land; those of a stream still FAILED do. -/
def State.endOrphan (s : State) (u : Nat) : State :=
  match (s.engine u).cur with
  | some r => (s.boundary u).freeAfterFiring u r.stream
  | none => s

/-- Whether the stream of a firing has been closed since its submission ended. -/
def State.closed (s : State) (n : Nat) : Bool := decide ((s.stream n).st = .free) || decide ((s.stream n).st = .idle)

/-- Everything that must be in place before a firing's reads can be used: remote bytes, host caches, regions, reachable memory, ECC and grain tags. Says whether the firing goes on; where it does not, it waits or has ended. A firing whose writes are under way has read already. -/
def State.gather (s : State) (u j : Nat) (reads writes : List Acc) : State × Bool :=
  match (s.engine u).cur with
  | none => (s, false)
  | some r =>
    let missing := reads.filter (fun x => inWindow x.addr && decide (0 < x.n) && !r.fetched.any (fun (p : Nat × U8) => decide (p.1 = x.addr)))
    let lines := ((reads ++ writes).flatMap s.cachedIn).dedup
    let all := (reads.filter (fun x => !x.own)).all (fun x => decide (x.n = 0) || s.allowed j x.addr x.n false)
      && (writes.filter (fun x => !x.own)).all (fun x => decide (x.n = 0) || s.allowed j x.addr x.n true)
    if !r.waits.isEmpty then (s, false)
    else if s.closed r.stream then (s.endOrphan u, false)
    else if r.sent then (s, true)
    else if !all then (s.failFiring u S_ACCESS, false)
    else if (reads ++ writes).any (fun x => decide (0 < x.n) && s.memDown x.addr) then (s.failFiring u S_DIE_DOWN, false)
    else if !missing.isEmpty then ((s.forEach missing (fun t x => t.fetchRun u j x.addr x.n)).issueUio, false)
    else if !lines.isEmpty then (s.forEach lines (fun t l => t.waitSnoop u l), false)
    else
      let e := s.eccAll (localRuns reads ++ s.tokenRuns r)
      match e.2 with
      | some _ => (e.1.faultWith u S_MEM_UNCORR 0, false)
      | none => e.1.tagCheck u (e.1.checked j reads)

/-! ### Writing -/

/-- A block of 2,048 bytes with writes laid over what a firing has read. -/
def overlay (rd : Nat → U8) (ws : List (Nat × List U8)) (blk : Nat) : List U8 :=
  (List.range 2048).map (fun i =>
    let a := blk * 2048 + i
    match ws.findSome? (fun w => if w.1 ≤ a ∧ a < w.1 + w.2.length then w.2[a - w.1]? else none) with
    | some b => b
    | none => rd a)

/-- Bytes of a block that writes cover, each address counted once where the writes are apart. -/
def coveredIn (ws : List (Nat × List U8)) (blk : Nat) : Nat :=
  (ws.map (fun w => min (w.1 + w.2.length) (blk * 2048 + 2048) - max w.1 (blk * 2048))).sum

/-- The slow-tier blocks of which writes leave a part as it is: a tag covers the merged block, so they are read first (R217, R230). -/
def State.partBlocks (s : State) (j : Nat) (far : List (Nat × List U8)) : List Nat :=
  ((far.flatMap (fun w => (Acc.mk w.1 w.2.length false false).blocks)).dedup).filter (fun b => s.slowBlock j b && decide (coveredIn far b < 2048))

/-- The flags a firing has raised so far kept with it (R173). -/
def State.keepFlags (s : State) (u : Nat) (f : Flags) : State :=
  s.updEngine u (fun e => { e with cur := e.cur.map (fun (r : Running) => { r with flags := r.flags ||| f }) })

/-- A firing's writes carried out: local ones at once, remote ones sent first and then waited for, slow-tier blocks written in part read and checked before. `f` are the flags the firing has raised. Says whether all are done (R217, R230, R357). -/
def State.store (s : State) (u j : Nat) (ws : List (Nat × List U8)) (f : Flags) : State × Bool :=
  match (s.engine u).cur with
  | none => (s, false)
  | some r =>
    let far := ws.filter (fun w => inWindow w.1 && !w.2.isEmpty)
    let near := ws.filter (fun w => !inWindow w.1)
    let part := s.partBlocks j far
    let missing := part.filter (fun b => !r.fetched.any (fun (p : Nat × U8) => decide (p.1 = b * 2048)))
    if far.isEmpty || r.sent then (s.writeMemAll near, true)
    else
      let s0 := s.keepFlags u f
      if !missing.isEmpty then ((s0.forEach missing (fun t b => t.fetchRun u j (b * 2048) 2048)).issueUio, false)
      else
        let c := s0.tagCheck u part
        if !c.2 then c
        else
          let s1 := c.1.updEngine u (fun e => { e with cur := e.cur.map (fun (x : Running) => { x with sent := true }) })
          ((s1.forEach far (fun t w => t.storeRun u j w.1 w.2 (overlay (s.rdOf r) far))).issueUio, false)

/-! ### What a compute firing produces -/

/-- The output port of a tensor. -/
def Program.portOf (p : Program) (i : Nat) (n : GNode) (t : Nat) : Nat := ((List.range n.outCount).find? (fun k => decide (p.outPort i k = some t))).getD 0

/-- A firing's writes and flags. -/
def pieceWrites (rd : Nat → U8) (p : Program) (i : Nat) (n : GNode) (ins outs : List TView) (flips : List Flip) (l : List Piece) :
    List (Nat × List U8) × Flags :=
  (l.map (fun q => rangeWrites q.view (finalSat n) (nodeRowF rd n ins outs (p.portOf i n q.tensor) flips) q.lo q.hi)).foldl
    (fun a w => (a.1 ++ w.1, a.2 ||| w.2)) ([], 0)

/-- The parts of rows that a firing forms on an output port: row, first and past-the-end column. -/
def segsOf (p : Program) (i : Nat) (n : GNode) (port : Nat) (l : List Piece) : List RowSeg :=
  (l.filter (fun q => decide (p.portOf i n q.tensor = port))).flatMap (fun q =>
    let r := q.view.rowsIn q.lo q.hi
    ((List.range (r.2 - r.1)).map (fun k => (r.1 + k, q.view.colsIn (r.1 + k) q.lo q.hi))).filter (fun x => decide (x.2.1 < x.2.2)))

/-- Rows that a firing finishes: those that begin in its pieces of output port 0. -/
def rowsBegun (p : Program) (i : Nat) (n : GNode) (l : List Piece) : List (TView × Nat) :=
  (l.filter (fun q => decide (p.portOf i n q.tensor = 0))).flatMap (fun q =>
    let pitch := rowPitch q.view.d (inner q.view.exts)
    if pitch = 0 then []
    else ((List.range (rowCount q.view.exts)).filter (fun r => decide (q.lo ≤ r * pitch) && decide (r * pitch < q.hi))).map (fun r => (q.view, r)))

/-- Whether a node is an ATTENTION FORWARD. -/
def isForward (n : GNode) : Bool := decide (n.op = opAttention) && decide (n.sub = 0)

/-- Query rows an ATTENTION FORWARD firing finishes, as results (R196 to R199). -/
def attnRows (rd : Nat → U8) (p : Program) (i : Nat) (n : GNode) (ins : List TView) (flips : List Flip) (l : List Piece) : List AttnRow :=
  if isForward n then
    (rowsBegun p i n l).map (fun q =>
      let ix := unflattenIdx q.1.exts.dropLast q.2
      attnForwardRow rd n (viewAt ins 0) (viewAt ins 1) (viewAt ins 2) (attnMask n ins) (ix.getD 0 0) (ix.getD 1 0) (ix.getD 2 0) flips)
  else []

/-- The flat query rows that an ATTENTION FORWARD firing works on, for O or for the stats. -/
def queryRows (p : Program) (i : Nat) (n : GNode) (l : List Piece) : List Nat :=
  (sortBy (fun a b => decide (a ≤ b)) ((segsOf p i n 0 l ++ segsOf p i n 1 l).map (·.1))).dedup

/-! #### Instructions of 64 lanes (R184, R185, R190) -/

/-- The columns of a part of a row in runs of 64 lanes. DESIGN CHOICE (log entry 29): lanes count from the first column that the firing forms of the row. -/
def laneRuns (x : RowSeg) : List (Nat × Nat) := (List.range ((x.2.2 - x.2.1 + 63) / 64)).map (fun k => (x.2.1 + 64 * k, min x.2.2 (x.2.1 + 64 * k + 64)))

/-- Lanes masked in an instruction: those beyond the innermost extent (R185). -/
def maskedLanes (n : Nat) (q : Nat × Nat) : Nat := if q.2 = n then 64 - (q.2 - q.1) else 0

/-- The summary of each curve instruction of a firing (R190). -/
def curveSummaries (rd : Nat → U8) (nd : GNode) (x out : TView) (segs : List RowSeg) : List Flags :=
  segs.flatMap (fun g => (laneRuns g).map (fun q =>
    ((List.range (q.2 - q.1)).map (fun c => (curveLane nd (x.get rd (g.1 * inner out.exts + q.1 + c))).2.2)).foldl (· ||| ·) 0))

/-! #### Arrays (R131, R134, R142 to R151, R619) -/

/-- The page of a core's array. -/
def arrayPage (core : Nat) : Page := unitPage (4 * core)

/-- TOL of R143. -/
def State.tallyTol (s : State) (core : Nat) : Nat := max 12 (min 20 (s.field (arrayPage core) 0x048 0 5))

/-- Physical columns that an array's repair record maps out (R135). -/
def State.mappedCols (s : State) (core : Nat) : List Nat := ([s.field (arrayPage core) 0x044 0 6, s.field (arrayPage core) 0x044 8 6].filter (fun c => decide (c < 32))).dedup

/-- Where an armed TALLY_ONE acts among a firing's passes, given their vectors: pass, vector and column (R151). -/
def State.tallyHit (s : State) (core before : Nat) (vs : List Nat) : Option (Nat × Nat × Nat) :=
  if s.armed (arrayPage core) 0 then (vectorAt vs 0 before).map (fun p => (p.1, p.2, s.field (arrayPage core) offErrInj 8 6)) else none

/-- The flat rows of an ATTENTION firing that the core at a place among the quad's cores serves: query rows of O, the stats or dQ, and key rows of dK and dV (R205). -/
def attnShare (p : Program) (i : Nat) (n : GNode) (l : List Piece) (cores k : Nat) : List Nat × List Nat :=
  let ofPorts (a b : Nat) : List Nat := (sortBy (fun a b => decide (a ≤ b)) ((segsOf p i n a l ++ segsOf p i n b l).map (·.1))).dedup
  if isForward n then (coreRows (ofPorts 0 1) cores k, [])
  else (coreRows (ofPorts 0 0) cores k, coreRows (ofPorts 1 2) cores k)

/-- The work of a firing on the arrays it uses: its own for a MATMUL, those of the quad for an ATTENTION. -/
def State.arrayRuns (s : State) (u : Nat) (rd : Nat → U8) (p : Program) (i : Nat) (n : GNode) (ins outs : List TView) (l : List Piece) (before : Nat) : List ArrayRun :=
  if n.op = opMatmul then
    let c := coreOf u
    [matRun rd n ins (viewAt outs 0) c (s.arrayWidth c) (s.tallyTol c) (segsOf p i n 0 l) (s.tallyHit c before)]
  else if n.op = opAttention then
    let cores := s.quadCores (u - 768)
    ((List.range cores.length).zip cores).map (fun c =>
      let share := attnShare p i n l cores.length c.1
      if isForward n then attnRun rd n ins c.2 (s.arrayWidth c.2) (s.tallyTol c.2) (queryRows p i n l) share.1 (s.tallyHit c.2 before)
      else backRun rd n ins c.2 (s.arrayWidth c.2) (s.tallyTol c.2) share.1 share.2 (!(segsOf p i n 1 l).isEmpty) (!(segsOf p i n 2 l).isEmpty) (s.tallyHit c.2 before))
  else []

/-- The flags that the curve unit of one core raises in an ATTENTION firing (R190). -/
def State.attnCurve (s : State) (u core : Nat) (rd : Nat → U8) (p : Program) (i : Nat) (n : GNode) (ins : List TView) (f : List Flip) (l : List Piece) : Flags :=
  let cores := s.quadCores (u - 768)
  let share := attnShare p i n l cores.length ((cores.idxOf? core).getD 0)
  if isForward n then
    (share.1.map (fun r =>
      let ix := unflattenIdx (viewAt ins 0).exts.dropLast r
      (attnForwardRow rd n (viewAt ins 0) (viewAt ins 1) (viewAt ins 2) (attnMask n ins) (ix.getD 0 0) (ix.getD 1 0) (ix.getD 2 0) f).curve)).foldl (· ||| ·) 0
  else backCurve rd n ins f share.1 share.2

/-- What one array's passes leave: its registers, its counters and its weight registers (R131, R133, R142, R144, R150, R151). -/
def State.arrayDone (s : State) (x : ArrayRun) : State :=
  let pg := arrayPage x.core
  let s1 := if x.hit.isSome then s.disarm pg 0 else s
  let s2 := (((s1.countPair pg 0x064 x.seen.passes).countPair pg 0x06C (idleCycles (x.vs.take x.begun))).countSat pg 0x050 x.seen.skips).countSat pg 0x054 x.seen.sats
  if x.begun = 0 then s2 else s2.setArray x.core ((s2.array x.core).run x.int (s2.mappedCols x.core) (x.tiles.take x.begun))

/-- A tally mismatch recorded on the array's page (R146, R150). -/
def State.noteMiss (s : State) (core stream vector cls : Nat) (int : Bool) (diff bound : U32) : State :=
  let pg := arrayPage core
  let s1 := if (s.reg pg offErrStat).toNat.testBit 0 then s
    else ((s.setReg pg 0x058 (packFields [(vector % 4096, 0, 12), (cls, 12, 2), (if int then 1 else 0, 14, 1), (stream, 16, 14)])).setReg pg 0x05C diff).setReg pg 0x060 bound
  (s1.countSat pg 0x04C).raise pg 0

/-- A firing ends with a tally mismatch of an array (R146); a second one makes the array's tuning pass due at once (R405). -/
def State.tallyFault (s : State) (u core stream vector cls : Nat) (int : Bool) (diff bound : U32) (f : Flags) : State :=
  let s1 := s.noteMiss core stream vector cls int diff bound
  (if s1.lastTry u then s1.dueNow (4 * core) else s1).faultWith u S_TALLY f

/-- The first mismatch among the arrays of a firing: the array's work, the pass, the vector, the difference and the bound. -/
def firstMiss (arrays : List ArrayRun) : Option (ArrayRun × Nat × Nat × Nat × Nat) := arrays.findSome? (fun x => x.seen.miss.map (fun m => (x, m)))

/-- A firing that ends with the mismatch of one of its arrays: each array counts what it has done (R146, R150). -/
def State.missFault (s : State) (u stream : Nat) (arrays : List ArrayRun) (m : ArrayRun × Nat × Nat × Nat × Nat) (f : Flags) : State :=
  (s.forEach arrays State.arrayDone).tallyFault u m.1.core stream m.2.2.1 (m.1.classes.getD m.2.1 .w4).code m.1.int (BitVec.ofNat 32 m.2.2.2.1) (BitVec.ofNat 32 m.2.2.2.2) f

/-! ### Counters after a firing (R150, R206 to R208, R260, R271) -/

/-- Elements that a COPY firing fills (R259), and those dropped, counted in the firing that writes the node's first output block, or in the node's first firing where it has none (R260, log entry 9). -/
def copyOob (rd : Nat → U8) (p : Program) (i : Nat) (n : GNode) (ins outs : List TView) (runs : List BlkRun) (l : List Piece) (firstOf : Bool) : Nat × Nat :=
  let out := viewAt outs 0
  if n.op ≠ opCopy then (0, 0)
  else if n.sub = 2 then (gatherFills rd n (viewAt ins 0) (viewAt ins 1) out (segsOf p i n 0 l), 0)
  else if n.sub = 3 ∧ (runs.any (fun r => decide (r.first = 0)) || (firstOf && decide (out.bytes = 0))) then (0, scatterDrops rd n (viewAt ins 0) (viewAt ins 1) out)
  else (0, 0)

/-- A vector engine's counters (R206). -/
def State.countVector (s : State) (pg : Page) (insns masked : Nat) : State := (s.countPair pg 0x044 insns).countSat pg 0x04C masked

/-- A curve unit's counters, and its last nonzero summary (R207). -/
def State.countCurve (s : State) (pg : Page) (stream func insns hot : Nat) (last : Option Flags) : State :=
  let s1 := (s.countPair pg 0x044 insns).countSat pg 0x050 hot
  match last with
  | some f => s1.setReg pg 0x04C (packFields [(f.toNat, 0, 4), (func, 8, 4), (stream, 16, 14), (1, 31, 1)])
  | none => s1

/-- A copy engine's counters (R271, R272). -/
def State.countCopy (s : State) (pg : Page) (bytes subs fills drops : Nat) : State :=
  let s1 := ((s.countPair pg 0x044 bytes).countWrap pg 0x04C subs).countSat pg 0x050 fills
  if drops = 0 then s1 else (s1.countSat pg 0x054 drops).raise pg 2

/-- A sequencer's counters (R208). -/
def State.countRows (s : State) (pg : Page) (stream : Nat) (rows : List AttnRow) (skipped : Nat) : State :=
  let e := (rows.filter (·.empty)).length
  let s1 := ((s.countPair pg 0x044 rows.length).countSat pg 0x04C e).countSat pg 0x050 (rows.filter (·.infRow)).length
  let s2 := (s1.countSat pg 0x054 (rows.filter (·.nanRow)).length).countPair pg 0x058 skipped
  if e = 0 then s2 else s2.setReg pg 0x060 (packFields [(stream, 0, 14), (1, 31, 1)])

/-- What a sequencer's firing counts on one core of its quad beside the array passes (R206, R207). The instructions are as reported; `f`, the OR of their summaries, says whether any was nonzero (R190), and the last nonzero one is of e^x or of 1/x (R196, R204) and raises nothing else. -/
def State.countQuad (s : State) (stream : Nat) (f : Flags) (x : QuadObs) : State :=
  let s1 := s.countVector (unitPage (4 * x.core + 1)) x.insns x.masked
  let hot := if f = 0 then 0 else max 1 x.hot
  let last := if f &&& x.summary = 0 then f else f &&& x.summary
  s1.countCurve (unitPage (4 * x.core + 2)) stream (if x.inverse then 4 else 0) (max hot x.evals) hot (if f = 0 then none else some last)

/-- The Chucks after a transposing firing, and its sub-blocks (R263, R264). -/
def State.chuckDone (s : State) (u : Nat) (rd : Nat → U8) (n : GNode) (ins outs : List TView) (segs : List RowSeg) : State × Nat :=
  let y := viewAt outs 0
  if n.op = opCopy ∧ transposes n y.exts.length = true then
    let l := subBlocks n y segs
    (s.setChuck u ((s.chuck u).run rd n (viewAt ins 0) y l), l.length)
  else (s, 0)

/-- The counters of a unit after a completed firing; a sequencer's `rows`, a copy engine's `bytes` and `oob`. -/
def State.countFiring (s : State) (u stream : Nat) (rd : Nat → U8) (p : Program) (i : Nat) (n : GNode) (ins outs : List TView) (l : List Piece)
    (obs : FireObs) (bytes : Nat) (oob : Nat × Nat) (rows : List AttnRow) (flips : List Flip) : State :=
  let pg := unitPage u
  let segs := segsOf p i n 0 l
  let lanes := segs.flatMap laneRuns
  let w := inner (viewAt outs 0).exts
  if isArray u then s
  else if isVector u then
    (if n.op = opElementwise then s.countVector pg lanes.length ((lanes.map (maskedLanes w)).sum) else s.countVector pg obs.work obs.masked)
  else if isCurve u then
    let hot := (curveSummaries rd n (viewAt ins 0) (viewAt outs 0) segs).filter (fun f => decide (f ≠ 0))
    s.countCurve pg stream n.sub lanes.length hot.length hot.getLast?
  else if isCopy u then
    let c := s.chuckDone u rd n ins outs segs
    c.1.countCopy pg bytes c.2 oob.1 oob.2
  else
    let s1 := s.countRows pg stream rows (if isForward n then skippedPairs rd n (viewAt ins 0) (viewAt ins 1) (queryRows p i n l) else 0)
    s1.forEach (obs.quad.filter (fun (x : QuadObs) => decide (x.core / 4 = u - 768))) (fun t x => t.countQuad stream (s.attnCurve u x.core rd p i n ins flips l) x)

/-! ### FIRING_COMPLETE -/

/-- Whether a firing's reads check grain tags: a COPY's where the tensor carries GRAIN, every other's as those of the staging moves that bring the blocks (R269, R409). -/
def readTagged (p : Program) (n : GNode) (t : Nat) : Bool :=
  decide (n.op ≠ opCopy) || (match p.tensors[t]? with | some y => decide (y.tflags % 2 = 1) | none => false)

/-- What a firing reads, as runs of memory. -/
def State.firingReads (s : State) (u : Nat) : List Acc :=
  match s.firingOf u with
  | some (r, b, y) =>
    let j := (s.stream r.stream).job
    let runs := (y.firings[y.next]?).getD []
    (match b.prog.nodes[y.node]? with
    | some n =>
      if n.op = opCollective ∨ 8 ≤ n.op then
        (List.range n.inCount).flatMap (fun k => match b.prog.inPort y.node k with
          | some t => (s.parts j b t).map (fun v => ⟨v.addr, v.bytes, false, true⟩)
          | none => [])
      else (s.readsOf j b y.node n runs).map (fun q => q.acc b.prog true)
    | none => (s.writesOf j b runs).map (fun q => q.acc b.prog true))
  | none => []

def State.readsAt (s : State) (u a : Nat) : Bool := (s.firingReads u).any (fun x => decide (x.addr ≤ a) && decide (a < x.addr + x.n))

/-- What the controllers mended in a firing's reads (R214, R222). -/
def State.readNotes (s : State) (u : Nat) (l : List ReadNote) : State := s.forEach (l.filter (fun (x : ReadNote) => s.readsAt u x.addr || reachesSram u x.addr)) State.readNote

/-- Storage in the Window Map region that a node reads as it stood although the program writes it: what its first firing to read it has brought is kept for the others (R94, R112). -/
def State.keepOld (s : State) (u n : Nat) (b : Bound) (y : BNode) (reads : List Piece) : State :=
  let l := reads.filter (fun q => inWindow (q.view.addr + q.lo) && b.prog.readsOld y.node q.tensor
    && !b.olds.any (fun (x : Nat × Nat × Nat) => decide (x = (y.node, q.view.addr + q.lo, q.hi - q.lo))))
  if l.isEmpty then s
  else
    let rd := s.nodeRd u b y.node
    s.setStream n { s.stream n with bound := some { b with
      olds := l.map (fun q => (y.node, q.view.addr + q.lo, q.hi - q.lo)) ++ b.olds
      then0 := l.foldl (fun m q => SMap.setMany byteDefault m (q.view.addr + q.lo) ((List.range (q.hi - q.lo)).map (fun i => rd (q.view.addr + q.lo + i)))) b.then0 } }

/-- A core engine's or sequencer's firing of a Galad node ends: a tally mismatch of one of its arrays ends it as a fault. -/
def State.completeNode (s : State) (u : Nat) (r : Running) (b : Bound) (y : BNode) (n : GNode) (obs : FireObs) : State :=
  let j := (s.stream r.stream).job
  let runs := (y.firings[y.next]?).getD []
  let pieces := s.readsOf j b y.node n runs
  let reads := pieces.map (fun q => q.acc b.prog (readTagged b.prog n q.tensor))
  let out := s.writesOf j b runs
  let g := s.gather u j reads (out.map (fun q => q.acc b.prog false))
  if !g.2 then g.1
  else
    let ins := s.inViews j b y.node n
    let outs := s.outViews j b y.node n
    let rd := g.1.nodeRd u b y.node
    let arrays := g.1.arrayRuns u rd b.prog y.node n ins outs out obs.before
    let flips := arrays.flatMap (·.flips)
    let w := pieceWrites rd b.prog y.node n ins outs flips out
    let g1 := if r.sent then g.1 else (g.1.readNotes u obs.mem).keepOld u r.stream b y pieces
    match firstMiss arrays with
    | some m => g1.missFault u r.stream arrays m w.2
    | none =>
      let p := g1.store u j w.1 w.2
      if !p.2 then p.1
      else
        let rows := attnRows rd b.prog y.node n ins flips out
        let first := decide (y.next = 0) && (b.nodes.find? (fun (z : BNode) => decide (z.node = y.node))).all (fun z => decide (z.slot = y.slot))
        let o := copyOob rd b.prog y.node n ins outs runs out first
        let s1 := (p.1.forEach arrays State.arrayDone).countFiring u r.stream rd b.prog y.node n ins outs out obs ((w.1.map (fun x => x.2.length)).sum) o rows flips
        s1.finishFiring u runs { flags := w.2, oob := o.2, empty := rows.any (·.empty), wrote := w.1 }

/-- Pieces with the bytes of a block cut to them in order. -/
def spread : List Piece → List U8 → List (Nat × List U8)
  | [], _ => []
  | q :: l, bs => (q.view.addr + q.lo, bs.take (q.hi - q.lo)) :: spread l (bs.drop (q.hi - q.lo))

/-- The bytes that a staging move brings. -/
def State.moveBytes (s : State) (u : Nat) (src : Option (Nat × Bool)) (accs : List Acc) : List U8 :=
  let rd := s.rdAt u
  match src with
  | some (a, _) => (List.range (accs.map (·.n)).sum).map (fun i => rd (a + i))
  | none => accs.flatMap (fun x => (List.range x.n).map (fun i => rd (x.addr + i)))

/-- The tags of a block that a staging move takes from SRAM, checked (R267, R269). -/
def State.moveCheck (s : State) (u n : Nat) (src : Option (Nat × Bool)) : State × Bool :=
  match src with
  | some (a, true) => s.tagCheck u ((List.range ((n + 2047) / 2048)).map (fun i => a / 2048 + i))
  | _ => (s, true)

/-- A staging move's bytes in SRAM, where it puts them into its own area or a block slot. -/
def State.movePut (s : State) (dst : Option (Nat × Bool)) (bytes : List U8) : State :=
  match dst with
  | some (a, tagged) => { s with mem := s.mem.stage a bytes tagged }
  | none => s

/-- A staging move whose block has arrived: its bytes stored unchanged in the block slots of its output edges, in its own area, or in the tensor's storage `out` (R225, R245, R267). -/
def State.moveOn (s : State) (u j : Nat) (r : Running) (b : Bound) (y : BNode) (obs : FireObs) (l : List Piece) (bytes : List U8) (out : Bool) : State :=
  let s1 := if r.sent then s else s.readNotes u obs.mem
  let p := if out then s1.store u j (spread l bytes) 0 else (s1, true)
  if !p.2 then p.1
  else (((p.1.movePut (b.moveDst y) bytes).countPair (unitPage u) 0x044 bytes.length).finishFiring u [] { wrote := spread l bytes })

/-- A staging move ends: the tags of its blocks are checked on arrival (R245, R267, R269). It takes them from the tensor's storage, or, where an edge feeds it, from SRAM, and then, where it has no output edge, moves them out to that storage. -/
def State.completeMove (s : State) (u : Nat) (r : Running) (b : Bound) (y : BNode) (obs : FireObs) : State :=
  let j := (s.stream r.stream).job
  let l := s.writesOf j b ((y.firings[y.next]?).getD [])
  let accs := l.map (fun q => q.acc b.prog true)
  let src := b.moveSrc y
  let out := src.isSome && (b.moveDst y).isNone
  let g := s.gather u j (if src.isSome then [] else accs) (if out then accs else [])
  if !g.2 then g.1
  else
    let bytes := g.1.moveBytes u src accs
    let c := if r.sent then (g.1, true) else g.1.moveCheck u (accs.map (·.n)).sum src
    if !c.2 then c.1 else c.1.moveOn u j r b y obs l bytes out

/-- FIRING_COMPLETE (R25, R94, R357, R404): the firing of a core engine or sequencer ends without a fault of its own; a firing that waits for remote memory or for a snoop goes on when the answers are in. Consort and Lathe firings end with commands of their own, a PHASE node's here. -/
def State.fireComplete (s : State) (u : Nat) (obs : FireObs) (coll : State → Nat → FireObs → State) : State :=
  match s.firingOf u with
  | none => s.endOrphan u
  | some (r, b, y) =>
    if !r.waits.isEmpty ∨ s.pwr.st ≠ .run then s
    else
      match b.prog.nodes[y.node]? with
      | none => s.completeMove u r b y obs
      | some n =>
        if n.op = opPhase then s.finishFiring u [] {}
        else if n.op = opCollective then coll s u obs
        else if isLathe u then s
        else s.completeNode u r b y n obs

/-! ### FIRING_START -/

/-- A sequencer starts once it holds its quad; until then it reserves what stands at a boundary (R33). -/
def State.startSequencer (s : State) (q : Nat) : State :=
  match s.pick q with
  | .fire k d =>
    let s1 := s.forEach (s.quadHeld q) (fun t v => if (t.engine v).reservedBy = some q then t else t.tryReserve v)
    if s1.quadReady q then s1.startFiring q k d (true, true) (.unsaid, 0) else s1
  | _ => s

/-- FIRING_START on a unit other than a Lathe (R23, R24, R32, R33, R251). -/
def State.fireStart (s0 : State) (u : Nat) (coll : State → Nat → State) : State :=
  let s := s0.lapse
  if isLathe u then s
  else if isSequencer u then s.startSequencer u
  else
    match s.pick u with
    | .nothing => s
    | .reserve k d => (s.served u k d).reserve u
    | .fire k d =>
      let sides := if isConsort u then s.keySides k else (true, true)
      let s1 := s.startFiring u k d sides (.unsaid, 0)
      if isConsort u then coll s1 u else s1.checkCopy u

/-! ### Faults and the watchdog -/

/-- The work on arrays of the firing that a unit runs, as far as its reads have brought what it needs. -/
def State.runningArrays (s : State) (u : Nat) : List ArrayRun :=
  match s.firingOf u with
  | some (r, b, y) =>
    let j := (s.stream r.stream).job
    (match b.prog.nodes[y.node]? with
    | some n => s.arrayRuns u (s.nodeRd u b y.node) b.prog y.node n (s.inViews j b y.node n) (s.outViews j b y.node n) (s.writesOf j b ((y.firings[y.next]?).getD [])) 0
    | none => [])
  | none => []

/-- The passes of the firing a unit runs on the array of a core: its class and whether it is integer, if the pass has that vector. -/
def State.passesAt (s : State) (u core pass vector : Nat) : Option (Nat × Bool) :=
  ((s.runningArrays u).find? (fun x => decide (x.core = core))).bind (fun x =>
    if vector < x.vs.getD pass 0 then some ((x.classes.getD pass .w4).code, x.int) else none)

/-- Whether a difference is a mismatch: any for an integer class, one above the bound for a floating class (R142, R143, R145). -/
def missBeyond (int : Bool) (diff bound : U32) : Bool :=
  if int then decide (diff ≠ 0) else (fmtF32.decode bound.toNat).lt (fmtF32.decode diff.toNat)

/-- A firing ends with a detected fault that the surroundings bring: a mismatch of one of its vectors, an uncorrectable error in what it reads or in SRAM it reaches, or a damaged block. A cause that cannot befall the firing does nothing. -/
def State.faultOf (s : State) (u : Nat) (cause : FaultCause) (f : Flags) : State :=
  match (s.engine u).cur with
  | none => s
  | some r =>
    match cause with
    | .tally core pass vector d b =>
      (match s.passesAt u core pass vector with
      | some (_, int) =>
        if missBeyond int d b then
          let arrays := (s.runningArrays u).map (fun x => if x.core = core then x.missAt pass vector d.toNat (if int then 0 else b.toNat) else x)
          (match firstMiss arrays with
          | some m => s.missFault u r.stream arrays m f
          | none => s)
        else s
      | none => s)
    | .memory kind a retries =>
      if kind = 2 then
        (if reachesSram u a then (s.record { kind := 0x03, code := S_MEM_UNCORR, addr := a, detail := [2] }).faultWith u S_MEM_UNCORR f else s)
      else
        match devOf a with
        | some d =>
          if d.kind = kind ∧ s.readsAt u a = true then
            ((({ s with mem := s.mem.spoil (a / 64) }).readNote ⟨a, false, retries⟩).noteUncorr d a 1).faultWith u S_MEM_UNCORR f
          else s
        | none => s
    | .grain a found =>
      if s.readsAt u a = true ∧ found ≠ s.storedTag u (a / 2048) then s.grainFault u (a / 2048 * 2048) (s.storedTag u (a / 2048)) found f else s

/-- FIRING_FAULT (R27, R172, R215, R227, R269, R402 to R405, R410). -/
def execFiringFault (u : Fin 822) (cause : FaultCause) (flags : BitVec 4) (s : State) : Res := .next (s.faultOf u.val cause flags)

/-- FIRING_WATCHDOG (R31, R73, R403, R442): the firing's outputs are discarded and its stream fails. -/
def execFiringWatchdog (u : Fin 822) (s : State) : Res :=
  .next (
    match (s.engine u.val).cur with
    | some r =>
      let pg := stmPage (s.stream r.stream).home
      let s1 := (s.countSat pg 0x04C).raise pg 0
      (s1.recordStream r.stream { kind := 0x12, code := S_FIRE_OVERRUN, unit := unitField u.val, detail := [u.val] }).failFiring u.val S_FIRE_OVERRUN
    | none => s)

end Sys2Proof.Machine
end

