-- ==== Sys2Proof/Machine/Horizon.lean ====
section
/-! DEFINITION. Clean tokens, retracts and re-add checks as commands (R419 to R430, R445, R448). -/

namespace Sys2Proof.Machine

/-- CLEAN_SEND (R423, R424): a new step has become allowed. -/
def execCleanSend (j : Fin 256) (s : State) : Res :=
  let x := s.job j.val
  .next (
    match x.allowedNow with
    | some u =>
      if x.valid ∧ x.cleanSent ≠ some u then
        let s1 := s.setJob j.val { x with
          allowed := some u, cleanSent := some u
          held := x.held.map (fun h => if h ≤ u then u + 1 else h)
          contribs := x.contribs.filter (fun (c : ContribEnd) => decide (u < c.step)) }
        (s1.sendClean j.val).checkHorizon j.val
      else s
    | none => s)

/-- CLEAN_FRAME (R425): a counted token replaces its seat's held one. -/
def execCleanFrame (p : Fin 12) (s : State) : Res :=
  .next (s.onFrame p.val ftClean (fun t _ f =>
    let w := f.field 8 4
    let seat := w % 65536
    match t.seatFrame f seat with
    | some i =>
      if 0x40000 ≤ w then t.countSat .grn 0x07C
      else
        let x := t.slot i
        let k : Token := ⟨f.field 0 8, decide (w / 0x10000 % 2 = 1), decide (w / 0x20000 % 2 = 1)⟩
        (t.setSlot i { x with tokens := putKey x.tokens seat k }).checkHorizon x.job
    | none => t.countSat .grn 0x07C))

/-- The slot and seat a RETRACT comes from, if it counts (R429). -/
def State.retractSeat (s : State) (f : Frame) : Option (Nat × Nat) :=
  match s.jobOfKey f.jobKey with
  | some j =>
    match s.slotOf j with
    | some i =>
      let x := s.slot i
      let seat := x.seats.findIdx (fun e => decide (e = f.src))
      let id : U32 := BitVec.ofNat 32 (f.field 0 4)
      let fresh := match getKey x.retractIds seat with | some old => aheadOf id old | none => true
      if seat < x.count ∧ fresh = true then some (i, seat) else none
    | none => none
  | none => none

/-- RETRACT_FRAME (R429, R430). -/
def execRetractFrame (p : Fin 12) (s : State) : Res :=
  .next (s.onFrame p.val ftRetract (fun t _ f =>
    match t.retractSeat f with
    | some (i, seat) =>
      let x := t.slot i
      let id := f.field 0 4
      let step := f.field 8 8
      let t1 := (t.setSlot i { x with retractIds := putKey x.retractIds seat (BitVec.ofNat 32 id) }).raise .grn 1
      (t1.retractEffects x.job step).recordEach (t1.retractHits x.job step)
        { kind := 0x09, job := x.job, step := step, detail := [id, f.field 0x10 2, f.field 0x14 4, f.field 0x18 4, seat] }
    | none => t.countSat .grn 0x07C))

/-- A re-add check that has failed (R421): retract, the Consort engine's pass due, and its firing and stream ended without repetition. -/
def State.readdMiss (s : State) (r : Readd) : State :=
  let u := 816 + r.base
  let s1 := ((s.sendRetract r.job r.stream r.group r.block r.count).raise (cnsPage r.base) 2).noteCollFail r.base r.group r.stream S_RETRACTED
  let s2 := s1.dueNow u
  if s2.runs u r.stream then s2.failFiring u S_RETRACTED else s2.failStream r.stream S_RETRACTED (unitField u)

/-- A block whose check has agreed leaves, or waits until its collective may send again (R343, R385, R420). -/
def State.sendHeld (s : State) (r : Readd) (f : Frame) : State :=
  match s.collOf f with
  | some c =>
    if s.pwr.st = .run ∧ (s.stream r.stream).st = .running ∧ s.quorumLost c.job = false then s.sendOwn f
    else s.setColl { c with again := c.again ++ [(f, false)] }
  | none => s

/-- READD_CHECK_DECIDED (R419 to R421, R448): the oldest undecided check of the block; an armed READD_ONE makes it report a mismatch. In the UPDATE phase the block's frames leave only now (R420). -/
def execReaddCheckDecided (b : Fin 3) (block : Nat) (agree : Bool) (s : State) : Res :=
  .next (
    match s.readds.find? (fun (r : Readd) => decide (r.base = b.val) && decide (r.block = block)) with
    | none => s
    | some r =>
      let inj := s.armed .grn 0
      let s1 : State := { s with readds := s.readds.filter (fun (x : Readd) => !decide (x.id = r.id)) }
      if agree && !inj then (s1.clearCheck r.base r.id r.job).forEach r.held (fun t f => t.sendHeld r f)
      else (s1.disarm .grn 0).readdMiss r)

/-- INJECT_READD_ONE (R448). -/
def execInjectReaddOne (s : State) : Res := .next (if s.hostReach then s.arm .grn 0 else s)

/-- CLEAR_RETRACTED (R445): refused while a stream of the job is BINDING, RUNNING, DRAINING or FROZEN. -/
def execClearRetracted (s : State) : Res :=
  let j := s.field .grn 0x050 0 8
  .next (
    if s.hostReach then
      if (s.streamsOf j).any (fun n => (s.stream n).active) then s.raise .grn 2
      else s.updJob j (fun x => { x with retracted := [] })
    else s)

end Sys2Proof.Machine
end

