-- ==== Sys2Proof/Machine/Consort.lean ====
section
/-! DEFINITION. The Consort engines (R360 to R367, R374, R402, R419 to R421): what a collective sends and expects, its rendezvous and its data, the tree of R362, the firings of a COLLECTIVE node, and the commands FIRING_START and FIRING_COMPLETE with them. -/

namespace Sys2Proof.Machine

/-! ### Element space and layouts (R360, R363) -/

/-- Runs of row-major element numbers of a slab along an axis. -/
def slabElems (exts : List Nat) (axis start ext : Nat) : List (Nat × Nat) :=
  let p := prodL (exts.drop (axis + 1))
  (List.range (prodL (exts.take axis))).map (fun i => ((i * exts.getD axis 1 + start) * p, ext * p))

/-- A tensor's shards, each with its start along the axis. -/
def shardStarts : List Shard → Nat → List (Shard × Nat)
  | [], _ => []
  | x :: l, k => (x, k) :: shardStarts l (k + x.extent)

/-- Bytes that travel and where they lie: (offset in the element space, length, device address). -/
abbrev Layout := List (Nat × Nat × Nat)

/-- A dense tensor as it travels: its rows' packed bytes one after the other. -/
def wholeLayout (v : TView) : Layout :=
  let n := packedRow v.d (inner v.exts)
  (List.range (rowCount v.exts)).map (fun r => (r * n, n, v.addr + r * rowPitch v.d (inner v.exts)))

/-- A shard of a tensor of extents `full`, at its offsets in the whole tensor. -/
def slabLayout (full : List Nat) (axis start : Nat) (v : TView) : Layout :=
  let nf := inner full
  let pf := packedRow v.d nf
  let pitch := rowPitch v.d (inner v.exts)
  let bits := elemBits v.d
  if axis + 1 < full.length then
    (List.range (rowCount v.exts)).map (fun r =>
      let ix := unflattenIdx v.exts.dropLast r
      (flattenIdx full.dropLast (ix.set axis (ix.getD axis 0 + start)) * pf, pf, v.addr + r * pitch))
  else
    let e := inner v.exts
    (List.range (rowCount v.exts)).flatMap (fun r =>
      (r * pf + start * bits / 8, e * bits / 8, v.addr + r * pitch)
        :: (if isMX v.d then [(r * pf + nf * bits / 8 + start / 32, e / 32, v.addr + r * pitch + e * bits / 8)] else []))

/-- Where an offset of the element space lies in a dense tensor. -/
def TView.packedAt (v : TView) (o : Nat) : Nat :=
  let n := packedRow v.d (inner v.exts)
  if n = 0 then v.addr else v.addr + o / n * rowPitch v.d (inner v.exts) + o % n

/-- Runs of bytes in rising order, adjoining ones joined. -/
def joinRuns (l : List (Nat × Nat)) : List (Nat × Nat) :=
  ((sortBy (fun a b => decide (a.1 ≤ b.1)) (l.filter (fun q => decide (q.2 ≠ 0)))).foldr (fun a acc =>
    match acc with
    | b :: r => if a.1 + a.2 = b.1 then (a.1, a.2 + b.2) :: r else a :: b :: r
    | [] => [a]) [])

/-- The blocks a part travels in: at most 2,048 bytes each (R363). -/
def cutRuns (l : List (Nat × Nat)) : List (Nat × Nat) :=
  (joinRuns l).flatMap (fun q => (List.range ((q.2 + 2047) / 2048)).map (fun i => (q.1 + 2048 * i, min 2048 (q.2 - 2048 * i))))

/-! ### One COLLECTIVE node at one member -/

/-- What a COLLECTIVE node is, seen from this member. -/
structure CollNode where
  sub : Nat
  red : Nat
  peer : Nat
  self : Nat
  count : Nat
  x : Option Tensor
  y : Option Tensor
  xv : TView
  yv : TView
  /-- LOCAL shards with elements: view, owner's rank, start. -/
  xs : List (TView × Nat × Nat)
  ys : List (TView × Nat × Nat)
  xShards : List (Shard × Nat)
  yShards : List (Shard × Nat)
  deriving DecidableEq, Repr

def State.localViews (s : State) (j : Nat) (t : Option Tensor) (l : List (Shard × Nat)) : List (TView × Nat × Nat) :=
  match t with
  | some y => (l.filter (fun q => q.1.isLocal && decide (q.1.extent ≠ 0))).map (fun q => (⟨y.dtype, y.shardExts q.1, s.locAddr j q.1.loc⟩, q.1.rank, q.2))
  | none => []

def State.collNode (s : State) (j : Nat) (b : Bound) (i : Nat) (n : GNode) (self count : Nat) : CollNode :=
  let t (k : Option Nat) : Option Tensor := k.bind (fun m => b.prog.tensors[m]?)
  let v (k : Option Nat) : TView := match k with | some m => s.tview j b m | none => dummyView
  let sh (x : Option Tensor) : List (Shard × Nat) := match x with | some y => shardStarts (b.prog.shardsOf y) 0 | none => []
  let xi := b.prog.inPort i 0
  let yi := b.prog.outPort i 0
  { sub := n.sub, red := n.attrByte 2, peer := n.attrLe 4 4, self := self, count := count, x := t xi, y := t yi, xv := v xi, yv := v yi
    xs := s.localViews j (t xi) (sh (t xi)), ys := s.localViews j (t yi) (sh (t yi)), xShards := sh (t xi), yShards := sh (t yi) }

def CollNode.reducing (c : CollNode) : Bool := decide (c.sub ≤ 1)

def CollNode.dtype (c : CollNode) : Nat := match c.x, c.y with | some t, _ => t.dtype | none, some t => t.dtype | none, none => 0

def CollNode.exts (c : CollNode) : List Nat := match c.x with | some t => t.exts | none => []

/-- Whether the data of a reduction travels as FP32 (R363). -/
def CollNode.wide (c : CollNode) : Bool := isFloatD c.dtype && decide (c.red = 0)

/-- Bytes of an element of a reduction as it travels (R363). -/
def CollNode.width (c : CollNode) : Nat := if c.wide then 4 else elemBits c.dtype / 8

/-- Elements that a rank receives the reduction of. -/
def CollNode.elemsOf (c : CollNode) (q : Nat) : List (Nat × Nat) :=
  if c.sub = 0 then [(0, prodL c.exts)]
  else match c.y with
    | some t => (c.yShards.filter (fun x => decide (x.1.rank = q))).flatMap (fun x => slabElems t.exts t.shardAxis x.2 x.1.extent)
    | none => []

/-- What this member sends to rank `q` in a collective that moves bytes. -/
def CollNode.sends (c : CollNode) (q : Nat) : Layout :=
  match c.sub, c.x with
  | 2, some t => c.xs.flatMap (fun x => slabLayout t.exts t.shardAxis x.2.2 x.1)
  | 3, some _ => if c.self = c.peer then wholeLayout c.xv else []
  | 4, some _ => (c.xs.filter (fun x => decide (x.2.1 = q))).flatMap (fun x => wholeLayout x.1)
  | 5, some _ => if q = c.peer ∧ q ≠ c.self then wholeLayout c.xv else []
  | _, _ => []

/-- Where what rank `q` sends goes. -/
def CollNode.takes (c : CollNode) (q : Nat) : Layout :=
  match c.sub, c.y with
  | 2, some _ =>
    (match c.x with
    | some t => (c.xShards.filter (fun x => decide (x.1.rank = q) && decide (x.1.extent ≠ 0))).flatMap (fun x =>
        (slabLayout t.exts t.shardAxis x.2 ⟨t.dtype, t.shardExts x.1, 0⟩).map (fun p => (p.1, p.2.1, c.yv.packedAt p.1)))
    | none => [])
  | 3, some _ => if q = c.peer then wholeLayout c.yv else []
  | 4, some _ => (c.ys.filter (fun x => decide (x.2.1 = q))).flatMap (fun x => wholeLayout x.1)
  | 6, some _ => if q = c.peer then wholeLayout c.yv else []
  | _, _ => []

def spansOf (l : Layout) : List (Nat × Nat) := l.map (fun p => (p.1, p.2.1))

def scaleRuns (w : Nat) (l : List (Nat × Nat)) : List (Nat × Nat) := l.map (fun p => (p.1 * w, p.2 * w))

/-- Blocks due to rank `q`, and expected from it. -/
def CollNode.due (c : CollNode) (q : Nat) : List (Nat × Nat) :=
  cutRuns (if c.reducing then scaleRuns c.width (c.elemsOf q) else spansOf (c.sends q))

def CollNode.expects (c : CollNode) (q : Nat) : List (Nat × Nat) :=
  cutRuns (if c.reducing then scaleRuns c.width (c.elemsOf c.self) else spansOf (c.takes q))

def bytesOf (l : List (Nat × Nat)) : Nat := (l.map (·.2)).sum

/-- SHAPE for a pair that moves `bytes` (R365). -/
def CollNode.shape (c : CollNode) (bytes : Nat) : U32 :=
  let words (l : List Nat) : List U8 := l.flatMap (leBytes 4)
  let ex (t : Option Tensor) : List Nat := match t with | some y => y.exts | none => []
  if 4 ≤ c.sub then crc32c (leBytes 1 (if c.sub = 6 then 5 else c.sub) ++ leBytes 1 c.dtype ++ leBytes 8 bytes)
  else crc32c (leBytes 1 c.sub ++ leBytes 1 c.red ++ leBytes 1 c.dtype ++ words (ex c.x) ++ words (ex c.y)
    ++ words ((c.xShards ++ c.yShards).map (fun x => x.1.extent)))

/-- This member's bytes of a block of a reduction, as they travel. -/
def CollNode.redBytes (c : CollNode) (rd : Nat → U8) (off len : Nat) : List U8 :=
  let w := max 1 c.width
  (List.range (len / w)).flatMap (fun i =>
    let e := off / w + i
    let n := inner c.xv.exts
    if c.wide then leBytes 4 (fmtF32.encode (c.xv.get rd e).toFl).1
    else leBytes w (if n = 0 then 0 else c.xv.code rd (e / n) (e % n)))

/-- Blocks cut from the bytes of a layout. -/
def layoutBlocks (rd : Nat → U8) (l : Layout) (cuts : List (Nat × Nat)) : List (Nat × List U8) :=
  let sorted := sortBy (fun a b => decide (a.1 ≤ b.1)) (l.filter (fun p => decide (p.2.1 ≠ 0)))
  let bytes := sorted.flatMap (fun p => (List.range p.2.1).map (fun i => rd (p.2.2 + i)))
  (cuts.foldl (fun (a : List (Nat × List U8) × List U8) q => (a.1 ++ [(q.1, a.2.take q.2)], a.2.drop q.2)) ([], bytes)).1

/-- This member's blocks for rank `q`. -/
def CollNode.blocksFor (c : CollNode) (rd : Nat → U8) (q : Nat) : List (Nat × List U8) :=
  if c.reducing then (c.due q).map (fun p => (p.1, c.redBytes rd p.1 p.2)) else layoutBlocks rd (c.sends q) (c.due q)

/-! ### The tree of R362 -/

/-- One step of the tree on two values. -/
def collOp (red : Nat) (int : Bool) (a b : Val) : Val × Flags :=
  if int then
    (if red = 0 then (let r := accInt false (a.toInt, 0) b.toInt; (.int r.1, r.2))
     else (.int (if red = 1 then max a.toInt b.toInt else min a.toInt b.toInt), 0))
  else if red = 0 then (let r := add32 a.toFl b.toFl; (.fl r.1, r.2))
  else (.fl (if red = 1 then flMax a.toFl b.toFl else flMin a.toFl b.toFl), 0)

def collLevel (red : Nat) (int : Bool) : List Val → List (Val × Flags)
  | [] => []
  | [a] => [(a, 0)]
  | a :: b :: l => collOp red int a b :: collLevel red int l

/-- R362, one level after the other. -/
def collTree (red : Nat) (int : Bool) : Nat → List Val → Val × Flags
  | 0, l => (l.headD (.int 0), 0)
  | k + 1, l =>
    if l.length ≤ 1 then (l.headD (.int 0), 0)
    else
      let q := collLevel red int l
      let r := collTree red int k (q.map (·.1))
      (r.1, flags q ||| r.2)

/-- A little-endian value at an offset of a rank's blocks. -/
def partAt (l : List (Nat × List U8)) (off k : Nat) : Nat :=
  match l.find? (fun b => decide (b.1 ≤ off) && decide (off < b.1 + b.2.length)) with
  | some b => leNat ((b.2.drop (off - b.1)).take k)
  | none => 0

/-- One reduced element. -/
def CollNode.reduce (c : CollNode) (parts : List (List (Nat × List U8))) (e : Nat) : Val × Flags :=
  let w := c.width
  let int := isIntD c.dtype
  let vals : List Val := parts.map (fun l =>
    let raw := partAt l (e * w) w
    if c.wide then .fl (fmtF32.decode raw) else if int then elemVal c.dtype raw 0 else .fl (elemVal c.dtype raw 0).toFl)
  collTree c.red int vals.length vals

/-- The element of the element space that a place in a part of Y holds (R360, R363). -/
def CollNode.elemAt (c : CollNode) (v : TView) (r col : Nat) : Nat :=
  let start := match c.ys.find? (fun x => decide (x.1.addr = v.addr)) with | some x => x.2.2 | none => 0
  let axis := match c.y with | some t => t.shardAxis | none => 0
  let ix := unflattenIdx v.exts.dropLast r ++ [col]
  flattenIdx c.exts (if c.sub = 1 then ix.set axis (ix.getD axis 0 + start) else ix)

/-- The rows of a part of Y under a reduction. Of the flags of its additions a member posts those of `mine`, the additions that fell to it (R367). -/
def CollNode.redRow (c : CollNode) (parts : List (List (Nat × List U8))) (mine : Flags) (v : TView) : RowF := fun r =>
  (List.range (inner v.exts)).map (fun col => let q := c.reduce parts (c.elemAt v r col); (q.1, q.2 &&& mine))

/-- The bytes of `[lo, hi)` of device memory among what a layout receives. -/
def takeWrites (l : Layout) (blocks : List (Nat × List U8)) (lo hi : Nat) : List (Nat × List U8) :=
  l.filterMap (fun p =>
    let a := max lo p.2.2
    let b := min hi (p.2.2 + p.2.1)
    if a < b then some (a, (List.range (b - a)).map (fun i => BitVec.ofNat 8 (partAt blocks (p.1 + (a - p.2.2) + i) 1))) else none)

/-- The writes of a firing of the node over pieces of Y. -/
def CollNode.results (c : CollNode) (parts : List (List (Nat × List U8))) (mine : Flags) (l : List Piece) : List (Nat × List U8) × Flags :=
  if c.reducing then
    (l.map (fun q => rangeWrites q.view false (c.redRow parts mine q.view) q.lo q.hi)).foldl (fun a w => (a.1 ++ w.1, a.2 ||| w.2)) ([], 0)
  else
    (l.flatMap (fun q => (parts.zip (List.range parts.length)).flatMap (fun p => takeWrites (c.takes p.2) p.1 (q.view.addr + q.lo) (q.view.addr + q.hi))), 0)

/-! ### The exchange (R364 to R366) -/

def State.findColl (s : State) (n slot : Nat) : Option Coll := s.colls.find? (fun (c : Coll) => decide (c.stream = n) && decide (c.slot = slot))

/-- The node a collective belongs to. -/
def State.collNodeOf (s : State) (c : Coll) : Option CollNode :=
  match (s.stream c.stream).bound with
  | some b => (b.prog.nodes[c.node]?).map (fun n => s.collNode c.job b c.node n c.selfRank c.count)
  | none => none

/-- Whether a collective may send: in Run, for a RUNNING stream, with quorum (R34, R62, R385, R386). -/
def State.collSends (s : State) (c : Coll) : Bool := decide (s.pwr.st = .run) && decide ((s.stream c.stream).st = .running) && !s.quorumLost c.job

/-- A frame of a collective for a rank (R331, R336). -/
def State.collFrame (s : State) (c : Coll) (type q : Nat) (payload : List U8) : Frame :=
  { frameOf type (if (s.job c.job).descant then 3 else 1) (c.members.getD q 0) s.selfId (s.jobKey c.job) payload with
    cseq := c.cseq, group := c.group, srcRank := c.selfRank, phase := (s.job c.job).phase }

/-- COLL_READY to a rank: what is granted to it, SHAPE and BYTES (R364). -/
def State.sendReady (s : State) (c : Coll) (q : Nat) : State :=
  s.sendOwn (s.collFrame c ftCollReady q
    (leBytes 4 (c.gave.getD q 0) ++ leBytes 4 (c.shapeIn.getD q 0).toNat ++ leBytes 8 (bytesOf (c.expect.getD q []))))

/-- Ranks that a member receives from. -/
def Coll.sources (c : Coll) : List Nat := (List.range c.count).filter (fun q => decide (q ≠ c.selfRank) && decide ((c.expect.getD q []) ≠ []))

def State.sendReadys (s : State) (c : Coll) : State :=
  if s.collSends c then s.forEach c.sources (fun t q => if (t.findColl c.stream c.slot).isSome then t.sendReady c q else t) else s

/-- Whether a block of a reduction is converted before it leaves, so that the check adder forms it again (R419). -/
def CollNode.converts (c : CollNode) : Bool := c.reducing && c.wide && decide (c.dtype ≠ dF32)

/-- A re-add check noted for blocks that the engine's firing forms (R419): a contribution end that came while the firing ran waits for it too (R423). -/
def State.noteReadd (s : State) (c : Coll) (first count : Nat) (result : Bool) : State :=
  let u := 816 + c.base
  let s1 := s.updJob c.job (fun x => { x with
    contribs := x.contribs.map (fun (k : ContribEnd) => if k.firings.contains u then { k with checks := k.checks ++ [(c.base, s.nextReq)] } else k) })
  { s1 with
    nextReq := s.nextReq + 1
    readds := s1.readds ++ [{ id := s.nextReq, base := c.base, block := first, count := count, result := result, stream := c.stream, job := c.job, group := c.group, held := [] }] }

/-- An undecided check of a block that a collective sends. -/
def Coll.checks (c : Coll) (off : Nat) (r : Readd) : Bool :=
  !r.result && decide (r.stream = c.stream) && decide (r.base = c.base) && decide (r.group = c.group) && decide (r.block = off / 2048)

/-- One COLL_DATA block to a rank: the next one in order, from the first again where more are granted than the part has (R364, R402, R409). In the UPDATE phase one whose check is undecided waits for it (R420). -/
def State.sendBlock (s : State) (c : Coll) (q : Nat) : State :=
  let blocks := c.out.getD q []
  match blocks[c.sent.getD q 0 % blocks.length]? with
  | some b =>
    let f : Frame := { s.collFrame c ftCollData q b.2 with grain := crc32c b.2, offset := b.1 }
    if (s.job c.job).phase = 2 ∧ s.readds.any (c.checks b.1) = true then
      { s with readds := s.readds.map (fun (r : Readd) => if c.checks b.1 r then { r with held := r.held ++ [f] } else r) }
    else s.sendOwn f
  | none => s

/-- Blocks sent to a rank within its grants (R364). -/
def State.pumpOne (s : State) (n slot q : Nat) : State :=
  match s.findColl n slot with
  | some c =>
    if c.loaded ∧ s.collSends c = true ∧ (c.out.getD q []) ≠ [] ∧ q ≠ c.selfRank ∧ c.sent.getD q 0 < c.granted.getD q 0 then
      (s.setColl { c with sent := c.sent.set q (c.sent.getD q 0 + 1) }).sendBlock c q
    else s
  | none => s

/-- Up to 64 blocks to every rank. -/
def State.pump (s : State) (n slot count : Nat) : State :=
  s.forEach (List.range count) (fun t q => t.forEach (List.range 64) (fun t' _ => t'.pumpOne n slot q))

/-- A collective fails (R365, R366, R374): at this member. -/
def State.failColl (s : State) (c : Coll) (code : U16) : State :=
  let u := 816 + c.base
  let s1 := s.noteCollFail c.base c.group c.stream code
  if s1.runs u c.stream then s1.failFiring u code else s1.failStream c.stream code (unitField u)

/-- The COLL_READY that tells a peer of a mismatch: it grants nothing and shows what this member would send it, which differs from what the peer expects (R365). DESIGN CHOICE (log entry 36): R365 ends the collective at both sides and names no frame that says so. -/
def State.refuseReady (s : State) (c : Coll) (q : Nat) : State :=
  if s.collSends c then
    s.send (s.collFrame c ftCollReady q (leBytes 4 0 ++ leBytes 4 (c.shapeOut.getD q 0).toNat ++ leBytes 8 (bytesOf (c.due.getD q []))))
  else s

/-- What a COLL_READY grants (R364, R365): one that differs ends the collective here, and at its sender, which is told unless it was telling itself. -/
def State.takeReady (s : State) (c : Coll) (r : HeldReady) : State :=
  if r.phase ≠ c.phase ∨ r.shape ≠ c.shapeOut.getD r.rank 0 ∨ r.bytes ≠ bytesOf (c.due.getD r.rank []) then
    (if r.grant = 0 then s else s.refuseReady c r.rank).failColl c S_COLL_SHAPE
  else (s.setColl { c with granted := c.granted.set r.rank (max (c.granted.getD r.rank 0) r.grant) }).pump c.stream c.slot c.count

/-- CSEQ `a` ahead of `b` (R364). -/
def ahead24 (a b : Nat) : Bool := let d := (a + 2 ^ 24 - b % 2 ^ 24) % 2 ^ 24; decide (1 ≤ d) && decide (d < 2 ^ 23)

/-- The job's CSEQ of a group (R364). -/
def Job.cseqOf (x : Job) (g : Nat) : Nat := (getKey x.cseq g).getD 0

def HeldReady.same (a b : HeldReady) : Bool := decide (a.job = b.job) && decide (a.group = b.group) && decide (a.rank = b.rank)

/-- A frame of a collective that has ended, or a COLL_READY beyond holding, counted on the page of the group's engine, or else of the arrival port's base die (R364, R374). -/
def State.countStale (s : State) (j g p : Nat) : State :=
  s.countSat (cnsPage (match s.colls.find? (fun (c : Coll) => decide (c.job = j) && decide (c.group = g)) with | some c => c.base | none => if p < 12 then p / 4 else 1)) 0x058

/-- A COLL_READY held for a collective to come, up to 4 per peer and group; a repeat replaces the one it repeats (R364). DESIGN CHOICE (log entry 36): one for the CSEQ about to start counts among the 4. -/
def State.holdReady (s : State) (p : Nat) (r : HeldReady) : State :=
  let mine := s.readys.filter (fun x => x.same r)
  if mine.any (fun x => decide (x.cseq = r.cseq)) then
    { s with readys := s.readys.map (fun x => if x.same r && decide (x.cseq = r.cseq) then { r with grant := max x.grant r.grant } else x) }
  else if 4 ≤ mine.length then s.countStale r.job r.group p
  else { s with readys := s.readys ++ [r] }

/-- COLL_READY_FRAME (R349, R364, R365). DESIGN CHOICE (log entry 36): one from a rank outside the group is ignored. -/
def execCollReadyFrame (p : Fin 12) (s : State) : Res :=
  .next (s.onJobFrame p.val ftCollReady (fun t q f j =>
    let r : HeldReady := ⟨j, f.group, f.cseq, f.srcRank, f.phase, f.field 0 4, BitVec.ofNat 32 (f.field 4 4), f.field 8 8⟩
    let cur := (t.job j).cseqOf f.group
    match t.colls.find? (fun (c : Coll) => decide (c.job = j) && decide (c.group = f.group) && decide (c.cseq = f.cseq)) with
    | some c => if f.srcRank < c.count ∧ f.srcRank ≠ c.selfRank then t.takeReady c r else t
    | none => if f.cseq = cur ∨ ahead24 f.cseq cur = true then t.holdReady q r else t.countStale j f.group q))

/-- More blocks granted to a sender as staging space frees (R364): at most 64 outstanding. -/
def Coll.regrant (c : Coll) (q : Nat) : Coll :=
  let gave := c.gave.getD q 0
  let got := c.got.getD q 0
  if gave < c.need.getD q 0 ∧ gave ≤ got + 32 then { c with gave := c.gave.set q (min (c.need.getD q 0) (got + 64)) } else c

/-- A collective after a block from rank `q`, with a COLL_READY where it grants more. -/
def State.afterBlock (s : State) (c : Coll) (q : Nat) : State :=
  let c1 := c.regrant q
  let s1 := s.setColl c1
  if c1.gave = c.gave then s1 else if s1.collSends c1 then s1.sendReady c1 q else s1

/-- Whether the engine runs a firing of a collective's node. -/
def State.collRuns (s : State) (c : Coll) : Bool :=
  match (s.engine (816 + c.base)).cur with | some r => decide (r.stream = c.stream) && decide (r.slot = c.slot) | none => false

/-- A block that has failed asked for again by a fresh grant (R402): the sender goes through its blocks in order, so the grant covers the next time the block comes round. -/
def Coll.again1 (c : Coll) (q off : Nat) (own : Bool) : Coll :=
  let n := (c.expect.getD q []).length
  let got := c.got.getD q 0
  { c with
    got := c.got.set q (got + 1), need := c.need.set q (max (c.need.getD q 0) (got + n + 1))
    bad := if own then c.bad.set q (off :: c.bad.getD q []) else c.bad }

/-- A COLL_DATA block whose GRAIN fails (R366, R402, R405, R410). Where the engine runs the node's firing, that firing ends with a detected fault and its repetition, with a fresh grant, asks for the block again; between the node's firings the block is asked for by itself, and its second failure fails the stream. -/
def State.badBlock (s : State) (c : Coll) (q : Nat) (f : Frame) : State :=
  let pg := cnsPage c.base
  let u := 816 + c.base
  let s1 := (((s.countPair pg 0x04C 1).countSat pg 0x054).raise pg 0).recordStream c.stream
    { kind := 0x04, code := S_GRAIN, unit := unitField u, detail := [f.grain.toNat, (crc32c f.payload).toNat] }
  if s.collRuns c then (s1.afterBlock (c.again1 q f.offset false) q).detectedFault u S_GRAIN
  else if (c.bad.getD q []).contains f.offset then
    let s2 := s1.recordStream c.stream { kind := 0x02, code := S_GRAIN, unit := unitField u, detail := [u] }
    s2.failColl c S_GRAIN
  else (s1.countSat .grn 0x074).afterBlock (c.again1 q f.offset true) q

/-- A COLL_DATA block taken in (R366, R404). -/
def State.goodBlock (s : State) (c : Coll) (q : Nat) (f : Frame) : State :=
  let pg := cnsPage c.base
  let s1 := s.countPair pg 0x04C 1
  let old := c.parts.getD q []
  let was := (c.bad.getD q []).contains f.offset
  let c1 : Coll := { c with
    got := c.got.set q (c.got.getD q 0 + 1), bad := c.bad.set q ((c.bad.getD q []).filter (fun o => !decide (o = f.offset)))
    parts := c.parts.set q (if old.any (fun b => decide (b.1 = f.offset)) then old else old ++ [(f.offset, f.payload)]) }
  (if was then s1.noteTransient (816 + c.base) c.stream S_GRAIN else s1).afterBlock c1 q

/-- COLL_DATA_FRAME (R349, R364, R366, R409): a block that is none of those expected is dropped. -/
def execCollDataFrame (p : Fin 12) (s : State) : Res :=
  .next (s.onJobFrame p.val ftCollData (fun t from' f j =>
    match t.colls.find? (fun (c : Coll) => decide (c.job = j) && decide (c.group = f.group) && decide (c.cseq = f.cseq)) with
    | some c =>
      let q := f.srcRank
      if q ≠ c.selfRank ∧ (c.expect.getD q []).contains (f.offset, f.payload.length) = true then
        (if f.grain = crc32c f.payload then t.goodBlock c q f else t.badBlock c q f)
      else t
    | none =>
      let cur := (t.job j).cseqOf f.group
      if f.cseq = cur ∨ ahead24 f.cseq cur = true then t else t.countStale j f.group from'))

/-- A dropped frame sent again: a fault that this clears is counted (R404), and a second drop fails the stream (R343, R402, R405). -/
def State.sendAgain (s : State) (c : Coll) (f : Frame) (fault : Bool) : State :=
  let u := 816 + c.base
  let r := (if fault then s.countSat .grn 0x074 else s).sendFrame f
  if r.2 then (if fault then r.1.noteTransient u c.stream S_FAB_UNREACHABLE else r.1)
  else if fault then
    (r.1.recordStream c.stream { kind := 0x02, code := S_FAB_UNREACHABLE, unit := unitField u, detail := [u] }).failColl c S_FAB_UNREACHABLE
  else r.1.collLost c f

/-- The frames of a collective that are due to be sent again, as far as it may send. -/
def State.resend (s : State) (n slot : Nat) : State :=
  match s.findColl n slot with
  | some c =>
    if s.collSends c then
      (s.setColl { c with again := [] }).forEach c.again (fun t q => match t.findColl n slot with | some d => t.sendAgain d q.1 q.2 | none => t)
    else s
  | none => s

/-- COLL_READY_REPEAT (R343, R364): the collectives of an engine send again what was dropped; those that still wait for data ask again, and send what they may. -/
def execCollReadyRepeat (b : Fin 3) (s : State) : Res :=
  .next (s.forEach (s.colls.filter (fun (c : Coll) => decide (c.base = b.val))) (fun t c =>
    let t := t.resend c.stream c.slot
    match t.findColl c.stream c.slot with
    | some d => ((if d.full then t else t.sendReadys d)).pump d.stream d.slot d.count
    | none => t))

/-- COLLECTIVE_TIMEOUT (R366): with a timeout set, a stream's collective that waits and has received nothing for it. -/
def execCollectiveTimeout (b : Fin 3) (n : Fin 16384) (s : State) : Res :=
  .next (
    match s.colls.find? (fun (c : Coll) => decide (c.base = b.val) && decide (c.stream = n.val) && !c.full) with
    | some c => if s.field (cnsPage b.val) 0x048 0 16 = 0 then s else s.failColl c S_COLL_TIMEOUT
    | none => s)

/-! ### Firings of a COLLECTIVE node -/

/-- The collective as it begins (R360, R364). -/
def CollNode.begin (k : CollNode) (base stream slot node job group cseq phase : Nat) (members : List Nat) : Coll :=
  let ranks := List.range k.count
  let zeros := ranks.map (fun _ => 0)
  let expect := ranks.map k.expects
  let due := ranks.map (fun q => if q = k.self then [] else k.due q)
  let first := expect.map (fun l => min 64 l.length)
  { base := base, stream := stream, slot := slot, node := node, job := job, group := group, cseq := cseq, phase := phase, selfRank := k.self
    count := k.count, members := members, loaded := false, expect := expect, due := due, shapeIn := expect.map (fun l => k.shape (bytesOf l))
    shapeOut := due.map (fun l => k.shape (bytesOf l)), out := ranks.map (fun _ => []), granted := zeros, sent := zeros
    gave := first, got := zeros, need := expect.map List.length, parts := ranks.map (fun _ => []), bad := ranks.map (fun _ => []), again := [] }

/-- The 2 KiB blocks of the element space that a piece of Y lies in, as the first and how many (R428). -/
def CollNode.spaceOf (c : CollNode) (q : Piece) : Option (Nat × Nat) :=
  let r := q.view.rowsIn q.lo q.hi
  let a := q.view.colsIn r.1 q.lo q.hi
  let z := q.view.colsIn (r.2 - 1) q.lo q.hi
  if r.2 ≤ r.1 ∨ (a.2 ≤ a.1 ∧ r.1 + 1 = r.2) then none
  else
    let first := c.elemAt q.view r.1 (min a.1 (inner q.view.exts - 1)) * c.width / 2048
    some (first, (c.elemAt q.view (r.2 - 1) (z.2 - 1) * c.width + c.width - 1) / 2048 + 1 - first)

/-- The blocks that a firing writes of a reducing collective go to the check adder as its engine forms them (R419); a repeated firing notes none that is still undecided. -/
def State.collChecks (s : State) (c : Coll) (b : Bound) (y : BNode) : State :=
  match s.collNodeOf c with
  | some k =>
    let runs := if c.loaded && k.reducing then (y.firings[y.next]?).getD [] else []
    let blocks := runs.flatMap (fun q => (List.range q.count).flatMap (fun i => s.writesOf c.job b [⟨q.tensor, q.first + i, 1⟩]))
    s.forEach (blocks.filterMap k.spaceOf) (fun t o =>
      if t.readds.any (fun r => r.result && decide (r.stream = c.stream) && decide (r.base = c.base) && decide (r.group = c.group) && decide ((r.block, r.count) = o)) then t
      else t.noteReadd c o.1 o.2 true)
  | none => s

/-- The blocks that the intake has converted go to the check adder (R419): each offset once, to however many ranks it goes. -/
def State.intakeChecks (s : State) (c : Coll) (k : CollNode) : State :=
  if k.converts then s.forEach ((c.out.flatMap (fun l => l.map (·.1))).dedup) (fun t o => t.noteReadd c (o / 2048) 1 false) else s

/-- Whether blocks of a collective wait for the check adder: its firing cannot end before they are decided, since a mismatch ends that firing with a detected fault (R419, R421). -/
def State.checking (s : State) (c : Coll) : Bool :=
  s.readds.any (fun r => decide (r.stream = c.stream) && decide (r.base = c.base) && decide (r.group = c.group))

/-- A COLLECTIVE node's firing starts. Its first is the intake, with which the rendezvous begins, with what has been held for it (R364). -/
def State.collStart (s : State) (u : Nat) : State :=
  match s.firingOf u with
  | none => s
  | some (r, b, y) =>
    match b.prog.nodes[y.node]? with
    | none => s
    | some n =>
      if n.op ≠ opCollective then s
      else match s.findColl r.stream r.slot with
      | some c => (s.collChecks c b y).resend r.stream r.slot
      | none =>
        let x := s.stream r.stream
        let j := x.job
        match s.collGroup j b.prog x.phase0 y.node with
        | none => s.failFiring u S_FAB_UNREACHABLE
        | some e =>
          let g := n.attrLe 0 2
          let k := s.collNode j b y.node n e.base e.count
          let c := k.begin (u - 816) r.stream r.slot y.node j g ((s.job j).cseqOf g) (b.prog.phaseOf x.phase0 y.node)
            ((List.range e.count).map (s.memberOf j e))
          let mine := s.readys.filter (fun h => decide (h.job = j) && decide (h.group = g) && decide (h.cseq = c.cseq) && decide (h.rank < c.count))
          let s1 : State := { s with colls := s.colls ++ [c], readys := s.readys.filter (fun h => !mine.contains h) }
          if n.sub = 4 ∧ bytesOf (k.due k.self) ≠ bytesOf (k.expects k.self) then s1.failColl c S_COLL_SHAPE
          else (s1.sendReadys c).forEach mine (fun t h => match t.findColl c.stream c.slot with | some d => t.takeReady d h | none => t)

/-- A slot's repetition is over (R404). -/
def Bound.repeated (b : Bound) (slot : Nat) : Bound := b.updSlot slot (fun y => { y with rep := false })

/-- The intake ends: X has been read, and this member's blocks may leave (R364). -/
def State.collIntake (s : State) (u : Nat) (r : Running) (b : Bound) (y : BNode) (c : Coll) (k : CollNode) (obs : FireObs) : State :=
  let reads := match b.prog.inPort y.node 0 with
    | some t => (s.parts c.job b t).map (fun v => (⟨v.addr, rowCount v.exts * rowPitch v.d (inner v.exts),
        (match b.prog.tensors[t]? with | some z => decide (z.kind = 1) | none => false), true⟩ : Acc))
    | none => []
  let g := s.gather u c.job (if k.sub = 3 ∧ k.self ≠ k.peer then [] else reads) []
  if !g.2 then g.1
  else
    let rd := g.1.nodeRd u b y.node
    let out := (List.range c.count).map (k.blocksFor rd)
    let c1 : Coll := { c with loaded := true, out := out, parts := c.parts.set c.selfRank (out.getD c.selfRank []) }
    let s1 := ((g.1.readNotes u obs.mem).setColl c1).intakeChecks c1 k
    if (s1.stream r.stream).over then s1.freeAfterFiring u r.stream
    else
      let s2 := (if r.rep then s1.noteTransient u r.stream y.code else s1).edgeMessages r.stream b y.slot r.took
      let s3 := s2.updRec r.stream (fun x => { x with bound := some ((b.repeated y.slot).settle y.slot r.took), firings := x.firings + 1, stalled := false })
      let s4 := s3.boundary u
      if y.revoked then s4.freeAfterFiring u r.stream else s4.pump c.stream c.slot c.count

/-- The node has ended: its CSEQ advances and the collective leaves the engine (R364). -/
def State.collEnd (s : State) (c : Coll) : State :=
  let s1 : State := { s with colls := s.colls.filter (fun (x : Coll) => !(decide (x.stream = c.stream) && decide (x.slot = c.slot))) }
  s1.updJob c.job (fun x => { x with cseq := putKey x.cseq c.group ((c.cseq + 1) % 2 ^ 24) })

/-- A firing that writes blocks of Y (R362, R366, R367). The additions whose flags this member posts are a free choice: DESIGN CHOICE (log entry 48), R367 divides them among the members and does not say how. -/
def State.collResult (s : State) (u : Nat) (b : Bound) (y : BNode) (c : Coll) (k : CollNode) : State :=
  let runs := (y.firings[y.next]?).getD []
  let out := s.writesOf c.job b runs
  let g := s.gather u c.job [] (out.map (fun q => q.acc b.prog false))
  if !g.2 then g.1
  else
    let w := k.results c.parts ((Config.freeCount g.1.free).truncate 4) out
    let p := g.1.draw.store u c.job w.1 w.2
    if !p.2 then p.1
    else
      let s2 := if y.next + 1 = y.firings.length then p.1.collEnd c else p.1
      s2.finishFiring u runs { flags := w.2, wrote := w.1 }

/-- A Consort firing of a COLLECTIVE node ends. -/
def State.collComplete (s : State) (u : Nat) (obs : FireObs) : State :=
  match s.firingOf u with
  | none => s
  | some (r, b, y) =>
    match s.findColl r.stream r.slot with
    | none => s
    | some c =>
      match s.collNodeOf c with
      | none => s
      | some k =>
        if s.checking c then s
        else if c.loaded then s.collResult u b y c k else s.collIntake u r b y c k obs

/-- FIRING_COMPLETE (R25, R94, R357, R364, R404). -/
def execFiringComplete (u : Fin 822) (obs : FireObs) (s : State) : Res := .next (s.fireComplete u.val obs State.collComplete)

end Sys2Proof.Machine
end

