-- ==== Sys2Proof/Machine/Jobs.lean ====
section
/-! DEFINITION. Job contexts (R66, R71, R72): setting and clearing VALID, the fields written beside it, and what clearing gives back. -/

namespace Sys2Proof.Machine

/-- The job STM_JOB_SEL selects (R71). -/
def State.selJob (s : State) : Nat := s.field .stmJob 0x040 0 8

/-- The fields writable only while VALID is 0; a quota above 32 is stored as 32 (R71). -/
def Job.withCfg (x : Job) (v : U32) : Job :=
  { x with descant := v.toNat.testBit 1, keySlot := fieldOf v 8 8, descSram := min 32 (fieldOf v 16 7) }

/-- Whether another VALID job holds a key slot (R66, R71). -/
def State.keySlotTaken (s : State) (j slot : Nat) : Bool :=
  (List.range 256).any (fun k => decide (k ≠ j) && (s.job k).valid && decide ((s.job k).keySlot = slot))

/-! ### Release of commit records (R287) -/

/-- Device addresses of the commit records a job owns, in any stack's reserved area (R283, R284): CLAIMED is bit 7 of byte 7, so the byte there is listed. -/
def State.recordsOf (s : State) (j : Nat) : List Nat :=
  s.mem.bytes.filterMap (fun (p : Nat × U8) =>
    let o := p.1 % stackSize - (visibleSize + 0x06FC0000)
    if p.1 < hbmEnd ∧ visibleSize + 0x06FC0000 ≤ p.1 % stackSize ∧ o < 0x400000 ∧ o % 64 = 7 then
      match readRecordBytes (s.mem.read (p.1 - 7) 64) with
      | .good r => if r.claimed ∧ r.job = j then some (p.1 - 7) else none
      | _ => none
    else none)

/-- A record released: all its bytes zero (R286, R287). -/
def State.releaseAt (s : State) (a : Nat) : State := s.writeMem a (List.replicate 64 0)

/-! ### Clearing VALID (R72) -/

/-- The job context that a clear leaves: its configuration fields and its RETRACT_ID keep their values. -/
def Job.cleared (x : Job) : Job := { Job.fresh with descant := x.descant, keySlot := x.keySlot, descSram := x.descSram, retractNext := x.retractNext, uniWait := x.uniWait }

/-- Everything a job holds given back (R72). DESIGN CHOICE (log entry 15): a Window Map load in progress for the job goes on, of which R72 says nothing. -/
def State.releaseJob (s : State) (j : Nat) : State :=
  let s1 := (s.stopTwinOf j).forEach (s.recordsOf j) (fun t a => t.releaseAt a)
  let s2 := match s1.slotOf j with | some i => s1.setSlot i (s1.slot i).freed | none => s1
  { s2 with
    jobs := SMap.set jobDefault s2.jobs j (s2.job j).cleared
    wmap := SMap.del s2.wmap j
    regions := s2.regions.filter (fun p => !decide (p.1 / 64 = j))
    ovf := s2.ovf.filter (fun p => !decide (p.1 % 256 = j))
    unison := s2.unison.filter (fun e => !decide (e.job = j))
    readys := s2.readys.filter (fun r => !decide (r.job = j)) }

/-- A write of STM_JOB_CFG (R71). Where VALID is refused because of its key slot, the other fields of the write are stored all the same (DESIGN CHOICE, log entry 5). -/
def State.writeJobCfg (s : State) (v : U32) : State :=
  let j := s.selJob
  let x := s.job j
  if x.valid then
    if v.toNat.testBit 0 then s
    else if (s.streamsOf j).isEmpty then s.releaseJob j else s.raise .stmJob 0
  else
    let s1 := (s.setJob j (x.withCfg v)).checkTwinKey
    if v.toNat.testBit 0 then
      if s1.keySlotTaken j (fieldOf v 8 8) then s1.raise .stmJob 1 else s1.setJob j { x.withCfg v with valid := true }
    else s1

/-- JOB_VALID_SET (R71): a write of STM_JOB_CFG with VALID set. -/
def execJobValidSet (v : U32) (s : State) : Res := .next (if s.hostReach then s.writeJobCfg (v ||| 1) else s)

/-- JOB_VALID_CLEAR (R71, R72): a write of STM_JOB_CFG with VALID clear. -/
def execJobValidClear (v : U32) (s : State) : Res := .next (if s.hostReach then s.writeJobCfg (v &&& ~~~1#32) else s)

/-- JOB_CFG_FIELDS_WRITE (R71): a write of STM_JOB_CFG that leaves VALID as it is; while VALID is 1 the other fields keep their values. -/
def execJobCfgFieldsWrite (v : U32) (s : State) : Res :=
  .next (if s.hostReach then s.writeJobCfg (mergeBits v (if (s.job s.selJob).valid then 1 else 0) 1) else s)

/-- CLEAR_BAR2_DROP (R71). -/
def execClearBar2Drop (s : State) : Res := .next (if s.hostReach then s.setReg .stmJob 0x050 0 else s)

end Sys2Proof.Machine
end

