-- ==== Sys2Proof/Machine/RegisterCmds.lean ====
section
/-! DEFINITION. Register accesses of the host: the latches and held writes of 64-bit pairs (R13, R14, R590), writes to fields with no behaviour of their own (R11, R12, R15), the common header (R584 to R587), the sticky flags (R172), and the plain single-register actions of the binder and the cores. -/

namespace Sys2Proof.Machine

/-- Whether a host write reaches a page (R589). -/
def State.writes (s : State) (pg : Page) : Bool := s.hostReach && s.pageUp pg

/-! ### Pairs (R13, R14, R590) -/

/-- Whether an access of a size, in bytes, at an offset is one the registers answer: 32 bits, naturally aligned (R12). -/
def regAccess (off size : Nat) : Bool := decide (size = 4) && decide (off % 4 = 0)

/-- READ_LO_LATCH (R12, R13, R590): a requester's read of the LO register of a pair; an access of another size or alignment returns 0 and latches nothing. -/
def execReadLoLatch (r : Requester) (pg : Page) (off : BitVec 12) (size : Nat) (s : State) : Res :=
  let a := if regAccess off.toNat size then s.barRead r (pg.base + off.toNat) else (s, 0)
  .next (a.1.emit (.regRead r (pg.base + off.toNat) a.2))

/-- Whether a register has bits a write can set. -/
def Page.writable (pg : Page) (off : Nat) : Bool :=
  match pg.reg off with
  | some d => decide (d.rw ≠ 0)
  | none => false

/-- WRITE_LO_HOLD (R14, R590): one write held per pair and requester, a second one replacing it. -/
def execWriteLoHold (r : Requester) (pg : Page) (off : BitVec 12) (size : Nat) (v : U32) (s : State) : Res :=
  let o := off.toNat
  .next (
    if regAccess o size && s.answers r pg o && pg.pairs.contains o && pg.writable o then
      { s with heldLo := s.heldLo.filter (fun (h : HeldLo) => !(decide (h.requester = r) && decide (h.lo = pg.base + o))) ++ [⟨r, pg.base + o, v⟩] }
    else s)

/-- The LO value that a HI write takes with it: the one held, or what the register shows. DESIGN CHOICE (log entry 16): R14 and R590 say nothing of a HI write for which no LO is held. -/
def State.loFor (s : State) (r : Requester) (pg : Page) (lo : Nat) : U32 :=
  match s.heldLo.find? (fun (h : HeldLo) => decide (h.requester = r) && decide (h.lo = pg.base + lo)) with
  | some h => h.value
  | none => s.view pg lo

/-- A pair written as one value (R14, R236). -/
def State.commitPair (s : State) (pg : Page) (lo : Nat) (v : Nat) : State :=
  if pg = .stmRgn then s.regionBounds (decide (lo = 0x04C)) v
  else
    let mask (o : Nat) : Nat := ((pg.reg o).map (·.rw)).getD 0
    (s.setBits pg lo (lo32 v) (mask lo)).setBits pg (lo + 4) (hi32 v) (mask (lo + 4))

/-- WRITE_HI_COMMIT (R14, R590). -/
def execWriteHiCommit (r : Requester) (pg : Page) (off : BitVec 12) (size : Nat) (v : U32) (s : State) : Res :=
  let o := off.toNat
  let lo := o - 4
  .next (
    if regAccess o size && s.answers r pg o && decide (4 ≤ o) && pg.pairs.contains lo && pg.writable o then
      let w := (s.loFor r pg lo).toNat + v.toNat * 0x100000000
      let s1 : State := { s with heldLo := s.heldLo.filter (fun (h : HeldLo) => !(decide (h.requester = r) && decide (h.lo = pg.base + lo))) }
      s1.commitPair pg lo w
    else s)

/-! ### Fields with no behaviour of their own (R11, R12, R15) -/

/-- Offsets of a page's registers whose writes are commands of their own. -/
def Page.ownWrites : Page → List Nat
  | .swl => [0x040]
  | .brt => [0x050]
  | .pwr => [0x044]
  | .grn => [0x070]
  | .tun => [0x054]
  | .uni => [0x06C]
  | .stmJob => [0x044, 0x054]
  | .stmRgn => [0x054]
  | .stmQrm => [0x050, 0x07C]
  | .cnsMap => [0x048]
  | .wwyMod => [0x040, 0x048, 0x050]
  | .twn => [0x040]
  | .glb _ => [0x060]
  | .lth _ => [0x054, 0x074]
  | .wwy _ => [0x044]
  | .mxa _ => [0x044]
  | _ => []

/-- RW bits of a register under a write. -/
def State.writeRw (s : State) (pg : Page) (off : Nat) (v : U32) : State :=
  match pg.reg off with
  | some d => s.setBits pg off v d.rw
  | none => s

/-- STM_QRM_CFG.HB_MISS of the selected slot (R397). -/
def State.writeHbMiss (s : State) (v : U32) : State :=
  let i := s.field .stmQrm 0x040 0 3
  s.setSlot i { s.slot i with hbMiss := fieldOf v 16 4 }

/-- UNI_CFG of the selected job (R447). -/
def State.writeUniCfg (s : State) (v : U32) : State :=
  s.updJob (s.field .uni 0x040 0 8) (fun x => { x with uniEnable := v.toNat.testBit 0, uniPeriod := fieldOf v 1 8, uniGroup := fieldOf v 16 16 })

/-- UNI_WAIT of the selected job (R447). -/
def State.writeUniWait (s : State) (v : U32) : State := s.updJob (s.field .uni 0x040 0 8) (fun x => { x with uniWait := fieldOf v 0 16 })

/-- BRT_WIN of the selected sensor; sensor 18 ignores it (R512). -/
def State.writeWindow (s : State) (v : U32) : State :=
  let i := s.field .brt 0x044 0 5
  if i = 18 then s
  else { s with pwr := { s.pwr with brtLow := s.pwr.brtLow.set i (BitVec.ofNat 16 v.toNat), brtHigh := s.pwr.brtHigh.set i (BitVec.ofNat 16 (v.toNat / 65536)) } }

/-- LOOP of a link's TEST_CTRL, writable only in test mode (R479, R481, R482). -/
def State.writeLoop (s : State) (pg : Page) (e : LinkEnd) (v : U32) : State := if s.testMode e then s.setBits pg 0x058 v 0x3 else s

/-- A write to a register without behaviour of its own. -/
def State.plainWrite (s : State) (pg : Page) (off : Nat) (v : U32) : State :=
  match pg, off with
  | .stmQrm, 0x044 => s.writeHbMiss v
  | .uni, 0x044 => s.writeUniCfg v
  | .uni, 0x048 => s.writeUniWait v
  | .brt, 0x048 => s.writeWindow v
  | .rdl r, 0x058 => s.writeLoop pg (.rdl r) v
  | .bnd d, 0x058 => s.writeLoop pg (.bondBase d) v
  | .cxp p, 0x04C => if p = 0 then s.writeRw pg off v else s
  | .mxa _, 0x018 => s.setBits pg offErrInj v 0x3F00
  | _, _ => s.writeRw pg off v

/-- REGISTER_WRITE (R11, R12, R15, R589): RW fields take the value; unassigned offsets, pairs and registers with commands of their own are not touched. -/
def execRegisterWrite (pg : Page) (off : BitVec 12) (size : Nat) (v : U32) (s : State) : Res :=
  let o := off.toNat
  let pair := pg.pairs.contains o || (decide (4 ≤ o) && pg.pairs.contains (o - 4))
  .next (if s.writes pg && regAccess o size && !pair && !pg.ownWrites.contains o then s.plainWrite pg o v else s)

/-! ### The header (R584 to R588) -/

/-- ERR_STAT bits a page defines. -/
def Page.errBits : Page → Nat
  | .tol | .swl | .stm _ | .glb _ | .wwyMod | .sec => 2
  | .brt | .stmRgn | .cnsMap | .twn => 1
  | .stmJob | .stmQrm | .cns _ | .cpe _ | .grn | .tun | .fwu => 3
  | .wwy _ | .mxa _ | .lth _ | .rdl _ => 4
  | .pwr | .hbc _ | .gdc _ | .uni | .bnd _ | .cxp _ => 5
  | .vxe _ | .crv _ | .ats _ => 0

/-- ERR_STAT_CLEAR (R585). -/
def execErrStatClear (pg : Page) (v : U32) (s : State) : Res :=
  .next (if s.writes pg then s.setErr pg (s.reg pg offErrStat &&& ~~~v) (s.reg pg offErrMask) else s)

/-- ERR_MASK_WRITE (R585). -/
def execErrMaskWrite (pg : Page) (v : U32) (s : State) : Res :=
  .next (if s.writes pg then s.setErr pg (s.reg pg offErrStat) (v &&& BitVec.ofNat 32 (2 ^ pg.errBits - 1)) else s)

/-- Counts that stand outside the register file: boots, quorum losses, and a link's test errors (R397, R481, R482, R547). -/
def State.clearHeldCounts (s : State) (pg : Page) : State :=
  match pg with
  | .tol => { s with start := { s.start with boots := 0 } }
  | .stmQrm => s.forEach (List.range 8) (fun t i => t.setSlot i { t.slot i with losses := 0 })
  | .rdl r => s.setLink (.rdl r) { s.link (.rdl r) with testErrs := [] }
  | .bnd d => s.setLink (.bondBase d) { s.link (.bondBase d) with testErrs := [] }
  | _ => s

/-- CLEAR_COUNTS (R587). -/
def execClearCounts (pg : Page) (s : State) : Res :=
  .next (
    if s.writes pg then
      ((pg.regs.filter (·.count)).foldl (fun (t : State) (d : RegDef) => t.setReg pg d.off 0) s).clearHeldCounts pg
    else s)

/-- NUMFLAGS_CLEAR (R172, R173). -/
def execNumflagsClear (pg : Page) (v : U32) (s : State) : Res := .next (if s.writes pg && pg.hasNumflags then s.clearFlags pg v else s)

/-! ### Plain actions -/

/-- BIND_CACHE_FLUSH (R104). -/
def execBindCacheFlush (b : Fin 3) (s : State) : Res :=
  .next (if s.writes (.glb b) then { s with caches := s.caches.filter (fun c => !decide (c.base = b.val)) } else s)

/-- MXA_REPAIR_WRITE (R11, R135 to R138): the first write since the array's reset, Tolium's at a start or any other; later ones are ignored. -/
def execMxaRepairWrite (n : Fin 192) (v : U32) (s : State) : Res :=
  .next (
    if s.start.repaired.contains n.val then s
    else
      let s1 := s.setRepair n v
      { s1 with start := { s1.start with repaired := n.val :: s1.start.repaired } })

/-- INJECT_TALLY_ONE (R151, R619): a write of ERR_INJ, with its COLUMN. -/
def execInjectTallyOne (n : Fin 192) (v : U32) (s : State) : Res :=
  .next (if s.writes (.mxa n) then (s.setBits (.mxa n) offErrInj v 0x3F00).arm (.mxa n) 0 else s)

/-- INJECT_GRAIN_ONE (R272). -/
def execInjectGrainOne (n : Fin 192) (s : State) : Res := .next (if s.writes (.cpe n) then s.arm (.cpe n) 0 else s)

/-- INJECT_LANE_FAIL (R483): a host write of ERR_INJ of the page that shows the link. -/
def execInjectLaneFail (e : LinkEnd) (s : State) : Res :=
  .next (match e.page with | some pg => if s.writes pg then s.arm pg 0 else s | none => s)

end Sys2Proof.Machine
end

