-- ==== Sys2Proof/Machine/Twin.lean ====
section
/-! DEFINITION. The twin link (R368 to R370, R376): its registers, the mirror of a commit, and the frames of a partner's mirror. -/

namespace Sys2Proof.Machine

/-! ### What a mirror sends (R369) -/

/-- The steps whose gradients a record retains (R284). -/
def CRecord.retainedSteps (r : CRecord) : List Nat := (List.range r.ringCount).map (fun i => r.nextStep - r.ringCount + i)

/-- The blocks of a shard's version by device address: the active slot, the ring entries in use, the header block. -/
def MirrorJob.toSend (m : MirrorJob) : List Nat :=
  match m.shape with
  | some (nmom, n, late) =>
    let pieces : List (Nat × Nat) := [(slotOffset nmom n m.active, (1 + nmom) * shardSB n)]
      ++ m.retained.map (fun u => (ringOffset nmom n (u % (late + 1)), shardRB n)) ++ [(0, 2048)]
    pieces.flatMap (fun p => (List.range (p.2 / 2048)).map (fun i => m.state + p.1 + i * 2048))
  | none => []

/-- The mirror of the shard whose STATE tensor lies at an address, by its record. -/
def mirrorOf (state : Nat) (shape : Option (Nat × Nat × Nat)) (r : CRecord) : MirrorJob := ⟨state, r.versionStep, r.active, r.retainedSteps, shape⟩

/-- Whether a STATE tensor lies in the mirrored region (R369). -/
def State.inTwinRegion (s : State) (state : Nat) : Bool :=
  let g := s.region s.twinJob s.twinRegion
  g.valid && decide (g.lo ≤ state) && decide (state < g.hi)

/-- A committed shard put in line to be mirrored (R369, R370). -/
def State.mirrorCommit (s : State) (j state : Nat) (h : LHeader) (r : CRecord) : State :=
  if (s.twin.mirroring || s.twin.stopped) && decide (s.twinJob = j) && s.inTwinRegion state then
    { s with twin := { s.twin with queue := s.twin.queue ++ [mirrorOf state (some (h.nmom, h.n, h.late)) r] } }
  else s

/-- The places of the commit records that memory lists as claimed. -/
def State.recordPlaces (s : State) : List Nat :=
  s.mem.bytes.filterMap (fun (p : Nat × U8) =>
    let o := p.1 % stackSize - (visibleSize + 0x06FC0000)
    if p.1 < hbmEnd ∧ visibleSize + 0x06FC0000 ≤ p.1 % stackSize ∧ o < 0x400000 ∧ o % 64 = 7 then some (p.1 - 7) else none)

/-- The shard of the mirrored region whose commit record stands at an address, if it is one; the record is read as any other read is (R214, R215). -/
def State.twinShard (s : State) (a : Nat) : State × Option MirrorJob :=
  let e := s.eccRead a 64
  (e.1, if e.2.isSome then none else
    match readRecordBytes (s.mem.read a 64) with
    | .good r => if r.claimed ∧ r.job = s.twinJob ∧ s.inTwinRegion r.owner = true then some (mirrorOf r.owner none r) else none
    | _ => none)

/-- Every shard of the mirrored region put in line, by its commit record (R369, R370). -/
def State.twinShards (s : State) : State :=
  s.forEach s.recordPlaces (fun t a =>
    let r := t.twinShard a
    match r.2 with
    | some m => { r.1 with twin := { r.1.twin with queue := r.1.twin.queue ++ [m] } }
    | none => r.1)

/-- Frames that wait at the port that becomes the twin link and that it does not carry are dropped and counted there (R368). -/
def State.clearTwinPort (s : State) : State :=
  let p := s.twinPort
  let l := (s.port p).queue.filter (fun f => !s.carries p f)
  if 12 ≤ p ∨ l.isEmpty = true then s
  else (s.setPort p { s.port p with queue := (s.port p).queue.filter (s.carries p) }).forEach l (fun t f => (t.countDrop p).lostOwn f)

/-! ### TWN_CTRL (R368, R370, R376) -/

/-- A write of TWN_CTRL: its fields are writable only while ENABLE is 0; setting ENABLE starts mirroring in full, or leaves it stopped for a job without a key (R350); clearing it stops the twin link. -/
def State.writeTwin (s : State) (v : U32) : State :=
  if s.twinOn then
    if v.toNat.testBit 0 then s
    else { s.setBits .twn 0x040 0 1 with twin := { TwinSt.off with lastStep := s.twin.lastStep } }
  else
    let s1 := s.setBits .twn 0x040 v 0x7FFFF
    if v.toNat.testBit 0 then
      let s2 := s1.clearTwinPort
      if s2.jobKey s2.twinJob = 0 then ({ s2 with twin := { s2.twin with mirroring := false, stopped := true } }).raise .twn 0
      else ({ s2 with twin := { TwinSt.off with mirroring := true, lastStep := s2.twin.lastStep } }).twinShards
    else s1

/-- TWIN_ENABLE (R368, R370). -/
def execTwinEnable (v : U32) (s : State) : Res := .next (if s.hostReach then s.writeTwin (v ||| 1) else s)

/-- TWIN_DISABLE (R368, R370). -/
def execTwinDisable (v : U32) (s : State) : Res := .next (if s.hostReach then s.writeTwin (v &&& ~~~1#32) else s)

/-! ### Sending and receiving -/

/-- The slow-tier reads of a block of the mirror and of its tag (R229, R230); mirroring stops where no slow-tier entry covers it. -/
def State.askTwin (s : State) (a : Nat) : State :=
  match s.windowAt s.twinJob a with
  | some e =>
    if e.kind = .slow then
      let l : List (Nat × Nat × Nat) := (cutAt 256 a 2048).map (fun p => (p.1, e.target + (p.1 - e.base), p.2)) ++ [(tagKey a, tagHpaOf e a, 4)]
      ({ s with nextReq := s.nextReq + l.length, twin := { s.twin with reads := (numbered l).map (fun (q : Nat × Nat × Nat × Nat) => (s.nextReq + q.1, q.2)) } }).issueUio
    else s.stopTwin
  | none => s.stopTwin

/-- The bytes that slow-tier reads have brought for the mirror. -/
def State.twinByte (s : State) (a : Nat) : U8 := match s.twin.fetched.find? (fun (p : Nat × U8) => decide (p.1 = a)) with | some p => p.2 | none => 0

/-- A block of the mirror and its tag, where it is there; else it is asked for, or mirroring stops. DESIGN CHOICE (log entry 35): R370 names no end for a block that memory does not deliver or whose tag does not match; mirroring stops as for a refused frame. -/
def State.twinTake (s : State) (a : Nat) : State × Option (List U8 × U32) :=
  if inWindow a then
    if s.twin.fetched.isEmpty then (if s.twin.reads.isEmpty then s.askTwin a else s, none)
    else if s.twin.reads.isEmpty then
      let bs := (List.range 2048).map (fun i => s.twinByte (a + i))
      let tag : U32 := BitVec.ofNat 32 (leNat ((List.range 4).map (fun i => s.twinByte (tagKey a + i))))
      if crc32c bs = tag then ({ s with twin := { s.twin with fetched := [] } }, some (bs, tag))
      else ((s.record { kind := 0x04, code := S_GRAIN, job := s.twinJob, addr := a, detail := [tag.toNat, (crc32c bs).toNat] }).stopTwin, none)
    else (s, none)
  else
    let r := s.eccRead a 2048
    if r.2.isSome then (r.1.stopTwin, none) else (r.1, some (s.mem.read a 2048, s.mem.tag (a / 2048)))

/-- One TWIN frame of a block of the mirrored region, on the twin link itself (R369, R409). -/
def State.sendTwin (s : State) (a : Nat) (b : List U8 × U32) : State :=
  let j := s.twinJob
  let req := s.nextReq % 65536
  let f : Frame := { frameOf ftTwin (s.memClass j) s.twinPartner s.selfId (s.jobKey j) b.1 with
    group := s.field .twn 0x048 0 16, phase := (s.job j).phase, grain := b.2
    offset := a - (s.region j s.twinRegion).base, req := req }
  let s1 := ({ s with nextReq := s.nextReq + 1 }).enqueue s.twinPort f
  { s1 with twin := { s1.twin with waiting := s1.twin.waiting ++ [req] } }

/-- The blocks of the mirror in progress sent in order, up to one that has to be read from the slow tier first. -/
def State.twinSend : Nat → State → State
  | 0, s => s
  | k + 1, s =>
    match s.twin.blocks with
    | a :: rest =>
      let r := s.twinTake a
      (match r.2 with
      | some b => State.twinSend k (({ r.1 with twin := { r.1.twin with blocks := rest } }).sendTwin a b)
      | none => r.1)
    | [] => s

/-- The mirror in progress carried on: the shard's header is read first, where it is not known. -/
def State.twinGo (s : State) : State :=
  match s.twin.cur with
  | none => s
  | some m =>
    match m.shape with
    | some _ => State.twinSend (s.twin.blocks.length + 1) s
    | none =>
      let r := s.twinTake m.state
      match r.2 with
      | none => r.1
      | some b =>
        let h := readHeader (fun a => b.1.getD (a - m.state) 0) m.state
        if h.broken (2 ^ 48) then { r.1 with twin := { r.1.twin with cur := none } }
        else
          let m' : MirrorJob := { m with shape := some (h.nmom, h.n, h.late) }
          State.twinSend (m'.toSend.length + 1) { r.1 with twin := { r.1.twin with cur := some m', blocks := m'.toSend } }

/-- TWIN_MIRROR_SEND (R369, R370): the oldest commit not yet mirrored, once the mirror before it is complete. -/
def execTwinMirrorSend (s : State) : Res :=
  .next (
    match s.twin.queue with
    | m :: rest =>
      if s.twin.mirroring ∧ s.twin.cur = none ∧ s.portUp s.twinPort = true then
        State.twinGo { s with twin := { s.twin with queue := rest, cur := some m, blocks := m.toSend } }
      else s
    | [] => s)

/-- A slow-tier read has brought bytes to a firing or to the mirror in progress. -/
def State.endSlow (s : State) (u : Nat) (w : Wait) (q a : Nat) (bs : List U8) : State :=
  if u = twinUnit then
    let t : State := { s with twin := { s.twin with
      reads := s.twin.reads.filter (fun x => !decide (x.1 = q)), fetched := s.twin.fetched ++ ((List.range bs.length).map (a + ·)).zip bs } }
    if t.twin.reads.isEmpty then t.twinGo else t
  else s.endWait u w a bs

/-- SLOW_TIER_COMPLETION (R230, R231): data for a read, none for an error; a completion of another length is an error. -/
def execSlowTierCompletion (req : Nat) (data : Option (List U8)) (s : State) : Res :=
  .next (
    match s.uioReq req with
    | none => s
    | some x =>
      match s.slowWait x, data with
      | some (.slow q a hpa n (some d)), some _ => ((s.dropUio req).endWait x.unit (.slow q a hpa n (some d)) a []).issueUio
      | some (.slow q a hpa n none), some bs =>
        if bs.length = n then ((s.dropUio req).endSlow x.unit (.slow q a hpa n none) q a bs).issueUio else s.slowFailed x
      | some _, _ => s.slowFailed x
      | none, _ => (s.dropUio req).issueUio)

/-- An answer on the link a frame came by; a frame that came by none is answered as routed. -/
def State.answerOn (s : State) (q : Nat) (f : Frame) : State := if q < 12 then s.enqueue q f else s.send f

/-- The WRITE_ACK of a TWIN frame. -/
def State.twinReply (s : State) (q j : Nat) (f : Frame) (code : U16) : State :=
  s.answerOn q (s.replyFrame j ftWriteAck f (leBytes 2 code.toNat ++ leBytes 2 0))

/-- TWIN_FRAME (R358, R368, R369): stored through the INBOUND window as a WRITE is, and acknowledged on the link it came by. -/
def execTwinFrame (p : Fin 12) (s : State) : Res :=
  .next (s.onJobFrame p.val ftTwin (fun t q f j =>
    match t.inboundPlace j f f.payload.length true with
    | some a => if f.grain = crc32c f.payload then (t.storeInbound a f).twinReply q j f S_OK else (t.inboundMiss j a f).twinReply q j f S_FAB_REFUSED
    | none => t.twinReply q j f S_FAB_REFUSED))

end Sys2Proof.Machine
end

