-- ==== Sys2Proof/Machine/Lathe.lean ====
section
/-! DEFINITION. The Lathes (R274 to R323): the firings of UPDATE, VERDICT and SHADOW nodes, commit records, recipe loads, and the start of a firing on any engine. -/

namespace Sys2Proof.Machine

def lthPage (b : Nat) : Page := .lth (if b = 0 then 0 else if b = 1 then 1 else 2)

/-! ### What a node names -/

/-- The STATE tensor of an UPDATE or SHADOW node. -/
def Program.stateOf (p : Program) (i : Nat) (g : GNode) : Option Tensor :=
  match statePort g.op with
  | some k => (p.inPort i k).bind (fun t => p.tensors[t]?)
  | none => none

def State.stateAddr (s : State) (j : Nat) (p : Program) (i : Nat) (g : GNode) : Nat :=
  match p.stateOf i g with | some t => s.locAddr j t.loc | none => 0

/-- LATE and SLOT of the attribute records (R95). -/
def GNode.late (g : GNode) : Nat := g.attrByte 8
def GNode.slotAttr (g : GNode) : Nat := g.attrByte 8

/-- HYP of an UPDATE (R95). -/
def GNode.hyp (g : GNode) : List Fl := (List.range (min 8 (g.attrByte 9))).map (fun i => fmtF32.decode (g.attrLe (16 + 4 * i) 4))

/-- The base die whose Lathe a shard header names: by COMMIT_INDEX bits [19:16], or the stream's home where what stands above bit 16 is no stack's number (R276). -/
def LHeader.lathe (h : LHeader) (home : Nat) : Nat := if 15 < h.commitIndex / 2 ^ 16 then home else baseOfStack h.stack

/-- The UPDATE or SHADOW of a node that holds its record. -/
def State.updOf (s : State) (n node : Nat) : Option Upd := s.upds.find? (fun (u : Upd) => decide (u.stream = n) && decide (u.node = node))

def State.setUpd (s : State) (x : Upd) : State :=
  { s with upds := s.upds.map (fun (u : Upd) => if u.stream = x.stream ∧ u.node = x.node then x else u) }

def State.dropUpd (s : State) (n node : Nat) : State := { s with upds := s.upds.filter (fun (u : Upd) => !(decide (u.stream = n) && decide (u.node = node))) }

/-! ### When a Lathe firing may start (R23, R32, R306 to R309) -/

/-- Earlier UPDATE and SHADOW nodes of the same STATE tensor are done (R281, R288). -/
def Bound.shardTurn (b : Bound) (i : Nat) (g : GNode) : Bool :=
  (b.prog.before i).all (fun k => match b.prog.nodes[k]? with
    | some h => (statePort h.op).isNone || decide ((statePort h.op).bind (b.prog.inPort k) ≠ (statePort g.op).bind (b.prog.inPort i)) || b.nodeDone k
    | none => true)

/-- Elements of a range that `blocks` grain blocks of binary16 cover. -/
def elemReach (n lo blocks : Nat) : Nat := min n (lo + 1024 * blocks)

/-- The rows of a view that hold elements `[lo, hi)`, as a byte range of its storage. -/
def TView.elemRows (v : TView) (lo hi : Nat) : Nat × Nat :=
  let n := max 1 (inner v.exts)
  let p := rowPitch v.d n
  if hi ≤ lo then (0, 0) else (lo / n * p, ((hi - 1) / n + 1) * p)

/-- Whether the gradient blocks that hold a range of elements have been produced. -/
def State.gradReady (s : State) (j : Nat) (b : Bound) (i : Nat) (g : GNode) (lo hi : Nat) : Bool :=
  match b.prog.inPort i 0 with
  | some t =>
    let v := viewAt (s.inViews j b i g) 0
    let q := v.elemRows lo hi
    b.pieceReady 0 (b.prog.feeder i t) ⟨t, v, q.1, q.2⟩
  | none => true

/-- The sides of a slot's queues that a part uses (R23, R24): retain firings take the gradient's tokens and free them (R306 step 2), apply firings need only the STATE tensor (R308), and the firing that ends the node sends the cast copy's tokens (R306 step 6, R310). DEDUCED (log entry 24). -/
def partSides (v : Option Upd) (part : LathePart) (blocks : Nat) : Bool × Bool :=
  match part, v with
  | .retain, _ => (true, false)
  | .commit, _ => (false, true)
  | .verdict, _ => (true, true)
  | .apply, some v => (false, v.castOnly && decide (elemReach v.hdr.n v.applied blocks = v.hdr.n))
  | _, _ => (false, false)

/-- Whether a part of an UPDATE or SHADOW can be done next: what it needs is there (R23, R306 to R309, R315). No commit firing starts without quorum; one that has `begun` ends (R385). -/
def State.partReady (s : State) (n : Nat) (x : Stream) (b : Bound) (y : BNode) (g : GNode) (part : LathePart) (blocks : Nat) (begun : Bool) : Bool :=
  let u := s.updOf n y.node
  let start := b.orderOk y.node && b.shardTurn y.node g
  let sized := decide (1 ≤ blocks) && decide (blocks ≤ 256)
  (y.taken || b.tokensOk y.slot (partSides u part blocks)) &&
  match part, u with
  | .first, none => decide (g.op = opUpdate) && start
  | .shadow, none => decide (g.op = opShadow) && start
  | .shadow, some _ => decide (g.op = opShadow)
  | .verdict, some _ => decide (g.op = opUpdate) && decide (g.sub = 62) && s.inputsReady x.job b y
  | .retain, some v => sized && !v.castOnly && decide (v.retained < v.hdr.n) && s.gradReady x.job b y.node g v.retained (elemReach v.hdr.n v.retained blocks)
  | .apply, some v =>
    sized && decide (g.op = opUpdate) && decide (g.sub ≠ 62) && (v.runsRecipe || v.hasCast) && decide (v.applied < v.hdr.n)
      && (v.castOnly || decide (v.hdr.late ≠ 0) || decide (elemReach v.hdr.n v.applied blocks ≤ v.retained))
  | .commit, some v => v.workDone && (match v.applies with | some a => s.horizonPassed x.job a | none => true) && (begun || !s.quorumLost x.job)
  | _, _ => false

/-- Whether any part of a slot can be done next. -/
def State.anyPart (s : State) (n : Nat) (x : Stream) (b : Bound) (y : BNode) (g : GNode) : Bool :=
  ([.first, .retain, .apply, .commit, .verdict, .shadow] : List LathePart).any (fun p => s.partReady n x b y g p 1 false)

/-- Whether a Lathe can be used at all. -/
def State.latheUsable (s : State) (l : Nat) : Bool := s.baseUp l && !(s.tuneUnit (819 + l)).fenced

/-- The Lathe that reads a slow-tier header before it is known which one serves the shard: the slot's own, or else the first one that can be used. -/
def State.headReader (s : State) (y : BNode) : Nat :=
  if s.latheUsable (y.unit - 819) then y.unit - 819 else ((([0, 1, 2] : List Nat).find? s.latheUsable).getD (y.unit - 819))

/-- Whether a Lathe has the slots that a node needs there, or the node has them already (R610, R66). -/
def State.latheRoom (s : State) (j : Nat) (b : Bound) (y : BNode) (l : Nat) : Bool := decide (y.unit = 819 + l) || s.roomOn j (819 + l) (b.split y)

/-- The Lathe that serves a node slot: the one that holds its record, or the one its header names (R276), once it has a slot free for the node; a header in the slow tier has to be read first. -/
def State.servedBy (s : State) (n : Nat) (x : Stream) (b : Bound) (y : BNode) (g : GNode) (l : Nat) : Bool :=
  match s.updOf n y.node with
  | some v => decide (v.lathe = l)
  | none =>
    let a := s.stateAddr x.job b.prog y.node g
    decide ((if inWindow a then s.headReader y else (readHeader s.mem.byte a).lathe x.home) = l) && s.latheRoom x.job b y l

/-- A node slot of a stream that a Lathe may work for at all. -/
def State.latheSlot (s : State) (n node : Nat) : Option (Bound × BNode × GNode) :=
  let x := s.stream n
  match x.bound with
  | some b =>
    (match b.nodes.find? (fun (y : BNode) => decide (y.node = node)), b.prog.nodes[node]? with
    | some y, some g =>
      if (g.op = opUpdate ∨ g.op = opShadow) ∧ x.st = .running ∧ y.revoked = false ∧ y.freed = false ∧ y.next < y.firings.length then some (b, y, g) else none
    | _, _ => none)
  | none => none

/-- The keys of the slots that a Lathe could serve now, of primary or of descant jobs (R32). -/
def State.latheEligible (s : State) (l : Nat) (descant : Bool) : List Nat :=
  s.streams.flatMap (fun (p : Nat × Stream) => match p.2.bound with
    | some b =>
      if (s.job p.2.job).descant = descant then
        (b.nodes.filter (fun y => match s.latheSlot p.1 y.node with
          | some (_, _, g) => s.servedBy p.1 p.2 b y g l && s.anyPart p.1 p.2 b y g
          | none => false)).map (fun y => slotKey p.1 y.slot)
      else []
    | none => [])

/-- The slot a Lathe at a firing boundary takes up next, by key, and whether it is a descant one (R32). -/
def State.latheNext (s : State) (l : Nat) : Option (Nat × Bool) :=
  let u := 819 + l
  if !s.firingOn || !s.unitFree u || decide ((s.tuneUnit u).st = .takeover) then none
  else
    match roundRobin (s.engine u).lastPrimary (s.latheEligible l false) with
    | some k => some (k, false)
    | none =>
      if (s.tuneUnit u).st = .due ∨ s.descantShed u = true then none
      else (roundRobin (s.engine u).lastDescant (s.latheEligible l true)).map (fun k => (k, true))

/-! ### Starting and ending a part -/

/-- A node's slot put on a Lathe. -/
def State.moveSlot (s : State) (n slot u : Nat) : State :=
  match (s.stream n).bound with
  | some b => s.updSlot n slot (fun z => if z.unit = u then z else { z with unit := u, place := b.freePlace u })
  | none => s

/-- The engine takes up a slot (R24); a node's first firing puts the slot on this Lathe (R276). -/
def State.takeSlot (s : State) (l n : Nat) (y : BNode) (first descant : Bool) (part : LathePart × Nat) : State :=
  let u := 819 + l
  let s1 := s.startFiring u (slotKey n y.slot) descant (partSides (s.updOf n y.node) part.1 part.2) part
  if first then s1.moveSlot n y.slot u else s1

/-- A repeated retain or apply firing is a replay (R314, R321). -/
def State.countReplay (s : State) (l : Nat) (rep : Bool) (part : LathePart) : State :=
  if rep ∧ (part = .retain ∨ part = .apply) then s.countSat (lthPage l) 0x084 else s

/-- The part that a firing started before it was said, with the tokens and credits it takes (R24). -/
def State.sayPart (s : State) (u : Nat) (r : Running) (y : BNode) (part : LathePart × Nat) : State :=
  let sides := partSides (s.updOf r.stream y.node) part.1 part.2
  (s.takeTokens r.stream y.slot sides).updEngine u (fun e => { e with cur := some { r with part := part, took := sides } })

/-- Whether a slot's repetition, if one is due, is the part asked for (R402). -/
def BNode.repeats (y : BNode) (part : LathePart × Nat) : Bool := !y.rep || decide (y.part = part) || decide (y.part.1 = .unsaid)

/-- A Lathe at work on a part of a node: one it had started and that waits for nothing more, or one it starts now. Says whether the part goes on in the state given. -/
def State.beginPart (s : State) (l n node : Nat) (part : LathePart) (blocks : Nat) : State × Bool :=
  let u := 819 + l
  match s.firingOf u with
  | some (r, b, y) =>
    if r.stream = n ∧ y.node = node ∧ r.waits = [] ∧ s.pwr.st = .run then
      if r.part = (part, blocks) then (s, true)
      else
        match b.prog.nodes[node]? with
        | some g =>
          if r.part.1 = .unsaid ∧ s.partReady n (s.stream n) b y g part blocks true = true ∧ y.repeats (part, blocks) = true then
            ((s.countReplay l r.rep part).sayPart u r y (part, blocks), true)
          else (s, false)
        | none => (s, false)
    else (s, false)
  | none =>
    match s.latheSlot n node with
    | some (b, y, g) =>
      let x := s.stream n
      let d := (s.job x.job).descant
      let first := (s.updOf n node).isNone
      if s.servedBy n x b y g l ∧ s.partReady n x b y g part blocks false = true ∧ y.repeats (part, blocks) = true then
        if first ∧ s.baseUp l = false then (s.failStream n S_DIE_DOWN (unitField u), false)
        else if first ∧ (s.tuneUnit u).fenced = true then (s.failStream n S_UNIT_FENCED (unitField u), false)
        else if s.latheNext l = some (slotKey n y.slot, d) then ((s.takeSlot l n y first d (part, blocks)).countReplay l y.rep part, true)
        else (s, false)
      else (s, false)
    | none => (s, false)

/-- A part that is not its node's last ends without a detected fault (R25, R173, R404). -/
def State.partDone (s : State) (u : Nat) (f : Flags) : State :=
  match s.firingOf u with
  | none => s
  | some (r, b, y) =>
    let n := r.stream
    let s1 := (s.boundary u).postFlags u n f false
    if (s.stream n).over then s1.freeAfterFiring u n
    else
      let s2 := (if r.rep then s1.noteTransient u n y.code else s1).edgeMessages n b y.slot r.took
      let s3 := s2.updRec n (fun x =>
        { x with firings := x.firings + 1, numflags := x.numflags ||| f, stalled := false
                 bound := some ((b.repeated y.slot).settle y.slot r.took) })
      if y.revoked then s3.freeAfterFiring u n else s3

/-- A node's last part ends: its hold is released and the node completes (R306, R114). -/
def State.nodeEnd (s : State) (u n node : Nat) (runs : List BlkRun) (f : Flags) : State :=
  (s.dropUpd n node).finishFiring u runs { flags := f }

/-! ### Commit records (R283 to R287) -/

/-- A commit record read for a firing, none where its line holds an uncorrectable error (R215): RECORD_ONE flips its bit 0 (R322), and a CRC failure is recorded (R286, R322, R442). -/
def State.readRecord (s : State) (u stack rec' : Nat) : State × Option RecordRead :=
  let pg := unitPage u
  let raw := s.mem.read (recordAddr stack rec') 64
  let inj := s.armed pg 0
  let bytes := if inj then (match raw with | b :: l => (b ^^^ 1#8) :: l | [] => []) else raw
  let e := (if inj then s.disarm pg 0 else s).eccRead (recordAddr stack rec') 64
  if e.2.isSome then (e.1, none)
  else
    match readRecordBytes bytes with
    | .bad =>
      let s2 := e.1.raise pg 0
      (match (s2.engine u).cur with
      | some r => s2.recordStream r.stream { kind := 0x13, code := S_L_RECORD, unit := unitField u, addr := recordAddr stack rec', detail := [stack, rec'] }
      | none => s2, some .bad)
    | x => (e.1, some x)

/-- Tags of a slot's blocks: the stored ones, and in the slow tier, whose reads have checked them, those of the bytes read (R230, R318). -/
def State.slotTags (s : State) (rd : Nat → U8) (state nmom n slot : Nat) : List U32 :=
  (List.range ((1 + nmom) * shardSB n / 2048)).map (fun i =>
    let a := state + slotOffset nmom n slot + 2048 * i
    if inWindow a then crc32c ((List.range 2048).map (fun k => rd (a + k))) else s.mem.tag (a / 2048))

/-- The record of a FRESH shard as it is claimed (R285); RECIPE is the shard's (R284). -/
def State.freshRecord (s : State) (rd : Nat → U8) (j state : Nat) (h : LHeader) : CRecord :=
  let v := (h.initStep + 2 ^ 48 - 1) % 2 ^ 48
  { owner := state, job := j, claimed := true, nextStep := h.initStep, active := 0, lastSkip := false, recipe := h.recipe, versionStep := v
    digest := digestOf v (s.slotTags rd state h.nmom h.n 0), ringS := [0, 0, 0, 0, 0], ringOvf := 0, ringCount := 0, skips := 0 }

/-- What R285 finds in the record a shard's COMMIT_INDEX names: a failure, the record as it stands, or the record as it is to be claimed. -/
inductive Claim
  | fail (code : U16)
  | stands (r : CRecord)
  | take (r : CRecord)
  deriving DecidableEq, Repr

/-- R285 and R286; a record that memory could not deliver fails with the code of R215. -/
def State.claimOf (s : State) (rd : Nat → U8) (j state : Nat) (h : LHeader) (x : Option RecordRead) : Claim :=
  let fresh (_ : Unit) : Claim :=
    if h.fresh then .take (s.freshRecord rd j state h)
    else
      match readRecordBytes ((List.range 64).map (fun i => rd (state + 0x40 + i))) with
      | .good m => .take { m with owner := state, job := j, claimed := true }
      | _ => .fail S_L_HEADER
  match x with
  | none => .fail S_MEM_UNCORR
  | some .bad => .fail S_L_RECORD
  | some .zero => fresh ()
  | some (.good r) => if r.claimed then (if r.owner = state ∧ r.job = j then .stands r else .fail S_L_OWNER) else fresh ()

/-- A record written as one line (R286). -/
def State.writeRecord (s : State) (stack rec' : Nat) (r : CRecord) : State := s.writeMem (recordAddr stack rec') (recordBytes r)

/-! ### The checks of a first firing (R282, R277, R621) -/

/-- R282 for an UPDATE's node: `rc` its recipe's NMOM, `ge` the gradient's elements, `out` the output's elements and DTYPE. -/
def LHeader.fitsNode (h : LHeader) (g : GNode) (nmom ge : Nat) (out : Option (Nat × Nat)) : Bool :=
  if g.sub = 62 then
    decide (h.recipe = 63) && decide (h.nmom = 1) && decide (g.late = 0) && decide (ge = 1)
      && (match out with | some o => decide (o.1 = 1) && decide (o.2 = dF16) | none => true)
  else
    decide (h.recipe = g.sub) && decide (h.nmom = nmom) && decide (h.late = g.late) && decide (ge = h.n)
      && (match out with | some o => decide (o.1 = h.n) && decide (o.2 = h.castFmt) | none => decide (h.castFmt = 0))

/-- R277. -/
def State.tierOk (s : State) (j addr extent : Nat) (h : LHeader) : Bool :=
  match hbmStack addr with
  | some k => decide (k = h.stack) && decide (hbmStack (addr + extent - 1) = some k)
  | none => inWindow addr && decide (1 ≤ h.late) && s.slowRun j addr extent

/-- Retracted steps that stop an UPDATE at its first firing (R430): a full list stops every one, a listed step one that applies it from the ring. -/
def Job.stopsUpdate (x : Job) (late : Nat) (applies : Option Nat) : Bool :=
  decide (16 ≤ x.retracted.length) || (decide (1 ≤ late) && (match applies with | some a => x.retracted.contains a | none => false))

/-- The step an UPDATE with STEP `t` applies (R308). -/
def appliesOf (late count t : Nat) : Option Nat := if late = 0 then some t else if count = late then some (t - late) else none

/-- The scale record that SCALE_LOC names: its header, its claim, and the weight of its active slot (R297). -/
def State.scaleOf (s : State) (rd : Nat → U8) (u j sa : Nat) : State × Claim × Nat :=
  let h := readHeader rd sa
  let x := s.readRecord u h.stack h.record
  let c := x.1.claimOf rd j sa h x.2
  let w (r : CRecord) : Nat := rdLe rd (sa + slotOffset h.nmom h.n r.active) 4
  (x.1, c, match c with | .stands r | .take r => w r | .fail _ => 0)

/-- A first firing's outcome. -/
inductive FirstEnd
  | fail (s : State) (code : U16)
  | held (s : State) (u : Upd)

/-- Checks 4 and 5 of R621: the hold and the record, which is claimed where it is free. -/
def State.holdRecord (s : State) (rd : Nat → U8) (u j state : Nat) (h : LHeader) (write : Bool) : State × Option U16 × Option CRecord :=
  if s.recordHeld h.stack h.record then (s, some S_L_BUSY, none)
  else
    let x := s.readRecord u h.stack h.record
    match x.1.claimOf rd j state h x.2 with
    | .fail c => (x.1, some c, none)
    | .stands r => (x.1, none, some r)
    | .take r => (if write then x.1.writeRecord h.stack h.record r else x.1, none, some r)

/-- Checks 6 to 8 of R621 on an UPDATE. -/
def State.lateChecks (s : State) (rd : Nat → U8) (u j : Nat) (g : GNode) (h : LHeader) (r : CRecord) (sa : Nat) : State × Option U16 × Nat :=
  let t := g.step
  let cast := decide (t < r.nextStep)
  let ap := if cast || decide (g.sub = 62) then none else appliesOf h.late r.ringCount t
  if g.sub ≠ 62 ∧ r.nextStep < t then (s, some S_L_STEP, 0)
  else if (s.job j).stopsUpdate h.late ap then (s, some S_RETRACTED, 0)
  else if g.sub = 62 then (s, if t = r.nextStep then none else some S_L_SCALE, 0)
  else if cast || decide (h.scaleLoc = 0) then (s, none, 0x3F800000)
  else
    let k := s.scaleOf rd u j sa
    match k.2.1 with
    | .fail c => (k.1, some c, 0)
    | .stands q | .take q => (k.1, if q.nextStep = t then none else some S_L_SCALE, k.2.2)

/-- What check 1 of R621 finds in an UPDATE's shard header (R282). -/
def State.headerBad (s : State) (rd : Nat → U8) (n node : Nat) (b : Bound) (g : GNode) (state extent : Nat) : Bool :=
  let j := (s.stream n).job
  let h := readHeader rd state
  let ins := s.inViews j b node g
  let out := match b.prog.outPort node 0 with
    | some _ => some (prodL (viewAt (s.outViews j b node g) 0).exts, (viewAt (s.outViews j b node g) 0).d)
    | none => none
  let nmom := match s.recipeOf (if g.sub = 62 then 63 else g.sub) with | some rc => rc.nmom | none => 0
  h.broken extent || !h.fitsNode g nmom (prodL (viewAt ins 0).exts) out

/-- A loss-scaled shard's scale record that is itself loss-scaled, or is no shard at all (R282). -/
def scaleBad (rd : Nat → U8) (h : LHeader) (sa : Nat) : Bool :=
  let sh := readHeader rd sa
  decide (h.scaleLoc ≠ 0) && (decide (sh.scaleLoc ≠ 0) || decide (sh.magic ≠ 0x5348544C) || decide (sh.version ≠ 1))

/-- Checks 1 to 4 of R621 on an UPDATE whose header has been read. -/
def State.preChecks (s : State) (rd : Nat → U8) (n node : Nat) (b : Bound) (g : GNode) (state extent sa : Nat) : Option U16 :=
  let h := readHeader rd state
  if s.headerBad rd n node b g state extent ∨ scaleBad rd h sa = true then some S_L_HEADER
  else if g.step = 2 ^ 48 - 1 then some S_STEP_LIMIT
  else if s.tierOk (s.stream n).job state extent h = false then some S_L_TIER
  else if s.recordHeld h.stack h.record then some S_L_BUSY
  else none

/-- R621 on an UPDATE whose header has been read. -/
def State.firstChecks (s : State) (rd : Nat → U8) (u n node : Nat) (b : Bound) (g : GNode) (state extent sa : Nat) : FirstEnd :=
  let j := (s.stream n).job
  let h := readHeader rd state
  match s.preChecks rd n node b g state extent sa with
  | some c => .fail s c
  | none =>
    let k := s.holdRecord rd u j state h (decide (g.sub ≠ 62))
    match k.2.1, k.2.2 with
    | some c, _ => .fail k.1 c
    | none, none => .fail k.1 S_L_RECORD
    | none, some r =>
      let c := k.1.lateChecks rd u j g h r sa
      match c.2.1 with
      | some code => .fail c.1 code
      | none =>
        let cast := decide (g.step < r.nextStep) || decide (g.sub = 62)
        let ap := if cast then none else appliesOf h.late r.ringCount g.step
        .held c.1 { stream := n, node := node, lathe := u - 819, stack := h.stack, record := h.record, state := state, hdr := h, found := r
                    step := g.step, applies := ap, castOnly := cast, scale := c.2.2, retained := 0, applied := 0, ringOvf := false
                    digest := mix64 (BitVec.ofNat 64 (ap.getD 0)) }

/-- A shard header block, as a firing reads it. -/
def headerReads (state : Nat) : List Acc := [⟨state, 2048, false, true⟩]

/-- What the claim of a FRESH shard reads beside its header for its digest: the tags of slot 0, and in the slow tier the slot itself (R285). -/
def State.claimReads (s : State) (u state : Nat) (h : LHeader) : List Acc :=
  let free := match readRecordBytes (s.mem.read (recordAddr h.stack h.record) 64) with
    | .zero => true
    | .good r => !r.claimed
    | .bad => false
  let n := (1 + h.nmom) * shardSB h.n
  if !(h.fresh && free) || s.armed (unitPage u) 0 then []
  else if inWindow state then [⟨state + 2048, n, false, true⟩]
  else ((List.range (n / 2048)).filterMap (fun i => tagAddr ((state + 2048) / 2048 + i))).map (fun a => ⟨a, 4, true, false⟩)

/-- What check 8 of R621 reads of the scale record beside its header, where the checks before it pass: the weight of its active slot (R297). -/
def State.weightReads (s : State) (rd : Nat → U8) (u n node : Nat) (b : Bound) (g : GNode) (state extent sa : Nat) : List Acc :=
  let j := (s.stream n).job
  let h := readHeader rd state
  if (s.preChecks rd n node b g state extent sa).isSome then []
  else
    match (s.holdRecord rd u j state h false).2.2 with
    | some r =>
      if g.step < r.nextStep ∨ g.sub = 62 ∨ h.scaleLoc = 0 ∨ r.nextStep < g.step ∨ (s.job j).stopsUpdate h.late (appliesOf h.late r.ringCount g.step) = true then []
      else
        match (s.scaleOf rd u j sa).2.1 with
        | .stands q | .take q => if q.nextStep = g.step then [⟨sa + slotOffset 1 1 q.active, 4, false, true⟩] else []
        | .fail _ => []
    | none => []

/-- A header brought from the slow tier names another Lathe: the firing is that one's (R276). -/
def State.wrongLathe (s : State) (u n : Nat) (rd : Nat → U8) (state : Nat) : Bool :=
  inWindow state && decide (819 + (readHeader rd state).lathe (s.stream n).home ≠ u)

/-- A started first firing handed to the Lathe its header names; one that is down or fenced fails the stream (R276, R417, R474), and one without a free slot lets the node wait (R610). -/
def State.handOver (s : State) (u n : Nat) (b : Bound) (y : BNode) (rd : Nat → U8) (state : Nat) : State :=
  let l := (readHeader rd state).lathe (s.stream n).home
  let v := 819 + l
  let s1 := s.boundary u
  if (s.die (unitDie v)).up = false then (s1.failStream n S_DIE_DOWN (unitField v)).freeAfterFiring u n
  else if (s.tuneUnit v).fenced then (s1.failStream n S_UNIT_FENCED (unitField v)).freeAfterFiring u n
  else if s.latheRoom (s.stream n).job b y l then s1.moveSlot n y.slot v
  else s1

/-- A first firing that fails its checks fails its stream (R621); one whose commit record could not be read ends with a detected fault (R215). -/
def State.firstFail (s : State) (u : Nat) (code : U16) : State :=
  if code = S_MEM_UNCORR then s.faultWith u code 0 else s.failFiring u code

/-- The end of a first firing whose reads are in: it fails, or holds its shard's record (R621). -/
def State.firstEnd (s : State) (u : Nat) (r : Running) (b : Bound) (y : BNode) (g : GNode) (state extent sa : Nat) : State :=
  match s.firstChecks (s.rdAt u) u r.stream y.node b g state extent sa with
  | .fail t code => t.firstFail u code
  | .held t v =>
    let t1 : State := { t with upds := t.upds ++ [v] }
    if v.castOnly && !v.hasCast && decide (g.sub ≠ 62) then t1.nodeEnd u r.stream y.node [] 0
    else (t1.partDone u 0).noteContribs s (s.stream r.stream).job

/-- The first firing of an UPDATE on its Lathe. -/
def State.firstFiring (s : State) (u : Nat) : State :=
  match s.firingOf u with
  | none => s
  | some (r, b, y) =>
    match b.prog.nodes[y.node]? with
    | none => s
    | some g =>
      let n := r.stream
      let j := (s.stream n).job
      let state := s.stateAddr j b.prog y.node g
      let extent := match b.prog.stateOf y.node g with | some t => t.exts.headD 0 | none => 0
      let g1 := s.gather u j (headerReads state) []
      if !g1.2 then g1.1
      else
        let rd := g1.1.rdAt u
        let h := readHeader rd state
        let sa := s.locAddr j h.scaleLoc
        if s.wrongLathe u n rd state then g1.1.handOver u n b y rd state
        else if s.headerBad rd n y.node b g state extent then g1.1.failFiring u S_L_HEADER
        else
          let g2 := if h.scaleLoc = 0 then (g1.1, true) else g1.1.gather u j (headerReads sa) []
          if !g2.2 then g2.1
          else
            let rest := if (g2.1.preChecks (g2.1.rdAt u) n y.node b g state extent sa).isSome then [] else g2.1.claimReads u state h
            let g3 := g2.1.gather u j rest []
            if !g3.2 then g3.1
            else
              let g4 := g3.1.gather u j (g3.1.weightReads (g3.1.rdAt u) u n y.node b g state extent sa) []
              if !g4.2 then g4.1 else g4.1.firstEnd u r b y g state extent sa

/-- UPDATE_FIRST_FIRING (R276, R306, R621). -/
def execUpdateFirstFiring (b : Fin 3) (n : Fin 16384) (node : Nat) (s : State) : Res :=
  let p := s.beginPart b.val n.val node .first 0
  .next (if p.2 then p.1.firstFiring (819 + b.val) else p.1)

/-! ### Retain firings (R296, R306) -/

/-- The running part of a Lathe with its UPDATE: the firing, the program, the slot, the node, the UPDATE. -/
def State.partAt (s : State) (u : Nat) : Option (Running × Bound × BNode × GNode × Upd) :=
  match s.firingOf u with
  | some (r, b, y) =>
    (match b.prog.nodes[y.node]?, s.updOf r.stream y.node with
    | some g, some v => some (r, b, y, g, v)
    | _, _ => none)
  | none => none

/-- Whether a tensor's storage is the binder's own (R613). -/
def Program.ownPort (p : Program) (t : Option Nat) : Bool := match t.bind (fun k => p.tensors[k]?) with | some y => decide (y.kind = 1) | none => false

/-- Whether a binary16 code is infinite or a NaN. -/
def f16Bad (c : Nat) : Bool := decide (c / 2 ^ 10 % 32 = 31)

/-- Zeros after the last element of an SB or RB (R279). -/
def shardPad (whole used : Nat) (last : Bool) : List U8 := if last then List.replicate (whole - used) 0 else []

def State.retainFiring (s : State) (u : Nat) : State :=
  match s.partAt u with
  | none => s
  | some (r, b, y, g, v) =>
    let j := (s.stream r.stream).job
    let gv := viewAt (s.inViews j b y.node g) 0
    let lo := v.retained
    let hi := elemReach v.hdr.n lo r.part.2
    let q := gv.elemRows lo hi
    let dst := v.state + ringOffset v.hdr.nmom v.hdr.n (v.entry v.step) + 2 * lo
    let g1 := s.gather u j [⟨gv.addr + q.1, q.2 - q.1, b.prog.ownPort (b.prog.inPort y.node 0), true⟩] [⟨dst, 2 * (hi - lo), false, false⟩]
    if !g1.2 then g1.1
    else
      let rd := g1.1.nodeRd u b y.node
      let k := max 1 (inner gv.exts)
      let codes := (List.range (hi - lo)).map (fun i => gv.code rd ((lo + i) / k) ((lo + i) % k))
      let bad := codes.any f16Bad
      let st := g1.1.store u j [(dst, codes.flatMap (leBytes 2) ++ shardPad (shardRB v.hdr.n) (2 * v.hdr.n) (decide (hi = v.hdr.n)))] (if bad then fOvf else 0)
      if !st.2 then st.1
      else
        let v1 : Upd := { v with retained := hi, ringOvf := v.ringOvf || bad }
        let v2 : Upd := if v1.skips ∧ v.skips = false ∧ v.hdr.late = 0 then { v1 with applied := 0 } else v1
        (st.1.setUpd v2).partDone u (if bad then fOvf else 0)

/-- LATHE_RETAIN_FIRING (R296, R306, R308, R314): the next gradient blocks are copied into ring entry STEP mod (LATE + 1). -/
def execLatheRetainFiring (b : Fin 3) (n : Fin 16384) (node blocks : Nat) (s : State) : Res :=
  let p := s.beginPart b.val n.val node .retain blocks
  .next (if p.2 then p.1.retainFiring (819 + b.val) else p.1)

/-! ### Apply firings (R292, R293, R299, R300, R307) -/

/-- Device address of element `e` of stream `k` of a slot. -/
def Upd.elemAddr (v : Upd) (slot k e : Nat) : Nat := v.state + slotOffset v.hdr.nmom v.hdr.n slot + k * shardSB v.hdr.n + 4 * e

/-- The loss scale of the step an UPDATE applies (R298, R299). -/
def Upd.scaleBits (v : Upd) : Nat :=
  match v.applies with
  | some a => if v.hdr.late = 0 then v.scale else v.found.ringS.getD (v.entry a) 0
  | none => 0x3F800000

/-- One element of the new version: W and the moments, with the flags (R292, R293, R299). -/
def Upd.runAt (v : Upd) (rd : Nat → U8) (rc : Recipe) (hyp : List Fl) (e : Nat) : List Fl × Flags :=
  let f32 (k : Nat) : Fl := fmtF32.decode (rdLe rd (v.elemAddr v.found.active k e) 4)
  let a := v.applies.getD 0
  let gr := fmtF16.decode (rdLe rd (v.state + ringOffset v.hdr.nmom v.hdr.n (v.entry a) + 2 * e) 2)
  let x := unscale gr (fmtF32.decode v.scaleBits)
  let y := runElem rc (f32 0) x.1 ((List.range v.hdr.nmom).map (fun i => f32 (i + 1))) hyp
  (y.1, x.2 ||| y.2)

/-- What an apply firing reads: W and moments of the active slot and the retained gradient; for a cast copy of the version that stays, W alone. -/
def Upd.applyReads (v : Upd) (lo hi : Nat) : List Acc :=
  let ks := if v.runsRecipe then List.range (1 + v.hdr.nmom) else [0]
  ks.map (fun k => ⟨v.elemAddr v.found.active k lo, 4 * (hi - lo), false, true⟩)
    ++ (match v.applies with
        | some a => if v.runsRecipe then [⟨v.state + ringOffset v.hdr.nmom v.hdr.n (v.entry a) + 2 * lo, 2 * (hi - lo), false, true⟩] else []
        | none => [])

/-- Elements `lo, lo + 1, …` of a dense tensor written with the codes given, row by row. -/
def elemWrites (v : TView) : Nat → Nat → List Nat → List (Nat × List U8)
  | 0, _, _ => []
  | fuel + 1, lo, codes =>
    match codes with
    | [] => []
    | _ =>
      let k := max 1 (inner v.exts)
      let w := elemBits v.d / 8
      let n := min codes.length (k - lo % k)
      (v.addr + lo / k * rowPitch v.d k + lo % k * w, (codes.take n).flatMap (leBytes w)) :: elemWrites v fuel (lo + n) (codes.drop n)

/-- The cast copy of elements from `lo` on (R166, R292). -/
def castOf (out : Option TView) (lo : Nat) (ws : List Fl) : List (Nat × List U8) × Flags :=
  match out with
  | some v =>
    let c := ws.map (fun x => convTo v.d false (.fl x))
    (elemWrites v (ws.length + 1) lo (c.map (·.1)), flags c)
  | none => ([], 0)

/-- Digest terms of blocks written at byte `off` of stream `k` (R318). -/
def Upd.terms (v : Upd) (k off : Nat) (bs : List U8) : U64 :=
  (List.range (bs.length / 2048)).foldl (fun d i =>
    d ^^^ digestTerm ((k * shardSB v.hdr.n + off) / 2048 + i) (crc32c ((bs.drop (2048 * i)).take 2048))) 0

/-- What an apply firing writes over `[lo, hi)`: the inactive slot, where the recipe runs, and the cast copy, of the version that stays where the step is skipped (R300); with its flags and digest terms. -/
def Upd.applied' (v : Upd) (rd : Nat → U8) (rc : Recipe) (hyp : List Fl) (out : Option TView) (lo hi : Nat) : List (Nat × List U8) × Flags × U64 :=
  if v.runsRecipe then
    let es := (List.range (hi - lo)).map (fun i => v.runAt rd rc hyp (lo + i))
    let f := (es.map (·.2)).foldl (· ||| ·) 0
    let pad := shardPad (shardSB v.hdr.n) (4 * v.hdr.n) (decide (hi = v.hdr.n))
    let data := (List.range (1 + v.hdr.nmom)).map (fun k => (k, (es.map (fun e => (fmtF32.encode (e.1.getD k (.zero false))).1)).flatMap (leBytes 4) ++ pad))
    let kept := (List.range (hi - lo)).map (fun i => fmtF32.decode (rdLe rd (v.elemAddr v.found.active 0 (lo + i)) 4))
    let c := castOf out lo (if v.skips then kept else es.map (fun e => e.1.getD 0 (.zero false)))
    (data.map (fun d => (v.elemAddr (1 - v.found.active) d.1 lo, d.2)) ++ c.1, f ||| c.2, data.foldl (fun x d => x ^^^ v.terms d.1 (4 * lo) d.2) 0)
  else
    let c := castOf out lo ((List.range (hi - lo)).map (fun i => fmtF32.decode (rdLe rd (v.elemAddr v.found.active 0 (lo + i)) 4)))
    (c.1, c.2, 0)

/-- The output tensor's view of an UPDATE. -/
def State.castView (s : State) (j : Nat) (b : Bound) (node : Nat) (g : GNode) : Option TView :=
  match b.prog.outPort node 0 with | some _ => some (viewAt (s.outViews j b node g) 0) | none => none

/-- The output blocks that are complete with the node (R310). -/
def Program.castRuns (p : Program) (node : Nat) : List BlkRun :=
  match p.outPort node 0 with
  | some t => (match p.tensors[t]? with | some y => [⟨t, 0, p.blocks y⟩] | none => [])
  | none => []

def State.applyFiring (s : State) (u : Nat) : State :=
  match s.partAt u with
  | none => s
  | some (r, b, y, g, v) =>
    let j := (s.stream r.stream).job
    let lo := v.applied
    let hi := elemReach v.hdr.n lo r.part.2
    let out := s.castView j b y.node g
    let outAcc : List Acc := match out with
      | some w => let q := w.elemRows lo hi; [⟨w.addr + q.1, q.2 - q.1, b.prog.ownPort (b.prog.outPort y.node 0), false⟩]
      | none => []
    let slotAcc : List Acc := if v.runsRecipe then (List.range (1 + v.hdr.nmom)).map (fun k => ⟨v.elemAddr (1 - v.found.active) k lo, 4 * (hi - lo), false, false⟩) else []
    let g1 := s.gather u j (v.applyReads lo hi) (slotAcc ++ outAcc)
    if !g1.2 then g1.1
    else
      let w := v.applied' (g1.1.rdAt u) ((s.recipeOf g.sub).getD ⟨0, 0, []⟩) g.hyp out lo hi
      let st := g1.1.store u j w.1 w.2.1
      if !st.2 then st.1
      else if v.castOnly ∧ hi = v.hdr.n then st.1.nodeEnd u r.stream y.node (b.prog.castRuns y.node) w.2.1
      else (st.1.setUpd { v with applied := hi, digest := (if lo = 0 then mix64 (BitVec.ofNat 64 (v.applies.getD 0)) else v.digest) ^^^ w.2.2 }).partDone u w.2.1

/-- LATHE_APPLY_FIRING (R292, R300, R306 to R308, R314): the next elements of the new version; for a version that stays, its cast copy alone. -/
def execLatheApplyFiring (b : Fin 3) (n : Fin 16384) (node blocks : Nat) (s : State) : Res :=
  let p := s.beginPart b.val n.val node .apply blocks
  .next (if p.2 then p.1.applyFiring (819 + b.val) else p.1)

/-! ### The commit (R298, R300, R301, R306, R308 to R310, R318, R319) -/

/-- A number with one bit set or cleared. -/
def putBit (x i : Nat) (v : Bool) : Nat := x - (if x.testBit i then 2 ^ i else 0) + (if v then 2 ^ i else 0)

/-- The record a commit writes (R284, R298, R300, R308, R318). -/
def Upd.commitRecord (v : Upd) : CRecord :=
  let e := v.entry v.step
  let f := v.found
  let r : CRecord :=
    { f with nextStep := v.step + 1, lastSkip := v.skips, ringS := f.ringS.set e v.scale, ringOvf := putBit f.ringOvf e v.ringOvf
             ringCount := if v.hdr.late = 0 then 0 else if v.applies.isSome then v.hdr.late else f.ringCount + 1 }
  match v.applies with
  | some a =>
    if v.skips then { r with versionStep := a, skips := (f.skips + 1) % 2 ^ 32, digest := digestSkip f.digest f.versionStep a }
    else { r with versionStep := a, active := 1 - f.active, digest := v.digest }
  | none => r

/-- R301. -/
def OvfWord.after (w : OvfWord) (step : Nat) (ovf : Bool) : OvfWord :=
  if w.set ∧ w.step = step then { w with ovf := w.ovf || ovf }
  else if w.set = false ∨ w.step < step then ⟨true, step, ovf⟩
  else w

def State.noteOvf (s : State) (l j step : Nat) (ovf : Bool) : State :=
  let k := l * 256 + j
  { s with ovf := SMap.set ovfDefault s.ovf k ((SMap.get ovfDefault s.ovf k).after step ovf) }

def State.commitFiring (s : State) (u : Nat) : State :=
  match s.partAt u with
  | none => s
  | some (r, b, y, _, v) =>
    let j := (s.stream r.stream).job
    let pg := unitPage u
    let g1 := s.gather u j [] [⟨v.state + 0x40, 64, false, false⟩]
    if !g1.2 then g1.1
    else
      let c := v.commitRecord
      let st := (g1.1.writeRecord v.stack v.record c).store u j [(v.state + 0x40, recordBytes c)] 0
      if !st.2 then st.1
      else
        let s1 := if v.scaled then st.1.noteOvf v.lathe j v.step v.ringOvf else st.1
        let s2 := s1.countWrap pg 0x078
        let s3 := if v.skips then s2.countWrap pg 0x07C else s2
        let s4 := s3.nodeEnd u r.stream y.node (b.prog.castRuns y.node) 0
        (s4.sendDigest j (BitVec.ofNat 32 v.hdr.commitIndex) c.versionStep c.digest).mirrorCommit j v.state v.hdr c

/-- LATHE_COMMIT_FIRING (R301, R306, R309, R310, R319, R369). -/
def execLatheCommitFiring (b : Fin 3) (n : Fin 16384) (node : Nat) (s : State) : Res :=
  let p := s.beginPart b.val n.val node .commit 0
  .next (if p.2 then p.1.commitFiring (819 + b.val) else p.1)

/-! ### VERDICT (R303) -/

def State.ovfAt (s : State) (j step : Nat) : Bool :=
  ([0, 1, 2] : List Nat).any (fun l => let w := SMap.get ovfDefault s.ovf (l * 256 + j); w.set && w.ovf && decide (w.step = step))

def State.verdictFiring (s : State) (u : Nat) : State :=
  match s.partAt u with
  | none => s
  | some (r, b, y, g, v) =>
    let j := (s.stream r.stream).job
    let gv := viewAt (s.inViews j b y.node g) 0
    let out := s.castView j b y.node g
    let outAcc : List Acc := match out with | some w => [⟨w.addr, 2, b.prog.ownPort (b.prog.outPort y.node 0), false⟩] | none => []
    let g1 := s.gather u j [⟨gv.addr, 2, b.prog.ownPort (b.prog.inPort y.node 0), true⟩] outAcc
    if !g1.2 then g1.1
    else
      let code := rdLe (g1.1.nodeRd u b y.node) gv.addr 2
      let one := decide (code % 0x8000 ≠ 0) || g1.1.ovfAt j v.step
      let st := g1.1.store u j (match out with | some w => [(w.addr, leBytes 2 (if one then 0x3C00 else 0))] | none => []) 0
      if !st.2 then st.1 else st.1.nodeEnd u r.stream y.node (b.prog.castRuns y.node) 0

/-- VERDICT (R303): recipe 62 after its first firing. -/
def execVerdict (b : Fin 3) (n : Fin 16384) (node : Nat) (s : State) : Res :=
  let p := s.beginPart b.val n.val node .verdict 0
  .next (if p.2 then p.1.verdictFiring (819 + b.val) else p.1)

/-! ### SHADOW (R315) -/

/-- The blocks a shadow holds after its header, by device address: the active slot's streams, then the retained gradients in step order. -/
def Upd.shadowBlocks (v : Upd) : List Nat :=
  let run (a n : Nat) : List Nat := (List.range (n / 2048)).map (fun i => v.state + a + 2048 * i)
  run (slotOffset v.hdr.nmom v.hdr.n v.found.active) ((1 + v.hdr.nmom) * shardSB v.hdr.n)
    ++ v.found.retainedSteps.flatMap (fun t => run (ringOffset v.hdr.nmom v.hdr.n (v.entry t)) (shardRB v.hdr.n))

/-- The location of a SHADOW's slot. -/
def Upd.shadowLoc (v : Upd) (g : GNode) : Nat := if g.slotAttr = 0 then v.hdr.shadowLoc0 else v.hdr.shadowLoc1

/-- Whether a shadow's location names a region wholly in the bench tier (R315). -/
def State.shadowTier (s : State) (j loc : Nat) : Bool :=
  let e := s.region j (locRegion loc)
  decide (loc ≠ 0) && e.valid && inBench e.lo && inBench (e.hi - 1)

/-- What check 1 of R621 finds in a SHADOW's shard header: as R282 has it, apart from what compares it with an UPDATE node. -/
def State.shadowBad (s : State) (rd : Nat → U8) (state extent : Nat) : Bool :=
  let h := readHeader rd state
  h.broken extent || (match s.recipeOf h.recipe with | some rc => decide (h.nmom ≠ rc.nmom) | none => false)

/-- A SHADOW's checks (R621, R315). -/
def State.shadowChecks (s : State) (rd : Nat → U8) (u n node : Nat) (g : GNode) (state extent sa : Nat) : FirstEnd :=
  let j := (s.stream n).job
  let h := readHeader rd state
  if s.shadowBad rd state extent ∨ scaleBad rd h sa = true then .fail s S_L_HEADER
  else
    let k := s.holdRecord rd u j state h true
    match k.2.1, k.2.2 with
    | some c, _ => .fail k.1 c
    | none, none => .fail k.1 S_L_RECORD
    | none, some r =>
      let v : Upd := { stream := n, node := node, lathe := u - 819, stack := h.stack, record := h.record, state := state, hdr := h, found := r, step := g.step
                       applies := none, castOnly := true, scale := 0, retained := 0, applied := 0, ringOvf := false, digest := 0 }
      if r.nextStep ≠ g.step + 1 then .fail k.1 S_L_STEP
      else if k.1.shadowTier j (v.shadowLoc g) = false then .fail k.1 S_L_TIER
      else .held k.1 v

/-- The header block of a shadow: with MAGIC = 0 while it is written, complete at the end. -/
def Upd.shadowHeader (v : Upd) (rd : Nat → U8) (whole : Bool) : List U8 :=
  let b := (List.range 2048).map (fun i => rd (v.state + i))
  if whole then b.take 0x40 ++ recordBytes v.found ++ b.drop 0x80 else List.replicate 4 0 ++ b.drop 4

/-- One firing of a SHADOW: the header block first with MAGIC = 0, then up to 256 blocks each, and the header block last. -/
def State.shadowPart (s : State) (u : Nat) (r : Running) (y : BNode) (g : GNode) (v : Upd) : State :=
  let j := (s.stream r.stream).job
  let dst := s.locAddr j (v.shadowLoc g)
  let total := v.shadowBlocks
  let k := v.retained
  let here := (total.drop (k - 1)).take 256
  let copy := decide (1 ≤ k) && decide (k ≤ total.length)
  let reads : List Acc := if copy then here.map (fun a => ⟨a, 2048, false, true⟩) else [⟨v.state, 2048, false, true⟩]
  let at' := if copy then dst + 2048 * k else dst
  let g1 := s.gather u j reads [⟨at', if copy then 2048 * here.length else 2048, false, false⟩]
  if !g1.2 then g1.1
  else
    let rd := g1.1.rdAt u
    let bytes := if copy then here.flatMap (fun a => (List.range 2048).map (fun i => rd (a + i))) else v.shadowHeader rd (decide (k ≠ 0))
    let st := g1.1.store u j [(at', bytes)] 0
    if !st.2 then st.1
    else if k = 0 then (st.1.setUpd { v with retained := 1 }).partDone u 0
    else if copy then (st.1.setUpd { v with retained := k + here.length }).partDone u 0
    else st.1.nodeEnd u r.stream y.node [] 0

/-- A SHADOW's checks and hold, once. -/
def State.shadowFirst (s : State) (u : Nat) (r : Running) (b : Bound) (y : BNode) (g : GNode) : State :=
  let n := r.stream
  let j := (s.stream n).job
  let state := s.stateAddr j b.prog y.node g
  let extent := match b.prog.stateOf y.node g with | some t => t.exts.headD 0 | none => 0
  let g1 := s.gather u j (headerReads state) []
  if !g1.2 then g1.1
  else
    let rd := g1.1.rdAt u
    let h := readHeader rd state
    let sa := s.locAddr j h.scaleLoc
    if s.wrongLathe u n rd state then g1.1.handOver u n b y rd state
    else if s.shadowBad rd state extent then g1.1.failFiring u S_L_HEADER
    else
      let g2 := if h.scaleLoc = 0 then (g1.1, true) else g1.1.gather u j (headerReads sa) []
      if !g2.2 then g2.1
      else
        let rest := if scaleBad (g2.1.rdAt u) h sa ∨ g2.1.recordHeld h.stack h.record = true then [] else g2.1.claimReads u state h
        let g3 := g2.1.gather u j rest []
        if !g3.2 then g3.1
        else
          match g3.1.shadowChecks (g3.1.rdAt u) u n y.node g state extent sa with
          | .fail t code => t.firstFail u code
          | .held t v => ({ t with upds := t.upds ++ [v] }).shadowPart u r y g v

def State.shadowFire (s : State) (u : Nat) : State :=
  match s.firingOf u with
  | none => s
  | some (r, b, y) =>
    match b.prog.nodes[y.node]?, s.updOf r.stream y.node with
    | some g, some v => s.shadowPart u r y g v
    | some g, none => s.shadowFirst u r b y g
    | none, _ => s

/-- SHADOW_FIRING (R315, R621). -/
def execShadowFiring (b : Fin 3) (n : Fin 16384) (node : Nat) (s : State) : Res :=
  let p := s.beginPart b.val n.val node .shadow 0
  .next (if p.2 then p.1.shadowFire (819 + b.val) else p.1)

/-! ### FIRING_START on any engine -/

/-- A Lathe takes up the slot that is next, its part still to be said by the command that ends it (R32). -/
def State.startLathe (s : State) (l : Nat) : State :=
  match s.latheNext l with
  | some (key, descant) =>
    (match (s.stream (key / 65536)).bound with
    | some b =>
      (match b.nodes[key % 65536]? with
      | some y => s.takeSlot l (key / 65536) y (s.updOf (key / 65536) y.node).isNone descant (.unsaid, 0)
      | none => s)
    | none => s)
  | none => s

/-- FIRING_START (R23, R24, R32, R33, R251, R364). -/
def execFiringStart (u : Fin 822) (s : State) : Res :=
  .next (if 819 ≤ u.val then s.startLathe (u.val - 819) else s.fireStart u.val State.collStart)

/-! ### Recipes and records from the register side (R287, R289, R294, R321, R322) -/

/-- RECIPE_LOAD: a write of LTH_RCP_CTRL; a LOAD while one is in progress does nothing. -/
def execRecipeLoad (b : Fin 3) (v : U32) (s : State) : Res :=
  let pg : Page := .lth b
  .next (
    if s.writes pg ∧ v.toNat.testBit 0 = true ∧ s.recipeLoad = none then
      { s with recipeLoad := some ⟨s.field pg 0x044 0 6, b.val, (s.reg pg 0x04C).toNat + s.field pg 0x050 0 16 * 2 ^ 32⟩ }
    else s)

/-- Whether an UPDATE that holds a recipe has not completed (R294). -/
def State.recipeBusy (s : State) (k : Nat) : Bool :=
  s.streams.any (fun p => p.2.active && (match p.2.bound with
    | some b => (numbered b.prog.nodes).any (fun q => decide (q.2.op = opUpdate) && decide (q.2.sub = k) && !b.nodeDone q.1)
    | none => false))

/-- The recipe a load brings, with the state after the image has been read; none where it is refused (R289, R291, R294, R321). -/
def State.loadedRecipe (s : State) (l : Load) : State × Option Recipe :=
  let n := 16 + 8 * (s.mem.byte (l.addr + 4)).toNat
  if l.job < 16 ∨ 61 < l.job ∨ l.addr % 64 ≠ 0 ∨ hbmStack l.addr = none ∨ hbmStack l.addr ≠ hbmStack (l.addr + n - 1) ∨ s.memDown l.addr = true
      ∨ s.recipeBusy l.job = true then (s, none)
  else
    let e := s.eccRead l.addr n
    (e.1, if e.2.isSome then none else parseRecipe (s.mem.read l.addr n))

/-- The recipe's image put into the recipe store of stacks 0, 6 and 10, the rest of its 4,096 bytes zero (R283). -/
def State.storeRecipe (s : State) (l : Load) : State :=
  let n := 16 + 8 * (s.mem.byte (l.addr + 4)).toNat
  let image := s.mem.read l.addr n ++ List.replicate (4096 - n) 0
  s.forEach [0, 6, 10] (fun t k => if t.baseUp (baseOfStack k) then t.writeMem (recipeAddr k l.job) image else t)

/-- LTH_RCP_RESULT on every Lathe. -/
def State.rcpResult (s : State) (code : U16) : State := s.forEach [0, 1, 2] (fun t l => t.setReg (lthPage l) 0x058 (code.zeroExtend 32))

/-- RECIPE_LOAD_DONE (R103, R294). -/
def execRecipeLoadDone (s : State) : Res :=
  .next (
    match s.recipeLoad with
    | none => s
    | some l =>
      let p := ({ s with recipeLoad := none }).loadedRecipe l
      match p.2 with
      | some rc => ((({ p.1 with recipes := SMap.set recipeDefault p.1.recipes l.job rc }).storeRecipe l).rcpResult S_OK).capChanged
      | none => (p.1.rcpResult S_L_RECIPE).raise (lthPage l.count) 2)

/-- COMMIT_RECORD_RELEASE (R287, R321). -/
def execCommitRecordRelease (b : Fin 3) (v : U32) (s : State) : Res :=
  let pg : Page := .lth b
  let stack := s.field pg 0x05C 16 4
  let rec' := s.field pg 0x05C 0 16
  .next (
    if s.writes pg ∧ v.toNat.testBit 0 = true then
      if s.recordHeld stack rec' then s.raise pg 3
      else if s.memDown (stack * stackSize) then s
      else s.releaseAt (recordAddr stack rec')
    else s)

/-- INJECT_RECORD_ONE (R322). -/
def execInjectRecordOne (b : Fin 3) (s : State) : Res := .next (if s.writes (.lth b) then s.arm (.lth b) 0 else s)

/-- LATHE_INJECT_GRAIN_ONE (R322). -/
def execLatheInjectGrainOne (b : Fin 3) (s : State) : Res := .next (if s.writes (.lth b) then s.arm (.lth b) 1 else s)

end Sys2Proof.Machine
end

