-- ==== Sys2Proof/Machine/Gcm.lean ====
section
/-! DEFINITION. AES-256-GCM, by which an encrypted Windway link seals its DATA units (R344): the cipher is the standard one that the spec names. -/

namespace Sys2Proof.Machine

/-! ### AES-256 -/

/-- Doubling in the field of the cipher. -/
def aesDouble (a : U8) : U8 := (a <<< 1) ^^^ (if a.msb then 0x1B else 0)

/-- Product in the field of the cipher. -/
def aesMul (a b : U8) : U8 :=
  ((List.range 8).foldl (fun (p : U8 × U8) i => (if b.toNat.testBit i then p.1 ^^^ p.2 else p.1, aesDouble p.2)) (0, a)).1

/-- Inverse in the field, 0 for 0: the 254th power. -/
def aesInv (a : U8) : U8 :=
  ((List.range 7).foldl (fun (p : U8 × U8) _ => let q := aesMul p.2 p.2; (aesMul p.1 q, q)) (1, a)).1

/-- The substitution of one byte. -/
def aesSub (a : U8) : U8 :=
  let b := aesInv a
  b ^^^ b.rotateLeft 1 ^^^ b.rotateLeft 2 ^^^ b.rotateLeft 3 ^^^ b.rotateLeft 4 ^^^ 0x63

def xorBytes (a b : List U8) : List U8 := (a.zip b).map (fun p => p.1 ^^^ p.2)

/-- The round constants 1, 2, 4 and so on. -/
def aesRcon : Nat → U8
  | 0 => 1
  | i + 1 => aesDouble (aesRcon i)

/-- The next key word from the one before it and the one eight back. -/
def aesNextWord (i : Nat) (prev old : List U8) : List U8 :=
  let t := if i % 8 = 0 then
      let r := ((prev.drop 1) ++ prev.take 1).map aesSub
      xorBytes r [aesRcon (i / 8 - 1), 0, 0, 0]
    else if i % 8 = 4 then prev.map aesSub else prev
  xorBytes old t

/-- The 60 key words, oldest last, after `n` more words have been made. -/
def aesWords : Nat → Nat → List (List U8) → List (List U8)
  | 0, _, ws => ws
  | n + 1, i, ws => aesWords n (i + 1) (aesNextWord i (ws.headD []) (ws.getD 7 []) :: ws)

/-- The 15 round keys of a 32-byte key. -/
def aesKeys (key : List U8) : List (List U8) :=
  let ws := (aesWords 52 8 ((List.range 8).map (fun i => (key.drop (4 * i)).take 4)).reverse).reverse
  (List.range 15).map (fun r => ((ws.drop (4 * r)).take 4).flatten)

def aesShift (b : List U8) : List U8 :=
  (List.range 16).map (fun i => b.getD ((i % 4 + (i / 4 + i % 4) % 4 * 4)) 0)

def aesMixColumn (c : List U8) : List U8 :=
  let x (i : Nat) : U8 := c.getD (i % 4) 0
  (List.range 4).map (fun i => aesDouble (x i) ^^^ (aesDouble (x (i + 1)) ^^^ x (i + 1)) ^^^ x (i + 2) ^^^ x (i + 3))

def aesMix (b : List U8) : List U8 := (List.range 4).flatMap (fun j => aesMixColumn ((b.drop (4 * j)).take 4))

/-- One 16-byte block under round keys. -/
def aesBlock (keys : List (List U8)) (b : List U8) : List U8 :=
  let first := xorBytes b (keys.headD [])
  let mid := ((keys.drop 1).take 13).foldl (fun x k => xorBytes (aesMix (aesShift (x.map aesSub))) k) first
  xorBytes (aesShift (mid.map aesSub)) (keys.getD 14 [])

/-! ### GCM -/

/-- A big-endian number of bytes, as the mode counts. -/
def beNat (bs : List U8) : Nat := bs.foldl (fun a b => a * 256 + b.toNat) 0
def beBytes (n v : Nat) : List U8 := (leBytes n v).reverse

/-- Product in the field of the authentication tag, bit 0 first. -/
def ghashMul (x y : BitVec 128) : BitVec 128 :=
  ((List.range 128).foldl (fun (p : BitVec 128 × BitVec 128) i =>
    (if x.getMsbD i then p.1 ^^^ p.2 else p.1,
      (p.2 >>> 1) ^^^ (if p.2.getLsbD 0 then 0xE1000000000000000000000000000000#128 else 0))) (0, y)).1

def blocks16 (bs : List U8) : List (List U8) :=
  (List.range ((bs.length + 15) / 16)).map (fun i => let b := (bs.drop (16 * i)).take 16; b ++ List.replicate (16 - b.length) 0)

def ghash (h : BitVec 128) (blocks : List (List U8)) : BitVec 128 :=
  blocks.foldl (fun y b => ghashMul (y ^^^ BitVec.ofNat 128 (beNat b)) h) 0

/-- The counter block `c` of a 96-bit initial value. -/
def gcmCounter (iv : List U8) (c : Nat) : List U8 := iv ++ beBytes 4 c

/-- The text under the key stream; the same operation encrypts and decrypts. -/
def gcmCrypt (key iv text : List U8) : List U8 :=
  let ks := aesKeys key
  xorBytes text ((List.range ((text.length + 15) / 16)).flatMap (fun i => aesBlock ks (gcmCounter iv (i + 2))))

/-- The tag over the authenticated data and the ciphertext. -/
def gcmTag (key iv aad cipher : List U8) : List U8 :=
  let ks := aesKeys key
  let h : BitVec 128 := BitVec.ofNat 128 (beNat (aesBlock ks (List.replicate 16 0)))
  let s := ghash h (blocks16 aad ++ blocks16 cipher ++ [beBytes 8 (8 * aad.length) ++ beBytes 8 (8 * cipher.length)])
  xorBytes (beBytes 16 s.toNat) (aesBlock ks (gcmCounter iv 1))

end Sys2Proof.Machine
end

