-- ==== Sys2Proof/Machine/Link.lean ====
section
/-! DEFINITION. Windway links (R326 to R345) and the registers of the ports and of the module fabric page (R346, R371 to R373). -/

namespace Sys2Proof.Machine

/-! ### Frames as bytes (R331) -/

/-- The bytes of a frame. -/
def Frame.bytes (f : Frame) : List U8 :=
  leBytes 8 (f.type % 16 + f.cls % 4 * 2 ^ 4 + (if f.bcast then 2 ^ 6 else 0) + f.dst % 2 ^ 18 * 2 ^ 8 + f.src % 2 ^ 18 * 2 ^ 26 + f.hops % 16 * 2 ^ 44
      + f.payload.length % 2 ^ 12 * 2 ^ 48)
    ++ leBytes 8 (f.jobKey.toNat + f.cseq % 2 ^ 24 * 2 ^ 32)
    ++ leBytes 8 (f.group % 2 ^ 16 + f.srcRank % 2 ^ 10 * 2 ^ 16 + f.phase % 4 * 2 ^ 26 + f.grain.toNat * 2 ^ 32)
    ++ leBytes 8 (f.offset % 2 ^ 48 + f.req % 2 ^ 16 * 2 ^ 48) ++ f.payload

/-- The frame that bytes spell; a nonzero reserved bit, or a LEN other than the bytes that follow the header, makes it unclean. -/
def parseFrame (bs : List U8) : Frame :=
  let w (i : Nat) : Nat := leNat ((bs.drop (8 * i)).take 8)
  let g (x lo n : Nat) : Nat := x / 2 ^ lo % 2 ^ n
  let w0 := w 0
  let w1 := w 1
  let w2 := w 2
  let w3 := w 3
  let payload := bs.drop 32
  { type := g w0 0 4, cls := g w0 4 2, bcast := decide (g w0 6 1 = 1), dst := g w0 8 18, src := g w0 26 18, hops := g w0 44 4
    jobKey := BitVec.ofNat 32 w1, cseq := g w1 32 24, group := g w2 0 16, srcRank := g w2 16 10, phase := g w2 26 2
    grain := BitVec.ofNat 32 (g w2 32 32), offset := g w3 0 48, req := g w3 48 16
    clean := decide (g w0 7 1 = 0) && decide (g w0 60 4 = 0) && decide (g w1 56 8 = 0) && decide (g w2 28 4 = 0)
      && decide (g w0 48 12 = payload.length) && decide (32 ≤ bs.length)
    payload := payload }

/-! ### Link units (R327 to R329, R344) -/

def unitEmpty : Nat := 0
def unitData : Nat := 1
def unitInit : Nat := 2

/-- Fields of a link word. -/
def LinkUnit.field (u : LinkUnit) (lo n : Nat) : Nat := u.word.toNat / 2 ^ lo % 2 ^ n

/-- The CRC-32C of an unencrypted unit. -/
def unitCrc (word : U64) (body : List U8) : U32 := crc32c (leBytes 8 word.toNat ++ body)

/-- The trailer of an unencrypted unit. -/
def plainTrailer (word : U64) (body : List U8) : List U8 := leBytes 4 (unitCrc word body).toNat ++ List.replicate 12 0

/-- The key of a phase as 32 bytes, word i at 4i (R345). -/
def Port.keyBytes (x : Port) (phase : Nat) : List U8 :=
  let k := x.keys.getD phase []
  (List.range 8).flatMap (fun i => leBytes 4 (k.getD i 0).toNat)

/-- The initial value for unit `count` of one side: the salt with the side in bit 0, and the count (R344). -/
def gcmIv (salt : U32) (high : Bool) (count : Nat) : List U8 :=
  leBytes 4 (salt.toNat / 2 * 2 + (if high then 1 else 0)) ++ leBytes 8 count

/-- Whether this module's side of a link is the one with the higher SELF_ID. -/
def State.highSide (s : State) (p : Nat) : Bool := decide ((s.port p).peerId < s.selfId)

def State.saltOf (s : State) (p : Nat) : U32 := s.reg (wwyPage p) 0x070

/-- The link word of a unit this port sends: LSEQ, ACK, NAK, key phase, encryption, kind and returned credits. -/
def Port.linkWord (x : Port) (lseq kind : Nat) (enc : Bool) : U64 :=
  let cr (c : Nat) : Nat := min 255 (x.owed.getD c 0)
  BitVec.ofNat 64 (lseq % 4096 + x.rxSeq % 4096 * 2 ^ 12 + (if x.nak then 2 ^ 24 else 0) + (if enc then x.keyPhase % 2 * 2 ^ 25 + 2 ^ 26 else 0)
    + kind * 2 ^ 28 + cr 0 * 2 ^ 32 + cr 1 * 2 ^ 40 + cr 2 * 2 ^ 48 + cr 3 * 2 ^ 56)

/-- What sending any unit settles: the acknowledgement, the NAK and the credits it has carried. -/
def Port.told (x : Port) : Port := { x with nak := false, unacked := 0, owed := x.owed.map (fun c => c - 255) }

/-- A unit with its trailer's first byte changed, to a value the spec does not name (R372). -/
def LinkUnit.corrupt (u : LinkUnit) (k : U32) : LinkUnit :=
  let d : U8 := if k.toNat % 256 = 0 then 1 else BitVec.ofNat 8 k.toNat
  match u.trailer with
  | b :: t => { u with trailer := (b ^^^ d) :: t }
  | [] => u

/-- One DATA unit sent (R327, R329, R344, R372). -/
def State.sendData (s : State) (p lseq : Nat) (f : Frame) : State :=
  let x := s.port p
  let word := x.linkWord lseq unitData x.enc
  let iv := gcmIv (s.saltOf p) (s.highSide p) x.sealedUnits
  let body := if x.enc then gcmCrypt (x.keyBytes x.keyPhase) iv f.bytes else f.bytes
  let trailer := if x.enc then gcmTag (x.keyBytes x.keyPhase) iv (leBytes 8 word.toNat) body else plainTrailer word body
  let u : LinkUnit := ⟨word, body, trailer, 0, 0⟩
  let s1 := s.setPort p { x.told with sealedUnits := if x.enc then x.sealedUnits + 1 else x.sealedUnits }
  if s1.armed (wwyPage p) 0 then
    ((s1.disarm (wwyPage p) 0).draw).emit (.unit p (u.corrupt (Config.freeCount s.free)))
  else s1.emit (.unit p u)

/-- An EMPTY unit sent (R328). -/
def State.sendEmpty (s : State) (p : Nat) : State :=
  let x := s.port p
  let word := x.linkWord 0 unitEmpty false
  (s.setPort p x.told).emit (.unit p ⟨word, [], plainTrailer word [], 0, 0⟩)

/-! ### Training (R326, R328, R330) -/

/-- A port of an up base die in Run or Hold. -/
def State.portLive (s : State) (p : Nat) : Bool := s.baseUp (p / 4) && (decide (s.pwr.st = .run) || decide (s.pwr.st = .hold))

def State.trainStep (s : State) (p : Nat) : Nat := (s.port p).train

/-- The 32-byte INIT record this port sends (R328, R335). -/
def State.initRecord (s : State) (p : Nat) : List U8 :=
  let twin := s.isTwinPort p
  leBytes 4 s.selfId ++ leBytes 1 p ++ leBytes 1 ((if (s.port p).encReq then 1 else 0) + (if twin then 2 else 0)) ++ leBytes 2 0
    ++ leBytes 2 128 ++ leBytes 2 4096 ++ leBytes 2 2048 ++ leBytes 2 1024
    ++ leBytes 4 (if twin then s.twinPartner else 0) ++ List.replicate 12 0

/-- PORT_SIGNAL_DETECT (R326 step 1). -/
def execPortSignalDetect (p : Fin 12) (s : State) : Res :=
  .next (if s.portLive p.val && decide (s.trainStep p.val = 1) then s.setPort p.val { s.port p.val with train := 2, signal := true } else s)

/-- LINK_TRAINING_DONE (R326 step 2). -/
def execLinkTrainingDone (p : Fin 12) (s : State) : Res :=
  .next (if s.portLive p.val && decide (s.trainStep p.val = 2) then s.setPort p.val { s.port p.val with train := 3 } else s)

/-- FEC_LOCK (R326 step 3): the INIT exchange begins, with ENC_REQ as it now stands. -/
def execFecLock (p : Fin 12) (s : State) : Res :=
  .next (
    if s.portLive p.val && decide (s.trainStep p.val = 3) then
      s.setPort p.val { s.port p.val with train := 4, peerInit := none, initSent := false, encReq := decide (s.field (wwyPage p.val) 0x044 1 1 = 1) }
    else s)

/-- LINK_TRAIN_RETRY (R326): a failed step returns the port to step 2; a port that R330 holds at step 4 stays there. -/
def execLinkTrainRetry (p : Fin 12) (s : State) : Res :=
  let x := s.port p.val
  .next (
    if s.portLive p.val && (decide (x.train = 2) || decide (x.train = 3) || (decide (x.train = 4) && x.peerInit.isNone)) then
      s.setPort p.val { x with train := 2, peerInit := none, initSent := false }
    else s)

/-- INIT_SEND_TIMER (R326 step 4, R328). -/
def execInitSendTimer (p : Fin 12) (s : State) : Res :=
  let x := s.port p.val
  let word := x.linkWord 0 unitInit false
  let body := s.initRecord p.val
  .next (
    if s.portLive p.val && decide (x.train = 4) then
      ((s.setPort p.val { x with initSent := true }).emit (.unit p.val ⟨word, body, plainTrailer word body, 0, 0⟩)).tryUp p.val
    else s)

/-- FEC codewords of a received unit counted (R371). -/
def State.countFec (s : State) (p : Nat) (u : LinkUnit) : State :=
  (s.countSat (wwyPage p) 0x054 u.fecCorr).countSat (wwyPage p) 0x058 u.fecUncorr

/-- An unencrypted unit whose CRC holds and whose codewords were all correctable. -/
def LinkUnit.sound (u : LinkUnit) : Bool := decide (u.fecUncorr = 0) && decide (u.trailer = plainTrailer u.word u.body) && decide (u.field 26 1 = 0)

/-- INIT_UNIT_RECEIVED (R326 step 4, R330). -/
def execInitUnitReceived (p : Fin 12) (u : LinkUnit) (s : State) : Res :=
  let x := s.port p.val
  .next (
    if s.portLive p.val && decide (u.field 28 4 = unitInit) then
      let s1 := s.countFec p.val u
      if u.sound && decide (x.train = 4) && decide (u.body.length = 32) then (s1.setPort p.val { s1.port p.val with peerInit := some u.body }).tryUp p.val else s1
    else s)

/-! ### Acknowledgement and replay (R342) -/

/-- A replay of every unacknowledged unit begins; where sixteen have brought no progress, the link goes down. -/
def State.startReplay (s : State) (p : Nat) : State :=
  let x := s.port p
  if x.replay.isEmpty then s
  else if 16 ≤ x.replays then (s.raise (wwyPage p) 1).loseLink p 2
  else (s.setPort p { x with resend := x.replay.length, replays := x.replays + 1 }).countSat (wwyPage p) 0x050

/-- The units up to an ACK leave the replay buffer. -/
def Port.acked (x : Port) (a : Nat) : Port :=
  if x.replay.any (fun k => decide (k.lseq = a)) then
    let rest := (x.replay.dropWhile (fun k => !decide (k.lseq = a))).drop 1
    { x with replay := rest, resend := min x.resend rest.length, replays := 0 }
  else x

/-- What every sound unit brings: ACK, returned credits, and NAK (R327, R341, R342). -/
def State.takeWord (s : State) (p : Nat) (u : LinkUnit) : State :=
  let x := (s.port p).acked (u.field 12 12)
  let x1 := { x with credits := (List.range 4).map (fun c => x.credits.getD c 0 + u.field (32 + 8 * c) 8) }
  let s1 := s.setPort p x1
  if u.field 24 1 = 1 then s1.startReplay p else s1

/-- A unit received with an error: NAK (R342). -/
def State.nakUnit (s : State) (p : Nat) : State := s.setPort p { s.port p with nak := true }

/-- A DATA unit opened: its frame's bytes, or none where a check fails, and whether the tag was what failed (R329, R344). -/
def State.openUnit (s : State) (p : Nat) (u : LinkUnit) : Option (List U8) × Bool :=
  let x := s.port p
  if u.fecUncorr ≠ 0 then (none, false)
  else if x.enc then
    let phase := u.field 25 1
    let iv := gcmIv (s.saltOf p) (!s.highSide p) (if phase = x.rxPhase then x.rxUnits else 0)
    if u.field 26 1 = 1 ∧ u.trailer = gcmTag (x.keyBytes phase) iv (leBytes 8 u.word.toNat) u.body then (some (gcmCrypt (x.keyBytes phase) iv u.body), false)
    else (none, true)
  else if u.sound then (some u.body, false)
  else (none, false)

/-- The count of the peer's sealed units after one more. -/
def Port.countSealed (x : Port) (u : LinkUnit) : Port :=
  if x.enc then
    let phase := u.field 25 1
    { x with rxPhase := phase, rxUnits := if phase = x.rxPhase then x.rxUnits + 1 else 1 }
  else x

/-- A frame accepted in order: into the receive buffer, or dropped and its credits owed (R333, R341). -/
def State.acceptFrame (s : State) (p lseq : Nat) (f : Frame) : State :=
  let x := s.port p
  let y := { x with rxSeq := lseq, nak := false, unacked := x.unacked + 1 }
  let s1 :=
    if f.wellFormed then s.setPort p { y with rxBuf := y.rxBuf ++ [f] }
    else (s.setPort p { y with owed := y.owed.set f.cls (y.owed.getD f.cls 0 + f.credits) }).countDrop p
  if 64 ≤ x.unacked + 1 then s1.sendEmpty p else s1

/-- DATA_UNIT_RECEIVED (R342, R344). -/
def execDataUnitReceived (p : Fin 12) (u : LinkUnit) (s : State) : Res :=
  .next (
    if s.portUp p.val && decide (u.field 28 4 = unitData) then
      let r := s.openUnit p.val u
      let s0 := s.countFec p.val u
      let s1 := s0.setPort p.val ((s0.port p.val).countSealed u)
      match r.1 with
      | none => if r.2 then ((s1.countSat (wwyPage p.val) 0x064).raise (wwyPage p.val) 3).nakUnit p.val else s1.nakUnit p.val
      | some bs =>
        let s2 := s1.takeWord p.val u
        let x := s2.port p.val
        if x.up ∧ u.field 0 12 = (x.rxSeq + 1) % 4096 then s2.acceptFrame p.val (u.field 0 12) (parseFrame bs) else s2
    else s)

/-- EMPTY_UNIT_RECEIVED (R328, R342). -/
def execEmptyUnitReceived (p : Fin 12) (u : LinkUnit) (s : State) : Res :=
  .next (
    if s.portUp p.val && decide (u.field 28 4 = unitEmpty) then
      let s1 := s.countFec p.val u
      if u.sound && u.body.isEmpty then s1.takeWord p.val u else s1.nakUnit p.val
    else s)

/-- REPLAY_TIMEOUT (R342). -/
def execReplayTimeout (p : Fin 12) (s : State) : Res := .next (if s.portUp p.val then s.startReplay p.val else s)

/-- ACK_SEND_TIMER (R342). -/
def execAckSendTimer (p : Fin 12) (s : State) : Res := .next (if s.portUp p.val then s.sendEmpty p.val else s)

/-! ### Egress (R337, R341) -/

/-- The oldest frame of a class, if the port holds its credits. -/
def Port.ready (x : Port) (c : Nat) : Option Frame :=
  match x.queue.find? (fun f => decide (f.cls = c)) with
  | some f => if f.credits ≤ x.credits.getD c 0 then some f else none
  | none => none

/-- A collective frame of the module's own that may not leave, since the job lacks quorum (R386). -/
def State.heldBack (s : State) (f : Frame) : Bool :=
  decide (f.src = s.selfId) && (decide (f.type = ftCollReady) || decide (f.type = ftCollData))
    && (match s.jobOfKey f.jobKey with | some j => s.quorumLost j | none => false)

/-- A port with the frames of its queue that may leave. -/
def State.sendable (s : State) (p : Nat) : Port := { s.port p with queue := (s.port p).queue.filter (fun f => !s.heldBack f) }

/-- Classes 1 and 2 by weighted round-robin, a round beginning with class 1. -/
def State.pickWeighted (s : State) (p : Nat) : Option (Frame × Port) :=
  let x := s.sendable p
  let w1 := max 1 (s.field (wwyPage p) 0x04C 0 4)
  let w2 := max 1 (s.field (wwyPage p) 0x04C 4 4)
  match x.ready 1, x.ready 2 with
  | some f, none => some (f, x)
  | none, some g => some (g, x)
  | some f, some g =>
    if 0 < x.wrr1 then some (f, { x with wrr1 := x.wrr1 - 1 })
    else if 0 < x.wrr2 then some (g, { x with wrr2 := x.wrr2 - 1 })
    else some (f, { x with wrr1 := w1 - 1, wrr2 := w2 })
  | none, none => none

/-- The frame R337 sends next, of those that may leave. -/
def State.pickFrame (s : State) (p : Nat) : Option (Frame × Port) :=
  let x := s.sendable p
  match x.ready 0 with
  | some f => some (f, x)
  | none =>
    match s.pickWeighted p with
    | some r => some r
    | none => (x.ready 3).map (fun f => (f, x))

/-- Bytes a DATA unit takes in the replay buffer. -/
def Frame.unitBytes (f : Frame) : Nat := 8 + 32 + f.payload.length + 16

/-- Whether the replay buffer has room: 256 KiB and 2,048 units (R342). -/
def Port.room (x : Port) (f : Frame) : Bool :=
  decide (x.replay.length < 2048) && decide (x.replay.foldl (fun t k => t + k.frame.unitBytes) 0 + f.unitBytes ≤ 0x40000)

/-- UNIT_SEND (R337, R341, R342): a replayed unit ahead of all others. -/
def execUnitSend (p : Fin 12) (s : State) : Res :=
  let x := s.port p.val
  .next (
    if !s.portUp p.val then s
    else if 0 < x.resend then
      match x.replay[x.replay.length - x.resend]? with
      | some k => (s.setPort p.val { x with resend := x.resend - 1 }).sendData p.val k.lseq k.frame
      | none => s.setPort p.val { x with resend := 0 }
    else
      match s.pickFrame p.val with
      | some (f, y) =>
        if y.room f then
          let z := { y with
            queue := x.queue.erase f, replay := y.replay ++ [⟨y.txSeq, f⟩], txSeq := (y.txSeq + 1) % 4096
            credits := y.credits.set f.cls (y.credits.getD f.cls 0 - f.credits) }
          (s.setPort p.val z).sendData p.val y.txSeq f
        else s
      | none => s)

/-! ### Links down, and the port registers (R343, R345, R371, R372) -/

/-- LINK_DOWN (R343). -/
def execLinkDown (p : Fin 12) (s : State) : Res := .next (if (s.port p.val).up then s.loseLink p.val 0 else s)

/-- Whether a host write reaches a page of base die `b`. -/
def State.writesBase (s : State) (b : Nat) : Bool := s.hostReach && s.baseUp b

/-- The port back at step 2. -/
def State.retrain (s : State) (p : Nat) : State :=
  let s1 := if (s.port p).up then s.loseLink p 3 else s
  if (s1.port p).train = 0 then s1 else s1.setPort p { (s1.port p).downed with train := 2 }

/-- PORT_RETRAIN (R371). -/
def execPortRetrain (p : Fin 12) (s : State) : Res := .next (if s.writesBase (p.val / 4) then s.retrain p.val else s)

/-- PORT_ENABLE_WRITE (R326, R371): a write of WWY_CTRL. -/
def execPortEnableWrite (p : Fin 12) (v : U32) (s : State) : Res :=
  .next (
    if s.writesBase (p.val / 4) then
      let s1 := s.setBits (wwyPage p.val) 0x044 v 0xF
      let s2 :=
        if v.toNat.testBit 0 then (if (s1.port p.val).train = 0 then s1.setPort p.val { s1.port p.val with train := 1 } else s1)
        else
          let t := if (s1.port p.val).up then s1.loseLink p.val 4 else s1
          t.setPort p.val { (t.port p.val).downed with train := 0, signal := false }
      if v.toNat.testBit 4 then s2.retrain p.val else s2
    else s)

/-- KEY_PHASE_SWITCH (R345). -/
def execKeyPhaseSwitch (p : Fin 12) (s : State) : Res :=
  .next (if s.writesBase (p.val / 4) then s.setPort p.val { s.port p.val with keyPhase := 1 - (s.port p.val).keyPhase, sealedUnits := 0 } else s)

/-- KEY_NEXT_WRITE (R345): a word of the key of the phase not in use. -/
def execKeyNextWrite (p : Fin 12) (i : Fin 8) (v : U32) (s : State) : Res :=
  let x := s.port p.val
  let other := 1 - x.keyPhase
  let old := x.keys.getD other []
  .next (
    if s.writesBase (p.val / 4) then
      s.setPort p.val { x with keys := x.keys.set other ((List.range 8).map (fun k => if k = i.val then v else old.getD k 0)) }
    else s)

/-- SELF_ID_WRITE (R11, R373): write-once; SET shows that it has been written. -/
def execSelfIdWrite (v : U32) (s : State) : Res :=
  .next (
    if s.hostReach && decide (s.field .wwyMod 0x040 31 1 = 0) then s.setReg .wwyMod 0x040 ((v &&& 0x3FFFF) ||| 0x80000000) else s)

/-- ROUTE_WRITE (R346, R373): the entry WWY_RT_SEL names. -/
def execRouteWrite (v : U32) (s : State) : Res :=
  .next (if s.hostReach then { s with route := SMap.set routeDefault s.route (s.field .wwyMod 0x044 0 18) (v &&& 0xFF) } else s)

/-- Whether a key table write is refused: a VALID job holds the slot, or another slot holds the key (R373). A key of 0 is no key. -/
def State.keytabRefused (s : State) (slot : Nat) (v : U32) : Bool :=
  s.jobs.any (fun p => p.2.valid && decide (p.2.keySlot = slot)) || (decide (v ≠ 0) && s.keytab.any (fun p => decide (p.1 ≠ slot) && decide (p.2 = v)))

/-- KEYTAB_WRITE (R373). A job made VALID with key slot 0 and no other setting holds slot 0. -/
def execKeytabWrite (v : U32) (s : State) : Res :=
  let slot := s.field .wwyMod 0x04C 0 8
  .next (
    if s.hostReach then
      if s.keytabRefused slot v then s.raise .wwyMod 0 else ({ s with keytab := SMap.set wordDefault s.keytab slot v }).checkTwinKey
    else s)

/-- INJECT_CRC_ONE (R372). -/
def execInjectCrcOne (p : Fin 12) (s : State) : Res := .next (if s.writesBase (p.val / 4) then s.arm (wwyPage p.val) 0 else s)

end Sys2Proof.Machine
end

