-- ==== Sys2Proof/Machine/Service.lean ====
section
/-! DEFINITION. The operations of the service port apart from firmware and reset (R478, R500, R530 to R532). -/

namespace Sys2Proof.Machine

/-- A 32-bit word as bytes. -/
def wordBytes (v : U32) : List U8 := leBytes 4 v.toNat

/-- INFO (R532): model, serial, TOL_STATUS, TOL_DIES, TOL_LINKS and the versions of the running slot's manifest. -/
def State.infoPayload (s : State) : List U8 :=
  wordBytes fwModel ++ leBytes 8 Config.serial.toNat ++ wordBytes s.tolStatus ++ wordBytes s.tolDies ++ wordBytes s.tolLinks
    ++ (s.flash.slot s.start.slot).manifest.flatMap (fun (e : FwEntry) => wordBytes e.partVersion)

/-- SVC INFO. -/
def execSvcInfo (q : SvcReq) (s : State) : Res := .next (s.serve q 0x01 roleRead true (fun s => s.reply q 0x01 S_OK s.infoPayload))

/-- SVC LOG_READ: up to 64 records from a SEQ (R532). -/
def execSvcLogRead (q : SvcReq) (seq : U32) (count : Nat) (s : State) : Res :=
  .next (s.serve q 0x02 roleRead true (fun s => s.reply q 0x02 S_OK ((s.logFrom seq (min count 64)).flatMap ErrRec.bytes)))

/-- SVC SETTING_GET: the body of the valid copy of a type; nothing where none is valid (R532). -/
def execSvcSettingGet (q : SvcReq) (type : Nat) (s : State) : Res :=
  .next (s.serve q 0x03 roleRead false (fun s =>
    match s.flash.setting type with
    | some c => s.reply q 0x03 S_OK (Config.settingBytes type c.body.code)
    | none => s.reply q 0x03 S_OK []))

/-- The registers that operating defaults may name (R520 type 8). -/
def defaultRegs : List Nat := [0x1044, 0x1048, 0x3054, 0x7040, 0x7044]

/-- Whether a body has the form of its type (R520), and for anchors leaves one with SECURITY (R530). -/
def settingFits (type : Nat) : SettingBody → Bool
  | .anchors l => decide (type = 6) && decide (l.length ≤ 4) && l.all (fun a => decide (a.caHash.length = 32) && decide (a.roles < 16))
      && l.any (fun a => a.roles.testBit roleSecurity)
  | .network _ => decide (type = 7)
  | .defaults r w => decide (type = 8) && r.all (fun p => defaultRegs.contains p.1) && w.all (fun p => decide (p.1 < 24))
  | _ => false

/-- SVC SETTING_SET (R521, R530, R532): types 1 to 5 are not writable, type 6 needs SECURITY, types 7 and 8 OPERATE. -/
def execSvcSettingSet (q : SvcReq) (type : Nat) (body : Option SettingBody) (s : State) : Res :=
  .next (s.serve q 0x04 (if type = 6 then roleSecurity else roleOperate) false (fun s =>
    if type < 6 ∨ 8 < type then s.reply q 0x04 S_SVC_DENIED []
    else match body with
      | some b => if settingFits type b then ({ s with flash := s.flash.writeSetting type b }).reply q 0x04 S_OK [] else s.reply q 0x04 S_SET_BAD []
      | none => s.reply q 0x04 S_SET_BAD []))

/-- SVC SETPOINT (R487, R532). DESIGN CHOICE (log entry 41): with the source disabled it is answered S_SVC_DENIED. -/
def execSvcSetpoint (q : SvcReq) (w : U16) (s : State) : Res :=
  .next (s.serve q 0x05 roleOperate false (fun s =>
    if s.sourceOn .service then (s.acceptSetpoint .service w.toNat).reply q 0x05 S_OK [] else s.reply q 0x05 S_SVC_DENIED []))

/-- A power state of its code. -/
def pstateOf (c : Fin 4) : PState := if c.val = 0 then .run else if c.val = 1 then .hold else if c.val = 2 then .breath else .off

/-- SVC POWER (R500, R532): the request's code is the reply's. -/
def execSvcPower (q : SvcReq) (state : Fin 4) (s : State) : Res :=
  .next (s.serve q 0x06 roleOperate false (fun s =>
    let s1 := s.requestPower (pstateOf state)
    s1.reply q 0x06 (BitVec.ofNat 16 (s1.reg .pwr 0x048).toNat) []))

/-- SVC REG_READ: up to 256 consecutive BAR0 registers (R532), read as the session's own requester (R590); at a misaligned offset every one reads 0 (R12). -/
def execSvcRegRead (q : SvcReq) (off : BitVec 26) (count : Nat) (s : State) : Res :=
  .next (s.serve q 0x07 roleRead false (fun s =>
    let r := s.barReads (.svc q.session) off.toNat (min count 256)
    r.1.reply q 0x07 S_OK (r.2.flatMap wordBytes)))

/-- SVC DIE_TEST (R478, R532): a die enters stand-alone test mode only while it is down or before module-ready. DESIGN CHOICE (log entry 41): otherwise the answer is S_SVC_DENIED. -/
def execSvcDieTest (q : SvcReq) (d : Die) (s : State) : Res :=
  .next (s.serve q 0x21 roleOperate false (fun s =>
    if ((s.die d.num).up || (s.die d.num).asleep) && s.start.ready then s.reply q 0x21 S_SVC_DENIED []
    else (s.updDie d.num (fun x => { x with test := true })).reply q 0x21 S_OK []))

end Sys2Proof.Machine
end

