-- ==== Sys2Proof/Machine/Mctp.lean ====
section
/-! DEFINITION. The MCTP messages of the SMBus target (R604), answered in every power state. -/

namespace Sys2Proof.Machine

/-- The samples READ_SENSORS returns (R604): the latest in Run, those of the last cycle in Breath, fresh ones in Off with die temperatures not available. -/
def State.sensorSamples (s : State) (fresh : List U16) : List U16 :=
  match s.pwr.st with
  | .breath => s.pwr.brtLast
  | .off => (List.range 24).map (fun i => if i < 15 then 0x8000 else fresh.getD i 0)
  | _ => (List.range 24).map (fun i => fresh.getD i 0)

/-- A reply while Tolium runs. -/
def State.mctp (s : State) (payload : List U8) : State := if s.start.powered then s.emit (.mctp payload) else s

/-- MCTP_READ_SENSORS. -/
def execMctpReadSensors (samples : List U16) (s : State) : Res :=
  .next (s.mctp ((s.sensorSamples samples).flatMap (fun (v : U16) => leBytes 2 v.toNat)
    ++ leBytes 2 s.pwr.cap ++ leBytes 1 s.pwr.st.code ++ leBytes 1 s.thermBits))

/-- MCTP_READ_LOG: one to four records; a COUNT outside that range, of which the spec says nothing, is taken as the nearer end (DESIGN CHOICE, log entry 43). -/
def execMctpReadLog (seq : U32) (count : Nat) (s : State) : Res :=
  let l := s.logFrom seq (max 1 (min count 4))
  .next (s.mctp (leBytes 1 l.length ++ l.flatMap ErrRec.bytes))

/-- MCTP_READ_STATUS. -/
def execMctpReadStatus (s : State) : Res := .next (s.mctp (wordBytes s.tolStatus ++ wordBytes s.tolDies ++ wordBytes s.tolLinks))

/-- MCTP_CONTROL_MESSAGE: answered as the MCTP base specification has it. -/
def execMctpControlMessage (cmd : U8) (s : State) : Res := .next (s.mctp (Config.mctpControl cmd))

end Sys2Proof.Machine
end

