-- ==== Sys2Proof/Machine/Quorum.lean ====
section
/-! DEFINITION. Seats, heartbeats and quorum (R378 to R390, R397), and SWELL frames (R351). -/

namespace Sys2Proof.Machine

/-! ### SWELL frames (R351) -/

/-- Whether an endpoint is an accepted SWELL source (R373). -/
def State.swellSource (s : State) (src : Nat) : Bool :=
  (List.range 4).any (fun i => decide (s.field .wwyMod (0x054 + 4 * i) 31 1 = 1) && decide (s.field .wwyMod (0x054 + 4 * i) 0 18 = src))

/-- The tests of R351. -/
def State.swellOk (s : State) (f : Frame) : Bool :=
  let epoch : U32 := BitVec.ofNat 32 (f.field 0 4)
  s.sourceOn .frame && s.swellSource f.src && decide (f.jobKey = 0)
    && (match s.pwr.epoch with | some e => aheadOf epoch e | none => true)

/-- SWELL_FRAME (R351, R487). -/
def execSwellFrame (p : Fin 12) (s : State) : Res :=
  .next (s.onFrame p.val ftSwell (fun t q f =>
    if t.swellOk f then
      ({ t with pwr := { t.pwr with epoch := some (BitVec.ofNat 32 (f.field 0 4)) } }).acceptSetpoint .frame (f.field 4 2)
    else (t.countDrop q).raise .wwyMod 1))

/-! ### Heartbeats (R381 to R384) -/

/-- One slot's HEARTBEAT, and the job's CLEAN again with it (R381, R424). -/
def State.sendHeartbeat (s : State) (i : Nat) : State :=
  let x := s.slot i
  if x.valid then
    let payload := leBytes 8 (s.job x.job).lastStep ++ leBytes 2 x.self ++ leBytes 2 0 ++ leBytes 4 x.hbSeq.toNat
    let s1 := s.broadcast (s.ownBroadcast x.job ftHeartbeat payload)
    (s1.setSlot i { s1.slot i with hbSeq := x.hbSeq + 1 }).sendClean x.job
  else s

/-- HEARTBEAT_SEND (R381): base die 1's period has passed. -/
def execHeartbeatSend (s : State) : Res :=
  .next (if s.baseUp 1 && (decide (s.pwr.st = .run) || decide (s.pwr.st = .hold)) then s.forEach (List.range 8) (fun t i => t.sendHeartbeat i) else s)

/-- HEARTBEAT_FRAME (R382, R383): counted for its seat, or dropped and counted. -/
def execHeartbeatFrame (p : Fin 12) (s : State) : Res :=
  .next (s.onFrame p.val ftHeartbeat (fun t _ f =>
    let seat := f.field 8 2
    match t.seatFrame f seat with
    | some i =>
      let x := t.slot i
      (t.setSlot i { x with dead := x.dead.filter (fun d => !decide (d = seat)), steps := putKey x.steps seat (BitVec.ofNat 48 (f.field 0 6)) }).checkQuorum i
    | none => t.countSat .stmQrm 0x080))

/-- SEAT_LIVENESS_EXPIRY (R383, R385, R389): the module's own seat is always live. -/
def execSeatLivenessExpiry (i : Fin 8) (seat : Nat) (s : State) : Res :=
  let x := s.slot i.val
  .next (
    if x.valid ∧ seat < x.count ∧ seat ≠ x.self ∧ x.dead.contains seat = false then
      let s1 := s.setSlot i.val { x with dead := putSorted seat x.dead }
      let s2 := if s1.twinOn ∧ s1.twinJob = x.job ∧ x.endpoint seat = some s1.twinPartner then s1.stopTwin else s1
      s2.checkQuorum i.val
    else s)

/-! ### Seat lists (R379, R380, R397) -/

/-- SEAT_LIST_LOAD (R380, R397): a write of STM_QRM_LOAD; its GO bit, written 1, starts the load, which is ignored while one is in progress. -/
def execSeatListLoad (v : U32) (s : State) : Res :=
  .next (
    if s.hostReach then
      let s1 := s.setBits .stmQrm 0x050 v 0x1FFFFFF
      if !v.getLsbD 31 || s1.seatLoad.isSome then s1
      else { s1 with seatLoad := some ⟨fieldOf v 0 8, fieldOf v 8 17, s.pair .stmQrm 0x048 % 0x1000000000000⟩ }
    else s)

/-- The words of a seat list image. -/
def State.seatWords (s : State) (l : Load) : List Nat := (List.range l.count).map (fun i => leNat (s.mem.read (l.addr + 4 * i) 4))

/-- Whether an image range lies in a visible HBM range of an up base die, at a multiple of 64 (R294, R355, R379). -/
def State.imageOk (s : State) (a n : Nat) : Bool :=
  decide (a % 64 = 0) && decide (a < 0x1000000000000) && (decide (n = 0) || ((hbmStack a).isSome && decide (hbmStack a = hbmStack (a + n - 1)))) && !s.memDown a

/-- Cases 1 and 2 of R380, in order. DESIGN CHOICE (log entry 30): an image of which memory does not deliver a line (`lost`, R215) is refused like one with an entry out of range. -/
def State.seatRefusal (s : State) (l : Load) (lost : Bool) : Option U16 :=
  let x := s.job l.job
  let ws := s.seatWords l
  if s.jobBusy l.job then some S_SEAT_BUSY
  else if !x.valid || x.descant || decide (s.jobKey l.job = 0) || decide (l.count = 0) || decide (65536 < l.count) then some S_SEAT_BAD
  else if !s.imageOk l.addr (4 * l.count) || lost || ws.any (fun w => decide (0x40000 ≤ w)) || decide (ws.dedup.length ≠ ws.length) || !ws.contains s.selfId then some S_SEAT_BAD
  else none

/-- The slot a load uses: the job's own, or the lowest free one. -/
def State.slotFor (s : State) (j : Nat) : Option Nat :=
  match s.slotOf j with
  | some i => some i
  | none => (List.range 8).find? (fun i => !(s.slot i).valid)

/-- STM_QRM_RESULT after a load: its code, and for an accepted one its slot. -/
def State.seatResult (s : State) (code : U16) (slot : Option Nat) : State :=
  let s1 := s.setBits .stmQrm 0x054 (code.zeroExtend 32) 0xFFFF
  match slot with
  | some i => s1.setBits .stmQrm 0x054 (BitVec.ofNat 32 (i * 0x10000)) 0x70000
  | none => s1.raise .stmQrm 0

/-- SEAT_LIST_LOAD_DONE (R380, R425): the list replaced as one act with every seat live and every token discarded, or refused with the first case that applies. -/
def execSeatListLoadDone (s : State) : Res :=
  .next (
    match s.seatLoad with
    | none => s
    | some l =>
      let e := if s.imageOk l.addr (4 * l.count) && !s.jobBusy l.job then s.eccRead l.addr (4 * l.count) else (s, none)
      let s1 := { e.1 with seatLoad := none }
      match s.seatRefusal l e.2.isSome with
      | some c => s1.seatResult c none
      | none =>
        match s.slotFor l.job with
        | none => s1.seatResult S_SEAT_FULL none
        | some i =>
          let ws := s.seatWords l
          let x := s.slot i
          (s1.setSlot i { x with
            valid := true, job := l.job, seats := ws, self := ws.findIdx (fun w => decide (w = s.selfId)), dead := [], steps := []
            tokens := [], retractIds := [], hbSeq := 0, quorum := true }).seatResult S_OK (some i))

/-! ### Freezing and after (R385 to R388, R397) -/

/-- STREAM_FREEZE (R385): a RUNNING stream of a job without quorum whose running firings have ended. -/
def execStreamFreeze (n : Fin 16384) (s : State) : Res :=
  let x := s.stream n.val
  .next (if x.st = .running ∧ s.quorumLost x.job ∧ s.drained n.val then s.updRec n.val (fun y => { y with st := .frozen, stalled := false }) else s)

/-- The slot STM_QRM_SEL selects. -/
def State.selSlot (s : State) : Nat := s.field .stmQrm 0x040 0 3

/-- FROZEN streams of a job. -/
def State.frozenOf (s : State) (j : Nat) : List Nat := (s.streamsOf j).filter (fun n => decide ((s.stream n).st = .frozen))

/-- QUORUM_RESUME (R387): acts only while QUORUM is 1. -/
def execQuorumResume (s : State) : Res :=
  let x := s.slot s.selSlot
  .next (
    if s.hostReach then
      if x.valid ∧ x.quorum then s.forEach (s.frozenOf x.job) (fun t n => t.updRec n (fun y => { y with st := .running }))
      else s.raise .stmQrm 2
    else s)

/-- QUORUM_REFUSE (R388). -/
def execQuorumRefuse (s : State) : Res :=
  let x := s.slot s.selSlot
  .next (
    if s.hostReach ∧ x.valid then s.forEach (s.frozenOf x.job) (fun t n => t.failStream n S_REJOIN_REFUSED unitNone) else s)

/-- SEAT_SLOT_UNLOAD (R397): refused in the busy case. -/
def execSeatSlotUnload (s : State) : Res :=
  let x := s.slot s.selSlot
  .next (
    if s.hostReach ∧ x.valid then
      if s.jobBusy x.job then s.raise .stmQrm 0 else (s.setSlot s.selSlot x.freed).checkHorizon x.job
    else s)

end Sys2Proof.Machine
end

