-- ==== Sys2Proof/Machine/Startup.lean ====
section
/-! DEFINITION. POWER_ON (R515) and the module reset of the service port (R545). -/

namespace Sys2Proof.Machine

/-- POWER_ON (R515 to R517): the whole start sequence, as far as the surroundings let it come; without power-good Tolium stays unpowered, and a module already powered is not started again. -/
def execPowerOn (r : StartReport) (s : State) : Res :=
  .next (
    if s.start.powered || !r.powerGood then s
    else (({ s.coldStart with log := [], logHead := 0, sessions := [], start := { StartSt.reset with powered := true } }).startFrom3 r).alertFrom s)

/-- SVC_RESET (R545): refused while busy unless FORCE is set; the dies send their notices (R463), and the module restarts at step 3 and keeps the error records. -/
def execSvcReset (q : SvcReq) (r : StartReport) (s : State) : Res :=
  .next (s.serve q 0x20 roleOperate true (fun s =>
    if s.powerBusy && !q.force then s.reply q 0x20 S_FW_BUSY []
    else
      let s1 := s.reply q 0x20 S_OK []
      let s2 := s1.forEach ((List.finRange 3).map Die.base ++ (List.finRange 12).map Die.compute) (fun t d => if (t.die d.num).up then t.noticeReset d else t)
      (({ s2.coldStart with sessions := [] }).startFrom3 r).alertFrom s))

end Sys2Proof.Machine
end

