-- ==== Sys2Proof/Machine/Streams.lean ====
section
/-! DEFINITION. The commands of BAR2 (R41 to R47, R56 to R59, R609), the writes it drops (R43), the end of an abort (R59) and the stall mark (R55). -/

namespace Sys2Proof.Machine

/-- A command word reaches the module (R46, R609). Those that arrive during a start, before module-ready, are ordered in the start itself (`State.bringUp`, R516). -/
def State.command (s : State) (n op : Nat) (body : BitVec 60) : State :=
  if s.hostReach then s.ordered n op body else s

/-! ### The commands -/

/-- OPEN (R41, R47, R609). -/
def execOpenStream (n : Fin 16384) (body : BitVec 60) (s : State) : Res := .next (s.command n.val opOpen body)
/-- RING (R41, R42, R45, R609). -/
def execRing (n : Fin 16384) (body : BitVec 60) (s : State) : Res := .next (s.command n.val opRing body)
/-- ABORT (R56 to R59, R609). -/
def execAbort (n : Fin 16384) (body : BitVec 60) (s : State) : Res := .next (s.command n.val opAbort body)
/-- CLOSE (R41, R609). -/
def execClose (n : Fin 16384) (body : BitVec 60) (s : State) : Res := .next (s.command n.val opClose body)

/-- BAD_COMMAND (R44): any command word, by its OP. -/
def execBadCommand (n : Fin 16384) (word : U64) (s : State) : Res :=
  .next (s.command n.val (word.toNat / 2 ^ 60) (BitVec.ofNat 60 word.toNat))

/-- BAR2_DROPPED_WRITE (R43, R71, R588): any write but an aligned 8-byte one at a record's offset 0. -/
def execBar2DroppedWrite (off : BitVec 20) (size : Nat) (s : State) : Res :=
  .next (
    if s.hostReach && !(decide (size = 8) && decide (off.toNat % 64 = 0)) then (s.countSat .stmJob 0x050).raise .stmJob 2 else s)

/-- ABORT_DRAIN_DONE (R59, R60). -/
def execAbortDrainDone (n : Fin 16384) (s : State) : Res := .next (s.drainDone n.val)

/-- STALL_TIMEOUT (R55): the home manager's interval has passed without a completed firing; 0 disables it (R73). -/
def execStallTimeout (n : Fin 16384) (s : State) : Res :=
  let x := s.stream n.val
  .next (
    if x.st = .running ∧ x.stalled = false ∧ s.field (stmPage x.home) 0x040 0 16 ≠ 0 then
      s.updRec n.val (fun y => { y with stalled := true })
    else s)

/-! ### The record (R49, R50) -/

/-- The 64 bytes of a status record (R49). DISCARDED has three bits and shows the number modulo 8 where more submissions were discarded (DESIGN CHOICE, log entry 2). -/
def Stream.record (x : Stream) : List U8 :=
  leBytes 4 (x.st.code + x.home * 16 + (if x.descant then 64 else 0) + (if x.stalled then 128 else 0) + x.job % 256 * 256 + x.seq.toNat * 65536)
    ++ leBytes 2 x.endStatus.toNat ++ leBytes 2 x.cmdResult.toNat
    ++ leBytes 4 (x.cmdOp % 16 + x.cmdSeq.toNat * 16 + x.pend.length % 8 * 2 ^ 20 + x.discarded % 8 * 2 ^ 23 + x.prevEnd % 4 * 2 ^ 26)
    ++ leBytes 4 x.gen.toNat ++ leBytes 4 x.outTotal ++ leBytes 4 x.outDone ++ leBytes 4 x.outPrefix ++ leBytes 4 x.oobWrites.toNat
    ++ leBytes 2 x.nodesDone ++ leBytes 2 x.nodesTotal ++ leBytes 6 x.firings.toNat ++ leBytes 2 x.faultUnit.toNat
    ++ leBytes 6 x.step.toNat ++ leBytes 2 (x.numflags.toNat + (if x.emptyRows then 16 else 0))
    ++ leBytes 4 x.runTicks.toNat ++ leBytes 6 x.submit.toNat ++ leBytes 2 x.prevSeq.toNat

/-- The record of a stream as a read shows it: RUN_TICKS counts while its submission runs, a time that the model leaves free (R49). -/
def State.shownRecord (s : State) (n : Nat) : List U8 :=
  let x := s.stream n
  (if x.active then { x with runTicks := Config.freeTicks s.free } else x).record

/-- A BAR2 read (R43, R476, R516): naturally aligned and of 4, 8, 16, 32 or 64 bytes; every other read returns zeros. -/
def State.bar2Read (s : State) (off size : Nat) : List U8 :=
  if s.hostReach && [4, 8, 16, 32, 64].contains size && decide (off % size = 0) && decide (off + size ≤ 0x100000) then
    ((s.shownRecord (off / 64)).drop (off % 64)).take size
  else List.replicate size 0

end Sys2Proof.Machine
end

