-- ==== Sys2Proof/Machine/Tuning.lean ====
section
/-! DEFINITION. Tuning passes (R411 to R418, R446, R448): when one becomes due, starts and ends, what a failed run fences, and the end of a rotation (R438). -/

namespace Sys2Proof.Machine

/-- TUNING_DUE (R412): the unit's period has passed; TUN_PERIOD 0 stops the rotation. -/
def execTuningDue (u : Fin 822) (s : State) : Res :=
  let t := s.tuneUnit u.val
  .next (
    if t.st = .idle ∧ s.testable u.val = true ∧ s.start.ready = true ∧ s.pwr.st = .run ∧ s.field .tun 0x040 0 16 ≠ 0 then s.setTune u.val { t with st := .due }
    else s)

/-- TUNING_DEADLINE (R413): the pass is a takeover due. -/
def execTuningDeadline (u : Fin 822) (s : State) : Res :=
  let t := s.tuneUnit u.val
  .next (if t.st = .due ∧ s.pwr.st = .run then s.setTune u.val { t with st := .takeover } else s)

/-! ### The start of a pass (R32, R33, R413) -/

/-- Whether primary work stands at a unit's boundary. -/
def State.primaryWaits (s : State) (u : Nat) : Bool := if isLathe u then !(s.latheEligible (u - 819) false).isEmpty else (s.choose u false).isSome

/-- Whether a pass of the kind waiting may take a unit: a takeover at any boundary, another only where no primary slot is eligible. -/
def State.passTakes (s : State) (u : Nat) (st : TuneState) : Bool :=
  s.firingOn && s.unitFree u && (decide (st = .takeover) || (decide (st = .due) && !s.primaryWaits u))

/-- The pass holds its unit. -/
def State.beginPass (s : State) (u : Nat) : State :=
  (s.setTune u { s.tuneUnit u with st := .running, rep := false }).updEngine u (fun e => { e with tuning := true })

/-- A sequencer's pass reserves the engines of its quad as they stand at a boundary (R413). -/
def State.reserveForPass (s : State) (q : Nat) : State :=
  s.forEach (s.quadHeld q) (fun t v => if (t.heldBy v).isNone && t.passTakes v (t.tuneUnit q).st && !decide ((t.tuneUnit v).st = .takeover) then t.reserve v else t)

/-- Whether a sequencer holds every engine its pass needs. -/
def State.quadPass (s : State) (q : Nat) : Bool := (s.quadHeld q).isEmpty || s.quadReady q

/-- TUNING_START (R32, R205, R413): a pass on a reserved engine waits for the sequencer. -/
def execTuningStart (u : Fin 822) (s : State) : Res :=
  let v := u.val
  let st := (s.tuneUnit v).st
  .next (
    if s.passTakes v st = false then s
    else if isSequencer v then (let s1 := s.reserveForPass v; if s1.quadPass v then s1.beginPass v else s1)
    else if (s.heldBy v).isSome then s
    else s.beginPass v)

/-! ### Fencing (R139, R417, R418) -/

/-- Data columns named by the repair record in force for a core and by the located fault. -/
def State.faultCols (s : State) (core : Nat) (cols : List Nat) : List Nat :=
  let old := match s.flash.repairs.find? (fun r => decide (r.core = core)) with | some r => repairCols r.col0 r.col1 | none => []
  (old ++ cols).dedup

/-- The repair record that takes effect at the next start: the columns, or RETIRE where R137 applies. -/
def State.repairFor (s : State) (core : Nat) (located : Option (List Nat)) : Repair :=
  match located with
  | some cols =>
    let l := s.faultCols core cols
    if l.length ≤ 2 ∧ l.all (fun c => decide (c < 32)) = true then ⟨core, l.getD 0 0x3F, l.getD 1 0x3F, false⟩ else ⟨core, 0x3F, 0x3F, true⟩
  | none => ⟨core, 0x3F, 0x3F, true⟩

/-- Streams that hold a node slot on a unit. -/
def State.slotHolders (s : State) (u : Nat) : List Nat :=
  (s.streams.filter (fun (p : Nat × Stream) => match p.2.bound with
    | some b => b.nodes.any (fun (y : BNode) => decide (y.unit = u) && !y.freed)
    | none => false)).map (·.1)

/-- What the next start will do with a unit: an array's repair record, any other unit's retirement. -/
def State.retireLater (s : State) (u : Nat) (located : Option (List Nat)) : State :=
  if isArray u then { s with flash := s.flash.noteRepair (s.repairFor (coreOf u) located) }
  else { s with flash := { s.flash with retired := if s.flash.retired.contains u then s.flash.retired else s.flash.retired ++ [u] } }

/-- MXA_GEOM.FENCED and its error bit (R139, R151). -/
def State.fenceArray (s : State) (u : Nat) : State :=
  if isArray u then (s.setBits (unitPage u) 0x040 (BitVec.ofNat 32 (2 ^ 21)) (2 ^ 21)).raise (unitPage u) 3 else s

/-- A unit fenced (R417, R418). The streams that fail are those with slots on the engine tested, and a binding that waits for slots there goes back to its binder; the other engines of a core fenced with it only take no further work (DEDUCED, log entry 37). -/
def State.fence (s : State) (u : Nat) (located : Option (List Nat)) : State :=
  let s1 := ((s.setTune u { s.tuneUnit u with st := .idle, rep := false, fenced := true }).countWrap .tun 0x060).raise .tun 1
  let s2 := (s1.fenceArray u).retireLater u located
  let s3 : State := { s2 with caches := s2.caches.filter (fun c => !c.units.contains u), waiting := s2.waiting.filter (fun w => !w.plan.nodes.any (fun x => decide (x.unit = u))) }
  s3.forEach (s3.slotHolders u) (fun t n => t.failStream n S_UNIT_FENCED (unitField u))

/-! ### The end of a run (R417) -/

/-- The unit is released (R413). -/
def State.endPass (s : State) (u : Nat) : State :=
  let s1 := s.updEngine u (fun e => { e with tuning := false })
  if isSequencer u then s1.releaseQuad u else s1

/-- The unit has its verdict: no rotation waits for it any more (R438). -/
def State.judged (s : State) (u : Nat) : State :=
  { s with jobs := s.jobs.map (fun (p : Nat × Job) => (p.1, { p.2 with rotation := p.2.rotation.filter (fun v => !decide (v = u)) })) }

/-- The pass has passed (R446). -/
def State.passed (s : State) (u : Nat) : State :=
  (s.setTune u { s.tuneUnit u with st := .idle, rep := false, age := s.pwr.clockMs }).judged u

/-- Jobs whose rotation is under way. -/
def State.rotatingJobs (s : State) : List Nat := (s.jobs.filter (fun p => p.2.rotating)).map (·.1)

/-- Whether every unit of a job's rotation has its verdict (R438); a unit that can have none any more is not waited for. -/
def State.rotationOver (s : State) (j : Nat) : Bool := (s.job j).rotation.all (fun u => !s.testable u)

/-- The rotations that have found nothing end (R438). -/
def State.endRotation (s : State) : State :=
  s.forEach (s.rotatingJobs.filter s.rotationOver) (fun t j =>
    let x := t.job j
    (t.setJob j { x with rotating := false, rotation := [], unresolved := true }).record
      { kind := 0x0E, outcome := 2, job := j, step := x.disputeStep.toNat, detail := [x.disputeKey.toNat] })

/-- A permanent fault found in a rotation: the member expels itself (R438). -/
def State.expelRotating (s : State) : State :=
  s.forEach s.rotatingJobs (fun t j => let x := t.job j; t.expel j x.disputeKey x.disputeStep.toNat x.disputeOwn.toNat)

/-- A run has failed (R446, R448). -/
def State.runFailed (s : State) : State := (s.countSat .tun 0x05C).raise .tun 0

/-- The verdict on a run: `pass` after any injected failure. -/
def State.tuneVerdict (s : State) (u : Nat) (pass : Bool) (obs : TuneObs) : State :=
  let t := s.tuneUnit u
  let ev : Event := { kind := 0x06, outcome := 2, unit := unitField u, detail := [u, obs.test] }
  match pass, t.rep with
  | true, false => ((s.endPass u).passed u).endRotation
  | true, true => ((((s.record ev).setTune u (t.noteFault s.pwr.clockMs false)).endPass u).passed u).endRotation
  | false, false => s.runFailed.setTune u { t with rep := true }
  | false, true =>
    let s1 := s.runFailed.record { ev with kind := 0x07, code := S_UNIT_FENCED, detail := [u, obs.test] ++ obs.columns.getD [] }
    ((s1.endPass u).fence u obs.columns).expelRotating

/-- TUNING_RESULT (R413, R417, R438, R448): a run of the content has completed. -/
def execTuningResult (u : Fin 822) (obs : TuneObs) (s : State) : Res :=
  let t := s.tuneUnit u.val
  .next (
    if t.st = .running ∧ (s.engine u.val).tuning = true ∧ s.pwr.st = .run then
      let inj := s.armed .tun 0 && decide (s.field .tun 0x048 0 10 = u.val) && !t.rep
      let s1 := (if inj then s.disarm .tun 0 else s).countWrap .tun 0x058
      s1.tuneVerdict u.val (obs.pass && !inj) obs
    else s)

/-! ### TUN_CTRL and ERR_INJ (R446, R448) -/

/-- TUNING_RUN_NOW. -/
def execTuningRunNow (s : State) : Res :=
  let u := s.field .tun 0x048 0 10
  .next (if s.writes .tun ∧ u < 822 then s.dueNow u else s)

/-- TUNING_ROTATE_ALL. -/
def execTuningRotateAll (s : State) : Res := .next (if s.writes .tun then s.rotateAll else s)

/-- INJECT_TUNING_FAIL. -/
def execInjectTuningFail (s : State) : Res := .next (if s.writes .tun then s.arm .tun 0 else s)

end Sys2Proof.Machine
end

