-- ==== Sys2Proof/Machine/Unison.lean ====
section
/-! DEFINITION. The unison check as commands (R431 to R438, R447). -/

namespace Sys2Proof.Machine

/-- DIGEST_FRAME (R433, R434): counted where it comes from a neighbour in the job's unison group. -/
def execDigestFrame (p : Fin 12) (s : State) : Res :=
  .next (s.onFrame p.val ftDigest (fun t _ f =>
    match t.jobOfKey f.jobKey with
    | none => t.countSat .uni 0x070
    | some j =>
      match t.unisonGroup j with
      | none => t.countSat .uni 0x070
      | some (_, n, right, left) =>
        let d : U64 := BitVec.ofNat 64 (f.field 0 8)
        let key : U32 := BitVec.ofNat 32 (f.field 0x10 4)
        let step : U48 := BitVec.ofNat 48 (f.field 8 6)
        if n ≤ 1 ∨ (f.src ≠ right ∧ f.src ≠ left) then t.countSat .uni 0x070
        else t.storeDigest j key step (fun e =>
          { e with right := if f.src = right then some d else e.right, left := if f.src = left then some d else e.left })))

/-- UNISON_ENTRY_TIMEOUT (R434): UNI_WAIT has passed. -/
def execUnisonEntryTimeout (j : Fin 256) (key : U32) (step : U48) (s : State) : Res :=
  .next (
    match s.unison.find? (fun (e : UniEntry) => decide (e.job = j.val) && decide (e.key = key) && decide (e.step = step)) with
    | some e => ({ s with unison := s.unison.filter (fun (x : UniEntry) => !decide (x = e)) }).unmatched e
    | none => s)

/-- UNISON_CLEAR (R436, R438, R447). -/
def execUnisonClear (s : State) : Res :=
  .next (if s.hostReach then s.updJob (s.field .uni 0x040 0 8) (fun x => { x with expelled := false, disputed := false, unresolved := false }) else s)

end Sys2Proof.Machine
end

