-- ==== Sys2Proof/Machine/WMap.lean ====
section
/-! DEFINITION. Window Map loads (R350, R352, R353, R355, R356, R375). -/

namespace Sys2Proof.Machine

/-- The four 64-bit words of an image entry and its place in the image. -/
structure WRaw where
  idx : Nat
  w0 : Nat
  w1 : Nat
  w2 : Nat
  w3 : Nat
  deriving DecidableEq, Repr

def bitsOf (x lo n : Nat) : Nat := x / 2 ^ lo % 2 ^ n

def WRaw.valid (e : WRaw) : Bool := decide (bitsOf e.w0 0 1 = 1)
def WRaw.kindCode (e : WRaw) : Nat := bitsOf e.w0 1 3
def WRaw.phases (e : WRaw) : Nat := bitsOf e.w0 4 4
def WRaw.job (e : WRaw) : Nat := bitsOf e.w0 8 8
def WRaw.num (e : WRaw) : Nat := bitsOf e.w0 16 16
def WRaw.high (e : WRaw) : Nat := bitsOf e.w0 32 32

/-- KIND by its code (R352). -/
def wkindOf (c : Nat) : WKind := if c = 0 then .outbound else if c = 1 then .inbound else if c = 2 then .slow else if c = 3 then .group else .members

/-- COUNT of a MEMBERS entry, and its six endpoint fields. -/
def WRaw.memberCount (e : WRaw) : Nat := bitsOf e.high 10 3
def WRaw.six (e : WRaw) : List Nat := [bitsOf e.w1 0 32, bitsOf e.w1 32 32, bitsOf e.w2 0 32, bitsOf e.w2 32 32, bitsOf e.w3 0 32, bitsOf e.w3 32 32]

/-- The endpoint fields of an entry. -/
def WRaw.endpointFields (e : WRaw) : List Nat :=
  if e.kindCode = 0 then [bitsOf e.w2 0 32] else if e.kindCode = 4 then e.six.take e.memberCount else []

/-- A reserved KIND or field, or a field out of its range (R352, R353). -/
def WRaw.malformed (e : WRaw) : Bool :=
  match e.kindCode with
  | 0 => decide (e.high = 0) || decide (e.w1 % 2048 ≠ 0) || decide (e.w1 / 2 ^ 48 ≠ 0) || decide (e.w2 / 2 ^ 34 ≠ 0) || decide (e.w3 ≠ 0)
  | 1 => decide (e.high = 0) || decide (e.w1 % 2048 ≠ 0) || decide (e.w1 / 2 ^ 48 ≠ 0) || decide (e.w2 / 2 ^ 2 ≠ 0) || decide (e.w3 ≠ 0)
  | 2 => decide (e.high = 0) || decide (e.num ≠ 0) || decide (e.w1 % 2048 ≠ 0) || decide (e.w1 / 2 ^ 48 ≠ 0) || decide (e.w2 % 2048 ≠ 0) || decide (e.w3 % 64 ≠ 0)
  | 3 => decide (e.high ≠ 0) || decide (e.w1 / 2 ^ 21 ≠ 0) || decide (e.w2 ≠ 0) || decide (e.w3 ≠ 0)
      || decide (bitsOf e.w1 10 11 = 0) || decide (1024 < bitsOf e.w1 10 11) || decide (bitsOf e.w1 10 11 ≤ bitsOf e.w1 0 10)
  | 4 => decide (e.high / 2 ^ 13 ≠ 0) || decide (e.memberCount = 0) || decide (6 < e.memberCount) || (e.six.drop e.memberCount).any (fun x => decide (x ≠ 0))
  | _ => true

/-- The Window Map region holds the range of an OUTBOUND or SLOW entry. -/
def WRaw.leavesRegion (e : WRaw) : Bool :=
  (decide (e.kindCode = 0) || decide (e.kindCode = 2)) && (decide (e.w1 < windowBase) || decide (windowEnd < e.w1 + e.high * 2048))

/-- An entry as the Window Map holds it. -/
def WRaw.entry (e : WRaw) : WEntry :=
  let k := wkindOf e.kindCode
  { kind := k, phases := e.phases, job := e.job, num := e.num
    size := if k = .members then bitsOf e.high 0 10 else e.high
    count := if k = .group then bitsOf e.w1 10 11 else if k = .members then e.memberCount else 0
    base := if k = .group then bitsOf e.w1 0 10 else if k = .members then 0 else e.w1
    target := if k = .outbound then bitsOf e.w2 0 32 else if k = .slow then e.w2 else 0
    write := if k = .outbound then (e.w2).testBit 32 else if k = .inbound then (e.w2).testBit 0 else decide (k = .slow)
    read := if k = .outbound then (e.w2).testBit 33 else if k = .inbound then (e.w2).testBit 1 else decide (k = .slow)
    tagHpa := if k = .slow then e.w3 else 0
    endpoints := if k = .members then e.six.take e.memberCount else [] }

def sharePhase (a b : WRaw) : Bool := decide (Nat.land a.phases b.phases ≠ 0)

/-- Two entries that may not stand together (R356). -/
def conflicting (a b : WRaw) : Bool :=
  let ranged (e : WRaw) : Bool := decide (e.kindCode = 0) || decide (e.kindCode = 2)
  sharePhase a b &&
    ((ranged a && ranged b && meets a.w1 (a.w1 + a.high * 2048) b.w1 (b.w1 + b.high * 2048))
      || ((decide (a.kindCode = 1) || decide (a.kindCode = 3)) && decide (a.kindCode = b.kindCode) && decide (a.num = b.num)))

/-- The MEMBERS entries of a GROUP: those of its number and phases. -/
def membersOf (es : List WRaw) (g : WRaw) : List WRaw := es.filter (fun m => decide (m.kindCode = 4) && decide (m.num = g.num) && decide (m.phases = g.phases))

/-- How often MEMBERS entries cover a rank. -/
def coverCount (ms : List WRaw) (rank : Nat) : Nat :=
  (ms.filter (fun m => decide (bitsOf m.high 0 10 ≤ rank) && decide (rank < bitsOf m.high 0 10 + m.memberCount))).length

/-- The endpoint MEMBERS entries give a rank. -/
def coverEndpoint (ms : List WRaw) (rank : Nat) : Option Nat :=
  (ms.find? (fun m => decide (bitsOf m.high 0 10 ≤ rank) && decide (rank < bitsOf m.high 0 10 + m.memberCount))).map
    (fun m => m.six.getD (rank - bitsOf m.high 0 10) 0)

/-- Whether a GROUP's ranks are not each covered exactly once, or its own rank is not this module (R356). -/
def groupBad (self : Nat) (es : List WRaw) (g : WRaw) : Bool :=
  let ms := membersOf es g
  let n := bitsOf g.w1 10 11
  !((List.range n).all (fun r => decide (coverCount ms r = 1))) || decide (coverEndpoint ms (bitsOf g.w1 0 10) ≠ some self)

/-- Image entries that offend under S_WMAP_BAD, each by the lowest entry involved (R350, R356). -/
def wmapOffenders (self job : Nat) (keyZero : Bool) (es : List WRaw) : List Nat :=
  let single := (es.filter (fun e => decide (e.job ≠ job) || e.malformed || e.leavesRegion || (keyZero && decide (e.kindCode ≠ 2)))).map (·.idx)
  let pairs := (es.filter (fun a => es.any (fun b => decide (a.idx < b.idx) && conflicting a b))).map (·.idx)
  let groups := ((es.filter (fun g => decide (g.kindCode = 3))).filter (groupBad self es)).map (fun g =>
    (membersOf es g).foldl (fun m e => min m e.idx) g.idx)
  single ++ pairs ++ groups

/-- The entries of an image; those with VALID clear are not in use. -/
def State.wmapImage (s : State) (l : Load) : List WRaw :=
  ((List.range l.count).map (fun i =>
    let w (k : Nat) : Nat := leNat (s.mem.read (l.addr + 32 * i + 8 * k) 8)
    (⟨i, w 0, w 1, w 2, w 3⟩ : WRaw))).filter WRaw.valid

/-- Entries the other jobs hold. -/
def State.wmapOthers (s : State) (j : Nat) : Nat := s.wmap.foldl (fun t (p : Nat × List WEntry) => if p.1 = j then t else t + p.2.length) 0

/-- The first case of R356 that applies, with the entry it names. DESIGN CHOICE (log entry 30): an image outside one visible HBM range is malformed, and so is one of which memory does not deliver a line, at `lost` (R215), by the entry there. -/
def State.wmapRefusal (s : State) (l : Load) (lost : Option Nat) : Option (U16 × Nat) :=
  let es := s.wmapImage l
  let bad := wmapOffenders s.selfId l.job (decide (s.jobKey l.job = 0)) es
  let far := (es.filter (fun e => e.endpointFields.any (fun x => decide (262143 < x)))).map (·.idx)
  if s.jobBusy l.job then some (S_WMAP_BUSY, 0xFFFF)
  else if !s.imageOk l.addr (32 * l.count) then some (S_WMAP_BAD, 0xFFFF)
  else if lost.isSome then some (S_WMAP_BAD, (lost.getD 0 - l.addr) / 32)
  else if !bad.isEmpty then some (S_WMAP_BAD, bad.min?.getD 0xFFFF)
  else if !far.isEmpty then some (S_WMAP_ENDPOINT, far.min?.getD 0xFFFF)
  else if 32768 < s.wmapOthers l.job + es.length then some (S_WMAP_FULL, 0xFFFF)
  else none

/-- WMAP_LOAD (R355, R375): a write of CNS_WMAP_LOAD; its GO bit, written 1, starts the load, which is ignored while one is in progress. -/
def execWmapLoad (v : U32) (s : State) : Res :=
  .next (
    if s.hostReach then
      let s1 := s.setBits .cnsMap 0x048 v 0xFFFFFF
      if !v.getLsbD 31 || s1.wmapLoad.isSome then s1
      else { s1 with wmapLoad := some ⟨fieldOf v 0 8, fieldOf v 8 16, s.pair .cnsMap 0x040 % 0x1000000000000⟩ }
    else s)

/-- CNS_WMAP_RESULT and CNS_WMAP_BADIDX after a load. -/
def State.wmapResult (s : State) (code : U16) (idx : Nat) : State :=
  (s.setReg .cnsMap 0x04C (code.zeroExtend 32)).setReg .cnsMap 0x054 (BitVec.ofNat 32 idx)

/-- WMAP_LOAD_DONE (R355, R356): every entry of the job replaced as one act, or none. -/
def execWmapLoadDone (s : State) : Res :=
  .next (
    match s.wmapLoad with
    | none => s
    | some l =>
      let e := if s.imageOk l.addr (32 * l.count) && !s.jobBusy l.job then s.eccRead l.addr (32 * l.count) else (s, none)
      let s1 := { e.1 with wmapLoad := none }
      match s.wmapRefusal l e.2 with
      | some (c, i) => (s1.wmapResult c i).raise .cnsMap 0
      | none => ({ s1 with wmap := SMap.set wmapDefault s1.wmap l.job ((s.wmapImage l).map WRaw.entry) }).setReg .cnsMap 0x04C (S_OK.zeroExtend 32))

end Sys2Proof.Machine
end

