-- ==== Sys2Proof/Machine/Dispatch.lean ====
section
/-! DEFINITION. The effect of each command, one arm per constructor. -/

namespace Sys2Proof.Machine

/-- The effect of a command on everything but the queue. -/
def exec (i : Instr) (s : State) : Host.Outcome State Fault Refusal :=
  match i with
  | .openStream n body => Sys2Proof.Machine.execOpenStream n body s
  | .ring n body => Sys2Proof.Machine.execRing n body s
  | .abort n body => Sys2Proof.Machine.execAbort n body s
  | .close n body => Sys2Proof.Machine.execClose n body s
  | .bar2DroppedWrite off size => Sys2Proof.Machine.execBar2DroppedWrite off size s
  | .bindingComplete n plan => Sys2Proof.Machine.execBindingComplete n plan s
  | .bindingFail n cause => Sys2Proof.Machine.execBindingFail n cause s
  | .firingStart u => Sys2Proof.Machine.execFiringStart u s
  | .firingComplete u obs => Sys2Proof.Machine.execFiringComplete u obs s
  | .firingFault u cause flags => Sys2Proof.Machine.execFiringFault u cause flags s
  | .firingWatchdog u => Sys2Proof.Machine.execFiringWatchdog u s
  | .abortDrainDone n => Sys2Proof.Machine.execAbortDrainDone n s
  | .stallTimeout n => Sys2Proof.Machine.execStallTimeout n s
  | .jobValidSet v => Sys2Proof.Machine.execJobValidSet v s
  | .jobValidClear v => Sys2Proof.Machine.execJobValidClear v s
  | .jobCfgFieldsWrite v => Sys2Proof.Machine.execJobCfgFieldsWrite v s
  | .clearBar2Drop => Sys2Proof.Machine.execClearBar2Drop s
  | .readLoLatch r pg off size => Sys2Proof.Machine.execReadLoLatch r pg off size s
  | .writeLoHold r pg off size v => Sys2Proof.Machine.execWriteLoHold r pg off size v s
  | .writeHiCommit r pg off size v => Sys2Proof.Machine.execWriteHiCommit r pg off size v s
  | .registerWrite pg off size v => Sys2Proof.Machine.execRegisterWrite pg off size v s
  | .errStatClear pg v => Sys2Proof.Machine.execErrStatClear pg v s
  | .errMaskWrite pg v => Sys2Proof.Machine.execErrMaskWrite pg v s
  | .clearCounts pg => Sys2Proof.Machine.execClearCounts pg s
  | .numflagsClear pg v => Sys2Proof.Machine.execNumflagsClear pg v s
  | .bindCacheFlush b => Sys2Proof.Machine.execBindCacheFlush b s
  | .mxaRepairWrite n v => Sys2Proof.Machine.execMxaRepairWrite n v s
  | .injectTallyOne n v => Sys2Proof.Machine.execInjectTallyOne n v s
  | .hbmTempSample k t => Sys2Proof.Machine.execHbmTempSample k t s
  | .gddr7TempSample g t => Sys2Proof.Machine.execGddr7TempSample g t s
  | .memoryScrubRead d found retries => Sys2Proof.Machine.execMemoryScrubRead d found retries s
  | .sramScrubRead m ecc => Sys2Proof.Machine.execSramScrubRead m ecc s
  | .hbcClearMax d => Sys2Proof.Machine.execHbcClearMax d s
  | .injectMemCorr d => Sys2Proof.Machine.execInjectMemCorr d s
  | .injectMemUncorr d => Sys2Proof.Machine.execInjectMemUncorr d s
  | .slowTierCompletion req data => Sys2Proof.Machine.execSlowTierCompletion req data s
  | .slowTierTimeout req => Sys2Proof.Machine.execSlowTierTimeout req s
  | .regionValidSet v => Sys2Proof.Machine.execRegionValidSet v s
  | .regionValidClear v => Sys2Proof.Machine.execRegionValidClear v s
  | .regionBoundsWrite limit v => Sys2Proof.Machine.execRegionBoundsWrite limit v s
  | .injectGrainOne n => Sys2Proof.Machine.execInjectGrainOne n s
  | .updateFirstFiring b n node => Sys2Proof.Machine.execUpdateFirstFiring b n node s
  | .latheRetainFiring b n node blocks => Sys2Proof.Machine.execLatheRetainFiring b n node blocks s
  | .latheApplyFiring b n node blocks => Sys2Proof.Machine.execLatheApplyFiring b n node blocks s
  | .latheCommitFiring b n node => Sys2Proof.Machine.execLatheCommitFiring b n node s
  | .shadowFiring b n node => Sys2Proof.Machine.execShadowFiring b n node s
  | .verdict b n node => Sys2Proof.Machine.execVerdict b n node s
  | .recipeLoad b v => Sys2Proof.Machine.execRecipeLoad b v s
  | .recipeLoadDone => Sys2Proof.Machine.execRecipeLoadDone s
  | .commitRecordRelease b v => Sys2Proof.Machine.execCommitRecordRelease b v s
  | .injectRecordOne b => Sys2Proof.Machine.execInjectRecordOne b s
  | .latheInjectGrainOne b => Sys2Proof.Machine.execLatheInjectGrainOne b s
  | .portSignalDetect p => Sys2Proof.Machine.execPortSignalDetect p s
  | .linkTrainingDone p => Sys2Proof.Machine.execLinkTrainingDone p s
  | .fecLock p => Sys2Proof.Machine.execFecLock p s
  | .linkTrainRetry p => Sys2Proof.Machine.execLinkTrainRetry p s
  | .initSendTimer p => Sys2Proof.Machine.execInitSendTimer p s
  | .initUnitReceived p u => Sys2Proof.Machine.execInitUnitReceived p u s
  | .dataUnitReceived p u => Sys2Proof.Machine.execDataUnitReceived p u s
  | .emptyUnitReceived p u => Sys2Proof.Machine.execEmptyUnitReceived p u s
  | .replayTimeout p => Sys2Proof.Machine.execReplayTimeout p s
  | .ackSendTimer p => Sys2Proof.Machine.execAckSendTimer p s
  | .unitSend p => Sys2Proof.Machine.execUnitSend p s
  | .linkDown p => Sys2Proof.Machine.execLinkDown p s
  | .frameForward p => Sys2Proof.Machine.execFrameForward p s
  | .writeFrame p => Sys2Proof.Machine.execWriteFrame p s
  | .readReqFrame p => Sys2Proof.Machine.execReadReqFrame p s
  | .readRespFrame p => Sys2Proof.Machine.execReadRespFrame p s
  | .writeAckFrame p => Sys2Proof.Machine.execWriteAckFrame p s
  | .windowRequestTimeout req => Sys2Proof.Machine.execWindowRequestTimeout req s
  | .collReadyFrame p => Sys2Proof.Machine.execCollReadyFrame p s
  | .collDataFrame p => Sys2Proof.Machine.execCollDataFrame p s
  | .collReadyRepeat b => Sys2Proof.Machine.execCollReadyRepeat b s
  | .collectiveTimeout b n => Sys2Proof.Machine.execCollectiveTimeout b n s
  | .readdCheckDecided b block agree => Sys2Proof.Machine.execReaddCheckDecided b block agree s
  | .twinFrame p => Sys2Proof.Machine.execTwinFrame p s
  | .twinMirrorSend => Sys2Proof.Machine.execTwinMirrorSend s
  | .swellFrame p => Sys2Proof.Machine.execSwellFrame p s
  | .heartbeatFrame p => Sys2Proof.Machine.execHeartbeatFrame p s
  | .digestFrame p => Sys2Proof.Machine.execDigestFrame p s
  | .cleanFrame p => Sys2Proof.Machine.execCleanFrame p s
  | .retractFrame p => Sys2Proof.Machine.execRetractFrame p s
  | .portRetrain p => Sys2Proof.Machine.execPortRetrain p s
  | .portEnableWrite p v => Sys2Proof.Machine.execPortEnableWrite p v s
  | .keyPhaseSwitch p => Sys2Proof.Machine.execKeyPhaseSwitch p s
  | .keyNextWrite p k v => Sys2Proof.Machine.execKeyNextWrite p k v s
  | .selfIdWrite v => Sys2Proof.Machine.execSelfIdWrite v s
  | .routeWrite v => Sys2Proof.Machine.execRouteWrite v s
  | .keytabWrite v => Sys2Proof.Machine.execKeytabWrite v s
  | .injectCrcOne p => Sys2Proof.Machine.execInjectCrcOne p s
  | .wmapLoad v => Sys2Proof.Machine.execWmapLoad v s
  | .wmapLoadDone => Sys2Proof.Machine.execWmapLoadDone s
  | .twinEnable v => Sys2Proof.Machine.execTwinEnable v s
  | .twinDisable v => Sys2Proof.Machine.execTwinDisable v s
  | .heartbeatSend => Sys2Proof.Machine.execHeartbeatSend s
  | .seatListLoad v => Sys2Proof.Machine.execSeatListLoad v s
  | .seatListLoadDone => Sys2Proof.Machine.execSeatListLoadDone s
  | .seatLivenessExpiry slot seat => Sys2Proof.Machine.execSeatLivenessExpiry slot seat s
  | .streamFreeze n => Sys2Proof.Machine.execStreamFreeze n s
  | .quorumResume => Sys2Proof.Machine.execQuorumResume s
  | .quorumRefuse => Sys2Proof.Machine.execQuorumRefuse s
  | .seatSlotUnload => Sys2Proof.Machine.execSeatSlotUnload s
  | .cleanSend j => Sys2Proof.Machine.execCleanSend j s
  | .tuningDue u => Sys2Proof.Machine.execTuningDue u s
  | .tuningDeadline u => Sys2Proof.Machine.execTuningDeadline u s
  | .tuningStart u => Sys2Proof.Machine.execTuningStart u s
  | .tuningResult u obs => Sys2Proof.Machine.execTuningResult u obs s
  | .tuningRunNow => Sys2Proof.Machine.execTuningRunNow s
  | .tuningRotateAll => Sys2Proof.Machine.execTuningRotateAll s
  | .injectTuningFail => Sys2Proof.Machine.execInjectTuningFail s
  | .injectReaddOne => Sys2Proof.Machine.execInjectReaddOne s
  | .clearRetracted => Sys2Proof.Machine.execClearRetracted s
  | .unisonEntryTimeout j key step => Sys2Proof.Machine.execUnisonEntryTimeout j key step s
  | .unisonClear => Sys2Proof.Machine.execUnisonClear s
  | .flitReceived e bundle f => Sys2Proof.Machine.execFlitReceived e bundle f s
  | .flitReplayTimeout e bundle => Sys2Proof.Machine.execFlitReplayTimeout e bundle s
  | .laneTestSend e bundle => Sys2Proof.Machine.execLaneTestSend e bundle s
  | .laneTestReceived e bundle mismatch => Sys2Proof.Machine.execLaneTestReceived e bundle mismatch s
  | .clockMonitorWindow e edges expected => Sys2Proof.Machine.execClockMonitorWindow e edges expected s
  | .resetNoticeReceived e => Sys2Proof.Machine.execResetNoticeReceived e s
  | .budgetReceived d m => Sys2Proof.Machine.execBudgetReceived d m s
  | .budgetRepeat d => Sys2Proof.Machine.execBudgetRepeat d s
  | .reportSend d powerW8 tempC => Sys2Proof.Machine.execReportSend d powerW8 tempC s
  | .reportReceived d m => Sys2Proof.Machine.execReportReceived d m s
  | .budgetFallback d => Sys2Proof.Machine.execBudgetFallback d s
  | .linkTestStart e => Sys2Proof.Machine.execLinkTestStart e s
  | .linkTestDone e errs logic sram => Sys2Proof.Machine.execLinkTestDone e errs logic sram s
  | .injectLaneFail e => Sys2Proof.Machine.execInjectLaneFail e s
  | .setpointWrite v => Sys2Proof.Machine.execSetpointWrite v s
  | .swellControlLoop obs => Sys2Proof.Machine.execSwellControlLoop obs s
  | .descantRestore => Sys2Proof.Machine.execDescantRestore s
  | .powerReqRun => Sys2Proof.Machine.execPowerReqRun s
  | .powerReqHold => Sys2Proof.Machine.execPowerReqHold s
  | .powerReqBreath => Sys2Proof.Machine.execPowerReqBreath s
  | .powerReqOff => Sys2Proof.Machine.execPowerReqOff s
  | .holdReached => Sys2Proof.Machine.execHoldReached s
  | .wakeComplete r => Sys2Proof.Machine.execWakeComplete r s
  | .breathSample samples => Sys2Proof.Machine.execBreathSample samples s
  | .brtCrossClear v => Sys2Proof.Machine.execBrtCrossClear v s
  | .dieThermalTick d t => Sys2Proof.Machine.execDieThermalTick d t s
  | .flowTachWindow edges => Sys2Proof.Machine.execFlowTachWindow edges s
  | .flowLowDetected => Sys2Proof.Machine.execFlowLowDetected s
  | .flowRestored => Sys2Proof.Machine.execFlowRestored s
  | .leakDetected => Sys2Proof.Machine.execLeakDetected s
  | .inputUndervoltage => Sys2Proof.Machine.execInputUndervoltage s
  | .powerOn r => Sys2Proof.Machine.execPowerOn r s
  | .serviceConnect h => Sys2Proof.Machine.execServiceConnect h s
  | .serviceIdleTimeout k => Sys2Proof.Machine.execServiceIdleTimeout k s
  | .svcInfo q => Sys2Proof.Machine.execSvcInfo q s
  | .svcLogRead q seq count => Sys2Proof.Machine.execSvcLogRead q seq count s
  | .svcSettingGet q type => Sys2Proof.Machine.execSvcSettingGet q type s
  | .svcSettingSet q type body => Sys2Proof.Machine.execSvcSettingSet q type body s
  | .svcSetpoint q w => Sys2Proof.Machine.execSvcSetpoint q w s
  | .svcPower q state => Sys2Proof.Machine.execSvcPower q state s
  | .svcRegRead q off count => Sys2Proof.Machine.execSvcRegRead q off count s
  | .fwBegin q payload => Sys2Proof.Machine.execFwBegin q payload s
  | .fwData q off bytes => Sys2Proof.Machine.execFwData q off bytes s
  | .fwEnd q => Sys2Proof.Machine.execFwEnd q s
  | .fwActivate q => Sys2Proof.Machine.execFwActivate q s
  | .fwCancel q => Sys2Proof.Machine.execFwCancel q s
  | .svcReset q r => Sys2Proof.Machine.execSvcReset q r s
  | .svcDieTest q d => Sys2Proof.Machine.execSvcDieTest q d s
  | .spdmGetVersion t => Sys2Proof.Machine.execSpdmGetVersion t s
  | .spdmGetCapabilities t => Sys2Proof.Machine.execSpdmGetCapabilities t s
  | .spdmNegotiateAlgorithms t asym hash dhe aead => Sys2Proof.Machine.execSpdmNegotiateAlgorithms t asym hash dhe aead s
  | .spdmGetDigests t => Sys2Proof.Machine.execSpdmGetDigests t s
  | .spdmGetCertificate t slot off len => Sys2Proof.Machine.execSpdmGetCertificate t slot off len s
  | .spdmChallenge t slot nonce => Sys2Proof.Machine.execSpdmChallenge t slot nonce s
  | .spdmGetMeasurements t index sign nonce => Sys2Proof.Machine.execSpdmGetMeasurements t index sign nonce s
  | .spdmKeyExchange t slot share => Sys2Proof.Machine.execSpdmKeyExchange t slot share s
  | .spdmFinish t valid => Sys2Proof.Machine.execSpdmFinish t valid s
  | .spdmEndSession t => Sys2Proof.Machine.execSpdmEndSession t s
  | .spdmUnsupported t code => Sys2Proof.Machine.execSpdmUnsupported t code s
  | .ideKeyProgram p stream key => Sys2Proof.Machine.execIdeKeyProgram p stream key s
  | .mctpReadSensors samples => Sys2Proof.Machine.execMctpReadSensors samples s
  | .mctpReadLog seq count => Sys2Proof.Machine.execMctpReadLog seq count s
  | .mctpReadStatus => Sys2Proof.Machine.execMctpReadStatus s
  | .mctpControlMessage cmd => Sys2Proof.Machine.execMctpControlMessage cmd s
  | .hostHdmRead p hpa caches corrected => Sys2Proof.Machine.execHostHdmRead p hpa caches corrected s
  | .hostHdmWrite p hpa data mask => Sys2Proof.Machine.execHostHdmWrite p hpa data mask s
  | .h2dSnoop p => Sys2Proof.Machine.execH2dSnoop p s
  | .birspReceived p line => Sys2Proof.Machine.execBirspReceived p line s
  | .bisnpTimeout line => Sys2Proof.Machine.execBisnpTimeout line s
  | .hdmDecoderCommit k setup => Sys2Proof.Machine.execHdmDecoderCommit k setup s
  | .cdatRead p entry => Sys2Proof.Machine.execCdatRead p entry s
  | .doeDiscovery p index => Sys2Proof.Machine.execDoeDiscovery p index s
  | .cxlLinkUp p lanes fast viaSwitch => Sys2Proof.Machine.execCxlLinkUp p lanes fast viaSwitch s
  | .cxlLinkDown p => Sys2Proof.Machine.execCxlLinkDown p s
  | .failoverSwitch => Sys2Proof.Machine.execFailoverSwitch s
  | .perstAssert p => Sys2Proof.Machine.execPerstAssert p s
  | .functionLevelReset p => Sys2Proof.Machine.execFunctionLevelReset p s
  | .ideFailure p => Sys2Proof.Machine.execIdeFailure p s
  | .injectBiDrop p => Sys2Proof.Machine.execInjectBiDrop p s
  | .badCommand n word => Sys2Proof.Machine.execBadCommand n word s
  | .serviceSessionEnd k => Sys2Proof.Machine.execServiceSessionEnd k s
  | .leakDetectReleased => Sys2Proof.Machine.execLeakDetectReleased s

end Sys2Proof.Machine
end

