-- ==== Sys2Proof/WellFormed.lean ====
section
/-! DEFINITION. Which commands are well-formed: the operands that no request, frame, unit or report of the spec could carry are told apart here. The machine itself refuses none of them. -/

namespace Sys2Proof

open Machine

/-- Bytes of an access to BAR0 (R12). -/
def accessSize (n : Nat) : Bool := decide (n = 1) || decide (n = 2) || decide (n = 4) || decide (n = 8)

/-- A Galad node's number: a program has at most 1,024 nodes (R102). -/
def nodeNumber (n : Nat) : Bool := decide (n < 1024)

/-- Grain blocks of a Lathe firing: 1 to 256 (R306). -/
def blockCount (n : Nat) : Bool := decide (1 ≤ n) && decide (n ≤ 256)

/-- A settings type (R520). -/
def settingType (n : Nat) : Bool := decide (1 ≤ n) && decide (n ≤ 8)

/-- Lanes at which a CXL port can link (R553). -/
def laneCount (n : Nat) : Bool := decide (n = 4) || decide (n = 8)

/-- A link unit: its trailer is 16 bytes long (R329). -/
def Machine.LinkUnit.wf (u : LinkUnit) : Bool := decide (u.trailer.length = 16)

/-- A flit of a link: 480 payload bytes on a Reed link, 240 on a bond, and the reserved bytes of its trailer (R451). -/
def Machine.Flit.wf (e : LinkEnd) (f : Flit) : Bool :=
  match e with
  | .rdl _ => decide (f.payload.length = 480) && decide (f.reserved.length = 23) && decide (f.kind < 256)
  | _ => decide (f.payload.length = 240) && decide (f.reserved.length = 7) && decide (f.kind < 256)

/-- A start report: CXL ports link at 8 or 4 lanes, and lane findings name a bundle and a group of 16; an INIT record is 32 bytes long (R328, R453, R458, R553). -/
def Machine.StartReport.wf (r : StartReport) : Bool :=
  r.cxlLinked.all (fun x => laneCount x.2.1) && r.lanes.all (fun x => decide (x.bundle < 16) && decide (x.group < 16))
    && r.ports.all (fun x => decide (x.2.length = 32))

/-- Whether a command's operands are such as the spec lets occur. -/
def Instr.wf : Instr → Bool
  | .openStream _ _ => true
  | .ring _ _ => true
  | .abort _ _ => true
  | .close _ _ => true
  | .bar2DroppedWrite off size => decide (1 ≤ size) && decide (off.toNat + size ≤ 2 ^ 20) && !(decide (size = 8) && decide (off.toNat % 64 = 0))
  | .bindingComplete _ plan => plan.nodes.all (fun x => decide (x.unit < 822))
  | .bindingFail _ _ => true
  | .firingStart _ => true
  | .firingComplete _ _ => true
  | .firingFault _ _ _ => true
  | .firingWatchdog _ => true
  | .abortDrainDone _ => true
  | .stallTimeout _ => true
  | .jobValidSet _ => true
  | .jobValidClear _ => true
  | .jobCfgFieldsWrite _ => true
  | .clearBar2Drop => true
  | .readLoLatch _ _ _ size => accessSize size
  | .writeLoHold _ _ _ size _ => accessSize size
  | .writeHiCommit _ _ _ size _ => accessSize size
  | .registerWrite _ _ size _ => accessSize size
  | .errStatClear _ _ => true
  | .errMaskWrite _ _ => true
  | .clearCounts _ => true
  | .numflagsClear _ _ => true
  | .bindCacheFlush _ => true
  | .mxaRepairWrite _ _ => true
  | .injectTallyOne _ _ => true
  | .hbmTempSample _ _ => true
  | .gddr7TempSample _ _ => true
  | .memoryScrubRead _ found retries => found.all (fun x => decide (x.line < 32)) && decide (retries ≤ 4)
  | .sramScrubRead _ _ => true
  | .hbcClearMax _ => true
  | .injectMemCorr _ => true
  | .injectMemUncorr _ => true
  | .slowTierCompletion _ _ => true
  | .slowTierTimeout _ => true
  | .regionValidSet _ => true
  | .regionValidClear _ => true
  | .regionBoundsWrite _ _ => true
  | .injectGrainOne _ => true
  | .updateFirstFiring _ _ node => nodeNumber node
  | .latheRetainFiring _ _ node blocks => nodeNumber node && blockCount blocks
  | .latheApplyFiring _ _ node blocks => nodeNumber node && blockCount blocks
  | .latheCommitFiring _ _ node => nodeNumber node
  | .shadowFiring _ _ node => nodeNumber node
  | .verdict _ _ node => nodeNumber node
  | .recipeLoad _ _ => true
  | .recipeLoadDone => true
  | .commitRecordRelease _ _ => true
  | .injectRecordOne _ => true
  | .latheInjectGrainOne _ => true
  | .portSignalDetect _ => true
  | .linkTrainingDone _ => true
  | .fecLock _ => true
  | .linkTrainRetry _ => true
  | .initSendTimer _ => true
  | .initUnitReceived _ u => u.wf && decide (u.body.length = 32)
  | .dataUnitReceived _ u => u.wf && decide (32 ≤ u.body.length)
  | .emptyUnitReceived _ u => u.wf && u.body.isEmpty
  | .replayTimeout _ => true
  | .ackSendTimer _ => true
  | .unitSend _ => true
  | .linkDown _ => true
  | .frameForward _ => true
  | .writeFrame _ => true
  | .readReqFrame _ => true
  | .readRespFrame _ => true
  | .writeAckFrame _ => true
  | .windowRequestTimeout _ => true
  | .collReadyFrame _ => true
  | .collDataFrame _ => true
  | .collReadyRepeat _ => true
  | .collectiveTimeout _ _ => true
  | .readdCheckDecided _ _ _ => true
  | .twinFrame _ => true
  | .twinMirrorSend => true
  | .swellFrame _ => true
  | .heartbeatFrame _ => true
  | .digestFrame _ => true
  | .cleanFrame _ => true
  | .retractFrame _ => true
  | .portRetrain _ => true
  | .portEnableWrite _ _ => true
  | .keyPhaseSwitch _ => true
  | .keyNextWrite _ _ _ => true
  | .selfIdWrite _ => true
  | .routeWrite _ => true
  | .keytabWrite _ => true
  | .injectCrcOne _ => true
  | .wmapLoad _ => true
  | .wmapLoadDone => true
  | .twinEnable _ => true
  | .twinDisable _ => true
  | .heartbeatSend => true
  | .seatListLoad _ => true
  | .seatListLoadDone => true
  | .seatLivenessExpiry _ _ => true
  | .streamFreeze _ => true
  | .quorumResume => true
  | .quorumRefuse => true
  | .seatSlotUnload => true
  | .cleanSend _ => true
  | .tuningDue _ => true
  | .tuningDeadline _ => true
  | .tuningStart _ => true
  | .tuningResult _ obs => match obs.columns with | some l => l.all (fun c => decide (c < 64)) | none => true
  | .tuningRunNow => true
  | .tuningRotateAll => true
  | .injectTuningFail => true
  | .injectReaddOne => true
  | .clearRetracted => true
  | .unisonEntryTimeout _ _ _ => true
  | .unisonClear => true
  | .flitReceived e _ f => f.wf e
  | .flitReplayTimeout _ _ => true
  | .laneTestSend _ _ => true
  | .laneTestReceived _ _ _ => true
  | .clockMonitorWindow _ edges _ => decide (edges.length = 16)
  | .resetNoticeReceived _ => true
  | .budgetReceived _ _ => true
  | .budgetRepeat _ => true
  | .reportSend _ _ _ => true
  | .reportReceived _ _ => true
  | .budgetFallback _ => true
  | .linkTestStart _ => true
  | .linkTestDone _ _ _ _ => true
  | .injectLaneFail _ => true
  | .setpointWrite _ => true
  | .swellControlLoop obs => decide (obs.baseTemp.length = 3)
  | .descantRestore => true
  | .powerReqRun => true
  | .powerReqHold => true
  | .powerReqBreath => true
  | .powerReqOff => true
  | .holdReached => true
  | .wakeComplete r => r.wf
  | .breathSample samples => decide (samples.length = 24)
  | .brtCrossClear _ => true
  | .dieThermalTick _ _ => true
  | .flowTachWindow _ => true
  | .flowLowDetected => true
  | .flowRestored => true
  | .leakDetected => true
  | .inputUndervoltage => true
  | .powerOn r => r.wf
  | .serviceConnect _ => true
  | .serviceIdleTimeout _ => true
  | .svcInfo _ => true
  | .svcLogRead _ _ count => decide (count ≤ 64)
  | .svcSettingGet _ type => settingType type
  | .svcSettingSet _ type _ => settingType type
  | .svcSetpoint _ _ => true
  | .svcPower _ _ => true
  | .svcRegRead _ _ count => decide (count ≤ 256)
  | .fwBegin _ payload => decide (payload.length ≤ 65536)
  | .fwData _ _ bytes => decide (bytes.length ≤ 65536)
  | .fwEnd _ => true
  | .fwActivate _ => true
  | .fwCancel _ => true
  | .svcReset _ r => r.wf
  | .svcDieTest _ _ => true
  | .spdmGetVersion _ => true
  | .spdmGetCapabilities _ => true
  | .spdmNegotiateAlgorithms _ _ _ _ _ => true
  | .spdmGetDigests _ => true
  | .spdmGetCertificate _ slot _ _ => decide (slot < 8)
  | .spdmChallenge _ slot nonce => decide (slot < 8) && decide (nonce.length = 32)
  | .spdmGetMeasurements _ _ _ nonce => decide (nonce.length = 32)
  | .spdmKeyExchange _ slot share => decide (slot < 8) && decide (share.length = 96)
  | .spdmFinish _ _ => true
  | .spdmEndSession _ => true
  | .spdmUnsupported _ _ => true
  | .ideKeyProgram _ _ key => decide (key.length = 32)
  | .mctpReadSensors samples => decide (samples.length = 24)
  | .mctpReadLog _ count => decide (count ≤ 64)
  | .mctpReadStatus => true
  | .mctpControlMessage _ => true
  | .hostHdmRead _ hpa _ _ => decide (hpa.toNat % 64 = 0)
  | .hostHdmWrite _ hpa data mask => decide (hpa.toNat % 64 = 0) && decide (data.length = 64) && decide (mask.length = 64)
  | .h2dSnoop _ => true
  | .birspReceived _ _ => true
  | .bisnpTimeout _ => true
  | .hdmDecoderCommit _ _ => true
  | .cdatRead _ _ => true
  | .doeDiscovery _ _ => true
  | .cxlLinkUp _ lanes _ _ => laneCount lanes
  | .cxlLinkDown _ => true
  | .failoverSwitch => true
  | .perstAssert _ => true
  | .functionLevelReset _ => true
  | .ideFailure _ => true
  | .injectBiDrop _ => true
  | .badCommand _ _ => true
  | .serviceSessionEnd _ => true
  | .leakDetectReleased => true

end Sys2Proof
end

