-- ==== Sys2Proof/Safety.lean ====
section
/-! DEFINITION. The words in which statements about the module are made: what a command leaves as it was (registers, streams, memory), the command words of BAR2, and the properties that every step keeps. -/

namespace Sys2Proof.Machine

/-! ### What a command leaves unchanged -/

/-- The stored register at a BAR0 offset. -/
def State.word (s : State) (k : Nat) : U32 := SMap.get regDefault s.regs k

/-- Every stored register keeps its value, those at the offsets listed apart. -/
def State.regsKept (s t : State) (ks : List Nat) : Prop := ∀ k, k ∉ ks → t.word k = s.word k

/-- A table keeps what every key reads as, the keys listed apart. -/
def keptBut {β : Type} (f g : Nat → β) (ks : List Nat) : Prop := ∀ k, k ∉ ks → g k = f k

/-- The BAR0 offsets of ERR_STAT, ERR_MASK and ERR_FIRST of a page (R584). -/
def errRegs (pg : Page) : List Nat := [pg.base + offErrStat, pg.base + offErrMask, pg.base + offErrFirst]

/-- An ERR_STAT bit of a page stands set, and its mask is what it was (R585). -/
def State.raisedIn (s t : State) (pg : Page) (bit : Nat) : Prop :=
  t.reg pg offErrStat = s.reg pg offErrStat ||| BitVec.ofNat 32 (2 ^ bit) ∧ t.reg pg offErrMask = s.reg pg offErrMask

/-- One error record more than before, under the next number: its kind, code and unit (R440, R441). -/
def State.recordedIn (s t : State) (kind : Nat) (code unit : U16) : Prop :=
  ∃ r, t.log.getLast? = some r ∧ r.seq = s.logHead ∧ r.kind = kind ∧ r.code = code ∧ r.unit = unit ∧ t.logHead = s.logHead + 1

/-- The firing that an engine ran has ended with a detected fault and is to be repeated: the engine is free, and the node slot is marked with the code (R27, R402). -/
def State.toRepeat (s t : State) (u : Nat) (code : U16) : Prop :=
  (t.engine u).cur = none ∧
  ∀ r, (s.engine u).cur = some r → ∀ b, (t.stream r.stream).bound = some b →
    (t.stream r.stream).st = (s.stream r.stream).st ∧ ∀ y, y ∈ b.nodes → y.slot = r.slot → y.rep = true ∧ y.code = code

/-- An engine runs a firing, its first run, of a RUNNING stream, and is not fenced: a detected fault of it is repeated (R402, R403). -/
def State.firstRun (s : State) (u : Nat) : Prop :=
  ∃ r, (s.engine u).cur = some r ∧ r.rep = false ∧ (s.stream r.stream).st = .running ∧ (s.tuneUnit u).fenced = false

/-- A stream's submission has ended FAILED with a code and a unit (R41, R49). -/
def State.failedWith (t : State) (n : Nat) (code unit : U16) : Prop :=
  (t.stream n).st = .failed ∧ (t.stream n).endStatus = code ∧ (t.stream n).faultUnit = unit

/-- Every stream keeps its record and everything beside it, those listed apart. -/
def State.streamsKept (s t : State) (ns : List Nat) : Prop := ∀ m, m ∉ ns → t.stream m = s.stream m

/-- Every byte of memory keeps its value, those from address `a` to `a + n - 1` apart. -/
def State.bytesKept (s t : State) (a n : Nat) : Prop := ∀ x, x < a ∨ a + n ≤ x → t.mem.byte x = s.mem.byte x

/-- What a change of a job's context or of the key table does to the mirror: where the mirrored job's slot comes to hold key 0 it stops, what is not yet mirrored kept in line (R350, R370); else it and its page are as they were. -/
def State.mirrorFollows (s t : State) : Prop :=
  if s.twinOn = true ∧ s.twin.mirroring = true ∧ t.jobKey s.twinJob = 0 then
    t.twin.mirroring = false ∧ t.twin.stopped = true ∧ t.twin.lastStep = s.twin.lastStep ∧ t.twin.queue = s.twin.cur.toList ++ s.twin.queue ∧ s.raisedIn t .twn 0
  else t.twin = s.twin ∧ ∀ k, k ∈ errRegs .twn → t.word k = s.word k

/-- The link unit that a command sends at a port, where it sends just that (R327). -/
def State.unitSent (s t : State) (p : Nat) : Option LinkUnit :=
  match t.out.drop s.out.length with
  | [.unit q u] => if q = p ∧ t.out.take s.out.length = s.out then some u else none
  | _ => none

/-- Nothing changes but one port. -/
def State.portOnly (s t : State) (p : Nat) : Prop := keptBut s.port t.port [p] ∧ t = { s with ports := t.ports }

/-! ### Frames taken and sent (R331 to R348) -/

/-- The frame of a type that a delivery at a port takes, and the port that counts it if it is dropped: the oldest that the module has addressed to itself, which came by no port (12), or else the head of the port's receive buffer, where it is delivered here (R346, R348). -/
def State.frameFor (s : State) (p type : Nat) : Option (Nat × Frame) :=
  let here := ((s.port p).rxBuf.head?.filter (fun f => decide (f.type = type) && s.delivered p f)).map (fun f => (p, f))
  match s.looped.head? with
  | some f => if f.type = type then some (12, f) else here
  | none => here

/-- A frame has left where it waited; one that came by a port leaves its credits owed to the peer, one for every 64 bytes begun (R341). -/
def State.tookFrame (s t : State) (q : Nat) (f : Frame) : Prop :=
  if q < 12 then
    (t.port q).rxBuf = (s.port q).rxBuf.tail ∧
    (f.cls < (s.port q).owed.length → (t.port q).owed.getD f.cls 0 = (s.port q).owed.getD f.cls 0 + (32 + f.payload.length + 63) / 64)
  else t.looped.take s.looped.tail.length = s.looped.tail

/-- A frame of the module's own stands last in the queue of the port that its route gives, or among those it addresses to itself (R346). -/
def State.sentTo (s t : State) (g : Frame) : Prop :=
  (g.dst = s.selfId → t.looped.getLast? = some g) ∧
  (g.dst ≠ s.selfId → ∀ e, s.egress g = some e → s.carries e g = true → (t.port e).queue = (s.port e).queue ++ [g])

/-! ### The command words of BAR2 (R44) -/

/-- The stream, OP and fields of a command that is a command word. -/
def commandWord : Instr → Option (Nat × Nat × BitVec 60)
  | .openStream n body => some (n.val, opOpen, body)
  | .ring n body => some (n.val, opRing, body)
  | .abort n body => some (n.val, opAbort, body)
  | .close n body => some (n.val, opClose, body)
  | .badCommand n word => some (n.val, word.toNat / 2 ^ 60, BitVec.ofNat 60 word.toNat)
  | _ => none

/-! ### Service requests (R530 to R532, R546) -/

/-- The header of a command that is a service request, its OP, the role it needs, and whether recovery mode accepts it. -/
def serviceRequest : Instr → Option (SvcReq × Nat × Nat × Bool)
  | .svcInfo q => some (q, 0x01, roleRead, true)
  | .svcLogRead q _ _ => some (q, 0x02, roleRead, true)
  | .svcSettingGet q _ => some (q, 0x03, roleRead, false)
  | .svcSettingSet q type _ => some (q, 0x04, if type = 6 then roleSecurity else roleOperate, false)
  | .svcSetpoint q _ => some (q, 0x05, roleOperate, false)
  | .svcPower q _ => some (q, 0x06, roleOperate, false)
  | .svcRegRead q _ _ => some (q, 0x07, roleRead, false)
  | .fwBegin q _ => some (q, 0x10, roleUpdate, true)
  | .fwData q _ _ => some (q, 0x11, roleUpdate, true)
  | .fwEnd q => some (q, 0x12, roleUpdate, true)
  | .fwActivate q => some (q, 0x13, roleUpdate, true)
  | .fwCancel q => some (q, 0x14, roleUpdate, false)
  | .svcReset q _ => some (q, 0x20, roleOperate, true)
  | .svcDieTest q _ => some (q, 0x21, roleOperate, false)
  | _ => none

/-- A request comes on an open session that holds a role. -/
def State.sessionHolds (s : State) (q : SvcReq) (role : Nat) : Prop := ∃ x, s.session q.session.val = some x ∧ x.holds role = true

/-- The reply to a request, as it leaves. -/
def replyTo (q : SvcReq) (op : Nat) (status : U16) (payload : List U8) : Out := .service q.session.val op q.tag status payload

/-! ### What every step keeps -/

/-- The error log holds at most the last 4,096 records, numbered without a gap up to the one before the next number (R440). -/
def State.logOk (s : State) : Prop :=
  s.log.length ≤ 4096 ∧ ∀ (i : Nat) (r : ErrRec), s.log[i]? = some r → r.seq = s.logHead - BitVec.ofNat 32 (s.log.length - i)

/-- Every stream has at most four submissions queued behind the current one (R38, R49). -/
def State.pendOk (s : State) : Prop := ∀ n, (s.stream n).pend.length ≤ 4

/-- The memory's canonical form, the error log and the queues of the streams. -/
def State.Inv (s : State) : Prop := s.mem.wf = true ∧ s.logOk ∧ s.pendOk

end Sys2Proof.Machine
end

