-- ==== Sys2Proof/Certificates/Slice0/Obligations.lean ====
section
/-! DEFINITION. What is claimed of the module, statement by statement. -/

open Sys2Proof Sys2Proof.Machine

/-- With a command at the front of its queue, the module's step is that command's effect on the state with the queue's rest. -/
def Obligations.StepRunsFrontCommand : Prop :=
  ∀ (c : Instr) (rest : List Instr) (s : State), step { s with pending := c :: rest } = exec c { s with pending := rest }

/-- With nothing waiting the module idles, but for an error that memory may take: the model's choice (log entry 7). -/
def Obligations.EmptyQueueIdles : Prop := ∀ s : State, s.pending = [] → ∃ (us : List Upset) (m : Memory),
  step s = .next { s with free := s.free + 1, upsets := us, mem := m }
  ∧ m.bytes = s.mem.bytes ∧ m.tags = s.mem.tags
  ∧ ((us = s.upsets ∧ m.bad = s.mem.bad)
    ∨ (m.bad = s.mem.bad ∧ ∃ u : Upset, us = s.upsets ++ [u] ∧ u.retries ≤ 4)
    ∨ (us = s.upsets ∧ ∃ line, line ∉ s.mem.bad ∧ m.bad = line :: s.mem.bad))

/-- No command faults and none is refused. -/
def Obligations.EveryCommandAnswers : Prop := ∀ (c : Instr) (s : State), ∃ t, exec c s = .next t

/-- A command's effect is on everything but the queue. -/
def Obligations.ExecLeavesQueue : Prop := ∀ (c : Instr) (s t : State), exec c s = .next t → t.pending = s.pending

/-- The invariant is kept by every step from every state that meets it (R38, R49, R440). -/
def Obligations.StepKeepsInvariant : Prop := ∀ s t : State, s.Inv → step s = .next t → t.Inv

/-- The invariant holds at reset. -/
def Obligations.ResetMeetsInvariant : Prop := State.reset.Inv

/-- Each page's range of BAR0 belongs to it alone (R580 to R583). -/
def Obligations.PagesLieApart : Prop := ∀ (pg : Page) (off : Nat), off < 0x1000 → pageAt (pg.base + off) = some pg

/-- OPEN of a FREE stream (R41, R47). -/
def Obligations.OpenMakesStreamIdle : Prop :=
  ∀ (n : Fin 16384) (body : BitVec 60) (s : State),
    s.hostReach = true → s.start.ready = true → cmdClean opOpen body = true → (s.stream n.val).st = .free →
    (s.job (cmdJob body)).valid = true →
    (cmdHome body ≠ 3 → s.baseUp (cmdHome body) = false →
      ∃ t, exec (.openStream n body) s = .next t ∧ (t.stream n.val).st = .free ∧ (t.stream n.val).cmdResult = S_DIE_DOWN ∧ s.streamsKept t [n.val]) ∧
    ((cmdHome body = 3 ∨ s.baseUp (cmdHome body) = true) →
    ∃ t, exec (.openStream n body) s = .next t ∧
      (∃ h, h < 3 ∧ s.baseUp h = true ∧
        (cmdHome body ≠ 3 → h = cmdHome body) ∧
        (cmdHome body = 3 → ∀ k, k < 3 → s.baseUp k = true →
          s.openCount (fun x => decide (x.home = h)) ≤ s.openCount (fun x => decide (x.home = k)) ∧
          (s.openCount (fun x => decide (x.home = k)) = s.openCount (fun x => decide (x.home = h)) → h ≤ k)) ∧
        t.stream n.val = { Stream.fresh with
          st := .idle, home := h, job := cmdJob body, descant := (s.job (cmdJob body)).descant, bound := (s.stream n.val).bound,
          cmdResult := S_OK, cmdOp := opOpen, cmdSeq := 0, gen := (s.stream n.val).gen + 1 }) ∧
      s.streamsKept t [n.val] ∧ s.regsKept t [(stmPage 1).base + 0x050] ∧
      t.word ((stmPage 1).base + 0x050) = s.word ((stmPage 1).base + 0x050) + 1 ∧
      t = { s with streams := t.streams, regs := t.regs })

/-- RING on an open stream (R41, R42, R45). -/
def Obligations.RingStartsOrQueues : Prop :=
  ∀ (n : Fin 16384) (body : BitVec 60) (s : State),
    let x := s.stream n.val
    s.hostReach = true → s.start.ready = true → x.st ≠ .free → s.baseUp x.home = true → cmdClean opRing body = true →
    (cmdSeqOf body ≠ (if x.lastSeq = 0xFFFF then 1 else x.lastSeq + 1) →
      ∃ t, exec (.ring n body) s = .next t ∧
        t.stream n.val = { x with cmdResult := S_SEQ, cmdOp := opRing, cmdSeq := cmdSeqOf body, gen := x.gen + 1 } ∧
        s.streamsKept t [n.val] ∧ s.regsKept t [(stmPage x.home).base + 0x050] ∧ t = { s with streams := t.streams, regs := t.regs }) ∧
    (cmdSeqOf body = (if x.lastSeq = 0xFFFF then 1 else x.lastSeq + 1) → x.pend.length < 4 →
      s.allowed x.job (cmdSubmit body).toNat 64 false = true →
      ∃ t, exec (.ring n body) s = .next t ∧
        (t.stream n.val).cmdResult = S_OK ∧ (t.stream n.val).cmdOp = opRing ∧ (t.stream n.val).cmdSeq = cmdSeqOf body ∧
        (t.stream n.val).lastSeq = cmdSeqOf body ∧
        (x.st = .idle ∨ x.ended = true → x.pend = [] → x.bound = none →
          (t.stream n.val).st = .binding ∧ (t.stream n.val).seq = cmdSeqOf body ∧ (t.stream n.val).submit = cmdSubmit body ∧
          (t.stream n.val).pend = [] ∧ (t.stream n.val).endStatus = 0 ∧ (t.stream n.val).outDone = 0 ∧ (t.stream n.val).outPrefix = 0 ∧
          (t.stream n.val).nodesDone = 0 ∧ (t.stream n.val).firings = 0 ∧ (t.stream n.val).step = 0 ∧
          (t.stream n.val).prevSeq = (if x.st = .idle then 0 else x.seq) ∧
          (t.stream n.val).prevEnd = (if x.st = .completed then 1 else if x.st = .aborted then 2 else if x.st = .failed then 3 else 0)) ∧
        (x.active = true →
          (t.stream n.val).st = x.st ∧ (t.stream n.val).seq = x.seq ∧ (t.stream n.val).pend = x.pend ++ [⟨cmdSeqOf body, cmdSubmit body⟩]) ∧
        s.streamsKept t [n.val] ∧ s.regsKept t [(stmPage x.home).base + 0x050] ∧
        t = { s with streams := t.streams, regs := t.regs, nextReq := t.nextReq })

/-- ABORT on an open stream (R56 to R58). -/
def Obligations.AbortDrainsOrCuts : Prop :=
  ∀ (n : Fin 16384) (body : BitVec 60) (s : State),
    let x := s.stream n.val
    let q := cmdSeqOf body
    let k := x.pend.findIdx (fun p => decide (p.seq = q))
    s.hostReach = true → s.start.ready = true → x.st ≠ .free → s.baseUp x.home = true → cmdClean opAbort body = true →
    ∃ t, exec (.abort n body) s = .next t ∧ s.regsKept t [(stmPage x.home).base + 0x050] ∧
      t = { s with streams := t.streams, regs := t.regs, upds := t.upds, colls := t.colls, readds := t.readds, waiting := t.waiting, links := t.links, bundles := t.bundles, out := t.out } ∧
      (s.waiting = [] → t.links = s.links ∧ t.bundles = s.bundles ∧ t.out = s.out) ∧
      (x.seq = q ∧ (x.st = .binding ∨ x.st = .running ∨ x.st = .frozen) →
        (t.stream n.val).st = .draining ∧ (t.stream n.val).pend = [] ∧ (t.stream n.val).dropped = x.dropped + x.pend.length ∧
        (t.stream n.val).cmdResult = S_OK ∧ (t.stream n.val).seq = x.seq ∧ (t.stream n.val).outDone = x.outDone ∧
        (t.stream n.val).outPrefix = x.outPrefix) ∧
      (¬ (x.seq = q ∧ (x.st = .binding ∨ x.st = .running ∨ x.st = .frozen)) → k < x.pend.length →
        t.stream n.val = { x with pend := x.pend.take k, dropped := x.dropped + (x.pend.length - k), cmdResult := S_OK, cmdOp := opAbort, cmdSeq := q, gen := x.gen + 1 } ∧
        s.streamsKept t [n.val] ∧ t = { s with streams := t.streams, regs := t.regs }) ∧
      (¬ (x.seq = q ∧ (x.st = .binding ∨ x.st = .running ∨ x.st = .frozen)) → ¬ k < x.pend.length →
        t.stream n.val = { x with cmdResult := S_NOTHING_TO_ABORT, cmdOp := opAbort, cmdSeq := q, gen := x.gen + 1 } ∧
        s.streamsKept t [n.val] ∧ t = { s with streams := t.streams, regs := t.regs })

/-- The order of tests on a command word, and what a failed test leaves (R609, R46). -/
def Obligations.CommandTestsInOrder : Prop :=
  ∀ (c : Instr) (n op : Nat) (body : BitVec 60) (s : State), commandWord c = some (n, op, body) → s.hostReach = true →
    let x := s.stream n
    let isOpen := decide (x.st ≠ .free)
    let seqNext : U16 := if x.lastSeq = 0xFFFF then 1 else x.lastSeq + 1
    let first : Option U16 :=
      if s.start.ready = false then some S_NOT_READY
      else if ¬ (1 ≤ op ∧ op ≤ 4) ∨ cmdClean op body = false then some S_BAD_COMMAND
      else if isOpen = true ∧ s.baseUp x.home = false then (if op = opClose ∧ x.busy = false then none else some S_DIE_DOWN)
      else if isOpen = false ∧ op ≠ opOpen then some S_NOT_OPEN
      else if isOpen = true ∧ op = opOpen then some S_ALREADY_OPEN
      else if op = opClose ∧ x.busy = true then some S_BUSY
      else if op = opOpen ∧ (s.job (cmdJob body)).valid = false then some S_NO_JOB
      else if op = opOpen ∧ cmdHome body ≠ 3 ∧ s.baseUp (cmdHome body) = false then some S_DIE_DOWN
      else if op = opRing ∧ cmdSeqOf body ≠ seqNext then some S_SEQ
      else if op = opRing ∧ 4 ≤ x.pend.length then some S_RING_FULL
      else if op = opRing ∧ s.allowed x.job (cmdSubmit body).toNat 64 false = false then some S_ACCESS
      else none
    ∃ t, exec c s = .next t ∧
      (t.stream n).cmdOp = op ∧ (t.stream n).cmdSeq = (if op = opOpen ∨ op = opClose then 0 else cmdSeqOf body) ∧ (t.stream n).gen ≠ x.gen ∧
      (∀ code, first = some code →
        t.stream n = { x with cmdResult := code, cmdOp := op, cmdSeq := (t.stream n).cmdSeq, gen := x.gen + 1 } ∧
        s.streamsKept t [n] ∧ s.regsKept t [(stmPage (s.orderedAt n)).base + 0x050] ∧ t = { s with streams := t.streams, regs := t.regs })

/-- CLOSE, BAD_COMMAND, BAR2_DROPPED_WRITE, CLEAR_BAR2_DROP and STALL_TIMEOUT (R41, R43, R44, R55, R71). -/
def Obligations.CloseDropsAndStalls : Prop :=
  (∀ (n : Fin 16384) (s : State),
    let x := s.stream n.val
    s.hostReach = true → s.start.ready = true → x.st ≠ .free → x.busy = false →
    ∃ t, exec (.close n 0) s = .next t ∧
      t.stream n.val = { x with st := .free, cmdResult := S_OK, cmdOp := opClose, cmdSeq := 0, gen := x.gen + 1 } ∧
      s.streamsKept t [n.val] ∧ s.regsKept t [(stmPage (s.orderedAt n.val)).base + 0x050] ∧ t = { s with streams := t.streams, regs := t.regs }) ∧
  (∀ (n : Fin 16384) (word : U64) (s : State),
    let op := word.toNat / 2 ^ 60
    let x := s.stream n.val
    s.hostReach = true → s.start.ready = true → (¬ (1 ≤ op ∧ op ≤ 4) ∨ cmdClean op (BitVec.ofNat 60 word.toNat) = false) →
    ∃ t, exec (.badCommand n word) s = .next t ∧ (t.stream n.val).st = x.st ∧ (t.stream n.val).cmdResult = S_BAD_COMMAND ∧
      (t.stream n.val).cmdOp = op ∧ (t.stream n.val).gen = x.gen + 1 ∧ s.streamsKept t [n.val] ∧ t = { s with streams := t.streams, regs := t.regs }) ∧
  (∀ (off : BitVec 20) (size : Nat) (s : State), s.hostReach = true → ¬ (size = 8 ∧ off.toNat % 64 = 0) →
    ∃ t, exec (.bar2DroppedWrite off size) s = .next t ∧ (t.reg .stmJob 0x050) = satAdd (s.reg .stmJob 0x050) 1 ∧
      (t.reg .stmJob offErrStat).toNat.testBit 2 = true ∧
      s.regsKept t [Page.stmJob.base + 0x050, Page.stmJob.base + offErrStat, Page.stmJob.base + offErrMask, Page.stmJob.base + offErrFirst] ∧
      t = { s with regs := t.regs }) ∧
  (∀ s : State, s.hostReach = true →
    ∃ t, exec .clearBar2Drop s = .next t ∧ t.reg .stmJob 0x050 = 0 ∧ s.regsKept t [Page.stmJob.base + 0x050] ∧ t = { s with regs := t.regs }) ∧
  (∀ (n : Fin 16384) (s : State),
    let x := s.stream n.val
    x.st = .running → x.stalled = false → s.field (stmPage x.home) 0x040 0 16 ≠ 0 →
    ∃ t, exec (.stallTimeout n) s = .next t ∧ t.stream n.val = { x with stalled := true, gen := x.gen + 1 } ∧
      s.streamsKept t [n.val] ∧ t = { s with streams := t.streams })

/-- JOB_VALID_SET and JOB_CFG_FIELDS_WRITE (R66, R71). -/
def Obligations.JobContextIsWritten : Prop :=
  ∀ (v : U32) (s : State),
    let j := s.selJob
    let x := s.job j
    let y : Job := { x with descant := v.toNat.testBit 1, keySlot := fieldOf v 8 8, descSram := min 32 (fieldOf v 16 7) }
    s.hostReach = true →
    (x.valid = false →
      (∃ t, exec (.jobCfgFieldsWrite v) s = .next t ∧ t.job j = y ∧ keptBut s.job t.job [j] ∧ s.mirrorFollows t ∧
        s.regsKept t (errRegs .twn) ∧ t = { s with jobs := t.jobs, twin := t.twin, regs := t.regs }) ∧
      ((∀ k, k < 256 → k ≠ j → (s.job k).valid = true → (s.job k).keySlot ≠ fieldOf v 8 8) →
        ∃ t, exec (.jobValidSet v) s = .next t ∧ t.job j = { y with valid := true } ∧ keptBut s.job t.job [j] ∧ s.mirrorFollows t ∧
          s.regsKept t (errRegs .twn) ∧ t = { s with jobs := t.jobs, twin := t.twin, regs := t.regs }) ∧
      ((∃ k, k < 256 ∧ k ≠ j ∧ (s.job k).valid = true ∧ (s.job k).keySlot = fieldOf v 8 8) →
        ∃ t, exec (.jobValidSet v) s = .next t ∧ t.job j = y ∧ keptBut s.job t.job [j] ∧ s.raisedIn t .stmJob 1 ∧ s.mirrorFollows t ∧
          s.regsKept t (errRegs .stmJob ++ errRegs .twn) ∧ t = { s with jobs := t.jobs, twin := t.twin, regs := t.regs })) ∧
    (x.valid = true → exec (.jobValidSet v) s = .next s ∧ exec (.jobCfgFieldsWrite v) s = .next s)

/-- JOB_VALID_CLEAR (R71, R72). -/
def Obligations.JobClearGivesBack : Prop :=
  ∀ (v : U32) (s : State),
    let j := s.selJob
    let x := s.job j
    s.hostReach = true → x.valid = true →
    (s.streamsOf j ≠ [] →
      ∃ t, exec (.jobValidClear v) s = .next t ∧ s.raisedIn t .stmJob 0 ∧ s.regsKept t (errRegs .stmJob) ∧ t = { s with regs := t.regs }) ∧
    (s.streamsOf j = [] →
      ∃ t, exec (.jobValidClear v) s = .next t ∧
        t.job j = { Job.fresh with descant := x.descant, keySlot := x.keySlot, descSram := x.descSram, retractNext := x.retractNext, uniWait := x.uniWait } ∧
        keptBut s.job t.job [j] ∧ t.window j = [] ∧ keptBut s.window t.window [j] ∧
        (∀ r, r < 64 → t.region j r = Region.empty) ∧ (∀ k r, k ≠ j → r < 64 → t.region k r = s.region k r) ∧
        (∀ b, b < 3 → j < 256 → SMap.get ovfDefault t.ovf (b * 256 + j) = OvfWord.clear) ∧
        t.unison = s.unison.filter (fun e => decide (e.job ≠ j)) ∧
        (∀ a, a ∈ s.recordsOf j → t.mem.read a 64 = List.replicate 64 0) ∧
        (∀ a, (∀ r, r ∈ s.recordsOf j → a < r ∨ r + 64 ≤ a) → t.mem.byte a = s.mem.byte a) ∧
        (∀ i, s.slotOf j = some i → (t.slot i).valid = false ∧ (t.slot i).seats = []) ∧
        t = { s with regs := t.regs, mem := t.mem, jobs := t.jobs, wmap := t.wmap, regions := t.regions, ovf := t.ovf, unison := t.unison, readys := t.readys, slots := t.slots, twin := t.twin })

/-- READ_LO_LATCH, WRITE_LO_HOLD and WRITE_HI_COMMIT (R13, R14, R590). -/
def Obligations.PairsActAsOneValue : Prop :=
  (∀ (r : Requester) (pg : Page) (off : BitVec 12) (s : State), off.toNat ∈ pg.pairs →
    ∃ t, exec (.readLoLatch r pg off 4) s = .next t ∧ t.out = s.out ++ [.regRead r (pg.base + off.toNat) (s.readReg r pg off.toNat)] ∧
      (∀ u : State, u.latches = t.latches → (u.barRead r (pg.base + off.toNat + 4)).2 = s.readReg r pg (off.toNat + 4)) ∧
      t.latches.filter (fun l => decide (l.requester ≠ r)) = s.latches.filter (fun l => decide (l.requester ≠ r)) ∧ t = { s with latches := t.latches, out := t.out }) ∧
  (∀ (r : Requester) (pg : Page) (off : BitVec 12) (size : Nat) (v : U32) (s : State), size ≠ 4 ∨ off.toNat % 4 ≠ 0 →
    (∃ t, exec (.readLoLatch r pg off size) s = .next t ∧ t = { s with out := s.out ++ [.regRead r (pg.base + off.toNat) 0] }) ∧
    exec (.writeLoHold r pg off size v) s = .next s ∧ exec (.writeHiCommit r pg off size v) s = .next s) ∧
  (∀ (r : Requester) (pg : Page) (off : BitVec 12) (v : U32) (s : State), off.toNat ∈ pg.pairs → pg.writable off.toNat = true →
    s.answers r pg off.toNat = true →
    ∃ t, exec (.writeLoHold r pg off 4 v) s = .next t ∧ t.loFor r pg off.toNat = v ∧
      (∀ h, (h.requester ≠ r ∨ h.lo ≠ pg.base + off.toNat) → (h ∈ t.heldLo ↔ h ∈ s.heldLo)) ∧ t = { s with heldLo := t.heldLo }) ∧
  (∀ (r : Requester) (pg : Page) (off : BitVec 12) (v : U32) (s : State), 4 ≤ off.toNat → off.toNat - 4 ∈ pg.pairs → pg.writable off.toNat = true →
    s.answers r pg off.toNat = true →
    let lo := off.toNat - 4
    let w := (s.loFor r pg lo).toNat + v.toNat * 0x100000000
    ∃ t, exec (.writeHiCommit r pg off 4 v) s = .next t ∧
      (∀ h, h ∈ t.heldLo ↔ h ∈ s.heldLo ∧ ¬ (h.requester = r ∧ h.lo = pg.base + lo)) ∧
      (pg ≠ .stmRgn → ∀ d, pg.reg lo = some d → ∀ e, pg.reg off.toNat = some e →
        t.reg pg lo = mergeBits (s.reg pg lo) (s.loFor r pg lo) d.rw ∧ t.reg pg off.toNat = mergeBits (s.reg pg off.toNat) v e.rw ∧
        s.regsKept t [pg.base + lo, pg.base + off.toNat] ∧ t = { s with regs := t.regs, heldLo := t.heldLo }) ∧
      (pg = .stmRgn → s.selRegion.valid = false →
        t.selRegion = (if lo = 0x04C then { s.selRegion with limit := w % 2 ^ 48 / 2048 * 2048 } else { s.selRegion with base := w % 2 ^ 48 / 2048 * 2048 }) ∧
        t = { s with regions := t.regions, heldLo := t.heldLo }))

/-- REGISTER_WRITE (R11, R12, R15 and the tables of the pages). -/
def Obligations.RegisterWriteSetsFields : Prop :=
  (∀ (pg : Page) (off : BitVec 12) (size : Nat) (v : U32) (s : State), size ≠ 4 ∨ off.toNat % 4 ≠ 0 → exec (.registerWrite pg off size v) s = .next s) ∧
  (∀ (pg : Page) (off : BitVec 12) (v : U32) (s : State),
    let o := off.toNat
    let special : Bool := match pg, o with
      | .stmQrm, 0x044 | .uni, 0x044 | .uni, 0x048 | .brt, 0x048 | .rdl _, 0x058 | .bnd _, 0x058 | .cxp _, 0x04C | .mxa _, 0x018 => true
      | _, _ => false
    s.writes pg = true → o % 4 = 0 → o ∉ pg.pairs → (4 ≤ o → o - 4 ∉ pg.pairs) → o ∉ pg.ownWrites →
    (special = false → pg.reg o = none → exec (.registerWrite pg off 4 v) s = .next s) ∧
    (special = false → ∀ d, pg.reg o = some d → ∃ t, exec (.registerWrite pg off 4 v) s = .next t ∧
      t.reg pg o = mergeBits (s.reg pg o) v d.rw ∧ s.regsKept t [pg.base + o] ∧ t = { s with regs := t.regs }) ∧
    (special = true → ∃ t, exec (.registerWrite pg off 4 v) s = .next t ∧
      (pg = .stmQrm → let i := s.field .stmQrm 0x040 0 3
        t.slot i = { s.slot i with hbMiss := fieldOf v 16 4 } ∧ keptBut s.slot t.slot [i] ∧ t = { s with slots := t.slots }) ∧
      (pg = .uni → o = 0x048 → let j := s.field .uni 0x040 0 8
        t.job j = { s.job j with uniWait := fieldOf v 0 16 } ∧ keptBut s.job t.job [j] ∧ t = { s with jobs := t.jobs }) ∧
      (pg = .uni → o = 0x044 → let j := s.field .uni 0x040 0 8
        t.job j = { s.job j with uniEnable := v.toNat.testBit 0, uniPeriod := fieldOf v 1 8, uniGroup := fieldOf v 16 16 } ∧
        keptBut s.job t.job [j] ∧ t = { s with jobs := t.jobs }) ∧
      (pg = .brt → let i := s.field .brt 0x044 0 5
        (i = 18 → t = s) ∧
        (i ≠ 18 → t = { s with pwr := { s.pwr with brtLow := s.pwr.brtLow.set i (BitVec.ofNat 16 v.toNat), brtHigh := s.pwr.brtHigh.set i (BitVec.ofNat 16 (v.toNat / 65536)) } })) ∧
      (∀ r, pg = .rdl r → t.reg pg o = (if s.testMode (.rdl r) then mergeBits (s.reg pg o) v 3 else s.reg pg o) ∧ s.regsKept t [pg.base + o] ∧ t = { s with regs := t.regs }) ∧
      (∀ d, pg = .bnd d → t.reg pg o = (if s.testMode (.bondBase d) then mergeBits (s.reg pg o) v 3 else s.reg pg o) ∧ s.regsKept t [pg.base + o] ∧ t = { s with regs := t.regs }) ∧
      (pg = .cxp 1 → t = s) ∧
      (∀ n, pg = .mxa n → t.reg pg o = mergeBits (s.reg pg o) v 0x3F00 ∧ s.regsKept t [pg.base + o] ∧ t = { s with regs := t.regs })))

/-- ERR_STAT_CLEAR, ERR_MASK_WRITE and an event's bit (R585). -/
def Obligations.ErrFirstFollows : Prop :=
  ∀ (pg : Page) (v : U32) (s : State),
    let before := s.reg pg offErrStat &&& ~~~ s.reg pg offErrMask
    let follows (t : State) : Prop :=
      let after := t.reg pg offErrStat &&& ~~~ t.reg pg offErrMask
      (after = 0 → t.reg pg offErrFirst = 0) ∧
      (before ≠ 0 → after ≠ 0 → t.reg pg offErrFirst = s.reg pg offErrFirst) ∧
      (before = 0 → after ≠ 0 → ∃ k, k < 32 ∧ t.reg pg offErrFirst = BitVec.ofNat 32 (2 ^ k) ∧ after.getLsbD k = true ∧ ∀ i, i < k → after.getLsbD i = false) ∧
      s.regsKept t (errRegs pg) ∧ t = { s with regs := t.regs }
    (s.writes pg = true → ∃ t, exec (.errStatClear pg v) s = .next t ∧ t.reg pg offErrStat = s.reg pg offErrStat &&& ~~~ v ∧
      t.reg pg offErrMask = s.reg pg offErrMask ∧ follows t) ∧
    (s.writes pg = true → ∃ t, exec (.errMaskWrite pg v) s = .next t ∧ t.reg pg offErrStat = s.reg pg offErrStat ∧
      t.reg pg offErrMask = v &&& BitVec.ofNat 32 (2 ^ pg.errBits - 1) ∧ follows t) ∧
    (∀ bit, bit < 32 → s.raisedIn (s.raise pg bit) pg bit ∧ follows (s.raise pg bit))

/-- CLEAR_COUNTS, NUMFLAGS_CLEAR, BIND_CACHE_FLUSH, MXA_REPAIR_WRITE, INJECT_TALLY_ONE and INJECT_GRAIN_ONE (R104, R138, R151, R172, R272, R587). -/
def Obligations.CountsFlagsAndRepair : Prop :=
  (∀ (pg : Page) (s : State), s.writes pg = true →
    ∃ t, exec (.clearCounts pg) s = .next t ∧ (∀ d, d ∈ pg.regs → d.count = true → t.reg pg d.off = 0) ∧
      s.regsKept t ((pg.regs.filter (·.count)).map (fun d => pg.base + d.off)) ∧
      (pg = .tol → t.start = { s.start with boots := 0 }) ∧ (pg = .stmQrm → ∀ i, i < 8 → t.slot i = { s.slot i with losses := 0 }) ∧
      t = { s with regs := t.regs, start := t.start, slots := t.slots, links := t.links } ∧
      (pg ≠ .tol → t.start = s.start) ∧ (pg ≠ .stmQrm → t.slots = s.slots) ∧
      (∀ e, (t.link e) = { s.link e with testErrs := (t.link e).testErrs })) ∧
  (∀ (pg : Page) (v : U32) (s : State), s.writes pg = true → pg.hasNumflags = true →
    ∃ t, exec (.numflagsClear pg v) s = .next t ∧ t.reg pg 0xF00 = s.reg pg 0xF00 &&& ~~~ (v &&& 0xF0F) ∧
      t.reg pg 0xF04 = (if t.reg pg 0xF00 &&& 0xF = 0 then s.reg pg 0xF04 &&& ~~~ 0x4000#32 else s.reg pg 0xF04) ∧
      s.regsKept t [pg.base + 0xF00, pg.base + 0xF04] ∧ t = { s with regs := t.regs }) ∧
  (∀ (b : Fin 3) (s : State), s.writes (.glb b) = true →
    ∃ t, exec (.bindCacheFlush b) s = .next t ∧ (∀ c, c ∈ t.caches ↔ c ∈ s.caches ∧ c.base ≠ b.val) ∧ t = { s with caches := t.caches }) ∧
  (∀ (n : Fin 192) (v : U32) (s : State),
    let c0 := fieldOf v 0 6
    let c1 := fieldOf v 8 6
    let ok : Bool := decide (c0 ≤ 31 ∨ c0 = 63) && decide (c1 ≤ 31 ∨ c1 = 63) && decide (c0 ≠ c1 ∨ c0 = 63)
    (n.val ∈ s.start.repaired → exec (.mxaRepairWrite n v) s = .next s) ∧
    (n.val ∉ s.start.repaired → ∃ t, exec (.mxaRepairWrite n v) s = .next t ∧ n.val ∈ t.start.repaired ∧
      t.reg (.mxa n) 0x044 = v &&& 0x80003F3F ∧
      (ok = true → v.getLsbD 31 = false → t.arrayWidth n.val = 32 - ((if c0 ≤ 31 then 1 else 0) + (if c1 ≤ 31 then 1 else 0)) ∧
        t.reg (.mxa n) offErrStat = s.reg (.mxa n) offErrStat) ∧
      (ok = true → v.getLsbD 31 = true → t.reg (.mxa n) offErrStat = s.reg (.mxa n) offErrStat ||| 4) ∧
      (ok = false → t.reg (.mxa n) offErrStat = s.reg (.mxa n) offErrStat ||| 6) ∧
      (ok = false ∨ v.getLsbD 31 = true → t.coreRetired n.val = true) ∧
      s.regsKept t (errRegs (.mxa n) ++ [(Page.mxa n).base + 0x040, (Page.mxa n).base + 0x044]) ∧
      t = { s with regs := t.regs, start := { s.start with repaired := n.val :: s.start.repaired } })) ∧
  (∀ (n : Fin 192) (v : U32) (s : State), s.writes (.mxa n) = true →
    ∃ t, exec (.injectTallyOne n v) s = .next t ∧ t.reg (.mxa n) offErrInj = mergeBits (s.reg (.mxa n) offErrInj) v 0x3F00 ||| 1 ∧
      s.regsKept t [(Page.mxa n).base + offErrInj] ∧ t = { s with regs := t.regs }) ∧
  (∀ (n : Fin 192) (s : State), s.writes (.cpe n) = true →
    ∃ t, exec (.injectGrainOne n) s = .next t ∧ t.reg (.cpe n) offErrInj = s.reg (.cpe n) offErrInj ||| 1 ∧
      s.regsKept t [(Page.cpe n).base + offErrInj] ∧ t = { s with regs := t.regs })

/-- HBM_TEMP_SAMPLE and GDDR7_TEMP_SAMPLE (R218, R219, R223). -/
def Obligations.TemperatureBands : Prop :=
  let ok (d : MemDev) (c : BitVec 8) (s t : State) : Prop :=
    let pg := d.page
    let old := s.field pg 0x044 8 2
    let T := c.toNat
    t.field pg 0x044 0 8 = T ∧ t.field pg 0x044 11 1 = 0 ∧
    t.field pg 0x044 8 2 = (if 105 ≤ T ∨ (old = 3 ∧ 103 < T) then 3 else if 95 ≤ T ∨ (2 ≤ old ∧ 93 < T) then 2
      else if 85 ≤ T ∨ (1 ≤ old ∧ 83 < T) then 1 else 0) ∧
    t.reg pg 0x048 = (if (s.reg pg 0x048).toNat < T then c.zeroExtend 32 else s.reg pg 0x048) ∧
    t.reg pg 0x068 = (if t.field pg 0x044 8 2 = 3 then satAdd (s.reg pg 0x068) 1 else s.reg pg 0x068) ∧
    (t.field pg 0x044 8 2 = 3 → old ≠ 3 → s.raisedIn t pg 2) ∧
    s.regsKept t ([pg.base + 0x044, pg.base + 0x048, pg.base + 0x068] ++ errRegs pg) ∧ t = { s with regs := t.regs }
  let lost (d : MemDev) (s t : State) : Prop :=
    let pg := d.page
    t.field pg 0x044 8 2 = 2 ∧ t.field pg 0x044 11 1 = 1 ∧ s.raisedIn t pg 4 ∧
    s.regsKept t ([pg.base + 0x044] ++ errRegs pg) ∧ t = { s with regs := t.regs }
  (∀ (k : Fin 16) (c : BitVec 8) (s : State), s.baseUp (baseOfStack k.val) = true →
    (c.toNat < 115 → ∃ t, exec (.hbmTempSample k (some c)) s = .next t ∧ ok (.hbm k) c s t) ∧
    (∃ t, exec (.hbmTempSample k none) s = .next t ∧ lost (.hbm k) s t) ∧
    (115 ≤ c.toNat → ∃ t, exec (.hbmTempSample k (some c)) s = .next t ∧ t.baseUp (baseOfStack k.val) = false)) ∧
  (∀ (g : Fin 32) (c : BitVec 8) (s : State), s.baseUp (baseOfGddr g.val) = true →
    (∃ t, exec (.gddr7TempSample g (some c)) s = .next t ∧ ok (.gddr g) c s t) ∧
    (∃ t, exec (.gddr7TempSample g none) s = .next t ∧ lost (.gddr g) s t))

/-- MEMORY_SCRUB_READ, SRAM_SCRUB_READ, HBC_CLEAR_MAX and the injections (R237, R238, R240, R242). -/
def Obligations.ScrubReadsCountAndMoveOn : Prop :=
  (∀ (d : MemDev) (found : List ScrubFind) (retries : Nat) (s : State),
    let pg := d.page
    let pos := s.field pg 0x058 0 24
    let g := d.granuleAt pos
    let moved (t : State) : Prop :=
      (pos + 1 < d.granules → t.reg pg 0x058 = BitVec.ofNat 32 (pos + 1) ∧ t.reg pg 0x05C = s.reg pg 0x05C) ∧
      (d.granules ≤ pos + 1 → t.reg pg 0x058 = 0 ∧ t.reg pg 0x05C = s.reg pg 0x05C + 1) ∧
      t.mem.bytes = s.mem.bytes ∧ t.mem.tags = s.mem.tags
    let scan : List Nat := [pg.base + 0x058, pg.base + 0x05C]
    s.baseUp d.base = true →
    (s.field pg 0x054 0 8 = 0 → exec (.memoryScrubRead d found retries) s = .next s) ∧
    (s.field pg 0x054 0 8 ≠ 0 → s.armed pg 0 = false → s.armed pg 1 = false → (∀ i, i < g.2 / 64 → g.1 / 64 + i ∉ s.mem.bad) →
      (∀ w, w ∈ s.upsets → w.within g.1 g.2 = false) →
      (retries = 0 → found = [] → ∃ t, exec (.memoryScrubRead d found retries) s = .next t ∧ moved t ∧ s.regsKept t (scan ++ [pg.base + 0x070]) ∧ t = { s with regs := t.regs }) ∧
      (∀ l, retries = 0 → found = [⟨l, false⟩] → l < g.2 / 64 → ∃ t, exec (.memoryScrubRead d found retries) s = .next t ∧ moved t ∧
        t.reg pg 0x04C = satAdd (s.reg pg 0x04C) 1 ∧ s.raisedIn t pg 0 ∧ s.regsKept t (scan ++ [pg.base + 0x04C, pg.base + 0x070] ++ errRegs pg) ∧ t = { s with regs := t.regs }) ∧
      (∀ l, retries = 0 → found = [⟨l, true⟩] → l < g.2 / 64 → ∃ t, exec (.memoryScrubRead d found retries) s = .next t ∧ moved t ∧
        t.reg pg 0x050 = satAdd (s.reg pg 0x050) 1 ∧ t.pair pg 0x060 = g.1 + 64 * l ∧ s.raisedIn t pg 3 ∧ s.recordedIn t 0x03 S_MEM_UNCORR d.unit ∧
        t.mem.bad = (g.1 / 64 + l) :: s.mem.bad ∧ t = { s with regs := t.regs, mem := t.mem, log := t.log, logHead := t.logHead, free := t.free }) ∧
      (∀ i, d = .gddr i → pos < d.granules → retries ≤ 4 → found = [] → ∃ t, exec (.memoryScrubRead d found retries) s = .next t ∧ moved t ∧
        t.reg pg 0x070 = satAdd (s.reg pg 0x070) retries))) ∧
  (∀ (m : Fin 195) (s : State),
    let x := sramAt m.val
    let pos := SMap.get scrubDefault s.sramScrub m.val
    let moved (t : State) : Prop :=
      SMap.get scrubDefault t.sramScrub m.val = (if 8 * (pos + 1) < x.2.1 then pos + 1 else 0) ∧
      keptBut (SMap.get scrubDefault s.sramScrub) (SMap.get scrubDefault t.sramScrub) [m.val]
    let here (w : Upset) : Bool := w.within (x.1 + 8 * pos) 8
    (s.die x.2.2).up = true →
    (∀ ecc, ∃ t, exec (.sramScrubRead m ecc) s = .next t ∧ moved t ∧ t.upsets = s.upsets.filter (fun w => !here w) ∧ t.mem = s.mem) ∧
    ((∀ w, w ∈ s.upsets → here w = false) →
      (∃ t, exec (.sramScrubRead m .uncorrectable) s = .next t ∧ moved t ∧ s.recordedIn t 0x03 S_MEM_UNCORR unitModule ∧
        t = { s with log := t.log, logHead := t.logHead, free := t.free, sramScrub := t.sramScrub }) ∧
      (∃ t, exec (.sramScrubRead m .clean) s = .next t ∧ moved t ∧ t = { s with sramScrub := t.sramScrub }) ∧
      (∃ t, exec (.sramScrubRead m .corrected) s = .next t ∧ moved t ∧ t.sramCorr = s.sramCorr + 1 ∧
        t = { s with sramScrub := t.sramScrub, sramCorr := t.sramCorr }))) ∧
  (∀ (d : MemDev) (s : State), s.hostReach = true → s.baseUp d.base = true →
    (∃ t, exec (.hbcClearMax d) s = .next t ∧ t.reg d.page 0x048 = BitVec.ofNat 32 (s.field d.page 0x044 0 8) ∧
      s.regsKept t [d.page.base + 0x048] ∧ t = { s with regs := t.regs }) ∧
    (∃ t, exec (.injectMemCorr d) s = .next t ∧ t.reg d.page offErrInj = s.reg d.page offErrInj ||| 1 ∧
      s.regsKept t [d.page.base + offErrInj] ∧ t = { s with regs := t.regs }) ∧
    (∃ t, exec (.injectMemUncorr d) s = .next t ∧ t.reg d.page offErrInj = s.reg d.page offErrInj ||| 2 ∧
      s.regsKept t [d.page.base + offErrInj] ∧ t = { s with regs := t.regs }))

/-- REGION_VALID_SET, REGION_VALID_CLEAR and REGION_BOUNDS_WRITE (R235). -/
def Obligations.RegionTableRules : Prop :=
  ∀ (v : U32) (w : U48) (limit : Bool) (s : State),
    let j := s.rgnJob
    let n := s.rgnNum
    let r := s.region j n
    let rw : Region := { r with rd := v.getLsbD 1, wr := v.getLsbD 2 }
    let a := w.toNat / 2048 * 2048
    let same (t : State) : Prop := ∀ k m, k < 256 → m < 64 → (k ≠ j ∨ m ≠ n) → t.region k m = s.region k m
    let refused (t : State) (x : Region) (why : Nat) : Prop :=
      t.region j n = x ∧ same t ∧ fieldOf (t.reg .stmRgn 0x058) 0 3 = why ∧ fieldOf (t.reg .stmRgn 0x058) 3 8 = j ∧
      fieldOf (t.reg .stmRgn 0x058) 11 6 = n ∧ s.raisedIn t .stmRgn 0 ∧ s.regsKept t ([Page.stmRgn.base + 0x058] ++ errRegs .stmRgn) ∧
      t = { s with regions := t.regions, regs := t.regs }
    let done (t : State) (x : Region) : Prop := t.region j n = x ∧ same t ∧ t = { s with regions := t.regions }
    s.hostReach = true →
    (r.valid = false →
      (∃ t, exec (.regionValidSet v) s = .next t ∧
        (if s.jobBusy j = true then refused t rw 4
         else if r.limit < r.base ∨ 2 ^ 42 ≤ r.limit - r.base then refused t rw 1
         else if s.rangeOk r = false then refused t rw 2
         else if s.regionOverlaps j rw = true then refused t rw 3
         else done t { rw with valid := true })) ∧
      (∃ t, exec (.regionValidClear v) s = .next t ∧ done t rw) ∧
      (∃ t, exec (.regionBoundsWrite limit w) s = .next t ∧ done t (if limit = true then { r with limit := a } else { r with base := a }))) ∧
    (r.valid = true →
      (∃ t, exec (.regionValidSet v) s = .next t ∧ (if rw = r then t = s else refused t r 5)) ∧
      (∃ t, exec (.regionValidClear v) s = .next t ∧ (if s.jobBusy j = true then refused t r 4 else done t { rw with valid := false })) ∧
      (∃ t, exec (.regionBoundsWrite limit w) s = .next t ∧ refused t r 5))

/-- Reads, writes and permissions of memory (R217, R233). -/
def Obligations.MemoryReadsBackAndIsTagged : Prop :=
  (∀ (m : Memory) (a : Nat) (bs : List U8),
    let m' := m.write a bs
    m'.read a bs.length = bs ∧ (∀ x, x < a ∨ a + bs.length ≤ x → m'.byte x = m.byte x) ∧
    (∀ b, taggable (b * 2048) = true → a < (b + 1) * 2048 → b * 2048 < a + bs.length → m'.tag b = m'.computeTag b) ∧
    (∀ b, (b + 1) * 2048 ≤ a ∨ a + bs.length ≤ b * 2048 → m'.tag b = m.tag b) ∧
    (∀ l, a ≤ l * 64 → l * 64 + 64 ≤ a + bs.length → l ∉ m'.bad)) ∧
  (∀ (s : State) (j a n : Nat) (wr : Bool), s.allowed j a n wr = true ↔
    ∃ p, p ∈ s.regions ∧ p.1 / 64 = j ∧ p.2.valid = true ∧ (if wr = true then p.2.wr else p.2.rd) = true ∧ p.2.base ≤ a ∧ a + n ≤ p.2.limit + 2048)

/-- SLOW_TIER_COMPLETION, SLOW_TIER_TIMEOUT and WINDOW_REQUEST_TIMEOUT (R229 to R231, R359). -/
def Obligations.RemoteRequestsEnd : Prop :=
  (∀ (req p : Nat) (data : List U8) (x : UioReq) (s : State),
    let ask (w : Wait) : Option (Nat × Nat) := match w with
      | .slow _ a _ n none => some (a, n)
      | _ => none
    s.cxl.active = some p → s.uioReq req = some x →
    (∀ w, s.slowWait x = some w → ∀ y, ask w = some y → data.length = y.2 →
      ∃ t, exec (.slowTierCompletion req (some data)) s = .next t ∧
        (∀ r, (s.engine x.unit).cur = some r → ∃ r', (t.engine x.unit).cur = some r' ∧ w ∉ r'.waits ∧
          r'.fetched = r.fetched ++ ((List.range y.2).map (y.1 + ·)).zip data) ∧
        t.mem = s.mem ∧ t = { s with engines := t.engines, cxl := t.cxl, out := t.out }) ∧
    (s.firstRun x.unit → (s.slowWait x).isSome = true →
      (∃ t, exec (.slowTierCompletion req none) s = .next t ∧ s.toRepeat t x.unit S_SLOW_TIER ∧
        t.reg (cxpPage x.port) 0x068 = satAdd (s.reg (cxpPage x.port) 0x068) 1 ∧ t.mem = s.mem) ∧
      (∃ t, exec (.slowTierTimeout req) s = .next t ∧ s.toRepeat t x.unit S_SLOW_TIER ∧
        t.reg (cxpPage x.port) 0x068 = satAdd (s.reg (cxpPage x.port) 0x068) 1 ∧ t.mem = s.mem))) ∧
  (∀ (req u : Nat) (s : State), s.unitWaiting req = some u → s.firstRun u →
    ∃ t, exec (.windowRequestTimeout req) s = .next t ∧ s.toRepeat t u S_FAB_TIMEOUT ∧
      t = { s with engines := t.engines, streams := t.streams, jobs := t.jobs })

/-- BINDING_COMPLETE (R28, R105, R108, R114). -/
def Obligations.BindingCompletesIntoRunning : Prop :=
  ∀ (n : Fin 16384) (plan : Plan) (s : State),
    let x := s.stream n.val
    let pg := glbPage x.home
    s.atBinder n.val = true → (s.job x.job).expelled = false →
    ∀ s1 p, s.checkImage n.val plan.remote = .ok s1 p → ∀ l, s.internalsOf n.val x.job p plan = some l →
    s.noRoom x.job p (s.imageSha p plan.remote) = [] → s.planOk x.job p plan = true →
    (p.nodes = [] → x.pend = [] → ∃ t, exec (.bindingComplete n plan) s = .next t ∧ (t.stream n.val).st = .completed ∧ (t.stream n.val).endStatus = S_OK ∧
      t.mem = s1.mem ∧ (t.reg pg 0x050) = s1.reg pg 0x050 + 1) ∧
    (p.nodes ≠ [] → s.waiting = [] →
      let b := s1.withOlds n.val x.job (plan.bound p l)
      let w : WaitingBind := ⟨n.val, plan, b, p.outTotal⟩
      ∃ t, exec (.bindingComplete n plan) s = .next t ∧ t.reg pg 0x050 = s1.reg pg 0x050 + 1 ∧ s.streamsKept t [n.val] ∧
        s1.regsKept t [pg.base + 0x050, pg.base + 0x054] ∧
        (s.slotsFit x.job b = true → s.placeFree w = true → t.waiting = [] ∧
          t.stream n.val = { x with st := .running, bound := some b, outTotal := p.outTotal, nodesTotal := p.nodes.length, gen := x.gen + 1 }) ∧
        (s.slotsFit x.job b = false → t.stream n.val = x ∧ t.waiting = [w]) ∧
        t = { s1 with streams := t.streams, links := t.links, bundles := t.bundles, out := t.out, regs := t.regs, caches := t.caches, waiting := t.waiting })

/-- BINDING_FAIL (R41, R51, R104, R105). -/
def Obligations.BindingFailsWithItsCode : Prop :=
  ∀ (n : Fin 16384) (remote : List U8) (s : State),
    let x := s.stream n.val
    let pg := glbPage x.home
    let failed (t : State) (code : U16) : Prop :=
      (t.stream n.val).st = .failed ∧ (t.stream n.val).endStatus = code ∧ (t.stream n.val).faultUnit = unitBinder x.home ∧
      (t.stream n.val).pend = [] ∧ (t.stream n.val).discarded = x.dropped + x.pend.length ∧ fieldOf (t.reg pg 0x058) 0 16 = code.toNat ∧
      t.reg pg 0x05C = BitVec.ofNat 32 n.val ∧ (t.reg pg offErrStat).getLsbD 0 = true ∧ t.mem.bytes = s.mem.bytes
    s.atBinder n.val = true →
    ((s.job x.job).expelled = true → ∃ t, exec (.bindingFail n (.check remote)) s = .next t ∧ failed t S_EXPELLED) ∧
    ((s.job x.job).expelled = false →
      (∀ s1 c items, s.checkImage n.val remote = .fail s1 c items →
        ∃ t, exec (.bindingFail n (.check remote)) s = .next t ∧ failed t c) ∧
      (∀ s1 p, s.checkImage n.val remote = .ok s1 p →
        (s.noRoom x.job p (s.imageSha p remote) = [] → exec (.bindingFail n (.check remote)) s = .next s) ∧
        (s.noRoom x.job p (s.imageSha p remote) ≠ [] → ∃ t, exec (.bindingFail n (.check remote)) s = .next t ∧ failed t S_G_NO_ROOM)))

/-- FIRING_START (R23, R24, R32, R33). -/
def Obligations.FiringTakesTokensAndCredits : Prop :=
  (∀ (u : Nat) (s : State), s.pick u ≠ .nothing → s.pwr.st = .run ∧ s.pwr.change = none ∧ (s.die (unitDie u)).up = true ∧
      (s.tuneUnit u).fenced = false ∧ (s.engine u).cur = none ∧ (s.engine u).tuning = false) ∧
  (∀ (u k : Nat) (s : State), s.eligible u false ≠ [] → s.pick u ≠ .fire k true) ∧
  (∀ (u : Fin 822) (s : State), isLathe u.val = false → s.lapse.pick u.val = .nothing → exec (.firingStart u) s = .next s.lapse) ∧
  (∀ (u : Fin 822) (d : Bool) (s : State), (isArray u.val || isVector u.val || isCurve u.val) = true →
    let c := s.lapse
    ∀ k, c.pick u.val = .fire k d → ∀ b, (c.stream (k / 65536)).bound = some b → ∀ y, b.nodes[k % 65536]? = some y →
    ∀ g, b.prog.nodes[y.node]? = some g → g.op ≠ opCopy → isLathe y.unit = false →
    let n := k / 65536
    let slot := k % 65536
    ∃ t, exec (.firingStart u) s = .next t ∧ (t.engine u.val).cur = some ⟨n, slot, y.rep, [], [], false, 0, (true, true), (.unsaid, 0)⟩ ∧
      (y.rep = false → (t.stream n).bound = some { b with edges := b.edges.map (fun e =>
        { e with tokens := (if e.dst = slot then e.tokens.tail else e.tokens), credits := (if e.src = slot then e.credits - 1 else e.credits) }) } ∧ t.regs = s.regs) ∧
      (y.rep = true → (t.stream n).bound = some b ∧ t.reg .grn 0x074 = satAdd (s.reg .grn 0x074) 1 ∧ s.regsKept t [Page.grn.base + 0x074]) ∧
      t.stream n = { s.stream n with bound := (t.stream n).bound } ∧ s.streamsKept t [n] ∧ keptBut c.engine t.engine [u.val] ∧
      t = { s with engines := t.engines, streams := t.streams, regs := t.regs })

/-- FIRING_COMPLETE (R25, R94, R97, R114). -/
def Obligations.FiringStoresAndHandsOn : Prop :=
  ∀ (u : Fin 822) (obs : FireObs) (s : State), ∀ q, s.firingOf u.val = some q →
    let r := q.1
    let b := q.2.1
    let y := q.2.2
    let x := s.stream r.stream
    let b' := b.deliver r.slot r.took
    let handed (c : State) (ws : List (Nat × List U8)) : Memory :=
      if r.took.2 = true ∧ x.over = false then (({ c with mem := c.mem.writeAll ws } : State).stageBlocks x.job b r.slot y.next ws).mem else c.mem.writeAll ws
    let ends (t : State) : Prop :=
      (t.engine u.val).cur = none ∧
      (x.over = false → b'.allDone = false → y.revoked = false → (t.stream r.stream).bound = some b' ∧ (t.stream r.stream).firings = x.firings + 1 ∧
        (t.stream r.stream).st = x.st) ∧
      (x.st = .running → b'.allDone = true → x.pend = [] → (t.stream r.stream).st = .completed ∧ (t.stream r.stream).endStatus = S_OK)
    (r.waits ≠ [] → exec (.firingComplete u obs) s = .next s) ∧
    (r.waits = [] → s.pwr.st = .run → ∀ n, b.prog.nodes[y.node]? = some n →
      (n.op = opPhase → ∃ t, exec (.firingComplete u obs) s = .next t ∧ ends t ∧ t.mem = s.mem ∧
        (b'.nodeDone y.node = true → x.over = false → (t.job x.job).phase = n.sub % 4)) ∧
      (n.op ≠ opPhase → n.op ≠ opCollective → isLathe u.val = false →
        let runs := (y.firings[y.next]?).getD []
        let out := s.writesOf x.job b runs
        let ins := s.inViews x.job b y.node n
        let outs := s.outViews x.job b y.node n
        ∀ c, s.gather u.val x.job ((s.readsOf x.job b y.node n runs).map (fun z => z.acc b.prog (readTagged b.prog n z.tensor)))
            (out.map (fun z => z.acc b.prog false)) = (c, true) →
          let rd := c.nodeRd u.val b y.node
          let arrays := c.arrayRuns u.val rd b.prog y.node n ins outs out obs.before
          let ws := (pieceWrites rd b.prog y.node n ins outs (arrays.flatMap (·.flips)) out).1
          (∀ a, a ∈ arrays → a.seen.miss = none) → (∀ w, w ∈ ws → inWindow w.1 = false) →
          ∃ t, exec (.firingComplete u obs) s = .next t ∧ ends t ∧ t.mem = handed c ws))

/-- FIRING_FAULT, FIRING_WATCHDOG and ABORT_DRAIN_DONE (R27, R31, R59, R402, R403). -/
def Obligations.FaultsRepeatThenFail : Prop :=
  (∀ (u : Fin 822) (cause : FaultCause) (f : BitVec 4) (s : State),
    let code : U16 := match cause with
      | .tally _ _ _ _ _ => S_TALLY
      | .memory _ _ _ => S_MEM_UNCORR
      | .grain _ _ => S_GRAIN
    let befalls : Bool := match cause with
      | .tally core pass vector d b => (s.passesAt u.val core pass vector).any (fun x => missBeyond x.2 d b)
      | .memory k a _ => if k = 2 then reachesSram u.val a else s.readsAt u.val a && (devOf a).any (fun d => decide (d.kind = k))
      | .grain a found => s.readsAt u.val a && decide (found ≠ s.storedTag u.val (a / 2048))
    (s.engine u.val).cur ≠ none → befalls = true →
    ∃ t, exec (.firingFault u cause f) s = .next t ∧ t.mem.bytes = s.mem.bytes ∧ t.mem.tags = s.mem.tags ∧
      (s.firstRun u.val → s.toRepeat t u.val code) ∧
      (∀ r, (s.engine u.val).cur = some r → r.rep = true → (s.stream r.stream).st = .running → (s.tuneUnit u.val).fenced = false →
        (t.stream r.stream).st = .failed ∧ (t.stream r.stream).endStatus = code ∧ (t.stream r.stream).faultUnit = unitField u.val)) ∧
  (∀ (u : Fin 822) (s : State), ∀ r, (s.engine u.val).cur = some r →
    let x := s.stream r.stream
    let pg := stmPage x.home
    ∃ t, exec (.firingWatchdog u) s = .next t ∧ t.reg pg 0x04C = satAdd (s.reg pg 0x04C) 1 ∧ (t.reg pg offErrStat).getLsbD 0 = true ∧ t.mem = s.mem ∧
      (t.engine u.val).cur = none ∧
      (x.st = .binding ∨ x.st = .running ∨ x.st = .frozen →
        (t.stream r.stream).st = .failed ∧ (t.stream r.stream).endStatus = S_FIRE_OVERRUN ∧ (t.stream r.stream).faultUnit = unitField u.val)) ∧
  (∀ (n : Fin 16384) (s : State),
    ((s.stream n.val).st = .draining → s.drained n.val = true → s.pwr.st = .run →
      ∃ t, exec (.abortDrainDone n) s = .next t ∧ (t.stream n.val).st = .aborted ∧ (t.stream n.val).endStatus = S_ABORTED ∧
        (t.stream n.val).pend = [] ∧ t.mem = s.mem) ∧
    (((s.stream n.val).st ≠ .draining ∨ s.drained n.val = false) → exec (.abortDrainDone n) s = .next s))

/-- What lets a Lathe firing go on (R23, R276, R306, R309). -/
def Obligations.LatheStartsOnlyWhatIsReady : Prop :=
  (∀ (l : Fin 3) (n : Fin 16384) (node : Nat) (part : LathePart) (blocks : Nat) (s : State),
    let u := 819 + l.val
    (s.beginPart l.val n.val node part blocks).2 = true →
    (∀ q, s.firingOf u = some q → q.1.stream = n.val ∧ q.2.2.node = node ∧ q.1.waits = [] ∧ s.pwr.st = .run) ∧
    (s.firingOf u = none → ∃ q, s.latheSlot n.val node = some q ∧ s.servedBy n.val (s.stream n.val) q.1 q.2.1 q.2.2 l.val = true ∧
      s.partReady n.val (s.stream n.val) q.1 q.2.1 q.2.2 part blocks false = true ∧ q.2.1.repeats (part, blocks) = true ∧
      (s.die (unitDie u)).up = true ∧ (s.tuneUnit u).fenced = false ∧ (s.engine u).cur = none ∧ s.pwr.st = .run ∧ (s.stream n.val).st = .running)) ∧
  (∀ (n blocks : Nat) (b : Bound) (y : BNode) (g : GNode) (s : State),
    let x := s.stream n
    s.partReady n x b y g .commit blocks false = true →
    ∃ v, s.updOf n y.node = some v ∧ v.castOnly = false ∧ v.retained = v.hdr.n ∧ (v.applied = v.hdr.n ∨ (v.runsRecipe = false ∧ v.hasCast = false)) ∧
      (∀ a, v.applies = some a → ∃ h, (s.job x.job).horizon = some h ∧ a ≤ h) ∧ s.quorumLost x.job = false)

/-- UPDATE_FIRST_FIRING (R306, R621). -/
def Obligations.UpdateFirstFiringHoldsRecord : Prop :=
  ∀ (l : Fin 3) (n : Fin 16384) (node : Nat) (s : State),
    let u := 819 + l.val
    let p := s.beginPart l.val n.val node .first 0
    let c := p.1
    p.2 = true → ∀ q, c.firingOf u = some q → ∀ g, q.2.1.prog.nodes[q.2.2.node]? = some g →
    let r := q.1
    let b := q.2.1
    let y := q.2.2
    let x := c.stream r.stream
    let a := c.stateAddr x.job b.prog y.node g
    let extent := match b.prog.stateOf y.node g with
      | some t => t.exts.headD 0
      | none => 0
    let h := readHeader (c.rdAt u) a
    let sa := c.locAddr x.job h.scaleLoc
    let rd := c.rdAt u
    c.gather u x.job (headerReads a) [] = (c, true) → c.wrongLathe u r.stream rd a = false → c.updOf r.stream y.node = none →
    (c.headerBad rd r.stream y.node b g a extent = true →
      ∃ t, exec (.updateFirstFiring l n node) s = .next t ∧ (t.engine u).cur = none ∧ t.mem = c.mem ∧
        (x.st = .running → (t.stream r.stream).st = .failed ∧ (t.stream r.stream).endStatus = S_L_HEADER ∧ (t.stream r.stream).faultUnit = unitField u)) ∧
    (c.headerBad rd r.stream y.node b g a extent = false → (h.scaleLoc ≠ 0 → c.gather u x.job (headerReads sa) [] = (c, true)) →
      c.gather u x.job (if (c.preChecks rd r.stream y.node b g a extent sa).isSome then [] else c.claimReads u a h) [] = (c, true) →
      c.gather u x.job (c.weightReads rd u r.stream y.node b g a extent sa) [] = (c, true) →
      (∀ c' code, c.firstChecks rd u r.stream y.node b g a extent sa = .fail c' code → code ≠ S_MEM_UNCORR →
        ∃ t, exec (.updateFirstFiring l n node) s = .next t ∧ (t.engine u).cur = none ∧ t.mem = c'.mem ∧
          (x.st = .running → (t.stream r.stream).st = .failed ∧ (t.stream r.stream).endStatus = code ∧ (t.stream r.stream).faultUnit = unitField u)) ∧
      (∀ c' v, c.firstChecks rd u r.stream y.node b g a extent sa = .held c' v →
        ∃ t, exec (.updateFirstFiring l n node) s = .next t ∧ (t.engine u).cur = none ∧ t.mem = c'.mem ∧
          (∀ k, (k < recordAddr h.stack h.record ∨ recordAddr h.stack h.record + 64 ≤ k) → t.mem.byte k = c.mem.byte k) ∧
          v.stream = r.stream ∧ v.node = y.node ∧ v.lathe = l.val ∧ v.step = g.step ∧ v.retained = 0 ∧ v.applied = 0 ∧
          (x.over = false → y.revoked = false → (v.castOnly = false ∨ v.hasCast = true ∨ g.sub = 62) → t.updOf r.stream y.node = some v)))

/-- LATHE_RETAIN_FIRING and LATHE_APPLY_FIRING (R292, R296, R306, R307). -/
def Obligations.RetainAndApplyWriteTheShard : Prop :=
  ∀ (l : Fin 3) (n : Fin 16384) (node blocks : Nat) (s : State),
    let u := 819 + l.val
    (let p := s.beginPart l.val n.val node .retain blocks
     let c := p.1
     p.2 = true → ∀ q, c.partAt u = some q →
      let r := q.1
      let b := q.2.1
      let y := q.2.2.1
      let g := q.2.2.2.1
      let v := q.2.2.2.2
      let x := c.stream r.stream
      let gv := viewAt (c.inViews x.job b y.node g) 0
      let lo := v.retained
      let hi := elemReach v.hdr.n lo r.part.2
      let e := gv.elemRows lo hi
      let k := max 1 (inner gv.exts)
      let dst := v.state + ringOffset v.hdr.nmom v.hdr.n (v.step % (v.hdr.late + 1)) + 2 * lo
      let codes := (List.range (hi - lo)).map (fun i => gv.code (c.nodeRd u b y.node) ((lo + i) / k) ((lo + i) % k))
      c.gather u x.job [⟨gv.addr + e.1, e.2 - e.1, b.prog.ownPort (b.prog.inPort y.node 0), true⟩] [⟨dst, 2 * (hi - lo), false, false⟩] = (c, true) →
      inWindow dst = false → x.over = false → y.revoked = false →
      ∃ t, exec (.latheRetainFiring l n node blocks) s = .next t ∧ (t.engine u).cur = none ∧
        t.mem = c.mem.write dst (codes.flatMap (leBytes 2) ++ (if hi = v.hdr.n then List.replicate (shardRB v.hdr.n - 2 * v.hdr.n) 0 else [])) ∧
        ∃ w, t.updOf r.stream y.node = some w ∧ w.retained = hi ∧ w.ringOvf = (v.ringOvf || codes.any (fun z => decide (z / 1024 % 32 = 31))) ∧
          w.step = v.step ∧ w.found = v.found ∧ w.digest = v.digest) ∧
    (let p := s.beginPart l.val n.val node .apply blocks
     let c := p.1
     p.2 = true → ∀ q, c.partAt u = some q →
      let r := q.1
      let b := q.2.1
      let y := q.2.2.1
      let g := q.2.2.2.1
      let v := q.2.2.2.2
      let x := c.stream r.stream
      let lo := v.applied
      let hi := elemReach v.hdr.n lo r.part.2
      let out := c.castView x.job b y.node g
      let outAcc : List Acc := match out with
        | some w => [⟨w.addr + (w.elemRows lo hi).1, (w.elemRows lo hi).2 - (w.elemRows lo hi).1, b.prog.ownPort (b.prog.outPort y.node 0), false⟩]
        | none => []
      let slotAcc : List Acc := if v.runsRecipe then (List.range (1 + v.hdr.nmom)).map (fun k => ⟨v.elemAddr (1 - v.found.active) k lo, 4 * (hi - lo), false, false⟩) else []
      let w := v.applied' (c.rdAt u) ((c.recipeOf g.sub).getD ⟨0, 0, []⟩) g.hyp out lo hi
      c.gather u x.job (v.applyReads lo hi) (slotAcc ++ outAcc) = (c, true) → (∀ z, z ∈ w.1 → inWindow z.1 = false) → x.over = false → y.revoked = false →
      ∃ t, exec (.latheApplyFiring l n node blocks) s = .next t ∧ (t.engine u).cur = none ∧ t.mem = c.mem.writeAll w.1 ∧
        (v.castOnly = true → hi = v.hdr.n → t.updOf r.stream y.node = none) ∧
        ((v.castOnly = false ∨ hi ≠ v.hdr.n) → ∃ z, t.updOf r.stream y.node = some z ∧
          z = { v with applied := hi, digest := (if lo = 0 then mix64 (BitVec.ofNat 64 (v.applies.getD 0)) else v.digest) ^^^ w.2.2 }))

/-- LATHE_COMMIT_FIRING (R298, R300, R301, R306, R308, R318). -/
def Obligations.CommitWritesTheRecord : Prop :=
  (∀ v : Upd,
    let e := v.step % (v.hdr.late + 1)
    let c := v.commitRecord
    c.nextStep = v.step + 1 ∧ c.owner = v.found.owner ∧ c.job = v.found.job ∧ c.claimed = v.found.claimed ∧ c.recipe = v.found.recipe ∧
    (e < v.found.ringS.length → c.ringS[e]? = some v.scale) ∧ c.ringOvf.testBit e = v.ringOvf ∧ (∀ i, i ≠ e → c.ringOvf.testBit i = v.found.ringOvf.testBit i) ∧
    (∀ a, v.applies = some a → v.skips = false → c.active = 1 - v.found.active ∧ c.versionStep = a ∧ c.digest = v.digest ∧ c.lastSkip = false ∧ c.skips = v.found.skips) ∧
    (∀ a, v.applies = some a → v.skips = true → c.active = v.found.active ∧ c.versionStep = a ∧ c.lastSkip = true ∧ c.skips = (v.found.skips + 1) % 2 ^ 32 ∧
      c.digest = v.found.digest ^^^ mix64 (BitVec.ofNat 64 v.found.versionStep) ^^^ mix64 (BitVec.ofNat 64 a)) ∧
    (v.applies = none → c.active = v.found.active ∧ c.versionStep = v.found.versionStep ∧ c.digest = v.found.digest ∧
      (v.hdr.late ≠ 0 → c.ringCount = v.found.ringCount + 1)) ∧
    (v.hdr.late = 0 → c.ringCount = 0)) ∧
  (∀ (l : Fin 3) (n : Fin 16384) (node : Nat) (s : State),
    let u := 819 + l.val
    let p := s.beginPart l.val n.val node .commit 0
    let c := p.1
    let pg := lthPage l.val
    p.2 = true → ∀ q, c.partAt u = some q →
      let r := q.1
      let v := q.2.2.2.2
      let x := c.stream r.stream
      let k := v.lathe * 256 + x.job
      let old := SMap.get ovfDefault c.ovf k
      c.gather u x.job [] [⟨v.state + 0x40, 64, false, false⟩] = (c, true) → inWindow (v.state + 0x40) = false → v.lathe = l.val →
      ∃ t, exec (.latheCommitFiring l n node) s = .next t ∧ (t.engine u).cur = none ∧ t.updOf r.stream q.2.2.1.node = none ∧
        t.mem = (c.mem.write (recordAddr v.stack v.record) (recordBody v.commitRecord ++ leBytes 4 (crc32c (recordBody v.commitRecord)).toNat)).write (v.state + 0x40)
          (recordBody v.commitRecord ++ leBytes 4 (crc32c (recordBody v.commitRecord)).toNat) ∧
        t.reg pg 0x078 = c.reg pg 0x078 + 1 ∧ t.reg pg 0x07C = c.reg pg 0x07C + (if v.skips then 1 else 0) ∧
        (v.scaled = false → t.ovf = c.ovf) ∧
        (v.scaled = true →
          SMap.get ovfDefault t.ovf k = (if old.set = true ∧ old.step = v.step then { old with ovf := old.ovf || v.ringOvf }
            else if old.set = false ∨ old.step < v.step then ⟨true, v.step, v.ringOvf⟩ else old) ∧
          ∀ m, m ≠ k → SMap.get ovfDefault t.ovf m = SMap.get ovfDefault c.ovf m))

/-- VERDICT and SHADOW_FIRING (R303, R315). -/
def Obligations.VerdictAndShadow : Prop :=
  ∀ (l : Fin 3) (n : Fin 16384) (node : Nat) (s : State),
    let u := 819 + l.val
    (let p := s.beginPart l.val n.val node .verdict 0
     let c := p.1
     p.2 = true → ∀ q, c.partAt u = some q →
      let r := q.1
      let b := q.2.1
      let y := q.2.2.1
      let g := q.2.2.2.1
      let v := q.2.2.2.2
      let x := c.stream r.stream
      let gv := viewAt (c.inViews x.job b y.node g) 0
      let out := c.castView x.job b y.node g
      let outAcc : List Acc := match out with
        | some w => [⟨w.addr, 2, b.prog.ownPort (b.prog.outPort y.node 0), false⟩]
        | none => []
      let one : Bool := decide (rdLe (c.nodeRd u b y.node) gv.addr 2 % 0x8000 ≠ 0) ||
        ([0, 1, 2] : List Nat).any (fun i => let z := SMap.get ovfDefault c.ovf (i * 256 + x.job); z.set && z.ovf && decide (z.step = v.step))
      c.gather u x.job [⟨gv.addr, 2, b.prog.ownPort (b.prog.inPort y.node 0), true⟩] outAcc = (c, true) → (∀ w, out = some w → inWindow w.addr = false) →
      ∃ t, exec (.verdict l n node) s = .next t ∧ (t.engine u).cur = none ∧ t.updOf r.stream y.node = none ∧
        (∀ w, out = some w → t.mem = c.mem.write w.addr (leBytes 2 (if one then 0x3C00 else 0))) ∧ (out = none → t.mem = c.mem)) ∧
    (let p := s.beginPart l.val n.val node .shadow 0
     let c := p.1
     p.2 = true → ∀ q, c.partAt u = some q →
      let r := q.1
      let y := q.2.2.1
      let g := q.2.2.2.1
      let v := q.2.2.2.2
      let x := c.stream r.stream
      let dst := c.locAddr x.job (v.shadowLoc g)
      let blks := v.shadowBlocks
      let k := v.retained
      let here := (blks.drop (k - 1)).take 256
      let block (a : Nat) : List U8 := (List.range 2048).map (fun i => c.rdAt u (a + i))
      let head := block v.state
      let goes (reads : List Acc) (at' : Nat) (bytes : List U8) (t : State) : Prop :=
        c.gather u x.job reads [⟨at', bytes.length, false, false⟩] = (c, true) → inWindow at' = false → x.over = false → y.revoked = false →
          exec (.shadowFiring l n node) s = .next t ∧ (t.engine u).cur = none ∧ t.mem = c.mem.write at' bytes ∧
          t.updOf r.stream y.node = (if k = 0 then some { v with retained := 1 } else if k ≤ blks.length then some { v with retained := k + here.length } else none)
      ∃ t, exec (.shadowFiring l n node) s = .next t ∧
        (k = 0 → goes [⟨v.state, 2048, false, true⟩] dst (List.replicate 4 0 ++ head.drop 4) t) ∧
        (1 ≤ k → k ≤ blks.length → goes (here.map (fun a => ⟨a, 2048, false, true⟩)) (dst + 2048 * k) (here.flatMap block) t) ∧
        (blks.length < k → goes [⟨v.state, 2048, false, true⟩] dst (head.take 0x40 ++ recordBytes v.found ++ head.drop 0x80) t))

/-- RECIPE_LOAD, RECIPE_LOAD_DONE, COMMIT_RECORD_RELEASE and the injections (R287, R294, R321, R322). -/
def Obligations.RecipesAndReleases : Prop :=
  (∀ (b : Fin 3) (v : U32) (s : State), s.writes (.lth b) = true → v.getLsbD 0 = true →
    (s.recipeLoad = none → ∃ t, exec (.recipeLoad b v) s = .next t ∧
      t = { s with recipeLoad := some ⟨s.field (.lth b) 0x044 0 6, b.val, (s.reg (.lth b) 0x04C).toNat + s.field (.lth b) 0x050 0 16 * 2 ^ 32⟩ }) ∧
    (s.recipeLoad ≠ none → exec (.recipeLoad b v) s = .next s)) ∧
  (∀ s : State, ∀ l, s.recipeLoad = some l →
    let z := ({ s with recipeLoad := none }).loadedRecipe l
    (∀ rc, z.2 = some rc → 16 ≤ l.job ∧ l.job ≤ 61 ∧ l.addr % 64 = 0 ∧ (hbmStack l.addr).isSome = true ∧ s.recipeBusy l.job = false ∧
      ∃ t, exec .recipeLoadDone s = .next t ∧ t.recipeLoad = none ∧ SMap.get recipeDefault t.recipes l.job = rc ∧
        (∀ k, k ≠ l.job → SMap.get recipeDefault t.recipes k = SMap.get recipeDefault s.recipes k) ∧
        (∀ i : Fin 3, fieldOf (t.reg (.lth i) 0x058) 0 16 = 0 ∧ t.reg (.glb i) 0x04C = s.reg (.glb i) 0x04C + 1) ∧ t.caches = [] ∧ t.waiting = []) ∧
    (z.2 = none → ∃ t, exec .recipeLoadDone s = .next t ∧ t.recipeLoad = none ∧ t.recipes = s.recipes ∧
      (∀ i : Fin 3, fieldOf (t.reg (.lth i) 0x058) 0 16 = S_L_RECIPE.toNat) ∧ (t.reg (lthPage l.count) offErrStat).getLsbD 2 = true)) ∧
  (∀ (b : Fin 3) (v : U32) (s : State),
    let stack := s.field (.lth b) 0x05C 16 4
    let rec' := s.field (.lth b) 0x05C 0 16
    let a := recordAddr stack rec'
    s.writes (.lth b) = true → v.getLsbD 0 = true →
    (s.recordHeld stack rec' = true → ∃ t, exec (.commitRecordRelease b v) s = .next t ∧ s.raisedIn t (.lth b) 3 ∧
      s.regsKept t (errRegs (.lth b)) ∧ t = { s with regs := t.regs }) ∧
    (s.recordHeld stack rec' = false → s.memDown (stack * stackSize) = false → ∃ t, exec (.commitRecordRelease b v) s = .next t ∧
      t.mem.read a 64 = List.replicate 64 0 ∧ s.bytesKept t a 64 ∧ t = { s with mem := t.mem })) ∧
  (∀ (b : Fin 3) (s : State), s.writes (.lth b) = true →
    (∃ t, exec (.injectRecordOne b) s = .next t ∧ t.reg (.lth b) offErrInj = s.reg (.lth b) offErrInj ||| 1 ∧
      s.regsKept t [(Page.lth b).base + offErrInj] ∧ t = { s with regs := t.regs }) ∧
    (∃ t, exec (.latheInjectGrainOne b) s = .next t ∧ t.reg (.lth b) offErrInj = s.reg (.lth b) offErrInj ||| 2 ∧
      s.regsKept t [(Page.lth b).base + offErrInj] ∧ t = { s with regs := t.regs }))

/-- The bring-up commands and INIT_UNIT_RECEIVED (R326 to R330). -/
def Obligations.LinkBringUp : Prop :=
  ∀ (p : Fin 12) (s : State),
    let x := s.port p.val
    let pg := wwyPage p.val
    let twin := s.isTwinPort p.val
    let bad (r : List U8) : Prop :=
      recField r 0 4 % 2 ^ 18 = s.selfId ∨ (recField r 5 1).testBit 0 ≠ x.encReq ∨ (recField r 5 1).testBit 1 ≠ twin ∨
      (twin = true ∧ (recField r 0x10 4 % 2 ^ 18 ≠ s.selfId ∨ s.twinPartner ≠ recField r 0 4 % 2 ^ 18))
    let isUp (r : List U8) (y : Port) : Prop :=
      y.up = true ∧ y.train = 5 ∧ y.enc = x.encReq ∧ y.peerId = recField r 0 4 % 2 ^ 18 ∧ y.peerPort = recField r 4 1 % 16 ∧
      y.credits = [recField r 8 2, recField r 10 2, recField r 12 2, recField r 14 2] ∧ y.txSeq = 1 ∧ y.rxSeq = 0 ∧
      y.replay = [] ∧ y.queue = [] ∧ y.keys = x.keys ∧ y.keyPhase = x.keyPhase ∧ y.rxBuf = x.rxBuf
    let judged (r : List U8) (t : State) : Prop :=
      (bad r → (t.port p.val).train = 4 ∧ (t.port p.val).up = x.up ∧ s.raisedIn t pg 2) ∧
      (¬ bad r → isUp r (t.port p.val) ∧ t.reg pg offErrStat = s.reg pg offErrStat)
    s.baseUp (p.val / 4) = true → (s.pwr.st = .run ∨ s.pwr.st = .hold) →
    (x.train = 1 → ∃ t, exec (.portSignalDetect p) s = .next t ∧ t.port p.val = { x with train := 2, signal := true } ∧ s.portOnly t p.val) ∧
    (x.train = 2 → ∃ t, exec (.linkTrainingDone p) s = .next t ∧ t.port p.val = { x with train := 3 } ∧ s.portOnly t p.val) ∧
    (x.train = 3 → ∃ t, exec (.fecLock p) s = .next t ∧
      t.port p.val = { x with train := 4, peerInit := none, initSent := false, encReq := (s.reg pg 0x044).getLsbD 1 } ∧ s.portOnly t p.val) ∧
    ((x.train = 2 ∨ x.train = 3 ∨ (x.train = 4 ∧ x.peerInit = none)) → ∃ t, exec (.linkTrainRetry p) s = .next t ∧
      t.port p.val = { x with train := 2, peerInit := none, initSent := false } ∧ s.portOnly t p.val) ∧
    (x.train = 4 → ∃ t, exec (.initSendTimer p) s = .next t ∧
      (∃ u, s.unitSent t p.val = some u ∧ u.field 28 4 = 2 ∧ u.field 0 12 = 0 ∧ u.field 26 1 = 0 ∧ u.body.length = 32 ∧ recField u.body 0 4 = s.selfId ∧
        recField u.body 4 1 = p.val ∧ recField u.body 5 1 = (if x.encReq then 1 else 0) + (if twin then 2 else 0) ∧ recField u.body 8 2 = 128 ∧
        recField u.body 10 2 = 4096 ∧ recField u.body 12 2 = 2048 ∧ recField u.body 14 2 = 1024 ∧ recField u.body 0x10 4 = (if twin then s.twinPartner else 0) ∧
        u.trailer = leBytes 4 (crc32c (leBytes 8 u.word.toNat ++ u.body)).toNat ++ List.replicate 12 0) ∧
      (x.peerInit = none → t.port p.val = { x with initSent := true }) ∧ (∀ r, x.peerInit = some r → judged r t) ∧
      keptBut s.port t.port [p.val] ∧ s.regsKept t (errRegs pg) ∧ t = { s with ports := t.ports, regs := t.regs, out := t.out }) ∧
    (∀ u : LinkUnit, u.field 28 4 = 2 → u.fecUncorr = 0 → u.field 26 1 = 0 → u.trailer = leBytes 4 (crc32c (leBytes 8 u.word.toNat ++ u.body)).toNat ++ List.replicate 12 0 →
      x.train = 4 → u.body.length = 32 → ∃ t, exec (.initUnitReceived p u) s = .next t ∧ t.reg pg 0x054 = satAdd (s.reg pg 0x054) u.fecCorr ∧
        (x.initSent = false → t.port p.val = { x with peerInit := some u.body }) ∧ (x.initSent = true → judged u.body t) ∧
        keptBut s.port t.port [p.val] ∧ s.regsKept t ([pg.base + 0x054, pg.base + 0x058] ++ errRegs pg) ∧ t = { s with ports := t.ports, regs := t.regs })

/-- LINK_DOWN, PORT_ENABLE_WRITE, PORT_RETRAIN, KEY_PHASE_SWITCH, KEY_NEXT_WRITE and INJECT_CRC_ONE (R343, R345, R371, R372). -/
def Obligations.LinkDownAndPortControls : Prop :=
  ∀ (p : Fin 12) (s : State),
    let x := s.port p.val
    let pg := wwyPage p.val
    let down (t : State) (train : Nat) : Prop :=
      (t.port p.val).up = false ∧ (t.port p.val).train = train ∧ (t.port p.val).replay = [] ∧ (t.port p.val).queue = [] ∧
      (t.port p.val).keys = x.keys ∧ (t.port p.val).keyPhase = x.keyPhase ∧ (t.port p.val).rxBuf = x.rxBuf
    let counted (t : State) : Prop :=
      t.reg pg 0x060 = s.reg pg 0x060 + 1 ∧ s.raisedIn t pg 0 ∧ s.recordedIn t 0x10 0 (unitOther 9 p.val)
    let alt (f : Frame) : Nat := (s.routeOf f.dst).2
    let mirrorOff : Prop := s.twinOn = false ∨ s.twinPort ≠ p.val ∨ s.twin.mirroring = false
    let lost (t : State) (ks : List Nat) : Prop :=
      keptBut s.port t.port [p.val] ∧ s.regsKept t ([pg.base + 0x060] ++ ks ++ errRegs pg) ∧
      t = { s with ports := t.ports, regs := t.regs, log := t.log, logHead := t.logHead, free := t.free }
    (x.up = true → x.train ≠ 0 →
      (x.queue = [] → mirrorOff → ∃ t, exec (.linkDown p) s = .next t ∧ down t 2 ∧ counted t ∧ lost t []) ∧
      ((∀ f, f ∈ x.queue → f.src ≠ s.selfId ∧ (f.bcast = true ∨ alt f = p.val ∨ s.portUp (alt f) = false)) → mirrorOff →
        ∃ t, exec (.linkDown p) s = .next t ∧ down t 2 ∧ counted t ∧ t.reg pg 0x05C = satAdd (s.reg pg 0x05C) x.queue.length ∧ lost t [pg.base + 0x05C]) ∧
      (∀ f, x.queue.head? = some f → x.queue = [f] → f.bcast = false → alt f ≠ p.val → s.portUp (alt f) = true → s.carries (alt f) f = true →
        ∃ t, exec (.linkDown p) s = .next t ∧ (t.port (alt f)).queue = (s.port (alt f)).queue ++ [f] ∧ t.reg pg 0x05C = s.reg pg 0x05C ∧ down t 2) ∧
      (x.queue = [] → s.twinOn = true → s.twinPort = p.val → s.twin.mirroring = true →
        ∃ t, exec (.linkDown p) s = .next t ∧ t.twin = { s.twin with mirroring := false, stopped := true, queue := [], waiting := [], cur := none } ∧
          s.raisedIn t .twn 0 ∧ down t 2 ∧ counted t)) ∧
    (s.hostReach = true → s.baseUp (p.val / 4) = true →
      (∀ v : U32, let k := (s.reg pg 0x044 &&& ~~~0xF#32) ||| (v &&& 0xF)
        (v.getLsbD 0 = true → v.getLsbD 4 = false → ∃ t, exec (.portEnableWrite p v) s = .next t ∧ t.reg pg 0x044 = k ∧
          t.port p.val = (if x.train = 0 then { x with train := 1 } else x) ∧ keptBut s.port t.port [p.val] ∧ s.regsKept t [pg.base + 0x044] ∧ t = { s with ports := t.ports, regs := t.regs }) ∧
        (v.getLsbD 0 = false → v.getLsbD 4 = false → x.up = false → ∃ t, exec (.portEnableWrite p v) s = .next t ∧ t.reg pg 0x044 = k ∧ down t 0 ∧
          keptBut s.port t.port [p.val] ∧ s.regsKept t [pg.base + 0x044] ∧ t = { s with ports := t.ports, regs := t.regs }) ∧
        (v.getLsbD 0 = false → x.up = true → x.queue = [] → mirrorOff → ∃ t, exec (.portEnableWrite p v) s = .next t ∧ t.reg pg 0x044 = k ∧ down t 0 ∧ counted t ∧
          lost t [pg.base + 0x044])) ∧
      (x.up = false → x.train ≠ 0 → ∃ t, exec (.portRetrain p) s = .next t ∧ down t 2 ∧ s.portOnly t p.val) ∧
      (x.up = true → x.train ≠ 0 → x.queue = [] → mirrorOff → ∃ t, exec (.portRetrain p) s = .next t ∧ down t 2 ∧ counted t ∧ lost t []) ∧
      (∃ t, exec (.keyPhaseSwitch p) s = .next t ∧ t.port p.val = { x with keyPhase := 1 - x.keyPhase, sealedUnits := 0 } ∧ s.portOnly t p.val) ∧
      (∀ (i : Fin 8) (v : U32), x.keys.length = 2 → (x.keyPhase = 0 ∨ x.keyPhase = 1) → ∃ t, exec (.keyNextWrite p i v) s = .next t ∧
        (t.port p.val).keys.getD x.keyPhase [] = x.keys.getD x.keyPhase [] ∧ ((t.port p.val).keys.getD (1 - x.keyPhase) []).getD i.val 0 = v ∧
        (∀ k, k < 8 → k ≠ i.val → ((t.port p.val).keys.getD (1 - x.keyPhase) []).getD k 0 = (x.keys.getD (1 - x.keyPhase) []).getD k 0) ∧
        t.port p.val = { x with keys := (t.port p.val).keys } ∧ s.portOnly t p.val) ∧
      (∃ t, exec (.injectCrcOne p) s = .next t ∧ t.reg pg offErrInj = s.reg pg offErrInj ||| 1 ∧ s.regsKept t [pg.base + offErrInj] ∧ t = { s with regs := t.regs }))

/-- DATA_UNIT_RECEIVED and EMPTY_UNIT_RECEIVED (R342, R344). -/
def Obligations.UnitsReceived : Prop :=
  ∀ (p : Fin 12) (u : LinkUnit) (s : State),
    let x := s.port p.val
    let pg := wwyPage p.val
    let crcOk : Prop := u.fecUncorr = 0 ∧ u.field 26 1 = 0 ∧ u.trailer = leBytes 4 (crc32c (leBytes 8 u.word.toNat ++ u.body)).toNat ++ List.replicate 12 0
    let fec (t : State) : Prop := t.reg pg 0x054 = satAdd (s.reg pg 0x054) u.fecCorr ∧ t.reg pg 0x058 = satAdd (s.reg pg 0x058) u.fecUncorr
    let fecRegs : List Nat := [pg.base + 0x054, pg.base + 0x058]
    let kept : List Kept := match x.replay.findIdx? (fun k => k.lseq == u.field 12 12) with
      | some i => x.replay.drop (i + 1)
      | none => x.replay
    let acked (y : Port) : Prop :=
      y.replay = kept ∧ y.replays = (if kept.length = x.replay.length then x.replays else 0) ∧
      (∀ c, c < 4 → y.credits.getD c 0 = x.credits.getD c 0 + u.field (32 + 8 * c) 8) ∧ y.txSeq = x.txSeq ∧ y.queue = x.queue ∧ y.up = true
    let frameIn (f : Frame) (t : State) : Prop :=
      acked (t.port p.val) ∧
      (u.field 0 12 = (x.rxSeq + 1) % 4096 →
        (t.port p.val).rxSeq = u.field 0 12 ∧ (t.port p.val).nak = false ∧
        (x.unacked < 63 → (t.port p.val).unacked = x.unacked + 1 ∧ t.out = s.out) ∧
        (63 ≤ x.unacked → (t.port p.val).unacked = 0 ∧ ∃ e, s.unitSent t p.val = some e ∧ e.field 28 4 = 0 ∧ e.body = [] ∧ e.field 12 12 = u.field 0 12 ∧ e.field 24 1 = 0) ∧
        (f.wellFormed = true → (t.port p.val).rxBuf = x.rxBuf ++ [f] ∧ t.reg pg 0x05C = s.reg pg 0x05C) ∧
        (f.wellFormed = false → (t.port p.val).rxBuf = x.rxBuf ∧ t.reg pg 0x05C = satAdd (s.reg pg 0x05C) 1)) ∧
      (u.field 0 12 ≠ (x.rxSeq + 1) % 4096 → (t.port p.val).rxSeq = x.rxSeq ∧ (t.port p.val).rxBuf = x.rxBuf ∧ (t.port p.val).nak = x.nak ∧ t.reg pg 0x05C = s.reg pg 0x05C)
    x.up = true →
    (u.field 28 4 = 1 → x.enc = false →
      (crcOk → u.field 24 1 = 0 → ∃ t, exec (.dataUnitReceived p u) s = .next t ∧ frameIn (parseFrame u.body) t ∧ fec t ∧
        keptBut s.port t.port [p.val] ∧ s.regsKept t ([pg.base + 0x05C] ++ fecRegs) ∧ t = { s with ports := t.ports, regs := t.regs, out := t.out }) ∧
      (¬ crcOk → ∃ t, exec (.dataUnitReceived p u) s = .next t ∧ t.port p.val = { x with nak := true } ∧ fec t ∧
        keptBut s.port t.port [p.val] ∧ s.regsKept t fecRegs ∧ t = { s with ports := t.ports, regs := t.regs })) ∧
    (u.field 28 4 = 1 → x.enc = true → u.fecUncorr = 0 →
      let iv := leBytes 4 ((s.reg pg 0x070).toNat / 2 * 2 + (if s.selfId ≤ x.peerId then 1 else 0)) ++ leBytes 8 (if u.field 25 1 = x.rxPhase then x.rxUnits else 0)
      let key := (List.range 8).flatMap (fun i => leBytes 4 ((x.keys.getD (u.field 25 1) []).getD i 0).toNat)
      let tagOk : Prop := u.field 26 1 = 1 ∧ u.trailer = gcmTag key iv (leBytes 8 u.word.toNat) u.body
      (tagOk → u.field 24 1 = 0 → ∃ t, exec (.dataUnitReceived p u) s = .next t ∧ frameIn (parseFrame (gcmCrypt key iv u.body)) t ∧ fec t ∧
        keptBut s.port t.port [p.val] ∧ s.regsKept t ([pg.base + 0x05C] ++ fecRegs)) ∧
      (¬ tagOk → ∃ t, exec (.dataUnitReceived p u) s = .next t ∧ (t.port p.val).nak = true ∧ (t.port p.val).rxBuf = x.rxBuf ∧ (t.port p.val).rxSeq = x.rxSeq ∧
        t.reg pg 0x064 = satAdd (s.reg pg 0x064) 1 ∧ s.raisedIn t pg 3 ∧ keptBut s.port t.port [p.val] ∧ s.regsKept t ([pg.base + 0x064] ++ fecRegs ++ errRegs pg))) ∧
    (u.field 28 4 = 0 → u.body = [] →
      (crcOk → u.field 24 1 = 0 → ∃ t, exec (.emptyUnitReceived p u) s = .next t ∧ acked (t.port p.val) ∧ (t.port p.val).rxBuf = x.rxBuf ∧ fec t ∧
        keptBut s.port t.port [p.val] ∧ s.regsKept t fecRegs ∧ t = { s with ports := t.ports, regs := t.regs }) ∧
      (crcOk → u.field 24 1 = 1 → kept ≠ [] →
        let n := (if kept.length = x.replay.length then x.replays else 0)
        ∃ t, exec (.emptyUnitReceived p u) s = .next t ∧
        (n < 16 → t.reg pg 0x050 = satAdd (s.reg pg 0x050) 1 ∧ (t.port p.val).replay = kept ∧ (t.port p.val).resend = kept.length ∧ (t.port p.val).replays = n + 1 ∧
          s.regsKept t ([pg.base + 0x050] ++ fecRegs)) ∧
        (16 ≤ n → (t.port p.val).up = false ∧ (t.port p.val).replay = [] ∧ (t.reg pg offErrStat).getLsbD 1 = true)) ∧
      (¬ crcOk → ∃ t, exec (.emptyUnitReceived p u) s = .next t ∧ t.port p.val = { x with nak := true } ∧ fec t ∧
        keptBut s.port t.port [p.val] ∧ s.regsKept t fecRegs ∧ t = { s with ports := t.ports, regs := t.regs }))

/-- UNIT_SEND, REPLAY_TIMEOUT and ACK_SEND_TIMER (R337, R341, R342). -/
def Obligations.UnitsSent : Prop :=
  ∀ (p : Fin 12) (s : State),
    let x := s.port p.val
    let pg := wwyPage p.val
    let head (c : Nat) : Option Frame := x.queue.find? (fun f => f.cls == c)
    let can (c : Nat) : Option Frame := (head c).filter (fun f => decide ((32 + f.payload.length + 63) / 64 ≤ x.credits.getD c 0))
    let next : Option Frame :=
      if (can 0).isSome then can 0
      else if (can 1).isSome ∧ (can 2).isSome then (if 0 < x.wrr1 ∨ x.wrr2 = 0 then can 1 else can 2)
      else if (can 1).isSome then can 1
      else if (can 2).isSome then can 2
      else can 3
    let carried (u : LinkUnit) (lseq : Nat) (f : Frame) : Prop :=
      u.field 28 4 = 1 ∧ u.field 0 12 = lseq % 4096 ∧ (x.rxSeq < 4096 → u.field 12 12 = x.rxSeq) ∧ u.body.length = f.bytes.length ∧
      (x.enc = false → s.armed pg 0 = false → u.field 26 1 = 0 ∧ u.body = f.bytes ∧ u.trailer = leBytes 4 (crc32c (leBytes 8 u.word.toNat ++ u.body)).toNat ++ List.replicate 12 0) ∧
      (x.enc = false → s.armed pg 0 = true → u.body = f.bytes ∧ u.trailer ≠ leBytes 4 (crc32c (leBytes 8 u.word.toNat ++ u.body)).toNat ++ List.replicate 12 0) ∧
      (x.enc = true → u.field 26 1 = 1 ∧ u.field 25 1 = x.keyPhase % 2)
    let sending (t : State) : Prop :=
      (t.port p.val).nak = false ∧ (t.port p.val).unacked = 0 ∧ (t.port p.val).sealedUnits = (if x.enc then x.sealedUnits + 1 else x.sealedUnits) ∧
      (t.reg pg offErrInj).getLsbD 0 = false ∧ keptBut s.port t.port [p.val] ∧ s.regsKept t [pg.base + offErrInj] ∧
      t = { s with ports := t.ports, regs := t.regs, out := t.out, free := t.free }
    x.up = true →
    (∀ k, x.replay[x.replay.length - x.resend]? = some k → 0 < x.resend → ∃ t, exec (.unitSend p) s = .next t ∧
      (∃ u, s.unitSent t p.val = some u ∧ carried u k.lseq k.frame) ∧ (t.port p.val).resend = x.resend - 1 ∧ (t.port p.val).replay = x.replay ∧
      (t.port p.val).queue = x.queue ∧ (t.port p.val).credits = x.credits ∧ (t.port p.val).txSeq = x.txSeq ∧ sending t) ∧
    (∀ f, next = some f → x.resend = 0 → x.replay.length < 2048 →
      (x.replay.map (fun k => 56 + k.frame.payload.length)).sum + 56 + f.payload.length ≤ 0x40000 → ∃ t, exec (.unitSend p) s = .next t ∧
      (∃ u, s.unitSent t p.val = some u ∧ carried u x.txSeq f) ∧ (t.port p.val).txSeq = (x.txSeq + 1) % 4096 ∧ (t.port p.val).replay = x.replay ++ [⟨x.txSeq, f⟩] ∧
      (t.port p.val).queue = x.queue.erase f ∧ sending t ∧
      (∀ c, (t.port p.val).credits.getD c 0 = x.credits.getD c 0 - (if c = f.cls then (32 + f.payload.length + 63) / 64 else 0))) ∧
    (next = none → x.resend = 0 → exec (.unitSend p) s = .next s) ∧
    (x.replay ≠ [] → x.replays < 16 → ∃ t, exec (.replayTimeout p) s = .next t ∧ t.port p.val = { x with resend := x.replay.length, replays := x.replays + 1 } ∧
      t.reg pg 0x050 = satAdd (s.reg pg 0x050) 1 ∧ keptBut s.port t.port [p.val] ∧ s.regsKept t [pg.base + 0x050] ∧ t = { s with ports := t.ports, regs := t.regs }) ∧
    (x.replay ≠ [] → 16 ≤ x.replays → ∃ t, exec (.replayTimeout p) s = .next t ∧ (t.port p.val).up = false ∧ (t.port p.val).replay = [] ∧
      (t.reg pg offErrStat).getLsbD 1 = true ∧ (t.reg pg offErrStat).getLsbD 0 = true) ∧
    (∃ t, exec (.ackSendTimer p) s = .next t ∧ (∃ u, s.unitSent t p.val = some u ∧ u.field 28 4 = 0 ∧ u.field 0 12 = 0 ∧ u.body = [] ∧
        u.trailer = leBytes 4 (crc32c (leBytes 8 u.word.toNat ++ u.body)).toNat ++ List.replicate 12 0 ∧
        (x.rxSeq < 4096 → u.field 12 12 = x.rxSeq) ∧ (x.rxSeq < 4096 → u.field 24 1 = (if x.nak then 1 else 0)) ∧
        (∀ c, c < 4 → x.rxSeq < 4096 → u.field (32 + 8 * c) 8 = min 255 (x.owed.getD c 0))) ∧
      (t.port p.val).nak = false ∧ (t.port p.val).unacked = 0 ∧ (∀ c, (t.port p.val).owed.getD c 0 = x.owed.getD c 0 - 255) ∧
      (t.port p.val).replay = x.replay ∧ (t.port p.val).queue = x.queue ∧ keptBut s.port t.port [p.val] ∧ t = { s with ports := t.ports, out := t.out })

/-- The 32-byte header of R331, written and read. -/
def Obligations.FrameBytesRoundTrip : Prop :=
  (∀ f : Frame, f.type < 2 ^ 4 → f.cls < 2 ^ 2 → f.dst < 2 ^ 18 → f.src < 2 ^ 18 → f.hops < 2 ^ 4 → f.cseq < 2 ^ 24 → f.group < 2 ^ 16 →
    f.srcRank < 2 ^ 10 → f.phase < 2 ^ 2 → f.offset < 2 ^ 48 → f.req < 2 ^ 16 → f.payload.length ≤ 2048 → f.clean = true →
    f.bytes.length = 32 + f.payload.length ∧ parseFrame f.bytes = f ∧
    leNat (f.bytes.take 8) = f.type + f.cls * 2 ^ 4 + (if f.bcast then 2 ^ 6 else 0) + f.dst * 2 ^ 8 + f.src * 2 ^ 26 + f.hops * 2 ^ 44 + f.payload.length * 2 ^ 48 ∧
    leNat ((f.bytes.drop 8).take 8) = f.jobKey.toNat + f.cseq * 2 ^ 32 ∧
    leNat ((f.bytes.drop 16).take 8) = f.group + f.srcRank * 2 ^ 16 + f.phase * 2 ^ 26 + f.grain.toNat * 2 ^ 32 ∧
    leNat ((f.bytes.drop 24).take 8) = f.offset + f.req * 2 ^ 48 ∧ f.bytes.drop 32 = f.payload) ∧
  (∀ bs : List U8,
    let w (i : Nat) : Nat := leNat ((bs.drop (8 * i)).take 8)
    (parseFrame bs).wellFormed = true →
      w 0 / 2 ^ 7 % 2 = 0 ∧ w 0 / 2 ^ 60 % 16 = 0 ∧ w 1 / 2 ^ 56 % 256 = 0 ∧ w 2 / 2 ^ 28 % 16 = 0 ∧ bs.length = 32 + w 0 / 2 ^ 48 % 2 ^ 12 ∧
      1 ≤ (parseFrame bs).type ∧ (parseFrame bs).type ≤ 12)

/-- FRAME_FORWARD (R346 to R348). -/
def Obligations.FramesForward : Prop :=
  ∀ (p : Fin 12) (f : Frame) (s : State),
    let r := s.routeOf f.dst
    let on (e : Nat) (t : State) : Prop := (t.port e).queue = (s.port e).queue ++ [{ f with hops := f.hops - 1 }]
    let dropAt : Nat := (wwyPage p.val).base + 0x05C
    let late : List Nat := (List.range 12).map (fun e => (wwyPage e).base + 0x068)
    let moved (t : State) (ks : List Nat) : Prop :=
      s.tookFrame t p.val f ∧ s.regsKept t (ks ++ late) ∧ t = { s with ports := t.ports, regs := t.regs }
    (s.port p.val).rxBuf.head? = some f → s.delivered p.val f = false → s.twinOn = false →
    ∃ t, exec (.frameForward p) s = .next t ∧
      (f.bcast = false → 2 ≤ f.hops → r.1 < 12 → s.portUp r.1 = true → on r.1 t ∧ keptBut s.port t.port [p.val, r.1] ∧ moved t []) ∧
      (f.bcast = false → 2 ≤ f.hops → r.1 < 12 → s.portUp r.1 = false → s.portUp r.2 = true → on r.2 t ∧ keptBut s.port t.port [p.val, r.2] ∧ moved t []) ∧
      (f.bcast = false → (f.hops < 2 ∨ 12 ≤ r.1 ∨ (s.portUp r.1 = false ∧ s.portUp r.2 = false)) →
        t.word dropAt = satAdd (s.word dropAt) 1 ∧ (t.port p.val).queue = (s.port p.val).queue ∧ keptBut s.port t.port [p.val] ∧ moved t [dropAt]) ∧
      (f.bcast = true → 2 ≤ f.hops → (∀ e, e < 12 →
        if (s.field (wwyPage p.val) 0x048 0 12).testBit e = true ∧ (s.port e).up = true then on e t else (t.port e).queue = (s.port e).queue) ∧ moved t []) ∧
      (f.bcast = true → f.hops < 2 → s.field (wwyPage p.val) 0x048 0 12 ≠ 0 →
        t.word dropAt = satAdd (s.word dropAt) 1 ∧ (t.port p.val).queue = (s.port p.val).queue ∧ keptBut s.port t.port [p.val] ∧ moved t [dropAt])

/-- WRITE_FRAME (R349, R358, R409). -/
def Obligations.WriteFrameStores : Prop :=
  ∀ (p : Fin 12) (s : State), ∀ x, s.frameFor p.val ftWrite = some x →
    let f := x.2
    let n := f.payload.length
    let answer (j : Nat) (code : U16) : Frame :=
      { frameOf ftWriteAck f.cls f.src s.selfId (s.jobKey j) (leBytes 2 code.toNat ++ [0, 0]) with phase := (s.job j).phase, req := f.req }
    f.bcast = false →
    ∃ t, exec (.writeFrame p) s = .next t ∧ s.tookFrame t x.1 f ∧ t = { s with mem := t.mem, ports := t.ports, regs := t.regs, looped := t.looped, log := t.log, logHead := t.logHead, free := t.free, upsets := t.upsets, sramCorr := t.sramCorr } ∧
      (∀ j, s.frameJob f = some j →
        (∀ e, s.inboundOf j f.group = some e → e.write = true → f.offset + n ≤ e.size * 2048 → s.allowed j (e.base + f.offset) n true = true →
          s.memDown (e.base + f.offset) = false → f.grain = crc32c f.payload →
          t.mem.read (e.base + f.offset) n = f.payload ∧ s.bytesKept t (e.base + f.offset) n ∧ s.sentTo t (answer j S_OK) ∧
          ((e.base + f.offset) % 2048 = 0 → n = 2048 → taggable (e.base + f.offset) = true → t.mem.tag ((e.base + f.offset) / 2048) = f.grain)) ∧
        (s.inboundOf j f.group = none ∨ f.grain ≠ crc32c f.payload → t.mem = s.mem ∧ s.sentTo t (answer j S_FAB_REFUSED)) ∧
        (∀ e, s.inboundOf j f.group = some e → (e.write = false ∨ e.size * 2048 < f.offset + n ∨ s.allowed j (e.base + f.offset) n true = false) →
          t.mem = s.mem ∧ s.sentTo t (answer j S_FAB_REFUSED))) ∧
      (s.frameJob f = none → (x.1 < 12 → t.reg (wwyPage x.1) 0x05C = satAdd (s.reg (wwyPage x.1) 0x05C) 1) ∧ t.mem = s.mem ∧
        (∀ e, e < 12 → (t.port e).queue = (s.port e).queue))

/-- READ_REQ_FRAME, READ_RESP_FRAME and WRITE_ACK_FRAME (R358, R359, R409, R410). -/
def Obligations.ReadsAndAnswersByFrame : Prop :=
  (∀ (p : Fin 12) (s : State), ∀ x, s.frameFor p.val ftReadReq = some x → ∀ j, s.frameJob x.2 = some j →
    let f := x.2
    let n := f.field 0 4
    let answer (g : U32) (bs : List U8) : Frame :=
      { frameOf ftReadResp f.cls f.src s.selfId (s.jobKey j) bs with phase := (s.job j).phase, req := f.req, offset := f.offset, grain := g }
    let no : Frame := { frameOf ftWriteAck f.cls f.src s.selfId (s.jobKey j) (leBytes 2 S_FAB_REFUSED.toNat ++ [0, 0]) with phase := (s.job j).phase, req := f.req }
    f.bcast = false → f.payload.length = 8 →
    ∃ t, exec (.readReqFrame p) s = .next t ∧ t.mem = s.mem ∧ s.tookFrame t x.1 f ∧
      (∀ e, s.inboundOf j f.group = some e → e.read = true → 64 ≤ n → n ≤ 2048 → n % 64 = 0 → f.offset + n ≤ e.size * 2048 →
        s.allowed j (e.base + f.offset) n false = true → s.memDown (e.base + f.offset) = false → (s.eccRead (e.base + f.offset) n).2 = none →
        let a := e.base + f.offset
        let bs := s.mem.read a n
        s.sentTo t (answer (if a % 2048 = 0 ∧ n = 2048 ∧ taggable a = true then s.mem.tag (a / 2048) else crc32c bs) bs)) ∧
      (s.inboundOf j f.group = none →
        (∀ e, s.egress no = some e → s.twinOn = false → f.src ≠ s.selfId → (t.port e).queue = (s.port e).queue ++ [answer 0 [], no]) ∧
        t = { s with ports := t.ports, regs := t.regs, looped := t.looped })) ∧
  (∀ (p : Fin 12) (s : State), ∀ x, s.frameFor p.val ftReadResp = some x → ∀ j, s.frameJob x.2 = some j → x.2.bcast = false →
    ∀ w, s.windowWait x.2.req = some w → w.2.2.2 = false → x.2.payload.length = w.2.2.1 →
    ∃ t, exec (.readRespFrame p) s = .next t ∧ t.mem = s.mem ∧ s.tookFrame t x.1 x.2 ∧
      (x.2.grain = crc32c x.2.payload →
        (∀ r, (s.engine w.1).cur = some r → ∃ r', (t.engine w.1).cur = some r' ∧ r'.waits = r.waits.filter (fun y => decide (y ≠ .window x.2.req w.2.1 w.2.2.1 false)) ∧
          r'.fetched = r.fetched ++ ((List.range w.2.2.1).map (w.2.1 + ·)).zip x.2.payload) ∧
        t = { s with engines := t.engines, ports := t.ports, looped := t.looped }) ∧
      (x.2.grain ≠ crc32c x.2.payload → s.firstRun w.1 → s.toRepeat t w.1 S_GRAIN)) ∧
  (∀ (p : Fin 12) (s : State), ∀ x, s.frameFor p.val ftWriteAck = some x → ∀ j, s.frameJob x.2 = some j → x.2.bcast = false →
    ∀ w, s.windowWait x.2.req = some w →
    ∃ t, exec (.writeAckFrame p) s = .next t ∧ t.mem = s.mem ∧ s.tookFrame t x.1 x.2 ∧
      (x.2.field 0 2 = 0 → w.2.2.2 = true →
        (∀ r, (s.engine w.1).cur = some r → ∃ r', (t.engine w.1).cur = some r' ∧ r'.waits = r.waits.filter (fun y => decide (y ≠ .window x.2.req w.2.1 w.2.2.1 true)) ∧
          r'.fetched = r.fetched) ∧
        t = { s with engines := t.engines, ports := t.ports, looped := t.looped }) ∧
      (x.2.field 0 2 ≠ 0 → s.firstRun w.1 → s.toRepeat t w.1 S_FAB_REFUSED))

/-- COLL_READY_FRAME and COLL_DATA_FRAME (R364 to R366). -/
def Obligations.CollectiveFramesCount : Prop :=
  (∀ (p : Fin 12) (s : State), ∀ x, s.frameFor p.val ftCollReady = some x → ∀ j, s.frameJob x.2 = some j →
    let f := x.2
    let cur := (s.job j).cseqOf f.group
    let ahead := (f.cseq + 2 ^ 24 - cur % 2 ^ 24) % 2 ^ 24
    let held : HeldReady := ⟨j, f.group, f.cseq, f.srcRank, f.phase, f.field 0 4, BitVec.ofNat 32 (f.field 4 4), f.field 8 8⟩
    let mine := s.readys.filter (fun r => decide (r.job = j) && decide (r.group = f.group) && decide (r.rank = f.srcRank))
    let here := s.colls.find? (fun (c : Coll) => decide (c.job = j) && decide (c.group = f.group) && decide (c.cseq = f.cseq))
    f.bcast = false →
    ∃ t, exec (.collReadyFrame p) s = .next t ∧ s.tookFrame t x.1 f ∧ t.mem = s.mem ∧
      (here = none → (f.cseq = cur ∨ (1 ≤ ahead ∧ ahead < 2 ^ 23)) → mine.length < 4 → (mine.any (fun r => decide (r.cseq = f.cseq))) = false →
        t = { s with ports := t.ports, looped := t.looped, readys := s.readys ++ [held] }) ∧
      (∀ c, here = some c → f.srcRank < c.count → f.srcRank ≠ c.selfRank →
        (c.loaded = false → f.phase = c.phase → held.shape = c.shapeOut.getD f.srcRank 0 → held.bytes = ((c.due.getD f.srcRank []).map (·.2)).sum →
          t.findColl c.stream c.slot = some { c with granted := c.granted.set f.srcRank (max (c.granted.getD f.srcRank 0) held.grant) } ∧
          t = { s with ports := t.ports, looped := t.looped, colls := t.colls }) ∧
        ((f.phase ≠ c.phase ∨ held.shape ≠ c.shapeOut.getD f.srcRank 0 ∨ held.bytes ≠ ((c.due.getD f.srcRank []).map (·.2)).sum) →
          s.runs (816 + c.base) c.stream = false → ((s.stream c.stream).st = .binding ∨ (s.stream c.stream).st = .running ∨ (s.stream c.stream).st = .frozen) →
          t.failedWith c.stream S_COLL_SHAPE (unitField (816 + c.base))))) ∧
  (∀ (p : Fin 12) (s : State), ∀ x, s.frameFor p.val ftCollData = some x → ∀ j, s.frameJob x.2 = some j →
    let f := x.2
    let q := f.srcRank
    x.2.bcast = false →
    ∀ c, s.colls.find? (fun (c : Coll) => decide (c.job = j) && decide (c.group = f.group) && decide (c.cseq = f.cseq)) = some c →
    ∃ t, exec (.collDataFrame p) s = .next t ∧ s.tookFrame t x.1 f ∧ t.mem = s.mem ∧
      (q ≠ c.selfRank → (f.offset, f.payload.length) ∈ c.expect.getD q [] → f.grain = crc32c f.payload → (c.bad.getD q []).contains f.offset = false →
        c.need.getD q 0 ≤ c.gave.getD q 0 → q < c.got.length → q < c.parts.length →
        t = { s with ports := t.ports, looped := t.looped, regs := t.regs, colls := t.colls } ∧
        ∃ d, t.findColl c.stream c.slot = some d ∧ d.got.getD q 0 = c.got.getD q 0 + 1 ∧ d.granted = c.granted ∧ d.sent = c.sent ∧ d.gave = c.gave ∧
          d.parts.getD q [] = (if (c.parts.getD q []).any (fun b => decide (b.1 = f.offset)) then c.parts.getD q []
            else c.parts.getD q [] ++ [(f.offset, f.payload)])) ∧
      ((q = c.selfRank ∨ (f.offset, f.payload.length) ∉ c.expect.getD q []) → t = { s with ports := t.ports, looped := t.looped }))

/-- COLL_READY_REPEAT, COLLECTIVE_TIMEOUT and READD_CHECK_DECIDED (R364, R366, R419 to R421). -/
def Obligations.CollectivesRepeatAndEnd : Prop :=
  (∀ (b : Fin 3) (s : State), ∀ c, s.colls.head? = some c → s.colls.length = 1 → c.base = b.val →
    let ask (q : Nat) : Frame := s.collFrame c ftCollReady q (leBytes 4 (c.gave.getD q 0) ++ leBytes 4 (c.shapeIn.getD q 0).toNat ++ leBytes 8 ((c.expect.getD q []).map (·.2)).sum)
    c.again = [] → c.loaded = false →
    (s.collSends c = false → exec (.collReadyRepeat b) s = .next s) ∧
    (s.collSends c = true → c.full = false →
      (∀ q, q < c.count → q ≠ c.selfRank → c.expect.getD q [] ≠ [] → (ask q).dst ≠ s.selfId ∧ ((s.egress (ask q)).filter (fun e => s.carries e (ask q))).isSome = true) →
      ∃ t, exec (.collReadyRepeat b) s = .next t ∧ t.colls = s.colls ∧ t = { s with ports := t.ports, regs := t.regs } ∧
        ∀ q, q < c.count → q ≠ c.selfRank → c.expect.getD q [] ≠ [] → ∀ e, s.egress (ask q) = some e → ask q ∈ (t.port e).queue)) ∧
  (∀ (b : Fin 3) (n : Fin 16384) (s : State), ∀ c, s.colls.find? (fun (c : Coll) => decide (c.base = b.val) && decide (c.stream = n.val)) = some c →
    ((s.field (.cns b) 0x048 0 16 = 0 ∨ c.full = true) → exec (.collectiveTimeout b n) s = .next s) ∧
    (s.field (.cns b) 0x048 0 16 ≠ 0 → c.full = false → s.runs (816 + b.val) n.val = false →
      ((s.stream n.val).st = .binding ∨ (s.stream n.val).st = .running ∨ (s.stream n.val).st = .frozen) →
      ∃ t, exec (.collectiveTimeout b n) s = .next t ∧ t.failedWith n.val S_COLL_TIMEOUT (unitField (816 + b.val)) ∧ t.mem = s.mem ∧
        t.field (.cns b) 0x05C 0 16 = S_COLL_TIMEOUT.toNat ∧ t.field (.cns b) 0x05C 16 16 = c.group % 65536)) ∧
  (∀ (b : Fin 3) (block : Nat) (agree : Bool) (s : State), ∀ r, s.readds.find? (fun (r : Readd) => decide (r.base = b.val) && decide (r.block = block)) = some r →
    let good : Prop := agree = true ∧ (s.reg .grn offErrInj).getLsbD 0 = false
    let free : Job := { s.job r.job with contribs := (s.job r.job).contribs.map (fun (c : ContribEnd) => { c with checks := c.checks.filter (fun p => decide (p ≠ (b.val, r.id))) }) }
    ∃ t, exec (.readdCheckDecided b block agree) s = .next t ∧ t.mem = s.mem ∧ (∀ q, q ∈ t.readds → q.id ≠ r.id) ∧
      (good → r.held = [] → t.job r.job = free ∧ keptBut s.job t.job [r.job] ∧ t = { s with readds := t.readds, jobs := t.jobs }) ∧
      (good → ∀ f, r.held = [f] → ∀ c, s.collOf f = some c → s.pwr.st = .run → (s.stream r.stream).st = .running → s.quorumLost c.job = false →
        (f.dst ≠ s.selfId → ∀ e, s.egress f = some e → s.carries e f = true → (t.port e).queue = (s.port e).queue ++ [f])) ∧
      (¬ good → (t.reg .grn offErrInj).getLsbD 0 = false ∧ (t.reg .grn offErrStat).getLsbD 0 = true ∧
        (s.runs (816 + b.val) r.stream = false → ((s.stream r.stream).st = .binding ∨ (s.stream r.stream).st = .running ∨ (s.stream r.stream).st = .frozen) →
          (t.stream r.stream).st = .failed ∧ (t.stream r.stream).endStatus = S_RETRACTED)))

/-- SELF_ID_WRITE, ROUTE_WRITE, KEYTAB_WRITE, WMAP_LOAD and WMAP_LOAD_DONE (R346, R355, R356, R373, R375). -/
def Obligations.ModuleFabricTables : Prop :=
  (∀ (v : U32) (s : State), s.hostReach = true →
    let sel := s.field .wwyMod 0x044 0 18
    let slot := s.field .wwyMod 0x04C 0 8
    let refused := s.jobs.any (fun p => p.2.valid && decide (p.2.keySlot = slot)) ∨ (v ≠ 0 ∧ s.keytab.any (fun p => decide (p.1 ≠ slot) && decide (p.2 = v)))
    ((s.reg .wwyMod 0x040).getLsbD 31 = false → ∃ t, exec (.selfIdWrite v) s = .next t ∧ t.selfId = v.toNat % 2 ^ 18 ∧
      (t.reg .wwyMod 0x040).getLsbD 31 = true ∧ s.regsKept t [Page.base .wwyMod + 0x040] ∧ t = { s with regs := t.regs }) ∧
    ((s.reg .wwyMod 0x040).getLsbD 31 = true → exec (.selfIdWrite v) s = .next s) ∧
    (∃ t, exec (.routeWrite v) s = .next t ∧ t.routeOf sel = (v.toNat % 16, v.toNat / 16 % 16) ∧ keptBut s.routeOf t.routeOf [sel] ∧ t = { s with route := t.route }) ∧
    (¬ refused → ∃ t, exec (.keytabWrite v) s = .next t ∧ t.keyAt slot = v ∧ keptBut s.keyAt t.keyAt [slot] ∧ s.mirrorFollows t ∧
      s.regsKept t (errRegs .twn) ∧ t = { s with keytab := t.keytab, twin := t.twin, regs := t.regs }) ∧
    (refused → ∃ t, exec (.keytabWrite v) s = .next t ∧ s.raisedIn t .wwyMod 0 ∧ s.regsKept t (errRegs .wwyMod) ∧ t = { s with regs := t.regs }) ∧
    (∃ t, exec (.wmapLoad v) s = .next t ∧ t.reg .cnsMap 0x048 = mergeBits (s.reg .cnsMap 0x048) v 0xFFFFFF ∧ s.regsKept t [Page.base .cnsMap + 0x048] ∧
      t.wmapLoad = (if v.getLsbD 31 = true ∧ s.wmapLoad = none then some ⟨v.toNat % 256, v.toNat / 256 % 65536, s.pair .cnsMap 0x040 % 2 ^ 48⟩ else s.wmapLoad) ∧
      t = { s with regs := t.regs, wmapLoad := t.wmapLoad })) ∧
  (∀ (s : State), ∀ l, s.wmapLoad = some l →
    let es := s.wmapImage l
    let shown (t : State) (c : U16) (i : Nat) : Prop := t.reg .cnsMap 0x04C = c.zeroExtend 32 ∧ t.reg .cnsMap 0x054 = BitVec.ofNat 32 i
    let others := (s.wmap.map (fun p => if p.1 = l.job then 0 else p.2.length)).sum
    (s.jobBusy l.job = true → ∃ t, exec .wmapLoadDone s = .next t ∧ shown t S_WMAP_BUSY 0xFFFF ∧ s.raisedIn t .cnsMap 0 ∧ t = { s with regs := t.regs, wmapLoad := none }) ∧
    (s.imageOk l.addr (32 * l.count) = true → s.jobBusy l.job = false → s.eccRead l.addr (32 * l.count) = (s, none) →
      (∀ r, s.wmapRefusal l none = some r → ∃ t, exec .wmapLoadDone s = .next t ∧ shown t r.1 r.2 ∧ s.raisedIn t .cnsMap 0 ∧
        t = { s with regs := t.regs, wmapLoad := none }) ∧
      (s.wmapRefusal l none = none → ∃ t, exec .wmapLoadDone s = .next t ∧ shown t S_OK (s.reg .cnsMap 0x054).toNat ∧ t.window l.job = es.map WRaw.entry ∧
        keptBut s.window t.window [l.job] ∧ t = { s with regs := t.regs, wmap := t.wmap, wmapLoad := none } ∧
        (∀ e, e ∈ es → e.job = l.job ∧ e.malformed = false ∧ e.leavesRegion = false ∧ (∀ x, x ∈ e.endpointFields → x ≤ 262143) ∧
          (e.kindCode ≠ 2 → s.jobKey l.job ≠ 0) ∧ (∀ e', e' ∈ es → e.idx < e'.idx → conflicting e e' = false)) ∧
        others + es.length ≤ 32768)))

/-- TWIN_ENABLE, TWIN_DISABLE, TWIN_MIRROR_SEND, TWIN_FRAME and WRITE_ACK_FRAME for a mirror (R368 to R370). -/
def Obligations.TwinLinkMirrors : Prop :=
  (∀ (v : U32) (s : State), s.hostReach = true →
    let w := mergeBits (s.reg .twn 0x040) (v ||| 1) 0x7FFFF
    let job := v.toNat / 2 ^ 5 % 2 ^ 8
    (s.twinOn = true → exec (.twinEnable v) s = .next s ∧
      ∃ t, exec (.twinDisable v) s = .next t ∧ t.twinOn = false ∧ t.twinPort = s.twinPort ∧ t.twinJob = s.twinJob ∧ t.twinRegion = s.twinRegion ∧
        t.twin = { TwinSt.off with lastStep := s.twin.lastStep } ∧ s.regsKept t [Page.base .twn + 0x040] ∧ t = { s with regs := t.regs, twin := t.twin }) ∧
    (s.twinOn = false →
      (∃ t, exec (.twinDisable v) s = .next t ∧ t.twinOn = false ∧ t.twinPort = v.toNat / 2 % 16 ∧ t.twinJob = job ∧ t.twinRegion = v.toNat / 2 ^ 13 % 2 ^ 6 ∧
        s.regsKept t [Page.base .twn + 0x040] ∧ t = { s with regs := t.regs }) ∧
      let c : State := { s.setReg .twn 0x040 w with twin := { TwinSt.off with mirroring := true, lastStep := s.twin.lastStep } }
      (12 ≤ c.twinPort ∨ (c.port c.twinPort).queue.all (c.carries c.twinPort) = true →
      (s.jobKey job ≠ 0 → (∀ a, a ∈ c.recordPlaces → c.eccRead a 64 = (c, none)) →
        ∃ t, exec (.twinEnable v) s = .next t ∧ t.twinOn = true ∧ t.reg .twn 0x040 = w ∧
        t = { c with twin := { c.twin with queue := c.recordPlaces.filterMap (fun a => (c.twinShard a).2) } }) ∧
      (s.jobKey job = 0 → ∃ t, exec (.twinEnable v) s = .next t ∧ t.twinOn = true ∧ t.reg .twn 0x040 = w ∧ s.raisedIn t .twn 0 ∧
        t.twin = { s.twin with mirroring := false, stopped := true } ∧ t = { s with regs := t.regs, twin := t.twin })))) ∧
  (∀ (s : State), ∀ m, s.twin.queue.head? = some m →
    let h := readHeader s.mem.byte m.state
    let m' : MirrorJob := if m.shape = none then { m with shape := some (h.nmom, h.n, h.late) } else m
    let blocks := m'.toSend
    let frame (a i : Nat) : Frame := { frameOf ftTwin (if (s.job s.twinJob).descant then 3 else 2) s.twinPartner s.selfId (s.jobKey s.twinJob) (s.mem.read a 2048) with group := s.field .twn 0x048 0 16, phase := (s.job s.twinJob).phase, grain := s.mem.tag (a / 2048), offset := a - (s.region s.twinJob s.twinRegion).base, req := (s.nextReq + i) % 65536 }
    s.twin.mirroring = true → s.twin.cur = none → s.portUp s.twinPort = true →
    (m.shape = none → inWindow m.state = false ∧ s.eccRead m.state 2048 = (s, none) ∧ h.broken (2 ^ 48) = false) →
    (∀ a, a ∈ blocks → inWindow a = false ∧ s.eccRead a 2048 = (s, none)) →
    ∃ t, exec .twinMirrorSend s = .next t ∧ t.twin.queue = s.twin.queue.tail ∧ t.twin.cur = some m' ∧ t.twin.blocks = [] ∧ t.nextReq = s.nextReq + blocks.length ∧
      t.twin.waiting = s.twin.waiting ++ (List.range blocks.length).map (fun i => (s.nextReq + i) % 65536) ∧
      (t.port s.twinPort).queue = (s.port s.twinPort).queue ++ (blocks.zip (List.range blocks.length)).map (fun p => frame p.1 p.2) ∧
      keptBut s.port t.port [s.twinPort] ∧ t = { s with twin := t.twin, ports := t.ports, nextReq := t.nextReq }) ∧
  (∀ (p : Fin 12) (s : State), ∀ x, s.frameFor p.val ftWriteAck = some x → ∀ j, s.frameJob x.2 = some j → x.2.bcast = false →
    s.windowWait x.2.req = none → x.2.req ∈ s.twin.waiting →
    ∃ t, exec (.writeAckFrame p) s = .next t ∧ s.tookFrame t x.1 x.2 ∧
      (x.2.field 0 2 = 0 → let rest := s.twin.waiting.erase x.2.req
        (∀ m, s.twin.cur = some m → t.twin = { s.twin with
          waiting := rest, cur := if rest = [] ∧ s.twin.blocks = [] then none else some m, lastStep := if rest = [] ∧ s.twin.blocks = [] then m.step else s.twin.lastStep }) ∧
        (s.twin.cur = none → t.twin = s.twin) ∧
        t = { s with ports := t.ports, looped := t.looped, twin := t.twin }) ∧
      (x.2.field 0 2 ≠ 0 → s.twin.mirroring = true → s.raisedIn t .twn 0 ∧ t.twin.mirroring = false ∧ t.twin.stopped = true ∧ t.twin.queue = s.twin.cur.toList ++ s.twin.queue ∧ t.twin.lastStep = s.twin.lastStep)) ∧
  (∀ (p : Fin 12) (s : State), ∀ x, s.frameFor p.val ftTwin = some x → ∀ j, s.frameJob x.2 = some j →
    let f := x.2
    let n := f.payload.length
    let answer (code : U16) : Frame :=
      { frameOf ftWriteAck f.cls f.src s.selfId (s.jobKey j) (leBytes 2 code.toNat ++ [0, 0]) with phase := (s.job j).phase, req := f.req }
    let told (t : State) (code : U16) : Prop := x.1 < 12 → (t.port x.1).queue = (s.port x.1).queue ++ [answer code]
    f.bcast = false →
    ∃ t, exec (.twinFrame p) s = .next t ∧ s.tookFrame t x.1 f ∧
      (∀ e, s.inboundOf j f.group = some e → e.write = true → f.offset + n ≤ e.size * 2048 → s.allowed j (e.base + f.offset) n true = true →
        s.memDown (e.base + f.offset) = false → f.grain = crc32c f.payload →
        t.mem.read (e.base + f.offset) n = f.payload ∧ s.bytesKept t (e.base + f.offset) n ∧ told t S_OK) ∧
      ((s.inboundOf j f.group = none ∨ f.grain ≠ crc32c f.payload) → t.mem = s.mem ∧ told t S_FAB_REFUSED))

/-- HEARTBEAT_SEND, HEARTBEAT_FRAME and SEAT_LIVENESS_EXPIRY (R381 to R385). -/
def Obligations.HeartbeatsKeepSeatsLive : Prop :=
  (∀ s : State, s.baseUp 1 = true → (s.pwr.st = .run ∨ s.pwr.st = .hold) → s.twinOn = false →
    let beat (i : Nat) : Frame := { frameOf ftHeartbeat 0 s.selfId s.selfId (s.jobKey (s.slot i).job)
        (leBytes 8 (s.job (s.slot i).job).lastStep ++ leBytes 2 (s.slot i).self ++ [0, 0] ++ leBytes 4 (s.slot i).hbSeq.toNat) with bcast := true, phase := (s.job (s.slot i).job).phase }
    ∃ t, exec .heartbeatSend s = .next t ∧ t = { s with slots := t.slots, ports := t.ports, regs := t.regs } ∧
      ∀ i, i < 8 → t.slot i = (if (s.slot i).valid then { s.slot i with hbSeq := (s.slot i).hbSeq + 1 } else s.slot i) ∧
        ((s.slot i).valid = true → ∀ e, e < 12 → (s.field .wwyMod 0x06C 0 12).testBit e = true → (s.port e).up = true → beat i ∈ (t.port e).queue)) ∧
  (∀ (p : Fin 12) (s : State), ∀ x, s.frameFor p.val ftHeartbeat = some x →
    let f := x.2
    let seat := f.field 8 2
    ∃ t, exec (.heartbeatFrame p) s = .next t ∧ s.tookFrame t x.1 f ∧ t.mem = s.mem ∧ t.streams = s.streams ∧
      (∀ j, s.jobOfKey f.jobKey = some j → ∀ i, s.slotOf j = some i → (s.slot i).seats[seat]? = some f.src →
        (t.slot i).dead = (s.slot i).dead.filter (fun d => decide (d ≠ seat)) ∧ getKey (t.slot i).steps seat = some (BitVec.ofNat 48 (f.field 0 6)) ∧
        (t.slot i).seats = (s.slot i).seats ∧ (t.slot i).quorum = (t.slot i).holdsQuorum ∧ keptBut s.slot t.slot [i] ∧ t.reg .stmQrm 0x080 = s.reg .stmQrm 0x080) ∧
      (s.seatFrame f seat = none → t.slots = s.slots ∧ t.reg .stmQrm 0x080 = satAdd (s.reg .stmQrm 0x080) 1)) ∧
  (∀ x : Slot, x.holdsQuorum = true ↔ (x.seats.length < 2 * (x.seats.length - x.dead.length) ∨ (2 * (x.seats.length - x.dead.length) = x.seats.length ∧ 0 ∉ x.dead))) ∧
  (∀ (i : Fin 8) (seat : Nat) (s : State),
    let x := s.slot i.val
    let dead := putSorted seat x.dead
    let y : Slot := { x with dead := dead }
    x.valid = true → seat < x.seats.length → seat ≠ x.self → seat ∉ x.dead →
    ∃ t, exec (.seatLivenessExpiry i seat) s = .next t ∧ seat ∈ (t.slot i.val).dead ∧ keptBut s.slot t.slot [i.val] ∧
      t = { s with slots := t.slots, regs := t.regs, twin := t.twin } ∧
      (y.holdsQuorum = true → t.slot i.val = { y with quorum := true }) ∧
      (y.holdsQuorum = false → x.quorum = true → t.slot i.val = { y with quorum := false, losses := x.losses + 1 } ∧ (t.reg .stmQrm offErrStat).getLsbD 1 = true ∧
        (s.twinOn = true → s.twinJob = x.job → t.twin.mirroring = false)))

/-- SEAT_LIST_LOAD, SEAT_LIST_LOAD_DONE, SEAT_SLOT_UNLOAD, STREAM_FREEZE, QUORUM_RESUME and QUORUM_REFUSE (R380, R385 to R388, R397). -/
def Obligations.SeatListsAndQuorum : Prop :=
  (∀ (v : U32) (s : State), s.hostReach = true →
    ∃ t, exec (.seatListLoad v) s = .next t ∧ t.reg .stmQrm 0x050 = mergeBits (s.reg .stmQrm 0x050) v 0x1FFFFFF ∧ s.regsKept t [Page.base .stmQrm + 0x050] ∧
      t.seatLoad = (if v.getLsbD 31 = true ∧ s.seatLoad = none then some ⟨v.toNat % 256, v.toNat / 256 % 2 ^ 17, s.pair .stmQrm 0x048 % 2 ^ 48⟩ else s.seatLoad) ∧
      t = { s with regs := t.regs, seatLoad := t.seatLoad }) ∧
  (∀ s : State, ∀ l, s.seatLoad = some l →
    let x := s.job l.job
    let ws := (List.range l.count).map (fun i => leNat (s.mem.read (l.addr + 4 * i) 4))
    let bad := x.valid = false ∨ x.descant = true ∨ s.jobKey l.job = 0 ∨ l.count = 0 ∨ 65536 < l.count ∨ ws.any (fun w => decide (2 ^ 18 ≤ w)) ∨ ¬ ws.Nodup ∨ s.selfId ∉ ws
    let refused (t : State) (c : U16) : Prop := t.field .stmQrm 0x054 0 16 = c.toNat ∧ s.raisedIn t .stmQrm 0 ∧ t = { s with regs := t.regs, seatLoad := none }
    s.imageOk l.addr (4 * l.count) = true → s.eccRead l.addr (4 * l.count) = (s, none) →
    ∃ t, exec .seatListLoadDone s = .next t ∧
      (s.jobBusy l.job = true → refused t S_SEAT_BUSY) ∧
      (s.jobBusy l.job = false → bad → refused t S_SEAT_BAD) ∧
      (s.jobBusy l.job = false → ¬ bad → s.slotFor l.job = none → refused t S_SEAT_FULL) ∧
      (s.jobBusy l.job = false → ¬ bad → ∀ i, s.slotFor l.job = some i →
        t.slot i = { s.slot i with valid := true, job := l.job, seats := ws, self := ws.findIdx (fun w => decide (w = s.selfId)), dead := [], steps := [], tokens := [], retractIds := [], hbSeq := 0, quorum := true } ∧
        (s.slot i).hbMiss = (t.slot i).hbMiss ∧ t.field .stmQrm 0x054 0 16 = 0 ∧ t.field .stmQrm 0x054 16 3 = i % 8 ∧ keptBut s.slot t.slot [i] ∧
        t = { s with regs := t.regs, slots := t.slots, seatLoad := none })) ∧
  (∀ s : State, s.hostReach = true →
    let i := s.field .stmQrm 0x040 0 3
    let x := s.slot i
    (x.valid = true → s.jobBusy x.job = false → ∃ t, exec .seatSlotUnload s = .next t ∧ t.slot i = { Slot.empty with hbMiss := x.hbMiss, losses := x.losses } ∧
      keptBut s.slot t.slot [i] ∧ keptBut s.job t.job [x.job] ∧ t = { s with slots := t.slots, jobs := t.jobs }) ∧
    (x.valid = true → s.jobBusy x.job = true → ∃ t, exec .seatSlotUnload s = .next t ∧ s.raisedIn t .stmQrm 0 ∧ t = { s with regs := t.regs }) ∧
    (x.valid = true → x.quorum = true → ∃ t, exec .quorumResume s = .next t ∧ t = { s with streams := t.streams } ∧
      ∀ n : Fin 16384, ((s.stream n.val).st = .frozen ∧ n.val ∈ s.streamsOf x.job → (t.stream n.val).st = .running ∧ (t.stream n.val).bound = (s.stream n.val).bound) ∧
        (¬ ((s.stream n.val).st = .frozen ∧ n.val ∈ s.streamsOf x.job) → t.stream n.val = s.stream n.val)) ∧
    ((x.valid = false ∨ x.quorum = false) → ∃ t, exec .quorumResume s = .next t ∧ s.raisedIn t .stmQrm 2 ∧ t = { s with regs := t.regs }) ∧
    (x.valid = true → ∃ t, exec .quorumRefuse s = .next t ∧ t.mem = s.mem ∧ ∀ n : Fin 16384, (s.stream n.val).st = .frozen → n.val ∈ s.streamsOf x.job →
      (t.stream n.val).st = .failed ∧ (t.stream n.val).endStatus = S_REJOIN_REFUSED)) ∧
  (∀ (n : Fin 16384) (s : State),
    let x := s.stream n.val
    let rests := ∀ i, s.slotOf x.job = some i → (s.slot i).quorum = true
    (x.st = .running → s.quorumLost x.job = true → s.drained n.val = true →
      ∃ t, exec (.streamFreeze n) s = .next t ∧ t.stream n.val = { x with st := .frozen, stalled := false, gen := x.gen + 1 } ∧ s.streamsKept t [n.val] ∧ t = { s with streams := t.streams }) ∧
    ((x.st ≠ .running ∨ rests) → exec (.streamFreeze n) s = .next s))

/-- CLEAN_SEND, CLEAN_FRAME, RETRACT_FRAME, CLEAR_RETRACTED and INJECT_READD_ONE (R422 to R430, R445, R448). -/
def Obligations.CleanTokensAndRetracts : Prop :=
  (∀ (j : Fin 256) (s : State),
    let x := s.job j.val
    let done (u : Nat) : Prop := ∃ c, c ∈ x.contribs ∧ c.step = u ∧ c.firings = [] ∧ c.checks = []
    (∀ c, c ∈ x.contribs → c.firings = [] → c.checks = [] → x.valid = true → x.held = none →
      (∀ d, d ∈ x.contribs → d.firings = [] → d.checks = [] → d.step ≤ c.step) → x.cleanSent.all (fun u => decide (u < c.step)) = true →
      ∃ t, exec (.cleanSend j) s = .next t ∧ (t.job j.val).cleanSent = some c.step ∧ keptBut s.job t.job [j.val] ∧
        t = { s with jobs := t.jobs, ports := t.ports, regs := t.regs } ∧
        (s.slotOf j.val = none → ∃ h, (t.job j.val).horizon = some h ∧ c.step ≤ h) ∧
        (∀ i, s.slotOf j.val = some i → s.twinOn = false → s.streamsOf j.val ≠ [] → ∀ e, e < 12 → (s.field .wwyMod 0x06C 0 12).testBit e = true → (s.port e).up = true →
          ({ frameOf ftClean 0 s.selfId s.selfId (s.jobKey j.val) (leBytes 8 c.step ++ leBytes 4 ((s.slot i).self % 65536) ++ [0, 0, 0, 0]) with bcast := true, phase := x.phase } : Frame) ∈ (t.port e).queue)) ∧
    (∀ h, x.held = some h → ∃ t, exec (.cleanSend j) s = .next t ∧
      (¬ done h → ∀ u, (t.job j.val).cleanSent = some u → u < h ∨ x.cleanSent = some u))) ∧
  (∀ (p : Fin 12) (s : State), ∀ x, s.frameFor p.val ftClean = some x →
    let f := x.2
    let w := f.field 8 4
    ∃ t, exec (.cleanFrame p) s = .next t ∧ s.tookFrame t x.1 f ∧ t.mem = s.mem ∧ t.streams = s.streams ∧
      (∀ i, s.seatFrame f (w % 65536) = some i → w < 0x40000 →
        getKey (t.slot i).tokens (w % 65536) = some ⟨f.field 0 8, decide (w / 0x10000 % 2 = 1), decide (w / 0x20000 % 2 = 1)⟩ ∧
        t.slot i = { s.slot i with tokens := (t.slot i).tokens } ∧ keptBut s.slot t.slot [i] ∧ keptBut s.job t.job [(s.slot i).job] ∧
        (∀ c, (s.job (s.slot i).job).cleanSent = some c → s.slotOf (s.slot i).job = some i →
          (∀ seat, seat < (s.slot i).seats.length → seat ≠ (s.slot i).self → (t.slot i).covers seat c = true) →
          ∃ h, (t.job (s.slot i).job).horizon = some h ∧ c ≤ h)) ∧
      ((s.seatFrame f (w % 65536) = none ∨ 0x40000 ≤ w) → t.slots = s.slots ∧ t.jobs = s.jobs ∧ t.reg .grn 0x07C = satAdd (s.reg .grn 0x07C) 1)) ∧
  (∀ (p : Fin 12) (s : State), ∀ x, s.frameFor p.val ftRetract = some x →
    let f := x.2
    let id : U32 := BitVec.ofNat 32 (f.field 0 4)
    let step := f.field 8 8
    ∃ t, exec (.retractFrame p) s = .next t ∧ s.tookFrame t x.1 f ∧ t.mem = s.mem ∧
      (∀ q, s.retractSeat f = some q → let j := (s.slot q.1).job
        getKey (t.slot q.1).retractIds q.2 = some id ∧ (t.reg .grn offErrStat).getLsbD 1 = true ∧
        ((s.job j).retracted.length < 16 → step ∈ (t.job j).retracted) ∧
        (∃ r, t.log.getLast? = some r ∧ r.kind = 0x09 ∧ r.job = j ∧ r.step = step) ∧
        (∀ u, u ∈ s.upds → (s.stream u.stream).job = j → u.castOnly = false → (step ≤ u.step ∨ ∃ a, u.applies = some a ∧ step ≤ a) →
          ((s.stream u.stream).st = .binding ∨ (s.stream u.stream).st = .running ∨ (s.stream u.stream).st = .frozen) →
          (t.stream u.stream).st = .failed ∧ (t.stream u.stream).endStatus = S_RETRACTED)) ∧
      (s.retractSeat f = none → t.jobs = s.jobs ∧ t.streams = s.streams ∧ t.slots = s.slots ∧ t.reg .grn 0x07C = satAdd (s.reg .grn 0x07C) 1)) ∧
  (∀ s : State, s.hostReach = true →
    let j := s.field .grn 0x050 0 8
    (s.streamsOf j = [] → ∃ t, exec .clearRetracted s = .next t ∧ t.job j = { s.job j with retracted := [] } ∧ keptBut s.job t.job [j] ∧ t = { s with jobs := t.jobs }) ∧
    (∀ n, n ∈ s.streamsOf j → (s.stream n).active = true → ∃ t, exec .clearRetracted s = .next t ∧ s.raisedIn t .grn 2 ∧ t = { s with regs := t.regs }) ∧
    (∃ t, exec .injectReaddOne s = .next t ∧ t.reg .grn offErrInj = s.reg .grn offErrInj ||| 1 ∧ s.regsKept t [Page.base .grn + offErrInj] ∧ t = { s with regs := t.regs }))

/-- DIGEST_FRAME, UNISON_ENTRY_TIMEOUT and UNISON_CLEAR (R433 to R437, R447). -/
def Obligations.UnisonComparesDigests : Prop :=
  (∀ (p : Fin 12) (s : State), ∀ x, s.frameFor p.val ftDigest = some x → x.2.bcast = false →
    let f := x.2
    let d : U64 := BitVec.ofNat 64 (f.field 0 8)
    let key : U32 := BitVec.ofNat 32 (f.field 0x10 4)
    let step : U48 := BitVec.ofNat 48 (f.field 8 6)
    ∃ t, exec (.digestFrame p) s = .next t ∧ s.tookFrame t x.1 f ∧ t.mem = s.mem ∧
      (s.jobOfKey f.jobKey = none → t = { s with ports := t.ports, looped := t.looped, regs := t.regs } ∧ t.reg .uni 0x070 = satAdd (s.reg .uni 0x070) 1) ∧
      (∀ j, s.jobOfKey f.jobKey = some j → ∀ g, s.unisonGroup j = some g →
        let n := g.2.1
        let right := g.2.2.1
        let left := g.2.2.2
        let here := s.unison.find? (fun (e : UniEntry) => decide (e.job = j) && decide (e.key = key) && decide (e.step = step))
        ((n ≤ 1 ∨ (f.src ≠ right ∧ f.src ≠ left)) → t = { s with ports := t.ports, looped := t.looped, regs := t.regs } ∧ t.reg .uni 0x070 = satAdd (s.reg .uni 0x070) 1) ∧
        (1 < n → f.src = right → right ≠ left → here = none → s.unison.length < 8192 →
          t.unison = s.unison ++ [⟨j, key, step, none, none, some d⟩] ∧ t = { s with ports := t.ports, looped := t.looped, unison := t.unison }) ∧
        (2 < n → f.src = right → right ≠ left → ∀ e, here = some e → e.own.isSome = true → e.left.isSome = true → (s.job j).disputed = false →
          let o := e.own.getD 0
          let a := e.left.getD 0
          (∀ q, q ∈ t.unison → ¬ (q.job = j ∧ q.key = key ∧ q.step = step)) ∧ t.reg .uni 0x05C = s.reg .uni 0x05C + 1 ∧
          (o = a ∧ o = d → t = { s with ports := t.ports, looped := t.looped, regs := t.regs, unison := t.unison } ∧ t.reg .uni offErrStat = s.reg .uni offErrStat) ∧
          ((o = a ∧ o ≠ d) ∨ (o ≠ a ∧ o = d) → s.raisedIn t .uni 0 ∧ t.reg .uni 0x060 = satAdd (s.reg .uni 0x060) 1 ∧ s.recordedIn t 0x0A 0 unitModule ∧ t.streams = s.streams) ∧
          (o ≠ a → a = d → (t.job j).expelled = true ∧ (t.reg .uni offErrStat).getLsbD 1 = true ∧
            (∀ m, m ∈ s.streamsOf j → ((s.stream m).st = .binding ∨ (s.stream m).st = .running ∨ (s.stream m).st = .frozen) →
              (t.stream m).st = .failed ∧ (t.stream m).endStatus = S_EXPELLED)) ∧
          (o ≠ a → o ≠ d → a ≠ d → (t.job j).disputed = true ∧ (t.job j).disputeKey = key ∧ (t.job j).disputeStep = step ∧ (t.reg .uni offErrStat).getLsbD 2 = true ∧
            (∀ m, m ∈ s.streamsOf j → ((s.stream m).st = .binding ∨ (s.stream m).st = .running ∨ (s.stream m).st = .frozen) →
              (t.stream m).st = .failed ∧ (t.stream m).endStatus = S_DISPUTED))))) ∧
  (∀ (j : Fin 256) (key : U32) (step : U48) (s : State), ∀ e, s.unison.find? (fun (e : UniEntry) => decide (e.job = j.val) && decide (e.key = key) && decide (e.step = step)) = some e →
    ∃ t, exec (.unisonEntryTimeout j key step) s = .next t ∧ e ∉ t.unison ∧ t.reg .uni 0x064 = satAdd (s.reg .uni 0x064) 1 ∧ s.raisedIn t .uni 4 ∧ s.recordedIn t 0x0F 0 unitModule ∧
      t = { s with unison := t.unison, regs := t.regs, log := t.log, logHead := t.logHead, free := t.free }) ∧
  (∀ s : State, s.hostReach = true →
    let j := s.field .uni 0x040 0 8
    ∃ t, exec .unisonClear s = .next t ∧ t.job j = { s.job j with expelled := false, disputed := false, unresolved := false } ∧ keptBut s.job t.job [j] ∧ t = { s with jobs := t.jobs })

/-- TUNING_DUE, TUNING_DEADLINE, TUNING_START, TUNING_RESULT, TUNING_RUN_NOW, TUNING_ROTATE_ALL and INJECT_TUNING_FAIL (R412 to R418, R446, R448). -/
def Obligations.TuningPassesRunAndFence : Prop :=
  (∀ (u : Fin 822) (s : State),
    let x := s.tuneUnit u.val
    let e := s.engine u.val
    let only (t : State) (y : TuneUnit) : Prop := t.tuneUnit u.val = y ∧ keptBut s.tuneUnit t.tuneUnit [u.val] ∧ t = { s with tune := t.tune }
    let held (t : State) : Prop := (t.tuneUnit u.val).st = .running ∧ (t.tuneUnit u.val).rep = false ∧ (t.engine u.val).tuning = true ∧ t = { s with tune := t.tune, engines := t.engines }
    let free : Prop := s.pwr.st = .run ∧ s.pwr.change = none ∧ (s.die (unitDie u.val)).up = true ∧ x.fenced = false ∧ e.cur = none ∧ e.tuning = false
    let primary : Bool := if isLathe u.val then !(s.latheEligible (u.val - 819) false).isEmpty else (s.choose u.val false).isSome
    s.pwr.st = .run →
    (x.st = .idle → x.fenced = false → (s.die (unitDie u.val)).up = true → s.start.ready = true → s.field .tun 0x040 0 16 ≠ 0 →
      ∃ t, exec (.tuningDue u) s = .next t ∧ only t { x with st := .due }) ∧
    (x.st = .due → ∃ t, exec (.tuningDeadline u) s = .next t ∧ only t { x with st := .takeover }) ∧
    (free → (x.st = .takeover ∨ (x.st = .due ∧ primary = false)) → isSequencer u.val = false → e.reservedBy = none → ∃ t, exec (.tuningStart u) s = .next t ∧ held t) ∧
    (free → (x.st = .takeover ∨ (x.st = .due ∧ primary = false)) → isSequencer u.val = true → s.quadHeld u.val = [] → ∃ t, exec (.tuningStart u) s = .next t ∧ held t) ∧
    (x.st ≠ .takeover → x.st ≠ .due → exec (.tuningStart u) s = .next s)) ∧
  (∀ (u : Fin 822) (obs : TuneObs) (s : State),
    let x := s.tuneUnit u.val
    let made := (s.reg .tun offErrInj).getLsbD 0 = true ∧ s.field .tun 0x048 0 10 = u.val ∧ x.rep = false
    let active (m : Nat) : Prop := (s.stream m).st = .binding ∨ (s.stream m).st = .running ∨ (s.stream m).st = .frozen
    s.pwr.st = .run → x.st = .running → (s.engine u.val).tuning = true → s.rotatingJobs = [] →
    ∃ t, exec (.tuningResult u obs) s = .next t ∧ t.mem = s.mem ∧ t.reg .tun 0x058 = s.reg .tun 0x058 + 1 ∧
      (made → (t.reg .tun offErrInj).getLsbD 0 = false) ∧
      (obs.pass = true → ¬ made → (t.tuneUnit u.val).st = .idle ∧ (t.tuneUnit u.val).fenced = x.fenced ∧ (t.engine u.val).tuning = false ∧ t.streams = s.streams ∧
        keptBut s.tuneUnit t.tuneUnit [u.val] ∧ (x.rep = true → s.recordedIn t 0x06 0 (unitField u.val))) ∧
      (x.rep = false → (obs.pass = false ∨ made) → (t.tuneUnit u.val).st = .running ∧ (t.tuneUnit u.val).rep = true ∧ (t.engine u.val).tuning = true ∧
        s.raisedIn t .tun 0 ∧ t.reg .tun 0x05C = satAdd (s.reg .tun 0x05C) 1 ∧ t.streams = s.streams) ∧
      (x.rep = true → obs.pass = false → (t.tuneUnit u.val).fenced = true ∧ (t.tuneUnit u.val).st = .idle ∧ (t.engine u.val).tuning = false ∧
        (t.reg .tun offErrStat).getLsbD 0 = true ∧ (t.reg .tun offErrStat).getLsbD 1 = true ∧ t.reg .tun 0x060 = s.reg .tun 0x060 + 1 ∧
        (∀ c, c ∈ t.caches → c.units.contains u.val = false) ∧ (isArray u.val = true → (t.reg (unitPage u.val) 0x040).getLsbD 21 = true) ∧
        (isArray u.val = false → u.val ∈ t.flash.retired) ∧
        (∀ m, m ∈ s.slotHolders u.val → active m → (t.stream m).st = .failed ∧ (t.stream m).endStatus = S_UNIT_FENCED))) ∧
  (∀ s : State, s.hostReach = true → s.pageUp .tun = true →
    let u := s.field .tun 0x048 0 10
    (u < 822 → (s.tuneUnit u).st ≠ .running → (s.tuneUnit u).fenced = false → ∃ t, exec .tuningRunNow s = .next t ∧
      t.tuneUnit u = { s.tuneUnit u with st := .takeover } ∧ keptBut s.tuneUnit t.tuneUnit [u] ∧ t = { s with tune := t.tune }) ∧
    (∃ t, exec .tuningRotateAll s = .next t ∧ t = { s with tune := t.tune } ∧
      ∀ v : Fin 822, t.tuneUnit v.val = (if (s.tuneUnit v.val).fenced = false ∧ (s.die (unitDie v.val)).up = true ∧ (s.tuneUnit v.val).st ≠ .running
        then { s.tuneUnit v.val with st := .takeover } else s.tuneUnit v.val)) ∧
    (∃ t, exec .injectTuningFail s = .next t ∧ t.reg .tun offErrInj = s.reg .tun offErrInj ||| 1 ∧ s.regsKept t [Page.base .tun + offErrInj] ∧ t = { s with regs := t.regs }))

/-- FLIT_RECEIVED, FLIT_REPLAY_TIMEOUT, LANE_TEST_SEND and LANE_TEST_RECEIVED (R451 to R457). -/
def Obligations.FlitsAndLaneTests : Prop :=
  ∀ (e : LinkEnd) (b : Fin 16) (s : State),
    let k := s.link e
    let x := s.bundle e b.val
    let other : Prop := ∃ c : Fin 16, c ≠ b ∧ c.val < e.bundles ∧ k.uses c.val = true
    let retired (t : State) : Prop := (t.link e).retired.testBit b.val = true ∧ (t.link e.peer).retired.testBit b.val = true ∧ (t.bundle e b.val).unacked = [] ∧
      (t.reg e.shown offErrStat).getLsbD 1 = true ∧ (t.reg e.peer.shown offErrStat).getLsbD 1 = true
    k.carries b.val = true →
    (∀ f : Flit, crc32c f.covered ≠ f.crc → ∃ t, exec (.flitReceived e b f) s = .next t ∧ t = { s with regs := t.regs } ∧
      (e.page = none → t = s) ∧ (∀ pg, e.page = some pg → t.reg pg 0x04C = satAdd (s.reg pg 0x04C) 1 ∧ s.regsKept t [pg.base + 0x04C])) ∧
    (∀ f : Flit, crc32c f.covered = f.crc → f.fseq ≠ x.rxSeq → exec (.flitReceived e b f) s = .next s) ∧
    (∀ f : Flit, crc32c f.covered = f.crc → f.fseq = x.rxSeq → f.kind ≠ 4 → k.held = [] → k.moved = [] →
      ∃ t, exec (.flitReceived e b f) s = .next t ∧ (t.bundle e b.val).rxSeq = x.rxSeq + 1 ∧ (t.bundle e b.val).txSeq = x.txSeq ∧
        (t.bundle e b.val).unacked = x.unacked.filter (fun g => !decide ((f.fack - g.fseq).toNat < 0x8000)) ∧
        t.out = (if f.kind = 0 then s.out ++ [.flitData e b.val f.payload] else s.out) ∧ t = { s with bundles := t.bundles, out := t.out }) ∧
    (x.unacked ≠ [] → x.replays < 64 → ∃ t, exec (.flitReplayTimeout e b) s = .next t ∧ t.bundle e b.val = { x with replays := x.replays + 1 } ∧
      t.out = s.out ++ x.unacked.map (fun f => .flit e b.val f) ∧ (∀ pg, e.page = some pg → t.reg pg 0x050 = satAdd (s.reg pg 0x050) 1) ∧
      t = { s with bundles := t.bundles, regs := t.regs, out := t.out }) ∧
    (x.unacked ≠ [] → 64 ≤ x.replays → other → ∃ t, exec (.flitReplayTimeout e b) s = .next t ∧ retired t ∧ t.mem = s.mem ∧ t.streams = s.streams ∧ t.dies = s.dies) ∧
    (x.unacked.length < 256 → ∃ t, exec (.laneTestSend e b) s = .next t ∧ ∃ f : Flit, t.out = s.out ++ [.flit e b.val f, .laneTest e b.val e.lanes] ∧ f.kind = 2 ∧ f.fseq = x.txSeq ∧ f.fack = x.rxSeq - 1 ∧
      f.payload.length = e.payload ∧ crc32c f.covered = f.crc ∧ t.bundle e b.val = { x with txSeq := x.txSeq + 1, unacked := x.unacked ++ [f] } ∧
      t = { s with bundles := t.bundles, out := t.out }) ∧
    ((∀ pg, e.page = some pg → (s.reg pg offErrInj).getLsbD 0 = false) →
      (∃ t, exec (.laneTestReceived e b ⟨[], []⟩) s = .next t ∧ t = { s with lanes := t.lanes } ∧
        ∀ g, g < e.groups → t.laneGroup e b.val g = { s.laneGroup e b.val g with last := [], prbs := false }) ∧
      (∀ (g : Fin 16) (l : Fin 33), g.val < e.groups → let grp := s.laneGroup e b.val g.val
        (grp.last.contains l.val = false → ∃ t, exec (.laneTestReceived e b ⟨[(g, l)], []⟩) s = .next t ∧ t = { s with lanes := t.lanes } ∧
          t.laneGroup e b.val g.val = { grp with last := [l.val], prbs := false }) ∧
        (grp.last.contains l.val = true → grp.lane ≠ some l.val → l.val ≠ grp.lane.getD 32 → other → ∃ t, exec (.laneTestReceived e b ⟨[(g, l)], []⟩) s = .next t ∧ retired t ∧
          (t.reg e.shown offErrStat).getLsbD 0 = true ∧ t.reg e.shown 0x054 = laneFailWord e b.val g.val l.val ∧ t.streams = s.streams ∧ t.dies = s.dies) ∧
        (grp.last.contains l.val = true → grp.lane = none → l.val = 32 → ∃ t, exec (.laneTestReceived e b ⟨[(g, l)], []⟩) s = .next t ∧
          (t.laneGroup e b.val g.val).shimBad = true ∧ t.links = s.links ∧ t.bundles = s.bundles ∧ t.streams = s.streams) ∧
        (grp.lane = none → grp.prbs = false → ∃ t, exec (.laneTestReceived e b ⟨[], [g]⟩) s = .next t ∧ t = { s with lanes := t.lanes } ∧
          t.laneGroup e b.val g.val = { grp with last := [], prbs := true }) ∧
        (grp.lane = none → grp.prbs = true → ∃ t, exec (.laneTestReceived e b ⟨[], [g]⟩) s = .next t ∧
          (t.laneGroup e b.val g.val).shimBad = true ∧ t.links = s.links ∧ t.bundles = s.bundles ∧ t.streams = s.streams)))

/-- CLOCK_MONITOR_WINDOW, RESET_NOTICE_RECEIVED, LINK_TEST_START, LINK_TEST_DONE and INJECT_LANE_FAIL (R462, R463, R470, R471, R478 to R483). -/
def Obligations.LostPeersAndLinkTests : Prop :=
  (∀ (e : LinkEnd) (edges : List Nat) (expected : Nat) (s : State),
    let x := s.link e
    let short := edges.all (fun n => decide (2 * n < expected))
    let gone (t : State) (d : Fin 12) (cause : Nat) : Prop := (t.die d.val).up = false ∧ (t.die d.val).cause = cause ∧ (t.link e).up = false ∧ (t.link e).fenced = true ∧ t.mem = s.mem ∧
      (∃ r, t.log.getLast? = some r ∧ r.kind = 0x11 ∧ r.code = S_DIE_DOWN) ∧
      (∀ m, m ∈ s.affected (dieUnits d.val) → ((s.stream m).st = .binding ∨ (s.stream m).st = .running ∨ (s.stream m).st = .frozen) →
        (t.stream m).st = .failed ∧ (t.stream m).endStatus = S_DIE_DOWN)
    x.up = true → x.fenced = false →
    (s.pwr.st = .run → s.pwr.change = none →
      (short = true → x.short = 0 → ∃ t, exec (.clockMonitorWindow e edges expected) s = .next t ∧ t.link e = { x with short := 1, peerClk := false } ∧ t = { s with links := t.links }) ∧
      (short = false → (∀ n, n ∈ edges → n ≠ 0) → ∃ t, exec (.clockMonitorWindow e edges expected) s = .next t ∧ t.link e = { x with short := 0, peerClk := true } ∧ t = { s with links := t.links }) ∧
      (∀ d : Fin 12, short = true → 1 ≤ x.short → e = .bondBase d → s.computeUp d.val = true → ∃ t, exec (.clockMonitorWindow e edges expected) s = .next t ∧ gone t d 1) ∧
      (∀ d : Fin 12, short = true → 1 ≤ x.short → e = .bondDie d → ∃ t, exec (.clockMonitorWindow e edges expected) s = .next t ∧ t.die d.val = { s.die d.val with stopped := true } ∧
        t = { s with links := t.links, dies := t.dies }) ∧
      (∀ b c : Fin 16, short = false → stoppedClocks edges = [b.val] → x.uses b.val = true → c ≠ b → c.val < e.bundles → x.uses c.val = true →
        ∃ t, exec (.clockMonitorWindow e edges expected) s = .next t ∧ (t.link e).retired.testBit b.val = true ∧ (t.link e.peer).retired.testBit b.val = true ∧
          (t.reg e.shown offErrStat).getLsbD 0 = true ∧ (t.reg e.shown offErrStat).getLsbD 1 = true ∧ t.mem = s.mem ∧ t.streams = s.streams ∧ t.dies = s.dies)) ∧
    (s.pwr.st = .hold → s.pwr.change = none → ∃ t, exec (.clockMonitorWindow e edges expected) s = .next t ∧
      t.link e = { x with short := if short = true then x.short + 1 else 0 } ∧ t = { s with links := t.links }) ∧
    (∀ d : Fin 12, e = .bondBase d → s.computeUp d.val = true → ∃ t, exec (.resetNoticeReceived e) s = .next t ∧ gone t d 2) ∧
    (∀ d : Fin 12, e = .bondDie d → ∃ t, exec (.resetNoticeReceived e) s = .next t ∧ t.die d.val = { s.die d.val with stopped := true } ∧ keptBut s.die t.die [d.val] ∧ t = { s with dies := t.dies }) ∧
    (∀ b : Fin 3, e.far = .base b → e.page ≠ none → s.baseUp b.val = true → ∃ t, exec (.resetNoticeReceived e) s = .next t ∧ (t.die (12 + b.val)).up = false ∧ t.mem = s.mem)) ∧
  (∀ (e : LinkEnd) (s : State),
    (s.testMode e = true → s.loopReady e = true → ∃ t, exec (.linkTestStart e) s = .next t ∧ t.reg e.shown 0x058 = mergeBits (s.reg e.shown 0x058) 0x4 0x1C ∧
      s.regsKept t [e.shown.base + 0x058] ∧ t = { s with regs := t.regs }) ∧
    (s.testMode e = false ∨ s.loopReady e = false → exec (.linkTestStart e) s = .next s) ∧
    (s.loopReady e = true ↔ s.field e.shown 0x058 0 2 = 1 ∨ s.field e.shown 0x058 0 2 = 2 ∧ s.farReady e = true) ∧
    (∀ (errs : LaneErrors) (logic sram : Bool), (s.reg e.shown 0x058).getLsbD 2 = true →
      ∃ t, exec (.linkTestDone e errs logic sram) s = .next t ∧ s.regsKept t [e.shown.base + 0x058] ∧
        (t.link e.tested).testErrs = errs.run.map (fun p => ((p.1.val * 16 + p.2.1.val) * 64 + p.2.2.1.val, p.2.2.2)) ∧
        (t.link e.tested).testMargin = errs.margin.map (fun p => ((p.1.val * 16 + p.2.1.val) * 64 + p.2.2.1.val, p.2.2.2.1.val, p.2.2.2.2)) ∧
        (t.link e.tested).testLogic = logic ∧ (t.link e.tested).testSram = sram ∧ (t.reg e.shown 0x058).getLsbD 2 = false ∧ (t.reg e.shown 0x058).getLsbD 3 = true ∧
        ((t.reg e.shown 0x058).getLsbD 4 = true ↔ logic = true ∧ sram = true ∧ ∀ p, p ∈ errs.run → p.2.2.2 = 0) ∧ t = { s with regs := t.regs, links := t.links }) ∧
    (∀ pg, e.page = some pg →
      (s.writes pg = true → ∃ t, exec (.injectLaneFail e) s = .next t ∧ t.reg pg offErrInj = s.reg pg offErrInj ||| 1 ∧ s.regsKept t [pg.base + offErrInj] ∧ t = { s with regs := t.regs }) ∧
      (s.writes pg = false → exec (.injectLaneFail e) s = .next s)) ∧
    (e.page = none → exec (.injectLaneFail e) s = .next s))

/-- BUDGET_RECEIVED, BUDGET_REPEAT, REPORT_SEND, REPORT_RECEIVED and BUDGET_FALLBACK (R465 to R468). -/
def Obligations.BudgetsAndReports : Prop :=
  ∀ (d : Die) (s : State),
    let x := s.die d.num
    let compute : Bool := match d with
      | .compute _ => true
      | .base _ => false
    let floor : Nat := match d with
      | .compute c => s.field (.bnd c) 0x070 0 16
      | .base b => (s.die (12 + b.val)).floorW8
    let only (t : State) (y : DieSt) : Prop := t.die d.num = y ∧ keptBut s.die t.die [d.num] ∧ t = { s with dies := t.dies }
    x.up = true →
    (∀ m : Budget, x.test = false → x.stopped = false → ∃ t, exec (.budgetReceived d m) s = .next t ∧
      only t (if compute = true then (if x.hot = true then { x with applied := m, fallback := false, step := max x.step s.pwr.step, duty := min x.duty s.pwr.duty }
          else { x with applied := m, fallback := false, step := s.pwr.step, duty := s.pwr.duty }) else { x with applied := m, fallback := false })) ∧
    (x.test = false → ∃ t, exec (.budgetRepeat d) s = .next t ∧ t.out.take s.out.length = s.out ∧ t.out[s.out.length]? = some (.budget d.num x.sent) ∧ t.dies = s.dies ∧
      t = { s with out := t.out, links := t.links, bundles := t.bundles }) ∧
    (∀ (w : U16) (c : U8), x.test = false → ∃ t, exec (.reportSend d w c) s = .next t ∧ t.out.take s.out.length = s.out ∧
      (∃ m : DieReport, t.out[s.out.length]? = some (.report d.num m) ∧ m.epoch = x.applied.epoch ∧ m.powerW8 = w ∧ m.tempC = c ∧
        (compute = true → x.duty ≤ 256 → m.duty.toNat = min 255 x.duty) ∧ (compute = true → x.step ≤ 56 → m.clkMhz.toNat = 2100 - 25 * x.step) ∧
        (compute = false → m.duty = 255 ∧ m.clkMhz = 1600) ∧
        (m.rflags.getLsbD 0 = true ↔ x.applied.limitW8.toNat ≤ w.toNat) ∧ m.rflags.getLsbD 1 = x.hot ∧ m.rflags.getLsbD 2 = x.fallback ∧ m.rflags.toNat < 8) ∧
      t = { s with out := t.out, links := t.links, bundles := t.bundles }) ∧
    (∀ m : DieReport, ∃ t, exec (.reportReceived d m) s = .next t ∧ t.die d.num = { x with rep := m } ∧ keptBut s.die t.die [d.num] ∧ t = { s with dies := t.dies, regs := t.regs } ∧
      (m.rflags.getLsbD 2 = false → t.regs = s.regs) ∧
      (m.rflags.getLsbD 2 = true → (∀ c, d = .compute c → s.raisedIn t (.bnd c) 4) ∧ (∀ b, d = .base b → s.raisedIn t .swl 1))) ∧
    (x.test = false → ∃ t, exec (.budgetFallback d) s = .next t ∧
      let fall := { x with fallback := true, applied := { x.applied with limitW8 := BitVec.ofNat 16 floor } }
      (compute = true → s.baseUp (d.num / 4) = false → only t { x with stopped := true }) ∧
      (compute = false ∨ s.baseUp (d.num / 4) = true ∧ ¬ BitVec.ofNat 16 floor < x.applied.limitW8 → only t fall) ∧
      (compute = true → s.baseUp (d.num / 4) = true → BitVec.ofNat 16 floor < x.applied.limitW8 → x.step ≤ 56 → 64 ≤ x.duty →
        t.die d.num = { fall with step := (t.die d.num).step, duty := (t.die d.num).duty } ∧ x.step ≤ (t.die d.num).step ∧ (t.die d.num).step ≤ 56 ∧
        64 ≤ (t.die d.num).duty ∧ (t.die d.num).duty ≤ x.duty ∧ keptBut s.die t.die [d.num] ∧ t = { s with dies := t.dies, free := s.free + 1 }))

/-- SETPOINT_WRITE, SWELL_FRAME, SWELL_CONTROL_LOOP, DESCANT_RESTORE, DIE_THERMAL_TICK, FLOW_TACH_WINDOW, FLOW_LOW_DETECTED and FLOW_RESTORED (R351, R487 to R494, R506, R507, R606, R607). -/
def Obligations.SwellFollowsSetpoints : Prop :=
  (∀ s : State,
    let pk (k : Nat) : Rat := s.flash.calib.pOf k
    let dsum : Rat := s.upDies.foldl (fun x d => x + s.demand d) 0
    let only (t : State) : Prop := t = { s with pwr := t.pwr, dies := t.dies, regs := t.regs, out := t.out, links := t.links, bundles := t.bundles }
    let computed (t : State) : Prop :=
      let p := t.pwr
      let a := s.allowance p.cap
      p.cap = (if p.flowLow then min 450 (min (min p.target p.ramp) p.thermalCap) else min (min p.target p.ramp) p.thermalCap) ∧
      (dsum ≤ a → p.step = 0 ∧ p.duty = 256) ∧
      (a < dsum → dsum * pk 56 ≤ a → p.duty = 256 ∧ p.step ≤ 56 ∧ dsum * pk p.step ≤ a ∧ ∀ k, k < p.step → a < dsum * pk k) ∧
      (a < dsum → a < dsum * pk 56 → p.step = 56 ∧ p.duty = max 64 (256 * a / (dsum * pk 56)).floor.toNat) ∧
      (p.shed = true ↔ s.pwr.shed = true ∨ p.cap < p.inputW ∨ 0 < p.step ∨ p.duty < 256) ∧
      (∀ d : Fin 12, s.computeUp d.val = true → (s.die d.val).test = false →
        (t.die d.val).sent.descantOff = p.shed ∧ (t.die d.val).sent.limitW8 = BitVec.ofNat 16 (s.demand d.val * pk p.step * p.duty / 256 * 8).floor.toNat) ∧
      (∀ b : Fin 3, s.baseUp b.val = true → (s.die (12 + b.val)).test = false → let w := (s.die (12 + b.val)).rep.powerW8.toNat
        (t.die (12 + b.val)).sent.descantOff = p.shed ∧ (11 * w ≤ 655350 → 11 * w ≤ 10 * (t.die (12 + b.val)).sent.limitW8.toNat)) ∧ only t
    let accepted (before t : State) (src : SwellSource) (w : Nat) : Prop :=
      let c := max 450 (min 2400 w)
      t.pwr.target = c ∧ t.pwr.source = src ∧ t.pwr.ramp = min s.pwr.ramp c ∧ t.pwr.inputW = s.pwr.inputW ∧ t.reg .swl 0x060 = s.reg .swl 0x060 + 1 ∧
      (c ≠ w → t.reg .swl 0x064 = satAdd (s.reg .swl 0x064) 1 ∧ before.raisedIn t .swl 0) ∧
      (c = w → t.reg .swl 0x064 = s.reg .swl 0x064 ∧ t.reg .swl offErrStat = before.reg .swl offErrStat) ∧ t.mem = s.mem ∧ t.streams = s.streams
    (∀ v : U32, s.hostReach = true → let w := v.toNat % 65536
      ∃ t, exec (.setpointWrite v) s = .next t ∧ t.field .swl 0x040 0 16 = w ∧
        (s.sourceOn .register = true → accepted s t .register w ∧ (s.pwr.st = .run → computed t) ∧ (s.pwr.st ≠ .run → t = { s with regs := t.regs, pwr := t.pwr })) ∧
        (s.sourceOn .register = false → s.regsKept t [Page.base .swl + 0x040] ∧ t = { s with regs := t.regs })) ∧
    (∀ p : Fin 12, ∀ x, s.frameFor p.val ftSwell = some x → let f := x.2
      ∃ t, exec (.swellFrame p) s = .next t ∧ s.tookFrame t x.1 f ∧
        (s.swellOk f = true → t.pwr.epoch = some (BitVec.ofNat 32 (f.field 0 4)) ∧ accepted s t .frame (f.field 4 2)) ∧
        (s.swellOk f = false → t.pwr = s.pwr ∧ (t.reg .wwyMod offErrStat).getLsbD 1 = true ∧ t.dies = s.dies ∧ t.mem = s.mem ∧ t.streams = s.streams)) ∧
    (∀ obs : SwellObs, s.start.powered = true → s.pwr.st = .run → let temp (b : Nat) : Int := obs.baseTemp.getD b 0
      ((∀ b : Fin 3, s.baseUp b.val = true → temp b.val < 110) → ∃ t, exec (.swellControlLoop obs) s = .next t ∧ computed t ∧
        t.pwr.inputW = obs.inputW ∧ t.pwr.input10mV = obs.input10mV ∧ t.pwr.target = s.pwr.target ∧
        t.pwr.ramp = (if s.pwr.target ≤ s.pwr.ramp then s.pwr.target else min s.pwr.target (s.pwr.ramp + s.slew * obs.elapsedMs)) ∧
        (∀ b : Fin 3, t.pwr.hotBases.contains b.val = true ↔ s.baseUp b.val = true ∧ (95 ≤ temp b.val ∨ (s.pwr.hotBases.contains b.val = true ∧ 93 ≤ temp b.val))) ∧
        (t.pwr.hotBases ≠ [] ∨ s.hotStacks ≠ [] → t.pwr.thermalCap = max 450 (97 * obs.inputW / 100)) ∧
        (t.pwr.hotBases = [] → s.hotStacks = [] → s.pwr.calmMs + obs.elapsedMs < 1000 → t.pwr.thermalCap = s.pwr.thermalCap) ∧
        (t.pwr.hotBases = [] → s.hotStacks = [] → 1000 ≤ s.pwr.calmMs + obs.elapsedMs → t.pwr.thermalCap = min 2400 (s.pwr.thermalCap + s.slew * obs.elapsedMs)) ∧
        s.regsKept t (errRegs .pwr)) ∧
      (∀ b : Fin 3, s.baseUp b.val = true → 110 ≤ temp b.val → (∀ c : Fin 3, c ≠ b → temp c.val < 110) → ∃ t, exec (.swellControlLoop obs) s = .next t ∧
        (t.die (12 + b.val)).up = false ∧ (t.reg .pwr offErrStat).getLsbD 1 = true ∧ t.pwr.inputW = obs.inputW)) ∧
    (∀ obs : SwellObs, s.start.powered = true → s.pwr.st = .hold → let temp (b : Nat) : Int := obs.baseTemp.getD b 0
      (∀ b : Fin 3, s.baseUp b.val = true → temp b.val < 110) → ∃ t, exec (.swellControlLoop obs) s = .next t ∧ t = { s with pwr := t.pwr, regs := t.regs } ∧ s.regsKept t (errRegs .pwr) ∧
        t.pwr.inputW = obs.inputW ∧ t.pwr.input10mV = obs.input10mV ∧ t.pwr.target = s.pwr.target ∧ t.pwr.ramp = s.pwr.ramp ∧ t.pwr.cap = s.pwr.cap ∧ t.pwr.step = s.pwr.step ∧ t.pwr.duty = s.pwr.duty ∧
        (∀ b : Fin 3, t.pwr.hotBases.contains b.val = true ↔ s.baseUp b.val = true ∧ (95 ≤ temp b.val ∨ (s.pwr.hotBases.contains b.val = true ∧ 93 ≤ temp b.val))) ∧
        (t.pwr.hotBases ≠ [] ∨ s.hotStacks ≠ [] → t.pwr.thermalCap = max 450 (97 * obs.inputW / 100)) ∧
        (t.pwr.hotBases = [] → s.hotStacks = [] → s.pwr.calmMs + obs.elapsedMs < 1000 → t.pwr.thermalCap = s.pwr.thermalCap) ∧
        (t.pwr.hotBases = [] → s.hotStacks = [] → 1000 ≤ s.pwr.calmMs + obs.elapsedMs → t.pwr.thermalCap = min 2400 (s.pwr.thermalCap + s.slew * obs.elapsedMs))) ∧
    (s.pwr.shed = true → s.pwr.step = 0 → s.pwr.duty = 256 → s.pwr.inputW + s.field .swl 0x05C 0 16 ≤ s.pwr.cap →
      ∃ t, exec .descantRestore s = .next t ∧ t.pwr = { s.pwr with shed := false, stage := 0 } ∧ only t ∧ t.regs = s.regs ∧
        ∀ d : Fin 15, (s.die d.val).up = true → (s.die d.val).test = false → (t.die d.val).sent = { (s.die d.val).sent with descantOff := false }) ∧
    (s.start.powered = true → ∀ edges : Nat, ∃ t, exec (.flowTachWindow edges) s = .next t ∧ t = { s with pwr := { s.pwr with mlpm := min 65535 (60 * edges) } }) ∧
    (s.start.powered = true → s.pwr.leak = false → s.pwr.flowLow = false → s.pwr.mlpm < s.field .pwr 0x054 0 16 → ∃ t, exec .flowLowDetected s = .next t ∧ s.recordedIn t 0x22 S_OK unitModule ∧ s.raisedIn t .pwr 2 ∧
      t.pwr.flowLow = true ∧ (s.pwr.st = .run → t.pwr.cap ≤ 450) ∧ (s.pwr.st ≠ .run → t.pwr = { s.pwr with flowLow := true }) ∧ t.mem = s.mem ∧ t.streams = s.streams) ∧
    (s.pwr.flowLow = true → s.field .pwr 0x054 0 16 ≤ s.pwr.mlpm → ∃ t, exec .flowRestored s = .next t ∧ t.pwr.flowLow = false ∧ (s.pwr.st = .run → computed t) ∧ (s.pwr.st ≠ .run → t = { s with pwr := { s.pwr with flowLow := false } }))) ∧
  (∀ (d : Fin 12) (c : BitVec 8) (s : State), (s.die d.val).up = true →
    let x := s.die d.val
    let hot := 95 ≤ c.toInt ∨ (x.hot = true ∧ 93 ≤ c.toInt)
    ∃ t, exec (.dieThermalTick d c) s = .next t ∧
      (c.toInt < 110 → keptBut s.die t.die [d.val] ∧ t = { s with dies := t.dies, regs := t.regs } ∧
        (hot → t.die d.val = (if x.step < 56 then { x with hot := true, step := x.step + 1 } else { x with hot := true, duty := max 64 (x.duty - 16) }) ∧
          (x.hot = false → s.raisedIn t .pwr 0)) ∧
        (¬ hot → t.regs = s.regs ∧ t.die d.val =
          (if x.duty < s.pwr.duty then { x with hot := false, duty := min s.pwr.duty (x.duty + 16) } else { x with hot := false, step := if s.pwr.step < x.step then x.step - 1 else x.step }))) ∧
      (110 ≤ c.toInt → (t.die d.val).up = false ∧ (t.die d.val).cause = 2 ∧ (t.reg .pwr offErrStat).getLsbD 1 = true ∧ t.mem = s.mem))

/-- POWER_REQ_RUN, POWER_REQ_HOLD, POWER_REQ_BREATH, POWER_REQ_OFF, HOLD_REACHED, WAKE_COMPLETE, BREATH_SAMPLE, BRT_CROSS_CLEAR, LEAK_DETECTED, LEAK_DETECT_RELEASED, INPUT_UNDERVOLTAGE and POWER_ON (R486, R500 to R508, R515 to R517). -/
def Obligations.PowerStatesAndStarts : Prop :=
  ∀ s : State,
    let p := s.pwr
    let refused (t : State) (c : U16) : Prop := t.reg .pwr 0x048 = c.zeroExtend 32 ∧ s.raisedIn t .pwr 4 ∧ s.regsKept t (errRegs .pwr ++ [Page.base .pwr + 0x048]) ∧ t = { s with regs := t.regs }
    let goes (t : State) (x : PState) : Prop := t.reg .pwr 0x048 = 0 ∧ s.regsKept t [Page.base .pwr + 0x048] ∧ t = { s with regs := t.regs, pwr := { p with change := some x } }
    let ramped (t : State) : Prop := t.pwr.st = .run ∧ t.pwr.change = none ∧ t.pwr.ramp = 450 ∧ t.pwr.cap = 450 ∧ t.pwr.target = p.target ∧ t.pwr.thermalCap = 2400
    let linksDown (t : State) : Prop := (∀ q : Fin 12, t.port q.val = Port.disabled) ∧ t.cxl.ports = [.down, .down] ∧ t.cxl.active = none
    let breath (t : State) : Prop := t.pwr = { p with st := .breath, change := none, epoch := none } ∧ linksDown t ∧ t.streams = s.streams ∧ t.jobs = s.jobs ∧ t.wmap = s.wmap ∧ t.log = s.log ∧
      (∀ a, a < hbmEnd → t.mem.byte a = s.mem.byte a) ∧ (∀ a, hbmEnd ≤ a → t.mem.byte a = 0)
    let off (t : State) : Prop := t.pwr.st = .off ∧ t.pwr.change = none ∧ linksDown t ∧ t.mem = Memory.zero ∧ t.start.ready = false ∧ t.flash = s.flash
    let fresh (t : State) : Prop := t.mem = t.startedMemory ∧ t.start.ready = true ∧ t.start.step = 0
    (s.start.powered = true → s.start.recovery = false →
      (p.change = none →
        (p.st = .run → ∃ t, exec .powerReqRun s = .next t ∧ refused t S_PWR_STATE) ∧
        (p.st = .hold → ∃ t, exec .powerReqHold s = .next t ∧ refused t S_PWR_STATE) ∧
        (p.st = .breath → ∃ t, exec .powerReqBreath s = .next t ∧ refused t S_PWR_STATE) ∧
        (p.st = .off → ∃ t, exec .powerReqOff s = .next t ∧ refused t S_PWR_STATE) ∧
        (p.st = .off → ∃ t, exec .powerReqBreath s = .next t ∧ refused t S_PWR_STATE) ∧
        (p.st = .breath ∨ p.st = .off → ∃ t, exec .powerReqHold s = .next t ∧ refused t S_PWR_STATE) ∧
        (p.st = .run → ∃ t, exec .powerReqHold s = .next t ∧ goes t .hold) ∧
        (p.st = .hold → (∀ e, (s.link e).up = true → (s.link e).fenced = false → (s.link e).short < 2) → ∃ t, exec .powerReqRun s = .next t ∧ t.reg .pwr 0x048 = 0 ∧
          t.pwr.st = .run ∧ t.pwr.change = none ∧ t.pwr.ramp = 450 ∧ t.pwr.cap ≤ 450 ∧ t.pwr.target = p.target ∧ t.pwr.thermalCap = p.thermalCap ∧ t.pwr.hotBases = p.hotBases ∧ t.pwr.calmMs = p.calmMs ∧
          (∀ e, (s.link e).up = true → (s.link e).fenced = false → (t.link e).short = 0) ∧
          t = { s with regs := t.regs, pwr := t.pwr, links := t.links, bundles := t.bundles, dies := t.dies, out := t.out }) ∧
        (p.st = .run ∨ p.st = .hold → s.powerBusy = true →
          (∃ t, exec .powerReqBreath s = .next t ∧ refused t S_PWR_BUSY) ∧ (∃ t, exec .powerReqOff s = .next t ∧ refused t S_PWR_BUSY)) ∧
        (p.st = .run → s.powerBusy = false → (∃ t, exec .powerReqBreath s = .next t ∧ goes t .breath) ∧ (∃ t, exec .powerReqOff s = .next t ∧ goes t .off)) ∧
        (p.st = .hold → s.powerBusy = false → (∃ t, exec .powerReqBreath s = .next t ∧ breath t) ∧ (∃ t, exec .powerReqOff s = .next t ∧ off t)) ∧
        (p.st = .breath → (∃ t, exec .powerReqRun s = .next t ∧ goes t .run) ∧ (∃ t, exec .powerReqOff s = .next t ∧ off t)) ∧
        (p.st = .off → p.leak = false → ∃ t, exec .powerReqRun s = .next t ∧ goes t .run) ∧
        (p.st = .off → p.leak = true → ∃ t, exec .powerReqRun s = .next t ∧ refused t S_PWR_STATE)) ∧
      (p.change ≠ none → (∃ t, exec .powerReqRun s = .next t ∧ refused t S_PWR_STATE) ∧ (∃ t, exec .powerReqHold s = .next t ∧ refused t S_PWR_STATE) ∧
        (∃ t, exec .powerReqBreath s = .next t ∧ refused t S_PWR_STATE) ∧ (∃ t, exec .powerReqOff s = .next t ∧ refused t S_PWR_STATE))) ∧
    (p.st = .run → s.anyFiring = false →
      (p.change = some .hold → ∃ t, exec .holdReached s = .next t ∧ t.pwr = { p with st := .hold, change := none } ∧
        (∀ e, t.link e = { s.link e with short := 0 }) ∧
        t = { s with pwr := t.pwr, tune := t.tune, engines := t.engines, regs := t.regs, links := t.links }) ∧
      (p.change = some .breath → ∃ t, exec .holdReached s = .next t ∧ breath t) ∧
      (p.change = some .off → ∃ t, exec .holdReached s = .next t ∧ off t)) ∧
    (p.st = .run → s.anyFiring = true → exec .holdReached s = .next s) ∧
    (∀ r : StartReport, p.change = some .run →
      (p.st = .breath → s.baseUp 1 = true → Die.base 1 ∉ r.deadDies → ∃ t, exec (.wakeComplete r) s = .next t ∧ ramped t ∧ t.mem = s.mem ∧ t.start.ready = s.start.ready) ∧
      (p.st = .off → r.deadBase 1 = false → (s.die 13).up = true ∨ (s.die 13).asleep = true → ∃ t, exec (.wakeComplete r) s = .next t ∧ ramped t ∧ fresh t) ∧
      (p.st = .off → r.deadBase 1 = true ∨ (s.die 13).up = false ∧ (s.die 13).asleep = false → ∃ t, exec (.wakeComplete r) s = .next t ∧ t.start.ready = false ∧ t.start.step = 5 ∧ t.baseUp 1 = false)) ∧
    (∀ samples : List U16, p.st = .breath →
      let v (i : Nat) : U16 := samples.getD i 0
      let cross (i : Nat) : Prop :=
        if i < 15 ∨ 19 ≤ i then (v i).toInt < (p.brtLow.getD i 0).toInt ∨ (p.brtHigh.getD i 0).toInt < (v i).toInt
        else (v i).toNat < (p.brtLow.getD i 0).toNat ∨ (p.brtHigh.getD i 0).toNat < (v i).toNat
      ∃ t, exec (.breathSample samples) s = .next t ∧ t.reg .brt 0x058 = s.reg .brt 0x058 + 1 ∧ t.pwr.brtLast.length = 24 ∧ (∀ i : Fin 24, t.pwr.brtLast.getD i.val 0 = v i.val) ∧
        (∀ i : Fin 24, (t.reg .brt 0x050).getLsbD i.val = true ↔ (s.reg .brt 0x050).getLsbD i.val = true ∨ cross i.val) ∧
        ((∀ i : Fin 24, ¬ cross i.val) → s.regsKept t [Page.base .brt + 0x058] ∧ t = { s with regs := t.regs, pwr := { p with brtLast := t.pwr.brtLast, clockMs := t.pwr.clockMs } }) ∧
        ((∃ i : Fin 24, cross i.val) → (∃ r, t.log.getLast? = some r ∧ r.kind = 0x23 ∧ r.seq = s.logHead) ∧ t.alert = true ∧ (s.alert = false → t.out = s.out ++ [.alert true]) ∧
          t.pwr.change = (if s.field .brt 0x054 0 1 = 1 ∧ p.change = none then some .run else p.change) ∧ t.pwr.st = .breath ∧ t.mem = s.mem ∧ t.streams = s.streams)) ∧
    (∀ w : U32, s.hostReach = true → ∃ t, exec (.brtCrossClear w) s = .next t ∧ t.reg .brt 0x050 = s.reg .brt 0x050 &&& ~~~(w &&& 0xFFFFFF) ∧ s.regsKept t [Page.base .brt + 0x050] ∧
      t.out = (if s.alert = true ∧ t.alert = false then s.out ++ [.alert false] else s.out) ∧ t = { s with regs := t.regs, out := t.out }) ∧
    (s.start.powered = true → p.leak = false → ∃ t, exec .leakDetected s = .next t ∧ t.pwr.leak = true ∧ t.pwr.flowLow = false ∧ t.alert = true ∧ (t.reg .pwr offErrStat).getLsbD 3 = true ∧
      (s.alert = false → t.out[s.out.length]? = some (.alert true)) ∧ (∃ r, t.log.getLast? = some r ∧ r.kind = 0x21 ∧ r.seq = s.logHead) ∧
      (p.st = .off → p.change = none → t.pwr = { p with leak := true, flowLow := false } ∧ t.streams = s.streams) ∧
      (p.st ≠ .off ∨ p.change ≠ none → (∀ n : Fin 16384, (s.stream n.val).active = true → t.failedWith n.val S_PWR_FORCED_OFF unitNone ∧ (t.stream n.val).pend = []) ∧ t.fw = none) ∧
      (p.st = .hold ∨ p.st = .breath ∨ (p.st = .off ∧ p.change ≠ none) ∨ (p.st = .run ∧ s.anyFiring = false) → t.pwr.st = .off ∧ t.pwr.change = none ∧ t.mem = Memory.zero)) ∧
    (p.leak = true → ∃ t, exec .leakDetectReleased s = .next t ∧ t.out = (if t.alert = true then s.out else s.out ++ [.alert false]) ∧ t = { s with pwr := { p with leak := false }, out := t.out }) ∧
    (∃ t, exec .inputUndervoltage s = .next t ∧ t.out = (if s.alert = true then s.out ++ [.alert false] else s.out) ∧
      t = { State.reset with pending := s.pending, out := t.out, free := s.free, nextReq := s.nextReq, flash := s.flash }) ∧
    (∀ r : StartReport, s.start.powered = false → r.powerGood = true → r.loadFail = false →
      (∀ k, s.flash.boot.slot = some k → r.deadBase 1 = false → ∃ t, exec (.powerOn r) s = .next t ∧ fresh t ∧ t.start.slot = k ∧ t.start.recovery = false ∧
        t.pwr.st = .run ∧ t.pwr.ramp = 450 ∧ t.pwr.target = 2400 ∧ (r.early = [] → t.streams = []) ∧ t.jobs = [] ∧ t.regions = [] ∧ t.sessions = [] ∧ t.slots = []) ∧
      (∀ k, s.flash.boot.slot = some k → r.deadBase 1 = true → ∃ t, exec (.powerOn r) s = .next t ∧ t.start.powered = true ∧ t.start.ready = false ∧ t.start.step = 5) ∧
      (s.flash.boot.slot = none → ∃ t, exec (.powerOn r) s = .next t ∧ t.start.powered = true ∧ t.start.recovery = true ∧ t.start.ready = false ∧ t.alert = true ∧
        ∃ e, t.log.getLast? = some e ∧ e.kind = 0x35))

/-- SERVICE_CONNECT, SERVICE_IDLE_TIMEOUT, SERVICE_SESSION_END and the service operations apart from updates (R529 to R532, R539, R545, R546). -/
def Obligations.ServicePort : Prop :=
  (∀ (c : Instr) (q : SvcReq) (op role : Nat) (rec' : Bool) (s : State), serviceRequest c = some (q, op, role, rec') →
    (s.session q.session.val = none → exec c s = .next s) ∧
    (∀ x, s.session q.session.val = some x → x.roles.testBit role = false ∨ (s.start.recovery = true ∧ rec' = false) →
      exec c s = .next { s with out := s.out ++ [replyTo q op S_SVC_DENIED []] })) ∧
  (∀ (h : Handshake) (s : State), s.start.powered = true →
    let fits : Prop := h.tls13 = true ∧ h.valid = true ∧ (h.suite = 0x1301 ∨ h.suite = 0x1302) ∧ (h.group = 0x18 ∨ h.group = 0x1D) ∧ h.clientCert = true ∧
      (if h.ecdsa = true then h.keyBits = 384 else 2048 ≤ h.keyBits ∧ h.keyBits ≤ 4096) ∧ h.resumption = false ∧ h.earlyData = false
    (∀ (i : Fin 4) (a : Anchor), fits → s.session i.val = none → (∀ j, j < i.val → s.session j ≠ none) → s.start.anchors.find? (fun b => h.chain.contains b.caHash) = some a →
      ∃ t, exec (.serviceConnect h) s = .next t ∧ t.session i.val = some ⟨a.roles⟩ ∧ keptBut s.session t.session [i.val] ∧ t = { s with sessions := t.sessions }) ∧
    (¬ fits ∨ (∀ a, a ∈ s.start.anchors → h.chain.contains a.caHash = false) ∨ (∀ i : Fin 4, s.session i.val ≠ none) →
      ∃ t, exec (.serviceConnect h) s = .next t ∧ t.reg .sec 0x070 = satAdd (s.reg .sec 0x070) 1 ∧ s.raisedIn t .sec 0 ∧ t = { s with regs := t.regs })) ∧
  (∀ (i : Fin 4) (s : State), s.session i.val ≠ none →
    let ended (t : State) : Prop := t.session i.val = none ∧ keptBut s.session t.session [i.val] ∧ (∀ l, l ∈ t.latches → l.requester ≠ .svc i) ∧ (∀ l, l ∈ t.heldLo → l.requester ≠ .svc i) ∧
      (∀ l : Latch, l.requester ≠ .svc i → (l ∈ t.latches ↔ l ∈ s.latches)) ∧ (∀ l : HeldLo, l.requester ≠ .svc i → (l ∈ t.heldLo ↔ l ∈ s.heldLo)) ∧
      (∀ w, s.fw = some w → w.owner = i.val → w.stage ≠ .activated → t.fw = none) ∧ (∀ w, s.fw = some w → w.owner ≠ i.val → t.fw = s.fw) ∧
      t = { s with sessions := t.sessions, latches := t.latches, heldLo := t.heldLo, fw := t.fw, out := t.out }
    (∃ t, exec (.serviceSessionEnd i) s = .next t ∧ ended t ∧ t.out = s.out) ∧
    (∃ t, exec (.serviceIdleTimeout i) s = .next t ∧ ended t ∧ t.out = s.out ++ [.serviceClosed i.val])) ∧
  (∀ (q : SvcReq) (s : State), s.start.recovery = false →
    let answer (op : Nat) (c : U16) (data : List U8) : State := { s with out := s.out ++ [replyTo q op c data] }
    (s.sessionHolds q roleRead →
      (∃ l, exec (.svcInfo q) s = .next (answer 0x01 S_OK l) ∧ l.take 4 = [0x68, 0x07, 0x12, 0x00] ∧ (l.drop 4).take 8 = leBytes 8 Config.serial.toNat ∧
        (l.drop 12).take 12 = leBytes 4 s.tolStatus.toNat ++ leBytes 4 s.tolDies.toNat ++ leBytes 4 s.tolLinks.toNat) ∧
      (∀ (seq : U32) (count : Nat), ∃ l : List ErrRec, l.length ≤ 64 ∧ l.length ≤ count ∧ exec (.svcLogRead q seq count) s = .next (answer 0x02 S_OK (l.flatMap ErrRec.bytes)) ∧
        (∀ r, r ∈ l → r ∈ s.log) ∧ (s.logOk → ∀ (i : Nat) (r : ErrRec), s.log[i]? = some r → r.seq = seq → l = (s.log.drop i).take (min count 64))) ∧
      (∀ type : Nat, exec (.svcSettingGet q type) s = .next (answer 0x03 S_OK (match s.flash.setting type with | some c => Config.settingBytes type c.body.code | none => []))) ∧
      (∀ (off : BitVec 26) (count : Nat), ∃ t, exec (.svcRegRead q off count) s = .next t ∧ ∃ l : List U8, t.out = s.out ++ [replyTo q 0x07 S_OK l] ∧ l.length = 4 * min count 256 ∧
        (off.toNat % 4 ≠ 0 → ∀ b, b ∈ l → b = 0) ∧ (1 ≤ count → l.take 4 = leBytes 4 (s.barRead (.svc q.session) off.toNat).2.toNat) ∧
        t = { s with latches := t.latches, out := t.out })) ∧
    (∀ (type : Nat) (b : SettingBody), s.sessionHolds q (if type = 6 then roleSecurity else roleOperate) → 6 ≤ type → type ≤ 8 → settingFits type b = true →
      ∃ t, exec (.svcSettingSet q type (some b)) s = .next t ∧ t.out = s.out ++ [replyTo q 0x04 S_OK []] ∧ t = { s with flash := { s.flash with settings := t.flash.settings }, out := t.out } ∧
        (∀ c, s.flash.setting type = some c → c ∈ t.flash.settings ∧ ⟨type, 1 - c.copy, c.gen + 1, b⟩ ∈ t.flash.settings) ∧
        (s.flash.setting type = none → ⟨type, 0, 0, b⟩ ∈ t.flash.settings) ∧ ∀ x : SettingCopy, x.type ≠ type → (x ∈ t.flash.settings ↔ x ∈ s.flash.settings)) ∧
    (∀ (type : Nat) (body : Option SettingBody), s.sessionHolds q (if type = 6 then roleSecurity else roleOperate) →
      (type < 6 → exec (.svcSettingSet q type body) s = .next (answer 0x04 S_SVC_DENIED [])) ∧
      (6 ≤ type → type ≤ 8 → (∀ b, body = some b → settingFits type b = false) → exec (.svcSettingSet q type body) s = .next (answer 0x04 S_SET_BAD []))) ∧
    (∀ l : List Anchor, (∀ a, a ∈ l → a.roles.testBit roleSecurity = false) → settingFits 6 (.anchors l) = false) ∧
    (s.sessionHolds q roleOperate →
      (∀ w : U16, s.sourceOn .service = true → ∃ t, exec (.svcSetpoint q w) s = .next t ∧ t.pwr.target = max 450 (min 2400 w.toNat) ∧ t.pwr.source = .service ∧
        t.reg .swl 0x060 = s.reg .swl 0x060 + 1 ∧ t.out.getLast? = some (replyTo q 0x05 S_OK []) ∧ t.mem = s.mem ∧ t.streams = s.streams) ∧
      (∀ w : U16, s.sourceOn .service = false → exec (.svcSetpoint q w) s = .next (answer 0x05 S_SVC_DENIED [])) ∧
      (∀ (st : Fin 4) (c : Instr), (st, c) ∈ [((0 : Fin 4), Instr.powerReqRun), (1, .powerReqHold), (2, .powerReqBreath), (3, .powerReqOff)] →
        ∃ u, exec c s = .next u ∧ exec (.svcPower q st) s = .next { u with out := u.out ++ [replyTo q 0x06 (BitVec.ofNat 16 (u.reg .pwr 0x048).toNat) []] }) ∧
      (∀ d : Die, (((s.die d.num).up = false ∧ (s.die d.num).asleep = false) ∨ s.start.ready = false → ∃ t, exec (.svcDieTest q d) s = .next t ∧ t.die d.num = { s.die d.num with test := true } ∧
          keptBut s.die t.die [d.num] ∧ t = { answer 0x21 S_OK [] with dies := t.dies }) ∧
        ((s.die d.num).up = true ∨ (s.die d.num).asleep = true → s.start.ready = true → exec (.svcDieTest q d) s = .next (answer 0x21 S_SVC_DENIED []))))) ∧
  (∀ (q : SvcReq) (r : StartReport) (s : State), s.sessionHolds q roleOperate →
    (s.powerBusy = true → q.force = false → exec (.svcReset q r) s = .next { s with out := s.out ++ [replyTo q 0x20 S_FW_BUSY []] }) ∧
    (s.powerBusy = false ∨ q.force = true → ∃ t, exec (.svcReset q r) s = .next t ∧ t.out[s.out.length]? = some (replyTo q 0x20 S_OK []) ∧ t.sessions = [] ∧ t.fw = none ∧
      t.start.boots = s.start.boots + 1 ∧ t.jobs = [] ∧ t.slots = [] ∧ (r.early = [] → t.streams = []) ∧ (∃ l, t.log = keepLast 4096 (s.log ++ l)) ∧
      (∀ k, r.loadFail = false → s.flash.boot.slot = some k → r.deadBase 1 = false → t.start.ready = true ∧ t.mem = t.startedMemory ∧ t.pwr.st = .run ∧ t.pwr.ramp = 450) ∧
      (r.loadFail = false → s.flash.boot.slot = none → t.start.recovery = true ∧ t.start.ready = false)))

/-- FW_BEGIN, FW_DATA, FW_END, FW_ACTIVATE and FW_CANCEL (R534 to R542, R546, R548). -/
def Obligations.FirmwareUpdate : Prop :=
  (∀ (q : SvcReq) (s : State), s.sessionHolds q roleUpdate →
    let f := s.flash
    let c := f.commitOr
    let answered (t : State) (op : Nat) (code : U16) : Prop := t.out = s.out ++ [replyTo q op code []] ∧ t.reg .fwu 0x050 = code.zeroExtend 32 ∧
      s.regsKept t (errRegs .fwu ++ [Page.base .fwu + 0x050]) ∧
      t = { s with out := t.out, regs := t.regs, flash := t.flash, fw := t.fw, log := t.log, logHead := t.logHead, free := t.free }
    let fails (t : State) (op : Nat) (code : U16) : Prop := answered t op code ∧ t.flash = f ∧ t.fw = s.fw ∧ t.log = s.log
    (∀ payload : List U8,
      let h := readFwHeader f.romKeys payload
      let raw := (payload.drop 512).take 560
      let es := readManifest raw
      let act := (f.slot c.active).manifest
      let first : Option U16 :=
        if payload.length ≠ 1072 then some S_FW_FORMAT
        else if h.magic ≠ 0x4C44474E ∨ h.format ≠ 1 ∨ h.reservedZero = false ∨ h.partCount ≠ 7 ∨ h.manifestBytes ≠ 560 then some S_FW_FORMAT
        else if 4 ≤ h.keyIndex ∨ f.revoked.testBit h.keyIndex = true then some S_FW_KEY_REVOKED
        else if h.sigOk = false then some S_FW_SIGNATURE
        else if h.model ≠ 0x00120768 then some S_FW_MODEL
        else if sha256 raw ≠ h.manifestHash then some S_FW_SIGNATURE
        else if manifestOk h es = false then some S_FW_FORMAT
        else if h.svn < f.floor then some S_FW_ROLLBACK
        else if (s.start.recovery = true ∧ h.flags.getLsbD 0 = false) ∨ (s.start.recovery = false ∧ sourcesOk es act = false) then some S_FW_BASE
        else if s.locked = true ∧ s.lockedBy q.session.val = false then some S_FW_SESSION
        else if c.trial = true then some S_FW_STATE
        else none
      ∃ t, exec (.fwBegin q payload) s = .next t ∧
        (∀ code, first = some code → fails t 0x10 code ∧ s.raisedIn t .fwu 2) ∧
        (first = none → answered t 0x10 S_OK ∧ t.flash.slot f.inactive = FwSlot.erased ∧ (f.inactive ≤ 1 → t.flash.slot (1 - f.inactive) = f.slot (1 - f.inactive)) ∧
          t.flash = { f with slotA := t.flash.slotA, slotB := t.flash.slotB } ∧ t.regs = (s.fwResult S_OK).regs ∧
          ∃ w, t.fw = some w ∧ w.owner = q.session.val ∧ w.stage = .receiving ∧ w.header = h ∧ w.manifest = es ∧ w.got = [])) ∧
    (∀ w : FwSession, s.fw = some w → w.owner = q.session.val →
      (w.stage = .receiving →
        (∀ bytes : List U8, (∃ t, exec (.fwData q w.got.length bytes) s = .next t ∧
            (s.fwBuild { w with got := w.got ++ bytes } ≠ .bad → answered t 0x11 S_OK ∧ t.fw = some { w with got := w.got ++ bytes }) ∧
            (s.fwBuild { w with got := w.got ++ bytes } = .bad → answered t 0x11 S_FW_FORMAT ∧ t.fw = none) ∧ t.flash = f ∧ t.log = s.log) ∧
          ∀ off, off ≠ w.got.length → ∃ t, exec (.fwData q off bytes) s = .next t ∧ fails t 0x11 S_FW_STATE) ∧
        (∀ parts : List (List U8), s.fwBuild w = .whole parts →
          (partsGood w.manifest parts = true → ∃ t, exec (.fwEnd q) s = .next t ∧ answered t 0x12 S_OK ∧ t.fw = some { w with stage := .verified } ∧
            t.flash.slot f.inactive = ⟨some w.header, w.headerRaw, w.manifestRaw, w.manifest, parts, true⟩ ∧ t.flash = { f with slotA := t.flash.slotA, slotB := t.flash.slotB } ∧ t.log = s.log) ∧
          (partsGood w.manifest parts = false → ∃ t, exec (.fwEnd q) s = .next t ∧ fails t 0x12 S_FW_HASH ∧ s.raisedIn t .fwu 2)) ∧
        ((∀ parts, s.fwBuild w ≠ .whole parts) → ∃ t, exec (.fwEnd q) s = .next t ∧ fails t 0x12 S_FW_STATE)) ∧
      (w.stage = .verified → ∃ t, exec (.fwActivate q) s = .next t ∧ answered t 0x13 S_OK ∧ t.fw = some { w with stage := .activated } ∧
        t.flash.commitOr = ⟨c.gen + 1, f.inactive, true, 3, w.header.manifestHash, w.header.svn⟩ ∧ t.flash = { f with commit0 := t.flash.commit0, commit1 := t.flash.commit1 } ∧
        (∀ k old, f.commit = some (k, old) → t.flash.commit0 = some old ∨ t.flash.commit1 = some old) ∧ s.recordedIn t 0x33 S_OK unitModule) ∧
      (w.stage ≠ .verified → ∃ t, exec (.fwActivate q) s = .next t ∧ fails t 0x13 S_FW_STATE) ∧
      (w.stage ≠ .receiving → (∃ t, exec (.fwEnd q) s = .next t ∧ fails t 0x12 S_FW_STATE) ∧ ∀ off bytes, ∃ t, exec (.fwData q off bytes) s = .next t ∧ fails t 0x11 S_FW_STATE) ∧
      (s.start.recovery = false →
        (w.stage ≠ .activated → ∃ t, exec (.fwCancel q) s = .next t ∧ answered t 0x14 S_OK ∧ t.fw = none ∧ t.flash = f ∧ t.log = s.log) ∧
        (w.stage = .activated → ∃ t, exec (.fwCancel q) s = .next t ∧ fails t 0x14 S_FW_STATE))) ∧
    (∀ code : U16, (s.fw = none ∧ code = S_FW_STATE) ∨ (∃ w, s.fw = some w ∧ w.owner ≠ q.session.val ∧ w.stage ≠ .activated ∧ code = S_FW_SESSION) →
      (∀ off bytes, ∃ t, exec (.fwData q off bytes) s = .next t ∧ fails t 0x11 code) ∧ (∃ t, exec (.fwEnd q) s = .next t ∧ fails t 0x12 code) ∧
      (∃ t, exec (.fwActivate q) s = .next t ∧ fails t 0x13 code) ∧ (s.start.recovery = false → ∃ t, exec (.fwCancel q) s = .next t ∧ fails t 0x14 code))) ∧
  (∀ lit src : List U8, lit ≠ [] → lit.length < 2 ^ 32 → runOps src lit.length 2 (0x02 :: leBytes 4 lit.length ++ lit ++ [0x00]) [] = some lit) ∧
  (∀ (src : List U8) (o n : Nat), 1 ≤ n → o + n ≤ src.length → src.length < 2 ^ 32 → runOps src n 2 (0x01 :: leBytes 4 o ++ leBytes 4 n ++ [0x00]) [] = some ((src.drop o).take n)) ∧
  (∀ (src : List U8) (o n : Nat), src.length < o + n → o < 2 ^ 32 → n < 2 ^ 32 → runOps src n 2 (0x01 :: leBytes 4 o ++ leBytes 4 n ++ [0x00]) [] = none)

/-- The SPDM_* rows, IDE_KEY_PROGRAM and the MCTP_* rows (R524, R527, R528, R549, R550, R573, R604). -/
def Obligations.SpdmAndMctp : Prop :=
  (∀ (tr : SpdmTransport) (s : State), s.spdmReach tr = true →
    let x := s.spdmOf tr
    let chain := s.flash.certChain
    let answers (c : Instr) (r : SpdmResp) (y : SpdmSt) : Prop :=
      ∃ t, exec c s = .next t ∧ t.out = s.out ++ [.spdm tr r] ∧ t.reg .sec 0x068 = s.reg .sec 0x068 + 1 ∧ t.spdmOf tr = y ∧ (∀ tr', tr' ≠ tr → t.spdmOf tr' = s.spdmOf tr') ∧
        (∀ p : Fin 2, (t.cxl.ports.getD p.val .down).keys = (s.cxl.ports.getD p.val .down).keys ∧ t.cxlUp p.val = s.cxlUp p.val) ∧
        ((∃ e, r = .error e) → s.raisedIn t .sec 1) ∧ ((∀ e, r ≠ .error e) → s.regsKept t [Page.base .sec + 0x068]) ∧
        t = { s with out := t.out, regs := t.regs, spdm := t.spdm, cxl := { s.cxl with ports := t.cxl.ports } }
    let errs (c : Instr) (e : Nat) : Prop := answers c (.error e) x
    answers (.spdmGetVersion tr) (.version 0x12) ⟨false, false, none⟩ ∧
    answers (.spdmGetCapabilities tr) .capabilities x ∧
    (∀ asym hash dhe aead : U32,
      ((asym &&& 0xC ≠ 0 ∧ hash &&& 1 ≠ 0) → ∃ a : U32, (a = 4 ∨ a = 8) ∧ asym &&& a = a ∧
        answers (.spdmNegotiateAlgorithms tr asym hash dhe aead) (.algorithms a 1 (dhe &&& 0x10) (aead &&& 0x2)) { x with negotiated := true, pss := decide (a = 8) }) ∧
      ((asym &&& 0xC = 0 ∨ hash &&& 1 = 0) → errs (.spdmNegotiateAlgorithms tr asym hash dhe aead) 0x01)) ∧
    (x.negotiated = true →
      answers (.spdmGetDigests tr) (.digests (sha256 chain)) x ∧
      (∀ off len : U16, off.toNat ≤ chain.length →
        answers (.spdmGetCertificate tr 0 off len) (.certificate ((chain.drop off.toNat).take len.toNat) (chain.length - off.toNat - min len.toNat (chain.length - off.toNat))) x) ∧
      (∀ off len : U16, chain.length < off.toNat → errs (.spdmGetCertificate tr 0 off len) 0x01) ∧
      (∀ nonce : List U8, answers (.spdmChallenge tr 0 nonce) (.challengeAuth (sha256 chain) (x.sign 1 (sha256 chain ++ nonce))) x) ∧
      (∀ slot : Nat, slot ≠ 0 → (∀ off len : U16, errs (.spdmGetCertificate tr slot off len) 0x01) ∧ ∀ nonce : List U8, errs (.spdmChallenge tr slot nonce) 0x01) ∧
      (∀ nonce : List U8, answers (.spdmGetMeasurements tr 0 false nonce) (.measurements 11 [] []) x ∧
        (∀ i : Fin 11, answers (.spdmGetMeasurements tr (BitVec.ofNat 8 (i.val + 1)) false nonce) (.measurements 11 [(i.val + 1, s.measurement (i.val + 1))] []) x) ∧
        (∃ l : List (Nat × List U8), l.map (·.1) = [1, 2, 3, 4, 5, 6, 7, 8, 9, 10, 11] ∧ (∀ b, b ∈ l → b.2 = s.measurement b.1) ∧
          answers (.spdmGetMeasurements tr 0xFF true nonce) (.measurements 11 l (x.sign 2 (l.flatMap (fun (b : Nat × List U8) => b.2) ++ nonce))) x) ∧
        (∀ (i : U8) (sign : Bool), 11 < i.toNat → i.toNat < 255 → errs (.spdmGetMeasurements tr i sign nonce) 0x01))) ∧
    (x.negotiated = false → errs (.spdmGetDigests tr) 0x04 ∧ (∀ (slot : Nat) (off len : U16), errs (.spdmGetCertificate tr slot off len) 0x04) ∧
      (∀ (slot : Nat) (nonce : List U8), errs (.spdmChallenge tr slot nonce) 0x04) ∧ (∀ (i : U8) (sign : Bool) (nonce : List U8), errs (.spdmGetMeasurements tr i sign nonce) 0x04) ∧
      (tr ≠ .mctp → (∀ (slot : Nat) (share : List U8), errs (.spdmKeyExchange tr slot share) 0x04) ∧ (∀ valid, errs (.spdmFinish tr valid) 0x04) ∧ errs (.spdmEndSession tr) 0x04)) ∧
    (tr ≠ .mctp → x.negotiated = true →
      (∀ share : List U8, answers (.spdmKeyExchange tr 0 share) (.keyExchange (Config.keyShare share) (x.sign 3 (share ++ Config.keyShare share))) { x with session := some false }) ∧
      (∀ (slot : Nat) (share : List U8), slot ≠ 0 → errs (.spdmKeyExchange tr slot share) 0x01) ∧
      (x.session = some false → answers (.spdmFinish tr true) .finish { x with session := some true } ∧ answers (.spdmFinish tr false) (.error 0x01) { x with session := none }) ∧
      (x.session ≠ some false → ∀ valid, errs (.spdmFinish tr valid) 0x04) ∧
      (x.session = some true → answers (.spdmEndSession tr) .endSession { x with session := none }) ∧
      (x.session ≠ some true → errs (.spdmEndSession tr) 0x04)) ∧
    (tr = .mctp → (∀ (slot : Nat) (share : List U8), errs (.spdmKeyExchange tr slot share) 0x07) ∧ (∀ valid, errs (.spdmFinish tr valid) 0x07) ∧ errs (.spdmEndSession tr) 0x07) ∧
    (∀ code : U8, errs (.spdmUnsupported tr code) 0x07)) ∧
  (∀ (tr : SpdmTransport) (s : State), s.spdmReach tr = false → exec (.spdmGetVersion tr) s = .next s ∧ exec (.spdmGetCapabilities tr) s = .next s ∧ ∀ code, exec (.spdmUnsupported tr code) s = .next s) ∧
  (∀ (p : Fin 2) (stream : Fin 4) (key : List U8) (s : State),
    let x := s.cxl.ports.getD p.val .down
    (x.up = true → x.doe.session = some true → ∃ t, exec (.ideKeyProgram p stream key) s = .next t ∧ t = { s with cxl := { s.cxl with ports := t.cxl.ports } } ∧
      (t.cxl.ports.getD p.val .down) = { x with keys := (t.cxl.ports.getD p.val .down).keys } ∧ getKey (t.cxl.ports.getD p.val .down).keys stream.val = some key ∧
      (∀ k, k ≠ stream.val → getKey (t.cxl.ports.getD p.val .down).keys k = getKey x.keys k) ∧ ∀ r, r ≠ p.val → t.cxl.ports.getD r .down = s.cxl.ports.getD r .down) ∧
    (x.up = false ∨ x.doe.session ≠ some true → exec (.ideKeyProgram p stream key) s = .next s)) ∧
  (∀ s : State, s.start.powered = true →
    let says' (l : List U8) : State := { s with out := s.out ++ [.mctp l] }
    (∀ samples : List U16,
      let v : List U16 := if s.pwr.st = .breath then s.pwr.brtLast else (List.range 24).map (fun i => if s.pwr.st = .off ∧ i < 15 then 0x8000 else samples.getD i 0)
      exec (.mctpReadSensors samples) s = .next (says' (v.flatMap (fun (x : U16) => leBytes 2 x.toNat) ++ leBytes 2 s.pwr.cap ++ leBytes 1 s.pwr.st.code ++ leBytes 1 s.thermBits))) ∧
    (∀ (seq : U32) (count : Nat),
      let l := s.logFrom seq (max 1 (min count 4))
      l.length ≤ 4 ∧ exec (.mctpReadLog seq count) s = .next (says' (leBytes 1 l.length ++ l.flatMap ErrRec.bytes))) ∧
    exec .mctpReadStatus s = .next (says' (leBytes 4 s.tolStatus.toNat ++ leBytes 4 s.tolDies.toNat ++ leBytes 4 s.tolLinks.toNat)) ∧
    ∀ cmd : U8, exec (.mctpControlMessage cmd) s = .next (says' (Config.mctpControl cmd)))

/-- The HOST_HDM rows, HDM_DECODER_COMMIT, CDAT_READ, DOE_DISCOVERY, H2D_SNOOP, BIRSP_RECEIVED, BISNP_TIMEOUT, the CXL_LINK rows, FAILOVER_SWITCH, PERST_ASSERT, FUNCTION_LEVEL_RESET, IDE_FAILURE and INJECT_BI_DROP (R553 to R577). -/
def Obligations.HostAttachment : Prop :=
  (∀ (i : Fin 4) (x : HdmSetup) (s : State), s.hostReach = true →
    let fits (dpa : Nat) : Prop :=
      (x.iw = 1 ∨ x.iw = 2 ∨ x.iw = 4 ∨ x.iw = 8) ∧ (x.ig = 256 ∨ x.ig = 512 ∨ x.ig = 1024 ∨ x.ig = 2048 ∨ x.ig = 4096 ∨ x.ig = 8192 ∨ x.ig = 16384) ∧ x.target < x.iw ∧
      0 < x.size ∧ x.size % x.iw = 0 ∧ x.skip % 0x10000000 = 0 ∧ (x.size / x.iw) % 0x10000000 = 0 ∧ dpa % 0x10000000 = 0 ∧ dpa < 0xC00000000 * 16 ∧ dpa % 0xC00000000 + x.size / x.iw ≤ 0xBF0000000
    let before : Option Nat := if i.val = 0 then some 0 else
      (let d := s.cxl.decoders.getD (i.val - 1) .off; if d.committed then some (d.dpaBase + d.setup.size / max 1 d.setup.iw) else none)
    ∃ t, exec (.hdmDecoderCommit i x) s = .next t ∧
      (∀ e, before = some e → fits (e + x.skip) → t = { s with cxl := { s.cxl with decoders := s.cxl.decoders.set i.val ⟨x, true, false, e + x.skip⟩, cdatSeq := s.cxl.cdatSeq + 1 } }) ∧
      ((∀ e, before = some e → ¬ fits (e + x.skip)) → t = { s with cxl := { s.cxl with decoders := s.cxl.decoders.set i.val ⟨x, false, true, 0⟩ } })) ∧
  (∀ (d : HdmDecoder) (hpa : Nat), d.committed = true → d.setup.hpaBase ≤ hpa → hpa < d.setup.hpaBase + d.setup.size → let o := hpa - d.setup.hpaBase
    d.dpaOf hpa = if o / d.setup.ig % d.setup.iw = d.setup.target then some (d.dpaBase + o / (d.setup.ig * d.setup.iw) * d.setup.ig + o % d.setup.ig) else none) ∧
  (∀ (p : Fin 2) (hpa : U64) (s : State), s.cxlUp p.val = true →
    let line := hpa.toNat / 64 * 64
    let pg : Page := .cxp p
    let cause : Option Nat := if s.cxl.active = some p.val then (match s.cxl.dpaOf line with
      | some dpa => if s.baseUp (baseOfStack (dpa / 0xC00000000)) = true then none else some (baseOfStack (dpa / 0xC00000000))
      | none => none) else some (3 + p.val)
    (∀ c, cause = some c →
      let lost (t : State) (read : Bool) (o : Out) : Prop := t.mem = s.mem ∧ t.streams = s.streams ∧ (t.reg pg offErrStat).getLsbD 3 = true ∧
        (read = true → t.reg pg 0x070 = satAdd (s.reg pg 0x070) 1) ∧ (c = 3 + p.val → t.reg pg 0x06C = satAdd (s.reg pg 0x06C) 1) ∧
        (s.cxl.seen.contains c = true → t.out = s.out ++ [o] ∧ t.log = s.log ∧ t.cxl = s.cxl) ∧
        (s.cxl.seen.contains c = false → t.out = s.out ++ [.aer p.val, o] ∧ t.cxl = { s.cxl with seen := s.cxl.seen ++ [c] } ∧ ∃ r, t.log.getLast? = some r ∧ r.kind = 0x41 ∧ r.seq = s.logHead)
      (∀ caches corrected, ∃ t, exec (.hostHdmRead p hpa caches corrected) s = .next t ∧ lost t true (.hostData p.val (List.replicate 64 0xFF))) ∧
      (∀ data mask, ∃ t, exec (.hostHdmWrite p hpa data mask) s = .next t ∧ lost t false (.hostDone p.val))) ∧
    (cause = none → ∀ dpa, s.cxl.dpaOf line = some dpa →
      (∀ caches corrected, ∃ t, exec (.hostHdmRead p hpa caches corrected) s = .next t ∧ t.out.getLast? = some (.hostData p.val (s.mem.read dpa 64)) ∧ t.mem = s.mem ∧ t.streams = s.streams ∧
        (caches = true → filterOf (dpa / 64) < s.cxl.filters.length → t.cachedLine (dpa / 64) = true) ∧ (caches = false → t.cxl = s.cxl) ∧
        (∀ e, (s.eccHostRead dpa 64).2 = some e → corrected = false → (t.reg pg offErrStat).getLsbD 3 = true ∧ t.reg pg 0x070 = satAdd (s.reg pg 0x070) 1 ∧ Out.aer p.val ∈ t.out.drop s.out.length) ∧
        (corrected = false → caches = false → s.eccHostRead dpa 64 = (s, none) → t = { s with out := s.out ++ [.hostData p.val (s.mem.read dpa 64)] })) ∧
      (∀ data mask, ∃ t, exec (.hostHdmWrite p hpa data mask) s = .next t ∧ t.out.getLast? = some (.hostDone p.val) ∧ s.bytesKept t dpa 64 ∧ t.streams = s.streams ∧ (s.eccRead (dpa / 2048 * 2048) 2048 = (s, none) → t.log = s.log) ∧
        (∀ i : Fin 64, t.mem.byte (dpa + i.val) = if mask.getD i.val false = true then data.getD i.val 0 else s.mem.byte (dpa + i.val)) ∧
        (filterOf (dpa / 64) < s.cxl.filters.length → t.cachedLine (dpa / 64) = true))) ∧
    (∃ t, exec (.h2dSnoop p) s = .next t ∧ t = { s with out := s.out ++ [.rspI p.val] }) ∧
    (∀ n : Nat, exec (.cdatRead p n) s = .next { s with out := s.out ++ [.doe p.val
      (if n = 0 then [s.cxl.cdatSeq.toNat] else match s.cxl.committed[(n - 1) / 3]? with
        | some d => if (n - 1) % 3 = 0 then [0, d.dpaBase, d.setup.dpaBytes] else if (n - 1) % 3 = 1 then [1, 600, 400, 64, 64] else [4, 0, d.setup.dpaBytes]
        | none => [])] }) ∧
    (∀ i : U8, exec (.doeDiscovery p i) s = .next { s with out := s.out ++ [.doe p.val
      (if i = 0 then [0x0001, 0, 1] else if i = 1 then [0x0001, 1, 2] else if i = 2 then [0x0001, 2, 3] else if i = 3 then [0x1E98, 2, 0] else [])] }) ∧
    (∀ n : Nat, (∃ x, x ∈ s.cxl.snoops ∧ x.line = n ∧ x.port = p.val) → ∃ t, exec (.birspReceived p n) s = .next t ∧
      ((s.reg pg offErrInj).getLsbD 0 = true → (t.reg pg offErrInj).getLsbD 0 = false ∧ s.regsKept t [pg.base + offErrInj] ∧ t = { s with regs := t.regs }) ∧
      ((s.reg pg offErrInj).getLsbD 0 = false → t.cxl = { s.cxl with snoops := s.cxl.snoops.filter (fun x => !decide (x.line = n)), filters := t.cxl.filters } ∧
        t.cachedLine n = false ∧ (∀ u, (t.engine u).waitsSnoop n = false) ∧ t = { s with cxl := t.cxl, engines := t.engines })) ∧
    (∃ t, exec (.functionLevelReset p) s = .next t ∧ t = { s with cxl := { s.cxl with ports := t.cxl.ports } } ∧ (∀ k, k ≠ p.val → t.cxl.ports.getD k .down = s.cxl.ports.getD k .down) ∧
      t.cxl.ports.getD p.val .down = { s.cxl.ports.getD p.val .down with doe := .fresh, cfg := [] }) ∧
    (let down (t : State) : Prop := t.cxl.ports.getD p.val .down = CxlPort.down ∧ (∀ k, k ≠ p.val → t.cxl.ports.getD k .down = s.cxl.ports.getD k .down) ∧ (t.reg pg offErrStat).getLsbD 0 = true ∧
        (∀ l, l ∈ t.heldLo → l.requester ≠ .fn p) ∧ (∀ l, l ∈ t.latches → l.requester ≠ .fn p) ∧ t.mem = s.mem ∧ t.jobs = s.jobs ∧ t.cxl.decoders = s.cxl.decoders ∧ t.cxl.filters = s.cxl.filters ∧
        (s.cxl.active ≠ some p.val → t.cxl.active = s.cxl.active ∧ t.streams = s.streams ∧ t.cxl.uio = s.cxl.uio) ∧
        (s.cxl.active = some p.val → (∀ u, u ∈ t.cxl.uio → u.port ≠ p.val) ∧ t.reg pg 0x068 = satAdd (s.reg pg 0x068) (s.uioOf p.val).length ∧
          (s.memOk (1 - p.val) = true → t.cxl.active = some (1 - p.val) ∧ t.cxl.snoops = s.cxl.snoops.map (fun x => ⟨x.line, 1 - p.val⟩)) ∧ (s.memOk (1 - p.val) = false → t.cxl.active = none)) ∧
        (∀ e r, s.uioOf p.val = [e] → (s.engine e.unit).cur = some r → s.cxl.active = some p.val → s.firstRun e.unit → s.toRepeat t e.unit S_SLOW_TIER);
      (∃ t, exec (.cxlLinkDown p) s = .next t ∧ down t) ∧ (∃ t, exec (.perstAssert p) s = .next t ∧ down t) ∧
      (∃ t, exec (.ideFailure p) s = .next t ∧ down t ∧ t.reg pg 0x074 = satAdd (s.reg pg 0x074) 1 ∧ (t.reg pg offErrStat).getLsbD 4 = true))) ∧
  (∀ (n : Nat) (s : State), ∀ x, s.cxl.snoops.find? (fun y => decide (y.line = n)) = some x →
    ∃ t, exec (.bisnpTimeout n) s = .next t ∧ (∀ y, y ∈ t.cxl.snoops → y.line ≠ n) ∧ t.mem = s.mem ∧
      (∀ p : Fin 2, x.port = p.val → t.reg (.cxp p) 0x060 = satAdd (s.reg (.cxp p) 0x060) 1 ∧ (t.reg (.cxp p) offErrStat).getLsbD 2 = true) ∧
      (∀ u, (s.engines.filter (fun e => e.2.waitsSnoop n)).map (·.1) = [u] → s.firstRun u → s.toRepeat t u S_HOST_COHERENCE) ∧
      ((∀ e, e ∈ s.engines → e.2.waitsSnoop n = false) → t = { s with cxl := { s.cxl with snoops := t.cxl.snoops }, regs := t.regs })) ∧
  (∀ (p : Fin 2) (lanes : Nat) (fast sw : Bool) (s : State), s.start.powered = true → s.baseUp 1 = true → s.pwr.st = .run ∨ s.pwr.st = .hold → s.cxlUp p.val = false → lanes = 8 ∨ lanes = 4 → p.val < s.cxl.ports.length →
    ∃ t, exec (.cxlLinkUp p lanes fast sw) s = .next t ∧ t.cxl.ports.getD p.val .down = { s.cxl.ports.getD p.val .down with up := true, lanes := lanes, fast := fast, viaSwitch := sw } ∧
      (∀ k, k ≠ p.val → t.cxl.ports.getD k .down = s.cxl.ports.getD k .down) ∧ t.mem = s.mem ∧ t.streams = s.streams ∧
      t.cxl.active = (if s.cxl.active = none ∧ sw = true ∧ s.field (.cxp p) 0x048 0 1 = 1 then some p.val else s.cxl.active)) ∧
  (∀ (a : Fin 2) (s : State), s.hostReach = true → s.cxl.active = some a.val → s.cxlUp a.val = true → s.memOk (1 - a.val) = true →
    ∃ t, exec .failoverSwitch s = .next t ∧ t.cxl.active = some (1 - a.val) ∧ t.cxl.ports = s.cxl.ports ∧ (t.reg (.cxp 0) offErrStat).getLsbD 1 = true ∧ (t.reg (.cxp 1) offErrStat).getLsbD 1 = true ∧
      t.reg (cxpPage (1 - a.val)) 0x050 = s.reg (cxpPage (1 - a.val)) 0x050 + 1 ∧ t.cxl.snoops = s.cxl.snoops.map (fun x => ⟨x.line, 1 - a.val⟩) ∧ t.mem = s.mem ∧ t.cxl.decoders = s.cxl.decoders) ∧
  (∀ (p : Fin 2) (s : State), s.hostReach = true → ∃ t, exec (.injectBiDrop p) s = .next t ∧ t.reg (.cxp p) offErrInj = s.reg (.cxp p) offErrInj ||| 1 ∧
    s.regsKept t [Page.base (.cxp p) + offErrInj] ∧ t = { s with regs := t.regs })
end

