-- ==== Sys2Proof/Laws/Crc.lean ====
section
/-! SUPPORT. CRC-32C and little-endian bytes: the run over a string is a fold, and strings may be taken piece by piece. -/

namespace Sys2Proof.Machine

@[simp] theorem force_eq {α : Type} (n : Nat) (k : Nat → α) : force n k = k n := by cases n <;> rfl

theorem crcRun_cons (c : Nat) (b : U8) (bs : List U8) : crcRun c (b :: bs) = crcRun (crcByte c b) bs := force_eq _ _

theorem crcRun_eq_foldl (bs : List U8) : ∀ c : Nat, crcRun c bs = bs.foldl crcByte c := by
  induction bs with
  | nil => intro c; rfl
  | cons b bs ih => intro c; rw [crcRun_cons, ih, List.foldl_cons]

theorem crcRun_append (c : Nat) (as bs : List U8) : crcRun c (as ++ bs) = crcRun (crcRun c as) bs := by
  simp [crcRun_eq_foldl]

@[simp] theorem length_leBytes (n v : Nat) : (leBytes n v).length = n := by
  induction n generalizing v with
  | zero => rfl
  | succ n ih => simp [leBytes, ih]

/-- A number's little-endian bytes read back as the number, cut to their width. -/
theorem leNat_leBytes (n v : Nat) : leNat (leBytes n v) = v % 256 ^ n := by
  induction n generalizing v with
  | zero => simp [leBytes, leNat, Nat.mod_one]
  | succ n ih =>
    rw [leBytes, leNat, ih, BitVec.toNat_ofNat, show (2 : Nat) ^ 8 = 256 from rfl]
    rw [Nat.pow_succ, Nat.mul_comm (256 ^ n) 256, Nat.mod_mul]


end Sys2Proof.Machine
end

