-- ==== Sys2Proof/Laws/SMap.lean ====
section
/-! SUPPORT. The laws of sparse tables: a read after a write of the same key gives the value written, a write leaves every other key alone, and every write keeps the canonical form. -/

namespace Sys2Proof.Machine

variable {α : Type}

theorem SMap.get_del_same (d : Nat → α) (m : List (Nat × α)) (a : Nat) : SMap.get d (SMap.del m a) a = d a := by
  induction m with
  | nil => rfl
  | cons p m ih =>
    by_cases h : p.1 = a
    · simpa [SMap.del, h] using ih
    · simpa [SMap.del, h, SMap.get] using ih

theorem SMap.get_del_other (d : Nat → α) (m : List (Nat × α)) {a b : Nat} (hab : b ≠ a) :
    SMap.get d (SMap.del m a) b = SMap.get d m b := by
  induction m with
  | nil => rfl
  | cons p m ih =>
    by_cases h : p.1 = a
    · have : p.1 ≠ b := fun e => hab (e ▸ h)
      simp only [SMap.get, if_neg this, ← ih]
      simp [SMap.del, h]
    · have : SMap.del (p :: m) a = p :: SMap.del m a := by simp [SMap.del, h]
      rw [this]
      simp only [SMap.get, ih]

theorem SMap.get_ins_same (d : Nat → α) (m : List (Nat × α)) (a : Nat) (v : α)
    (hm : ∀ p ∈ m, p.1 ≠ a) : SMap.get d (SMap.ins m a v) a = v := by
  induction m with
  | nil => simp [SMap.ins, SMap.get]
  | cons p m ih =>
    have hp : p.1 ≠ a := hm p (by simp)
    by_cases h : a < p.1
    · simp [SMap.ins, h, SMap.get]
    · simp only [SMap.ins, h, if_false, SMap.get, if_neg hp]
      exact ih (fun q hq => hm q (by simp [hq]))

theorem SMap.get_ins_other (d : Nat → α) (m : List (Nat × α)) {a b : Nat} (v : α) (hab : b ≠ a) :
    SMap.get d (SMap.ins m a v) b = SMap.get d m b := by
  have hba : a ≠ b := fun e => hab e.symm
  induction m with
  | nil => simp [SMap.ins, SMap.get, hba]
  | cons p m ih =>
    by_cases h : a < p.1
    · simp [SMap.ins, h, SMap.get, hba]
    · simp only [SMap.ins, h, if_false, SMap.get, ih]

theorem SMap.del_ne {m : List (Nat × α)} {a : Nat} : ∀ p ∈ SMap.del m a, p.1 ≠ a := by
  intro p hp
  simpa [SMap.del] using (List.mem_filter.mp hp).2

theorem SMap.get_set_same [DecidableEq α] (d : Nat → α) (m : List (Nat × α)) (a : Nat) (v : α) :
    SMap.get d (SMap.set d m a v) a = v := by
  unfold SMap.set
  split
  · rename_i h; rw [SMap.get_del_same, h]
  · exact SMap.get_ins_same d _ a v SMap.del_ne

theorem SMap.get_set_other [DecidableEq α] (d : Nat → α) (m : List (Nat × α)) {a b : Nat} (v : α) (hab : b ≠ a) :
    SMap.get d (SMap.set d m a v) b = SMap.get d m b := by
  unfold SMap.set
  split
  · exact SMap.get_del_other d m hab
  · rw [SMap.get_ins_other d _ v hab, SMap.get_del_other d m hab]

theorem SMap.get_set [DecidableEq α] (d : Nat → α) (m : List (Nat × α)) (a b : Nat) (v : α) :
    SMap.get d (SMap.set d m a v) b = if b = a then v else SMap.get d m b := by
  by_cases h : b = a
  · subst h; simp [SMap.get_set_same]
  · simp [h, SMap.get_set_other d m v h]

theorem SMap.get_upd [DecidableEq α] (d : Nat → α) (m : List (Nat × α)) (a b : Nat) (f : α → α) :
    SMap.get d (SMap.upd d m a f) b = if b = a then f (SMap.get d m a) else SMap.get d m b := by
  rw [SMap.upd, SMap.get_set]

theorem SMap.wfFrom_mono [DecidableEq α] (d : Nat → α) {lo lo' : Nat} (h : lo' ≤ lo) {m : List (Nat × α)}
    (hm : SMap.wfFrom d lo m = true) : SMap.wfFrom d lo' m = true := by
  cases m with
  | nil => rfl
  | cons p m =>
    simp only [SMap.wfFrom, Bool.and_eq_true, decide_eq_true_eq] at hm ⊢
    exact ⟨⟨le_trans h hm.1.1, hm.1.2⟩, hm.2⟩

theorem SMap.wfFrom_del [DecidableEq α] (d : Nat → α) (a : Nat) {m : List (Nat × α)} :
    ∀ {lo : Nat}, SMap.wfFrom d lo m = true → SMap.wfFrom d lo (SMap.del m a) = true := by
  induction m with
  | nil => intro lo h; exact h
  | cons p m ih =>
    intro lo h
    simp only [SMap.wfFrom, Bool.and_eq_true, decide_eq_true_eq] at h
    by_cases hp : p.1 = a
    · have : SMap.del (p :: m) a = SMap.del m a := by simp [SMap.del, hp]
      rw [this]
      exact SMap.wfFrom_mono d (by omega) (ih h.2)
    · have : SMap.del (p :: m) a = p :: SMap.del m a := by simp [SMap.del, hp]
      rw [this]
      simp only [SMap.wfFrom, Bool.and_eq_true, decide_eq_true_eq]
      exact ⟨h.1, ih h.2⟩

theorem SMap.wfFrom_filter [DecidableEq α] (d : Nat → α) (f : Nat × α → Bool) {m : List (Nat × α)} :
    ∀ {lo : Nat}, SMap.wfFrom d lo m = true → SMap.wfFrom d lo (m.filter f) = true := by
  induction m with
  | nil => intro lo h; exact h
  | cons p m ih =>
    intro lo h
    simp only [SMap.wfFrom, Bool.and_eq_true, decide_eq_true_eq] at h
    rw [List.filter_cons]
    split
    · simp only [SMap.wfFrom, Bool.and_eq_true, decide_eq_true_eq]
      exact ⟨h.1, ih h.2⟩
    · exact SMap.wfFrom_mono d (by omega) (ih h.2)

/-- Taking entries out keeps the canonical form. -/
theorem SMap.wf_filter [DecidableEq α] (d : Nat → α) (f : Nat × α → Bool) {m : List (Nat × α)} (h : SMap.wf d m = true) :
    SMap.wf d (m.filter f) = true := SMap.wfFrom_filter d f h

theorem SMap.wfFrom_ins [DecidableEq α] (d : Nat → α) (a : Nat) (v : α) (hv : v ≠ d a) {m : List (Nat × α)}
    (hm : ∀ p ∈ m, p.1 ≠ a) :
    ∀ {lo : Nat}, lo ≤ a → SMap.wfFrom d lo m = true → SMap.wfFrom d lo (SMap.ins m a v) = true := by
  induction m with
  | nil => intro lo hlo _; simp [SMap.ins, SMap.wfFrom, hlo, hv]
  | cons p m ih =>
    intro lo hlo h
    have hp : p.1 ≠ a := hm p (by simp)
    simp only [SMap.wfFrom, Bool.and_eq_true, decide_eq_true_eq] at h
    by_cases hap : a < p.1
    · simp only [SMap.ins, hap, if_true, SMap.wfFrom, Bool.and_eq_true, decide_eq_true_eq]
      exact ⟨⟨hlo, hv⟩, ⟨by omega, h.1.2⟩, h.2⟩
    · simp only [SMap.ins, hap, if_false, SMap.wfFrom, Bool.and_eq_true, decide_eq_true_eq]
      exact ⟨h.1, ih (fun q hq => hm q (by simp [hq])) (by omega) h.2⟩

/-- Every write keeps the canonical form. -/
theorem SMap.wf_set [DecidableEq α] (d : Nat → α) {m : List (Nat × α)} (a : Nat) (v : α)
    (h : SMap.wf d m = true) : SMap.wf d (SMap.set d m a v) = true := by
  unfold SMap.set
  split
  · exact SMap.wfFrom_del d a h
  · rename_i hv
    exact SMap.wfFrom_ins d a v hv SMap.del_ne (Nat.zero_le a) (SMap.wfFrom_del d a h)

theorem SMap.wf_upd [DecidableEq α] (d : Nat → α) {m : List (Nat × α)} (a : Nat) (f : α → α)
    (h : SMap.wf d m = true) : SMap.wf d (SMap.upd d m a f) = true := SMap.wf_set d a _ h

theorem SMap.wf_setMany [DecidableEq α] (d : Nat → α) (vs : List α) :
    ∀ {m : List (Nat × α)} (a : Nat), SMap.wf d m = true → SMap.wf d (SMap.setMany d m a vs) = true := by
  induction vs with
  | nil => intro m a h; exact h
  | cons v vs ih => intro m a h; exact ih (a + 1) (SMap.wf_set d a v h)

/-! ### Lists in order -/

theorem mem_insertBy (le : α → α → Bool) (x y : α) (l : List α) : y ∈ insertBy le x l ↔ y = x ∨ y ∈ l := by
  induction l with
  | nil => simp [insertBy]
  | cons z l ih =>
    simp only [insertBy]
    split
    · simp
    · simp only [List.mem_cons, ih]; tauto

@[simp] theorem mem_sortBy (le : α → α → Bool) (y : α) (l : List α) : y ∈ sortBy le l ↔ y ∈ l := by
  induction l with
  | nil => simp [sortBy]
  | cons z l ih => simp [sortBy, mem_insertBy, ih]

theorem length_insertBy (le : α → α → Bool) (x : α) (l : List α) : (insertBy le x l).length = l.length + 1 := by
  induction l with
  | nil => rfl
  | cons z l ih =>
    simp only [insertBy]
    split
    · rfl
    · simp [ih]

@[simp] theorem length_sortBy (le : α → α → Bool) (l : List α) : (sortBy le l).length = l.length := by
  induction l with
  | nil => rfl
  | cons z l ih => simp [sortBy, length_insertBy, ih]

end Sys2Proof.Machine
end

