-- ==== Sys2Proof/Laws/Keeps.lean ====
section
/-! SUPPORT. The relation between a state and one that operations have made of it: the queue is the same, and the properties that every step keeps still hold. One lemma per shared operation under Laws says that the operation stays in this relation. -/

namespace Sys2Proof.Machine

/-- `s` has the queue of `s0`, and meets the invariant if `s0` does. -/
def Keeps (s0 s : State) : Prop := s.pending = s0.pending ∧ (s0.Inv → s.Inv)

theorem Keeps.refl (s : State) : Keeps s s := ⟨rfl, id⟩

theorem Keeps.trans {a b c : State} (h : Keeps a b) (h' : Keeps b c) : Keeps a c := ⟨h'.1.trans h.1, fun i => h'.2 (h.2 i)⟩

/-- A change of fields that the invariant does not speak of. -/
theorem Keeps.same {s0 s t : State} (h : Keeps s0 s) (hp : t.pending = s.pending) (hm : t.mem = s.mem) (hl : t.log = s.log)
    (hh : t.logHead = s.logHead) (hs : t.streams = s.streams) : Keeps s0 t := by
  refine ⟨hp.trans h.1, fun i => ?_⟩
  obtain ⟨a, b, c⟩ := h.2 i
  refine ⟨hm ▸ a, ?_, ?_⟩
  · unfold State.logOk; rw [hl, hh]; exact b
  · unfold State.pendOk State.stream; rw [hs]; exact c

/-- A state written out of another one field by field, the invariant's own fields kept. -/
theorem Keeps.mk {s0 s : State} (h : Keeps s0 s) {regs latches heldLo jobs regions engines arrays chucks waiting caches upds ovf recipes recipeLoad ports route keytab wmap wmapLoad colls readys readds looped sramScrub upsets sramCorr twin slots seatLoad unison tune dies links bundles lanes pwr start flash sessions fw spdm cxl nextReq free out} :
    Keeps s0 (State.mk s.pending regs latches heldLo s.mem s.streams jobs regions engines arrays chucks waiting caches upds ovf recipes recipeLoad ports route keytab wmap wmapLoad colls readys readds looped sramScrub upsets sramCorr twin slots seatLoad unison tune s.log s.logHead dies links bundles lanes pwr start flash sessions fw spdm cxl nextReq free out) := Keeps.same h rfl rfl rfl rfl rfl

/-! ### Memory -/

theorem Memory.wf_retag : ∀ (n : Nat) (m : Memory) (blk : Nat), m.wf = true → (m.retag blk n).wf = true := by
  intro n
  induction n with
  | zero => intro m blk h; exact h
  | succ n ih =>
    intro m blk h
    apply ih
    simp only [Memory.wf, Bool.and_eq_true] at h ⊢
    refine ⟨h.1, ?_⟩
    split
    · exact SMap.wf_set tagDefault _ _ h.2
    · exact h.2

theorem Memory.wf_put {m : Memory} (a : Nat) (bs : List U8) (h : m.wf = true) : (m.put a bs).wf = true := by
  simp only [Memory.wf, Memory.put, Bool.and_eq_true] at h ⊢
  exact ⟨SMap.wf_setMany _ _ _ h.1, h.2⟩

theorem Memory.wf_write {m : Memory} (a : Nat) (bs : List U8) (h : m.wf = true) : (m.write a bs).wf = true :=
  Memory.wf_retag _ _ _ (Memory.wf_put a bs h)

theorem Memory.wf_writeTagged {m : Memory} (a : Nat) (bs : List U8) (t : U32) (h : m.wf = true) : (m.writeTagged a bs t).wf = true := by
  have h' := Memory.wf_put a bs h
  simp only [Memory.wf, Memory.writeTagged, Bool.and_eq_true] at h' ⊢
  refine ⟨h'.1, ?_⟩
  split
  · exact SMap.wf_set tagDefault _ _ h'.2
  · exact h'.2

theorem Memory.wf_stage {m : Memory} (a : Nat) (bs : List U8) (g : Bool) (h : m.wf = true) : (m.stage a bs g).wf = true := by
  have h' := Memory.wf_put a bs h
  unfold Memory.stage
  split
  · simp only [Memory.wf, Bool.and_eq_true] at h' ⊢
    exact ⟨h'.1, SMap.wf_setMany _ _ _ h'.2⟩
  · exact h'

theorem Memory.wf_writeAll {m : Memory} (ws : List (Nat × List U8)) (h : m.wf = true) : (m.writeAll ws).wf = true := by
  induction ws generalizing m with
  | nil => exact h
  | cons w ws ih => exact ih (Memory.wf_write w.1 w.2 h)

theorem Memory.wf_spoil {m : Memory} (l : Nat) (h : m.wf = true) : (m.spoil l).wf = true := by
  unfold Memory.spoil
  split
  · exact h
  · exact h

theorem Memory.wf_zero : Memory.zero.wf = true := rfl

/-- A change of memory that keeps its canonical form. -/
theorem Keeps.mem {s0 s : State} {m : Memory} (h : Keeps s0 s) (hm : s.mem.wf = true → m.wf = true) : Keeps s0 { s with mem := m } :=
  ⟨h.1, fun i => ⟨hm (h.2 i).1, (h.2 i).2.1, (h.2 i).2.2⟩⟩

/-- A change of memory, with any fields the invariant does not speak of, that keeps the memory's canonical form. -/
theorem Keeps.mkMem {s0 s : State} (h : Keeps s0 s) {mem regs latches heldLo jobs regions engines arrays chucks waiting caches upds ovf recipes recipeLoad ports route keytab wmap wmapLoad colls readys readds looped sramScrub upsets sramCorr twin slots seatLoad unison tune dies links bundles lanes pwr start flash sessions fw spdm cxl nextReq free out} (hm : s.mem.wf = true → mem.wf = true) :
    Keeps s0 (State.mk s.pending regs latches heldLo mem s.streams jobs regions engines arrays chucks waiting caches upds ovf recipes recipeLoad ports route keytab wmap wmapLoad colls readys readds looped sramScrub upsets sramCorr twin slots seatLoad unison tune s.log s.logHead dies links bundles lanes pwr start flash sessions fw spdm cxl nextReq free out) := Keeps.same (Keeps.mem (m := mem) h hm) rfl rfl rfl rfl rfl

/-! ### Streams -/

/-- A state in which nothing is listed, as power leaves it. -/
theorem Keeps.wipe {s0 s t : State} (h : Keeps s0 s) (hp : t.pending = s.pending) (hm : t.mem.wf = true) (hl : t.log = [])
    (hs : t.streams = []) : Keeps s0 t := by
  refine ⟨hp.trans h.1, fun _ => ⟨hm, ?_, ?_⟩⟩
  · unfold State.logOk; rw [hl]; exact ⟨Nat.zero_le _, fun _ _ hr => by cases hr⟩
  · unfold State.pendOk State.stream; rw [hs]; exact fun _ => Nat.zero_le 4

/-- A change that leaves no stream open: every unlisted stream has an empty queue. -/
theorem Keeps.clear {s0 s t : State} (h : Keeps s0 s) (hp : t.pending = s.pending) (hm : s.mem.wf = true → t.mem.wf = true)
    (hl : t.log = s.log) (hh : t.logHead = s.logHead) (hs : t.streams = []) : Keeps s0 t := by
  refine ⟨hp.trans h.1, fun i => ?_⟩
  obtain ⟨a, b, _⟩ := h.2 i
  refine ⟨hm a, ?_, ?_⟩
  · unfold State.logOk; rw [hl, hh]; exact b
  · unfold State.pendOk State.stream; rw [hs]; exact fun _ => Nat.zero_le 4

theorem State.setStream_keeps {s0 s : State} (n : Nat) (x : Stream) (h : Keeps s0 s) (hx : s.pendOk → x.pend.length ≤ 4) :
    Keeps s0 (s.setStream n x) := by
  refine ⟨h.1, fun i => ⟨(h.2 i).1, (h.2 i).2.1, fun m => ?_⟩⟩
  have hp := (h.2 i).2.2
  unfold State.stream State.setStream
  rw [SMap.get_set]
  split
  · exact hx hp
  · exact hp m

theorem State.updRec_keeps {s0 s : State} (n : Nat) (f : Stream → Stream) (h : Keeps s0 s)
    (hf : (s.stream n).pend.length ≤ 4 → (f (s.stream n)).pend.length ≤ 4) : Keeps s0 (s.updRec n f) :=
  State.setStream_keeps n _ h (fun hp => hf (hp n))

/-! ### Lists of things to do -/

theorem Keeps.foldl {β : Type} {s0 : State} (f : State → β → State) (l : List β) (hf : ∀ t b, Keeps s0 t → Keeps s0 (f t b)) :
    ∀ {s : State}, Keeps s0 s → Keeps s0 (l.foldl f s) := by
  induction l with
  | nil => intro s h; exact h
  | cons b l ih => intro s h; exact ih (hf s b h)

theorem Keeps.foldlFst {β γ : Type} {s0 : State} (f : State × γ → β → State × γ) (l : List β)
    (hf : ∀ t b, Keeps s0 t.1 → Keeps s0 (f t b).1) : ∀ {s : State × γ}, Keeps s0 s.1 → Keeps s0 (l.foldl f s).1 := by
  induction l with
  | nil => intro s h; exact h
  | cons b l ih => intro s h; exact ih (hf s b h)

theorem State.forEach_keeps {β : Type} {s0 s : State} (l : List β) (f : State → β → State) (h : Keeps s0 s)
    (hf : ∀ t b, Keeps s0 t → Keeps s0 (f t b)) : Keeps s0 (s.forEach l f) := Keeps.foldl f l hf h

/-! ### The error log (R440) -/

theorem word_pred_succ (a z : U32) : a - z = a + 1 - (z + 1) := by bv_omega

theorem word_succ_pred (a : U32) : a = a + 1 - 1 := by bv_omega

theorem keepLast_eq {α : Type} (n : Nat) (l : List α) : keepLast n l = l.drop (l.length - n) := by
  unfold keepLast
  rw [List.take_reverse, List.reverse_reverse]

theorem State.record_log (s : State) (e : Event) :
    ∃ r : ErrRec, r.seq = s.logHead ∧ (s.record e).log = keepLast 4096 (s.log ++ [r]) := ⟨_, rfl, rfl⟩

theorem State.record_keeps {s0 s : State} (e : Event) (h : Keeps s0 s) : Keeps s0 (s.record e) := by
  refine ⟨h.1, fun i => ⟨(h.2 i).1, ?_, (h.2 i).2.2⟩⟩
  obtain ⟨hlen, hseq⟩ := (h.2 i).2.1
  obtain ⟨r0, h0, hl⟩ := s.record_log e
  have hh : (s.record e).logHead = s.logHead + 1 := rfl
  unfold State.logOk
  rw [hl, hh, keepLast_eq]
  simp only [List.length_drop, List.length_append, List.length_cons, List.length_nil]
  refine ⟨by omega, ?_⟩
  intro k r hr
  rw [List.getElem?_drop, List.getElem?_append] at hr
  split at hr
  · rename_i hk
    have e1 : s.log.length + (0 + 1) - (s.log.length + (0 + 1) - 4096) - k = (s.log.length - (s.log.length + (0 + 1) - 4096 + k)) + 1 := by omega
    rw [hseq _ _ hr, e1, BitVec.ofNat_add]
    exact word_pred_succ _ _
  · rename_i hk
    have hz : s.log.length + (0 + 1) - 4096 + k - s.log.length = 0 := by
      by_contra hne
      rw [List.getElem?_eq_none (by simp only [List.length_cons, List.length_nil]; omega)] at hr
      cases hr
    rw [hz] at hr
    simp only [List.getElem?_cons_zero, Option.some.injEq] at hr
    have e1 : s.log.length + (0 + 1) - (s.log.length + (0 + 1) - 4096) - k = 1 := by omega
    rw [e1, ← hr, h0]
    exact word_succ_pred _

end Sys2Proof.Machine
end

