-- ==== Sys2Proof/Laws/KeepsRegisters.lean ====
section
/-! SUPPORT. Every operation of Machine/Registers.lean leaves the queue as it is and keeps the invariant. -/

set_option linter.unusedVariables false
set_option linter.unusedTactic false
set_option linter.unreachableTactic false

namespace Sys2Proof.Machine

theorem State.setReg_keeps {s0 s : State} (pg : Page) (off : Nat) (v : U32) (hK : Keeps s0 s) :
    Keeps s0 (State.setReg s pg off v) := by
  unfold State.setReg
  try dsimp only
  repeat' (first | with_reducible assumption | (intro t b ht; try dsimp only) | split | fail_if_no_progress (with_reducible apply Keeps.mk) | exact id | exact fun _ => Nat.zero_le 4 | exact fun hp => (List.length_take ▸ Nat.le_trans (Nat.min_le_right _ _) (hp _)) | exact Memory.wf_write _ _ | exact Memory.wf_writeAll _ | exact Memory.wf_writeTagged _ _ _ | exact Memory.wf_stage _ _ _ | exact Memory.wf_spoil _ | exact fun hp => hp _)

theorem State.setBits_keeps {s0 s : State} (pg : Page) (off : Nat) (v : U32) (mask : Nat) (hK : Keeps s0 s) :
    Keeps s0 (State.setBits s pg off v mask) := by
  unfold State.setBits
  try dsimp only
  repeat' (first | with_reducible assumption | with_reducible apply State.setReg_keeps | (intro t b ht; try dsimp only) | split | fail_if_no_progress (with_reducible apply Keeps.mk) | exact id | exact fun _ => Nat.zero_le 4 | exact fun hp => (List.length_take ▸ Nat.le_trans (Nat.min_le_right _ _) (hp _)) | exact Memory.wf_write _ _ | exact Memory.wf_writeAll _ | exact Memory.wf_writeTagged _ _ _ | exact Memory.wf_stage _ _ _ | exact Memory.wf_spoil _ | exact fun hp => hp _)

theorem State.countSat_keeps {s0 s : State} (pg : Page) (off : Nat) (n : Nat) (hK : Keeps s0 s) :
    Keeps s0 (State.countSat s pg off n) := by
  unfold State.countSat
  try dsimp only
  repeat' (first | with_reducible assumption | with_reducible apply State.setReg_keeps | (intro t b ht; try dsimp only) | split | fail_if_no_progress (with_reducible apply Keeps.mk) | exact id | exact fun _ => Nat.zero_le 4 | exact fun hp => (List.length_take ▸ Nat.le_trans (Nat.min_le_right _ _) (hp _)) | exact Memory.wf_write _ _ | exact Memory.wf_writeAll _ | exact Memory.wf_writeTagged _ _ _ | exact Memory.wf_stage _ _ _ | exact Memory.wf_spoil _ | exact fun hp => hp _)

theorem State.countWrap_keeps {s0 s : State} (pg : Page) (off : Nat) (n : Nat) (hK : Keeps s0 s) :
    Keeps s0 (State.countWrap s pg off n) := by
  unfold State.countWrap
  try dsimp only
  repeat' (first | with_reducible assumption | with_reducible apply State.setReg_keeps | (intro t b ht; try dsimp only) | split | fail_if_no_progress (with_reducible apply Keeps.mk) | exact id | exact fun _ => Nat.zero_le 4 | exact fun hp => (List.length_take ▸ Nat.le_trans (Nat.min_le_right _ _) (hp _)) | exact Memory.wf_write _ _ | exact Memory.wf_writeAll _ | exact Memory.wf_writeTagged _ _ _ | exact Memory.wf_stage _ _ _ | exact Memory.wf_spoil _ | exact fun hp => hp _)

theorem State.countPair_keeps {s0 s : State} (pg : Page) (lo : Nat) (n : Nat) (hK : Keeps s0 s) :
    Keeps s0 (State.countPair s pg lo n) := by
  unfold State.countPair
  try dsimp only
  repeat' (first | with_reducible assumption | with_reducible apply State.setReg_keeps | (intro t b ht; try dsimp only) | split | fail_if_no_progress (with_reducible apply Keeps.mk) | exact id | exact fun _ => Nat.zero_le 4 | exact fun hp => (List.length_take ▸ Nat.le_trans (Nat.min_le_right _ _) (hp _)) | exact Memory.wf_write _ _ | exact Memory.wf_writeAll _ | exact Memory.wf_writeTagged _ _ _ | exact Memory.wf_stage _ _ _ | exact Memory.wf_spoil _ | exact fun hp => hp _)

theorem State.setPair_keeps {s0 s : State} (pg : Page) (lo : Nat) (v : Nat) (hK : Keeps s0 s) :
    Keeps s0 (State.setPair s pg lo v) := by
  unfold State.setPair
  try dsimp only
  repeat' (first | with_reducible assumption | with_reducible apply State.setReg_keeps | (intro t b ht; try dsimp only) | split | fail_if_no_progress (with_reducible apply Keeps.mk) | exact id | exact fun _ => Nat.zero_le 4 | exact fun hp => (List.length_take ▸ Nat.le_trans (Nat.min_le_right _ _) (hp _)) | exact Memory.wf_write _ _ | exact Memory.wf_writeAll _ | exact Memory.wf_writeTagged _ _ _ | exact Memory.wf_stage _ _ _ | exact Memory.wf_spoil _ | exact fun hp => hp _)

theorem State.setErr_keeps {s0 s : State} (pg : Page) (stat mask : U32) (hK : Keeps s0 s) :
    Keeps s0 (State.setErr s pg stat mask) := by
  unfold State.setErr
  try dsimp only
  repeat' (first | with_reducible assumption | with_reducible apply State.setReg_keeps | (intro t b ht; try dsimp only) | split | fail_if_no_progress (with_reducible apply Keeps.mk) | exact id | exact fun _ => Nat.zero_le 4 | exact fun hp => (List.length_take ▸ Nat.le_trans (Nat.min_le_right _ _) (hp _)) | exact Memory.wf_write _ _ | exact Memory.wf_writeAll _ | exact Memory.wf_writeTagged _ _ _ | exact Memory.wf_stage _ _ _ | exact Memory.wf_spoil _ | exact fun hp => hp _)

theorem State.raise_keeps {s0 s : State} (pg : Page) (bit : Nat) (hK : Keeps s0 s) :
    Keeps s0 (State.raise s pg bit) := by
  unfold State.raise
  try dsimp only
  repeat' (first | with_reducible assumption | with_reducible apply State.setErr_keeps | (intro t b ht; try dsimp only) | split | fail_if_no_progress (with_reducible apply Keeps.mk) | exact id | exact fun _ => Nat.zero_le 4 | exact fun hp => (List.length_take ▸ Nat.le_trans (Nat.min_le_right _ _) (hp _)) | exact Memory.wf_write _ _ | exact Memory.wf_writeAll _ | exact Memory.wf_writeTagged _ _ _ | exact Memory.wf_stage _ _ _ | exact Memory.wf_spoil _ | exact fun hp => hp _)

theorem State.arm_keeps {s0 s : State} (pg : Page) (bit : Nat) (hK : Keeps s0 s) :
    Keeps s0 (State.arm s pg bit) := by
  unfold State.arm
  try dsimp only
  repeat' (first | with_reducible assumption | with_reducible apply State.setBits_keeps | (intro t b ht; try dsimp only) | split | fail_if_no_progress (with_reducible apply Keeps.mk) | exact id | exact fun _ => Nat.zero_le 4 | exact fun hp => (List.length_take ▸ Nat.le_trans (Nat.min_le_right _ _) (hp _)) | exact Memory.wf_write _ _ | exact Memory.wf_writeAll _ | exact Memory.wf_writeTagged _ _ _ | exact Memory.wf_stage _ _ _ | exact Memory.wf_spoil _ | exact fun hp => hp _)

theorem State.disarm_keeps {s0 s : State} (pg : Page) (bit : Nat) (hK : Keeps s0 s) :
    Keeps s0 (State.disarm s pg bit) := by
  unfold State.disarm
  try dsimp only
  repeat' (first | with_reducible assumption | with_reducible apply State.setBits_keeps | (intro t b ht; try dsimp only) | split | fail_if_no_progress (with_reducible apply Keeps.mk) | exact id | exact fun _ => Nat.zero_le 4 | exact fun hp => (List.length_take ▸ Nat.le_trans (Nat.min_le_right _ _) (hp _)) | exact Memory.wf_write _ _ | exact Memory.wf_writeAll _ | exact Memory.wf_writeTagged _ _ _ | exact Memory.wf_stage _ _ _ | exact Memory.wf_spoil _ | exact fun hp => hp _)

end Sys2Proof.Machine
end

