-- ==== Sys2Proof/Laws/KeepsFlags.lean ====
section
/-! SUPPORT. Every operation of Machine/Flags.lean leaves the queue as it is and keeps the invariant. -/

set_option linter.unusedVariables false
set_option linter.unusedTactic false
set_option linter.unreachableTactic false

namespace Sys2Proof.Machine

theorem State.postFlags_keeps {s0 s : State} (u stream : Nat) (f : Flags) (faulted : Bool) (hK : Keeps s0 s) :
    Keeps s0 (State.postFlags s u stream f faulted) := by
  unfold State.postFlags
  try dsimp only
  repeat' (first | with_reducible assumption | with_reducible apply State.setReg_keeps | (intro t b ht; try dsimp only) | split | fail_if_no_progress (with_reducible apply Keeps.mk) | exact id | exact fun _ => Nat.zero_le 4 | exact fun hp => (List.length_take ▸ Nat.le_trans (Nat.min_le_right _ _) (hp _)) | exact Memory.wf_write _ _ | exact Memory.wf_writeAll _ | exact Memory.wf_writeTagged _ _ _ | exact Memory.wf_stage _ _ _ | exact Memory.wf_spoil _ | exact fun hp => hp _)

theorem State.clearFlags_keeps {s0 s : State} (pg : Page) (v : U32) (hK : Keeps s0 s) :
    Keeps s0 (State.clearFlags s pg v) := by
  unfold State.clearFlags
  try dsimp only
  repeat' (first | with_reducible assumption | with_reducible apply State.setReg_keeps | (intro t b ht; try dsimp only) | split | fail_if_no_progress (with_reducible apply Keeps.mk) | exact id | exact fun _ => Nat.zero_le 4 | exact fun hp => (List.length_take ▸ Nat.le_trans (Nat.min_le_right _ _) (hp _)) | exact Memory.wf_write _ _ | exact Memory.wf_writeAll _ | exact Memory.wf_writeTagged _ _ _ | exact Memory.wf_stage _ _ _ | exact Memory.wf_spoil _ | exact fun hp => hp _)

end Sys2Proof.Machine
end

