-- ==== Sys2Proof/Laws/KeepsAccess.lean ====
section
/-! SUPPORT. Every operation of Machine/Access.lean leaves the queue as it is and keeps the invariant. -/

set_option linter.unusedVariables false
set_option linter.unusedTactic false
set_option linter.unreachableTactic false

namespace Sys2Proof.Machine

theorem State.setJob_keeps {s0 s : State} (j : Nat) (x : Job) (hK : Keeps s0 s) :
    Keeps s0 (State.setJob s j x) := by
  unfold State.setJob
  try dsimp only
  repeat' (first | with_reducible assumption | (intro t b ht; try dsimp only) | split | fail_if_no_progress (with_reducible apply Keeps.mk) | exact id | exact fun _ => Nat.zero_le 4 | exact fun hp => (List.length_take ▸ Nat.le_trans (Nat.min_le_right _ _) (hp _)) | exact Memory.wf_write _ _ | exact Memory.wf_writeAll _ | exact Memory.wf_writeTagged _ _ _ | exact Memory.wf_stage _ _ _ | exact Memory.wf_spoil _ | exact fun hp => hp _)

theorem State.updJob_keeps {s0 s : State} (j : Nat) (f : Job → Job) (hK : Keeps s0 s) :
    Keeps s0 (State.updJob s j f) := by
  unfold State.updJob
  try dsimp only
  repeat' (first | with_reducible assumption | with_reducible apply State.setJob_keeps | (intro t b ht; try dsimp only) | split | fail_if_no_progress (with_reducible apply Keeps.mk) | exact id | exact fun _ => Nat.zero_le 4 | exact fun hp => (List.length_take ▸ Nat.le_trans (Nat.min_le_right _ _) (hp _)) | exact Memory.wf_write _ _ | exact Memory.wf_writeAll _ | exact Memory.wf_writeTagged _ _ _ | exact Memory.wf_stage _ _ _ | exact Memory.wf_spoil _ | exact fun hp => hp _)

theorem State.setRegion_keeps {s0 s : State} (j r : Nat) (x : Region) (hK : Keeps s0 s) :
    Keeps s0 (State.setRegion s j r x) := by
  unfold State.setRegion
  try dsimp only
  repeat' (first | with_reducible assumption | (intro t b ht; try dsimp only) | split | fail_if_no_progress (with_reducible apply Keeps.mk) | exact id | exact fun _ => Nat.zero_le 4 | exact fun hp => (List.length_take ▸ Nat.le_trans (Nat.min_le_right _ _) (hp _)) | exact Memory.wf_write _ _ | exact Memory.wf_writeAll _ | exact Memory.wf_writeTagged _ _ _ | exact Memory.wf_stage _ _ _ | exact Memory.wf_spoil _ | exact fun hp => hp _)

theorem State.setArray_keeps {s0 s : State} (core : Nat) (x : ArraySt) (hK : Keeps s0 s) :
    Keeps s0 (State.setArray s core x) := by
  unfold State.setArray
  try dsimp only
  repeat' (first | with_reducible assumption | (intro t b ht; try dsimp only) | split | fail_if_no_progress (with_reducible apply Keeps.mk) | exact id | exact fun _ => Nat.zero_le 4 | exact fun hp => (List.length_take ▸ Nat.le_trans (Nat.min_le_right _ _) (hp _)) | exact Memory.wf_write _ _ | exact Memory.wf_writeAll _ | exact Memory.wf_writeTagged _ _ _ | exact Memory.wf_stage _ _ _ | exact Memory.wf_spoil _ | exact fun hp => hp _)

theorem State.setChuck_keeps {s0 s : State} (u : Nat) (x : ChuckPair) (hK : Keeps s0 s) :
    Keeps s0 (State.setChuck s u x) := by
  unfold State.setChuck
  try dsimp only
  repeat' (first | with_reducible assumption | (intro t b ht; try dsimp only) | split | fail_if_no_progress (with_reducible apply Keeps.mk) | exact id | exact fun _ => Nat.zero_le 4 | exact fun hp => (List.length_take ▸ Nat.le_trans (Nat.min_le_right _ _) (hp _)) | exact Memory.wf_write _ _ | exact Memory.wf_writeAll _ | exact Memory.wf_writeTagged _ _ _ | exact Memory.wf_stage _ _ _ | exact Memory.wf_spoil _ | exact fun hp => hp _)

theorem State.setEngine_keeps {s0 s : State} (u : Nat) (x : Engine) (hK : Keeps s0 s) :
    Keeps s0 (State.setEngine s u x) := by
  unfold State.setEngine
  try dsimp only
  repeat' (first | with_reducible assumption | (intro t b ht; try dsimp only) | split | fail_if_no_progress (with_reducible apply Keeps.mk) | exact id | exact fun _ => Nat.zero_le 4 | exact fun hp => (List.length_take ▸ Nat.le_trans (Nat.min_le_right _ _) (hp _)) | exact Memory.wf_write _ _ | exact Memory.wf_writeAll _ | exact Memory.wf_writeTagged _ _ _ | exact Memory.wf_stage _ _ _ | exact Memory.wf_spoil _ | exact fun hp => hp _)

theorem State.updEngine_keeps {s0 s : State} (u : Nat) (f : Engine → Engine) (hK : Keeps s0 s) :
    Keeps s0 (State.updEngine s u f) := by
  unfold State.updEngine
  try dsimp only
  repeat' (first | with_reducible assumption | with_reducible apply State.setEngine_keeps | (intro t b ht; try dsimp only) | split | fail_if_no_progress (with_reducible apply Keeps.mk) | exact id | exact fun _ => Nat.zero_le 4 | exact fun hp => (List.length_take ▸ Nat.le_trans (Nat.min_le_right _ _) (hp _)) | exact Memory.wf_write _ _ | exact Memory.wf_writeAll _ | exact Memory.wf_writeTagged _ _ _ | exact Memory.wf_stage _ _ _ | exact Memory.wf_spoil _ | exact fun hp => hp _)

theorem State.setPort_keeps {s0 s : State} (p : Nat) (x : Port) (hK : Keeps s0 s) :
    Keeps s0 (State.setPort s p x) := by
  unfold State.setPort
  try dsimp only
  repeat' (first | with_reducible assumption | (intro t b ht; try dsimp only) | split | fail_if_no_progress (with_reducible apply Keeps.mk) | exact id | exact fun _ => Nat.zero_le 4 | exact fun hp => (List.length_take ▸ Nat.le_trans (Nat.min_le_right _ _) (hp _)) | exact Memory.wf_write _ _ | exact Memory.wf_writeAll _ | exact Memory.wf_writeTagged _ _ _ | exact Memory.wf_stage _ _ _ | exact Memory.wf_spoil _ | exact fun hp => hp _)

theorem State.setSlot_keeps {s0 s : State} (i : Nat) (x : Slot) (hK : Keeps s0 s) :
    Keeps s0 (State.setSlot s i x) := by
  unfold State.setSlot
  try dsimp only
  repeat' (first | with_reducible assumption | (intro t b ht; try dsimp only) | split | fail_if_no_progress (with_reducible apply Keeps.mk) | exact id | exact fun _ => Nat.zero_le 4 | exact fun hp => (List.length_take ▸ Nat.le_trans (Nat.min_le_right _ _) (hp _)) | exact Memory.wf_write _ _ | exact Memory.wf_writeAll _ | exact Memory.wf_writeTagged _ _ _ | exact Memory.wf_stage _ _ _ | exact Memory.wf_spoil _ | exact fun hp => hp _)

theorem State.setTune_keeps {s0 s : State} (u : Nat) (x : TuneUnit) (hK : Keeps s0 s) :
    Keeps s0 (State.setTune s u x) := by
  unfold State.setTune
  try dsimp only
  repeat' (first | with_reducible assumption | (intro t b ht; try dsimp only) | split | fail_if_no_progress (with_reducible apply Keeps.mk) | exact id | exact fun _ => Nat.zero_le 4 | exact fun hp => (List.length_take ▸ Nat.le_trans (Nat.min_le_right _ _) (hp _)) | exact Memory.wf_write _ _ | exact Memory.wf_writeAll _ | exact Memory.wf_writeTagged _ _ _ | exact Memory.wf_stage _ _ _ | exact Memory.wf_spoil _ | exact fun hp => hp _)

theorem State.setDie_keeps {s0 s : State} (d : Nat) (x : DieSt) (hK : Keeps s0 s) :
    Keeps s0 (State.setDie s d x) := by
  unfold State.setDie
  try dsimp only
  repeat' (first | with_reducible assumption | (intro t b ht; try dsimp only) | split | fail_if_no_progress (with_reducible apply Keeps.mk) | exact id | exact fun _ => Nat.zero_le 4 | exact fun hp => (List.length_take ▸ Nat.le_trans (Nat.min_le_right _ _) (hp _)) | exact Memory.wf_write _ _ | exact Memory.wf_writeAll _ | exact Memory.wf_writeTagged _ _ _ | exact Memory.wf_stage _ _ _ | exact Memory.wf_spoil _ | exact fun hp => hp _)

theorem State.updDie_keeps {s0 s : State} (d : Nat) (f : DieSt → DieSt) (hK : Keeps s0 s) :
    Keeps s0 (State.updDie s d f) := by
  unfold State.updDie
  try dsimp only
  repeat' (first | with_reducible assumption | with_reducible apply State.setDie_keeps | (intro t b ht; try dsimp only) | split | fail_if_no_progress (with_reducible apply Keeps.mk) | exact id | exact fun _ => Nat.zero_le 4 | exact fun hp => (List.length_take ▸ Nat.le_trans (Nat.min_le_right _ _) (hp _)) | exact Memory.wf_write _ _ | exact Memory.wf_writeAll _ | exact Memory.wf_writeTagged _ _ _ | exact Memory.wf_stage _ _ _ | exact Memory.wf_spoil _ | exact fun hp => hp _)

theorem State.setLink_keeps {s0 s : State} (e : LinkEnd) (x : LinkSt) (hK : Keeps s0 s) :
    Keeps s0 (State.setLink s e x) := by
  unfold State.setLink
  try dsimp only
  repeat' (first | with_reducible assumption | (intro t b ht; try dsimp only) | split | fail_if_no_progress (with_reducible apply Keeps.mk) | exact id | exact fun _ => Nat.zero_le 4 | exact fun hp => (List.length_take ▸ Nat.le_trans (Nat.min_le_right _ _) (hp _)) | exact Memory.wf_write _ _ | exact Memory.wf_writeAll _ | exact Memory.wf_writeTagged _ _ _ | exact Memory.wf_stage _ _ _ | exact Memory.wf_spoil _ | exact fun hp => hp _)

theorem State.setBundle_keeps {s0 s : State} (e : LinkEnd) (b : Nat) (x : BundleSt) (hK : Keeps s0 s) :
    Keeps s0 (State.setBundle s e b x) := by
  unfold State.setBundle
  try dsimp only
  repeat' (first | with_reducible assumption | (intro t b ht; try dsimp only) | split | fail_if_no_progress (with_reducible apply Keeps.mk) | exact id | exact fun _ => Nat.zero_le 4 | exact fun hp => (List.length_take ▸ Nat.le_trans (Nat.min_le_right _ _) (hp _)) | exact Memory.wf_write _ _ | exact Memory.wf_writeAll _ | exact Memory.wf_writeTagged _ _ _ | exact Memory.wf_stage _ _ _ | exact Memory.wf_spoil _ | exact fun hp => hp _)

theorem State.setLaneGroup_keeps {s0 s : State} (e : LinkEnd) (b g : Nat) (x : LaneGroup) (hK : Keeps s0 s) :
    Keeps s0 (State.setLaneGroup s e b g x) := by
  unfold State.setLaneGroup
  try dsimp only
  repeat' (first | with_reducible assumption | (intro t b ht; try dsimp only) | split | fail_if_no_progress (with_reducible apply Keeps.mk) | exact id | exact fun _ => Nat.zero_le 4 | exact fun hp => (List.length_take ▸ Nat.le_trans (Nat.min_le_right _ _) (hp _)) | exact Memory.wf_write _ _ | exact Memory.wf_writeAll _ | exact Memory.wf_writeTagged _ _ _ | exact Memory.wf_stage _ _ _ | exact Memory.wf_spoil _ | exact fun hp => hp _)

theorem State.emit_keeps {s0 s : State} (o : Out) (hK : Keeps s0 s) :
    Keeps s0 (State.emit s o) := by
  unfold State.emit
  try dsimp only
  repeat' (first | with_reducible assumption | (intro t b ht; try dsimp only) | split | fail_if_no_progress (with_reducible apply Keeps.mk) | exact id | exact fun _ => Nat.zero_le 4 | exact fun hp => (List.length_take ▸ Nat.le_trans (Nat.min_le_right _ _) (hp _)) | exact Memory.wf_write _ _ | exact Memory.wf_writeAll _ | exact Memory.wf_writeTagged _ _ _ | exact Memory.wf_stage _ _ _ | exact Memory.wf_spoil _ | exact fun hp => hp _)

theorem State.draw_keeps {s0 s : State}  (hK : Keeps s0 s) :
    Keeps s0 (State.draw s) := by
  unfold State.draw
  try dsimp only
  repeat' (first | with_reducible assumption | (intro t b ht; try dsimp only) | split | fail_if_no_progress (with_reducible apply Keeps.mk) | exact id | exact fun _ => Nat.zero_le 4 | exact fun hp => (List.length_take ▸ Nat.le_trans (Nat.min_le_right _ _) (hp _)) | exact Memory.wf_write _ _ | exact Memory.wf_writeAll _ | exact Memory.wf_writeTagged _ _ _ | exact Memory.wf_stage _ _ _ | exact Memory.wf_spoil _ | exact fun hp => hp _)

theorem State.capChanged_keeps {s0 s : State}  (hK : Keeps s0 s) :
    Keeps s0 (State.capChanged s) := by
  unfold State.capChanged
  try dsimp only
  repeat' (first | with_reducible assumption | with_reducible apply State.countWrap_keeps | with_reducible apply State.raise_keeps | with_reducible apply Keeps.foldl | (intro t b ht; try dsimp only) | split | fail_if_no_progress (with_reducible apply Keeps.mk) | exact id | exact fun _ => Nat.zero_le 4 | exact fun hp => (List.length_take ▸ Nat.le_trans (Nat.min_le_right _ _) (hp _)) | exact Memory.wf_write _ _ | exact Memory.wf_writeAll _ | exact Memory.wf_writeTagged _ _ _ | exact Memory.wf_stage _ _ _ | exact Memory.wf_spoil _ | exact fun hp => hp _)

theorem State.recordStream_keeps {s0 s : State} (n : Nat) (e : Event) (hK : Keeps s0 s) :
    Keeps s0 (State.recordStream s n e) := by
  unfold State.recordStream
  try dsimp only
  repeat' (first | with_reducible assumption | with_reducible apply State.record_keeps | (intro t b ht; try dsimp only) | split | fail_if_no_progress (with_reducible apply Keeps.mk) | exact id | exact fun _ => Nat.zero_le 4 | exact fun hp => (List.length_take ▸ Nat.le_trans (Nat.min_le_right _ _) (hp _)) | exact Memory.wf_write _ _ | exact Memory.wf_writeAll _ | exact Memory.wf_writeTagged _ _ _ | exact Memory.wf_stage _ _ _ | exact Memory.wf_spoil _ | exact fun hp => hp _)

theorem State.alertFrom_keeps {s0 s : State} (before : State) (hK : Keeps s0 s) :
    Keeps s0 (State.alertFrom s before) := by
  unfold State.alertFrom
  try dsimp only
  repeat' (first | with_reducible assumption | with_reducible apply State.emit_keeps | (intro t b ht; try dsimp only) | split | fail_if_no_progress (with_reducible apply Keeps.mk) | exact id | exact fun _ => Nat.zero_le 4 | exact fun hp => (List.length_take ▸ Nat.le_trans (Nat.min_le_right _ _) (hp _)) | exact Memory.wf_write _ _ | exact Memory.wf_writeAll _ | exact Memory.wf_writeTagged _ _ _ | exact Memory.wf_stage _ _ _ | exact Memory.wf_spoil _ | exact fun hp => hp _)

end Sys2Proof.Machine
end

