-- ==== Sys2Proof/Laws/KeepsFlits.lean ====
section
/-! SUPPORT. Every operation of Machine/Flits.lean leaves the queue as it is and keeps the invariant. -/

set_option linter.unusedVariables false
set_option linter.unusedTactic false
set_option linter.unreachableTactic false

namespace Sys2Proof.Machine

theorem State.onPage_keeps {s0 s : State} (e : LinkEnd) (f : State → Page → State) (h : Keeps s0 s)
    (hf : ∀ t pg, Keeps s0 t → Keeps s0 (f t pg)) : Keeps s0 (State.onPage s e f) := by
  unfold State.onPage
  split
  · exact hf _ _ h
  · exact h

theorem State.sendFlit_keeps {s0 s : State} (e : LinkEnd) (b kind : Nat) (payload : List U8) (hK : Keeps s0 s) :
    Keeps s0 (State.sendFlit s e b kind payload) := by
  unfold State.sendFlit
  try dsimp only
  repeat' (first | with_reducible assumption | with_reducible apply State.emit_keeps | with_reducible apply State.setBundle_keeps | (intro t b ht; try dsimp only) | split | fail_if_no_progress (with_reducible apply Keeps.mk) | exact id | exact fun _ => Nat.zero_le 4 | exact fun hp => (List.length_take ▸ Nat.le_trans (Nat.min_le_right _ _) (hp _)) | exact Memory.wf_write _ _ | exact Memory.wf_writeAll _ | exact Memory.wf_writeTagged _ _ _ | exact Memory.wf_stage _ _ _ | exact Memory.wf_spoil _ | exact fun hp => hp _)

theorem State.tryMessage_keeps {s0 s t : State} (e : LinkEnd) (m : HeldMsg) (h : Keeps s0 s) (ht : s.tryMessage e m = some t) : Keeps s0 t := by
  unfold State.tryMessage at ht
  dsimp only at ht
  split at ht
  · split at ht
    · cases ht
      exact State.sendFlit_keeps _ _ _ _ (State.setLink_keeps _ _ h)
    · cases ht
  · cases ht

theorem State.releaseHeld_keeps {s0 s : State} (e : LinkEnd) (h : Keeps s0 s) : Keeps s0 (s.releaseHeld e) := by
  refine State.forEach_keeps _ _ (State.setLink_keeps _ _ h) fun t m ht => ?_
  split
  · exact State.tryMessage_keeps e m ht (by assumption)
  · exact State.setLink_keeps _ _ ht

theorem State.offer_keeps {s0 s : State} (e : LinkEnd) (m : HeldMsg) (hK : Keeps s0 s) :
    Keeps s0 (State.offer s e m) := by
  unfold State.offer
  try dsimp only
  repeat' (first | with_reducible assumption | with_reducible apply State.releaseHeld_keeps | with_reducible apply State.setLink_keeps | (intro t b ht; try dsimp only) | split | fail_if_no_progress (with_reducible apply Keeps.mk) | exact id | exact fun _ => Nat.zero_le 4 | exact fun hp => (List.length_take ▸ Nat.le_trans (Nat.min_le_right _ _) (hp _)) | exact Memory.wf_write _ _ | exact Memory.wf_writeAll _ | exact Memory.wf_writeTagged _ _ _ | exact Memory.wf_stage _ _ _ | exact Memory.wf_spoil _ | exact fun hp => hp _)

theorem State.sendMessage_keeps {s0 s : State} (e : LinkEnd) (payload : List U8) (hK : Keeps s0 s) :
    Keeps s0 (State.sendMessage s e payload) := by
  unfold State.sendMessage
  try dsimp only
  repeat' (first | with_reducible assumption | with_reducible apply State.offer_keeps | (intro t b ht; try dsimp only) | split | fail_if_no_progress (with_reducible apply Keeps.mk) | exact id | exact fun _ => Nat.zero_le 4 | exact fun hp => (List.length_take ▸ Nat.le_trans (Nat.min_le_right _ _) (hp _)) | exact Memory.wf_write _ _ | exact Memory.wf_writeAll _ | exact Memory.wf_writeTagged _ _ _ | exact Memory.wf_stage _ _ _ | exact Memory.wf_spoil _ | exact fun hp => hp _)

theorem State.putBudget_keeps {s0 s : State} (d : Nat) (m : Budget) (hK : Keeps s0 s) :
    Keeps s0 (State.putBudget s d m) := by
  unfold State.putBudget
  try dsimp only
  repeat' (first | with_reducible assumption | with_reducible apply State.emit_keeps | with_reducible apply State.sendMessage_keeps | (intro t b ht; try dsimp only) | split | fail_if_no_progress (with_reducible apply Keeps.mk) | exact id | exact fun _ => Nat.zero_le 4 | exact fun hp => (List.length_take ▸ Nat.le_trans (Nat.min_le_right _ _) (hp _)) | exact Memory.wf_write _ _ | exact Memory.wf_writeAll _ | exact Memory.wf_writeTagged _ _ _ | exact Memory.wf_stage _ _ _ | exact Memory.wf_spoil _ | exact fun hp => hp _)

theorem State.noticeReset_keeps {s0 s : State} (d : Die) (hK : Keeps s0 s) :
    Keeps s0 (State.noticeReset s d) := by
  unfold State.noticeReset
  try dsimp only
  repeat' (first | with_reducible assumption | with_reducible apply State.forEach_keeps | with_reducible apply State.sendFlit_keeps | (intro t b ht; try dsimp only) | split | fail_if_no_progress (with_reducible apply Keeps.mk) | exact id | exact fun _ => Nat.zero_le 4 | exact fun hp => (List.length_take ▸ Nat.le_trans (Nat.min_le_right _ _) (hp _)) | exact Memory.wf_write _ _ | exact Memory.wf_writeAll _ | exact Memory.wf_writeTagged _ _ _ | exact Memory.wf_stage _ _ _ | exact Memory.wf_spoil _ | exact fun hp => hp _)

theorem State.ackedBy_keeps {s0 s : State} (e : LinkEnd) (b : Nat) (fack : U16) (hK : Keeps s0 s) :
    Keeps s0 (State.ackedBy s e b fack) := by
  unfold State.ackedBy
  try dsimp only
  repeat' (first | with_reducible assumption | with_reducible apply State.releaseHeld_keeps | with_reducible apply State.setLink_keeps | (intro t b ht; try dsimp only) | split | fail_if_no_progress (with_reducible apply Keeps.mk) | exact id | exact fun _ => Nat.zero_le 4 | exact fun hp => (List.length_take ▸ Nat.le_trans (Nat.min_le_right _ _) (hp _)) | exact Memory.wf_write _ _ | exact Memory.wf_writeAll _ | exact Memory.wf_writeTagged _ _ _ | exact Memory.wf_stage _ _ _ | exact Memory.wf_spoil _ | exact fun hp => hp _)

theorem State.dropFlits_keeps {s0 s : State} (e : LinkEnd) (hK : Keeps s0 s) :
    Keeps s0 (State.dropFlits s e) := by
  unfold State.dropFlits
  try dsimp only
  repeat' (first | with_reducible assumption | with_reducible apply State.forEach_keeps | with_reducible apply State.setBundle_keeps | with_reducible apply State.setLink_keeps | (intro t b ht; try dsimp only) | split | fail_if_no_progress (with_reducible apply Keeps.mk) | exact id | exact fun _ => Nat.zero_le 4 | exact fun hp => (List.length_take ▸ Nat.le_trans (Nat.min_le_right _ _) (hp _)) | exact Memory.wf_write _ _ | exact Memory.wf_writeAll _ | exact Memory.wf_writeTagged _ _ _ | exact Memory.wf_stage _ _ _ | exact Memory.wf_spoil _ | exact fun hp => hp _)

theorem State.tell_keeps {s0 s : State} (a b n : Nat) (payload : List U8) (hK : Keeps s0 s) :
    Keeps s0 (State.tell s a b n payload) := by
  unfold State.tell
  try dsimp only
  repeat' (first | with_reducible assumption | with_reducible apply State.forEach_keeps | with_reducible apply State.offer_keeps | (intro t b ht; try dsimp only) | split | fail_if_no_progress (with_reducible apply Keeps.mk) | exact id | exact fun _ => Nat.zero_le 4 | exact fun hp => (List.length_take ▸ Nat.le_trans (Nat.min_le_right _ _) (hp _)) | exact Memory.wf_write _ _ | exact Memory.wf_writeAll _ | exact Memory.wf_writeTagged _ _ _ | exact Memory.wf_stage _ _ _ | exact Memory.wf_spoil _ | exact fun hp => hp _)

theorem State.fenceNotice_keeps {s0 s : State} (d : Nat) (hK : Keeps s0 s) :
    Keeps s0 (State.fenceNotice s d) := by
  unfold State.fenceNotice
  try dsimp only
  repeat' (first | with_reducible assumption | with_reducible apply State.emit_keeps | with_reducible apply State.fence_keeps | with_reducible apply State.forEach_keeps | with_reducible apply State.offer_keeps | (intro t b ht; try dsimp only) | split | fail_if_no_progress (with_reducible apply Keeps.mk) | exact id | exact fun _ => Nat.zero_le 4 | exact fun hp => (List.length_take ▸ Nat.le_trans (Nat.min_le_right _ _) (hp _)) | exact Memory.wf_write _ _ | exact Memory.wf_writeAll _ | exact Memory.wf_writeTagged _ _ _ | exact Memory.wf_stage _ _ _ | exact Memory.wf_spoil _ | exact fun hp => hp _)

end Sys2Proof.Machine
end

