-- ==== Sys2Proof/Laws/KeepsOps.lean ====
section
/-! SUPPORT. Every operation of Machine/Ops.lean leaves the queue as it is and keeps the invariant. -/

set_option linter.unusedVariables false
set_option linter.unusedTactic false
set_option linter.unreachableTactic false

namespace Sys2Proof.Machine

theorem State.startNext_keeps {s0 s : State} (n : Nat) (h : Keeps s0 s) : Keeps s0 (s.startNext n) := by
  unfold State.startNext
  dsimp only
  split
  · rename_i sub rest hp
    split
    · refine Keeps.mk ?_
      refine State.updRec_keeps n _ h (fun hl => ?_)
      rw [hp] at hl
      exact Nat.le_of_succ_le hl
    · exact h
  · exact h

theorem State.issueInitial_keeps {s0 s : State} (n : Nat) (b : Bound) (hK : Keeps s0 s) :
    Keeps s0 (State.issueInitial s n b) := by
  unfold State.issueInitial
  try dsimp only
  repeat' (first | with_reducible assumption | with_reducible apply State.forEach_keeps | with_reducible apply State.tell_keeps | (intro t b ht; try dsimp only) | split | fail_if_no_progress (with_reducible apply Keeps.mk) | exact id | exact fun _ => Nat.zero_le 4 | exact fun hp => (List.length_take ▸ Nat.le_trans (Nat.min_le_right _ _) (hp _)) | exact Memory.wf_write _ _ | exact Memory.wf_writeAll _ | exact Memory.wf_writeTagged _ _ _ | exact Memory.wf_stage _ _ _ | exact Memory.wf_spoil _ | exact fun hp => hp _)

theorem State.enterRunning_keeps {s0 s : State} (n : Nat) (b : Bound) (outTotal : Nat) (hK : Keeps s0 s) :
    Keeps s0 (State.enterRunning s n b outTotal) := by
  unfold State.enterRunning
  try dsimp only
  repeat' (first | with_reducible assumption | with_reducible apply State.issueInitial_keeps | with_reducible apply State.updRec_keeps | (intro t b ht; try dsimp only) | split | fail_if_no_progress (with_reducible apply Keeps.mk) | exact id | exact fun _ => Nat.zero_le 4 | exact fun hp => (List.length_take ▸ Nat.le_trans (Nat.min_le_right _ _) (hp _)) | exact Memory.wf_write _ _ | exact Memory.wf_writeAll _ | exact Memory.wf_writeTagged _ _ _ | exact Memory.wf_stage _ _ _ | exact Memory.wf_spoil _ | exact fun hp => hp _)

theorem State.grantLoop_keeps {s0 : State} : ∀ (l k : List WaitingBind) {s : State} (_ : Keeps s0 s), Keeps s0 (s.grantLoop l k) := by
  intro l
  induction l with
  | nil => intro k s h; exact Keeps.mk h
  | cons w l ih =>
    intro k s h
    unfold State.grantLoop
    split
    · apply ih
      split
      · exact State.enterRunning_keeps _ _ _ h
      · exact h
    · exact ih _ h

theorem State.grantSlots_keeps {s0 s : State} (h : Keeps s0 s) : Keeps s0 s.grantSlots := State.grantLoop_keeps s.waiting [] h

theorem State.revoke_keeps {s0 s : State} (n : Nat) (hK : Keeps s0 s) :
    Keeps s0 (State.revoke s n) := by
  unfold State.revoke
  try dsimp only
  repeat' (first | with_reducible assumption | with_reducible apply State.bound_keeps | with_reducible apply State.setStream_keeps | (intro t b ht; try dsimp only) | split | fail_if_no_progress (with_reducible apply Keeps.mk) | exact id | exact fun _ => Nat.zero_le 4 | exact fun hp => (List.length_take ▸ Nat.le_trans (Nat.min_le_right _ _) (hp _)) | exact Memory.wf_write _ _ | exact Memory.wf_writeAll _ | exact Memory.wf_writeTagged _ _ _ | exact Memory.wf_stage _ _ _ | exact Memory.wf_spoil _ | exact fun hp => hp _)

theorem State.abandon_keeps {s0 s : State} (n : Nat) (hK : Keeps s0 s) :
    Keeps s0 (State.abandon s n) := by
  unfold State.abandon
  try dsimp only
  repeat' (first | with_reducible assumption | (intro t b ht; try dsimp only) | split | fail_if_no_progress (with_reducible apply Keeps.mk) | exact id | exact fun _ => Nat.zero_le 4 | exact fun hp => (List.length_take ▸ Nat.le_trans (Nat.min_le_right _ _) (hp _)) | exact Memory.wf_write _ _ | exact Memory.wf_writeAll _ | exact Memory.wf_writeTagged _ _ _ | exact Memory.wf_stage _ _ _ | exact Memory.wf_spoil _ | exact fun hp => hp _)

theorem Stream.endRec_pend (x : Stream) (st : SState) (code unit : U16) (ticks : U32) (hx : x.pend.length ≤ 4) :
    (x.endRec st code unit ticks).pend.length ≤ 4 := by
  unfold Stream.endRec
  dsimp only
  split
  · exact hx
  · exact Nat.zero_le 4

theorem State.endSubmission_keeps {s0 s : State} (n : Nat) (st : SState) (code unit : U16) (h : Keeps s0 s) :
    Keeps s0 (s.endSubmission n st code unit) := by
  have h1 : Keeps s0 (s.updRec n (fun x => x.endRec st code unit (Config.freeTicks s.free))).draw :=
    State.draw_keeps (State.updRec_keeps n _ h (Stream.endRec_pend _ st code unit _))
  unfold State.endSubmission
  dsimp only
  refine State.startNext_keeps n (State.grantSlots_keeps (State.abandon_keeps n (State.revoke_keeps n ?_)))
  split
  · exact State.raise_keeps _ _ h1
  · exact h1

theorem State.failStream_keeps {s0 s : State} (n : Nat) (code unit : U16) (hK : Keeps s0 s) :
    Keeps s0 (State.failStream s n code unit) := by
  unfold State.failStream
  try dsimp only
  repeat' (first | with_reducible assumption | with_reducible apply State.endSubmission_keeps | (intro t b ht; try dsimp only) | split | fail_if_no_progress (with_reducible apply Keeps.mk) | exact id | exact fun _ => Nat.zero_le 4 | exact fun hp => (List.length_take ▸ Nat.le_trans (Nat.min_le_right _ _) (hp _)) | exact Memory.wf_write _ _ | exact Memory.wf_writeAll _ | exact Memory.wf_writeTagged _ _ _ | exact Memory.wf_stage _ _ _ | exact Memory.wf_spoil _ | exact fun hp => hp _)

theorem State.forceFail_keeps {s0 s : State} (n : Nat) (code unit : U16) (hK : Keeps s0 s) :
    Keeps s0 (State.forceFail s n code unit) := by
  unfold State.forceFail
  try dsimp only
  repeat' (first | with_reducible assumption | with_reducible apply State.endSubmission_keeps | (intro t b ht; try dsimp only) | split | fail_if_no_progress (with_reducible apply Keeps.mk) | exact id | exact fun _ => Nat.zero_le 4 | exact fun hp => (List.length_take ▸ Nat.le_trans (Nat.min_le_right _ _) (hp _)) | exact Memory.wf_write _ _ | exact Memory.wf_writeAll _ | exact Memory.wf_writeTagged _ _ _ | exact Memory.wf_stage _ _ _ | exact Memory.wf_spoil _ | exact fun hp => hp _)

theorem State.drainDone_keeps {s0 s : State} (n : Nat) (hK : Keeps s0 s) :
    Keeps s0 (State.drainDone s n) := by
  unfold State.drainDone
  try dsimp only
  repeat' (first | with_reducible assumption | with_reducible apply State.endSubmission_keeps | (intro t b ht; try dsimp only) | split | fail_if_no_progress (with_reducible apply Keeps.mk) | exact id | exact fun _ => Nat.zero_le 4 | exact fun hp => (List.length_take ▸ Nat.le_trans (Nat.min_le_right _ _) (hp _)) | exact Memory.wf_write _ _ | exact Memory.wf_writeAll _ | exact Memory.wf_writeTagged _ _ _ | exact Memory.wf_stage _ _ _ | exact Memory.wf_spoil _ | exact fun hp => hp _)

theorem State.clearFiring_keeps {s0 s : State} (u j : Nat) (hK : Keeps s0 s) :
    Keeps s0 (State.clearFiring s u j) := by
  unfold State.clearFiring
  try dsimp only
  repeat' (first | with_reducible assumption | with_reducible apply State.updJob_keeps | (intro t b ht; try dsimp only) | split | fail_if_no_progress (with_reducible apply Keeps.mk) | exact id | exact fun _ => Nat.zero_le 4 | exact fun hp => (List.length_take ▸ Nat.le_trans (Nat.min_le_right _ _) (hp _)) | exact Memory.wf_write _ _ | exact Memory.wf_writeAll _ | exact Memory.wf_writeTagged _ _ _ | exact Memory.wf_stage _ _ _ | exact Memory.wf_spoil _ | exact fun hp => hp _)

theorem State.freeAfterFiring_keeps {s0 s : State} (u n : Nat) (hK : Keeps s0 s) :
    Keeps s0 (State.freeAfterFiring s u n) := by
  unfold State.freeAfterFiring
  try dsimp only
  repeat' (first | with_reducible assumption | with_reducible apply State.abandon_keeps | with_reducible apply State.bound_keeps | with_reducible apply State.clearFiring_keeps | with_reducible apply State.grantSlots_keeps | with_reducible apply State.setStream_keeps | with_reducible apply State.startNext_keeps | with_reducible apply State.updEngine_keeps | (intro t b ht; try dsimp only) | split | fail_if_no_progress (with_reducible apply Keeps.mk) | exact id | exact fun _ => Nat.zero_le 4 | exact fun hp => (List.length_take ▸ Nat.le_trans (Nat.min_le_right _ _) (hp _)) | exact Memory.wf_write _ _ | exact Memory.wf_writeAll _ | exact Memory.wf_writeTagged _ _ _ | exact Memory.wf_stage _ _ _ | exact Memory.wf_spoil _ | exact fun hp => hp _)

theorem State.dueNow_keeps {s0 s : State} (u : Nat) (hK : Keeps s0 s) :
    Keeps s0 (State.dueNow s u) := by
  unfold State.dueNow
  try dsimp only
  repeat' (first | with_reducible assumption | with_reducible apply State.setTune_keeps | (intro t b ht; try dsimp only) | split | fail_if_no_progress (with_reducible apply Keeps.mk) | exact id | exact fun _ => Nat.zero_le 4 | exact fun hp => (List.length_take ▸ Nat.le_trans (Nat.min_le_right _ _) (hp _)) | exact Memory.wf_write _ _ | exact Memory.wf_writeAll _ | exact Memory.wf_writeTagged _ _ _ | exact Memory.wf_stage _ _ _ | exact Memory.wf_spoil _ | exact fun hp => hp _)

theorem State.noteCollFail_keeps {s0 s : State} (base group stream : Nat) (code : U16) (hK : Keeps s0 s) :
    Keeps s0 (State.noteCollFail s base group stream code) := by
  unfold State.noteCollFail
  try dsimp only
  repeat' (first | with_reducible assumption | with_reducible apply State.raise_keeps | with_reducible apply State.setReg_keeps | (intro t b ht; try dsimp only) | split | fail_if_no_progress (with_reducible apply Keeps.mk) | exact id | exact fun _ => Nat.zero_le 4 | exact fun hp => (List.length_take ▸ Nat.le_trans (Nat.min_le_right _ _) (hp _)) | exact Memory.wf_write _ _ | exact Memory.wf_writeAll _ | exact Memory.wf_writeTagged _ _ _ | exact Memory.wf_stage _ _ _ | exact Memory.wf_spoil _ | exact fun hp => hp _)

theorem State.noteUnitFail_keeps {s0 s : State} (u : Nat) (code : U16) (hK : Keeps s0 s) :
    Keeps s0 (State.noteUnitFail s u code) := by
  unfold State.noteUnitFail
  try dsimp only
  repeat' (first | with_reducible assumption | with_reducible apply State.noteCollFail_keeps | (intro t b ht; try dsimp only) | split | fail_if_no_progress (with_reducible apply Keeps.mk) | exact id | exact fun _ => Nat.zero_le 4 | exact fun hp => (List.length_take ▸ Nat.le_trans (Nat.min_le_right _ _) (hp _)) | exact Memory.wf_write _ _ | exact Memory.wf_writeAll _ | exact Memory.wf_writeTagged _ _ _ | exact Memory.wf_stage _ _ _ | exact Memory.wf_spoil _ | exact fun hp => hp _)

theorem State.releaseQuad_keeps {s0 s : State} (u : Nat) (hK : Keeps s0 s) :
    Keeps s0 (State.releaseQuad s u) := by
  unfold State.releaseQuad
  try dsimp only
  repeat' (first | with_reducible assumption | with_reducible apply State.forEach_keeps | with_reducible apply State.updEngine_keeps | (intro t b ht; try dsimp only) | split | fail_if_no_progress (with_reducible apply Keeps.mk) | exact id | exact fun _ => Nat.zero_le 4 | exact fun hp => (List.length_take ▸ Nat.le_trans (Nat.min_le_right _ _) (hp _)) | exact Memory.wf_write _ _ | exact Memory.wf_writeAll _ | exact Memory.wf_writeTagged _ _ _ | exact Memory.wf_stage _ _ _ | exact Memory.wf_spoil _ | exact fun hp => hp _)

theorem State.boundary_keeps {s0 s : State} (u : Nat) (hK : Keeps s0 s) :
    Keeps s0 (State.boundary s u) := by
  unfold State.boundary
  try dsimp only
  repeat' (first | with_reducible assumption | with_reducible apply State.clearFiring_keeps | with_reducible apply State.releaseQuad_keeps | with_reducible apply State.updEngine_keeps | (intro t b ht; try dsimp only) | split | fail_if_no_progress (with_reducible apply Keeps.mk) | exact id | exact fun _ => Nat.zero_le 4 | exact fun hp => (List.length_take ▸ Nat.le_trans (Nat.min_le_right _ _) (hp _)) | exact Memory.wf_write _ _ | exact Memory.wf_writeAll _ | exact Memory.wf_writeTagged _ _ _ | exact Memory.wf_stage _ _ _ | exact Memory.wf_spoil _ | exact fun hp => hp _)

theorem State.updSlot_keeps {s0 s : State} (n i : Nat) (f : BNode → BNode) (hK : Keeps s0 s) :
    Keeps s0 (State.updSlot s n i f) := by
  unfold State.updSlot
  try dsimp only
  repeat' (first | with_reducible assumption | with_reducible apply State.bound_keeps | with_reducible apply State.setStream_keeps | (intro t b ht; try dsimp only) | split | fail_if_no_progress (with_reducible apply Keeps.mk) | exact id | exact fun _ => Nat.zero_le 4 | exact fun hp => (List.length_take ▸ Nat.le_trans (Nat.min_le_right _ _) (hp _)) | exact Memory.wf_write _ _ | exact Memory.wf_writeAll _ | exact Memory.wf_writeTagged _ _ _ | exact Memory.wf_stage _ _ _ | exact Memory.wf_spoil _ | exact fun hp => hp _)

theorem State.detectedFault_keeps {s0 s : State} (u : Nat) (code : U16) (hK : Keeps s0 s) :
    Keeps s0 (State.detectedFault s u code) := by
  unfold State.detectedFault
  try dsimp only
  repeat' (first | with_reducible assumption | with_reducible apply State.boundary_keeps | with_reducible apply State.failStream_keeps | with_reducible apply State.freeAfterFiring_keeps | with_reducible apply State.noteUnitFail_keeps | with_reducible apply State.postFlags_keeps | with_reducible apply State.recordStream_keeps | with_reducible apply State.updSlot_keeps | (intro t b ht; try dsimp only) | split | fail_if_no_progress (with_reducible apply Keeps.mk) | exact id | exact fun _ => Nat.zero_le 4 | exact fun hp => (List.length_take ▸ Nat.le_trans (Nat.min_le_right _ _) (hp _)) | exact Memory.wf_write _ _ | exact Memory.wf_writeAll _ | exact Memory.wf_writeTagged _ _ _ | exact Memory.wf_stage _ _ _ | exact Memory.wf_spoil _ | exact fun hp => hp _)

theorem State.failFiring_keeps {s0 s : State} (u : Nat) (code : U16) (hK : Keeps s0 s) :
    Keeps s0 (State.failFiring s u code) := by
  unfold State.failFiring
  try dsimp only
  repeat' (first | with_reducible assumption | with_reducible apply State.boundary_keeps | with_reducible apply State.failStream_keeps | with_reducible apply State.freeAfterFiring_keeps | with_reducible apply State.noteUnitFail_keeps | with_reducible apply State.postFlags_keeps | (intro t b ht; try dsimp only) | split | fail_if_no_progress (with_reducible apply Keeps.mk) | exact id | exact fun _ => Nat.zero_le 4 | exact fun hp => (List.length_take ▸ Nat.le_trans (Nat.min_le_right _ _) (hp _)) | exact Memory.wf_write _ _ | exact Memory.wf_writeAll _ | exact Memory.wf_writeTagged _ _ _ | exact Memory.wf_stage _ _ _ | exact Memory.wf_spoil _ | exact fun hp => hp _)

theorem State.noteTransient_keeps {s0 s : State} (u n : Nat) (code : U16) (hK : Keeps s0 s) :
    Keeps s0 (State.noteTransient s u n code) := by
  unfold State.noteTransient
  try dsimp only
  repeat' (first | with_reducible assumption | with_reducible apply State.countSat_keeps | with_reducible apply State.dueNow_keeps | with_reducible apply State.recordStream_keeps | with_reducible apply State.setTune_keeps | (intro t b ht; try dsimp only) | split | fail_if_no_progress (with_reducible apply Keeps.mk) | exact id | exact fun _ => Nat.zero_le 4 | exact fun hp => (List.length_take ▸ Nat.le_trans (Nat.min_le_right _ _) (hp _)) | exact Memory.wf_write _ _ | exact Memory.wf_writeAll _ | exact Memory.wf_writeTagged _ _ _ | exact Memory.wf_stage _ _ _ | exact Memory.wf_spoil _ | exact fun hp => hp _)

end Sys2Proof.Machine
end

