-- ==== Sys2Proof/Laws/KeepsFabricOps.lean ====
section
/-! SUPPORT. Every operation of Machine/FabricOps.lean leaves the queue as it is and keeps the invariant. -/

set_option linter.unusedVariables false
set_option linter.unusedTactic false
set_option linter.unreachableTactic false

namespace Sys2Proof.Machine

theorem State.countDrop_keeps {s0 s : State} (p : Nat) (hK : Keeps s0 s) :
    Keeps s0 (State.countDrop s p) := by
  unfold State.countDrop
  try dsimp only
  repeat' (first | with_reducible assumption | with_reducible apply State.countSat_keeps | (intro t b ht; try dsimp only) | split | fail_if_no_progress (with_reducible apply Keeps.mk) | exact id | exact fun _ => Nat.zero_le 4 | exact fun hp => (List.length_take ▸ Nat.le_trans (Nat.min_le_right _ _) (hp _)) | exact Memory.wf_write _ _ | exact Memory.wf_writeAll _ | exact Memory.wf_writeTagged _ _ _ | exact Memory.wf_stage _ _ _ | exact Memory.wf_spoil _ | exact fun hp => hp _)

theorem State.enqueue_keeps {s0 s : State} (p : Nat) (f : Frame) (hK : Keeps s0 s) :
    Keeps s0 (State.enqueue s p f) := by
  unfold State.enqueue
  try dsimp only
  repeat' (first | with_reducible assumption | with_reducible apply State.countSat_keeps | with_reducible apply State.setPort_keeps | (intro t b ht; try dsimp only) | split | fail_if_no_progress (with_reducible apply Keeps.mk) | exact id | exact fun _ => Nat.zero_le 4 | exact fun hp => (List.length_take ▸ Nat.le_trans (Nat.min_le_right _ _) (hp _)) | exact Memory.wf_write _ _ | exact Memory.wf_writeAll _ | exact Memory.wf_writeTagged _ _ _ | exact Memory.wf_stage _ _ _ | exact Memory.wf_spoil _ | exact fun hp => hp _)

theorem State.sendFrame_keeps {s0 s : State} (f : Frame) (hK : Keeps s0 s) :
    Keeps s0 (State.sendFrame s f).1 := by
  unfold State.sendFrame
  try dsimp only
  repeat' (first | with_reducible assumption | with_reducible apply State.countDrop_keeps | with_reducible apply State.enqueue_keeps | (intro t b ht; try dsimp only) | split | fail_if_no_progress (with_reducible apply Keeps.mk) | exact id | exact fun _ => Nat.zero_le 4 | exact fun hp => (List.length_take ▸ Nat.le_trans (Nat.min_le_right _ _) (hp _)) | exact Memory.wf_write _ _ | exact Memory.wf_writeAll _ | exact Memory.wf_writeTagged _ _ _ | exact Memory.wf_stage _ _ _ | exact Memory.wf_spoil _ | exact fun hp => hp _)

theorem State.send_keeps {s0 s : State} (f : Frame) (hK : Keeps s0 s) :
    Keeps s0 (State.send s f) := by
  unfold State.send
  try dsimp only
  repeat' (first | with_reducible assumption | with_reducible apply State.sendFrame_keeps | (intro t b ht; try dsimp only) | split | fail_if_no_progress (with_reducible apply Keeps.mk) | exact id | exact fun _ => Nat.zero_le 4 | exact fun hp => (List.length_take ▸ Nat.le_trans (Nat.min_le_right _ _) (hp _)) | exact Memory.wf_write _ _ | exact Memory.wf_writeAll _ | exact Memory.wf_writeTagged _ _ _ | exact Memory.wf_stage _ _ _ | exact Memory.wf_spoil _ | exact fun hp => hp _)

theorem State.broadcastOn_keeps {s0 s : State} (mask : Nat) (f : Frame) (hK : Keeps s0 s) :
    Keeps s0 (State.broadcastOn s mask f) := by
  unfold State.broadcastOn
  try dsimp only
  repeat' (first | with_reducible assumption | with_reducible apply State.countDrop_keeps | with_reducible apply State.enqueue_keeps | with_reducible apply State.forEach_keeps | (intro t b ht; try dsimp only) | split | fail_if_no_progress (with_reducible apply Keeps.mk) | exact id | exact fun _ => Nat.zero_le 4 | exact fun hp => (List.length_take ▸ Nat.le_trans (Nat.min_le_right _ _) (hp _)) | exact Memory.wf_write _ _ | exact Memory.wf_writeAll _ | exact Memory.wf_writeTagged _ _ _ | exact Memory.wf_stage _ _ _ | exact Memory.wf_spoil _ | exact fun hp => hp _)

theorem State.broadcast_keeps {s0 s : State} (f : Frame) (hK : Keeps s0 s) :
    Keeps s0 (State.broadcast s f) := by
  unfold State.broadcast
  try dsimp only
  repeat' (first | with_reducible assumption | with_reducible apply State.broadcastOn_keeps | (intro t b ht; try dsimp only) | split | fail_if_no_progress (with_reducible apply Keeps.mk) | exact id | exact fun _ => Nat.zero_le 4 | exact fun hp => (List.length_take ▸ Nat.le_trans (Nat.min_le_right _ _) (hp _)) | exact Memory.wf_write _ _ | exact Memory.wf_writeAll _ | exact Memory.wf_writeTagged _ _ _ | exact Memory.wf_stage _ _ _ | exact Memory.wf_spoil _ | exact fun hp => hp _)

theorem State.setColl_keeps {s0 s : State} (c : Coll) (hK : Keeps s0 s) :
    Keeps s0 (State.setColl s c) := by
  unfold State.setColl
  try dsimp only
  repeat' (first | with_reducible assumption | (intro t b ht; try dsimp only) | split | fail_if_no_progress (with_reducible apply Keeps.mk) | exact id | exact fun _ => Nat.zero_le 4 | exact fun hp => (List.length_take ▸ Nat.le_trans (Nat.min_le_right _ _) (hp _)) | exact Memory.wf_write _ _ | exact Memory.wf_writeAll _ | exact Memory.wf_writeTagged _ _ _ | exact Memory.wf_stage _ _ _ | exact Memory.wf_spoil _ | exact fun hp => hp _)

theorem State.collLost_keeps {s0 s : State} (c : Coll) (f : Frame) (hK : Keeps s0 s) :
    Keeps s0 (State.collLost s c f) := by
  unfold State.collLost
  try dsimp only
  repeat' (first | with_reducible assumption | with_reducible apply State.detectedFault_keeps | with_reducible apply State.setColl_keeps | (intro t b ht; try dsimp only) | split | fail_if_no_progress (with_reducible apply Keeps.mk) | exact id | exact fun _ => Nat.zero_le 4 | exact fun hp => (List.length_take ▸ Nat.le_trans (Nat.min_le_right _ _) (hp _)) | exact Memory.wf_write _ _ | exact Memory.wf_writeAll _ | exact Memory.wf_writeTagged _ _ _ | exact Memory.wf_stage _ _ _ | exact Memory.wf_spoil _ | exact fun hp => hp _)

theorem State.lostOwn_keeps {s0 s : State} (f : Frame) (hK : Keeps s0 s) :
    Keeps s0 (State.lostOwn s f) := by
  unfold State.lostOwn
  try dsimp only
  repeat' (first | with_reducible assumption | with_reducible apply State.collLost_keeps | with_reducible apply State.detectedFault_keeps | (intro t b ht; try dsimp only) | split | fail_if_no_progress (with_reducible apply Keeps.mk) | exact id | exact fun _ => Nat.zero_le 4 | exact fun hp => (List.length_take ▸ Nat.le_trans (Nat.min_le_right _ _) (hp _)) | exact Memory.wf_write _ _ | exact Memory.wf_writeAll _ | exact Memory.wf_writeTagged _ _ _ | exact Memory.wf_stage _ _ _ | exact Memory.wf_spoil _ | exact fun hp => hp _)

theorem State.sendOwn_keeps {s0 s : State} (f : Frame) (hK : Keeps s0 s) :
    Keeps s0 (State.sendOwn s f) := by
  unfold State.sendOwn
  try dsimp only
  repeat' (first | with_reducible assumption | with_reducible apply State.lostOwn_keeps | with_reducible apply State.sendFrame_keeps | (intro t b ht; try dsimp only) | split | fail_if_no_progress (with_reducible apply Keeps.mk) | exact id | exact fun _ => Nat.zero_le 4 | exact fun hp => (List.length_take ▸ Nat.le_trans (Nat.min_le_right _ _) (hp _)) | exact Memory.wf_write _ _ | exact Memory.wf_writeAll _ | exact Memory.wf_writeTagged _ _ _ | exact Memory.wf_stage _ _ _ | exact Memory.wf_spoil _ | exact fun hp => hp _)

theorem State.stopTwin_keeps {s0 s : State}  (hK : Keeps s0 s) :
    Keeps s0 (State.stopTwin s) := by
  unfold State.stopTwin
  try dsimp only
  repeat' (first | with_reducible assumption | with_reducible apply State.raise_keeps | (intro t b ht; try dsimp only) | split | fail_if_no_progress (with_reducible apply Keeps.mk) | exact id | exact fun _ => Nat.zero_le 4 | exact fun hp => (List.length_take ▸ Nat.le_trans (Nat.min_le_right _ _) (hp _)) | exact Memory.wf_write _ _ | exact Memory.wf_writeAll _ | exact Memory.wf_writeTagged _ _ _ | exact Memory.wf_stage _ _ _ | exact Memory.wf_spoil _ | exact fun hp => hp _)

theorem State.slowLost_keeps {s0 s : State} (u : Nat) (hK : Keeps s0 s) :
    Keeps s0 (State.slowLost s u) := by
  unfold State.slowLost
  try dsimp only
  repeat' (first | with_reducible assumption | with_reducible apply State.detectedFault_keeps | with_reducible apply State.stopTwin_keeps | (intro t b ht; try dsimp only) | split | fail_if_no_progress (with_reducible apply Keeps.mk) | exact id | exact fun _ => Nat.zero_le 4 | exact fun hp => (List.length_take ▸ Nat.le_trans (Nat.min_le_right _ _) (hp _)) | exact Memory.wf_write _ _ | exact Memory.wf_writeAll _ | exact Memory.wf_writeTagged _ _ _ | exact Memory.wf_stage _ _ _ | exact Memory.wf_spoil _ | exact fun hp => hp _)

theorem State.loseLink_keeps {s0 s : State} (p : Nat) (cause : Nat) (hK : Keeps s0 s) :
    Keeps s0 (State.loseLink s p cause) := by
  unfold State.loseLink
  try dsimp only
  repeat' (first | with_reducible assumption | with_reducible apply State.countDrop_keeps | with_reducible apply State.countWrap_keeps | with_reducible apply State.enqueue_keeps | with_reducible apply State.forEach_keeps | with_reducible apply State.lostOwn_keeps | with_reducible apply State.raise_keeps | with_reducible apply State.record_keeps | with_reducible apply State.setPort_keeps | with_reducible apply State.stopTwin_keeps | (intro t b ht; try dsimp only) | split | fail_if_no_progress (with_reducible apply Keeps.mk) | exact id | exact fun _ => Nat.zero_le 4 | exact fun hp => (List.length_take ▸ Nat.le_trans (Nat.min_le_right _ _) (hp _)) | exact Memory.wf_write _ _ | exact Memory.wf_writeAll _ | exact Memory.wf_writeTagged _ _ _ | exact Memory.wf_stage _ _ _ | exact Memory.wf_spoil _ | exact fun hp => hp _)

theorem State.tryUp_keeps {s0 s : State} (p : Nat) (hK : Keeps s0 s) :
    Keeps s0 (State.tryUp s p) := by
  unfold State.tryUp
  try dsimp only
  repeat' (first | with_reducible assumption | with_reducible apply State.raise_keeps | with_reducible apply State.setPort_keeps | (intro t b ht; try dsimp only) | split | fail_if_no_progress (with_reducible apply Keeps.mk) | exact id | exact fun _ => Nat.zero_le 4 | exact fun hp => (List.length_take ▸ Nat.le_trans (Nat.min_le_right _ _) (hp _)) | exact Memory.wf_write _ _ | exact Memory.wf_writeAll _ | exact Memory.wf_writeTagged _ _ _ | exact Memory.wf_stage _ _ _ | exact Memory.wf_spoil _ | exact fun hp => hp _)

end Sys2Proof.Machine
end

