-- ==== Sys2Proof/Laws/KeepsDieLoss.lean ====
section
/-! SUPPORT. Every operation of Machine/DieLoss.lean leaves the queue as it is and keeps the invariant. -/

set_option linter.unusedVariables false
set_option linter.unusedTactic false
set_option linter.unreachableTactic false

namespace Sys2Proof.Machine

theorem State.dropUnits_keeps {s0 s : State} (us : List Nat) (hK : Keeps s0 s) :
    Keeps s0 (State.dropUnits s us) := by
  unfold State.dropUnits
  try dsimp only
  repeat' (first | with_reducible assumption | with_reducible apply State.bound_keeps | with_reducible apply State.forEach_keeps | with_reducible apply State.setStream_keeps | (intro t b ht; try dsimp only) | split | fail_if_no_progress (with_reducible apply Keeps.mk) | exact id | exact fun _ => Nat.zero_le 4 | exact fun hp => (List.length_take ▸ Nat.le_trans (Nat.min_le_right _ _) (hp _)) | exact Memory.wf_write _ _ | exact Memory.wf_writeAll _ | exact Memory.wf_writeTagged _ _ _ | exact Memory.wf_stage _ _ _ | exact Memory.wf_spoil _ | exact fun hp => hp _)

theorem State.fencedCompletion_keeps {s0 s : State} (n : Nat) (unit : U16) (hK : Keeps s0 s) :
    Keeps s0 (State.fencedCompletion s n unit) := by
  unfold State.fencedCompletion
  try dsimp only
  repeat' (first | with_reducible assumption | with_reducible apply State.bound_keeps | with_reducible apply State.drainDone_keeps | with_reducible apply State.failStream_keeps | with_reducible apply State.grantSlots_keeps | with_reducible apply State.setStream_keeps | with_reducible apply State.startNext_keeps | (intro t b ht; try dsimp only) | split | fail_if_no_progress (with_reducible apply Keeps.mk) | exact id | exact fun _ => Nat.zero_le 4 | exact fun hp => (List.length_take ▸ Nat.le_trans (Nat.min_le_right _ _) (hp _)) | exact Memory.wf_write _ _ | exact Memory.wf_writeAll _ | exact Memory.wf_writeTagged _ _ _ | exact Memory.wf_stage _ _ _ | exact Memory.wf_spoil _ | exact fun hp => hp _)

theorem State.fenceLink_keeps {s0 s : State} (e : LinkEnd) (hK : Keeps s0 s) :
    Keeps s0 (State.fenceLink s e) := by
  unfold State.fenceLink
  try dsimp only
  repeat' (first | with_reducible assumption | with_reducible apply State.dropFlits_keeps | with_reducible apply State.setLink_keeps | (intro t b ht; try dsimp only) | split | fail_if_no_progress (with_reducible apply Keeps.mk) | exact id | exact fun _ => Nat.zero_le 4 | exact fun hp => (List.length_take ▸ Nat.le_trans (Nat.min_le_right _ _) (hp _)) | exact Memory.wf_write _ _ | exact Memory.wf_writeAll _ | exact Memory.wf_writeTagged _ _ _ | exact Memory.wf_stage _ _ _ | exact Memory.wf_spoil _ | exact fun hp => hp _)

theorem State.peerDown_keeps {s0 s : State} (e : LinkEnd) (hK : Keeps s0 s) :
    Keeps s0 (State.peerDown s e) := by
  unfold State.peerDown
  try dsimp only
  repeat' (first | with_reducible assumption | with_reducible apply State.raise_keeps | (intro t b ht; try dsimp only) | split | fail_if_no_progress (with_reducible apply Keeps.mk) | exact id | exact fun _ => Nat.zero_le 4 | exact fun hp => (List.length_take ▸ Nat.le_trans (Nat.min_le_right _ _) (hp _)) | exact Memory.wf_write _ _ | exact Memory.wf_writeAll _ | exact Memory.wf_writeTagged _ _ _ | exact Memory.wf_stage _ _ _ | exact Memory.wf_spoil _ | exact fun hp => hp _)

theorem State.computeDown_keeps {s0 s : State} (d cause : Nat) (hK : Keeps s0 s) :
    Keeps s0 (State.computeDown s d cause) := by
  unfold State.computeDown
  try dsimp only
  repeat' (first | with_reducible assumption | with_reducible apply State.capChanged_keeps | with_reducible apply State.dropUnits_keeps | with_reducible apply State.fenceLink_keeps | with_reducible apply State.fenceNotice_keeps | with_reducible apply State.fencedCompletion_keeps | with_reducible apply State.forEach_keeps | with_reducible apply State.peerDown_keeps | with_reducible apply State.record_keeps | with_reducible apply State.updDie_keeps | (intro t b ht; try dsimp only) | split | fail_if_no_progress (with_reducible apply Keeps.mk) | exact id | exact fun _ => Nat.zero_le 4 | exact fun hp => (List.length_take ▸ Nat.le_trans (Nat.min_le_right _ _) (hp _)) | exact Memory.wf_write _ _ | exact Memory.wf_writeAll _ | exact Memory.wf_writeTagged _ _ _ | exact Memory.wf_stage _ _ _ | exact Memory.wf_spoil _ | exact fun hp => hp _)

theorem State.portsDown_keeps {s0 s : State} (b : Nat) (hK : Keeps s0 s) :
    Keeps s0 (State.portsDown s b) := by
  unfold State.portsDown
  try dsimp only
  repeat' (first | with_reducible assumption | with_reducible apply State.forEach_keeps | with_reducible apply State.loseLink_keeps | (intro t b ht; try dsimp only) | split | fail_if_no_progress (with_reducible apply Keeps.mk) | exact id | exact fun _ => Nat.zero_le 4 | exact fun hp => (List.length_take ▸ Nat.le_trans (Nat.min_le_right _ _) (hp _)) | exact Memory.wf_write _ _ | exact Memory.wf_writeAll _ | exact Memory.wf_writeTagged _ _ _ | exact Memory.wf_stage _ _ _ | exact Memory.wf_spoil _ | exact fun hp => hp _)

theorem State.outerDown_keeps {s0 s : State} (b cause : Nat) (hK : Keeps s0 s) :
    Keeps s0 (State.outerDown s b cause) := by
  unfold State.outerDown
  try dsimp only
  repeat' (first | with_reducible assumption | with_reducible apply State.capChanged_keeps | with_reducible apply State.dropUnits_keeps | with_reducible apply State.fenceLink_keeps | with_reducible apply State.fencedCompletion_keeps | with_reducible apply State.forEach_keeps | with_reducible apply State.forceFail_keeps | with_reducible apply State.peerDown_keeps | with_reducible apply State.portsDown_keeps | with_reducible apply State.record_keeps | with_reducible apply State.updDie_keeps | (intro t b ht; try dsimp only) | split | fail_if_no_progress (with_reducible apply Keeps.mk) | exact id | exact fun _ => Nat.zero_le 4 | exact fun hp => (List.length_take ▸ Nat.le_trans (Nat.min_le_right _ _) (hp _)) | exact Memory.wf_write _ _ | exact Memory.wf_writeAll _ | exact Memory.wf_writeTagged _ _ _ | exact Memory.wf_stage _ _ _ | exact Memory.wf_spoil _ | exact fun hp => hp _)

theorem State.loseCentre_keeps {s0 s : State} (h : Keeps s0 s) : Keeps s0 s.loseCentre := Keeps.clear h rfl id rfl rfl rfl

theorem State.centreDown_keeps {s0 s : State} (cause : Nat) (hK : Keeps s0 s) :
    Keeps s0 (State.centreDown s cause) := by
  unfold State.centreDown
  try dsimp only
  repeat' (first | with_reducible assumption | with_reducible apply State.fenceLink_keeps | with_reducible apply State.forEach_keeps | with_reducible apply State.loseCentre_keeps | with_reducible apply State.peerDown_keeps | with_reducible apply State.portsDown_keeps | with_reducible apply State.record_keeps | with_reducible apply State.updDie_keeps | (intro t b ht; try dsimp only) | split | fail_if_no_progress (with_reducible apply Keeps.mk) | exact id | exact fun _ => Nat.zero_le 4 | exact fun hp => (List.length_take ▸ Nat.le_trans (Nat.min_le_right _ _) (hp _)) | exact Memory.wf_write _ _ | exact Memory.wf_writeAll _ | exact Memory.wf_writeTagged _ _ _ | exact Memory.wf_stage _ _ _ | exact Memory.wf_spoil _ | exact fun hp => hp _)

theorem State.baseDown_keeps {s0 s : State} (b cause : Nat) (hK : Keeps s0 s) :
    Keeps s0 (State.baseDown s b cause) := by
  unfold State.baseDown
  try dsimp only
  repeat' (first | with_reducible assumption | with_reducible apply State.centreDown_keeps | with_reducible apply State.outerDown_keeps | (intro t b ht; try dsimp only) | split | fail_if_no_progress (with_reducible apply Keeps.mk) | exact id | exact fun _ => Nat.zero_le 4 | exact fun hp => (List.length_take ▸ Nat.le_trans (Nat.min_le_right _ _) (hp _)) | exact Memory.wf_write _ _ | exact Memory.wf_writeAll _ | exact Memory.wf_writeTagged _ _ _ | exact Memory.wf_stage _ _ _ | exact Memory.wf_spoil _ | exact fun hp => hp _)

theorem State.dieDown_keeps {s0 s : State} (d : Die) (cause : Nat) (hK : Keeps s0 s) :
    Keeps s0 (State.dieDown s d cause) := by
  unfold State.dieDown
  try dsimp only
  repeat' (first | with_reducible assumption | with_reducible apply State.baseDown_keeps | with_reducible apply State.computeDown_keeps | (intro t b ht; try dsimp only) | split | fail_if_no_progress (with_reducible apply Keeps.mk) | exact id | exact fun _ => Nat.zero_le 4 | exact fun hp => (List.length_take ▸ Nat.le_trans (Nat.min_le_right _ _) (hp _)) | exact Memory.wf_write _ _ | exact Memory.wf_writeAll _ | exact Memory.wf_writeTagged _ _ _ | exact Memory.wf_stage _ _ _ | exact Memory.wf_spoil _ | exact fun hp => hp _)

end Sys2Proof.Machine
end

