-- ==== Sys2Proof/Laws/KeepsPackage.lean ====
section
/-! SUPPORT. Every operation of Machine/Package.lean leaves the queue as it is and keeps the invariant. -/

set_option linter.unusedVariables false
set_option linter.unusedTactic false
set_option linter.unreachableTactic false

namespace Sys2Proof.Machine

theorem State.moveFlits_keeps {s0 s : State} (e : LinkEnd) (b : Nat) (hK : Keeps s0 s) :
    Keeps s0 (State.moveFlits s e b) := by
  unfold State.moveFlits
  try dsimp only
  repeat' (first | with_reducible assumption | with_reducible apply State.releaseHeld_keeps | with_reducible apply State.setBundle_keeps | with_reducible apply State.setLink_keeps | (intro t b ht; try dsimp only) | split | fail_if_no_progress (with_reducible apply Keeps.mk) | exact id | exact fun _ => Nat.zero_le 4 | exact fun hp => (List.length_take ▸ Nat.le_trans (Nat.min_le_right _ _) (hp _)) | exact Memory.wf_write _ _ | exact Memory.wf_writeAll _ | exact Memory.wf_writeTagged _ _ _ | exact Memory.wf_stage _ _ _ | exact Memory.wf_spoil _ | exact fun hp => hp _)

theorem State.retireBundle_keeps {s0 s : State} (e : LinkEnd) (b why : Nat) (hK : Keeps s0 s) :
    Keeps s0 (State.retireBundle s e b why) := by
  unfold State.retireBundle
  try dsimp only
  repeat' (first | with_reducible assumption | with_reducible apply State.dieDown_keeps | with_reducible apply State.moveFlits_keeps | with_reducible apply State.raise_keeps | with_reducible apply State.record_keeps | with_reducible apply State.setLink_keeps | (intro t b ht; try dsimp only) | split | fail_if_no_progress (with_reducible apply Keeps.mk) | exact id | exact fun _ => Nat.zero_le 4 | exact fun hp => (List.length_take ▸ Nat.le_trans (Nat.min_le_right _ _) (hp _)) | exact Memory.wf_write _ _ | exact Memory.wf_writeAll _ | exact Memory.wf_writeTagged _ _ _ | exact Memory.wf_stage _ _ _ | exact Memory.wf_spoil _ | exact fun hp => hp _)

theorem State.peerLost_keeps {s0 s : State} (e : LinkEnd) (cause : Nat) (hK : Keeps s0 s) :
    Keeps s0 (State.peerLost s e cause) := by
  unfold State.peerLost
  try dsimp only
  repeat' (first | with_reducible assumption | with_reducible apply State.dieDown_keeps | with_reducible apply State.updDie_keeps | (intro t b ht; try dsimp only) | split | fail_if_no_progress (with_reducible apply Keeps.mk) | exact id | exact fun _ => Nat.zero_le 4 | exact fun hp => (List.length_take ▸ Nat.le_trans (Nat.min_le_right _ _) (hp _)) | exact Memory.wf_write _ _ | exact Memory.wf_writeAll _ | exact Memory.wf_writeTagged _ _ _ | exact Memory.wf_stage _ _ _ | exact Memory.wf_spoil _ | exact fun hp => hp _)

theorem State.laneFailed_keeps {s0 s : State} (e : LinkEnd) (b g lane : Nat) (hK : Keeps s0 s) :
    Keeps s0 (State.laneFailed s e b g lane) := by
  unfold State.laneFailed
  try dsimp only
  repeat' (first | with_reducible assumption | with_reducible apply State.raise_keeps | with_reducible apply State.record_keeps | with_reducible apply State.retireBundle_keeps | with_reducible apply State.setLaneGroup_keeps | with_reducible apply State.setReg_keeps | (intro t b ht; try dsimp only) | split | fail_if_no_progress (with_reducible apply Keeps.mk) | exact id | exact fun _ => Nat.zero_le 4 | exact fun hp => (List.length_take ▸ Nat.le_trans (Nat.min_le_right _ _) (hp _)) | exact Memory.wf_write _ _ | exact Memory.wf_writeAll _ | exact Memory.wf_writeTagged _ _ _ | exact Memory.wf_stage _ _ _ | exact Memory.wf_spoil _ | exact fun hp => hp _)

theorem State.groupTested_keeps {s0 s : State} (e : LinkEnd) (b g : Nat) (lanes : List Nat) (prbs : Bool) (hK : Keeps s0 s) :
    Keeps s0 (State.groupTested s e b g lanes prbs) := by
  unfold State.groupTested
  try dsimp only
  repeat' (first | with_reducible assumption | with_reducible apply State.forEach_keeps | with_reducible apply State.laneFailed_keeps | with_reducible apply State.setLaneGroup_keeps | (intro t b ht; try dsimp only) | split | fail_if_no_progress (with_reducible apply Keeps.mk) | exact id | exact fun _ => Nat.zero_le 4 | exact fun hp => (List.length_take ▸ Nat.le_trans (Nat.min_le_right _ _) (hp _)) | exact Memory.wf_write _ _ | exact Memory.wf_writeAll _ | exact Memory.wf_writeTagged _ _ _ | exact Memory.wf_stage _ _ _ | exact Memory.wf_spoil _ | exact fun hp => hp _)

theorem State.endInjection_keeps {s0 s : State} (before : State) (e : LinkEnd) (b : Nat) (hK : Keeps s0 s) :
    Keeps s0 (State.endInjection s before e b) := by
  unfold State.endInjection
  try dsimp only
  repeat' (first | with_reducible assumption | with_reducible apply State.disarm_keeps | (intro t b ht; try dsimp only) | split | fail_if_no_progress (with_reducible apply Keeps.mk) | exact id | exact fun _ => Nat.zero_le 4 | exact fun hp => (List.length_take ▸ Nat.le_trans (Nat.min_le_right _ _) (hp _)) | exact Memory.wf_write _ _ | exact Memory.wf_writeAll _ | exact Memory.wf_writeTagged _ _ _ | exact Memory.wf_stage _ _ _ | exact Memory.wf_spoil _ | exact fun hp => hp _)

theorem State.clockStopped_keeps {s0 s : State} (e : LinkEnd) (b : Nat) (hK : Keeps s0 s) :
    Keeps s0 (State.clockStopped s e b) := by
  unfold State.clockStopped
  try dsimp only
  repeat' (first | with_reducible assumption | with_reducible apply State.draw_keeps | with_reducible apply State.raise_keeps | with_reducible apply State.retireBundle_keeps | with_reducible apply State.setReg_keeps | (intro t b ht; try dsimp only) | split | fail_if_no_progress (with_reducible apply Keeps.mk) | exact id | exact fun _ => Nat.zero_le 4 | exact fun hp => (List.length_take ▸ Nat.le_trans (Nat.min_le_right _ _) (hp _)) | exact Memory.wf_write _ _ | exact Memory.wf_writeAll _ | exact Memory.wf_writeTagged _ _ _ | exact Memory.wf_stage _ _ _ | exact Memory.wf_spoil _ | exact fun hp => hp _)

theorem State.checkPeers_keeps {s0 s : State} (ends : List LinkEnd) (hK : Keeps s0 s) :
    Keeps s0 (State.checkPeers s ends) := by
  unfold State.checkPeers
  try dsimp only
  repeat' (first | with_reducible assumption | with_reducible apply State.forEach_keeps | with_reducible apply State.peerLost_keeps | with_reducible apply State.setLink_keeps | (intro t b ht; try dsimp only) | split | fail_if_no_progress (with_reducible apply Keeps.mk) | exact id | exact fun _ => Nat.zero_le 4 | exact fun hp => (List.length_take ▸ Nat.le_trans (Nat.min_le_right _ _) (hp _)) | exact Memory.wf_write _ _ | exact Memory.wf_writeAll _ | exact Memory.wf_writeTagged _ _ _ | exact Memory.wf_stage _ _ _ | exact Memory.wf_spoil _ | exact fun hp => hp _)

theorem State.clearShort_keeps {s0 s : State} (ends : List LinkEnd) (hK : Keeps s0 s) :
    Keeps s0 (State.clearShort s ends) := by
  unfold State.clearShort
  try dsimp only
  repeat' (first | with_reducible assumption | with_reducible apply State.forEach_keeps | with_reducible apply State.setLink_keeps | (intro t b ht; try dsimp only) | split | fail_if_no_progress (with_reducible apply Keeps.mk) | exact id | exact fun _ => Nat.zero_le 4 | exact fun hp => (List.length_take ▸ Nat.le_trans (Nat.min_le_right _ _) (hp _)) | exact Memory.wf_write _ _ | exact Memory.wf_writeAll _ | exact Memory.wf_writeTagged _ _ _ | exact Memory.wf_stage _ _ _ | exact Memory.wf_spoil _ | exact fun hp => hp _)

end Sys2Proof.Machine
end

