-- ==== Sys2Proof/Laws/KeepsBar2.lean ====
section
/-! SUPPORT. Every operation of Machine/Bar2.lean leaves the queue as it is and keeps the invariant. -/

set_option linter.unusedVariables false
set_option linter.unusedTactic false
set_option linter.unreachableTactic false

namespace Sys2Proof.Machine

theorem State.cmdOpen_keeps {s0 s : State} (n : Nat) (body : BitVec 60) (hK : Keeps s0 s) :
    Keeps s0 (State.cmdOpen s n body).2 := by
  unfold State.cmdOpen
  try dsimp only
  repeat' (first | with_reducible assumption | with_reducible apply State.bound_keeps | with_reducible apply State.idle_keeps | with_reducible apply State.setStream_keeps | (intro t b ht; try dsimp only) | split | fail_if_no_progress (with_reducible apply Keeps.mk) | exact id | exact fun _ => Nat.zero_le 4 | exact fun hp => (List.length_take ▸ Nat.le_trans (Nat.min_le_right _ _) (hp _)) | exact Memory.wf_write _ _ | exact Memory.wf_writeAll _ | exact Memory.wf_writeTagged _ _ _ | exact Memory.wf_stage _ _ _ | exact Memory.wf_spoil _ | exact fun hp => hp _)

theorem State.cmdRing_keeps {s0 s : State} (n : Nat) (body : BitVec 60) (h : Keeps s0 s) : Keeps s0 (State.cmdRing s n body).2 := by
  unfold State.cmdRing
  dsimp only
  split
  · exact h
  · split
    · exact h
    · rename_i hl
      split
      · exact h
      · refine State.startNext_keeps n (State.setStream_keeps n _ h fun _ => ?_)
        simp only [List.length_append, List.length_cons, List.length_nil]
        omega

theorem State.drain_keeps {s0 s : State} (n : Nat) (hK : Keeps s0 s) :
    Keeps s0 (State.drain s n) := by
  unfold State.drain
  try dsimp only
  repeat' (first | with_reducible assumption | with_reducible apply State.abandon_keeps | with_reducible apply State.grantSlots_keeps | with_reducible apply State.revoke_keeps | with_reducible apply State.setStream_keeps | (intro t b ht; try dsimp only) | split | fail_if_no_progress (with_reducible apply Keeps.mk) | exact id | exact fun _ => Nat.zero_le 4 | exact fun hp => (List.length_take ▸ Nat.le_trans (Nat.min_le_right _ _) (hp _)) | exact Memory.wf_write _ _ | exact Memory.wf_writeAll _ | exact Memory.wf_writeTagged _ _ _ | exact Memory.wf_stage _ _ _ | exact Memory.wf_spoil _ | exact fun hp => hp _)

theorem State.cmdAbort_keeps {s0 s : State} (n : Nat) (body : BitVec 60) (hK : Keeps s0 s) :
    Keeps s0 (State.cmdAbort s n body).2 := by
  unfold State.cmdAbort
  try dsimp only
  repeat' (first | with_reducible assumption | with_reducible apply State.drain_keeps | with_reducible apply State.setStream_keeps | (intro t b ht; try dsimp only) | split | fail_if_no_progress (with_reducible apply Keeps.mk) | exact id | exact fun _ => Nat.zero_le 4 | exact fun hp => (List.length_take ▸ Nat.le_trans (Nat.min_le_right _ _) (hp _)) | exact Memory.wf_write _ _ | exact Memory.wf_writeAll _ | exact Memory.wf_writeTagged _ _ _ | exact Memory.wf_stage _ _ _ | exact Memory.wf_spoil _ | exact fun hp => hp _)

theorem State.cmdClose_keeps {s0 s : State} (n : Nat) (hK : Keeps s0 s) :
    Keeps s0 (State.cmdClose s n).2 := by
  unfold State.cmdClose
  try dsimp only
  repeat' (first | with_reducible assumption | with_reducible apply State.setStream_keeps | (intro t b ht; try dsimp only) | split | fail_if_no_progress (with_reducible apply Keeps.mk) | exact id | exact fun _ => Nat.zero_le 4 | exact fun hp => (List.length_take ▸ Nat.le_trans (Nat.min_le_right _ _) (hp _)) | exact Memory.wf_write _ _ | exact Memory.wf_writeAll _ | exact Memory.wf_writeTagged _ _ _ | exact Memory.wf_stage _ _ _ | exact Memory.wf_spoil _ | exact fun hp => hp _)

theorem State.decideCmd_keeps {s0 s : State} (n op : Nat) (body : BitVec 60) (hK : Keeps s0 s) :
    Keeps s0 (State.decideCmd s n op body).2 := by
  unfold State.decideCmd
  try dsimp only
  repeat' (first | with_reducible assumption | with_reducible apply State.cmdAbort_keeps | with_reducible apply State.cmdClose_keeps | with_reducible apply State.cmdOpen_keeps | with_reducible apply State.cmdRing_keeps | (intro t b ht; try dsimp only) | split | fail_if_no_progress (with_reducible apply Keeps.mk) | exact id | exact fun _ => Nat.zero_le 4 | exact fun hp => (List.length_take ▸ Nat.le_trans (Nat.min_le_right _ _) (hp _)) | exact Memory.wf_write _ _ | exact Memory.wf_writeAll _ | exact Memory.wf_writeTagged _ _ _ | exact Memory.wf_stage _ _ _ | exact Memory.wf_spoil _ | exact fun hp => hp _)

theorem State.ordered_keeps {s0 s : State} (n op : Nat) (body : BitVec 60) (hK : Keeps s0 s) :
    Keeps s0 (State.ordered s n op body) := by
  unfold State.ordered
  try dsimp only
  repeat' (first | with_reducible assumption | with_reducible apply State.countWrap_keeps | with_reducible apply State.decideCmd_keeps | with_reducible apply State.updRec_keeps | (intro t b ht; try dsimp only) | split | fail_if_no_progress (with_reducible apply Keeps.mk) | exact id | exact fun _ => Nat.zero_le 4 | exact fun hp => (List.length_take ▸ Nat.le_trans (Nat.min_le_right _ _) (hp _)) | exact Memory.wf_write _ _ | exact Memory.wf_writeAll _ | exact Memory.wf_writeTagged _ _ _ | exact Memory.wf_stage _ _ _ | exact Memory.wf_spoil _ | exact fun hp => hp _)

end Sys2Proof.Machine
end

