-- ==== Sys2Proof/Laws/KeepsStartOps.lean ====
section
/-! SUPPORT. Every operation of Machine/StartOps.lean leaves the queue as it is and keeps the invariant. -/

set_option linter.unusedVariables false
set_option linter.unusedTactic false
set_option linter.unreachableTactic false

namespace Sys2Proof.Machine

theorem State.setRepair_keeps {s0 s : State} (n : Fin 192) (v : U32) (hK : Keeps s0 s) :
    Keeps s0 (State.setRepair s n v) := by
  unfold State.setRepair
  try dsimp only
  repeat' (first | with_reducible assumption | with_reducible apply State.raise_keeps | with_reducible apply State.setReg_keeps | (intro t b ht; try dsimp only) | split | fail_if_no_progress (with_reducible apply Keeps.mk) | exact id | exact fun _ => Nat.zero_le 4 | exact fun hp => (List.length_take ▸ Nat.le_trans (Nat.min_le_right _ _) (hp _)) | exact Memory.wf_write _ _ | exact Memory.wf_writeAll _ | exact Memory.wf_writeTagged _ _ _ | exact Memory.wf_stage _ _ _ | exact Memory.wf_spoil _ | exact fun hp => hp _)

theorem State.startFail_keeps {s0 s : State} (e : Event) (hK : Keeps s0 s) :
    Keeps s0 (State.startFail s e) := by
  unfold State.startFail
  try dsimp only
  repeat' (first | with_reducible assumption | with_reducible apply State.raise_keeps | with_reducible apply State.record_keeps | (intro t b ht; try dsimp only) | split | fail_if_no_progress (with_reducible apply Keeps.mk) | exact id | exact fun _ => Nat.zero_le 4 | exact fun hp => (List.length_take ▸ Nat.le_trans (Nat.min_le_right _ _) (hp _)) | exact Memory.wf_write _ _ | exact Memory.wf_writeAll _ | exact Memory.wf_writeTagged _ _ _ | exact Memory.wf_stage _ _ _ | exact Memory.wf_spoil _ | exact fun hp => hp _)

theorem State.startGroup_keeps {s0 s : State} (all : List (Nat × Nat)) (key : Nat) (hK : Keeps s0 s) :
    Keeps s0 (State.startGroup s all key) := by
  unfold State.startGroup
  try dsimp only
  repeat' (first | with_reducible assumption | with_reducible apply State.raise_keeps | with_reducible apply State.setLaneGroup_keeps | with_reducible apply State.setLink_keeps | (intro t b ht; try dsimp only) | split | fail_if_no_progress (with_reducible apply Keeps.mk) | exact id | exact fun _ => Nat.zero_le 4 | exact fun hp => (List.length_take ▸ Nat.le_trans (Nat.min_le_right _ _) (hp _)) | exact Memory.wf_write _ _ | exact Memory.wf_writeAll _ | exact Memory.wf_writeTagged _ _ _ | exact Memory.wf_stage _ _ _ | exact Memory.wf_spoil _ | exact fun hp => hp _)

theorem State.startLinks_keeps {s0 s : State} (r : StartReport) (hK : Keeps s0 s) :
    Keeps s0 (State.startLinks s r) := by
  unfold State.startLinks
  try dsimp only
  repeat' (first | with_reducible assumption | with_reducible apply State.forEach_keeps | with_reducible apply State.setLink_keeps | with_reducible apply State.startGroup_keeps | (intro t b ht; try dsimp only) | split | fail_if_no_progress (with_reducible apply Keeps.mk) | exact id | exact fun _ => Nat.zero_le 4 | exact fun hp => (List.length_take ▸ Nat.le_trans (Nat.min_le_right _ _) (hp _)) | exact Memory.wf_write _ _ | exact Memory.wf_writeAll _ | exact Memory.wf_writeTagged _ _ _ | exact Memory.wf_stage _ _ _ | exact Memory.wf_spoil _ | exact fun hp => hp _)

theorem State.downAtStart_keeps {s0 s : State} (d : Die) (hK : Keeps s0 s) :
    Keeps s0 (State.downAtStart s d) := by
  unfold State.downAtStart
  try dsimp only
  repeat' (first | with_reducible assumption | with_reducible apply State.forEach_keeps | with_reducible apply State.updDie_keeps | (intro t b ht; try dsimp only) | split | fail_if_no_progress (with_reducible apply Keeps.mk) | exact id | exact fun _ => Nat.zero_le 4 | exact fun hp => (List.length_take ▸ Nat.le_trans (Nat.min_le_right _ _) (hp _)) | exact Memory.wf_write _ _ | exact Memory.wf_writeAll _ | exact Memory.wf_writeTagged _ _ _ | exact Memory.wf_stage _ _ _ | exact Memory.wf_spoil _ | exact fun hp => hp _)

theorem State.fenceEnds_keeps {s0 s : State}  (hK : Keeps s0 s) :
    Keeps s0 (State.fenceEnds s) := by
  unfold State.fenceEnds
  try dsimp only
  repeat' (first | with_reducible assumption | with_reducible apply State.forEach_keeps | with_reducible apply State.setLink_keeps | (intro t b ht; try dsimp only) | split | fail_if_no_progress (with_reducible apply Keeps.mk) | exact id | exact fun _ => Nat.zero_le 4 | exact fun hp => (List.length_take ▸ Nat.le_trans (Nat.min_le_right _ _) (hp _)) | exact Memory.wf_write _ _ | exact Memory.wf_writeAll _ | exact Memory.wf_writeTagged _ _ _ | exact Memory.wf_stage _ _ _ | exact Memory.wf_spoil _ | exact fun hp => hp _)

theorem State.deadLinks_keeps {s0 s : State}  (hK : Keeps s0 s) :
    Keeps s0 (State.deadLinks s) := by
  unfold State.deadLinks
  try dsimp only
  repeat' (first | with_reducible assumption | with_reducible apply State.downAtStart_keeps | with_reducible apply State.fenceEnds_keeps | with_reducible apply State.forEach_keeps | with_reducible apply State.peerDown_keeps | with_reducible apply State.startFail_keeps | (intro t b ht; try dsimp only) | split | fail_if_no_progress (with_reducible apply Keeps.mk) | exact id | exact fun _ => Nat.zero_le 4 | exact fun hp => (List.length_take ▸ Nat.le_trans (Nat.min_le_right _ _) (hp _)) | exact Memory.wf_write _ _ | exact Memory.wf_writeAll _ | exact Memory.wf_writeTagged _ _ _ | exact Memory.wf_stage _ _ _ | exact Memory.wf_spoil _ | exact fun hp => hp _)

theorem State.startDies_keeps {s0 s : State} (r : StartReport) (hK : Keeps s0 s) :
    Keeps s0 (State.startDies s r) := by
  unfold State.startDies
  try dsimp only
  repeat' (first | with_reducible assumption | with_reducible apply State.forEach_keeps | with_reducible apply State.setDie_keeps | with_reducible apply State.startFail_keeps | (intro t b ht; try dsimp only) | split | fail_if_no_progress (with_reducible apply Keeps.mk) | exact id | exact fun _ => Nat.zero_le 4 | exact fun hp => (List.length_take ▸ Nat.le_trans (Nat.min_le_right _ _) (hp _)) | exact Memory.wf_write _ _ | exact Memory.wf_writeAll _ | exact Memory.wf_writeTagged _ _ _ | exact Memory.wf_stage _ _ _ | exact Memory.wf_spoil _ | exact fun hp => hp _)

theorem State.writeArrays_keeps {s0 s : State}  (hK : Keeps s0 s) :
    Keeps s0 (State.writeArrays s) := by
  unfold State.writeArrays
  try dsimp only
  repeat' (first | with_reducible assumption | with_reducible apply State.forEach_keeps | with_reducible apply State.setReg_keeps | with_reducible apply State.setRepair_keeps | (intro t b ht; try dsimp only) | split | fail_if_no_progress (with_reducible apply Keeps.mk) | exact id | exact fun _ => Nat.zero_le 4 | exact fun hp => (List.length_take ▸ Nat.le_trans (Nat.min_le_right _ _) (hp _)) | exact Memory.wf_write _ _ | exact Memory.wf_writeAll _ | exact Memory.wf_writeTagged _ _ _ | exact Memory.wf_stage _ _ _ | exact Memory.wf_spoil _ | exact fun hp => hp _)

theorem State.startArrays_keeps {s0 s : State}  (hK : Keeps s0 s) :
    Keeps s0 (State.startArrays s) := by
  unfold State.startArrays
  try dsimp only
  repeat' (first | with_reducible assumption | with_reducible apply State.writeArrays_keeps | (intro t b ht; try dsimp only) | split | fail_if_no_progress (with_reducible apply Keeps.mk) | exact id | exact fun _ => Nat.zero_le 4 | exact fun hp => (List.length_take ▸ Nat.le_trans (Nat.min_le_right _ _) (hp _)) | exact Memory.wf_write _ _ | exact Memory.wf_writeAll _ | exact Memory.wf_writeTagged _ _ _ | exact Memory.wf_stage _ _ _ | exact Memory.wf_spoil _ | exact fun hp => hp _)

theorem State.trainPort_keeps {s0 s : State} (p : Nat) (peer : Option (List U8)) (hK : Keeps s0 s) :
    Keeps s0 (State.trainPort s p peer) := by
  unfold State.trainPort
  try dsimp only
  repeat' (first | with_reducible assumption | with_reducible apply State.setPort_keeps | with_reducible apply State.tryUp_keeps | (intro t b ht; try dsimp only) | split | fail_if_no_progress (with_reducible apply Keeps.mk) | exact id | exact fun _ => Nat.zero_le 4 | exact fun hp => (List.length_take ▸ Nat.le_trans (Nat.min_le_right _ _) (hp _)) | exact Memory.wf_write _ _ | exact Memory.wf_writeAll _ | exact Memory.wf_writeTagged _ _ _ | exact Memory.wf_stage _ _ _ | exact Memory.wf_spoil _ | exact fun hp => hp _)

theorem State.startPorts_keeps {s0 s : State} (r : StartReport) (hK : Keeps s0 s) :
    Keeps s0 (State.startPorts s r) := by
  unfold State.startPorts
  try dsimp only
  repeat' (first | with_reducible assumption | with_reducible apply State.forEach_keeps | with_reducible apply State.setPort_keeps | with_reducible apply State.startFail_keeps | with_reducible apply State.trainPort_keeps | (intro t b ht; try dsimp only) | split | fail_if_no_progress (with_reducible apply Keeps.mk) | exact id | exact fun _ => Nat.zero_le 4 | exact fun hp => (List.length_take ▸ Nat.le_trans (Nat.min_le_right _ _) (hp _)) | exact Memory.wf_write _ _ | exact Memory.wf_writeAll _ | exact Memory.wf_writeTagged _ _ _ | exact Memory.wf_stage _ _ _ | exact Memory.wf_spoil _ | exact fun hp => hp _)

theorem State.startCxl_keeps {s0 s : State} (r : StartReport) (hK : Keeps s0 s) :
    Keeps s0 (State.startCxl s r) := by
  unfold State.startCxl
  try dsimp only
  repeat' (first | with_reducible assumption | with_reducible apply State.forEach_keeps | with_reducible apply State.startFail_keeps | (intro t b ht; try dsimp only) | split | fail_if_no_progress (with_reducible apply Keeps.mk) | exact id | exact fun _ => Nat.zero_le 4 | exact fun hp => (List.length_take ▸ Nat.le_trans (Nat.min_le_right _ _) (hp _)) | exact Memory.wf_write _ _ | exact Memory.wf_writeAll _ | exact Memory.wf_writeTagged _ _ _ | exact Memory.wf_stage _ _ _ | exact Memory.wf_spoil _ | exact fun hp => hp _)

theorem State.startDefaults_keeps {s0 s : State}  (hK : Keeps s0 s) :
    Keeps s0 (State.startDefaults s) := by
  unfold State.startDefaults
  try dsimp only
  repeat' (first | with_reducible assumption | with_reducible apply State.forEach_keeps | with_reducible apply State.setBits_keeps | with_reducible apply Keeps.foldl | (intro t b ht; try dsimp only) | split | fail_if_no_progress (with_reducible apply Keeps.mk) | exact id | exact fun _ => Nat.zero_le 4 | exact fun hp => (List.length_take ▸ Nat.le_trans (Nat.min_le_right _ _) (hp _)) | exact Memory.wf_write _ _ | exact Memory.wf_writeAll _ | exact Memory.wf_writeTagged _ _ _ | exact Memory.wf_stage _ _ _ | exact Memory.wf_spoil _ | exact fun hp => hp _)

theorem State.startTuning_keeps {s0 s : State}  (hK : Keeps s0 s) :
    Keeps s0 (State.startTuning s) := by
  unfold State.startTuning
  try dsimp only
  repeat' (first | with_reducible assumption | with_reducible apply State.dueNow_keeps | with_reducible apply State.forEach_keeps | (intro t b ht; try dsimp only) | split | fail_if_no_progress (with_reducible apply Keeps.mk) | exact id | exact fun _ => Nat.zero_le 4 | exact fun hp => (List.length_take ▸ Nat.le_trans (Nat.min_le_right _ _) (hp _)) | exact Memory.wf_write _ _ | exact Memory.wf_writeAll _ | exact Memory.wf_writeTagged _ _ _ | exact Memory.wf_stage _ _ _ | exact Memory.wf_spoil _ | exact fun hp => hp _)

theorem State.startRamp_keeps {s0 s : State}  (hK : Keeps s0 s) :
    Keeps s0 (State.startRamp s) := by
  unfold State.startRamp
  try dsimp only
  repeat' (first | with_reducible assumption | (intro t b ht; try dsimp only) | split | fail_if_no_progress (with_reducible apply Keeps.mk) | exact id | exact fun _ => Nat.zero_le 4 | exact fun hp => (List.length_take ▸ Nat.le_trans (Nat.min_le_right _ _) (hp _)) | exact Memory.wf_write _ _ | exact Memory.wf_writeAll _ | exact Memory.wf_writeTagged _ _ _ | exact Memory.wf_stage _ _ _ | exact Memory.wf_spoil _ | exact fun hp => hp _)

theorem State.coolStart_keeps {s0 s : State}  (hK : Keeps s0 s) :
    Keeps s0 (State.coolStart s) := by
  unfold State.coolStart
  try dsimp only
  repeat' (first | with_reducible assumption | (intro t b ht; try dsimp only) | split | fail_if_no_progress (with_reducible apply Keeps.mk) | exact id | exact fun _ => Nat.zero_le 4 | exact fun hp => (List.length_take ▸ Nat.le_trans (Nat.min_le_right _ _) (hp _)) | exact Memory.wf_write _ _ | exact Memory.wf_writeAll _ | exact Memory.wf_writeTagged _ _ _ | exact Memory.wf_stage _ _ _ | exact Memory.wf_spoil _ | exact fun hp => hp _)

theorem State.confirmTrial_keeps {s0 s : State}  (hK : Keeps s0 s) :
    Keeps s0 (State.confirmTrial s) := by
  unfold State.confirmTrial
  try dsimp only
  repeat' (first | with_reducible assumption | with_reducible apply State.record_keeps | (intro t b ht; try dsimp only) | split | fail_if_no_progress (with_reducible apply Keeps.mk) | exact id | exact fun _ => Nat.zero_le 4 | exact fun hp => (List.length_take ▸ Nat.le_trans (Nat.min_le_right _ _) (hp _)) | exact Memory.wf_write _ _ | exact Memory.wf_writeAll _ | exact Memory.wf_writeTagged _ _ _ | exact Memory.wf_stage _ _ _ | exact Memory.wf_spoil _ | exact fun hp => hp _)

theorem State.failGddr_keeps {s0 s : State} (r : StartReport) (hK : Keeps s0 s) :
    Keeps s0 (State.failGddr s r) := by
  unfold State.failGddr
  try dsimp only
  repeat' (first | with_reducible assumption | with_reducible apply State.forEach_keeps | with_reducible apply State.startFail_keeps | (intro t b ht; try dsimp only) | split | fail_if_no_progress (with_reducible apply Keeps.mk) | exact id | exact fun _ => Nat.zero_le 4 | exact fun hp => (List.length_take ▸ Nat.le_trans (Nat.min_le_right _ _) (hp _)) | exact Memory.wf_write _ _ | exact Memory.wf_writeAll _ | exact Memory.wf_writeTagged _ _ _ | exact Memory.wf_stage _ _ _ | exact Memory.wf_spoil _ | exact fun hp => hp _)

theorem State.earlyCommands_keeps {s0 s : State} (r : StartReport) (hK : Keeps s0 s) :
    Keeps s0 (State.earlyCommands s r) := by
  unfold State.earlyCommands
  try dsimp only
  repeat' (first | with_reducible assumption | with_reducible apply State.forEach_keeps | with_reducible apply State.ordered_keeps | (intro t b ht; try dsimp only) | split | fail_if_no_progress (with_reducible apply Keeps.mk) | exact id | exact fun _ => Nat.zero_le 4 | exact fun hp => (List.length_take ▸ Nat.le_trans (Nat.min_le_right _ _) (hp _)) | exact Memory.wf_write _ _ | exact Memory.wf_writeAll _ | exact Memory.wf_writeTagged _ _ _ | exact Memory.wf_stage _ _ _ | exact Memory.wf_spoil _ | exact fun hp => hp _)

theorem State.startedMemory_wf (s : State) : s.startedMemory.wf = true := by
  unfold State.startedMemory
  have inner : ∀ (l : List (Nat × Recipe)) (k : Nat) (m : Memory), m.wf = true → (l.foldl (fun (m : Memory) x => m.put (recipeAddr k x.1) (recipeImage x.2)) m).wf = true := by
    intro l k
    induction l with
    | nil => intro m h; exact h
    | cons x l ih => intro m h; exact ih _ (Memory.wf_put _ _ h)
  have outer : ∀ (q : List (Nat × Recipe)) (l : List Nat) (m : Memory), m.wf = true →
      (l.foldl (fun m k => q.foldl (fun (m : Memory) x => m.put (recipeAddr k x.1) (recipeImage x.2)) m) m).wf = true := by
    intro q l
    induction l with
    | nil => intro m h; exact h
    | cons k l ih => intro m h; rw [List.foldl_cons]; exact ih _ (inner q k m h)
  exact outer storedRecipes _ _ Memory.wf_zero

theorem State.startMemory_keeps {s0 s : State} (r : StartReport) (h : Keeps s0 s) : Keeps s0 (s.startMemory r) := by
  unfold State.startMemory
  exact State.failGddr_keeps r (Keeps.mkMem h fun _ => State.startedMemory_wf s)

theorem State.beforeReady_keeps {s0 s : State} (r : StartReport) (hK : Keeps s0 s) :
    Keeps s0 (State.beforeReady s r) := by
  unfold State.beforeReady
  try dsimp only
  repeat' (first | with_reducible assumption | with_reducible apply State.earlyCommands_keeps | (intro t b ht; try dsimp only) | split | fail_if_no_progress (with_reducible apply Keeps.mk) | exact id | exact fun _ => Nat.zero_le 4 | exact fun hp => (List.length_take ▸ Nat.le_trans (Nat.min_le_right _ _) (hp _)) | exact Memory.wf_write _ _ | exact Memory.wf_writeAll _ | exact Memory.wf_writeTagged _ _ _ | exact Memory.wf_stage _ _ _ | exact Memory.wf_spoil _ | exact fun hp => hp _)

theorem State.setReady_keeps {s0 s : State} (r : StartReport) (hK : Keeps s0 s) :
    Keeps s0 (State.setReady s r) := by
  unfold State.setReady
  try dsimp only
  repeat' (first | with_reducible assumption | (intro t b ht; try dsimp only) | split | fail_if_no_progress (with_reducible apply Keeps.mk) | exact id | exact fun _ => Nat.zero_le 4 | exact fun hp => (List.length_take ▸ Nat.le_trans (Nat.min_le_right _ _) (hp _)) | exact Memory.wf_write _ _ | exact Memory.wf_writeAll _ | exact Memory.wf_writeTagged _ _ _ | exact Memory.wf_stage _ _ _ | exact Memory.wf_spoil _ | exact fun hp => hp _)

theorem State.bringUp_keeps {s0 s : State} (r : StartReport) (h : Keeps s0 s) : Keeps s0 (s.bringUp r) := by
  have h1 : Keeps s0 (s.startDies r) := State.startDies_keeps r h
  unfold State.bringUp
  dsimp only
  split
  · exact Keeps.mk h1
  · have h2 := State.startArrays_keeps (State.deadLinks_keeps (State.startLinks_keeps r h1))
    have h3 := State.startPorts_keeps r (State.startCxl_keeps r (State.startMemory_keeps r h2))
    have h5 := State.setReady_keeps r (State.capChanged_keeps (State.startDefaults_keeps (State.beforeReady_keeps r h3)))
    exact State.confirmTrial_keeps (State.startRamp_keeps (State.coolStart_keeps (State.startTuning_keeps h5)))

theorem State.coldStart_keeps {s0 s : State} (h : Keeps s0 s) : Keeps s0 s.coldStart :=
  Keeps.clear h rfl (fun _ => Memory.wf_zero) rfl rfl rfl

theorem State.offStart_keeps {s0 s : State} (r : StartReport) (h : Keeps s0 s) : Keeps s0 (s.offStart r) :=
  Keeps.clear h rfl (fun _ => Memory.wf_zero) rfl rfl rfl

theorem State.recover_keeps {s0 s : State} (failed : List (Nat × Nat × Nat)) (hK : Keeps s0 s) :
    Keeps s0 (State.recover s failed) := by
  unfold State.recover
  try dsimp only
  repeat' (first | with_reducible assumption | with_reducible apply State.record_keeps | (intro t b ht; try dsimp only) | split | fail_if_no_progress (with_reducible apply Keeps.mk) | exact id | exact fun _ => Nat.zero_le 4 | exact fun hp => (List.length_take ▸ Nat.le_trans (Nat.min_le_right _ _) (hp _)) | exact Memory.wf_write _ _ | exact Memory.wf_writeAll _ | exact Memory.wf_writeTagged _ _ _ | exact Memory.wf_stage _ _ _ | exact Memory.wf_spoil _ | exact fun hp => hp _)

theorem State.startFrom3_keeps {s0 s : State} (r : StartReport) (hK : Keeps s0 s) :
    Keeps s0 (State.startFrom3 s r) := by
  unfold State.startFrom3
  try dsimp only
  repeat' (first | with_reducible assumption | with_reducible apply State.bringUp_keeps | with_reducible apply State.countSat_keeps | with_reducible apply State.forEach_keeps | with_reducible apply State.raise_keeps | with_reducible apply State.record_keeps | with_reducible apply State.recover_keeps | with_reducible apply State.startFail_keeps | (intro t b ht; try dsimp only) | split | fail_if_no_progress (with_reducible apply Keeps.mk) | exact id | exact fun _ => Nat.zero_le 4 | exact fun hp => (List.length_take ▸ Nat.le_trans (Nat.min_le_right _ _) (hp _)) | exact Memory.wf_write _ _ | exact Memory.wf_writeAll _ | exact Memory.wf_writeTagged _ _ _ | exact Memory.wf_stage _ _ _ | exact Memory.wf_spoil _ | exact fun hp => hp _)

end Sys2Proof.Machine
end

