-- ==== Sys2Proof/Laws/KeepsPower.lean ====
section
/-! SUPPORT. Every operation of Machine/Power.lean leaves the queue as it is and keeps the invariant. -/

set_option linter.unusedVariables false
set_option linter.unusedTactic false
set_option linter.unreachableTactic false

namespace Sys2Proof.Machine

theorem State.sendBudget_keeps {s0 s : State} (d limit : Nat) (off : Bool) (hK : Keeps s0 s) :
    Keeps s0 (State.sendBudget s d limit off) := by
  unfold State.sendBudget
  try dsimp only
  repeat' (first | with_reducible assumption | with_reducible apply State.putBudget_keeps | with_reducible apply State.setDie_keeps | (intro t b ht; try dsimp only) | split | fail_if_no_progress (with_reducible apply Keeps.mk) | exact id | exact fun _ => Nat.zero_le 4 | exact fun hp => (List.length_take ▸ Nat.le_trans (Nat.min_le_right _ _) (hp _)) | exact Memory.wf_write _ _ | exact Memory.wf_writeAll _ | exact Memory.wf_writeTagged _ _ _ | exact Memory.wf_stage _ _ _ | exact Memory.wf_spoil _ | exact fun hp => hp _)

theorem State.swellCompute_keeps {s0 s : State}  (hK : Keeps s0 s) :
    Keeps s0 (State.swellCompute s) := by
  unfold State.swellCompute
  try dsimp only
  repeat' (first | with_reducible assumption | with_reducible apply State.forEach_keeps | with_reducible apply State.sendBudget_keeps | with_reducible apply Keeps.foldl | (intro t b ht; try dsimp only) | split | fail_if_no_progress (with_reducible apply Keeps.mk) | exact id | exact fun _ => Nat.zero_le 4 | exact fun hp => (List.length_take ▸ Nat.le_trans (Nat.min_le_right _ _) (hp _)) | exact Memory.wf_write _ _ | exact Memory.wf_writeAll _ | exact Memory.wf_writeTagged _ _ _ | exact Memory.wf_stage _ _ _ | exact Memory.wf_spoil _ | exact fun hp => hp _)

theorem State.acceptSetpoint_keeps {s0 s : State} (src : SwellSource) (w : Nat) (hK : Keeps s0 s) :
    Keeps s0 (State.acceptSetpoint s src w) := by
  unfold State.acceptSetpoint
  try dsimp only
  repeat' (first | with_reducible assumption | with_reducible apply State.countSat_keeps | with_reducible apply State.countWrap_keeps | with_reducible apply State.raise_keeps | with_reducible apply State.swellCompute_keeps | (intro t b ht; try dsimp only) | split | fail_if_no_progress (with_reducible apply Keeps.mk) | exact id | exact fun _ => Nat.zero_le 4 | exact fun hp => (List.length_take ▸ Nat.le_trans (Nat.min_le_right _ _) (hp _)) | exact Memory.wf_write _ _ | exact Memory.wf_writeAll _ | exact Memory.wf_writeTagged _ _ _ | exact Memory.wf_stage _ _ _ | exact Memory.wf_spoil _ | exact fun hp => hp _)

theorem State.thermalTrip_keeps {s0 s : State} (d : Die) (temp : Nat) (hK : Keeps s0 s) :
    Keeps s0 (State.thermalTrip s d temp) := by
  unfold State.thermalTrip
  try dsimp only
  repeat' (first | with_reducible assumption | with_reducible apply State.dieDown_keeps | with_reducible apply State.noticeReset_keeps | with_reducible apply State.raise_keeps | with_reducible apply State.record_keeps | (intro t b ht; try dsimp only) | split | fail_if_no_progress (with_reducible apply Keeps.mk) | exact id | exact fun _ => Nat.zero_le 4 | exact fun hp => (List.length_take ▸ Nat.le_trans (Nat.min_le_right _ _) (hp _)) | exact Memory.wf_write _ _ | exact Memory.wf_writeAll _ | exact Memory.wf_writeTagged _ _ _ | exact Memory.wf_stage _ _ _ | exact Memory.wf_spoil _ | exact fun hp => hp _)

theorem State.refuse_keeps {s0 s : State} (code : U16) (hK : Keeps s0 s) :
    Keeps s0 (State.refuse s code) := by
  unfold State.refuse
  try dsimp only
  repeat' (first | with_reducible assumption | with_reducible apply State.raise_keeps | with_reducible apply State.setReg_keeps | (intro t b ht; try dsimp only) | split | fail_if_no_progress (with_reducible apply Keeps.mk) | exact id | exact fun _ => Nat.zero_le 4 | exact fun hp => (List.length_take ▸ Nat.le_trans (Nat.min_le_right _ _) (hp _)) | exact Memory.wf_write _ _ | exact Memory.wf_writeAll _ | exact Memory.wf_writeTagged _ _ _ | exact Memory.wf_stage _ _ _ | exact Memory.wf_spoil _ | exact fun hp => hp _)

theorem State.granted_keeps {s0 s : State}  (hK : Keeps s0 s) :
    Keeps s0 (State.granted s) := by
  unfold State.granted
  try dsimp only
  repeat' (first | with_reducible assumption | with_reducible apply State.setReg_keeps | (intro t b ht; try dsimp only) | split | fail_if_no_progress (with_reducible apply Keeps.mk) | exact id | exact fun _ => Nat.zero_le 4 | exact fun hp => (List.length_take ▸ Nat.le_trans (Nat.min_le_right _ _) (hp _)) | exact Memory.wf_write _ _ | exact Memory.wf_writeAll _ | exact Memory.wf_writeTagged _ _ _ | exact Memory.wf_stage _ _ _ | exact Memory.wf_spoil _ | exact fun hp => hp _)

theorem State.linksOff_keeps {s0 s : State}  (hK : Keeps s0 s) :
    Keeps s0 (State.linksOff s) := by
  unfold State.linksOff
  try dsimp only
  repeat' (first | with_reducible assumption | with_reducible apply State.forEach_keeps | with_reducible apply State.setPort_keeps | (intro t b ht; try dsimp only) | split | fail_if_no_progress (with_reducible apply Keeps.mk) | exact id | exact fun _ => Nat.zero_le 4 | exact fun hp => (List.length_take ▸ Nat.le_trans (Nat.min_le_right _ _) (hp _)) | exact Memory.wf_write _ _ | exact Memory.wf_writeAll _ | exact Memory.wf_writeTagged _ _ _ | exact Memory.wf_stage _ _ _ | exact Memory.wf_spoil _ | exact fun hp => hp _)

theorem State.sleepDies_keeps {s0 s : State} (refresh : Bool) (hK : Keeps s0 s) :
    Keeps s0 (State.sleepDies s refresh) := by
  unfold State.sleepDies
  try dsimp only
  repeat' (first | with_reducible assumption | with_reducible apply State.forEach_keeps | with_reducible apply State.setLink_keeps | with_reducible apply State.updDie_keeps | (intro t b ht; try dsimp only) | split | fail_if_no_progress (with_reducible apply Keeps.mk) | exact id | exact fun _ => Nat.zero_le 4 | exact fun hp => (List.length_take ▸ Nat.le_trans (Nat.min_le_right _ _) (hp _)) | exact Memory.wf_write _ _ | exact Memory.wf_writeAll _ | exact Memory.wf_writeTagged _ _ _ | exact Memory.wf_stage _ _ _ | exact Memory.wf_spoil _ | exact fun hp => hp _)

theorem State.enterBreath_keeps {s0 s : State} (h : Keeps s0 s) : Keeps s0 s.enterBreath := by
  have h1 := State.sleepDies_keeps true (State.linksOff_keeps h)
  unfold State.enterBreath
  exact Keeps.mkMem h1 (fun hm => by
    simp only [Memory.wf, Bool.and_eq_true] at hm ⊢
    exact ⟨SMap.wf_filter _ _ hm.1, SMap.wf_filter _ _ hm.2⟩)

theorem State.enterOff_keeps {s0 s : State} (h : Keeps s0 s) : Keeps s0 s.enterOff := by
  have h1 := State.sleepDies_keeps false (State.linksOff_keeps h)
  unfold State.enterOff
  exact Keeps.mkMem h1 (fun _ => Memory.wf_zero)

theorem State.requestPower_keeps {s0 s : State} (want : PState) (hK : Keeps s0 s) :
    Keeps s0 (State.requestPower s want) := by
  unfold State.requestPower
  try dsimp only
  repeat' (first | with_reducible assumption | with_reducible apply State.checkPeers_keeps | with_reducible apply State.enterBreath_keeps | with_reducible apply State.enterOff_keeps | with_reducible apply State.granted_keeps | with_reducible apply State.refuse_keeps | with_reducible apply State.startRamp_keeps | with_reducible apply State.swellCompute_keeps | (intro t b ht; try dsimp only) | split | fail_if_no_progress (with_reducible apply Keeps.mk) | exact id | exact fun _ => Nat.zero_le 4 | exact fun hp => (List.length_take ▸ Nat.le_trans (Nat.min_le_right _ _) (hp _)) | exact Memory.wf_write _ _ | exact Memory.wf_writeAll _ | exact Memory.wf_writeTagged _ _ _ | exact Memory.wf_stage _ _ _ | exact Memory.wf_spoil _ | exact fun hp => hp _)

theorem State.abandonPasses_keeps {s0 s : State}  (hK : Keeps s0 s) :
    Keeps s0 (State.abandonPasses s) := by
  unfold State.abandonPasses
  try dsimp only
  repeat' (first | with_reducible assumption | with_reducible apply State.forEach_keeps | with_reducible apply State.raise_keeps | with_reducible apply State.releaseQuad_keeps | with_reducible apply State.setTune_keeps | (intro t b ht; try dsimp only) | split | fail_if_no_progress (with_reducible apply Keeps.mk) | exact id | exact fun _ => Nat.zero_le 4 | exact fun hp => (List.length_take ▸ Nat.le_trans (Nat.min_le_right _ _) (hp _)) | exact Memory.wf_write _ _ | exact Memory.wf_writeAll _ | exact Memory.wf_writeTagged _ _ _ | exact Memory.wf_stage _ _ _ | exact Memory.wf_spoil _ | exact fun hp => hp _)

theorem State.wakeFail_keeps {s0 s : State} (d : Die) (hK : Keeps s0 s) :
    Keeps s0 (State.wakeFail s d) := by
  unfold State.wakeFail
  try dsimp only
  repeat' (first | with_reducible assumption | with_reducible apply State.dieDown_keeps | with_reducible apply State.raise_keeps | (intro t b ht; try dsimp only) | split | fail_if_no_progress (with_reducible apply Keeps.mk) | exact id | exact fun _ => Nat.zero_le 4 | exact fun hp => (List.length_take ▸ Nat.le_trans (Nat.min_le_right _ _) (hp _)) | exact Memory.wf_write _ _ | exact Memory.wf_writeAll _ | exact Memory.wf_writeTagged _ _ _ | exact Memory.wf_stage _ _ _ | exact Memory.wf_spoil _ | exact fun hp => hp _)

theorem State.wakeDies_keeps {s0 s : State} (r : StartReport) (hK : Keeps s0 s) :
    Keeps s0 (State.wakeDies s r) := by
  unfold State.wakeDies
  try dsimp only
  repeat' (first | with_reducible assumption | with_reducible apply State.forEach_keeps | with_reducible apply State.updDie_keeps | with_reducible apply State.wakeFail_keeps | (intro t b ht; try dsimp only) | split | fail_if_no_progress (with_reducible apply Keeps.mk) | exact id | exact fun _ => Nat.zero_le 4 | exact fun hp => (List.length_take ▸ Nat.le_trans (Nat.min_le_right _ _) (hp _)) | exact Memory.wf_write _ _ | exact Memory.wf_writeAll _ | exact Memory.wf_writeTagged _ _ _ | exact Memory.wf_stage _ _ _ | exact Memory.wf_spoil _ | exact fun hp => hp _)

theorem State.wakeLinks_keeps {s0 s : State} (r : StartReport) (hK : Keeps s0 s) :
    Keeps s0 (State.wakeLinks s r) := by
  unfold State.wakeLinks
  try dsimp only
  repeat' (first | with_reducible assumption | with_reducible apply State.forEach_keeps | with_reducible apply State.setLink_keeps | with_reducible apply State.startLinks_keeps | (intro t b ht; try dsimp only) | split | fail_if_no_progress (with_reducible apply Keeps.mk) | exact id | exact fun _ => Nat.zero_le 4 | exact fun hp => (List.length_take ▸ Nat.le_trans (Nat.min_le_right _ _) (hp _)) | exact Memory.wf_write _ _ | exact Memory.wf_writeAll _ | exact Memory.wf_writeTagged _ _ _ | exact Memory.wf_stage _ _ _ | exact Memory.wf_spoil _ | exact fun hp => hp _)

theorem State.wakeDeadLinks_keeps {s0 s : State}  (hK : Keeps s0 s) :
    Keeps s0 (State.wakeDeadLinks s) := by
  unfold State.wakeDeadLinks
  try dsimp only
  repeat' (first | with_reducible assumption | with_reducible apply State.forEach_keeps | with_reducible apply State.wakeFail_keeps | (intro t b ht; try dsimp only) | split | fail_if_no_progress (with_reducible apply Keeps.mk) | exact id | exact fun _ => Nat.zero_le 4 | exact fun hp => (List.length_take ▸ Nat.le_trans (Nat.min_le_right _ _) (hp _)) | exact Memory.wf_write _ _ | exact Memory.wf_writeAll _ | exact Memory.wf_writeTagged _ _ _ | exact Memory.wf_stage _ _ _ | exact Memory.wf_spoil _ | exact fun hp => hp _)

theorem State.showFenced_keeps {s0 s : State}  (hK : Keeps s0 s) :
    Keeps s0 (State.showFenced s) := by
  unfold State.showFenced
  try dsimp only
  repeat' (first | with_reducible assumption | with_reducible apply State.forEach_keeps | with_reducible apply State.setBits_keeps | (intro t b ht; try dsimp only) | split | fail_if_no_progress (with_reducible apply Keeps.mk) | exact id | exact fun _ => Nat.zero_le 4 | exact fun hp => (List.length_take ▸ Nat.le_trans (Nat.min_le_right _ _) (hp _)) | exact Memory.wf_write _ _ | exact Memory.wf_writeAll _ | exact Memory.wf_writeTagged _ _ _ | exact Memory.wf_stage _ _ _ | exact Memory.wf_spoil _ | exact fun hp => hp _)

theorem State.wakeBreath_keeps {s0 s : State} (r : StartReport) (hK : Keeps s0 s) :
    Keeps s0 (State.wakeBreath s r) := by
  unfold State.wakeBreath
  try dsimp only
  repeat' (first | with_reducible assumption | with_reducible apply State.capChanged_keeps | with_reducible apply State.coolStart_keeps | with_reducible apply State.failGddr_keeps | with_reducible apply State.showFenced_keeps | with_reducible apply State.startCxl_keeps | with_reducible apply State.startPorts_keeps | with_reducible apply State.startRamp_keeps | with_reducible apply State.wakeDeadLinks_keeps | with_reducible apply State.wakeDies_keeps | with_reducible apply State.wakeLinks_keeps | with_reducible apply State.writeArrays_keeps | (intro t b ht; try dsimp only) | split | fail_if_no_progress (with_reducible apply Keeps.mk) | exact id | exact fun _ => Nat.zero_le 4 | exact fun hp => (List.length_take ▸ Nat.le_trans (Nat.min_le_right _ _) (hp _)) | exact Memory.wf_write _ _ | exact Memory.wf_writeAll _ | exact Memory.wf_writeTagged _ _ _ | exact Memory.wf_stage _ _ _ | exact Memory.wf_spoil _ | exact fun hp => hp _)

theorem State.forcedOff_keeps {s0 s : State}  (hK : Keeps s0 s) :
    Keeps s0 (State.forcedOff s) := by
  unfold State.forcedOff
  try dsimp only
  repeat' (first | with_reducible assumption | with_reducible apply State.enterOff_keeps | with_reducible apply State.forEach_keeps | with_reducible apply State.forceFail_keeps | (intro t b ht; try dsimp only) | split | fail_if_no_progress (with_reducible apply Keeps.mk) | exact id | exact fun _ => Nat.zero_le 4 | exact fun hp => (List.length_take ▸ Nat.le_trans (Nat.min_le_right _ _) (hp _)) | exact Memory.wf_write _ _ | exact Memory.wf_writeAll _ | exact Memory.wf_writeTagged _ _ _ | exact Memory.wf_stage _ _ _ | exact Memory.wf_spoil _ | exact fun hp => hp _)

end Sys2Proof.Machine
end

