-- ==== Sys2Proof/Laws/KeepsMemOps.lean ====
section
/-! SUPPORT. Every operation of Machine/MemOps.lean leaves the queue as it is and keeps the invariant. -/

set_option linter.unusedVariables false
set_option linter.unusedTactic false
set_option linter.unreachableTactic false

namespace Sys2Proof.Machine

theorem State.countUncorr_keeps {s0 s : State} (d : MemDev) (addr bit : Nat) (hK : Keeps s0 s) :
    Keeps s0 (State.countUncorr s d addr bit) := by
  unfold State.countUncorr
  try dsimp only
  repeat' (first | with_reducible assumption | with_reducible apply State.countSat_keeps | with_reducible apply State.raise_keeps | with_reducible apply State.setPair_keeps | (intro t b ht; try dsimp only) | split | fail_if_no_progress (with_reducible apply Keeps.mk) | exact id | exact fun _ => Nat.zero_le 4 | exact fun hp => (List.length_take ▸ Nat.le_trans (Nat.min_le_right _ _) (hp _)) | exact Memory.wf_write _ _ | exact Memory.wf_writeAll _ | exact Memory.wf_writeTagged _ _ _ | exact Memory.wf_stage _ _ _ | exact Memory.wf_spoil _ | exact fun hp => hp _)

theorem State.noteUncorr_keeps {s0 s : State} (d : MemDev) (addr bit : Nat) (hK : Keeps s0 s) :
    Keeps s0 (State.noteUncorr s d addr bit) := by
  unfold State.noteUncorr
  try dsimp only
  repeat' (first | with_reducible assumption | with_reducible apply State.countUncorr_keeps | with_reducible apply State.record_keeps | (intro t b ht; try dsimp only) | split | fail_if_no_progress (with_reducible apply Keeps.mk) | exact id | exact fun _ => Nat.zero_le 4 | exact fun hp => (List.length_take ▸ Nat.le_trans (Nat.min_le_right _ _) (hp _)) | exact Memory.wf_write _ _ | exact Memory.wf_writeAll _ | exact Memory.wf_writeTagged _ _ _ | exact Memory.wf_stage _ _ _ | exact Memory.wf_spoil _ | exact fun hp => hp _)

theorem State.noteCorr_keeps {s0 s : State} (d : MemDev) (hK : Keeps s0 s) :
    Keeps s0 (State.noteCorr s d) := by
  unfold State.noteCorr
  try dsimp only
  repeat' (first | with_reducible assumption | with_reducible apply State.countSat_keeps | with_reducible apply State.raise_keeps | (intro t b ht; try dsimp only) | split | fail_if_no_progress (with_reducible apply Keeps.mk) | exact id | exact fun _ => Nat.zero_le 4 | exact fun hp => (List.length_take ▸ Nat.le_trans (Nat.min_le_right _ _) (hp _)) | exact Memory.wf_write _ _ | exact Memory.wf_writeAll _ | exact Memory.wf_writeTagged _ _ _ | exact Memory.wf_stage _ _ _ | exact Memory.wf_spoil _ | exact fun hp => hp _)

theorem State.readNote_keeps {s0 s : State} (x : ReadNote) (hK : Keeps s0 s) :
    Keeps s0 (State.readNote s x) := by
  unfold State.readNote
  try dsimp only
  repeat' (first | with_reducible assumption | with_reducible apply State.countSat_keeps | with_reducible apply State.noteCorr_keeps | (intro t b ht; try dsimp only) | split | fail_if_no_progress (with_reducible apply Keeps.mk) | exact id | exact fun _ => Nat.zero_le 4 | exact fun hp => (List.length_take ▸ Nat.le_trans (Nat.min_le_right _ _) (hp _)) | exact Memory.wf_write _ _ | exact Memory.wf_writeAll _ | exact Memory.wf_writeTagged _ _ _ | exact Memory.wf_stage _ _ _ | exact Memory.wf_spoil _ | exact fun hp => hp _)

theorem State.meetUpsets_keeps {s0 s : State} (a n : Nat) (hK : Keeps s0 s) :
    Keeps s0 (State.meetUpsets s a n) := by
  unfold State.meetUpsets
  try dsimp only
  repeat' (first | with_reducible assumption | with_reducible apply State.forEach_keeps | with_reducible apply State.readNote_keeps | (intro t b ht; try dsimp only) | split | fail_if_no_progress (with_reducible apply Keeps.mk) | exact id | exact fun _ => Nat.zero_le 4 | exact fun hp => (List.length_take ▸ Nat.le_trans (Nat.min_le_right _ _) (hp _)) | exact Memory.wf_write _ _ | exact Memory.wf_writeAll _ | exact Memory.wf_writeTagged _ _ _ | exact Memory.wf_stage _ _ _ | exact Memory.wf_spoil _ | exact fun hp => hp _)

theorem State.eccMeets_keeps {s0 s : State} (a n : Nat) (hK : Keeps s0 s) :
    Keeps s0 (State.eccMeets s a n).1 := by
  unfold State.eccMeets
  try dsimp only
  repeat' (first | with_reducible assumption | with_reducible apply State.disarm_keeps | with_reducible apply State.forEach_keeps | with_reducible apply State.meetUpsets_keeps | with_reducible apply State.noteCorr_keeps | (intro t b ht; try dsimp only) | split | fail_if_no_progress (with_reducible apply Keeps.mk) | exact id | exact fun _ => Nat.zero_le 4 | exact fun hp => (List.length_take ▸ Nat.le_trans (Nat.min_le_right _ _) (hp _)) | exact Memory.wf_write _ _ | exact Memory.wf_writeAll _ | exact Memory.wf_writeTagged _ _ _ | exact Memory.wf_stage _ _ _ | exact Memory.wf_spoil _ | exact fun hp => hp _)

theorem State.eccRead_keeps {s0 s : State} (a n : Nat) (hK : Keeps s0 s) :
    Keeps s0 (State.eccRead s a n).1 := by
  unfold State.eccRead
  try dsimp only
  repeat' (first | with_reducible assumption | with_reducible apply State.eccMeets_keeps | with_reducible apply State.forEach_keeps | with_reducible apply State.noteUncorr_keeps | with_reducible apply State.record_keeps | (intro t b ht; try dsimp only) | split | fail_if_no_progress (with_reducible apply Keeps.mk) | exact id | exact fun _ => Nat.zero_le 4 | exact fun hp => (List.length_take ▸ Nat.le_trans (Nat.min_le_right _ _) (hp _)) | exact Memory.wf_write _ _ | exact Memory.wf_writeAll _ | exact Memory.wf_writeTagged _ _ _ | exact Memory.wf_stage _ _ _ | exact Memory.wf_spoil _ | exact fun hp => hp _)

theorem State.eccHostRead_keeps {s0 s : State} (a n : Nat) (hK : Keeps s0 s) :
    Keeps s0 (State.eccHostRead s a n).1 := by
  unfold State.eccHostRead
  try dsimp only
  repeat' (first | with_reducible assumption | with_reducible apply State.countUncorr_keeps | with_reducible apply State.eccMeets_keeps | with_reducible apply State.forEach_keeps | (intro t b ht; try dsimp only) | split | fail_if_no_progress (with_reducible apply Keeps.mk) | exact id | exact fun _ => Nat.zero_le 4 | exact fun hp => (List.length_take ▸ Nat.le_trans (Nat.min_le_right _ _) (hp _)) | exact Memory.wf_write _ _ | exact Memory.wf_writeAll _ | exact Memory.wf_writeTagged _ _ _ | exact Memory.wf_stage _ _ _ | exact Memory.wf_spoil _ | exact fun hp => hp _)

theorem State.writeBurst_keeps {s0 s : State} (a n : Nat) (hK : Keeps s0 s) :
    Keeps s0 (State.writeBurst s a n) := by
  unfold State.writeBurst
  try dsimp only
  repeat' (first | with_reducible assumption | with_reducible apply State.eccRead_keeps | with_reducible apply State.forEach_keeps | with_reducible apply State.readNote_keeps | (intro t b ht; try dsimp only) | split | fail_if_no_progress (with_reducible apply Keeps.mk) | exact id | exact fun _ => Nat.zero_le 4 | exact fun hp => (List.length_take ▸ Nat.le_trans (Nat.min_le_right _ _) (hp _)) | exact Memory.wf_write _ _ | exact Memory.wf_writeAll _ | exact Memory.wf_writeTagged _ _ _ | exact Memory.wf_stage _ _ _ | exact Memory.wf_spoil _ | exact fun hp => hp _)

theorem State.writeMem_keeps {s0 s : State} (a : Nat) (bs : List U8) (hK : Keeps s0 s) :
    Keeps s0 (State.writeMem s a bs) := by
  unfold State.writeMem
  try dsimp only
  repeat' (first | with_reducible assumption | with_reducible apply State.writeBurst_keeps | (intro t b ht; try dsimp only) | split | fail_if_no_progress (with_reducible apply Keeps.mkMem) | fail_if_no_progress (with_reducible apply Keeps.mk) | exact id | exact fun _ => Nat.zero_le 4 | exact fun hp => (List.length_take ▸ Nat.le_trans (Nat.min_le_right _ _) (hp _)) | exact Memory.wf_write _ _ | exact Memory.wf_writeAll _ | exact Memory.wf_writeTagged _ _ _ | exact Memory.wf_stage _ _ _ | exact Memory.wf_spoil _ | exact fun hp => hp _)

theorem State.writeMemTagged_keeps {s0 s : State} (a : Nat) (bs : List U8) (t : U32) (hK : Keeps s0 s) :
    Keeps s0 (State.writeMemTagged s a bs t) := by
  unfold State.writeMemTagged
  try dsimp only
  repeat' (first | with_reducible assumption | with_reducible apply State.writeBurst_keeps | (intro t b ht; try dsimp only) | split | fail_if_no_progress (with_reducible apply Keeps.mkMem) | fail_if_no_progress (with_reducible apply Keeps.mk) | exact id | exact fun _ => Nat.zero_le 4 | exact fun hp => (List.length_take ▸ Nat.le_trans (Nat.min_le_right _ _) (hp _)) | exact Memory.wf_write _ _ | exact Memory.wf_writeAll _ | exact Memory.wf_writeTagged _ _ _ | exact Memory.wf_stage _ _ _ | exact Memory.wf_spoil _ | exact fun hp => hp _)

theorem State.writeMemAll_keeps {s0 s : State} (ws : List (Nat × List U8)) (hK : Keeps s0 s) :
    Keeps s0 (State.writeMemAll s ws) := by
  unfold State.writeMemAll
  try dsimp only
  repeat' (first | with_reducible assumption | with_reducible apply State.forEach_keeps | with_reducible apply State.writeMem_keeps | (intro t b ht; try dsimp only) | split | fail_if_no_progress (with_reducible apply Keeps.mk) | exact id | exact fun _ => Nat.zero_le 4 | exact fun hp => (List.length_take ▸ Nat.le_trans (Nat.min_le_right _ _) (hp _)) | exact Memory.wf_write _ _ | exact Memory.wf_writeAll _ | exact Memory.wf_writeTagged _ _ _ | exact Memory.wf_stage _ _ _ | exact Memory.wf_spoil _ | exact fun hp => hp _)

theorem State.upset_keeps {s0 s : State} (line kind : Nat) (hK : Keeps s0 s) :
    Keeps s0 (State.upset s line kind) := by
  unfold State.upset
  try dsimp only
  repeat' (first | with_reducible assumption | (intro t b ht; try dsimp only) | split | fail_if_no_progress (with_reducible apply Keeps.mkMem) | fail_if_no_progress (with_reducible apply Keeps.mk) | exact id | exact fun _ => Nat.zero_le 4 | exact fun hp => (List.length_take ▸ Nat.le_trans (Nat.min_le_right _ _) (hp _)) | exact Memory.wf_write _ _ | exact Memory.wf_writeAll _ | exact Memory.wf_writeTagged _ _ _ | exact Memory.wf_stage _ _ _ | exact Memory.wf_spoil _ | exact fun hp => hp _)

theorem State.idle_keeps {s0 s : State}  (hK : Keeps s0 s) :
    Keeps s0 (State.idle s) := by
  unfold State.idle
  try dsimp only
  repeat' (first | with_reducible assumption | with_reducible apply State.draw_keeps | with_reducible apply State.upset_keeps | (intro t b ht; try dsimp only) | split | fail_if_no_progress (with_reducible apply Keeps.mk) | exact id | exact fun _ => Nat.zero_le 4 | exact fun hp => (List.length_take ▸ Nat.le_trans (Nat.min_le_right _ _) (hp _)) | exact Memory.wf_write _ _ | exact Memory.wf_writeAll _ | exact Memory.wf_writeTagged _ _ _ | exact Memory.wf_stage _ _ _ | exact Memory.wf_spoil _ | exact fun hp => hp _)

theorem State.tempSample_keeps {s0 s : State} (d : MemDev) (t : Option (BitVec 8)) (hK : Keeps s0 s) :
    Keeps s0 (State.tempSample s d t) := by
  unfold State.tempSample
  try dsimp only
  repeat' (first | with_reducible assumption | with_reducible apply State.countSat_keeps | with_reducible apply State.raise_keeps | with_reducible apply State.setReg_keeps | (intro t b ht; try dsimp only) | split | fail_if_no_progress (with_reducible apply Keeps.mk) | exact id | exact fun _ => Nat.zero_le 4 | exact fun hp => (List.length_take ▸ Nat.le_trans (Nat.min_le_right _ _) (hp _)) | exact Memory.wf_write _ _ | exact Memory.wf_writeAll _ | exact Memory.wf_writeTagged _ _ _ | exact Memory.wf_stage _ _ _ | exact Memory.wf_spoil _ | exact fun hp => hp _)

theorem State.stackTrip_keeps {s0 s : State} (k : Nat) (t : Nat) (hK : Keeps s0 s) :
    Keeps s0 (State.stackTrip s k t) := by
  unfold State.stackTrip
  try dsimp only
  repeat' (first | with_reducible assumption | with_reducible apply State.baseDown_keeps | with_reducible apply State.noticeReset_keeps | with_reducible apply State.raise_keeps | with_reducible apply State.record_keeps | (intro t b ht; try dsimp only) | split | fail_if_no_progress (with_reducible apply Keeps.mk) | exact id | exact fun _ => Nat.zero_le 4 | exact fun hp => (List.length_take ▸ Nat.le_trans (Nat.min_le_right _ _) (hp _)) | exact Memory.wf_write _ _ | exact Memory.wf_writeAll _ | exact Memory.wf_writeTagged _ _ _ | exact Memory.wf_stage _ _ _ | exact Memory.wf_spoil _ | exact fun hp => hp _)

theorem State.scrubLine_keeps {s0 s : State} (d : MemDev) (a : Nat) (find : Option ScrubFind) (hK : Keeps s0 s) :
    Keeps s0 (State.scrubLine s d a find) := by
  unfold State.scrubLine
  try dsimp only
  repeat' (first | with_reducible assumption | with_reducible apply State.disarm_keeps | with_reducible apply State.meetUpsets_keeps | with_reducible apply State.noteCorr_keeps | with_reducible apply State.noteUncorr_keeps | (intro t b ht; try dsimp only) | split | fail_if_no_progress (with_reducible apply Keeps.mkMem) | fail_if_no_progress (with_reducible apply Keeps.mk) | exact id | exact fun _ => Nat.zero_le 4 | exact fun hp => (List.length_take ▸ Nat.le_trans (Nat.min_le_right _ _) (hp _)) | exact Memory.wf_write _ _ | exact Memory.wf_writeAll _ | exact Memory.wf_writeTagged _ _ _ | exact Memory.wf_stage _ _ _ | exact Memory.wf_spoil _ | exact fun hp => hp _)

theorem State.scrubNext_keeps {s0 s : State} (d : MemDev) (hK : Keeps s0 s) :
    Keeps s0 (State.scrubNext s d) := by
  unfold State.scrubNext
  try dsimp only
  repeat' (first | with_reducible assumption | with_reducible apply State.countWrap_keeps | with_reducible apply State.setReg_keeps | (intro t b ht; try dsimp only) | split | fail_if_no_progress (with_reducible apply Keeps.mk) | exact id | exact fun _ => Nat.zero_le 4 | exact fun hp => (List.length_take ▸ Nat.le_trans (Nat.min_le_right _ _) (hp _)) | exact Memory.wf_write _ _ | exact Memory.wf_writeAll _ | exact Memory.wf_writeTagged _ _ _ | exact Memory.wf_stage _ _ _ | exact Memory.wf_spoil _ | exact fun hp => hp _)

theorem State.refuseRegion_keeps {s0 s : State} (j n reason : Nat) (hK : Keeps s0 s) :
    Keeps s0 (State.refuseRegion s j n reason) := by
  unfold State.refuseRegion
  try dsimp only
  repeat' (first | with_reducible assumption | with_reducible apply State.raise_keeps | with_reducible apply State.setReg_keeps | (intro t b ht; try dsimp only) | split | fail_if_no_progress (with_reducible apply Keeps.mk) | exact id | exact fun _ => Nat.zero_le 4 | exact fun hp => (List.length_take ▸ Nat.le_trans (Nat.min_le_right _ _) (hp _)) | exact Memory.wf_write _ _ | exact Memory.wf_writeAll _ | exact Memory.wf_writeTagged _ _ _ | exact Memory.wf_stage _ _ _ | exact Memory.wf_spoil _ | exact fun hp => hp _)

theorem State.regionCtrl_keeps {s0 s : State} (v : U32) (hK : Keeps s0 s) :
    Keeps s0 (State.regionCtrl s v) := by
  unfold State.regionCtrl
  try dsimp only
  repeat' (first | with_reducible assumption | with_reducible apply State.refuseRegion_keeps | with_reducible apply State.setRegion_keeps | (intro t b ht; try dsimp only) | split | fail_if_no_progress (with_reducible apply Keeps.mk) | exact id | exact fun _ => Nat.zero_le 4 | exact fun hp => (List.length_take ▸ Nat.le_trans (Nat.min_le_right _ _) (hp _)) | exact Memory.wf_write _ _ | exact Memory.wf_writeAll _ | exact Memory.wf_writeTagged _ _ _ | exact Memory.wf_stage _ _ _ | exact Memory.wf_spoil _ | exact fun hp => hp _)

theorem State.regionBounds_keeps {s0 s : State} (limit : Bool) (v : Nat) (hK : Keeps s0 s) :
    Keeps s0 (State.regionBounds s limit v) := by
  unfold State.regionBounds
  try dsimp only
  repeat' (first | with_reducible assumption | with_reducible apply State.refuseRegion_keeps | with_reducible apply State.setRegion_keeps | (intro t b ht; try dsimp only) | split | fail_if_no_progress (with_reducible apply Keeps.mk) | exact id | exact fun _ => Nat.zero_le 4 | exact fun hp => (List.length_take ▸ Nat.le_trans (Nat.min_le_right _ _) (hp _)) | exact Memory.wf_write _ _ | exact Memory.wf_writeAll _ | exact Memory.wf_writeTagged _ _ _ | exact Memory.wf_stage _ _ _ | exact Memory.wf_spoil _ | exact fun hp => hp _)

end Sys2Proof.Machine
end

