-- ==== Sys2Proof/Laws/KeepsModuleOps.lean ====
section
/-! SUPPORT. Every operation of Machine/ModuleOps.lean leaves the queue as it is and keeps the invariant. -/

set_option linter.unusedVariables false
set_option linter.unusedTactic false
set_option linter.unreachableTactic false

namespace Sys2Proof.Machine

theorem State.stopTwinOf_keeps {s0 s : State} (j : Nat) (hK : Keeps s0 s) :
    Keeps s0 (State.stopTwinOf s j) := by
  unfold State.stopTwinOf
  try dsimp only
  repeat' (first | with_reducible assumption | with_reducible apply State.stopTwin_keeps | (intro t b ht; try dsimp only) | split | fail_if_no_progress (with_reducible apply Keeps.mk) | exact id | exact fun _ => Nat.zero_le 4 | exact fun hp => (List.length_take ▸ Nat.le_trans (Nat.min_le_right _ _) (hp _)) | exact Memory.wf_write _ _ | exact Memory.wf_writeAll _ | exact Memory.wf_writeTagged _ _ _ | exact Memory.wf_stage _ _ _ | exact Memory.wf_spoil _ | exact fun hp => hp _)

theorem State.checkTwinKey_keeps {s0 s : State}  (hK : Keeps s0 s) :
    Keeps s0 (State.checkTwinKey s) := by
  unfold State.checkTwinKey
  try dsimp only
  repeat' (first | with_reducible assumption | with_reducible apply State.stopTwin_keeps | (intro t b ht; try dsimp only) | split | fail_if_no_progress (with_reducible apply Keeps.mk) | exact id | exact fun _ => Nat.zero_le 4 | exact fun hp => (List.length_take ▸ Nat.le_trans (Nat.min_le_right _ _) (hp _)) | exact Memory.wf_write _ _ | exact Memory.wf_writeAll _ | exact Memory.wf_writeTagged _ _ _ | exact Memory.wf_stage _ _ _ | exact Memory.wf_spoil _ | exact fun hp => hp _)

theorem State.checkQuorum_keeps {s0 s : State} (i : Nat) (hK : Keeps s0 s) :
    Keeps s0 (State.checkQuorum s i) := by
  unfold State.checkQuorum
  try dsimp only
  repeat' (first | with_reducible assumption | with_reducible apply State.raise_keeps | with_reducible apply State.setSlot_keeps | with_reducible apply State.stopTwinOf_keeps | (intro t b ht; try dsimp only) | split | fail_if_no_progress (with_reducible apply Keeps.mk) | exact id | exact fun _ => Nat.zero_le 4 | exact fun hp => (List.length_take ▸ Nat.le_trans (Nat.min_le_right _ _) (hp _)) | exact Memory.wf_write _ _ | exact Memory.wf_writeAll _ | exact Memory.wf_writeTagged _ _ _ | exact Memory.wf_stage _ _ _ | exact Memory.wf_spoil _ | exact fun hp => hp _)

theorem State.checkHorizon_keeps {s0 s : State} (j : Nat) (hK : Keeps s0 s) :
    Keeps s0 (State.checkHorizon s j) := by
  unfold State.checkHorizon
  try dsimp only
  repeat' (first | with_reducible assumption | with_reducible apply State.updJob_keeps | (intro t b ht; try dsimp only) | split | fail_if_no_progress (with_reducible apply Keeps.mk) | exact id | exact fun _ => Nat.zero_le 4 | exact fun hp => (List.length_take ▸ Nat.le_trans (Nat.min_le_right _ _) (hp _)) | exact Memory.wf_write _ _ | exact Memory.wf_writeAll _ | exact Memory.wf_writeTagged _ _ _ | exact Memory.wf_stage _ _ _ | exact Memory.wf_spoil _ | exact fun hp => hp _)

theorem State.contribEnd_keeps {s0 s : State} (j u : Nat) (hK : Keeps s0 s) :
    Keeps s0 (State.contribEnd s j u) := by
  unfold State.contribEnd
  try dsimp only
  repeat' (first | with_reducible assumption | with_reducible apply State.setJob_keeps | (intro t b ht; try dsimp only) | split | fail_if_no_progress (with_reducible apply Keeps.mk) | exact id | exact fun _ => Nat.zero_le 4 | exact fun hp => (List.length_take ▸ Nat.le_trans (Nat.min_le_right _ _) (hp _)) | exact Memory.wf_write _ _ | exact Memory.wf_writeAll _ | exact Memory.wf_writeTagged _ _ _ | exact Memory.wf_stage _ _ _ | exact Memory.wf_spoil _ | exact fun hp => hp _)

theorem State.clearCheck_keeps {s0 s : State} (base id j : Nat) (hK : Keeps s0 s) :
    Keeps s0 (State.clearCheck s base id j) := by
  unfold State.clearCheck
  try dsimp only
  repeat' (first | with_reducible assumption | with_reducible apply State.updJob_keeps | (intro t b ht; try dsimp only) | split | fail_if_no_progress (with_reducible apply Keeps.mk) | exact id | exact fun _ => Nat.zero_le 4 | exact fun hp => (List.length_take ▸ Nat.le_trans (Nat.min_le_right _ _) (hp _)) | exact Memory.wf_write _ _ | exact Memory.wf_writeAll _ | exact Memory.wf_writeTagged _ _ _ | exact Memory.wf_stage _ _ _ | exact Memory.wf_spoil _ | exact fun hp => hp _)

theorem State.sendClean_keeps {s0 s : State} (j : Nat) (hK : Keeps s0 s) :
    Keeps s0 (State.sendClean s j) := by
  unfold State.sendClean
  try dsimp only
  repeat' (first | with_reducible assumption | with_reducible apply State.broadcast_keeps | (intro t b ht; try dsimp only) | split | fail_if_no_progress (with_reducible apply Keeps.mk) | exact id | exact fun _ => Nat.zero_le 4 | exact fun hp => (List.length_take ▸ Nat.le_trans (Nat.min_le_right _ _) (hp _)) | exact Memory.wf_write _ _ | exact Memory.wf_writeAll _ | exact Memory.wf_writeTagged _ _ _ | exact Memory.wf_stage _ _ _ | exact Memory.wf_spoil _ | exact fun hp => hp _)

theorem State.retractUpd_keeps {s0 s : State} (u : Upd) (hK : Keeps s0 s) :
    Keeps s0 (State.retractUpd s u) := by
  unfold State.retractUpd
  try dsimp only
  repeat' (first | with_reducible assumption | with_reducible apply State.failFiring_keeps | with_reducible apply State.failStream_keeps | (intro t b ht; try dsimp only) | split | fail_if_no_progress (with_reducible apply Keeps.mk) | exact id | exact fun _ => Nat.zero_le 4 | exact fun hp => (List.length_take ▸ Nat.le_trans (Nat.min_le_right _ _) (hp _)) | exact Memory.wf_write _ _ | exact Memory.wf_writeAll _ | exact Memory.wf_writeTagged _ _ _ | exact Memory.wf_stage _ _ _ | exact Memory.wf_spoil _ | exact fun hp => hp _)

theorem State.retractEffects_keeps {s0 s : State} (j r : Nat) (hK : Keeps s0 s) :
    Keeps s0 (State.retractEffects s j r) := by
  unfold State.retractEffects
  try dsimp only
  repeat' (first | with_reducible assumption | with_reducible apply State.forEach_keeps | with_reducible apply State.retractUpd_keeps | with_reducible apply State.setJob_keeps | (intro t b ht; try dsimp only) | split | fail_if_no_progress (with_reducible apply Keeps.mk) | exact id | exact fun _ => Nat.zero_le 4 | exact fun hp => (List.length_take ▸ Nat.le_trans (Nat.min_le_right _ _) (hp _)) | exact Memory.wf_write _ _ | exact Memory.wf_writeAll _ | exact Memory.wf_writeTagged _ _ _ | exact Memory.wf_stage _ _ _ | exact Memory.wf_spoil _ | exact fun hp => hp _)

theorem State.recordEach_keeps {s0 s : State} (l : List Nat) (e : Event) (hK : Keeps s0 s) :
    Keeps s0 (State.recordEach s l e) := by
  unfold State.recordEach
  try dsimp only
  repeat' (first | with_reducible assumption | with_reducible apply State.forEach_keeps | with_reducible apply State.record_keeps | with_reducible apply State.recordStream_keeps | (intro t b ht; try dsimp only) | split | fail_if_no_progress (with_reducible apply Keeps.mk) | exact id | exact fun _ => Nat.zero_le 4 | exact fun hp => (List.length_take ▸ Nat.le_trans (Nat.min_le_right _ _) (hp _)) | exact Memory.wf_write _ _ | exact Memory.wf_writeAll _ | exact Memory.wf_writeTagged _ _ _ | exact Memory.wf_stage _ _ _ | exact Memory.wf_spoil _ | exact fun hp => hp _)

theorem State.sendRetract_keeps {s0 s : State} (j n group first count : Nat) (hK : Keeps s0 s) :
    Keeps s0 (State.sendRetract s j n group first count) := by
  unfold State.sendRetract
  try dsimp only
  repeat' (first | with_reducible assumption | with_reducible apply State.broadcast_keeps | with_reducible apply State.draw_keeps | with_reducible apply State.raise_keeps | with_reducible apply State.recordEach_keeps | with_reducible apply State.retractEffects_keeps | with_reducible apply State.setJob_keeps | (intro t b ht; try dsimp only) | split | fail_if_no_progress (with_reducible apply Keeps.mk) | exact id | exact fun _ => Nat.zero_le 4 | exact fun hp => (List.length_take ▸ Nat.le_trans (Nat.min_le_right _ _) (hp _)) | exact Memory.wf_write _ _ | exact Memory.wf_writeAll _ | exact Memory.wf_writeTagged _ _ _ | exact Memory.wf_stage _ _ _ | exact Memory.wf_spoil _ | exact fun hp => hp _)

theorem State.unmatched_keeps {s0 s : State} (e : UniEntry) (hK : Keeps s0 s) :
    Keeps s0 (State.unmatched s e) := by
  unfold State.unmatched
  try dsimp only
  repeat' (first | with_reducible assumption | with_reducible apply State.countSat_keeps | with_reducible apply State.raise_keeps | with_reducible apply State.record_keeps | (intro t b ht; try dsimp only) | split | fail_if_no_progress (with_reducible apply Keeps.mk) | exact id | exact fun _ => Nat.zero_le 4 | exact fun hp => (List.length_take ▸ Nat.le_trans (Nat.min_le_right _ _) (hp _)) | exact Memory.wf_write _ _ | exact Memory.wf_writeAll _ | exact Memory.wf_writeTagged _ _ _ | exact Memory.wf_stage _ _ _ | exact Memory.wf_spoil _ | exact fun hp => hp _)

theorem State.expel_keeps {s0 s : State} (j : Nat) (key : U32) (step : Nat) (own : Nat) (hK : Keeps s0 s) :
    Keeps s0 (State.expel s j key step own) := by
  unfold State.expel
  try dsimp only
  repeat' (first | with_reducible assumption | with_reducible apply State.checkHorizon_keeps | with_reducible apply State.failStream_keeps | with_reducible apply State.forEach_keeps | with_reducible apply State.raise_keeps | with_reducible apply State.recordEach_keeps | with_reducible apply State.setSlot_keeps | with_reducible apply State.stopTwinOf_keeps | with_reducible apply State.updJob_keeps | (intro t b ht; try dsimp only) | split | fail_if_no_progress (with_reducible apply Keeps.mk) | exact id | exact fun _ => Nat.zero_le 4 | exact fun hp => (List.length_take ▸ Nat.le_trans (Nat.min_le_right _ _) (hp _)) | exact Memory.wf_write _ _ | exact Memory.wf_writeAll _ | exact Memory.wf_writeTagged _ _ _ | exact Memory.wf_stage _ _ _ | exact Memory.wf_spoil _ | exact fun hp => hp _)

theorem State.dispute_keeps {s0 s : State} (e : UniEntry) (own other : Nat) (hK : Keeps s0 s) :
    Keeps s0 (State.dispute s e own other) := by
  unfold State.dispute
  try dsimp only
  repeat' (first | with_reducible assumption | with_reducible apply State.failStream_keeps | with_reducible apply State.forEach_keeps | with_reducible apply State.raise_keeps | with_reducible apply State.record_keeps | with_reducible apply State.updJob_keeps | (intro t b ht; try dsimp only) | split | fail_if_no_progress (with_reducible apply Keeps.mk) | exact id | exact fun _ => Nat.zero_le 4 | exact fun hp => (List.length_take ▸ Nat.le_trans (Nat.min_le_right _ _) (hp _)) | exact Memory.wf_write _ _ | exact Memory.wf_writeAll _ | exact Memory.wf_writeTagged _ _ _ | exact Memory.wf_stage _ _ _ | exact Memory.wf_spoil _ | exact fun hp => hp _)

theorem State.suspect_keeps {s0 s : State} (e : UniEntry) (rank own other : Nat) (hK : Keeps s0 s) :
    Keeps s0 (State.suspect s e rank own other) := by
  unfold State.suspect
  try dsimp only
  repeat' (first | with_reducible assumption | with_reducible apply State.countSat_keeps | with_reducible apply State.raise_keeps | with_reducible apply State.record_keeps | (intro t b ht; try dsimp only) | split | fail_if_no_progress (with_reducible apply Keeps.mk) | exact id | exact fun _ => Nat.zero_le 4 | exact fun hp => (List.length_take ▸ Nat.le_trans (Nat.min_le_right _ _) (hp _)) | exact Memory.wf_write _ _ | exact Memory.wf_writeAll _ | exact Memory.wf_writeTagged _ _ _ | exact Memory.wf_stage _ _ _ | exact Memory.wf_spoil _ | exact fun hp => hp _)

theorem State.rotateAll_keeps {s0 s : State}  (hK : Keeps s0 s) :
    Keeps s0 (State.rotateAll s) := by
  unfold State.rotateAll
  try dsimp only
  repeat' (first | with_reducible assumption | with_reducible apply State.dueNow_keeps | with_reducible apply State.forEach_keeps | (intro t b ht; try dsimp only) | split | fail_if_no_progress (with_reducible apply Keeps.mk) | exact id | exact fun _ => Nat.zero_le 4 | exact fun hp => (List.length_take ▸ Nat.le_trans (Nat.min_le_right _ _) (hp _)) | exact Memory.wf_write _ _ | exact Memory.wf_writeAll _ | exact Memory.wf_writeTagged _ _ _ | exact Memory.wf_stage _ _ _ | exact Memory.wf_spoil _ | exact fun hp => hp _)

theorem State.rotate_keeps {s0 s : State} (j : Nat) (hK : Keeps s0 s) :
    Keeps s0 (State.rotate s j) := by
  unfold State.rotate
  try dsimp only
  repeat' (first | with_reducible assumption | with_reducible apply State.rotateAll_keeps | with_reducible apply State.updJob_keeps | (intro t b ht; try dsimp only) | split | fail_if_no_progress (with_reducible apply Keeps.mk) | exact id | exact fun _ => Nat.zero_le 4 | exact fun hp => (List.length_take ▸ Nat.le_trans (Nat.min_le_right _ _) (hp _)) | exact Memory.wf_write _ _ | exact Memory.wf_writeAll _ | exact Memory.wf_writeTagged _ _ _ | exact Memory.wf_stage _ _ _ | exact Memory.wf_spoil _ | exact fun hp => hp _)

theorem State.decideUnison_keeps {s0 s : State} (e : UniEntry) (r n : Nat) (own left right : U64) (hK : Keeps s0 s) :
    Keeps s0 (State.decideUnison s e r n own left right) := by
  unfold State.decideUnison
  try dsimp only
  repeat' (first | with_reducible assumption | with_reducible apply State.countWrap_keeps | with_reducible apply State.dispute_keeps | with_reducible apply State.expel_keeps | with_reducible apply State.record_keeps | with_reducible apply State.rotate_keeps | with_reducible apply State.suspect_keeps | with_reducible apply State.updJob_keeps | (intro t b ht; try dsimp only) | split | fail_if_no_progress (with_reducible apply Keeps.mk) | exact id | exact fun _ => Nat.zero_le 4 | exact fun hp => (List.length_take ▸ Nat.le_trans (Nat.min_le_right _ _) (hp _)) | exact Memory.wf_write _ _ | exact Memory.wf_writeAll _ | exact Memory.wf_writeTagged _ _ _ | exact Memory.wf_stage _ _ _ | exact Memory.wf_spoil _ | exact fun hp => hp _)

theorem State.tryDecide_keeps {s0 s : State} (e : UniEntry) (hK : Keeps s0 s) :
    Keeps s0 (State.tryDecide s e) := by
  unfold State.tryDecide
  try dsimp only
  repeat' (first | with_reducible assumption | with_reducible apply State.decideUnison_keeps | (intro t b ht; try dsimp only) | split | fail_if_no_progress (with_reducible apply Keeps.mk) | exact id | exact fun _ => Nat.zero_le 4 | exact fun hp => (List.length_take ▸ Nat.le_trans (Nat.min_le_right _ _) (hp _)) | exact Memory.wf_write _ _ | exact Memory.wf_writeAll _ | exact Memory.wf_writeTagged _ _ _ | exact Memory.wf_stage _ _ _ | exact Memory.wf_spoil _ | exact fun hp => hp _)

theorem State.storeDigest_keeps {s0 s : State} (j : Nat) (key : U32) (step : U48) (f : UniEntry → UniEntry) (hK : Keeps s0 s) :
    Keeps s0 (State.storeDigest s j key step f) := by
  unfold State.storeDigest
  try dsimp only
  repeat' (first | with_reducible assumption | with_reducible apply State.tryDecide_keeps | with_reducible apply State.unmatched_keeps | (intro t b ht; try dsimp only) | split | fail_if_no_progress (with_reducible apply Keeps.mk) | exact id | exact fun _ => Nat.zero_le 4 | exact fun hp => (List.length_take ▸ Nat.le_trans (Nat.min_le_right _ _) (hp _)) | exact Memory.wf_write _ _ | exact Memory.wf_writeAll _ | exact Memory.wf_writeTagged _ _ _ | exact Memory.wf_stage _ _ _ | exact Memory.wf_spoil _ | exact fun hp => hp _)

theorem State.sendDigest_keeps {s0 s : State} (j : Nat) (key : U32) (step : Nat) (d : U64) (hK : Keeps s0 s) :
    Keeps s0 (State.sendDigest s j key step d) := by
  unfold State.sendDigest
  try dsimp only
  repeat' (first | with_reducible assumption | with_reducible apply State.raise_keeps | with_reducible apply State.send_keeps | with_reducible apply State.storeDigest_keeps | (intro t b ht; try dsimp only) | split | fail_if_no_progress (with_reducible apply Keeps.mk) | exact id | exact fun _ => Nat.zero_le 4 | exact fun hp => (List.length_take ▸ Nat.le_trans (Nat.min_le_right _ _) (hp _)) | exact Memory.wf_write _ _ | exact Memory.wf_writeAll _ | exact Memory.wf_writeTagged _ _ _ | exact Memory.wf_stage _ _ _ | exact Memory.wf_spoil _ | exact fun hp => hp _)

end Sys2Proof.Machine
end

