-- ==== Sys2Proof/Laws/KeepsBinding.lean ====
section
/-! SUPPORT. Every operation of Machine/Binding.lean leaves the queue as it is and keeps the invariant. -/

set_option linter.unusedVariables false
set_option linter.unusedTactic false
set_option linter.unreachableTactic false

namespace Sys2Proof.Machine

theorem State.imgRead_keeps {s0 s : State} (a n : Nat) (hK : Keeps s0 s) :
    Keeps s0 (State.imgRead s a n).1 := by
  unfold State.imgRead
  try dsimp only
  repeat' (first | with_reducible assumption | with_reducible apply State.eccRead_keeps | (intro t b ht; try dsimp only) | split | fail_if_no_progress (with_reducible apply Keeps.mk) | exact id | exact fun _ => Nat.zero_le 4 | exact fun hp => (List.length_take ▸ Nat.le_trans (Nat.min_le_right _ _) (hp _)) | exact Memory.wf_write _ _ | exact Memory.wf_writeAll _ | exact Memory.wf_writeTagged _ _ _ | exact Memory.wf_stage _ _ _ | exact Memory.wf_spoil _ | exact fun hp => hp _)

theorem State.useCache_keeps {s0 s : State} (n : Nat) (p : Program) (plan : Plan) (hK : Keeps s0 s) :
    Keeps s0 (State.useCache s n p plan) := by
  unfold State.useCache
  try dsimp only
  repeat' (first | with_reducible assumption | with_reducible apply State.countWrap_keeps | (intro t b ht; try dsimp only) | split | fail_if_no_progress (with_reducible apply Keeps.mk) | exact id | exact fun _ => Nat.zero_le 4 | exact fun hp => (List.length_take ▸ Nat.le_trans (Nat.min_le_right _ _) (hp _)) | exact Memory.wf_write _ _ | exact Memory.wf_writeAll _ | exact Memory.wf_writeTagged _ _ _ | exact Memory.wf_stage _ _ _ | exact Memory.wf_spoil _ | exact fun hp => hp _)

theorem State.bound_keeps {s0 s : State} (n : Nat) (plan : Plan) (p : Program) (internals : List (Nat × Nat × Nat)) (hK : Keeps s0 s) :
    Keeps s0 (State.bound s n plan p internals) := by
  unfold State.bound
  try dsimp only
  repeat' (first | with_reducible assumption | with_reducible apply State.countWrap_keeps | with_reducible apply State.endSubmission_keeps | with_reducible apply State.enterRunning_keeps | with_reducible apply State.grantSlots_keeps | with_reducible apply State.useCache_keeps | (intro t b ht; try dsimp only) | split | fail_if_no_progress (with_reducible apply Keeps.mk) | exact id | exact fun _ => Nat.zero_le 4 | exact fun hp => (List.length_take ▸ Nat.le_trans (Nat.min_le_right _ _) (hp _)) | exact Memory.wf_write _ _ | exact Memory.wf_writeAll _ | exact Memory.wf_writeTagged _ _ _ | exact Memory.wf_stage _ _ _ | exact Memory.wf_spoil _ | exact fun hp => hp _)

theorem State.bindFailed_keeps {s0 s : State} (n : Nat) (code : U16) (items : List Nat) (hK : Keeps s0 s) :
    Keeps s0 (State.bindFailed s n code items) := by
  unfold State.bindFailed
  try dsimp only
  repeat' (first | with_reducible assumption | with_reducible apply State.draw_keeps | with_reducible apply State.endSubmission_keeps | with_reducible apply State.raise_keeps | with_reducible apply State.setReg_keeps | (intro t b ht; try dsimp only) | split | fail_if_no_progress (with_reducible apply Keeps.mk) | exact id | exact fun _ => Nat.zero_le 4 | exact fun hp => (List.length_take ▸ Nat.le_trans (Nat.min_le_right _ _) (hp _)) | exact Memory.wf_write _ _ | exact Memory.wf_writeAll _ | exact Memory.wf_writeTagged _ _ _ | exact Memory.wf_stage _ _ _ | exact Memory.wf_spoil _ | exact fun hp => hp _)

theorem State.bindMemory_keeps {s0 s : State} (n addr : Nat) (hK : Keeps s0 s) :
    Keeps s0 (State.bindMemory s n addr) := by
  unfold State.bindMemory
  try dsimp only
  repeat' (first | with_reducible assumption | with_reducible apply State.bindFailed_keeps | with_reducible apply State.noteUncorr_keeps | (intro t b ht; try dsimp only) | split | fail_if_no_progress (with_reducible apply Keeps.mkMem) | fail_if_no_progress (with_reducible apply Keeps.mk) | exact id | exact fun _ => Nat.zero_le 4 | exact fun hp => (List.length_take ▸ Nat.le_trans (Nat.min_le_right _ _) (hp _)) | exact Memory.wf_write _ _ | exact Memory.wf_writeAll _ | exact Memory.wf_writeTagged _ _ _ | exact Memory.wf_stage _ _ _ | exact Memory.wf_spoil _ | exact fun hp => hp _)

/-- The state that the checks of an image leave. -/
def ImgCheck.state : ImgCheck → State
  | .fail t _ _ => t
  | .ok t _ => t

theorem State.checkImage_keeps {s0 s : State} (n : Nat) (remote : List U8) (hK : Keeps s0 s) : Keeps s0 (s.checkImage n remote).state := by
  unfold State.checkImage
  dsimp only
  repeat' (first | with_reducible assumption | with_reducible apply State.imgRead_keeps | (show Keeps s0 (State.imgRead _ _ _).1) | split)

theorem ImgCheck.keeps_fail {s0 t : State} {c : U16} {l : List Nat} {e : ImgCheck} (he : e = .fail t c l) (h : Keeps s0 e.state) : Keeps s0 t := by
  rw [he] at h; exact h

theorem ImgCheck.keeps_ok {s0 t : State} {p : Program} {e : ImgCheck} (he : e = .ok t p) (h : Keeps s0 e.state) : Keeps s0 t := by
  rw [he] at h; exact h

end Sys2Proof.Machine
end

