-- ==== Sys2Proof/Laws/KeepsFrameOps.lean ====
section
/-! SUPPORT. Every operation of Machine/FrameOps.lean leaves the queue as it is and keeps the invariant. -/

set_option linter.unusedVariables false
set_option linter.unusedTactic false
set_option linter.unreachableTactic false

namespace Sys2Proof.Machine

theorem State.popFrame_keeps {s0 s : State} (p : Nat) (f : Frame) (hK : Keeps s0 s) :
    Keeps s0 (State.popFrame s p f) := by
  unfold State.popFrame
  try dsimp only
  repeat' (first | with_reducible assumption | with_reducible apply State.setPort_keeps | (intro t b ht; try dsimp only) | split | fail_if_no_progress (with_reducible apply Keeps.mk) | exact id | exact fun _ => Nat.zero_le 4 | exact fun hp => (List.length_take ▸ Nat.le_trans (Nat.min_le_right _ _) (hp _)) | exact Memory.wf_write _ _ | exact Memory.wf_writeAll _ | exact Memory.wf_writeTagged _ _ _ | exact Memory.wf_stage _ _ _ | exact Memory.wf_spoil _ | exact fun hp => hp _)

theorem State.forwardBcast_keeps {s0 s : State} (p : Nat) (f : Frame) (hK : Keeps s0 s) :
    Keeps s0 (State.forwardBcast s p f) := by
  unfold State.forwardBcast
  try dsimp only
  repeat' (first | with_reducible assumption | with_reducible apply State.broadcastOn_keeps | with_reducible apply State.countDrop_keeps | (intro t b ht; try dsimp only) | split | fail_if_no_progress (with_reducible apply Keeps.mk) | exact id | exact fun _ => Nat.zero_le 4 | exact fun hp => (List.length_take ▸ Nat.le_trans (Nat.min_le_right _ _) (hp _)) | exact Memory.wf_write _ _ | exact Memory.wf_writeAll _ | exact Memory.wf_writeTagged _ _ _ | exact Memory.wf_stage _ _ _ | exact Memory.wf_spoil _ | exact fun hp => hp _)

theorem State.takePort_keeps {s0 s : State} {x : State × Nat × Frame} (p type : Nat) (h : Keeps s0 s) (ht : s.takePort p type = some x) : Keeps s0 x.1 := by
  unfold State.takePort at ht
  split at ht
  · split at ht
    · cases ht
      dsimp only
      split
      · exact State.forwardBcast_keeps _ _ (State.popFrame_keeps _ _ h)
      · exact State.popFrame_keeps _ _ h
    · cases ht
  · cases ht

theorem State.takeFrame_keeps {s0 s : State} {x : State × Nat × Frame} (p type : Nat) (h : Keeps s0 s) (ht : s.takeFrame p type = some x) : Keeps s0 x.1 := by
  unfold State.takeFrame at ht
  split at ht
  · split at ht
    · cases ht
      exact Keeps.mk h
    · exact State.takePort_keeps p type h ht
  · exact State.takePort_keeps p type h ht

theorem State.onFrame_keeps {s0 s : State} (p type : Nat) (k : State → Nat → Frame → State) (h : Keeps s0 s)
    (hk : ∀ t q f, Keeps s0 t → Keeps s0 (k t q f)) : Keeps s0 (s.onFrame p type k) := by
  unfold State.onFrame
  split
  · rename_i ht
    exact hk _ _ _ (State.takeFrame_keeps p type h ht)
  · exact h

theorem State.onJobFrame_keeps {s0 s : State} (p type : Nat) (k : State → Nat → Frame → Nat → State) (h : Keeps s0 s)
    (hk : ∀ t q f j, Keeps s0 t → Keeps s0 (k t q f j)) : Keeps s0 (s.onJobFrame p type k) := by
  unfold State.onJobFrame
  refine State.onFrame_keeps p type _ h fun t q f ht => ?_
  split
  · exact hk _ _ _ _ ht
  · exact State.countDrop_keeps _ ht

end Sys2Proof.Machine
end

