-- ==== Sys2Proof/Laws/KeepsServiceOps.lean ====
section
/-! SUPPORT. Every operation of Machine/ServiceOps.lean leaves the queue as it is and keeps the invariant. -/

set_option linter.unusedVariables false
set_option linter.unusedTactic false
set_option linter.unreachableTactic false

namespace Sys2Proof.Machine

theorem State.reply_keeps {s0 s : State} (q : SvcReq) (op : Nat) (status : U16) (payload : List U8) (hK : Keeps s0 s) :
    Keeps s0 (State.reply s q op status payload) := by
  unfold State.reply
  try dsimp only
  repeat' (first | with_reducible assumption | with_reducible apply State.emit_keeps | (intro t b ht; try dsimp only) | split | fail_if_no_progress (with_reducible apply Keeps.mk) | exact id | exact fun _ => Nat.zero_le 4 | exact fun hp => (List.length_take ▸ Nat.le_trans (Nat.min_le_right _ _) (hp _)) | exact Memory.wf_write _ _ | exact Memory.wf_writeAll _ | exact Memory.wf_writeTagged _ _ _ | exact Memory.wf_stage _ _ _ | exact Memory.wf_spoil _ | exact fun hp => hp _)

theorem State.serve_keeps {s0 s : State} (q : SvcReq) (op role : Nat) (inRecovery : Bool) (f : State → State) (h : Keeps s0 s)
    (hf : ∀ t, Keeps s0 t → Keeps s0 (f t)) : Keeps s0 (s.serve q op role inRecovery f) := by
  unfold State.serve
  split
  · exact h
  · split
    · exact State.reply_keeps _ _ _ _ h
    · exact hf _ h

theorem State.releaseLock_keeps {s0 s : State}  (hK : Keeps s0 s) :
    Keeps s0 (State.releaseLock s) := by
  unfold State.releaseLock
  try dsimp only
  repeat' (first | with_reducible assumption | (intro t b ht; try dsimp only) | split | fail_if_no_progress (with_reducible apply Keeps.mk) | exact id | exact fun _ => Nat.zero_le 4 | exact fun hp => (List.length_take ▸ Nat.le_trans (Nat.min_le_right _ _) (hp _)) | exact Memory.wf_write _ _ | exact Memory.wf_writeAll _ | exact Memory.wf_writeTagged _ _ _ | exact Memory.wf_stage _ _ _ | exact Memory.wf_spoil _ | exact fun hp => hp _)

theorem State.endSession_keeps {s0 s : State} (i : Fin 4) (hK : Keeps s0 s) :
    Keeps s0 (State.endSession s i) := by
  unfold State.endSession
  try dsimp only
  repeat' (first | with_reducible assumption | with_reducible apply State.releaseLock_keeps | (intro t b ht; try dsimp only) | split | fail_if_no_progress (with_reducible apply Keeps.mk) | exact id | exact fun _ => Nat.zero_le 4 | exact fun hp => (List.length_take ▸ Nat.le_trans (Nat.min_le_right _ _) (hp _)) | exact Memory.wf_write _ _ | exact Memory.wf_writeAll _ | exact Memory.wf_writeTagged _ _ _ | exact Memory.wf_stage _ _ _ | exact Memory.wf_spoil _ | exact fun hp => hp _)

end Sys2Proof.Machine
end

