-- ==== Sys2Proof/Laws/KeepsFirmware.lean ====
section
/-! SUPPORT. Every operation of Machine/Firmware.lean leaves the queue as it is and keeps the invariant. -/

set_option linter.unusedVariables false
set_option linter.unusedTactic false
set_option linter.unreachableTactic false

namespace Sys2Proof.Machine

theorem State.fwResult_keeps {s0 s : State} (c : U16) (hK : Keeps s0 s) :
    Keeps s0 (State.fwResult s c) := by
  unfold State.fwResult
  try dsimp only
  repeat' (first | with_reducible assumption | with_reducible apply State.setReg_keeps | (intro t b ht; try dsimp only) | split | fail_if_no_progress (with_reducible apply Keeps.mk) | exact id | exact fun _ => Nat.zero_le 4 | exact fun hp => (List.length_take ▸ Nat.le_trans (Nat.min_le_right _ _) (hp _)) | exact Memory.wf_write _ _ | exact Memory.wf_writeAll _ | exact Memory.wf_writeTagged _ _ _ | exact Memory.wf_stage _ _ _ | exact Memory.wf_spoil _ | exact fun hp => hp _)

theorem State.fwReply_keeps {s0 s : State} (q : SvcReq) (op : Nat) (c : U16) (hK : Keeps s0 s) :
    Keeps s0 (State.fwReply s q op c) := by
  unfold State.fwReply
  try dsimp only
  repeat' (first | with_reducible assumption | with_reducible apply State.fwResult_keeps | with_reducible apply State.reply_keeps | (intro t b ht; try dsimp only) | split | fail_if_no_progress (with_reducible apply Keeps.mk) | exact id | exact fun _ => Nat.zero_le 4 | exact fun hp => (List.length_take ▸ Nat.le_trans (Nat.min_le_right _ _) (hp _)) | exact Memory.wf_write _ _ | exact Memory.wf_writeAll _ | exact Memory.wf_writeTagged _ _ _ | exact Memory.wf_stage _ _ _ | exact Memory.wf_spoil _ | exact fun hp => hp _)

theorem State.withUpdate_keeps {s0 s : State} (q : SvcReq) (op : Nat) (f : FwSession → State) (h : Keeps s0 s) (hf : ∀ w, Keeps s0 (f w)) :
    Keeps s0 (s.withUpdate q op f) := by
  unfold State.withUpdate
  split
  · split
    · exact hf _
    · exact State.fwReply_keeps _ _ _ h
  · exact State.fwReply_keeps _ _ _ h

end Sys2Proof.Machine
end

