-- ==== Sys2Proof/Laws/KeepsViews.lean ====
section
/-! SUPPORT. Every operation of Machine/Views.lean leaves the queue as it is and keeps the invariant. -/

set_option linter.unusedVariables false
set_option linter.unusedTactic false
set_option linter.unreachableTactic false

namespace Sys2Proof.Machine

theorem State.dropLatch_keeps {s0 s : State} (r : Requester) (hK : Keeps s0 s) :
    Keeps s0 (State.dropLatch s r) := by
  unfold State.dropLatch
  try dsimp only
  repeat' (first | with_reducible assumption | (intro t b ht; try dsimp only) | split | fail_if_no_progress (with_reducible apply Keeps.mk) | exact id | exact fun _ => Nat.zero_le 4 | exact fun hp => (List.length_take ▸ Nat.le_trans (Nat.min_le_right _ _) (hp _)) | exact Memory.wf_write _ _ | exact Memory.wf_writeAll _ | exact Memory.wf_writeTagged _ _ _ | exact Memory.wf_stage _ _ _ | exact Memory.wf_spoil _ | exact fun hp => hp _)

theorem State.barRead_keeps {s0 s : State} (r : Requester) (off : Nat) (hK : Keeps s0 s) :
    Keeps s0 (State.barRead s r off).1 := by
  unfold State.barRead
  try dsimp only
  repeat' (first | with_reducible assumption | with_reducible apply State.dropLatch_keeps | (intro t b ht; try dsimp only) | split | fail_if_no_progress (with_reducible apply Keeps.mk) | exact id | exact fun _ => Nat.zero_le 4 | exact fun hp => (List.length_take ▸ Nat.le_trans (Nat.min_le_right _ _) (hp _)) | exact Memory.wf_write _ _ | exact Memory.wf_writeAll _ | exact Memory.wf_writeTagged _ _ _ | exact Memory.wf_stage _ _ _ | exact Memory.wf_spoil _ | exact fun hp => hp _)

theorem State.barReads_keeps {s0 : State} (r : Requester) : ∀ (n off : Nat) {s : State}, Keeps s0 s → Keeps s0 (s.barReads r off n).1 := by
  intro n
  induction n with
  | zero => intro off s h; exact h
  | succ n ih => intro off s h; exact ih _ (State.barRead_keeps r off h)

end Sys2Proof.Machine
end

