-- ==== Sys2Proof/Laws/KeepsSpdm.lean ====
section
/-! SUPPORT. Every operation of Machine/Spdm.lean leaves the queue as it is and keeps the invariant. -/

set_option linter.unusedVariables false
set_option linter.unusedTactic false
set_option linter.unreachableTactic false

namespace Sys2Proof.Machine

theorem State.updPort_keeps {s0 s : State} (p : Nat) (f : CxlPort → CxlPort) (hK : Keeps s0 s) :
    Keeps s0 (State.updPort s p f) := by
  unfold State.updPort
  try dsimp only
  repeat' (first | with_reducible assumption | (intro t b ht; try dsimp only) | split | fail_if_no_progress (with_reducible apply Keeps.mk) | exact id | exact fun _ => Nat.zero_le 4 | exact fun hp => (List.length_take ▸ Nat.le_trans (Nat.min_le_right _ _) (hp _)) | exact Memory.wf_write _ _ | exact Memory.wf_writeAll _ | exact Memory.wf_writeTagged _ _ _ | exact Memory.wf_stage _ _ _ | exact Memory.wf_spoil _ | exact fun hp => hp _)

theorem State.setSpdm_keeps {s0 s : State} (t : SpdmTransport) (x : SpdmSt) (hK : Keeps s0 s) :
    Keeps s0 (State.setSpdm s t x) := by
  unfold State.setSpdm
  try dsimp only
  repeat' (first | with_reducible assumption | with_reducible apply State.mctp_keeps | with_reducible apply State.updPort_keeps | (intro t b ht; try dsimp only) | split | fail_if_no_progress (with_reducible apply Keeps.mk) | exact id | exact fun _ => Nat.zero_le 4 | exact fun hp => (List.length_take ▸ Nat.le_trans (Nat.min_le_right _ _) (hp _)) | exact Memory.wf_write _ _ | exact Memory.wf_writeAll _ | exact Memory.wf_writeTagged _ _ _ | exact Memory.wf_stage _ _ _ | exact Memory.wf_spoil _ | exact fun hp => hp _)

theorem State.spdmAnswer_keeps {s0 s : State} (t : SpdmTransport) (r : SpdmResp) (hK : Keeps s0 s) :
    Keeps s0 (State.spdmAnswer s t r) := by
  unfold State.spdmAnswer
  try dsimp only
  repeat' (first | with_reducible assumption | with_reducible apply State.countWrap_keeps | with_reducible apply State.emit_keeps | with_reducible apply State.raise_keeps | (intro t b ht; try dsimp only) | split | fail_if_no_progress (with_reducible apply Keeps.mk) | exact id | exact fun _ => Nat.zero_le 4 | exact fun hp => (List.length_take ▸ Nat.le_trans (Nat.min_le_right _ _) (hp _)) | exact Memory.wf_write _ _ | exact Memory.wf_writeAll _ | exact Memory.wf_writeTagged _ _ _ | exact Memory.wf_stage _ _ _ | exact Memory.wf_spoil _ | exact fun hp => hp _)

theorem State.onSpdm_keeps {s0 s : State} (t : SpdmTransport) (f : State → State) (hK : Keeps s0 s) (hf : ∀ t, Keeps s0 t → Keeps s0 (f t)) :
    Keeps s0 (State.onSpdm s t f) := by
  unfold State.onSpdm
  try dsimp only
  repeat' (first | with_reducible assumption | apply hf | (intro t b ht; try dsimp only) | split | fail_if_no_progress (with_reducible apply Keeps.mk) | exact id | exact fun _ => Nat.zero_le 4 | exact fun hp => (List.length_take ▸ Nat.le_trans (Nat.min_le_right _ _) (hp _)) | exact Memory.wf_write _ _ | exact Memory.wf_writeAll _ | exact Memory.wf_writeTagged _ _ _ | exact Memory.wf_stage _ _ _ | exact Memory.wf_spoil _ | exact fun hp => hp _)

theorem State.negotiated_keeps {s0 s : State} (t : SpdmTransport) (f : State → State) (hK : Keeps s0 s) (hf : ∀ t, Keeps s0 t → Keeps s0 (f t)) :
    Keeps s0 (State.negotiated s t f) := by
  unfold State.negotiated
  try dsimp only
  repeat' (first | with_reducible assumption | with_reducible apply State.spdmAnswer_keeps | apply hf | (intro t b ht; try dsimp only) | split | fail_if_no_progress (with_reducible apply Keeps.mk) | exact id | exact fun _ => Nat.zero_le 4 | exact fun hp => (List.length_take ▸ Nat.le_trans (Nat.min_le_right _ _) (hp _)) | exact Memory.wf_write _ _ | exact Memory.wf_writeAll _ | exact Memory.wf_writeTagged _ _ _ | exact Memory.wf_stage _ _ _ | exact Memory.wf_spoil _ | exact fun hp => hp _)

theorem State.onDoe_keeps {s0 s : State} (t : SpdmTransport) (f : State → State) (hK : Keeps s0 s) (hf : ∀ t, Keeps s0 t → Keeps s0 (f t)) :
    Keeps s0 (State.onDoe s t f) := by
  unfold State.onDoe
  try dsimp only
  repeat' (first | with_reducible assumption | with_reducible apply State.mctp_keeps | with_reducible apply State.negotiated_keeps | with_reducible apply State.spdmAnswer_keeps | apply hf | (intro t b ht; try dsimp only) | split | fail_if_no_progress (with_reducible apply Keeps.mk) | exact id | exact fun _ => Nat.zero_le 4 | exact fun hp => (List.length_take ▸ Nat.le_trans (Nat.min_le_right _ _) (hp _)) | exact Memory.wf_write _ _ | exact Memory.wf_writeAll _ | exact Memory.wf_writeTagged _ _ _ | exact Memory.wf_stage _ _ _ | exact Memory.wf_spoil _ | exact fun hp => hp _)

end Sys2Proof.Machine
end

