-- ==== Sys2Proof/Laws/KeepsWindows.lean ====
section
/-! SUPPORT. Every operation of Machine/Windows.lean leaves the queue as it is and keeps the invariant. -/

set_option linter.unusedVariables false
set_option linter.unusedTactic false
set_option linter.unreachableTactic false

namespace Sys2Proof.Machine

theorem State.addWait_keeps {s0 s : State} (u : Nat) (w : Wait) (hK : Keeps s0 s) :
    Keeps s0 (State.addWait s u w) := by
  unfold State.addWait
  try dsimp only
  repeat' (first | with_reducible assumption | with_reducible apply State.updEngine_keeps | (intro t b ht; try dsimp only) | split | fail_if_no_progress (with_reducible apply Keeps.mk) | exact id | exact fun _ => Nat.zero_le 4 | exact fun hp => (List.length_take ▸ Nat.le_trans (Nat.min_le_right _ _) (hp _)) | exact Memory.wf_write _ _ | exact Memory.wf_writeAll _ | exact Memory.wf_writeTagged _ _ _ | exact Memory.wf_stage _ _ _ | exact Memory.wf_spoil _ | exact fun hp => hp _)

theorem State.sendFor_keeps {s0 s : State} (u : Nat) (f : Frame) (w : Wait) (hK : Keeps s0 s) :
    Keeps s0 (State.sendFor s u f w) := by
  unfold State.sendFor
  try dsimp only
  repeat' (first | with_reducible assumption | with_reducible apply State.addWait_keeps | with_reducible apply State.detectedFault_keeps | with_reducible apply State.sendFrame_keeps | (intro t b ht; try dsimp only) | split | fail_if_no_progress (with_reducible apply Keeps.mk) | exact id | exact fun _ => Nat.zero_le 4 | exact fun hp => (List.length_take ▸ Nat.le_trans (Nat.min_le_right _ _) (hp _)) | exact Memory.wf_write _ _ | exact Memory.wf_writeAll _ | exact Memory.wf_writeTagged _ _ _ | exact Memory.wf_stage _ _ _ | exact Memory.wf_spoil _ | exact fun hp => hp _)

theorem State.askWindow_keeps {s0 s : State} (u j : Nat) (e : WEntry) (a n : Nat) (hK : Keeps s0 s) :
    Keeps s0 (State.askWindow s u j e a n) := by
  unfold State.askWindow
  try dsimp only
  repeat' (first | with_reducible assumption | with_reducible apply State.sendFor_keeps | (intro t b ht; try dsimp only) | split | fail_if_no_progress (with_reducible apply Keeps.mk) | exact id | exact fun _ => Nat.zero_le 4 | exact fun hp => (List.length_take ▸ Nat.le_trans (Nat.min_le_right _ _) (hp _)) | exact Memory.wf_write _ _ | exact Memory.wf_writeAll _ | exact Memory.wf_writeTagged _ _ _ | exact Memory.wf_stage _ _ _ | exact Memory.wf_spoil _ | exact fun hp => hp _)

theorem State.putWindow_keeps {s0 s : State} (u j : Nat) (e : WEntry) (a : Nat) (bs : List U8) (hK : Keeps s0 s) :
    Keeps s0 (State.putWindow s u j e a bs) := by
  unfold State.putWindow
  try dsimp only
  repeat' (first | with_reducible assumption | with_reducible apply State.sendFor_keeps | (intro t b ht; try dsimp only) | split | fail_if_no_progress (with_reducible apply Keeps.mk) | exact id | exact fun _ => Nat.zero_le 4 | exact fun hp => (List.length_take ▸ Nat.le_trans (Nat.min_le_right _ _) (hp _)) | exact Memory.wf_write _ _ | exact Memory.wf_writeAll _ | exact Memory.wf_writeTagged _ _ _ | exact Memory.wf_stage _ _ _ | exact Memory.wf_spoil _ | exact fun hp => hp _)

theorem State.askSlow_keeps {s0 s : State} (u a hpa n : Nat) (data : Option (List U8)) (hK : Keeps s0 s) :
    Keeps s0 (State.askSlow s u a hpa n data) := by
  unfold State.askSlow
  try dsimp only
  repeat' (first | with_reducible assumption | with_reducible apply State.addWait_keeps | (intro t b ht; try dsimp only) | split | fail_if_no_progress (with_reducible apply Keeps.mk) | exact id | exact fun _ => Nat.zero_le 4 | exact fun hp => (List.length_take ▸ Nat.le_trans (Nat.min_le_right _ _) (hp _)) | exact Memory.wf_write _ _ | exact Memory.wf_writeAll _ | exact Memory.wf_writeTagged _ _ _ | exact Memory.wf_stage _ _ _ | exact Memory.wf_spoil _ | exact fun hp => hp _)

theorem State.issueOne_keeps {s0 s : State} (p : Nat) (x : Nat × Wait) (hK : Keeps s0 s) :
    Keeps s0 (State.issueOne s p x) := by
  unfold State.issueOne
  try dsimp only
  repeat' (first | with_reducible assumption | with_reducible apply State.emit_keeps | (intro t b ht; try dsimp only) | split | fail_if_no_progress (with_reducible apply Keeps.mk) | exact id | exact fun _ => Nat.zero_le 4 | exact fun hp => (List.length_take ▸ Nat.le_trans (Nat.min_le_right _ _) (hp _)) | exact Memory.wf_write _ _ | exact Memory.wf_writeAll _ | exact Memory.wf_writeTagged _ _ _ | exact Memory.wf_stage _ _ _ | exact Memory.wf_spoil _ | exact fun hp => hp _)

theorem State.issueUio_keeps {s0 s : State}  (hK : Keeps s0 s) :
    Keeps s0 (State.issueUio s) := by
  unfold State.issueUio
  try dsimp only
  repeat' (first | with_reducible assumption | with_reducible apply State.forEach_keeps | with_reducible apply State.issueOne_keeps | with_reducible apply State.slowLost_keeps | (intro t b ht; try dsimp only) | split | fail_if_no_progress (with_reducible apply Keeps.mk) | exact id | exact fun _ => Nat.zero_le 4 | exact fun hp => (List.length_take ▸ Nat.le_trans (Nat.min_le_right _ _) (hp _)) | exact Memory.wf_write _ _ | exact Memory.wf_writeAll _ | exact Memory.wf_writeTagged _ _ _ | exact Memory.wf_stage _ _ _ | exact Memory.wf_spoil _ | exact fun hp => hp _)

theorem State.pruneUio_keeps {s0 s : State}  (hK : Keeps s0 s) :
    Keeps s0 (State.pruneUio s) := by
  unfold State.pruneUio
  try dsimp only
  repeat' (first | with_reducible assumption | (intro t b ht; try dsimp only) | split | fail_if_no_progress (with_reducible apply Keeps.mk) | exact id | exact fun _ => Nat.zero_le 4 | exact fun hp => (List.length_take ▸ Nat.le_trans (Nat.min_le_right _ _) (hp _)) | exact Memory.wf_write _ _ | exact Memory.wf_writeAll _ | exact Memory.wf_writeTagged _ _ _ | exact Memory.wf_stage _ _ _ | exact Memory.wf_spoil _ | exact fun hp => hp _)

theorem State.fetchPiece_keeps {s0 s : State} (u j a n : Nat) (hK : Keeps s0 s) :
    Keeps s0 (State.fetchPiece s u j a n) := by
  unfold State.fetchPiece
  try dsimp only
  repeat' (first | with_reducible assumption | with_reducible apply State.askSlow_keeps | with_reducible apply State.askWindow_keeps | with_reducible apply State.forEach_keeps | (intro t b ht; try dsimp only) | split | fail_if_no_progress (with_reducible apply Keeps.mk) | exact id | exact fun _ => Nat.zero_le 4 | exact fun hp => (List.length_take ▸ Nat.le_trans (Nat.min_le_right _ _) (hp _)) | exact Memory.wf_write _ _ | exact Memory.wf_writeAll _ | exact Memory.wf_writeTagged _ _ _ | exact Memory.wf_stage _ _ _ | exact Memory.wf_spoil _ | exact fun hp => hp _)

theorem State.fetchRun_keeps {s0 s : State} (u j a n : Nat) (hK : Keeps s0 s) :
    Keeps s0 (State.fetchRun s u j a n) := by
  unfold State.fetchRun
  try dsimp only
  repeat' (first | with_reducible assumption | with_reducible apply State.failFiring_keeps | with_reducible apply State.fetchPiece_keeps | with_reducible apply State.forEach_keeps | (intro t b ht; try dsimp only) | split | fail_if_no_progress (with_reducible apply Keeps.mk) | exact id | exact fun _ => Nat.zero_le 4 | exact fun hp => (List.length_take ▸ Nat.le_trans (Nat.min_le_right _ _) (hp _)) | exact Memory.wf_write _ _ | exact Memory.wf_writeAll _ | exact Memory.wf_writeTagged _ _ _ | exact Memory.wf_stage _ _ _ | exact Memory.wf_spoil _ | exact fun hp => hp _)

theorem State.storePiece_keeps {s0 s : State} (u j a : Nat) (bs : List U8) (blk : Nat → List U8) (hK : Keeps s0 s) :
    Keeps s0 (State.storePiece s u j a bs blk) := by
  unfold State.storePiece
  try dsimp only
  repeat' (first | with_reducible assumption | with_reducible apply State.askSlow_keeps | with_reducible apply State.forEach_keeps | with_reducible apply State.putWindow_keeps | (intro t b ht; try dsimp only) | split | fail_if_no_progress (with_reducible apply Keeps.mk) | exact id | exact fun _ => Nat.zero_le 4 | exact fun hp => (List.length_take ▸ Nat.le_trans (Nat.min_le_right _ _) (hp _)) | exact Memory.wf_write _ _ | exact Memory.wf_writeAll _ | exact Memory.wf_writeTagged _ _ _ | exact Memory.wf_stage _ _ _ | exact Memory.wf_spoil _ | exact fun hp => hp _)

theorem State.storeRun_keeps {s0 s : State} (u j a : Nat) (bs : List U8) (blk : Nat → List U8) (hK : Keeps s0 s) :
    Keeps s0 (State.storeRun s u j a bs blk) := by
  unfold State.storeRun
  try dsimp only
  repeat' (first | with_reducible assumption | with_reducible apply State.failFiring_keeps | with_reducible apply State.forEach_keeps | with_reducible apply State.storePiece_keeps | (intro t b ht; try dsimp only) | split | fail_if_no_progress (with_reducible apply Keeps.mk) | exact id | exact fun _ => Nat.zero_le 4 | exact fun hp => (List.length_take ▸ Nat.le_trans (Nat.min_le_right _ _) (hp _)) | exact Memory.wf_write _ _ | exact Memory.wf_writeAll _ | exact Memory.wf_writeTagged _ _ _ | exact Memory.wf_stage _ _ _ | exact Memory.wf_spoil _ | exact fun hp => hp _)

theorem State.endWait_keeps {s0 s : State} (u : Nat) (w : Wait) (a : Nat) (bs : List U8) (hK : Keeps s0 s) :
    Keeps s0 (State.endWait s u w a bs) := by
  unfold State.endWait
  try dsimp only
  repeat' (first | with_reducible assumption | with_reducible apply State.updEngine_keeps | (intro t b ht; try dsimp only) | split | fail_if_no_progress (with_reducible apply Keeps.mk) | exact id | exact fun _ => Nat.zero_le 4 | exact fun hp => (List.length_take ▸ Nat.le_trans (Nat.min_le_right _ _) (hp _)) | exact Memory.wf_write _ _ | exact Memory.wf_writeAll _ | exact Memory.wf_writeTagged _ _ _ | exact Memory.wf_stage _ _ _ | exact Memory.wf_spoil _ | exact fun hp => hp _)

theorem State.ack_keeps {s0 s : State} (j : Nat) (f : Frame) (code : U16) (hK : Keeps s0 s) :
    Keeps s0 (State.ack s j f code) := by
  unfold State.ack
  try dsimp only
  repeat' (first | with_reducible assumption | with_reducible apply State.send_keeps | (intro t b ht; try dsimp only) | split | fail_if_no_progress (with_reducible apply Keeps.mk) | exact id | exact fun _ => Nat.zero_le 4 | exact fun hp => (List.length_take ▸ Nat.le_trans (Nat.min_le_right _ _) (hp _)) | exact Memory.wf_write _ _ | exact Memory.wf_writeAll _ | exact Memory.wf_writeTagged _ _ _ | exact Memory.wf_stage _ _ _ | exact Memory.wf_spoil _ | exact fun hp => hp _)

theorem State.storeInbound_keeps {s0 s : State} (a : Nat) (f : Frame) (hK : Keeps s0 s) :
    Keeps s0 (State.storeInbound s a f) := by
  unfold State.storeInbound
  try dsimp only
  repeat' (first | with_reducible assumption | with_reducible apply State.writeMem_keeps | with_reducible apply State.writeMemTagged_keeps | (intro t b ht; try dsimp only) | split | fail_if_no_progress (with_reducible apply Keeps.mk) | exact id | exact fun _ => Nat.zero_le 4 | exact fun hp => (List.length_take ▸ Nat.le_trans (Nat.min_le_right _ _) (hp _)) | exact Memory.wf_write _ _ | exact Memory.wf_writeAll _ | exact Memory.wf_writeTagged _ _ _ | exact Memory.wf_stage _ _ _ | exact Memory.wf_spoil _ | exact fun hp => hp _)

theorem State.inboundMiss_keeps {s0 s : State} (j a : Nat) (f : Frame) (hK : Keeps s0 s) :
    Keeps s0 (State.inboundMiss s j a f) := by
  unfold State.inboundMiss
  try dsimp only
  repeat' (first | with_reducible assumption | with_reducible apply State.record_keeps | (intro t b ht; try dsimp only) | split | fail_if_no_progress (with_reducible apply Keeps.mk) | exact id | exact fun _ => Nat.zero_le 4 | exact fun hp => (List.length_take ▸ Nat.le_trans (Nat.min_le_right _ _) (hp _)) | exact Memory.wf_write _ _ | exact Memory.wf_writeAll _ | exact Memory.wf_writeTagged _ _ _ | exact Memory.wf_stage _ _ _ | exact Memory.wf_spoil _ | exact fun hp => hp _)

theorem State.inboundWrite_keeps {s0 s : State} (j : Nat) (f : Frame) (hK : Keeps s0 s) :
    Keeps s0 (State.inboundWrite s j f) := by
  unfold State.inboundWrite
  try dsimp only
  repeat' (first | with_reducible assumption | with_reducible apply State.ack_keeps | with_reducible apply State.inboundMiss_keeps | with_reducible apply State.storeInbound_keeps | (intro t b ht; try dsimp only) | split | fail_if_no_progress (with_reducible apply Keeps.mk) | exact id | exact fun _ => Nat.zero_le 4 | exact fun hp => (List.length_take ▸ Nat.le_trans (Nat.min_le_right _ _) (hp _)) | exact Memory.wf_write _ _ | exact Memory.wf_writeAll _ | exact Memory.wf_writeTagged _ _ _ | exact Memory.wf_stage _ _ _ | exact Memory.wf_spoil _ | exact fun hp => hp _)

theorem State.refuseRead_keeps {s0 s : State} (j : Nat) (f : Frame) (hK : Keeps s0 s) :
    Keeps s0 (State.refuseRead s j f) := by
  unfold State.refuseRead
  try dsimp only
  repeat' (first | with_reducible assumption | with_reducible apply State.ack_keeps | with_reducible apply State.send_keeps | (intro t b ht; try dsimp only) | split | fail_if_no_progress (with_reducible apply Keeps.mk) | exact id | exact fun _ => Nat.zero_le 4 | exact fun hp => (List.length_take ▸ Nat.le_trans (Nat.min_le_right _ _) (hp _)) | exact Memory.wf_write _ _ | exact Memory.wf_writeAll _ | exact Memory.wf_writeTagged _ _ _ | exact Memory.wf_stage _ _ _ | exact Memory.wf_spoil _ | exact fun hp => hp _)

theorem State.grainMiss_keeps {s0 s : State} (u addr : Nat) (stored found : U32) (hK : Keeps s0 s) :
    Keeps s0 (State.grainMiss s u addr stored found) := by
  unfold State.grainMiss
  try dsimp only
  repeat' (first | with_reducible assumption | with_reducible apply State.raise_keeps | with_reducible apply State.recordStream_keeps | (intro t b ht; try dsimp only) | split | fail_if_no_progress (with_reducible apply Keeps.mk) | exact id | exact fun _ => Nat.zero_le 4 | exact fun hp => (List.length_take ▸ Nat.le_trans (Nat.min_le_right _ _) (hp _)) | exact Memory.wf_write _ _ | exact Memory.wf_writeAll _ | exact Memory.wf_writeTagged _ _ _ | exact Memory.wf_stage _ _ _ | exact Memory.wf_spoil _ | exact fun hp => hp _)

theorem State.twinAck_keeps {s0 s : State} (req : Nat) (code : U16) (hK : Keeps s0 s) :
    Keeps s0 (State.twinAck s req code) := by
  unfold State.twinAck
  try dsimp only
  repeat' (first | with_reducible assumption | with_reducible apply State.stopTwin_keeps | (intro t b ht; try dsimp only) | split | fail_if_no_progress (with_reducible apply Keeps.mk) | exact id | exact fun _ => Nat.zero_le 4 | exact fun hp => (List.length_take ▸ Nat.le_trans (Nat.min_le_right _ _) (hp _)) | exact Memory.wf_write _ _ | exact Memory.wf_writeAll _ | exact Memory.wf_writeTagged _ _ _ | exact Memory.wf_stage _ _ _ | exact Memory.wf_spoil _ | exact fun hp => hp _)

theorem State.dropUio_keeps {s0 s : State} (req : Nat) (hK : Keeps s0 s) :
    Keeps s0 (State.dropUio s req) := by
  unfold State.dropUio
  try dsimp only
  repeat' (first | with_reducible assumption | (intro t b ht; try dsimp only) | split | fail_if_no_progress (with_reducible apply Keeps.mk) | exact id | exact fun _ => Nat.zero_le 4 | exact fun hp => (List.length_take ▸ Nat.le_trans (Nat.min_le_right _ _) (hp _)) | exact Memory.wf_write _ _ | exact Memory.wf_writeAll _ | exact Memory.wf_writeTagged _ _ _ | exact Memory.wf_stage _ _ _ | exact Memory.wf_spoil _ | exact fun hp => hp _)

theorem State.slowFailed_keeps {s0 s : State} (x : UioReq) (hK : Keeps s0 s) :
    Keeps s0 (State.slowFailed s x) := by
  unfold State.slowFailed
  try dsimp only
  repeat' (first | with_reducible assumption | with_reducible apply State.countSat_keeps | with_reducible apply State.dropUio_keeps | with_reducible apply State.issueUio_keeps | with_reducible apply State.pruneUio_keeps | with_reducible apply State.slowLost_keeps | (intro t b ht; try dsimp only) | split | fail_if_no_progress (with_reducible apply Keeps.mk) | exact id | exact fun _ => Nat.zero_le 4 | exact fun hp => (List.length_take ▸ Nat.le_trans (Nat.min_le_right _ _) (hp _)) | exact Memory.wf_write _ _ | exact Memory.wf_writeAll _ | exact Memory.wf_writeTagged _ _ _ | exact Memory.wf_stage _ _ _ | exact Memory.wf_spoil _ | exact fun hp => hp _)

end Sys2Proof.Machine
end

