-- ==== Sys2Proof/Laws/KeepsFire.lean ====
section
/-! SUPPORT. Every operation of Machine/Fire.lean leaves the queue as it is and keeps the invariant. -/

set_option linter.unusedVariables false
set_option linter.unusedTactic false
set_option linter.unreachableTactic false

namespace Sys2Proof.Machine

theorem State.lapse_keeps {s0 s : State}  (hK : Keeps s0 s) :
    Keeps s0 (State.lapse s) := by
  unfold State.lapse
  try dsimp only
  repeat' (first | with_reducible assumption | with_reducible apply State.forEach_keeps | with_reducible apply State.updEngine_keeps | (intro t b ht; try dsimp only) | split | fail_if_no_progress (with_reducible apply Keeps.mk) | exact id | exact fun _ => Nat.zero_le 4 | exact fun hp => (List.length_take ▸ Nat.le_trans (Nat.min_le_right _ _) (hp _)) | exact Memory.wf_write _ _ | exact Memory.wf_writeAll _ | exact Memory.wf_writeTagged _ _ _ | exact Memory.wf_stage _ _ _ | exact Memory.wf_spoil _ | exact fun hp => hp _)

theorem State.served_keeps {s0 s : State} (u key : Nat) (descant : Bool) (hK : Keeps s0 s) :
    Keeps s0 (State.served s u key descant) := by
  unfold State.served
  try dsimp only
  repeat' (first | with_reducible assumption | with_reducible apply State.updEngine_keeps | (intro t b ht; try dsimp only) | split | fail_if_no_progress (with_reducible apply Keeps.mk) | exact id | exact fun _ => Nat.zero_le 4 | exact fun hp => (List.length_take ▸ Nat.le_trans (Nat.min_le_right _ _) (hp _)) | exact Memory.wf_write _ _ | exact Memory.wf_writeAll _ | exact Memory.wf_writeTagged _ _ _ | exact Memory.wf_stage _ _ _ | exact Memory.wf_spoil _ | exact fun hp => hp _)

theorem State.takeTokens_keeps {s0 s : State} (n slot : Nat) (sides : Bool × Bool) (hK : Keeps s0 s) :
    Keeps s0 (State.takeTokens s n slot sides) := by
  unfold State.takeTokens
  try dsimp only
  repeat' (first | with_reducible assumption | with_reducible apply State.bound_keeps | with_reducible apply State.setStream_keeps | (intro t b ht; try dsimp only) | split | fail_if_no_progress (with_reducible apply Keeps.mk) | exact id | exact fun _ => Nat.zero_le 4 | exact fun hp => (List.length_take ▸ Nat.le_trans (Nat.min_le_right _ _) (hp _)) | exact Memory.wf_write _ _ | exact Memory.wf_writeAll _ | exact Memory.wf_writeTagged _ _ _ | exact Memory.wf_stage _ _ _ | exact Memory.wf_spoil _ | exact fun hp => hp _)

theorem State.startFiring_keeps {s0 s : State} (u key : Nat) (descant : Bool) (sides : Bool × Bool) (part : LathePart × Nat) (hK : Keeps s0 s) :
    Keeps s0 (State.startFiring s u key descant sides part) := by
  unfold State.startFiring
  try dsimp only
  repeat' (first | with_reducible assumption | with_reducible apply State.bound_keeps | with_reducible apply State.countSat_keeps | with_reducible apply State.served_keeps | with_reducible apply State.takeTokens_keeps | with_reducible apply State.updEngine_keeps | (intro t b ht; try dsimp only) | split | fail_if_no_progress (with_reducible apply Keeps.mk) | exact id | exact fun _ => Nat.zero_le 4 | exact fun hp => (List.length_take ▸ Nat.le_trans (Nat.min_le_right _ _) (hp _)) | exact Memory.wf_write _ _ | exact Memory.wf_writeAll _ | exact Memory.wf_writeTagged _ _ _ | exact Memory.wf_stage _ _ _ | exact Memory.wf_spoil _ | exact fun hp => hp _)

theorem State.reserve_keeps {s0 s : State} (u : Nat) (hK : Keeps s0 s) :
    Keeps s0 (State.reserve s u) := by
  unfold State.reserve
  try dsimp only
  repeat' (first | with_reducible assumption | with_reducible apply State.updEngine_keeps | (intro t b ht; try dsimp only) | split | fail_if_no_progress (with_reducible apply Keeps.mk) | exact id | exact fun _ => Nat.zero_le 4 | exact fun hp => (List.length_take ▸ Nat.le_trans (Nat.min_le_right _ _) (hp _)) | exact Memory.wf_write _ _ | exact Memory.wf_writeAll _ | exact Memory.wf_writeTagged _ _ _ | exact Memory.wf_stage _ _ _ | exact Memory.wf_spoil _ | exact fun hp => hp _)

theorem State.tryReserve_keeps {s0 s : State} (u : Nat) (hK : Keeps s0 s) :
    Keeps s0 (State.tryReserve s u) := by
  unfold State.tryReserve
  try dsimp only
  repeat' (first | with_reducible assumption | with_reducible apply State.reserve_keeps | with_reducible apply State.served_keeps | (intro t b ht; try dsimp only) | split | fail_if_no_progress (with_reducible apply Keeps.mk) | exact id | exact fun _ => Nat.zero_le 4 | exact fun hp => (List.length_take ▸ Nat.le_trans (Nat.min_le_right _ _) (hp _)) | exact Memory.wf_write _ _ | exact Memory.wf_writeAll _ | exact Memory.wf_writeTagged _ _ _ | exact Memory.wf_stage _ _ _ | exact Memory.wf_spoil _ | exact fun hp => hp _)

theorem State.edgeMessages_keeps {s0 s : State} (n : Nat) (b : Bound) (slot : Nat) (sides : Bool × Bool) (hK : Keeps s0 s) :
    Keeps s0 (State.edgeMessages s n b slot sides) := by
  unfold State.edgeMessages
  try dsimp only
  repeat' (first | with_reducible assumption | with_reducible apply State.forEach_keeps | with_reducible apply State.tell_keeps | (intro t b ht; try dsimp only) | split | fail_if_no_progress (with_reducible apply Keeps.mk) | exact id | exact fun _ => Nat.zero_le 4 | exact fun hp => (List.length_take ▸ Nat.le_trans (Nat.min_le_right _ _) (hp _)) | exact Memory.wf_write _ _ | exact Memory.wf_writeAll _ | exact Memory.wf_writeTagged _ _ _ | exact Memory.wf_stage _ _ _ | exact Memory.wf_spoil _ | exact fun hp => hp _)

theorem State.stageBlocks_keeps {s0 s : State} (j : Nat) (b : Bound) (slot k : Nat) (wrote : List (Nat × List U8)) (hK : Keeps s0 s) :
    Keeps s0 (State.stageBlocks s j b slot k wrote) := by
  unfold State.stageBlocks
  try dsimp only
  repeat' (first | with_reducible assumption | with_reducible apply State.forEach_keeps | (intro t b ht; try dsimp only) | split | fail_if_no_progress (with_reducible apply Keeps.mkMem) | fail_if_no_progress (with_reducible apply Keeps.mk) | exact id | exact fun _ => Nat.zero_le 4 | exact fun hp => (List.length_take ▸ Nat.le_trans (Nat.min_le_right _ _) (hp _)) | exact Memory.wf_write _ _ | exact Memory.wf_writeAll _ | exact Memory.wf_writeTagged _ _ _ | exact Memory.wf_stage _ _ _ | exact Memory.wf_spoil _ | exact fun hp => hp _)

theorem State.reopen_keeps {s0 s : State} (j u : Nat) (hK : Keeps s0 s) :
    Keeps s0 (State.reopen s j u) := by
  unfold State.reopen
  try dsimp only
  repeat' (first | with_reducible assumption | with_reducible apply State.updJob_keeps | (intro t b ht; try dsimp only) | split | fail_if_no_progress (with_reducible apply Keeps.mk) | exact id | exact fun _ => Nat.zero_le 4 | exact fun hp => (List.length_take ▸ Nat.le_trans (Nat.min_le_right _ _) (hp _)) | exact Memory.wf_write _ _ | exact Memory.wf_writeAll _ | exact Memory.wf_writeTagged _ _ _ | exact Memory.wf_stage _ _ _ | exact Memory.wf_spoil _ | exact fun hp => hp _)

theorem State.noteContribs_keeps {s0 s : State} (before : State) (j : Nat) (hK : Keeps s0 s) :
    Keeps s0 (State.noteContribs s before j) := by
  unfold State.noteContribs
  try dsimp only
  repeat' (first | with_reducible assumption | with_reducible apply State.contribEnd_keeps | with_reducible apply State.forEach_keeps | with_reducible apply State.reopen_keeps | (intro t b ht; try dsimp only) | split | fail_if_no_progress (with_reducible apply Keeps.mk) | exact id | exact fun _ => Nat.zero_le 4 | exact fun hp => (List.length_take ▸ Nat.le_trans (Nat.min_le_right _ _) (hp _)) | exact Memory.wf_write _ _ | exact Memory.wf_writeAll _ | exact Memory.wf_writeTagged _ _ _ | exact Memory.wf_stage _ _ _ | exact Memory.wf_spoil _ | exact fun hp => hp _)

theorem State.nodeCompleted_keeps {s0 s : State} (j : Nat) (n : GNode) (hK : Keeps s0 s) :
    Keeps s0 (State.nodeCompleted s j n) := by
  unfold State.nodeCompleted
  try dsimp only
  repeat' (first | with_reducible assumption | with_reducible apply State.contribEnd_keeps | with_reducible apply State.reopen_keeps | with_reducible apply State.updJob_keeps | (intro t b ht; try dsimp only) | split | fail_if_no_progress (with_reducible apply Keeps.mk) | exact id | exact fun _ => Nat.zero_le 4 | exact fun hp => (List.length_take ▸ Nat.le_trans (Nat.min_le_right _ _) (hp _)) | exact Memory.wf_write _ _ | exact Memory.wf_writeAll _ | exact Memory.wf_writeTagged _ _ _ | exact Memory.wf_stage _ _ _ | exact Memory.wf_spoil _ | exact fun hp => hp _)

theorem State.finishFiring_keeps {s0 s : State} (u : Nat) (runs : List BlkRun) (d : Done) (hK : Keeps s0 s) :
    Keeps s0 (State.finishFiring s u runs d) := by
  unfold State.finishFiring
  try dsimp only
  repeat' (first | with_reducible assumption | with_reducible apply State.bound_keeps | with_reducible apply State.boundary_keeps | with_reducible apply State.edgeMessages_keeps | with_reducible apply State.endSubmission_keeps | with_reducible apply State.freeAfterFiring_keeps | with_reducible apply State.nodeCompleted_keeps | with_reducible apply State.noteContribs_keeps | with_reducible apply State.noteTransient_keeps | with_reducible apply State.postFlags_keeps | with_reducible apply State.stageBlocks_keeps | with_reducible apply State.updRec_keeps | (intro t b ht; try dsimp only) | split | fail_if_no_progress (with_reducible apply Keeps.mk) | exact id | exact fun _ => Nat.zero_le 4 | exact fun hp => (List.length_take ▸ Nat.le_trans (Nat.min_le_right _ _) (hp _)) | exact Memory.wf_write _ _ | exact Memory.wf_writeAll _ | exact Memory.wf_writeTagged _ _ _ | exact Memory.wf_stage _ _ _ | exact Memory.wf_spoil _ | exact fun hp => hp _)

theorem State.faultWith_keeps {s0 s : State} (u : Nat) (code : U16) (f : Flags) (hK : Keeps s0 s) :
    Keeps s0 (State.faultWith s u code f) := by
  unfold State.faultWith
  try dsimp only
  repeat' (first | with_reducible assumption | with_reducible apply State.detectedFault_keeps | with_reducible apply State.updEngine_keeps | (intro t b ht; try dsimp only) | split | fail_if_no_progress (with_reducible apply Keeps.mk) | exact id | exact fun _ => Nat.zero_le 4 | exact fun hp => (List.length_take ▸ Nat.le_trans (Nat.min_le_right _ _) (hp _)) | exact Memory.wf_write _ _ | exact Memory.wf_writeAll _ | exact Memory.wf_writeTagged _ _ _ | exact Memory.wf_stage _ _ _ | exact Memory.wf_spoil _ | exact fun hp => hp _)

end Sys2Proof.Machine
end

