-- ==== Sys2Proof/Laws/KeepsCopy.lean ====
section
/-! SUPPORT. Every operation of Machine/Copy.lean leaves the queue as it is and keeps the invariant. -/

set_option linter.unusedVariables false
set_option linter.unusedTactic false
set_option linter.unreachableTactic false

namespace Sys2Proof.Machine

theorem State.setWindow_keeps {s0 s : State} (pg : Page) (off : Nat) (bs : List U8) (hK : Keeps s0 s) :
    Keeps s0 (State.setWindow s pg off bs) := by
  unfold State.setWindow
  try dsimp only
  repeat' (first | with_reducible assumption | with_reducible apply State.forEach_keeps | with_reducible apply State.setReg_keeps | (intro t b ht; try dsimp only) | split | fail_if_no_progress (with_reducible apply Keeps.mk) | exact id | exact fun _ => Nat.zero_le 4 | exact fun hp => (List.length_take ▸ Nat.le_trans (Nat.min_le_right _ _) (hp _)) | exact Memory.wf_write _ _ | exact Memory.wf_writeAll _ | exact Memory.wf_writeTagged _ _ _ | exact Memory.wf_stage _ _ _ | exact Memory.wf_spoil _ | exact fun hp => hp _)

theorem State.recordReject_keeps {s0 s : State} (u : Nat) (d : DescSet) (code : U16) (node which : Nat) (hK : Keeps s0 s) :
    Keeps s0 (State.recordReject s u d code node which) := by
  unfold State.recordReject
  try dsimp only
  repeat' (first | with_reducible assumption | with_reducible apply State.setReg_keeps | with_reducible apply State.setWindow_keeps | (intro t b ht; try dsimp only) | split | fail_if_no_progress (with_reducible apply Keeps.mk) | exact id | exact fun _ => Nat.zero_le 4 | exact fun hp => (List.length_take ▸ Nat.le_trans (Nat.min_le_right _ _) (hp _)) | exact Memory.wf_write _ _ | exact Memory.wf_writeAll _ | exact Memory.wf_writeTagged _ _ _ | exact Memory.wf_stage _ _ _ | exact Memory.wf_spoil _ | exact fun hp => hp _)

theorem State.rejectFiring_keeps {s0 s : State} (u : Nat) (d : DescSet) (code : U16) (node which : Nat) (hK : Keeps s0 s) :
    Keeps s0 (State.rejectFiring s u d code node which) := by
  unfold State.rejectFiring
  try dsimp only
  repeat' (first | with_reducible assumption | with_reducible apply State.failFiring_keeps | with_reducible apply State.raise_keeps | with_reducible apply State.recordReject_keeps | with_reducible apply State.recordStream_keeps | (intro t b ht; try dsimp only) | split | fail_if_no_progress (with_reducible apply Keeps.mk) | exact id | exact fun _ => Nat.zero_le 4 | exact fun hp => (List.length_take ▸ Nat.le_trans (Nat.min_le_right _ _) (hp _)) | exact Memory.wf_write _ _ | exact Memory.wf_writeAll _ | exact Memory.wf_writeTagged _ _ _ | exact Memory.wf_stage _ _ _ | exact Memory.wf_spoil _ | exact fun hp => hp _)

theorem State.checkCopy_keeps {s0 s : State} (u : Nat) (hK : Keeps s0 s) :
    Keeps s0 (State.checkCopy s u) := by
  unfold State.checkCopy
  try dsimp only
  repeat' (first | with_reducible assumption | with_reducible apply State.rejectFiring_keeps | (intro t b ht; try dsimp only) | split | fail_if_no_progress (with_reducible apply Keeps.mk) | exact id | exact fun _ => Nat.zero_le 4 | exact fun hp => (List.length_take ▸ Nat.le_trans (Nat.min_le_right _ _) (hp _)) | exact Memory.wf_write _ _ | exact Memory.wf_writeAll _ | exact Memory.wf_writeTagged _ _ _ | exact Memory.wf_stage _ _ _ | exact Memory.wf_spoil _ | exact fun hp => hp _)

end Sys2Proof.Machine
end

