-- ==== Sys2Proof/Laws/KeepsFiring.lean ====
section
/-! SUPPORT. Every operation of Machine/Firing.lean leaves the queue as it is and keeps the invariant. -/

set_option linter.unusedVariables false
set_option linter.unusedTactic false
set_option linter.unreachableTactic false

namespace Sys2Proof.Machine

theorem State.waitSnoop_keeps {s0 s : State} (u line : Nat) (hK : Keeps s0 s) :
    Keeps s0 (State.waitSnoop s u line) := by
  unfold State.waitSnoop
  try dsimp only
  repeat' (first | with_reducible assumption | with_reducible apply State.addWait_keeps | with_reducible apply State.snoopLine_keeps | (intro t b ht; try dsimp only) | split | fail_if_no_progress (with_reducible apply Keeps.mk) | exact id | exact fun _ => Nat.zero_le 4 | exact fun hp => (List.length_take ▸ Nat.le_trans (Nat.min_le_right _ _) (hp _)) | exact Memory.wf_write _ _ | exact Memory.wf_writeAll _ | exact Memory.wf_writeTagged _ _ _ | exact Memory.wf_stage _ _ _ | exact Memory.wf_spoil _ | exact fun hp => hp _)

theorem State.grainFault_keeps {s0 s : State} (u addr : Nat) (stored found : U32) (f : Flags) (hK : Keeps s0 s) :
    Keeps s0 (State.grainFault s u addr stored found f) := by
  unfold State.grainFault
  try dsimp only
  repeat' (first | with_reducible assumption | with_reducible apply State.faultWith_keeps | with_reducible apply State.grainMiss_keeps | (intro t b ht; try dsimp only) | split | fail_if_no_progress (with_reducible apply Keeps.mk) | exact id | exact fun _ => Nat.zero_le 4 | exact fun hp => (List.length_take ▸ Nat.le_trans (Nat.min_le_right _ _) (hp _)) | exact Memory.wf_write _ _ | exact Memory.wf_writeAll _ | exact Memory.wf_writeTagged _ _ _ | exact Memory.wf_stage _ _ _ | exact Memory.wf_spoil _ | exact fun hp => hp _)

theorem State.bring_keeps {s0 s : State} (u : Nat) (l : List (Nat × U8)) (hK : Keeps s0 s) :
    Keeps s0 (State.bring s u l) := by
  unfold State.bring
  try dsimp only
  repeat' (first | with_reducible assumption | with_reducible apply State.updEngine_keeps | (intro t b ht; try dsimp only) | split | fail_if_no_progress (with_reducible apply Keeps.mk) | exact id | exact fun _ => Nat.zero_le 4 | exact fun hp => (List.length_take ▸ Nat.le_trans (Nat.min_le_right _ _) (hp _)) | exact Memory.wf_write _ _ | exact Memory.wf_writeAll _ | exact Memory.wf_writeTagged _ _ _ | exact Memory.wf_stage _ _ _ | exact Memory.wf_spoil _ | exact fun hp => hp _)

theorem State.tagCheck_keeps {s0 s : State} (u : Nat) (l : List Nat) (hK : Keeps s0 s) :
    Keeps s0 (State.tagCheck s u l).1 := by
  unfold State.tagCheck
  try dsimp only
  repeat' (first | with_reducible assumption | with_reducible apply State.bring_keeps | with_reducible apply State.disarm_keeps | with_reducible apply State.grainFault_keeps | (intro t b ht; try dsimp only) | split | fail_if_no_progress (with_reducible apply Keeps.mk) | exact id | exact fun _ => Nat.zero_le 4 | exact fun hp => (List.length_take ▸ Nat.le_trans (Nat.min_le_right _ _) (hp _)) | exact Memory.wf_write _ _ | exact Memory.wf_writeAll _ | exact Memory.wf_writeTagged _ _ _ | exact Memory.wf_stage _ _ _ | exact Memory.wf_spoil _ | exact fun hp => hp _)

theorem State.eccAll_keeps {s0 s : State} (l : List (Nat × Nat)) (h : Keeps s0 s) : Keeps s0 (State.eccAll s l).1 := by
  unfold State.eccAll
  refine Keeps.foldlFst _ l (fun t x ht => ?_) h
  split
  · exact ht
  · exact State.eccRead_keeps _ _ ht

theorem State.endOrphan_keeps {s0 s : State} (u : Nat) (hK : Keeps s0 s) :
    Keeps s0 (State.endOrphan s u) := by
  unfold State.endOrphan
  try dsimp only
  repeat' (first | with_reducible assumption | with_reducible apply State.boundary_keeps | with_reducible apply State.freeAfterFiring_keeps | (intro t b ht; try dsimp only) | split | fail_if_no_progress (with_reducible apply Keeps.mk) | exact id | exact fun _ => Nat.zero_le 4 | exact fun hp => (List.length_take ▸ Nat.le_trans (Nat.min_le_right _ _) (hp _)) | exact Memory.wf_write _ _ | exact Memory.wf_writeAll _ | exact Memory.wf_writeTagged _ _ _ | exact Memory.wf_stage _ _ _ | exact Memory.wf_spoil _ | exact fun hp => hp _)

theorem State.gather_keeps {s0 s : State} (u j : Nat) (reads writes : List Acc) (hK : Keeps s0 s) :
    Keeps s0 (State.gather s u j reads writes).1 := by
  unfold State.gather
  try dsimp only
  repeat' (first | with_reducible assumption | with_reducible apply State.eccAll_keeps | with_reducible apply State.endOrphan_keeps | with_reducible apply State.failFiring_keeps | with_reducible apply State.faultWith_keeps | with_reducible apply State.fetchRun_keeps | with_reducible apply State.forEach_keeps | with_reducible apply State.issueUio_keeps | with_reducible apply State.tagCheck_keeps | with_reducible apply State.waitSnoop_keeps | (intro t b ht; try dsimp only) | split | fail_if_no_progress (with_reducible apply Keeps.mk) | exact id | exact fun _ => Nat.zero_le 4 | exact fun hp => (List.length_take ▸ Nat.le_trans (Nat.min_le_right _ _) (hp _)) | exact Memory.wf_write _ _ | exact Memory.wf_writeAll _ | exact Memory.wf_writeTagged _ _ _ | exact Memory.wf_stage _ _ _ | exact Memory.wf_spoil _ | exact fun hp => hp _)

theorem State.keepFlags_keeps {s0 s : State} (u : Nat) (f : Flags) (hK : Keeps s0 s) :
    Keeps s0 (State.keepFlags s u f) := by
  unfold State.keepFlags
  try dsimp only
  repeat' (first | with_reducible assumption | with_reducible apply State.updEngine_keeps | (intro t b ht; try dsimp only) | split | fail_if_no_progress (with_reducible apply Keeps.mk) | exact id | exact fun _ => Nat.zero_le 4 | exact fun hp => (List.length_take ▸ Nat.le_trans (Nat.min_le_right _ _) (hp _)) | exact Memory.wf_write _ _ | exact Memory.wf_writeAll _ | exact Memory.wf_writeTagged _ _ _ | exact Memory.wf_stage _ _ _ | exact Memory.wf_spoil _ | exact fun hp => hp _)

theorem State.store_keeps {s0 s : State} (u j : Nat) (ws : List (Nat × List U8)) (f : Flags) (hK : Keeps s0 s) :
    Keeps s0 (State.store s u j ws f).1 := by
  unfold State.store
  try dsimp only
  repeat' (first | with_reducible assumption | with_reducible apply State.fetchRun_keeps | with_reducible apply State.forEach_keeps | with_reducible apply State.issueUio_keeps | with_reducible apply State.keepFlags_keeps | with_reducible apply State.storeRun_keeps | with_reducible apply State.tagCheck_keeps | with_reducible apply State.updEngine_keeps | with_reducible apply State.writeMemAll_keeps | (intro t b ht; try dsimp only) | split | fail_if_no_progress (with_reducible apply Keeps.mk) | exact id | exact fun _ => Nat.zero_le 4 | exact fun hp => (List.length_take ▸ Nat.le_trans (Nat.min_le_right _ _) (hp _)) | exact Memory.wf_write _ _ | exact Memory.wf_writeAll _ | exact Memory.wf_writeTagged _ _ _ | exact Memory.wf_stage _ _ _ | exact Memory.wf_spoil _ | exact fun hp => hp _)

theorem State.arrayDone_keeps {s0 s : State} (x : ArrayRun) (hK : Keeps s0 s) :
    Keeps s0 (State.arrayDone s x) := by
  unfold State.arrayDone
  try dsimp only
  repeat' (first | with_reducible assumption | with_reducible apply State.countPair_keeps | with_reducible apply State.countSat_keeps | with_reducible apply State.disarm_keeps | with_reducible apply State.setArray_keeps | (intro t b ht; try dsimp only) | split | fail_if_no_progress (with_reducible apply Keeps.mk) | exact id | exact fun _ => Nat.zero_le 4 | exact fun hp => (List.length_take ▸ Nat.le_trans (Nat.min_le_right _ _) (hp _)) | exact Memory.wf_write _ _ | exact Memory.wf_writeAll _ | exact Memory.wf_writeTagged _ _ _ | exact Memory.wf_stage _ _ _ | exact Memory.wf_spoil _ | exact fun hp => hp _)

theorem State.noteMiss_keeps {s0 s : State} (core stream vector cls : Nat) (int : Bool) (diff bound : U32) (hK : Keeps s0 s) :
    Keeps s0 (State.noteMiss s core stream vector cls int diff bound) := by
  unfold State.noteMiss
  try dsimp only
  repeat' (first | with_reducible assumption | with_reducible apply State.countSat_keeps | with_reducible apply State.raise_keeps | with_reducible apply State.setReg_keeps | (intro t b ht; try dsimp only) | split | fail_if_no_progress (with_reducible apply Keeps.mk) | exact id | exact fun _ => Nat.zero_le 4 | exact fun hp => (List.length_take ▸ Nat.le_trans (Nat.min_le_right _ _) (hp _)) | exact Memory.wf_write _ _ | exact Memory.wf_writeAll _ | exact Memory.wf_writeTagged _ _ _ | exact Memory.wf_stage _ _ _ | exact Memory.wf_spoil _ | exact fun hp => hp _)

theorem State.tallyFault_keeps {s0 s : State} (u core stream vector cls : Nat) (int : Bool) (diff bound : U32) (f : Flags) (hK : Keeps s0 s) :
    Keeps s0 (State.tallyFault s u core stream vector cls int diff bound f) := by
  unfold State.tallyFault
  try dsimp only
  repeat' (first | with_reducible assumption | with_reducible apply State.dueNow_keeps | with_reducible apply State.faultWith_keeps | with_reducible apply State.noteMiss_keeps | (intro t b ht; try dsimp only) | split | fail_if_no_progress (with_reducible apply Keeps.mk) | exact id | exact fun _ => Nat.zero_le 4 | exact fun hp => (List.length_take ▸ Nat.le_trans (Nat.min_le_right _ _) (hp _)) | exact Memory.wf_write _ _ | exact Memory.wf_writeAll _ | exact Memory.wf_writeTagged _ _ _ | exact Memory.wf_stage _ _ _ | exact Memory.wf_spoil _ | exact fun hp => hp _)

theorem State.missFault_keeps {s0 s : State} (u stream : Nat) (arrays : List ArrayRun) (m : ArrayRun × Nat × Nat × Nat × Nat) (f : Flags) (hK : Keeps s0 s) :
    Keeps s0 (State.missFault s u stream arrays m f) := by
  unfold State.missFault
  try dsimp only
  repeat' (first | with_reducible assumption | with_reducible apply State.arrayDone_keeps | with_reducible apply State.forEach_keeps | with_reducible apply State.tallyFault_keeps | (intro t b ht; try dsimp only) | split | fail_if_no_progress (with_reducible apply Keeps.mk) | exact id | exact fun _ => Nat.zero_le 4 | exact fun hp => (List.length_take ▸ Nat.le_trans (Nat.min_le_right _ _) (hp _)) | exact Memory.wf_write _ _ | exact Memory.wf_writeAll _ | exact Memory.wf_writeTagged _ _ _ | exact Memory.wf_stage _ _ _ | exact Memory.wf_spoil _ | exact fun hp => hp _)

theorem State.countVector_keeps {s0 s : State} (pg : Page) (insns masked : Nat) (hK : Keeps s0 s) :
    Keeps s0 (State.countVector s pg insns masked) := by
  unfold State.countVector
  try dsimp only
  repeat' (first | with_reducible assumption | with_reducible apply State.countPair_keeps | with_reducible apply State.countSat_keeps | (intro t b ht; try dsimp only) | split | fail_if_no_progress (with_reducible apply Keeps.mk) | exact id | exact fun _ => Nat.zero_le 4 | exact fun hp => (List.length_take ▸ Nat.le_trans (Nat.min_le_right _ _) (hp _)) | exact Memory.wf_write _ _ | exact Memory.wf_writeAll _ | exact Memory.wf_writeTagged _ _ _ | exact Memory.wf_stage _ _ _ | exact Memory.wf_spoil _ | exact fun hp => hp _)

theorem State.countCurve_keeps {s0 s : State} (pg : Page) (stream func insns hot : Nat) (last : Option Flags) (hK : Keeps s0 s) :
    Keeps s0 (State.countCurve s pg stream func insns hot last) := by
  unfold State.countCurve
  try dsimp only
  repeat' (first | with_reducible assumption | with_reducible apply State.countPair_keeps | with_reducible apply State.countSat_keeps | with_reducible apply State.setReg_keeps | (intro t b ht; try dsimp only) | split | fail_if_no_progress (with_reducible apply Keeps.mk) | exact id | exact fun _ => Nat.zero_le 4 | exact fun hp => (List.length_take ▸ Nat.le_trans (Nat.min_le_right _ _) (hp _)) | exact Memory.wf_write _ _ | exact Memory.wf_writeAll _ | exact Memory.wf_writeTagged _ _ _ | exact Memory.wf_stage _ _ _ | exact Memory.wf_spoil _ | exact fun hp => hp _)

theorem State.countCopy_keeps {s0 s : State} (pg : Page) (bytes subs fills drops : Nat) (hK : Keeps s0 s) :
    Keeps s0 (State.countCopy s pg bytes subs fills drops) := by
  unfold State.countCopy
  try dsimp only
  repeat' (first | with_reducible assumption | with_reducible apply State.countPair_keeps | with_reducible apply State.countSat_keeps | with_reducible apply State.countWrap_keeps | with_reducible apply State.raise_keeps | (intro t b ht; try dsimp only) | split | fail_if_no_progress (with_reducible apply Keeps.mk) | exact id | exact fun _ => Nat.zero_le 4 | exact fun hp => (List.length_take ▸ Nat.le_trans (Nat.min_le_right _ _) (hp _)) | exact Memory.wf_write _ _ | exact Memory.wf_writeAll _ | exact Memory.wf_writeTagged _ _ _ | exact Memory.wf_stage _ _ _ | exact Memory.wf_spoil _ | exact fun hp => hp _)

theorem State.countRows_keeps {s0 s : State} (pg : Page) (stream : Nat) (rows : List AttnRow) (skipped : Nat) (hK : Keeps s0 s) :
    Keeps s0 (State.countRows s pg stream rows skipped) := by
  unfold State.countRows
  try dsimp only
  repeat' (first | with_reducible assumption | with_reducible apply State.countPair_keeps | with_reducible apply State.countSat_keeps | with_reducible apply State.setReg_keeps | (intro t b ht; try dsimp only) | split | fail_if_no_progress (with_reducible apply Keeps.mk) | exact id | exact fun _ => Nat.zero_le 4 | exact fun hp => (List.length_take ▸ Nat.le_trans (Nat.min_le_right _ _) (hp _)) | exact Memory.wf_write _ _ | exact Memory.wf_writeAll _ | exact Memory.wf_writeTagged _ _ _ | exact Memory.wf_stage _ _ _ | exact Memory.wf_spoil _ | exact fun hp => hp _)

theorem State.countQuad_keeps {s0 s : State} (stream : Nat) (f : Flags) (x : QuadObs) (hK : Keeps s0 s) :
    Keeps s0 (State.countQuad s stream f x) := by
  unfold State.countQuad
  try dsimp only
  repeat' (first | with_reducible assumption | with_reducible apply State.countCurve_keeps | with_reducible apply State.countVector_keeps | (intro t b ht; try dsimp only) | split | fail_if_no_progress (with_reducible apply Keeps.mk) | exact id | exact fun _ => Nat.zero_le 4 | exact fun hp => (List.length_take ▸ Nat.le_trans (Nat.min_le_right _ _) (hp _)) | exact Memory.wf_write _ _ | exact Memory.wf_writeAll _ | exact Memory.wf_writeTagged _ _ _ | exact Memory.wf_stage _ _ _ | exact Memory.wf_spoil _ | exact fun hp => hp _)

theorem State.chuckDone_keeps {s0 s : State} (u : Nat) (rd : Nat → U8) (n : GNode) (ins outs : List TView) (segs : List RowSeg) (hK : Keeps s0 s) :
    Keeps s0 (State.chuckDone s u rd n ins outs segs).1 := by
  unfold State.chuckDone
  try dsimp only
  repeat' (first | with_reducible assumption | with_reducible apply State.setChuck_keeps | (intro t b ht; try dsimp only) | split | fail_if_no_progress (with_reducible apply Keeps.mk) | exact id | exact fun _ => Nat.zero_le 4 | exact fun hp => (List.length_take ▸ Nat.le_trans (Nat.min_le_right _ _) (hp _)) | exact Memory.wf_write _ _ | exact Memory.wf_writeAll _ | exact Memory.wf_writeTagged _ _ _ | exact Memory.wf_stage _ _ _ | exact Memory.wf_spoil _ | exact fun hp => hp _)

theorem State.countFiring_keeps {s0 s : State} (u stream : Nat) (rd : Nat → U8) (p : Program) (i : Nat) (n : GNode) (ins outs : List TView) (l : List Piece) (obs : FireObs) (bytes : Nat) (oob : Nat × Nat) (rows : List AttnRow) (flips : List Flip) (hK : Keeps s0 s) :
    Keeps s0 (State.countFiring s u stream rd p i n ins outs l obs bytes oob rows flips) := by
  unfold State.countFiring
  try dsimp only
  repeat' (first | with_reducible assumption | with_reducible apply State.chuckDone_keeps | with_reducible apply State.countCopy_keeps | with_reducible apply State.countCurve_keeps | with_reducible apply State.countQuad_keeps | with_reducible apply State.countRows_keeps | with_reducible apply State.countVector_keeps | with_reducible apply State.forEach_keeps | (intro t b ht; try dsimp only) | split | fail_if_no_progress (with_reducible apply Keeps.mk) | exact id | exact fun _ => Nat.zero_le 4 | exact fun hp => (List.length_take ▸ Nat.le_trans (Nat.min_le_right _ _) (hp _)) | exact Memory.wf_write _ _ | exact Memory.wf_writeAll _ | exact Memory.wf_writeTagged _ _ _ | exact Memory.wf_stage _ _ _ | exact Memory.wf_spoil _ | exact fun hp => hp _)

theorem State.readNotes_keeps {s0 s : State} (u : Nat) (l : List ReadNote) (hK : Keeps s0 s) :
    Keeps s0 (State.readNotes s u l) := by
  unfold State.readNotes
  try dsimp only
  repeat' (first | with_reducible assumption | with_reducible apply State.forEach_keeps | with_reducible apply State.readNote_keeps | (intro t b ht; try dsimp only) | split | fail_if_no_progress (with_reducible apply Keeps.mk) | exact id | exact fun _ => Nat.zero_le 4 | exact fun hp => (List.length_take ▸ Nat.le_trans (Nat.min_le_right _ _) (hp _)) | exact Memory.wf_write _ _ | exact Memory.wf_writeAll _ | exact Memory.wf_writeTagged _ _ _ | exact Memory.wf_stage _ _ _ | exact Memory.wf_spoil _ | exact fun hp => hp _)

theorem State.keepOld_keeps {s0 s : State} (u n : Nat) (b : Bound) (y : BNode) (reads : List Piece) (hK : Keeps s0 s) :
    Keeps s0 (State.keepOld s u n b y reads) := by
  unfold State.keepOld
  try dsimp only
  repeat' (first | with_reducible assumption | with_reducible apply State.setStream_keeps | with_reducible apply Keeps.foldl | (intro t b ht; try dsimp only) | split | fail_if_no_progress (with_reducible apply Keeps.mk) | exact id | exact fun _ => Nat.zero_le 4 | exact fun hp => (List.length_take ▸ Nat.le_trans (Nat.min_le_right _ _) (hp _)) | exact Memory.wf_write _ _ | exact Memory.wf_writeAll _ | exact Memory.wf_writeTagged _ _ _ | exact Memory.wf_stage _ _ _ | exact Memory.wf_spoil _ | exact fun hp => hp _)

theorem State.completeNode_keeps {s0 s : State} (u : Nat) (r : Running) (b : Bound) (y : BNode) (n : GNode) (obs : FireObs) (hK : Keeps s0 s) :
    Keeps s0 (State.completeNode s u r b y n obs) := by
  unfold State.completeNode
  try dsimp only
  repeat' (first | with_reducible assumption | with_reducible apply State.arrayDone_keeps | with_reducible apply State.countFiring_keeps | with_reducible apply State.finishFiring_keeps | with_reducible apply State.forEach_keeps | with_reducible apply State.gather_keeps | with_reducible apply State.keepOld_keeps | with_reducible apply State.missFault_keeps | with_reducible apply State.readNotes_keeps | with_reducible apply State.store_keeps | (intro t b ht; try dsimp only) | split | fail_if_no_progress (with_reducible apply Keeps.mk) | exact id | exact fun _ => Nat.zero_le 4 | exact fun hp => (List.length_take ▸ Nat.le_trans (Nat.min_le_right _ _) (hp _)) | exact Memory.wf_write _ _ | exact Memory.wf_writeAll _ | exact Memory.wf_writeTagged _ _ _ | exact Memory.wf_stage _ _ _ | exact Memory.wf_spoil _ | exact fun hp => hp _)

theorem State.moveCheck_keeps {s0 s : State} (u n : Nat) (src : Option (Nat × Bool)) (hK : Keeps s0 s) :
    Keeps s0 (State.moveCheck s u n src).1 := by
  unfold State.moveCheck
  try dsimp only
  repeat' (first | with_reducible assumption | with_reducible apply State.tagCheck_keeps | (intro t b ht; try dsimp only) | split | fail_if_no_progress (with_reducible apply Keeps.mk) | exact id | exact fun _ => Nat.zero_le 4 | exact fun hp => (List.length_take ▸ Nat.le_trans (Nat.min_le_right _ _) (hp _)) | exact Memory.wf_write _ _ | exact Memory.wf_writeAll _ | exact Memory.wf_writeTagged _ _ _ | exact Memory.wf_stage _ _ _ | exact Memory.wf_spoil _ | exact fun hp => hp _)

theorem State.movePut_keeps {s0 s : State} (dst : Option (Nat × Bool)) (bytes : List U8) (hK : Keeps s0 s) :
    Keeps s0 (State.movePut s dst bytes) := by
  unfold State.movePut
  try dsimp only
  repeat' (first | with_reducible assumption | (intro t b ht; try dsimp only) | split | fail_if_no_progress (with_reducible apply Keeps.mkMem) | fail_if_no_progress (with_reducible apply Keeps.mk) | exact id | exact fun _ => Nat.zero_le 4 | exact fun hp => (List.length_take ▸ Nat.le_trans (Nat.min_le_right _ _) (hp _)) | exact Memory.wf_write _ _ | exact Memory.wf_writeAll _ | exact Memory.wf_writeTagged _ _ _ | exact Memory.wf_stage _ _ _ | exact Memory.wf_spoil _ | exact fun hp => hp _)

theorem State.moveOn_keeps {s0 s : State} (u j : Nat) (r : Running) (b : Bound) (y : BNode) (obs : FireObs) (l : List Piece) (bytes : List U8) (out : Bool) (hK : Keeps s0 s) :
    Keeps s0 (State.moveOn s u j r b y obs l bytes out) := by
  unfold State.moveOn
  try dsimp only
  repeat' (first | with_reducible assumption | with_reducible apply State.countPair_keeps | with_reducible apply State.finishFiring_keeps | with_reducible apply State.movePut_keeps | with_reducible apply State.readNotes_keeps | with_reducible apply State.store_keeps | (intro t b ht; try dsimp only) | split | fail_if_no_progress (with_reducible apply Keeps.mk) | exact id | exact fun _ => Nat.zero_le 4 | exact fun hp => (List.length_take ▸ Nat.le_trans (Nat.min_le_right _ _) (hp _)) | exact Memory.wf_write _ _ | exact Memory.wf_writeAll _ | exact Memory.wf_writeTagged _ _ _ | exact Memory.wf_stage _ _ _ | exact Memory.wf_spoil _ | exact fun hp => hp _)

theorem State.completeMove_keeps {s0 s : State} (u : Nat) (r : Running) (b : Bound) (y : BNode) (obs : FireObs) (hK : Keeps s0 s) :
    Keeps s0 (State.completeMove s u r b y obs) := by
  unfold State.completeMove
  try dsimp only
  repeat' (first | with_reducible assumption | with_reducible apply State.gather_keeps | with_reducible apply State.moveCheck_keeps | with_reducible apply State.moveOn_keeps | (intro t b ht; try dsimp only) | split | fail_if_no_progress (with_reducible apply Keeps.mk) | exact id | exact fun _ => Nat.zero_le 4 | exact fun hp => (List.length_take ▸ Nat.le_trans (Nat.min_le_right _ _) (hp _)) | exact Memory.wf_write _ _ | exact Memory.wf_writeAll _ | exact Memory.wf_writeTagged _ _ _ | exact Memory.wf_stage _ _ _ | exact Memory.wf_spoil _ | exact fun hp => hp _)

theorem State.fireComplete_keeps {s0 s : State} (u : Nat) (obs : FireObs) (coll : State → Nat → FireObs → State) (hK : Keeps s0 s) (hf : ∀ t a b, Keeps s0 t → Keeps s0 (coll t a b)) :
    Keeps s0 (State.fireComplete s u obs coll) := by
  unfold State.fireComplete
  try dsimp only
  repeat' (first | with_reducible assumption | with_reducible apply State.completeMove_keeps | with_reducible apply State.completeNode_keeps | with_reducible apply State.endOrphan_keeps | with_reducible apply State.finishFiring_keeps | apply hf | (intro t b ht; try dsimp only) | split | fail_if_no_progress (with_reducible apply Keeps.mk) | exact id | exact fun _ => Nat.zero_le 4 | exact fun hp => (List.length_take ▸ Nat.le_trans (Nat.min_le_right _ _) (hp _)) | exact Memory.wf_write _ _ | exact Memory.wf_writeAll _ | exact Memory.wf_writeTagged _ _ _ | exact Memory.wf_stage _ _ _ | exact Memory.wf_spoil _ | exact fun hp => hp _)

theorem State.startSequencer_keeps {s0 s : State} (q : Nat) (hK : Keeps s0 s) :
    Keeps s0 (State.startSequencer s q) := by
  unfold State.startSequencer
  try dsimp only
  repeat' (first | with_reducible assumption | with_reducible apply State.forEach_keeps | with_reducible apply State.startFiring_keeps | with_reducible apply State.tryReserve_keeps | (intro t b ht; try dsimp only) | split | fail_if_no_progress (with_reducible apply Keeps.mk) | exact id | exact fun _ => Nat.zero_le 4 | exact fun hp => (List.length_take ▸ Nat.le_trans (Nat.min_le_right _ _) (hp _)) | exact Memory.wf_write _ _ | exact Memory.wf_writeAll _ | exact Memory.wf_writeTagged _ _ _ | exact Memory.wf_stage _ _ _ | exact Memory.wf_spoil _ | exact fun hp => hp _)

theorem State.fireStart_keeps {s0 s0 : State} (u : Nat) (coll : State → Nat → State) (hK : Keeps s0 s0) (hf : ∀ t a, Keeps s0 t → Keeps s0 (coll t a)) :
    Keeps s0 (State.fireStart s0 u coll) := by
  unfold State.fireStart
  try dsimp only
  repeat' (first | with_reducible assumption | with_reducible apply State.checkCopy_keeps | with_reducible apply State.lapse_keeps | with_reducible apply State.reserve_keeps | with_reducible apply State.served_keeps | with_reducible apply State.startFiring_keeps | with_reducible apply State.startSequencer_keeps | apply hf | (intro t b ht; try dsimp only) | split | fail_if_no_progress (with_reducible apply Keeps.mk) | exact id | exact fun _ => Nat.zero_le 4 | exact fun hp => (List.length_take ▸ Nat.le_trans (Nat.min_le_right _ _) (hp _)) | exact Memory.wf_write _ _ | exact Memory.wf_writeAll _ | exact Memory.wf_writeTagged _ _ _ | exact Memory.wf_stage _ _ _ | exact Memory.wf_spoil _ | exact fun hp => hp _)

theorem State.faultOf_keeps {s0 s : State} (u : Nat) (cause : FaultCause) (f : Flags) (hK : Keeps s0 s) :
    Keeps s0 (State.faultOf s u cause f) := by
  unfold State.faultOf
  try dsimp only
  repeat' (first | with_reducible assumption | with_reducible apply State.faultWith_keeps | with_reducible apply State.grainFault_keeps | with_reducible apply State.missFault_keeps | with_reducible apply State.noteUncorr_keeps | with_reducible apply State.readNote_keeps | with_reducible apply State.record_keeps | (intro t b ht; try dsimp only) | split | fail_if_no_progress (with_reducible apply Keeps.mkMem) | fail_if_no_progress (with_reducible apply Keeps.mk) | exact id | exact fun _ => Nat.zero_le 4 | exact fun hp => (List.length_take ▸ Nat.le_trans (Nat.min_le_right _ _) (hp _)) | exact Memory.wf_write _ _ | exact Memory.wf_writeAll _ | exact Memory.wf_writeTagged _ _ _ | exact Memory.wf_stage _ _ _ | exact Memory.wf_spoil _ | exact fun hp => hp _)

end Sys2Proof.Machine
end

