-- ==== Sys2Proof/Laws/KeepsHorizon.lean ====
section
/-! SUPPORT. Every operation of Machine/Horizon.lean leaves the queue as it is and keeps the invariant. -/

set_option linter.unusedVariables false
set_option linter.unusedTactic false
set_option linter.unreachableTactic false

namespace Sys2Proof.Machine

theorem State.readdMiss_keeps {s0 s : State} (r : Readd) (hK : Keeps s0 s) :
    Keeps s0 (State.readdMiss s r) := by
  unfold State.readdMiss
  try dsimp only
  repeat' (first | with_reducible assumption | with_reducible apply State.dueNow_keeps | with_reducible apply State.failFiring_keeps | with_reducible apply State.failStream_keeps | with_reducible apply State.noteCollFail_keeps | with_reducible apply State.raise_keeps | with_reducible apply State.sendRetract_keeps | (intro t b ht; try dsimp only) | split | fail_if_no_progress (with_reducible apply Keeps.mk) | exact id | exact fun _ => Nat.zero_le 4 | exact fun hp => (List.length_take ▸ Nat.le_trans (Nat.min_le_right _ _) (hp _)) | exact Memory.wf_write _ _ | exact Memory.wf_writeAll _ | exact Memory.wf_writeTagged _ _ _ | exact Memory.wf_stage _ _ _ | exact Memory.wf_spoil _ | exact fun hp => hp _)

theorem State.sendHeld_keeps {s0 s : State} (r : Readd) (f : Frame) (hK : Keeps s0 s) :
    Keeps s0 (State.sendHeld s r f) := by
  unfold State.sendHeld
  try dsimp only
  repeat' (first | with_reducible assumption | with_reducible apply State.sendOwn_keeps | with_reducible apply State.setColl_keeps | (intro t b ht; try dsimp only) | split | fail_if_no_progress (with_reducible apply Keeps.mk) | exact id | exact fun _ => Nat.zero_le 4 | exact fun hp => (List.length_take ▸ Nat.le_trans (Nat.min_le_right _ _) (hp _)) | exact Memory.wf_write _ _ | exact Memory.wf_writeAll _ | exact Memory.wf_writeTagged _ _ _ | exact Memory.wf_stage _ _ _ | exact Memory.wf_spoil _ | exact fun hp => hp _)

end Sys2Proof.Machine
end

