-- ==== Sys2Proof/Laws/KeepsConsort.lean ====
section
/-! SUPPORT. Every operation of Machine/Consort.lean leaves the queue as it is and keeps the invariant. -/

set_option linter.unusedVariables false
set_option linter.unusedTactic false
set_option linter.unreachableTactic false

namespace Sys2Proof.Machine

theorem State.sendReady_keeps {s0 s : State} (c : Coll) (q : Nat) (hK : Keeps s0 s) :
    Keeps s0 (State.sendReady s c q) := by
  unfold State.sendReady
  try dsimp only
  repeat' (first | with_reducible assumption | with_reducible apply State.sendOwn_keeps | (intro t b ht; try dsimp only) | split | fail_if_no_progress (with_reducible apply Keeps.mk) | exact id | exact fun _ => Nat.zero_le 4 | exact fun hp => (List.length_take ▸ Nat.le_trans (Nat.min_le_right _ _) (hp _)) | exact Memory.wf_write _ _ | exact Memory.wf_writeAll _ | exact Memory.wf_writeTagged _ _ _ | exact Memory.wf_stage _ _ _ | exact Memory.wf_spoil _ | exact fun hp => hp _)

theorem State.sendReadys_keeps {s0 s : State} (c : Coll) (hK : Keeps s0 s) :
    Keeps s0 (State.sendReadys s c) := by
  unfold State.sendReadys
  try dsimp only
  repeat' (first | with_reducible assumption | with_reducible apply State.forEach_keeps | with_reducible apply State.sendReady_keeps | (intro t b ht; try dsimp only) | split | fail_if_no_progress (with_reducible apply Keeps.mk) | exact id | exact fun _ => Nat.zero_le 4 | exact fun hp => (List.length_take ▸ Nat.le_trans (Nat.min_le_right _ _) (hp _)) | exact Memory.wf_write _ _ | exact Memory.wf_writeAll _ | exact Memory.wf_writeTagged _ _ _ | exact Memory.wf_stage _ _ _ | exact Memory.wf_spoil _ | exact fun hp => hp _)

theorem State.noteReadd_keeps {s0 s : State} (c : Coll) (first count : Nat) (result : Bool) (hK : Keeps s0 s) :
    Keeps s0 (State.noteReadd s c first count result) := by
  unfold State.noteReadd
  try dsimp only
  repeat' (first | with_reducible assumption | with_reducible apply State.updJob_keeps | (intro t b ht; try dsimp only) | split | fail_if_no_progress (with_reducible apply Keeps.mk) | exact id | exact fun _ => Nat.zero_le 4 | exact fun hp => (List.length_take ▸ Nat.le_trans (Nat.min_le_right _ _) (hp _)) | exact Memory.wf_write _ _ | exact Memory.wf_writeAll _ | exact Memory.wf_writeTagged _ _ _ | exact Memory.wf_stage _ _ _ | exact Memory.wf_spoil _ | exact fun hp => hp _)

theorem State.sendBlock_keeps {s0 s : State} (c : Coll) (q : Nat) (hK : Keeps s0 s) :
    Keeps s0 (State.sendBlock s c q) := by
  unfold State.sendBlock
  try dsimp only
  repeat' (first | with_reducible assumption | with_reducible apply State.sendOwn_keeps | (intro t b ht; try dsimp only) | split | fail_if_no_progress (with_reducible apply Keeps.mk) | exact id | exact fun _ => Nat.zero_le 4 | exact fun hp => (List.length_take ▸ Nat.le_trans (Nat.min_le_right _ _) (hp _)) | exact Memory.wf_write _ _ | exact Memory.wf_writeAll _ | exact Memory.wf_writeTagged _ _ _ | exact Memory.wf_stage _ _ _ | exact Memory.wf_spoil _ | exact fun hp => hp _)

theorem State.pumpOne_keeps {s0 s : State} (n slot q : Nat) (hK : Keeps s0 s) :
    Keeps s0 (State.pumpOne s n slot q) := by
  unfold State.pumpOne
  try dsimp only
  repeat' (first | with_reducible assumption | with_reducible apply State.granted_keeps | with_reducible apply State.sendBlock_keeps | with_reducible apply State.setColl_keeps | (intro t b ht; try dsimp only) | split | fail_if_no_progress (with_reducible apply Keeps.mk) | exact id | exact fun _ => Nat.zero_le 4 | exact fun hp => (List.length_take ▸ Nat.le_trans (Nat.min_le_right _ _) (hp _)) | exact Memory.wf_write _ _ | exact Memory.wf_writeAll _ | exact Memory.wf_writeTagged _ _ _ | exact Memory.wf_stage _ _ _ | exact Memory.wf_spoil _ | exact fun hp => hp _)

theorem State.pump_keeps {s0 s : State} (n slot count : Nat) (hK : Keeps s0 s) :
    Keeps s0 (State.pump s n slot count) := by
  unfold State.pump
  try dsimp only
  repeat' (first | with_reducible assumption | with_reducible apply State.forEach_keeps | with_reducible apply State.pumpOne_keeps | (intro t b ht; try dsimp only) | split | fail_if_no_progress (with_reducible apply Keeps.mk) | exact id | exact fun _ => Nat.zero_le 4 | exact fun hp => (List.length_take ▸ Nat.le_trans (Nat.min_le_right _ _) (hp _)) | exact Memory.wf_write _ _ | exact Memory.wf_writeAll _ | exact Memory.wf_writeTagged _ _ _ | exact Memory.wf_stage _ _ _ | exact Memory.wf_spoil _ | exact fun hp => hp _)

theorem State.failColl_keeps {s0 s : State} (c : Coll) (code : U16) (hK : Keeps s0 s) :
    Keeps s0 (State.failColl s c code) := by
  unfold State.failColl
  try dsimp only
  repeat' (first | with_reducible assumption | with_reducible apply State.failFiring_keeps | with_reducible apply State.failStream_keeps | with_reducible apply State.noteCollFail_keeps | (intro t b ht; try dsimp only) | split | fail_if_no_progress (with_reducible apply Keeps.mk) | exact id | exact fun _ => Nat.zero_le 4 | exact fun hp => (List.length_take ▸ Nat.le_trans (Nat.min_le_right _ _) (hp _)) | exact Memory.wf_write _ _ | exact Memory.wf_writeAll _ | exact Memory.wf_writeTagged _ _ _ | exact Memory.wf_stage _ _ _ | exact Memory.wf_spoil _ | exact fun hp => hp _)

theorem State.refuseReady_keeps {s0 s : State} (c : Coll) (q : Nat) (hK : Keeps s0 s) :
    Keeps s0 (State.refuseReady s c q) := by
  unfold State.refuseReady
  try dsimp only
  repeat' (first | with_reducible assumption | with_reducible apply State.send_keeps | (intro t b ht; try dsimp only) | split | fail_if_no_progress (with_reducible apply Keeps.mk) | exact id | exact fun _ => Nat.zero_le 4 | exact fun hp => (List.length_take ▸ Nat.le_trans (Nat.min_le_right _ _) (hp _)) | exact Memory.wf_write _ _ | exact Memory.wf_writeAll _ | exact Memory.wf_writeTagged _ _ _ | exact Memory.wf_stage _ _ _ | exact Memory.wf_spoil _ | exact fun hp => hp _)

theorem State.takeReady_keeps {s0 s : State} (c : Coll) (r : HeldReady) (hK : Keeps s0 s) :
    Keeps s0 (State.takeReady s c r) := by
  unfold State.takeReady
  try dsimp only
  repeat' (first | with_reducible assumption | with_reducible apply State.failColl_keeps | with_reducible apply State.granted_keeps | with_reducible apply State.pump_keeps | with_reducible apply State.refuseReady_keeps | with_reducible apply State.setColl_keeps | (intro t b ht; try dsimp only) | split | fail_if_no_progress (with_reducible apply Keeps.mk) | exact id | exact fun _ => Nat.zero_le 4 | exact fun hp => (List.length_take ▸ Nat.le_trans (Nat.min_le_right _ _) (hp _)) | exact Memory.wf_write _ _ | exact Memory.wf_writeAll _ | exact Memory.wf_writeTagged _ _ _ | exact Memory.wf_stage _ _ _ | exact Memory.wf_spoil _ | exact fun hp => hp _)

theorem State.countStale_keeps {s0 s : State} (j g p : Nat) (hK : Keeps s0 s) :
    Keeps s0 (State.countStale s j g p) := by
  unfold State.countStale
  try dsimp only
  repeat' (first | with_reducible assumption | with_reducible apply State.countSat_keeps | (intro t b ht; try dsimp only) | split | fail_if_no_progress (with_reducible apply Keeps.mk) | exact id | exact fun _ => Nat.zero_le 4 | exact fun hp => (List.length_take ▸ Nat.le_trans (Nat.min_le_right _ _) (hp _)) | exact Memory.wf_write _ _ | exact Memory.wf_writeAll _ | exact Memory.wf_writeTagged _ _ _ | exact Memory.wf_stage _ _ _ | exact Memory.wf_spoil _ | exact fun hp => hp _)

theorem State.holdReady_keeps {s0 s : State} (p : Nat) (r : HeldReady) (hK : Keeps s0 s) :
    Keeps s0 (State.holdReady s p r) := by
  unfold State.holdReady
  try dsimp only
  repeat' (first | with_reducible assumption | with_reducible apply State.countStale_keeps | (intro t b ht; try dsimp only) | split | fail_if_no_progress (with_reducible apply Keeps.mk) | exact id | exact fun _ => Nat.zero_le 4 | exact fun hp => (List.length_take ▸ Nat.le_trans (Nat.min_le_right _ _) (hp _)) | exact Memory.wf_write _ _ | exact Memory.wf_writeAll _ | exact Memory.wf_writeTagged _ _ _ | exact Memory.wf_stage _ _ _ | exact Memory.wf_spoil _ | exact fun hp => hp _)

theorem State.afterBlock_keeps {s0 s : State} (c : Coll) (q : Nat) (hK : Keeps s0 s) :
    Keeps s0 (State.afterBlock s c q) := by
  unfold State.afterBlock
  try dsimp only
  repeat' (first | with_reducible assumption | with_reducible apply State.sendReady_keeps | with_reducible apply State.setColl_keeps | (intro t b ht; try dsimp only) | split | fail_if_no_progress (with_reducible apply Keeps.mk) | exact id | exact fun _ => Nat.zero_le 4 | exact fun hp => (List.length_take ▸ Nat.le_trans (Nat.min_le_right _ _) (hp _)) | exact Memory.wf_write _ _ | exact Memory.wf_writeAll _ | exact Memory.wf_writeTagged _ _ _ | exact Memory.wf_stage _ _ _ | exact Memory.wf_spoil _ | exact fun hp => hp _)

theorem State.badBlock_keeps {s0 s : State} (c : Coll) (q : Nat) (f : Frame) (hK : Keeps s0 s) :
    Keeps s0 (State.badBlock s c q f) := by
  unfold State.badBlock
  try dsimp only
  repeat' (first | with_reducible assumption | with_reducible apply State.afterBlock_keeps | with_reducible apply State.countPair_keeps | with_reducible apply State.countSat_keeps | with_reducible apply State.detectedFault_keeps | with_reducible apply State.failColl_keeps | with_reducible apply State.raise_keeps | with_reducible apply State.recordStream_keeps | (intro t b ht; try dsimp only) | split | fail_if_no_progress (with_reducible apply Keeps.mk) | exact id | exact fun _ => Nat.zero_le 4 | exact fun hp => (List.length_take ▸ Nat.le_trans (Nat.min_le_right _ _) (hp _)) | exact Memory.wf_write _ _ | exact Memory.wf_writeAll _ | exact Memory.wf_writeTagged _ _ _ | exact Memory.wf_stage _ _ _ | exact Memory.wf_spoil _ | exact fun hp => hp _)

theorem State.goodBlock_keeps {s0 s : State} (c : Coll) (q : Nat) (f : Frame) (hK : Keeps s0 s) :
    Keeps s0 (State.goodBlock s c q f) := by
  unfold State.goodBlock
  try dsimp only
  repeat' (first | with_reducible assumption | with_reducible apply State.afterBlock_keeps | with_reducible apply State.countPair_keeps | with_reducible apply State.noteTransient_keeps | (intro t b ht; try dsimp only) | split | fail_if_no_progress (with_reducible apply Keeps.mk) | exact id | exact fun _ => Nat.zero_le 4 | exact fun hp => (List.length_take ▸ Nat.le_trans (Nat.min_le_right _ _) (hp _)) | exact Memory.wf_write _ _ | exact Memory.wf_writeAll _ | exact Memory.wf_writeTagged _ _ _ | exact Memory.wf_stage _ _ _ | exact Memory.wf_spoil _ | exact fun hp => hp _)

theorem State.sendAgain_keeps {s0 s : State} (c : Coll) (f : Frame) (fault : Bool) (hK : Keeps s0 s) :
    Keeps s0 (State.sendAgain s c f fault) := by
  unfold State.sendAgain
  try dsimp only
  repeat' (first | with_reducible assumption | with_reducible apply State.collLost_keeps | with_reducible apply State.countSat_keeps | with_reducible apply State.failColl_keeps | with_reducible apply State.noteTransient_keeps | with_reducible apply State.recordStream_keeps | with_reducible apply State.sendFrame_keeps | (intro t b ht; try dsimp only) | split | fail_if_no_progress (with_reducible apply Keeps.mk) | exact id | exact fun _ => Nat.zero_le 4 | exact fun hp => (List.length_take ▸ Nat.le_trans (Nat.min_le_right _ _) (hp _)) | exact Memory.wf_write _ _ | exact Memory.wf_writeAll _ | exact Memory.wf_writeTagged _ _ _ | exact Memory.wf_stage _ _ _ | exact Memory.wf_spoil _ | exact fun hp => hp _)

theorem State.resend_keeps {s0 s : State} (n slot : Nat) (hK : Keeps s0 s) :
    Keeps s0 (State.resend s n slot) := by
  unfold State.resend
  try dsimp only
  repeat' (first | with_reducible assumption | with_reducible apply State.forEach_keeps | with_reducible apply State.sendAgain_keeps | with_reducible apply State.setColl_keeps | (intro t b ht; try dsimp only) | split | fail_if_no_progress (with_reducible apply Keeps.mk) | exact id | exact fun _ => Nat.zero_le 4 | exact fun hp => (List.length_take ▸ Nat.le_trans (Nat.min_le_right _ _) (hp _)) | exact Memory.wf_write _ _ | exact Memory.wf_writeAll _ | exact Memory.wf_writeTagged _ _ _ | exact Memory.wf_stage _ _ _ | exact Memory.wf_spoil _ | exact fun hp => hp _)

theorem State.collChecks_keeps {s0 s : State} (c : Coll) (b : Bound) (y : BNode) (hK : Keeps s0 s) :
    Keeps s0 (State.collChecks s c b y) := by
  unfold State.collChecks
  try dsimp only
  repeat' (first | with_reducible assumption | with_reducible apply State.forEach_keeps | with_reducible apply State.noteReadd_keeps | (intro t b ht; try dsimp only) | split | fail_if_no_progress (with_reducible apply Keeps.mk) | exact id | exact fun _ => Nat.zero_le 4 | exact fun hp => (List.length_take ▸ Nat.le_trans (Nat.min_le_right _ _) (hp _)) | exact Memory.wf_write _ _ | exact Memory.wf_writeAll _ | exact Memory.wf_writeTagged _ _ _ | exact Memory.wf_stage _ _ _ | exact Memory.wf_spoil _ | exact fun hp => hp _)

theorem State.intakeChecks_keeps {s0 s : State} (c : Coll) (k : CollNode) (hK : Keeps s0 s) :
    Keeps s0 (State.intakeChecks s c k) := by
  unfold State.intakeChecks
  try dsimp only
  repeat' (first | with_reducible assumption | with_reducible apply State.forEach_keeps | with_reducible apply State.noteReadd_keeps | (intro t b ht; try dsimp only) | split | fail_if_no_progress (with_reducible apply Keeps.mk) | exact id | exact fun _ => Nat.zero_le 4 | exact fun hp => (List.length_take ▸ Nat.le_trans (Nat.min_le_right _ _) (hp _)) | exact Memory.wf_write _ _ | exact Memory.wf_writeAll _ | exact Memory.wf_writeTagged _ _ _ | exact Memory.wf_stage _ _ _ | exact Memory.wf_spoil _ | exact fun hp => hp _)

theorem State.collStart_keeps {s0 s : State} (u : Nat) (hK : Keeps s0 s) :
    Keeps s0 (State.collStart s u) := by
  unfold State.collStart
  try dsimp only
  repeat' (first | with_reducible assumption | with_reducible apply State.collChecks_keeps | with_reducible apply State.failColl_keeps | with_reducible apply State.failFiring_keeps | with_reducible apply State.forEach_keeps | with_reducible apply State.resend_keeps | with_reducible apply State.sendReadys_keeps | with_reducible apply State.takeReady_keeps | (intro t b ht; try dsimp only) | split | fail_if_no_progress (with_reducible apply Keeps.mk) | exact id | exact fun _ => Nat.zero_le 4 | exact fun hp => (List.length_take ▸ Nat.le_trans (Nat.min_le_right _ _) (hp _)) | exact Memory.wf_write _ _ | exact Memory.wf_writeAll _ | exact Memory.wf_writeTagged _ _ _ | exact Memory.wf_stage _ _ _ | exact Memory.wf_spoil _ | exact fun hp => hp _)

theorem State.collIntake_keeps {s0 s : State} (u : Nat) (r : Running) (b : Bound) (y : BNode) (c : Coll) (k : CollNode) (obs : FireObs) (hK : Keeps s0 s) :
    Keeps s0 (State.collIntake s u r b y c k obs) := by
  unfold State.collIntake
  try dsimp only
  repeat' (first | with_reducible assumption | with_reducible apply State.boundary_keeps | with_reducible apply State.edgeMessages_keeps | with_reducible apply State.freeAfterFiring_keeps | with_reducible apply State.gather_keeps | with_reducible apply State.intakeChecks_keeps | with_reducible apply State.noteTransient_keeps | with_reducible apply State.pump_keeps | with_reducible apply State.readNotes_keeps | with_reducible apply State.setColl_keeps | with_reducible apply State.updRec_keeps | (intro t b ht; try dsimp only) | split | fail_if_no_progress (with_reducible apply Keeps.mk) | exact id | exact fun _ => Nat.zero_le 4 | exact fun hp => (List.length_take ▸ Nat.le_trans (Nat.min_le_right _ _) (hp _)) | exact Memory.wf_write _ _ | exact Memory.wf_writeAll _ | exact Memory.wf_writeTagged _ _ _ | exact Memory.wf_stage _ _ _ | exact Memory.wf_spoil _ | exact fun hp => hp _)

theorem State.collEnd_keeps {s0 s : State} (c : Coll) (hK : Keeps s0 s) :
    Keeps s0 (State.collEnd s c) := by
  unfold State.collEnd
  try dsimp only
  repeat' (first | with_reducible assumption | with_reducible apply State.updJob_keeps | (intro t b ht; try dsimp only) | split | fail_if_no_progress (with_reducible apply Keeps.mk) | exact id | exact fun _ => Nat.zero_le 4 | exact fun hp => (List.length_take ▸ Nat.le_trans (Nat.min_le_right _ _) (hp _)) | exact Memory.wf_write _ _ | exact Memory.wf_writeAll _ | exact Memory.wf_writeTagged _ _ _ | exact Memory.wf_stage _ _ _ | exact Memory.wf_spoil _ | exact fun hp => hp _)

theorem State.collResult_keeps {s0 s : State} (u : Nat) (b : Bound) (y : BNode) (c : Coll) (k : CollNode) (hK : Keeps s0 s) :
    Keeps s0 (State.collResult s u b y c k) := by
  unfold State.collResult
  try dsimp only
  repeat' (first | with_reducible assumption | with_reducible apply State.collEnd_keeps | with_reducible apply State.draw_keeps | with_reducible apply State.finishFiring_keeps | with_reducible apply State.gather_keeps | with_reducible apply State.store_keeps | (intro t b ht; try dsimp only) | split | fail_if_no_progress (with_reducible apply Keeps.mk) | exact id | exact fun _ => Nat.zero_le 4 | exact fun hp => (List.length_take ▸ Nat.le_trans (Nat.min_le_right _ _) (hp _)) | exact Memory.wf_write _ _ | exact Memory.wf_writeAll _ | exact Memory.wf_writeTagged _ _ _ | exact Memory.wf_stage _ _ _ | exact Memory.wf_spoil _ | exact fun hp => hp _)

theorem State.collComplete_keeps {s0 s : State} (u : Nat) (obs : FireObs) (hK : Keeps s0 s) :
    Keeps s0 (State.collComplete s u obs) := by
  unfold State.collComplete
  try dsimp only
  repeat' (first | with_reducible assumption | with_reducible apply State.collIntake_keeps | with_reducible apply State.collResult_keeps | (intro t b ht; try dsimp only) | split | fail_if_no_progress (with_reducible apply Keeps.mk) | exact id | exact fun _ => Nat.zero_le 4 | exact fun hp => (List.length_take ▸ Nat.le_trans (Nat.min_le_right _ _) (hp _)) | exact Memory.wf_write _ _ | exact Memory.wf_writeAll _ | exact Memory.wf_writeTagged _ _ _ | exact Memory.wf_stage _ _ _ | exact Memory.wf_spoil _ | exact fun hp => hp _)

end Sys2Proof.Machine
end

