-- ==== Sys2Proof/Laws/KeepsJobs.lean ====
section
/-! SUPPORT. Every operation of Machine/Jobs.lean leaves the queue as it is and keeps the invariant. -/

set_option linter.unusedVariables false
set_option linter.unusedTactic false
set_option linter.unreachableTactic false

namespace Sys2Proof.Machine

theorem State.releaseAt_keeps {s0 s : State} (a : Nat) (hK : Keeps s0 s) :
    Keeps s0 (State.releaseAt s a) := by
  unfold State.releaseAt
  try dsimp only
  repeat' (first | with_reducible assumption | with_reducible apply State.writeMem_keeps | (intro t b ht; try dsimp only) | split | fail_if_no_progress (with_reducible apply Keeps.mk) | exact id | exact fun _ => Nat.zero_le 4 | exact fun hp => (List.length_take ▸ Nat.le_trans (Nat.min_le_right _ _) (hp _)) | exact Memory.wf_write _ _ | exact Memory.wf_writeAll _ | exact Memory.wf_writeTagged _ _ _ | exact Memory.wf_stage _ _ _ | exact Memory.wf_spoil _ | exact fun hp => hp _)

theorem State.releaseJob_keeps {s0 s : State} (j : Nat) (hK : Keeps s0 s) :
    Keeps s0 (State.releaseJob s j) := by
  unfold State.releaseJob
  try dsimp only
  repeat' (first | with_reducible assumption | with_reducible apply State.forEach_keeps | with_reducible apply State.releaseAt_keeps | with_reducible apply State.setSlot_keeps | with_reducible apply State.stopTwinOf_keeps | (intro t b ht; try dsimp only) | split | fail_if_no_progress (with_reducible apply Keeps.mk) | exact id | exact fun _ => Nat.zero_le 4 | exact fun hp => (List.length_take ▸ Nat.le_trans (Nat.min_le_right _ _) (hp _)) | exact Memory.wf_write _ _ | exact Memory.wf_writeAll _ | exact Memory.wf_writeTagged _ _ _ | exact Memory.wf_stage _ _ _ | exact Memory.wf_spoil _ | exact fun hp => hp _)

theorem State.writeJobCfg_keeps {s0 s : State} (v : U32) (hK : Keeps s0 s) :
    Keeps s0 (State.writeJobCfg s v) := by
  unfold State.writeJobCfg
  try dsimp only
  repeat' (first | with_reducible assumption | with_reducible apply State.checkTwinKey_keeps | with_reducible apply State.raise_keeps | with_reducible apply State.releaseJob_keeps | with_reducible apply State.setJob_keeps | (intro t b ht; try dsimp only) | split | fail_if_no_progress (with_reducible apply Keeps.mk) | exact id | exact fun _ => Nat.zero_le 4 | exact fun hp => (List.length_take ▸ Nat.le_trans (Nat.min_le_right _ _) (hp _)) | exact Memory.wf_write _ _ | exact Memory.wf_writeAll _ | exact Memory.wf_writeTagged _ _ _ | exact Memory.wf_stage _ _ _ | exact Memory.wf_spoil _ | exact fun hp => hp _)

end Sys2Proof.Machine
end

