-- ==== Sys2Proof/Laws/KeepsRegisterCmds.lean ====
section
/-! SUPPORT. Every operation of Machine/RegisterCmds.lean leaves the queue as it is and keeps the invariant. -/

set_option linter.unusedVariables false
set_option linter.unusedTactic false
set_option linter.unreachableTactic false

namespace Sys2Proof.Machine

theorem State.commitPair_keeps {s0 s : State} (pg : Page) (lo : Nat) (v : Nat) (hK : Keeps s0 s) :
    Keeps s0 (State.commitPair s pg lo v) := by
  unfold State.commitPair
  try dsimp only
  repeat' (first | with_reducible assumption | with_reducible apply State.regionBounds_keeps | with_reducible apply State.setBits_keeps | (intro t b ht; try dsimp only) | split | fail_if_no_progress (with_reducible apply Keeps.mk) | exact id | exact fun _ => Nat.zero_le 4 | exact fun hp => (List.length_take ▸ Nat.le_trans (Nat.min_le_right _ _) (hp _)) | exact Memory.wf_write _ _ | exact Memory.wf_writeAll _ | exact Memory.wf_writeTagged _ _ _ | exact Memory.wf_stage _ _ _ | exact Memory.wf_spoil _ | exact fun hp => hp _)

theorem State.writeRw_keeps {s0 s : State} (pg : Page) (off : Nat) (v : U32) (hK : Keeps s0 s) :
    Keeps s0 (State.writeRw s pg off v) := by
  unfold State.writeRw
  try dsimp only
  repeat' (first | with_reducible assumption | with_reducible apply State.setBits_keeps | (intro t b ht; try dsimp only) | split | fail_if_no_progress (with_reducible apply Keeps.mk) | exact id | exact fun _ => Nat.zero_le 4 | exact fun hp => (List.length_take ▸ Nat.le_trans (Nat.min_le_right _ _) (hp _)) | exact Memory.wf_write _ _ | exact Memory.wf_writeAll _ | exact Memory.wf_writeTagged _ _ _ | exact Memory.wf_stage _ _ _ | exact Memory.wf_spoil _ | exact fun hp => hp _)

theorem State.writeHbMiss_keeps {s0 s : State} (v : U32) (hK : Keeps s0 s) :
    Keeps s0 (State.writeHbMiss s v) := by
  unfold State.writeHbMiss
  try dsimp only
  repeat' (first | with_reducible assumption | with_reducible apply State.setSlot_keeps | (intro t b ht; try dsimp only) | split | fail_if_no_progress (with_reducible apply Keeps.mk) | exact id | exact fun _ => Nat.zero_le 4 | exact fun hp => (List.length_take ▸ Nat.le_trans (Nat.min_le_right _ _) (hp _)) | exact Memory.wf_write _ _ | exact Memory.wf_writeAll _ | exact Memory.wf_writeTagged _ _ _ | exact Memory.wf_stage _ _ _ | exact Memory.wf_spoil _ | exact fun hp => hp _)

theorem State.writeUniCfg_keeps {s0 s : State} (v : U32) (hK : Keeps s0 s) :
    Keeps s0 (State.writeUniCfg s v) := by
  unfold State.writeUniCfg
  try dsimp only
  repeat' (first | with_reducible assumption | with_reducible apply State.updJob_keeps | (intro t b ht; try dsimp only) | split | fail_if_no_progress (with_reducible apply Keeps.mk) | exact id | exact fun _ => Nat.zero_le 4 | exact fun hp => (List.length_take ▸ Nat.le_trans (Nat.min_le_right _ _) (hp _)) | exact Memory.wf_write _ _ | exact Memory.wf_writeAll _ | exact Memory.wf_writeTagged _ _ _ | exact Memory.wf_stage _ _ _ | exact Memory.wf_spoil _ | exact fun hp => hp _)

theorem State.writeUniWait_keeps {s0 s : State} (v : U32) (hK : Keeps s0 s) :
    Keeps s0 (State.writeUniWait s v) := by
  unfold State.writeUniWait
  try dsimp only
  repeat' (first | with_reducible assumption | with_reducible apply State.updJob_keeps | (intro t b ht; try dsimp only) | split | fail_if_no_progress (with_reducible apply Keeps.mk) | exact id | exact fun _ => Nat.zero_le 4 | exact fun hp => (List.length_take ▸ Nat.le_trans (Nat.min_le_right _ _) (hp _)) | exact Memory.wf_write _ _ | exact Memory.wf_writeAll _ | exact Memory.wf_writeTagged _ _ _ | exact Memory.wf_stage _ _ _ | exact Memory.wf_spoil _ | exact fun hp => hp _)

theorem State.writeWindow_keeps {s0 s : State} (v : U32) (hK : Keeps s0 s) :
    Keeps s0 (State.writeWindow s v) := by
  unfold State.writeWindow
  try dsimp only
  repeat' (first | with_reducible assumption | (intro t b ht; try dsimp only) | split | fail_if_no_progress (with_reducible apply Keeps.mk) | exact id | exact fun _ => Nat.zero_le 4 | exact fun hp => (List.length_take ▸ Nat.le_trans (Nat.min_le_right _ _) (hp _)) | exact Memory.wf_write _ _ | exact Memory.wf_writeAll _ | exact Memory.wf_writeTagged _ _ _ | exact Memory.wf_stage _ _ _ | exact Memory.wf_spoil _ | exact fun hp => hp _)

theorem State.writeLoop_keeps {s0 s : State} (pg : Page) (e : LinkEnd) (v : U32) (hK : Keeps s0 s) :
    Keeps s0 (State.writeLoop s pg e v) := by
  unfold State.writeLoop
  try dsimp only
  repeat' (first | with_reducible assumption | with_reducible apply State.setBits_keeps | (intro t b ht; try dsimp only) | split | fail_if_no_progress (with_reducible apply Keeps.mk) | exact id | exact fun _ => Nat.zero_le 4 | exact fun hp => (List.length_take ▸ Nat.le_trans (Nat.min_le_right _ _) (hp _)) | exact Memory.wf_write _ _ | exact Memory.wf_writeAll _ | exact Memory.wf_writeTagged _ _ _ | exact Memory.wf_stage _ _ _ | exact Memory.wf_spoil _ | exact fun hp => hp _)

theorem State.plainWrite_keeps {s0 s : State} (pg : Page) (off : Nat) (v : U32) (hK : Keeps s0 s) :
    Keeps s0 (State.plainWrite s pg off v) := by
  unfold State.plainWrite
  try dsimp only
  repeat' (first | with_reducible assumption | with_reducible apply State.setBits_keeps | with_reducible apply State.writeHbMiss_keeps | with_reducible apply State.writeLoop_keeps | with_reducible apply State.writeRw_keeps | with_reducible apply State.writeUniCfg_keeps | with_reducible apply State.writeUniWait_keeps | with_reducible apply State.writeWindow_keeps | (intro t b ht; try dsimp only) | split | fail_if_no_progress (with_reducible apply Keeps.mk) | exact id | exact fun _ => Nat.zero_le 4 | exact fun hp => (List.length_take ▸ Nat.le_trans (Nat.min_le_right _ _) (hp _)) | exact Memory.wf_write _ _ | exact Memory.wf_writeAll _ | exact Memory.wf_writeTagged _ _ _ | exact Memory.wf_stage _ _ _ | exact Memory.wf_spoil _ | exact fun hp => hp _)

theorem State.clearHeldCounts_keeps {s0 s : State} (pg : Page) (hK : Keeps s0 s) :
    Keeps s0 (State.clearHeldCounts s pg) := by
  unfold State.clearHeldCounts
  try dsimp only
  repeat' (first | with_reducible assumption | with_reducible apply State.forEach_keeps | with_reducible apply State.setLink_keeps | with_reducible apply State.setSlot_keeps | (intro t b ht; try dsimp only) | split | fail_if_no_progress (with_reducible apply Keeps.mk) | exact id | exact fun _ => Nat.zero_le 4 | exact fun hp => (List.length_take ▸ Nat.le_trans (Nat.min_le_right _ _) (hp _)) | exact Memory.wf_write _ _ | exact Memory.wf_writeAll _ | exact Memory.wf_writeTagged _ _ _ | exact Memory.wf_stage _ _ _ | exact Memory.wf_spoil _ | exact fun hp => hp _)

end Sys2Proof.Machine
end

