-- ==== Sys2Proof/Laws/KeepsTwin.lean ====
section
/-! SUPPORT. Every operation of Machine/Twin.lean leaves the queue as it is and keeps the invariant. -/

set_option linter.unusedVariables false
set_option linter.unusedTactic false
set_option linter.unreachableTactic false

namespace Sys2Proof.Machine

theorem State.mirrorCommit_keeps {s0 s : State} (j state : Nat) (h : LHeader) (r : CRecord) (hK : Keeps s0 s) :
    Keeps s0 (State.mirrorCommit s j state h r) := by
  unfold State.mirrorCommit
  try dsimp only
  repeat' (first | with_reducible assumption | (intro t b ht; try dsimp only) | split | fail_if_no_progress (with_reducible apply Keeps.mk) | exact id | exact fun _ => Nat.zero_le 4 | exact fun hp => (List.length_take ▸ Nat.le_trans (Nat.min_le_right _ _) (hp _)) | exact Memory.wf_write _ _ | exact Memory.wf_writeAll _ | exact Memory.wf_writeTagged _ _ _ | exact Memory.wf_stage _ _ _ | exact Memory.wf_spoil _ | exact fun hp => hp _)

theorem State.twinShard_keeps {s0 s : State} (a : Nat) (hK : Keeps s0 s) :
    Keeps s0 (State.twinShard s a).1 := by
  unfold State.twinShard
  try dsimp only
  repeat' (first | with_reducible assumption | with_reducible apply State.eccRead_keeps | (intro t b ht; try dsimp only) | split | fail_if_no_progress (with_reducible apply Keeps.mk) | exact id | exact fun _ => Nat.zero_le 4 | exact fun hp => (List.length_take ▸ Nat.le_trans (Nat.min_le_right _ _) (hp _)) | exact Memory.wf_write _ _ | exact Memory.wf_writeAll _ | exact Memory.wf_writeTagged _ _ _ | exact Memory.wf_stage _ _ _ | exact Memory.wf_spoil _ | exact fun hp => hp _)

theorem State.twinShards_keeps {s0 s : State}  (hK : Keeps s0 s) :
    Keeps s0 (State.twinShards s) := by
  unfold State.twinShards
  try dsimp only
  repeat' (first | with_reducible assumption | with_reducible apply State.forEach_keeps | with_reducible apply State.twinShard_keeps | (intro t b ht; try dsimp only) | split | fail_if_no_progress (with_reducible apply Keeps.mk) | exact id | exact fun _ => Nat.zero_le 4 | exact fun hp => (List.length_take ▸ Nat.le_trans (Nat.min_le_right _ _) (hp _)) | exact Memory.wf_write _ _ | exact Memory.wf_writeAll _ | exact Memory.wf_writeTagged _ _ _ | exact Memory.wf_stage _ _ _ | exact Memory.wf_spoil _ | exact fun hp => hp _)

theorem State.clearTwinPort_keeps {s0 s : State}  (hK : Keeps s0 s) :
    Keeps s0 (State.clearTwinPort s) := by
  unfold State.clearTwinPort
  try dsimp only
  repeat' (first | with_reducible assumption | with_reducible apply State.countDrop_keeps | with_reducible apply State.forEach_keeps | with_reducible apply State.lostOwn_keeps | with_reducible apply State.setPort_keeps | (intro t b ht; try dsimp only) | split | fail_if_no_progress (with_reducible apply Keeps.mk) | exact id | exact fun _ => Nat.zero_le 4 | exact fun hp => (List.length_take ▸ Nat.le_trans (Nat.min_le_right _ _) (hp _)) | exact Memory.wf_write _ _ | exact Memory.wf_writeAll _ | exact Memory.wf_writeTagged _ _ _ | exact Memory.wf_stage _ _ _ | exact Memory.wf_spoil _ | exact fun hp => hp _)

theorem State.writeTwin_keeps {s0 s : State} (v : U32) (hK : Keeps s0 s) :
    Keeps s0 (State.writeTwin s v) := by
  unfold State.writeTwin
  try dsimp only
  repeat' (first | with_reducible assumption | with_reducible apply State.clearTwinPort_keeps | with_reducible apply State.raise_keeps | with_reducible apply State.setBits_keeps | with_reducible apply State.twinShards_keeps | (intro t b ht; try dsimp only) | split | fail_if_no_progress (with_reducible apply Keeps.mk) | exact id | exact fun _ => Nat.zero_le 4 | exact fun hp => (List.length_take ▸ Nat.le_trans (Nat.min_le_right _ _) (hp _)) | exact Memory.wf_write _ _ | exact Memory.wf_writeAll _ | exact Memory.wf_writeTagged _ _ _ | exact Memory.wf_stage _ _ _ | exact Memory.wf_spoil _ | exact fun hp => hp _)

theorem State.askTwin_keeps {s0 s : State} (a : Nat) (hK : Keeps s0 s) :
    Keeps s0 (State.askTwin s a) := by
  unfold State.askTwin
  try dsimp only
  repeat' (first | with_reducible assumption | with_reducible apply State.issueUio_keeps | with_reducible apply State.stopTwin_keeps | (intro t b ht; try dsimp only) | split | fail_if_no_progress (with_reducible apply Keeps.mk) | exact id | exact fun _ => Nat.zero_le 4 | exact fun hp => (List.length_take ▸ Nat.le_trans (Nat.min_le_right _ _) (hp _)) | exact Memory.wf_write _ _ | exact Memory.wf_writeAll _ | exact Memory.wf_writeTagged _ _ _ | exact Memory.wf_stage _ _ _ | exact Memory.wf_spoil _ | exact fun hp => hp _)

theorem State.twinTake_keeps {s0 s : State} (a : Nat) (hK : Keeps s0 s) :
    Keeps s0 (State.twinTake s a).1 := by
  unfold State.twinTake
  try dsimp only
  repeat' (first | with_reducible assumption | with_reducible apply State.askTwin_keeps | with_reducible apply State.eccRead_keeps | with_reducible apply State.record_keeps | with_reducible apply State.stopTwin_keeps | (intro t b ht; try dsimp only) | split | fail_if_no_progress (with_reducible apply Keeps.mk) | exact id | exact fun _ => Nat.zero_le 4 | exact fun hp => (List.length_take ▸ Nat.le_trans (Nat.min_le_right _ _) (hp _)) | exact Memory.wf_write _ _ | exact Memory.wf_writeAll _ | exact Memory.wf_writeTagged _ _ _ | exact Memory.wf_stage _ _ _ | exact Memory.wf_spoil _ | exact fun hp => hp _)

theorem State.sendTwin_keeps {s0 s : State} (a : Nat) (b : List U8 × U32) (hK : Keeps s0 s) :
    Keeps s0 (State.sendTwin s a b) := by
  unfold State.sendTwin
  try dsimp only
  repeat' (first | with_reducible assumption | with_reducible apply State.enqueue_keeps | (intro t b ht; try dsimp only) | split | fail_if_no_progress (with_reducible apply Keeps.mk) | exact id | exact fun _ => Nat.zero_le 4 | exact fun hp => (List.length_take ▸ Nat.le_trans (Nat.min_le_right _ _) (hp _)) | exact Memory.wf_write _ _ | exact Memory.wf_writeAll _ | exact Memory.wf_writeTagged _ _ _ | exact Memory.wf_stage _ _ _ | exact Memory.wf_spoil _ | exact fun hp => hp _)

theorem State.twinSend_keeps {s0 : State} : ∀ (k : Nat) {s : State} (_ : Keeps s0 s), Keeps s0 (State.twinSend k s) := by
  intro k
  induction k with
  | zero => intro s h; exact h
  | succ k ih =>
    intro s h
    unfold State.twinSend
    split
    · dsimp only
      split
      · exact ih (State.sendTwin_keeps _ _ (Keeps.mk (State.twinTake_keeps _ h)))
      · exact State.twinTake_keeps _ h
    · exact h

theorem State.twinGo_keeps {s0 s : State} (h : Keeps s0 s) : Keeps s0 s.twinGo := by
  unfold State.twinGo
  split
  · exact h
  · dsimp only
    split
    · exact State.twinSend_keeps _ h
    · split
      · exact State.twinTake_keeps _ h
      · split
        · exact Keeps.mk (State.twinTake_keeps _ h)
        · exact State.twinSend_keeps _ (Keeps.mk (State.twinTake_keeps _ h))

theorem State.endSlow_keeps {s0 s : State} (u : Nat) (w : Wait) (q a : Nat) (bs : List U8) (hK : Keeps s0 s) :
    Keeps s0 (State.endSlow s u w q a bs) := by
  unfold State.endSlow
  try dsimp only
  repeat' (first | with_reducible assumption | with_reducible apply State.endWait_keeps | with_reducible apply State.twinGo_keeps | (intro t b ht; try dsimp only) | split | fail_if_no_progress (with_reducible apply Keeps.mk) | exact id | exact fun _ => Nat.zero_le 4 | exact fun hp => (List.length_take ▸ Nat.le_trans (Nat.min_le_right _ _) (hp _)) | exact Memory.wf_write _ _ | exact Memory.wf_writeAll _ | exact Memory.wf_writeTagged _ _ _ | exact Memory.wf_stage _ _ _ | exact Memory.wf_spoil _ | exact fun hp => hp _)

theorem State.answerOn_keeps {s0 s : State} (q : Nat) (f : Frame) (hK : Keeps s0 s) :
    Keeps s0 (State.answerOn s q f) := by
  unfold State.answerOn
  try dsimp only
  repeat' (first | with_reducible assumption | with_reducible apply State.enqueue_keeps | with_reducible apply State.send_keeps | (intro t b ht; try dsimp only) | split | fail_if_no_progress (with_reducible apply Keeps.mk) | exact id | exact fun _ => Nat.zero_le 4 | exact fun hp => (List.length_take ▸ Nat.le_trans (Nat.min_le_right _ _) (hp _)) | exact Memory.wf_write _ _ | exact Memory.wf_writeAll _ | exact Memory.wf_writeTagged _ _ _ | exact Memory.wf_stage _ _ _ | exact Memory.wf_spoil _ | exact fun hp => hp _)

theorem State.twinReply_keeps {s0 s : State} (q j : Nat) (f : Frame) (code : U16) (hK : Keeps s0 s) :
    Keeps s0 (State.twinReply s q j f code) := by
  unfold State.twinReply
  try dsimp only
  repeat' (first | with_reducible assumption | with_reducible apply State.answerOn_keeps | (intro t b ht; try dsimp only) | split | fail_if_no_progress (with_reducible apply Keeps.mk) | exact id | exact fun _ => Nat.zero_le 4 | exact fun hp => (List.length_take ▸ Nat.le_trans (Nat.min_le_right _ _) (hp _)) | exact Memory.wf_write _ _ | exact Memory.wf_writeAll _ | exact Memory.wf_writeTagged _ _ _ | exact Memory.wf_stage _ _ _ | exact Memory.wf_spoil _ | exact fun hp => hp _)

end Sys2Proof.Machine
end

