-- ==== Sys2Proof/Laws/KeepsLathe.lean ====
section
/-! SUPPORT. Every operation of Machine/Lathe.lean leaves the queue as it is and keeps the invariant. -/

set_option linter.unusedVariables false
set_option linter.unusedTactic false
set_option linter.unreachableTactic false

namespace Sys2Proof.Machine

theorem State.setUpd_keeps {s0 s : State} (x : Upd) (hK : Keeps s0 s) :
    Keeps s0 (State.setUpd s x) := by
  unfold State.setUpd
  try dsimp only
  repeat' (first | with_reducible assumption | (intro t b ht; try dsimp only) | split | fail_if_no_progress (with_reducible apply Keeps.mk) | exact id | exact fun _ => Nat.zero_le 4 | exact fun hp => (List.length_take ▸ Nat.le_trans (Nat.min_le_right _ _) (hp _)) | exact Memory.wf_write _ _ | exact Memory.wf_writeAll _ | exact Memory.wf_writeTagged _ _ _ | exact Memory.wf_stage _ _ _ | exact Memory.wf_spoil _ | exact fun hp => hp _)

theorem State.dropUpd_keeps {s0 s : State} (n node : Nat) (hK : Keeps s0 s) :
    Keeps s0 (State.dropUpd s n node) := by
  unfold State.dropUpd
  try dsimp only
  repeat' (first | with_reducible assumption | (intro t b ht; try dsimp only) | split | fail_if_no_progress (with_reducible apply Keeps.mk) | exact id | exact fun _ => Nat.zero_le 4 | exact fun hp => (List.length_take ▸ Nat.le_trans (Nat.min_le_right _ _) (hp _)) | exact Memory.wf_write _ _ | exact Memory.wf_writeAll _ | exact Memory.wf_writeTagged _ _ _ | exact Memory.wf_stage _ _ _ | exact Memory.wf_spoil _ | exact fun hp => hp _)

theorem State.moveSlot_keeps {s0 s : State} (n slot u : Nat) (hK : Keeps s0 s) :
    Keeps s0 (State.moveSlot s n slot u) := by
  unfold State.moveSlot
  try dsimp only
  repeat' (first | with_reducible assumption | with_reducible apply State.bound_keeps | with_reducible apply State.updSlot_keeps | (intro t b ht; try dsimp only) | split | fail_if_no_progress (with_reducible apply Keeps.mk) | exact id | exact fun _ => Nat.zero_le 4 | exact fun hp => (List.length_take ▸ Nat.le_trans (Nat.min_le_right _ _) (hp _)) | exact Memory.wf_write _ _ | exact Memory.wf_writeAll _ | exact Memory.wf_writeTagged _ _ _ | exact Memory.wf_stage _ _ _ | exact Memory.wf_spoil _ | exact fun hp => hp _)

theorem State.takeSlot_keeps {s0 s : State} (l n : Nat) (y : BNode) (first descant : Bool) (part : LathePart × Nat) (hK : Keeps s0 s) :
    Keeps s0 (State.takeSlot s l n y first descant part) := by
  unfold State.takeSlot
  try dsimp only
  repeat' (first | with_reducible assumption | with_reducible apply State.moveSlot_keeps | with_reducible apply State.startFiring_keeps | (intro t b ht; try dsimp only) | split | fail_if_no_progress (with_reducible apply Keeps.mk) | exact id | exact fun _ => Nat.zero_le 4 | exact fun hp => (List.length_take ▸ Nat.le_trans (Nat.min_le_right _ _) (hp _)) | exact Memory.wf_write _ _ | exact Memory.wf_writeAll _ | exact Memory.wf_writeTagged _ _ _ | exact Memory.wf_stage _ _ _ | exact Memory.wf_spoil _ | exact fun hp => hp _)

theorem State.countReplay_keeps {s0 s : State} (l : Nat) (rep : Bool) (part : LathePart) (hK : Keeps s0 s) :
    Keeps s0 (State.countReplay s l rep part) := by
  unfold State.countReplay
  try dsimp only
  repeat' (first | with_reducible assumption | with_reducible apply State.countSat_keeps | (intro t b ht; try dsimp only) | split | fail_if_no_progress (with_reducible apply Keeps.mk) | exact id | exact fun _ => Nat.zero_le 4 | exact fun hp => (List.length_take ▸ Nat.le_trans (Nat.min_le_right _ _) (hp _)) | exact Memory.wf_write _ _ | exact Memory.wf_writeAll _ | exact Memory.wf_writeTagged _ _ _ | exact Memory.wf_stage _ _ _ | exact Memory.wf_spoil _ | exact fun hp => hp _)

theorem State.sayPart_keeps {s0 s : State} (u : Nat) (r : Running) (y : BNode) (part : LathePart × Nat) (hK : Keeps s0 s) :
    Keeps s0 (State.sayPart s u r y part) := by
  unfold State.sayPart
  try dsimp only
  repeat' (first | with_reducible assumption | with_reducible apply State.takeTokens_keeps | with_reducible apply State.updEngine_keeps | (intro t b ht; try dsimp only) | split | fail_if_no_progress (with_reducible apply Keeps.mk) | exact id | exact fun _ => Nat.zero_le 4 | exact fun hp => (List.length_take ▸ Nat.le_trans (Nat.min_le_right _ _) (hp _)) | exact Memory.wf_write _ _ | exact Memory.wf_writeAll _ | exact Memory.wf_writeTagged _ _ _ | exact Memory.wf_stage _ _ _ | exact Memory.wf_spoil _ | exact fun hp => hp _)

theorem State.beginPart_keeps {s0 s : State} (l n node : Nat) (part : LathePart) (blocks : Nat) (hK : Keeps s0 s) :
    Keeps s0 (State.beginPart s l n node part blocks).1 := by
  unfold State.beginPart
  try dsimp only
  repeat' (first | with_reducible assumption | with_reducible apply State.countReplay_keeps | with_reducible apply State.failStream_keeps | with_reducible apply State.sayPart_keeps | with_reducible apply State.takeSlot_keeps | (intro t b ht; try dsimp only) | split | fail_if_no_progress (with_reducible apply Keeps.mk) | exact id | exact fun _ => Nat.zero_le 4 | exact fun hp => (List.length_take ▸ Nat.le_trans (Nat.min_le_right _ _) (hp _)) | exact Memory.wf_write _ _ | exact Memory.wf_writeAll _ | exact Memory.wf_writeTagged _ _ _ | exact Memory.wf_stage _ _ _ | exact Memory.wf_spoil _ | exact fun hp => hp _)

theorem State.partDone_keeps {s0 s : State} (u : Nat) (f : Flags) (hK : Keeps s0 s) :
    Keeps s0 (State.partDone s u f) := by
  unfold State.partDone
  try dsimp only
  repeat' (first | with_reducible assumption | with_reducible apply State.boundary_keeps | with_reducible apply State.edgeMessages_keeps | with_reducible apply State.freeAfterFiring_keeps | with_reducible apply State.noteTransient_keeps | with_reducible apply State.postFlags_keeps | with_reducible apply State.updRec_keeps | (intro t b ht; try dsimp only) | split | fail_if_no_progress (with_reducible apply Keeps.mk) | exact id | exact fun _ => Nat.zero_le 4 | exact fun hp => (List.length_take ▸ Nat.le_trans (Nat.min_le_right _ _) (hp _)) | exact Memory.wf_write _ _ | exact Memory.wf_writeAll _ | exact Memory.wf_writeTagged _ _ _ | exact Memory.wf_stage _ _ _ | exact Memory.wf_spoil _ | exact fun hp => hp _)

theorem State.nodeEnd_keeps {s0 s : State} (u n node : Nat) (runs : List BlkRun) (f : Flags) (hK : Keeps s0 s) :
    Keeps s0 (State.nodeEnd s u n node runs f) := by
  unfold State.nodeEnd
  try dsimp only
  repeat' (first | with_reducible assumption | with_reducible apply State.dropUpd_keeps | with_reducible apply State.finishFiring_keeps | (intro t b ht; try dsimp only) | split | fail_if_no_progress (with_reducible apply Keeps.mk) | exact id | exact fun _ => Nat.zero_le 4 | exact fun hp => (List.length_take ▸ Nat.le_trans (Nat.min_le_right _ _) (hp _)) | exact Memory.wf_write _ _ | exact Memory.wf_writeAll _ | exact Memory.wf_writeTagged _ _ _ | exact Memory.wf_stage _ _ _ | exact Memory.wf_spoil _ | exact fun hp => hp _)

theorem State.readRecord_keeps {s0 s : State} (u stack rec' : Nat) (hK : Keeps s0 s) :
    Keeps s0 (State.readRecord s u stack rec').1 := by
  unfold State.readRecord
  try dsimp only
  repeat' (first | with_reducible assumption | with_reducible apply State.disarm_keeps | with_reducible apply State.eccRead_keeps | with_reducible apply State.raise_keeps | with_reducible apply State.recordStream_keeps | (intro t b ht; try dsimp only) | split | fail_if_no_progress (with_reducible apply Keeps.mk) | exact id | exact fun _ => Nat.zero_le 4 | exact fun hp => (List.length_take ▸ Nat.le_trans (Nat.min_le_right _ _) (hp _)) | exact Memory.wf_write _ _ | exact Memory.wf_writeAll _ | exact Memory.wf_writeTagged _ _ _ | exact Memory.wf_stage _ _ _ | exact Memory.wf_spoil _ | exact fun hp => hp _)

theorem State.writeRecord_keeps {s0 s : State} (stack rec' : Nat) (r : CRecord) (hK : Keeps s0 s) :
    Keeps s0 (s.writeRecord stack rec' r) := State.writeMem_keeps _ _ hK

theorem State.scaleOf_keeps {s0 s : State} (rd : Nat → U8) (u j sa : Nat) (hK : Keeps s0 s) :
    Keeps s0 (State.scaleOf s rd u j sa).1 := by
  unfold State.scaleOf
  try dsimp only
  repeat' (first | with_reducible assumption | with_reducible apply State.readRecord_keeps | with_reducible apply State.record_keeps | (intro t b ht; try dsimp only) | split | fail_if_no_progress (with_reducible apply Keeps.mk) | exact id | exact fun _ => Nat.zero_le 4 | exact fun hp => (List.length_take ▸ Nat.le_trans (Nat.min_le_right _ _) (hp _)) | exact Memory.wf_write _ _ | exact Memory.wf_writeAll _ | exact Memory.wf_writeTagged _ _ _ | exact Memory.wf_stage _ _ _ | exact Memory.wf_spoil _ | exact fun hp => hp _)

theorem State.holdRecord_keeps {s0 s : State} (rd : Nat → U8) (u j state : Nat) (h : LHeader) (write : Bool) (hK : Keeps s0 s) :
    Keeps s0 (State.holdRecord s rd u j state h write).1 := by
  unfold State.holdRecord
  try dsimp only
  repeat' (first | with_reducible assumption | with_reducible apply State.readRecord_keeps | with_reducible apply State.record_keeps | with_reducible apply State.writeRecord_keeps | (intro t b ht; try dsimp only) | split | fail_if_no_progress (with_reducible apply Keeps.mk) | exact id | exact fun _ => Nat.zero_le 4 | exact fun hp => (List.length_take ▸ Nat.le_trans (Nat.min_le_right _ _) (hp _)) | exact Memory.wf_write _ _ | exact Memory.wf_writeAll _ | exact Memory.wf_writeTagged _ _ _ | exact Memory.wf_stage _ _ _ | exact Memory.wf_spoil _ | exact fun hp => hp _)

theorem State.lateChecks_keeps {s0 s : State} (rd : Nat → U8) (u j : Nat) (g : GNode) (h : LHeader) (r : CRecord) (sa : Nat) (hK : Keeps s0 s) :
    Keeps s0 (State.lateChecks s rd u j g h r sa).1 := by
  unfold State.lateChecks
  try dsimp only
  repeat' (first | with_reducible assumption | with_reducible apply State.scaleOf_keeps | (intro t b ht; try dsimp only) | split | fail_if_no_progress (with_reducible apply Keeps.mk) | exact id | exact fun _ => Nat.zero_le 4 | exact fun hp => (List.length_take ▸ Nat.le_trans (Nat.min_le_right _ _) (hp _)) | exact Memory.wf_write _ _ | exact Memory.wf_writeAll _ | exact Memory.wf_writeTagged _ _ _ | exact Memory.wf_stage _ _ _ | exact Memory.wf_spoil _ | exact fun hp => hp _)

theorem State.handOver_keeps {s0 s : State} (u n : Nat) (b : Bound) (y : BNode) (rd : Nat → U8) (state : Nat) (hK : Keeps s0 s) :
    Keeps s0 (State.handOver s u n b y rd state) := by
  unfold State.handOver
  try dsimp only
  repeat' (first | with_reducible assumption | with_reducible apply State.boundary_keeps | with_reducible apply State.failStream_keeps | with_reducible apply State.freeAfterFiring_keeps | with_reducible apply State.moveSlot_keeps | (intro t b ht; try dsimp only) | split | fail_if_no_progress (with_reducible apply Keeps.mk) | exact id | exact fun _ => Nat.zero_le 4 | exact fun hp => (List.length_take ▸ Nat.le_trans (Nat.min_le_right _ _) (hp _)) | exact Memory.wf_write _ _ | exact Memory.wf_writeAll _ | exact Memory.wf_writeTagged _ _ _ | exact Memory.wf_stage _ _ _ | exact Memory.wf_spoil _ | exact fun hp => hp _)

theorem State.firstFail_keeps {s0 s : State} (u : Nat) (code : U16) (hK : Keeps s0 s) :
    Keeps s0 (State.firstFail s u code) := by
  unfold State.firstFail
  try dsimp only
  repeat' (first | with_reducible assumption | with_reducible apply State.failFiring_keeps | with_reducible apply State.faultWith_keeps | (intro t b ht; try dsimp only) | split | fail_if_no_progress (with_reducible apply Keeps.mk) | exact id | exact fun _ => Nat.zero_le 4 | exact fun hp => (List.length_take ▸ Nat.le_trans (Nat.min_le_right _ _) (hp _)) | exact Memory.wf_write _ _ | exact Memory.wf_writeAll _ | exact Memory.wf_writeTagged _ _ _ | exact Memory.wf_stage _ _ _ | exact Memory.wf_spoil _ | exact fun hp => hp _)

/-- The state that a first firing's outcome carries. -/
def FirstEnd.state : FirstEnd → State
  | .fail t _ => t
  | .held t _ => t

theorem FirstEnd.keeps_ite {s0 : State} {c : Prop} [Decidable c] {a b : FirstEnd} (ha : Keeps s0 a.state) (hb : Keeps s0 b.state) :
    Keeps s0 (if c then a else b).state := by split <;> assumption

theorem FirstEnd.keeps_fail {s0 t : State} {c : U16} {e : FirstEnd} (he : e = .fail t c) (h : Keeps s0 e.state) : Keeps s0 t := by
  rw [he] at h; exact h

theorem FirstEnd.keeps_held {s0 t : State} {v : Upd} {e : FirstEnd} (he : e = .held t v) (h : Keeps s0 e.state) : Keeps s0 t := by
  rw [he] at h; exact h

theorem State.firstChecks_keeps {s0 s : State} (rd : Nat → U8) (u n node : Nat) (b : Bound) (g : GNode) (state extent sa : Nat) (hK : Keeps s0 s) :
    Keeps s0 (s.firstChecks rd u n node b g state extent sa).state := by
  have h1 := State.holdRecord_keeps rd u (s.stream n).job state (readHeader rd state) (decide (g.sub ≠ 62)) hK
  unfold State.firstChecks
  dsimp only
  split
  · exact hK
  · revert h1
    generalize s.holdRecord rd u (s.stream n).job state (readHeader rd state) (decide (g.sub ≠ 62)) = k
    intro h1
    obtain ⟨k1, k2, k3⟩ := k
    cases k2 with
    | some c => exact h1
    | none =>
      cases k3 with
      | none => exact h1
      | some r =>
        dsimp only
        have h2 := State.lateChecks_keeps rd u (s.stream n).job g (readHeader rd state) r sa h1
        revert h2
        generalize State.lateChecks k1 rd u (s.stream n).job g (readHeader rd state) r sa = c
        intro h2
        obtain ⟨c1, c2, c3⟩ := c
        cases c2 with
        | some code => exact h2
        | none => exact h2

theorem State.firstEnd_keeps {s0 s : State} (u : Nat) (r : Running) (b : Bound) (y : BNode) (g : GNode) (state extent sa : Nat) (hK : Keeps s0 s) :
    Keeps s0 (s.firstEnd u r b y g state extent sa) := by
  have h := State.firstChecks_keeps (s.rdAt u) u r.stream y.node b g state extent sa hK
  unfold State.firstEnd
  split
  · rename_i he
    exact State.firstFail_keeps _ _ (FirstEnd.keeps_fail he h)
  · rename_i t v he
    have h' : Keeps s0 { t with upds := t.upds ++ [v] } := Keeps.mk (FirstEnd.keeps_held he h)
    revert h'
    dsimp only
    generalize ({ t with upds := t.upds ++ [v] } : State) = w
    intro h'
    split
    · exact State.nodeEnd_keeps _ _ _ _ _ h'
    · exact State.noteContribs_keeps _ _ (State.partDone_keeps _ _ h')

theorem State.firstFiring_keeps {s0 s : State} (u : Nat) (hK : Keeps s0 s) :
    Keeps s0 (State.firstFiring s u) := by
  unfold State.firstFiring
  try dsimp only
  repeat' (first | with_reducible assumption | with_reducible apply State.failFiring_keeps | with_reducible apply State.firstEnd_keeps | with_reducible apply State.gather_keeps | with_reducible apply State.handOver_keeps | (intro t b ht; try dsimp only) | split | fail_if_no_progress (with_reducible apply Keeps.mk) | exact id | exact fun _ => Nat.zero_le 4 | exact fun hp => (List.length_take ▸ Nat.le_trans (Nat.min_le_right _ _) (hp _)) | exact Memory.wf_write _ _ | exact Memory.wf_writeAll _ | exact Memory.wf_writeTagged _ _ _ | exact Memory.wf_stage _ _ _ | exact Memory.wf_spoil _ | exact fun hp => hp _)

theorem State.retainFiring_keeps {s0 s : State} (u : Nat) (hK : Keeps s0 s) :
    Keeps s0 (State.retainFiring s u) := by
  unfold State.retainFiring
  try dsimp only
  repeat' (first | with_reducible assumption | with_reducible apply State.gather_keeps | with_reducible apply State.partDone_keeps | with_reducible apply State.setUpd_keeps | with_reducible apply State.store_keeps | (intro t b ht; try dsimp only) | split | fail_if_no_progress (with_reducible apply Keeps.mk) | exact id | exact fun _ => Nat.zero_le 4 | exact fun hp => (List.length_take ▸ Nat.le_trans (Nat.min_le_right _ _) (hp _)) | exact Memory.wf_write _ _ | exact Memory.wf_writeAll _ | exact Memory.wf_writeTagged _ _ _ | exact Memory.wf_stage _ _ _ | exact Memory.wf_spoil _ | exact fun hp => hp _)

theorem State.applyFiring_keeps {s0 s : State} (u : Nat) (hK : Keeps s0 s) :
    Keeps s0 (State.applyFiring s u) := by
  unfold State.applyFiring
  try dsimp only
  repeat' (first | with_reducible assumption | with_reducible apply State.gather_keeps | with_reducible apply State.nodeEnd_keeps | with_reducible apply State.partDone_keeps | with_reducible apply State.setUpd_keeps | with_reducible apply State.store_keeps | (intro t b ht; try dsimp only) | split | fail_if_no_progress (with_reducible apply Keeps.mk) | exact id | exact fun _ => Nat.zero_le 4 | exact fun hp => (List.length_take ▸ Nat.le_trans (Nat.min_le_right _ _) (hp _)) | exact Memory.wf_write _ _ | exact Memory.wf_writeAll _ | exact Memory.wf_writeTagged _ _ _ | exact Memory.wf_stage _ _ _ | exact Memory.wf_spoil _ | exact fun hp => hp _)

theorem State.noteOvf_keeps {s0 s : State} (l j step : Nat) (ovf : Bool) (hK : Keeps s0 s) :
    Keeps s0 (State.noteOvf s l j step ovf) := by
  unfold State.noteOvf
  try dsimp only
  repeat' (first | with_reducible assumption | (intro t b ht; try dsimp only) | split | fail_if_no_progress (with_reducible apply Keeps.mk) | exact id | exact fun _ => Nat.zero_le 4 | exact fun hp => (List.length_take ▸ Nat.le_trans (Nat.min_le_right _ _) (hp _)) | exact Memory.wf_write _ _ | exact Memory.wf_writeAll _ | exact Memory.wf_writeTagged _ _ _ | exact Memory.wf_stage _ _ _ | exact Memory.wf_spoil _ | exact fun hp => hp _)

theorem State.commitFiring_keeps {s0 s : State} (u : Nat) (hK : Keeps s0 s) :
    Keeps s0 (State.commitFiring s u) := by
  unfold State.commitFiring
  try dsimp only
  repeat' (first | with_reducible assumption | with_reducible apply State.countWrap_keeps | with_reducible apply State.gather_keeps | with_reducible apply State.mirrorCommit_keeps | with_reducible apply State.nodeEnd_keeps | with_reducible apply State.noteOvf_keeps | with_reducible apply State.record_keeps | with_reducible apply State.sendDigest_keeps | with_reducible apply State.store_keeps | with_reducible apply State.writeRecord_keeps | (intro t b ht; try dsimp only) | split | fail_if_no_progress (with_reducible apply Keeps.mk) | exact id | exact fun _ => Nat.zero_le 4 | exact fun hp => (List.length_take ▸ Nat.le_trans (Nat.min_le_right _ _) (hp _)) | exact Memory.wf_write _ _ | exact Memory.wf_writeAll _ | exact Memory.wf_writeTagged _ _ _ | exact Memory.wf_stage _ _ _ | exact Memory.wf_spoil _ | exact fun hp => hp _)

theorem State.verdictFiring_keeps {s0 s : State} (u : Nat) (hK : Keeps s0 s) :
    Keeps s0 (State.verdictFiring s u) := by
  unfold State.verdictFiring
  try dsimp only
  repeat' (first | with_reducible assumption | with_reducible apply State.gather_keeps | with_reducible apply State.nodeEnd_keeps | with_reducible apply State.store_keeps | (intro t b ht; try dsimp only) | split | fail_if_no_progress (with_reducible apply Keeps.mk) | exact id | exact fun _ => Nat.zero_le 4 | exact fun hp => (List.length_take ▸ Nat.le_trans (Nat.min_le_right _ _) (hp _)) | exact Memory.wf_write _ _ | exact Memory.wf_writeAll _ | exact Memory.wf_writeTagged _ _ _ | exact Memory.wf_stage _ _ _ | exact Memory.wf_spoil _ | exact fun hp => hp _)

theorem State.shadowPart_keeps {s0 s : State} (u : Nat) (r : Running) (y : BNode) (g : GNode) (v : Upd) (hK : Keeps s0 s) :
    Keeps s0 (State.shadowPart s u r y g v) := by
  unfold State.shadowPart
  try dsimp only
  repeat' (first | with_reducible assumption | with_reducible apply State.gather_keeps | with_reducible apply State.nodeEnd_keeps | with_reducible apply State.partDone_keeps | with_reducible apply State.setUpd_keeps | with_reducible apply State.store_keeps | (intro t b ht; try dsimp only) | split | fail_if_no_progress (with_reducible apply Keeps.mk) | exact id | exact fun _ => Nat.zero_le 4 | exact fun hp => (List.length_take ▸ Nat.le_trans (Nat.min_le_right _ _) (hp _)) | exact Memory.wf_write _ _ | exact Memory.wf_writeAll _ | exact Memory.wf_writeTagged _ _ _ | exact Memory.wf_stage _ _ _ | exact Memory.wf_spoil _ | exact fun hp => hp _)

theorem State.shadowChecks_keeps {s0 s : State} (rd : Nat → U8) (u n node : Nat) (g : GNode) (state extent sa : Nat) (hK : Keeps s0 s) :
    Keeps s0 (s.shadowChecks rd u n node g state extent sa).state := by
  have h1 := State.holdRecord_keeps rd u (s.stream n).job state (readHeader rd state) true hK
  unfold State.shadowChecks
  refine FirstEnd.keeps_ite hK ?_
  revert h1
  generalize s.holdRecord rd u (s.stream n).job state (readHeader rd state) true = k
  intro h1
  obtain ⟨k1, k2, k3⟩ := k
  cases k2 with
  | some c => exact h1
  | none =>
    cases k3 with
    | none => exact h1
    | some r => exact FirstEnd.keeps_ite h1 (FirstEnd.keeps_ite h1 h1)

theorem State.shadowFirst_keeps {s0 s : State} (u : Nat) (r : Running) (b : Bound) (y : BNode) (g : GNode) (hK : Keeps s0 s) :
    Keeps s0 (s.shadowFirst u r b y g) := by
  unfold State.shadowFirst
  extract_lets n j state extent g1 rd h sa g2 rest g3
  have h1 : Keeps s0 g1.1 := State.gather_keeps _ _ _ _ hK
  have h2 : Keeps s0 g2.1 := by
    show Keeps s0 (if h.scaleLoc = 0 then (g1.1, true) else g1.1.gather u j (headerReads sa) []).1
    split
    · exact h1
    · exact State.gather_keeps _ _ _ _ h1
  have h3 : Keeps s0 g3.1 := State.gather_keeps _ _ _ _ h2
  have h4 := State.shadowChecks_keeps (g3.1.rdAt u) u n y.node g state extent sa h3
  have h5 := State.handOver_keeps u n b y rd state h1
  have h6 := State.failFiring_keeps u S_L_HEADER h1
  clear_value g1 g2 g3
  split
  · exact h1
  · split
    · exact h5
    · split
      · exact h6
      · split
        · exact h2
        · split
          · exact h3
          · split
            · rename_i he
              exact State.firstFail_keeps _ _ (FirstEnd.keeps_fail he h4)
            · rename_i he
              exact State.shadowPart_keeps _ _ _ _ _ (Keeps.mk (FirstEnd.keeps_held he h4))

theorem State.shadowFire_keeps {s0 s : State} (u : Nat) (hK : Keeps s0 s) :
    Keeps s0 (State.shadowFire s u) := by
  unfold State.shadowFire
  try dsimp only
  repeat' (first | with_reducible assumption | with_reducible apply State.shadowFirst_keeps | with_reducible apply State.shadowPart_keeps | (intro t b ht; try dsimp only) | split | fail_if_no_progress (with_reducible apply Keeps.mk) | exact id | exact fun _ => Nat.zero_le 4 | exact fun hp => (List.length_take ▸ Nat.le_trans (Nat.min_le_right _ _) (hp _)) | exact Memory.wf_write _ _ | exact Memory.wf_writeAll _ | exact Memory.wf_writeTagged _ _ _ | exact Memory.wf_stage _ _ _ | exact Memory.wf_spoil _ | exact fun hp => hp _)

theorem State.startLathe_keeps {s0 s : State} (l : Nat) (hK : Keeps s0 s) :
    Keeps s0 (State.startLathe s l) := by
  unfold State.startLathe
  try dsimp only
  repeat' (first | with_reducible assumption | with_reducible apply State.bound_keeps | with_reducible apply State.takeSlot_keeps | (intro t b ht; try dsimp only) | split | fail_if_no_progress (with_reducible apply Keeps.mk) | exact id | exact fun _ => Nat.zero_le 4 | exact fun hp => (List.length_take ▸ Nat.le_trans (Nat.min_le_right _ _) (hp _)) | exact Memory.wf_write _ _ | exact Memory.wf_writeAll _ | exact Memory.wf_writeTagged _ _ _ | exact Memory.wf_stage _ _ _ | exact Memory.wf_spoil _ | exact fun hp => hp _)

theorem State.loadedRecipe_keeps {s0 s : State} (l : Load) (hK : Keeps s0 s) :
    Keeps s0 (State.loadedRecipe s l).1 := by
  unfold State.loadedRecipe
  try dsimp only
  repeat' (first | with_reducible assumption | with_reducible apply State.eccRead_keeps | (intro t b ht; try dsimp only) | split | fail_if_no_progress (with_reducible apply Keeps.mk) | exact id | exact fun _ => Nat.zero_le 4 | exact fun hp => (List.length_take ▸ Nat.le_trans (Nat.min_le_right _ _) (hp _)) | exact Memory.wf_write _ _ | exact Memory.wf_writeAll _ | exact Memory.wf_writeTagged _ _ _ | exact Memory.wf_stage _ _ _ | exact Memory.wf_spoil _ | exact fun hp => hp _)

theorem State.storeRecipe_keeps {s0 s : State} (l : Load) (hK : Keeps s0 s) :
    Keeps s0 (State.storeRecipe s l) := by
  unfold State.storeRecipe
  try dsimp only
  repeat' (first | with_reducible assumption | with_reducible apply State.forEach_keeps | with_reducible apply State.writeMem_keeps | (intro t b ht; try dsimp only) | split | fail_if_no_progress (with_reducible apply Keeps.mk) | exact id | exact fun _ => Nat.zero_le 4 | exact fun hp => (List.length_take ▸ Nat.le_trans (Nat.min_le_right _ _) (hp _)) | exact Memory.wf_write _ _ | exact Memory.wf_writeAll _ | exact Memory.wf_writeTagged _ _ _ | exact Memory.wf_stage _ _ _ | exact Memory.wf_spoil _ | exact fun hp => hp _)

theorem State.rcpResult_keeps {s0 s : State} (code : U16) (hK : Keeps s0 s) :
    Keeps s0 (State.rcpResult s code) := by
  unfold State.rcpResult
  try dsimp only
  repeat' (first | with_reducible assumption | with_reducible apply State.forEach_keeps | with_reducible apply State.setReg_keeps | (intro t b ht; try dsimp only) | split | fail_if_no_progress (with_reducible apply Keeps.mk) | exact id | exact fun _ => Nat.zero_le 4 | exact fun hp => (List.length_take ▸ Nat.le_trans (Nat.min_le_right _ _) (hp _)) | exact Memory.wf_write _ _ | exact Memory.wf_writeAll _ | exact Memory.wf_writeTagged _ _ _ | exact Memory.wf_stage _ _ _ | exact Memory.wf_spoil _ | exact fun hp => hp _)

end Sys2Proof.Machine
end

