-- ==== Sys2Proof/Laws/KeepsLink.lean ====
section
/-! SUPPORT. Every operation of Machine/Link.lean leaves the queue as it is and keeps the invariant. -/

set_option linter.unusedVariables false
set_option linter.unusedTactic false
set_option linter.unreachableTactic false

namespace Sys2Proof.Machine

theorem State.sendData_keeps {s0 s : State} (p lseq : Nat) (f : Frame) (hK : Keeps s0 s) :
    Keeps s0 (State.sendData s p lseq f) := by
  unfold State.sendData
  try dsimp only
  repeat' (first | with_reducible assumption | with_reducible apply State.disarm_keeps | with_reducible apply State.draw_keeps | with_reducible apply State.emit_keeps | with_reducible apply State.setPort_keeps | (intro t b ht; try dsimp only) | split | fail_if_no_progress (with_reducible apply Keeps.mk) | exact id | exact fun _ => Nat.zero_le 4 | exact fun hp => (List.length_take ▸ Nat.le_trans (Nat.min_le_right _ _) (hp _)) | exact Memory.wf_write _ _ | exact Memory.wf_writeAll _ | exact Memory.wf_writeTagged _ _ _ | exact Memory.wf_stage _ _ _ | exact Memory.wf_spoil _ | exact fun hp => hp _)

theorem State.sendEmpty_keeps {s0 s : State} (p : Nat) (hK : Keeps s0 s) :
    Keeps s0 (State.sendEmpty s p) := by
  unfold State.sendEmpty
  try dsimp only
  repeat' (first | with_reducible assumption | with_reducible apply State.emit_keeps | with_reducible apply State.setPort_keeps | (intro t b ht; try dsimp only) | split | fail_if_no_progress (with_reducible apply Keeps.mk) | exact id | exact fun _ => Nat.zero_le 4 | exact fun hp => (List.length_take ▸ Nat.le_trans (Nat.min_le_right _ _) (hp _)) | exact Memory.wf_write _ _ | exact Memory.wf_writeAll _ | exact Memory.wf_writeTagged _ _ _ | exact Memory.wf_stage _ _ _ | exact Memory.wf_spoil _ | exact fun hp => hp _)

theorem State.countFec_keeps {s0 s : State} (p : Nat) (u : LinkUnit) (hK : Keeps s0 s) :
    Keeps s0 (State.countFec s p u) := by
  unfold State.countFec
  try dsimp only
  repeat' (first | with_reducible assumption | with_reducible apply State.countSat_keeps | (intro t b ht; try dsimp only) | split | fail_if_no_progress (with_reducible apply Keeps.mk) | exact id | exact fun _ => Nat.zero_le 4 | exact fun hp => (List.length_take ▸ Nat.le_trans (Nat.min_le_right _ _) (hp _)) | exact Memory.wf_write _ _ | exact Memory.wf_writeAll _ | exact Memory.wf_writeTagged _ _ _ | exact Memory.wf_stage _ _ _ | exact Memory.wf_spoil _ | exact fun hp => hp _)

theorem State.startReplay_keeps {s0 s : State} (p : Nat) (hK : Keeps s0 s) :
    Keeps s0 (State.startReplay s p) := by
  unfold State.startReplay
  try dsimp only
  repeat' (first | with_reducible assumption | with_reducible apply State.countSat_keeps | with_reducible apply State.loseLink_keeps | with_reducible apply State.raise_keeps | with_reducible apply State.setPort_keeps | (intro t b ht; try dsimp only) | split | fail_if_no_progress (with_reducible apply Keeps.mk) | exact id | exact fun _ => Nat.zero_le 4 | exact fun hp => (List.length_take ▸ Nat.le_trans (Nat.min_le_right _ _) (hp _)) | exact Memory.wf_write _ _ | exact Memory.wf_writeAll _ | exact Memory.wf_writeTagged _ _ _ | exact Memory.wf_stage _ _ _ | exact Memory.wf_spoil _ | exact fun hp => hp _)

theorem State.takeWord_keeps {s0 s : State} (p : Nat) (u : LinkUnit) (hK : Keeps s0 s) :
    Keeps s0 (State.takeWord s p u) := by
  unfold State.takeWord
  try dsimp only
  repeat' (first | with_reducible assumption | with_reducible apply State.setPort_keeps | with_reducible apply State.startReplay_keeps | (intro t b ht; try dsimp only) | split | fail_if_no_progress (with_reducible apply Keeps.mk) | exact id | exact fun _ => Nat.zero_le 4 | exact fun hp => (List.length_take ▸ Nat.le_trans (Nat.min_le_right _ _) (hp _)) | exact Memory.wf_write _ _ | exact Memory.wf_writeAll _ | exact Memory.wf_writeTagged _ _ _ | exact Memory.wf_stage _ _ _ | exact Memory.wf_spoil _ | exact fun hp => hp _)

theorem State.nakUnit_keeps {s0 s : State} (p : Nat) (hK : Keeps s0 s) :
    Keeps s0 (State.nakUnit s p) := by
  unfold State.nakUnit
  try dsimp only
  repeat' (first | with_reducible assumption | with_reducible apply State.setPort_keeps | (intro t b ht; try dsimp only) | split | fail_if_no_progress (with_reducible apply Keeps.mk) | exact id | exact fun _ => Nat.zero_le 4 | exact fun hp => (List.length_take ▸ Nat.le_trans (Nat.min_le_right _ _) (hp _)) | exact Memory.wf_write _ _ | exact Memory.wf_writeAll _ | exact Memory.wf_writeTagged _ _ _ | exact Memory.wf_stage _ _ _ | exact Memory.wf_spoil _ | exact fun hp => hp _)

theorem State.acceptFrame_keeps {s0 s : State} (p lseq : Nat) (f : Frame) (hK : Keeps s0 s) :
    Keeps s0 (State.acceptFrame s p lseq f) := by
  unfold State.acceptFrame
  try dsimp only
  repeat' (first | with_reducible assumption | with_reducible apply State.countDrop_keeps | with_reducible apply State.sendEmpty_keeps | with_reducible apply State.setPort_keeps | (intro t b ht; try dsimp only) | split | fail_if_no_progress (with_reducible apply Keeps.mk) | exact id | exact fun _ => Nat.zero_le 4 | exact fun hp => (List.length_take ▸ Nat.le_trans (Nat.min_le_right _ _) (hp _)) | exact Memory.wf_write _ _ | exact Memory.wf_writeAll _ | exact Memory.wf_writeTagged _ _ _ | exact Memory.wf_stage _ _ _ | exact Memory.wf_spoil _ | exact fun hp => hp _)

theorem State.retrain_keeps {s0 s : State} (p : Nat) (hK : Keeps s0 s) :
    Keeps s0 (State.retrain s p) := by
  unfold State.retrain
  try dsimp only
  repeat' (first | with_reducible assumption | with_reducible apply State.loseLink_keeps | with_reducible apply State.setPort_keeps | (intro t b ht; try dsimp only) | split | fail_if_no_progress (with_reducible apply Keeps.mk) | exact id | exact fun _ => Nat.zero_le 4 | exact fun hp => (List.length_take ▸ Nat.le_trans (Nat.min_le_right _ _) (hp _)) | exact Memory.wf_write _ _ | exact Memory.wf_writeAll _ | exact Memory.wf_writeTagged _ _ _ | exact Memory.wf_stage _ _ _ | exact Memory.wf_spoil _ | exact fun hp => hp _)

end Sys2Proof.Machine
end

