-- ==== Sys2Proof/Laws/KeepsMctp.lean ====
section
/-! SUPPORT. Every operation of Machine/Mctp.lean leaves the queue as it is and keeps the invariant. -/

set_option linter.unusedVariables false
set_option linter.unusedTactic false
set_option linter.unreachableTactic false

namespace Sys2Proof.Machine

theorem State.mctp_keeps {s0 s : State} (payload : List U8) (hK : Keeps s0 s) :
    Keeps s0 (State.mctp s payload) := by
  unfold State.mctp
  try dsimp only
  repeat' (first | with_reducible assumption | with_reducible apply State.emit_keeps | (intro t b ht; try dsimp only) | split | fail_if_no_progress (with_reducible apply Keeps.mk) | exact id | exact fun _ => Nat.zero_le 4 | exact fun hp => (List.length_take ▸ Nat.le_trans (Nat.min_le_right _ _) (hp _)) | exact Memory.wf_write _ _ | exact Memory.wf_writeAll _ | exact Memory.wf_writeTagged _ _ _ | exact Memory.wf_stage _ _ _ | exact Memory.wf_spoil _ | exact fun hp => hp _)

end Sys2Proof.Machine
end

