-- ==== Sys2Proof/Laws/PerInstr.lean ====
section
/-! SUPPORT. A statement about every command as syntax, made constructor by constructor: the table gives its rows no bits, so no word spells a command, and every command has a row. -/

namespace Sys2Proof.Laws

/-- No word of any length spells the command. -/
def Spelled.Statement (i : Instr) : Prop := ∀ nbits w : Nat, decodeTableWord nbits w ≠ some i

theorem Spelled.openStream : ∀ n body, Spelled.Statement (.openStream n body) := fun _ _ _ _ h => nomatch h
theorem Spelled.ring : ∀ n body, Spelled.Statement (.ring n body) := fun _ _ _ _ h => nomatch h
theorem Spelled.abort : ∀ n body, Spelled.Statement (.abort n body) := fun _ _ _ _ h => nomatch h
theorem Spelled.close : ∀ n body, Spelled.Statement (.close n body) := fun _ _ _ _ h => nomatch h
theorem Spelled.bar2DroppedWrite : ∀ off size, Spelled.Statement (.bar2DroppedWrite off size) := fun _ _ _ _ h => nomatch h
theorem Spelled.bindingComplete : ∀ n plan, Spelled.Statement (.bindingComplete n plan) := fun _ _ _ _ h => nomatch h
theorem Spelled.bindingFail : ∀ n cause, Spelled.Statement (.bindingFail n cause) := fun _ _ _ _ h => nomatch h
theorem Spelled.firingStart : ∀ u, Spelled.Statement (.firingStart u) := fun _ _ _ h => nomatch h
theorem Spelled.firingComplete : ∀ u obs, Spelled.Statement (.firingComplete u obs) := fun _ _ _ _ h => nomatch h
theorem Spelled.firingFault : ∀ u cause flags, Spelled.Statement (.firingFault u cause flags) := fun _ _ _ _ _ h => nomatch h
theorem Spelled.firingWatchdog : ∀ u, Spelled.Statement (.firingWatchdog u) := fun _ _ _ h => nomatch h
theorem Spelled.abortDrainDone : ∀ n, Spelled.Statement (.abortDrainDone n) := fun _ _ _ h => nomatch h
theorem Spelled.stallTimeout : ∀ n, Spelled.Statement (.stallTimeout n) := fun _ _ _ h => nomatch h
theorem Spelled.jobValidSet : ∀ v, Spelled.Statement (.jobValidSet v) := fun _ _ _ h => nomatch h
theorem Spelled.jobValidClear : ∀ v, Spelled.Statement (.jobValidClear v) := fun _ _ _ h => nomatch h
theorem Spelled.jobCfgFieldsWrite : ∀ v, Spelled.Statement (.jobCfgFieldsWrite v) := fun _ _ _ h => nomatch h
theorem Spelled.clearBar2Drop : Spelled.Statement .clearBar2Drop := fun _ _ h => nomatch h
theorem Spelled.readLoLatch : ∀ r pg off size, Spelled.Statement (.readLoLatch r pg off size) := fun _ _ _ _ _ _ h => nomatch h
theorem Spelled.writeLoHold : ∀ r pg off size v, Spelled.Statement (.writeLoHold r pg off size v) := fun _ _ _ _ _ _ _ h => nomatch h
theorem Spelled.writeHiCommit : ∀ r pg off size v, Spelled.Statement (.writeHiCommit r pg off size v) := fun _ _ _ _ _ _ _ h => nomatch h
theorem Spelled.registerWrite : ∀ pg off size v, Spelled.Statement (.registerWrite pg off size v) := fun _ _ _ _ _ _ h => nomatch h
theorem Spelled.errStatClear : ∀ pg v, Spelled.Statement (.errStatClear pg v) := fun _ _ _ _ h => nomatch h
theorem Spelled.errMaskWrite : ∀ pg v, Spelled.Statement (.errMaskWrite pg v) := fun _ _ _ _ h => nomatch h
theorem Spelled.clearCounts : ∀ pg, Spelled.Statement (.clearCounts pg) := fun _ _ _ h => nomatch h
theorem Spelled.numflagsClear : ∀ pg v, Spelled.Statement (.numflagsClear pg v) := fun _ _ _ _ h => nomatch h
theorem Spelled.bindCacheFlush : ∀ b, Spelled.Statement (.bindCacheFlush b) := fun _ _ _ h => nomatch h
theorem Spelled.mxaRepairWrite : ∀ n v, Spelled.Statement (.mxaRepairWrite n v) := fun _ _ _ _ h => nomatch h
theorem Spelled.injectTallyOne : ∀ n v, Spelled.Statement (.injectTallyOne n v) := fun _ _ _ _ h => nomatch h
theorem Spelled.hbmTempSample : ∀ k t, Spelled.Statement (.hbmTempSample k t) := fun _ _ _ _ h => nomatch h
theorem Spelled.gddr7TempSample : ∀ g t, Spelled.Statement (.gddr7TempSample g t) := fun _ _ _ _ h => nomatch h
theorem Spelled.memoryScrubRead : ∀ d found retries, Spelled.Statement (.memoryScrubRead d found retries) := fun _ _ _ _ _ h => nomatch h
theorem Spelled.sramScrubRead : ∀ m ecc, Spelled.Statement (.sramScrubRead m ecc) := fun _ _ _ _ h => nomatch h
theorem Spelled.hbcClearMax : ∀ d, Spelled.Statement (.hbcClearMax d) := fun _ _ _ h => nomatch h
theorem Spelled.injectMemCorr : ∀ d, Spelled.Statement (.injectMemCorr d) := fun _ _ _ h => nomatch h
theorem Spelled.injectMemUncorr : ∀ d, Spelled.Statement (.injectMemUncorr d) := fun _ _ _ h => nomatch h
theorem Spelled.slowTierCompletion : ∀ req data, Spelled.Statement (.slowTierCompletion req data) := fun _ _ _ _ h => nomatch h
theorem Spelled.slowTierTimeout : ∀ req, Spelled.Statement (.slowTierTimeout req) := fun _ _ _ h => nomatch h
theorem Spelled.regionValidSet : ∀ v, Spelled.Statement (.regionValidSet v) := fun _ _ _ h => nomatch h
theorem Spelled.regionValidClear : ∀ v, Spelled.Statement (.regionValidClear v) := fun _ _ _ h => nomatch h
theorem Spelled.regionBoundsWrite : ∀ limit v, Spelled.Statement (.regionBoundsWrite limit v) := fun _ _ _ _ h => nomatch h
theorem Spelled.injectGrainOne : ∀ n, Spelled.Statement (.injectGrainOne n) := fun _ _ _ h => nomatch h
theorem Spelled.updateFirstFiring : ∀ b n node, Spelled.Statement (.updateFirstFiring b n node) := fun _ _ _ _ _ h => nomatch h
theorem Spelled.latheRetainFiring : ∀ b n node blocks, Spelled.Statement (.latheRetainFiring b n node blocks) := fun _ _ _ _ _ _ h => nomatch h
theorem Spelled.latheApplyFiring : ∀ b n node blocks, Spelled.Statement (.latheApplyFiring b n node blocks) := fun _ _ _ _ _ _ h => nomatch h
theorem Spelled.latheCommitFiring : ∀ b n node, Spelled.Statement (.latheCommitFiring b n node) := fun _ _ _ _ _ h => nomatch h
theorem Spelled.shadowFiring : ∀ b n node, Spelled.Statement (.shadowFiring b n node) := fun _ _ _ _ _ h => nomatch h
theorem Spelled.verdict : ∀ b n node, Spelled.Statement (.verdict b n node) := fun _ _ _ _ _ h => nomatch h
theorem Spelled.recipeLoad : ∀ b v, Spelled.Statement (.recipeLoad b v) := fun _ _ _ _ h => nomatch h
theorem Spelled.recipeLoadDone : Spelled.Statement .recipeLoadDone := fun _ _ h => nomatch h
theorem Spelled.commitRecordRelease : ∀ b v, Spelled.Statement (.commitRecordRelease b v) := fun _ _ _ _ h => nomatch h
theorem Spelled.injectRecordOne : ∀ b, Spelled.Statement (.injectRecordOne b) := fun _ _ _ h => nomatch h
theorem Spelled.latheInjectGrainOne : ∀ b, Spelled.Statement (.latheInjectGrainOne b) := fun _ _ _ h => nomatch h
theorem Spelled.portSignalDetect : ∀ p, Spelled.Statement (.portSignalDetect p) := fun _ _ _ h => nomatch h
theorem Spelled.linkTrainingDone : ∀ p, Spelled.Statement (.linkTrainingDone p) := fun _ _ _ h => nomatch h
theorem Spelled.fecLock : ∀ p, Spelled.Statement (.fecLock p) := fun _ _ _ h => nomatch h
theorem Spelled.linkTrainRetry : ∀ p, Spelled.Statement (.linkTrainRetry p) := fun _ _ _ h => nomatch h
theorem Spelled.initSendTimer : ∀ p, Spelled.Statement (.initSendTimer p) := fun _ _ _ h => nomatch h
theorem Spelled.initUnitReceived : ∀ p u, Spelled.Statement (.initUnitReceived p u) := fun _ _ _ _ h => nomatch h
theorem Spelled.dataUnitReceived : ∀ p u, Spelled.Statement (.dataUnitReceived p u) := fun _ _ _ _ h => nomatch h
theorem Spelled.emptyUnitReceived : ∀ p u, Spelled.Statement (.emptyUnitReceived p u) := fun _ _ _ _ h => nomatch h
theorem Spelled.replayTimeout : ∀ p, Spelled.Statement (.replayTimeout p) := fun _ _ _ h => nomatch h
theorem Spelled.ackSendTimer : ∀ p, Spelled.Statement (.ackSendTimer p) := fun _ _ _ h => nomatch h
theorem Spelled.unitSend : ∀ p, Spelled.Statement (.unitSend p) := fun _ _ _ h => nomatch h
theorem Spelled.linkDown : ∀ p, Spelled.Statement (.linkDown p) := fun _ _ _ h => nomatch h
theorem Spelled.frameForward : ∀ p, Spelled.Statement (.frameForward p) := fun _ _ _ h => nomatch h
theorem Spelled.writeFrame : ∀ p, Spelled.Statement (.writeFrame p) := fun _ _ _ h => nomatch h
theorem Spelled.readReqFrame : ∀ p, Spelled.Statement (.readReqFrame p) := fun _ _ _ h => nomatch h
theorem Spelled.readRespFrame : ∀ p, Spelled.Statement (.readRespFrame p) := fun _ _ _ h => nomatch h
theorem Spelled.writeAckFrame : ∀ p, Spelled.Statement (.writeAckFrame p) := fun _ _ _ h => nomatch h
theorem Spelled.windowRequestTimeout : ∀ req, Spelled.Statement (.windowRequestTimeout req) := fun _ _ _ h => nomatch h
theorem Spelled.collReadyFrame : ∀ p, Spelled.Statement (.collReadyFrame p) := fun _ _ _ h => nomatch h
theorem Spelled.collDataFrame : ∀ p, Spelled.Statement (.collDataFrame p) := fun _ _ _ h => nomatch h
theorem Spelled.collReadyRepeat : ∀ b, Spelled.Statement (.collReadyRepeat b) := fun _ _ _ h => nomatch h
theorem Spelled.collectiveTimeout : ∀ b n, Spelled.Statement (.collectiveTimeout b n) := fun _ _ _ _ h => nomatch h
theorem Spelled.readdCheckDecided : ∀ b block agree, Spelled.Statement (.readdCheckDecided b block agree) := fun _ _ _ _ _ h => nomatch h
theorem Spelled.twinFrame : ∀ p, Spelled.Statement (.twinFrame p) := fun _ _ _ h => nomatch h
theorem Spelled.twinMirrorSend : Spelled.Statement .twinMirrorSend := fun _ _ h => nomatch h
theorem Spelled.swellFrame : ∀ p, Spelled.Statement (.swellFrame p) := fun _ _ _ h => nomatch h
theorem Spelled.heartbeatFrame : ∀ p, Spelled.Statement (.heartbeatFrame p) := fun _ _ _ h => nomatch h
theorem Spelled.digestFrame : ∀ p, Spelled.Statement (.digestFrame p) := fun _ _ _ h => nomatch h
theorem Spelled.cleanFrame : ∀ p, Spelled.Statement (.cleanFrame p) := fun _ _ _ h => nomatch h
theorem Spelled.retractFrame : ∀ p, Spelled.Statement (.retractFrame p) := fun _ _ _ h => nomatch h
theorem Spelled.portRetrain : ∀ p, Spelled.Statement (.portRetrain p) := fun _ _ _ h => nomatch h
theorem Spelled.portEnableWrite : ∀ p v, Spelled.Statement (.portEnableWrite p v) := fun _ _ _ _ h => nomatch h
theorem Spelled.keyPhaseSwitch : ∀ p, Spelled.Statement (.keyPhaseSwitch p) := fun _ _ _ h => nomatch h
theorem Spelled.keyNextWrite : ∀ p i v, Spelled.Statement (.keyNextWrite p i v) := fun _ _ _ _ _ h => nomatch h
theorem Spelled.selfIdWrite : ∀ v, Spelled.Statement (.selfIdWrite v) := fun _ _ _ h => nomatch h
theorem Spelled.routeWrite : ∀ v, Spelled.Statement (.routeWrite v) := fun _ _ _ h => nomatch h
theorem Spelled.keytabWrite : ∀ v, Spelled.Statement (.keytabWrite v) := fun _ _ _ h => nomatch h
theorem Spelled.injectCrcOne : ∀ p, Spelled.Statement (.injectCrcOne p) := fun _ _ _ h => nomatch h
theorem Spelled.wmapLoad : ∀ v, Spelled.Statement (.wmapLoad v) := fun _ _ _ h => nomatch h
theorem Spelled.wmapLoadDone : Spelled.Statement .wmapLoadDone := fun _ _ h => nomatch h
theorem Spelled.twinEnable : ∀ v, Spelled.Statement (.twinEnable v) := fun _ _ _ h => nomatch h
theorem Spelled.twinDisable : ∀ v, Spelled.Statement (.twinDisable v) := fun _ _ _ h => nomatch h
theorem Spelled.heartbeatSend : Spelled.Statement .heartbeatSend := fun _ _ h => nomatch h
theorem Spelled.seatListLoad : ∀ v, Spelled.Statement (.seatListLoad v) := fun _ _ _ h => nomatch h
theorem Spelled.seatListLoadDone : Spelled.Statement .seatListLoadDone := fun _ _ h => nomatch h
theorem Spelled.seatLivenessExpiry : ∀ slot seat, Spelled.Statement (.seatLivenessExpiry slot seat) := fun _ _ _ _ h => nomatch h
theorem Spelled.streamFreeze : ∀ n, Spelled.Statement (.streamFreeze n) := fun _ _ _ h => nomatch h
theorem Spelled.quorumResume : Spelled.Statement .quorumResume := fun _ _ h => nomatch h
theorem Spelled.quorumRefuse : Spelled.Statement .quorumRefuse := fun _ _ h => nomatch h
theorem Spelled.seatSlotUnload : Spelled.Statement .seatSlotUnload := fun _ _ h => nomatch h
theorem Spelled.cleanSend : ∀ j, Spelled.Statement (.cleanSend j) := fun _ _ _ h => nomatch h
theorem Spelled.tuningDue : ∀ u, Spelled.Statement (.tuningDue u) := fun _ _ _ h => nomatch h
theorem Spelled.tuningDeadline : ∀ u, Spelled.Statement (.tuningDeadline u) := fun _ _ _ h => nomatch h
theorem Spelled.tuningStart : ∀ u, Spelled.Statement (.tuningStart u) := fun _ _ _ h => nomatch h
theorem Spelled.tuningResult : ∀ u obs, Spelled.Statement (.tuningResult u obs) := fun _ _ _ _ h => nomatch h
theorem Spelled.tuningRunNow : Spelled.Statement .tuningRunNow := fun _ _ h => nomatch h
theorem Spelled.tuningRotateAll : Spelled.Statement .tuningRotateAll := fun _ _ h => nomatch h
theorem Spelled.injectTuningFail : Spelled.Statement .injectTuningFail := fun _ _ h => nomatch h
theorem Spelled.injectReaddOne : Spelled.Statement .injectReaddOne := fun _ _ h => nomatch h
theorem Spelled.clearRetracted : Spelled.Statement .clearRetracted := fun _ _ h => nomatch h
theorem Spelled.unisonEntryTimeout : ∀ j key step, Spelled.Statement (.unisonEntryTimeout j key step) := fun _ _ _ _ _ h => nomatch h
theorem Spelled.unisonClear : Spelled.Statement .unisonClear := fun _ _ h => nomatch h
theorem Spelled.flitReceived : ∀ e bundle f, Spelled.Statement (.flitReceived e bundle f) := fun _ _ _ _ _ h => nomatch h
theorem Spelled.flitReplayTimeout : ∀ e bundle, Spelled.Statement (.flitReplayTimeout e bundle) := fun _ _ _ _ h => nomatch h
theorem Spelled.laneTestSend : ∀ e bundle, Spelled.Statement (.laneTestSend e bundle) := fun _ _ _ _ h => nomatch h
theorem Spelled.laneTestReceived : ∀ e bundle mismatch, Spelled.Statement (.laneTestReceived e bundle mismatch) := fun _ _ _ _ _ h => nomatch h
theorem Spelled.clockMonitorWindow : ∀ e edges expected, Spelled.Statement (.clockMonitorWindow e edges expected) := fun _ _ _ _ _ h => nomatch h
theorem Spelled.resetNoticeReceived : ∀ e, Spelled.Statement (.resetNoticeReceived e) := fun _ _ _ h => nomatch h
theorem Spelled.budgetReceived : ∀ d m, Spelled.Statement (.budgetReceived d m) := fun _ _ _ _ h => nomatch h
theorem Spelled.budgetRepeat : ∀ d, Spelled.Statement (.budgetRepeat d) := fun _ _ _ h => nomatch h
theorem Spelled.reportSend : ∀ d powerW8 tempC, Spelled.Statement (.reportSend d powerW8 tempC) := fun _ _ _ _ _ h => nomatch h
theorem Spelled.reportReceived : ∀ d m, Spelled.Statement (.reportReceived d m) := fun _ _ _ _ h => nomatch h
theorem Spelled.budgetFallback : ∀ d, Spelled.Statement (.budgetFallback d) := fun _ _ _ h => nomatch h
theorem Spelled.linkTestStart : ∀ e, Spelled.Statement (.linkTestStart e) := fun _ _ _ h => nomatch h
theorem Spelled.linkTestDone : ∀ e errs logic sram, Spelled.Statement (.linkTestDone e errs logic sram) := fun _ _ _ _ _ _ h => nomatch h
theorem Spelled.injectLaneFail : ∀ e, Spelled.Statement (.injectLaneFail e) := fun _ _ _ h => nomatch h
theorem Spelled.setpointWrite : ∀ v, Spelled.Statement (.setpointWrite v) := fun _ _ _ h => nomatch h
theorem Spelled.swellControlLoop : ∀ obs, Spelled.Statement (.swellControlLoop obs) := fun _ _ _ h => nomatch h
theorem Spelled.descantRestore : Spelled.Statement .descantRestore := fun _ _ h => nomatch h
theorem Spelled.powerReqRun : Spelled.Statement .powerReqRun := fun _ _ h => nomatch h
theorem Spelled.powerReqHold : Spelled.Statement .powerReqHold := fun _ _ h => nomatch h
theorem Spelled.powerReqBreath : Spelled.Statement .powerReqBreath := fun _ _ h => nomatch h
theorem Spelled.powerReqOff : Spelled.Statement .powerReqOff := fun _ _ h => nomatch h
theorem Spelled.holdReached : Spelled.Statement .holdReached := fun _ _ h => nomatch h
theorem Spelled.wakeComplete : ∀ r, Spelled.Statement (.wakeComplete r) := fun _ _ _ h => nomatch h
theorem Spelled.breathSample : ∀ samples, Spelled.Statement (.breathSample samples) := fun _ _ _ h => nomatch h
theorem Spelled.brtCrossClear : ∀ v, Spelled.Statement (.brtCrossClear v) := fun _ _ _ h => nomatch h
theorem Spelled.dieThermalTick : ∀ d t, Spelled.Statement (.dieThermalTick d t) := fun _ _ _ _ h => nomatch h
theorem Spelled.flowTachWindow : ∀ edges, Spelled.Statement (.flowTachWindow edges) := fun _ _ _ h => nomatch h
theorem Spelled.flowLowDetected : Spelled.Statement .flowLowDetected := fun _ _ h => nomatch h
theorem Spelled.flowRestored : Spelled.Statement .flowRestored := fun _ _ h => nomatch h
theorem Spelled.leakDetected : Spelled.Statement .leakDetected := fun _ _ h => nomatch h
theorem Spelled.inputUndervoltage : Spelled.Statement .inputUndervoltage := fun _ _ h => nomatch h
theorem Spelled.powerOn : ∀ r, Spelled.Statement (.powerOn r) := fun _ _ _ h => nomatch h
theorem Spelled.serviceConnect : ∀ h, Spelled.Statement (.serviceConnect h) := fun _ _ _ h => nomatch h
theorem Spelled.serviceIdleTimeout : ∀ i, Spelled.Statement (.serviceIdleTimeout i) := fun _ _ _ h => nomatch h
theorem Spelled.svcInfo : ∀ q, Spelled.Statement (.svcInfo q) := fun _ _ _ h => nomatch h
theorem Spelled.svcLogRead : ∀ q seq count, Spelled.Statement (.svcLogRead q seq count) := fun _ _ _ _ _ h => nomatch h
theorem Spelled.svcSettingGet : ∀ q type, Spelled.Statement (.svcSettingGet q type) := fun _ _ _ _ h => nomatch h
theorem Spelled.svcSettingSet : ∀ q type body, Spelled.Statement (.svcSettingSet q type body) := fun _ _ _ _ _ h => nomatch h
theorem Spelled.svcSetpoint : ∀ q w, Spelled.Statement (.svcSetpoint q w) := fun _ _ _ _ h => nomatch h
theorem Spelled.svcPower : ∀ q state, Spelled.Statement (.svcPower q state) := fun _ _ _ _ h => nomatch h
theorem Spelled.svcRegRead : ∀ q off count, Spelled.Statement (.svcRegRead q off count) := fun _ _ _ _ _ h => nomatch h
theorem Spelled.fwBegin : ∀ q payload, Spelled.Statement (.fwBegin q payload) := fun _ _ _ _ h => nomatch h
theorem Spelled.fwData : ∀ q off bytes, Spelled.Statement (.fwData q off bytes) := fun _ _ _ _ _ h => nomatch h
theorem Spelled.fwEnd : ∀ q, Spelled.Statement (.fwEnd q) := fun _ _ _ h => nomatch h
theorem Spelled.fwActivate : ∀ q, Spelled.Statement (.fwActivate q) := fun _ _ _ h => nomatch h
theorem Spelled.fwCancel : ∀ q, Spelled.Statement (.fwCancel q) := fun _ _ _ h => nomatch h
theorem Spelled.svcReset : ∀ q r, Spelled.Statement (.svcReset q r) := fun _ _ _ _ h => nomatch h
theorem Spelled.svcDieTest : ∀ q d, Spelled.Statement (.svcDieTest q d) := fun _ _ _ _ h => nomatch h
theorem Spelled.spdmGetVersion : ∀ t, Spelled.Statement (.spdmGetVersion t) := fun _ _ _ h => nomatch h
theorem Spelled.spdmGetCapabilities : ∀ t, Spelled.Statement (.spdmGetCapabilities t) := fun _ _ _ h => nomatch h
theorem Spelled.spdmNegotiateAlgorithms : ∀ t asym hash dhe aead, Spelled.Statement (.spdmNegotiateAlgorithms t asym hash dhe aead) := fun _ _ _ _ _ _ _ h => nomatch h
theorem Spelled.spdmGetDigests : ∀ t, Spelled.Statement (.spdmGetDigests t) := fun _ _ _ h => nomatch h
theorem Spelled.spdmGetCertificate : ∀ t slot off len, Spelled.Statement (.spdmGetCertificate t slot off len) := fun _ _ _ _ _ _ h => nomatch h
theorem Spelled.spdmChallenge : ∀ t slot nonce, Spelled.Statement (.spdmChallenge t slot nonce) := fun _ _ _ _ _ h => nomatch h
theorem Spelled.spdmGetMeasurements : ∀ t index sign nonce, Spelled.Statement (.spdmGetMeasurements t index sign nonce) := fun _ _ _ _ _ _ h => nomatch h
theorem Spelled.spdmKeyExchange : ∀ t slot share, Spelled.Statement (.spdmKeyExchange t slot share) := fun _ _ _ _ _ h => nomatch h
theorem Spelled.spdmFinish : ∀ t valid, Spelled.Statement (.spdmFinish t valid) := fun _ _ _ _ h => nomatch h
theorem Spelled.spdmEndSession : ∀ t, Spelled.Statement (.spdmEndSession t) := fun _ _ _ h => nomatch h
theorem Spelled.spdmUnsupported : ∀ t code, Spelled.Statement (.spdmUnsupported t code) := fun _ _ _ _ h => nomatch h
theorem Spelled.ideKeyProgram : ∀ p stream key, Spelled.Statement (.ideKeyProgram p stream key) := fun _ _ _ _ _ h => nomatch h
theorem Spelled.mctpReadSensors : ∀ samples, Spelled.Statement (.mctpReadSensors samples) := fun _ _ _ h => nomatch h
theorem Spelled.mctpReadLog : ∀ seq count, Spelled.Statement (.mctpReadLog seq count) := fun _ _ _ _ h => nomatch h
theorem Spelled.mctpReadStatus : Spelled.Statement .mctpReadStatus := fun _ _ h => nomatch h
theorem Spelled.mctpControlMessage : ∀ cmd, Spelled.Statement (.mctpControlMessage cmd) := fun _ _ _ h => nomatch h
theorem Spelled.hostHdmRead : ∀ p hpa caches corrected, Spelled.Statement (.hostHdmRead p hpa caches corrected) := fun _ _ _ _ _ _ h => nomatch h
theorem Spelled.hostHdmWrite : ∀ p hpa data mask, Spelled.Statement (.hostHdmWrite p hpa data mask) := fun _ _ _ _ _ _ h => nomatch h
theorem Spelled.h2dSnoop : ∀ p, Spelled.Statement (.h2dSnoop p) := fun _ _ _ h => nomatch h
theorem Spelled.birspReceived : ∀ p line, Spelled.Statement (.birspReceived p line) := fun _ _ _ _ h => nomatch h
theorem Spelled.bisnpTimeout : ∀ line, Spelled.Statement (.bisnpTimeout line) := fun _ _ _ h => nomatch h
theorem Spelled.hdmDecoderCommit : ∀ i setup, Spelled.Statement (.hdmDecoderCommit i setup) := fun _ _ _ _ h => nomatch h
theorem Spelled.cdatRead : ∀ p entry, Spelled.Statement (.cdatRead p entry) := fun _ _ _ _ h => nomatch h
theorem Spelled.doeDiscovery : ∀ p index, Spelled.Statement (.doeDiscovery p index) := fun _ _ _ _ h => nomatch h
theorem Spelled.cxlLinkUp : ∀ p lanes fast viaSwitch, Spelled.Statement (.cxlLinkUp p lanes fast viaSwitch) := fun _ _ _ _ _ _ h => nomatch h
theorem Spelled.cxlLinkDown : ∀ p, Spelled.Statement (.cxlLinkDown p) := fun _ _ _ h => nomatch h
theorem Spelled.failoverSwitch : Spelled.Statement .failoverSwitch := fun _ _ h => nomatch h
theorem Spelled.perstAssert : ∀ p, Spelled.Statement (.perstAssert p) := fun _ _ _ h => nomatch h
theorem Spelled.functionLevelReset : ∀ p, Spelled.Statement (.functionLevelReset p) := fun _ _ _ h => nomatch h
theorem Spelled.ideFailure : ∀ p, Spelled.Statement (.ideFailure p) := fun _ _ _ h => nomatch h
theorem Spelled.injectBiDrop : ∀ p, Spelled.Statement (.injectBiDrop p) := fun _ _ _ h => nomatch h
theorem Spelled.badCommand : ∀ n word, Spelled.Statement (.badCommand n word) := fun _ _ _ _ h => nomatch h
theorem Spelled.serviceSessionEnd : ∀ i, Spelled.Statement (.serviceSessionEnd i) := fun _ _ _ h => nomatch h
theorem Spelled.leakDetectReleased : Spelled.Statement .leakDetectReleased := fun _ _ h => nomatch h

end Sys2Proof.Laws
end

