-- ==== Sys2Proof/Laws/State.lean ====
section
/-! SUPPORT. Every update of State field by field: what it leaves as it was, and what a read gives after it. -/

namespace Sys2Proof.Machine

theorem State.setReg_mk (s : State) (pg : Page) (off : Nat) (v : U32) : s.setReg pg off v = { s with regs := SMap.set regDefault s.regs (pg.base + off) v } := rfl

@[simp] theorem State.setReg_pending (s : State) (pg : Page) (off : Nat) (v : U32) : (s.setReg pg off v).pending = s.pending := (congrArg State.pending (State.setReg_mk s pg off v)).trans rfl
@[simp] theorem State.setReg_latches (s : State) (pg : Page) (off : Nat) (v : U32) : (s.setReg pg off v).latches = s.latches := (congrArg State.latches (State.setReg_mk s pg off v)).trans rfl
@[simp] theorem State.setReg_heldLo (s : State) (pg : Page) (off : Nat) (v : U32) : (s.setReg pg off v).heldLo = s.heldLo := (congrArg State.heldLo (State.setReg_mk s pg off v)).trans rfl
@[simp] theorem State.setReg_mem (s : State) (pg : Page) (off : Nat) (v : U32) : (s.setReg pg off v).mem = s.mem := (congrArg State.mem (State.setReg_mk s pg off v)).trans rfl
@[simp] theorem State.setReg_streams (s : State) (pg : Page) (off : Nat) (v : U32) : (s.setReg pg off v).streams = s.streams := (congrArg State.streams (State.setReg_mk s pg off v)).trans rfl
@[simp] theorem State.setReg_jobs (s : State) (pg : Page) (off : Nat) (v : U32) : (s.setReg pg off v).jobs = s.jobs := (congrArg State.jobs (State.setReg_mk s pg off v)).trans rfl
@[simp] theorem State.setReg_regions (s : State) (pg : Page) (off : Nat) (v : U32) : (s.setReg pg off v).regions = s.regions := (congrArg State.regions (State.setReg_mk s pg off v)).trans rfl
@[simp] theorem State.setReg_engines (s : State) (pg : Page) (off : Nat) (v : U32) : (s.setReg pg off v).engines = s.engines := (congrArg State.engines (State.setReg_mk s pg off v)).trans rfl
@[simp] theorem State.setReg_arrays (s : State) (pg : Page) (off : Nat) (v : U32) : (s.setReg pg off v).arrays = s.arrays := (congrArg State.arrays (State.setReg_mk s pg off v)).trans rfl
@[simp] theorem State.setReg_chucks (s : State) (pg : Page) (off : Nat) (v : U32) : (s.setReg pg off v).chucks = s.chucks := (congrArg State.chucks (State.setReg_mk s pg off v)).trans rfl
@[simp] theorem State.setReg_waiting (s : State) (pg : Page) (off : Nat) (v : U32) : (s.setReg pg off v).waiting = s.waiting := (congrArg State.waiting (State.setReg_mk s pg off v)).trans rfl
@[simp] theorem State.setReg_caches (s : State) (pg : Page) (off : Nat) (v : U32) : (s.setReg pg off v).caches = s.caches := (congrArg State.caches (State.setReg_mk s pg off v)).trans rfl
@[simp] theorem State.setReg_upds (s : State) (pg : Page) (off : Nat) (v : U32) : (s.setReg pg off v).upds = s.upds := (congrArg State.upds (State.setReg_mk s pg off v)).trans rfl
@[simp] theorem State.setReg_ovf (s : State) (pg : Page) (off : Nat) (v : U32) : (s.setReg pg off v).ovf = s.ovf := (congrArg State.ovf (State.setReg_mk s pg off v)).trans rfl
@[simp] theorem State.setReg_recipes (s : State) (pg : Page) (off : Nat) (v : U32) : (s.setReg pg off v).recipes = s.recipes := (congrArg State.recipes (State.setReg_mk s pg off v)).trans rfl
@[simp] theorem State.setReg_recipeLoad (s : State) (pg : Page) (off : Nat) (v : U32) : (s.setReg pg off v).recipeLoad = s.recipeLoad := (congrArg State.recipeLoad (State.setReg_mk s pg off v)).trans rfl
@[simp] theorem State.setReg_ports (s : State) (pg : Page) (off : Nat) (v : U32) : (s.setReg pg off v).ports = s.ports := (congrArg State.ports (State.setReg_mk s pg off v)).trans rfl
@[simp] theorem State.setReg_route (s : State) (pg : Page) (off : Nat) (v : U32) : (s.setReg pg off v).route = s.route := (congrArg State.route (State.setReg_mk s pg off v)).trans rfl
@[simp] theorem State.setReg_keytab (s : State) (pg : Page) (off : Nat) (v : U32) : (s.setReg pg off v).keytab = s.keytab := (congrArg State.keytab (State.setReg_mk s pg off v)).trans rfl
@[simp] theorem State.setReg_wmap (s : State) (pg : Page) (off : Nat) (v : U32) : (s.setReg pg off v).wmap = s.wmap := (congrArg State.wmap (State.setReg_mk s pg off v)).trans rfl
@[simp] theorem State.setReg_wmapLoad (s : State) (pg : Page) (off : Nat) (v : U32) : (s.setReg pg off v).wmapLoad = s.wmapLoad := (congrArg State.wmapLoad (State.setReg_mk s pg off v)).trans rfl
@[simp] theorem State.setReg_colls (s : State) (pg : Page) (off : Nat) (v : U32) : (s.setReg pg off v).colls = s.colls := (congrArg State.colls (State.setReg_mk s pg off v)).trans rfl
@[simp] theorem State.setReg_readys (s : State) (pg : Page) (off : Nat) (v : U32) : (s.setReg pg off v).readys = s.readys := (congrArg State.readys (State.setReg_mk s pg off v)).trans rfl
@[simp] theorem State.setReg_readds (s : State) (pg : Page) (off : Nat) (v : U32) : (s.setReg pg off v).readds = s.readds := (congrArg State.readds (State.setReg_mk s pg off v)).trans rfl
@[simp] theorem State.setReg_looped (s : State) (pg : Page) (off : Nat) (v : U32) : (s.setReg pg off v).looped = s.looped := (congrArg State.looped (State.setReg_mk s pg off v)).trans rfl
@[simp] theorem State.setReg_sramScrub (s : State) (pg : Page) (off : Nat) (v : U32) : (s.setReg pg off v).sramScrub = s.sramScrub := (congrArg State.sramScrub (State.setReg_mk s pg off v)).trans rfl
@[simp] theorem State.setReg_twin (s : State) (pg : Page) (off : Nat) (v : U32) : (s.setReg pg off v).twin = s.twin := (congrArg State.twin (State.setReg_mk s pg off v)).trans rfl
@[simp] theorem State.setReg_slots (s : State) (pg : Page) (off : Nat) (v : U32) : (s.setReg pg off v).slots = s.slots := (congrArg State.slots (State.setReg_mk s pg off v)).trans rfl
@[simp] theorem State.setReg_seatLoad (s : State) (pg : Page) (off : Nat) (v : U32) : (s.setReg pg off v).seatLoad = s.seatLoad := (congrArg State.seatLoad (State.setReg_mk s pg off v)).trans rfl
@[simp] theorem State.setReg_unison (s : State) (pg : Page) (off : Nat) (v : U32) : (s.setReg pg off v).unison = s.unison := (congrArg State.unison (State.setReg_mk s pg off v)).trans rfl
@[simp] theorem State.setReg_tune (s : State) (pg : Page) (off : Nat) (v : U32) : (s.setReg pg off v).tune = s.tune := (congrArg State.tune (State.setReg_mk s pg off v)).trans rfl
@[simp] theorem State.setReg_log (s : State) (pg : Page) (off : Nat) (v : U32) : (s.setReg pg off v).log = s.log := (congrArg State.log (State.setReg_mk s pg off v)).trans rfl
@[simp] theorem State.setReg_logHead (s : State) (pg : Page) (off : Nat) (v : U32) : (s.setReg pg off v).logHead = s.logHead := (congrArg State.logHead (State.setReg_mk s pg off v)).trans rfl
@[simp] theorem State.setReg_dies (s : State) (pg : Page) (off : Nat) (v : U32) : (s.setReg pg off v).dies = s.dies := (congrArg State.dies (State.setReg_mk s pg off v)).trans rfl
@[simp] theorem State.setReg_links (s : State) (pg : Page) (off : Nat) (v : U32) : (s.setReg pg off v).links = s.links := (congrArg State.links (State.setReg_mk s pg off v)).trans rfl
@[simp] theorem State.setReg_bundles (s : State) (pg : Page) (off : Nat) (v : U32) : (s.setReg pg off v).bundles = s.bundles := (congrArg State.bundles (State.setReg_mk s pg off v)).trans rfl
@[simp] theorem State.setReg_lanes (s : State) (pg : Page) (off : Nat) (v : U32) : (s.setReg pg off v).lanes = s.lanes := (congrArg State.lanes (State.setReg_mk s pg off v)).trans rfl
@[simp] theorem State.setReg_pwr (s : State) (pg : Page) (off : Nat) (v : U32) : (s.setReg pg off v).pwr = s.pwr := (congrArg State.pwr (State.setReg_mk s pg off v)).trans rfl
@[simp] theorem State.setReg_start (s : State) (pg : Page) (off : Nat) (v : U32) : (s.setReg pg off v).start = s.start := (congrArg State.start (State.setReg_mk s pg off v)).trans rfl
@[simp] theorem State.setReg_flash (s : State) (pg : Page) (off : Nat) (v : U32) : (s.setReg pg off v).flash = s.flash := (congrArg State.flash (State.setReg_mk s pg off v)).trans rfl
@[simp] theorem State.setReg_sessions (s : State) (pg : Page) (off : Nat) (v : U32) : (s.setReg pg off v).sessions = s.sessions := (congrArg State.sessions (State.setReg_mk s pg off v)).trans rfl
@[simp] theorem State.setReg_fw (s : State) (pg : Page) (off : Nat) (v : U32) : (s.setReg pg off v).fw = s.fw := (congrArg State.fw (State.setReg_mk s pg off v)).trans rfl
@[simp] theorem State.setReg_spdm (s : State) (pg : Page) (off : Nat) (v : U32) : (s.setReg pg off v).spdm = s.spdm := (congrArg State.spdm (State.setReg_mk s pg off v)).trans rfl
@[simp] theorem State.setReg_cxl (s : State) (pg : Page) (off : Nat) (v : U32) : (s.setReg pg off v).cxl = s.cxl := (congrArg State.cxl (State.setReg_mk s pg off v)).trans rfl
@[simp] theorem State.setReg_nextReq (s : State) (pg : Page) (off : Nat) (v : U32) : (s.setReg pg off v).nextReq = s.nextReq := (congrArg State.nextReq (State.setReg_mk s pg off v)).trans rfl
@[simp] theorem State.setReg_free (s : State) (pg : Page) (off : Nat) (v : U32) : (s.setReg pg off v).free = s.free := (congrArg State.free (State.setReg_mk s pg off v)).trans rfl
@[simp] theorem State.setReg_out (s : State) (pg : Page) (off : Nat) (v : U32) : (s.setReg pg off v).out = s.out := (congrArg State.out (State.setReg_mk s pg off v)).trans rfl

theorem State.setStream_mk (s : State) (n : Nat) (x : Stream) : s.setStream n x = { s with streams := SMap.set streamDefault s.streams n x } := rfl

@[simp] theorem State.setStream_pending (s : State) (n : Nat) (x : Stream) : (s.setStream n x).pending = s.pending := (congrArg State.pending (State.setStream_mk s n x)).trans rfl
@[simp] theorem State.setStream_regs (s : State) (n : Nat) (x : Stream) : (s.setStream n x).regs = s.regs := (congrArg State.regs (State.setStream_mk s n x)).trans rfl
@[simp] theorem State.setStream_latches (s : State) (n : Nat) (x : Stream) : (s.setStream n x).latches = s.latches := (congrArg State.latches (State.setStream_mk s n x)).trans rfl
@[simp] theorem State.setStream_heldLo (s : State) (n : Nat) (x : Stream) : (s.setStream n x).heldLo = s.heldLo := (congrArg State.heldLo (State.setStream_mk s n x)).trans rfl
@[simp] theorem State.setStream_mem (s : State) (n : Nat) (x : Stream) : (s.setStream n x).mem = s.mem := (congrArg State.mem (State.setStream_mk s n x)).trans rfl
@[simp] theorem State.setStream_jobs (s : State) (n : Nat) (x : Stream) : (s.setStream n x).jobs = s.jobs := (congrArg State.jobs (State.setStream_mk s n x)).trans rfl
@[simp] theorem State.setStream_regions (s : State) (n : Nat) (x : Stream) : (s.setStream n x).regions = s.regions := (congrArg State.regions (State.setStream_mk s n x)).trans rfl
@[simp] theorem State.setStream_engines (s : State) (n : Nat) (x : Stream) : (s.setStream n x).engines = s.engines := (congrArg State.engines (State.setStream_mk s n x)).trans rfl
@[simp] theorem State.setStream_arrays (s : State) (n : Nat) (x : Stream) : (s.setStream n x).arrays = s.arrays := (congrArg State.arrays (State.setStream_mk s n x)).trans rfl
@[simp] theorem State.setStream_chucks (s : State) (n : Nat) (x : Stream) : (s.setStream n x).chucks = s.chucks := (congrArg State.chucks (State.setStream_mk s n x)).trans rfl
@[simp] theorem State.setStream_waiting (s : State) (n : Nat) (x : Stream) : (s.setStream n x).waiting = s.waiting := (congrArg State.waiting (State.setStream_mk s n x)).trans rfl
@[simp] theorem State.setStream_caches (s : State) (n : Nat) (x : Stream) : (s.setStream n x).caches = s.caches := (congrArg State.caches (State.setStream_mk s n x)).trans rfl
@[simp] theorem State.setStream_upds (s : State) (n : Nat) (x : Stream) : (s.setStream n x).upds = s.upds := (congrArg State.upds (State.setStream_mk s n x)).trans rfl
@[simp] theorem State.setStream_ovf (s : State) (n : Nat) (x : Stream) : (s.setStream n x).ovf = s.ovf := (congrArg State.ovf (State.setStream_mk s n x)).trans rfl
@[simp] theorem State.setStream_recipes (s : State) (n : Nat) (x : Stream) : (s.setStream n x).recipes = s.recipes := (congrArg State.recipes (State.setStream_mk s n x)).trans rfl
@[simp] theorem State.setStream_recipeLoad (s : State) (n : Nat) (x : Stream) : (s.setStream n x).recipeLoad = s.recipeLoad := (congrArg State.recipeLoad (State.setStream_mk s n x)).trans rfl
@[simp] theorem State.setStream_ports (s : State) (n : Nat) (x : Stream) : (s.setStream n x).ports = s.ports := (congrArg State.ports (State.setStream_mk s n x)).trans rfl
@[simp] theorem State.setStream_route (s : State) (n : Nat) (x : Stream) : (s.setStream n x).route = s.route := (congrArg State.route (State.setStream_mk s n x)).trans rfl
@[simp] theorem State.setStream_keytab (s : State) (n : Nat) (x : Stream) : (s.setStream n x).keytab = s.keytab := (congrArg State.keytab (State.setStream_mk s n x)).trans rfl
@[simp] theorem State.setStream_wmap (s : State) (n : Nat) (x : Stream) : (s.setStream n x).wmap = s.wmap := (congrArg State.wmap (State.setStream_mk s n x)).trans rfl
@[simp] theorem State.setStream_wmapLoad (s : State) (n : Nat) (x : Stream) : (s.setStream n x).wmapLoad = s.wmapLoad := (congrArg State.wmapLoad (State.setStream_mk s n x)).trans rfl
@[simp] theorem State.setStream_colls (s : State) (n : Nat) (x : Stream) : (s.setStream n x).colls = s.colls := (congrArg State.colls (State.setStream_mk s n x)).trans rfl
@[simp] theorem State.setStream_readys (s : State) (n : Nat) (x : Stream) : (s.setStream n x).readys = s.readys := (congrArg State.readys (State.setStream_mk s n x)).trans rfl
@[simp] theorem State.setStream_readds (s : State) (n : Nat) (x : Stream) : (s.setStream n x).readds = s.readds := (congrArg State.readds (State.setStream_mk s n x)).trans rfl
@[simp] theorem State.setStream_looped (s : State) (n : Nat) (x : Stream) : (s.setStream n x).looped = s.looped := (congrArg State.looped (State.setStream_mk s n x)).trans rfl
@[simp] theorem State.setStream_sramScrub (s : State) (n : Nat) (x : Stream) : (s.setStream n x).sramScrub = s.sramScrub := (congrArg State.sramScrub (State.setStream_mk s n x)).trans rfl
@[simp] theorem State.setStream_twin (s : State) (n : Nat) (x : Stream) : (s.setStream n x).twin = s.twin := (congrArg State.twin (State.setStream_mk s n x)).trans rfl
@[simp] theorem State.setStream_slots (s : State) (n : Nat) (x : Stream) : (s.setStream n x).slots = s.slots := (congrArg State.slots (State.setStream_mk s n x)).trans rfl
@[simp] theorem State.setStream_seatLoad (s : State) (n : Nat) (x : Stream) : (s.setStream n x).seatLoad = s.seatLoad := (congrArg State.seatLoad (State.setStream_mk s n x)).trans rfl
@[simp] theorem State.setStream_unison (s : State) (n : Nat) (x : Stream) : (s.setStream n x).unison = s.unison := (congrArg State.unison (State.setStream_mk s n x)).trans rfl
@[simp] theorem State.setStream_tune (s : State) (n : Nat) (x : Stream) : (s.setStream n x).tune = s.tune := (congrArg State.tune (State.setStream_mk s n x)).trans rfl
@[simp] theorem State.setStream_log (s : State) (n : Nat) (x : Stream) : (s.setStream n x).log = s.log := (congrArg State.log (State.setStream_mk s n x)).trans rfl
@[simp] theorem State.setStream_logHead (s : State) (n : Nat) (x : Stream) : (s.setStream n x).logHead = s.logHead := (congrArg State.logHead (State.setStream_mk s n x)).trans rfl
@[simp] theorem State.setStream_dies (s : State) (n : Nat) (x : Stream) : (s.setStream n x).dies = s.dies := (congrArg State.dies (State.setStream_mk s n x)).trans rfl
@[simp] theorem State.setStream_links (s : State) (n : Nat) (x : Stream) : (s.setStream n x).links = s.links := (congrArg State.links (State.setStream_mk s n x)).trans rfl
@[simp] theorem State.setStream_bundles (s : State) (n : Nat) (x : Stream) : (s.setStream n x).bundles = s.bundles := (congrArg State.bundles (State.setStream_mk s n x)).trans rfl
@[simp] theorem State.setStream_lanes (s : State) (n : Nat) (x : Stream) : (s.setStream n x).lanes = s.lanes := (congrArg State.lanes (State.setStream_mk s n x)).trans rfl
@[simp] theorem State.setStream_pwr (s : State) (n : Nat) (x : Stream) : (s.setStream n x).pwr = s.pwr := (congrArg State.pwr (State.setStream_mk s n x)).trans rfl
@[simp] theorem State.setStream_start (s : State) (n : Nat) (x : Stream) : (s.setStream n x).start = s.start := (congrArg State.start (State.setStream_mk s n x)).trans rfl
@[simp] theorem State.setStream_flash (s : State) (n : Nat) (x : Stream) : (s.setStream n x).flash = s.flash := (congrArg State.flash (State.setStream_mk s n x)).trans rfl
@[simp] theorem State.setStream_sessions (s : State) (n : Nat) (x : Stream) : (s.setStream n x).sessions = s.sessions := (congrArg State.sessions (State.setStream_mk s n x)).trans rfl
@[simp] theorem State.setStream_fw (s : State) (n : Nat) (x : Stream) : (s.setStream n x).fw = s.fw := (congrArg State.fw (State.setStream_mk s n x)).trans rfl
@[simp] theorem State.setStream_spdm (s : State) (n : Nat) (x : Stream) : (s.setStream n x).spdm = s.spdm := (congrArg State.spdm (State.setStream_mk s n x)).trans rfl
@[simp] theorem State.setStream_cxl (s : State) (n : Nat) (x : Stream) : (s.setStream n x).cxl = s.cxl := (congrArg State.cxl (State.setStream_mk s n x)).trans rfl
@[simp] theorem State.setStream_nextReq (s : State) (n : Nat) (x : Stream) : (s.setStream n x).nextReq = s.nextReq := (congrArg State.nextReq (State.setStream_mk s n x)).trans rfl
@[simp] theorem State.setStream_free (s : State) (n : Nat) (x : Stream) : (s.setStream n x).free = s.free := (congrArg State.free (State.setStream_mk s n x)).trans rfl
@[simp] theorem State.setStream_out (s : State) (n : Nat) (x : Stream) : (s.setStream n x).out = s.out := (congrArg State.out (State.setStream_mk s n x)).trans rfl

theorem State.setJob_mk (s : State) (j : Nat) (x : Job) : s.setJob j x = { s with jobs := SMap.set jobDefault s.jobs j x } := rfl

@[simp] theorem State.setJob_pending (s : State) (j : Nat) (x : Job) : (s.setJob j x).pending = s.pending := (congrArg State.pending (State.setJob_mk s j x)).trans rfl
@[simp] theorem State.setJob_regs (s : State) (j : Nat) (x : Job) : (s.setJob j x).regs = s.regs := (congrArg State.regs (State.setJob_mk s j x)).trans rfl
@[simp] theorem State.setJob_latches (s : State) (j : Nat) (x : Job) : (s.setJob j x).latches = s.latches := (congrArg State.latches (State.setJob_mk s j x)).trans rfl
@[simp] theorem State.setJob_heldLo (s : State) (j : Nat) (x : Job) : (s.setJob j x).heldLo = s.heldLo := (congrArg State.heldLo (State.setJob_mk s j x)).trans rfl
@[simp] theorem State.setJob_mem (s : State) (j : Nat) (x : Job) : (s.setJob j x).mem = s.mem := (congrArg State.mem (State.setJob_mk s j x)).trans rfl
@[simp] theorem State.setJob_streams (s : State) (j : Nat) (x : Job) : (s.setJob j x).streams = s.streams := (congrArg State.streams (State.setJob_mk s j x)).trans rfl
@[simp] theorem State.setJob_regions (s : State) (j : Nat) (x : Job) : (s.setJob j x).regions = s.regions := (congrArg State.regions (State.setJob_mk s j x)).trans rfl
@[simp] theorem State.setJob_engines (s : State) (j : Nat) (x : Job) : (s.setJob j x).engines = s.engines := (congrArg State.engines (State.setJob_mk s j x)).trans rfl
@[simp] theorem State.setJob_arrays (s : State) (j : Nat) (x : Job) : (s.setJob j x).arrays = s.arrays := (congrArg State.arrays (State.setJob_mk s j x)).trans rfl
@[simp] theorem State.setJob_chucks (s : State) (j : Nat) (x : Job) : (s.setJob j x).chucks = s.chucks := (congrArg State.chucks (State.setJob_mk s j x)).trans rfl
@[simp] theorem State.setJob_waiting (s : State) (j : Nat) (x : Job) : (s.setJob j x).waiting = s.waiting := (congrArg State.waiting (State.setJob_mk s j x)).trans rfl
@[simp] theorem State.setJob_caches (s : State) (j : Nat) (x : Job) : (s.setJob j x).caches = s.caches := (congrArg State.caches (State.setJob_mk s j x)).trans rfl
@[simp] theorem State.setJob_upds (s : State) (j : Nat) (x : Job) : (s.setJob j x).upds = s.upds := (congrArg State.upds (State.setJob_mk s j x)).trans rfl
@[simp] theorem State.setJob_ovf (s : State) (j : Nat) (x : Job) : (s.setJob j x).ovf = s.ovf := (congrArg State.ovf (State.setJob_mk s j x)).trans rfl
@[simp] theorem State.setJob_recipes (s : State) (j : Nat) (x : Job) : (s.setJob j x).recipes = s.recipes := (congrArg State.recipes (State.setJob_mk s j x)).trans rfl
@[simp] theorem State.setJob_recipeLoad (s : State) (j : Nat) (x : Job) : (s.setJob j x).recipeLoad = s.recipeLoad := (congrArg State.recipeLoad (State.setJob_mk s j x)).trans rfl
@[simp] theorem State.setJob_ports (s : State) (j : Nat) (x : Job) : (s.setJob j x).ports = s.ports := (congrArg State.ports (State.setJob_mk s j x)).trans rfl
@[simp] theorem State.setJob_route (s : State) (j : Nat) (x : Job) : (s.setJob j x).route = s.route := (congrArg State.route (State.setJob_mk s j x)).trans rfl
@[simp] theorem State.setJob_keytab (s : State) (j : Nat) (x : Job) : (s.setJob j x).keytab = s.keytab := (congrArg State.keytab (State.setJob_mk s j x)).trans rfl
@[simp] theorem State.setJob_wmap (s : State) (j : Nat) (x : Job) : (s.setJob j x).wmap = s.wmap := (congrArg State.wmap (State.setJob_mk s j x)).trans rfl
@[simp] theorem State.setJob_wmapLoad (s : State) (j : Nat) (x : Job) : (s.setJob j x).wmapLoad = s.wmapLoad := (congrArg State.wmapLoad (State.setJob_mk s j x)).trans rfl
@[simp] theorem State.setJob_colls (s : State) (j : Nat) (x : Job) : (s.setJob j x).colls = s.colls := (congrArg State.colls (State.setJob_mk s j x)).trans rfl
@[simp] theorem State.setJob_readys (s : State) (j : Nat) (x : Job) : (s.setJob j x).readys = s.readys := (congrArg State.readys (State.setJob_mk s j x)).trans rfl
@[simp] theorem State.setJob_readds (s : State) (j : Nat) (x : Job) : (s.setJob j x).readds = s.readds := (congrArg State.readds (State.setJob_mk s j x)).trans rfl
@[simp] theorem State.setJob_looped (s : State) (j : Nat) (x : Job) : (s.setJob j x).looped = s.looped := (congrArg State.looped (State.setJob_mk s j x)).trans rfl
@[simp] theorem State.setJob_sramScrub (s : State) (j : Nat) (x : Job) : (s.setJob j x).sramScrub = s.sramScrub := (congrArg State.sramScrub (State.setJob_mk s j x)).trans rfl
@[simp] theorem State.setJob_twin (s : State) (j : Nat) (x : Job) : (s.setJob j x).twin = s.twin := (congrArg State.twin (State.setJob_mk s j x)).trans rfl
@[simp] theorem State.setJob_slots (s : State) (j : Nat) (x : Job) : (s.setJob j x).slots = s.slots := (congrArg State.slots (State.setJob_mk s j x)).trans rfl
@[simp] theorem State.setJob_seatLoad (s : State) (j : Nat) (x : Job) : (s.setJob j x).seatLoad = s.seatLoad := (congrArg State.seatLoad (State.setJob_mk s j x)).trans rfl
@[simp] theorem State.setJob_unison (s : State) (j : Nat) (x : Job) : (s.setJob j x).unison = s.unison := (congrArg State.unison (State.setJob_mk s j x)).trans rfl
@[simp] theorem State.setJob_tune (s : State) (j : Nat) (x : Job) : (s.setJob j x).tune = s.tune := (congrArg State.tune (State.setJob_mk s j x)).trans rfl
@[simp] theorem State.setJob_log (s : State) (j : Nat) (x : Job) : (s.setJob j x).log = s.log := (congrArg State.log (State.setJob_mk s j x)).trans rfl
@[simp] theorem State.setJob_logHead (s : State) (j : Nat) (x : Job) : (s.setJob j x).logHead = s.logHead := (congrArg State.logHead (State.setJob_mk s j x)).trans rfl
@[simp] theorem State.setJob_dies (s : State) (j : Nat) (x : Job) : (s.setJob j x).dies = s.dies := (congrArg State.dies (State.setJob_mk s j x)).trans rfl
@[simp] theorem State.setJob_links (s : State) (j : Nat) (x : Job) : (s.setJob j x).links = s.links := (congrArg State.links (State.setJob_mk s j x)).trans rfl
@[simp] theorem State.setJob_bundles (s : State) (j : Nat) (x : Job) : (s.setJob j x).bundles = s.bundles := (congrArg State.bundles (State.setJob_mk s j x)).trans rfl
@[simp] theorem State.setJob_lanes (s : State) (j : Nat) (x : Job) : (s.setJob j x).lanes = s.lanes := (congrArg State.lanes (State.setJob_mk s j x)).trans rfl
@[simp] theorem State.setJob_pwr (s : State) (j : Nat) (x : Job) : (s.setJob j x).pwr = s.pwr := (congrArg State.pwr (State.setJob_mk s j x)).trans rfl
@[simp] theorem State.setJob_start (s : State) (j : Nat) (x : Job) : (s.setJob j x).start = s.start := (congrArg State.start (State.setJob_mk s j x)).trans rfl
@[simp] theorem State.setJob_flash (s : State) (j : Nat) (x : Job) : (s.setJob j x).flash = s.flash := (congrArg State.flash (State.setJob_mk s j x)).trans rfl
@[simp] theorem State.setJob_sessions (s : State) (j : Nat) (x : Job) : (s.setJob j x).sessions = s.sessions := (congrArg State.sessions (State.setJob_mk s j x)).trans rfl
@[simp] theorem State.setJob_fw (s : State) (j : Nat) (x : Job) : (s.setJob j x).fw = s.fw := (congrArg State.fw (State.setJob_mk s j x)).trans rfl
@[simp] theorem State.setJob_spdm (s : State) (j : Nat) (x : Job) : (s.setJob j x).spdm = s.spdm := (congrArg State.spdm (State.setJob_mk s j x)).trans rfl
@[simp] theorem State.setJob_cxl (s : State) (j : Nat) (x : Job) : (s.setJob j x).cxl = s.cxl := (congrArg State.cxl (State.setJob_mk s j x)).trans rfl
@[simp] theorem State.setJob_nextReq (s : State) (j : Nat) (x : Job) : (s.setJob j x).nextReq = s.nextReq := (congrArg State.nextReq (State.setJob_mk s j x)).trans rfl
@[simp] theorem State.setJob_free (s : State) (j : Nat) (x : Job) : (s.setJob j x).free = s.free := (congrArg State.free (State.setJob_mk s j x)).trans rfl
@[simp] theorem State.setJob_out (s : State) (j : Nat) (x : Job) : (s.setJob j x).out = s.out := (congrArg State.out (State.setJob_mk s j x)).trans rfl

theorem State.setRegion_mk (s : State) (j r : Nat) (x : Region) : s.setRegion j r x = { s with regions := SMap.set regionDefault s.regions (j * 64 + r) x } := rfl

@[simp] theorem State.setRegion_pending (s : State) (j r : Nat) (x : Region) : (s.setRegion j r x).pending = s.pending := (congrArg State.pending (State.setRegion_mk s j r x)).trans rfl
@[simp] theorem State.setRegion_regs (s : State) (j r : Nat) (x : Region) : (s.setRegion j r x).regs = s.regs := (congrArg State.regs (State.setRegion_mk s j r x)).trans rfl
@[simp] theorem State.setRegion_latches (s : State) (j r : Nat) (x : Region) : (s.setRegion j r x).latches = s.latches := (congrArg State.latches (State.setRegion_mk s j r x)).trans rfl
@[simp] theorem State.setRegion_heldLo (s : State) (j r : Nat) (x : Region) : (s.setRegion j r x).heldLo = s.heldLo := (congrArg State.heldLo (State.setRegion_mk s j r x)).trans rfl
@[simp] theorem State.setRegion_mem (s : State) (j r : Nat) (x : Region) : (s.setRegion j r x).mem = s.mem := (congrArg State.mem (State.setRegion_mk s j r x)).trans rfl
@[simp] theorem State.setRegion_streams (s : State) (j r : Nat) (x : Region) : (s.setRegion j r x).streams = s.streams := (congrArg State.streams (State.setRegion_mk s j r x)).trans rfl
@[simp] theorem State.setRegion_jobs (s : State) (j r : Nat) (x : Region) : (s.setRegion j r x).jobs = s.jobs := (congrArg State.jobs (State.setRegion_mk s j r x)).trans rfl
@[simp] theorem State.setRegion_engines (s : State) (j r : Nat) (x : Region) : (s.setRegion j r x).engines = s.engines := (congrArg State.engines (State.setRegion_mk s j r x)).trans rfl
@[simp] theorem State.setRegion_arrays (s : State) (j r : Nat) (x : Region) : (s.setRegion j r x).arrays = s.arrays := (congrArg State.arrays (State.setRegion_mk s j r x)).trans rfl
@[simp] theorem State.setRegion_chucks (s : State) (j r : Nat) (x : Region) : (s.setRegion j r x).chucks = s.chucks := (congrArg State.chucks (State.setRegion_mk s j r x)).trans rfl
@[simp] theorem State.setRegion_waiting (s : State) (j r : Nat) (x : Region) : (s.setRegion j r x).waiting = s.waiting := (congrArg State.waiting (State.setRegion_mk s j r x)).trans rfl
@[simp] theorem State.setRegion_caches (s : State) (j r : Nat) (x : Region) : (s.setRegion j r x).caches = s.caches := (congrArg State.caches (State.setRegion_mk s j r x)).trans rfl
@[simp] theorem State.setRegion_upds (s : State) (j r : Nat) (x : Region) : (s.setRegion j r x).upds = s.upds := (congrArg State.upds (State.setRegion_mk s j r x)).trans rfl
@[simp] theorem State.setRegion_ovf (s : State) (j r : Nat) (x : Region) : (s.setRegion j r x).ovf = s.ovf := (congrArg State.ovf (State.setRegion_mk s j r x)).trans rfl
@[simp] theorem State.setRegion_recipes (s : State) (j r : Nat) (x : Region) : (s.setRegion j r x).recipes = s.recipes := (congrArg State.recipes (State.setRegion_mk s j r x)).trans rfl
@[simp] theorem State.setRegion_recipeLoad (s : State) (j r : Nat) (x : Region) : (s.setRegion j r x).recipeLoad = s.recipeLoad := (congrArg State.recipeLoad (State.setRegion_mk s j r x)).trans rfl
@[simp] theorem State.setRegion_ports (s : State) (j r : Nat) (x : Region) : (s.setRegion j r x).ports = s.ports := (congrArg State.ports (State.setRegion_mk s j r x)).trans rfl
@[simp] theorem State.setRegion_route (s : State) (j r : Nat) (x : Region) : (s.setRegion j r x).route = s.route := (congrArg State.route (State.setRegion_mk s j r x)).trans rfl
@[simp] theorem State.setRegion_keytab (s : State) (j r : Nat) (x : Region) : (s.setRegion j r x).keytab = s.keytab := (congrArg State.keytab (State.setRegion_mk s j r x)).trans rfl
@[simp] theorem State.setRegion_wmap (s : State) (j r : Nat) (x : Region) : (s.setRegion j r x).wmap = s.wmap := (congrArg State.wmap (State.setRegion_mk s j r x)).trans rfl
@[simp] theorem State.setRegion_wmapLoad (s : State) (j r : Nat) (x : Region) : (s.setRegion j r x).wmapLoad = s.wmapLoad := (congrArg State.wmapLoad (State.setRegion_mk s j r x)).trans rfl
@[simp] theorem State.setRegion_colls (s : State) (j r : Nat) (x : Region) : (s.setRegion j r x).colls = s.colls := (congrArg State.colls (State.setRegion_mk s j r x)).trans rfl
@[simp] theorem State.setRegion_readys (s : State) (j r : Nat) (x : Region) : (s.setRegion j r x).readys = s.readys := (congrArg State.readys (State.setRegion_mk s j r x)).trans rfl
@[simp] theorem State.setRegion_readds (s : State) (j r : Nat) (x : Region) : (s.setRegion j r x).readds = s.readds := (congrArg State.readds (State.setRegion_mk s j r x)).trans rfl
@[simp] theorem State.setRegion_looped (s : State) (j r : Nat) (x : Region) : (s.setRegion j r x).looped = s.looped := (congrArg State.looped (State.setRegion_mk s j r x)).trans rfl
@[simp] theorem State.setRegion_sramScrub (s : State) (j r : Nat) (x : Region) : (s.setRegion j r x).sramScrub = s.sramScrub := (congrArg State.sramScrub (State.setRegion_mk s j r x)).trans rfl
@[simp] theorem State.setRegion_twin (s : State) (j r : Nat) (x : Region) : (s.setRegion j r x).twin = s.twin := (congrArg State.twin (State.setRegion_mk s j r x)).trans rfl
@[simp] theorem State.setRegion_slots (s : State) (j r : Nat) (x : Region) : (s.setRegion j r x).slots = s.slots := (congrArg State.slots (State.setRegion_mk s j r x)).trans rfl
@[simp] theorem State.setRegion_seatLoad (s : State) (j r : Nat) (x : Region) : (s.setRegion j r x).seatLoad = s.seatLoad := (congrArg State.seatLoad (State.setRegion_mk s j r x)).trans rfl
@[simp] theorem State.setRegion_unison (s : State) (j r : Nat) (x : Region) : (s.setRegion j r x).unison = s.unison := (congrArg State.unison (State.setRegion_mk s j r x)).trans rfl
@[simp] theorem State.setRegion_tune (s : State) (j r : Nat) (x : Region) : (s.setRegion j r x).tune = s.tune := (congrArg State.tune (State.setRegion_mk s j r x)).trans rfl
@[simp] theorem State.setRegion_log (s : State) (j r : Nat) (x : Region) : (s.setRegion j r x).log = s.log := (congrArg State.log (State.setRegion_mk s j r x)).trans rfl
@[simp] theorem State.setRegion_logHead (s : State) (j r : Nat) (x : Region) : (s.setRegion j r x).logHead = s.logHead := (congrArg State.logHead (State.setRegion_mk s j r x)).trans rfl
@[simp] theorem State.setRegion_dies (s : State) (j r : Nat) (x : Region) : (s.setRegion j r x).dies = s.dies := (congrArg State.dies (State.setRegion_mk s j r x)).trans rfl
@[simp] theorem State.setRegion_links (s : State) (j r : Nat) (x : Region) : (s.setRegion j r x).links = s.links := (congrArg State.links (State.setRegion_mk s j r x)).trans rfl
@[simp] theorem State.setRegion_bundles (s : State) (j r : Nat) (x : Region) : (s.setRegion j r x).bundles = s.bundles := (congrArg State.bundles (State.setRegion_mk s j r x)).trans rfl
@[simp] theorem State.setRegion_lanes (s : State) (j r : Nat) (x : Region) : (s.setRegion j r x).lanes = s.lanes := (congrArg State.lanes (State.setRegion_mk s j r x)).trans rfl
@[simp] theorem State.setRegion_pwr (s : State) (j r : Nat) (x : Region) : (s.setRegion j r x).pwr = s.pwr := (congrArg State.pwr (State.setRegion_mk s j r x)).trans rfl
@[simp] theorem State.setRegion_start (s : State) (j r : Nat) (x : Region) : (s.setRegion j r x).start = s.start := (congrArg State.start (State.setRegion_mk s j r x)).trans rfl
@[simp] theorem State.setRegion_flash (s : State) (j r : Nat) (x : Region) : (s.setRegion j r x).flash = s.flash := (congrArg State.flash (State.setRegion_mk s j r x)).trans rfl
@[simp] theorem State.setRegion_sessions (s : State) (j r : Nat) (x : Region) : (s.setRegion j r x).sessions = s.sessions := (congrArg State.sessions (State.setRegion_mk s j r x)).trans rfl
@[simp] theorem State.setRegion_fw (s : State) (j r : Nat) (x : Region) : (s.setRegion j r x).fw = s.fw := (congrArg State.fw (State.setRegion_mk s j r x)).trans rfl
@[simp] theorem State.setRegion_spdm (s : State) (j r : Nat) (x : Region) : (s.setRegion j r x).spdm = s.spdm := (congrArg State.spdm (State.setRegion_mk s j r x)).trans rfl
@[simp] theorem State.setRegion_cxl (s : State) (j r : Nat) (x : Region) : (s.setRegion j r x).cxl = s.cxl := (congrArg State.cxl (State.setRegion_mk s j r x)).trans rfl
@[simp] theorem State.setRegion_nextReq (s : State) (j r : Nat) (x : Region) : (s.setRegion j r x).nextReq = s.nextReq := (congrArg State.nextReq (State.setRegion_mk s j r x)).trans rfl
@[simp] theorem State.setRegion_free (s : State) (j r : Nat) (x : Region) : (s.setRegion j r x).free = s.free := (congrArg State.free (State.setRegion_mk s j r x)).trans rfl
@[simp] theorem State.setRegion_out (s : State) (j r : Nat) (x : Region) : (s.setRegion j r x).out = s.out := (congrArg State.out (State.setRegion_mk s j r x)).trans rfl

theorem State.setEngine_mk (s : State) (u : Nat) (x : Engine) : s.setEngine u x = { s with engines := SMap.set engineDefault s.engines u x } := rfl

@[simp] theorem State.setEngine_pending (s : State) (u : Nat) (x : Engine) : (s.setEngine u x).pending = s.pending := (congrArg State.pending (State.setEngine_mk s u x)).trans rfl
@[simp] theorem State.setEngine_regs (s : State) (u : Nat) (x : Engine) : (s.setEngine u x).regs = s.regs := (congrArg State.regs (State.setEngine_mk s u x)).trans rfl
@[simp] theorem State.setEngine_latches (s : State) (u : Nat) (x : Engine) : (s.setEngine u x).latches = s.latches := (congrArg State.latches (State.setEngine_mk s u x)).trans rfl
@[simp] theorem State.setEngine_heldLo (s : State) (u : Nat) (x : Engine) : (s.setEngine u x).heldLo = s.heldLo := (congrArg State.heldLo (State.setEngine_mk s u x)).trans rfl
@[simp] theorem State.setEngine_mem (s : State) (u : Nat) (x : Engine) : (s.setEngine u x).mem = s.mem := (congrArg State.mem (State.setEngine_mk s u x)).trans rfl
@[simp] theorem State.setEngine_streams (s : State) (u : Nat) (x : Engine) : (s.setEngine u x).streams = s.streams := (congrArg State.streams (State.setEngine_mk s u x)).trans rfl
@[simp] theorem State.setEngine_jobs (s : State) (u : Nat) (x : Engine) : (s.setEngine u x).jobs = s.jobs := (congrArg State.jobs (State.setEngine_mk s u x)).trans rfl
@[simp] theorem State.setEngine_regions (s : State) (u : Nat) (x : Engine) : (s.setEngine u x).regions = s.regions := (congrArg State.regions (State.setEngine_mk s u x)).trans rfl
@[simp] theorem State.setEngine_arrays (s : State) (u : Nat) (x : Engine) : (s.setEngine u x).arrays = s.arrays := (congrArg State.arrays (State.setEngine_mk s u x)).trans rfl
@[simp] theorem State.setEngine_chucks (s : State) (u : Nat) (x : Engine) : (s.setEngine u x).chucks = s.chucks := (congrArg State.chucks (State.setEngine_mk s u x)).trans rfl
@[simp] theorem State.setEngine_waiting (s : State) (u : Nat) (x : Engine) : (s.setEngine u x).waiting = s.waiting := (congrArg State.waiting (State.setEngine_mk s u x)).trans rfl
@[simp] theorem State.setEngine_caches (s : State) (u : Nat) (x : Engine) : (s.setEngine u x).caches = s.caches := (congrArg State.caches (State.setEngine_mk s u x)).trans rfl
@[simp] theorem State.setEngine_upds (s : State) (u : Nat) (x : Engine) : (s.setEngine u x).upds = s.upds := (congrArg State.upds (State.setEngine_mk s u x)).trans rfl
@[simp] theorem State.setEngine_ovf (s : State) (u : Nat) (x : Engine) : (s.setEngine u x).ovf = s.ovf := (congrArg State.ovf (State.setEngine_mk s u x)).trans rfl
@[simp] theorem State.setEngine_recipes (s : State) (u : Nat) (x : Engine) : (s.setEngine u x).recipes = s.recipes := (congrArg State.recipes (State.setEngine_mk s u x)).trans rfl
@[simp] theorem State.setEngine_recipeLoad (s : State) (u : Nat) (x : Engine) : (s.setEngine u x).recipeLoad = s.recipeLoad := (congrArg State.recipeLoad (State.setEngine_mk s u x)).trans rfl
@[simp] theorem State.setEngine_ports (s : State) (u : Nat) (x : Engine) : (s.setEngine u x).ports = s.ports := (congrArg State.ports (State.setEngine_mk s u x)).trans rfl
@[simp] theorem State.setEngine_route (s : State) (u : Nat) (x : Engine) : (s.setEngine u x).route = s.route := (congrArg State.route (State.setEngine_mk s u x)).trans rfl
@[simp] theorem State.setEngine_keytab (s : State) (u : Nat) (x : Engine) : (s.setEngine u x).keytab = s.keytab := (congrArg State.keytab (State.setEngine_mk s u x)).trans rfl
@[simp] theorem State.setEngine_wmap (s : State) (u : Nat) (x : Engine) : (s.setEngine u x).wmap = s.wmap := (congrArg State.wmap (State.setEngine_mk s u x)).trans rfl
@[simp] theorem State.setEngine_wmapLoad (s : State) (u : Nat) (x : Engine) : (s.setEngine u x).wmapLoad = s.wmapLoad := (congrArg State.wmapLoad (State.setEngine_mk s u x)).trans rfl
@[simp] theorem State.setEngine_colls (s : State) (u : Nat) (x : Engine) : (s.setEngine u x).colls = s.colls := (congrArg State.colls (State.setEngine_mk s u x)).trans rfl
@[simp] theorem State.setEngine_readys (s : State) (u : Nat) (x : Engine) : (s.setEngine u x).readys = s.readys := (congrArg State.readys (State.setEngine_mk s u x)).trans rfl
@[simp] theorem State.setEngine_readds (s : State) (u : Nat) (x : Engine) : (s.setEngine u x).readds = s.readds := (congrArg State.readds (State.setEngine_mk s u x)).trans rfl
@[simp] theorem State.setEngine_looped (s : State) (u : Nat) (x : Engine) : (s.setEngine u x).looped = s.looped := (congrArg State.looped (State.setEngine_mk s u x)).trans rfl
@[simp] theorem State.setEngine_sramScrub (s : State) (u : Nat) (x : Engine) : (s.setEngine u x).sramScrub = s.sramScrub := (congrArg State.sramScrub (State.setEngine_mk s u x)).trans rfl
@[simp] theorem State.setEngine_twin (s : State) (u : Nat) (x : Engine) : (s.setEngine u x).twin = s.twin := (congrArg State.twin (State.setEngine_mk s u x)).trans rfl
@[simp] theorem State.setEngine_slots (s : State) (u : Nat) (x : Engine) : (s.setEngine u x).slots = s.slots := (congrArg State.slots (State.setEngine_mk s u x)).trans rfl
@[simp] theorem State.setEngine_seatLoad (s : State) (u : Nat) (x : Engine) : (s.setEngine u x).seatLoad = s.seatLoad := (congrArg State.seatLoad (State.setEngine_mk s u x)).trans rfl
@[simp] theorem State.setEngine_unison (s : State) (u : Nat) (x : Engine) : (s.setEngine u x).unison = s.unison := (congrArg State.unison (State.setEngine_mk s u x)).trans rfl
@[simp] theorem State.setEngine_tune (s : State) (u : Nat) (x : Engine) : (s.setEngine u x).tune = s.tune := (congrArg State.tune (State.setEngine_mk s u x)).trans rfl
@[simp] theorem State.setEngine_log (s : State) (u : Nat) (x : Engine) : (s.setEngine u x).log = s.log := (congrArg State.log (State.setEngine_mk s u x)).trans rfl
@[simp] theorem State.setEngine_logHead (s : State) (u : Nat) (x : Engine) : (s.setEngine u x).logHead = s.logHead := (congrArg State.logHead (State.setEngine_mk s u x)).trans rfl
@[simp] theorem State.setEngine_dies (s : State) (u : Nat) (x : Engine) : (s.setEngine u x).dies = s.dies := (congrArg State.dies (State.setEngine_mk s u x)).trans rfl
@[simp] theorem State.setEngine_links (s : State) (u : Nat) (x : Engine) : (s.setEngine u x).links = s.links := (congrArg State.links (State.setEngine_mk s u x)).trans rfl
@[simp] theorem State.setEngine_bundles (s : State) (u : Nat) (x : Engine) : (s.setEngine u x).bundles = s.bundles := (congrArg State.bundles (State.setEngine_mk s u x)).trans rfl
@[simp] theorem State.setEngine_lanes (s : State) (u : Nat) (x : Engine) : (s.setEngine u x).lanes = s.lanes := (congrArg State.lanes (State.setEngine_mk s u x)).trans rfl
@[simp] theorem State.setEngine_pwr (s : State) (u : Nat) (x : Engine) : (s.setEngine u x).pwr = s.pwr := (congrArg State.pwr (State.setEngine_mk s u x)).trans rfl
@[simp] theorem State.setEngine_start (s : State) (u : Nat) (x : Engine) : (s.setEngine u x).start = s.start := (congrArg State.start (State.setEngine_mk s u x)).trans rfl
@[simp] theorem State.setEngine_flash (s : State) (u : Nat) (x : Engine) : (s.setEngine u x).flash = s.flash := (congrArg State.flash (State.setEngine_mk s u x)).trans rfl
@[simp] theorem State.setEngine_sessions (s : State) (u : Nat) (x : Engine) : (s.setEngine u x).sessions = s.sessions := (congrArg State.sessions (State.setEngine_mk s u x)).trans rfl
@[simp] theorem State.setEngine_fw (s : State) (u : Nat) (x : Engine) : (s.setEngine u x).fw = s.fw := (congrArg State.fw (State.setEngine_mk s u x)).trans rfl
@[simp] theorem State.setEngine_spdm (s : State) (u : Nat) (x : Engine) : (s.setEngine u x).spdm = s.spdm := (congrArg State.spdm (State.setEngine_mk s u x)).trans rfl
@[simp] theorem State.setEngine_cxl (s : State) (u : Nat) (x : Engine) : (s.setEngine u x).cxl = s.cxl := (congrArg State.cxl (State.setEngine_mk s u x)).trans rfl
@[simp] theorem State.setEngine_nextReq (s : State) (u : Nat) (x : Engine) : (s.setEngine u x).nextReq = s.nextReq := (congrArg State.nextReq (State.setEngine_mk s u x)).trans rfl
@[simp] theorem State.setEngine_free (s : State) (u : Nat) (x : Engine) : (s.setEngine u x).free = s.free := (congrArg State.free (State.setEngine_mk s u x)).trans rfl
@[simp] theorem State.setEngine_out (s : State) (u : Nat) (x : Engine) : (s.setEngine u x).out = s.out := (congrArg State.out (State.setEngine_mk s u x)).trans rfl

theorem State.setArray_mk (s : State) (c : Nat) (x : ArraySt) : s.setArray c x = { s with arrays := SMap.set arrayDefault s.arrays c x } := rfl

@[simp] theorem State.setArray_pending (s : State) (c : Nat) (x : ArraySt) : (s.setArray c x).pending = s.pending := (congrArg State.pending (State.setArray_mk s c x)).trans rfl
@[simp] theorem State.setArray_regs (s : State) (c : Nat) (x : ArraySt) : (s.setArray c x).regs = s.regs := (congrArg State.regs (State.setArray_mk s c x)).trans rfl
@[simp] theorem State.setArray_latches (s : State) (c : Nat) (x : ArraySt) : (s.setArray c x).latches = s.latches := (congrArg State.latches (State.setArray_mk s c x)).trans rfl
@[simp] theorem State.setArray_heldLo (s : State) (c : Nat) (x : ArraySt) : (s.setArray c x).heldLo = s.heldLo := (congrArg State.heldLo (State.setArray_mk s c x)).trans rfl
@[simp] theorem State.setArray_mem (s : State) (c : Nat) (x : ArraySt) : (s.setArray c x).mem = s.mem := (congrArg State.mem (State.setArray_mk s c x)).trans rfl
@[simp] theorem State.setArray_streams (s : State) (c : Nat) (x : ArraySt) : (s.setArray c x).streams = s.streams := (congrArg State.streams (State.setArray_mk s c x)).trans rfl
@[simp] theorem State.setArray_jobs (s : State) (c : Nat) (x : ArraySt) : (s.setArray c x).jobs = s.jobs := (congrArg State.jobs (State.setArray_mk s c x)).trans rfl
@[simp] theorem State.setArray_regions (s : State) (c : Nat) (x : ArraySt) : (s.setArray c x).regions = s.regions := (congrArg State.regions (State.setArray_mk s c x)).trans rfl
@[simp] theorem State.setArray_engines (s : State) (c : Nat) (x : ArraySt) : (s.setArray c x).engines = s.engines := (congrArg State.engines (State.setArray_mk s c x)).trans rfl
@[simp] theorem State.setArray_chucks (s : State) (c : Nat) (x : ArraySt) : (s.setArray c x).chucks = s.chucks := (congrArg State.chucks (State.setArray_mk s c x)).trans rfl
@[simp] theorem State.setArray_waiting (s : State) (c : Nat) (x : ArraySt) : (s.setArray c x).waiting = s.waiting := (congrArg State.waiting (State.setArray_mk s c x)).trans rfl
@[simp] theorem State.setArray_caches (s : State) (c : Nat) (x : ArraySt) : (s.setArray c x).caches = s.caches := (congrArg State.caches (State.setArray_mk s c x)).trans rfl
@[simp] theorem State.setArray_upds (s : State) (c : Nat) (x : ArraySt) : (s.setArray c x).upds = s.upds := (congrArg State.upds (State.setArray_mk s c x)).trans rfl
@[simp] theorem State.setArray_ovf (s : State) (c : Nat) (x : ArraySt) : (s.setArray c x).ovf = s.ovf := (congrArg State.ovf (State.setArray_mk s c x)).trans rfl
@[simp] theorem State.setArray_recipes (s : State) (c : Nat) (x : ArraySt) : (s.setArray c x).recipes = s.recipes := (congrArg State.recipes (State.setArray_mk s c x)).trans rfl
@[simp] theorem State.setArray_recipeLoad (s : State) (c : Nat) (x : ArraySt) : (s.setArray c x).recipeLoad = s.recipeLoad := (congrArg State.recipeLoad (State.setArray_mk s c x)).trans rfl
@[simp] theorem State.setArray_ports (s : State) (c : Nat) (x : ArraySt) : (s.setArray c x).ports = s.ports := (congrArg State.ports (State.setArray_mk s c x)).trans rfl
@[simp] theorem State.setArray_route (s : State) (c : Nat) (x : ArraySt) : (s.setArray c x).route = s.route := (congrArg State.route (State.setArray_mk s c x)).trans rfl
@[simp] theorem State.setArray_keytab (s : State) (c : Nat) (x : ArraySt) : (s.setArray c x).keytab = s.keytab := (congrArg State.keytab (State.setArray_mk s c x)).trans rfl
@[simp] theorem State.setArray_wmap (s : State) (c : Nat) (x : ArraySt) : (s.setArray c x).wmap = s.wmap := (congrArg State.wmap (State.setArray_mk s c x)).trans rfl
@[simp] theorem State.setArray_wmapLoad (s : State) (c : Nat) (x : ArraySt) : (s.setArray c x).wmapLoad = s.wmapLoad := (congrArg State.wmapLoad (State.setArray_mk s c x)).trans rfl
@[simp] theorem State.setArray_colls (s : State) (c : Nat) (x : ArraySt) : (s.setArray c x).colls = s.colls := (congrArg State.colls (State.setArray_mk s c x)).trans rfl
@[simp] theorem State.setArray_readys (s : State) (c : Nat) (x : ArraySt) : (s.setArray c x).readys = s.readys := (congrArg State.readys (State.setArray_mk s c x)).trans rfl
@[simp] theorem State.setArray_readds (s : State) (c : Nat) (x : ArraySt) : (s.setArray c x).readds = s.readds := (congrArg State.readds (State.setArray_mk s c x)).trans rfl
@[simp] theorem State.setArray_looped (s : State) (c : Nat) (x : ArraySt) : (s.setArray c x).looped = s.looped := (congrArg State.looped (State.setArray_mk s c x)).trans rfl
@[simp] theorem State.setArray_sramScrub (s : State) (c : Nat) (x : ArraySt) : (s.setArray c x).sramScrub = s.sramScrub := (congrArg State.sramScrub (State.setArray_mk s c x)).trans rfl
@[simp] theorem State.setArray_twin (s : State) (c : Nat) (x : ArraySt) : (s.setArray c x).twin = s.twin := (congrArg State.twin (State.setArray_mk s c x)).trans rfl
@[simp] theorem State.setArray_slots (s : State) (c : Nat) (x : ArraySt) : (s.setArray c x).slots = s.slots := (congrArg State.slots (State.setArray_mk s c x)).trans rfl
@[simp] theorem State.setArray_seatLoad (s : State) (c : Nat) (x : ArraySt) : (s.setArray c x).seatLoad = s.seatLoad := (congrArg State.seatLoad (State.setArray_mk s c x)).trans rfl
@[simp] theorem State.setArray_unison (s : State) (c : Nat) (x : ArraySt) : (s.setArray c x).unison = s.unison := (congrArg State.unison (State.setArray_mk s c x)).trans rfl
@[simp] theorem State.setArray_tune (s : State) (c : Nat) (x : ArraySt) : (s.setArray c x).tune = s.tune := (congrArg State.tune (State.setArray_mk s c x)).trans rfl
@[simp] theorem State.setArray_log (s : State) (c : Nat) (x : ArraySt) : (s.setArray c x).log = s.log := (congrArg State.log (State.setArray_mk s c x)).trans rfl
@[simp] theorem State.setArray_logHead (s : State) (c : Nat) (x : ArraySt) : (s.setArray c x).logHead = s.logHead := (congrArg State.logHead (State.setArray_mk s c x)).trans rfl
@[simp] theorem State.setArray_dies (s : State) (c : Nat) (x : ArraySt) : (s.setArray c x).dies = s.dies := (congrArg State.dies (State.setArray_mk s c x)).trans rfl
@[simp] theorem State.setArray_links (s : State) (c : Nat) (x : ArraySt) : (s.setArray c x).links = s.links := (congrArg State.links (State.setArray_mk s c x)).trans rfl
@[simp] theorem State.setArray_bundles (s : State) (c : Nat) (x : ArraySt) : (s.setArray c x).bundles = s.bundles := (congrArg State.bundles (State.setArray_mk s c x)).trans rfl
@[simp] theorem State.setArray_lanes (s : State) (c : Nat) (x : ArraySt) : (s.setArray c x).lanes = s.lanes := (congrArg State.lanes (State.setArray_mk s c x)).trans rfl
@[simp] theorem State.setArray_pwr (s : State) (c : Nat) (x : ArraySt) : (s.setArray c x).pwr = s.pwr := (congrArg State.pwr (State.setArray_mk s c x)).trans rfl
@[simp] theorem State.setArray_start (s : State) (c : Nat) (x : ArraySt) : (s.setArray c x).start = s.start := (congrArg State.start (State.setArray_mk s c x)).trans rfl
@[simp] theorem State.setArray_flash (s : State) (c : Nat) (x : ArraySt) : (s.setArray c x).flash = s.flash := (congrArg State.flash (State.setArray_mk s c x)).trans rfl
@[simp] theorem State.setArray_sessions (s : State) (c : Nat) (x : ArraySt) : (s.setArray c x).sessions = s.sessions := (congrArg State.sessions (State.setArray_mk s c x)).trans rfl
@[simp] theorem State.setArray_fw (s : State) (c : Nat) (x : ArraySt) : (s.setArray c x).fw = s.fw := (congrArg State.fw (State.setArray_mk s c x)).trans rfl
@[simp] theorem State.setArray_spdm (s : State) (c : Nat) (x : ArraySt) : (s.setArray c x).spdm = s.spdm := (congrArg State.spdm (State.setArray_mk s c x)).trans rfl
@[simp] theorem State.setArray_cxl (s : State) (c : Nat) (x : ArraySt) : (s.setArray c x).cxl = s.cxl := (congrArg State.cxl (State.setArray_mk s c x)).trans rfl
@[simp] theorem State.setArray_nextReq (s : State) (c : Nat) (x : ArraySt) : (s.setArray c x).nextReq = s.nextReq := (congrArg State.nextReq (State.setArray_mk s c x)).trans rfl
@[simp] theorem State.setArray_free (s : State) (c : Nat) (x : ArraySt) : (s.setArray c x).free = s.free := (congrArg State.free (State.setArray_mk s c x)).trans rfl
@[simp] theorem State.setArray_out (s : State) (c : Nat) (x : ArraySt) : (s.setArray c x).out = s.out := (congrArg State.out (State.setArray_mk s c x)).trans rfl

theorem State.setChuck_mk (s : State) (u : Nat) (x : ChuckPair) : s.setChuck u x = { s with chucks := SMap.set chuckDefault s.chucks u x } := rfl

@[simp] theorem State.setChuck_pending (s : State) (u : Nat) (x : ChuckPair) : (s.setChuck u x).pending = s.pending := (congrArg State.pending (State.setChuck_mk s u x)).trans rfl
@[simp] theorem State.setChuck_regs (s : State) (u : Nat) (x : ChuckPair) : (s.setChuck u x).regs = s.regs := (congrArg State.regs (State.setChuck_mk s u x)).trans rfl
@[simp] theorem State.setChuck_latches (s : State) (u : Nat) (x : ChuckPair) : (s.setChuck u x).latches = s.latches := (congrArg State.latches (State.setChuck_mk s u x)).trans rfl
@[simp] theorem State.setChuck_heldLo (s : State) (u : Nat) (x : ChuckPair) : (s.setChuck u x).heldLo = s.heldLo := (congrArg State.heldLo (State.setChuck_mk s u x)).trans rfl
@[simp] theorem State.setChuck_mem (s : State) (u : Nat) (x : ChuckPair) : (s.setChuck u x).mem = s.mem := (congrArg State.mem (State.setChuck_mk s u x)).trans rfl
@[simp] theorem State.setChuck_streams (s : State) (u : Nat) (x : ChuckPair) : (s.setChuck u x).streams = s.streams := (congrArg State.streams (State.setChuck_mk s u x)).trans rfl
@[simp] theorem State.setChuck_jobs (s : State) (u : Nat) (x : ChuckPair) : (s.setChuck u x).jobs = s.jobs := (congrArg State.jobs (State.setChuck_mk s u x)).trans rfl
@[simp] theorem State.setChuck_regions (s : State) (u : Nat) (x : ChuckPair) : (s.setChuck u x).regions = s.regions := (congrArg State.regions (State.setChuck_mk s u x)).trans rfl
@[simp] theorem State.setChuck_engines (s : State) (u : Nat) (x : ChuckPair) : (s.setChuck u x).engines = s.engines := (congrArg State.engines (State.setChuck_mk s u x)).trans rfl
@[simp] theorem State.setChuck_arrays (s : State) (u : Nat) (x : ChuckPair) : (s.setChuck u x).arrays = s.arrays := (congrArg State.arrays (State.setChuck_mk s u x)).trans rfl
@[simp] theorem State.setChuck_waiting (s : State) (u : Nat) (x : ChuckPair) : (s.setChuck u x).waiting = s.waiting := (congrArg State.waiting (State.setChuck_mk s u x)).trans rfl
@[simp] theorem State.setChuck_caches (s : State) (u : Nat) (x : ChuckPair) : (s.setChuck u x).caches = s.caches := (congrArg State.caches (State.setChuck_mk s u x)).trans rfl
@[simp] theorem State.setChuck_upds (s : State) (u : Nat) (x : ChuckPair) : (s.setChuck u x).upds = s.upds := (congrArg State.upds (State.setChuck_mk s u x)).trans rfl
@[simp] theorem State.setChuck_ovf (s : State) (u : Nat) (x : ChuckPair) : (s.setChuck u x).ovf = s.ovf := (congrArg State.ovf (State.setChuck_mk s u x)).trans rfl
@[simp] theorem State.setChuck_recipes (s : State) (u : Nat) (x : ChuckPair) : (s.setChuck u x).recipes = s.recipes := (congrArg State.recipes (State.setChuck_mk s u x)).trans rfl
@[simp] theorem State.setChuck_recipeLoad (s : State) (u : Nat) (x : ChuckPair) : (s.setChuck u x).recipeLoad = s.recipeLoad := (congrArg State.recipeLoad (State.setChuck_mk s u x)).trans rfl
@[simp] theorem State.setChuck_ports (s : State) (u : Nat) (x : ChuckPair) : (s.setChuck u x).ports = s.ports := (congrArg State.ports (State.setChuck_mk s u x)).trans rfl
@[simp] theorem State.setChuck_route (s : State) (u : Nat) (x : ChuckPair) : (s.setChuck u x).route = s.route := (congrArg State.route (State.setChuck_mk s u x)).trans rfl
@[simp] theorem State.setChuck_keytab (s : State) (u : Nat) (x : ChuckPair) : (s.setChuck u x).keytab = s.keytab := (congrArg State.keytab (State.setChuck_mk s u x)).trans rfl
@[simp] theorem State.setChuck_wmap (s : State) (u : Nat) (x : ChuckPair) : (s.setChuck u x).wmap = s.wmap := (congrArg State.wmap (State.setChuck_mk s u x)).trans rfl
@[simp] theorem State.setChuck_wmapLoad (s : State) (u : Nat) (x : ChuckPair) : (s.setChuck u x).wmapLoad = s.wmapLoad := (congrArg State.wmapLoad (State.setChuck_mk s u x)).trans rfl
@[simp] theorem State.setChuck_colls (s : State) (u : Nat) (x : ChuckPair) : (s.setChuck u x).colls = s.colls := (congrArg State.colls (State.setChuck_mk s u x)).trans rfl
@[simp] theorem State.setChuck_readys (s : State) (u : Nat) (x : ChuckPair) : (s.setChuck u x).readys = s.readys := (congrArg State.readys (State.setChuck_mk s u x)).trans rfl
@[simp] theorem State.setChuck_readds (s : State) (u : Nat) (x : ChuckPair) : (s.setChuck u x).readds = s.readds := (congrArg State.readds (State.setChuck_mk s u x)).trans rfl
@[simp] theorem State.setChuck_looped (s : State) (u : Nat) (x : ChuckPair) : (s.setChuck u x).looped = s.looped := (congrArg State.looped (State.setChuck_mk s u x)).trans rfl
@[simp] theorem State.setChuck_sramScrub (s : State) (u : Nat) (x : ChuckPair) : (s.setChuck u x).sramScrub = s.sramScrub := (congrArg State.sramScrub (State.setChuck_mk s u x)).trans rfl
@[simp] theorem State.setChuck_twin (s : State) (u : Nat) (x : ChuckPair) : (s.setChuck u x).twin = s.twin := (congrArg State.twin (State.setChuck_mk s u x)).trans rfl
@[simp] theorem State.setChuck_slots (s : State) (u : Nat) (x : ChuckPair) : (s.setChuck u x).slots = s.slots := (congrArg State.slots (State.setChuck_mk s u x)).trans rfl
@[simp] theorem State.setChuck_seatLoad (s : State) (u : Nat) (x : ChuckPair) : (s.setChuck u x).seatLoad = s.seatLoad := (congrArg State.seatLoad (State.setChuck_mk s u x)).trans rfl
@[simp] theorem State.setChuck_unison (s : State) (u : Nat) (x : ChuckPair) : (s.setChuck u x).unison = s.unison := (congrArg State.unison (State.setChuck_mk s u x)).trans rfl
@[simp] theorem State.setChuck_tune (s : State) (u : Nat) (x : ChuckPair) : (s.setChuck u x).tune = s.tune := (congrArg State.tune (State.setChuck_mk s u x)).trans rfl
@[simp] theorem State.setChuck_log (s : State) (u : Nat) (x : ChuckPair) : (s.setChuck u x).log = s.log := (congrArg State.log (State.setChuck_mk s u x)).trans rfl
@[simp] theorem State.setChuck_logHead (s : State) (u : Nat) (x : ChuckPair) : (s.setChuck u x).logHead = s.logHead := (congrArg State.logHead (State.setChuck_mk s u x)).trans rfl
@[simp] theorem State.setChuck_dies (s : State) (u : Nat) (x : ChuckPair) : (s.setChuck u x).dies = s.dies := (congrArg State.dies (State.setChuck_mk s u x)).trans rfl
@[simp] theorem State.setChuck_links (s : State) (u : Nat) (x : ChuckPair) : (s.setChuck u x).links = s.links := (congrArg State.links (State.setChuck_mk s u x)).trans rfl
@[simp] theorem State.setChuck_bundles (s : State) (u : Nat) (x : ChuckPair) : (s.setChuck u x).bundles = s.bundles := (congrArg State.bundles (State.setChuck_mk s u x)).trans rfl
@[simp] theorem State.setChuck_lanes (s : State) (u : Nat) (x : ChuckPair) : (s.setChuck u x).lanes = s.lanes := (congrArg State.lanes (State.setChuck_mk s u x)).trans rfl
@[simp] theorem State.setChuck_pwr (s : State) (u : Nat) (x : ChuckPair) : (s.setChuck u x).pwr = s.pwr := (congrArg State.pwr (State.setChuck_mk s u x)).trans rfl
@[simp] theorem State.setChuck_start (s : State) (u : Nat) (x : ChuckPair) : (s.setChuck u x).start = s.start := (congrArg State.start (State.setChuck_mk s u x)).trans rfl
@[simp] theorem State.setChuck_flash (s : State) (u : Nat) (x : ChuckPair) : (s.setChuck u x).flash = s.flash := (congrArg State.flash (State.setChuck_mk s u x)).trans rfl
@[simp] theorem State.setChuck_sessions (s : State) (u : Nat) (x : ChuckPair) : (s.setChuck u x).sessions = s.sessions := (congrArg State.sessions (State.setChuck_mk s u x)).trans rfl
@[simp] theorem State.setChuck_fw (s : State) (u : Nat) (x : ChuckPair) : (s.setChuck u x).fw = s.fw := (congrArg State.fw (State.setChuck_mk s u x)).trans rfl
@[simp] theorem State.setChuck_spdm (s : State) (u : Nat) (x : ChuckPair) : (s.setChuck u x).spdm = s.spdm := (congrArg State.spdm (State.setChuck_mk s u x)).trans rfl
@[simp] theorem State.setChuck_cxl (s : State) (u : Nat) (x : ChuckPair) : (s.setChuck u x).cxl = s.cxl := (congrArg State.cxl (State.setChuck_mk s u x)).trans rfl
@[simp] theorem State.setChuck_nextReq (s : State) (u : Nat) (x : ChuckPair) : (s.setChuck u x).nextReq = s.nextReq := (congrArg State.nextReq (State.setChuck_mk s u x)).trans rfl
@[simp] theorem State.setChuck_free (s : State) (u : Nat) (x : ChuckPair) : (s.setChuck u x).free = s.free := (congrArg State.free (State.setChuck_mk s u x)).trans rfl
@[simp] theorem State.setChuck_out (s : State) (u : Nat) (x : ChuckPair) : (s.setChuck u x).out = s.out := (congrArg State.out (State.setChuck_mk s u x)).trans rfl

theorem State.setPort_mk (s : State) (p : Nat) (x : Port) : s.setPort p x = { s with ports := SMap.set portDefault s.ports p x } := rfl

@[simp] theorem State.setPort_pending (s : State) (p : Nat) (x : Port) : (s.setPort p x).pending = s.pending := (congrArg State.pending (State.setPort_mk s p x)).trans rfl
@[simp] theorem State.setPort_regs (s : State) (p : Nat) (x : Port) : (s.setPort p x).regs = s.regs := (congrArg State.regs (State.setPort_mk s p x)).trans rfl
@[simp] theorem State.setPort_latches (s : State) (p : Nat) (x : Port) : (s.setPort p x).latches = s.latches := (congrArg State.latches (State.setPort_mk s p x)).trans rfl
@[simp] theorem State.setPort_heldLo (s : State) (p : Nat) (x : Port) : (s.setPort p x).heldLo = s.heldLo := (congrArg State.heldLo (State.setPort_mk s p x)).trans rfl
@[simp] theorem State.setPort_mem (s : State) (p : Nat) (x : Port) : (s.setPort p x).mem = s.mem := (congrArg State.mem (State.setPort_mk s p x)).trans rfl
@[simp] theorem State.setPort_streams (s : State) (p : Nat) (x : Port) : (s.setPort p x).streams = s.streams := (congrArg State.streams (State.setPort_mk s p x)).trans rfl
@[simp] theorem State.setPort_jobs (s : State) (p : Nat) (x : Port) : (s.setPort p x).jobs = s.jobs := (congrArg State.jobs (State.setPort_mk s p x)).trans rfl
@[simp] theorem State.setPort_regions (s : State) (p : Nat) (x : Port) : (s.setPort p x).regions = s.regions := (congrArg State.regions (State.setPort_mk s p x)).trans rfl
@[simp] theorem State.setPort_engines (s : State) (p : Nat) (x : Port) : (s.setPort p x).engines = s.engines := (congrArg State.engines (State.setPort_mk s p x)).trans rfl
@[simp] theorem State.setPort_arrays (s : State) (p : Nat) (x : Port) : (s.setPort p x).arrays = s.arrays := (congrArg State.arrays (State.setPort_mk s p x)).trans rfl
@[simp] theorem State.setPort_chucks (s : State) (p : Nat) (x : Port) : (s.setPort p x).chucks = s.chucks := (congrArg State.chucks (State.setPort_mk s p x)).trans rfl
@[simp] theorem State.setPort_waiting (s : State) (p : Nat) (x : Port) : (s.setPort p x).waiting = s.waiting := (congrArg State.waiting (State.setPort_mk s p x)).trans rfl
@[simp] theorem State.setPort_caches (s : State) (p : Nat) (x : Port) : (s.setPort p x).caches = s.caches := (congrArg State.caches (State.setPort_mk s p x)).trans rfl
@[simp] theorem State.setPort_upds (s : State) (p : Nat) (x : Port) : (s.setPort p x).upds = s.upds := (congrArg State.upds (State.setPort_mk s p x)).trans rfl
@[simp] theorem State.setPort_ovf (s : State) (p : Nat) (x : Port) : (s.setPort p x).ovf = s.ovf := (congrArg State.ovf (State.setPort_mk s p x)).trans rfl
@[simp] theorem State.setPort_recipes (s : State) (p : Nat) (x : Port) : (s.setPort p x).recipes = s.recipes := (congrArg State.recipes (State.setPort_mk s p x)).trans rfl
@[simp] theorem State.setPort_recipeLoad (s : State) (p : Nat) (x : Port) : (s.setPort p x).recipeLoad = s.recipeLoad := (congrArg State.recipeLoad (State.setPort_mk s p x)).trans rfl
@[simp] theorem State.setPort_route (s : State) (p : Nat) (x : Port) : (s.setPort p x).route = s.route := (congrArg State.route (State.setPort_mk s p x)).trans rfl
@[simp] theorem State.setPort_keytab (s : State) (p : Nat) (x : Port) : (s.setPort p x).keytab = s.keytab := (congrArg State.keytab (State.setPort_mk s p x)).trans rfl
@[simp] theorem State.setPort_wmap (s : State) (p : Nat) (x : Port) : (s.setPort p x).wmap = s.wmap := (congrArg State.wmap (State.setPort_mk s p x)).trans rfl
@[simp] theorem State.setPort_wmapLoad (s : State) (p : Nat) (x : Port) : (s.setPort p x).wmapLoad = s.wmapLoad := (congrArg State.wmapLoad (State.setPort_mk s p x)).trans rfl
@[simp] theorem State.setPort_colls (s : State) (p : Nat) (x : Port) : (s.setPort p x).colls = s.colls := (congrArg State.colls (State.setPort_mk s p x)).trans rfl
@[simp] theorem State.setPort_readys (s : State) (p : Nat) (x : Port) : (s.setPort p x).readys = s.readys := (congrArg State.readys (State.setPort_mk s p x)).trans rfl
@[simp] theorem State.setPort_readds (s : State) (p : Nat) (x : Port) : (s.setPort p x).readds = s.readds := (congrArg State.readds (State.setPort_mk s p x)).trans rfl
@[simp] theorem State.setPort_looped (s : State) (p : Nat) (x : Port) : (s.setPort p x).looped = s.looped := (congrArg State.looped (State.setPort_mk s p x)).trans rfl
@[simp] theorem State.setPort_sramScrub (s : State) (p : Nat) (x : Port) : (s.setPort p x).sramScrub = s.sramScrub := (congrArg State.sramScrub (State.setPort_mk s p x)).trans rfl
@[simp] theorem State.setPort_twin (s : State) (p : Nat) (x : Port) : (s.setPort p x).twin = s.twin := (congrArg State.twin (State.setPort_mk s p x)).trans rfl
@[simp] theorem State.setPort_slots (s : State) (p : Nat) (x : Port) : (s.setPort p x).slots = s.slots := (congrArg State.slots (State.setPort_mk s p x)).trans rfl
@[simp] theorem State.setPort_seatLoad (s : State) (p : Nat) (x : Port) : (s.setPort p x).seatLoad = s.seatLoad := (congrArg State.seatLoad (State.setPort_mk s p x)).trans rfl
@[simp] theorem State.setPort_unison (s : State) (p : Nat) (x : Port) : (s.setPort p x).unison = s.unison := (congrArg State.unison (State.setPort_mk s p x)).trans rfl
@[simp] theorem State.setPort_tune (s : State) (p : Nat) (x : Port) : (s.setPort p x).tune = s.tune := (congrArg State.tune (State.setPort_mk s p x)).trans rfl
@[simp] theorem State.setPort_log (s : State) (p : Nat) (x : Port) : (s.setPort p x).log = s.log := (congrArg State.log (State.setPort_mk s p x)).trans rfl
@[simp] theorem State.setPort_logHead (s : State) (p : Nat) (x : Port) : (s.setPort p x).logHead = s.logHead := (congrArg State.logHead (State.setPort_mk s p x)).trans rfl
@[simp] theorem State.setPort_dies (s : State) (p : Nat) (x : Port) : (s.setPort p x).dies = s.dies := (congrArg State.dies (State.setPort_mk s p x)).trans rfl
@[simp] theorem State.setPort_links (s : State) (p : Nat) (x : Port) : (s.setPort p x).links = s.links := (congrArg State.links (State.setPort_mk s p x)).trans rfl
@[simp] theorem State.setPort_bundles (s : State) (p : Nat) (x : Port) : (s.setPort p x).bundles = s.bundles := (congrArg State.bundles (State.setPort_mk s p x)).trans rfl
@[simp] theorem State.setPort_lanes (s : State) (p : Nat) (x : Port) : (s.setPort p x).lanes = s.lanes := (congrArg State.lanes (State.setPort_mk s p x)).trans rfl
@[simp] theorem State.setPort_pwr (s : State) (p : Nat) (x : Port) : (s.setPort p x).pwr = s.pwr := (congrArg State.pwr (State.setPort_mk s p x)).trans rfl
@[simp] theorem State.setPort_start (s : State) (p : Nat) (x : Port) : (s.setPort p x).start = s.start := (congrArg State.start (State.setPort_mk s p x)).trans rfl
@[simp] theorem State.setPort_flash (s : State) (p : Nat) (x : Port) : (s.setPort p x).flash = s.flash := (congrArg State.flash (State.setPort_mk s p x)).trans rfl
@[simp] theorem State.setPort_sessions (s : State) (p : Nat) (x : Port) : (s.setPort p x).sessions = s.sessions := (congrArg State.sessions (State.setPort_mk s p x)).trans rfl
@[simp] theorem State.setPort_fw (s : State) (p : Nat) (x : Port) : (s.setPort p x).fw = s.fw := (congrArg State.fw (State.setPort_mk s p x)).trans rfl
@[simp] theorem State.setPort_spdm (s : State) (p : Nat) (x : Port) : (s.setPort p x).spdm = s.spdm := (congrArg State.spdm (State.setPort_mk s p x)).trans rfl
@[simp] theorem State.setPort_cxl (s : State) (p : Nat) (x : Port) : (s.setPort p x).cxl = s.cxl := (congrArg State.cxl (State.setPort_mk s p x)).trans rfl
@[simp] theorem State.setPort_nextReq (s : State) (p : Nat) (x : Port) : (s.setPort p x).nextReq = s.nextReq := (congrArg State.nextReq (State.setPort_mk s p x)).trans rfl
@[simp] theorem State.setPort_free (s : State) (p : Nat) (x : Port) : (s.setPort p x).free = s.free := (congrArg State.free (State.setPort_mk s p x)).trans rfl
@[simp] theorem State.setPort_out (s : State) (p : Nat) (x : Port) : (s.setPort p x).out = s.out := (congrArg State.out (State.setPort_mk s p x)).trans rfl

theorem State.setSlot_mk (s : State) (i : Nat) (x : Slot) : s.setSlot i x = { s with slots := SMap.set slotDefault s.slots i x } := rfl

@[simp] theorem State.setSlot_pending (s : State) (i : Nat) (x : Slot) : (s.setSlot i x).pending = s.pending := (congrArg State.pending (State.setSlot_mk s i x)).trans rfl
@[simp] theorem State.setSlot_regs (s : State) (i : Nat) (x : Slot) : (s.setSlot i x).regs = s.regs := (congrArg State.regs (State.setSlot_mk s i x)).trans rfl
@[simp] theorem State.setSlot_latches (s : State) (i : Nat) (x : Slot) : (s.setSlot i x).latches = s.latches := (congrArg State.latches (State.setSlot_mk s i x)).trans rfl
@[simp] theorem State.setSlot_heldLo (s : State) (i : Nat) (x : Slot) : (s.setSlot i x).heldLo = s.heldLo := (congrArg State.heldLo (State.setSlot_mk s i x)).trans rfl
@[simp] theorem State.setSlot_mem (s : State) (i : Nat) (x : Slot) : (s.setSlot i x).mem = s.mem := (congrArg State.mem (State.setSlot_mk s i x)).trans rfl
@[simp] theorem State.setSlot_streams (s : State) (i : Nat) (x : Slot) : (s.setSlot i x).streams = s.streams := (congrArg State.streams (State.setSlot_mk s i x)).trans rfl
@[simp] theorem State.setSlot_jobs (s : State) (i : Nat) (x : Slot) : (s.setSlot i x).jobs = s.jobs := (congrArg State.jobs (State.setSlot_mk s i x)).trans rfl
@[simp] theorem State.setSlot_regions (s : State) (i : Nat) (x : Slot) : (s.setSlot i x).regions = s.regions := (congrArg State.regions (State.setSlot_mk s i x)).trans rfl
@[simp] theorem State.setSlot_engines (s : State) (i : Nat) (x : Slot) : (s.setSlot i x).engines = s.engines := (congrArg State.engines (State.setSlot_mk s i x)).trans rfl
@[simp] theorem State.setSlot_arrays (s : State) (i : Nat) (x : Slot) : (s.setSlot i x).arrays = s.arrays := (congrArg State.arrays (State.setSlot_mk s i x)).trans rfl
@[simp] theorem State.setSlot_chucks (s : State) (i : Nat) (x : Slot) : (s.setSlot i x).chucks = s.chucks := (congrArg State.chucks (State.setSlot_mk s i x)).trans rfl
@[simp] theorem State.setSlot_waiting (s : State) (i : Nat) (x : Slot) : (s.setSlot i x).waiting = s.waiting := (congrArg State.waiting (State.setSlot_mk s i x)).trans rfl
@[simp] theorem State.setSlot_caches (s : State) (i : Nat) (x : Slot) : (s.setSlot i x).caches = s.caches := (congrArg State.caches (State.setSlot_mk s i x)).trans rfl
@[simp] theorem State.setSlot_upds (s : State) (i : Nat) (x : Slot) : (s.setSlot i x).upds = s.upds := (congrArg State.upds (State.setSlot_mk s i x)).trans rfl
@[simp] theorem State.setSlot_ovf (s : State) (i : Nat) (x : Slot) : (s.setSlot i x).ovf = s.ovf := (congrArg State.ovf (State.setSlot_mk s i x)).trans rfl
@[simp] theorem State.setSlot_recipes (s : State) (i : Nat) (x : Slot) : (s.setSlot i x).recipes = s.recipes := (congrArg State.recipes (State.setSlot_mk s i x)).trans rfl
@[simp] theorem State.setSlot_recipeLoad (s : State) (i : Nat) (x : Slot) : (s.setSlot i x).recipeLoad = s.recipeLoad := (congrArg State.recipeLoad (State.setSlot_mk s i x)).trans rfl
@[simp] theorem State.setSlot_ports (s : State) (i : Nat) (x : Slot) : (s.setSlot i x).ports = s.ports := (congrArg State.ports (State.setSlot_mk s i x)).trans rfl
@[simp] theorem State.setSlot_route (s : State) (i : Nat) (x : Slot) : (s.setSlot i x).route = s.route := (congrArg State.route (State.setSlot_mk s i x)).trans rfl
@[simp] theorem State.setSlot_keytab (s : State) (i : Nat) (x : Slot) : (s.setSlot i x).keytab = s.keytab := (congrArg State.keytab (State.setSlot_mk s i x)).trans rfl
@[simp] theorem State.setSlot_wmap (s : State) (i : Nat) (x : Slot) : (s.setSlot i x).wmap = s.wmap := (congrArg State.wmap (State.setSlot_mk s i x)).trans rfl
@[simp] theorem State.setSlot_wmapLoad (s : State) (i : Nat) (x : Slot) : (s.setSlot i x).wmapLoad = s.wmapLoad := (congrArg State.wmapLoad (State.setSlot_mk s i x)).trans rfl
@[simp] theorem State.setSlot_colls (s : State) (i : Nat) (x : Slot) : (s.setSlot i x).colls = s.colls := (congrArg State.colls (State.setSlot_mk s i x)).trans rfl
@[simp] theorem State.setSlot_readys (s : State) (i : Nat) (x : Slot) : (s.setSlot i x).readys = s.readys := (congrArg State.readys (State.setSlot_mk s i x)).trans rfl
@[simp] theorem State.setSlot_readds (s : State) (i : Nat) (x : Slot) : (s.setSlot i x).readds = s.readds := (congrArg State.readds (State.setSlot_mk s i x)).trans rfl
@[simp] theorem State.setSlot_looped (s : State) (i : Nat) (x : Slot) : (s.setSlot i x).looped = s.looped := (congrArg State.looped (State.setSlot_mk s i x)).trans rfl
@[simp] theorem State.setSlot_sramScrub (s : State) (i : Nat) (x : Slot) : (s.setSlot i x).sramScrub = s.sramScrub := (congrArg State.sramScrub (State.setSlot_mk s i x)).trans rfl
@[simp] theorem State.setSlot_twin (s : State) (i : Nat) (x : Slot) : (s.setSlot i x).twin = s.twin := (congrArg State.twin (State.setSlot_mk s i x)).trans rfl
@[simp] theorem State.setSlot_seatLoad (s : State) (i : Nat) (x : Slot) : (s.setSlot i x).seatLoad = s.seatLoad := (congrArg State.seatLoad (State.setSlot_mk s i x)).trans rfl
@[simp] theorem State.setSlot_unison (s : State) (i : Nat) (x : Slot) : (s.setSlot i x).unison = s.unison := (congrArg State.unison (State.setSlot_mk s i x)).trans rfl
@[simp] theorem State.setSlot_tune (s : State) (i : Nat) (x : Slot) : (s.setSlot i x).tune = s.tune := (congrArg State.tune (State.setSlot_mk s i x)).trans rfl
@[simp] theorem State.setSlot_log (s : State) (i : Nat) (x : Slot) : (s.setSlot i x).log = s.log := (congrArg State.log (State.setSlot_mk s i x)).trans rfl
@[simp] theorem State.setSlot_logHead (s : State) (i : Nat) (x : Slot) : (s.setSlot i x).logHead = s.logHead := (congrArg State.logHead (State.setSlot_mk s i x)).trans rfl
@[simp] theorem State.setSlot_dies (s : State) (i : Nat) (x : Slot) : (s.setSlot i x).dies = s.dies := (congrArg State.dies (State.setSlot_mk s i x)).trans rfl
@[simp] theorem State.setSlot_links (s : State) (i : Nat) (x : Slot) : (s.setSlot i x).links = s.links := (congrArg State.links (State.setSlot_mk s i x)).trans rfl
@[simp] theorem State.setSlot_bundles (s : State) (i : Nat) (x : Slot) : (s.setSlot i x).bundles = s.bundles := (congrArg State.bundles (State.setSlot_mk s i x)).trans rfl
@[simp] theorem State.setSlot_lanes (s : State) (i : Nat) (x : Slot) : (s.setSlot i x).lanes = s.lanes := (congrArg State.lanes (State.setSlot_mk s i x)).trans rfl
@[simp] theorem State.setSlot_pwr (s : State) (i : Nat) (x : Slot) : (s.setSlot i x).pwr = s.pwr := (congrArg State.pwr (State.setSlot_mk s i x)).trans rfl
@[simp] theorem State.setSlot_start (s : State) (i : Nat) (x : Slot) : (s.setSlot i x).start = s.start := (congrArg State.start (State.setSlot_mk s i x)).trans rfl
@[simp] theorem State.setSlot_flash (s : State) (i : Nat) (x : Slot) : (s.setSlot i x).flash = s.flash := (congrArg State.flash (State.setSlot_mk s i x)).trans rfl
@[simp] theorem State.setSlot_sessions (s : State) (i : Nat) (x : Slot) : (s.setSlot i x).sessions = s.sessions := (congrArg State.sessions (State.setSlot_mk s i x)).trans rfl
@[simp] theorem State.setSlot_fw (s : State) (i : Nat) (x : Slot) : (s.setSlot i x).fw = s.fw := (congrArg State.fw (State.setSlot_mk s i x)).trans rfl
@[simp] theorem State.setSlot_spdm (s : State) (i : Nat) (x : Slot) : (s.setSlot i x).spdm = s.spdm := (congrArg State.spdm (State.setSlot_mk s i x)).trans rfl
@[simp] theorem State.setSlot_cxl (s : State) (i : Nat) (x : Slot) : (s.setSlot i x).cxl = s.cxl := (congrArg State.cxl (State.setSlot_mk s i x)).trans rfl
@[simp] theorem State.setSlot_nextReq (s : State) (i : Nat) (x : Slot) : (s.setSlot i x).nextReq = s.nextReq := (congrArg State.nextReq (State.setSlot_mk s i x)).trans rfl
@[simp] theorem State.setSlot_free (s : State) (i : Nat) (x : Slot) : (s.setSlot i x).free = s.free := (congrArg State.free (State.setSlot_mk s i x)).trans rfl
@[simp] theorem State.setSlot_out (s : State) (i : Nat) (x : Slot) : (s.setSlot i x).out = s.out := (congrArg State.out (State.setSlot_mk s i x)).trans rfl

theorem State.setTune_mk (s : State) (u : Nat) (x : TuneUnit) : s.setTune u x = { s with tune := SMap.set tuneDefault s.tune u x } := rfl

@[simp] theorem State.setTune_pending (s : State) (u : Nat) (x : TuneUnit) : (s.setTune u x).pending = s.pending := (congrArg State.pending (State.setTune_mk s u x)).trans rfl
@[simp] theorem State.setTune_regs (s : State) (u : Nat) (x : TuneUnit) : (s.setTune u x).regs = s.regs := (congrArg State.regs (State.setTune_mk s u x)).trans rfl
@[simp] theorem State.setTune_latches (s : State) (u : Nat) (x : TuneUnit) : (s.setTune u x).latches = s.latches := (congrArg State.latches (State.setTune_mk s u x)).trans rfl
@[simp] theorem State.setTune_heldLo (s : State) (u : Nat) (x : TuneUnit) : (s.setTune u x).heldLo = s.heldLo := (congrArg State.heldLo (State.setTune_mk s u x)).trans rfl
@[simp] theorem State.setTune_mem (s : State) (u : Nat) (x : TuneUnit) : (s.setTune u x).mem = s.mem := (congrArg State.mem (State.setTune_mk s u x)).trans rfl
@[simp] theorem State.setTune_streams (s : State) (u : Nat) (x : TuneUnit) : (s.setTune u x).streams = s.streams := (congrArg State.streams (State.setTune_mk s u x)).trans rfl
@[simp] theorem State.setTune_jobs (s : State) (u : Nat) (x : TuneUnit) : (s.setTune u x).jobs = s.jobs := (congrArg State.jobs (State.setTune_mk s u x)).trans rfl
@[simp] theorem State.setTune_regions (s : State) (u : Nat) (x : TuneUnit) : (s.setTune u x).regions = s.regions := (congrArg State.regions (State.setTune_mk s u x)).trans rfl
@[simp] theorem State.setTune_engines (s : State) (u : Nat) (x : TuneUnit) : (s.setTune u x).engines = s.engines := (congrArg State.engines (State.setTune_mk s u x)).trans rfl
@[simp] theorem State.setTune_arrays (s : State) (u : Nat) (x : TuneUnit) : (s.setTune u x).arrays = s.arrays := (congrArg State.arrays (State.setTune_mk s u x)).trans rfl
@[simp] theorem State.setTune_chucks (s : State) (u : Nat) (x : TuneUnit) : (s.setTune u x).chucks = s.chucks := (congrArg State.chucks (State.setTune_mk s u x)).trans rfl
@[simp] theorem State.setTune_waiting (s : State) (u : Nat) (x : TuneUnit) : (s.setTune u x).waiting = s.waiting := (congrArg State.waiting (State.setTune_mk s u x)).trans rfl
@[simp] theorem State.setTune_caches (s : State) (u : Nat) (x : TuneUnit) : (s.setTune u x).caches = s.caches := (congrArg State.caches (State.setTune_mk s u x)).trans rfl
@[simp] theorem State.setTune_upds (s : State) (u : Nat) (x : TuneUnit) : (s.setTune u x).upds = s.upds := (congrArg State.upds (State.setTune_mk s u x)).trans rfl
@[simp] theorem State.setTune_ovf (s : State) (u : Nat) (x : TuneUnit) : (s.setTune u x).ovf = s.ovf := (congrArg State.ovf (State.setTune_mk s u x)).trans rfl
@[simp] theorem State.setTune_recipes (s : State) (u : Nat) (x : TuneUnit) : (s.setTune u x).recipes = s.recipes := (congrArg State.recipes (State.setTune_mk s u x)).trans rfl
@[simp] theorem State.setTune_recipeLoad (s : State) (u : Nat) (x : TuneUnit) : (s.setTune u x).recipeLoad = s.recipeLoad := (congrArg State.recipeLoad (State.setTune_mk s u x)).trans rfl
@[simp] theorem State.setTune_ports (s : State) (u : Nat) (x : TuneUnit) : (s.setTune u x).ports = s.ports := (congrArg State.ports (State.setTune_mk s u x)).trans rfl
@[simp] theorem State.setTune_route (s : State) (u : Nat) (x : TuneUnit) : (s.setTune u x).route = s.route := (congrArg State.route (State.setTune_mk s u x)).trans rfl
@[simp] theorem State.setTune_keytab (s : State) (u : Nat) (x : TuneUnit) : (s.setTune u x).keytab = s.keytab := (congrArg State.keytab (State.setTune_mk s u x)).trans rfl
@[simp] theorem State.setTune_wmap (s : State) (u : Nat) (x : TuneUnit) : (s.setTune u x).wmap = s.wmap := (congrArg State.wmap (State.setTune_mk s u x)).trans rfl
@[simp] theorem State.setTune_wmapLoad (s : State) (u : Nat) (x : TuneUnit) : (s.setTune u x).wmapLoad = s.wmapLoad := (congrArg State.wmapLoad (State.setTune_mk s u x)).trans rfl
@[simp] theorem State.setTune_colls (s : State) (u : Nat) (x : TuneUnit) : (s.setTune u x).colls = s.colls := (congrArg State.colls (State.setTune_mk s u x)).trans rfl
@[simp] theorem State.setTune_readys (s : State) (u : Nat) (x : TuneUnit) : (s.setTune u x).readys = s.readys := (congrArg State.readys (State.setTune_mk s u x)).trans rfl
@[simp] theorem State.setTune_readds (s : State) (u : Nat) (x : TuneUnit) : (s.setTune u x).readds = s.readds := (congrArg State.readds (State.setTune_mk s u x)).trans rfl
@[simp] theorem State.setTune_looped (s : State) (u : Nat) (x : TuneUnit) : (s.setTune u x).looped = s.looped := (congrArg State.looped (State.setTune_mk s u x)).trans rfl
@[simp] theorem State.setTune_sramScrub (s : State) (u : Nat) (x : TuneUnit) : (s.setTune u x).sramScrub = s.sramScrub := (congrArg State.sramScrub (State.setTune_mk s u x)).trans rfl
@[simp] theorem State.setTune_twin (s : State) (u : Nat) (x : TuneUnit) : (s.setTune u x).twin = s.twin := (congrArg State.twin (State.setTune_mk s u x)).trans rfl
@[simp] theorem State.setTune_slots (s : State) (u : Nat) (x : TuneUnit) : (s.setTune u x).slots = s.slots := (congrArg State.slots (State.setTune_mk s u x)).trans rfl
@[simp] theorem State.setTune_seatLoad (s : State) (u : Nat) (x : TuneUnit) : (s.setTune u x).seatLoad = s.seatLoad := (congrArg State.seatLoad (State.setTune_mk s u x)).trans rfl
@[simp] theorem State.setTune_unison (s : State) (u : Nat) (x : TuneUnit) : (s.setTune u x).unison = s.unison := (congrArg State.unison (State.setTune_mk s u x)).trans rfl
@[simp] theorem State.setTune_log (s : State) (u : Nat) (x : TuneUnit) : (s.setTune u x).log = s.log := (congrArg State.log (State.setTune_mk s u x)).trans rfl
@[simp] theorem State.setTune_logHead (s : State) (u : Nat) (x : TuneUnit) : (s.setTune u x).logHead = s.logHead := (congrArg State.logHead (State.setTune_mk s u x)).trans rfl
@[simp] theorem State.setTune_dies (s : State) (u : Nat) (x : TuneUnit) : (s.setTune u x).dies = s.dies := (congrArg State.dies (State.setTune_mk s u x)).trans rfl
@[simp] theorem State.setTune_links (s : State) (u : Nat) (x : TuneUnit) : (s.setTune u x).links = s.links := (congrArg State.links (State.setTune_mk s u x)).trans rfl
@[simp] theorem State.setTune_bundles (s : State) (u : Nat) (x : TuneUnit) : (s.setTune u x).bundles = s.bundles := (congrArg State.bundles (State.setTune_mk s u x)).trans rfl
@[simp] theorem State.setTune_lanes (s : State) (u : Nat) (x : TuneUnit) : (s.setTune u x).lanes = s.lanes := (congrArg State.lanes (State.setTune_mk s u x)).trans rfl
@[simp] theorem State.setTune_pwr (s : State) (u : Nat) (x : TuneUnit) : (s.setTune u x).pwr = s.pwr := (congrArg State.pwr (State.setTune_mk s u x)).trans rfl
@[simp] theorem State.setTune_start (s : State) (u : Nat) (x : TuneUnit) : (s.setTune u x).start = s.start := (congrArg State.start (State.setTune_mk s u x)).trans rfl
@[simp] theorem State.setTune_flash (s : State) (u : Nat) (x : TuneUnit) : (s.setTune u x).flash = s.flash := (congrArg State.flash (State.setTune_mk s u x)).trans rfl
@[simp] theorem State.setTune_sessions (s : State) (u : Nat) (x : TuneUnit) : (s.setTune u x).sessions = s.sessions := (congrArg State.sessions (State.setTune_mk s u x)).trans rfl
@[simp] theorem State.setTune_fw (s : State) (u : Nat) (x : TuneUnit) : (s.setTune u x).fw = s.fw := (congrArg State.fw (State.setTune_mk s u x)).trans rfl
@[simp] theorem State.setTune_spdm (s : State) (u : Nat) (x : TuneUnit) : (s.setTune u x).spdm = s.spdm := (congrArg State.spdm (State.setTune_mk s u x)).trans rfl
@[simp] theorem State.setTune_cxl (s : State) (u : Nat) (x : TuneUnit) : (s.setTune u x).cxl = s.cxl := (congrArg State.cxl (State.setTune_mk s u x)).trans rfl
@[simp] theorem State.setTune_nextReq (s : State) (u : Nat) (x : TuneUnit) : (s.setTune u x).nextReq = s.nextReq := (congrArg State.nextReq (State.setTune_mk s u x)).trans rfl
@[simp] theorem State.setTune_free (s : State) (u : Nat) (x : TuneUnit) : (s.setTune u x).free = s.free := (congrArg State.free (State.setTune_mk s u x)).trans rfl
@[simp] theorem State.setTune_out (s : State) (u : Nat) (x : TuneUnit) : (s.setTune u x).out = s.out := (congrArg State.out (State.setTune_mk s u x)).trans rfl

theorem State.setDie_mk (s : State) (d : Nat) (x : DieSt) : s.setDie d x = { s with dies := SMap.set dieDefault s.dies d x } := rfl

@[simp] theorem State.setDie_pending (s : State) (d : Nat) (x : DieSt) : (s.setDie d x).pending = s.pending := (congrArg State.pending (State.setDie_mk s d x)).trans rfl
@[simp] theorem State.setDie_regs (s : State) (d : Nat) (x : DieSt) : (s.setDie d x).regs = s.regs := (congrArg State.regs (State.setDie_mk s d x)).trans rfl
@[simp] theorem State.setDie_latches (s : State) (d : Nat) (x : DieSt) : (s.setDie d x).latches = s.latches := (congrArg State.latches (State.setDie_mk s d x)).trans rfl
@[simp] theorem State.setDie_heldLo (s : State) (d : Nat) (x : DieSt) : (s.setDie d x).heldLo = s.heldLo := (congrArg State.heldLo (State.setDie_mk s d x)).trans rfl
@[simp] theorem State.setDie_mem (s : State) (d : Nat) (x : DieSt) : (s.setDie d x).mem = s.mem := (congrArg State.mem (State.setDie_mk s d x)).trans rfl
@[simp] theorem State.setDie_streams (s : State) (d : Nat) (x : DieSt) : (s.setDie d x).streams = s.streams := (congrArg State.streams (State.setDie_mk s d x)).trans rfl
@[simp] theorem State.setDie_jobs (s : State) (d : Nat) (x : DieSt) : (s.setDie d x).jobs = s.jobs := (congrArg State.jobs (State.setDie_mk s d x)).trans rfl
@[simp] theorem State.setDie_regions (s : State) (d : Nat) (x : DieSt) : (s.setDie d x).regions = s.regions := (congrArg State.regions (State.setDie_mk s d x)).trans rfl
@[simp] theorem State.setDie_engines (s : State) (d : Nat) (x : DieSt) : (s.setDie d x).engines = s.engines := (congrArg State.engines (State.setDie_mk s d x)).trans rfl
@[simp] theorem State.setDie_arrays (s : State) (d : Nat) (x : DieSt) : (s.setDie d x).arrays = s.arrays := (congrArg State.arrays (State.setDie_mk s d x)).trans rfl
@[simp] theorem State.setDie_chucks (s : State) (d : Nat) (x : DieSt) : (s.setDie d x).chucks = s.chucks := (congrArg State.chucks (State.setDie_mk s d x)).trans rfl
@[simp] theorem State.setDie_waiting (s : State) (d : Nat) (x : DieSt) : (s.setDie d x).waiting = s.waiting := (congrArg State.waiting (State.setDie_mk s d x)).trans rfl
@[simp] theorem State.setDie_caches (s : State) (d : Nat) (x : DieSt) : (s.setDie d x).caches = s.caches := (congrArg State.caches (State.setDie_mk s d x)).trans rfl
@[simp] theorem State.setDie_upds (s : State) (d : Nat) (x : DieSt) : (s.setDie d x).upds = s.upds := (congrArg State.upds (State.setDie_mk s d x)).trans rfl
@[simp] theorem State.setDie_ovf (s : State) (d : Nat) (x : DieSt) : (s.setDie d x).ovf = s.ovf := (congrArg State.ovf (State.setDie_mk s d x)).trans rfl
@[simp] theorem State.setDie_recipes (s : State) (d : Nat) (x : DieSt) : (s.setDie d x).recipes = s.recipes := (congrArg State.recipes (State.setDie_mk s d x)).trans rfl
@[simp] theorem State.setDie_recipeLoad (s : State) (d : Nat) (x : DieSt) : (s.setDie d x).recipeLoad = s.recipeLoad := (congrArg State.recipeLoad (State.setDie_mk s d x)).trans rfl
@[simp] theorem State.setDie_ports (s : State) (d : Nat) (x : DieSt) : (s.setDie d x).ports = s.ports := (congrArg State.ports (State.setDie_mk s d x)).trans rfl
@[simp] theorem State.setDie_route (s : State) (d : Nat) (x : DieSt) : (s.setDie d x).route = s.route := (congrArg State.route (State.setDie_mk s d x)).trans rfl
@[simp] theorem State.setDie_keytab (s : State) (d : Nat) (x : DieSt) : (s.setDie d x).keytab = s.keytab := (congrArg State.keytab (State.setDie_mk s d x)).trans rfl
@[simp] theorem State.setDie_wmap (s : State) (d : Nat) (x : DieSt) : (s.setDie d x).wmap = s.wmap := (congrArg State.wmap (State.setDie_mk s d x)).trans rfl
@[simp] theorem State.setDie_wmapLoad (s : State) (d : Nat) (x : DieSt) : (s.setDie d x).wmapLoad = s.wmapLoad := (congrArg State.wmapLoad (State.setDie_mk s d x)).trans rfl
@[simp] theorem State.setDie_colls (s : State) (d : Nat) (x : DieSt) : (s.setDie d x).colls = s.colls := (congrArg State.colls (State.setDie_mk s d x)).trans rfl
@[simp] theorem State.setDie_readys (s : State) (d : Nat) (x : DieSt) : (s.setDie d x).readys = s.readys := (congrArg State.readys (State.setDie_mk s d x)).trans rfl
@[simp] theorem State.setDie_readds (s : State) (d : Nat) (x : DieSt) : (s.setDie d x).readds = s.readds := (congrArg State.readds (State.setDie_mk s d x)).trans rfl
@[simp] theorem State.setDie_looped (s : State) (d : Nat) (x : DieSt) : (s.setDie d x).looped = s.looped := (congrArg State.looped (State.setDie_mk s d x)).trans rfl
@[simp] theorem State.setDie_sramScrub (s : State) (d : Nat) (x : DieSt) : (s.setDie d x).sramScrub = s.sramScrub := (congrArg State.sramScrub (State.setDie_mk s d x)).trans rfl
@[simp] theorem State.setDie_twin (s : State) (d : Nat) (x : DieSt) : (s.setDie d x).twin = s.twin := (congrArg State.twin (State.setDie_mk s d x)).trans rfl
@[simp] theorem State.setDie_slots (s : State) (d : Nat) (x : DieSt) : (s.setDie d x).slots = s.slots := (congrArg State.slots (State.setDie_mk s d x)).trans rfl
@[simp] theorem State.setDie_seatLoad (s : State) (d : Nat) (x : DieSt) : (s.setDie d x).seatLoad = s.seatLoad := (congrArg State.seatLoad (State.setDie_mk s d x)).trans rfl
@[simp] theorem State.setDie_unison (s : State) (d : Nat) (x : DieSt) : (s.setDie d x).unison = s.unison := (congrArg State.unison (State.setDie_mk s d x)).trans rfl
@[simp] theorem State.setDie_tune (s : State) (d : Nat) (x : DieSt) : (s.setDie d x).tune = s.tune := (congrArg State.tune (State.setDie_mk s d x)).trans rfl
@[simp] theorem State.setDie_log (s : State) (d : Nat) (x : DieSt) : (s.setDie d x).log = s.log := (congrArg State.log (State.setDie_mk s d x)).trans rfl
@[simp] theorem State.setDie_logHead (s : State) (d : Nat) (x : DieSt) : (s.setDie d x).logHead = s.logHead := (congrArg State.logHead (State.setDie_mk s d x)).trans rfl
@[simp] theorem State.setDie_links (s : State) (d : Nat) (x : DieSt) : (s.setDie d x).links = s.links := (congrArg State.links (State.setDie_mk s d x)).trans rfl
@[simp] theorem State.setDie_bundles (s : State) (d : Nat) (x : DieSt) : (s.setDie d x).bundles = s.bundles := (congrArg State.bundles (State.setDie_mk s d x)).trans rfl
@[simp] theorem State.setDie_lanes (s : State) (d : Nat) (x : DieSt) : (s.setDie d x).lanes = s.lanes := (congrArg State.lanes (State.setDie_mk s d x)).trans rfl
@[simp] theorem State.setDie_pwr (s : State) (d : Nat) (x : DieSt) : (s.setDie d x).pwr = s.pwr := (congrArg State.pwr (State.setDie_mk s d x)).trans rfl
@[simp] theorem State.setDie_start (s : State) (d : Nat) (x : DieSt) : (s.setDie d x).start = s.start := (congrArg State.start (State.setDie_mk s d x)).trans rfl
@[simp] theorem State.setDie_flash (s : State) (d : Nat) (x : DieSt) : (s.setDie d x).flash = s.flash := (congrArg State.flash (State.setDie_mk s d x)).trans rfl
@[simp] theorem State.setDie_sessions (s : State) (d : Nat) (x : DieSt) : (s.setDie d x).sessions = s.sessions := (congrArg State.sessions (State.setDie_mk s d x)).trans rfl
@[simp] theorem State.setDie_fw (s : State) (d : Nat) (x : DieSt) : (s.setDie d x).fw = s.fw := (congrArg State.fw (State.setDie_mk s d x)).trans rfl
@[simp] theorem State.setDie_spdm (s : State) (d : Nat) (x : DieSt) : (s.setDie d x).spdm = s.spdm := (congrArg State.spdm (State.setDie_mk s d x)).trans rfl
@[simp] theorem State.setDie_cxl (s : State) (d : Nat) (x : DieSt) : (s.setDie d x).cxl = s.cxl := (congrArg State.cxl (State.setDie_mk s d x)).trans rfl
@[simp] theorem State.setDie_nextReq (s : State) (d : Nat) (x : DieSt) : (s.setDie d x).nextReq = s.nextReq := (congrArg State.nextReq (State.setDie_mk s d x)).trans rfl
@[simp] theorem State.setDie_free (s : State) (d : Nat) (x : DieSt) : (s.setDie d x).free = s.free := (congrArg State.free (State.setDie_mk s d x)).trans rfl
@[simp] theorem State.setDie_out (s : State) (d : Nat) (x : DieSt) : (s.setDie d x).out = s.out := (congrArg State.out (State.setDie_mk s d x)).trans rfl

theorem State.setLink_mk (s : State) (e : LinkEnd) (x : LinkSt) : s.setLink e x = { s with links := SMap.set linkDefault s.links e.num x } := rfl

@[simp] theorem State.setLink_pending (s : State) (e : LinkEnd) (x : LinkSt) : (s.setLink e x).pending = s.pending := (congrArg State.pending (State.setLink_mk s e x)).trans rfl
@[simp] theorem State.setLink_regs (s : State) (e : LinkEnd) (x : LinkSt) : (s.setLink e x).regs = s.regs := (congrArg State.regs (State.setLink_mk s e x)).trans rfl
@[simp] theorem State.setLink_latches (s : State) (e : LinkEnd) (x : LinkSt) : (s.setLink e x).latches = s.latches := (congrArg State.latches (State.setLink_mk s e x)).trans rfl
@[simp] theorem State.setLink_heldLo (s : State) (e : LinkEnd) (x : LinkSt) : (s.setLink e x).heldLo = s.heldLo := (congrArg State.heldLo (State.setLink_mk s e x)).trans rfl
@[simp] theorem State.setLink_mem (s : State) (e : LinkEnd) (x : LinkSt) : (s.setLink e x).mem = s.mem := (congrArg State.mem (State.setLink_mk s e x)).trans rfl
@[simp] theorem State.setLink_streams (s : State) (e : LinkEnd) (x : LinkSt) : (s.setLink e x).streams = s.streams := (congrArg State.streams (State.setLink_mk s e x)).trans rfl
@[simp] theorem State.setLink_jobs (s : State) (e : LinkEnd) (x : LinkSt) : (s.setLink e x).jobs = s.jobs := (congrArg State.jobs (State.setLink_mk s e x)).trans rfl
@[simp] theorem State.setLink_regions (s : State) (e : LinkEnd) (x : LinkSt) : (s.setLink e x).regions = s.regions := (congrArg State.regions (State.setLink_mk s e x)).trans rfl
@[simp] theorem State.setLink_engines (s : State) (e : LinkEnd) (x : LinkSt) : (s.setLink e x).engines = s.engines := (congrArg State.engines (State.setLink_mk s e x)).trans rfl
@[simp] theorem State.setLink_arrays (s : State) (e : LinkEnd) (x : LinkSt) : (s.setLink e x).arrays = s.arrays := (congrArg State.arrays (State.setLink_mk s e x)).trans rfl
@[simp] theorem State.setLink_chucks (s : State) (e : LinkEnd) (x : LinkSt) : (s.setLink e x).chucks = s.chucks := (congrArg State.chucks (State.setLink_mk s e x)).trans rfl
@[simp] theorem State.setLink_waiting (s : State) (e : LinkEnd) (x : LinkSt) : (s.setLink e x).waiting = s.waiting := (congrArg State.waiting (State.setLink_mk s e x)).trans rfl
@[simp] theorem State.setLink_caches (s : State) (e : LinkEnd) (x : LinkSt) : (s.setLink e x).caches = s.caches := (congrArg State.caches (State.setLink_mk s e x)).trans rfl
@[simp] theorem State.setLink_upds (s : State) (e : LinkEnd) (x : LinkSt) : (s.setLink e x).upds = s.upds := (congrArg State.upds (State.setLink_mk s e x)).trans rfl
@[simp] theorem State.setLink_ovf (s : State) (e : LinkEnd) (x : LinkSt) : (s.setLink e x).ovf = s.ovf := (congrArg State.ovf (State.setLink_mk s e x)).trans rfl
@[simp] theorem State.setLink_recipes (s : State) (e : LinkEnd) (x : LinkSt) : (s.setLink e x).recipes = s.recipes := (congrArg State.recipes (State.setLink_mk s e x)).trans rfl
@[simp] theorem State.setLink_recipeLoad (s : State) (e : LinkEnd) (x : LinkSt) : (s.setLink e x).recipeLoad = s.recipeLoad := (congrArg State.recipeLoad (State.setLink_mk s e x)).trans rfl
@[simp] theorem State.setLink_ports (s : State) (e : LinkEnd) (x : LinkSt) : (s.setLink e x).ports = s.ports := (congrArg State.ports (State.setLink_mk s e x)).trans rfl
@[simp] theorem State.setLink_route (s : State) (e : LinkEnd) (x : LinkSt) : (s.setLink e x).route = s.route := (congrArg State.route (State.setLink_mk s e x)).trans rfl
@[simp] theorem State.setLink_keytab (s : State) (e : LinkEnd) (x : LinkSt) : (s.setLink e x).keytab = s.keytab := (congrArg State.keytab (State.setLink_mk s e x)).trans rfl
@[simp] theorem State.setLink_wmap (s : State) (e : LinkEnd) (x : LinkSt) : (s.setLink e x).wmap = s.wmap := (congrArg State.wmap (State.setLink_mk s e x)).trans rfl
@[simp] theorem State.setLink_wmapLoad (s : State) (e : LinkEnd) (x : LinkSt) : (s.setLink e x).wmapLoad = s.wmapLoad := (congrArg State.wmapLoad (State.setLink_mk s e x)).trans rfl
@[simp] theorem State.setLink_colls (s : State) (e : LinkEnd) (x : LinkSt) : (s.setLink e x).colls = s.colls := (congrArg State.colls (State.setLink_mk s e x)).trans rfl
@[simp] theorem State.setLink_readys (s : State) (e : LinkEnd) (x : LinkSt) : (s.setLink e x).readys = s.readys := (congrArg State.readys (State.setLink_mk s e x)).trans rfl
@[simp] theorem State.setLink_readds (s : State) (e : LinkEnd) (x : LinkSt) : (s.setLink e x).readds = s.readds := (congrArg State.readds (State.setLink_mk s e x)).trans rfl
@[simp] theorem State.setLink_looped (s : State) (e : LinkEnd) (x : LinkSt) : (s.setLink e x).looped = s.looped := (congrArg State.looped (State.setLink_mk s e x)).trans rfl
@[simp] theorem State.setLink_sramScrub (s : State) (e : LinkEnd) (x : LinkSt) : (s.setLink e x).sramScrub = s.sramScrub := (congrArg State.sramScrub (State.setLink_mk s e x)).trans rfl
@[simp] theorem State.setLink_twin (s : State) (e : LinkEnd) (x : LinkSt) : (s.setLink e x).twin = s.twin := (congrArg State.twin (State.setLink_mk s e x)).trans rfl
@[simp] theorem State.setLink_slots (s : State) (e : LinkEnd) (x : LinkSt) : (s.setLink e x).slots = s.slots := (congrArg State.slots (State.setLink_mk s e x)).trans rfl
@[simp] theorem State.setLink_seatLoad (s : State) (e : LinkEnd) (x : LinkSt) : (s.setLink e x).seatLoad = s.seatLoad := (congrArg State.seatLoad (State.setLink_mk s e x)).trans rfl
@[simp] theorem State.setLink_unison (s : State) (e : LinkEnd) (x : LinkSt) : (s.setLink e x).unison = s.unison := (congrArg State.unison (State.setLink_mk s e x)).trans rfl
@[simp] theorem State.setLink_tune (s : State) (e : LinkEnd) (x : LinkSt) : (s.setLink e x).tune = s.tune := (congrArg State.tune (State.setLink_mk s e x)).trans rfl
@[simp] theorem State.setLink_log (s : State) (e : LinkEnd) (x : LinkSt) : (s.setLink e x).log = s.log := (congrArg State.log (State.setLink_mk s e x)).trans rfl
@[simp] theorem State.setLink_logHead (s : State) (e : LinkEnd) (x : LinkSt) : (s.setLink e x).logHead = s.logHead := (congrArg State.logHead (State.setLink_mk s e x)).trans rfl
@[simp] theorem State.setLink_dies (s : State) (e : LinkEnd) (x : LinkSt) : (s.setLink e x).dies = s.dies := (congrArg State.dies (State.setLink_mk s e x)).trans rfl
@[simp] theorem State.setLink_bundles (s : State) (e : LinkEnd) (x : LinkSt) : (s.setLink e x).bundles = s.bundles := (congrArg State.bundles (State.setLink_mk s e x)).trans rfl
@[simp] theorem State.setLink_lanes (s : State) (e : LinkEnd) (x : LinkSt) : (s.setLink e x).lanes = s.lanes := (congrArg State.lanes (State.setLink_mk s e x)).trans rfl
@[simp] theorem State.setLink_pwr (s : State) (e : LinkEnd) (x : LinkSt) : (s.setLink e x).pwr = s.pwr := (congrArg State.pwr (State.setLink_mk s e x)).trans rfl
@[simp] theorem State.setLink_start (s : State) (e : LinkEnd) (x : LinkSt) : (s.setLink e x).start = s.start := (congrArg State.start (State.setLink_mk s e x)).trans rfl
@[simp] theorem State.setLink_flash (s : State) (e : LinkEnd) (x : LinkSt) : (s.setLink e x).flash = s.flash := (congrArg State.flash (State.setLink_mk s e x)).trans rfl
@[simp] theorem State.setLink_sessions (s : State) (e : LinkEnd) (x : LinkSt) : (s.setLink e x).sessions = s.sessions := (congrArg State.sessions (State.setLink_mk s e x)).trans rfl
@[simp] theorem State.setLink_fw (s : State) (e : LinkEnd) (x : LinkSt) : (s.setLink e x).fw = s.fw := (congrArg State.fw (State.setLink_mk s e x)).trans rfl
@[simp] theorem State.setLink_spdm (s : State) (e : LinkEnd) (x : LinkSt) : (s.setLink e x).spdm = s.spdm := (congrArg State.spdm (State.setLink_mk s e x)).trans rfl
@[simp] theorem State.setLink_cxl (s : State) (e : LinkEnd) (x : LinkSt) : (s.setLink e x).cxl = s.cxl := (congrArg State.cxl (State.setLink_mk s e x)).trans rfl
@[simp] theorem State.setLink_nextReq (s : State) (e : LinkEnd) (x : LinkSt) : (s.setLink e x).nextReq = s.nextReq := (congrArg State.nextReq (State.setLink_mk s e x)).trans rfl
@[simp] theorem State.setLink_free (s : State) (e : LinkEnd) (x : LinkSt) : (s.setLink e x).free = s.free := (congrArg State.free (State.setLink_mk s e x)).trans rfl
@[simp] theorem State.setLink_out (s : State) (e : LinkEnd) (x : LinkSt) : (s.setLink e x).out = s.out := (congrArg State.out (State.setLink_mk s e x)).trans rfl

theorem State.setBundle_mk (s : State) (e : LinkEnd) (b : Nat) (x : BundleSt) : s.setBundle e b x = { s with bundles := SMap.set bundleDefault s.bundles (e.num * 16 + b) x } := rfl

@[simp] theorem State.setBundle_pending (s : State) (e : LinkEnd) (b : Nat) (x : BundleSt) : (s.setBundle e b x).pending = s.pending := (congrArg State.pending (State.setBundle_mk s e b x)).trans rfl
@[simp] theorem State.setBundle_regs (s : State) (e : LinkEnd) (b : Nat) (x : BundleSt) : (s.setBundle e b x).regs = s.regs := (congrArg State.regs (State.setBundle_mk s e b x)).trans rfl
@[simp] theorem State.setBundle_latches (s : State) (e : LinkEnd) (b : Nat) (x : BundleSt) : (s.setBundle e b x).latches = s.latches := (congrArg State.latches (State.setBundle_mk s e b x)).trans rfl
@[simp] theorem State.setBundle_heldLo (s : State) (e : LinkEnd) (b : Nat) (x : BundleSt) : (s.setBundle e b x).heldLo = s.heldLo := (congrArg State.heldLo (State.setBundle_mk s e b x)).trans rfl
@[simp] theorem State.setBundle_mem (s : State) (e : LinkEnd) (b : Nat) (x : BundleSt) : (s.setBundle e b x).mem = s.mem := (congrArg State.mem (State.setBundle_mk s e b x)).trans rfl
@[simp] theorem State.setBundle_streams (s : State) (e : LinkEnd) (b : Nat) (x : BundleSt) : (s.setBundle e b x).streams = s.streams := (congrArg State.streams (State.setBundle_mk s e b x)).trans rfl
@[simp] theorem State.setBundle_jobs (s : State) (e : LinkEnd) (b : Nat) (x : BundleSt) : (s.setBundle e b x).jobs = s.jobs := (congrArg State.jobs (State.setBundle_mk s e b x)).trans rfl
@[simp] theorem State.setBundle_regions (s : State) (e : LinkEnd) (b : Nat) (x : BundleSt) : (s.setBundle e b x).regions = s.regions := (congrArg State.regions (State.setBundle_mk s e b x)).trans rfl
@[simp] theorem State.setBundle_engines (s : State) (e : LinkEnd) (b : Nat) (x : BundleSt) : (s.setBundle e b x).engines = s.engines := (congrArg State.engines (State.setBundle_mk s e b x)).trans rfl
@[simp] theorem State.setBundle_arrays (s : State) (e : LinkEnd) (b : Nat) (x : BundleSt) : (s.setBundle e b x).arrays = s.arrays := (congrArg State.arrays (State.setBundle_mk s e b x)).trans rfl
@[simp] theorem State.setBundle_chucks (s : State) (e : LinkEnd) (b : Nat) (x : BundleSt) : (s.setBundle e b x).chucks = s.chucks := (congrArg State.chucks (State.setBundle_mk s e b x)).trans rfl
@[simp] theorem State.setBundle_waiting (s : State) (e : LinkEnd) (b : Nat) (x : BundleSt) : (s.setBundle e b x).waiting = s.waiting := (congrArg State.waiting (State.setBundle_mk s e b x)).trans rfl
@[simp] theorem State.setBundle_caches (s : State) (e : LinkEnd) (b : Nat) (x : BundleSt) : (s.setBundle e b x).caches = s.caches := (congrArg State.caches (State.setBundle_mk s e b x)).trans rfl
@[simp] theorem State.setBundle_upds (s : State) (e : LinkEnd) (b : Nat) (x : BundleSt) : (s.setBundle e b x).upds = s.upds := (congrArg State.upds (State.setBundle_mk s e b x)).trans rfl
@[simp] theorem State.setBundle_ovf (s : State) (e : LinkEnd) (b : Nat) (x : BundleSt) : (s.setBundle e b x).ovf = s.ovf := (congrArg State.ovf (State.setBundle_mk s e b x)).trans rfl
@[simp] theorem State.setBundle_recipes (s : State) (e : LinkEnd) (b : Nat) (x : BundleSt) : (s.setBundle e b x).recipes = s.recipes := (congrArg State.recipes (State.setBundle_mk s e b x)).trans rfl
@[simp] theorem State.setBundle_recipeLoad (s : State) (e : LinkEnd) (b : Nat) (x : BundleSt) : (s.setBundle e b x).recipeLoad = s.recipeLoad := (congrArg State.recipeLoad (State.setBundle_mk s e b x)).trans rfl
@[simp] theorem State.setBundle_ports (s : State) (e : LinkEnd) (b : Nat) (x : BundleSt) : (s.setBundle e b x).ports = s.ports := (congrArg State.ports (State.setBundle_mk s e b x)).trans rfl
@[simp] theorem State.setBundle_route (s : State) (e : LinkEnd) (b : Nat) (x : BundleSt) : (s.setBundle e b x).route = s.route := (congrArg State.route (State.setBundle_mk s e b x)).trans rfl
@[simp] theorem State.setBundle_keytab (s : State) (e : LinkEnd) (b : Nat) (x : BundleSt) : (s.setBundle e b x).keytab = s.keytab := (congrArg State.keytab (State.setBundle_mk s e b x)).trans rfl
@[simp] theorem State.setBundle_wmap (s : State) (e : LinkEnd) (b : Nat) (x : BundleSt) : (s.setBundle e b x).wmap = s.wmap := (congrArg State.wmap (State.setBundle_mk s e b x)).trans rfl
@[simp] theorem State.setBundle_wmapLoad (s : State) (e : LinkEnd) (b : Nat) (x : BundleSt) : (s.setBundle e b x).wmapLoad = s.wmapLoad := (congrArg State.wmapLoad (State.setBundle_mk s e b x)).trans rfl
@[simp] theorem State.setBundle_colls (s : State) (e : LinkEnd) (b : Nat) (x : BundleSt) : (s.setBundle e b x).colls = s.colls := (congrArg State.colls (State.setBundle_mk s e b x)).trans rfl
@[simp] theorem State.setBundle_readys (s : State) (e : LinkEnd) (b : Nat) (x : BundleSt) : (s.setBundle e b x).readys = s.readys := (congrArg State.readys (State.setBundle_mk s e b x)).trans rfl
@[simp] theorem State.setBundle_readds (s : State) (e : LinkEnd) (b : Nat) (x : BundleSt) : (s.setBundle e b x).readds = s.readds := (congrArg State.readds (State.setBundle_mk s e b x)).trans rfl
@[simp] theorem State.setBundle_looped (s : State) (e : LinkEnd) (b : Nat) (x : BundleSt) : (s.setBundle e b x).looped = s.looped := (congrArg State.looped (State.setBundle_mk s e b x)).trans rfl
@[simp] theorem State.setBundle_sramScrub (s : State) (e : LinkEnd) (b : Nat) (x : BundleSt) : (s.setBundle e b x).sramScrub = s.sramScrub := (congrArg State.sramScrub (State.setBundle_mk s e b x)).trans rfl
@[simp] theorem State.setBundle_twin (s : State) (e : LinkEnd) (b : Nat) (x : BundleSt) : (s.setBundle e b x).twin = s.twin := (congrArg State.twin (State.setBundle_mk s e b x)).trans rfl
@[simp] theorem State.setBundle_slots (s : State) (e : LinkEnd) (b : Nat) (x : BundleSt) : (s.setBundle e b x).slots = s.slots := (congrArg State.slots (State.setBundle_mk s e b x)).trans rfl
@[simp] theorem State.setBundle_seatLoad (s : State) (e : LinkEnd) (b : Nat) (x : BundleSt) : (s.setBundle e b x).seatLoad = s.seatLoad := (congrArg State.seatLoad (State.setBundle_mk s e b x)).trans rfl
@[simp] theorem State.setBundle_unison (s : State) (e : LinkEnd) (b : Nat) (x : BundleSt) : (s.setBundle e b x).unison = s.unison := (congrArg State.unison (State.setBundle_mk s e b x)).trans rfl
@[simp] theorem State.setBundle_tune (s : State) (e : LinkEnd) (b : Nat) (x : BundleSt) : (s.setBundle e b x).tune = s.tune := (congrArg State.tune (State.setBundle_mk s e b x)).trans rfl
@[simp] theorem State.setBundle_log (s : State) (e : LinkEnd) (b : Nat) (x : BundleSt) : (s.setBundle e b x).log = s.log := (congrArg State.log (State.setBundle_mk s e b x)).trans rfl
@[simp] theorem State.setBundle_logHead (s : State) (e : LinkEnd) (b : Nat) (x : BundleSt) : (s.setBundle e b x).logHead = s.logHead := (congrArg State.logHead (State.setBundle_mk s e b x)).trans rfl
@[simp] theorem State.setBundle_dies (s : State) (e : LinkEnd) (b : Nat) (x : BundleSt) : (s.setBundle e b x).dies = s.dies := (congrArg State.dies (State.setBundle_mk s e b x)).trans rfl
@[simp] theorem State.setBundle_links (s : State) (e : LinkEnd) (b : Nat) (x : BundleSt) : (s.setBundle e b x).links = s.links := (congrArg State.links (State.setBundle_mk s e b x)).trans rfl
@[simp] theorem State.setBundle_lanes (s : State) (e : LinkEnd) (b : Nat) (x : BundleSt) : (s.setBundle e b x).lanes = s.lanes := (congrArg State.lanes (State.setBundle_mk s e b x)).trans rfl
@[simp] theorem State.setBundle_pwr (s : State) (e : LinkEnd) (b : Nat) (x : BundleSt) : (s.setBundle e b x).pwr = s.pwr := (congrArg State.pwr (State.setBundle_mk s e b x)).trans rfl
@[simp] theorem State.setBundle_start (s : State) (e : LinkEnd) (b : Nat) (x : BundleSt) : (s.setBundle e b x).start = s.start := (congrArg State.start (State.setBundle_mk s e b x)).trans rfl
@[simp] theorem State.setBundle_flash (s : State) (e : LinkEnd) (b : Nat) (x : BundleSt) : (s.setBundle e b x).flash = s.flash := (congrArg State.flash (State.setBundle_mk s e b x)).trans rfl
@[simp] theorem State.setBundle_sessions (s : State) (e : LinkEnd) (b : Nat) (x : BundleSt) : (s.setBundle e b x).sessions = s.sessions := (congrArg State.sessions (State.setBundle_mk s e b x)).trans rfl
@[simp] theorem State.setBundle_fw (s : State) (e : LinkEnd) (b : Nat) (x : BundleSt) : (s.setBundle e b x).fw = s.fw := (congrArg State.fw (State.setBundle_mk s e b x)).trans rfl
@[simp] theorem State.setBundle_spdm (s : State) (e : LinkEnd) (b : Nat) (x : BundleSt) : (s.setBundle e b x).spdm = s.spdm := (congrArg State.spdm (State.setBundle_mk s e b x)).trans rfl
@[simp] theorem State.setBundle_cxl (s : State) (e : LinkEnd) (b : Nat) (x : BundleSt) : (s.setBundle e b x).cxl = s.cxl := (congrArg State.cxl (State.setBundle_mk s e b x)).trans rfl
@[simp] theorem State.setBundle_nextReq (s : State) (e : LinkEnd) (b : Nat) (x : BundleSt) : (s.setBundle e b x).nextReq = s.nextReq := (congrArg State.nextReq (State.setBundle_mk s e b x)).trans rfl
@[simp] theorem State.setBundle_free (s : State) (e : LinkEnd) (b : Nat) (x : BundleSt) : (s.setBundle e b x).free = s.free := (congrArg State.free (State.setBundle_mk s e b x)).trans rfl
@[simp] theorem State.setBundle_out (s : State) (e : LinkEnd) (b : Nat) (x : BundleSt) : (s.setBundle e b x).out = s.out := (congrArg State.out (State.setBundle_mk s e b x)).trans rfl

theorem State.setLaneGroup_mk (s : State) (e : LinkEnd) (b g : Nat) (x : LaneGroup) : s.setLaneGroup e b g x = { s with lanes := SMap.set laneDefault s.lanes (laneKey e b g) x } := rfl

@[simp] theorem State.setLaneGroup_pending (s : State) (e : LinkEnd) (b g : Nat) (x : LaneGroup) : (s.setLaneGroup e b g x).pending = s.pending := (congrArg State.pending (State.setLaneGroup_mk s e b g x)).trans rfl
@[simp] theorem State.setLaneGroup_regs (s : State) (e : LinkEnd) (b g : Nat) (x : LaneGroup) : (s.setLaneGroup e b g x).regs = s.regs := (congrArg State.regs (State.setLaneGroup_mk s e b g x)).trans rfl
@[simp] theorem State.setLaneGroup_latches (s : State) (e : LinkEnd) (b g : Nat) (x : LaneGroup) : (s.setLaneGroup e b g x).latches = s.latches := (congrArg State.latches (State.setLaneGroup_mk s e b g x)).trans rfl
@[simp] theorem State.setLaneGroup_heldLo (s : State) (e : LinkEnd) (b g : Nat) (x : LaneGroup) : (s.setLaneGroup e b g x).heldLo = s.heldLo := (congrArg State.heldLo (State.setLaneGroup_mk s e b g x)).trans rfl
@[simp] theorem State.setLaneGroup_mem (s : State) (e : LinkEnd) (b g : Nat) (x : LaneGroup) : (s.setLaneGroup e b g x).mem = s.mem := (congrArg State.mem (State.setLaneGroup_mk s e b g x)).trans rfl
@[simp] theorem State.setLaneGroup_streams (s : State) (e : LinkEnd) (b g : Nat) (x : LaneGroup) : (s.setLaneGroup e b g x).streams = s.streams := (congrArg State.streams (State.setLaneGroup_mk s e b g x)).trans rfl
@[simp] theorem State.setLaneGroup_jobs (s : State) (e : LinkEnd) (b g : Nat) (x : LaneGroup) : (s.setLaneGroup e b g x).jobs = s.jobs := (congrArg State.jobs (State.setLaneGroup_mk s e b g x)).trans rfl
@[simp] theorem State.setLaneGroup_regions (s : State) (e : LinkEnd) (b g : Nat) (x : LaneGroup) : (s.setLaneGroup e b g x).regions = s.regions := (congrArg State.regions (State.setLaneGroup_mk s e b g x)).trans rfl
@[simp] theorem State.setLaneGroup_engines (s : State) (e : LinkEnd) (b g : Nat) (x : LaneGroup) : (s.setLaneGroup e b g x).engines = s.engines := (congrArg State.engines (State.setLaneGroup_mk s e b g x)).trans rfl
@[simp] theorem State.setLaneGroup_arrays (s : State) (e : LinkEnd) (b g : Nat) (x : LaneGroup) : (s.setLaneGroup e b g x).arrays = s.arrays := (congrArg State.arrays (State.setLaneGroup_mk s e b g x)).trans rfl
@[simp] theorem State.setLaneGroup_chucks (s : State) (e : LinkEnd) (b g : Nat) (x : LaneGroup) : (s.setLaneGroup e b g x).chucks = s.chucks := (congrArg State.chucks (State.setLaneGroup_mk s e b g x)).trans rfl
@[simp] theorem State.setLaneGroup_waiting (s : State) (e : LinkEnd) (b g : Nat) (x : LaneGroup) : (s.setLaneGroup e b g x).waiting = s.waiting := (congrArg State.waiting (State.setLaneGroup_mk s e b g x)).trans rfl
@[simp] theorem State.setLaneGroup_caches (s : State) (e : LinkEnd) (b g : Nat) (x : LaneGroup) : (s.setLaneGroup e b g x).caches = s.caches := (congrArg State.caches (State.setLaneGroup_mk s e b g x)).trans rfl
@[simp] theorem State.setLaneGroup_upds (s : State) (e : LinkEnd) (b g : Nat) (x : LaneGroup) : (s.setLaneGroup e b g x).upds = s.upds := (congrArg State.upds (State.setLaneGroup_mk s e b g x)).trans rfl
@[simp] theorem State.setLaneGroup_ovf (s : State) (e : LinkEnd) (b g : Nat) (x : LaneGroup) : (s.setLaneGroup e b g x).ovf = s.ovf := (congrArg State.ovf (State.setLaneGroup_mk s e b g x)).trans rfl
@[simp] theorem State.setLaneGroup_recipes (s : State) (e : LinkEnd) (b g : Nat) (x : LaneGroup) : (s.setLaneGroup e b g x).recipes = s.recipes := (congrArg State.recipes (State.setLaneGroup_mk s e b g x)).trans rfl
@[simp] theorem State.setLaneGroup_recipeLoad (s : State) (e : LinkEnd) (b g : Nat) (x : LaneGroup) : (s.setLaneGroup e b g x).recipeLoad = s.recipeLoad := (congrArg State.recipeLoad (State.setLaneGroup_mk s e b g x)).trans rfl
@[simp] theorem State.setLaneGroup_ports (s : State) (e : LinkEnd) (b g : Nat) (x : LaneGroup) : (s.setLaneGroup e b g x).ports = s.ports := (congrArg State.ports (State.setLaneGroup_mk s e b g x)).trans rfl
@[simp] theorem State.setLaneGroup_route (s : State) (e : LinkEnd) (b g : Nat) (x : LaneGroup) : (s.setLaneGroup e b g x).route = s.route := (congrArg State.route (State.setLaneGroup_mk s e b g x)).trans rfl
@[simp] theorem State.setLaneGroup_keytab (s : State) (e : LinkEnd) (b g : Nat) (x : LaneGroup) : (s.setLaneGroup e b g x).keytab = s.keytab := (congrArg State.keytab (State.setLaneGroup_mk s e b g x)).trans rfl
@[simp] theorem State.setLaneGroup_wmap (s : State) (e : LinkEnd) (b g : Nat) (x : LaneGroup) : (s.setLaneGroup e b g x).wmap = s.wmap := (congrArg State.wmap (State.setLaneGroup_mk s e b g x)).trans rfl
@[simp] theorem State.setLaneGroup_wmapLoad (s : State) (e : LinkEnd) (b g : Nat) (x : LaneGroup) : (s.setLaneGroup e b g x).wmapLoad = s.wmapLoad := (congrArg State.wmapLoad (State.setLaneGroup_mk s e b g x)).trans rfl
@[simp] theorem State.setLaneGroup_colls (s : State) (e : LinkEnd) (b g : Nat) (x : LaneGroup) : (s.setLaneGroup e b g x).colls = s.colls := (congrArg State.colls (State.setLaneGroup_mk s e b g x)).trans rfl
@[simp] theorem State.setLaneGroup_readys (s : State) (e : LinkEnd) (b g : Nat) (x : LaneGroup) : (s.setLaneGroup e b g x).readys = s.readys := (congrArg State.readys (State.setLaneGroup_mk s e b g x)).trans rfl
@[simp] theorem State.setLaneGroup_readds (s : State) (e : LinkEnd) (b g : Nat) (x : LaneGroup) : (s.setLaneGroup e b g x).readds = s.readds := (congrArg State.readds (State.setLaneGroup_mk s e b g x)).trans rfl
@[simp] theorem State.setLaneGroup_looped (s : State) (e : LinkEnd) (b g : Nat) (x : LaneGroup) : (s.setLaneGroup e b g x).looped = s.looped := (congrArg State.looped (State.setLaneGroup_mk s e b g x)).trans rfl
@[simp] theorem State.setLaneGroup_sramScrub (s : State) (e : LinkEnd) (b g : Nat) (x : LaneGroup) : (s.setLaneGroup e b g x).sramScrub = s.sramScrub := (congrArg State.sramScrub (State.setLaneGroup_mk s e b g x)).trans rfl
@[simp] theorem State.setLaneGroup_twin (s : State) (e : LinkEnd) (b g : Nat) (x : LaneGroup) : (s.setLaneGroup e b g x).twin = s.twin := (congrArg State.twin (State.setLaneGroup_mk s e b g x)).trans rfl
@[simp] theorem State.setLaneGroup_slots (s : State) (e : LinkEnd) (b g : Nat) (x : LaneGroup) : (s.setLaneGroup e b g x).slots = s.slots := (congrArg State.slots (State.setLaneGroup_mk s e b g x)).trans rfl
@[simp] theorem State.setLaneGroup_seatLoad (s : State) (e : LinkEnd) (b g : Nat) (x : LaneGroup) : (s.setLaneGroup e b g x).seatLoad = s.seatLoad := (congrArg State.seatLoad (State.setLaneGroup_mk s e b g x)).trans rfl
@[simp] theorem State.setLaneGroup_unison (s : State) (e : LinkEnd) (b g : Nat) (x : LaneGroup) : (s.setLaneGroup e b g x).unison = s.unison := (congrArg State.unison (State.setLaneGroup_mk s e b g x)).trans rfl
@[simp] theorem State.setLaneGroup_tune (s : State) (e : LinkEnd) (b g : Nat) (x : LaneGroup) : (s.setLaneGroup e b g x).tune = s.tune := (congrArg State.tune (State.setLaneGroup_mk s e b g x)).trans rfl
@[simp] theorem State.setLaneGroup_log (s : State) (e : LinkEnd) (b g : Nat) (x : LaneGroup) : (s.setLaneGroup e b g x).log = s.log := (congrArg State.log (State.setLaneGroup_mk s e b g x)).trans rfl
@[simp] theorem State.setLaneGroup_logHead (s : State) (e : LinkEnd) (b g : Nat) (x : LaneGroup) : (s.setLaneGroup e b g x).logHead = s.logHead := (congrArg State.logHead (State.setLaneGroup_mk s e b g x)).trans rfl
@[simp] theorem State.setLaneGroup_dies (s : State) (e : LinkEnd) (b g : Nat) (x : LaneGroup) : (s.setLaneGroup e b g x).dies = s.dies := (congrArg State.dies (State.setLaneGroup_mk s e b g x)).trans rfl
@[simp] theorem State.setLaneGroup_links (s : State) (e : LinkEnd) (b g : Nat) (x : LaneGroup) : (s.setLaneGroup e b g x).links = s.links := (congrArg State.links (State.setLaneGroup_mk s e b g x)).trans rfl
@[simp] theorem State.setLaneGroup_bundles (s : State) (e : LinkEnd) (b g : Nat) (x : LaneGroup) : (s.setLaneGroup e b g x).bundles = s.bundles := (congrArg State.bundles (State.setLaneGroup_mk s e b g x)).trans rfl
@[simp] theorem State.setLaneGroup_pwr (s : State) (e : LinkEnd) (b g : Nat) (x : LaneGroup) : (s.setLaneGroup e b g x).pwr = s.pwr := (congrArg State.pwr (State.setLaneGroup_mk s e b g x)).trans rfl
@[simp] theorem State.setLaneGroup_start (s : State) (e : LinkEnd) (b g : Nat) (x : LaneGroup) : (s.setLaneGroup e b g x).start = s.start := (congrArg State.start (State.setLaneGroup_mk s e b g x)).trans rfl
@[simp] theorem State.setLaneGroup_flash (s : State) (e : LinkEnd) (b g : Nat) (x : LaneGroup) : (s.setLaneGroup e b g x).flash = s.flash := (congrArg State.flash (State.setLaneGroup_mk s e b g x)).trans rfl
@[simp] theorem State.setLaneGroup_sessions (s : State) (e : LinkEnd) (b g : Nat) (x : LaneGroup) : (s.setLaneGroup e b g x).sessions = s.sessions := (congrArg State.sessions (State.setLaneGroup_mk s e b g x)).trans rfl
@[simp] theorem State.setLaneGroup_fw (s : State) (e : LinkEnd) (b g : Nat) (x : LaneGroup) : (s.setLaneGroup e b g x).fw = s.fw := (congrArg State.fw (State.setLaneGroup_mk s e b g x)).trans rfl
@[simp] theorem State.setLaneGroup_spdm (s : State) (e : LinkEnd) (b g : Nat) (x : LaneGroup) : (s.setLaneGroup e b g x).spdm = s.spdm := (congrArg State.spdm (State.setLaneGroup_mk s e b g x)).trans rfl
@[simp] theorem State.setLaneGroup_cxl (s : State) (e : LinkEnd) (b g : Nat) (x : LaneGroup) : (s.setLaneGroup e b g x).cxl = s.cxl := (congrArg State.cxl (State.setLaneGroup_mk s e b g x)).trans rfl
@[simp] theorem State.setLaneGroup_nextReq (s : State) (e : LinkEnd) (b g : Nat) (x : LaneGroup) : (s.setLaneGroup e b g x).nextReq = s.nextReq := (congrArg State.nextReq (State.setLaneGroup_mk s e b g x)).trans rfl
@[simp] theorem State.setLaneGroup_free (s : State) (e : LinkEnd) (b g : Nat) (x : LaneGroup) : (s.setLaneGroup e b g x).free = s.free := (congrArg State.free (State.setLaneGroup_mk s e b g x)).trans rfl
@[simp] theorem State.setLaneGroup_out (s : State) (e : LinkEnd) (b g : Nat) (x : LaneGroup) : (s.setLaneGroup e b g x).out = s.out := (congrArg State.out (State.setLaneGroup_mk s e b g x)).trans rfl

theorem State.emit_mk (s : State) (o : Out) : s.emit o = { s with out := s.out ++ [o] } := rfl

@[simp] theorem State.emit_pending (s : State) (o : Out) : (s.emit o).pending = s.pending := (congrArg State.pending (State.emit_mk s o)).trans rfl
@[simp] theorem State.emit_regs (s : State) (o : Out) : (s.emit o).regs = s.regs := (congrArg State.regs (State.emit_mk s o)).trans rfl
@[simp] theorem State.emit_latches (s : State) (o : Out) : (s.emit o).latches = s.latches := (congrArg State.latches (State.emit_mk s o)).trans rfl
@[simp] theorem State.emit_heldLo (s : State) (o : Out) : (s.emit o).heldLo = s.heldLo := (congrArg State.heldLo (State.emit_mk s o)).trans rfl
@[simp] theorem State.emit_mem (s : State) (o : Out) : (s.emit o).mem = s.mem := (congrArg State.mem (State.emit_mk s o)).trans rfl
@[simp] theorem State.emit_streams (s : State) (o : Out) : (s.emit o).streams = s.streams := (congrArg State.streams (State.emit_mk s o)).trans rfl
@[simp] theorem State.emit_jobs (s : State) (o : Out) : (s.emit o).jobs = s.jobs := (congrArg State.jobs (State.emit_mk s o)).trans rfl
@[simp] theorem State.emit_regions (s : State) (o : Out) : (s.emit o).regions = s.regions := (congrArg State.regions (State.emit_mk s o)).trans rfl
@[simp] theorem State.emit_engines (s : State) (o : Out) : (s.emit o).engines = s.engines := (congrArg State.engines (State.emit_mk s o)).trans rfl
@[simp] theorem State.emit_arrays (s : State) (o : Out) : (s.emit o).arrays = s.arrays := (congrArg State.arrays (State.emit_mk s o)).trans rfl
@[simp] theorem State.emit_chucks (s : State) (o : Out) : (s.emit o).chucks = s.chucks := (congrArg State.chucks (State.emit_mk s o)).trans rfl
@[simp] theorem State.emit_waiting (s : State) (o : Out) : (s.emit o).waiting = s.waiting := (congrArg State.waiting (State.emit_mk s o)).trans rfl
@[simp] theorem State.emit_caches (s : State) (o : Out) : (s.emit o).caches = s.caches := (congrArg State.caches (State.emit_mk s o)).trans rfl
@[simp] theorem State.emit_upds (s : State) (o : Out) : (s.emit o).upds = s.upds := (congrArg State.upds (State.emit_mk s o)).trans rfl
@[simp] theorem State.emit_ovf (s : State) (o : Out) : (s.emit o).ovf = s.ovf := (congrArg State.ovf (State.emit_mk s o)).trans rfl
@[simp] theorem State.emit_recipes (s : State) (o : Out) : (s.emit o).recipes = s.recipes := (congrArg State.recipes (State.emit_mk s o)).trans rfl
@[simp] theorem State.emit_recipeLoad (s : State) (o : Out) : (s.emit o).recipeLoad = s.recipeLoad := (congrArg State.recipeLoad (State.emit_mk s o)).trans rfl
@[simp] theorem State.emit_ports (s : State) (o : Out) : (s.emit o).ports = s.ports := (congrArg State.ports (State.emit_mk s o)).trans rfl
@[simp] theorem State.emit_route (s : State) (o : Out) : (s.emit o).route = s.route := (congrArg State.route (State.emit_mk s o)).trans rfl
@[simp] theorem State.emit_keytab (s : State) (o : Out) : (s.emit o).keytab = s.keytab := (congrArg State.keytab (State.emit_mk s o)).trans rfl
@[simp] theorem State.emit_wmap (s : State) (o : Out) : (s.emit o).wmap = s.wmap := (congrArg State.wmap (State.emit_mk s o)).trans rfl
@[simp] theorem State.emit_wmapLoad (s : State) (o : Out) : (s.emit o).wmapLoad = s.wmapLoad := (congrArg State.wmapLoad (State.emit_mk s o)).trans rfl
@[simp] theorem State.emit_colls (s : State) (o : Out) : (s.emit o).colls = s.colls := (congrArg State.colls (State.emit_mk s o)).trans rfl
@[simp] theorem State.emit_readys (s : State) (o : Out) : (s.emit o).readys = s.readys := (congrArg State.readys (State.emit_mk s o)).trans rfl
@[simp] theorem State.emit_readds (s : State) (o : Out) : (s.emit o).readds = s.readds := (congrArg State.readds (State.emit_mk s o)).trans rfl
@[simp] theorem State.emit_looped (s : State) (o : Out) : (s.emit o).looped = s.looped := (congrArg State.looped (State.emit_mk s o)).trans rfl
@[simp] theorem State.emit_sramScrub (s : State) (o : Out) : (s.emit o).sramScrub = s.sramScrub := (congrArg State.sramScrub (State.emit_mk s o)).trans rfl
@[simp] theorem State.emit_twin (s : State) (o : Out) : (s.emit o).twin = s.twin := (congrArg State.twin (State.emit_mk s o)).trans rfl
@[simp] theorem State.emit_slots (s : State) (o : Out) : (s.emit o).slots = s.slots := (congrArg State.slots (State.emit_mk s o)).trans rfl
@[simp] theorem State.emit_seatLoad (s : State) (o : Out) : (s.emit o).seatLoad = s.seatLoad := (congrArg State.seatLoad (State.emit_mk s o)).trans rfl
@[simp] theorem State.emit_unison (s : State) (o : Out) : (s.emit o).unison = s.unison := (congrArg State.unison (State.emit_mk s o)).trans rfl
@[simp] theorem State.emit_tune (s : State) (o : Out) : (s.emit o).tune = s.tune := (congrArg State.tune (State.emit_mk s o)).trans rfl
@[simp] theorem State.emit_log (s : State) (o : Out) : (s.emit o).log = s.log := (congrArg State.log (State.emit_mk s o)).trans rfl
@[simp] theorem State.emit_logHead (s : State) (o : Out) : (s.emit o).logHead = s.logHead := (congrArg State.logHead (State.emit_mk s o)).trans rfl
@[simp] theorem State.emit_dies (s : State) (o : Out) : (s.emit o).dies = s.dies := (congrArg State.dies (State.emit_mk s o)).trans rfl
@[simp] theorem State.emit_links (s : State) (o : Out) : (s.emit o).links = s.links := (congrArg State.links (State.emit_mk s o)).trans rfl
@[simp] theorem State.emit_bundles (s : State) (o : Out) : (s.emit o).bundles = s.bundles := (congrArg State.bundles (State.emit_mk s o)).trans rfl
@[simp] theorem State.emit_lanes (s : State) (o : Out) : (s.emit o).lanes = s.lanes := (congrArg State.lanes (State.emit_mk s o)).trans rfl
@[simp] theorem State.emit_pwr (s : State) (o : Out) : (s.emit o).pwr = s.pwr := (congrArg State.pwr (State.emit_mk s o)).trans rfl
@[simp] theorem State.emit_start (s : State) (o : Out) : (s.emit o).start = s.start := (congrArg State.start (State.emit_mk s o)).trans rfl
@[simp] theorem State.emit_flash (s : State) (o : Out) : (s.emit o).flash = s.flash := (congrArg State.flash (State.emit_mk s o)).trans rfl
@[simp] theorem State.emit_sessions (s : State) (o : Out) : (s.emit o).sessions = s.sessions := (congrArg State.sessions (State.emit_mk s o)).trans rfl
@[simp] theorem State.emit_fw (s : State) (o : Out) : (s.emit o).fw = s.fw := (congrArg State.fw (State.emit_mk s o)).trans rfl
@[simp] theorem State.emit_spdm (s : State) (o : Out) : (s.emit o).spdm = s.spdm := (congrArg State.spdm (State.emit_mk s o)).trans rfl
@[simp] theorem State.emit_cxl (s : State) (o : Out) : (s.emit o).cxl = s.cxl := (congrArg State.cxl (State.emit_mk s o)).trans rfl
@[simp] theorem State.emit_nextReq (s : State) (o : Out) : (s.emit o).nextReq = s.nextReq := (congrArg State.nextReq (State.emit_mk s o)).trans rfl
@[simp] theorem State.emit_free (s : State) (o : Out) : (s.emit o).free = s.free := (congrArg State.free (State.emit_mk s o)).trans rfl

theorem State.draw_mk (s : State) : s.draw  = { s with free := s.free + 1 } := rfl

@[simp] theorem State.draw_pending (s : State) : (s.draw ).pending = s.pending := (congrArg State.pending (State.draw_mk s )).trans rfl
@[simp] theorem State.draw_regs (s : State) : (s.draw ).regs = s.regs := (congrArg State.regs (State.draw_mk s )).trans rfl
@[simp] theorem State.draw_latches (s : State) : (s.draw ).latches = s.latches := (congrArg State.latches (State.draw_mk s )).trans rfl
@[simp] theorem State.draw_heldLo (s : State) : (s.draw ).heldLo = s.heldLo := (congrArg State.heldLo (State.draw_mk s )).trans rfl
@[simp] theorem State.draw_mem (s : State) : (s.draw ).mem = s.mem := (congrArg State.mem (State.draw_mk s )).trans rfl
@[simp] theorem State.draw_streams (s : State) : (s.draw ).streams = s.streams := (congrArg State.streams (State.draw_mk s )).trans rfl
@[simp] theorem State.draw_jobs (s : State) : (s.draw ).jobs = s.jobs := (congrArg State.jobs (State.draw_mk s )).trans rfl
@[simp] theorem State.draw_regions (s : State) : (s.draw ).regions = s.regions := (congrArg State.regions (State.draw_mk s )).trans rfl
@[simp] theorem State.draw_engines (s : State) : (s.draw ).engines = s.engines := (congrArg State.engines (State.draw_mk s )).trans rfl
@[simp] theorem State.draw_arrays (s : State) : (s.draw ).arrays = s.arrays := (congrArg State.arrays (State.draw_mk s )).trans rfl
@[simp] theorem State.draw_chucks (s : State) : (s.draw ).chucks = s.chucks := (congrArg State.chucks (State.draw_mk s )).trans rfl
@[simp] theorem State.draw_waiting (s : State) : (s.draw ).waiting = s.waiting := (congrArg State.waiting (State.draw_mk s )).trans rfl
@[simp] theorem State.draw_caches (s : State) : (s.draw ).caches = s.caches := (congrArg State.caches (State.draw_mk s )).trans rfl
@[simp] theorem State.draw_upds (s : State) : (s.draw ).upds = s.upds := (congrArg State.upds (State.draw_mk s )).trans rfl
@[simp] theorem State.draw_ovf (s : State) : (s.draw ).ovf = s.ovf := (congrArg State.ovf (State.draw_mk s )).trans rfl
@[simp] theorem State.draw_recipes (s : State) : (s.draw ).recipes = s.recipes := (congrArg State.recipes (State.draw_mk s )).trans rfl
@[simp] theorem State.draw_recipeLoad (s : State) : (s.draw ).recipeLoad = s.recipeLoad := (congrArg State.recipeLoad (State.draw_mk s )).trans rfl
@[simp] theorem State.draw_ports (s : State) : (s.draw ).ports = s.ports := (congrArg State.ports (State.draw_mk s )).trans rfl
@[simp] theorem State.draw_route (s : State) : (s.draw ).route = s.route := (congrArg State.route (State.draw_mk s )).trans rfl
@[simp] theorem State.draw_keytab (s : State) : (s.draw ).keytab = s.keytab := (congrArg State.keytab (State.draw_mk s )).trans rfl
@[simp] theorem State.draw_wmap (s : State) : (s.draw ).wmap = s.wmap := (congrArg State.wmap (State.draw_mk s )).trans rfl
@[simp] theorem State.draw_wmapLoad (s : State) : (s.draw ).wmapLoad = s.wmapLoad := (congrArg State.wmapLoad (State.draw_mk s )).trans rfl
@[simp] theorem State.draw_colls (s : State) : (s.draw ).colls = s.colls := (congrArg State.colls (State.draw_mk s )).trans rfl
@[simp] theorem State.draw_readys (s : State) : (s.draw ).readys = s.readys := (congrArg State.readys (State.draw_mk s )).trans rfl
@[simp] theorem State.draw_readds (s : State) : (s.draw ).readds = s.readds := (congrArg State.readds (State.draw_mk s )).trans rfl
@[simp] theorem State.draw_looped (s : State) : (s.draw ).looped = s.looped := (congrArg State.looped (State.draw_mk s )).trans rfl
@[simp] theorem State.draw_sramScrub (s : State) : (s.draw ).sramScrub = s.sramScrub := (congrArg State.sramScrub (State.draw_mk s )).trans rfl
@[simp] theorem State.draw_twin (s : State) : (s.draw ).twin = s.twin := (congrArg State.twin (State.draw_mk s )).trans rfl
@[simp] theorem State.draw_slots (s : State) : (s.draw ).slots = s.slots := (congrArg State.slots (State.draw_mk s )).trans rfl
@[simp] theorem State.draw_seatLoad (s : State) : (s.draw ).seatLoad = s.seatLoad := (congrArg State.seatLoad (State.draw_mk s )).trans rfl
@[simp] theorem State.draw_unison (s : State) : (s.draw ).unison = s.unison := (congrArg State.unison (State.draw_mk s )).trans rfl
@[simp] theorem State.draw_tune (s : State) : (s.draw ).tune = s.tune := (congrArg State.tune (State.draw_mk s )).trans rfl
@[simp] theorem State.draw_log (s : State) : (s.draw ).log = s.log := (congrArg State.log (State.draw_mk s )).trans rfl
@[simp] theorem State.draw_logHead (s : State) : (s.draw ).logHead = s.logHead := (congrArg State.logHead (State.draw_mk s )).trans rfl
@[simp] theorem State.draw_dies (s : State) : (s.draw ).dies = s.dies := (congrArg State.dies (State.draw_mk s )).trans rfl
@[simp] theorem State.draw_links (s : State) : (s.draw ).links = s.links := (congrArg State.links (State.draw_mk s )).trans rfl
@[simp] theorem State.draw_bundles (s : State) : (s.draw ).bundles = s.bundles := (congrArg State.bundles (State.draw_mk s )).trans rfl
@[simp] theorem State.draw_lanes (s : State) : (s.draw ).lanes = s.lanes := (congrArg State.lanes (State.draw_mk s )).trans rfl
@[simp] theorem State.draw_pwr (s : State) : (s.draw ).pwr = s.pwr := (congrArg State.pwr (State.draw_mk s )).trans rfl
@[simp] theorem State.draw_start (s : State) : (s.draw ).start = s.start := (congrArg State.start (State.draw_mk s )).trans rfl
@[simp] theorem State.draw_flash (s : State) : (s.draw ).flash = s.flash := (congrArg State.flash (State.draw_mk s )).trans rfl
@[simp] theorem State.draw_sessions (s : State) : (s.draw ).sessions = s.sessions := (congrArg State.sessions (State.draw_mk s )).trans rfl
@[simp] theorem State.draw_fw (s : State) : (s.draw ).fw = s.fw := (congrArg State.fw (State.draw_mk s )).trans rfl
@[simp] theorem State.draw_spdm (s : State) : (s.draw ).spdm = s.spdm := (congrArg State.spdm (State.draw_mk s )).trans rfl
@[simp] theorem State.draw_cxl (s : State) : (s.draw ).cxl = s.cxl := (congrArg State.cxl (State.draw_mk s )).trans rfl
@[simp] theorem State.draw_nextReq (s : State) : (s.draw ).nextReq = s.nextReq := (congrArg State.nextReq (State.draw_mk s )).trans rfl
@[simp] theorem State.draw_out (s : State) : (s.draw ).out = s.out := (congrArg State.out (State.draw_mk s )).trans rfl

theorem State.updRec_def (s : State) (n : Nat) (f : Stream → Stream) : s.updRec n f = s.setStream n { f (s.stream n) with gen := (f (s.stream n)).gen + 1 } := rfl

@[simp] theorem State.updRec_pending (s : State) (n : Nat) (f : Stream → Stream) : (s.updRec n f).pending = s.pending := by rw [State.updRec_def, State.setStream_pending]
@[simp] theorem State.updRec_regs (s : State) (n : Nat) (f : Stream → Stream) : (s.updRec n f).regs = s.regs := by rw [State.updRec_def, State.setStream_regs]
@[simp] theorem State.updRec_latches (s : State) (n : Nat) (f : Stream → Stream) : (s.updRec n f).latches = s.latches := by rw [State.updRec_def, State.setStream_latches]
@[simp] theorem State.updRec_heldLo (s : State) (n : Nat) (f : Stream → Stream) : (s.updRec n f).heldLo = s.heldLo := by rw [State.updRec_def, State.setStream_heldLo]
@[simp] theorem State.updRec_mem (s : State) (n : Nat) (f : Stream → Stream) : (s.updRec n f).mem = s.mem := by rw [State.updRec_def, State.setStream_mem]
@[simp] theorem State.updRec_jobs (s : State) (n : Nat) (f : Stream → Stream) : (s.updRec n f).jobs = s.jobs := by rw [State.updRec_def, State.setStream_jobs]
@[simp] theorem State.updRec_regions (s : State) (n : Nat) (f : Stream → Stream) : (s.updRec n f).regions = s.regions := by rw [State.updRec_def, State.setStream_regions]
@[simp] theorem State.updRec_engines (s : State) (n : Nat) (f : Stream → Stream) : (s.updRec n f).engines = s.engines := by rw [State.updRec_def, State.setStream_engines]
@[simp] theorem State.updRec_arrays (s : State) (n : Nat) (f : Stream → Stream) : (s.updRec n f).arrays = s.arrays := by rw [State.updRec_def, State.setStream_arrays]
@[simp] theorem State.updRec_chucks (s : State) (n : Nat) (f : Stream → Stream) : (s.updRec n f).chucks = s.chucks := by rw [State.updRec_def, State.setStream_chucks]
@[simp] theorem State.updRec_waiting (s : State) (n : Nat) (f : Stream → Stream) : (s.updRec n f).waiting = s.waiting := by rw [State.updRec_def, State.setStream_waiting]
@[simp] theorem State.updRec_caches (s : State) (n : Nat) (f : Stream → Stream) : (s.updRec n f).caches = s.caches := by rw [State.updRec_def, State.setStream_caches]
@[simp] theorem State.updRec_upds (s : State) (n : Nat) (f : Stream → Stream) : (s.updRec n f).upds = s.upds := by rw [State.updRec_def, State.setStream_upds]
@[simp] theorem State.updRec_ovf (s : State) (n : Nat) (f : Stream → Stream) : (s.updRec n f).ovf = s.ovf := by rw [State.updRec_def, State.setStream_ovf]
@[simp] theorem State.updRec_recipes (s : State) (n : Nat) (f : Stream → Stream) : (s.updRec n f).recipes = s.recipes := by rw [State.updRec_def, State.setStream_recipes]
@[simp] theorem State.updRec_recipeLoad (s : State) (n : Nat) (f : Stream → Stream) : (s.updRec n f).recipeLoad = s.recipeLoad := by rw [State.updRec_def, State.setStream_recipeLoad]
@[simp] theorem State.updRec_ports (s : State) (n : Nat) (f : Stream → Stream) : (s.updRec n f).ports = s.ports := by rw [State.updRec_def, State.setStream_ports]
@[simp] theorem State.updRec_route (s : State) (n : Nat) (f : Stream → Stream) : (s.updRec n f).route = s.route := by rw [State.updRec_def, State.setStream_route]
@[simp] theorem State.updRec_keytab (s : State) (n : Nat) (f : Stream → Stream) : (s.updRec n f).keytab = s.keytab := by rw [State.updRec_def, State.setStream_keytab]
@[simp] theorem State.updRec_wmap (s : State) (n : Nat) (f : Stream → Stream) : (s.updRec n f).wmap = s.wmap := by rw [State.updRec_def, State.setStream_wmap]
@[simp] theorem State.updRec_wmapLoad (s : State) (n : Nat) (f : Stream → Stream) : (s.updRec n f).wmapLoad = s.wmapLoad := by rw [State.updRec_def, State.setStream_wmapLoad]
@[simp] theorem State.updRec_colls (s : State) (n : Nat) (f : Stream → Stream) : (s.updRec n f).colls = s.colls := by rw [State.updRec_def, State.setStream_colls]
@[simp] theorem State.updRec_readys (s : State) (n : Nat) (f : Stream → Stream) : (s.updRec n f).readys = s.readys := by rw [State.updRec_def, State.setStream_readys]
@[simp] theorem State.updRec_readds (s : State) (n : Nat) (f : Stream → Stream) : (s.updRec n f).readds = s.readds := by rw [State.updRec_def, State.setStream_readds]
@[simp] theorem State.updRec_looped (s : State) (n : Nat) (f : Stream → Stream) : (s.updRec n f).looped = s.looped := by rw [State.updRec_def, State.setStream_looped]
@[simp] theorem State.updRec_sramScrub (s : State) (n : Nat) (f : Stream → Stream) : (s.updRec n f).sramScrub = s.sramScrub := by rw [State.updRec_def, State.setStream_sramScrub]
@[simp] theorem State.updRec_twin (s : State) (n : Nat) (f : Stream → Stream) : (s.updRec n f).twin = s.twin := by rw [State.updRec_def, State.setStream_twin]
@[simp] theorem State.updRec_slots (s : State) (n : Nat) (f : Stream → Stream) : (s.updRec n f).slots = s.slots := by rw [State.updRec_def, State.setStream_slots]
@[simp] theorem State.updRec_seatLoad (s : State) (n : Nat) (f : Stream → Stream) : (s.updRec n f).seatLoad = s.seatLoad := by rw [State.updRec_def, State.setStream_seatLoad]
@[simp] theorem State.updRec_unison (s : State) (n : Nat) (f : Stream → Stream) : (s.updRec n f).unison = s.unison := by rw [State.updRec_def, State.setStream_unison]
@[simp] theorem State.updRec_tune (s : State) (n : Nat) (f : Stream → Stream) : (s.updRec n f).tune = s.tune := by rw [State.updRec_def, State.setStream_tune]
@[simp] theorem State.updRec_log (s : State) (n : Nat) (f : Stream → Stream) : (s.updRec n f).log = s.log := by rw [State.updRec_def, State.setStream_log]
@[simp] theorem State.updRec_logHead (s : State) (n : Nat) (f : Stream → Stream) : (s.updRec n f).logHead = s.logHead := by rw [State.updRec_def, State.setStream_logHead]
@[simp] theorem State.updRec_dies (s : State) (n : Nat) (f : Stream → Stream) : (s.updRec n f).dies = s.dies := by rw [State.updRec_def, State.setStream_dies]
@[simp] theorem State.updRec_links (s : State) (n : Nat) (f : Stream → Stream) : (s.updRec n f).links = s.links := by rw [State.updRec_def, State.setStream_links]
@[simp] theorem State.updRec_bundles (s : State) (n : Nat) (f : Stream → Stream) : (s.updRec n f).bundles = s.bundles := by rw [State.updRec_def, State.setStream_bundles]
@[simp] theorem State.updRec_lanes (s : State) (n : Nat) (f : Stream → Stream) : (s.updRec n f).lanes = s.lanes := by rw [State.updRec_def, State.setStream_lanes]
@[simp] theorem State.updRec_pwr (s : State) (n : Nat) (f : Stream → Stream) : (s.updRec n f).pwr = s.pwr := by rw [State.updRec_def, State.setStream_pwr]
@[simp] theorem State.updRec_start (s : State) (n : Nat) (f : Stream → Stream) : (s.updRec n f).start = s.start := by rw [State.updRec_def, State.setStream_start]
@[simp] theorem State.updRec_flash (s : State) (n : Nat) (f : Stream → Stream) : (s.updRec n f).flash = s.flash := by rw [State.updRec_def, State.setStream_flash]
@[simp] theorem State.updRec_sessions (s : State) (n : Nat) (f : Stream → Stream) : (s.updRec n f).sessions = s.sessions := by rw [State.updRec_def, State.setStream_sessions]
@[simp] theorem State.updRec_fw (s : State) (n : Nat) (f : Stream → Stream) : (s.updRec n f).fw = s.fw := by rw [State.updRec_def, State.setStream_fw]
@[simp] theorem State.updRec_spdm (s : State) (n : Nat) (f : Stream → Stream) : (s.updRec n f).spdm = s.spdm := by rw [State.updRec_def, State.setStream_spdm]
@[simp] theorem State.updRec_cxl (s : State) (n : Nat) (f : Stream → Stream) : (s.updRec n f).cxl = s.cxl := by rw [State.updRec_def, State.setStream_cxl]
@[simp] theorem State.updRec_nextReq (s : State) (n : Nat) (f : Stream → Stream) : (s.updRec n f).nextReq = s.nextReq := by rw [State.updRec_def, State.setStream_nextReq]
@[simp] theorem State.updRec_free (s : State) (n : Nat) (f : Stream → Stream) : (s.updRec n f).free = s.free := by rw [State.updRec_def, State.setStream_free]
@[simp] theorem State.updRec_out (s : State) (n : Nat) (f : Stream → Stream) : (s.updRec n f).out = s.out := by rw [State.updRec_def, State.setStream_out]

theorem State.setBits_def (s : State) (pg : Page) (off : Nat) (v : U32) (m : Nat) : s.setBits pg off v m = s.setReg pg off (mergeBits (s.reg pg off) v m) := rfl

@[simp] theorem State.setBits_pending (s : State) (pg : Page) (off : Nat) (v : U32) (m : Nat) : (s.setBits pg off v m).pending = s.pending := by rw [State.setBits_def, State.setReg_pending]
@[simp] theorem State.setBits_latches (s : State) (pg : Page) (off : Nat) (v : U32) (m : Nat) : (s.setBits pg off v m).latches = s.latches := by rw [State.setBits_def, State.setReg_latches]
@[simp] theorem State.setBits_heldLo (s : State) (pg : Page) (off : Nat) (v : U32) (m : Nat) : (s.setBits pg off v m).heldLo = s.heldLo := by rw [State.setBits_def, State.setReg_heldLo]
@[simp] theorem State.setBits_mem (s : State) (pg : Page) (off : Nat) (v : U32) (m : Nat) : (s.setBits pg off v m).mem = s.mem := by rw [State.setBits_def, State.setReg_mem]
@[simp] theorem State.setBits_streams (s : State) (pg : Page) (off : Nat) (v : U32) (m : Nat) : (s.setBits pg off v m).streams = s.streams := by rw [State.setBits_def, State.setReg_streams]
@[simp] theorem State.setBits_jobs (s : State) (pg : Page) (off : Nat) (v : U32) (m : Nat) : (s.setBits pg off v m).jobs = s.jobs := by rw [State.setBits_def, State.setReg_jobs]
@[simp] theorem State.setBits_regions (s : State) (pg : Page) (off : Nat) (v : U32) (m : Nat) : (s.setBits pg off v m).regions = s.regions := by rw [State.setBits_def, State.setReg_regions]
@[simp] theorem State.setBits_engines (s : State) (pg : Page) (off : Nat) (v : U32) (m : Nat) : (s.setBits pg off v m).engines = s.engines := by rw [State.setBits_def, State.setReg_engines]
@[simp] theorem State.setBits_arrays (s : State) (pg : Page) (off : Nat) (v : U32) (m : Nat) : (s.setBits pg off v m).arrays = s.arrays := by rw [State.setBits_def, State.setReg_arrays]
@[simp] theorem State.setBits_chucks (s : State) (pg : Page) (off : Nat) (v : U32) (m : Nat) : (s.setBits pg off v m).chucks = s.chucks := by rw [State.setBits_def, State.setReg_chucks]
@[simp] theorem State.setBits_waiting (s : State) (pg : Page) (off : Nat) (v : U32) (m : Nat) : (s.setBits pg off v m).waiting = s.waiting := by rw [State.setBits_def, State.setReg_waiting]
@[simp] theorem State.setBits_caches (s : State) (pg : Page) (off : Nat) (v : U32) (m : Nat) : (s.setBits pg off v m).caches = s.caches := by rw [State.setBits_def, State.setReg_caches]
@[simp] theorem State.setBits_upds (s : State) (pg : Page) (off : Nat) (v : U32) (m : Nat) : (s.setBits pg off v m).upds = s.upds := by rw [State.setBits_def, State.setReg_upds]
@[simp] theorem State.setBits_ovf (s : State) (pg : Page) (off : Nat) (v : U32) (m : Nat) : (s.setBits pg off v m).ovf = s.ovf := by rw [State.setBits_def, State.setReg_ovf]
@[simp] theorem State.setBits_recipes (s : State) (pg : Page) (off : Nat) (v : U32) (m : Nat) : (s.setBits pg off v m).recipes = s.recipes := by rw [State.setBits_def, State.setReg_recipes]
@[simp] theorem State.setBits_recipeLoad (s : State) (pg : Page) (off : Nat) (v : U32) (m : Nat) : (s.setBits pg off v m).recipeLoad = s.recipeLoad := by rw [State.setBits_def, State.setReg_recipeLoad]
@[simp] theorem State.setBits_ports (s : State) (pg : Page) (off : Nat) (v : U32) (m : Nat) : (s.setBits pg off v m).ports = s.ports := by rw [State.setBits_def, State.setReg_ports]
@[simp] theorem State.setBits_route (s : State) (pg : Page) (off : Nat) (v : U32) (m : Nat) : (s.setBits pg off v m).route = s.route := by rw [State.setBits_def, State.setReg_route]
@[simp] theorem State.setBits_keytab (s : State) (pg : Page) (off : Nat) (v : U32) (m : Nat) : (s.setBits pg off v m).keytab = s.keytab := by rw [State.setBits_def, State.setReg_keytab]
@[simp] theorem State.setBits_wmap (s : State) (pg : Page) (off : Nat) (v : U32) (m : Nat) : (s.setBits pg off v m).wmap = s.wmap := by rw [State.setBits_def, State.setReg_wmap]
@[simp] theorem State.setBits_wmapLoad (s : State) (pg : Page) (off : Nat) (v : U32) (m : Nat) : (s.setBits pg off v m).wmapLoad = s.wmapLoad := by rw [State.setBits_def, State.setReg_wmapLoad]
@[simp] theorem State.setBits_colls (s : State) (pg : Page) (off : Nat) (v : U32) (m : Nat) : (s.setBits pg off v m).colls = s.colls := by rw [State.setBits_def, State.setReg_colls]
@[simp] theorem State.setBits_readys (s : State) (pg : Page) (off : Nat) (v : U32) (m : Nat) : (s.setBits pg off v m).readys = s.readys := by rw [State.setBits_def, State.setReg_readys]
@[simp] theorem State.setBits_readds (s : State) (pg : Page) (off : Nat) (v : U32) (m : Nat) : (s.setBits pg off v m).readds = s.readds := by rw [State.setBits_def, State.setReg_readds]
@[simp] theorem State.setBits_looped (s : State) (pg : Page) (off : Nat) (v : U32) (m : Nat) : (s.setBits pg off v m).looped = s.looped := by rw [State.setBits_def, State.setReg_looped]
@[simp] theorem State.setBits_sramScrub (s : State) (pg : Page) (off : Nat) (v : U32) (m : Nat) : (s.setBits pg off v m).sramScrub = s.sramScrub := by rw [State.setBits_def, State.setReg_sramScrub]
@[simp] theorem State.setBits_twin (s : State) (pg : Page) (off : Nat) (v : U32) (m : Nat) : (s.setBits pg off v m).twin = s.twin := by rw [State.setBits_def, State.setReg_twin]
@[simp] theorem State.setBits_slots (s : State) (pg : Page) (off : Nat) (v : U32) (m : Nat) : (s.setBits pg off v m).slots = s.slots := by rw [State.setBits_def, State.setReg_slots]
@[simp] theorem State.setBits_seatLoad (s : State) (pg : Page) (off : Nat) (v : U32) (m : Nat) : (s.setBits pg off v m).seatLoad = s.seatLoad := by rw [State.setBits_def, State.setReg_seatLoad]
@[simp] theorem State.setBits_unison (s : State) (pg : Page) (off : Nat) (v : U32) (m : Nat) : (s.setBits pg off v m).unison = s.unison := by rw [State.setBits_def, State.setReg_unison]
@[simp] theorem State.setBits_tune (s : State) (pg : Page) (off : Nat) (v : U32) (m : Nat) : (s.setBits pg off v m).tune = s.tune := by rw [State.setBits_def, State.setReg_tune]
@[simp] theorem State.setBits_log (s : State) (pg : Page) (off : Nat) (v : U32) (m : Nat) : (s.setBits pg off v m).log = s.log := by rw [State.setBits_def, State.setReg_log]
@[simp] theorem State.setBits_logHead (s : State) (pg : Page) (off : Nat) (v : U32) (m : Nat) : (s.setBits pg off v m).logHead = s.logHead := by rw [State.setBits_def, State.setReg_logHead]
@[simp] theorem State.setBits_dies (s : State) (pg : Page) (off : Nat) (v : U32) (m : Nat) : (s.setBits pg off v m).dies = s.dies := by rw [State.setBits_def, State.setReg_dies]
@[simp] theorem State.setBits_links (s : State) (pg : Page) (off : Nat) (v : U32) (m : Nat) : (s.setBits pg off v m).links = s.links := by rw [State.setBits_def, State.setReg_links]
@[simp] theorem State.setBits_bundles (s : State) (pg : Page) (off : Nat) (v : U32) (m : Nat) : (s.setBits pg off v m).bundles = s.bundles := by rw [State.setBits_def, State.setReg_bundles]
@[simp] theorem State.setBits_lanes (s : State) (pg : Page) (off : Nat) (v : U32) (m : Nat) : (s.setBits pg off v m).lanes = s.lanes := by rw [State.setBits_def, State.setReg_lanes]
@[simp] theorem State.setBits_pwr (s : State) (pg : Page) (off : Nat) (v : U32) (m : Nat) : (s.setBits pg off v m).pwr = s.pwr := by rw [State.setBits_def, State.setReg_pwr]
@[simp] theorem State.setBits_start (s : State) (pg : Page) (off : Nat) (v : U32) (m : Nat) : (s.setBits pg off v m).start = s.start := by rw [State.setBits_def, State.setReg_start]
@[simp] theorem State.setBits_flash (s : State) (pg : Page) (off : Nat) (v : U32) (m : Nat) : (s.setBits pg off v m).flash = s.flash := by rw [State.setBits_def, State.setReg_flash]
@[simp] theorem State.setBits_sessions (s : State) (pg : Page) (off : Nat) (v : U32) (m : Nat) : (s.setBits pg off v m).sessions = s.sessions := by rw [State.setBits_def, State.setReg_sessions]
@[simp] theorem State.setBits_fw (s : State) (pg : Page) (off : Nat) (v : U32) (m : Nat) : (s.setBits pg off v m).fw = s.fw := by rw [State.setBits_def, State.setReg_fw]
@[simp] theorem State.setBits_spdm (s : State) (pg : Page) (off : Nat) (v : U32) (m : Nat) : (s.setBits pg off v m).spdm = s.spdm := by rw [State.setBits_def, State.setReg_spdm]
@[simp] theorem State.setBits_cxl (s : State) (pg : Page) (off : Nat) (v : U32) (m : Nat) : (s.setBits pg off v m).cxl = s.cxl := by rw [State.setBits_def, State.setReg_cxl]
@[simp] theorem State.setBits_nextReq (s : State) (pg : Page) (off : Nat) (v : U32) (m : Nat) : (s.setBits pg off v m).nextReq = s.nextReq := by rw [State.setBits_def, State.setReg_nextReq]
@[simp] theorem State.setBits_free (s : State) (pg : Page) (off : Nat) (v : U32) (m : Nat) : (s.setBits pg off v m).free = s.free := by rw [State.setBits_def, State.setReg_free]
@[simp] theorem State.setBits_out (s : State) (pg : Page) (off : Nat) (v : U32) (m : Nat) : (s.setBits pg off v m).out = s.out := by rw [State.setBits_def, State.setReg_out]

theorem State.countSat_def (s : State) (pg : Page) (off n : Nat) : s.countSat pg off n = s.setReg pg off (satAdd (s.reg pg off) n) := rfl

@[simp] theorem State.countSat_pending (s : State) (pg : Page) (off n : Nat) : (s.countSat pg off n).pending = s.pending := by rw [State.countSat_def, State.setReg_pending]
@[simp] theorem State.countSat_latches (s : State) (pg : Page) (off n : Nat) : (s.countSat pg off n).latches = s.latches := by rw [State.countSat_def, State.setReg_latches]
@[simp] theorem State.countSat_heldLo (s : State) (pg : Page) (off n : Nat) : (s.countSat pg off n).heldLo = s.heldLo := by rw [State.countSat_def, State.setReg_heldLo]
@[simp] theorem State.countSat_mem (s : State) (pg : Page) (off n : Nat) : (s.countSat pg off n).mem = s.mem := by rw [State.countSat_def, State.setReg_mem]
@[simp] theorem State.countSat_streams (s : State) (pg : Page) (off n : Nat) : (s.countSat pg off n).streams = s.streams := by rw [State.countSat_def, State.setReg_streams]
@[simp] theorem State.countSat_jobs (s : State) (pg : Page) (off n : Nat) : (s.countSat pg off n).jobs = s.jobs := by rw [State.countSat_def, State.setReg_jobs]
@[simp] theorem State.countSat_regions (s : State) (pg : Page) (off n : Nat) : (s.countSat pg off n).regions = s.regions := by rw [State.countSat_def, State.setReg_regions]
@[simp] theorem State.countSat_engines (s : State) (pg : Page) (off n : Nat) : (s.countSat pg off n).engines = s.engines := by rw [State.countSat_def, State.setReg_engines]
@[simp] theorem State.countSat_arrays (s : State) (pg : Page) (off n : Nat) : (s.countSat pg off n).arrays = s.arrays := by rw [State.countSat_def, State.setReg_arrays]
@[simp] theorem State.countSat_chucks (s : State) (pg : Page) (off n : Nat) : (s.countSat pg off n).chucks = s.chucks := by rw [State.countSat_def, State.setReg_chucks]
@[simp] theorem State.countSat_waiting (s : State) (pg : Page) (off n : Nat) : (s.countSat pg off n).waiting = s.waiting := by rw [State.countSat_def, State.setReg_waiting]
@[simp] theorem State.countSat_caches (s : State) (pg : Page) (off n : Nat) : (s.countSat pg off n).caches = s.caches := by rw [State.countSat_def, State.setReg_caches]
@[simp] theorem State.countSat_upds (s : State) (pg : Page) (off n : Nat) : (s.countSat pg off n).upds = s.upds := by rw [State.countSat_def, State.setReg_upds]
@[simp] theorem State.countSat_ovf (s : State) (pg : Page) (off n : Nat) : (s.countSat pg off n).ovf = s.ovf := by rw [State.countSat_def, State.setReg_ovf]
@[simp] theorem State.countSat_recipes (s : State) (pg : Page) (off n : Nat) : (s.countSat pg off n).recipes = s.recipes := by rw [State.countSat_def, State.setReg_recipes]
@[simp] theorem State.countSat_recipeLoad (s : State) (pg : Page) (off n : Nat) : (s.countSat pg off n).recipeLoad = s.recipeLoad := by rw [State.countSat_def, State.setReg_recipeLoad]
@[simp] theorem State.countSat_ports (s : State) (pg : Page) (off n : Nat) : (s.countSat pg off n).ports = s.ports := by rw [State.countSat_def, State.setReg_ports]
@[simp] theorem State.countSat_route (s : State) (pg : Page) (off n : Nat) : (s.countSat pg off n).route = s.route := by rw [State.countSat_def, State.setReg_route]
@[simp] theorem State.countSat_keytab (s : State) (pg : Page) (off n : Nat) : (s.countSat pg off n).keytab = s.keytab := by rw [State.countSat_def, State.setReg_keytab]
@[simp] theorem State.countSat_wmap (s : State) (pg : Page) (off n : Nat) : (s.countSat pg off n).wmap = s.wmap := by rw [State.countSat_def, State.setReg_wmap]
@[simp] theorem State.countSat_wmapLoad (s : State) (pg : Page) (off n : Nat) : (s.countSat pg off n).wmapLoad = s.wmapLoad := by rw [State.countSat_def, State.setReg_wmapLoad]
@[simp] theorem State.countSat_colls (s : State) (pg : Page) (off n : Nat) : (s.countSat pg off n).colls = s.colls := by rw [State.countSat_def, State.setReg_colls]
@[simp] theorem State.countSat_readys (s : State) (pg : Page) (off n : Nat) : (s.countSat pg off n).readys = s.readys := by rw [State.countSat_def, State.setReg_readys]
@[simp] theorem State.countSat_readds (s : State) (pg : Page) (off n : Nat) : (s.countSat pg off n).readds = s.readds := by rw [State.countSat_def, State.setReg_readds]
@[simp] theorem State.countSat_looped (s : State) (pg : Page) (off n : Nat) : (s.countSat pg off n).looped = s.looped := by rw [State.countSat_def, State.setReg_looped]
@[simp] theorem State.countSat_sramScrub (s : State) (pg : Page) (off n : Nat) : (s.countSat pg off n).sramScrub = s.sramScrub := by rw [State.countSat_def, State.setReg_sramScrub]
@[simp] theorem State.countSat_twin (s : State) (pg : Page) (off n : Nat) : (s.countSat pg off n).twin = s.twin := by rw [State.countSat_def, State.setReg_twin]
@[simp] theorem State.countSat_slots (s : State) (pg : Page) (off n : Nat) : (s.countSat pg off n).slots = s.slots := by rw [State.countSat_def, State.setReg_slots]
@[simp] theorem State.countSat_seatLoad (s : State) (pg : Page) (off n : Nat) : (s.countSat pg off n).seatLoad = s.seatLoad := by rw [State.countSat_def, State.setReg_seatLoad]
@[simp] theorem State.countSat_unison (s : State) (pg : Page) (off n : Nat) : (s.countSat pg off n).unison = s.unison := by rw [State.countSat_def, State.setReg_unison]
@[simp] theorem State.countSat_tune (s : State) (pg : Page) (off n : Nat) : (s.countSat pg off n).tune = s.tune := by rw [State.countSat_def, State.setReg_tune]
@[simp] theorem State.countSat_log (s : State) (pg : Page) (off n : Nat) : (s.countSat pg off n).log = s.log := by rw [State.countSat_def, State.setReg_log]
@[simp] theorem State.countSat_logHead (s : State) (pg : Page) (off n : Nat) : (s.countSat pg off n).logHead = s.logHead := by rw [State.countSat_def, State.setReg_logHead]
@[simp] theorem State.countSat_dies (s : State) (pg : Page) (off n : Nat) : (s.countSat pg off n).dies = s.dies := by rw [State.countSat_def, State.setReg_dies]
@[simp] theorem State.countSat_links (s : State) (pg : Page) (off n : Nat) : (s.countSat pg off n).links = s.links := by rw [State.countSat_def, State.setReg_links]
@[simp] theorem State.countSat_bundles (s : State) (pg : Page) (off n : Nat) : (s.countSat pg off n).bundles = s.bundles := by rw [State.countSat_def, State.setReg_bundles]
@[simp] theorem State.countSat_lanes (s : State) (pg : Page) (off n : Nat) : (s.countSat pg off n).lanes = s.lanes := by rw [State.countSat_def, State.setReg_lanes]
@[simp] theorem State.countSat_pwr (s : State) (pg : Page) (off n : Nat) : (s.countSat pg off n).pwr = s.pwr := by rw [State.countSat_def, State.setReg_pwr]
@[simp] theorem State.countSat_start (s : State) (pg : Page) (off n : Nat) : (s.countSat pg off n).start = s.start := by rw [State.countSat_def, State.setReg_start]
@[simp] theorem State.countSat_flash (s : State) (pg : Page) (off n : Nat) : (s.countSat pg off n).flash = s.flash := by rw [State.countSat_def, State.setReg_flash]
@[simp] theorem State.countSat_sessions (s : State) (pg : Page) (off n : Nat) : (s.countSat pg off n).sessions = s.sessions := by rw [State.countSat_def, State.setReg_sessions]
@[simp] theorem State.countSat_fw (s : State) (pg : Page) (off n : Nat) : (s.countSat pg off n).fw = s.fw := by rw [State.countSat_def, State.setReg_fw]
@[simp] theorem State.countSat_spdm (s : State) (pg : Page) (off n : Nat) : (s.countSat pg off n).spdm = s.spdm := by rw [State.countSat_def, State.setReg_spdm]
@[simp] theorem State.countSat_cxl (s : State) (pg : Page) (off n : Nat) : (s.countSat pg off n).cxl = s.cxl := by rw [State.countSat_def, State.setReg_cxl]
@[simp] theorem State.countSat_nextReq (s : State) (pg : Page) (off n : Nat) : (s.countSat pg off n).nextReq = s.nextReq := by rw [State.countSat_def, State.setReg_nextReq]
@[simp] theorem State.countSat_free (s : State) (pg : Page) (off n : Nat) : (s.countSat pg off n).free = s.free := by rw [State.countSat_def, State.setReg_free]
@[simp] theorem State.countSat_out (s : State) (pg : Page) (off n : Nat) : (s.countSat pg off n).out = s.out := by rw [State.countSat_def, State.setReg_out]

theorem State.countWrap_def (s : State) (pg : Page) (off n : Nat) : s.countWrap pg off n = s.setReg pg off (s.reg pg off + BitVec.ofNat 32 n) := rfl

@[simp] theorem State.countWrap_pending (s : State) (pg : Page) (off n : Nat) : (s.countWrap pg off n).pending = s.pending := by rw [State.countWrap_def, State.setReg_pending]
@[simp] theorem State.countWrap_latches (s : State) (pg : Page) (off n : Nat) : (s.countWrap pg off n).latches = s.latches := by rw [State.countWrap_def, State.setReg_latches]
@[simp] theorem State.countWrap_heldLo (s : State) (pg : Page) (off n : Nat) : (s.countWrap pg off n).heldLo = s.heldLo := by rw [State.countWrap_def, State.setReg_heldLo]
@[simp] theorem State.countWrap_mem (s : State) (pg : Page) (off n : Nat) : (s.countWrap pg off n).mem = s.mem := by rw [State.countWrap_def, State.setReg_mem]
@[simp] theorem State.countWrap_streams (s : State) (pg : Page) (off n : Nat) : (s.countWrap pg off n).streams = s.streams := by rw [State.countWrap_def, State.setReg_streams]
@[simp] theorem State.countWrap_jobs (s : State) (pg : Page) (off n : Nat) : (s.countWrap pg off n).jobs = s.jobs := by rw [State.countWrap_def, State.setReg_jobs]
@[simp] theorem State.countWrap_regions (s : State) (pg : Page) (off n : Nat) : (s.countWrap pg off n).regions = s.regions := by rw [State.countWrap_def, State.setReg_regions]
@[simp] theorem State.countWrap_engines (s : State) (pg : Page) (off n : Nat) : (s.countWrap pg off n).engines = s.engines := by rw [State.countWrap_def, State.setReg_engines]
@[simp] theorem State.countWrap_arrays (s : State) (pg : Page) (off n : Nat) : (s.countWrap pg off n).arrays = s.arrays := by rw [State.countWrap_def, State.setReg_arrays]
@[simp] theorem State.countWrap_chucks (s : State) (pg : Page) (off n : Nat) : (s.countWrap pg off n).chucks = s.chucks := by rw [State.countWrap_def, State.setReg_chucks]
@[simp] theorem State.countWrap_waiting (s : State) (pg : Page) (off n : Nat) : (s.countWrap pg off n).waiting = s.waiting := by rw [State.countWrap_def, State.setReg_waiting]
@[simp] theorem State.countWrap_caches (s : State) (pg : Page) (off n : Nat) : (s.countWrap pg off n).caches = s.caches := by rw [State.countWrap_def, State.setReg_caches]
@[simp] theorem State.countWrap_upds (s : State) (pg : Page) (off n : Nat) : (s.countWrap pg off n).upds = s.upds := by rw [State.countWrap_def, State.setReg_upds]
@[simp] theorem State.countWrap_ovf (s : State) (pg : Page) (off n : Nat) : (s.countWrap pg off n).ovf = s.ovf := by rw [State.countWrap_def, State.setReg_ovf]
@[simp] theorem State.countWrap_recipes (s : State) (pg : Page) (off n : Nat) : (s.countWrap pg off n).recipes = s.recipes := by rw [State.countWrap_def, State.setReg_recipes]
@[simp] theorem State.countWrap_recipeLoad (s : State) (pg : Page) (off n : Nat) : (s.countWrap pg off n).recipeLoad = s.recipeLoad := by rw [State.countWrap_def, State.setReg_recipeLoad]
@[simp] theorem State.countWrap_ports (s : State) (pg : Page) (off n : Nat) : (s.countWrap pg off n).ports = s.ports := by rw [State.countWrap_def, State.setReg_ports]
@[simp] theorem State.countWrap_route (s : State) (pg : Page) (off n : Nat) : (s.countWrap pg off n).route = s.route := by rw [State.countWrap_def, State.setReg_route]
@[simp] theorem State.countWrap_keytab (s : State) (pg : Page) (off n : Nat) : (s.countWrap pg off n).keytab = s.keytab := by rw [State.countWrap_def, State.setReg_keytab]
@[simp] theorem State.countWrap_wmap (s : State) (pg : Page) (off n : Nat) : (s.countWrap pg off n).wmap = s.wmap := by rw [State.countWrap_def, State.setReg_wmap]
@[simp] theorem State.countWrap_wmapLoad (s : State) (pg : Page) (off n : Nat) : (s.countWrap pg off n).wmapLoad = s.wmapLoad := by rw [State.countWrap_def, State.setReg_wmapLoad]
@[simp] theorem State.countWrap_colls (s : State) (pg : Page) (off n : Nat) : (s.countWrap pg off n).colls = s.colls := by rw [State.countWrap_def, State.setReg_colls]
@[simp] theorem State.countWrap_readys (s : State) (pg : Page) (off n : Nat) : (s.countWrap pg off n).readys = s.readys := by rw [State.countWrap_def, State.setReg_readys]
@[simp] theorem State.countWrap_readds (s : State) (pg : Page) (off n : Nat) : (s.countWrap pg off n).readds = s.readds := by rw [State.countWrap_def, State.setReg_readds]
@[simp] theorem State.countWrap_looped (s : State) (pg : Page) (off n : Nat) : (s.countWrap pg off n).looped = s.looped := by rw [State.countWrap_def, State.setReg_looped]
@[simp] theorem State.countWrap_sramScrub (s : State) (pg : Page) (off n : Nat) : (s.countWrap pg off n).sramScrub = s.sramScrub := by rw [State.countWrap_def, State.setReg_sramScrub]
@[simp] theorem State.countWrap_twin (s : State) (pg : Page) (off n : Nat) : (s.countWrap pg off n).twin = s.twin := by rw [State.countWrap_def, State.setReg_twin]
@[simp] theorem State.countWrap_slots (s : State) (pg : Page) (off n : Nat) : (s.countWrap pg off n).slots = s.slots := by rw [State.countWrap_def, State.setReg_slots]
@[simp] theorem State.countWrap_seatLoad (s : State) (pg : Page) (off n : Nat) : (s.countWrap pg off n).seatLoad = s.seatLoad := by rw [State.countWrap_def, State.setReg_seatLoad]
@[simp] theorem State.countWrap_unison (s : State) (pg : Page) (off n : Nat) : (s.countWrap pg off n).unison = s.unison := by rw [State.countWrap_def, State.setReg_unison]
@[simp] theorem State.countWrap_tune (s : State) (pg : Page) (off n : Nat) : (s.countWrap pg off n).tune = s.tune := by rw [State.countWrap_def, State.setReg_tune]
@[simp] theorem State.countWrap_log (s : State) (pg : Page) (off n : Nat) : (s.countWrap pg off n).log = s.log := by rw [State.countWrap_def, State.setReg_log]
@[simp] theorem State.countWrap_logHead (s : State) (pg : Page) (off n : Nat) : (s.countWrap pg off n).logHead = s.logHead := by rw [State.countWrap_def, State.setReg_logHead]
@[simp] theorem State.countWrap_dies (s : State) (pg : Page) (off n : Nat) : (s.countWrap pg off n).dies = s.dies := by rw [State.countWrap_def, State.setReg_dies]
@[simp] theorem State.countWrap_links (s : State) (pg : Page) (off n : Nat) : (s.countWrap pg off n).links = s.links := by rw [State.countWrap_def, State.setReg_links]
@[simp] theorem State.countWrap_bundles (s : State) (pg : Page) (off n : Nat) : (s.countWrap pg off n).bundles = s.bundles := by rw [State.countWrap_def, State.setReg_bundles]
@[simp] theorem State.countWrap_lanes (s : State) (pg : Page) (off n : Nat) : (s.countWrap pg off n).lanes = s.lanes := by rw [State.countWrap_def, State.setReg_lanes]
@[simp] theorem State.countWrap_pwr (s : State) (pg : Page) (off n : Nat) : (s.countWrap pg off n).pwr = s.pwr := by rw [State.countWrap_def, State.setReg_pwr]
@[simp] theorem State.countWrap_start (s : State) (pg : Page) (off n : Nat) : (s.countWrap pg off n).start = s.start := by rw [State.countWrap_def, State.setReg_start]
@[simp] theorem State.countWrap_flash (s : State) (pg : Page) (off n : Nat) : (s.countWrap pg off n).flash = s.flash := by rw [State.countWrap_def, State.setReg_flash]
@[simp] theorem State.countWrap_sessions (s : State) (pg : Page) (off n : Nat) : (s.countWrap pg off n).sessions = s.sessions := by rw [State.countWrap_def, State.setReg_sessions]
@[simp] theorem State.countWrap_fw (s : State) (pg : Page) (off n : Nat) : (s.countWrap pg off n).fw = s.fw := by rw [State.countWrap_def, State.setReg_fw]
@[simp] theorem State.countWrap_spdm (s : State) (pg : Page) (off n : Nat) : (s.countWrap pg off n).spdm = s.spdm := by rw [State.countWrap_def, State.setReg_spdm]
@[simp] theorem State.countWrap_cxl (s : State) (pg : Page) (off n : Nat) : (s.countWrap pg off n).cxl = s.cxl := by rw [State.countWrap_def, State.setReg_cxl]
@[simp] theorem State.countWrap_nextReq (s : State) (pg : Page) (off n : Nat) : (s.countWrap pg off n).nextReq = s.nextReq := by rw [State.countWrap_def, State.setReg_nextReq]
@[simp] theorem State.countWrap_free (s : State) (pg : Page) (off n : Nat) : (s.countWrap pg off n).free = s.free := by rw [State.countWrap_def, State.setReg_free]
@[simp] theorem State.countWrap_out (s : State) (pg : Page) (off n : Nat) : (s.countWrap pg off n).out = s.out := by rw [State.countWrap_def, State.setReg_out]

theorem State.countPair_def (s : State) (pg : Page) (lo n : Nat) : s.countPair pg lo n = (s.setReg pg lo (BitVec.ofNat 32 (s.pair pg lo + n))).setReg pg (lo + 4) (BitVec.ofNat 32 ((s.pair pg lo + n) / 0x100000000)) := rfl

@[simp] theorem State.countPair_pending (s : State) (pg : Page) (lo n : Nat) : (s.countPair pg lo n).pending = s.pending := by rw [State.countPair_def, State.setReg_pending, State.setReg_pending]
@[simp] theorem State.countPair_latches (s : State) (pg : Page) (lo n : Nat) : (s.countPair pg lo n).latches = s.latches := by rw [State.countPair_def, State.setReg_latches, State.setReg_latches]
@[simp] theorem State.countPair_heldLo (s : State) (pg : Page) (lo n : Nat) : (s.countPair pg lo n).heldLo = s.heldLo := by rw [State.countPair_def, State.setReg_heldLo, State.setReg_heldLo]
@[simp] theorem State.countPair_mem (s : State) (pg : Page) (lo n : Nat) : (s.countPair pg lo n).mem = s.mem := by rw [State.countPair_def, State.setReg_mem, State.setReg_mem]
@[simp] theorem State.countPair_streams (s : State) (pg : Page) (lo n : Nat) : (s.countPair pg lo n).streams = s.streams := by rw [State.countPair_def, State.setReg_streams, State.setReg_streams]
@[simp] theorem State.countPair_jobs (s : State) (pg : Page) (lo n : Nat) : (s.countPair pg lo n).jobs = s.jobs := by rw [State.countPair_def, State.setReg_jobs, State.setReg_jobs]
@[simp] theorem State.countPair_regions (s : State) (pg : Page) (lo n : Nat) : (s.countPair pg lo n).regions = s.regions := by rw [State.countPair_def, State.setReg_regions, State.setReg_regions]
@[simp] theorem State.countPair_engines (s : State) (pg : Page) (lo n : Nat) : (s.countPair pg lo n).engines = s.engines := by rw [State.countPair_def, State.setReg_engines, State.setReg_engines]
@[simp] theorem State.countPair_arrays (s : State) (pg : Page) (lo n : Nat) : (s.countPair pg lo n).arrays = s.arrays := by rw [State.countPair_def, State.setReg_arrays, State.setReg_arrays]
@[simp] theorem State.countPair_chucks (s : State) (pg : Page) (lo n : Nat) : (s.countPair pg lo n).chucks = s.chucks := by rw [State.countPair_def, State.setReg_chucks, State.setReg_chucks]
@[simp] theorem State.countPair_waiting (s : State) (pg : Page) (lo n : Nat) : (s.countPair pg lo n).waiting = s.waiting := by rw [State.countPair_def, State.setReg_waiting, State.setReg_waiting]
@[simp] theorem State.countPair_caches (s : State) (pg : Page) (lo n : Nat) : (s.countPair pg lo n).caches = s.caches := by rw [State.countPair_def, State.setReg_caches, State.setReg_caches]
@[simp] theorem State.countPair_upds (s : State) (pg : Page) (lo n : Nat) : (s.countPair pg lo n).upds = s.upds := by rw [State.countPair_def, State.setReg_upds, State.setReg_upds]
@[simp] theorem State.countPair_ovf (s : State) (pg : Page) (lo n : Nat) : (s.countPair pg lo n).ovf = s.ovf := by rw [State.countPair_def, State.setReg_ovf, State.setReg_ovf]
@[simp] theorem State.countPair_recipes (s : State) (pg : Page) (lo n : Nat) : (s.countPair pg lo n).recipes = s.recipes := by rw [State.countPair_def, State.setReg_recipes, State.setReg_recipes]
@[simp] theorem State.countPair_recipeLoad (s : State) (pg : Page) (lo n : Nat) : (s.countPair pg lo n).recipeLoad = s.recipeLoad := by rw [State.countPair_def, State.setReg_recipeLoad, State.setReg_recipeLoad]
@[simp] theorem State.countPair_ports (s : State) (pg : Page) (lo n : Nat) : (s.countPair pg lo n).ports = s.ports := by rw [State.countPair_def, State.setReg_ports, State.setReg_ports]
@[simp] theorem State.countPair_route (s : State) (pg : Page) (lo n : Nat) : (s.countPair pg lo n).route = s.route := by rw [State.countPair_def, State.setReg_route, State.setReg_route]
@[simp] theorem State.countPair_keytab (s : State) (pg : Page) (lo n : Nat) : (s.countPair pg lo n).keytab = s.keytab := by rw [State.countPair_def, State.setReg_keytab, State.setReg_keytab]
@[simp] theorem State.countPair_wmap (s : State) (pg : Page) (lo n : Nat) : (s.countPair pg lo n).wmap = s.wmap := by rw [State.countPair_def, State.setReg_wmap, State.setReg_wmap]
@[simp] theorem State.countPair_wmapLoad (s : State) (pg : Page) (lo n : Nat) : (s.countPair pg lo n).wmapLoad = s.wmapLoad := by rw [State.countPair_def, State.setReg_wmapLoad, State.setReg_wmapLoad]
@[simp] theorem State.countPair_colls (s : State) (pg : Page) (lo n : Nat) : (s.countPair pg lo n).colls = s.colls := by rw [State.countPair_def, State.setReg_colls, State.setReg_colls]
@[simp] theorem State.countPair_readys (s : State) (pg : Page) (lo n : Nat) : (s.countPair pg lo n).readys = s.readys := by rw [State.countPair_def, State.setReg_readys, State.setReg_readys]
@[simp] theorem State.countPair_readds (s : State) (pg : Page) (lo n : Nat) : (s.countPair pg lo n).readds = s.readds := by rw [State.countPair_def, State.setReg_readds, State.setReg_readds]
@[simp] theorem State.countPair_looped (s : State) (pg : Page) (lo n : Nat) : (s.countPair pg lo n).looped = s.looped := by rw [State.countPair_def, State.setReg_looped, State.setReg_looped]
@[simp] theorem State.countPair_sramScrub (s : State) (pg : Page) (lo n : Nat) : (s.countPair pg lo n).sramScrub = s.sramScrub := by rw [State.countPair_def, State.setReg_sramScrub, State.setReg_sramScrub]
@[simp] theorem State.countPair_twin (s : State) (pg : Page) (lo n : Nat) : (s.countPair pg lo n).twin = s.twin := by rw [State.countPair_def, State.setReg_twin, State.setReg_twin]
@[simp] theorem State.countPair_slots (s : State) (pg : Page) (lo n : Nat) : (s.countPair pg lo n).slots = s.slots := by rw [State.countPair_def, State.setReg_slots, State.setReg_slots]
@[simp] theorem State.countPair_seatLoad (s : State) (pg : Page) (lo n : Nat) : (s.countPair pg lo n).seatLoad = s.seatLoad := by rw [State.countPair_def, State.setReg_seatLoad, State.setReg_seatLoad]
@[simp] theorem State.countPair_unison (s : State) (pg : Page) (lo n : Nat) : (s.countPair pg lo n).unison = s.unison := by rw [State.countPair_def, State.setReg_unison, State.setReg_unison]
@[simp] theorem State.countPair_tune (s : State) (pg : Page) (lo n : Nat) : (s.countPair pg lo n).tune = s.tune := by rw [State.countPair_def, State.setReg_tune, State.setReg_tune]
@[simp] theorem State.countPair_log (s : State) (pg : Page) (lo n : Nat) : (s.countPair pg lo n).log = s.log := by rw [State.countPair_def, State.setReg_log, State.setReg_log]
@[simp] theorem State.countPair_logHead (s : State) (pg : Page) (lo n : Nat) : (s.countPair pg lo n).logHead = s.logHead := by rw [State.countPair_def, State.setReg_logHead, State.setReg_logHead]
@[simp] theorem State.countPair_dies (s : State) (pg : Page) (lo n : Nat) : (s.countPair pg lo n).dies = s.dies := by rw [State.countPair_def, State.setReg_dies, State.setReg_dies]
@[simp] theorem State.countPair_links (s : State) (pg : Page) (lo n : Nat) : (s.countPair pg lo n).links = s.links := by rw [State.countPair_def, State.setReg_links, State.setReg_links]
@[simp] theorem State.countPair_bundles (s : State) (pg : Page) (lo n : Nat) : (s.countPair pg lo n).bundles = s.bundles := by rw [State.countPair_def, State.setReg_bundles, State.setReg_bundles]
@[simp] theorem State.countPair_lanes (s : State) (pg : Page) (lo n : Nat) : (s.countPair pg lo n).lanes = s.lanes := by rw [State.countPair_def, State.setReg_lanes, State.setReg_lanes]
@[simp] theorem State.countPair_pwr (s : State) (pg : Page) (lo n : Nat) : (s.countPair pg lo n).pwr = s.pwr := by rw [State.countPair_def, State.setReg_pwr, State.setReg_pwr]
@[simp] theorem State.countPair_start (s : State) (pg : Page) (lo n : Nat) : (s.countPair pg lo n).start = s.start := by rw [State.countPair_def, State.setReg_start, State.setReg_start]
@[simp] theorem State.countPair_flash (s : State) (pg : Page) (lo n : Nat) : (s.countPair pg lo n).flash = s.flash := by rw [State.countPair_def, State.setReg_flash, State.setReg_flash]
@[simp] theorem State.countPair_sessions (s : State) (pg : Page) (lo n : Nat) : (s.countPair pg lo n).sessions = s.sessions := by rw [State.countPair_def, State.setReg_sessions, State.setReg_sessions]
@[simp] theorem State.countPair_fw (s : State) (pg : Page) (lo n : Nat) : (s.countPair pg lo n).fw = s.fw := by rw [State.countPair_def, State.setReg_fw, State.setReg_fw]
@[simp] theorem State.countPair_spdm (s : State) (pg : Page) (lo n : Nat) : (s.countPair pg lo n).spdm = s.spdm := by rw [State.countPair_def, State.setReg_spdm, State.setReg_spdm]
@[simp] theorem State.countPair_cxl (s : State) (pg : Page) (lo n : Nat) : (s.countPair pg lo n).cxl = s.cxl := by rw [State.countPair_def, State.setReg_cxl, State.setReg_cxl]
@[simp] theorem State.countPair_nextReq (s : State) (pg : Page) (lo n : Nat) : (s.countPair pg lo n).nextReq = s.nextReq := by rw [State.countPair_def, State.setReg_nextReq, State.setReg_nextReq]
@[simp] theorem State.countPair_free (s : State) (pg : Page) (lo n : Nat) : (s.countPair pg lo n).free = s.free := by rw [State.countPair_def, State.setReg_free, State.setReg_free]
@[simp] theorem State.countPair_out (s : State) (pg : Page) (lo n : Nat) : (s.countPair pg lo n).out = s.out := by rw [State.countPair_def, State.setReg_out, State.setReg_out]

theorem State.setPair_def (s : State) (pg : Page) (lo v : Nat) : s.setPair pg lo v = (s.setReg pg lo (BitVec.ofNat 32 v)).setReg pg (lo + 4) (BitVec.ofNat 32 (v / 0x100000000)) := rfl

@[simp] theorem State.setPair_pending (s : State) (pg : Page) (lo v : Nat) : (s.setPair pg lo v).pending = s.pending := by rw [State.setPair_def, State.setReg_pending, State.setReg_pending]
@[simp] theorem State.setPair_latches (s : State) (pg : Page) (lo v : Nat) : (s.setPair pg lo v).latches = s.latches := by rw [State.setPair_def, State.setReg_latches, State.setReg_latches]
@[simp] theorem State.setPair_heldLo (s : State) (pg : Page) (lo v : Nat) : (s.setPair pg lo v).heldLo = s.heldLo := by rw [State.setPair_def, State.setReg_heldLo, State.setReg_heldLo]
@[simp] theorem State.setPair_mem (s : State) (pg : Page) (lo v : Nat) : (s.setPair pg lo v).mem = s.mem := by rw [State.setPair_def, State.setReg_mem, State.setReg_mem]
@[simp] theorem State.setPair_streams (s : State) (pg : Page) (lo v : Nat) : (s.setPair pg lo v).streams = s.streams := by rw [State.setPair_def, State.setReg_streams, State.setReg_streams]
@[simp] theorem State.setPair_jobs (s : State) (pg : Page) (lo v : Nat) : (s.setPair pg lo v).jobs = s.jobs := by rw [State.setPair_def, State.setReg_jobs, State.setReg_jobs]
@[simp] theorem State.setPair_regions (s : State) (pg : Page) (lo v : Nat) : (s.setPair pg lo v).regions = s.regions := by rw [State.setPair_def, State.setReg_regions, State.setReg_regions]
@[simp] theorem State.setPair_engines (s : State) (pg : Page) (lo v : Nat) : (s.setPair pg lo v).engines = s.engines := by rw [State.setPair_def, State.setReg_engines, State.setReg_engines]
@[simp] theorem State.setPair_arrays (s : State) (pg : Page) (lo v : Nat) : (s.setPair pg lo v).arrays = s.arrays := by rw [State.setPair_def, State.setReg_arrays, State.setReg_arrays]
@[simp] theorem State.setPair_chucks (s : State) (pg : Page) (lo v : Nat) : (s.setPair pg lo v).chucks = s.chucks := by rw [State.setPair_def, State.setReg_chucks, State.setReg_chucks]
@[simp] theorem State.setPair_waiting (s : State) (pg : Page) (lo v : Nat) : (s.setPair pg lo v).waiting = s.waiting := by rw [State.setPair_def, State.setReg_waiting, State.setReg_waiting]
@[simp] theorem State.setPair_caches (s : State) (pg : Page) (lo v : Nat) : (s.setPair pg lo v).caches = s.caches := by rw [State.setPair_def, State.setReg_caches, State.setReg_caches]
@[simp] theorem State.setPair_upds (s : State) (pg : Page) (lo v : Nat) : (s.setPair pg lo v).upds = s.upds := by rw [State.setPair_def, State.setReg_upds, State.setReg_upds]
@[simp] theorem State.setPair_ovf (s : State) (pg : Page) (lo v : Nat) : (s.setPair pg lo v).ovf = s.ovf := by rw [State.setPair_def, State.setReg_ovf, State.setReg_ovf]
@[simp] theorem State.setPair_recipes (s : State) (pg : Page) (lo v : Nat) : (s.setPair pg lo v).recipes = s.recipes := by rw [State.setPair_def, State.setReg_recipes, State.setReg_recipes]
@[simp] theorem State.setPair_recipeLoad (s : State) (pg : Page) (lo v : Nat) : (s.setPair pg lo v).recipeLoad = s.recipeLoad := by rw [State.setPair_def, State.setReg_recipeLoad, State.setReg_recipeLoad]
@[simp] theorem State.setPair_ports (s : State) (pg : Page) (lo v : Nat) : (s.setPair pg lo v).ports = s.ports := by rw [State.setPair_def, State.setReg_ports, State.setReg_ports]
@[simp] theorem State.setPair_route (s : State) (pg : Page) (lo v : Nat) : (s.setPair pg lo v).route = s.route := by rw [State.setPair_def, State.setReg_route, State.setReg_route]
@[simp] theorem State.setPair_keytab (s : State) (pg : Page) (lo v : Nat) : (s.setPair pg lo v).keytab = s.keytab := by rw [State.setPair_def, State.setReg_keytab, State.setReg_keytab]
@[simp] theorem State.setPair_wmap (s : State) (pg : Page) (lo v : Nat) : (s.setPair pg lo v).wmap = s.wmap := by rw [State.setPair_def, State.setReg_wmap, State.setReg_wmap]
@[simp] theorem State.setPair_wmapLoad (s : State) (pg : Page) (lo v : Nat) : (s.setPair pg lo v).wmapLoad = s.wmapLoad := by rw [State.setPair_def, State.setReg_wmapLoad, State.setReg_wmapLoad]
@[simp] theorem State.setPair_colls (s : State) (pg : Page) (lo v : Nat) : (s.setPair pg lo v).colls = s.colls := by rw [State.setPair_def, State.setReg_colls, State.setReg_colls]
@[simp] theorem State.setPair_readys (s : State) (pg : Page) (lo v : Nat) : (s.setPair pg lo v).readys = s.readys := by rw [State.setPair_def, State.setReg_readys, State.setReg_readys]
@[simp] theorem State.setPair_readds (s : State) (pg : Page) (lo v : Nat) : (s.setPair pg lo v).readds = s.readds := by rw [State.setPair_def, State.setReg_readds, State.setReg_readds]
@[simp] theorem State.setPair_looped (s : State) (pg : Page) (lo v : Nat) : (s.setPair pg lo v).looped = s.looped := by rw [State.setPair_def, State.setReg_looped, State.setReg_looped]
@[simp] theorem State.setPair_sramScrub (s : State) (pg : Page) (lo v : Nat) : (s.setPair pg lo v).sramScrub = s.sramScrub := by rw [State.setPair_def, State.setReg_sramScrub, State.setReg_sramScrub]
@[simp] theorem State.setPair_twin (s : State) (pg : Page) (lo v : Nat) : (s.setPair pg lo v).twin = s.twin := by rw [State.setPair_def, State.setReg_twin, State.setReg_twin]
@[simp] theorem State.setPair_slots (s : State) (pg : Page) (lo v : Nat) : (s.setPair pg lo v).slots = s.slots := by rw [State.setPair_def, State.setReg_slots, State.setReg_slots]
@[simp] theorem State.setPair_seatLoad (s : State) (pg : Page) (lo v : Nat) : (s.setPair pg lo v).seatLoad = s.seatLoad := by rw [State.setPair_def, State.setReg_seatLoad, State.setReg_seatLoad]
@[simp] theorem State.setPair_unison (s : State) (pg : Page) (lo v : Nat) : (s.setPair pg lo v).unison = s.unison := by rw [State.setPair_def, State.setReg_unison, State.setReg_unison]
@[simp] theorem State.setPair_tune (s : State) (pg : Page) (lo v : Nat) : (s.setPair pg lo v).tune = s.tune := by rw [State.setPair_def, State.setReg_tune, State.setReg_tune]
@[simp] theorem State.setPair_log (s : State) (pg : Page) (lo v : Nat) : (s.setPair pg lo v).log = s.log := by rw [State.setPair_def, State.setReg_log, State.setReg_log]
@[simp] theorem State.setPair_logHead (s : State) (pg : Page) (lo v : Nat) : (s.setPair pg lo v).logHead = s.logHead := by rw [State.setPair_def, State.setReg_logHead, State.setReg_logHead]
@[simp] theorem State.setPair_dies (s : State) (pg : Page) (lo v : Nat) : (s.setPair pg lo v).dies = s.dies := by rw [State.setPair_def, State.setReg_dies, State.setReg_dies]
@[simp] theorem State.setPair_links (s : State) (pg : Page) (lo v : Nat) : (s.setPair pg lo v).links = s.links := by rw [State.setPair_def, State.setReg_links, State.setReg_links]
@[simp] theorem State.setPair_bundles (s : State) (pg : Page) (lo v : Nat) : (s.setPair pg lo v).bundles = s.bundles := by rw [State.setPair_def, State.setReg_bundles, State.setReg_bundles]
@[simp] theorem State.setPair_lanes (s : State) (pg : Page) (lo v : Nat) : (s.setPair pg lo v).lanes = s.lanes := by rw [State.setPair_def, State.setReg_lanes, State.setReg_lanes]
@[simp] theorem State.setPair_pwr (s : State) (pg : Page) (lo v : Nat) : (s.setPair pg lo v).pwr = s.pwr := by rw [State.setPair_def, State.setReg_pwr, State.setReg_pwr]
@[simp] theorem State.setPair_start (s : State) (pg : Page) (lo v : Nat) : (s.setPair pg lo v).start = s.start := by rw [State.setPair_def, State.setReg_start, State.setReg_start]
@[simp] theorem State.setPair_flash (s : State) (pg : Page) (lo v : Nat) : (s.setPair pg lo v).flash = s.flash := by rw [State.setPair_def, State.setReg_flash, State.setReg_flash]
@[simp] theorem State.setPair_sessions (s : State) (pg : Page) (lo v : Nat) : (s.setPair pg lo v).sessions = s.sessions := by rw [State.setPair_def, State.setReg_sessions, State.setReg_sessions]
@[simp] theorem State.setPair_fw (s : State) (pg : Page) (lo v : Nat) : (s.setPair pg lo v).fw = s.fw := by rw [State.setPair_def, State.setReg_fw, State.setReg_fw]
@[simp] theorem State.setPair_spdm (s : State) (pg : Page) (lo v : Nat) : (s.setPair pg lo v).spdm = s.spdm := by rw [State.setPair_def, State.setReg_spdm, State.setReg_spdm]
@[simp] theorem State.setPair_cxl (s : State) (pg : Page) (lo v : Nat) : (s.setPair pg lo v).cxl = s.cxl := by rw [State.setPair_def, State.setReg_cxl, State.setReg_cxl]
@[simp] theorem State.setPair_nextReq (s : State) (pg : Page) (lo v : Nat) : (s.setPair pg lo v).nextReq = s.nextReq := by rw [State.setPair_def, State.setReg_nextReq, State.setReg_nextReq]
@[simp] theorem State.setPair_free (s : State) (pg : Page) (lo v : Nat) : (s.setPair pg lo v).free = s.free := by rw [State.setPair_def, State.setReg_free, State.setReg_free]
@[simp] theorem State.setPair_out (s : State) (pg : Page) (lo v : Nat) : (s.setPair pg lo v).out = s.out := by rw [State.setPair_def, State.setReg_out, State.setReg_out]

theorem State.setErr_def (s : State) (pg : Page) (st m : U32) : s.setErr pg st m = ((s.setReg pg offErrStat st).setReg pg offErrMask m).setReg pg offErrFirst (errFirstNext (s.reg pg offErrStat &&& ~~~(s.reg pg offErrMask)) (st &&& ~~~m) (s.reg pg offErrFirst)) := rfl

@[simp] theorem State.setErr_pending (s : State) (pg : Page) (st m : U32) : (s.setErr pg st m).pending = s.pending := by rw [State.setErr_def, State.setReg_pending, State.setReg_pending, State.setReg_pending]
@[simp] theorem State.setErr_latches (s : State) (pg : Page) (st m : U32) : (s.setErr pg st m).latches = s.latches := by rw [State.setErr_def, State.setReg_latches, State.setReg_latches, State.setReg_latches]
@[simp] theorem State.setErr_heldLo (s : State) (pg : Page) (st m : U32) : (s.setErr pg st m).heldLo = s.heldLo := by rw [State.setErr_def, State.setReg_heldLo, State.setReg_heldLo, State.setReg_heldLo]
@[simp] theorem State.setErr_mem (s : State) (pg : Page) (st m : U32) : (s.setErr pg st m).mem = s.mem := by rw [State.setErr_def, State.setReg_mem, State.setReg_mem, State.setReg_mem]
@[simp] theorem State.setErr_streams (s : State) (pg : Page) (st m : U32) : (s.setErr pg st m).streams = s.streams := by rw [State.setErr_def, State.setReg_streams, State.setReg_streams, State.setReg_streams]
@[simp] theorem State.setErr_jobs (s : State) (pg : Page) (st m : U32) : (s.setErr pg st m).jobs = s.jobs := by rw [State.setErr_def, State.setReg_jobs, State.setReg_jobs, State.setReg_jobs]
@[simp] theorem State.setErr_regions (s : State) (pg : Page) (st m : U32) : (s.setErr pg st m).regions = s.regions := by rw [State.setErr_def, State.setReg_regions, State.setReg_regions, State.setReg_regions]
@[simp] theorem State.setErr_engines (s : State) (pg : Page) (st m : U32) : (s.setErr pg st m).engines = s.engines := by rw [State.setErr_def, State.setReg_engines, State.setReg_engines, State.setReg_engines]
@[simp] theorem State.setErr_arrays (s : State) (pg : Page) (st m : U32) : (s.setErr pg st m).arrays = s.arrays := by rw [State.setErr_def, State.setReg_arrays, State.setReg_arrays, State.setReg_arrays]
@[simp] theorem State.setErr_chucks (s : State) (pg : Page) (st m : U32) : (s.setErr pg st m).chucks = s.chucks := by rw [State.setErr_def, State.setReg_chucks, State.setReg_chucks, State.setReg_chucks]
@[simp] theorem State.setErr_waiting (s : State) (pg : Page) (st m : U32) : (s.setErr pg st m).waiting = s.waiting := by rw [State.setErr_def, State.setReg_waiting, State.setReg_waiting, State.setReg_waiting]
@[simp] theorem State.setErr_caches (s : State) (pg : Page) (st m : U32) : (s.setErr pg st m).caches = s.caches := by rw [State.setErr_def, State.setReg_caches, State.setReg_caches, State.setReg_caches]
@[simp] theorem State.setErr_upds (s : State) (pg : Page) (st m : U32) : (s.setErr pg st m).upds = s.upds := by rw [State.setErr_def, State.setReg_upds, State.setReg_upds, State.setReg_upds]
@[simp] theorem State.setErr_ovf (s : State) (pg : Page) (st m : U32) : (s.setErr pg st m).ovf = s.ovf := by rw [State.setErr_def, State.setReg_ovf, State.setReg_ovf, State.setReg_ovf]
@[simp] theorem State.setErr_recipes (s : State) (pg : Page) (st m : U32) : (s.setErr pg st m).recipes = s.recipes := by rw [State.setErr_def, State.setReg_recipes, State.setReg_recipes, State.setReg_recipes]
@[simp] theorem State.setErr_recipeLoad (s : State) (pg : Page) (st m : U32) : (s.setErr pg st m).recipeLoad = s.recipeLoad := by rw [State.setErr_def, State.setReg_recipeLoad, State.setReg_recipeLoad, State.setReg_recipeLoad]
@[simp] theorem State.setErr_ports (s : State) (pg : Page) (st m : U32) : (s.setErr pg st m).ports = s.ports := by rw [State.setErr_def, State.setReg_ports, State.setReg_ports, State.setReg_ports]
@[simp] theorem State.setErr_route (s : State) (pg : Page) (st m : U32) : (s.setErr pg st m).route = s.route := by rw [State.setErr_def, State.setReg_route, State.setReg_route, State.setReg_route]
@[simp] theorem State.setErr_keytab (s : State) (pg : Page) (st m : U32) : (s.setErr pg st m).keytab = s.keytab := by rw [State.setErr_def, State.setReg_keytab, State.setReg_keytab, State.setReg_keytab]
@[simp] theorem State.setErr_wmap (s : State) (pg : Page) (st m : U32) : (s.setErr pg st m).wmap = s.wmap := by rw [State.setErr_def, State.setReg_wmap, State.setReg_wmap, State.setReg_wmap]
@[simp] theorem State.setErr_wmapLoad (s : State) (pg : Page) (st m : U32) : (s.setErr pg st m).wmapLoad = s.wmapLoad := by rw [State.setErr_def, State.setReg_wmapLoad, State.setReg_wmapLoad, State.setReg_wmapLoad]
@[simp] theorem State.setErr_colls (s : State) (pg : Page) (st m : U32) : (s.setErr pg st m).colls = s.colls := by rw [State.setErr_def, State.setReg_colls, State.setReg_colls, State.setReg_colls]
@[simp] theorem State.setErr_readys (s : State) (pg : Page) (st m : U32) : (s.setErr pg st m).readys = s.readys := by rw [State.setErr_def, State.setReg_readys, State.setReg_readys, State.setReg_readys]
@[simp] theorem State.setErr_readds (s : State) (pg : Page) (st m : U32) : (s.setErr pg st m).readds = s.readds := by rw [State.setErr_def, State.setReg_readds, State.setReg_readds, State.setReg_readds]
@[simp] theorem State.setErr_looped (s : State) (pg : Page) (st m : U32) : (s.setErr pg st m).looped = s.looped := by rw [State.setErr_def, State.setReg_looped, State.setReg_looped, State.setReg_looped]
@[simp] theorem State.setErr_sramScrub (s : State) (pg : Page) (st m : U32) : (s.setErr pg st m).sramScrub = s.sramScrub := by rw [State.setErr_def, State.setReg_sramScrub, State.setReg_sramScrub, State.setReg_sramScrub]
@[simp] theorem State.setErr_twin (s : State) (pg : Page) (st m : U32) : (s.setErr pg st m).twin = s.twin := by rw [State.setErr_def, State.setReg_twin, State.setReg_twin, State.setReg_twin]
@[simp] theorem State.setErr_slots (s : State) (pg : Page) (st m : U32) : (s.setErr pg st m).slots = s.slots := by rw [State.setErr_def, State.setReg_slots, State.setReg_slots, State.setReg_slots]
@[simp] theorem State.setErr_seatLoad (s : State) (pg : Page) (st m : U32) : (s.setErr pg st m).seatLoad = s.seatLoad := by rw [State.setErr_def, State.setReg_seatLoad, State.setReg_seatLoad, State.setReg_seatLoad]
@[simp] theorem State.setErr_unison (s : State) (pg : Page) (st m : U32) : (s.setErr pg st m).unison = s.unison := by rw [State.setErr_def, State.setReg_unison, State.setReg_unison, State.setReg_unison]
@[simp] theorem State.setErr_tune (s : State) (pg : Page) (st m : U32) : (s.setErr pg st m).tune = s.tune := by rw [State.setErr_def, State.setReg_tune, State.setReg_tune, State.setReg_tune]
@[simp] theorem State.setErr_log (s : State) (pg : Page) (st m : U32) : (s.setErr pg st m).log = s.log := by rw [State.setErr_def, State.setReg_log, State.setReg_log, State.setReg_log]
@[simp] theorem State.setErr_logHead (s : State) (pg : Page) (st m : U32) : (s.setErr pg st m).logHead = s.logHead := by rw [State.setErr_def, State.setReg_logHead, State.setReg_logHead, State.setReg_logHead]
@[simp] theorem State.setErr_dies (s : State) (pg : Page) (st m : U32) : (s.setErr pg st m).dies = s.dies := by rw [State.setErr_def, State.setReg_dies, State.setReg_dies, State.setReg_dies]
@[simp] theorem State.setErr_links (s : State) (pg : Page) (st m : U32) : (s.setErr pg st m).links = s.links := by rw [State.setErr_def, State.setReg_links, State.setReg_links, State.setReg_links]
@[simp] theorem State.setErr_bundles (s : State) (pg : Page) (st m : U32) : (s.setErr pg st m).bundles = s.bundles := by rw [State.setErr_def, State.setReg_bundles, State.setReg_bundles, State.setReg_bundles]
@[simp] theorem State.setErr_lanes (s : State) (pg : Page) (st m : U32) : (s.setErr pg st m).lanes = s.lanes := by rw [State.setErr_def, State.setReg_lanes, State.setReg_lanes, State.setReg_lanes]
@[simp] theorem State.setErr_pwr (s : State) (pg : Page) (st m : U32) : (s.setErr pg st m).pwr = s.pwr := by rw [State.setErr_def, State.setReg_pwr, State.setReg_pwr, State.setReg_pwr]
@[simp] theorem State.setErr_start (s : State) (pg : Page) (st m : U32) : (s.setErr pg st m).start = s.start := by rw [State.setErr_def, State.setReg_start, State.setReg_start, State.setReg_start]
@[simp] theorem State.setErr_flash (s : State) (pg : Page) (st m : U32) : (s.setErr pg st m).flash = s.flash := by rw [State.setErr_def, State.setReg_flash, State.setReg_flash, State.setReg_flash]
@[simp] theorem State.setErr_sessions (s : State) (pg : Page) (st m : U32) : (s.setErr pg st m).sessions = s.sessions := by rw [State.setErr_def, State.setReg_sessions, State.setReg_sessions, State.setReg_sessions]
@[simp] theorem State.setErr_fw (s : State) (pg : Page) (st m : U32) : (s.setErr pg st m).fw = s.fw := by rw [State.setErr_def, State.setReg_fw, State.setReg_fw, State.setReg_fw]
@[simp] theorem State.setErr_spdm (s : State) (pg : Page) (st m : U32) : (s.setErr pg st m).spdm = s.spdm := by rw [State.setErr_def, State.setReg_spdm, State.setReg_spdm, State.setReg_spdm]
@[simp] theorem State.setErr_cxl (s : State) (pg : Page) (st m : U32) : (s.setErr pg st m).cxl = s.cxl := by rw [State.setErr_def, State.setReg_cxl, State.setReg_cxl, State.setReg_cxl]
@[simp] theorem State.setErr_nextReq (s : State) (pg : Page) (st m : U32) : (s.setErr pg st m).nextReq = s.nextReq := by rw [State.setErr_def, State.setReg_nextReq, State.setReg_nextReq, State.setReg_nextReq]
@[simp] theorem State.setErr_free (s : State) (pg : Page) (st m : U32) : (s.setErr pg st m).free = s.free := by rw [State.setErr_def, State.setReg_free, State.setReg_free, State.setReg_free]
@[simp] theorem State.setErr_out (s : State) (pg : Page) (st m : U32) : (s.setErr pg st m).out = s.out := by rw [State.setErr_def, State.setReg_out, State.setReg_out, State.setReg_out]

theorem State.raise_def (s : State) (pg : Page) (b : Nat) : s.raise pg b = s.setErr pg (s.reg pg offErrStat ||| BitVec.ofNat 32 (2 ^ b)) (s.reg pg offErrMask) := rfl

@[simp] theorem State.raise_pending (s : State) (pg : Page) (b : Nat) : (s.raise pg b).pending = s.pending := by rw [State.raise_def, State.setErr_pending]
@[simp] theorem State.raise_latches (s : State) (pg : Page) (b : Nat) : (s.raise pg b).latches = s.latches := by rw [State.raise_def, State.setErr_latches]
@[simp] theorem State.raise_heldLo (s : State) (pg : Page) (b : Nat) : (s.raise pg b).heldLo = s.heldLo := by rw [State.raise_def, State.setErr_heldLo]
@[simp] theorem State.raise_mem (s : State) (pg : Page) (b : Nat) : (s.raise pg b).mem = s.mem := by rw [State.raise_def, State.setErr_mem]
@[simp] theorem State.raise_streams (s : State) (pg : Page) (b : Nat) : (s.raise pg b).streams = s.streams := by rw [State.raise_def, State.setErr_streams]
@[simp] theorem State.raise_jobs (s : State) (pg : Page) (b : Nat) : (s.raise pg b).jobs = s.jobs := by rw [State.raise_def, State.setErr_jobs]
@[simp] theorem State.raise_regions (s : State) (pg : Page) (b : Nat) : (s.raise pg b).regions = s.regions := by rw [State.raise_def, State.setErr_regions]
@[simp] theorem State.raise_engines (s : State) (pg : Page) (b : Nat) : (s.raise pg b).engines = s.engines := by rw [State.raise_def, State.setErr_engines]
@[simp] theorem State.raise_arrays (s : State) (pg : Page) (b : Nat) : (s.raise pg b).arrays = s.arrays := by rw [State.raise_def, State.setErr_arrays]
@[simp] theorem State.raise_chucks (s : State) (pg : Page) (b : Nat) : (s.raise pg b).chucks = s.chucks := by rw [State.raise_def, State.setErr_chucks]
@[simp] theorem State.raise_waiting (s : State) (pg : Page) (b : Nat) : (s.raise pg b).waiting = s.waiting := by rw [State.raise_def, State.setErr_waiting]
@[simp] theorem State.raise_caches (s : State) (pg : Page) (b : Nat) : (s.raise pg b).caches = s.caches := by rw [State.raise_def, State.setErr_caches]
@[simp] theorem State.raise_upds (s : State) (pg : Page) (b : Nat) : (s.raise pg b).upds = s.upds := by rw [State.raise_def, State.setErr_upds]
@[simp] theorem State.raise_ovf (s : State) (pg : Page) (b : Nat) : (s.raise pg b).ovf = s.ovf := by rw [State.raise_def, State.setErr_ovf]
@[simp] theorem State.raise_recipes (s : State) (pg : Page) (b : Nat) : (s.raise pg b).recipes = s.recipes := by rw [State.raise_def, State.setErr_recipes]
@[simp] theorem State.raise_recipeLoad (s : State) (pg : Page) (b : Nat) : (s.raise pg b).recipeLoad = s.recipeLoad := by rw [State.raise_def, State.setErr_recipeLoad]
@[simp] theorem State.raise_ports (s : State) (pg : Page) (b : Nat) : (s.raise pg b).ports = s.ports := by rw [State.raise_def, State.setErr_ports]
@[simp] theorem State.raise_route (s : State) (pg : Page) (b : Nat) : (s.raise pg b).route = s.route := by rw [State.raise_def, State.setErr_route]
@[simp] theorem State.raise_keytab (s : State) (pg : Page) (b : Nat) : (s.raise pg b).keytab = s.keytab := by rw [State.raise_def, State.setErr_keytab]
@[simp] theorem State.raise_wmap (s : State) (pg : Page) (b : Nat) : (s.raise pg b).wmap = s.wmap := by rw [State.raise_def, State.setErr_wmap]
@[simp] theorem State.raise_wmapLoad (s : State) (pg : Page) (b : Nat) : (s.raise pg b).wmapLoad = s.wmapLoad := by rw [State.raise_def, State.setErr_wmapLoad]
@[simp] theorem State.raise_colls (s : State) (pg : Page) (b : Nat) : (s.raise pg b).colls = s.colls := by rw [State.raise_def, State.setErr_colls]
@[simp] theorem State.raise_readys (s : State) (pg : Page) (b : Nat) : (s.raise pg b).readys = s.readys := by rw [State.raise_def, State.setErr_readys]
@[simp] theorem State.raise_readds (s : State) (pg : Page) (b : Nat) : (s.raise pg b).readds = s.readds := by rw [State.raise_def, State.setErr_readds]
@[simp] theorem State.raise_looped (s : State) (pg : Page) (b : Nat) : (s.raise pg b).looped = s.looped := by rw [State.raise_def, State.setErr_looped]
@[simp] theorem State.raise_sramScrub (s : State) (pg : Page) (b : Nat) : (s.raise pg b).sramScrub = s.sramScrub := by rw [State.raise_def, State.setErr_sramScrub]
@[simp] theorem State.raise_twin (s : State) (pg : Page) (b : Nat) : (s.raise pg b).twin = s.twin := by rw [State.raise_def, State.setErr_twin]
@[simp] theorem State.raise_slots (s : State) (pg : Page) (b : Nat) : (s.raise pg b).slots = s.slots := by rw [State.raise_def, State.setErr_slots]
@[simp] theorem State.raise_seatLoad (s : State) (pg : Page) (b : Nat) : (s.raise pg b).seatLoad = s.seatLoad := by rw [State.raise_def, State.setErr_seatLoad]
@[simp] theorem State.raise_unison (s : State) (pg : Page) (b : Nat) : (s.raise pg b).unison = s.unison := by rw [State.raise_def, State.setErr_unison]
@[simp] theorem State.raise_tune (s : State) (pg : Page) (b : Nat) : (s.raise pg b).tune = s.tune := by rw [State.raise_def, State.setErr_tune]
@[simp] theorem State.raise_log (s : State) (pg : Page) (b : Nat) : (s.raise pg b).log = s.log := by rw [State.raise_def, State.setErr_log]
@[simp] theorem State.raise_logHead (s : State) (pg : Page) (b : Nat) : (s.raise pg b).logHead = s.logHead := by rw [State.raise_def, State.setErr_logHead]
@[simp] theorem State.raise_dies (s : State) (pg : Page) (b : Nat) : (s.raise pg b).dies = s.dies := by rw [State.raise_def, State.setErr_dies]
@[simp] theorem State.raise_links (s : State) (pg : Page) (b : Nat) : (s.raise pg b).links = s.links := by rw [State.raise_def, State.setErr_links]
@[simp] theorem State.raise_bundles (s : State) (pg : Page) (b : Nat) : (s.raise pg b).bundles = s.bundles := by rw [State.raise_def, State.setErr_bundles]
@[simp] theorem State.raise_lanes (s : State) (pg : Page) (b : Nat) : (s.raise pg b).lanes = s.lanes := by rw [State.raise_def, State.setErr_lanes]
@[simp] theorem State.raise_pwr (s : State) (pg : Page) (b : Nat) : (s.raise pg b).pwr = s.pwr := by rw [State.raise_def, State.setErr_pwr]
@[simp] theorem State.raise_start (s : State) (pg : Page) (b : Nat) : (s.raise pg b).start = s.start := by rw [State.raise_def, State.setErr_start]
@[simp] theorem State.raise_flash (s : State) (pg : Page) (b : Nat) : (s.raise pg b).flash = s.flash := by rw [State.raise_def, State.setErr_flash]
@[simp] theorem State.raise_sessions (s : State) (pg : Page) (b : Nat) : (s.raise pg b).sessions = s.sessions := by rw [State.raise_def, State.setErr_sessions]
@[simp] theorem State.raise_fw (s : State) (pg : Page) (b : Nat) : (s.raise pg b).fw = s.fw := by rw [State.raise_def, State.setErr_fw]
@[simp] theorem State.raise_spdm (s : State) (pg : Page) (b : Nat) : (s.raise pg b).spdm = s.spdm := by rw [State.raise_def, State.setErr_spdm]
@[simp] theorem State.raise_cxl (s : State) (pg : Page) (b : Nat) : (s.raise pg b).cxl = s.cxl := by rw [State.raise_def, State.setErr_cxl]
@[simp] theorem State.raise_nextReq (s : State) (pg : Page) (b : Nat) : (s.raise pg b).nextReq = s.nextReq := by rw [State.raise_def, State.setErr_nextReq]
@[simp] theorem State.raise_free (s : State) (pg : Page) (b : Nat) : (s.raise pg b).free = s.free := by rw [State.raise_def, State.setErr_free]
@[simp] theorem State.raise_out (s : State) (pg : Page) (b : Nat) : (s.raise pg b).out = s.out := by rw [State.raise_def, State.setErr_out]

theorem State.arm_def (s : State) (pg : Page) (b : Nat) : s.arm pg b = s.setBits pg offErrInj (BitVec.ofNat 32 (2 ^ b)) (2 ^ b) := rfl

@[simp] theorem State.arm_pending (s : State) (pg : Page) (b : Nat) : (s.arm pg b).pending = s.pending := by rw [State.arm_def, State.setBits_pending]
@[simp] theorem State.arm_latches (s : State) (pg : Page) (b : Nat) : (s.arm pg b).latches = s.latches := by rw [State.arm_def, State.setBits_latches]
@[simp] theorem State.arm_heldLo (s : State) (pg : Page) (b : Nat) : (s.arm pg b).heldLo = s.heldLo := by rw [State.arm_def, State.setBits_heldLo]
@[simp] theorem State.arm_mem (s : State) (pg : Page) (b : Nat) : (s.arm pg b).mem = s.mem := by rw [State.arm_def, State.setBits_mem]
@[simp] theorem State.arm_streams (s : State) (pg : Page) (b : Nat) : (s.arm pg b).streams = s.streams := by rw [State.arm_def, State.setBits_streams]
@[simp] theorem State.arm_jobs (s : State) (pg : Page) (b : Nat) : (s.arm pg b).jobs = s.jobs := by rw [State.arm_def, State.setBits_jobs]
@[simp] theorem State.arm_regions (s : State) (pg : Page) (b : Nat) : (s.arm pg b).regions = s.regions := by rw [State.arm_def, State.setBits_regions]
@[simp] theorem State.arm_engines (s : State) (pg : Page) (b : Nat) : (s.arm pg b).engines = s.engines := by rw [State.arm_def, State.setBits_engines]
@[simp] theorem State.arm_arrays (s : State) (pg : Page) (b : Nat) : (s.arm pg b).arrays = s.arrays := by rw [State.arm_def, State.setBits_arrays]
@[simp] theorem State.arm_chucks (s : State) (pg : Page) (b : Nat) : (s.arm pg b).chucks = s.chucks := by rw [State.arm_def, State.setBits_chucks]
@[simp] theorem State.arm_waiting (s : State) (pg : Page) (b : Nat) : (s.arm pg b).waiting = s.waiting := by rw [State.arm_def, State.setBits_waiting]
@[simp] theorem State.arm_caches (s : State) (pg : Page) (b : Nat) : (s.arm pg b).caches = s.caches := by rw [State.arm_def, State.setBits_caches]
@[simp] theorem State.arm_upds (s : State) (pg : Page) (b : Nat) : (s.arm pg b).upds = s.upds := by rw [State.arm_def, State.setBits_upds]
@[simp] theorem State.arm_ovf (s : State) (pg : Page) (b : Nat) : (s.arm pg b).ovf = s.ovf := by rw [State.arm_def, State.setBits_ovf]
@[simp] theorem State.arm_recipes (s : State) (pg : Page) (b : Nat) : (s.arm pg b).recipes = s.recipes := by rw [State.arm_def, State.setBits_recipes]
@[simp] theorem State.arm_recipeLoad (s : State) (pg : Page) (b : Nat) : (s.arm pg b).recipeLoad = s.recipeLoad := by rw [State.arm_def, State.setBits_recipeLoad]
@[simp] theorem State.arm_ports (s : State) (pg : Page) (b : Nat) : (s.arm pg b).ports = s.ports := by rw [State.arm_def, State.setBits_ports]
@[simp] theorem State.arm_route (s : State) (pg : Page) (b : Nat) : (s.arm pg b).route = s.route := by rw [State.arm_def, State.setBits_route]
@[simp] theorem State.arm_keytab (s : State) (pg : Page) (b : Nat) : (s.arm pg b).keytab = s.keytab := by rw [State.arm_def, State.setBits_keytab]
@[simp] theorem State.arm_wmap (s : State) (pg : Page) (b : Nat) : (s.arm pg b).wmap = s.wmap := by rw [State.arm_def, State.setBits_wmap]
@[simp] theorem State.arm_wmapLoad (s : State) (pg : Page) (b : Nat) : (s.arm pg b).wmapLoad = s.wmapLoad := by rw [State.arm_def, State.setBits_wmapLoad]
@[simp] theorem State.arm_colls (s : State) (pg : Page) (b : Nat) : (s.arm pg b).colls = s.colls := by rw [State.arm_def, State.setBits_colls]
@[simp] theorem State.arm_readys (s : State) (pg : Page) (b : Nat) : (s.arm pg b).readys = s.readys := by rw [State.arm_def, State.setBits_readys]
@[simp] theorem State.arm_readds (s : State) (pg : Page) (b : Nat) : (s.arm pg b).readds = s.readds := by rw [State.arm_def, State.setBits_readds]
@[simp] theorem State.arm_looped (s : State) (pg : Page) (b : Nat) : (s.arm pg b).looped = s.looped := by rw [State.arm_def, State.setBits_looped]
@[simp] theorem State.arm_sramScrub (s : State) (pg : Page) (b : Nat) : (s.arm pg b).sramScrub = s.sramScrub := by rw [State.arm_def, State.setBits_sramScrub]
@[simp] theorem State.arm_twin (s : State) (pg : Page) (b : Nat) : (s.arm pg b).twin = s.twin := by rw [State.arm_def, State.setBits_twin]
@[simp] theorem State.arm_slots (s : State) (pg : Page) (b : Nat) : (s.arm pg b).slots = s.slots := by rw [State.arm_def, State.setBits_slots]
@[simp] theorem State.arm_seatLoad (s : State) (pg : Page) (b : Nat) : (s.arm pg b).seatLoad = s.seatLoad := by rw [State.arm_def, State.setBits_seatLoad]
@[simp] theorem State.arm_unison (s : State) (pg : Page) (b : Nat) : (s.arm pg b).unison = s.unison := by rw [State.arm_def, State.setBits_unison]
@[simp] theorem State.arm_tune (s : State) (pg : Page) (b : Nat) : (s.arm pg b).tune = s.tune := by rw [State.arm_def, State.setBits_tune]
@[simp] theorem State.arm_log (s : State) (pg : Page) (b : Nat) : (s.arm pg b).log = s.log := by rw [State.arm_def, State.setBits_log]
@[simp] theorem State.arm_logHead (s : State) (pg : Page) (b : Nat) : (s.arm pg b).logHead = s.logHead := by rw [State.arm_def, State.setBits_logHead]
@[simp] theorem State.arm_dies (s : State) (pg : Page) (b : Nat) : (s.arm pg b).dies = s.dies := by rw [State.arm_def, State.setBits_dies]
@[simp] theorem State.arm_links (s : State) (pg : Page) (b : Nat) : (s.arm pg b).links = s.links := by rw [State.arm_def, State.setBits_links]
@[simp] theorem State.arm_bundles (s : State) (pg : Page) (b : Nat) : (s.arm pg b).bundles = s.bundles := by rw [State.arm_def, State.setBits_bundles]
@[simp] theorem State.arm_lanes (s : State) (pg : Page) (b : Nat) : (s.arm pg b).lanes = s.lanes := by rw [State.arm_def, State.setBits_lanes]
@[simp] theorem State.arm_pwr (s : State) (pg : Page) (b : Nat) : (s.arm pg b).pwr = s.pwr := by rw [State.arm_def, State.setBits_pwr]
@[simp] theorem State.arm_start (s : State) (pg : Page) (b : Nat) : (s.arm pg b).start = s.start := by rw [State.arm_def, State.setBits_start]
@[simp] theorem State.arm_flash (s : State) (pg : Page) (b : Nat) : (s.arm pg b).flash = s.flash := by rw [State.arm_def, State.setBits_flash]
@[simp] theorem State.arm_sessions (s : State) (pg : Page) (b : Nat) : (s.arm pg b).sessions = s.sessions := by rw [State.arm_def, State.setBits_sessions]
@[simp] theorem State.arm_fw (s : State) (pg : Page) (b : Nat) : (s.arm pg b).fw = s.fw := by rw [State.arm_def, State.setBits_fw]
@[simp] theorem State.arm_spdm (s : State) (pg : Page) (b : Nat) : (s.arm pg b).spdm = s.spdm := by rw [State.arm_def, State.setBits_spdm]
@[simp] theorem State.arm_cxl (s : State) (pg : Page) (b : Nat) : (s.arm pg b).cxl = s.cxl := by rw [State.arm_def, State.setBits_cxl]
@[simp] theorem State.arm_nextReq (s : State) (pg : Page) (b : Nat) : (s.arm pg b).nextReq = s.nextReq := by rw [State.arm_def, State.setBits_nextReq]
@[simp] theorem State.arm_free (s : State) (pg : Page) (b : Nat) : (s.arm pg b).free = s.free := by rw [State.arm_def, State.setBits_free]
@[simp] theorem State.arm_out (s : State) (pg : Page) (b : Nat) : (s.arm pg b).out = s.out := by rw [State.arm_def, State.setBits_out]

theorem State.disarm_def (s : State) (pg : Page) (b : Nat) : s.disarm pg b = s.setBits pg offErrInj 0 (2 ^ b) := rfl

@[simp] theorem State.disarm_pending (s : State) (pg : Page) (b : Nat) : (s.disarm pg b).pending = s.pending := by rw [State.disarm_def, State.setBits_pending]
@[simp] theorem State.disarm_latches (s : State) (pg : Page) (b : Nat) : (s.disarm pg b).latches = s.latches := by rw [State.disarm_def, State.setBits_latches]
@[simp] theorem State.disarm_heldLo (s : State) (pg : Page) (b : Nat) : (s.disarm pg b).heldLo = s.heldLo := by rw [State.disarm_def, State.setBits_heldLo]
@[simp] theorem State.disarm_mem (s : State) (pg : Page) (b : Nat) : (s.disarm pg b).mem = s.mem := by rw [State.disarm_def, State.setBits_mem]
@[simp] theorem State.disarm_streams (s : State) (pg : Page) (b : Nat) : (s.disarm pg b).streams = s.streams := by rw [State.disarm_def, State.setBits_streams]
@[simp] theorem State.disarm_jobs (s : State) (pg : Page) (b : Nat) : (s.disarm pg b).jobs = s.jobs := by rw [State.disarm_def, State.setBits_jobs]
@[simp] theorem State.disarm_regions (s : State) (pg : Page) (b : Nat) : (s.disarm pg b).regions = s.regions := by rw [State.disarm_def, State.setBits_regions]
@[simp] theorem State.disarm_engines (s : State) (pg : Page) (b : Nat) : (s.disarm pg b).engines = s.engines := by rw [State.disarm_def, State.setBits_engines]
@[simp] theorem State.disarm_arrays (s : State) (pg : Page) (b : Nat) : (s.disarm pg b).arrays = s.arrays := by rw [State.disarm_def, State.setBits_arrays]
@[simp] theorem State.disarm_chucks (s : State) (pg : Page) (b : Nat) : (s.disarm pg b).chucks = s.chucks := by rw [State.disarm_def, State.setBits_chucks]
@[simp] theorem State.disarm_waiting (s : State) (pg : Page) (b : Nat) : (s.disarm pg b).waiting = s.waiting := by rw [State.disarm_def, State.setBits_waiting]
@[simp] theorem State.disarm_caches (s : State) (pg : Page) (b : Nat) : (s.disarm pg b).caches = s.caches := by rw [State.disarm_def, State.setBits_caches]
@[simp] theorem State.disarm_upds (s : State) (pg : Page) (b : Nat) : (s.disarm pg b).upds = s.upds := by rw [State.disarm_def, State.setBits_upds]
@[simp] theorem State.disarm_ovf (s : State) (pg : Page) (b : Nat) : (s.disarm pg b).ovf = s.ovf := by rw [State.disarm_def, State.setBits_ovf]
@[simp] theorem State.disarm_recipes (s : State) (pg : Page) (b : Nat) : (s.disarm pg b).recipes = s.recipes := by rw [State.disarm_def, State.setBits_recipes]
@[simp] theorem State.disarm_recipeLoad (s : State) (pg : Page) (b : Nat) : (s.disarm pg b).recipeLoad = s.recipeLoad := by rw [State.disarm_def, State.setBits_recipeLoad]
@[simp] theorem State.disarm_ports (s : State) (pg : Page) (b : Nat) : (s.disarm pg b).ports = s.ports := by rw [State.disarm_def, State.setBits_ports]
@[simp] theorem State.disarm_route (s : State) (pg : Page) (b : Nat) : (s.disarm pg b).route = s.route := by rw [State.disarm_def, State.setBits_route]
@[simp] theorem State.disarm_keytab (s : State) (pg : Page) (b : Nat) : (s.disarm pg b).keytab = s.keytab := by rw [State.disarm_def, State.setBits_keytab]
@[simp] theorem State.disarm_wmap (s : State) (pg : Page) (b : Nat) : (s.disarm pg b).wmap = s.wmap := by rw [State.disarm_def, State.setBits_wmap]
@[simp] theorem State.disarm_wmapLoad (s : State) (pg : Page) (b : Nat) : (s.disarm pg b).wmapLoad = s.wmapLoad := by rw [State.disarm_def, State.setBits_wmapLoad]
@[simp] theorem State.disarm_colls (s : State) (pg : Page) (b : Nat) : (s.disarm pg b).colls = s.colls := by rw [State.disarm_def, State.setBits_colls]
@[simp] theorem State.disarm_readys (s : State) (pg : Page) (b : Nat) : (s.disarm pg b).readys = s.readys := by rw [State.disarm_def, State.setBits_readys]
@[simp] theorem State.disarm_readds (s : State) (pg : Page) (b : Nat) : (s.disarm pg b).readds = s.readds := by rw [State.disarm_def, State.setBits_readds]
@[simp] theorem State.disarm_looped (s : State) (pg : Page) (b : Nat) : (s.disarm pg b).looped = s.looped := by rw [State.disarm_def, State.setBits_looped]
@[simp] theorem State.disarm_sramScrub (s : State) (pg : Page) (b : Nat) : (s.disarm pg b).sramScrub = s.sramScrub := by rw [State.disarm_def, State.setBits_sramScrub]
@[simp] theorem State.disarm_twin (s : State) (pg : Page) (b : Nat) : (s.disarm pg b).twin = s.twin := by rw [State.disarm_def, State.setBits_twin]
@[simp] theorem State.disarm_slots (s : State) (pg : Page) (b : Nat) : (s.disarm pg b).slots = s.slots := by rw [State.disarm_def, State.setBits_slots]
@[simp] theorem State.disarm_seatLoad (s : State) (pg : Page) (b : Nat) : (s.disarm pg b).seatLoad = s.seatLoad := by rw [State.disarm_def, State.setBits_seatLoad]
@[simp] theorem State.disarm_unison (s : State) (pg : Page) (b : Nat) : (s.disarm pg b).unison = s.unison := by rw [State.disarm_def, State.setBits_unison]
@[simp] theorem State.disarm_tune (s : State) (pg : Page) (b : Nat) : (s.disarm pg b).tune = s.tune := by rw [State.disarm_def, State.setBits_tune]
@[simp] theorem State.disarm_log (s : State) (pg : Page) (b : Nat) : (s.disarm pg b).log = s.log := by rw [State.disarm_def, State.setBits_log]
@[simp] theorem State.disarm_logHead (s : State) (pg : Page) (b : Nat) : (s.disarm pg b).logHead = s.logHead := by rw [State.disarm_def, State.setBits_logHead]
@[simp] theorem State.disarm_dies (s : State) (pg : Page) (b : Nat) : (s.disarm pg b).dies = s.dies := by rw [State.disarm_def, State.setBits_dies]
@[simp] theorem State.disarm_links (s : State) (pg : Page) (b : Nat) : (s.disarm pg b).links = s.links := by rw [State.disarm_def, State.setBits_links]
@[simp] theorem State.disarm_bundles (s : State) (pg : Page) (b : Nat) : (s.disarm pg b).bundles = s.bundles := by rw [State.disarm_def, State.setBits_bundles]
@[simp] theorem State.disarm_lanes (s : State) (pg : Page) (b : Nat) : (s.disarm pg b).lanes = s.lanes := by rw [State.disarm_def, State.setBits_lanes]
@[simp] theorem State.disarm_pwr (s : State) (pg : Page) (b : Nat) : (s.disarm pg b).pwr = s.pwr := by rw [State.disarm_def, State.setBits_pwr]
@[simp] theorem State.disarm_start (s : State) (pg : Page) (b : Nat) : (s.disarm pg b).start = s.start := by rw [State.disarm_def, State.setBits_start]
@[simp] theorem State.disarm_flash (s : State) (pg : Page) (b : Nat) : (s.disarm pg b).flash = s.flash := by rw [State.disarm_def, State.setBits_flash]
@[simp] theorem State.disarm_sessions (s : State) (pg : Page) (b : Nat) : (s.disarm pg b).sessions = s.sessions := by rw [State.disarm_def, State.setBits_sessions]
@[simp] theorem State.disarm_fw (s : State) (pg : Page) (b : Nat) : (s.disarm pg b).fw = s.fw := by rw [State.disarm_def, State.setBits_fw]
@[simp] theorem State.disarm_spdm (s : State) (pg : Page) (b : Nat) : (s.disarm pg b).spdm = s.spdm := by rw [State.disarm_def, State.setBits_spdm]
@[simp] theorem State.disarm_cxl (s : State) (pg : Page) (b : Nat) : (s.disarm pg b).cxl = s.cxl := by rw [State.disarm_def, State.setBits_cxl]
@[simp] theorem State.disarm_nextReq (s : State) (pg : Page) (b : Nat) : (s.disarm pg b).nextReq = s.nextReq := by rw [State.disarm_def, State.setBits_nextReq]
@[simp] theorem State.disarm_free (s : State) (pg : Page) (b : Nat) : (s.disarm pg b).free = s.free := by rw [State.disarm_def, State.setBits_free]
@[simp] theorem State.disarm_out (s : State) (pg : Page) (b : Nat) : (s.disarm pg b).out = s.out := by rw [State.disarm_def, State.setBits_out]

/-! ### Reads after writes -/

theorem State.word_reg (s : State) (pg : Page) (off : Nat) : s.reg pg off = s.word (pg.base + off) := rfl

theorem State.setReg_word (s : State) (pg : Page) (off : Nat) (v : U32) (k : Nat) :
    (s.setReg pg off v).word k = if k = pg.base + off then v else s.word k := by
  unfold State.word State.setReg
  exact SMap.get_set _ _ _ _ _

@[simp] theorem State.setReg_same (s : State) (pg : Page) (off : Nat) (v : U32) : (s.setReg pg off v).reg pg off = v := by
  unfold State.reg State.setReg
  exact SMap.get_set_same _ _ _ _

theorem State.setReg_other (s : State) (pg : Page) {off o : Nat} (v : U32) (h : o ≠ off) : (s.setReg pg off v).reg pg o = s.reg pg o := by
  unfold State.reg State.setReg
  exact SMap.get_set_other _ _ _ (by omega)

theorem State.setStream_stream (s : State) (n m : Nat) (x : Stream) : (s.setStream n x).stream m = if m = n then x else s.stream m := by
  unfold State.stream State.setStream
  exact SMap.get_set _ _ _ _ _

@[simp] theorem State.setStream_same (s : State) (n : Nat) (x : Stream) : (s.setStream n x).stream n = x := by simp [State.setStream_stream]

theorem State.setJob_job (s : State) (n m : Nat) (x : Job) : (s.setJob n x).job m = if m = n then x else s.job m := by
  unfold State.job State.setJob
  exact SMap.get_set _ _ _ _ _

@[simp] theorem State.setJob_same (s : State) (n : Nat) (x : Job) : (s.setJob n x).job n = x := by simp [State.setJob_job]

theorem State.setEngine_engine (s : State) (n m : Nat) (x : Engine) : (s.setEngine n x).engine m = if m = n then x else s.engine m := by
  unfold State.engine State.setEngine
  exact SMap.get_set _ _ _ _ _

@[simp] theorem State.setEngine_same (s : State) (n : Nat) (x : Engine) : (s.setEngine n x).engine n = x := by simp [State.setEngine_engine]

theorem State.setArray_array (s : State) (n m : Nat) (x : ArraySt) : (s.setArray n x).array m = if m = n then x else s.array m := by
  unfold State.array State.setArray
  exact SMap.get_set _ _ _ _ _

@[simp] theorem State.setArray_same (s : State) (n : Nat) (x : ArraySt) : (s.setArray n x).array n = x := by simp [State.setArray_array]

theorem State.setChuck_chuck (s : State) (n m : Nat) (x : ChuckPair) : (s.setChuck n x).chuck m = if m = n then x else s.chuck m := by
  unfold State.chuck State.setChuck
  exact SMap.get_set _ _ _ _ _

@[simp] theorem State.setChuck_same (s : State) (n : Nat) (x : ChuckPair) : (s.setChuck n x).chuck n = x := by simp [State.setChuck_chuck]

theorem State.setPort_port (s : State) (n m : Nat) (x : Port) : (s.setPort n x).port m = if m = n then x else s.port m := by
  unfold State.port State.setPort
  exact SMap.get_set _ _ _ _ _

@[simp] theorem State.setPort_same (s : State) (n : Nat) (x : Port) : (s.setPort n x).port n = x := by simp [State.setPort_port]

theorem State.setSlot_slot (s : State) (n m : Nat) (x : Slot) : (s.setSlot n x).slot m = if m = n then x else s.slot m := by
  unfold State.slot State.setSlot
  exact SMap.get_set _ _ _ _ _

@[simp] theorem State.setSlot_same (s : State) (n : Nat) (x : Slot) : (s.setSlot n x).slot n = x := by simp [State.setSlot_slot]

theorem State.setDie_die (s : State) (n m : Nat) (x : DieSt) : (s.setDie n x).die m = if m = n then x else s.die m := by
  unfold State.die State.setDie
  exact SMap.get_set _ _ _ _ _

@[simp] theorem State.setDie_same (s : State) (n : Nat) (x : DieSt) : (s.setDie n x).die n = x := by simp [State.setDie_die]

theorem State.setTune_tuneUnit (s : State) (n m : Nat) (x : TuneUnit) : (s.setTune n x).tuneUnit m = if m = n then x else s.tuneUnit m := by
  unfold State.tuneUnit State.setTune
  exact SMap.get_set _ _ _ _ _

theorem State.setLink_link (s : State) (e g : LinkEnd) (x : LinkSt) : (s.setLink e x).link g = if g.num = e.num then x else s.link g := by
  unfold State.link State.setLink
  exact SMap.get_set _ _ _ _ _

@[simp] theorem State.setRegion_same (s : State) (j r : Nat) (x : Region) : (s.setRegion j r x).region j r = x := by
  unfold State.region State.setRegion
  exact SMap.get_set_same _ _ _ _

theorem State.setRegion_other (s : State) {j r j' r' : Nat} (x : Region) (h : j' * 64 + r' ≠ j * 64 + r) :
    (s.setRegion j r x).region j' r' = s.region j' r' := by
  unfold State.region State.setRegion
  exact SMap.get_set_other _ _ _ h

theorem State.updRec_stream (s : State) (n m : Nat) (f : Stream → Stream) :
    (s.updRec n f).stream m = if m = n then { f (s.stream n) with gen := (f (s.stream n)).gen + 1 } else s.stream m :=
  State.setStream_stream _ _ _ _

/-- A saturating count: its register goes up, every other one stays. -/
theorem State.countSat_word (s : State) (pg : Page) (off n k : Nat) :
    (s.countSat pg off n).word k = if k = pg.base + off then satAdd (s.reg pg off) n else s.word k := State.setReg_word _ _ _ _ _

theorem State.countWrap_word (s : State) (pg : Page) (off n k : Nat) :
    (s.countWrap pg off n).word k = if k = pg.base + off then s.reg pg off + BitVec.ofNat 32 n else s.word k := State.setReg_word _ _ _ _ _

theorem State.setBits_word (s : State) (pg : Page) (off : Nat) (v : U32) (m k : Nat) :
    (s.setBits pg off v m).word k = if k = pg.base + off then mergeBits (s.reg pg off) v m else s.word k := State.setReg_word _ _ _ _ _

/-- ERR_STAT, ERR_MASK and ERR_FIRST of a page are all that an error event touches (R585). -/
theorem State.setErr_word_other (s : State) (pg : Page) (st m : U32) {k : Nat} (h0 : k ≠ pg.base + offErrStat)
    (h1 : k ≠ pg.base + offErrMask) (h2 : k ≠ pg.base + offErrFirst) : (s.setErr pg st m).word k = s.word k := by
  unfold State.setErr
  simp only [State.setReg_word, h0, h1, h2, if_false]

theorem State.raise_word_other (s : State) (pg : Page) (b : Nat) {k : Nat} (h0 : k ≠ pg.base + offErrStat)
    (h1 : k ≠ pg.base + offErrMask) (h2 : k ≠ pg.base + offErrFirst) : (s.raise pg b).word k = s.word k :=
  State.setErr_word_other _ _ _ _ h0 h1 h2

theorem State.setErr_stat (s : State) (pg : Page) (st m : U32) : (s.setErr pg st m).reg pg offErrStat = st := by
  unfold State.setErr
  rw [State.setReg_other _ _ _ (by decide), State.setReg_other _ _ _ (by decide), State.setReg_same]

theorem State.setErr_mask (s : State) (pg : Page) (st m : U32) : (s.setErr pg st m).reg pg offErrMask = m := by
  unfold State.setErr
  rw [State.setReg_other _ _ _ (by decide), State.setReg_same]

theorem State.raise_stat (s : State) (pg : Page) (b : Nat) :
    (s.raise pg b).reg pg offErrStat = s.reg pg offErrStat ||| BitVec.ofNat 32 (2 ^ b) := State.setErr_stat _ _ _ _

/-- An error record changes the log, its next number and the count of free values, and nothing else (R440). -/
theorem State.record_mk (s : State) (e : Event) :
    ∃ r : ErrRec, r.seq = s.logHead ∧ r.kind = e.kind ∧ r.code = e.code ∧ r.unit = e.unit ∧ r.stream = e.stream ∧
      s.record e = { s with log := keepLast 4096 (s.log ++ [r]), logHead := s.logHead + 1, free := s.free + 1 } :=
  ⟨_, rfl, rfl, rfl, rfl, rfl, rfl⟩

@[simp] theorem State.record_pending (s : State) (e : Event) : (s.record e).pending = s.pending := by
  obtain ⟨_, _, _, _, _, _, h⟩ := s.record_mk e
  rw [h]
@[simp] theorem State.record_regs (s : State) (e : Event) : (s.record e).regs = s.regs := by
  obtain ⟨_, _, _, _, _, _, h⟩ := s.record_mk e
  rw [h]
@[simp] theorem State.record_latches (s : State) (e : Event) : (s.record e).latches = s.latches := by
  obtain ⟨_, _, _, _, _, _, h⟩ := s.record_mk e
  rw [h]
@[simp] theorem State.record_heldLo (s : State) (e : Event) : (s.record e).heldLo = s.heldLo := by
  obtain ⟨_, _, _, _, _, _, h⟩ := s.record_mk e
  rw [h]
@[simp] theorem State.record_mem (s : State) (e : Event) : (s.record e).mem = s.mem := by
  obtain ⟨_, _, _, _, _, _, h⟩ := s.record_mk e
  rw [h]
@[simp] theorem State.record_streams (s : State) (e : Event) : (s.record e).streams = s.streams := by
  obtain ⟨_, _, _, _, _, _, h⟩ := s.record_mk e
  rw [h]
@[simp] theorem State.record_jobs (s : State) (e : Event) : (s.record e).jobs = s.jobs := by
  obtain ⟨_, _, _, _, _, _, h⟩ := s.record_mk e
  rw [h]
@[simp] theorem State.record_regions (s : State) (e : Event) : (s.record e).regions = s.regions := by
  obtain ⟨_, _, _, _, _, _, h⟩ := s.record_mk e
  rw [h]
@[simp] theorem State.record_engines (s : State) (e : Event) : (s.record e).engines = s.engines := by
  obtain ⟨_, _, _, _, _, _, h⟩ := s.record_mk e
  rw [h]
@[simp] theorem State.record_arrays (s : State) (e : Event) : (s.record e).arrays = s.arrays := by
  obtain ⟨_, _, _, _, _, _, h⟩ := s.record_mk e
  rw [h]
@[simp] theorem State.record_chucks (s : State) (e : Event) : (s.record e).chucks = s.chucks := by
  obtain ⟨_, _, _, _, _, _, h⟩ := s.record_mk e
  rw [h]
@[simp] theorem State.record_waiting (s : State) (e : Event) : (s.record e).waiting = s.waiting := by
  obtain ⟨_, _, _, _, _, _, h⟩ := s.record_mk e
  rw [h]
@[simp] theorem State.record_caches (s : State) (e : Event) : (s.record e).caches = s.caches := by
  obtain ⟨_, _, _, _, _, _, h⟩ := s.record_mk e
  rw [h]
@[simp] theorem State.record_upds (s : State) (e : Event) : (s.record e).upds = s.upds := by
  obtain ⟨_, _, _, _, _, _, h⟩ := s.record_mk e
  rw [h]
@[simp] theorem State.record_ovf (s : State) (e : Event) : (s.record e).ovf = s.ovf := by
  obtain ⟨_, _, _, _, _, _, h⟩ := s.record_mk e
  rw [h]
@[simp] theorem State.record_recipes (s : State) (e : Event) : (s.record e).recipes = s.recipes := by
  obtain ⟨_, _, _, _, _, _, h⟩ := s.record_mk e
  rw [h]
@[simp] theorem State.record_recipeLoad (s : State) (e : Event) : (s.record e).recipeLoad = s.recipeLoad := by
  obtain ⟨_, _, _, _, _, _, h⟩ := s.record_mk e
  rw [h]
@[simp] theorem State.record_ports (s : State) (e : Event) : (s.record e).ports = s.ports := by
  obtain ⟨_, _, _, _, _, _, h⟩ := s.record_mk e
  rw [h]
@[simp] theorem State.record_route (s : State) (e : Event) : (s.record e).route = s.route := by
  obtain ⟨_, _, _, _, _, _, h⟩ := s.record_mk e
  rw [h]
@[simp] theorem State.record_keytab (s : State) (e : Event) : (s.record e).keytab = s.keytab := by
  obtain ⟨_, _, _, _, _, _, h⟩ := s.record_mk e
  rw [h]
@[simp] theorem State.record_wmap (s : State) (e : Event) : (s.record e).wmap = s.wmap := by
  obtain ⟨_, _, _, _, _, _, h⟩ := s.record_mk e
  rw [h]
@[simp] theorem State.record_wmapLoad (s : State) (e : Event) : (s.record e).wmapLoad = s.wmapLoad := by
  obtain ⟨_, _, _, _, _, _, h⟩ := s.record_mk e
  rw [h]
@[simp] theorem State.record_colls (s : State) (e : Event) : (s.record e).colls = s.colls := by
  obtain ⟨_, _, _, _, _, _, h⟩ := s.record_mk e
  rw [h]
@[simp] theorem State.record_readys (s : State) (e : Event) : (s.record e).readys = s.readys := by
  obtain ⟨_, _, _, _, _, _, h⟩ := s.record_mk e
  rw [h]
@[simp] theorem State.record_readds (s : State) (e : Event) : (s.record e).readds = s.readds := by
  obtain ⟨_, _, _, _, _, _, h⟩ := s.record_mk e
  rw [h]
@[simp] theorem State.record_looped (s : State) (e : Event) : (s.record e).looped = s.looped := by
  obtain ⟨_, _, _, _, _, _, h⟩ := s.record_mk e
  rw [h]
@[simp] theorem State.record_sramScrub (s : State) (e : Event) : (s.record e).sramScrub = s.sramScrub := by
  obtain ⟨_, _, _, _, _, _, h⟩ := s.record_mk e
  rw [h]
@[simp] theorem State.record_twin (s : State) (e : Event) : (s.record e).twin = s.twin := by
  obtain ⟨_, _, _, _, _, _, h⟩ := s.record_mk e
  rw [h]
@[simp] theorem State.record_slots (s : State) (e : Event) : (s.record e).slots = s.slots := by
  obtain ⟨_, _, _, _, _, _, h⟩ := s.record_mk e
  rw [h]
@[simp] theorem State.record_seatLoad (s : State) (e : Event) : (s.record e).seatLoad = s.seatLoad := by
  obtain ⟨_, _, _, _, _, _, h⟩ := s.record_mk e
  rw [h]
@[simp] theorem State.record_unison (s : State) (e : Event) : (s.record e).unison = s.unison := by
  obtain ⟨_, _, _, _, _, _, h⟩ := s.record_mk e
  rw [h]
@[simp] theorem State.record_tune (s : State) (e : Event) : (s.record e).tune = s.tune := by
  obtain ⟨_, _, _, _, _, _, h⟩ := s.record_mk e
  rw [h]
@[simp] theorem State.record_dies (s : State) (e : Event) : (s.record e).dies = s.dies := by
  obtain ⟨_, _, _, _, _, _, h⟩ := s.record_mk e
  rw [h]
@[simp] theorem State.record_links (s : State) (e : Event) : (s.record e).links = s.links := by
  obtain ⟨_, _, _, _, _, _, h⟩ := s.record_mk e
  rw [h]
@[simp] theorem State.record_bundles (s : State) (e : Event) : (s.record e).bundles = s.bundles := by
  obtain ⟨_, _, _, _, _, _, h⟩ := s.record_mk e
  rw [h]
@[simp] theorem State.record_lanes (s : State) (e : Event) : (s.record e).lanes = s.lanes := by
  obtain ⟨_, _, _, _, _, _, h⟩ := s.record_mk e
  rw [h]
@[simp] theorem State.record_pwr (s : State) (e : Event) : (s.record e).pwr = s.pwr := by
  obtain ⟨_, _, _, _, _, _, h⟩ := s.record_mk e
  rw [h]
@[simp] theorem State.record_start (s : State) (e : Event) : (s.record e).start = s.start := by
  obtain ⟨_, _, _, _, _, _, h⟩ := s.record_mk e
  rw [h]
@[simp] theorem State.record_flash (s : State) (e : Event) : (s.record e).flash = s.flash := by
  obtain ⟨_, _, _, _, _, _, h⟩ := s.record_mk e
  rw [h]
@[simp] theorem State.record_sessions (s : State) (e : Event) : (s.record e).sessions = s.sessions := by
  obtain ⟨_, _, _, _, _, _, h⟩ := s.record_mk e
  rw [h]
@[simp] theorem State.record_fw (s : State) (e : Event) : (s.record e).fw = s.fw := by
  obtain ⟨_, _, _, _, _, _, h⟩ := s.record_mk e
  rw [h]
@[simp] theorem State.record_spdm (s : State) (e : Event) : (s.record e).spdm = s.spdm := by
  obtain ⟨_, _, _, _, _, _, h⟩ := s.record_mk e
  rw [h]
@[simp] theorem State.record_cxl (s : State) (e : Event) : (s.record e).cxl = s.cxl := by
  obtain ⟨_, _, _, _, _, _, h⟩ := s.record_mk e
  rw [h]
@[simp] theorem State.record_nextReq (s : State) (e : Event) : (s.record e).nextReq = s.nextReq := by
  obtain ⟨_, _, _, _, _, _, h⟩ := s.record_mk e
  rw [h]
@[simp] theorem State.record_out (s : State) (e : Event) : (s.record e).out = s.out := by
  obtain ⟨_, _, _, _, _, _, h⟩ := s.record_mk e
  rw [h]
end Sys2Proof.Machine
end

