-- ==== Sys2Proof/Tests/Slice0.lean ====
section
/-! SUPPORT. The author's own tests: ill-formed commands that WellFormed refuses, worked examples of the spec, and for every obligation with hypotheses states and operands that meet them. -/

namespace Sys2Proof.Tests

-- One theorem at a time: the threads of many at once have no room.
set_option Elab.async false

open Machine

/-! ### WellFormed refuses an ill-formed term of each kind -/

def noObs : FireObs := ⟨0, 0, 0, [], []⟩
def noReport : StartReport := ⟨true, [], false, [], [], [], [], [], 70, 0, [], 0⟩
def noFlit (n r : Nat) : Flit := ⟨0, 0, 0, List.replicate r 0, List.replicate n 0, 0⟩
def planOn (u : Nat) : Plan := ⟨[⟨u, 0, 0, [], (0, 0)⟩], [], [], []⟩
def req0 : SvcReq := ⟨0, false, 0⟩

theorem test_wf_accepts : (Instr.openStream 0 0).wf = true ∧ (Instr.registerWrite .tol 0x40 4 0).wf = true ∧
    (Instr.flitReceived (.rdl 0) 0 (noFlit 480 23)).wf = true ∧ (Instr.flitReceived (.bondDie 3) 0 (noFlit 240 7)).wf = true ∧ (Instr.powerOn noReport).wf = true := by decide +kernel
theorem test_wf_bar2 : (Instr.bar2DroppedWrite 64 8).wf = false ∧ (Instr.bar2DroppedWrite 64 0).wf = false ∧ (Instr.bar2DroppedWrite 0xFFFFF 2).wf = false := by decide +kernel
theorem test_wf_plan : (Instr.bindingComplete 0 (planOn 822)).wf = false := by decide +kernel
theorem test_wf_access : (Instr.readLoLatch (.fn 0) .tol 0x40 3).wf = false ∧ (Instr.writeLoHold (.fn 0) .tol 0x40 0 0).wf = false ∧
    (Instr.writeHiCommit (.fn 0) .tol 0x44 16 0).wf = false ∧ (Instr.registerWrite .tol 0x40 5 0).wf = false := by decide +kernel
theorem test_wf_scrub : (Instr.memoryScrubRead (.hbm 0) [⟨32, false⟩] 0).wf = false ∧ (Instr.memoryScrubRead (.gddr 0) [] 5).wf = false := by decide +kernel
theorem test_wf_nodes : (Instr.updateFirstFiring 0 0 1024).wf = false ∧ (Instr.latheRetainFiring 0 0 1024 1).wf = false ∧ (Instr.latheRetainFiring 0 0 0 0).wf = false ∧
    (Instr.latheApplyFiring 0 0 0 257).wf = false ∧ (Instr.latheCommitFiring 0 0 1024).wf = false ∧ (Instr.shadowFiring 0 0 1024).wf = false ∧ (Instr.verdict 0 0 1024).wf = false := by decide +kernel
theorem test_wf_units : (Instr.initUnitReceived 0 ⟨0, List.replicate 31 0, List.replicate 16 0, 0, 0⟩).wf = false ∧
    (Instr.initUnitReceived 0 ⟨0, List.replicate 32 0, List.replicate 15 0, 0, 0⟩).wf = false ∧
    (Instr.dataUnitReceived 0 ⟨0, List.replicate 31 0, List.replicate 16 0, 0, 0⟩).wf = false ∧
    (Instr.emptyUnitReceived 0 ⟨0, [0], List.replicate 16 0, 0, 0⟩).wf = false := by decide +kernel
theorem test_wf_tuning : (Instr.tuningResult 0 ⟨false, 0, some [64]⟩).wf = false := by decide +kernel
theorem test_wf_flits : (Instr.flitReceived (.rdl 0) 0 (noFlit 240 23)).wf = false ∧ (Instr.flitReceived (.bondBase 0) 0 (noFlit 240 23)).wf = false ∧
    (Instr.clockMonitorWindow (.rdl 0) [0] 0).wf = false := by decide +kernel
theorem test_wf_power : (Instr.swellControlLoop ⟨1, 0, 0, []⟩).wf = false ∧ (Instr.breathSample []).wf = false ∧ (Instr.mctpReadSensors []).wf = false ∧
    (Instr.powerOn { noReport with cxlLinked := [(0, 2, true, false)] }).wf = false ∧ (Instr.wakeComplete { noReport with lanes := [⟨.rdl 0, 16, 0, []⟩] }).wf = false ∧
    (Instr.svcReset req0 { noReport with lanes := [⟨.rdl 0, 0, 16, []⟩] }).wf = false ∧ (Instr.powerOn { noReport with ports := [(0, [])] }).wf = false := by decide +kernel
theorem test_wf_service : (Instr.svcLogRead req0 0 65).wf = false ∧ (Instr.svcSettingGet req0 0).wf = false ∧ (Instr.svcSettingSet req0 9 none).wf = false ∧
    (Instr.svcRegRead req0 0 257).wf = false ∧ (Instr.fwBegin req0 (List.replicate 65537 0)).wf = false ∧ (Instr.fwData req0 0 (List.replicate 65537 0)).wf = false := by decide +kernel
theorem test_wf_spdm : (Instr.spdmGetCertificate .mctp 8 0 0).wf = false ∧ (Instr.spdmChallenge .mctp 8 (List.replicate 32 0)).wf = false ∧ (Instr.spdmChallenge .mctp 0 []).wf = false ∧
    (Instr.spdmGetMeasurements .mctp 0 false []).wf = false ∧ (Instr.spdmKeyExchange .mctp 0 []).wf = false ∧ (Instr.spdmKeyExchange .mctp 8 (List.replicate 96 0)).wf = false ∧
    (Instr.ideKeyProgram 0 0 []).wf = false ∧ (Instr.mctpReadLog 0 65).wf = false := by decide +kernel
theorem test_wf_host : (Instr.hostHdmRead 0 1 false false).wf = false ∧ (Instr.hostHdmWrite 0 32 (List.replicate 64 0) (List.replicate 64 true)).wf = false ∧
    (Instr.hostHdmWrite 0 0 [] (List.replicate 64 true)).wf = false ∧ (Instr.hostHdmWrite 0 0 (List.replicate 64 0) []).wf = false ∧ (Instr.cxlLinkUp 0 16 true false).wf = false := by decide +kernel

/-! ### Worked examples of the spec -/

/-- Page addresses of the three accesses of chapter 16. -/
theorem test_page_addresses : (Page.vxe 67).base + 0x048 = 0x01C31048 ∧ (Page.ats 38).base + 0xF04 = 0x02584F04 ∧ (Page.hbc 12).base + 0x044 = 0x02022044 := by decide +kernel

/-- The two addresses decoded in chapter 6. -/
theorem test_hbm_address : hbmStack 0x004412345000 = some 5 ∧ baseOfStack 5 = 0 ∧ hbmPlace 0x00812345000 = ⟨4, 0, 541642752⟩ ∧
    tagAddr (0x004412345000 / 2048) = some (5 * stackSize + reservedOffset + 67705384) := by decide +kernel
theorem test_bench_address : gddrOf 0x010001234800 = 9 ∧ tagAddr (0x010001234800 / 2048) = some (9 * stackSize + reservedOffset + 0x05FC0918) := by decide +kernel

/-- Truncation in the window (chapter 4): 1.0 and inexact, not the neighbour above. -/
theorem test_window_truncates : (fun r => (fmtF32.encode r.1, r.2)) (dotFl .w16
    ((([(0x3F80, 0x3F80), (0x3FC0, 0x3300), (0x3FE0, 0x3280)] : List (Nat × Nat)) ++ List.replicate 13 (0, 0)).map (fun (p : Nat × Nat) => (fmtBf16.decode p.1, fmtBf16.decode p.2)))) =
    ((0x3F800000, 0), fInx) := by decide +kernel

/-- INT32 saturation and wrap (chapter 4). -/
theorem test_int32_running_sum : accInt true (2147483000, 0) 516128 = (2147483647, fOvf) ∧ accInt false (2147483000, 0) 516128 = (-2146968168, fOvf) := by decide +kernel

/-- A block converted to MXFP8 E4M3 (chapter 4). -/
theorem test_mx_block : mxBlock 0x10 (([0x447A0000, 0xC0533333, 0x3A83126F] ++ List.replicate 29 0).map fmtF32.decode) =
    (0x80, [0x7E, 0xBD] ++ List.replicate 30 0, fOvf ||| fUnf ||| fInx) := by decide +kernel

/-- The tree of group 40 on element 6,000 (chapter 9). -/
theorem test_tree_of_five : (fun r => ((fmtF32.encode r.1.toFl).1, r.2)) (collTree 0 false 3 (([0x3F800000, 0x33800000, 0x33800000, 0x33800000, 0xBF800000] : List Nat).map (fun w => .fl (fmtF32.decode w)))) =
    (0x34000000, fInx) := by decide +kernel

/-- e to the x at the example of chapter 5 overflows. -/
theorem test_exp_overflows : curveEval 0 (fmtF32.decode 0x42B17218) = (0x7F800000, fOvf ||| fInx) := by decide +kernel

/-- One key block of chapter 5's attention rows, and the row's O in BF16, stats, and whether it is counted as empty, infinite or NaN. -/
def fiveRow (ss : List (Bool × Nat)) : (Nat × Nat) × Nat × Flags × Bool × Bool × Bool :=
  let r := softFinish (softBlock 0x02 (SoftRow.init 1) (ss.map (fun x => (x.1, fmtF32.decode x.2, 0))) [([0x3FC0, 0xBE80, 0x4080, 0x4040] : List Nat).map fmtBf16.decode] none)
  let o := convTo 0x02 true (.fl (r.o.headD .nan))
  ((o.1, (fmtF32.encode r.m).1), (fmtF32.encode r.l).1, r.fl ||| o.2, r.empty, r.infRow, r.nanRow)

theorem test_attention_rows_a_c : fiveRow [(true, 0x40000000), (true, 0x40000000), (false, 0), (true, 0x40000000)] = ((0x3FB5, 0x40000000), 0x40400000, fInx, false, false, false) ∧
    fiveRow [(true, 0x7F800000), (true, 0x40A00000), (true, 0x7F800000), (true, 0xFF800000)] = ((0x4030, 0x7F800000), 0x40000000, 0, false, true, false) := by decide +kernel
theorem test_attention_row_b : fiveRow [(false, 0), (false, 0), (false, 0), (false, 0)] = ((0, 0xFF800000), 0, 0, true, false, false) := by decide +kernel
theorem test_attention_rows_d_e : fiveRow [(true, 0x3F800000), (true, 0x7FC00000), (false, 0), (true, 0x40800000)] = ((0x7FC0, 0x7FC00000), 0x7FC00000, fInv, false, false, true) ∧
    fiveRow [(false, 0x7FC00000), (true, 0x40400000), (true, 0x40400000), (false, 0)] = ((0x3FF0, 0x40400000), 0x40000000, 0, false, false, false) := by decide +kernel

/-- Footprints of the worked program (chapter 2) and sizes of the worked shard (chapter 8). -/
theorem test_footprints : footprint dBf16 [1344, 5376] = 14450688 ∧ footprint dF32 [2867] = 12288 ∧ shardSB 41287680 = 165150720 ∧ shardRB 41287680 = 82575360 ∧
    ringOffset 2 41287680 1 = 1073481728 := by decide +kernel

/-- The host access of chapter 15. -/
theorem test_hdm_decode : (HdmDecoder.mk ⟨0x002000000000, 0x800000000, 4096, 2, 1, 0x005400000000⟩ true false 0x005400000000).dpaOf 0x002012345680 = some 0x0054091A2680 := by decide +kernel

/-- The command word of chapter 1: OP, SEQ and SUBMIT. -/
theorem test_command_word : (0x1019C0000030E800 : Nat) / 2 ^ 60 = opRing ∧ cmdSeqOf (BitVec.ofNat 60 0x1019C0000030E800) = 412 ∧
    cmdSubmit (BitVec.ofNat 60 0x1019C0000030E800) = 0x00000C3A0000 ∧ cmdClean opRing (BitVec.ofNat 60 0x1019C0000030E800) = true := by decide +kernel

/-! ### States in which the hypotheses of the statements are met -/

def dieUp : DieSt := { DieSt.unpowered with up := true }

/-- The module in Run with every die up and its start done. -/
def live : State :=
  { State.reset with
    dies := (List.range 15).map (fun k => (k, dieUp))
    pwr := { State.reset.pwr with st := .run }
    start := { State.reset.start with powered := true, ready := true } }

/-- The same with one die down. -/
def without (k : Nat) : State := { live with dies := (List.range 15).filterMap (fun i => if i = k then none else some (i, dieUp)) }

def job0 : Job := { Job.fresh with valid := true }
/-- Job 0 valid, with region 0 over the first 1 MiB of stack 0. -/
def owner : State := { live with jobs := [(0, job0)], regions := [(0, ⟨0, 0xFFFFF, true, true, true⟩)] }
/-- Stream 5 open for job 0 at base die 1, in a state of its own. -/
def holding (st : SState) : Stream := { Stream.fresh with st := st, home := 1 }
def withStream (x : Stream) : State := { owner with streams := [(5, x)] }

theorem witness_StepRunsFrontCommand : step { live with pending := [.clearBar2Drop] } = exec .clearBar2Drop live := by rfl
theorem witness_EmptyQueueIdles : State.reset.pending = [] := rfl
theorem witness_ExecLeavesQueue : ∃ t, exec .clearBar2Drop { live with pending := [.heartbeatSend] } = .next t := ⟨_, rfl⟩
theorem witness_StepKeepsInvariant : State.reset.mem.wf = true ∧ State.reset.log.length ≤ 4096 ∧ State.reset.streams = [] ∧ ∃ t, step { State.reset with pending := [.leakDetected] } = .next t :=
  ⟨by decide, by decide, rfl, _, rfl⟩
theorem witness_PagesLieApart : pageAt ((Page.ats 47).base + 0xFFF) = some (.ats 47) ∧ pageAt (Page.tol.base + 0) = some .tol := by decide +kernel

/-! #### Streams -/

/-- OPEN for job 0 with HOME h. -/
def openBody (h : Nat) : BitVec 60 := BitVec.ofNat 60 (h * 1)

theorem witness_OpenMakesStreamIdle : live.hostReach = true ∧ owner.start.ready = true ∧ cmdClean opOpen 3 = true ∧ (owner.stream 0).st = .free ∧ (owner.job (cmdJob 3)).valid = true ∧
    cmdHome 3 = 3 ∧ cmdHome 2 = 2 ∧ owner.baseUp 2 = true ∧ cmdClean opOpen 2 = true ∧ (owner.job (cmdJob 2)).valid = true := by decide +kernel
theorem witness_OpenMakesStreamIdle_down : let s := { owner with dies := (without 14).dies }
    s.hostReach = true ∧ s.baseUp (cmdHome 2) = false ∧ (s.job (cmdJob 2)).valid = true := by decide +kernel

/-- RING with SEQ q at address 0. -/
def ringBody (q : Nat) : BitVec 60 := BitVec.ofNat 60 (q * 2 ^ 44)

theorem witness_RingStartsOrQueues : let s := withStream (holding .idle); let x := s.stream 5
    s.hostReach = true ∧ x.st ≠ .free ∧ s.baseUp x.home = true ∧ cmdClean opRing (ringBody 1) = true ∧ cmdSeqOf (ringBody 1) = (if x.lastSeq = 0xFFFF then 1 else x.lastSeq + 1) ∧
    x.pend.length < 4 ∧ s.allowed x.job (cmdSubmit (ringBody 1)).toNat 64 false = true ∧ x.st = .idle ∧ x.pend = [] ∧ x.bound = none ∧
    cmdSeqOf (ringBody 2) ≠ (if x.lastSeq = 0xFFFF then 1 else x.lastSeq + 1) := by decide +kernel
theorem witness_RingStartsOrQueues_wraps : let x := { holding .running with lastSeq := 0xFFFF, seq := 0xFFFE, pend := [⟨0xFFFF, 0⟩] }
    (withStream x).stream 5 = x ∧ x.active = true ∧ cmdSeqOf (ringBody 1) = (if x.lastSeq = 0xFFFF then 1 else x.lastSeq + 1) ∧ x.pend.length < 4 ∧ ({ x with st := .completed }).ended = true := by decide +kernel

theorem witness_AbortDrainsOrCuts : let x := { holding .running with seq := 7, pend := [⟨8, 0⟩] }; let s := withStream x
    s.hostReach = true ∧ (s.stream 5).st = .running ∧ cmdClean opAbort (ringBody 7) = true ∧ (s.stream 5).seq = cmdSeqOf (ringBody 7) ∧
    x.pend.findIdx (fun p => decide (p.seq = cmdSeqOf (ringBody 8))) < x.pend.length ∧ ¬ x.pend.findIdx (fun p => decide (p.seq = cmdSeqOf (ringBody 9))) < x.pend.length ∧
    x.seq ≠ cmdSeqOf (ringBody 9) ∧ s.waiting = [] ∧ s.start.ready = true ∧ s.baseUp (s.stream 5).home = true := by decide +kernel

theorem witness_CommandTestsInOrder : live.hostReach = true ∧ commandWord (.badCommand 3 0) = some (3, 0, 0) ∧ commandWord (.ring 5 (ringBody 1)) = some (5, opRing, ringBody 1) := by decide +kernel
/-- Each test of R609 is the first to fail somewhere. -/
theorem witness_CommandTestsInOrder_each : { live with start := { live.start with ready := false } }.hostReach = true ∧ cmdClean opClose 1 = false ∧
    (let s := { withStream (holding .idle) with dies := (without 14).dies, streams := [(5, { holding .running with home := 2 }), (6, { holding .idle with home := 2 })] }
     s.hostReach = true ∧ s.baseUp (s.stream 5).home = false ∧ (s.stream 5).busy = true ∧ (s.stream 6).busy = false) ∧
    (withStream (holding .running)).hostReach = true ∧ ((withStream (holding .running)).stream 5).busy = true ∧ (live.job (cmdJob 0)).valid = false ∧
    4 ≤ ({ holding .running with pend := List.replicate 4 ⟨1, 0⟩ }).pend.length ∧ live.allowed 0 0 64 false = false := by decide +kernel

theorem witness_CloseDropsAndStalls : let s := withStream (holding .completed)
    s.hostReach = true ∧ (s.stream 5).st ≠ .free ∧ (s.stream 5).busy = false ∧ (¬ (1 ≤ (0 : Nat) ∧ (0 : Nat) ≤ 4) ∨ cmdClean 0 0 = false) ∧
    ((withStream (holding .running)).stream 5).st = .running ∧ ((withStream (holding .running)).stream 5).stalled = false ∧ (withStream (holding .running)).field (stmPage 1) 0x040 0 16 ≠ 0 := by decide +kernel

/-! #### Job contexts, register access, memories -/

theorem witness_JobContextIsWritten : live.hostReach = true ∧ (live.job live.selJob).valid = false ∧ (∀ k, k < 256 → k ≠ live.selJob → (live.job k).valid = true → (live.job k).keySlot ≠ fieldOf 0 8 8) ∧
    (owner.job owner.selJob).valid = true ∧
    (let s := { live with jobs := [(9, job0)] }; (s.job s.selJob).valid = false ∧ 9 ≠ s.selJob ∧ (s.job 9).valid = true ∧ (s.job 9).keySlot = fieldOf 0 8 8) := by decide +kernel

theorem witness_JobClearGivesBack : owner.hostReach = true ∧ (owner.job owner.selJob).valid = true ∧ owner.streamsOf owner.selJob = [] ∧
    (let s := withStream (holding .idle); s.streamsOf s.selJob ≠ [] ∧ (s.job s.selJob).valid = true) ∧
    (let s := { owner with slots := [(2, { Slot.empty with valid := true })] }; s.slotOf s.selJob = some 2) := by decide +kernel

theorem witness_PairsActAsOneValue : (0x044 : Nat) ∈ Page.stmRgn.pairs ∧ Page.stmRgn.writable 0x044 = true ∧ live.answers (.fn 0) .stmRgn 0x044 = true ∧
    Page.stmRgn.writable 0x048 = true ∧ live.answers (.svc 3) .stmRgn 0x048 = true ∧ live.selRegion.valid = false ∧ (0x04C : Nat) ∈ Page.stmRgn.pairs := by decide +kernel
theorem witness_PairsActAsOneValue_plain : ∃ pg lo, lo ∈ pg.pairs ∧ pg ≠ Page.stmRgn ∧ pg.writable (lo + 4) = true ∧ (pg.reg lo).isSome = true ∧ (pg.reg (lo + 4)).isSome = true ∧ live.answers (.fn 1) pg (lo + 4) = true :=
  ⟨.cnsMap, 0x040, by decide +kernel⟩

theorem witness_RegisterWriteSetsFields : live.writes .stmQrm = true ∧ live.writes .uni = true ∧ live.writes .brt = true ∧ live.writes (.rdl 0) = true ∧ live.writes (.bnd 11) = true ∧
    live.writes (.cxp 1) = true ∧ live.writes (.mxa 191) = true ∧ (0x044 : Nat) ∉ Page.stmQrm.pairs ∧ (0x044 : Nat) ∉ Page.stmQrm.ownWrites ∧ (0x048 : Nat) ∉ Page.uni.ownWrites ∧ (0x044 : Nat) ∉ Page.uni.ownWrites ∧
    (0x048 : Nat) ∉ Page.brt.ownWrites ∧ (0x058 : Nat) ∉ (Page.rdl 0).ownWrites ∧ (0x058 : Nat) ∉ (Page.bnd 11).ownWrites ∧ (0x04C : Nat) ∉ (Page.cxp 1).ownWrites ∧ (0x018 : Nat) ∉ (Page.mxa 191).ownWrites := by decide +kernel
theorem witness_RegisterWriteSetsFields_plain : live.writes .swl = true ∧ (0xFFC : Nat) ∉ Page.swl.pairs ∧ (0xFFC : Nat) - 4 ∉ Page.swl.pairs ∧ (0xFFC : Nat) ∉ Page.swl.ownWrites ∧ Page.swl.reg 0xFFC = none ∧
    (0x048 : Nat) ∉ Page.swl.pairs ∧ (0x044 : Nat) ∉ Page.swl.pairs ∧ (0x048 : Nat) ∉ Page.swl.ownWrites ∧ (Page.swl.reg 0x048).isSome = true ∧ live.field .brt 0x044 0 5 ≠ 18 := by decide +kernel
theorem witness_RegisterWriteSetsFields_fixed : ({ live with regs := [(Page.brt.base + 0x044, 18)] } : State).field .brt 0x044 0 5 = 18 ∧
    (live.testMode (.rdl 0) = false ∧ ({ live with dies := [(12, { dieUp with test := true }), (13, { dieUp with test := true })] } : State).testMode (.rdl 0) = true) := by decide +kernel

theorem witness_ErrFirstFollows : live.writes .wwyMod = true ∧ (let s := live.raise .wwyMod 1; s.reg .wwyMod offErrStat &&& ~~~ s.reg .wwyMod offErrMask ≠ 0) ∧
    live.reg .wwyMod offErrStat &&& ~~~ live.reg .wwyMod offErrMask = 0 := by decide +kernel

theorem witness_CountsFlagsAndRepair : live.writes .tol = true ∧ live.writes .stmQrm = true ∧ live.writes (.vxe 3) = true ∧ (Page.vxe 3).hasNumflags = true ∧ live.writes (.glb 2) = true ∧
    (7 : Nat) ∈ ({ live with start := { live.start with repaired := [7] } } : State).start.repaired ∧ (191 : Nat) ∉ live.start.repaired ∧ live.writes (.mxa 0) = true ∧ live.writes (.cpe 191) = true := by decide +kernel

/-! #### Program images at address 0, byte by byte from R77 to R91 (bytes that are 0 left out) -/

/-- No node: TENSOR, NODE, EDGE and OUTPUT sections, all empty. -/
def imgEmpty : Memory :=
  ⟨[(0x0, 0x47), (0x1, 0x4C), (0x2, 0x41), (0x3, 0x44), (0x4, 0x01), (0x8, 0xC0), (0x10, 0x04), (0x14, 0x40), (0x18, 0x9A), (0x19, 0x37), (0x1A, 0x05), (0x1B, 0xE3),
    (0x40, 0x01), (0x44, 0xC0), (0x50, 0x03), (0x54, 0xC0), (0x60, 0x04), (0x64, 0xC0), (0x70, 0x06), (0x74, 0xC0)], [(0, 0x1b07e701)], []⟩
/-- One PHASE node, SUB 0, STEP 0 (ATTR at 0x100). -/
def imgPhase : Memory :=
  ⟨[(0x0, 0x47), (0x1, 0x4C), (0x2, 0x41), (0x3, 0x44), (0x4, 0x01), (0x8, 0x40), (0x9, 0x01), (0x10, 0x05), (0x14, 0x40), (0x18, 0x4F), (0x19, 0xEB), (0x1A, 0xE8),
    (0x1B, 0x60), (0x40, 0x01), (0x44, 0xC0), (0x50, 0x03), (0x54, 0xC0), (0x58, 0x20), (0x5C, 0x01), (0x60, 0x04), (0x65, 0x01), (0x70, 0x05), (0x75, 0x01), (0x78, 0x08),
    (0x80, 0x06), (0x84, 0x40), (0x85, 0x01), (0xC0, 0x0A), (0xCC, 0x08), (0xD8, 0xFF), (0xD9, 0xFF), (0xDA, 0xFF), (0xDB, 0xFF)], [(0, 0xc48c6e1f)], []⟩
/-- X, 16 FP32 elements at 0x1000, to Y at 0x1800 by CURVE 0; output Y (TENSOR at 0xC0, NODE at 0x140, EDGE at 0x180, OUTPUT at 0x1C0). -/
def imgCurve : Memory :=
  ⟨[(0x0, 0x47), (0x1, 0x4C), (0x2, 0x41), (0x3, 0x44), (0x4, 0x01), (0x9, 0x02), (0x10, 0x04), (0x14, 0x40), (0x18, 0xE7), (0x19, 0x45), (0x1A, 0x07), (0x1B, 0xD0),
    (0x40, 0x01), (0x44, 0xC0), (0x48, 0x80), (0x4C, 0x02), (0x50, 0x03), (0x54, 0x40), (0x55, 0x01), (0x58, 0x20), (0x5C, 0x01), (0x60, 0x04), (0x64, 0x80), (0x65, 0x01),
    (0x68, 0x20), (0x6C, 0x02), (0x70, 0x06), (0x74, 0xC0), (0x75, 0x01), (0x78, 0x04), (0x7C, 0x01), (0xC0, 0x03), (0xC1, 0x01), (0xC8, 0x10), (0xE1, 0x10), (0xF0, 0xFF),
    (0xF1, 0xFF), (0xF2, 0xFF), (0xF3, 0xFF), (0x100, 0x03), (0x101, 0x01), (0x108, 0x10), (0x121, 0x18), (0x130, 0xFF), (0x131, 0xFF), (0x132, 0xFF), (0x133, 0xFF),
    (0x140, 0x03), (0x144, 0x01), (0x145, 0x01), (0x158, 0xFF), (0x159, 0xFF), (0x15A, 0xFF), (0x15B, 0xFF), (0x184, 0xFF), (0x185, 0xFF), (0x188, 0xFF), (0x190, 0x01),
    (0x196, 0xFF), (0x197, 0xFF), (0x199, 0xFF), (0x1C0, 0x01)], [(0, 0xee4e8623)], []⟩
/-- X into an INTERNAL tensor by CURVE 0, with no scratch area and no output. -/
def imgScratch : Memory :=
  ⟨[(0x0, 0x47), (0x1, 0x4C), (0x2, 0x41), (0x3, 0x44), (0x4, 0x01), (0x8, 0xC0), (0x9, 0x01), (0x10, 0x04), (0x14, 0x40), (0x18, 0x29), (0x19, 0x04), (0x1A, 0x3E),
    (0x1B, 0x12), (0x40, 0x01), (0x44, 0xC0), (0x48, 0x80), (0x4C, 0x02), (0x50, 0x03), (0x54, 0x40), (0x55, 0x01), (0x58, 0x20), (0x5C, 0x01), (0x60, 0x04), (0x64, 0x80),
    (0x65, 0x01), (0x68, 0x20), (0x6C, 0x02), (0x70, 0x06), (0x74, 0xC0), (0x75, 0x01), (0xC0, 0x03), (0xC1, 0x01), (0xC8, 0x10), (0xE1, 0x10), (0xF0, 0xFF), (0xF1, 0xFF),
    (0xF2, 0xFF), (0xF3, 0xFF), (0x100, 0x03), (0x101, 0x01), (0x102, 0x01), (0x108, 0x10), (0x130, 0xFF), (0x131, 0xFF), (0x132, 0xFF), (0x133, 0xFF), (0x140, 0x03),
    (0x144, 0x01), (0x145, 0x01), (0x158, 0xFF), (0x159, 0xFF), (0x15A, 0xFF), (0x15B, 0xFF), (0x184, 0xFF), (0x185, 0xFF), (0x188, 0xFF), (0x190, 0x01), (0x196, 0xFF),
    (0x197, 0xFF), (0x199, 0xFF)], [(0, 0xc4f3c177)], []⟩

/-- Stream 5 at its binder with an image at address 0. -/
def binding (img : Memory) : State :=
  { owner with
    jobs := [(0, { job0 with valid := true })]
    streams := [(5, { holding .binding with submit := 0 })]
    mem := img }

/-- What the checks answer: the number of nodes and whether no room is left, or the code. -/
def verdictOn (s : State) : Nat × Nat × Nat :=
  match s.checkImage 5 [] with
  | .ok _ p => (0, p.nodes.length, (s.noRoom 0 p (s.imageSha p [])).length)
  | .fail _ c _ => (c.toNat, 0, 0)

/-- Whether a plan places the program. -/
def placed (s : State) (pl : Plan) : Bool :=
  match s.checkImage 5 pl.remote with
  | .ok _ p => (s.internalsOf 5 0 p pl).isSome && s.planOk 0 p pl && decide (s.noRoom 0 p (s.imageSha p pl.remote) = []) && s.slotsFit 0 (pl.bound p []) && s.placeFree ⟨5, pl, pl.bound p [], p.outTotal⟩
  | .fail _ _ _ => false

def progOf (s : State) : Program := readProgram (s.imgRd 0 []) 0 (readImgHeader (s.imgRd 0 []))

def planNone : Plan := ⟨[], [], [], []⟩
def planPhase : Plan := ⟨[⟨0, 0, 0, [[]], (0, 0)⟩], [], [], []⟩
/-- The curve unit of core 0, with 4 KiB of its tile SRAM. -/
def planCurve : Plan := ⟨[⟨2, 0, 0, [[⟨1, 0, 1⟩]], (tileBase, 4096)⟩], [], [], []⟩

theorem witness_BindingCompletesIntoRunning : (binding imgEmpty).atBinder 5 = true ∧ ((binding imgEmpty).job 0).expelled = false ∧ verdictOn (binding imgEmpty) = (0, 0, 0) ∧ placed (binding imgEmpty) planNone = true ∧
    ((binding imgEmpty).stream 5).pend = [] := by decide +kernel
theorem witness_BindingCompletesIntoRunning_nodes : (binding imgPhase).atBinder 5 = true ∧ verdictOn (binding imgPhase) = (0, 1, 0) ∧ placed (binding imgPhase) planPhase = true ∧
    (binding imgPhase).waiting = [] := by decide +kernel
/-- A stream that holds 32 slots of unit 0 leaves none for another. -/
theorem witness_BindingCompletesIntoRunning_waits : ({ binding imgPhase with streams := [(5, holding .binding), (6, { holding .running with bound := some (Plan.bound ⟨(List.range 32).map (fun k => ⟨0, k, 0, [[]], (0, 0)⟩), [], [], []⟩
    ⟨0, 64, false, 0, 0, 0, 0, 0, [], [], [], [], [], []⟩ []) })] } : State).slotsFit 0 (planPhase.bound (progOf (binding imgPhase)) []) = false := by decide +kernel

theorem witness_BindingFailsWithItsCode : (withStream (holding .binding)).atBinder 5 = true ∧ verdictOn (withStream (holding .binding)) = (S_G_MAGIC.toNat, 0, 0) ∧
    ({ withStream (holding .binding) with jobs := [(0, { job0 with expelled := true })] } : State).atBinder 5 = true := by decide +kernel
theorem witness_BindingFailsWithItsCode_curve : verdictOn (binding imgCurve) = (0, 1, 0) := by decide +kernel
/-- No main store is free where another job's region covers it. -/
theorem witness_BindingFailsWithItsCode_no_room : verdictOn { binding imgScratch with jobs := [(0, job0), (1, job0)], regions := [(0, ⟨0, 0xFFFFF, true, true, true⟩), (64, ⟨0, hbmEnd - 1, true, true, true⟩)] } = (0, 1, 1) := by decide +kernel

/-! #### Firings -/

/-- Stream 5 RUNNING the CURVE program on unit 2. -/
def curveBound : Bound := planCurve.bound (progOf (binding imgCurve)) []
def curveRun : State := { binding imgCurve with streams := [(5, { holding .running with bound := some curveBound })] }
def firing (slot : Nat) (rep : Bool) : Running := ⟨5, slot, rep, [], [], false, 0, (true, true), (.unsaid, 0)⟩
/-- The same while the firing runs. -/
def curveBusy (rep : Bool) : State := { curveRun with engines := [(2, { Engine.idle with cur := some (firing 0 rep) })] }
def phaseBound : Bound := planPhase.bound (progOf (binding imgPhase)) []
def phaseBusy : State := { binding imgPhase with streams := [(5, { holding .running with bound := some phaseBound })], engines := [(0, { Engine.idle with cur := some (firing 0 false) })] }

/-- A program that no binder saw, with one ELEMENTWISE slot on unit 1 and an edge from it to a CURVE slot on unit 2. -/
theorem witness_FiringTakesTokensAndCredits : curveRun.lapse.pick 2 = .fire (5 * 65536) false ∧ (isArray 2 || isVector 2 || isCurve 2) = true ∧ (curveBound.nodes[0]?).isSome = true ∧
    (curveBound.prog.nodes[0]?).map (fun g => g.op) = some 3 ∧ opCopy ≠ 3 ∧ isLathe 2 = false ∧ curveRun.eligible 2 false ≠ [] ∧ live.lapse.pick 2 = .nothing := by decide +kernel
theorem witness_FiringTakesTokensAndCredits_descant : ({ curveRun with streams := [(5, { holding .running with bound := some { curveBound with nodes := curveBound.nodes.map (fun y => { y with rep := true }) } })], jobs := [(0, { job0 with descant := true })] } : State).lapse.pick 2 =
    .fire (5 * 65536) true := by decide +kernel

theorem witness_FiringStoresAndHandsOn : ((curveBusy false).firingOf 2).isSome = true ∧ (firing 0 false).waits = [] ∧ (phaseBusy.firingOf 0).map (fun q => (q.2.1.prog.nodes[q.2.2.node]?).map (fun n => n.op)) = some (some opPhase) ∧
    ({ curveRun with engines := [(2, { Engine.idle with cur := some { firing 0 false with waits := [.snoop 64] } })] } : State).firingOf 2 ≠ none := by decide +kernel
/-- The CURVE firing gathers its operand, and what it writes lies in stack 0. -/
theorem witness_FiringStoresAndHandsOn_gathers :
    (let s := curveBusy false
     let out := s.writesOf 0 curveBound [⟨1, 0, 1⟩]
     match curveBound.prog.nodes[0]? with
     | some n => (s.gather 2 0 ((s.readsOf 0 curveBound 0 n [⟨1, 0, 1⟩]).map (fun z => z.acc curveBound.prog (readTagged curveBound.prog n z.tensor))) (out.map (fun z => z.acc curveBound.prog false))).2
        && (pieceWrites (s.nodeRd 2 curveBound 0) curveBound.prog 0 n (s.inViews 0 curveBound 0 n) (s.outViews 0 curveBound 0 n) [] out).1.all (fun w => !inWindow w.1)
     | none => false) = true := by decide +kernel

theorem witness_FaultsRepeatThenFail : ((curveBusy false).engine 2).cur ≠ none ∧ (((curveBusy false).readsAt 2 0x1000 && (devOf 0x1000).any (fun d => decide (d.kind = 0))) = true) ∧
    (curveBusy false).firstRun 2 ∧ (curveBusy true).stream 5 = { holding .running with bound := some curveBound } ∧ (((curveBusy true).engine 2).cur.map (fun r => r.rep)) = some true := by
  refine ⟨by decide +kernel, by decide +kernel, ⟨firing 0 false, ?_⟩, by decide +kernel, by decide +kernel⟩
  decide +kernel
theorem witness_FaultsRepeatThenFail_drain : ((withStream (holding .draining)).stream 5).st = .draining ∧ (withStream (holding .draining)).drained 5 = true ∧ (withStream (holding .draining)).pwr.st = .run ∧
    ((withStream (holding .running)).stream 5).st ≠ .draining := by decide +kernel

/-! #### Memories -/

theorem witness_TemperatureBands : live.baseUp (baseOfStack 15) = true ∧ live.baseUp (baseOfGddr 31) = true ∧ (114#8).toNat < 115 ∧ 115 ≤ (115#8).toNat := by decide +kernel

theorem witness_ScrubReadsCountAndMoveOn : live.baseUp (MemDev.gddr 31).base = true ∧ live.field (MemDev.gddr 31).page 0x054 0 8 ≠ 0 ∧ live.armed (MemDev.gddr 31).page 0 = false ∧
    (∀ i, i < ((MemDev.gddr 31).granuleAt 0).2 / 64 → ((MemDev.gddr 31).granuleAt 0).1 / 64 + i ∉ live.mem.bad) ∧ 0 < (MemDev.gddr 31).granules ∧ 31 < ((MemDev.gddr 31).granuleAt 0).2 / 64 ∧
    (live.die (sramAt 194).2.2).up = true ∧ live.upsets = [] ∧ ({ live with regs := [((MemDev.hbm 0).page.base + 0x054, 0)] } : State).baseUp 0 = true ∧ live.hostReach = true := by decide +kernel
theorem witness_ScrubReadsCountAndMoveOn_last : let s : State := { live with regs := [((MemDev.hbm 0).page.base + 0x058, BitVec.ofNat 32 ((MemDev.hbm 0).granules - 1))] }
    (MemDev.hbm 0).granules ≤ s.field (MemDev.hbm 0).page 0x058 0 24 + 1 ∧ s.field (MemDev.hbm 0).page 0x054 0 8 ≠ 0 := by decide +kernel

/-- Each outcome of setting VALID somewhere. -/
theorem witness_RegionTableRules : live.hostReach = true ∧ (live.region live.rgnJob live.rgnNum).valid = false ∧ (owner.region owner.rgnJob owner.rgnNum).valid = true ∧
    (withStream (holding .running)).jobBusy (withStream (holding .running)).rgnJob = true ∧
    (let s : State := { live with regions := [(0, ⟨0x800, 0, false, false, false⟩)] }; (s.region 0 0).limit < (s.region 0 0).base ∧ s.jobBusy 0 = false) ∧
    (let s : State := { live with regions := [(0, ⟨0, 0xC00000000, false, false, false⟩)] }; s.rangeOk (s.region 0 0) = false) ∧
    (let s : State := { live with jobs := [(1, job0)], regions := [(0, ⟨0, 0, false, false, false⟩), (64, ⟨0, 0x800, true, true, true⟩)] }; s.regionOverlaps 0 (s.region 0 0) = true) := by decide +kernel

theorem witness_MemoryReadsBackAndIsTagged : taggable (0 * 2048) = true ∧ (0 : Nat) < (0 + 1) * 2048 ∧ (0 : Nat) * 2048 < 0 + 64 ∧ (0 : Nat) * 64 + 64 ≤ 0 + 64 := by decide +kernel

/-- A slow-tier read of unit 2's firing, outstanding on port 0. -/
def asking (w : List Wait) : State :=
  { curveRun with
    engines := [(2, { Engine.idle with cur := some { firing 0 false with waits := w } })]
    cxl := { State.reset.cxl with active := some 0, uio := [⟨7, 0, 2⟩] } }

theorem witness_RemoteRequestsEnd : (asking [.slow 7 0x20000000000 0 2048 none]).cxl.active = some 0 ∧ ((asking [.slow 7 0x20000000000 0 2048 none]).uioReq 7).isSome = true ∧
    (((asking [.slow 7 0x20000000000 0 2048 none]).uioReq 7).bind (fun x => (asking [.slow 7 0x20000000000 0 2048 none]).slowWait x)) = some (.slow 7 0x20000000000 0 2048 none) := by decide +kernel
theorem witness_RemoteRequestsEnd_first : (asking [.slow 7 0 0 2048 none]).firstRun 2 ∧ (asking [.window 9 0 64 false]).unitWaiting 9 = some 2 ∧ (asking [.window 9 0 64 false]).firstRun 2 :=
  ⟨⟨{ firing 0 false with waits := [.slow 7 0 0 2048 none] }, by decide +kernel⟩, by decide +kernel, ⟨{ firing 0 false with waits := [.window 9 0 64 false] }, by decide +kernel⟩⟩

/-! #### The Lathe -/

/-- A shard of 4 elements under shipped recipe 1 at 0x4000 of stack 0, FRESH, record 0; the gradient is at 0x1000 (R280). -/
def shardMem (fresh : U8) (tag : U32) : Memory :=
  ⟨[(0x4000, 0x4C), (0x4001, 0x54), (0x4002, 0x48), (0x4003, 0x53), (0x4004, 1), (0x4006, 1), (0x4007, 1), (0x4008, 4)] ++ (if fresh = 0 then [] else [(0x400E, fresh)]) ++ [(0x4018, 1)],
    [(8, tag)], []⟩

def gradient (n : Nat) : Tensor := ⟨1, 1, 0, 0, 0, [n, 0, 0, 0, 0, 0], 0x1000, 0, 0, 0xFFFFFFFF, 0⟩
def stateTensor : Tensor := ⟨dInt8, 1, 4, 0, 0, [0x3000, 0, 0, 0, 0, 0], 0x4000, 0, 0, 0xFFFFFFFF, 0⟩
/-- UPDATE with a recipe, or SHADOW of slot 0, for a step. -/
def updateNode (sub step : Nat) : GNode := ⟨opUpdate, sub, 0, 2, 0, 0, 48, 0, 0, 0xFFFFFFFF, 0, (List.range 6).map (fun i => step / 256 ^ i % 256) ++ [0, 0, 0, 3] ++ List.replicate 38 0⟩
def shadowNode : GNode := ⟨opShadow, 0, 0, 1, 0, 0, 16, 0, 0, 0xFFFFFFFF, 0, [1] ++ List.replicate 15 0⟩
def latheProg (g : GNode) (n : Nat) : Program :=
  ⟨0, 64, false, 0, 0, 0, 0, 0, [gradient n, stateTensor], [], [g],
    if g.op = opUpdate then [⟨0, 0xFFFF, 0, 0xFF, 0⟩, ⟨1, 0xFFFF, 0, 0xFF, 1⟩] else [⟨1, 0xFFFF, 0, 0xFF, 0⟩], [], []⟩
def latheBound (g : GNode) (n : Nat) : Bound := Plan.bound ⟨[⟨819, 0, 0, [[]], (0, 0)⟩], [], [], []⟩ (latheProg g n) []

def record0 : CRecord := ⟨0x4000, 0, true, 1, 0, false, 1, 0, 0, [0, 0, 0, 0, 0], 0, 0, 0⟩
/-- The UPDATE of step 1 with `r` elements retained and `a` applied. -/
def upd (r a : Nat) : Upd :=
  { stream := 5, node := 0, lathe := 0, stack := 0, record := 0, state := 0x4000, hdr := ⟨0x5348544C, 1, 1, 1, 4, 0, 0, 0, 0, 1, 0, 0x8000, 0, true⟩, found := record0, step := 1, applies := some 1
    castOnly := false, scale := 0x3F800000, retained := r, applied := a, ringOvf := false, digest := 0 }

/-- Flash without content. -/
def blankFlash : Flash := { State.reset.flash with settings := [], romKeys := [], certChain := [] }

/-- The Lathe of base die 0 in the middle of a part. -/
def latheAt (g : GNode) (n : Nat) (m : Memory) (us : List Upd) (part : LathePart) (blocks : Nat) : State :=
  { owner with
    streams := [(5, { holding .running with bound := some (latheBound g n) })], mem := m, upds := us, flash := blankFlash
    engines := [(819, { Engine.idle with cur := some { firing 0 false with part := (part, blocks) } })] }
/-- The same with nothing begun. -/
def latheIdle (g : GNode) (n : Nat) (m : Memory) (us : List Upd) : State := { latheAt g n m us .unsaid 0 with engines := [] }

def firstState : State := latheAt (updateNode 1 1) 4 (shardMem 1 0xBDEABDCE) [] .first 0
/-- Whether a begun part keeps the state and its reads and writes gather at once. -/
def begins (s : State) (part : LathePart) (blocks : Nat) : Bool := (s.beginPart 0 5 0 part blocks).2 && decide ((s.beginPart 0 5 0 part blocks).1 = s)

theorem witness_LatheStartsOnlyWhatIsReady : begins firstState .first 0 = true ∧ (firstState.firingOf 819).isSome = true ∧
    ((latheIdle (updateNode 1 1) 4 (shardMem 1 0xBDEABDCE) []).beginPart 0 5 0 .first 0).2 = true ∧ (latheIdle (updateNode 1 1) 4 (shardMem 1 0xBDEABDCE) []).firingOf 819 = none := by decide +kernel
/-- All done and the horizon at step 1: the commit is ready. -/
theorem witness_LatheStartsOnlyWhatIsReady_commit :
    let s := { latheIdle (updateNode 1 1) 4 (shardMem 0 0) [upd 4 4] with jobs := [(0, { job0 with horizon := some 1 })] }
    s.partReady 5 (s.stream 5) (latheBound (updateNode 1 1) 4) ⟨819, 0, 0, 0, (0, 0), [[]], 0, false, false, false, 0, (.unsaid, 0)⟩ (updateNode 1 1) .commit 0 false = true := by decide +kernel

/-- The header of R282 fits, nothing else stands in the way, and the record is held. -/
theorem witness_UpdateFirstFiringHoldsRecord : begins firstState .first 0 = true ∧ firstState.gather 819 0 (headerReads 0x4000) [] = (firstState, true) ∧
    firstState.wrongLathe 819 5 (firstState.rdAt 819) 0x4000 = false ∧ firstState.updOf 5 0 = none ∧
    firstState.stateAddr 0 (latheProg (updateNode 1 1) 4) 0 (updateNode 1 1) = 0x4000 ∧
    firstState.headerBad (firstState.rdAt 819) 5 0 (latheBound (updateNode 1 1) 4) (updateNode 1 1) 0x4000 0x3000 = false ∧ (readHeader (firstState.rdAt 819) 0x4000).scaleLoc = 0 ∧
    firstState.gather 819 0 (firstState.claimReads 819 0x4000 (readHeader (firstState.rdAt 819) 0x4000)) [] = (firstState, true) := by decide +kernel
theorem witness_UpdateFirstFiringHoldsRecord_held :
    (match firstState.firstChecks (firstState.rdAt 819) 819 5 0 (latheBound (updateNode 1 1) 4) (updateNode 1 1) 0x4000 0x3000 0 with | .held _ v => decide (v.castOnly = false) | .fail _ _ => false) = true := by decide +kernel
theorem witness_UpdateFirstFiringHoldsRecord_bad :
    (let s := latheAt (updateNode 1 1) 4 .zero [] .first 0
     s.headerBad (s.rdAt 819) 5 0 (latheBound (updateNode 1 1) 4) (updateNode 1 1) 0x4000 0x3000 = true ∧ s.gather 819 0 (headerReads 0x4000) [] = (s, true)) ∧
    (let g := updateNode 1 (2 ^ 48 - 1)
     let s := latheAt g 4 (shardMem 1 0xBDEABDCE) [] .first 0
     s.headerBad (s.rdAt 819) 5 0 (latheBound g 4) g 0x4000 0x3000 = false ∧
     (match s.firstChecks (s.rdAt 819) 819 5 0 (latheBound g 4) g 0x4000 0x3000 0 with | .fail _ c => decide (c = S_STEP_LIMIT) | .held _ _ => false) = true) := by decide +kernel

theorem witness_RetainAndApplyWriteTheShard : let s := latheAt (updateNode 1 1) 4 (shardMem 0 0) [upd 0 0] .retain 1
    begins s .retain 1 = true ∧ (s.partAt 819).isSome = true ∧
    (let gv := viewAt (s.inViews 0 (latheBound (updateNode 1 1) 4) 0 (updateNode 1 1)) 0
     s.gather 819 0 [⟨gv.addr + (gv.elemRows 0 4).1, (gv.elemRows 0 4).2 - (gv.elemRows 0 4).1, (latheProg (updateNode 1 1) 4).ownPort ((latheProg (updateNode 1 1) 4).inPort 0 0), true⟩]
       [⟨0x4000 + ringOffset 1 4 0, 8, false, false⟩] = (s, true)) := by decide +kernel
theorem witness_RetainAndApplyWriteTheShard_apply : let s := latheAt (updateNode 1 1) 4 (shardMem 0 0) [upd 4 0] .apply 1
    begins s .apply 1 = true ∧ (s.partAt 819).isSome = true ∧ s.castView 0 (latheBound (updateNode 1 1) 4) 0 (updateNode 1 1) = none ∧ (upd 4 0).runsRecipe = true ∧
    s.gather 819 0 ((upd 4 0).applyReads 0 4) ((List.range 2).map (fun k => ⟨(upd 4 0).elemAddr 1 k 0, 16, false, false⟩)) = (s, true) ∧
    (((upd 4 0).applied' (s.rdAt 819) ((s.recipeOf 1).getD ⟨0, 0, []⟩) (updateNode 1 1).hyp none 0 4).1.all (fun z => !inWindow z.1)) = true := by decide +kernel
theorem witness_RetainAndApplyWriteTheShard_castOnly : ({ upd 0 0 with castOnly := true, hdr := { (upd 0 0).hdr with castFmt := 2 } } : Upd).hasCast = true ∧ elemReach 4 0 1 = 4 := by decide +kernel

theorem witness_CommitWritesTheRecord : let s := latheAt (updateNode 1 1) 4 (shardMem 0 0) [upd 4 4] .commit 0
    begins s .commit 0 = true ∧ (s.partAt 819).isSome = true ∧ s.gather 819 0 [] [⟨0x4040, 64, false, false⟩] = (s, true) ∧ inWindow 0x4040 = false ∧ (upd 4 4).lathe = 0 := by decide +kernel
theorem witness_CommitWritesTheRecord_skips : (upd 4 4).skips = false ∧ ({ upd 4 4 with ringOvf := true, hdr := { (upd 4 4).hdr with scaleLoc := 0x8000 } } : Upd).skips = true ∧ (upd 4 4).scaled = false ∧ (upd 4 4).hdr.late = 0 := by decide +kernel

theorem witness_VerdictAndShadow : let s := latheAt (updateNode 62 1) 1 (shardMem 0 0) [{ upd 0 0 with castOnly := true }] .verdict 0
    begins s .verdict 0 = true ∧ (s.partAt 819).isSome = true ∧ s.castView 0 (latheBound (updateNode 62 1) 1) 0 (updateNode 62 1) = none ∧
    s.gather 819 0 [⟨(viewAt (s.inViews 0 (latheBound (updateNode 62 1) 1) 0 (updateNode 62 1)) 0).addr, 2, (latheProg (updateNode 62 1) 1).ownPort ((latheProg (updateNode 62 1) 1).inPort 0 0), true⟩] [] = (s, true) := by decide +kernel
/-- A SHADOW before its header, among its blocks and after them. -/
theorem witness_VerdictAndShadow_shadow : let s (k : Nat) := latheAt shadowNode 4 (shardMem 0 0xDA125FDD) [{ upd k 0 with castOnly := true }] .shadow 0
    let v := { upd 0 0 with castOnly := true }
    begins (s 0) .shadow 0 = true ∧ ((s 0).partAt 819).isSome = true ∧ (s 0).gather 819 0 [⟨0x4000, 2048, false, true⟩] [⟨0x8000, 2048, false, false⟩] = (s 0, true) ∧
    1 ≤ v.shadowBlocks.length ∧ (s 1).gather 819 0 ((v.shadowBlocks.take 256).map (fun a => ⟨a, 2048, false, true⟩)) [⟨0x8800, 2048 * v.shadowBlocks.length, false, false⟩] = (s 1, true) ∧
    (s 9).gather 819 0 [⟨0x4000, 2048, false, true⟩] [⟨0x8000, 2048, false, false⟩] = (s 9, true) ∧ v.shadowBlocks.length < 9 := by decide +kernel

/-- A recipe of one step at 0x2000, loaded as recipe 16. -/
def recipeMem : Memory := ⟨[(0x2000, 0x4C), (0x2001, 0x52), (0x2002, 0x43), (0x2003, 0x50), (0x2004, 1), (0x2008, 0xD0), (0x2009, 0xEE), (0x200A, 0x1B), (0x200B, 0x0E)], [], []⟩

theorem witness_RecipesAndReleases : live.writes (.lth 0) = true ∧ (1#32).getLsbD 0 = true ∧ live.recipeLoad = none ∧ live.recordHeld 0 0 = false ∧ live.memDown 0 = false ∧
    (latheIdle (updateNode 1 1) 4 .zero [upd 0 0]).recordHeld 0 0 = true ∧ (live.loadedRecipe ⟨16, 0, 0x2000⟩).2 = none ∧
    (({ live with mem := recipeMem } : State).loadedRecipe ⟨16, 0, 0x2000⟩).2.isSome = true := by decide +kernel

/-! #### Windway ports and frames -/

/-- Port 3 as given, port 4 up, on a module that calls itself 5 and knows job 0 by key 77; endpoint 6 lies beyond port 3, or 4. -/
def linked (x : Port) : State :=
  { owner with
    regs := [(Page.wwyMod.base + 0x040, 5)], keytab := [(0, 77)], route := [(6, 0x43), (7, 0xFF)], flash := blankFlash
    ports := [(3, x), (4, { Port.disabled with train := 5, up := true })] }
def portAt (train : Nat) : Port := { Port.disabled with train := train }
def portUp : Port := { portAt 5 with up := true, credits := [100, 100, 100, 100], keys := [List.replicate 8 1, List.replicate 8 2] }
def frameTo (dst src type cls : Nat) (payload : List U8) : Frame := frameOf type cls dst src 77 payload
/-- The module with the twin link on port 3 to endpoint 6 for job 0 (R376). -/
def twinned (x : Port) : State := { linked x with regs := [(Page.wwyMod.base + 0x040, 5), (Page.twn.base + 0x040, 0x7), (Page.twn.base + 0x044, 6)], twin := { TwinSt.off with mirroring := true } }

/-- An INIT record of endpoint 6, port 2 (R328). -/
def initFrom (id : Nat) : List U8 := leBytes 4 id ++ [2, 0, 0, 0] ++ leBytes 2 128 ++ leBytes 2 4096 ++ leBytes 2 2048 ++ leBytes 2 1024 ++ List.replicate 16 0
/-- A unit with the CRC of its word and body. -/
def crcUnit (word : U64) (body : List U8) : LinkUnit := ⟨word, body, leBytes 4 (crc32c (leBytes 8 word.toNat ++ body)).toNat ++ List.replicate 12 0, 0, 0⟩

theorem witness_LinkBringUp : let s (k : Nat) := linked (portAt k)
    (s 4).baseUp (3 / 4) = true ∧ (s 4).pwr.st = .run ∧ ((s 1).port 3).train = 1 ∧ ((s 2).port 3).train = 2 ∧ ((s 3).port 3).train = 3 ∧ ((s 4).port 3).peerInit = none ∧ ((s 4).port 3).initSent = false := by decide +kernel
theorem witness_LinkBringUp_init : let u := crcUnit 0x20000000 (initFrom 6)
    u.field 28 4 = 2 ∧ u.fecUncorr = 0 ∧ u.field 26 1 = 0 ∧ u.trailer = leBytes 4 (crc32c (leBytes 8 u.word.toNat ++ u.body)).toNat ++ List.replicate 12 0 ∧ u.body.length = 32 := by decide +kernel
/-- A good record of endpoint 6; a bad one that names this module itself; a bad one on the twin port. -/
theorem witness_LinkBringUp_judged : let s := linked { portAt 4 with initSent := true, peerInit := some (initFrom 6) }
    (s.port 3).initSent = true ∧ (s.port 3).peerInit = some (initFrom 6) ∧ s.isTwinPort 3 = false ∧ recField (initFrom 6) 0 4 % 2 ^ 18 ≠ s.selfId ∧ (recField (initFrom 6) 5 1).testBit 0 = (s.port 3).encReq ∧
    (recField (initFrom 6) 5 1).testBit 1 = false ∧ recField (initFrom 5) 0 4 % 2 ^ 18 = s.selfId ∧ (twinned (portAt 4)).isTwinPort 3 = true := by decide +kernel

theorem witness_LinkDownAndPortControls : let s := linked portUp; let q := frameTo 6 9 ftWrite 2 [0, 0]
    (s.port 3).up = true ∧ (s.port 3).train ≠ 0 ∧ (s.port 3).queue = [] ∧ s.twinOn = false ∧ s.hostReach = true ∧ s.baseUp (3 / 4) = true ∧ (s.port 3).keys.length = 2 ∧ (s.port 3).keyPhase = 0 ∧
    (let s := linked { portUp with queue := [{ q with src := 8, dst := 7 }] }; (s.port 3).queue ≠ [] ∧ (8 : Nat) ≠ s.selfId ∧ s.portUp (s.routeOf 7).2 = false) ∧
    (let s := linked { portUp with queue := [q] }; (s.port 3).queue.head? = some q ∧ q.bcast = false ∧ (s.routeOf q.dst).2 ≠ 3 ∧ s.portUp (s.routeOf q.dst).2 = true ∧ s.carries (s.routeOf q.dst).2 q = true) := by decide +kernel
theorem witness_LinkDownAndPortControls_more : let s := twinned portUp
    (s.twinOn = true ∧ s.twinPort = 3 ∧ s.twin.mirroring = true ∧ (s.port 3).up = true ∧ (s.port 3).queue = []) ∧
    (let d := linked (portAt 2); (d.port 3).up = false ∧ (d.port 3).train ≠ 0) ∧ (1#32).getLsbD 0 = true ∧ (1#32).getLsbD 4 = false ∧ (0#32).getLsbD 0 = false ∧ (0#32).getLsbD 4 = false := by decide +kernel

/-- DATA with LSEQ 1, in order, of a well-formed and of an unknown frame; with a wrong CRC; EMPTY that acknowledges LSEQ 0, with and without NAK. -/
def dataUnit (type : Nat) : LinkUnit := crcUnit 0x10000001 ((frameTo 5 6 type 2 (List.replicate 8 0)).bytes)
theorem witness_UnitsReceived : let s := linked portUp; let u := dataUnit ftReadReq
    (s.port 3).up = true ∧ (s.port 3).enc = false ∧ u.field 28 4 = 1 ∧ u.field 24 1 = 0 ∧ u.fecUncorr = 0 ∧ u.field 26 1 = 0 ∧ u.trailer = leBytes 4 (crc32c (leBytes 8 u.word.toNat ++ u.body)).toNat ++ List.replicate 12 0 ∧
    u.field 0 12 = ((s.port 3).rxSeq + 1) % 4096 ∧ (s.port 3).unacked < 63 ∧ (parseFrame u.body).wellFormed = true ∧ (parseFrame (dataUnit 15).body).wellFormed = false ∧
    ({ u with word := 0x10000002 } : LinkUnit).field 0 12 ≠ ((s.port 3).rxSeq + 1) % 4096 ∧ 63 ≤ ({ portUp with unacked := 63 } : Port).unacked ∧
    ¬ (({ u with fecUncorr := 1 } : LinkUnit).fecUncorr = 0) := by decide +kernel
/-- A sealed unit whose trailer is whatever tag its receiver computes. -/
theorem tag_exists (tag : U64 → List U8 → List U8) : ∃ u : LinkUnit, u.word = 0x14000001 ∧ u.fecUncorr = 0 ∧ u.trailer = tag u.word u.body :=
  ⟨⟨0x14000001, [], tag 0x14000001 [], 0, 0⟩, rfl, rfl, rfl⟩
theorem witness_UnitsReceived_sealed : ({ portUp with enc := true } : Port).enc = true ∧ (⟨0x14000001, [], [], 0, 0⟩ : LinkUnit).field 28 4 = 1 ∧ (⟨0x14000001, [], [], 0, 0⟩ : LinkUnit).field 26 1 = 1 ∧ (⟨0x14000001, [], [], 0, 0⟩ : LinkUnit).field 24 1 = 0 ∧
    (⟨0x10000001, [], [], 0, 0⟩ : LinkUnit).field 26 1 ≠ 1 := by decide +kernel
theorem witness_UnitsReceived_tag (key iv : List U8) : ∃ u : LinkUnit, u.word = 0x14000001 ∧ u.fecUncorr = 0 ∧ u.trailer = gcmTag key iv (leBytes 8 u.word.toNat) u.body :=
  tag_exists (fun w b => gcmTag key iv (leBytes 8 w.toNat) b)
theorem witness_UnitsReceived_empty : let s := linked { portUp with replay := [⟨1, frameTo 6 5 ftWrite 2 []⟩] }; let u := crcUnit 0x01000000 []
    u.field 28 4 = 0 ∧ u.body = [] ∧ u.field 24 1 = 1 ∧ u.fecUncorr = 0 ∧ u.field 26 1 = 0 ∧ (crcUnit 0 []).field 24 1 = 0 ∧ (s.port 3).replay.findIdx? (fun k => k.lseq == u.field 12 12) = none ∧ (s.port 3).replay ≠ [] ∧
    (s.port 3).replays < 16 ∧ 16 ≤ ({ portUp with replays := 16 } : Port).replays := by decide +kernel

theorem witness_UnitsSent : let q := frameTo 6 5 ftWrite 2 []; let s := linked { portUp with queue := [q] }
    (s.port 3).up = true ∧ (s.port 3).resend = 0 ∧ (s.port 3).queue.find? (fun f => f.cls == 2) = some q ∧ (32 + q.payload.length + 63) / 64 ≤ (s.port 3).credits.getD 2 0 ∧ (s.port 3).replay.length < 2048 ∧
    ((s.port 3).replay.map (fun k => 56 + k.frame.payload.length)).sum + 56 + q.payload.length ≤ 0x40000 ∧ ((linked portUp).port 3).queue = [] ∧
    (let x := { portUp with replay := [⟨1, q⟩], resend := 1 }; x.replay[x.replay.length - x.resend]? = some ⟨1, q⟩ ∧ 0 < x.resend ∧ x.replays < 16 ∧ 16 ≤ ({ x with replays := 16 } : Port).replays) := by decide +kernel

theorem witness_FrameBytesRoundTrip : let f := { frameTo (2 ^ 18 - 1) (2 ^ 18 - 1) 12 3 [1] with cseq := 2 ^ 24 - 1, group := 2 ^ 16 - 1, srcRank := 1023, phase := 3, offset := 2 ^ 48 - 1, req := 2 ^ 16 - 1, hops := 15 }
    f.type < 2 ^ 4 ∧ f.cls < 2 ^ 2 ∧ f.dst < 2 ^ 18 ∧ f.src < 2 ^ 18 ∧ f.hops < 2 ^ 4 ∧ f.cseq < 2 ^ 24 ∧ f.group < 2 ^ 16 ∧ f.srcRank < 2 ^ 10 ∧ f.phase < 2 ^ 2 ∧ f.offset < 2 ^ 48 ∧ f.req < 2 ^ 16 ∧ f.payload.length ≤ 2048 ∧
    f.clean = true ∧ (parseFrame (dataUnit ftReadReq).body).wellFormed = true := by decide +kernel

/-- Frames to forward, one for each way out or drop. -/
theorem witness_FramesForward : let f := frameTo 6 8 ftWrite 2 []; let s (g : Frame) := linked { portUp with rxBuf := [g] }
    ((s f).port 3).rxBuf.head? = some f ∧ (s f).delivered 3 f = false ∧ (s f).twinOn = false ∧ f.bcast = false ∧ 2 ≤ f.hops ∧ ((s f).routeOf f.dst).1 < 12 ∧ (s f).portUp ((s f).routeOf f.dst).1 = true ∧
    ({ f with hops := 1 } : Frame).hops < 2 ∧ 12 ≤ ((s f).routeOf 9).1 ∧ (let b := { f with bcast := true, cls := 0, type := ftHeartbeat, payload := List.replicate 16 0 }; let s := { s b with regs := [(Page.wwyMod.base + 0x040, 5), ((wwyPage 3).base + 0x048, 0x10)] }; s.delivered 3 b = false ∧ (s.port 3).rxBuf.head? = some b) ∧
    (let d := { s f with ports := [(4, { portUp with rxBuf := [f] })] }; (d.port 4).rxBuf.head? = some f ∧ d.portUp (d.routeOf f.dst).1 = false ∧ d.portUp (d.routeOf f.dst).2 = true) ∧
    ({ s f with regs := [(Page.wwyMod.base + 0x040, 5), ((wwyPage 3).base + 0x048, 1)] } : State).field (wwyPage 3) 0x048 0 12 ≠ 0 := by decide +kernel

/-- An INBOUND window 0 of job 0 over its first 64 KiB, for reads and writes. -/
def inbound : WEntry := ⟨.inbound, 0xF, 0, 0, 32, 0, 0, 0, true, true, 0, []⟩
def served (f : Frame) : State := { linked { portUp with rxBuf := [f] } with wmap := [(0, [inbound])] }

theorem witness_WriteFrameStores : let f := { frameTo 5 6 ftWrite 2 (List.replicate 64 1) with grain := crc32c (List.replicate 64 1) }; let s := served f
    s.frameFor 3 ftWrite = some (3, f) ∧ f.bcast = false ∧ s.frameJob f = some 0 ∧ s.inboundOf 0 f.group = some inbound ∧ inbound.write = true ∧ f.offset + 64 ≤ inbound.size * 2048 ∧
    s.allowed 0 (inbound.base + f.offset) 64 true = true ∧ s.memDown (inbound.base + f.offset) = false ∧ f.grain = crc32c f.payload ∧ (linked portUp).inboundOf 0 0 = none ∧
    s.frameJob { f with jobKey := 78 } = none ∧ inbound.size * 2048 < 0x10000 + 64 := by decide +kernel
theorem witness_WriteFrameStores_block : taggable (inbound.base + 0) = true ∧ (inbound.base + 0) % 2048 = 0 ∧ (List.replicate 2048 (0 : U8)).length = 2048 := by decide +kernel

theorem witness_ReadsAndAnswersByFrame : let f := frameTo 5 6 ftReadReq 2 (leBytes 4 64 ++ [0, 0, 0, 0]); let s := served f
    s.frameFor 3 ftReadReq = some (3, f) ∧ s.frameJob f = some 0 ∧ f.bcast = false ∧ f.payload.length = 8 ∧ s.inboundOf 0 f.group = some inbound ∧ inbound.read = true ∧ f.field 0 4 = 64 ∧
    s.allowed 0 0 64 false = true ∧ s.memDown 0 = false ∧ (s.eccRead 0 64).2 = none ∧ (linked { portUp with rxBuf := [f] }).inboundOf 0 f.group = none ∧ s.twinOn = false ∧ (6 : Nat) ≠ s.selfId := by decide +kernel
/-- Unit 2 waits for window request 9. -/
def waitingFor (write : Bool) (f : Frame) : State :=
  { linked { portUp with rxBuf := [f] } with
    streams := [(5, { holding .running with bound := some curveBound })]
    engines := [(2, { Engine.idle with cur := some { firing 0 false with waits := [.window 9 0x20000000000 64 write] } })] }
theorem witness_ReadsAndAnswersByFrame_answers :
    (let f := { frameTo 5 6 ftReadResp 2 (List.replicate 64 1) with req := 9, grain := crc32c (List.replicate 64 1) }; let s := waitingFor false f
     s.frameFor 3 ftReadResp = some (3, f) ∧ s.frameJob f = some 0 ∧ f.bcast = false ∧ s.windowWait f.req = some (2, 0x20000000000, 64, false) ∧ f.payload.length = 64 ∧ f.grain = crc32c f.payload ∧ (0 : U32) ≠ crc32c f.payload) ∧
    (let f := { frameTo 5 6 ftWriteAck 2 [0, 0, 0, 0] with req := 9 }; let s := waitingFor true f
     s.frameFor 3 ftWriteAck = some (3, f) ∧ s.frameJob f = some 0 ∧ s.windowWait f.req = some (2, 0x20000000000, 64, true) ∧ f.field 0 2 = 0 ∧ (s.engine 2).cur.isSome = true ∧ (s.tuneUnit 2).fenced = false) := by decide +kernel

/-! #### Collectives, the Window Map and the twin link -/

/-- A collective of group 2 between endpoints 5 and 6, this module rank 0, one block of 64 bytes from rank 1. -/
def coll : Coll := { base := 0, stream := 5, slot := 0, node := 0, job := 0, group := 2, cseq := 1, phase := 0, selfRank := 0, count := 2, members := [5, 6], loaded := false, expect := [[], [(0, 64)]], due := [[], [(0, 64)]], shapeIn := [0, 7], shapeOut := [0, 7], out := [], granted := [0, 1], sent := [0, 0], gave := [0, 1], got := [0, 0], need := [0, 1], parts := [[], []], bad := [[], []], again := [] }
def exchanging (c : Coll) (fs : List Frame) : State := { linked { portUp with rxBuf := fs } with colls := [c], streams := [(5, { holding .running with bound := some curveBound })] }
/-- Rank 1's COLL_READY with its SHAPE, and its block. -/
def readyOf (shape : Nat) : Frame := { frameTo 5 6 ftCollReady 1 (leBytes 4 1 ++ leBytes 4 shape ++ leBytes 8 64) with cseq := 1, group := 2, srcRank := 1 }
def blockOf (offset : Nat) : Frame := { frameTo 5 6 ftCollData 1 (List.replicate 64 1) with cseq := 1, group := 2, srcRank := 1, offset := offset, grain := crc32c (List.replicate 64 1) }

theorem witness_CollectiveFramesCount : let f := readyOf 7; let s := exchanging coll [f]
    s.frameFor 3 ftCollReady = some (3, f) ∧ s.frameJob f = some 0 ∧ f.bcast = false ∧ s.colls.find? (fun (c : Coll) => decide (c.job = 0) && decide (c.group = f.group) && decide (c.cseq = f.cseq)) = some coll ∧
    f.srcRank < coll.count ∧ f.srcRank ≠ coll.selfRank ∧ coll.loaded = false ∧ f.phase = coll.phase ∧ BitVec.ofNat 32 (f.field 4 4) = coll.shapeOut.getD f.srcRank 0 ∧ f.field 8 8 = ((coll.due.getD f.srcRank []).map (·.2)).sum ∧
    BitVec.ofNat 32 ((readyOf 8).field 4 4) ≠ coll.shapeOut.getD f.srcRank 0 ∧ s.runs (816 + coll.base) coll.stream = false ∧ (s.stream 5).st = .running := by decide +kernel
theorem witness_CollectiveFramesCount_held : let f := readyOf 7; let s := { exchanging coll [f] with colls := [], jobs := [(0, { job0 with cseq := [(2, 1)] })] }
    s.frameFor 3 ftCollReady = some (3, f) ∧ s.frameJob f = some 0 ∧ f.cseq = (s.job 0).cseqOf f.group ∧ s.readys = [] ∧ s.colls = [] := by decide +kernel
theorem witness_CollectiveFramesCount_data : let f := blockOf 0; let s := exchanging coll [f]
    s.frameFor 3 ftCollData = some (3, f) ∧ s.frameJob f = some 0 ∧ f.bcast = false ∧ s.colls.find? (fun (c : Coll) => decide (c.job = 0) && decide (c.group = f.group) && decide (c.cseq = f.cseq)) = some coll ∧
    f.srcRank ≠ coll.selfRank ∧ (f.offset, f.payload.length) ∈ coll.expect.getD f.srcRank [] ∧ f.grain = crc32c f.payload ∧ (coll.bad.getD f.srcRank []).contains f.offset = false ∧
    coll.need.getD f.srcRank 0 ≤ coll.gave.getD f.srcRank 0 ∧ f.srcRank < coll.got.length ∧ f.srcRank < coll.parts.length ∧ ((blockOf 64).offset, (64 : Nat)) ∉ coll.expect.getD 1 [] := by decide +kernel

/-- A re-add check of a block of that collective, with the frames held back for it. -/
def checking (held : List Frame) : State := { exchanging coll [] with readds := [⟨0, 0, 4, 1, false, 5, 0, 2, held⟩] }
theorem witness_CollectivesRepeatAndEnd : let s := exchanging coll []; let q := s.collFrame coll ftCollReady 1 []
    s.colls.head? = some coll ∧ s.colls.length = 1 ∧ coll.base = 0 ∧ coll.again = [] ∧ coll.loaded = false ∧ s.collSends coll = true ∧ coll.full = false ∧ q.dst ≠ s.selfId ∧
    ((s.egress q).filter (fun e => s.carries e q)).isSome = true ∧ ({ exchanging coll [] with streams := [] } : State).collSends coll = false := by decide +kernel
theorem witness_CollectivesRepeatAndEnd_timeout : let s : State := { exchanging coll [] with regs := [((Page.cns 0).base + 0x048, 5)] }
    s.colls.find? (fun (c : Coll) => decide (c.base = 0) && decide (c.stream = 5)) = some coll ∧ s.field (.cns 0) 0x048 0 16 ≠ 0 ∧ coll.full = false ∧ s.runs 816 5 = false ∧ (s.stream 5).st = .running ∧
    (exchanging coll []).field (.cns 0) 0x048 0 16 = 0 := by decide +kernel
theorem witness_CollectivesRepeatAndEnd_checks : let f := { blockOf 0 with dst := 6, src := 5 }; let s := checking [f]
    s.readds.find? (fun (r : Readd) => decide (r.base = 0) && decide (r.block = 4)) = some ⟨0, 0, 4, 1, false, 5, 0, 2, [f]⟩ ∧ (s.reg .grn offErrInj).getLsbD 0 = false ∧ s.collOf f = some coll ∧ s.pwr.st = .run ∧
    (s.stream 5).st = .running ∧ s.quorumLost coll.job = false ∧ f.dst ≠ s.selfId ∧ s.egress f = some 3 ∧ s.carries 3 f = true ∧ s.runs 816 5 = false ∧ (checking []).readds = [⟨0, 0, 4, 1, false, 5, 0, 2, []⟩] := by decide +kernel

theorem witness_ModuleFabricTables : live.hostReach = true ∧ (live.reg .wwyMod 0x040).getLsbD 31 = false ∧ (({ live with regs := [(Page.wwyMod.base + 0x040, 0x80000005)] } : State).reg .wwyMod 0x040).getLsbD 31 = true ∧
    live.jobs = [] ∧ live.keytab = [] ∧ (owner.jobs.any (fun p => p.2.valid && decide (p.2.keySlot = owner.field .wwyMod 0x04C 0 8))) = true := by decide +kernel
/-- An image of one INBOUND entry of 64 KiB at 0x3000; a word of `w3` spoils it. -/
def mapImage (w3 : List (Nat × U8)) : State := { linked portUp with mem := ⟨[(0x3000, 0xF3), (0x3004, 0x20), (0x3010, 3)] ++ w3, [], []⟩, wmapLoad := some ⟨0, 1, 0x3000⟩ }
theorem witness_ModuleFabricTables_load : let s := mapImage []
    s.wmapLoad = some ⟨0, 1, 0x3000⟩ ∧ s.imageOk 0x3000 32 = true ∧ s.jobBusy 0 = false ∧ s.eccRead 0x3000 32 = (s, none) ∧ s.wmapRefusal ⟨0, 1, 0x3000⟩ none = none ∧ (s.wmapImage ⟨0, 1, 0x3000⟩).length = 1 ∧
    (mapImage [(0x3018, 1)]).wmapRefusal ⟨0, 1, 0x3000⟩ none = some (S_WMAP_BAD, 0) ∧ ({ mapImage [] with streams := [(5, holding .running)] } : State).jobBusy 0 = true := by decide +kernel

theorem witness_TwinLinkMirrors : let s := twinned portUp
    s.hostReach = true ∧ s.twinOn = true ∧ (linked portUp).twinOn = false ∧ (linked portUp).jobKey 0 ≠ 0 ∧ live.twinOn = false ∧ live.jobKey 0 = 0 := by decide +kernel
/-- One mirror of two blocks to send; a mirror frame that waits; a TWIN frame that comes. -/
theorem witness_TwinLinkMirrors_send : let s := twinned portUp; let t := { s with twin := { s.twin with queue := [⟨0x4000, 1, 0, [], some (1, 1024, 0)⟩] } }
    t.twin.queue.head? = some ⟨0x4000, 1, 0, [], some (1, 1024, 0)⟩ ∧ t.twin.mirroring = true ∧ t.twin.cur = none ∧ t.portUp t.twinPort = true ∧ (let b := MirrorJob.toSend ⟨0x4000, 1, 0, [], some (1, 1024, 0)⟩; b.length = 5 ∧ b.all (fun a => !inWindow a && decide (t.eccRead a 2048 = (t, none))) = true) := by decide +kernel
/-- A mirror whose shard's header is still to be read: that of a shard of 4 elements. -/
theorem witness_TwinLinkMirrors_header : let s := { twinned portUp with mem := shardMem 0 0x8C2E3A4D }; let h := readHeader s.mem.byte 0x4000
    inWindow 0x4000 = false ∧ (s.eccRead 0x4000 2048).2 = none ∧ s.eccRead 0x4000 2048 = (s, none) ∧ h.broken (2 ^ 48) = false ∧ (s.port s.twinPort).queue = [] := by decide +kernel
theorem witness_TwinLinkMirrors_ack : let f (c : U8) : Frame := { frameTo 5 6 ftWriteAck 2 [c, 0, 0, 0] with req := 9 }
    let s (c : U8) : State := { twinned { portUp with rxBuf := [f c] } with twin := { TwinSt.off with mirroring := true, waiting := [9], cur := some ⟨0x4000, 1, 0, [], some (1, 1024, 0)⟩ } }
    (s 0).frameFor 3 ftWriteAck = some (3, f 0) ∧ (s 0).frameJob (f 0) = some 0 ∧ (f 0).bcast = false ∧ (s 0).windowWait 9 = none ∧ (9 : Nat) ∈ (s 0).twin.waiting ∧ (f 0).field 0 2 = 0 ∧ (f 1).field 0 2 ≠ 0 ∧ (s 1).twin.mirroring = true := by decide +kernel
theorem witness_TwinLinkMirrors_frame : let f := { frameTo 5 6 ftTwin 2 (List.replicate 64 1) with grain := crc32c (List.replicate 64 1) }
    let s := { twinned { portUp with rxBuf := [f] } with wmap := [(0, [inbound])] }
    s.frameFor 3 ftTwin = some (3, f) ∧ s.frameJob f = some 0 ∧ f.bcast = false ∧ s.inboundOf 0 f.group = some inbound ∧ inbound.write = true ∧ f.offset + 64 ≤ inbound.size * 2048 ∧ s.allowed 0 (inbound.base + f.offset) 64 true = true ∧
    s.memDown (inbound.base + f.offset) = false ∧ f.grain = crc32c f.payload ∧ (twinned portUp).inboundOf 0 0 = none := by decide +kernel

/-! #### Seats -/

/-- Job 0 in slot 2 with seats 5 (this module), 6 and 7; those of `dead` are not live. -/
def seatSlot (dead : List Nat) : Slot := { Slot.empty with valid := true, job := 0, seats := [5, 6, 7], self := 0, dead := dead, quorum := decide (dead.length < 2) }
def seated (dead : List Nat) (fs : List Frame) : State := { linked { portUp with rxBuf := fs } with slots := [(2, seatSlot dead)] }
def beatOf (src seat : Nat) : Frame := { frameTo src src ftHeartbeat 0 (leBytes 8 3 ++ leBytes 2 seat ++ [0, 0] ++ leBytes 4 1) with bcast := true }

theorem witness_HeartbeatsKeepSeatsLive : let s := seated [] []
    s.baseUp 1 = true ∧ s.pwr.st = .run ∧ s.twinOn = false ∧ (s.slot 2).valid = true ∧ (s.slot 0).valid = false := by decide +kernel
/-- BCAST_OUT names port 3 in the second state. -/
theorem witness_HeartbeatsKeepSeatsLive_out : let s : State := { seated [] [] with regs := [(Page.wwyMod.base + 0x040, 5), (Page.wwyMod.base + 0x06C, 8)] }
    (s.field .wwyMod 0x06C 0 12).testBit 3 = true ∧ (s.port 3).up = true := by decide +kernel
theorem witness_HeartbeatsKeepSeatsLive_frame : let f := beatOf 6 1; let s := seated [1] [f]
    s.frameFor 3 ftHeartbeat = some (3, f) ∧ s.jobOfKey f.jobKey = some 0 ∧ s.slotOf 0 = some 2 ∧ (s.slot 2).seats[f.field 8 2]? = some f.src ∧ (seated [1] []).seatFrame (beatOf 6 2) 2 = none ∧
    (seated [] [beatOf 6 2]).frameFor 3 ftHeartbeat = some (3, beatOf 6 2) := by decide +kernel
theorem witness_HeartbeatsKeepSeatsLive_expiry : let x := (seated [] []).slot 2; let y := (seated [2] []).slot 2
    x.valid = true ∧ (1 : Nat) < x.seats.length ∧ (1 : Nat) ≠ x.self ∧ (1 : Nat) ∉ x.dead ∧ ({ x with dead := putSorted 1 x.dead } : Slot).holdsQuorum = true ∧ (1 : Nat) ∉ y.dead ∧ ({ y with dead := putSorted 1 y.dead } : Slot).holdsQuorum = false ∧
    y.quorum = true := by decide +kernel

/-- A seat list of one seat, the module itself, at 0x3000. -/
def seatImage (n : Nat) : State := { linked portUp with mem := ⟨[(0x3000, 5)], [], []⟩, seatLoad := some ⟨0, n, 0x3000⟩ }
theorem witness_SeatListsAndQuorum : live.hostReach = true ∧ live.seatLoad = none ∧
    (let s := seatImage 1; let ws := [leNat (s.mem.read 0x3000 4)]
     s.seatLoad = some ⟨0, 1, 0x3000⟩ ∧ s.imageOk 0x3000 4 = true ∧ s.eccRead 0x3000 4 = (s, none) ∧ s.jobBusy 0 = false ∧ (s.job 0).valid = true ∧ (s.job 0).descant = false ∧ s.jobKey 0 ≠ 0 ∧ ws.Nodup ∧ s.selfId ∈ ws ∧
     s.slotFor 0 = some 0 ∧ ({ s with slots := (List.range 8).map (fun i => (i, { Slot.empty with valid := true, job := i + 1 })) } : State).slotFor 0 = none ∧ ({ s with streams := [(5, holding .running)] } : State).jobBusy 0 = true) ∧
    (seatImage 0).imageOk 0x3000 0 = true ∧ (seatImage 0).eccRead 0x3000 0 = (seatImage 0, none) := by decide +kernel
/-- SLOT_SEL names slot 2. -/
def chosen (dead : List Nat) (st : SState) : State := { seated dead [] with regs := [(Page.stmQrm.base + 0x040, 2)], streams := [(5, holding st)] }
theorem witness_SeatListsAndQuorum_commands : (chosen [] .frozen).hostReach = true ∧ (chosen [] .frozen).field .stmQrm 0x040 0 3 = 2 ∧ ((chosen [] .idle).slot 2).valid = true ∧ (chosen [] .idle).jobBusy 0 = false ∧ (chosen [] .frozen).jobBusy 0 = true ∧
    ((chosen [] .frozen).slot 2).quorum = true ∧ ((chosen [1, 2] .frozen).slot 2).quorum = false ∧ ((chosen [] .frozen).stream 5).st = .frozen ∧ 5 ∈ (chosen [] .frozen).streamsOf 0 ∧
    ((chosen [1, 2] .running).stream 5).st = .running ∧ (chosen [1, 2] .running).quorumLost 0 = true ∧ (chosen [1, 2] .running).drained 5 = true ∧ (chosen [] .running).quorumLost 0 = false := by decide +kernel
/-! #### Clean tokens, unison, tuning -/

/-- Job 0 with contribution ends of steps 1 and 3 complete, in a slot of its own seat and one other. -/
def ending (x : Job) : State := { seated [] [] with jobs := [(0, x)] }
def jobEnds : Job := { job0 with contribs := [⟨1, [], []⟩, ⟨3, [], []⟩] }
theorem witness_CleanTokensAndRetracts : let x := (ending jobEnds).job 0
    (⟨3, [], []⟩ : ContribEnd) ∈ x.contribs ∧ x.valid = true ∧ x.held = none ∧ (∀ d, d ∈ x.contribs → d.firings = [] → d.checks = [] → d.step ≤ 3) ∧ x.cleanSent.all (fun u => decide (u < 3)) = true ∧
    ({ ending jobEnds with slots := [] } : State).slotOf 0 = none ∧ (ending jobEnds).slotOf 0 = some 2 ∧ (ending jobEnds).twinOn = false ∧ ({ ending jobEnds with streams := [(5, holding .running)] } : State).streamsOf 0 ≠ [] ∧
    ({ jobEnds with held := some 2 } : Job).held = some 2 ∧ (¬ ∃ c, c ∈ jobEnds.contribs ∧ c.step = 2 ∧ c.firings = [] ∧ c.checks = []) := by
  refine ⟨by decide +kernel, by decide +kernel, by decide +kernel, by decide +kernel, by decide +kernel, by decide +kernel, by decide +kernel, by decide +kernel, by decide +kernel, rfl, ?_⟩
  rintro ⟨c, hc, hs, -, -⟩
  simp only [jobEnds, List.mem_cons, List.not_mem_nil, or_false] at hc
  rcases hc with rfl | rfl <;> exact absurd hs (by decide)
/-- A CLEAN token of seat 1 for step 3, counted; and one of a seat that is not the sender's. -/
def cleanOf (seat : Nat) : Frame := { frameTo 6 6 ftClean 0 (leBytes 8 3 ++ leBytes 4 seat ++ [0, 0, 0, 0]) with bcast := true }
theorem witness_CleanTokensAndRetracts_clean : let s (k : Nat) := seated [] [cleanOf k]
    (s 1).frameFor 3 ftClean = some (3, cleanOf 1) ∧ (cleanOf 1).field 8 4 = 1 ∧ (s 1).seatFrame (cleanOf 1) 1 = some 2 ∧ (s 2).frameFor 3 ftClean = some (3, cleanOf 2) ∧ (s 2).seatFrame (cleanOf 2) 2 = none ∧
    0x40000 ≤ (cleanOf 0x40001).field 8 4 ∧ ({ job0 with cleanSent := some 3 } : Job).cleanSent = some 3 ∧ ({ seatSlot [] with seats := [5, 6], tokens := [(1, ⟨3, false, false⟩)] } : Slot).covers 1 3 = true := by decide +kernel
/-- A RETRACT of step 3 by seat 1. -/
def retractOf (src : Nat) : Frame := { frameTo src src ftRetract 0 (leBytes 4 1 ++ [0, 0, 0, 0] ++ leBytes 8 3 ++ List.replicate 16 0) with bcast := true }
theorem witness_CleanTokensAndRetracts_retract : let s (k : Nat) := seated [] [retractOf k]
    (s 6).frameFor 3 ftRetract = some (3, retractOf 6) ∧ (s 6).retractSeat (retractOf 6) = some (2, 1) ∧ ((s 6).job 0).retracted.length < 16 ∧ (s 8).frameFor 3 ftRetract = some (3, retractOf 8) ∧ (s 8).retractSeat (retractOf 8) = none ∧
    (retractOf 6).field 8 8 ≤ 3 ∧ (upd 0 0).castOnly = false ∧ ((latheIdle (updateNode 1 1) 4 .zero [upd 0 0]).stream 5).job = 0 := by decide +kernel
theorem witness_CleanTokensAndRetracts_clear : owner.hostReach = true ∧ owner.field .grn 0x050 0 8 = 0 ∧ owner.streamsOf 0 = [] ∧ (let s := withStream (holding .running); 5 ∈ s.streamsOf 0 ∧ (s.stream 5).active = true) := by decide +kernel

/-- A unison group of five: this module is rank 0, the one to the right is 6 and the one to the left 9. -/
def ring5 : List WEntry := [⟨.group, 0xF, 0, 0, 0, 5, 0, 0, true, true, 0, []⟩, ⟨.members, 0xF, 0, 0, 0, 5, 0, 0, true, true, 0, [5, 6, 7, 8, 9]⟩]
def digestOf (src d : Nat) : Frame := { frameTo 5 src ftDigest 0 (leBytes 8 d ++ leBytes 8 3 ++ leBytes 4 11 ++ [0, 0, 0, 0]) with bcast := false }
def singing (src d : Nat) (es : List UniEntry) : State := { linked { portUp with rxBuf := [digestOf src d] } with wmap := [(0, ring5)], unison := es, streams := [(5, holding .running)] }
theorem witness_UnisonComparesDigests : let f := digestOf 6 1; let s := singing 6 1 []
    s.frameFor 3 ftDigest = some (3, f) ∧ f.bcast = false ∧ s.jobOfKey f.jobKey = some 0 ∧ s.unisonGroup 0 = some (0, 5, 6, 9) ∧ s.unison.length < 8192 ∧ (8 : Nat) ≠ 6 ∧ (8 : Nat) ≠ 9 ∧
    (singing 8 1 []).frameFor 3 ftDigest = some (3, digestOf 8 1) ∧ ({ singing 6 1 [] with keytab := [] } : State).jobOfKey f.jobKey = none := by decide +kernel
/-- Entry with own and left digest: agreeing with a right one, with all three outcomes. -/
theorem witness_UnisonComparesDigests_judged : let e (o a : U64) : UniEntry := ⟨0, 11, 3, some o, some a, none⟩; let s := singing 6 1 [e 1 1]
    s.unison.find? (fun (e : UniEntry) => decide (e.job = 0) && decide (e.key = 11) && decide (e.step = 3)) = some (e 1 1) ∧ s.unisonGroup 0 = some (0, 5, 6, 9) ∧ (e 1 1).own.isSome = true ∧ (e 1 1).left.isSome = true ∧
    (s.job 0).disputed = false ∧ 5 ∈ s.streamsOf 0 ∧ (s.stream 5).st = .running ∧ (digestOf 6 1).field 0x10 4 = 11 ∧ (digestOf 6 1).field 8 6 = 3 ∧ (digestOf 6 1).field 0 8 = 1 := by decide +kernel
theorem witness_UnisonComparesDigests_clear : live.hostReach = true ∧ live.field .uni 0x040 0 8 = 0 := by decide +kernel

/-- Unit u of the module with a tuning state; its engine held for the pass while it runs. -/
def tuned (u : Nat) (x : TuneUnit) : State := { owner with tune := [(u, x)], engines := if x.st = .running then [(u, { Engine.idle with tuning := true })] else [] }
def tuneAt (st : TuneState) : TuneUnit := ⟨st, false, false, [], 0⟩
theorem witness_TuningPassesRunAndFence : let s (st : TuneState) := tuned 0 (tuneAt st)
    (s .idle).pwr.st = .run ∧ (s .idle).tuneUnit 0 = tuneAt .idle ∧ ((s .idle).die (unitDie 0)).up = true ∧ (s .idle).start.ready = true ∧ (s .idle).field .tun 0x040 0 16 ≠ 0 ∧ ((s .due).tuneUnit 0).st = .due ∧ (s .due).pwr.change = none ∧
    ((s .due).engine 0).cur = none ∧ ((s .due).engine 0).tuning = false ∧ ((s .due).choose 0 false).isSome = false ∧ isSequencer 0 = false ∧ ((s .due).engine 0).reservedBy = none ∧ ((s .takeover).tuneUnit 0).st = .takeover ∧
    (s .running).rotatingJobs = [] ∧ ((s .running).engine 0).tuning = true ∧ ((s .running).reg .tun offErrInj).getLsbD 0 = false := by decide +kernel
/-- A sequencer whose quad has no engine usable holds none, on compute die 0 with the arrays fenced. -/
def quadGone : State := { tuned 768 (tuneAt .takeover) with tune := (768, tuneAt .takeover) :: (List.range 768).map (fun u => (u, { tuneAt .idle with fenced := true })) }
theorem witness_TuningPassesRunAndFence_more : isSequencer 768 = true ∧ quadGone.quadHeld 768 = [] ∧ (quadGone.tuneUnit 768).st = .takeover ∧ (tuned 768 (tuneAt .takeover)).quadHeld 768 ≠ [] ∧ ({ tuned 0 { tuneAt .running with rep := true } with streams := [(5, { holding .running with bound := some phaseBound })] } : State).slotHolders 0 = [5] ∧
    (let s : State := { tuned 0 (tuneAt .running) with regs := [(Page.tun.base + offErrInj, 1)] }; (s.reg .tun offErrInj).getLsbD 0 = true ∧ s.field .tun 0x048 0 10 = 0) ∧
    live.pageUp .tun = true ∧ live.hostReach = true ∧ live.field .tun 0x048 0 10 < 822 ∧ (live.tuneUnit 0).st ≠ .running ∧ (live.tuneUnit 0).fenced = false ∧ isArray 821 = false := by decide +kernel

/-! #### Links of the package -/

/-- Both ends of a link up with the given enabled bundles and sending sides. -/
def linkUp (enabled : Nat) : LinkSt := { LinkSt.down with up := true, enabled := enabled, retired := 0, fenced := false, peerClk := true }
def packed (e : LinkEnd) (k : LinkSt) (x : BundleSt) : State := { live with flash := blankFlash, links := [(e.num, k), (e.peer.num, k)], bundles := [(e.num * 16, x)], lanes := [] }
def flitOf (q : U16) (k : Nat) (c : U32) : Flit := ⟨q, 0, k, [], [], c⟩
/-- A flit whose CRC fits. -/
def goodFlit (q : U16) (k : Nat) : Flit := flitOf q k (crc32c (flitOf q k 0).covered)

theorem witness_FlitsAndLaneTests : let s := packed (.rdl 0) (linkUp 3) ⟨7, 5, [], 0⟩; let f := goodFlit 5 0
    (s.link (.rdl 0)).carries 0 = true ∧ crc32c f.covered = f.crc ∧ f.fseq = (s.bundle (.rdl 0) 0).rxSeq ∧ f.kind ≠ 4 ∧ (s.link (.rdl 0)).held = [] ∧ (s.link (.rdl 0)).moved = [] ∧ (goodFlit 6 0).fseq ≠ (s.bundle (.rdl 0) 0).rxSeq ∧
    crc32c (goodFlit 6 0).covered = (goodFlit 6 0).crc ∧ crc32c (flitOf 5 0 0).covered ≠ (flitOf 5 0 0).crc ∧ (s.bundle (.rdl 0) 0).unacked.length < 256 ∧ (s.reg (.rdl 0) offErrInj).getLsbD 0 = false ∧
    ((1 : Fin 16) ≠ 0 ∧ (1 : Fin 16).val < (LinkEnd.rdl 0).bundles ∧ (s.link (.rdl 0)).uses 1 = true) := by decide +kernel
theorem witness_FlitsAndLaneTests_replay : ((packed (.bondDie 11) (linkUp 3) ⟨7, 5, [goodFlit 6 0], 63⟩).bundle (.bondDie 11) 0).unacked ≠ [] ∧ (63 : Nat) < 64 ∧ ((packed (.bondDie 11) (linkUp 3) ⟨7, 5, [goodFlit 6 0], 64⟩).link (.bondDie 11)).carries 0 = true ∧
    ((1 : Fin 16).val < (LinkEnd.bondDie 11).bundles ∧ (linkUp 3).uses 1 = true) := by decide +kernel
/-- The lane groups of an end; a lane that failed twice running in a group whose spare is used, and the spare itself. -/
theorem witness_FlitsAndLaneTests_lanes : let s (g : LaneGroup) : State := { packed (.rdl 0) (linkUp 3) ⟨7, 5, [], 0⟩ with lanes := [(laneKey (.rdl 0) 0 1, g)] }
    (1 : Nat) < (LinkEnd.rdl 0).groups ∧ ((s .whole).laneGroup (.rdl 0) 0 1).last.contains 4 = false ∧
    (let g := (s { LaneGroup.whole with lane := some 3, last := [4] }).laneGroup (.rdl 0) 0 1; g.last.contains 4 = true ∧ g.lane ≠ some 4 ∧ (4 : Nat) ≠ g.lane.getD 32) ∧
    (let g := (s { LaneGroup.whole with last := [32] }).laneGroup (.rdl 0) 0 1; g.last.contains 32 = true ∧ g.lane = none ∧ g.prbs = false) ∧
    (let g := (s { LaneGroup.whole with prbs := true }).laneGroup (.rdl 0) 0 1; g.lane = none ∧ g.prbs = true) := by decide +kernel

theorem witness_LostPeersAndLinkTests : let s (e : LinkEnd) := packed e (linkUp 3) ⟨0, 0, [], 0⟩
    ((s (.bondBase 3)).link (.bondBase 3)).up = true ∧ ((s (.bondBase 3)).link (.bondBase 3)).fenced = false ∧ (s (.bondBase 3)).pwr.st = .run ∧ (s (.bondBase 3)).pwr.change = none ∧ ((s (.bondBase 3)).link (.bondBase 3)).short = 0 ∧
    1 ≤ ((packed (.bondBase 3) { linkUp 3 with short := 1 } ⟨0, 0, [], 0⟩).link (.bondBase 3)).short ∧ 1 ≤ ((packed (.bondDie 3) { linkUp 3 with short := 1 } ⟨0, 0, [], 0⟩).link (.bondDie 3)).short ∧
    [1].all (fun n => decide (2 * n < 4)) = true ∧ [2].all (fun n => decide (2 * n < 4)) = false ∧ (s (.bondBase 3)).computeUp 3 = true ∧ (LinkEnd.rdl 0).far = .base 1 ∧ (LinkEnd.rdl 0).page ≠ none ∧ (s (.rdl 0)).baseUp 1 = true ∧
    ({ s (.bondBase 3) with streams := [(5, { holding .running with bound := some phaseBound })] } : State).affected (dieUnits 0) = [5] := by decide +kernel
theorem witness_LostPeersAndLinkTests_tests : let s : State := { packed (.bondBase 3) (linkUp 3) ⟨0, 0, [], 0⟩ with dies := [(3, { dieUp with test := true })], regs := [((Page.bnd 3).base + 0x058, 0x4)] }
    (LinkEnd.bondBase 3).page = some (.bnd 3) ∧ s.testMode (.bondBase 3) = true ∧ (s.reg (.bnd 3) 0x058).getLsbD 2 = true ∧ (LinkEnd.bondDie 3).page = none ∧ s.loopReady (.bondBase 3) = false ∧ live.writes (.bnd 3) = true ∧ live.testMode (.rdl 0) = false := by decide +kernel
/-- Loop-back near and, at a fenced end, far; Hold; one forwarded clock of four stopped while another bundle is in use; a page that no write reaches. -/
theorem witness_LostPeersAndLinkTests_more : let s (v : U32) : State := { packed (.bondBase 3) { linkUp 3 with fenced := true } ⟨0, 0, [], 0⟩ with dies := [(3, { dieUp with test := true })], regs := [((Page.bnd 3).base + 0x058, v)] }
    (s 1).testMode (.bondBase 3) = true ∧ (s 1).loopReady (.bondBase 3) = true ∧ (s 2).loopReady (.bondBase 3) = true ∧ ({ live with pwr := { live.pwr with st := .hold } } : State).pwr.change = none ∧
    stoppedClocks [0, 8, 8, 8] = [0] ∧ [0, 8, 8, 8].all (fun n => decide (2 * n < 8)) = false ∧ (linkUp 3).uses 0 = true ∧ (linkUp 3).uses 1 = true ∧ (1 : Nat) < (LinkEnd.bondBase 3).bundles ∧
    ({ live with start := { live.start with powered := false } } : State).writes (.bnd 3) = false := by decide +kernel

theorem witness_BudgetsAndReports : (live.die (Die.compute 11).num).up = true ∧ (live.die (Die.base 2).num).up = true ∧ (live.die 11).test = false ∧ (live.die 11).stopped = false ∧ (live.die 11).hot = false ∧ live.baseUp (11 / 4) = true ∧
    (without 14).baseUp (11 / 4) = false ∧ (live.die 14).test = false ∧ (1#8).getLsbD 2 = false ∧ (4#8).getLsbD 2 = true ∧ (live.die 11).duty ≤ 256 ∧ (live.die 11).step ≤ 56 ∧ 64 ≤ (live.die 11).duty ∧
    (let s : State := { live with dies := [(11, { dieUp with hot := true, applied := ⟨0, 800, false⟩ }), (14, dieUp)] }; (s.die 11).hot = true ∧ s.baseUp (11 / 4) = true ∧ BitVec.ofNat 16 (s.field (.bnd 11) 0x070 0 16) < (s.die 11).applied.limitW8) := by decide +kernel
/-! #### Swell, power, the service port -/

/-- A calibration record: power falls by a sixtieth at each step, lambda 7 %, 70 W of base load. -/
def calibrated : Flash := { blankFlash with settings := [⟨5, 0, 1, .calib ⟨(List.range 57).map (fun k => 1000000 - k * 16000), 70000, 70000⟩⟩] }
/-- Every compute die reports w W. -/
def drawing (w : Nat) : State :=
  { live with flash := calibrated, dies := (List.range 15).map (fun k => (k, if k < 12 then { dieUp with rep := { DieReport.zero with powerW8 := BitVec.ofNat 16 (8 * w) } } else dieUp)), pwr := { live.pwr with target := 450 } }

/-- The three cases of R493 under a cap of 450 W. -/
theorem witness_SwellFollowsSetpoints : let total (s : State) : Rat := s.upDies.foldl (fun x d => x + s.demand d) 0; let p56 : Rat := calibrated.calib.pOf 56
    total (drawing 20) ≤ (drawing 20).allowance 450 ∧ (drawing 50).allowance 450 < total (drawing 50) ∧ total (drawing 50) * p56 ≤ (drawing 50).allowance 450 ∧ (drawing 1000).allowance 450 < total (drawing 1000) * p56 ∧
    (drawing 20).hostReach = true ∧ (drawing 20).sourceOn .register = true ∧ ({ drawing 20 with regs := [(Page.swl.base + 0x048, 0)] } : State).sourceOn .register = false ∧ (drawing 20).computeUp 0 = true ∧ ((drawing 20).die 0).test = false := by decide +kernel
/-- A SWELL frame from a source that SWL_SRC names; loops with one base die cool, warm or hot; each flow command. -/
def swellFrame : Frame := { frameTo 5 6 ftSwell 0 (leBytes 4 1 ++ leBytes 2 900 ++ [0, 0]) with jobKey := 0 }
theorem witness_SwellFollowsSetpoints_frame : let s (on : Bool) : State := { linked { portUp with rxBuf := [swellFrame] } with regs := [(Page.wwyMod.base + 0x040, 5)] ++ (if on then [(Page.swl.base + 0x048, 7), (Page.wwyMod.base + 0x054, 0x80000006)] else []) }
    (s false).frameFor 3 ftSwell = some (3, swellFrame) ∧ (s true).frameFor 3 ftSwell = some (3, swellFrame) ∧ (s false).swellOk swellFrame = false ∧ (s true).swellOk swellFrame = true := by decide +kernel
theorem witness_SwellFollowsSetpoints_loop : let s := drawing 20
    s.pwr.st = .run ∧ s.baseUp 0 = true ∧ s.hotStacks = [] ∧ ([110, 20, 20] : List Int).getD 1 0 < 110 ∧ (110 : Int) ≤ ([110, 20, 20] : List Int).getD 0 0 ∧ (s.pwr.calmMs + 10 < 1000 ∧ 1000 ≤ s.pwr.calmMs + 1000) ∧
    (({ s with regs := [((Page.hbc 0).base + 0x044, 0x300)] } : State).hotStacks ≠ []) ∧
    (let t : State := { s with pwr := { s.pwr with shed := true } }; t.pwr.shed = true ∧ t.pwr.step = 0 ∧ t.pwr.duty = 256 ∧ t.pwr.inputW + t.field .swl 0x05C 0 16 ≤ t.pwr.cap) ∧
    s.pwr.mlpm < s.field .pwr 0x054 0 16 ∧ s.field .pwr 0x054 0 16 ≤ 65535 ∧ (∀ b : Fin 3, ([20, 20, 20] : List Int).getD b.val 0 < 110) ∧
    s.start.powered = true ∧ s.pwr.leak = false ∧ s.pwr.flowLow = false ∧ (110#8).toInt = 110 ∧ (95#8).toInt = 95 ∧ (s.die 11).hot = false := by decide +kernel

def inState (st : PState) (change : Option PState) : State := { live with flash := blankFlash, pwr := { live.pwr with st := st, change := change } }
theorem witness_PowerStatesAndStarts : (inState .run none).start.powered = true ∧ (inState .run none).start.recovery = false ∧ (inState .hold none).powerBusy = false ∧ ({ inState .run none with slots := [(0, { Slot.empty with valid := true })] } : State).powerBusy = true ∧
    (inState .off none).pwr.leak = false ∧ (∀ r : Fin 4, ((inState .hold none).link (.rdl r)).short < 2) ∧ (∀ d : Fin 12, ((inState .hold none).link (.bondBase d)).short < 2 ∧ ((inState .hold none).link (.bondDie d)).short < 2) ∧
    (inState .hold none).start.powered = true ∧ (inState .hold none).pwr.st = .hold ∧ (inState .off (some .run)).pwr.change ≠ none ∧ (inState .run (some .hold)).anyFiring = false ∧ ({ curveBusy false with pwr := { live.pwr with change := some .off } } : State).anyFiring = true ∧
    ((inState .off (some .run)).die 13).up = true ∧ (({ inState .off (some .run) with dies := [] } : State).die 13).up = false ∧ (({ inState .off (some .run) with dies := [] } : State).die 13).asleep = false ∧
    (inState .breath (some .run)).baseUp 1 = true ∧ ({ inState .off none with pwr := { live.pwr with st := .off, leak := true } } : State).pwr.leak = true := by decide +kernel
/-- A start in which all is well, or base die 1 is dead. -/
def startOf (dead : List Die) : StartReport := ⟨true, dead, false, [], [], [], [], [], 300, 0, [], 100⟩
/-- Slot A holds firmware without parts that its key signed; no record says so, so it is ACTIVE and CONFIRMED. -/
def bootable : Flash :=
  { blankFlash with slotA := ⟨some ⟨fwMagic, 1, 0, fwModel, 0, 0, 560, 7, 0, sha256 [], true, true⟩, [], [], [], [], true⟩ }
theorem witness_PowerStatesAndStarts_starts : let s : State := { State.reset with flash := bootable }
    s.flash.boot.slot = some 0 ∧ s.start.powered = false ∧ (startOf []).powerGood = true ∧ (startOf []).loadFail = false ∧ (startOf []).deadBase 1 = false ∧ (startOf [.base 1]).deadBase 1 = true ∧ blankFlash.boot.slot = none ∧
    Die.base 1 ∉ (startOf []).deadDies := by decide +kernel
/-- A sample that crosses no window, and one that crosses the first. -/
theorem witness_PowerStatesAndStarts_samples :
    (let p := (inState .breath none).pwr
     ((List.range 24).all (fun i => decide (¬ (if i < 15 ∨ 19 ≤ i then (p.brtLow.getD i 0).toInt < (p.brtLow.getD i 0).toInt ∨ (p.brtHigh.getD i 0).toInt < (p.brtLow.getD i 0).toInt else (p.brtHigh.getD i 0).toNat < (p.brtLow.getD i 0).toNat))) = true) ∧
     (p.brtHigh.getD 0 0).toInt < (0x7FFF#16).toInt) ∧ (inState .breath none).hostReach = false ∧ live.hostReach = true := by decide +kernel

/-- An open session 0 with all roles. -/
def serving : State := { live with flash := blankFlash, sessions := [(0, ⟨15⟩)] }
def svcReq (force : Bool) : SvcReq := ⟨0, force, 7⟩
theorem sessionHolds_serving (role : Nat) (h : role < 4) : serving.sessionHolds (svcReq false) role := ⟨⟨15⟩, by decide +kernel, by revert role; decide⟩
def goodHandshake : Handshake := ⟨true, 0x1301, 0x18, true, 384, true, false, false, [List.replicate 32 1], true⟩
theorem witness_ServicePort : serving.session 0 = some ⟨15⟩ ∧ serving.session 1 = none ∧ serving.start.recovery = false ∧ serving.start.powered = true ∧ (⟨2⟩ : Session).roles.testBit 0 = false ∧
    ({ serving with sessions := [], start := { serving.start with anchors := [⟨List.replicate 32 1, 1⟩] } } : State).start.anchors.find? (fun b => goodHandshake.chain.contains b.caHash) = some ⟨List.replicate 32 1, 1⟩ ∧
    goodHandshake.tls13 = true ∧ goodHandshake.valid = true ∧ goodHandshake.suite = 0x1301 ∧ goodHandshake.group = 0x18 ∧ goodHandshake.clientCert = true ∧ goodHandshake.keyBits = 384 ∧ goodHandshake.resumption = false ∧ goodHandshake.earlyData = false := by decide +kernel
/-- The owner of an update, and of none; a setting that fits and one that does not; dies and sources. -/
theorem witness_ServicePort_operations : settingFits 7 (.network [1]) = true ∧ settingFits 8 (.network [1]) = false ∧ serving.flash.setting 7 = none ∧ ({ blankFlash with settings := [⟨7, 1, 4, .network []⟩] } : Flash).setting 7 = some ⟨7, 1, 4, .network []⟩ ∧
    ({ serving with regs := [(Page.swl.base + 0x048, 4)] } : State).sourceOn .service = true ∧ ({ serving with regs := [(Page.swl.base + 0x048, 1)] } : State).sourceOn .service = false ∧
    (serving.die 0).up = true ∧ serving.start.ready = true ∧ ((without 3).die 3).up = false ∧ ((without 3).die 3).asleep = false ∧ ({ live with dies := [(3, { dieUp with up := false, asleep := true })] } : State).start.ready = true ∧ ([⟨[], 7⟩] : List Anchor).all (fun a => !a.roles.testBit roleSecurity) = true ∧
    serving.powerBusy = false ∧ (svcReq true).force = true ∧ ({ serving with log := [], logHead := 0 } : State).log.length ≤ 4096 ∧ (4#26).toNat % 4 = 0 ∧ (5#26).toNat % 4 ≠ 0 := by decide +kernel
/-! #### Firmware updates, SPDM, the host's ports -/

/-- A modulus whose private exponent is known: the largest prime under 2 ^ 3072 stands for a product of two. -/
def testModulus : Nat := 2 ^ 3072 - 1103717
/-- The manifest of seven FULL parts of no bytes, each of a stream of one byte, and its SHA-256, computed outside Lean. -/
def testManifest : List U8 := (List.range 7).flatMap (fun i => [BitVec.ofNat 8 (i + 1), 2] ++ List.replicate 10 0 ++ [1] ++ List.replicate 67 0)
def testManifestHash : List U8 := rsaBytes 32 0x9c681b9135114a110d998330a1283daabfd9f91e0b32d385e9abeddb07911aaf
/-- The first 128 bytes of the header of a FULL file of SVN 0 (R534). -/
def testHeader : List U8 :=
  leBytes 4 0x4C44474E ++ [1, 0, 0, 0] ++ leBytes 4 0x00120768 ++ leBytes 4 0 ++ leBytes 4 1 ++ leBytes 4 560 ++ leBytes 4 7 ++ leBytes 4 1 ++ testManifestHash ++ List.replicate 64 0
/-- RSASSA-PSS of the SHA-256 of that header with a salt of zeros under the modulus, computed outside Lean. -/
def testSignature : Nat :=
  0xbf8deed0216a1a019c3309fc3bae33e93a8b2607ef09e07c842219488cef8057e190e4c33e18b25a7f0b1fc47624d3452ef3b2fd4cfde829cde61d8aee6d80845b267f33d38f729665b24e163fedafee86e72994adcda09c0bce46b7c270729130a29cae19e286940606121fc583f24c9e81d7687768e9f4839c0012f3556140fc73ab0d9d6c9b22bd2fa0f700a274e6c8c091c5f7c8a127fcd547febf2a8ed3a4ef27145e6227589b4e33dd588fc47abf5c67bac79bc689981141c2e4fa3759fd0bfb9434ad336f9daab9bf047f0b5140e4afaf198a4f3805a918d4db2cf89bdd1469f80957dc59f1f5d001e57b2561ee863d2f027f103a63bcc19c4d61e2d511b9f5c30f949d2a15ce2f9a011c4f755e51eb1a95ec1d6689e2ab6eebbd83c8e15a1ae6aa39af2c3ce439db6d9407de2e6de05f77c43af97678c27d1d815500e10ea32ef95b6549c4ec3ed058f5b75fe0d7957f3258845ff647b042c5c0546c1469d4afc1dbaf3ab874ee81dd60e3d6a33c114a97cc464f3eeb0d4d98eae183
def testFile : List U8 := testHeader ++ rsaBytes 384 testSignature ++ testManifest
/-- The module in operation, and slot A ready with the same manifest. -/
def updating : State := { serving with flash := { blankFlash with romKeys := [testModulus] } }

theorem witness_FirmwareUpdate_signature : (readFwHeader updating.flash.romKeys testFile).sigOk = true := by decide +kernel
theorem witness_FirmwareUpdate_hash : sha256 ((testFile.drop 512).take 560) = testManifestHash := by decide +kernel
/-- Every other check of R537 passes, on a flash with and without a floor above. -/
theorem witness_FirmwareUpdate : let h : FwHeader := { readFwHeader [] testFile with sigOk := true }; let es := readManifest ((testFile.drop 512).take 560); let f := updating.flash
    testFile.length = 1072 ∧ h.magic = 0x4C44474E ∧ h.format = 1 ∧ h.reservedZero = true ∧ h.partCount = 7 ∧ h.manifestBytes = 560 ∧ h.keyIndex < 4 ∧ f.revoked.testBit h.keyIndex = false ∧ h.model = 0x00120768 ∧ h.manifestHash = testManifestHash ∧
    manifestOk h es = true ∧ f.floor ≤ h.svn ∧ sourcesOk es (f.slot f.commitOr.active).manifest = true ∧ updating.locked = false ∧ f.commitOr.trial = false ∧ updating.start.recovery = false ∧ h.flags.getLsbD 0 = true ∧
    ([] : List U8).length ≠ 1072 ∧ updating.fw = none := by decide +kernel
/-- A session of owner 0 in a stage, of a one-part manifest with one stream byte, and what was delivered. -/
def session (st : FwStage) (got : List U8) : FwSession := ⟨0, st, readFwHeader [] [], [], [], [⟨1, 2, 0, 0, 1, sha256 [], []⟩], got⟩
def updatingAt (st : FwStage) (got : List U8) : State := { updating with fw := some (session st got) }
theorem witness_FirmwareUpdate_stages : let s := updatingAt .receiving []
    s.fw = some (session .receiving []) ∧ (session .receiving []).owner = 0 ∧ s.fwBuild (session .receiving [0]) = .whole [[]] ∧ s.fwBuild (session .receiving [1]) = .bad ∧ s.fwBuild (session .receiving []) = .more [] ∧
    partsGood (session .receiving []).manifest [[]] = true ∧ partsGood (session .receiving []).manifest [[1]] = false ∧ (session .verified []).stage = .verified ∧ (session .activated []).stage ≠ .verified ∧
    ({ session .receiving [] with owner := 1 } : FwSession).owner ≠ 0 ∧ ({ blankFlash with commit0 := some ⟨7, 1, false, 0, [], 0⟩ } : Flash).commit = some (0, ⟨7, 1, false, 0, [], 0⟩) := by decide +kernel
theorem witness_FirmwareUpdate_ops : ([1] : List U8) ≠ [] ∧ ([1] : List U8).length < 2 ^ 32 ∧ 0 + 2 ≤ ([1, 2] : List U8).length ∧ ([1, 2] : List U8).length < 1 + 2 := by decide

/-- Port 0 up with its mailbox in a state; port 1 down. -/
def portsOf (x : SpdmSt) : List CxlPort := [{ CxlPort.down with up := true, lanes := 8, viaSwitch := true, doe := x }, .down]
def talking (x : SpdmSt) : State := { live with flash := { blankFlash with certChain := [1, 2, 3] }, cxl := { live.cxl with ports := portsOf x } }
theorem witness_SpdmAndMctp : (talking .fresh).spdmReach (.doe 0) = true ∧ (talking .fresh).spdmReach (.doe 1) = false ∧ (talking .fresh).spdmReach .mctp = true ∧ ((talking .fresh).spdmOf (.doe 0)).negotiated = false ∧
    ((talking ⟨true, false, none⟩).spdmOf (.doe 0)).negotiated = true ∧ ((talking ⟨true, false, some false⟩).spdmOf (.doe 0)).session = some false ∧ ((talking ⟨true, false, some true⟩).spdmOf (.doe 0)).session = some true ∧
    (3#16).toNat ≤ (talking .fresh).flash.certChain.length ∧ (talking .fresh).flash.certChain.length < (4#16).toNat ∧ ((talking ⟨true, false, some true⟩).cxl.ports.getD 0 .down).doe.session = some true ∧
    ((0xC#32) &&& 0xC ≠ 0 ∧ (1#32) &&& 1 ≠ 0) ∧ (2#32) &&& 0xC = 0 ∧ 11 < (12#8).toNat ∧ (12#8).toNat < 255 ∧ (talking .fresh).start.powered = true := by decide +kernel

/-- A setup of 256 MiB at host address 0, one way, that decoder 0 takes; and decoder 0 with it committed. -/
def setup : HdmSetup := ⟨0, 0x10000000, 256, 1, 0, 0⟩
def mapped : HdmDecoder := ⟨setup, true, false, 0⟩
def hosted (active : Option Nat) (uio : List UioReq) (snoops : List Snoop) : State :=
  { curveRun with flash := blankFlash, cxl := { live.cxl with ports := portsOf .fresh, active := active, decoders := mapped :: live.cxl.decoders.tail, uio := uio, snoops := snoops } }
theorem witness_HostAttachment : let s := hosted (some 0) [] []
    live.hostReach = true ∧ (setup.iw = 1 ∧ setup.ig = 256 ∧ setup.target < setup.iw ∧ 0 < setup.size ∧ setup.size % setup.iw = 0 ∧ setup.skip % 0x10000000 = 0 ∧ (setup.size / setup.iw) % 0x10000000 = 0 ∧ 0 % 0xC00000000 + setup.size / setup.iw ≤ 0xBF0000000) ∧
    ¬ ({ setup with ig := 128 } : HdmSetup).ig = 256 ∧ (s.cxl.decoders.getD 0 .off).committed = true ∧ (live.cxl.decoders.getD 0 .off).committed = false ∧
    mapped.committed = true ∧ mapped.setup.hpaBase ≤ 64 ∧ 64 < mapped.setup.hpaBase + mapped.setup.size ∧ s.cxlUp 0 = true ∧ s.cxl.active = some 0 ∧ s.cxl.dpaOf 64 = some 64 ∧ s.baseUp (baseOfStack (64 / 0xC00000000)) = true ∧
    filterOf (64 / 64) < s.cxl.filters.length ∧ s.eccHostRead 64 64 = (s, none) ∧ s.eccRead 0 2048 = (s, none) ∧ (hosted (some 1) [] []).cxl.active ≠ some 0 ∧ s.cxl.seen.contains 3 = false ∧
    ({ s with cxl := { s.cxl with seen := [3] } } : State).cxl.seen.contains 3 = true := by decide +kernel
/-- Base die 0 is down: its memory is lost to the host. -/
theorem witness_HostAttachment_lost : let s : State := { hosted (some 0) [] [] with dies := (without 12).dies }
    s.cxl.dpaOf 64 = some 64 ∧ s.baseUp (baseOfStack (64 / 0xC00000000)) = false ∧ s.cxlUp 0 = true ∧
    ((hosted (some 0) [] []).eccHostRead 64 64).2 = none ∧ (({ hosted (some 0) [] [] with mem := ⟨[], [], [1]⟩ } : State).eccHostRead 64 64).2 ≠ none := by decide +kernel
theorem witness_HostAttachment_events : let s := hosted (some 0) [] [⟨1, 0⟩]
    (∃ x, x ∈ s.cxl.snoops ∧ x.line = 1 ∧ x.port = 0) ∧ (s.reg (.cxp 0) offErrInj).getLsbD 0 = false ∧ ({ s with regs := [((Page.cxp 0).base + offErrInj, 1)] } : State).armed (.cxp 0) 0 = true ∧ s.memOk 1 = false ∧
    (let t : State := { s with cxl := { s.cxl with ports := (portsOf .fresh).take 1 ++ (portsOf .fresh).take 1 }, regs := [((Page.cxp 0).base + 0x048, 1), ((Page.cxp 1).base + 0x048, 1)] }; t.memOk 1 = true ∧ t.cxlUp 0 = true ∧ t.cxl.active = some 0 ∧ t.hostReach = true) ∧
    (s.cxl.snoops.find? (fun y => decide (y.line = 1))) = some ⟨1, 0⟩ ∧ (∀ e, e ∈ s.engines → e.2.waitsSnoop 1 = false) ∧
    s.start.powered = true ∧ s.baseUp 1 = true ∧ s.pwr.st = .run ∧ s.cxlUp 1 = false ∧ 1 < s.cxl.ports.length ∧ (hosted none [] []).cxl.active = none := by
  refine ⟨⟨⟨1, 0⟩, by decide +kernel⟩, ?_⟩
  decide +kernel
/-- Unit 2's firing waits for a snoop, or for the one slow-tier request of port 0. -/
theorem witness_HostAttachment_waits : let s (w : Wait) : State := { hosted (some 0) [⟨7, 0, 2⟩] [⟨1, 0⟩] with engines := [(2, { Engine.idle with cur := some { firing 0 false with waits := [w] } })] }
    ((s (.snoop 1)).engines.filter (fun e => e.2.waitsSnoop 1)).map (·.1) = [2] ∧ (s (.snoop 1)).uioOf 0 = [⟨7, 0, 2⟩] ∧ ((s (.slow 7 0x20000000000 0 2048 none)).engine 2).cur = some { firing 0 false with waits := [.slow 7 0x20000000000 0 2048 none] } ∧
    ((s (.snoop 1)).stream 5).st = .running ∧ ((s (.snoop 1)).tuneUnit 2).fenced = false ∧ (firing 0 false).rep = false := by decide +kernel
end Sys2Proof.Tests
end

section
/-! Proofs: BAR0 pages found by their address, and the LO/HI pairs (R13, R14, R580 to R583, R590). -/

namespace Sys2Proof.Machine

/-! ### Where a page lies (R580 to R583) -/

/-- The map looks only at an offset's page. -/
theorem pageAt_add_of_lt {base off : Nat} (hbase : base % 0x1000 = 0) (hoff : off < 0x1000) :
    pageAt (base + off) = pageAt base := by
  have hpage : (base + off) / 0x1000 = base / 0x1000 := by omega
  have hmodule : base + off < 0x01000000 ↔ base < 0x01000000 := by omega
  have hbeyond : 0x02800000 ≤ base + off ↔ 0x02800000 ≤ base := by omega
  have hsub (h : ¬ base < 0x01000000) : base + off - 0x01000000 = base - 0x01000000 + off := by omega
  unfold pageAt
  simp only [hpage, hmodule, hbeyond]
  by_cases hlow : base < 0x01000000
  · simp only [hlow, if_true]
  · simp only [hlow, if_false, hsub hlow]
    have haligned : (base - 0x01000000) % 0x1000 = 0 := by omega
    obtain ⟨r, hrel⟩ : ∃ r, base - 0x01000000 = r := ⟨_, rfl⟩
    rw [hrel] at haligned ⊢
    have hbaseDie : (r + off) / 0x00800000 = r / 0x00800000 := by omega
    have hown : (r + off) % 0x00800000 < 0x00400000 ↔ r % 0x00800000 < 0x00400000 := by omega
    have hownPage : (r + off) % 0x00800000 / 0x1000 = r % 0x00800000 / 0x1000 := by omega
    have hcompute : ((r + off) % 0x00800000 - 0x00400000) / 0x00100000 = (r % 0x00800000 - 0x00400000) / 0x00100000 := by omega
    have hcore : (r + off) % 0x00800000 / 0x10000 = r % 0x00800000 / 0x10000 := by omega
    simp only [hbaseDie, hown, hownPage, hcompute, hcore]

theorem Page.base_aligned (pg : Page) : pg.base % 0x1000 = 0 := by
  cases pg with
  | tol | swl | brt | pwr | fwu | sec | grn | tun | uni | stmJob | stmRgn | stmQrm | cnsMap | wwyMod | twn => rfl
  | stm n | glb n | lth n | cns n | wwy n | hbc n | gdc n | bnd n | rdl n | cxp n | mxa n | vxe n | crv n | cpe n | ats n =>
    revert n; decide +kernel

theorem pageAt_base (pg : Page) : pageAt pg.base = some pg := by
  cases pg with
  | tol | swl | brt | pwr | fwu | sec | grn | tun | uni | stmJob | stmRgn | stmQrm | cnsMap | wwyMod | twn => rfl
  | stm n | glb n | lth n | cns n | wwy n | hbc n | gdc n | bnd n | rdl n | cxp n | mxa n | vxe n | crv n | cpe n | ats n =>
    revert n; decide +kernel

theorem pageAt_reg (pg : Page) {off : Nat} (h : off < 0x1000) : pageAt (pg.base + off) = some pg :=
  (pageAt_add_of_lt pg.base_aligned h).trans (pageAt_base pg)

/-- A register's own place in its page, from its BAR0 offset. -/
theorem Page.base_add_mod (pg : Page) {off : Nat} (h : off < 0x1000) : (pg.base + off) % 0x1000 = off := by
  have := pg.base_aligned; omega

/-! ### Register writes and events (R585) -/

/-- A register written changes no other. -/
theorem State.setReg_regsKept (s : State) (pg : Page) (o : Nat) (v : U32) : s.regsKept (s.setReg pg o v) [pg.base + o] := by
  intro k hk
  rw [State.setReg_word, if_neg (by simpa using hk)]

/-- One register written in some of its bits: no other register changes. -/
theorem State.setBits_spec (s : State) (pg : Page) (o : Nat) (v : U32) (m : Nat) :
    (s.setBits pg o v m).reg pg o = mergeBits (s.reg pg o) v m ∧ s.regsKept (s.setBits pg o v m) [pg.base + o] ∧
      s.setBits pg o v m = { s with regs := (s.setBits pg o v m).regs } :=
  ⟨State.setReg_same _ _ _ _, s.setReg_regsKept _ _ _, rfl⟩

theorem State.raise_mask (s : State) (pg : Page) (b : Nat) : (s.raise pg b).reg pg offErrMask = s.reg pg offErrMask := State.setErr_mask _ _ _ _

theorem State.raise_raisedIn (s : State) (pg : Page) (b : Nat) : s.raisedIn (s.raise pg b) pg b := ⟨s.raise_stat pg b, s.raise_mask pg b⟩

theorem State.raise_regsKept (s : State) (pg : Page) (b : Nat) : s.regsKept (s.raise pg b) (errRegs pg) := by
  intro k hk
  simp only [errRegs, List.mem_cons, List.not_mem_nil, or_false, not_or] at hk
  exact s.raise_word_other pg b hk.1 hk.2.1 hk.2.2

/-- A register that is none of ERR_STAT, ERR_MASK and ERR_FIRST keeps its value when an event is shown. -/
theorem State.raise_reg_other (s : State) (pg : Page) (b : Nat) {o : Nat} (h : o ∉ [offErrStat, offErrMask, offErrFirst]) :
    (s.raise pg b).reg pg o = s.reg pg o := by
  simp only [List.mem_cons, List.not_mem_nil, or_false, not_or] at h
  exact s.raise_word_other pg b (by omega) (by omega) (by omega)

/-! ### LO/HI pairs (R13, R14) -/

/-- A pair's LO register is aligned, its HI register lies on the same page and is no LO register. -/
theorem Page.pairs_spec {pg : Page} {o : Nat} (h : o ∈ pg.pairs) : o % 4 = 0 ∧ o + 4 < 0x1000 ∧ o + 4 ∉ pg.pairs := by
  have hall : pg.pairs.all (fun o => decide (o % 4 = 0 ∧ o + 4 < 0x1000 ∧ o + 4 ∉ pg.pairs)) = true := by cases pg <;> rfl
  exact of_decide_eq_true (List.all_eq_true.mp hall o h)

/-- A read of LO latches HI for its requester, in place of what it had latched (R13, R590). -/
theorem State.barRead_lo (s : State) (r : Requester) {pg : Page} {o : Nat} (h : o ∈ pg.pairs) :
    s.barRead r (pg.base + o) =
      ({ s with latches := (s.dropLatch r).latches ++ [⟨r, pg.base + o, s.readReg r pg (o + 4)⟩] }, s.readReg r pg o) := by
  obtain ⟨hal, hlt, _⟩ := Page.pairs_spec h
  have hmod : (pg.base + o) % 4 = 0 := by have := pg.base_aligned; omega
  have ho : o < 0x1000 := by omega
  simp only [State.barRead, hmod, pageAt_reg pg ho, pg.base_add_mod ho, List.contains_iff_mem.mpr h, ne_eq, not_true_eq_false, if_false, if_true]
  rfl

/-- A read of HI gives what its requester has latched with that LO, whatever the register now holds (R13). -/
theorem State.barRead_hi_latched (s : State) (r : Requester) {pg : Page} {o : Nat} (h : o ∈ pg.pairs) {l : Latch}
    (hl : s.latches.find? (fun l => decide (l.requester = r) && decide (l.lo + 4 = pg.base + o + 4)) = some l) :
    (s.barRead r (pg.base + o + 4)).2 = l.hi := by
  obtain ⟨hal, hlt, hnot⟩ := Page.pairs_spec h
  have hmod : (pg.base + (o + 4)) % 4 = 0 := by have := pg.base_aligned; omega
  rw [Nat.add_assoc] at hl ⊢
  have hc : pg.pairs.contains (o + 4) = false := by simpa using hnot
  simp only [State.barRead, hmod, pageAt_reg pg hlt, pg.base_add_mod hlt, hc, hl, ne_eq, not_true_eq_false, if_false, Bool.false_eq_true]

/-- The latch of the latest read is the one that is found: the read took the requester's earlier ones away. -/
theorem State.dropLatch_find (s : State) (r : Requester) (lo : Nat) (hi : U32) :
    ((s.dropLatch r).latches ++ [(⟨r, lo, hi⟩ : Latch)]).find? (fun l => decide (l.requester = r) && decide (l.lo + 4 = lo + 4)) = some ⟨r, lo, hi⟩ := by
  have hnone : (s.dropLatch r).latches.find? (fun l => decide (l.requester = r) && decide (l.lo + 4 = lo + 4)) = none := by
    simp +contextual [State.dropLatch, List.find?_eq_none]
  rw [List.find?_append, hnone]
  simp

theorem State.dropLatch_others (s : State) (r : Requester) :
    (s.dropLatch r).latches.filter (fun l => decide (l.requester ≠ r)) = s.latches.filter (fun l => decide (l.requester ≠ r)) := by
  simp [State.dropLatch, List.filter_filter]

theorem regAccess_of_pair {pg : Page} {o : Nat} (h : o ∈ pg.pairs) : regAccess o 4 = true := by
  simp [regAccess, (Page.pairs_spec h).1]

/-- An access of another size than 32 bits or a misaligned one is none that registers answer (R12). -/
theorem regAccess_false {o size : Nat} (h : size ≠ 4 ∨ o % 4 ≠ 0) : regAccess o size = false := by
  simp only [regAccess, Bool.and_eq_false_iff, decide_eq_false_iff_not]
  exact h

/-- The held words of every requester and pair but one. -/
def State.dropHeld (s : State) (r : Requester) (lo : Nat) : List HeldLo :=
  s.heldLo.filter (fun h => !(decide (h.requester = r) && decide (h.lo = lo)))

theorem State.mem_dropHeld (s : State) (r : Requester) (lo : Nat) (h : HeldLo) :
    h ∈ s.dropHeld r lo ↔ h ∈ s.heldLo ∧ ¬ (h.requester = r ∧ h.lo = lo) := by
  simp [State.dropHeld]; tauto

/-- The state with one requester's held word of one pair gone. -/
def State.withoutLo (s : State) (r : Requester) (lo : Nat) : State := { s with heldLo := s.dropHeld r lo }

theorem execWriteLoHold_pair (r : Requester) {pg : Page} {off : BitVec 12} (v : U32) {s : State} (hp : off.toNat ∈ pg.pairs)
    (hw : pg.writable off.toNat = true) (ha : s.answers r pg off.toNat = true) :
    execWriteLoHold r pg off 4 v s = .next { s with heldLo := s.dropHeld r (pg.base + off.toNat) ++ [⟨r, pg.base + off.toNat, v⟩] } := by
  simp only [execWriteLoHold, regAccess_of_pair hp, ha, List.contains_iff_mem.mpr hp, hw, Bool.and_true, if_true]
  rfl

/-- The word held last is the one a HI write takes (R14). -/
theorem State.loFor_held (s : State) (r : Requester) (pg : Page) (lo : Nat) (v : U32) :
    ({ s with heldLo := s.dropHeld r (pg.base + lo) ++ [⟨r, pg.base + lo, v⟩] } : State).loFor r pg lo = v := by
  have hnone : (s.dropHeld r (pg.base + lo)).find? (fun h => decide (h.requester = r) && decide (h.lo = pg.base + lo)) = none := by
    rw [List.find?_eq_none]
    intro h hm
    simpa using ((s.mem_dropHeld r _ h).mp hm).2
  simp [State.loFor, List.find?_append, hnone]

theorem execWriteHiCommit_pair (r : Requester) {pg : Page} {off : BitVec 12} (v : U32) {s : State} (h4 : 4 ≤ off.toNat)
    (hp : off.toNat - 4 ∈ pg.pairs) (hw : pg.writable off.toNat = true) (ha : s.answers r pg off.toNat = true) :
    execWriteHiCommit r pg off 4 v s =
      .next ((s.withoutLo r (pg.base + (off.toNat - 4))).commitPair pg (off.toNat - 4)
        ((s.loFor r pg (off.toNat - 4)).toNat + v.toNat * 0x100000000)) := by
  have hacc : regAccess off.toNat 4 = true := by
    have := (Page.pairs_spec hp).1
    simp only [regAccess, decide_true, Bool.true_and, decide_eq_true_eq]; omega
  simp only [execWriteHiCommit, hacc, ha, hw, List.contains_iff_mem.mpr hp, h4, decide_true, Bool.and_true, if_true]
  rfl

theorem lo32_pair (a b : U32) : lo32 (a.toNat + b.toNat * 0x100000000) = a := by
  apply BitVec.eq_of_toNat_eq
  simp only [lo32, BitVec.toNat_ofNat]
  omega

theorem hi32_pair (a b : U32) : hi32 (a.toNat + b.toNat * 0x100000000) = b := by
  apply BitVec.eq_of_toNat_eq
  simp only [hi32, BitVec.toNat_ofNat]
  omega

/-- A pair of a page other than the regions' takes both words, each in its writable bits (R14). -/
theorem State.commitPair_plain (s : State) {pg : Page} {lo : Nat} (a b : U32) (hpg : pg ≠ .stmRgn) {d e : RegDef}
    (hd : pg.reg lo = some d) (he : pg.reg (lo + 4) = some e) :
    s.commitPair pg lo (a.toNat + b.toNat * 0x100000000) = (s.setBits pg lo a d.rw).setBits pg (lo + 4) b e.rw := by
  simp [State.commitPair, hpg, lo32_pair, hi32_pair, hd, he]

/-- Two registers of a page written in their writable bits: each holds its word, and no other register changes. -/
theorem State.setBits_setBits (s : State) (pg : Page) {o o' : Nat} (a b : U32) (m m' : Nat) (h : o ≠ o') :
    let t := (s.setBits pg o a m).setBits pg o' b m'
    t.reg pg o = mergeBits (s.reg pg o) a m ∧ t.reg pg o' = mergeBits (s.reg pg o') b m' ∧ s.regsKept t [pg.base + o, pg.base + o'] := by
  refine ⟨?_, ?_, fun k hk => ?_⟩
  · rw [State.setBits_def, State.setReg_other _ _ _ h, State.setBits_def, State.setReg_same]
  · rw [State.setBits_def, State.setReg_same, State.setBits_def, State.setReg_other _ _ _ h.symm]
  · simp only [List.mem_cons, List.not_mem_nil, or_false, not_or] at hk
    rw [State.setBits_word, if_neg hk.2, State.setBits_word, if_neg hk.1]

/-- The region page's pairs are BASE and LIMIT of the selected region, multiples of 2,048 (R236). -/
theorem State.commitPair_region (s : State) (lo v : Nat) (h : s.selRegion.valid = false) :
    s.commitPair .stmRgn lo v = s.setRegion s.rgnJob s.rgnNum
      (if lo = 0x04C then { s.selRegion with limit := v % 2 ^ 48 / 2048 * 2048 } else { s.selRegion with base := v % 2 ^ 48 / 2048 * 2048 }) := by
  have hsel : s.selRegion = s.region s.rgnJob s.rgnNum := rfl
  rw [hsel] at h ⊢
  simp [State.commitPair, State.regionBounds, h]

theorem State.commitPair_heldLo (s : State) (pg : Page) (lo v : Nat) : (s.commitPair pg lo v).heldLo = s.heldLo := by
  unfold State.commitPair
  split
  · simp only [State.regionBounds, State.refuseRegion]
    split <;> simp
  · simp

/-! ### A pair acts as one value -/

theorem readLoLatch_latches_hi (r : Requester) (pg : Page) (off : BitVec 12) (s : State) (hp : off.toNat ∈ pg.pairs) :
    ∃ t, exec (.readLoLatch r pg off 4) s = .next t ∧ t.out = s.out ++ [.regRead r (pg.base + off.toNat) (s.readReg r pg off.toNat)] ∧
      (∀ u : State, u.latches = t.latches → (u.barRead r (pg.base + off.toNat + 4)).2 = s.readReg r pg (off.toNat + 4)) ∧
      t.latches.filter (fun l => decide (l.requester ≠ r)) = s.latches.filter (fun l => decide (l.requester ≠ r)) ∧
      t = { s with latches := t.latches, out := t.out } := by
  have hexec : exec (.readLoLatch r pg off 4) s = .next
      { s with
        latches := (s.dropLatch r).latches ++ [⟨r, pg.base + off.toNat, s.readReg r pg (off.toNat + 4)⟩]
        out := s.out ++ [.regRead r (pg.base + off.toNat) (s.readReg r pg off.toNat)] } := by
    show execReadLoLatch r pg off 4 s = _
    simp only [execReadLoLatch, regAccess_of_pair hp, if_true, s.barRead_lo r hp]
    rfl
  refine ⟨_, hexec, rfl, fun u hu => ?_, ?_, rfl⟩
  · apply u.barRead_hi_latched r hp (l := ⟨r, pg.base + off.toNat, s.readReg r pg (off.toNat + 4)⟩)
    rw [hu]
    exact s.dropLatch_find r _ _
  · rw [List.filter_append, s.dropLatch_others r]
    simp

theorem pairAccess_dropped (r : Requester) (pg : Page) (off : BitVec 12) (size : Nat) (v : U32) (s : State) (h : size ≠ 4 ∨ off.toNat % 4 ≠ 0) :
    (∃ t, exec (.readLoLatch r pg off size) s = .next t ∧ t = { s with out := s.out ++ [.regRead r (pg.base + off.toNat) 0] }) ∧
    exec (.writeLoHold r pg off size v) s = .next s ∧ exec (.writeHiCommit r pg off size v) s = .next s := by
  have hacc := regAccess_false h
  refine ⟨⟨_, ?_, rfl⟩, ?_, ?_⟩
  · show execReadLoLatch r pg off size s = _
    simp only [execReadLoLatch, hacc, Bool.false_eq_true, if_false]
    rfl
  · show execWriteLoHold r pg off size v s = _
    simp [execWriteLoHold, hacc]
  · show execWriteHiCommit r pg off size v s = _
    simp [execWriteHiCommit, hacc]

theorem writeLoHold_holds (r : Requester) (pg : Page) (off : BitVec 12) (v : U32) (s : State) (hp : off.toNat ∈ pg.pairs)
    (hw : pg.writable off.toNat = true) (ha : s.answers r pg off.toNat = true) :
    ∃ t, exec (.writeLoHold r pg off 4 v) s = .next t ∧ t.loFor r pg off.toNat = v ∧
      (∀ h, (h.requester ≠ r ∨ h.lo ≠ pg.base + off.toNat) → (h ∈ t.heldLo ↔ h ∈ s.heldLo)) ∧ t = { s with heldLo := t.heldLo } := by
  refine ⟨_, execWriteLoHold_pair r v hp hw ha, s.loFor_held r pg off.toNat v, fun h hne => ?_, rfl⟩
  have hnew : h ≠ ⟨r, pg.base + off.toNat, v⟩ := by rintro rfl; simp at hne
  simp only [List.mem_append, s.mem_dropHeld, List.mem_singleton, hnew, or_false]
  tauto

theorem writeHiCommit_commits (r : Requester) (pg : Page) (off : BitVec 12) (v : U32) (s : State) (h4 : 4 ≤ off.toNat)
    (hp : off.toNat - 4 ∈ pg.pairs) (hw : pg.writable off.toNat = true) (ha : s.answers r pg off.toNat = true) :
    let lo := off.toNat - 4
    let w := (s.loFor r pg lo).toNat + v.toNat * 0x100000000
    ∃ t, exec (.writeHiCommit r pg off 4 v) s = .next t ∧
      (∀ h, h ∈ t.heldLo ↔ h ∈ s.heldLo ∧ ¬ (h.requester = r ∧ h.lo = pg.base + lo)) ∧
      (pg ≠ .stmRgn → ∀ d, pg.reg lo = some d → ∀ e, pg.reg off.toNat = some e →
        t.reg pg lo = mergeBits (s.reg pg lo) (s.loFor r pg lo) d.rw ∧ t.reg pg off.toNat = mergeBits (s.reg pg off.toNat) v e.rw ∧
        s.regsKept t [pg.base + lo, pg.base + off.toNat] ∧ t = { s with regs := t.regs, heldLo := t.heldLo }) ∧
      (pg = .stmRgn → s.selRegion.valid = false →
        t.selRegion = (if lo = 0x04C then { s.selRegion with limit := w % 2 ^ 48 / 2048 * 2048 } else { s.selRegion with base := w % 2 ^ 48 / 2048 * 2048 }) ∧
        t = { s with regions := t.regions, heldLo := t.heldLo }) := by
  intro lo w
  have hoff : off.toNat = lo + 4 := by omega
  refine ⟨_, execWriteHiCommit_pair r v h4 hp hw ha, fun h => ?_, fun hpg d hd e he => ?_, fun hpg hv => ?_⟩
  · rw [State.commitPair_heldLo]
    exact s.mem_dropHeld r _ h
  · rw [hoff] at he
    rw [State.commitPair_plain _ _ _ hpg hd he, hoff]
    obtain ⟨hlo, hhi, hkept⟩ := (s.withoutLo r (pg.base + lo)).setBits_setBits pg (s.loFor r pg lo) v d.rw e.rw (show lo ≠ lo + 4 by omega)
    exact ⟨hlo, hhi, hkept, rfl⟩
  · subst hpg
    rw [State.commitPair_region (s.withoutLo r _) _ _ hv]
    exact ⟨State.setRegion_same _ _ _ _, rfl⟩

/-- Settles O15: the latch of a LO read, the held LO write and the HI write that takes it, one lemma each. -/
theorem pairsActAsOneValue : Obligations.PairsActAsOneValue := by
  unfold Obligations.PairsActAsOneValue
  exact ⟨readLoLatch_latches_hi, pairAccess_dropped, writeLoHold_holds, writeHiCommit_commits⟩

end Sys2Proof.Machine
end

section
/-! Proofs: writes to registers with no behaviour of their own (R11, R12, R15). -/

namespace Sys2Proof.Machine

/-- The registers whose RW fields are kept elsewhere than in the register file, or under a condition of their own. -/
def Page.specialWrite (pg : Page) (o : Nat) : Bool :=
  match pg, o with
  | .stmQrm, 0x044 | .uni, 0x044 | .uni, 0x048 | .brt, 0x048 | .rdl _, 0x058 | .bnd _, 0x058 | .cxp _, 0x04C | .mxa _, 0x018 => true
  | _, _ => false

theorem Page.specialWrite_iff (pg : Page) (o : Nat) : pg.specialWrite o = true ↔
    (pg = .stmQrm ∧ o = 0x044) ∨ (pg = .uni ∧ (o = 0x044 ∨ o = 0x048)) ∨ (pg = .brt ∧ o = 0x048) ∨ (∃ r, pg = .rdl r ∧ o = 0x058) ∨
      (∃ d, pg = .bnd d ∧ o = 0x058) ∨ (∃ p, pg = .cxp p ∧ o = 0x04C) ∨ (∃ n, pg = .mxa n ∧ o = 0x018) := by
  unfold Page.specialWrite
  split
  case h_9 h1 h2 h3 h4 h5 h6 h7 h8 =>
    simp only [Bool.false_eq_true, false_iff]
    rintro (⟨rfl, rfl⟩ | ⟨rfl, rfl | rfl⟩ | ⟨rfl, rfl⟩ | ⟨r, rfl, rfl⟩ | ⟨d, rfl, rfl⟩ | ⟨p, rfl, rfl⟩ | ⟨n, rfl, rfl⟩)
    · exact h1 rfl rfl
    · exact h2 rfl rfl
    · exact h3 rfl rfl
    · exact h4 rfl rfl
    · exact h5 r rfl rfl
    · exact h6 d rfl rfl
    · exact h7 p rfl rfl
    · exact h8 n rfl rfl
  all_goals simp

theorem registerWrite_dropped (pg : Page) (off : BitVec 12) (size : Nat) (v : U32) (s : State) (h : size ≠ 4 ∨ off.toNat % 4 ≠ 0) :
    exec (.registerWrite pg off size v) s = .next s := by
  show execRegisterWrite pg off size v s = _
  simp [execRegisterWrite, regAccess_false h]

theorem registerWrite_plainWrite {pg : Page} {off : BitVec 12} (v : U32) {s : State} (hw : s.writes pg = true) (hal : off.toNat % 4 = 0)
    (hlo : off.toNat ∉ pg.pairs) (hhi : 4 ≤ off.toNat → off.toNat - 4 ∉ pg.pairs) (hown : off.toNat ∉ pg.ownWrites) :
    exec (.registerWrite pg off 4 v) s = .next (s.plainWrite pg off.toNat v) := by
  have hhi' : off.toNat < 4 ∨ off.toNat - 4 ∉ pg.pairs := (Nat.lt_or_ge _ 4).imp_right hhi
  have hreach : (s.writes pg && regAccess off.toNat 4 && !(pg.pairs.contains off.toNat || (decide (4 ≤ off.toNat) && pg.pairs.contains (off.toNat - 4)))
      && !pg.ownWrites.contains off.toNat) = true := by
    simp [hw, regAccess, hal, hlo, hown, hhi']
  show execRegisterWrite pg off 4 v s = _
  simp only [execRegisterWrite]
  rw [if_pos hreach]

theorem State.plainWrite_rw (s : State) (pg : Page) (o : Nat) (v : U32) (h : pg.specialWrite o = false) :
    s.plainWrite pg o v = s.writeRw pg o v := by
  unfold State.plainWrite
  split
  case h_9 => rfl
  all_goals exact absurd h (by simp [Page.specialWrite])

theorem State.writeHbMiss_spec (s : State) (v : U32) :
    let i := s.field .stmQrm 0x040 0 3
    let t := s.writeHbMiss v
    t.slot i = { s.slot i with hbMiss := fieldOf v 16 4 } ∧ keptBut s.slot t.slot [i] ∧ t = { s with slots := t.slots } := by
  intro i t
  refine ⟨State.setSlot_same _ _ _, fun k hk => ?_, rfl⟩
  exact (State.setSlot_slot _ _ _ _).trans (if_neg (by simpa using hk))

/-- A change of one job's context alone. -/
theorem State.updJob_spec (s : State) (j : Nat) (f : Job → Job) :
    (s.updJob j f).job j = f (s.job j) ∧ keptBut s.job (s.updJob j f).job [j] ∧ s.updJob j f = { s with jobs := (s.updJob j f).jobs } := by
  refine ⟨State.setJob_same _ _ _, fun k hk => ?_, rfl⟩
  exact (State.setJob_job _ _ _ _).trans (if_neg (by simpa using hk))

/-- LOOP is written in test mode and is left as it is elsewhere (R479). -/
theorem State.writeLoop_spec (s : State) (pg : Page) (e : LinkEnd) (v : U32) :
    (s.writeLoop pg e v).reg pg 0x058 = (if s.testMode e then mergeBits (s.reg pg 0x058) v 3 else s.reg pg 0x058) ∧
      s.regsKept (s.writeLoop pg e v) [pg.base + 0x058] ∧ s.writeLoop pg e v = { s with regs := (s.writeLoop pg e v).regs } := by
  unfold State.writeLoop
  split
  · exact s.setBits_spec pg 0x058 v 0x3
  · exact ⟨rfl, fun _ _ => rfl, rfl⟩

/-- Settles O16: the RW bits of a plain register, and field by field the registers kept elsewhere. -/
theorem registerWriteSetsFields : Obligations.RegisterWriteSetsFields := by
  unfold Obligations.RegisterWriteSetsFields
  refine ⟨registerWrite_dropped, fun pg off v s => ?_⟩
  intro o special hw hal hlo hhi hown
  have hspecial : special = pg.specialWrite o := rfl
  have hexec : exec (.registerWrite pg off 4 v) s = .next (s.plainWrite pg o v) := registerWrite_plainWrite v hw hal hlo hhi hown
  rw [hspecial]
  refine ⟨fun hsp hreg => ?_, fun hsp d hreg => ?_, fun hsp => ⟨_, hexec, ?_⟩⟩
  · rw [hexec, State.plainWrite_rw _ _ _ _ hsp, State.writeRw, hreg]
  · rw [State.plainWrite_rw _ _ _ _ hsp, State.writeRw, hreg] at hexec
    exact ⟨_, hexec, s.setBits_spec pg o v d.rw⟩
  · rw [Page.specialWrite_iff] at hsp
    refine ⟨?_, ?_, ?_, ?_, ?_, ?_, ?_, ?_⟩
    · rintro rfl
      have ho : o = 0x044 := by simpa using hsp
      rw [ho]
      exact s.writeHbMiss_spec v
    · rintro rfl (ho : o = 0x048)
      rw [ho]
      exact s.updJob_spec _ _
    · rintro rfl (ho : o = 0x044)
      rw [ho]
      exact s.updJob_spec _ _
    · rintro rfl
      have ho : o = 0x048 := by simpa using hsp
      rw [ho]
      exact ⟨fun hi => if_pos hi, fun hi => if_neg hi⟩
    · rintro r rfl
      have ho : o = 0x058 := by simpa using hsp
      rw [ho]
      exact s.writeLoop_spec _ _ v
    · rintro d rfl
      have ho : o = 0x058 := by simpa using hsp
      rw [ho]
      exact s.writeLoop_spec _ _ v
    · rintro rfl
      have ho : o = 0x04C := by simpa using hsp
      rw [ho]
      rfl
    · rintro n rfl
      have ho : o = 0x018 := by simpa using hsp
      rw [ho]
      exact s.setBits_spec _ _ v _

end Sys2Proof.Machine
end

section
/-! Proofs: the tables of the module fabric page and Window Map loads (R346, R350 to R356, R373, R375). -/

namespace Sys2Proof.Machine

/-! ### Fields of words -/

theorem fieldOf_bit (v : U32) (i : Nat) : fieldOf v i 1 = (v.getLsbD i).toNat := (Nat.toNat_testBit _ _).symm

theorem fieldOf_and_mask (v : U32) {lo w n : Nat} (hn : n < 32) (h : lo + w ≤ n) :
    fieldOf (v &&& BitVec.ofNat 32 (2 ^ n - 1)) lo w = fieldOf v lo w := by
  have h1 : 1 ≤ 2 ^ n := Nat.one_le_two_pow
  have h2 : 2 ^ n ≤ 2 ^ 32 := Nat.pow_le_pow_right (by decide) hn.le
  have hmask : (v &&& BitVec.ofNat 32 (2 ^ n - 1)).toNat = v.toNat % 2 ^ n := by
    rw [BitVec.toNat_and, BitVec.toNat_ofNat, Nat.mod_eq_of_lt (by omega), Nat.and_two_pow_sub_one_eq_mod]
  unfold fieldOf
  rw [hmask]
  obtain ⟨k, rfl⟩ := Nat.exists_eq_add_of_le h
  rw [Nat.add_assoc, Nat.pow_add, Nat.mod_mul_right_div_self, Nat.mod_mod_of_dvd _ (Nat.pow_dvd_pow _ (Nat.le_add_right _ _))]

/-! ### The write-once number, the routes and the keys (R346, R373) -/

theorem selfWord_id (v : U32) : fieldOf ((v &&& 0x3FFFF) ||| 0x80000000) 0 18 = v.toNat % 2 ^ 18 := by
  unfold fieldOf
  rw [Nat.pow_zero, Nat.div_one, BitVec.toNat_or, Nat.or_mod_two_pow, BitVec.toNat_and]
  simp [Nat.and_two_pow_sub_one_eq_mod _ 18]

theorem selfIdWrite_first (v : U32) (s : State) (hr : s.hostReach = true) (h : (s.reg .wwyMod 0x040).getLsbD 31 = false) :
    ∃ t, exec (.selfIdWrite v) s = .next t ∧ t.selfId = v.toNat % 2 ^ 18 ∧
      (t.reg .wwyMod 0x040).getLsbD 31 = true ∧ s.regsKept t [Page.base .wwyMod + 0x040] ∧ t = { s with regs := t.regs } := by
  have hset : s.field .wwyMod 0x040 31 1 = 0 := by rw [State.field, fieldOf_bit, h]; rfl
  refine ⟨s.setReg .wwyMod 0x040 ((v &&& 0x3FFFF) ||| 0x80000000), ?_, ?_, ?_, s.setReg_regsKept _ _ _, rfl⟩
  · show execSelfIdWrite v s = _
    simp [execSelfIdWrite, hr, hset]
  · rw [State.selfId, State.field, State.setReg_same, selfWord_id]
  · rw [State.setReg_same]
    simp

theorem selfIdWrite_again (v : U32) (s : State) (h : (s.reg .wwyMod 0x040).getLsbD 31 = true) : exec (.selfIdWrite v) s = .next s := by
  have hset : s.field .wwyMod 0x040 31 1 ≠ 0 := by rw [State.field, fieldOf_bit, h]; decide
  show execSelfIdWrite v s = _
  simp [execSelfIdWrite, hset]

theorem routeWrite_sets (v : U32) (s : State) (hr : s.hostReach = true) :
    let sel := s.field .wwyMod 0x044 0 18
    ∃ t, exec (.routeWrite v) s = .next t ∧ t.routeOf sel = (v.toNat % 16, v.toNat / 16 % 16) ∧ keptBut s.routeOf t.routeOf [sel] ∧
      t = { s with route := t.route } := by
  intro sel
  refine ⟨{ s with route := SMap.set routeDefault s.route sel (v &&& 0xFF) }, ?_, ?_, fun k hk => ?_, rfl⟩
  · show execRouteWrite v s = _
    simp only [execRouteWrite, hr, if_true]
    rfl
  · have hlo := fieldOf_and_mask v (lo := 0) (w := 4) (n := 8) (by decide) (by decide)
    have hhi := fieldOf_and_mask v (lo := 4) (w := 4) (n := 8) (by decide) (by decide)
    simp only [State.routeOf, SMap.get_set_same]
    exact Prod.ext (hlo.trans (by simp [fieldOf])) hhi
  · simp only [State.routeOf, SMap.get_set_other _ _ _ (show k ≠ sel by simpa using hk)]

/-- Stopping the mirror changes its record and its page's error registers alone. -/
theorem State.stopTwin_frame (s : State) :
    s.regsKept s.stopTwin (errRegs .twn) ∧ s.stopTwin = { s with twin := s.stopTwin.twin, regs := s.stopTwin.regs } := by
  unfold State.stopTwin
  split
  · exact ⟨s.raise_regsKept .twn 0, rfl⟩
  · exact ⟨fun _ _ => rfl, rfl⟩

theorem State.stopTwin_mirroring (s : State) (h : s.twin.mirroring = true) :
    s.stopTwin.twin.mirroring = false ∧ s.stopTwin.twin.stopped = true ∧ s.stopTwin.twin.lastStep = s.twin.lastStep ∧
      s.stopTwin.twin.queue = s.twin.cur.toList ++ s.twin.queue ∧ s.raisedIn s.stopTwin .twn 0 := by
  rw [State.stopTwin, if_pos h]
  exact ⟨rfl, rfl, rfl, rfl, s.raise_raisedIn .twn 0⟩

theorem State.stopTwin_off (s : State) (h : s.twin.mirroring = false) : s.stopTwin = s := by
  rw [State.stopTwin, if_neg (by simp [h])]

theorem State.checkTwinKey_frame (s : State) :
    s.regsKept s.checkTwinKey (errRegs .twn) ∧ s.checkTwinKey = { s with twin := s.checkTwinKey.twin, regs := s.checkTwinKey.regs } := by
  unfold State.checkTwinKey
  split
  · exact s.stopTwin_frame
  · exact ⟨fun _ _ => rfl, rfl⟩

/-- Where the mirrored job's slot holds key 0 mirroring stops, and else the mirror is as it was (R350, R370). -/
theorem State.checkTwinKey_follows (s : State) : s.mirrorFollows s.checkTwinKey := by
  have hkey : s.checkTwinKey.jobKey s.twinJob = s.jobKey s.twinJob := by rw [s.checkTwinKey_frame.2]; rfl
  rw [State.mirrorFollows, hkey]
  split
  case isTrue h =>
    obtain ⟨hon, hmir, hzero⟩ := h
    rw [State.checkTwinKey, if_pos (by simp [hon, hzero])]
    exact s.stopTwin_mirroring hmir
  case isFalse h =>
    have hsame : s.checkTwinKey = s := by
      unfold State.checkTwinKey
      split
      case isTrue hc =>
        obtain ⟨hon, hzero⟩ : s.twinOn = true ∧ s.jobKey s.twinJob = 0 := by simpa using hc
        exact s.stopTwin_off (Bool.eq_false_iff.mpr fun hmir => h ⟨hon, hmir, hzero⟩)
      case isFalse => rfl
    rw [hsame]
    exact ⟨rfl, fun _ _ => rfl⟩

theorem keytabWrite_sets (v : U32) (s : State) (hr : s.hostReach = true) (hok : s.keytabRefused (s.field .wwyMod 0x04C 0 8) v = false) :
    let slot := s.field .wwyMod 0x04C 0 8
    ∃ t, exec (.keytabWrite v) s = .next t ∧ t.keyAt slot = v ∧ keptBut s.keyAt t.keyAt [slot] ∧ s.mirrorFollows t ∧
      s.regsKept t (errRegs .twn) ∧ t = { s with keytab := t.keytab, twin := t.twin, regs := t.regs } := by
  intro slot
  let u : State := { s with keytab := SMap.set wordDefault s.keytab slot v }
  obtain ⟨hregs, hframe⟩ := u.checkTwinKey_frame
  have hkeys : u.checkTwinKey.keyAt = u.keyAt := by rw [hframe]; rfl
  refine ⟨u.checkTwinKey, ?_, ?_, fun k hk => ?_, u.checkTwinKey_follows, hregs, ?_⟩
  · show execKeytabWrite v s = _
    simp only [execKeytabWrite, hr, hok, if_true, Bool.false_eq_true, if_false]
    rfl
  · rw [hkeys]
    exact SMap.get_set_same _ _ _ _
  · rw [hkeys]
    exact SMap.get_set_other _ _ _ (by simpa using hk)
  · have hkt : u.checkTwinKey.keytab = u.keytab := by rw [hframe]
    rw [hkt]
    exact hframe

theorem keytabWrite_refused (v : U32) (s : State) (hr : s.hostReach = true) (hno : s.keytabRefused (s.field .wwyMod 0x04C 0 8) v = true) :
    ∃ t, exec (.keytabWrite v) s = .next t ∧ s.raisedIn t .wwyMod 0 ∧ s.regsKept t (errRegs .wwyMod) ∧ t = { s with regs := t.regs } := by
  refine ⟨s.raise .wwyMod 0, ?_, s.raise_raisedIn _ _, s.raise_regsKept _ _, rfl⟩
  show execKeytabWrite v s = _
  simp only [execKeytabWrite, hr, hno, if_true]

/-! ### Window Map loads (R355, R356, R375) -/

theorem wmapLoad_starts (v : U32) (s : State) (hr : s.hostReach = true) :
    ∃ t, exec (.wmapLoad v) s = .next t ∧ t.reg .cnsMap 0x048 = mergeBits (s.reg .cnsMap 0x048) v 0xFFFFFF ∧ s.regsKept t [Page.base .cnsMap + 0x048] ∧
      t.wmapLoad = (if v.getLsbD 31 = true ∧ s.wmapLoad = none then some ⟨v.toNat % 256, v.toNat / 256 % 65536, s.pair .cnsMap 0x040 % 2 ^ 48⟩ else s.wmapLoad) ∧
      t = { s with regs := t.regs, wmapLoad := t.wmapLoad } := by
  let u := s.setBits .cnsMap 0x048 v 0xFFFFFF
  have hreg : u.reg .cnsMap 0x048 = mergeBits (s.reg .cnsMap 0x048) v 0xFFFFFF := State.setReg_same _ _ _ _
  have hkept : s.regsKept u [Page.base .cnsMap + 0x048] := s.setReg_regsKept _ _ _
  have hstay : (!v.getLsbD 31 || u.wmapLoad.isSome) = true ↔ ¬ (v.getLsbD 31 = true ∧ s.wmapLoad = none) := by
    have hu : u.wmapLoad = s.wmapLoad := rfl
    rw [hu, Bool.or_eq_true, Bool.not_eq_true', Option.isSome_iff_ne_none, not_and_or, Bool.not_eq_true]
  have hexec : exec (.wmapLoad v) s = .next (if !v.getLsbD 31 || u.wmapLoad.isSome then u
      else { u with wmapLoad := some ⟨fieldOf v 0 8, fieldOf v 8 16, s.pair .cnsMap 0x040 % 0x1000000000000⟩ }) := by
    show execWmapLoad v s = _
    simp only [execWmapLoad, hr, if_true]
    rfl
  by_cases hgo : v.getLsbD 31 = true ∧ s.wmapLoad = none
  · rw [if_neg (hstay.not.mpr (not_not.mpr hgo))] at hexec
    refine ⟨_, hexec, hreg, hkept, ?_, rfl⟩
    rw [if_pos hgo]
    simp [fieldOf]
  · rw [if_pos (hstay.mpr hgo)] at hexec
    refine ⟨_, hexec, hreg, hkept, ?_, rfl⟩
    rw [if_neg hgo]
    rfl

/-- What a load that is refused leaves: its result, the entry it names and the event, and no load in progress (R356). -/
theorem State.wmapResult_raise (s : State) (c : U16) (i : Nat) :
    let t := (({ s with wmapLoad := none } : State).wmapResult c i).raise .cnsMap 0
    (t.reg .cnsMap 0x04C = c.zeroExtend 32 ∧ t.reg .cnsMap 0x054 = BitVec.ofNat 32 i) ∧ s.raisedIn t .cnsMap 0 ∧
      t = { s with regs := t.regs, wmapLoad := none } := by
  intro t
  have hother (o : Nat) (h1 : o ≠ 0x04C) (h2 : o ≠ 0x054) : (({ s with wmapLoad := none } : State).wmapResult c i).reg .cnsMap o = s.reg .cnsMap o := by
    rw [State.wmapResult, State.setReg_other _ _ _ h2, State.setReg_other _ _ _ h1]
    rfl
  refine ⟨⟨?_, ?_⟩, ⟨?_, ?_⟩, rfl⟩
  · rw [State.raise_reg_other _ _ _ (by decide), State.wmapResult, State.setReg_other _ _ _ (by decide), State.setReg_same]
  · rw [State.raise_reg_other _ _ _ (by decide), State.wmapResult, State.setReg_same]
  · rw [State.raise_stat, hother _ (by decide) (by decide)]
  · rw [State.raise_mask, hother _ (by decide) (by decide)]

theorem State.wmapRefusal_busy (s : State) (l : Load) (lost : Option Nat) (h : s.jobBusy l.job = true) : s.wmapRefusal l lost = some (S_WMAP_BUSY, 0xFFFF) := by
  simp [State.wmapRefusal, h]

/-- A load with no case of R356: what its image must be. -/
theorem State.wmapRefusal_none {s : State} {l : Load} (h : s.wmapRefusal l none = none) :
    wmapOffenders s.selfId l.job (decide (s.jobKey l.job = 0)) (s.wmapImage l) = [] ∧
      (∀ e, e ∈ s.wmapImage l → ∀ x, x ∈ e.endpointFields → x ≤ 262143) ∧ s.wmapOthers l.job + (s.wmapImage l).length ≤ 32768 := by
  simp only [State.wmapRefusal, Option.isSome_none, Bool.false_eq_true, if_false, ite_eq_iff, reduceCtorEq, and_false, false_or] at h
  obtain ⟨-, -, hbad, hfar, hfull⟩ := h
  exact ⟨by simpa using hbad, by simpa using hfar, by omega⟩

/-- An image in which no entry offends: every entry is of the job and well formed, and no two conflict (R350, R356). -/
theorem wmapOffenders_nil {self job : Nat} {keyZero : Bool} {es : List WRaw} (h : wmapOffenders self job keyZero es = []) {e : WRaw} (he : e ∈ es) :
    e.job = job ∧ e.malformed = false ∧ e.leavesRegion = false ∧ (e.kindCode ≠ 2 → keyZero = false) ∧
      ∀ e', e' ∈ es → e.idx < e'.idx → conflicting e e' = false := by
  simp only [wmapOffenders, List.append_eq_nil_iff, List.map_eq_nil_iff, List.filter_eq_nil_iff] at h
  obtain ⟨⟨hsingle, hpairs⟩, -⟩ := h
  have h1 := hsingle e he
  have h2 := hpairs e he
  simp only [Bool.or_eq_true, Bool.and_eq_true, decide_eq_true_eq, not_or, not_and, not_not, Bool.not_eq_true] at h1
  simp only [List.any_eq_true, Bool.and_eq_true, decide_eq_true_eq, not_exists, not_and, Bool.not_eq_true] at h2
  obtain ⟨⟨⟨hjob, hform⟩, hregion⟩, hkey⟩ := h1
  exact ⟨hjob, hform, hregion, fun hk => Bool.eq_false_iff.mpr fun hz => hk (hkey hz), h2⟩

/-- Entries of the other jobs, counted in one pass or as a sum. -/
theorem State.wmapOthers_eq_sum (s : State) (j : Nat) : s.wmapOthers j = (s.wmap.map (fun p => if p.1 = j then 0 else p.2.length)).sum := by
  have hfold (l : List (Nat × List WEntry)) : ∀ n, l.foldl (fun t p => if p.1 = j then t else t + p.2.length) n =
      n + (l.map (fun p => if p.1 = j then 0 else p.2.length)).sum := by
    induction l with
    | nil => intro n; simp
    | cons p l ih =>
      intro n
      rw [List.foldl_cons, ih, List.map_cons, List.sum_cons]
      split <;> omega
  rw [State.wmapOthers, hfold, Nat.zero_add]

/-- The end of a load that some case of R356 refuses, where memory has delivered its image or the job is busy. -/
theorem wmapLoadDone_refused {s : State} {l : Load} (hl : s.wmapLoad = some l)
    (hread : s.jobBusy l.job = false → s.eccRead l.addr (32 * l.count) = (s, none)) {r : U16 × Nat} (hr : s.wmapRefusal l none = some r) :
    exec .wmapLoadDone s = .next ((({ s with wmapLoad := none } : State).wmapResult r.1 r.2).raise .cnsMap 0) := by
  have hecc : (if s.imageOk l.addr (32 * l.count) && !s.jobBusy l.job then s.eccRead l.addr (32 * l.count) else (s, none)) = (s, none) := by
    split
    case isTrue h => exact hread (by simpa using (Bool.and_eq_true_iff.mp h).2)
    case isFalse => rfl
  show execWmapLoadDone s = _
  simp only [execWmapLoadDone, hl, hecc, hr]

theorem wmapLoadDone_loads {s : State} {l : Load} (hl : s.wmapLoad = some l) (hread : s.eccRead l.addr (32 * l.count) = (s, none))
    (hr : s.wmapRefusal l none = none) :
    exec .wmapLoadDone s = .next
      (({ s with wmapLoad := none, wmap := SMap.set wmapDefault s.wmap l.job ((s.wmapImage l).map WRaw.entry) } : State).setReg .cnsMap 0x04C (S_OK.zeroExtend 32)) := by
  have hecc : (if s.imageOk l.addr (32 * l.count) && !s.jobBusy l.job then s.eccRead l.addr (32 * l.count) else (s, none)) = (s, none) := by
    rw [hread, ite_self]
  show execWmapLoadDone s = _
  simp only [execWmapLoadDone, hl, hecc, hr]

/-- Settles O45: the three tables of the module page, the start of a load, and its end by its refusals. -/
theorem moduleFabricTables : Obligations.ModuleFabricTables := by
  unfold Obligations.ModuleFabricTables
  refine ⟨fun v s hreach => ?_, fun s l hl => ?_⟩
  · intro sel slot refused
    have hrefused : s.keytabRefused slot v = true ↔ refused := by
      simp [State.keytabRefused, refused]
    exact ⟨selfIdWrite_first v s hreach, selfIdWrite_again v s, routeWrite_sets v s hreach,
      fun h => keytabWrite_sets v s hreach (Bool.eq_false_iff.mpr fun hc => h (hrefused.mp hc)),
      fun h => keytabWrite_refused v s hreach (hrefused.mpr h), wmapLoad_starts v s hreach⟩
  · intro es shown others
    refine ⟨fun hbusy => ?_, fun hok hidle hread => ⟨fun r hr => ?_, fun hr => ?_⟩⟩
    · exact ⟨_, wmapLoadDone_refused hl (fun h => absurd hbusy (by simp [h])) (s.wmapRefusal_busy l none hbusy), s.wmapResult_raise _ _⟩
    · exact ⟨_, wmapLoadDone_refused hl (fun _ => hread) hr, s.wmapResult_raise _ _⟩
    · obtain ⟨hsound, hends, hroom⟩ := State.wmapRefusal_none hr
      refine ⟨_, wmapLoadDone_loads hl hread hr, ⟨State.setReg_same _ _ _ _, ?_⟩, SMap.get_set_same _ _ _ _, fun k hk => ?_, rfl, fun e he => ?_, ?_⟩
      · rw [State.setReg_other _ _ _ (by decide), BitVec.ofNat_toNat, BitVec.setWidth_eq]
        rfl
      · exact SMap.get_set_other _ _ _ (by simpa using hk)
      · obtain ⟨hjob, hform, hregion, hkey, hpairs⟩ := wmapOffenders_nil hsound he
        exact ⟨hjob, hform, hregion, hends e he, fun hk => of_decide_eq_false (hkey hk), hpairs⟩
      · rw [State.wmapOthers_eq_sum] at hroom
        exact hroom

end Sys2Proof.Machine
end

section
/-! Proofs: the service port (R529 to R546). O57 fails in one place, shown here. Its clause on SVC_RESET says of every state, with no hypothesis on the log, that the log afterwards is the last 4,096 entries of a list that begins with the old log. The model cuts the log to 4,096 entries only where it adds a record, and a start in which nothing goes wrong adds none: a log that is longer than that, as no state with `State.logOk` has, then stays as it is. -/

namespace Sys2Proof.Machine

theorem length_keepLast_le {α : Type} (n : Nat) (l : List α) : (keepLast n l).length ≤ n := by
  rw [keepLast_eq, List.length_drop]
  omega

namespace OverfullLog

/-- Slot A with a header that passes every check of a boot, an empty manifest and no parts; one valid copy of each settings type, the lane map naming no port to train. -/
def flash : Flash :=
  { Flash.reset with
    slotA := ⟨some ⟨fwMagic, 1, 0, fwModel, 0, 0, 560, 7, 0, sha256 [], true, true⟩, [], [], [], [], true⟩
    settings := [⟨1, 0, 0, .laneMap []⟩, ⟨2, 0, 0, .lanes []⟩, ⟨3, 0, 0, .lanes []⟩, ⟨4, 0, 0, .repairs []⟩,
      ⟨5, 0, 0, .calib ⟨[], 0, 0⟩⟩, ⟨6, 0, 0, .anchors []⟩, ⟨7, 0, 0, .network []⟩, ⟨8, 0, 0, .defaults [] []⟩] }

/-- A module with one record more than the log holds, and an open session 0 that may operate it. -/
def state : State :=
  { State.reset with
    log := List.replicate 4097 ⟨0, 0, 0, 0, 0, none, 0, 0, 0, 0, 0, []⟩
    sessions := [(0, ⟨2 ^ roleOperate⟩)]
    flash := flash }

def request : SvcReq := ⟨0, false, 0⟩

/-- A start without a failure: every die well, both CXL ports linked. -/
def report : StartReport := ⟨true, [], false, [], [], [], [(0, 8, true, true), (1, 8, true, true)], [], 300, 0, [], 100⟩

def logLength : Res → Nat
  | .next t => t.log.length
  | _ => 0

theorem sessionHolds : state.sessionHolds request roleOperate := ⟨⟨2 ^ roleOperate⟩, rfl, rfl⟩

theorem not_powerBusy : state.powerBusy = false := rfl

/-- The reset leaves all 4,097 records. -/
theorem logLength_reset : logLength (exec (.svcReset request report) state) = 4097 := by decide +kernel

end OverfullLog

/-- Refutes O57: a reset without a failure leaves a log of 4,097 records as it is, where the clause has at most 4,096. -/
theorem not_servicePort : ¬ Obligations.ServicePort := by
  unfold Obligations.ServicePort
  rintro ⟨_, _, _, _, hreset⟩
  obtain ⟨_, hrestart⟩ := hreset OverfullLog.request OverfullLog.report OverfullLog.state OverfullLog.sessionHolds
  obtain ⟨t, hexec, _, _, _, _, _, _, _, ⟨l, hlog⟩, _⟩ := hrestart (.inl OverfullLog.not_powerBusy)
  have hlong : t.log.length = 4097 := by
    have h := OverfullLog.logLength_reset
    rwa [hexec] at h
  have hshort : t.log.length ≤ 4096 := hlog ▸ length_keepLast_le 4096 _
  omega

end Sys2Proof.Machine
end

section
/-! Proofs: every command and every idle step leaves the queue as it is and keeps the invariant of Safety.lean (R38, R49, R440). Each command's lemma puts together those of the operations it calls. -/

namespace Sys2Proof.Machine

/-- A command's outcome is a next state that keeps the queue and the invariant of `s0`. -/
def KeptBy (s0 : State) (r : Res) : Prop := ∃ t, r = .next t ∧ Keeps s0 t

theorem KeptBy.next {s0 t : State} (h : Keeps s0 t) : KeptBy s0 (.next t) := ⟨t, rfl, h⟩

theorem Keeps.ite {s0 a b : State} {c : Prop} [Decidable c] (ha : Keeps s0 a) (hb : Keeps s0 b) : Keeps s0 (if c then a else b) := by
  split
  · exact ha
  · exact hb

theorem Keeps.iteFst {β : Type} {s0 : State} {a b : State × β} {c : Prop} [Decidable c] (ha : Keeps s0 a.1) (hb : Keeps s0 b.1) :
    Keeps s0 (if c then a else b).1 := by
  split
  · exact ha
  · exact hb

section
variable {s0 s : State}

theorem execOpenStream_keeps (n : Fin 16384) (body : BitVec 60) (h : Keeps s0 s) : KeptBy s0 (execOpenStream n body s) :=
  .next (State.command_keeps _ _ _ h)

theorem execRing_keeps (n : Fin 16384) (body : BitVec 60) (h : Keeps s0 s) : KeptBy s0 (execRing n body s) :=
  .next (State.command_keeps _ _ _ h)

theorem execAbort_keeps (n : Fin 16384) (body : BitVec 60) (h : Keeps s0 s) : KeptBy s0 (execAbort n body s) :=
  .next (State.command_keeps _ _ _ h)

theorem execClose_keeps (n : Fin 16384) (body : BitVec 60) (h : Keeps s0 s) : KeptBy s0 (execClose n body s) :=
  .next (State.command_keeps _ _ _ h)

theorem execBar2DroppedWrite_keeps (off : BitVec 20) (size : Nat) (h : Keeps s0 s) : KeptBy s0 (execBar2DroppedWrite off size s) :=
  .next (.ite (State.raise_keeps _ _ (State.countSat_keeps _ _ _ h)) h)

theorem execBindingComplete_keeps (n : Fin 16384) (plan : Plan) (h : Keeps s0 s) : KeptBy s0 (execBindingComplete n plan s) := by
  refine .next (.ite ?_ h)
  split
  case h_1 s1 p hok =>
    split
    · exact .ite (State.bound_keeps _ _ _ _ (ImgCheck.keeps_ok hok (State.checkImage_keeps _ _ h))) h
    · exact h
  case h_2 => exact h

theorem execBindingFail_keeps (n : Fin 16384) (cause : BindCause) (h : Keeps s0 s) : KeptBy s0 (execBindingFail n cause s) := by
  refine .next (.ite h (.ite (State.bindFailed_keeps _ _ _ h) ?_))
  split
  · exact State.bindMemory_keeps _ _ h
  · split
    case h_1 s1 c l hfail => exact State.bindFailed_keeps _ _ _ (ImgCheck.keeps_fail hfail (State.checkImage_keeps _ _ h))
    case h_2 s1 p hok => exact .ite h (State.bindFailed_keeps _ _ _ (ImgCheck.keeps_ok hok (State.checkImage_keeps _ _ h)))

theorem execFiringStart_keeps (u : Fin 822) (h : Keeps s0 s) : KeptBy s0 (execFiringStart u s) := by
  have hstart : Keeps s (s.fireStart u.val State.collStart) :=
    State.fireStart_keeps (s0 := s) _ _ (.refl s) fun _ _ ht => State.collStart_keeps _ ht
  exact .next (.ite (State.startLathe_keeps _ h) (h.trans hstart))

theorem execFiringComplete_keeps (u : Fin 822) (obs : FireObs) (h : Keeps s0 s) : KeptBy s0 (execFiringComplete u obs s) :=
  .next (State.fireComplete_keeps _ _ _ h (fun _ _ _ ht => State.collComplete_keeps _ _ ht))

theorem execFiringFault_keeps (u : Fin 822) (cause : FaultCause) (flags : BitVec 4) (h : Keeps s0 s) : KeptBy s0 (execFiringFault u cause flags s) :=
  .next (State.faultOf_keeps _ _ _ h)

theorem execFiringWatchdog_keeps (u : Fin 822) (h : Keeps s0 s) : KeptBy s0 (execFiringWatchdog u s) := by
  refine .next ?_
  split
  · exact State.failFiring_keeps _ _ (State.recordStream_keeps _ _ (State.raise_keeps _ _ (State.countSat_keeps _ _ _ h)))
  · exact h

theorem execAbortDrainDone_keeps (n : Fin 16384) (h : Keeps s0 s) : KeptBy s0 (execAbortDrainDone n s) :=
  .next (State.drainDone_keeps _ h)

theorem execStallTimeout_keeps (n : Fin 16384) (h : Keeps s0 s) : KeptBy s0 (execStallTimeout n s) :=
  .next (.ite (State.updRec_keeps _ _ h id) h)

theorem execJobValidSet_keeps (v : U32) (h : Keeps s0 s) : KeptBy s0 (execJobValidSet v s) :=
  .next (.ite (State.writeJobCfg_keeps _ h) h)

theorem execJobValidClear_keeps (v : U32) (h : Keeps s0 s) : KeptBy s0 (execJobValidClear v s) :=
  .next (.ite (State.writeJobCfg_keeps _ h) h)

theorem execJobCfgFieldsWrite_keeps (v : U32) (h : Keeps s0 s) : KeptBy s0 (execJobCfgFieldsWrite v s) :=
  .next (.ite (State.writeJobCfg_keeps _ h) h)

theorem execClearBar2Drop_keeps (h : Keeps s0 s) : KeptBy s0 (execClearBar2Drop s) :=
  .next (.ite (State.setReg_keeps _ _ _ h) h)

theorem execReadLoLatch_keeps (r : Requester) (pg : Page) (off : BitVec 12) (size : Nat) (h : Keeps s0 s) : KeptBy s0 (execReadLoLatch r pg off size s) :=
  .next (State.emit_keeps _ (.iteFst (State.barRead_keeps _ _ h) h))

theorem execWriteLoHold_keeps (r : Requester) (pg : Page) (off : BitVec 12) (size : Nat) (v : U32) (h : Keeps s0 s) : KeptBy s0 (execWriteLoHold r pg off size v s) :=
  .next (.ite (.mk h) h)

theorem execWriteHiCommit_keeps (r : Requester) (pg : Page) (off : BitVec 12) (size : Nat) (v : U32) (h : Keeps s0 s) : KeptBy s0 (execWriteHiCommit r pg off size v s) :=
  .next (.ite (State.commitPair_keeps _ _ _ (.mk h)) h)

theorem execRegisterWrite_keeps (pg : Page) (off : BitVec 12) (size : Nat) (v : U32) (h : Keeps s0 s) : KeptBy s0 (execRegisterWrite pg off size v s) :=
  .next (.ite (State.plainWrite_keeps _ _ _ h) h)

theorem execErrStatClear_keeps (pg : Page) (v : U32) (h : Keeps s0 s) : KeptBy s0 (execErrStatClear pg v s) :=
  .next (.ite (State.setErr_keeps _ _ _ h) h)

theorem execErrMaskWrite_keeps (pg : Page) (v : U32) (h : Keeps s0 s) : KeptBy s0 (execErrMaskWrite pg v s) :=
  .next (.ite (State.setErr_keeps _ _ _ h) h)

theorem execClearCounts_keeps (pg : Page) (h : Keeps s0 s) : KeptBy s0 (execClearCounts pg s) :=
  .next (.ite (State.clearHeldCounts_keeps _ (Keeps.foldl _ _ (fun _ _ ht => State.setReg_keeps _ _ _ ht) h)) h)

theorem execNumflagsClear_keeps (pg : Page) (v : U32) (h : Keeps s0 s) : KeptBy s0 (execNumflagsClear pg v s) :=
  .next (.ite (State.clearFlags_keeps _ _ h) h)

theorem execBindCacheFlush_keeps (b : Fin 3) (h : Keeps s0 s) : KeptBy s0 (execBindCacheFlush b s) :=
  .next (.ite (.mk h) h)

theorem execMxaRepairWrite_keeps (n : Fin 192) (v : U32) (h : Keeps s0 s) : KeptBy s0 (execMxaRepairWrite n v s) :=
  .next (.ite h (.mk (State.setRepair_keeps _ _ h)))

theorem execInjectTallyOne_keeps (n : Fin 192) (v : U32) (h : Keeps s0 s) : KeptBy s0 (execInjectTallyOne n v s) :=
  .next (.ite (State.arm_keeps _ _ (State.setBits_keeps _ _ _ _ h)) h)

theorem execHbmTempSample_keeps (k : Fin 16) (t : Option (BitVec 8)) (h : Keeps s0 s) : KeptBy s0 (execHbmTempSample k t s) := by
  refine .next ?_
  split
  · exact State.stackTrip_keeps _ _ (State.tempSample_keeps _ _ h)
  · exact State.tempSample_keeps _ _ h

theorem execGddr7TempSample_keeps (g : Fin 32) (t : Option (BitVec 8)) (h : Keeps s0 s) : KeptBy s0 (execGddr7TempSample g t s) :=
  .next (State.tempSample_keeps _ _ h)

theorem execMemoryScrubRead_keeps (d : MemDev) (found : List ScrubFind) (retries : Nat) (h : Keeps s0 s) : KeptBy s0 (execMemoryScrubRead d found retries s) :=
  .next (.ite h (State.scrubNext_keeps _ (State.readNote_keeps _ (State.forEach_keeps _ _ h (fun _ _ ht => State.scrubLine_keeps _ _ _ ht)))))

theorem execSramScrubRead_keeps (m : Fin 195) (ecc : EccRead) (h : Keeps s0 s) : KeptBy s0 (execSramScrubRead m ecc s) := by
  refine .next (.ite (.mk ?_) h)
  split
  · exact State.record_keeps _ (State.meetUpsets_keeps _ _ h)
  · exact State.readNote_keeps _ (State.meetUpsets_keeps _ _ h)
  · exact State.meetUpsets_keeps _ _ h

theorem execHbcClearMax_keeps (d : MemDev) (h : Keeps s0 s) : KeptBy s0 (execHbcClearMax d s) :=
  .next (.ite (State.setReg_keeps _ _ _ h) h)

theorem execInjectMemCorr_keeps (d : MemDev) (h : Keeps s0 s) : KeptBy s0 (execInjectMemCorr d s) :=
  .next (.ite (State.arm_keeps _ _ h) h)

theorem execInjectMemUncorr_keeps (d : MemDev) (h : Keeps s0 s) : KeptBy s0 (execInjectMemUncorr d s) :=
  .next (.ite (State.arm_keeps _ _ h) h)

theorem execSlowTierCompletion_keeps (req : Nat) (data : Option (List U8)) (h : Keeps s0 s) : KeptBy s0 (execSlowTierCompletion req data s) := by
  refine .next ?_
  split
  · exact h
  · split
    · exact State.issueUio_keeps (State.endWait_keeps _ _ _ _ (State.dropUio_keeps _ h))
    · exact .ite (State.issueUio_keeps (State.endSlow_keeps _ _ _ _ _ (State.dropUio_keeps _ h))) (State.slowFailed_keeps _ h)
    · exact State.slowFailed_keeps _ h
    · exact State.issueUio_keeps (State.dropUio_keeps _ h)

theorem execSlowTierTimeout_keeps (req : Nat) (h : Keeps s0 s) : KeptBy s0 (execSlowTierTimeout req s) := by
  refine .next ?_
  split
  · exact State.slowFailed_keeps _ h
  · exact h

theorem execRegionValidSet_keeps (v : U32) (h : Keeps s0 s) : KeptBy s0 (execRegionValidSet v s) :=
  .next (.ite (State.regionCtrl_keeps _ h) h)

theorem execRegionValidClear_keeps (v : U32) (h : Keeps s0 s) : KeptBy s0 (execRegionValidClear v s) :=
  .next (.ite (State.regionCtrl_keeps _ h) h)

theorem execRegionBoundsWrite_keeps (limit : Bool) (v : U48) (h : Keeps s0 s) : KeptBy s0 (execRegionBoundsWrite limit v s) :=
  .next (.ite (State.regionBounds_keeps _ _ h) h)

theorem execInjectGrainOne_keeps (n : Fin 192) (h : Keeps s0 s) : KeptBy s0 (execInjectGrainOne n s) :=
  .next (.ite (State.arm_keeps _ _ h) h)

theorem execUpdateFirstFiring_keeps (b : Fin 3) (n : Fin 16384) (node : Nat) (h : Keeps s0 s) : KeptBy s0 (execUpdateFirstFiring b n node s) :=
  .next (.ite (State.firstFiring_keeps _ (State.beginPart_keeps _ _ _ _ _ h)) (State.beginPart_keeps _ _ _ _ _ h))

theorem execLatheRetainFiring_keeps (b : Fin 3) (n : Fin 16384) (node : Nat) (blocks : Nat) (h : Keeps s0 s) : KeptBy s0 (execLatheRetainFiring b n node blocks s) :=
  .next (.ite (State.retainFiring_keeps _ (State.beginPart_keeps _ _ _ _ _ h)) (State.beginPart_keeps _ _ _ _ _ h))

theorem execLatheApplyFiring_keeps (b : Fin 3) (n : Fin 16384) (node : Nat) (blocks : Nat) (h : Keeps s0 s) : KeptBy s0 (execLatheApplyFiring b n node blocks s) :=
  .next (.ite (State.applyFiring_keeps _ (State.beginPart_keeps _ _ _ _ _ h)) (State.beginPart_keeps _ _ _ _ _ h))

theorem execLatheCommitFiring_keeps (b : Fin 3) (n : Fin 16384) (node : Nat) (h : Keeps s0 s) : KeptBy s0 (execLatheCommitFiring b n node s) :=
  .next (.ite (State.commitFiring_keeps _ (State.beginPart_keeps _ _ _ _ _ h)) (State.beginPart_keeps _ _ _ _ _ h))

theorem execShadowFiring_keeps (b : Fin 3) (n : Fin 16384) (node : Nat) (h : Keeps s0 s) : KeptBy s0 (execShadowFiring b n node s) :=
  .next (.ite (State.shadowFire_keeps _ (State.beginPart_keeps _ _ _ _ _ h)) (State.beginPart_keeps _ _ _ _ _ h))

theorem execVerdict_keeps (b : Fin 3) (n : Fin 16384) (node : Nat) (h : Keeps s0 s) : KeptBy s0 (execVerdict b n node s) :=
  .next (.ite (State.verdictFiring_keeps _ (State.beginPart_keeps _ _ _ _ _ h)) (State.beginPart_keeps _ _ _ _ _ h))

theorem execRecipeLoad_keeps (b : Fin 3) (v : U32) (h : Keeps s0 s) : KeptBy s0 (execRecipeLoad b v s) :=
  .next (.ite (.mk h) h)

theorem execRecipeLoadDone_keeps (h : Keeps s0 s) : KeptBy s0 (execRecipeLoadDone s) := by
  refine .next ?_
  split
  · exact h
  · dsimp only
    split
    · exact State.capChanged_keeps (State.rcpResult_keeps _ (State.storeRecipe_keeps _ (.mk (State.loadedRecipe_keeps _ (.mk h)))))
    · exact State.raise_keeps _ _ (State.rcpResult_keeps _ (State.loadedRecipe_keeps _ (.mk h)))

theorem execCommitRecordRelease_keeps (b : Fin 3) (v : U32) (h : Keeps s0 s) : KeptBy s0 (execCommitRecordRelease b v s) :=
  .next (.ite (.ite (State.raise_keeps _ _ h) (.ite h (State.releaseAt_keeps _ h))) h)

theorem execInjectRecordOne_keeps (b : Fin 3) (h : Keeps s0 s) : KeptBy s0 (execInjectRecordOne b s) :=
  .next (.ite (State.arm_keeps _ _ h) h)

theorem execLatheInjectGrainOne_keeps (b : Fin 3) (h : Keeps s0 s) : KeptBy s0 (execLatheInjectGrainOne b s) :=
  .next (.ite (State.arm_keeps _ _ h) h)

theorem execPortSignalDetect_keeps (p : Fin 12) (h : Keeps s0 s) : KeptBy s0 (execPortSignalDetect p s) :=
  .next (.ite (State.setPort_keeps _ _ h) h)

theorem execLinkTrainingDone_keeps (p : Fin 12) (h : Keeps s0 s) : KeptBy s0 (execLinkTrainingDone p s) :=
  .next (.ite (State.setPort_keeps _ _ h) h)

theorem execFecLock_keeps (p : Fin 12) (h : Keeps s0 s) : KeptBy s0 (execFecLock p s) :=
  .next (.ite (State.setPort_keeps _ _ h) h)

theorem execLinkTrainRetry_keeps (p : Fin 12) (h : Keeps s0 s) : KeptBy s0 (execLinkTrainRetry p s) :=
  .next (.ite (State.setPort_keeps _ _ h) h)

theorem execInitSendTimer_keeps (p : Fin 12) (h : Keeps s0 s) : KeptBy s0 (execInitSendTimer p s) :=
  .next (.ite (State.tryUp_keeps _ (State.emit_keeps _ (State.setPort_keeps _ _ h))) h)

theorem execInitUnitReceived_keeps (p : Fin 12) (u : LinkUnit) (h : Keeps s0 s) : KeptBy s0 (execInitUnitReceived p u s) :=
  .next (.ite (.ite (State.tryUp_keeps _ (State.setPort_keeps _ _ (State.countFec_keeps _ _ h))) (State.countFec_keeps _ _ h)) h)

theorem execDataUnitReceived_keeps (p : Fin 12) (u : LinkUnit) (h : Keeps s0 s) : KeptBy s0 (execDataUnitReceived p u s) := by
  refine .next (.ite ?_ h)
  dsimp only
  split
  · exact .ite (State.nakUnit_keeps _ (State.raise_keeps _ _ (State.countSat_keeps _ _ _ (State.setPort_keeps _ _ (State.countFec_keeps _ _ h))))) (State.nakUnit_keeps _ (State.setPort_keeps _ _ (State.countFec_keeps _ _ h)))
  · exact .ite (State.acceptFrame_keeps _ _ _ (State.takeWord_keeps _ _ (State.setPort_keeps _ _ (State.countFec_keeps _ _ h)))) (State.takeWord_keeps _ _ (State.setPort_keeps _ _ (State.countFec_keeps _ _ h)))

theorem execEmptyUnitReceived_keeps (p : Fin 12) (u : LinkUnit) (h : Keeps s0 s) : KeptBy s0 (execEmptyUnitReceived p u s) :=
  .next (.ite (.ite (State.takeWord_keeps _ _ (State.countFec_keeps _ _ h)) (State.nakUnit_keeps _ (State.countFec_keeps _ _ h))) h)

theorem execReplayTimeout_keeps (p : Fin 12) (h : Keeps s0 s) : KeptBy s0 (execReplayTimeout p s) :=
  .next (.ite (State.startReplay_keeps _ h) h)

theorem execAckSendTimer_keeps (p : Fin 12) (h : Keeps s0 s) : KeptBy s0 (execAckSendTimer p s) :=
  .next (.ite (State.sendEmpty_keeps _ h) h)

theorem execUnitSend_keeps (p : Fin 12) (h : Keeps s0 s) : KeptBy s0 (execUnitSend p s) := by
  refine .next (.ite h ?_)
  refine .ite ?_ ?_
  · split
    · exact State.sendData_keeps _ _ _ (State.setPort_keeps _ _ h)
    · exact State.setPort_keeps _ _ h
  · split
    · exact .ite (State.sendData_keeps _ _ _ (State.setPort_keeps _ _ h)) h
    · exact h

theorem execLinkDown_keeps (p : Fin 12) (h : Keeps s0 s) : KeptBy s0 (execLinkDown p s) :=
  .next (.ite (State.loseLink_keeps _ _ h) h)

theorem execFrameForward_keeps (p : Fin 12) (h : Keeps s0 s) : KeptBy s0 (execFrameForward p s) := by
  refine .next ?_
  split
  · refine .ite h (.ite (State.countDrop_keeps _ (State.popFrame_keeps _ _ h)) (.ite (State.forwardBcast_keeps _ _ (State.popFrame_keeps _ _ h)) (.ite (State.countDrop_keeps _ (State.popFrame_keeps _ _ h)) ?_)))
    dsimp only
    split
    · exact .ite (State.enqueue_keeps _ _ (State.popFrame_keeps _ _ h)) (State.countDrop_keeps _ (State.popFrame_keeps _ _ h))
    · exact State.countDrop_keeps _ (State.popFrame_keeps _ _ h)
  · exact h

theorem execWriteFrame_keeps (p : Fin 12) (h : Keeps s0 s) : KeptBy s0 (execWriteFrame p s) :=
  .next (State.onJobFrame_keeps _ _ _ h (fun _ _ _ _ ht => State.inboundWrite_keeps _ _ ht))

theorem execReadReqFrame_keeps (p : Fin 12) (h : Keeps s0 s) : KeptBy s0 (execReadReqFrame p s) := by
  refine .next (State.onJobFrame_keeps _ _ _ h fun _ _ _ _ ht => ?_)
  refine .ite ?_ (State.refuseRead_keeps _ _ ht)
  split
  · dsimp only
    split
    · exact State.refuseRead_keeps _ _ (State.eccRead_keeps _ _ ht)
    · exact State.send_keeps _ (State.eccRead_keeps _ _ ht)
  · exact State.refuseRead_keeps _ _ ht

theorem execReadRespFrame_keeps (p : Fin 12) (h : Keeps s0 s) : KeptBy s0 (execReadRespFrame p s) := by
  refine .next (State.onJobFrame_keeps _ _ _ h fun _ _ _ _ ht => ?_)
  split
  · exact .ite ht (.ite (State.detectedFault_keeps _ _ (State.grainMiss_keeps _ _ _ _ ht)) (State.endWait_keeps _ _ _ _ ht))
  · exact ht

theorem execWriteAckFrame_keeps (p : Fin 12) (h : Keeps s0 s) : KeptBy s0 (execWriteAckFrame p s) := by
  refine .next (State.onJobFrame_keeps _ _ _ h fun _ _ _ _ ht => ?_)
  split
  · exact .ite (State.detectedFault_keeps _ _ ht) (.ite (State.endWait_keeps _ _ _ _ ht) ht)
  · exact State.twinAck_keeps _ _ ht

theorem execWindowRequestTimeout_keeps (req : Nat) (h : Keeps s0 s) : KeptBy s0 (execWindowRequestTimeout req s) := by
  refine .next ?_
  split
  · exact State.detectedFault_keeps _ _ h
  · exact h

theorem execCollReadyFrame_keeps (p : Fin 12) (h : Keeps s0 s) : KeptBy s0 (execCollReadyFrame p s) := by
  refine .next (State.onJobFrame_keeps _ _ _ h fun _ _ _ _ ht => ?_)
  split
  · exact .ite (State.takeReady_keeps _ _ ht) ht
  · exact .ite (State.holdReady_keeps _ _ ht) (State.countStale_keeps _ _ _ ht)

theorem execCollDataFrame_keeps (p : Fin 12) (h : Keeps s0 s) : KeptBy s0 (execCollDataFrame p s) := by
  refine .next (State.onJobFrame_keeps _ _ _ h fun _ _ _ _ ht => ?_)
  split
  · exact .ite (.ite (State.goodBlock_keeps _ _ _ ht) (State.badBlock_keeps _ _ _ ht)) ht
  · exact .ite ht (State.countStale_keeps _ _ _ ht)

theorem execCollReadyRepeat_keeps (b : Fin 3) (h : Keeps s0 s) : KeptBy s0 (execCollReadyRepeat b s) := by
  refine .next (State.forEach_keeps _ _ h fun _ _ ht => ?_)
  dsimp only
  split
  · exact State.pump_keeps _ _ _ (.ite (State.resend_keeps _ _ ht) (State.sendReadys_keeps _ (State.resend_keeps _ _ ht)))
  · exact State.resend_keeps _ _ ht

theorem execCollectiveTimeout_keeps (b : Fin 3) (n : Fin 16384) (h : Keeps s0 s) : KeptBy s0 (execCollectiveTimeout b n s) := by
  refine .next ?_
  split
  · exact .ite h (State.failColl_keeps _ _ h)
  · exact h

theorem execReaddCheckDecided_keeps (b : Fin 3) (block : Nat) (agree : Bool) (h : Keeps s0 s) : KeptBy s0 (execReaddCheckDecided b block agree s) := by
  refine .next ?_
  split
  · exact h
  · exact .ite (State.forEach_keeps _ _ (State.clearCheck_keeps _ _ _ (.mk h)) (fun _ _ ht => State.sendHeld_keeps _ _ ht)) (State.readdMiss_keeps _ (State.disarm_keeps _ _ (.mk h)))

theorem execTwinFrame_keeps (p : Fin 12) (h : Keeps s0 s) : KeptBy s0 (execTwinFrame p s) := by
  refine .next (State.onJobFrame_keeps _ _ _ h fun _ _ _ _ ht => ?_)
  split
  · exact .ite (State.twinReply_keeps _ _ _ _ (State.storeInbound_keeps _ _ ht)) (State.twinReply_keeps _ _ _ _ (State.inboundMiss_keeps _ _ _ ht))
  · exact State.twinReply_keeps _ _ _ _ ht

theorem execTwinMirrorSend_keeps (h : Keeps s0 s) : KeptBy s0 (execTwinMirrorSend s) := by
  refine .next ?_
  split
  · exact .ite (State.twinGo_keeps (.mk h)) h
  · exact h

theorem execSwellFrame_keeps (p : Fin 12) (h : Keeps s0 s) : KeptBy s0 (execSwellFrame p s) :=
  .next (State.onFrame_keeps _ _ _ h (fun _ _ _ ht => .ite (State.acceptSetpoint_keeps _ _ (.mk ht)) (State.raise_keeps _ _ (State.countDrop_keeps _ ht))))

theorem execHeartbeatFrame_keeps (p : Fin 12) (h : Keeps s0 s) : KeptBy s0 (execHeartbeatFrame p s) := by
  refine .next (State.onFrame_keeps _ _ _ h fun _ _ _ ht => ?_)
  dsimp only
  split
  · exact State.checkQuorum_keeps _ (State.setSlot_keeps _ _ ht)
  · exact State.countSat_keeps _ _ _ ht

theorem execDigestFrame_keeps (p : Fin 12) (h : Keeps s0 s) : KeptBy s0 (execDigestFrame p s) := by
  refine .next (State.onFrame_keeps _ _ _ h fun _ _ _ ht => ?_)
  split
  · exact State.countSat_keeps _ _ _ ht
  · split
    · exact State.countSat_keeps _ _ _ ht
    · exact .ite (State.countSat_keeps _ _ _ ht) (State.storeDigest_keeps _ _ _ _ ht)

theorem execCleanFrame_keeps (p : Fin 12) (h : Keeps s0 s) : KeptBy s0 (execCleanFrame p s) := by
  refine .next (State.onFrame_keeps _ _ _ h fun _ _ _ ht => ?_)
  dsimp only
  split
  · exact .ite (State.countSat_keeps _ _ _ ht) (State.checkHorizon_keeps _ (State.setSlot_keeps _ _ ht))
  · exact State.countSat_keeps _ _ _ ht

theorem execRetractFrame_keeps (p : Fin 12) (h : Keeps s0 s) : KeptBy s0 (execRetractFrame p s) := by
  refine .next (State.onFrame_keeps _ _ _ h fun _ _ _ ht => ?_)
  split
  · exact State.recordEach_keeps _ _ (State.retractEffects_keeps _ _ (State.raise_keeps _ _ (State.setSlot_keeps _ _ ht)))
  · exact State.countSat_keeps _ _ _ ht

theorem execPortRetrain_keeps (p : Fin 12) (h : Keeps s0 s) : KeptBy s0 (execPortRetrain p s) :=
  .next (.ite (State.retrain_keeps _ h) h)

theorem execPortEnableWrite_keeps (p : Fin 12) (v : U32) (h : Keeps s0 s) : KeptBy s0 (execPortEnableWrite p v s) := by
  refine .next (.ite ?_ h)
  have hset := State.setBits_keeps (wwyPage p.val) 0x044 v 0xF h
  dsimp only
  generalize hs1 : s.setBits (wwyPage p.val) 0x044 v 0xF = s1 at hset ⊢
  have hdown (t : State) (ht : Keeps s0 t) : Keeps s0 (t.setPort p.val { (t.port p.val).downed with train := 0, signal := false }) := State.setPort_keeps _ _ ht
  have henable := Keeps.ite (c := v.toNat.testBit 0 = true) (.ite (c := (s1.port p.val).train = 0) (State.setPort_keeps p.val { s1.port p.val with train := 1 } hset) hset)
    (hdown _ (.ite (c := (s1.port p.val).up = true) (State.loseLink_keeps p.val 4 hset) hset))
  exact .ite (State.retrain_keeps _ henable) henable

theorem execKeyPhaseSwitch_keeps (p : Fin 12) (h : Keeps s0 s) : KeptBy s0 (execKeyPhaseSwitch p s) :=
  .next (.ite (State.setPort_keeps _ _ h) h)

theorem execKeyNextWrite_keeps (p : Fin 12) (i : Fin 8) (v : U32) (h : Keeps s0 s) : KeptBy s0 (execKeyNextWrite p i v s) :=
  .next (.ite (State.setPort_keeps _ _ h) h)

theorem execSelfIdWrite_keeps (v : U32) (h : Keeps s0 s) : KeptBy s0 (execSelfIdWrite v s) :=
  .next (.ite (State.setReg_keeps _ _ _ h) h)

theorem execRouteWrite_keeps (v : U32) (h : Keeps s0 s) : KeptBy s0 (execRouteWrite v s) :=
  .next (.ite (.mk h) h)

theorem execKeytabWrite_keeps (v : U32) (h : Keeps s0 s) : KeptBy s0 (execKeytabWrite v s) :=
  .next (.ite (.ite (State.raise_keeps _ _ h) (State.checkTwinKey_keeps (.mk h))) h)

theorem execInjectCrcOne_keeps (p : Fin 12) (h : Keeps s0 s) : KeptBy s0 (execInjectCrcOne p s) :=
  .next (.ite (State.arm_keeps _ _ h) h)

theorem execWmapLoad_keeps (v : U32) (h : Keeps s0 s) : KeptBy s0 (execWmapLoad v s) :=
  .next (.ite (.ite (State.setBits_keeps _ _ _ _ h) (.mk (State.setBits_keeps _ _ _ _ h))) h)

theorem execWmapLoadDone_keeps (h : Keeps s0 s) : KeptBy s0 (execWmapLoadDone s) := by
  refine .next ?_
  split
  case h_1 => exact h
  case h_2 l _ =>
    generalize hread : (if s.imageOk l.addr (32 * l.count) && !s.jobBusy l.job then s.eccRead l.addr (32 * l.count) else (s, none)) = e
    have he : Keeps s0 e.1 := hread ▸ .iteFst (State.eccRead_keeps _ _ h) h
    dsimp only
    split
    · exact State.raise_keeps _ _ (State.wmapResult_keeps _ _ (.mk he))
    · exact State.setReg_keeps _ _ _ (.mk (.mk he))

theorem execTwinEnable_keeps (v : U32) (h : Keeps s0 s) : KeptBy s0 (execTwinEnable v s) :=
  .next (.ite (State.writeTwin_keeps _ h) h)

theorem execTwinDisable_keeps (v : U32) (h : Keeps s0 s) : KeptBy s0 (execTwinDisable v s) :=
  .next (.ite (State.writeTwin_keeps _ h) h)

theorem execHeartbeatSend_keeps (h : Keeps s0 s) : KeptBy s0 (execHeartbeatSend s) :=
  .next (.ite (State.forEach_keeps _ _ h (fun _ _ ht => State.sendHeartbeat_keeps _ ht)) h)

theorem execSeatListLoad_keeps (v : U32) (h : Keeps s0 s) : KeptBy s0 (execSeatListLoad v s) :=
  .next (.ite (.ite (State.setBits_keeps _ _ _ _ h) (.mk (State.setBits_keeps _ _ _ _ h))) h)

theorem execSeatListLoadDone_keeps (h : Keeps s0 s) : KeptBy s0 (execSeatListLoadDone s) := by
  refine .next ?_
  split
  case h_1 => exact h
  case h_2 l _ =>
    generalize hread : (if s.imageOk l.addr (4 * l.count) && !s.jobBusy l.job then s.eccRead l.addr (4 * l.count) else (s, none)) = e
    have he : Keeps s0 e.1 := hread ▸ .iteFst (State.eccRead_keeps _ _ h) h
    dsimp only
    split
    · exact State.seatResult_keeps _ _ (.mk he)
    · split
      · exact State.seatResult_keeps _ _ (.mk he)
      · exact State.seatResult_keeps _ _ (State.setSlot_keeps _ _ (.mk he))

theorem execSeatLivenessExpiry_keeps (i : Fin 8) (seat : Nat) (h : Keeps s0 s) : KeptBy s0 (execSeatLivenessExpiry i seat s) :=
  .next (.ite (State.checkQuorum_keeps _ (.ite (State.stopTwin_keeps (State.setSlot_keeps _ _ h)) (State.setSlot_keeps _ _ h))) h)

theorem execStreamFreeze_keeps (n : Fin 16384) (h : Keeps s0 s) : KeptBy s0 (execStreamFreeze n s) :=
  .next (.ite (State.updRec_keeps _ _ h id) h)

theorem execQuorumResume_keeps (h : Keeps s0 s) : KeptBy s0 (execQuorumResume s) :=
  .next (.ite (.ite (State.forEach_keeps _ _ h fun _ _ ht => State.updRec_keeps _ _ ht id) (State.raise_keeps _ _ h)) h)

theorem execQuorumRefuse_keeps (h : Keeps s0 s) : KeptBy s0 (execQuorumRefuse s) :=
  .next (.ite (State.forEach_keeps _ _ h (fun _ _ ht => State.failStream_keeps _ _ _ ht)) h)

theorem execSeatSlotUnload_keeps (h : Keeps s0 s) : KeptBy s0 (execSeatSlotUnload s) :=
  .next (.ite (.ite (State.raise_keeps _ _ h) (State.checkHorizon_keeps _ (State.setSlot_keeps _ _ h))) h)

theorem execCleanSend_keeps (j : Fin 256) (h : Keeps s0 s) : KeptBy s0 (execCleanSend j s) := by
  refine .next ?_
  split
  · exact .ite (State.checkHorizon_keeps _ (State.sendClean_keeps _ (State.setJob_keeps _ _ h))) h
  · exact h

theorem execTuningDue_keeps (u : Fin 822) (h : Keeps s0 s) : KeptBy s0 (execTuningDue u s) :=
  .next (.ite (State.setTune_keeps _ _ h) h)

theorem execTuningDeadline_keeps (u : Fin 822) (h : Keeps s0 s) : KeptBy s0 (execTuningDeadline u s) :=
  .next (.ite (State.setTune_keeps _ _ h) h)

theorem execTuningStart_keeps (u : Fin 822) (h : Keeps s0 s) : KeptBy s0 (execTuningStart u s) :=
  .next (.ite h (.ite (.ite (State.beginPass_keeps _ (State.reserveForPass_keeps _ h)) (State.reserveForPass_keeps _ h)) (.ite h (State.beginPass_keeps _ h))))

theorem execTuningResult_keeps (u : Fin 822) (obs : TuneObs) (h : Keeps s0 s) : KeptBy s0 (execTuningResult u obs s) :=
  .next (.ite (State.tuneVerdict_keeps _ _ _ (State.countWrap_keeps _ _ _ (.ite (State.disarm_keeps _ _ h) h))) h)

theorem execTuningRunNow_keeps (h : Keeps s0 s) : KeptBy s0 (execTuningRunNow s) :=
  .next (.ite (State.dueNow_keeps _ h) h)

theorem execTuningRotateAll_keeps (h : Keeps s0 s) : KeptBy s0 (execTuningRotateAll s) :=
  .next (.ite (State.rotateAll_keeps h) h)

theorem execInjectTuningFail_keeps (h : Keeps s0 s) : KeptBy s0 (execInjectTuningFail s) :=
  .next (.ite (State.arm_keeps _ _ h) h)

theorem execInjectReaddOne_keeps (h : Keeps s0 s) : KeptBy s0 (execInjectReaddOne s) :=
  .next (.ite (State.arm_keeps _ _ h) h)

theorem execClearRetracted_keeps (h : Keeps s0 s) : KeptBy s0 (execClearRetracted s) :=
  .next (.ite (.ite (State.raise_keeps _ _ h) (State.updJob_keeps _ _ h)) h)

theorem execUnisonEntryTimeout_keeps (j : Fin 256) (key : U32) (step : U48) (h : Keeps s0 s) : KeptBy s0 (execUnisonEntryTimeout j key step s) := by
  refine .next ?_
  split
  · exact State.unmatched_keeps _ (.mk h)
  · exact h

theorem execUnisonClear_keeps (h : Keeps s0 s) : KeptBy s0 (execUnisonClear s) :=
  .next (.ite (State.updJob_keeps _ _ h) h)

theorem execFlitReceived_keeps (e : LinkEnd) (b : Fin 16) (f : Flit) (h : Keeps s0 s) : KeptBy s0 (execFlitReceived e b f s) :=
  .next (.ite h (.ite (State.onPage_keeps _ _ h (fun _ _ ht => State.countSat_keeps _ _ _ ht)) (.ite h (.ite (State.emit_keeps _ (State.ackedBy_keeps _ _ _ (State.setBundle_keeps _ _ _ h))) (.ite (State.peerLost_keeps _ _ (State.ackedBy_keeps _ _ _ (State.setBundle_keeps _ _ _ h))) (State.ackedBy_keeps _ _ _ (State.setBundle_keeps _ _ _ h)))))))

theorem execFlitReplayTimeout_keeps (e : LinkEnd) (b : Fin 16) (h : Keeps s0 s) : KeptBy s0 (execFlitReplayTimeout e b s) :=
  .next (.ite (.ite (State.retireBundle_keeps _ _ _ h) (State.forEach_keeps _ _ (State.onPage_keeps _ _ (State.setBundle_keeps _ _ _ h) (fun _ _ ht => State.countSat_keeps _ _ _ ht)) (fun _ _ ht => State.emit_keeps _ ht))) h)

theorem execLaneTestSend_keeps (e : LinkEnd) (b : Fin 16) (h : Keeps s0 s) : KeptBy s0 (execLaneTestSend e b s) :=
  .next (.ite (State.emit_keeps _ (State.sendFlit_keeps _ _ _ _ h)) h)

theorem execLaneTestReceived_keeps (e : LinkEnd) (b : Fin 16) (found : LaneCheck) (h : Keeps s0 s) : KeptBy s0 (execLaneTestReceived e b found s) :=
  .next (.ite (State.endInjection_keeps _ _ _ (State.forEach_keeps _ _ h (fun _ _ ht => State.groupTested_keeps _ _ _ _ _ ht))) h)

theorem execClockMonitorWindow_keeps (e : LinkEnd) (edges : List Nat) (expected : Nat) (h : Keeps s0 s) : KeptBy s0 (execClockMonitorWindow e edges expected s) :=
  .next (.ite (.ite (.ite (State.peerLost_keeps _ _ (State.setLink_keeps _ _ h)) (State.setLink_keeps _ _ h)) (State.forEach_keeps _ _ (State.setLink_keeps _ _ h) (fun _ _ ht => .ite (State.clockStopped_keeps _ _ ht) ht))) (.ite (State.setLink_keeps _ _ h) h))

theorem execResetNoticeReceived_keeps (e : LinkEnd) (h : Keeps s0 s) : KeptBy s0 (execResetNoticeReceived e s) :=
  .next (.ite (State.peerLost_keeps _ _ h) h)

theorem execBudgetReceived_keeps (d : Die) (m : Budget) (h : Keeps s0 s) : KeptBy s0 (execBudgetReceived d m s) :=
  .next (.ite (State.setDie_keeps _ _ h) h)

theorem execBudgetRepeat_keeps (d : Die) (h : Keeps s0 s) : KeptBy s0 (execBudgetRepeat d s) :=
  .next (.ite (State.putBudget_keeps _ _ h) h)

theorem execReportSend_keeps (d : Die) (powerW8 : U16) (tempC : U8) (h : Keeps s0 s) : KeptBy s0 (execReportSend d powerW8 tempC s) := by
  refine .next (.ite ?_ h)
  split
  · exact State.sendMessage_keeps _ _ (State.emit_keeps _ h)
  · exact State.emit_keeps _ h

theorem execReportReceived_keeps (d : Die) (m : DieReport) (h : Keeps s0 s) : KeptBy s0 (execReportReceived d m s) := by
  refine .next (.ite (.ite ?_ (State.updDie_keeps _ _ h)) h)
  split
  · exact State.raise_keeps _ _ (State.updDie_keeps _ _ h)
  · exact State.raise_keeps _ _ (State.updDie_keeps _ _ h)

theorem execBudgetFallback_keeps (d : Die) (h : Keeps s0 s) : KeptBy s0 (execBudgetFallback d s) := by
  refine .next (.ite ?_ h)
  split
  · exact .ite (.ite (State.setDie_keeps _ _ (State.draw_keeps h)) (State.setDie_keeps _ _ h)) (State.setDie_keeps _ _ h)
  · exact State.setDie_keeps _ _ h

theorem execLinkTestStart_keeps (e : LinkEnd) (h : Keeps s0 s) : KeptBy s0 (execLinkTestStart e s) :=
  .next (.ite (State.setBits_keeps _ _ _ _ h) h)

theorem execLinkTestDone_keeps (e : LinkEnd) (errs : LaneErrors) (logic : Bool) (sram : Bool) (h : Keeps s0 s) : KeptBy s0 (execLinkTestDone e errs logic sram s) :=
  .next (.ite (State.setBits_keeps _ _ _ _ (State.setLink_keeps _ _ h)) h)

theorem execInjectLaneFail_keeps (e : LinkEnd) (h : Keeps s0 s) : KeptBy s0 (execInjectLaneFail e s) := by
  refine .next ?_
  split
  · exact .ite (State.arm_keeps _ _ h) h
  · exact h

theorem execSetpointWrite_keeps (v : U32) (h : Keeps s0 s) : KeptBy s0 (execSetpointWrite v s) :=
  .next (.ite (.ite (State.acceptSetpoint_keeps _ _ (State.setBits_keeps _ _ _ _ h)) (State.setBits_keeps _ _ _ _ h)) h)

theorem execSwellControlLoop_keeps (obs : SwellObs) (h : Keeps s0 s) : KeptBy s0 (execSwellControlLoop obs s) := by
  refine .next (.ite (State.forEach_keeps _ _ (.ite (State.swellCompute_keeps (.ite (State.raise_keeps _ _ (.mk h)) (.mk h))) (.ite (State.raise_keeps _ _ (.mk h)) (.mk h))) fun _ _ ht => ?_) h)
  split
  · exact State.thermalTrip_keeps _ _ ht
  · exact ht

theorem execDescantRestore_keeps (h : Keeps s0 s) : KeptBy s0 (execDescantRestore s) :=
  .next (.ite (State.forEach_keeps _ _ (.mk h) (fun _ _ ht => State.sendBudget_keeps _ _ _ ht)) h)

theorem execPowerReqRun_keeps (h : Keeps s0 s) : KeptBy s0 (execPowerReqRun s) :=
  .next (State.requestPower_keeps _ h)

theorem execPowerReqHold_keeps (h : Keeps s0 s) : KeptBy s0 (execPowerReqHold s) :=
  .next (State.requestPower_keeps _ h)

theorem execPowerReqBreath_keeps (h : Keeps s0 s) : KeptBy s0 (execPowerReqBreath s) :=
  .next (State.requestPower_keeps _ h)

theorem execPowerReqOff_keeps (h : Keeps s0 s) : KeptBy s0 (execPowerReqOff s) :=
  .next (State.requestPower_keeps _ h)

theorem execHoldReached_keeps (h : Keeps s0 s) : KeptBy s0 (execHoldReached s) := by
  refine .next (.ite ?_ h)
  split
  · exact .mk (State.clearShort_keeps _ (State.abandonPasses_keeps h))
  · exact State.enterBreath_keeps (State.abandonPasses_keeps h)
  · exact State.enterOff_keeps (State.abandonPasses_keeps h)
  · exact h

theorem execWakeComplete_keeps (r : StartReport) (h : Keeps s0 s) : KeptBy s0 (execWakeComplete r s) := by
  refine .next (.ite ?_ h)
  split
  · exact State.wakeBreath_keeps _ h
  · exact State.bringUp_keeps _ (State.offStart_keeps _ h)
  · exact h

theorem execBreathSample_keeps (samples : List U16) (h : Keeps s0 s) : KeptBy s0 (execBreathSample samples s) := by
  refine .next (.ite (.ite ?_ (.ite (.mk ?_) ?_)) h)
  · exact State.countWrap_keeps _ _ _ (.mk h)
  all_goals exact State.alertFrom_keeps _ (State.record_keeps _ (State.raise_keeps _ _ (State.setReg_keeps _ _ _ (State.countWrap_keeps _ _ _ (.mk h)))))

theorem execBrtCrossClear_keeps (v : U32) (h : Keeps s0 s) : KeptBy s0 (execBrtCrossClear v s) :=
  .next (.ite (State.alertFrom_keeps _ (State.setReg_keeps _ _ _ h)) h)

theorem execDieThermalTick_keeps (d : Fin 12) (t : BitVec 8) (h : Keeps s0 s) : KeptBy s0 (execDieThermalTick d t s) :=
  .next (.ite h (.ite (State.thermalTrip_keeps _ _ h) (.ite (State.raise_keeps _ _ (State.setDie_keeps _ _ h)) (State.setDie_keeps _ _ h))))

theorem execFlowTachWindow_keeps (edges : Nat) (h : Keeps s0 s) : KeptBy s0 (execFlowTachWindow edges s) :=
  .next (.ite (.mk h) h)

theorem execFlowLowDetected_keeps (h : Keeps s0 s) : KeptBy s0 (execFlowLowDetected s) :=
  .next (.ite (.ite (State.swellCompute_keeps (State.raise_keeps _ _ (State.record_keeps _ (.mk h)))) (State.raise_keeps _ _ (State.record_keeps _ (.mk h)))) h)

theorem execFlowRestored_keeps (h : Keeps s0 s) : KeptBy s0 (execFlowRestored s) :=
  .next (.ite (.ite (State.swellCompute_keeps (.mk h)) (.mk h)) h)

theorem execLeakDetected_keeps (h : Keeps s0 s) : KeptBy s0 (execLeakDetected s) :=
  .next (.ite (.ite (State.raise_keeps _ _ (State.record_keeps _ (State.alertFrom_keeps _ (.mk h)))) (State.forcedOff_keeps (State.raise_keeps _ _ (State.record_keeps _ (State.alertFrom_keeps _ (.mk h)))))) h)

theorem execInputUndervoltage_keeps (h : Keeps s0 s) : KeptBy s0 (execInputUndervoltage s) :=
  .next (State.alertFrom_keeps _ (h.wipe rfl rfl rfl rfl))

theorem execPowerOn_keeps (r : StartReport) (h : Keeps s0 s) : KeptBy s0 (execPowerOn r s) :=
  .next (.ite h (State.alertFrom_keeps _ (State.startFrom3_keeps _ (h.wipe rfl rfl rfl rfl))))

theorem execServiceConnect_keeps (x : Handshake) (h : Keeps s0 s) : KeptBy s0 (execServiceConnect x s) := by
  refine .next (.ite ?_ h)
  split
  · exact .ite (.mk h) (State.raise_keeps _ _ (State.countSat_keeps _ _ _ h))
  · exact State.raise_keeps _ _ (State.countSat_keeps _ _ _ h)

theorem execServiceIdleTimeout_keeps (i : Fin 4) (h : Keeps s0 s) : KeptBy s0 (execServiceIdleTimeout i s) :=
  .next (.ite (State.emit_keeps _ (State.endSession_keeps _ h)) h)

theorem execSvcInfo_keeps (q : SvcReq) (h : Keeps s0 s) : KeptBy s0 (execSvcInfo q s) :=
  .next (State.serve_keeps _ _ _ _ _ h (fun _ ht => State.reply_keeps _ _ _ _ ht))

theorem execSvcLogRead_keeps (q : SvcReq) (seq : U32) (count : Nat) (h : Keeps s0 s) : KeptBy s0 (execSvcLogRead q seq count s) :=
  .next (State.serve_keeps _ _ _ _ _ h (fun _ ht => State.reply_keeps _ _ _ _ ht))

theorem execSvcSettingGet_keeps (q : SvcReq) (type : Nat) (h : Keeps s0 s) : KeptBy s0 (execSvcSettingGet q type s) := by
  refine .next (State.serve_keeps _ _ _ _ _ h fun _ ht => ?_)
  split
  · exact State.reply_keeps _ _ _ _ ht
  · exact State.reply_keeps _ _ _ _ ht

theorem execSvcSettingSet_keeps (q : SvcReq) (type : Nat) (body : Option SettingBody) (h : Keeps s0 s) : KeptBy s0 (execSvcSettingSet q type body s) := by
  refine .next (State.serve_keeps _ _ _ _ _ h fun _ ht => ?_)
  refine .ite (State.reply_keeps _ _ _ _ ht) ?_
  split
  · exact .ite (State.reply_keeps _ _ _ _ (.mk ht)) (State.reply_keeps _ _ _ _ ht)
  · exact State.reply_keeps _ _ _ _ ht

theorem execSvcSetpoint_keeps (q : SvcReq) (w : U16) (h : Keeps s0 s) : KeptBy s0 (execSvcSetpoint q w s) :=
  .next (State.serve_keeps _ _ _ _ _ h (fun _ ht => .ite (State.reply_keeps _ _ _ _ (State.acceptSetpoint_keeps _ _ ht)) (State.reply_keeps _ _ _ _ ht)))

theorem execSvcPower_keeps (q : SvcReq) (state : Fin 4) (h : Keeps s0 s) : KeptBy s0 (execSvcPower q state s) :=
  .next (State.serve_keeps _ _ _ _ _ h (fun _ ht => State.reply_keeps _ _ _ _ (State.requestPower_keeps _ ht)))

theorem execSvcRegRead_keeps (q : SvcReq) (off : BitVec 26) (count : Nat) (h : Keeps s0 s) : KeptBy s0 (execSvcRegRead q off count s) :=
  .next (State.serve_keeps _ _ _ _ _ h (fun _ ht => State.reply_keeps _ _ _ _ (State.barReads_keeps _ _ _ ht)))

theorem execFwBegin_keeps (q : SvcReq) (payload : List U8) (h : Keeps s0 s) : KeptBy s0 (execFwBegin q payload s) := by
  refine .next (State.serve_keeps _ _ _ _ _ h fun _ ht => ?_)
  dsimp only
  split
  · exact State.fwReply_keeps _ _ _ (State.raise_keeps _ _ ht)
  · exact State.fwReply_keeps _ _ _ (.mk ht)

theorem execFwData_keeps (q : SvcReq) (off : Nat) (bytes : List U8) (h : Keeps s0 s) : KeptBy s0 (execFwData q off bytes s) := by
  refine .next (State.serve_keeps _ _ _ _ _ h fun _ ht => ?_)
  refine State.withUpdate_keeps _ _ _ ht fun _ => ?_
  refine .ite (State.fwReply_keeps _ _ _ ht) ?_
  dsimp only
  split
  · exact State.fwReply_keeps _ _ _ (.mk ht)
  · exact State.fwReply_keeps _ _ _ (.mk ht)

theorem execFwEnd_keeps (q : SvcReq) (h : Keeps s0 s) : KeptBy s0 (execFwEnd q s) := by
  refine .next (State.serve_keeps _ _ _ _ _ h fun _ ht => ?_)
  refine State.withUpdate_keeps _ _ _ ht fun _ => ?_
  refine .ite (State.fwReply_keeps _ _ _ (State.raise_keeps _ _ ht)) ?_
  split
  · exact .ite (State.fwReply_keeps _ _ _ (.mk ht)) (State.fwReply_keeps _ _ _ (State.raise_keeps _ _ ht))
  · exact State.fwReply_keeps _ _ _ (State.raise_keeps _ _ ht)

theorem execFwActivate_keeps (q : SvcReq) (h : Keeps s0 s) : KeptBy s0 (execFwActivate q s) :=
  .next (State.serve_keeps _ _ _ _ _ h (fun _ ht => State.withUpdate_keeps _ _ _ ht (fun _ => .ite (State.fwReply_keeps _ _ _ ht) (State.fwReply_keeps _ _ _ (State.record_keeps _ (.mk ht))))))

theorem execFwCancel_keeps (q : SvcReq) (h : Keeps s0 s) : KeptBy s0 (execFwCancel q s) :=
  .next (State.serve_keeps _ _ _ _ _ h (fun _ ht => State.withUpdate_keeps _ _ _ ht (fun _ => .ite (State.fwReply_keeps _ _ _ ht) (State.fwReply_keeps _ _ _ (State.releaseLock_keeps ht)))))

theorem execSvcReset_keeps (q : SvcReq) (r : StartReport) (h : Keeps s0 s) : KeptBy s0 (execSvcReset q r s) :=
  .next (State.serve_keeps _ _ _ _ _ h (fun _ ht => .ite (State.reply_keeps _ _ _ _ ht) (State.alertFrom_keeps _ (State.startFrom3_keeps _ (.mk (State.coldStart_keeps (State.forEach_keeps _ _ (State.reply_keeps _ _ _ _ ht) (fun _ _ hu => .ite (State.noticeReset_keeps _ hu) hu))))))))

theorem execSvcDieTest_keeps (q : SvcReq) (d : Die) (h : Keeps s0 s) : KeptBy s0 (execSvcDieTest q d s) :=
  .next (State.serve_keeps _ _ _ _ _ h (fun _ ht => .ite (State.reply_keeps _ _ _ _ ht) (State.reply_keeps _ _ _ _ (State.updDie_keeps _ _ ht))))

theorem execSpdmGetVersion_keeps (t : SpdmTransport) (h : Keeps s0 s) : KeptBy s0 (execSpdmGetVersion t s) :=
  .next (State.onSpdm_keeps _ _ h (fun _ ht => State.spdmAnswer_keeps _ _ (State.setSpdm_keeps _ _ ht)))

theorem execSpdmGetCapabilities_keeps (t : SpdmTransport) (h : Keeps s0 s) : KeptBy s0 (execSpdmGetCapabilities t s) :=
  .next (State.onSpdm_keeps _ _ h (fun _ ht => State.spdmAnswer_keeps _ _ ht))

theorem execSpdmNegotiateAlgorithms_keeps (t : SpdmTransport) (asym : U32) (hash : U32) (dhe : U32) (aead : U32) (h : Keeps s0 s) : KeptBy s0 (execSpdmNegotiateAlgorithms t asym hash dhe aead s) :=
  .next (State.onSpdm_keeps _ _ h (fun _ ht => .ite (State.spdmAnswer_keeps _ _ ht) (State.spdmAnswer_keeps _ _ (State.setSpdm_keeps _ _ ht))))

theorem execSpdmGetDigests_keeps (t : SpdmTransport) (h : Keeps s0 s) : KeptBy s0 (execSpdmGetDigests t s) :=
  .next (State.onSpdm_keeps _ _ h (fun _ ht => State.negotiated_keeps _ _ ht (fun _ hu => State.spdmAnswer_keeps _ _ hu)))

theorem execSpdmGetCertificate_keeps (t : SpdmTransport) (slot : Nat) (off : U16) (len : U16) (h : Keeps s0 s) : KeptBy s0 (execSpdmGetCertificate t slot off len s) :=
  .next (State.onSpdm_keeps _ _ h (fun _ ht => State.negotiated_keeps _ _ ht (fun _ hu => .ite (State.spdmAnswer_keeps _ _ hu) (State.spdmAnswer_keeps _ _ hu))))

theorem execSpdmChallenge_keeps (t : SpdmTransport) (slot : Nat) (nonce : List U8) (h : Keeps s0 s) : KeptBy s0 (execSpdmChallenge t slot nonce s) :=
  .next (State.onSpdm_keeps _ _ h (fun _ ht => State.negotiated_keeps _ _ ht (fun _ hu => .ite (State.spdmAnswer_keeps _ _ hu) (State.spdmAnswer_keeps _ _ hu))))

theorem execSpdmGetMeasurements_keeps (t : SpdmTransport) (index : U8) (sign : Bool) (nonce : List U8) (h : Keeps s0 s) : KeptBy s0 (execSpdmGetMeasurements t index sign nonce s) :=
  .next (State.onSpdm_keeps _ _ h (fun _ ht => State.negotiated_keeps _ _ ht (fun _ hu => .ite (State.spdmAnswer_keeps _ _ hu) (State.spdmAnswer_keeps _ _ hu))))

theorem execSpdmKeyExchange_keeps (t : SpdmTransport) (slot : Nat) (share : List U8) (h : Keeps s0 s) : KeptBy s0 (execSpdmKeyExchange t slot share s) :=
  .next (State.onSpdm_keeps _ _ h (fun _ ht => State.onDoe_keeps _ _ ht (fun _ hu => .ite (State.spdmAnswer_keeps _ _ hu) (State.spdmAnswer_keeps _ _ (State.setSpdm_keeps _ _ hu)))))

theorem execSpdmFinish_keeps (t : SpdmTransport) (valid : Bool) (h : Keeps s0 s) : KeptBy s0 (execSpdmFinish t valid s) := by
  refine .next (State.onSpdm_keeps _ _ h fun _ ht => ?_)
  refine State.onDoe_keeps _ _ ht fun _ hu => ?_
  split
  · exact .ite (State.spdmAnswer_keeps _ _ (State.setSpdm_keeps _ _ hu)) (State.spdmAnswer_keeps _ _ (State.setSpdm_keeps _ _ hu))
  · exact State.spdmAnswer_keeps _ _ hu

theorem execSpdmEndSession_keeps (t : SpdmTransport) (h : Keeps s0 s) : KeptBy s0 (execSpdmEndSession t s) := by
  refine .next (State.onSpdm_keeps _ _ h fun _ ht => ?_)
  refine State.onDoe_keeps _ _ ht fun _ hu => ?_
  split
  · exact State.spdmAnswer_keeps _ _ (State.setSpdm_keeps _ _ hu)
  · exact State.spdmAnswer_keeps _ _ hu

theorem execSpdmUnsupported_keeps (t : SpdmTransport) (code : U8) (h : Keeps s0 s) : KeptBy s0 (execSpdmUnsupported t code s) :=
  .next (State.onSpdm_keeps _ _ h (fun _ ht => State.spdmAnswer_keeps _ _ ht))

theorem execIdeKeyProgram_keeps (p : Fin 2) (stream : Fin 4) (key : List U8) (h : Keeps s0 s) : KeptBy s0 (execIdeKeyProgram p stream key s) :=
  .next (.ite (State.updPort_keeps _ _ h) h)

theorem execMctpReadSensors_keeps (samples : List U16) (h : Keeps s0 s) : KeptBy s0 (execMctpReadSensors samples s) :=
  .next (State.mctp_keeps _ h)

theorem execMctpReadLog_keeps (seq : U32) (count : Nat) (h : Keeps s0 s) : KeptBy s0 (execMctpReadLog seq count s) :=
  .next (State.mctp_keeps _ h)

theorem execMctpReadStatus_keeps (h : Keeps s0 s) : KeptBy s0 (execMctpReadStatus s) :=
  .next (State.mctp_keeps _ h)

theorem execMctpControlMessage_keeps (cmd : U8) (h : Keeps s0 s) : KeptBy s0 (execMctpControlMessage cmd s) :=
  .next (State.mctp_keeps _ h)

theorem execHostHdmRead_keeps (p : Fin 2) (hpa : U64) (caches : Bool) (corrected : Bool) (h : Keeps s0 s) : KeptBy s0 (execHostHdmRead p hpa caches corrected s) := by
  refine .next (.ite h (.ite (State.emit_keeps _ (State.unreachable_keeps _ _ _ _ _ (State.countSat_keeps _ _ _ h))) ?_))
  split
  · exact h
  · refine .ite (State.emit_keeps _ (State.unreachable_keeps _ _ _ _ _ h)) (State.emit_keeps _ ?_)
    split
    · exact State.aer_keeps _ (State.record_keeps _ (State.raise_keeps _ _ (State.countSat_keeps _ _ _ (.ite (State.enterFilter_keeps _ (State.eccHostRead_keeps _ _ (.ite (State.readNote_keeps _ h) h))) (State.eccHostRead_keeps _ _ (.ite (State.readNote_keeps _ h) h))))))
    · exact .ite (State.enterFilter_keeps _ (State.eccHostRead_keeps _ _ (.ite (State.readNote_keeps _ h) h))) (State.eccHostRead_keeps _ _ (.ite (State.readNote_keeps _ h) h))

theorem execHostHdmWrite_keeps (p : Fin 2) (hpa : U64) (data : List U8) (mask : List Bool) (h : Keeps s0 s) : KeptBy s0 (execHostHdmWrite p hpa data mask s) := by
  refine .next (.ite h (.ite (State.emit_keeps _ (State.unreachable_keeps _ _ _ _ _ (State.countSat_keeps _ _ _ h))) ?_))
  split
  · exact h
  · refine .ite (State.emit_keeps _ (State.unreachable_keeps _ _ _ _ _ h)) (State.emit_keeps _ (State.enterFilter_keeps _ (.mem (State.writeMem_keeps _ _ (.ite h (State.eccRead_keeps _ _ h))) ?_)))
    generalize State.writeMem _ _ _ = t
    intro hm
    split
    · exact hm
    · exact hm

theorem execH2dSnoop_keeps (p : Fin 2) (h : Keeps s0 s) : KeptBy s0 (execH2dSnoop p s) :=
  .next (.ite (State.emit_keeps _ h) h)

theorem execBirspReceived_keeps (p : Fin 2) (line : Nat) (h : Keeps s0 s) : KeptBy s0 (execBirspReceived p line s) :=
  .next (.ite (.ite (State.disarm_keeps _ _ h) (State.releaseLine_keeps _ h)) h)

theorem execBisnpTimeout_keeps (line : Nat) (h : Keeps s0 s) : KeptBy s0 (execBisnpTimeout line s) := by
  refine .next ?_
  split
  · exact State.forEach_keeps _ _ (.ite (State.raise_keeps _ _ (State.countSat_keeps _ _ _ (.mk h))) (.mk h)) fun _ _ ht => State.detectedFault_keeps _ _ ht
  · exact h

theorem execHdmDecoderCommit_keeps (i : Fin 4) (x : HdmSetup) (h : Keeps s0 s) : KeptBy s0 (execHdmDecoderCommit i x s) := by
  refine .next (.ite ?_ h)
  split
  · exact .ite (.mk h) (.mk h)
  · exact .mk h

theorem execCdatRead_keeps (p : Fin 2) (entry : Nat) (h : Keeps s0 s) : KeptBy s0 (execCdatRead p entry s) :=
  .next (.ite (State.emit_keeps _ h) h)

theorem execDoeDiscovery_keeps (p : Fin 2) (index : U8) (h : Keeps s0 s) : KeptBy s0 (execDoeDiscovery p index s) :=
  .next (.ite (State.emit_keeps _ h) h)

theorem execCxlLinkUp_keeps (p : Fin 2) (lanes : Nat) (fast : Bool) (viaSwitch : Bool) (h : Keeps s0 s) : KeptBy s0 (execCxlLinkUp p lanes fast viaSwitch s) :=
  .next (.ite (.ite (State.record_keeps _ (State.raise_keeps _ _ (State.raise_keeps _ _ (.mk (State.updPort_keeps _ _ h))))) (State.updPort_keeps _ _ h)) h)

theorem execCxlLinkDown_keeps (p : Fin 2) (h : Keeps s0 s) : KeptBy s0 (execCxlLinkDown p s) :=
  .next (State.cxlDown_keeps _ _ h)

theorem execFailoverSwitch_keeps (h : Keeps s0 s) : KeptBy s0 (execFailoverSwitch s) := by
  refine .next ?_
  split
  · exact .ite (State.moveActive_keeps _ _ _ h) h
  · exact h

theorem execPerstAssert_keeps (p : Fin 2) (h : Keeps s0 s) : KeptBy s0 (execPerstAssert p s) :=
  .next (State.cxlDown_keeps _ _ h)

theorem execFunctionLevelReset_keeps (p : Fin 2) (h : Keeps s0 s) : KeptBy s0 (execFunctionLevelReset p s) :=
  .next (.ite (State.updPort_keeps _ _ h) h)

theorem execIdeFailure_keeps (p : Fin 2) (h : Keeps s0 s) : KeptBy s0 (execIdeFailure p s) :=
  .next (.ite (State.cxlDown_keeps _ _ (State.raise_keeps _ _ (State.countSat_keeps _ _ _ h))) h)

theorem execInjectBiDrop_keeps (p : Fin 2) (h : Keeps s0 s) : KeptBy s0 (execInjectBiDrop p s) :=
  .next (.ite (State.arm_keeps _ _ h) h)

theorem execBadCommand_keeps (n : Fin 16384) (word : U64) (h : Keeps s0 s) : KeptBy s0 (execBadCommand n word s) :=
  .next (State.command_keeps _ _ _ h)

theorem execServiceSessionEnd_keeps (i : Fin 4) (h : Keeps s0 s) : KeptBy s0 (execServiceSessionEnd i s) :=
  .next (.ite (State.endSession_keeps _ h) h)

theorem execLeakDetectReleased_keeps (h : Keeps s0 s) : KeptBy s0 (execLeakDetectReleased s) :=
  .next (.ite (State.alertFrom_keeps _ (.mk h)) h)

end

/-! ### Every step -/

/-- Every command answers a next state, leaves the queue as it is and keeps the invariant. -/
theorem exec_keeps (c : Instr) (s : State) : KeptBy s (exec c s) := by
  cases c with
  | openStream n body => exact execOpenStream_keeps _ _ (.refl s)
  | ring n body => exact execRing_keeps _ _ (.refl s)
  | abort n body => exact execAbort_keeps _ _ (.refl s)
  | close n body => exact execClose_keeps _ _ (.refl s)
  | bar2DroppedWrite off size => exact execBar2DroppedWrite_keeps _ _ (.refl s)
  | bindingComplete n plan => exact execBindingComplete_keeps _ _ (.refl s)
  | bindingFail n cause => exact execBindingFail_keeps _ _ (.refl s)
  | firingStart u => exact execFiringStart_keeps _ (.refl s)
  | firingComplete u obs => exact execFiringComplete_keeps _ _ (.refl s)
  | firingFault u cause flags => exact execFiringFault_keeps _ _ _ (.refl s)
  | firingWatchdog u => exact execFiringWatchdog_keeps _ (.refl s)
  | abortDrainDone n => exact execAbortDrainDone_keeps _ (.refl s)
  | stallTimeout n => exact execStallTimeout_keeps _ (.refl s)
  | jobValidSet v => exact execJobValidSet_keeps _ (.refl s)
  | jobValidClear v => exact execJobValidClear_keeps _ (.refl s)
  | jobCfgFieldsWrite v => exact execJobCfgFieldsWrite_keeps _ (.refl s)
  | clearBar2Drop => exact execClearBar2Drop_keeps (.refl s)
  | readLoLatch r pg off size => exact execReadLoLatch_keeps _ _ _ _ (.refl s)
  | writeLoHold r pg off size v => exact execWriteLoHold_keeps _ _ _ _ _ (.refl s)
  | writeHiCommit r pg off size v => exact execWriteHiCommit_keeps _ _ _ _ _ (.refl s)
  | registerWrite pg off size v => exact execRegisterWrite_keeps _ _ _ _ (.refl s)
  | errStatClear pg v => exact execErrStatClear_keeps _ _ (.refl s)
  | errMaskWrite pg v => exact execErrMaskWrite_keeps _ _ (.refl s)
  | clearCounts pg => exact execClearCounts_keeps _ (.refl s)
  | numflagsClear pg v => exact execNumflagsClear_keeps _ _ (.refl s)
  | bindCacheFlush b => exact execBindCacheFlush_keeps _ (.refl s)
  | mxaRepairWrite n v => exact execMxaRepairWrite_keeps _ _ (.refl s)
  | injectTallyOne n v => exact execInjectTallyOne_keeps _ _ (.refl s)
  | hbmTempSample k t => exact execHbmTempSample_keeps _ _ (.refl s)
  | gddr7TempSample g t => exact execGddr7TempSample_keeps _ _ (.refl s)
  | memoryScrubRead d found retries => exact execMemoryScrubRead_keeps _ _ _ (.refl s)
  | sramScrubRead m ecc => exact execSramScrubRead_keeps _ _ (.refl s)
  | hbcClearMax d => exact execHbcClearMax_keeps _ (.refl s)
  | injectMemCorr d => exact execInjectMemCorr_keeps _ (.refl s)
  | injectMemUncorr d => exact execInjectMemUncorr_keeps _ (.refl s)
  | slowTierCompletion req data => exact execSlowTierCompletion_keeps _ _ (.refl s)
  | slowTierTimeout req => exact execSlowTierTimeout_keeps _ (.refl s)
  | regionValidSet v => exact execRegionValidSet_keeps _ (.refl s)
  | regionValidClear v => exact execRegionValidClear_keeps _ (.refl s)
  | regionBoundsWrite limit v => exact execRegionBoundsWrite_keeps _ _ (.refl s)
  | injectGrainOne n => exact execInjectGrainOne_keeps _ (.refl s)
  | updateFirstFiring b n node => exact execUpdateFirstFiring_keeps _ _ _ (.refl s)
  | latheRetainFiring b n node blocks => exact execLatheRetainFiring_keeps _ _ _ _ (.refl s)
  | latheApplyFiring b n node blocks => exact execLatheApplyFiring_keeps _ _ _ _ (.refl s)
  | latheCommitFiring b n node => exact execLatheCommitFiring_keeps _ _ _ (.refl s)
  | shadowFiring b n node => exact execShadowFiring_keeps _ _ _ (.refl s)
  | verdict b n node => exact execVerdict_keeps _ _ _ (.refl s)
  | recipeLoad b v => exact execRecipeLoad_keeps _ _ (.refl s)
  | recipeLoadDone => exact execRecipeLoadDone_keeps (.refl s)
  | commitRecordRelease b v => exact execCommitRecordRelease_keeps _ _ (.refl s)
  | injectRecordOne b => exact execInjectRecordOne_keeps _ (.refl s)
  | latheInjectGrainOne b => exact execLatheInjectGrainOne_keeps _ (.refl s)
  | portSignalDetect p => exact execPortSignalDetect_keeps _ (.refl s)
  | linkTrainingDone p => exact execLinkTrainingDone_keeps _ (.refl s)
  | fecLock p => exact execFecLock_keeps _ (.refl s)
  | linkTrainRetry p => exact execLinkTrainRetry_keeps _ (.refl s)
  | initSendTimer p => exact execInitSendTimer_keeps _ (.refl s)
  | initUnitReceived p u => exact execInitUnitReceived_keeps _ _ (.refl s)
  | dataUnitReceived p u => exact execDataUnitReceived_keeps _ _ (.refl s)
  | emptyUnitReceived p u => exact execEmptyUnitReceived_keeps _ _ (.refl s)
  | replayTimeout p => exact execReplayTimeout_keeps _ (.refl s)
  | ackSendTimer p => exact execAckSendTimer_keeps _ (.refl s)
  | unitSend p => exact execUnitSend_keeps _ (.refl s)
  | linkDown p => exact execLinkDown_keeps _ (.refl s)
  | frameForward p => exact execFrameForward_keeps _ (.refl s)
  | writeFrame p => exact execWriteFrame_keeps _ (.refl s)
  | readReqFrame p => exact execReadReqFrame_keeps _ (.refl s)
  | readRespFrame p => exact execReadRespFrame_keeps _ (.refl s)
  | writeAckFrame p => exact execWriteAckFrame_keeps _ (.refl s)
  | windowRequestTimeout req => exact execWindowRequestTimeout_keeps _ (.refl s)
  | collReadyFrame p => exact execCollReadyFrame_keeps _ (.refl s)
  | collDataFrame p => exact execCollDataFrame_keeps _ (.refl s)
  | collReadyRepeat b => exact execCollReadyRepeat_keeps _ (.refl s)
  | collectiveTimeout b n => exact execCollectiveTimeout_keeps _ _ (.refl s)
  | readdCheckDecided b block agree => exact execReaddCheckDecided_keeps _ _ _ (.refl s)
  | twinFrame p => exact execTwinFrame_keeps _ (.refl s)
  | twinMirrorSend => exact execTwinMirrorSend_keeps (.refl s)
  | swellFrame p => exact execSwellFrame_keeps _ (.refl s)
  | heartbeatFrame p => exact execHeartbeatFrame_keeps _ (.refl s)
  | digestFrame p => exact execDigestFrame_keeps _ (.refl s)
  | cleanFrame p => exact execCleanFrame_keeps _ (.refl s)
  | retractFrame p => exact execRetractFrame_keeps _ (.refl s)
  | portRetrain p => exact execPortRetrain_keeps _ (.refl s)
  | portEnableWrite p v => exact execPortEnableWrite_keeps _ _ (.refl s)
  | keyPhaseSwitch p => exact execKeyPhaseSwitch_keeps _ (.refl s)
  | keyNextWrite p k v => exact execKeyNextWrite_keeps _ _ _ (.refl s)
  | selfIdWrite v => exact execSelfIdWrite_keeps _ (.refl s)
  | routeWrite v => exact execRouteWrite_keeps _ (.refl s)
  | keytabWrite v => exact execKeytabWrite_keeps _ (.refl s)
  | injectCrcOne p => exact execInjectCrcOne_keeps _ (.refl s)
  | wmapLoad v => exact execWmapLoad_keeps _ (.refl s)
  | wmapLoadDone => exact execWmapLoadDone_keeps (.refl s)
  | twinEnable v => exact execTwinEnable_keeps _ (.refl s)
  | twinDisable v => exact execTwinDisable_keeps _ (.refl s)
  | heartbeatSend => exact execHeartbeatSend_keeps (.refl s)
  | seatListLoad v => exact execSeatListLoad_keeps _ (.refl s)
  | seatListLoadDone => exact execSeatListLoadDone_keeps (.refl s)
  | seatLivenessExpiry slot seat => exact execSeatLivenessExpiry_keeps _ _ (.refl s)
  | streamFreeze n => exact execStreamFreeze_keeps _ (.refl s)
  | quorumResume => exact execQuorumResume_keeps (.refl s)
  | quorumRefuse => exact execQuorumRefuse_keeps (.refl s)
  | seatSlotUnload => exact execSeatSlotUnload_keeps (.refl s)
  | cleanSend j => exact execCleanSend_keeps _ (.refl s)
  | tuningDue u => exact execTuningDue_keeps _ (.refl s)
  | tuningDeadline u => exact execTuningDeadline_keeps _ (.refl s)
  | tuningStart u => exact execTuningStart_keeps _ (.refl s)
  | tuningResult u obs => exact execTuningResult_keeps _ _ (.refl s)
  | tuningRunNow => exact execTuningRunNow_keeps (.refl s)
  | tuningRotateAll => exact execTuningRotateAll_keeps (.refl s)
  | injectTuningFail => exact execInjectTuningFail_keeps (.refl s)
  | injectReaddOne => exact execInjectReaddOne_keeps (.refl s)
  | clearRetracted => exact execClearRetracted_keeps (.refl s)
  | unisonEntryTimeout j key step => exact execUnisonEntryTimeout_keeps _ _ _ (.refl s)
  | unisonClear => exact execUnisonClear_keeps (.refl s)
  | flitReceived e bundle f => exact execFlitReceived_keeps _ _ _ (.refl s)
  | flitReplayTimeout e bundle => exact execFlitReplayTimeout_keeps _ _ (.refl s)
  | laneTestSend e bundle => exact execLaneTestSend_keeps _ _ (.refl s)
  | laneTestReceived e bundle mismatch => exact execLaneTestReceived_keeps _ _ _ (.refl s)
  | clockMonitorWindow e edges expected => exact execClockMonitorWindow_keeps _ _ _ (.refl s)
  | resetNoticeReceived e => exact execResetNoticeReceived_keeps _ (.refl s)
  | budgetReceived d m => exact execBudgetReceived_keeps _ _ (.refl s)
  | budgetRepeat d => exact execBudgetRepeat_keeps _ (.refl s)
  | reportSend d powerW8 tempC => exact execReportSend_keeps _ _ _ (.refl s)
  | reportReceived d m => exact execReportReceived_keeps _ _ (.refl s)
  | budgetFallback d => exact execBudgetFallback_keeps _ (.refl s)
  | linkTestStart e => exact execLinkTestStart_keeps _ (.refl s)
  | linkTestDone e errs logic sram => exact execLinkTestDone_keeps _ _ _ _ (.refl s)
  | injectLaneFail e => exact execInjectLaneFail_keeps _ (.refl s)
  | setpointWrite v => exact execSetpointWrite_keeps _ (.refl s)
  | swellControlLoop obs => exact execSwellControlLoop_keeps _ (.refl s)
  | descantRestore => exact execDescantRestore_keeps (.refl s)
  | powerReqRun => exact execPowerReqRun_keeps (.refl s)
  | powerReqHold => exact execPowerReqHold_keeps (.refl s)
  | powerReqBreath => exact execPowerReqBreath_keeps (.refl s)
  | powerReqOff => exact execPowerReqOff_keeps (.refl s)
  | holdReached => exact execHoldReached_keeps (.refl s)
  | wakeComplete r => exact execWakeComplete_keeps _ (.refl s)
  | breathSample samples => exact execBreathSample_keeps _ (.refl s)
  | brtCrossClear v => exact execBrtCrossClear_keeps _ (.refl s)
  | dieThermalTick d t => exact execDieThermalTick_keeps _ _ (.refl s)
  | flowTachWindow edges => exact execFlowTachWindow_keeps _ (.refl s)
  | flowLowDetected => exact execFlowLowDetected_keeps (.refl s)
  | flowRestored => exact execFlowRestored_keeps (.refl s)
  | leakDetected => exact execLeakDetected_keeps (.refl s)
  | inputUndervoltage => exact execInputUndervoltage_keeps (.refl s)
  | powerOn r => exact execPowerOn_keeps _ (.refl s)
  | serviceConnect h => exact execServiceConnect_keeps _ (.refl s)
  | serviceIdleTimeout k => exact execServiceIdleTimeout_keeps _ (.refl s)
  | svcInfo q => exact execSvcInfo_keeps _ (.refl s)
  | svcLogRead q seq count => exact execSvcLogRead_keeps _ _ _ (.refl s)
  | svcSettingGet q type => exact execSvcSettingGet_keeps _ _ (.refl s)
  | svcSettingSet q type body => exact execSvcSettingSet_keeps _ _ _ (.refl s)
  | svcSetpoint q w => exact execSvcSetpoint_keeps _ _ (.refl s)
  | svcPower q state => exact execSvcPower_keeps _ _ (.refl s)
  | svcRegRead q off count => exact execSvcRegRead_keeps _ _ _ (.refl s)
  | fwBegin q payload => exact execFwBegin_keeps _ _ (.refl s)
  | fwData q off bytes => exact execFwData_keeps _ _ _ (.refl s)
  | fwEnd q => exact execFwEnd_keeps _ (.refl s)
  | fwActivate q => exact execFwActivate_keeps _ (.refl s)
  | fwCancel q => exact execFwCancel_keeps _ (.refl s)
  | svcReset q r => exact execSvcReset_keeps _ _ (.refl s)
  | svcDieTest q d => exact execSvcDieTest_keeps _ _ (.refl s)
  | spdmGetVersion t => exact execSpdmGetVersion_keeps _ (.refl s)
  | spdmGetCapabilities t => exact execSpdmGetCapabilities_keeps _ (.refl s)
  | spdmNegotiateAlgorithms t asym hash dhe aead => exact execSpdmNegotiateAlgorithms_keeps _ _ _ _ _ (.refl s)
  | spdmGetDigests t => exact execSpdmGetDigests_keeps _ (.refl s)
  | spdmGetCertificate t slot off len => exact execSpdmGetCertificate_keeps _ _ _ _ (.refl s)
  | spdmChallenge t slot nonce => exact execSpdmChallenge_keeps _ _ _ (.refl s)
  | spdmGetMeasurements t index sign nonce => exact execSpdmGetMeasurements_keeps _ _ _ _ (.refl s)
  | spdmKeyExchange t slot share => exact execSpdmKeyExchange_keeps _ _ _ (.refl s)
  | spdmFinish t valid => exact execSpdmFinish_keeps _ _ (.refl s)
  | spdmEndSession t => exact execSpdmEndSession_keeps _ (.refl s)
  | spdmUnsupported t code => exact execSpdmUnsupported_keeps _ code (.refl s)
  | ideKeyProgram p stream key => exact execIdeKeyProgram_keeps _ _ _ (.refl s)
  | mctpReadSensors samples => exact execMctpReadSensors_keeps _ (.refl s)
  | mctpReadLog seq count => exact execMctpReadLog_keeps _ _ (.refl s)
  | mctpReadStatus => exact execMctpReadStatus_keeps (.refl s)
  | mctpControlMessage cmd => exact execMctpControlMessage_keeps _ (.refl s)
  | hostHdmRead p hpa caches corrected => exact execHostHdmRead_keeps _ _ _ _ (.refl s)
  | hostHdmWrite p hpa data mask => exact execHostHdmWrite_keeps _ _ _ _ (.refl s)
  | h2dSnoop p => exact execH2dSnoop_keeps _ (.refl s)
  | birspReceived p line => exact execBirspReceived_keeps _ _ (.refl s)
  | bisnpTimeout line => exact execBisnpTimeout_keeps _ (.refl s)
  | hdmDecoderCommit k setup => exact execHdmDecoderCommit_keeps _ _ (.refl s)
  | cdatRead p entry => exact execCdatRead_keeps _ _ (.refl s)
  | doeDiscovery p index => exact execDoeDiscovery_keeps _ _ (.refl s)
  | cxlLinkUp p lanes fast viaSwitch => exact execCxlLinkUp_keeps _ _ _ _ (.refl s)
  | cxlLinkDown p => exact execCxlLinkDown_keeps _ (.refl s)
  | failoverSwitch => exact execFailoverSwitch_keeps (.refl s)
  | perstAssert p => exact execPerstAssert_keeps _ (.refl s)
  | functionLevelReset p => exact execFunctionLevelReset_keeps _ (.refl s)
  | ideFailure p => exact execIdeFailure_keeps _ (.refl s)
  | injectBiDrop p => exact execInjectBiDrop_keeps _ (.refl s)
  | badCommand n word => exact execBadCommand_keeps _ _ (.refl s)
  | serviceSessionEnd k => exact execServiceSessionEnd_keeps _ (.refl s)
  | leakDetectReleased => exact execLeakDetectReleased_keeps (.refl s)

/-- Where a step answers, the state has the invariant if the state before had it. -/
theorem step_keeps_inv {s t : State} (hinv : s.Inv) (hstep : step s = .next t) : t.Inv := by
  unfold step at hstep
  split at hstep
  case h_1 =>
    obtain rfl := Host.Outcome.next.inj hstep
    exact (State.idle_keeps (.refl s)).2 hinv
  case h_2 c rest _ =>
    obtain ⟨t', hexec, _, hkeeps⟩ := exec_keeps c { s with pending := rest }
    rw [hexec] at hstep
    obtain rfl := Host.Outcome.next.inj hstep
    exact hkeeps hinv

/-- Settles O5: each command is made of operations that keep the invariant, and so is the idle step. -/
theorem stepKeepsInvariant : Obligations.StepKeepsInvariant := by
  unfold Obligations.StepKeepsInvariant
  intro s t hinv hstep
  exact step_keeps_inv hinv hstep

/-- Settles O6: no byte, no record and no stream is listed at reset. -/
theorem resetMeetsInvariant : Obligations.ResetMeetsInvariant := by
  unfold Obligations.ResetMeetsInvariant
  exact ⟨Memory.wf_zero, ⟨Nat.zero_le _, fun _ _ h => nomatch h⟩, fun _ => Nat.zero_le _⟩

end Sys2Proof.Machine
end

section
/-! Proofs: what the operations over streams that commands share leave unchanged: messages on the package's links, node slots handed to waiting bindings, and the drain of an abort (R28, R56 to R59, R453, R610). -/

namespace Sys2Proof.Machine

/-! ### Operations carried out over a list -/

/-- A relation that is reflexive and transitive holds across a list of things to do if it holds across each. -/
theorem State.forEach_rel {β : Type} {R : State → State → Prop} (hrefl : ∀ s, R s s) (htrans : ∀ {a b c}, R a b → R b c → R a c)
    {f : State → β → State} (hf : ∀ t b, R t (f t b)) (l : List β) : ∀ s : State, R s (s.forEach l f) := by
  induction l with
  | nil => exact hrefl
  | cons b l ih => exact fun s => htrans (hf s b) (ih (f s b))

/-! ### Messages (R453) -/

/-- Only the links, their bundles and what has been sent may differ. -/
def State.Sends (s t : State) : Prop := ∃ links bundles out, t = { s with links := links, bundles := bundles, out := out }

theorem State.Sends.refl (s : State) : s.Sends s := ⟨_, _, _, rfl⟩

theorem State.Sends.trans {a b c : State} : a.Sends b → b.Sends c → a.Sends c := by
  rintro ⟨_, _, _, rfl⟩ ⟨_, _, _, rfl⟩
  exact ⟨_, _, _, rfl⟩

theorem State.setLink_sends (s : State) (e : LinkEnd) (x : LinkSt) : s.Sends (s.setLink e x) := ⟨_, _, _, rfl⟩

theorem State.sendFlit_sends (s : State) (e : LinkEnd) (b kind : Nat) (payload : List U8) : s.Sends (s.sendFlit e b kind payload) := by
  unfold State.sendFlit
  dsimp only
  split
  · exact ⟨_, _, _, rfl⟩
  · exact .refl s

theorem State.tryMessage_sends {s t : State} {e : LinkEnd} {m : HeldMsg} (h : s.tryMessage e m = some t) : s.Sends t := by
  unfold State.tryMessage at h
  dsimp only at h
  split at h
  · split at h
    · obtain rfl := Option.some.inj h
      exact (s.setLink_sends _ _).trans (State.sendFlit_sends _ _ _ _ _)
    · cases h
  · cases h

theorem State.releaseHeld_sends (s : State) (e : LinkEnd) : s.Sends (s.releaseHeld e) := by
  refine (s.setLink_sends e _).trans (State.forEach_rel State.Sends.refl State.Sends.trans (fun t m => ?_) _ _)
  split
  case h_1 _ t1 ht => exact State.tryMessage_sends ht
  case h_2 => exact t.setLink_sends _ _

theorem State.offer_sends (s : State) (e : LinkEnd) (m : HeldMsg) : s.Sends (s.offer e m) :=
  (s.setLink_sends e _).trans (State.releaseHeld_sends _ e)

theorem State.tell_sends (s : State) (a b n : Nat) (payload : List U8) : s.Sends (s.tell a b n payload) :=
  State.forEach_rel State.Sends.refl State.Sends.trans (fun t e => t.offer_sends e _) _ s

theorem State.issueInitial_sends (s : State) (n : Nat) (b : Bound) : s.Sends (s.issueInitial n b) :=
  State.forEach_rel State.Sends.refl State.Sends.trans
    (fun t _ => (State.forEach_rel State.Sends.refl State.Sends.trans (fun t _ => t.tell_sends _ _ _ _) _ t).trans (State.tell_sends _ _ _ _ _)) _ s

theorem State.Sends.stream {s t : State} (h : s.Sends t) (n : Nat) : t.stream n = s.stream n := by
  obtain ⟨_, _, _, rfl⟩ := h
  rfl

/-! ### Node slots handed out (R108, R610) -/

/-- Only streams, the waiting bindings and what messages touch may differ. -/
def State.Grants (s t : State) : Prop :=
  ∃ streams waiting links bundles out, t = { s with streams := streams, waiting := waiting, links := links, bundles := bundles, out := out }

theorem State.Grants.trans {a b c : State} : a.Grants b → b.Grants c → a.Grants c := by
  rintro ⟨_, _, _, _, _, rfl⟩ ⟨_, _, _, _, _, rfl⟩
  exact ⟨_, _, _, _, _, rfl⟩

theorem State.Sends.grants {s t : State} : s.Sends t → s.Grants t := by
  rintro ⟨_, _, _, rfl⟩
  exact ⟨_, _, _, _, _, rfl⟩

theorem State.enterRunning_grants (s : State) (n : Nat) (b : Bound) (outTotal : Nat) : s.Grants (s.enterRunning n b outTotal) :=
  State.Grants.trans ⟨_, _, _, _, _, rfl⟩ (State.issueInitial_sends _ n b).grants

theorem State.enterRunning_stream (s : State) (n m : Nat) (b : Bound) (outTotal : Nat) :
    (s.enterRunning n b outTotal).stream m =
      if m = n then { s.stream n with st := .running, bound := some b, outTotal := outTotal, nodesTotal := b.prog.nodes.length, gen := (s.stream n).gen + 1 }
      else s.stream m := by
  rw [State.enterRunning, (State.issueInitial_sends _ n b).stream, State.updRec_stream]

theorem State.grantLoop_grants (l : List WaitingBind) : ∀ (kept : List WaitingBind) (s : State), s.Grants (s.grantLoop l kept) := by
  induction l with
  | nil => exact fun kept s => ⟨_, _, _, _, _, rfl⟩
  | cons w l ih =>
    intro kept s
    unfold State.grantLoop
    split
    · split
      · exact (s.enterRunning_grants _ _ _).trans (ih _ _)
      · exact ih _ _
    · exact ih _ _

theorem State.grantSlots_grants (s : State) : s.Grants s.grantSlots := State.grantLoop_grants _ _ s

/-- A stream that waits for no slots is left as it is. -/
theorem State.grantLoop_stream {n : Nat} (l : List WaitingBind) : ∀ (kept : List WaitingBind) (s : State), (∀ w, w ∈ l → w.stream ≠ n) →
    (s.grantLoop l kept).stream n = s.stream n := by
  induction l with
  | nil => exact fun _ _ _ => rfl
  | cons w l ih =>
    intro kept s hl
    have htail : ∀ v, v ∈ l → v.stream ≠ n := fun v hv => hl v (List.mem_cons_of_mem _ hv)
    unfold State.grantLoop
    split
    · rw [ih _ _ htail]
      split
      · rw [State.enterRunning_stream, if_neg (hl w List.mem_cons_self).symm]
      · rfl
    · exact ih _ _ htail

theorem State.grantSlots_stream {n : Nat} (s : State) (h : ∀ w, w ∈ s.waiting → w.stream ≠ n) : s.grantSlots.stream n = s.stream n :=
  State.grantLoop_stream _ _ s h

theorem State.grantSlots_idle (s : State) (h : s.waiting = []) : s.grantSlots = s := by
  unfold State.grantSlots
  rw [h]
  show { s with waiting := [] } = s
  rw [← h]

/-! ### Slots revoked, and the drain of an abort (R56, R59) -/

theorem State.revoke_eq (s : State) (n : Nat) : ∃ b, s.revoke n = s.setStream n { s.stream n with bound := b } ∨ s.revoke n = s := by
  unfold State.revoke
  split
  · exact ⟨_, .inl rfl⟩
  · exact ⟨none, .inr rfl⟩

/-- A revocation changes what one stream's submission holds and nothing else. -/
theorem State.revoke_stream (s : State) (n : Nat) : ∃ b, (s.revoke n).stream n = { s.stream n with bound := b } := by
  obtain ⟨b, h | h⟩ := s.revoke_eq n
  · exact ⟨b, by rw [h, State.setStream_same]⟩
  · exact ⟨(s.stream n).bound, by rw [h]⟩

theorem State.revoke_frame (s : State) (n : Nat) : ∃ streams, s.revoke n = { s with streams := streams } := by
  obtain ⟨b, h | h⟩ := s.revoke_eq n
  · exact ⟨_, h⟩
  · exact ⟨s.streams, h⟩

theorem State.abandon_waiting (s : State) (n : Nat) : ∀ w, w ∈ (s.abandon n).waiting → w.stream ≠ n := by
  intro w hw
  simpa using (List.mem_filter.mp hw).2

theorem State.drain_stream (s : State) (n : Nat) : ∃ b, (s.drain n).stream n =
    { s.stream n with st := .draining, stalled := false, dropped := (s.stream n).dropped + (s.stream n).pend.length, pend := [], bound := b } := by
  obtain ⟨b, hb⟩ := (s.setStream n { s.stream n with st := .draining, stalled := false, dropped := (s.stream n).dropped + (s.stream n).pend.length, pend := [] }).revoke_stream n
  rw [State.setStream_same] at hb
  refine ⟨b, ?_⟩
  unfold State.drain
  rw [State.grantSlots_stream _ (State.abandon_waiting _ n)]
  exact hb

theorem State.drain_frame (s : State) (n : Nat) : ∃ streams upds colls readds waiting links bundles out,
    s.drain n = { s with streams := streams, upds := upds, colls := colls, readds := readds, waiting := waiting, links := links, bundles := bundles, out := out } := by
  obtain ⟨x, hx⟩ : ∃ x, ({ s.stream n with st := .draining, stalled := false, dropped := (s.stream n).dropped + (s.stream n).pend.length, pend := [] } : Stream) = x := ⟨_, rfl⟩
  obtain ⟨streams, hrev⟩ := (s.setStream n x).revoke_frame n
  obtain ⟨_, _, _, _, _, hgr⟩ := (((s.setStream n x).revoke n).abandon n).grantSlots_grants
  unfold State.drain
  dsimp only
  rw [hx, hgr, hrev]
  exact ⟨_, _, _, _, _, _, _, _, rfl⟩

/-- With no binding waiting, a drain sends nothing. -/
theorem State.drain_quiet (s : State) (n : Nat) (h : s.waiting = []) :
    (s.drain n).links = s.links ∧ (s.drain n).bundles = s.bundles ∧ (s.drain n).out = s.out := by
  obtain ⟨x, hx⟩ : ∃ x, ({ s.stream n with st := .draining, stalled := false, dropped := (s.stream n).dropped + (s.stream n).pend.length, pend := [] } : Stream) = x := ⟨_, rfl⟩
  obtain ⟨streams, hrev⟩ := (s.setStream n x).revoke_frame n
  have hnone : (((s.setStream n x).revoke n).abandon n).waiting = [] := by
    rw [hrev]
    simp [State.abandon, h]
  unfold State.drain
  dsimp only
  rw [hx, State.grantSlots_idle _ hnone, hrev]
  exact ⟨rfl, rfl, rfl⟩

end Sys2Proof.Machine
end

section
/-! Proofs: the command words of BAR2 (R41 to R47, R55 to R58, R609): the order of tests, what a refused command leaves, and the effects of OPEN, RING, ABORT and CLOSE. -/

namespace Sys2Proof.Machine

theorem State.word_congr {s t : State} (h : t.regs = s.regs) (k : Nat) : t.word k = s.word k := by
  unfold State.word
  rw [h]

/-- Only registers may differ. -/
def State.Regs (s t : State) : Prop := ∃ regs, t = { s with regs := regs }

theorem State.Regs.trans {a b c : State} : a.Regs b → b.Regs c → a.Regs c := by
  rintro ⟨_, rfl⟩ ⟨_, rfl⟩
  exact ⟨_, rfl⟩

theorem State.Regs.of_regs {s t : State} : s.Regs t → t = { s with regs := t.regs } := by
  rintro ⟨_, rfl⟩
  rfl

theorem State.raise_onlyRegs (s : State) (pg : Page) (b : Nat) : s.Regs (s.raise pg b) := ⟨_, rfl⟩

/-! ### A word is counted, decided and answered -/

/-- The state with the command counted where it is ordered (R73). -/
def State.counted (s : State) (n : Nat) : State := s.countWrap (stmPage (s.orderedAt n)) 0x050

/-- A stream's record with a command's result in it (R49). -/
def Stream.answered (x : Stream) (op : Nat) (body : BitVec 60) (code : U16) : Stream :=
  { x with cmdOp := op, cmdSeq := cmdSeqField op body, cmdResult := code }

theorem State.counted_frame (s : State) (n : Nat) : ∃ regs, s.counted n = { s with regs := regs } := ⟨_, rfl⟩

@[simp] theorem State.counted_stream (s : State) (n m : Nat) : (s.counted n).stream m = s.stream m := by
  obtain ⟨_, h⟩ := s.counted_frame n
  rw [h]
  rfl

@[simp] theorem State.counted_job (s : State) (n j : Nat) : (s.counted n).job j = s.job j := by
  obtain ⟨_, h⟩ := s.counted_frame n
  rw [h]
  rfl

@[simp] theorem State.counted_baseUp (s : State) (n b : Nat) : (s.counted n).baseUp b = s.baseUp b := by
  obtain ⟨_, h⟩ := s.counted_frame n
  rw [h]
  rfl

@[simp] theorem State.counted_start (s : State) (n : Nat) : (s.counted n).start = s.start := by
  obtain ⟨_, h⟩ := s.counted_frame n
  rw [h]

@[simp] theorem State.counted_allowed (s : State) (n j a k : Nat) (w : Bool) : (s.counted n).allowed j a k w = s.allowed j a k w := by
  obtain ⟨_, h⟩ := s.counted_frame n
  rw [h]
  rfl

@[simp] theorem State.counted_chooseHome (s : State) (n b : Nat) : (s.counted n).chooseHome b = s.chooseHome b := by
  obtain ⟨_, h⟩ := s.counted_frame n
  rw [h]
  rfl

theorem State.counted_regsKept (s : State) (n : Nat) : s.regsKept (s.counted n) [(stmPage (s.orderedAt n)).base + 0x050] := s.setReg_regsKept _ _ _

theorem State.command_eq {s : State} {n op : Nat} {body : BitVec 60} {code : U16} {t : State} (hreach : s.hostReach = true)
    (hdec : (s.counted n).decideCmd n op body = (code, t)) : s.command n op body = t.updRec n (fun x => x.answered op body code) := by
  unfold State.counted at hdec
  rw [State.command, if_pos hreach, State.ordered, hdec]
  rfl

theorem State.updRec_answered_stream (s : State) (n op : Nat) (body : BitVec 60) (code : U16) :
    (s.updRec n (fun x => x.answered op body code)).stream n =
      { s.stream n with cmdOp := op, cmdSeq := cmdSeqField op body, cmdResult := code, gen := (s.stream n).gen + 1 } := by
  rw [State.updRec_stream, if_pos rfl]
  rfl

/-- A command that sets no more than its own stream: what it answers, and what it leaves (R46). -/
theorem State.command_onStream {s : State} {n op : Nat} {body : BitVec 60} {code : U16} {x : Stream} (hreach : s.hostReach = true)
    (hdec : (s.counted n).decideCmd n op body = (code, (s.counted n).setStream n x)) :
    (s.command n op body).stream n = { x with cmdOp := op, cmdSeq := cmdSeqField op body, cmdResult := code, gen := x.gen + 1 } ∧
    s.streamsKept (s.command n op body) [n] ∧ s.regsKept (s.command n op body) [(stmPage (s.orderedAt n)).base + 0x050] ∧
    s.command n op body = { s with streams := (s.command n op body).streams, regs := (s.command n op body).regs } := by
  have hregs := s.counted_regsKept n
  obtain ⟨regs, hcount⟩ := s.counted_frame n
  rw [State.command_eq hreach hdec]
  rw [hcount] at hregs ⊢
  refine ⟨?_, fun m hm => ?_, hregs, rfl⟩
  · rw [State.updRec_answered_stream, State.setStream_same]
  · have hne : m ≠ n := by simpa using hm
    rw [State.updRec_stream, if_neg hne, State.setStream_stream, if_neg hne]
    rfl

/-- A refused command: its result stands in the record, and nothing else changes but the count of commands (R46, R609). -/
theorem State.command_refused {s : State} {n op : Nat} {body : BitVec 60} {code : U16} (hreach : s.hostReach = true)
    (hdec : (s.counted n).decideCmd n op body = (code, s.counted n)) :
    (s.command n op body).stream n = { s.stream n with cmdOp := op, cmdSeq := cmdSeqField op body, cmdResult := code, gen := (s.stream n).gen + 1 } ∧
    s.streamsKept (s.command n op body) [n] ∧ s.regsKept (s.command n op body) [(stmPage (s.orderedAt n)).base + 0x050] ∧
    s.command n op body = { s with streams := (s.command n op body).streams, regs := (s.command n op body).regs } := by
  have hregs := s.counted_regsKept n
  obtain ⟨regs, hcount⟩ := s.counted_frame n
  rw [State.command_eq hreach hdec]
  rw [hcount] at hregs ⊢
  refine ⟨?_, fun m hm => ?_, hregs, rfl⟩
  · rw [State.updRec_answered_stream]
    rfl
  · rw [State.updRec_stream, if_neg (by simpa using hm)]
    rfl

/-! ### The order of tests (R609) -/

section
variable {s : State} {n op : Nat} {body : BitVec 60}

theorem State.decideCmd_notReady (h : s.start.ready = false) : s.decideCmd n op body = (S_NOT_READY, s) := by
  simp [State.decideCmd, h]

theorem State.decideCmd_bad (hready : s.start.ready = true) (h : ¬ (1 ≤ op ∧ op ≤ 4) ∨ cmdClean op body = false) :
    s.decideCmd n op body = (S_BAD_COMMAND, s) := by
  have hbad : (cmdKnown op && cmdClean op body) = false := by
    rw [Bool.and_eq_false_iff]
    exact h.imp_left fun hk => by simpa [cmdKnown] using hk
  simp [State.decideCmd, hready, hbad]

variable (hready : s.start.ready = true) (hop : 1 ≤ op ∧ op ≤ 4) (hclean : cmdClean op body = true)
include hready hop hclean

/-- The three tests that follow readiness, OP and fields. -/
theorem State.decideCmd_legible : s.decideCmd n op body =
    if (s.stream n).isOpen && !s.baseUp (s.stream n).home then
      (if op = opClose ∧ (s.stream n).busy = false then s.cmdClose n else (S_DIE_DOWN, s))
    else if !(s.stream n).isOpen then (if op = opOpen then s.cmdOpen n body else (S_NOT_OPEN, s))
    else if op = opOpen then (S_ALREADY_OPEN, s)
    else if op = opRing then s.cmdRing n body
    else if op = opAbort then s.cmdAbort n body
    else s.cmdClose n := by
  have hknown : cmdKnown op = true := by simpa [cmdKnown] using hop
  simp [State.decideCmd, hready, hknown, hclean]

theorem State.decideCmd_down (hopen : (s.stream n).isOpen = true) (hdown : s.baseUp (s.stream n).home = false) : s.decideCmd n op body =
    if op = opClose ∧ (s.stream n).busy = false then s.cmdClose n else (S_DIE_DOWN, s) := by
  rw [State.decideCmd_legible hready hop hclean, hopen, hdown]
  rfl

theorem State.decideCmd_free (hfree : (s.stream n).isOpen = false) : s.decideCmd n op body =
    if op = opOpen then s.cmdOpen n body else (S_NOT_OPEN, s) := by
  rw [State.decideCmd_legible hready hop hclean, hfree]
  rfl

theorem State.decideCmd_open (hopen : (s.stream n).isOpen = true) (hup : s.baseUp (s.stream n).home = true) : s.decideCmd n op body =
    if op = opOpen then (S_ALREADY_OPEN, s)
    else if op = opRing then s.cmdRing n body
    else if op = opAbort then s.cmdAbort n body
    else s.cmdClose n := by
  rw [State.decideCmd_legible hready hop hclean, hopen, hup]
  rfl

end

theorem Stream.isOpen_iff (x : Stream) : x.isOpen = true ↔ x.st ≠ .free := by simp [Stream.isOpen]

theorem Stream.isOpen_false_iff (x : Stream) : x.isOpen = false ↔ x.st = .free := by simp [Stream.isOpen]

theorem State.orderedAt_free {s : State} {n : Nat} (h : (s.stream n).st = .free) : s.orderedAt n = 1 := by
  simp [State.orderedAt, (Stream.isOpen_false_iff _).mpr h]

theorem State.orderedAt_home {s : State} {n : Nat} (h : (s.stream n).st ≠ .free) (hup : s.baseUp (s.stream n).home = true) :
    s.orderedAt n = (s.stream n).home := by
  simp [State.orderedAt, (Stream.isOpen_iff _).mpr h, hup]

/-! ### OPEN (R47) -/

theorem State.hostReach_baseUp {s : State} (h : s.hostReach = true) : s.baseUp 1 = true := by
  simp only [State.hostReach, Bool.and_eq_true] at h
  exact h.1.2

/-- The open streams of a base die. -/
def State.load (s : State) (k : Nat) : Nat := s.openCount (fun x => decide (x.home = k))

/-- One step of the search for the least loaded base die, 3 standing for none found yet. -/
def lighter (load : Nat → Nat) (m k : Nat) : Nat := if m = 3 then k else if load k < load m then k else m

/-- A search through rising numbers ends at the first one of least load. -/
theorem foldl_lighter (load : Nat → Nat) (l : List Nat) : ∀ (m : Nat), m ≠ 3 → (∀ k, k ∈ l → m < k ∧ k ≠ 3) → l.Pairwise (· < ·) →
    let h := l.foldl (lighter load) m
    (h = m ∨ h ∈ l) ∧ ∀ k, (k = m ∨ k ∈ l) → load h ≤ load k ∧ (load k = load h → h ≤ k) := by
  induction l with
  | nil =>
    intro m _ _ _
    exact ⟨.inl rfl, by rintro k (rfl | hk); exacts [⟨le_rfl, fun _ => le_rfl⟩, absurd hk List.not_mem_nil]⟩
  | cons a l ih =>
    intro m hm hl hsort
    obtain ⟨hma, ha⟩ := hl a List.mem_cons_self
    obtain ⟨hal, hsort'⟩ := List.pairwise_cons.mp hsort
    by_cases hlt : load a < load m
    · have hstep : lighter load m a = a := by simp [lighter, hm, hlt]
      obtain ⟨hmem, hmin⟩ := ih a ha (fun k hk => ⟨hal k hk, (hl k (List.mem_cons_of_mem _ hk)).2⟩) hsort'
      rw [List.foldl_cons, hstep]
      refine ⟨.inr (by simpa using hmem), ?_⟩
      rintro k (rfl | hk)
      · have := (hmin a (.inl rfl)).1
        exact ⟨by omega, fun h => by omega⟩
      · exact hmin k (by simpa using hk)
    · have hstep : lighter load m a = m := by simp [lighter, hm, hlt]
      obtain ⟨hmem, hmin⟩ := ih m hm (fun k hk => hl k (List.mem_cons_of_mem _ hk)) hsort'
      rw [List.foldl_cons, hstep]
      refine ⟨hmem.imp_right (List.mem_cons_of_mem _), ?_⟩
      rintro k (rfl | hk)
      · exact hmin k (.inl rfl)
      · rcases List.mem_cons.mp hk with rfl | hk
        · obtain ⟨hle, htie⟩ := hmin m (.inl rfl)
          exact ⟨by omega, fun h => by have := htie (by omega); omega⟩
        · exact hmin k (.inr hk)

/-- The chosen home: an up base die of least load, the lowest-numbered such. -/
theorem State.chooseHome_three {s : State} (hup : s.baseUp 1 = true) :
    s.chooseHome 3 < 3 ∧ s.baseUp (s.chooseHome 3) = true ∧
      ∀ k, k < 3 → s.baseUp k = true → s.load (s.chooseHome 3) ≤ s.load k ∧ (s.load k = s.load (s.chooseHome 3) → s.chooseHome 3 ≤ k) := by
  have hchoose : s.chooseHome 3 = ((List.range 3).filter s.baseUp).foldl (lighter s.load) 3 := rfl
  have hsort : ((List.range 3).filter s.baseUp).Pairwise (· < ·) := List.pairwise_lt_range.filter _
  have hmem (k : Nat) : k ∈ (List.range 3).filter s.baseUp ↔ k < 3 ∧ s.baseUp k = true := by simp
  rw [hchoose]
  generalize (List.range 3).filter s.baseUp = l at hsort hmem
  cases l with
  | nil => exact absurd ((hmem 1).mpr ⟨by decide, hup⟩) List.not_mem_nil
  | cons a l =>
    obtain ⟨hal, hsort'⟩ := List.pairwise_cons.mp hsort
    have ha := (hmem a).mp List.mem_cons_self
    obtain ⟨hin, hmin⟩ := foldl_lighter s.load l a (by omega) (fun k hk => ⟨hal k hk, by have := ((hmem k).mp (List.mem_cons_of_mem _ hk)).1; omega⟩) hsort'
    have hhome := (hmem _).mp (List.mem_cons.mpr hin)
    exact ⟨hhome.1, hhome.2, fun k hk hku => hmin k (List.mem_cons.mp ((hmem k).mpr ⟨hk, hku⟩))⟩

theorem State.chooseHome_named {s : State} {b : Nat} (h : b ≠ 3) : s.chooseHome b = b := if_neg h

theorem cmdHome_lt (body : BitVec 60) : cmdHome body < 4 := Nat.mod_lt _ (by decide)

theorem State.cmdOpen_down {s : State} (n : Nat) {body : BitVec 60} (hjob : (s.job (cmdJob body)).valid = true) (hnamed : cmdHome body ≠ 3)
    (hdown : s.baseUp (cmdHome body) = false) : s.cmdOpen n body = (S_DIE_DOWN, s) := by
  simp [State.cmdOpen, hjob, State.chooseHome_named hnamed, hdown]

/-- A stream just opened (R41, R47). -/
def Stream.opened (x : Stream) (home job : Nat) (descant : Bool) : Stream :=
  { Stream.fresh with st := .idle, home := home, descant := descant, job := job, gen := x.gen, bound := x.bound }

theorem State.cmdOpen_opens {s : State} (n : Nat) {body : BitVec 60} (hjob : (s.job (cmdJob body)).valid = true)
    (hlt : s.chooseHome (cmdHome body) < 3) (hup : s.baseUp (s.chooseHome (cmdHome body)) = true) :
    s.cmdOpen n body = (S_OK, s.setStream n ((s.stream n).opened (s.chooseHome (cmdHome body)) (cmdJob body) (s.job (cmdJob body)).descant)) := by
  simp [State.cmdOpen, hjob, hlt, hup, Stream.opened]

/-- Settles O8: a free stream's OPEN is ordered at base die 1 and goes to the die named or to the first one of least load. -/
theorem openMakesStreamIdle : Obligations.OpenMakesStreamIdle := by
  unfold Obligations.OpenMakesStreamIdle
  intro n body s hreach hready hclean hfree hjob
  have hdec : (s.counted n.val).decideCmd n.val opOpen body = (s.counted n.val).cmdOpen n.val body := by
    rw [State.decideCmd_free (by simpa using hready) (by decide) hclean (by simpa [Stream.isOpen] using hfree), if_pos rfl]
  refine ⟨fun hnamed hdown => ?_, fun hhome => ?_⟩
  · obtain ⟨hstream, hkept, _⟩ := State.command_refused hreach (hdec.trans (State.cmdOpen_down _ (by simpa using hjob) hnamed (by simpa using hdown)))
    exact ⟨_, rfl, by rw [hstream]; exact hfree, by rw [hstream], hkept⟩
  · have hchosen : s.chooseHome (cmdHome body) < 3 ∧ s.baseUp (s.chooseHome (cmdHome body)) = true := by
      by_cases hnamed : cmdHome body = 3
      · rw [hnamed]
        exact (State.chooseHome_three (State.hostReach_baseUp hreach)).imp_right And.left
      · rw [State.chooseHome_named hnamed]
        have := cmdHome_lt body
        exact ⟨by omega, hhome.resolve_left hnamed⟩
    have hopens := hdec.trans (State.cmdOpen_opens n.val (by simpa using hjob) (by simpa using hchosen.1) (by simpa using hchosen.2))
    obtain ⟨hstream, hkept, hregs, hframe⟩ := State.command_onStream hreach hopens
    rw [State.orderedAt_free hfree] at hregs
    refine ⟨_, rfl, ⟨s.chooseHome (cmdHome body), hchosen.1, hchosen.2, State.chooseHome_named, fun h3 => ?_, ?_⟩, hkept, hregs, ?_, hframe⟩
    · rw [h3]
      exact (State.chooseHome_three (State.hostReach_baseUp hreach)).2.2
    · rw [hstream]
      simp only [State.counted_chooseHome, State.counted_job, State.counted_stream]
      rfl
    · have hcount : (s.command n.val opOpen body).regs = (s.counted n.val).regs := by
        rw [State.command_eq hreach hopens, State.updRec_regs, State.setStream_regs]
      rw [State.word_congr hcount, State.counted, State.orderedAt_free hfree, State.countWrap_word, if_pos rfl, State.word_reg]
      rfl

/-! ### RING (R41, R42, R45) -/

/-- Where no submission can start, none does. -/
theorem State.startNext_waits {s : State} {n : Nat} (h : (s.stream n).active = true) : s.startNext n = s := by
  have hrest : ((s.stream n).ended || decide ((s.stream n).st = .idle)) = false := by
    cases hst : (s.stream n).st <;> simp_all [Stream.active, Stream.ended]
  unfold State.startNext
  dsimp only
  split
  · rw [hrest]
    rfl
  · rfl

/-- A stream with its next submission begun in a state (R41). -/
def Stream.begun (x : Stream) (s : State) (sub : Sub) (rest : List Sub) : Stream :=
  { x.enterBinding sub s.nextReq (s.job x.job).phase s.mem.bytes with pend := rest }

/-- A state in which a stream's next submission begins. -/
def State.begin (s : State) (n : Nat) (sub : Sub) (rest : List Sub) : State :=
  { s.updRec n (fun x => x.begun s sub rest) with nextReq := s.nextReq + 1 }

theorem State.begin_stream (s : State) (n m : Nat) (sub : Sub) (rest : List Sub) : (s.begin n sub rest).stream m =
    if m = n then { (s.stream n).begun s sub rest with gen := (s.stream n).gen + 1 } else s.stream m :=
  State.updRec_stream s n m (fun x => x.begun s sub rest)

/-- A resting stream with a free hand takes the submission in front (R41). -/
theorem State.startNext_starts {s : State} {n : Nat} {sub : Sub} {rest : List Sub} (hrest : (s.stream n).st = .idle ∨ (s.stream n).ended = true)
    (hbound : (s.stream n).bound = none) (hpend : (s.stream n).pend = sub :: rest) : s.startNext n = s.begin n sub rest := by
  have hstart : (((s.stream n).ended || decide ((s.stream n).st = .idle)) && (s.stream n).bound.isNone) = true := by
    rw [hbound]
    rcases hrest with h | h <;> simp [h]
  unfold State.startNext
  dsimp only
  rw [hpend]
  exact if_pos hstart

/-- Either nothing starts, or the submission in front does. -/
theorem State.startNext_cases (s : State) (n : Nat) :
    s.startNext n = s ∨ ∃ sub rest, ((s.stream n).ended = true ∨ (s.stream n).st = .idle) ∧ (s.stream n).pend = sub :: rest ∧ s.startNext n = s.begin n sub rest := by
  unfold State.startNext
  dsimp only
  split
  case h_1 sub rest hpend =>
    split
    case isTrue h =>
      simp only [Bool.and_eq_true, Bool.or_eq_true, decide_eq_true_eq] at h
      exact .inr ⟨sub, rest, h.1, hpend, rfl⟩
    case isFalse => exact .inl rfl
  case h_2 => exact .inl rfl

/-- What a start touches beside its stream is the numbering of entries into BINDING. -/
theorem State.startNext_frame (s : State) (n : Nat) : ∃ streams nextReq, s.startNext n = { s with streams := streams, nextReq := nextReq } := by
  rcases s.startNext_cases n with h | ⟨sub, rest, _, _, h⟩
  · exact ⟨_, _, h⟩
  · exact ⟨_, _, h⟩

theorem State.startNext_streamsKept (s : State) (n : Nat) {m : Nat} (hm : m ≠ n) : (s.startNext n).stream m = s.stream m := by
  rcases s.startNext_cases n with h | ⟨sub, rest, _, _, h⟩
  · rw [h]
  · rw [h, State.begin_stream, if_neg hm]

/-- An accepted SEQ stays the last accepted one, whether or not a submission starts (R42). -/
theorem State.startNext_lastSeq (s : State) (n : Nat) : ((s.startNext n).stream n).lastSeq = (s.stream n).lastSeq := by
  rcases s.startNext_cases n with h | ⟨sub, rest, _, _, h⟩
  · rw [h]
  · rw [h, State.begin_stream, if_pos rfl]
    rfl

/-- A start rewrites the record once (R49). -/
theorem State.startNext_gen (s : State) (n : Nat) : ((s.startNext n).stream n).gen = (s.stream n).gen ∨ ((s.startNext n).stream n).gen = (s.stream n).gen + 1 := by
  rcases s.startNext_cases n with h | ⟨sub, rest, _, _, h⟩
  · exact .inl (by rw [h])
  · exact .inr (by rw [h, State.begin_stream, if_pos rfl])

/-- The stream with an accepted RING's submission queued last (R42). -/
def Stream.queued (x : Stream) (body : BitVec 60) : Stream :=
  { x with lastSeq := cmdSeqOf body, pend := x.pend ++ [⟨cmdSeqOf body, cmdSubmit body⟩] }

theorem State.cmdRing_seq {s : State} {n : Nat} {body : BitVec 60} (h : cmdSeqOf body ≠ (s.stream n).nextSeq) : s.cmdRing n body = (S_SEQ, s) := by
  unfold State.cmdRing
  exact if_pos h

theorem State.cmdRing_full {s : State} {n : Nat} {body : BitVec 60} (h : cmdSeqOf body = (s.stream n).nextSeq) (hfull : 4 ≤ (s.stream n).pend.length) :
    s.cmdRing n body = (S_RING_FULL, s) := by
  unfold State.cmdRing
  dsimp only
  rw [if_neg (not_not.mpr h), if_pos hfull]

theorem State.cmdRing_access {s : State} {n : Nat} {body : BitVec 60} (h : cmdSeqOf body = (s.stream n).nextSeq) (hroom : (s.stream n).pend.length < 4)
    (hno : s.allowed (s.stream n).job (cmdSubmit body).toNat 64 false = false) : s.cmdRing n body = (S_ACCESS, s) := by
  unfold State.cmdRing
  dsimp only
  rw [if_neg (not_not.mpr h), if_neg (not_le.mpr hroom), if_pos (by simpa [State.headerOk] using hno)]

theorem State.cmdRing_accepts {s : State} {n : Nat} {body : BitVec 60} (h : cmdSeqOf body = (s.stream n).nextSeq) (hroom : (s.stream n).pend.length < 4)
    (hok : s.allowed (s.stream n).job (cmdSubmit body).toNat 64 false = true) :
    s.cmdRing n body = (S_OK, (s.setStream n ((s.stream n).queued body)).startNext n) := by
  unfold State.cmdRing
  dsimp only
  rw [if_neg (not_not.mpr h), if_neg (not_le.mpr hroom), if_neg (by simpa [State.headerOk] using hok)]
  rfl

/-- Settles O9: a refused SEQ, and an accepted one on a resting stream and on a busy one. -/
theorem ringStartsOrQueues : Obligations.RingStartsOrQueues := by
  unfold Obligations.RingStartsOrQueues
  intro n body s x hreach hready hopen hup hclean
  have hdec : (s.counted n.val).decideCmd n.val opRing body = (s.counted n.val).cmdRing n.val body :=
    State.decideCmd_open (by simpa using hready) (by decide) hclean (by simpa [Stream.isOpen] using hopen) (by simpa using hup)
  have hhome := State.orderedAt_home hopen hup
  refine ⟨fun hseq => ?_, fun hseq hroom hok => ?_⟩
  · obtain ⟨hstream, hkept, hregs, hframe⟩ := State.command_refused hreach (hdec.trans (State.cmdRing_seq (by rw [State.counted_stream]; exact hseq)))
    exact ⟨_, rfl, hstream, hkept, hhome ▸ hregs, hframe⟩
  · have hcmd := State.command_eq hreach (hdec.trans (State.cmdRing_accepts (by rw [State.counted_stream]; exact hseq) (by simpa using hroom) (by simpa using hok)))
    have hregs := s.counted_regsKept n.val
    rw [hhome] at hregs
    rw [State.counted_stream] at hcmd
    obtain ⟨regs, hcount⟩ := s.counted_frame n.val
    rw [hcount] at hcmd hregs
    generalize hu : ({ s with regs := regs } : State).setStream n.val ((s.stream n.val).queued body) = u at hcmd
    have hun : u.stream n.val = x.queued body := by rw [← hu, State.setStream_same]
    have hum : ∀ m, m ≠ n.val → u.stream m = s.stream m := fun m hm => by rw [← hu, State.setStream_stream, if_neg hm]; rfl
    obtain ⟨streams, nextReq, hstart⟩ := u.startNext_frame n.val
    have hstream := State.updRec_answered_stream (u.startNext n.val) n.val opRing body S_OK
    rw [← hcmd] at hstream
    refine ⟨_, rfl, by rw [hstream], by rw [hstream], by rw [hstream]; rfl, ?_, fun hrest hpend hbound => ?_, fun hactive => ?_, fun m hm => ?_, ?_, ?_⟩
    · rw [hstream]
      exact (u.startNext_lastSeq n.val).trans (by rw [hun]; rfl)
    · have hone : (u.stream n.val).pend = [⟨cmdSeqOf body, cmdSubmit body⟩] := by
        rw [hun, Stream.queued, hpend]
        rfl
      have hnow := State.startNext_starts (by rw [hun]; exact hrest) (by rw [hun]; exact hbound) hone
      rw [hstream, hnow, State.begin_stream, if_pos rfl, hun]
      refine ⟨rfl, rfl, rfl, rfl, rfl, rfl, rfl, rfl, rfl, rfl, ?_, rfl⟩
      rcases hrest with hidle | hended
      · rw [if_pos hidle]
        exact if_neg (by simp [Stream.ended, Stream.queued, hidle])
      · have hne : x.st ≠ .idle := by rintro h; simp [Stream.ended, h] at hended
        rw [if_neg hne]
        exact if_pos hended
    · rw [hstream, State.startNext_waits (by rw [hun]; exact hactive), hun]
      exact ⟨rfl, rfl, rfl⟩
    · have hne : m ≠ n.val := by simpa using hm
      show (s.command n.val opRing body).stream m = _
      rw [hcmd, State.updRec_stream, if_neg hne, State.startNext_streamsKept _ _ hne, hum m hne]
    · have hsame : (s.command n.val opRing body).regs = regs := by rw [hcmd, State.updRec_regs, hstart, ← hu, State.setStream_regs]
      exact fun k hk => (State.word_congr (t := s.command n.val opRing body) (s := { s with regs := regs }) hsame k).trans (hregs k hk)
    · show s.command n.val opRing body = { s with streams := (s.command n.val opRing body).streams, regs := (s.command n.val opRing body).regs, nextReq := (s.command n.val opRing body).nextReq }
      rw [hcmd, hstart, ← hu]
      rfl

/-! ### ABORT (R56 to R58) -/

/-- An ABORT names the submission in progress (R56). -/
def Stream.abortable (x : Stream) (body : BitVec 60) : Prop := x.seq = cmdSeqOf body ∧ (x.st = .binding ∨ x.st = .running ∨ x.st = .frozen)

/-- The place of the queued submission that an ABORT names, the queue's length where it names none (R57). -/
def Stream.namedAt (x : Stream) (body : BitVec 60) : Nat := x.pend.findIdx (fun (p : Sub) => decide (p.seq = cmdSeqOf body))

theorem State.cmdAbort_current {s : State} {n : Nat} {body : BitVec 60} (h : (s.stream n).abortable body) : s.cmdAbort n body = (S_OK, s.drain n) := by
  unfold State.cmdAbort
  exact if_pos h

theorem State.cmdAbort_queued {s : State} {n : Nat} {body : BitVec 60} (h : ¬ (s.stream n).abortable body) (hk : (s.stream n).namedAt body < (s.stream n).pend.length) :
    s.cmdAbort n body = (S_OK, s.setStream n { s.stream n with
      dropped := (s.stream n).dropped + ((s.stream n).pend.length - (s.stream n).namedAt body), pend := (s.stream n).pend.take ((s.stream n).namedAt body) }) := by
  unfold State.cmdAbort
  exact (if_neg h).trans (if_pos hk)

theorem State.cmdAbort_none {s : State} {n : Nat} {body : BitVec 60} (h : ¬ (s.stream n).abortable body) (hk : ¬ (s.stream n).namedAt body < (s.stream n).pend.length) :
    s.cmdAbort n body = (S_NOTHING_TO_ABORT, s) := by
  unfold State.cmdAbort
  exact (if_neg h).trans (if_neg hk)

/-- Settles O10: the ABORT of the current submission, of a queued one, and of none. -/
theorem abortDrainsOrCuts : Obligations.AbortDrainsOrCuts := by
  unfold Obligations.AbortDrainsOrCuts
  intro n body s x q k hreach hready hopen hup hclean
  have hdec : (s.counted n.val).decideCmd n.val opAbort body = (s.counted n.val).cmdAbort n.val body :=
    State.decideCmd_open (by simpa using hready) (by decide) hclean (by simpa [Stream.isOpen] using hopen) (by simpa using hup)
  have hhome := State.orderedAt_home hopen hup
  have hx : (s.counted n.val).stream n.val = x := State.counted_stream _ _ _
  by_cases hcur : x.abortable body
  · have hcmd := State.command_eq hreach (hdec.trans (State.cmdAbort_current (by rwa [hx])))
    have hregs := s.counted_regsKept n.val
    rw [hhome] at hregs
    obtain ⟨bound, hstream⟩ := (s.counted n.val).drain_stream n.val
    have hquiet := (s.counted n.val).drain_quiet n.val
    obtain ⟨_, _, _, _, _, _, _, _, hframe⟩ := (s.counted n.val).drain_frame n.val
    have hrec := State.updRec_answered_stream ((s.counted n.val).drain n.val) n.val opAbort body S_OK
    rw [← hcmd, hstream, hx] at hrec
    obtain ⟨regs, hcount⟩ := s.counted_frame n.val
    rw [hcount] at hquiet hframe hcmd hregs
    refine ⟨_, rfl, fun k hk => ?_, ?_, fun hwait => ?_, fun _ => ?_, fun h => absurd hcur h, fun h => absurd hcur h⟩
    · have hsame : (s.command n.val opAbort body).regs = regs := by rw [hcmd, State.updRec_regs, hframe]
      exact (State.word_congr (t := s.command n.val opAbort body) (s := { s with regs := regs }) hsame k).trans (hregs k hk)
    · show s.command n.val opAbort body = { s with
        streams := (s.command n.val opAbort body).streams, regs := (s.command n.val opAbort body).regs, upds := (s.command n.val opAbort body).upds
        colls := (s.command n.val opAbort body).colls, readds := (s.command n.val opAbort body).readds, waiting := (s.command n.val opAbort body).waiting
        links := (s.command n.val opAbort body).links, bundles := (s.command n.val opAbort body).bundles, out := (s.command n.val opAbort body).out }
      rw [hcmd, hframe]
      rfl
    · show (s.command n.val opAbort body).links = _ ∧ (s.command n.val opAbort body).bundles = _ ∧ (s.command n.val opAbort body).out = _
      rw [hcmd]
      exact hquiet hwait
    · rw [hrec]
      exact ⟨rfl, rfl, rfl, rfl, rfl, rfl, rfl⟩
  · by_cases hk : x.namedAt body < x.pend.length
    · have hcut := hdec.trans (State.cmdAbort_queued (by rwa [hx]) (by rwa [hx]))
      rw [hx] at hcut
      obtain ⟨hstream, hkept, hregs, hframe⟩ := State.command_onStream hreach hcut
      exact ⟨_, rfl, hhome ▸ hregs, by rw [hframe], fun _ => by rw [hframe]; exact ⟨rfl, rfl, rfl⟩, fun h => absurd h hcur,
        fun _ _ => ⟨hstream, hkept, hframe⟩, fun _ h => absurd hk h⟩
    · obtain ⟨hstream, hkept, hregs, hframe⟩ := State.command_refused hreach (hdec.trans (State.cmdAbort_none (by rwa [hx]) (by rwa [hx])))
      exact ⟨_, rfl, hhome ▸ hregs, by rw [hframe], fun _ => by rw [hframe]; exact ⟨rfl, rfl, rfl⟩, fun h => absurd h hcur,
        fun _ h => absurd h hk, fun _ _ => ⟨hstream, hkept, hframe⟩⟩

/-! ### CLOSE (R41), and the tests of R609 in order -/

theorem State.cmdClose_busy {s : State} {n : Nat} (h : (s.stream n).busy = true) : s.cmdClose n = (S_BUSY, s) := if_pos h

theorem State.cmdClose_frees {s : State} {n : Nat} (h : (s.stream n).busy = false) : s.cmdClose n = (S_OK, s.setStream n { s.stream n with st := .free }) :=
  if_neg (by simp [h])

theorem State.cmdOpen_noJob {s : State} (n : Nat) {body : BitVec 60} (h : (s.job (cmdJob body)).valid = false) : s.cmdOpen n body = (S_NO_JOB, s) := by
  simp [State.cmdOpen, h]

/-- The first test of R609 that a command word fails. -/
def State.firstFailed (s : State) (n op : Nat) (body : BitVec 60) : Option U16 :=
  if s.start.ready = false then some S_NOT_READY
  else if ¬ (1 ≤ op ∧ op ≤ 4) ∨ cmdClean op body = false then some S_BAD_COMMAND
  else if decide ((s.stream n).st ≠ .free) = true ∧ s.baseUp (s.stream n).home = false then (if op = opClose ∧ (s.stream n).busy = false then none else some S_DIE_DOWN)
  else if decide ((s.stream n).st ≠ .free) = false ∧ op ≠ opOpen then some S_NOT_OPEN
  else if decide ((s.stream n).st ≠ .free) = true ∧ op = opOpen then some S_ALREADY_OPEN
  else if op = opClose ∧ (s.stream n).busy = true then some S_BUSY
  else if op = opOpen ∧ (s.job (cmdJob body)).valid = false then some S_NO_JOB
  else if op = opOpen ∧ cmdHome body ≠ 3 ∧ s.baseUp (cmdHome body) = false then some S_DIE_DOWN
  else if op = opRing ∧ cmdSeqOf body ≠ (s.stream n).nextSeq then some S_SEQ
  else if op = opRing ∧ 4 ≤ (s.stream n).pend.length then some S_RING_FULL
  else if op = opRing ∧ s.allowed (s.stream n).job (cmdSubmit body).toNat 64 false = false then some S_ACCESS
  else none

section
variable {s : State} {n op : Nat} {body : BitVec 60} {code : U16}

/-- The tests of a command on a free stream. -/
theorem State.decideCmd_free_failed (hready : s.start.ready = true) (hop : 1 ≤ op ∧ op ≤ 4) (hclean : cmdClean op body = true)
    (hfree : (s.stream n).isOpen = false) (h : s.firstFailed n op body = some code) : s.decideCmd n op body = (code, s) := by
  have hst := (Stream.isOpen_false_iff _).mp hfree
  rw [State.decideCmd_free hready hop hclean hfree]
  by_cases hopen : op = opOpen
  · subst hopen
    simp only [State.firstFailed, hready, hclean, hst] at h
    by_cases hjob : (s.job (cmdJob body)).valid = false
    · simp_all [State.cmdOpen_noJob, opOpen, opClose]
    · by_cases hdown : cmdHome body ≠ 3 ∧ s.baseUp (cmdHome body) = false
      · rw [if_pos rfl, State.cmdOpen_down n (by simpa using hjob) hdown.1 hdown.2]
        simp_all [opOpen, opClose]
      · simp_all [opOpen, opClose, opRing]
  · simp_all [State.firstFailed]

/-- The tests of a command on an open stream whose home is up. -/
theorem State.decideCmd_open_failed (hready : s.start.ready = true) (hop : 1 ≤ op ∧ op ≤ 4) (hclean : cmdClean op body = true)
    (hopen : (s.stream n).isOpen = true) (hup : s.baseUp (s.stream n).home = true) (h : s.firstFailed n op body = some code) :
    s.decideCmd n op body = (code, s) := by
  have hst := (Stream.isOpen_iff _).mp hopen
  have hlisted : op = opOpen ∨ op = opRing ∨ op = opAbort ∨ op = opClose := by simp only [opOpen, opRing, opAbort, opClose]; omega
  rw [State.decideCmd_open hready hop hclean hopen hup]
  rcases hlisted with rfl | rfl | rfl | rfl
  · simp_all [State.firstFailed]
  · simp only [State.firstFailed, hready, hclean, hup] at h
    by_cases hseq : cmdSeqOf body = (s.stream n).nextSeq
    · by_cases hfull : 4 ≤ (s.stream n).pend.length
      · simp_all [opRing, opOpen, opClose, State.cmdRing_full]
      · by_cases hno : s.allowed (s.stream n).job (cmdSubmit body).toNat 64 false = false
        · rw [if_neg (by decide), if_pos rfl, State.cmdRing_access hseq (not_le.mp hfull) hno]
          simp_all [opRing, opOpen, opClose]
        · simp_all [opRing, opOpen, opClose]
    · simp_all [opRing, opOpen, opClose, State.cmdRing_seq]
  · simp_all [State.firstFailed, opRing, opOpen, opClose, opAbort]
  · by_cases hbusy : (s.stream n).busy = true
    · simp_all [State.firstFailed, opRing, opOpen, opClose, opAbort, State.cmdClose_busy]
    · simp_all [State.firstFailed, opRing, opOpen, opClose]

/-- The first test that fails gives the result, and the state is as it was (R609). -/
theorem State.decideCmd_failed (h : s.firstFailed n op body = some code) : s.decideCmd n op body = (code, s) := by
  cases hready : s.start.ready with
  | false =>
    rw [State.decideCmd_notReady hready]
    simp_all [State.firstFailed]
  | true =>
    by_cases hbad : ¬ (1 ≤ op ∧ op ≤ 4) ∨ cmdClean op body = false
    · rw [State.decideCmd_bad hready hbad]
      simp only [State.firstFailed, hready, hbad] at h
      simp_all
    · obtain ⟨hop, hclean⟩ : (1 ≤ op ∧ op ≤ 4) ∧ cmdClean op body = true := by simpa using hbad
      cases hopen : (s.stream n).isOpen with
      | false => exact State.decideCmd_free_failed hready hop hclean hopen h
      | true =>
        cases hup : s.baseUp (s.stream n).home with
        | true => exact State.decideCmd_open_failed hready hop hclean hopen hup h
        | false =>
          have hst := (Stream.isOpen_iff _).mp hopen
          rw [State.decideCmd_down hready hop hclean hopen hup]
          simp only [State.firstFailed, hready, hbad, hup] at h
          by_cases hclose : op = opClose ∧ (s.stream n).busy = false <;> simp_all

end

/-! ### Every word is answered (R49) -/

/-- What a command does to a record's GEN before it is answered: nothing, or one rewrite where a submission starts. -/
theorem State.decideCmd_gen (s : State) (n op : Nat) (body : BitVec 60) :
    ((s.decideCmd n op body).2.stream n).gen = (s.stream n).gen ∨ ((s.decideCmd n op body).2.stream n).gen = (s.stream n).gen + 1 := by
  have hopen : ((s.cmdOpen n body).2.stream n).gen = (s.stream n).gen := by
    unfold State.cmdOpen
    dsimp only
    split
    · rfl
    · split
      · rfl
      · rw [State.setStream_same]
  have hring : ((s.cmdRing n body).2.stream n).gen = (s.stream n).gen ∨ ((s.cmdRing n body).2.stream n).gen = (s.stream n).gen + 1 := by
    by_cases hseq : cmdSeqOf body = (s.stream n).nextSeq
    · by_cases hfull : 4 ≤ (s.stream n).pend.length
      · exact .inl (by rw [State.cmdRing_full hseq hfull])
      · cases hok : s.allowed (s.stream n).job (cmdSubmit body).toNat 64 false with
        | false => exact .inl (by rw [State.cmdRing_access hseq (not_le.mp hfull) hok])
        | true =>
          rw [State.cmdRing_accepts hseq (not_le.mp hfull) hok]
          have h := (s.setStream n ((s.stream n).queued body)).startNext_gen n
          rwa [State.setStream_same] at h
    · exact .inl (by rw [State.cmdRing_seq hseq])
  have habort : ((s.cmdAbort n body).2.stream n).gen = (s.stream n).gen := by
    by_cases hcur : (s.stream n).abortable body
    · obtain ⟨b, hb⟩ := s.drain_stream n
      rw [State.cmdAbort_current hcur, hb]
    · by_cases hk : (s.stream n).namedAt body < (s.stream n).pend.length
      · rw [State.cmdAbort_queued hcur hk, State.setStream_same]
      · rw [State.cmdAbort_none hcur hk]
  have hclose : ((s.cmdClose n).2.stream n).gen = (s.stream n).gen := by
    cases hbusy : (s.stream n).busy with
    | true => rw [State.cmdClose_busy hbusy]
    | false => rw [State.cmdClose_frees hbusy, State.setStream_same]
  unfold State.decideCmd
  dsimp only
  split_ifs
  · exact .inl rfl
  · exact .inl rfl
  · exact .inl hclose
  · exact .inl rfl
  · exact .inl hopen
  · exact .inl rfl
  · exact .inl rfl
  · exact hring
  · exact .inl habort
  · exact .inl hclose

theorem word_add_one_ne (g : U32) : g + 1 ≠ g := by bv_omega

theorem word_add_two_ne (g : U32) : g + 1 + 1 ≠ g := by bv_omega

theorem exec_commandWord {c : Instr} {n op : Nat} {body : BitVec 60} (h : commandWord c = some (n, op, body)) (s : State) :
    exec c s = .next (s.command n op body) := by
  cases c with
  | openStream _ _ | ring _ _ | abort _ _ | close _ _ | badCommand _ _ =>
    simp only [commandWord, Option.some.injEq, Prod.mk.injEq] at h
    obtain ⟨rfl, rfl, rfl⟩ := h
    rfl
  | _ => cases h

/-- Settles O11: the word's answer, and what a refusal leaves. -/
theorem commandTestsInOrder : Obligations.CommandTestsInOrder := by
  unfold Obligations.CommandTestsInOrder
  intro c n op body s hword hreach x isOpen seqNext first
  obtain ⟨⟨code, t⟩, hdec⟩ : ∃ p, (s.counted n).decideCmd n op body = p := ⟨_, rfl⟩
  have hrec := State.updRec_answered_stream t n op body code
  rw [← State.command_eq hreach hdec] at hrec
  have hgen := (s.counted n).decideCmd_gen n op body
  rw [hdec, State.counted_stream] at hgen
  refine ⟨_, exec_commandWord hword s, by rw [hrec], by rw [hrec]; rfl, ?_, fun code hcode => ?_⟩
  · rw [hrec]
    show (t.stream n).gen + 1 ≠ (s.stream n).gen
    rcases hgen with h | h
    · rw [h]
      exact word_add_one_ne _
    · rw [h]
      exact word_add_two_ne _
  · have hfailed : (s.counted n).firstFailed n op body = some code := by
      obtain ⟨regs, hcount⟩ := s.counted_frame n
      rw [hcount]
      exact hcode
    obtain ⟨hstream, hkept, hregs, hframe⟩ := State.command_refused hreach (State.decideCmd_failed hfailed)
    exact ⟨by rw [hstream], hkept, hregs, hframe⟩

/-! ### CLOSE, a bad word, dropped writes and the stall mark (R41, R43, R44, R55) -/

theorem close_frees (n : Fin 16384) (s : State) (hreach : s.hostReach = true) (hready : s.start.ready = true) (hopen : (s.stream n.val).st ≠ .free)
    (hrest : (s.stream n.val).busy = false) :
    ∃ t, exec (.close n 0) s = .next t ∧
      t.stream n.val = { s.stream n.val with st := .free, cmdResult := S_OK, cmdOp := opClose, cmdSeq := 0, gen := (s.stream n.val).gen + 1 } ∧
      s.streamsKept t [n.val] ∧ s.regsKept t [(stmPage (s.orderedAt n.val)).base + 0x050] ∧ t = { s with streams := t.streams, regs := t.regs } := by
  have hclean : cmdClean opClose 0 = true := rfl
  have hisOpen : ((s.counted n.val).stream n.val).isOpen = true := by simpa [Stream.isOpen] using hopen
  have hclose : (s.counted n.val).decideCmd n.val opClose 0 = (s.counted n.val).cmdClose n.val := by
    cases hup : (s.counted n.val).baseUp ((s.counted n.val).stream n.val).home with
    | true => exact State.decideCmd_open (by simpa using hready) (by decide) hclean hisOpen hup
    | false =>
      rw [State.decideCmd_down (by simpa using hready) (by decide) hclean hisOpen hup]
      exact if_pos ⟨rfl, by simpa using hrest⟩
  obtain ⟨hstream, hkept, hregs, hframe⟩ := State.command_onStream hreach (hclose.trans (State.cmdClose_frees (by simpa using hrest)))
  rw [State.counted_stream] at hstream
  exact ⟨_, rfl, hstream, hkept, hregs, hframe⟩

theorem badCommand_refused (n : Fin 16384) (word : U64) (s : State) (hreach : s.hostReach = true) (hready : s.start.ready = true)
    (hbad : ¬ (1 ≤ word.toNat / 2 ^ 60 ∧ word.toNat / 2 ^ 60 ≤ 4) ∨ cmdClean (word.toNat / 2 ^ 60) (BitVec.ofNat 60 word.toNat) = false) :
    ∃ t, exec (.badCommand n word) s = .next t ∧ (t.stream n.val).st = (s.stream n.val).st ∧ (t.stream n.val).cmdResult = S_BAD_COMMAND ∧
      (t.stream n.val).cmdOp = word.toNat / 2 ^ 60 ∧ (t.stream n.val).gen = (s.stream n.val).gen + 1 ∧ s.streamsKept t [n.val] ∧
      t = { s with streams := t.streams, regs := t.regs } := by
  obtain ⟨hstream, hkept, _, hframe⟩ := State.command_refused hreach
    (State.decideCmd_bad (s := s.counted n.val) (n := n.val) (by simpa using hready) hbad)
  exact ⟨_, rfl, by rw [hstream], by rw [hstream], by rw [hstream], by rw [hstream], hkept, hframe⟩

theorem testBit_or_two_pow (a : U32) {i : Nat} (h : i < 32) : (a ||| BitVec.ofNat 32 (2 ^ i)).toNat.testBit i = true := by
  have hlt : 2 ^ i < 2 ^ 32 := Nat.pow_lt_pow_right (by decide) h
  rw [BitVec.toNat_or, Nat.testBit_or, BitVec.toNat_ofNat, Nat.mod_eq_of_lt hlt, Nat.testBit_two_pow_self, Bool.or_true]

theorem droppedWrite_counts (off : BitVec 20) (size : Nat) (s : State) (hreach : s.hostReach = true) (hdrop : ¬ (size = 8 ∧ off.toNat % 64 = 0)) :
    ∃ t, exec (.bar2DroppedWrite off size) s = .next t ∧ (t.reg .stmJob 0x050) = satAdd (s.reg .stmJob 0x050) 1 ∧
      (t.reg .stmJob offErrStat).toNat.testBit 2 = true ∧
      s.regsKept t [Page.stmJob.base + 0x050, Page.stmJob.base + offErrStat, Page.stmJob.base + offErrMask, Page.stmJob.base + offErrFirst] ∧
      t = { s with regs := t.regs } := by
  have hexec : exec (.bar2DroppedWrite off size) s = .next ((s.countSat .stmJob 0x050).raise .stmJob 2) := by
    show execBar2DroppedWrite off size s = _
    rw [execBar2DroppedWrite, if_pos (by simpa [hreach] using not_and_or.mp hdrop)]
  refine ⟨_, hexec, ?_, ?_, fun k hk => ?_, State.Regs.of_regs (.trans ⟨_, rfl⟩ (State.raise_onlyRegs _ _ _))⟩
  · rw [State.raise_reg_other _ _ _ (by decide), State.countSat_def, State.setReg_same]
  · rw [State.raise_stat]
    exact testBit_or_two_pow _ (by decide)
  · simp only [List.mem_cons, List.not_mem_nil, or_false, not_or] at hk
    obtain ⟨hcount, hstat, hmask, hfirst⟩ := hk
    rw [State.raise_word_other _ _ _ hstat hmask hfirst, State.countSat_word, if_neg hcount]

theorem clearBar2Drop_zeroes (s : State) (hreach : s.hostReach = true) :
    ∃ t, exec .clearBar2Drop s = .next t ∧ t.reg .stmJob 0x050 = 0 ∧ s.regsKept t [Page.stmJob.base + 0x050] ∧ t = { s with regs := t.regs } := by
  have hexec : exec .clearBar2Drop s = .next (s.setReg .stmJob 0x050 0) := by
    show execClearBar2Drop s = _
    rw [execClearBar2Drop, if_pos hreach]
  exact ⟨_, hexec, State.setReg_same _ _ _ _, s.setReg_regsKept _ _ _, rfl⟩

theorem stallTimeout_marks (n : Fin 16384) (s : State) (hrun : (s.stream n.val).st = .running) (hfirst : (s.stream n.val).stalled = false)
    (hon : s.field (stmPage (s.stream n.val).home) 0x040 0 16 ≠ 0) :
    ∃ t, exec (.stallTimeout n) s = .next t ∧ t.stream n.val = { s.stream n.val with stalled := true, gen := (s.stream n.val).gen + 1 } ∧
      s.streamsKept t [n.val] ∧ t = { s with streams := t.streams } := by
  have hexec : exec (.stallTimeout n) s = .next (s.updRec n.val (fun y => { y with stalled := true })) := by
    show execStallTimeout n s = _
    exact congrArg Host.Outcome.next (if_pos ⟨hrun, hfirst, hon⟩)
  refine ⟨_, hexec, ?_, fun m hm => ?_, rfl⟩
  · rw [State.updRec_stream, if_pos rfl]
  · rw [State.updRec_stream, if_neg (by simpa using hm)]

/-- Settles O12: one lemma each for the five commands. -/
theorem closeDropsAndStalls : Obligations.CloseDropsAndStalls := by
  unfold Obligations.CloseDropsAndStalls
  exact ⟨close_frees, badCommand_refused, droppedWrite_counts, clearBar2Drop_zeroes, stallTimeout_marks⟩

end Sys2Proof.Machine
end

section
/-! Proofs: job contexts (R66, R71, R370): what a write of STM_JOB_CFG sets, and when VALID is refused. -/

namespace Sys2Proof.Machine

/-! ### STM_JOB_CFG but for VALID -/

/-- Two words that agree above bit 0 give a job context the same fields (R71). -/
theorem Job.withCfg_congr (x : Job) {v w : U32} (h : w.toNat / 2 = v.toNat / 2) : x.withCfg w = x.withCfg v := by
  have hbit : w.toNat.testBit 1 = v.toNat.testBit 1 := by rw [Nat.testBit_succ, Nat.testBit_succ, h]
  have hfield (lo n : Nat) (hlo : 0 < lo) : fieldOf w lo n = fieldOf v lo n := by
    obtain ⟨k, rfl⟩ := Nat.exists_eq_succ_of_ne_zero hlo.ne'
    rw [fieldOf, fieldOf, Nat.pow_succ', ← Nat.div_div_eq_div_mul, ← Nat.div_div_eq_div_mul, h]
  rw [Job.withCfg, Job.withCfg, hbit, hfield 8 8 (by decide), hfield 16 7 (by decide)]

theorem half_congr {v w : U32} (h : ∀ i, w.getLsbD (i + 1) = v.getLsbD (i + 1)) : w.toNat / 2 = v.toNat / 2 :=
  Nat.eq_of_testBit_eq fun i => by rw [← Nat.testBit_succ, ← Nat.testBit_succ]; exact h i

theorem or_one_half (v : U32) : (v ||| 1).toNat / 2 = v.toNat / 2 :=
  half_congr fun i => by simp [BitVec.getLsbD_one]

theorem or_one_slot (v : U32) : fieldOf (v ||| 1) 8 8 = fieldOf v 8 8 := congrArg Job.keySlot (Job.withCfg_congr Job.fresh (or_one_half v))

theorem or_one_valid (v : U32) : (v ||| 1).toNat.testBit 0 = true := by simp

theorem mergeBits_one_half (v old : U32) (hold : old.toNat ≤ 1) : (mergeBits v old 1).toNat / 2 = v.toNat / 2 :=
  half_congr fun i => by
    have hno : old.getLsbD (i + 1) = false := Nat.testBit_lt_two_pow (Nat.lt_of_le_of_lt hold (Nat.one_lt_two_pow (by omega)))
    have hmask : mergeBits v old 1 = (v &&& ~~~1#32) ||| (old &&& 1#32) := rfl
    rw [hmask, BitVec.getLsbD_or, BitVec.getLsbD_and, BitVec.getLsbD_and, hno, BitVec.getLsbD_not, BitVec.getLsbD_one]
    simpa using BitVec.lt_of_getLsbD

theorem mergeBits_one_valid (v old : U32) : (mergeBits v old 1).toNat.testBit 0 = old.toNat.testBit 0 := by
  show (mergeBits v old 1).getLsbD 0 = old.getLsbD 0
  simp [mergeBits]

/-! ### What the write does (R71) -/

/-- A write to a VALID context that leaves VALID set changes nothing. -/
theorem State.writeJobCfg_held {s : State} {v : U32} (h : (s.job s.selJob).valid = true) (hv : v.toNat.testBit 0 = true) : s.writeJobCfg v = s := by
  unfold State.writeJobCfg
  rw [if_pos h, if_pos hv]

/-- The context selected with its fields written, the mirror stopped where its key is 0 (R71, R370). -/
def State.cfgWritten (s : State) (v : U32) : State := (s.setJob s.selJob ((s.job s.selJob).withCfg v)).checkTwinKey

theorem State.cfgWritten_jobs (s : State) (v : U32) : (s.cfgWritten v).jobs = SMap.set jobDefault s.jobs s.selJob ((s.job s.selJob).withCfg v) := by
  rw [State.cfgWritten, (State.checkTwinKey_frame _).2]
  rfl

theorem State.job_of_jobs {s : State} {jobs : List (Nat × Job)} (h : s.jobs = jobs) (k : Nat) : s.job k = SMap.get jobDefault jobs k := by rw [State.job, h]

theorem State.cfgWritten_job (s : State) (v : U32) (k : Nat) :
    (s.cfgWritten v).job k = if k = s.selJob then (s.job s.selJob).withCfg v else s.job k :=
  (State.job_of_jobs (s.cfgWritten_jobs v) k).trans (s.setJob_job s.selJob k _)

theorem State.cfgWritten_frame (s : State) (v : U32) : s.regsKept (s.cfgWritten v) (errRegs .twn) ∧
    s.cfgWritten v = { s with jobs := (s.cfgWritten v).jobs, twin := (s.cfgWritten v).twin, regs := (s.cfgWritten v).regs } := by
  obtain ⟨hregs, hframe⟩ := (s.setJob s.selJob ((s.job s.selJob).withCfg v)).checkTwinKey_frame
  refine ⟨fun k hk => (hregs k hk).trans (State.word_congr (State.setJob_regs _ _ _) k), ?_⟩
  rw [State.cfgWritten_jobs]
  exact hframe

/-- What says whether the mirror follows is the record, the mirrored job's key and the error registers of its page. -/
theorem State.mirrorFollows_congr {s s' t t' : State} (h : s.mirrorFollows t) (hregs : s'.regs = s.regs) (htwin : s'.twin = s.twin)
    (htwin' : t'.twin = t.twin) (hkey : t'.jobKey s.twinJob = t.jobKey s.twinJob) (herr : ∀ k, k ∈ errRegs .twn → t'.word k = t.word k) :
    s'.mirrorFollows t' := by
  have hreg (o : Nat) : s'.reg .twn o = s.reg .twn o := by rw [State.reg, State.reg, hregs]
  have hfield (o lo w : Nat) : s'.field .twn o lo w = s.field .twn o lo w := by rw [State.field, State.field, hreg]
  have hon : s'.twinOn = s.twinOn := by rw [State.twinOn, State.twinOn, hfield]
  have hjob : s'.twinJob = s.twinJob := by rw [State.twinJob, State.twinJob, hfield]
  have hword (k : Nat) : s'.word k = s.word k := State.word_congr hregs k
  have hstat : t'.reg .twn offErrStat = t.reg .twn offErrStat := herr _ (by simp [errRegs])
  have hmask : t'.reg .twn offErrMask = t.reg .twn offErrMask := herr _ (by simp [errRegs])
  unfold State.mirrorFollows State.raisedIn at h ⊢
  rw [hon, hjob, htwin, htwin', hkey, hstat, hmask, hreg, hreg]
  split
  case isTrue hc => rwa [if_pos hc] at h
  case isFalse hc =>
    rw [if_neg hc] at h
    exact ⟨h.1, fun k hk => by rw [herr k hk, h.2 k hk, hword]⟩

theorem State.cfgWritten_follows (s : State) (v : U32) : s.mirrorFollows (s.cfgWritten v) :=
  State.mirrorFollows_congr (State.checkTwinKey_follows _) (State.setJob_regs _ _ _).symm rfl rfl rfl fun _ _ => rfl

/-- The write to a context that is not VALID, in the words of R71. -/
theorem State.writeJobCfg_free {s : State} {v : U32} (h : (s.job s.selJob).valid = false) : s.writeJobCfg v =
    if v.toNat.testBit 0 then
      if (s.cfgWritten v).keySlotTaken s.selJob (fieldOf v 8 8) then (s.cfgWritten v).raise .stmJob 1
      else (s.cfgWritten v).setJob s.selJob { (s.job s.selJob).withCfg v with valid := true }
    else s.cfgWritten v := by
  unfold State.writeJobCfg State.cfgWritten
  rw [if_neg (by simp [h])]

theorem State.keySlotTaken_iff (s : State) (j slot : Nat) :
    s.keySlotTaken j slot = true ↔ ∃ k, k < 256 ∧ k ≠ j ∧ (s.job k).valid = true ∧ (s.job k).keySlot = slot := by
  simp [State.keySlotTaken, and_assoc]

theorem State.cfgWritten_taken (s : State) (v : U32) (slot : Nat) : (s.cfgWritten v).keySlotTaken s.selJob slot = s.keySlotTaken s.selJob slot := by
  refine Bool.eq_iff_iff.mpr ?_
  rw [State.keySlotTaken_iff, State.keySlotTaken_iff]
  refine exists_congr fun k => and_congr_right fun _ => and_congr_right fun hk => ?_
  rw [State.cfgWritten_job, if_neg hk]

theorem State.cfgWritten_congr (s : State) {v w : U32} (h : w.toNat / 2 = v.toNat / 2) : s.cfgWritten w = s.cfgWritten v := by
  rw [State.cfgWritten, State.cfgWritten, Job.withCfg_congr _ h]

theorem exec_jobCfgFieldsWrite (v : U32) {s : State} (hreach : s.hostReach = true) :
    exec (.jobCfgFieldsWrite v) s = .next (s.writeJobCfg (mergeBits v (if (s.job s.selJob).valid then 1 else 0) 1)) :=
  congrArg Host.Outcome.next (if_pos hreach)

theorem exec_jobValidSet (v : U32) {s : State} (hreach : s.hostReach = true) : exec (.jobValidSet v) s = .next (s.writeJobCfg (v ||| 1)) :=
  congrArg Host.Outcome.next (if_pos hreach)

theorem jobCfgFieldsWrite_stores (v : U32) {s : State} (hreach : s.hostReach = true) (hfree : (s.job s.selJob).valid = false) :
    exec (.jobCfgFieldsWrite v) s = .next (s.cfgWritten v) := by
  rw [exec_jobCfgFieldsWrite v hreach, hfree, s.writeJobCfg_free hfree, if_neg (by rw [mergeBits_one_valid]; decide),
    s.cfgWritten_congr (mergeBits_one_half v _ (by decide))]

/-- VALID asked of a context that is not VALID: given, or refused for its key slot (R66, R71). -/
theorem jobValidSet_stores (v : U32) {s : State} (hreach : s.hostReach = true) (hfree : (s.job s.selJob).valid = false) :
    exec (.jobValidSet v) s = .next (if s.keySlotTaken s.selJob (fieldOf v 8 8) then (s.cfgWritten v).raise .stmJob 1
      else (s.cfgWritten v).setJob s.selJob { (s.job s.selJob).withCfg v with valid := true }) := by
  rw [exec_jobValidSet v hreach, s.writeJobCfg_free hfree, if_pos (or_one_valid v), s.cfgWritten_congr (or_one_half v), or_one_slot,
    s.cfgWritten_taken, Job.withCfg_congr _ (or_one_half v)]

theorem State.keyAt_congr {s t : State} (h : t.keytab = s.keytab) (k : Nat) : t.keyAt k = s.keyAt k := by
  rw [State.keyAt, State.keyAt, h]

/-- VALID is no part of what the mirror follows. -/
theorem State.setValid_follows (s : State) (v : U32) :
    s.mirrorFollows ((s.cfgWritten v).setJob s.selJob { (s.job s.selJob).withCfg v with valid := true }) := by
  refine State.mirrorFollows_congr (s.cfgWritten_follows v) rfl rfl rfl ?_ fun _ _ => State.word_congr (State.setJob_regs _ _ _) _
  have hslot : (((s.cfgWritten v).setJob s.selJob { (s.job s.selJob).withCfg v with valid := true }).job s.twinJob).keySlot =
      ((s.cfgWritten v).job s.twinJob).keySlot := by
    rw [State.setJob_job, State.cfgWritten_job]
    split <;> rfl
  rw [State.jobKey, State.jobKey, hslot]
  exact State.keyAt_congr rfl _

theorem errRegs_twn_kept {k : Nat} (hk : k ∈ errRegs .twn) : k ∉ errRegs .stmJob := by
  simp only [errRegs, Page.base, List.mem_cons, List.not_mem_nil, or_false] at hk ⊢
  simp only [offErrStat, offErrMask, offErrFirst] at hk ⊢
  omega

theorem State.refused_follows (s : State) (v : U32) : s.mirrorFollows ((s.cfgWritten v).raise .stmJob 1) := by
  obtain ⟨regs, hraise⟩ := (s.cfgWritten v).raise_onlyRegs .stmJob 1
  refine State.mirrorFollows_congr (s.cfgWritten_follows v) rfl rfl (by rw [hraise]) ?_ fun k hk =>
    (s.cfgWritten v).raise_regsKept .stmJob 1 k (errRegs_twn_kept hk)
  rw [hraise]
  rfl

/-- Settles O13: the write of R71 stores the fields under VALID 0, and VALID only sets the flag or raises the bit afterwards. -/
theorem jobContextIsWritten : Obligations.JobContextIsWritten := by
  unfold Obligations.JobContextIsWritten
  intro v s j x y hreach
  obtain ⟨hregs, hframe⟩ := s.cfgWritten_frame v
  have hkept : keptBut s.job (s.cfgWritten v).job [j] := fun k hk => by
    rw [State.cfgWritten_job, if_neg (by simpa using hk)]
  have hjob : (s.cfgWritten v).job j = y := (s.cfgWritten_job v j).trans (if_pos rfl)
  refine ⟨fun hfree => ⟨?_, fun hnone => ?_, fun htaken => ?_⟩, fun hvalid => ⟨?_, ?_⟩⟩
  · exact ⟨_, jobCfgFieldsWrite_stores v hreach hfree, hjob, hkept, s.cfgWritten_follows v, hregs, hframe⟩
  · refine ⟨_, (jobValidSet_stores v hreach hfree).trans (congrArg Host.Outcome.next (if_neg ?_)), ?_, fun k hk => ?_, s.setValid_follows v,
      fun k hk => ?_, ?_⟩
    · rw [State.keySlotTaken_iff]
      rintro ⟨k, hk, hkj, hval, hslot⟩
      exact hnone k hk hkj hval hslot
    · exact State.setJob_same _ _ _
    · rw [State.setJob_job, if_neg (by simpa using hk)]
      exact hkept k hk
    · exact (State.word_congr (State.setJob_regs _ _ _) k).trans (hregs k hk)
    · rw [State.setJob, hframe]
  · obtain ⟨regs, hraise⟩ := (s.cfgWritten v).raise_onlyRegs .stmJob 1
    refine ⟨_, (jobValidSet_stores v hreach hfree).trans (congrArg Host.Outcome.next (if_pos ((s.keySlotTaken_iff _ _).mpr htaken))),
      ?_, fun k hk => ?_, ?_, s.refused_follows v, fun k hk => ?_, ?_⟩
    · rw [hraise]
      exact hjob
    · rw [hraise]
      exact hkept k hk
    · have herr (o : Nat) (ho : Page.stmJob.base + o ∉ errRegs .twn) : (s.cfgWritten v).reg .stmJob o = s.reg .stmJob o := hregs _ ho
      rw [State.raisedIn, ← herr offErrStat (by decide), ← herr offErrMask (by decide)]
      exact (s.cfgWritten v).raise_raisedIn .stmJob 1
    · rw [List.mem_append, not_or] at hk
      exact ((s.cfgWritten v).raise_regsKept .stmJob 1 k hk.1).trans (hregs k hk.2)
    · rw [hraise, hframe]
  · rw [exec_jobValidSet v hreach, State.writeJobCfg_held hvalid (or_one_valid v)]
  · rw [exec_jobCfgFieldsWrite v hreach, State.writeJobCfg_held hvalid]
    rw [mergeBits_one_valid, if_pos hvalid]
    decide

end Sys2Proof.Machine
end

section
/-! Proofs: clearing VALID (R71, R72, R287). O14 fails in one place, shown here. Its last clause lists all that a clear may change and leaves out the errors that no access has met yet. The clear writes each commit record with zeros through the controllers, and a line written whole loses the error that lay on it (R217, R222): where one lay on a record of the job, the clear changes more than the clause has. -/

namespace Sys2Proof.Machine

namespace UpsetRecord

/-- A claimed commit record of job 0. -/
def record : CRecord := ⟨0, 0, true, 0, 0, false, 0, 0, 0, [0, 0, 0, 0, 0], 0, 0, 0⟩

/-- A module in Run whose job 0 is VALID, has no open stream and owns the first commit record of stack 0; bursts of the record's line are to be repeated once. -/
def state : State :=
  { State.reset with
    start := { StartSt.reset with powered := true, ready := true }
    dies := [(13, { DieSt.unpowered with up := true })]
    jobs := [(0, { Job.fresh with valid := true })]
    mem := ⟨SMap.setMany byteDefault [] (recordAddr 0 0) (recordBytes record), [], []⟩
    upsets := [⟨recordAddr 0 0 / 64, false, 1⟩] }

def upsetsLeft : Res → List Upset
  | .next t => t.upsets
  | _ => []

theorem hostReaches : state.hostReach = true := by decide +kernel

theorem jobValid : (state.job state.selJob).valid = true := by decide +kernel

theorem noStreams : state.streamsOf state.selJob = [] := rfl

/-- The release of the record takes the error on its line away. -/
theorem upsetsLeft_clear : upsetsLeft (exec (.jobValidClear 0) state) = [] := by decide +kernel

end UpsetRecord

/-- Refutes O14: the zeros written over a commit record take an error on its line away, of which the clause on what else changes says nothing. -/
theorem not_jobClearGivesBack : ¬ Obligations.JobClearGivesBack := by
  unfold Obligations.JobClearGivesBack
  intro h
  obtain ⟨_, hclear⟩ := h 0 UpsetRecord.state UpsetRecord.hostReaches UpsetRecord.jobValid
  obtain ⟨t, hexec, _, _, _, _, _, _, _, _, _, _, _, hframe⟩ := hclear UpsetRecord.noStreams
  have hleft : t.upsets = [] := by
    have hgone := UpsetRecord.upsetsLeft_clear
    rwa [hexec] at hgone
  have hkept : t.upsets = UpsetRecord.state.upsets := by rw [hframe]
  exact absurd (hkept.symm.trans hleft) (by decide)

end Sys2Proof.Machine
end

section
/-! Proofs: what lets a Lathe take up a part of a node (R23, R276, R306, R309, R385). -/

namespace Sys2Proof.Machine

theorem State.firingOn_iff (s : State) : s.firingOn = true ↔ s.pwr.st = .run ∧ s.pwr.change = none := by
  simp [State.firingOn]

theorem State.unitFree_iff (s : State) (u : Nat) : s.unitFree u = true ↔
    u < 822 ∧ (s.die (unitDie u)).up = true ∧ (s.tuneUnit u).fenced = false ∧ (s.engine u).cur = none ∧ (s.engine u).tuning = false := by
  simp [State.unitFree, and_assoc]

/-- A Lathe takes up something only at a boundary where it is free to start. -/
theorem State.latheNext_free {s : State} {l : Nat} {q : Nat × Bool} (h : s.latheNext l = some q) : s.firingOn = true ∧ s.unitFree (819 + l) = true := by
  simp only [State.latheNext] at h
  split at h
  case isTrue => simp at h
  case isFalse hc =>
    simp only [Bool.or_eq_true, not_or, Bool.not_eq_true', Bool.not_eq_false] at hc
    exact hc.1

theorem State.latheSlot_running {s : State} {n node : Nat} {q : Bound × BNode × GNode} (h : s.latheSlot n node = some q) : (s.stream n).st = .running := by
  simp only [State.latheSlot] at h
  repeat' split at h
  all_goals simp_all

/-- A part that goes on in a firing under way: the Lathe runs the node's firing, which waits for nothing. -/
theorem State.beginPart_continues {s : State} {l n node : Nat} {part : LathePart} {blocks : Nat} {q : Running × Bound × BNode}
    (hf : s.firingOf (819 + l) = some q) (h : (s.beginPart l n node part blocks).2 = true) :
    q.1.stream = n ∧ q.2.2.node = node ∧ q.1.waits = [] ∧ s.pwr.st = .run := by
  obtain ⟨r, b, y⟩ := q
  simp only [State.beginPart, hf] at h
  split at h
  case isTrue hc => exact hc
  case isFalse => cases h

/-- A part that a Lathe starts: the slot is one it serves, the part is ready, a repetition due is of it, and the Lathe takes the slot up next. -/
theorem State.beginPart_starts {s : State} {l n node : Nat} {part : LathePart} {blocks : Nat}
    (hf : s.firingOf (819 + l) = none) (h : (s.beginPart l n node part blocks).2 = true) :
    ∃ q, s.latheSlot n node = some q ∧ s.servedBy n (s.stream n) q.1 q.2.1 q.2.2 l = true ∧
      s.partReady n (s.stream n) q.1 q.2.1 q.2.2 part blocks false = true ∧ q.2.1.repeats (part, blocks) = true ∧
      ∃ k, s.latheNext l = some k := by
  simp only [State.beginPart, hf] at h
  split at h
  case h_2 => cases h
  case h_1 b y g hslot =>
    split at h
    case isFalse => cases h
    case isTrue hc =>
      obtain ⟨hserved, hready, hrep⟩ := hc
      refine ⟨(b, y, g), hslot, hserved, hready, hrep, ?_⟩
      split at h
      case isTrue => cases h
      case isFalse =>
        split at h
        case isTrue => cases h
        case isFalse =>
          split at h
          case isTrue hnext => exact ⟨_, hnext⟩
          case isFalse => cases h

/-- A commit part is ready only with all work done, past the clean horizon of the step applied, and with quorum (R306, R309, R385). -/
theorem State.partReady_commit {s : State} {n blocks : Nat} {x : Stream} {b : Bound} {y : BNode} {g : GNode}
    (h : s.partReady n x b y g .commit blocks false = true) :
    ∃ v, s.updOf n y.node = some v ∧ v.workDone = true ∧ (∀ a, v.applies = some a → s.horizonPassed x.job a = true) ∧ s.quorumLost x.job = false := by
  unfold State.partReady at h
  obtain ⟨_, hpart⟩ := Bool.and_eq_true_iff.mp h
  cases hv : s.updOf n y.node with
  | none => rw [hv] at hpart; cases hpart
  | some v =>
    rw [hv] at hpart
    obtain ⟨hwork, hquorum⟩ := Bool.and_eq_true_iff.mp hpart
    obtain ⟨hdone, hpast⟩ := Bool.and_eq_true_iff.mp hwork
    refine ⟨v, rfl, hdone, fun a ha => ?_, by simpa using hquorum⟩
    rw [ha] at hpast
    exact hpast

theorem Upd.workDone_iff (v : Upd) : v.workDone = true ↔
    v.castOnly = false ∧ v.retained = v.hdr.n ∧ (v.applied = v.hdr.n ∨ (v.runsRecipe = false ∧ v.hasCast = false)) := by
  simp [Upd.workDone, and_assoc]

theorem State.horizonPassed_iff (s : State) (j step : Nat) : s.horizonPassed j step = true ↔ ∃ h, (s.job j).horizon = some h ∧ step ≤ h := by
  rw [State.horizonPassed]
  cases (s.job j).horizon <;> simp

/-- Settles O29, from the guards of `beginPart`, `latheNext` and `partReady`. -/
theorem latheStartsOnlyWhatIsReady : Obligations.LatheStartsOnlyWhatIsReady := by
  unfold Obligations.LatheStartsOnlyWhatIsReady
  constructor
  · intro l n node part blocks s u h
    refine ⟨fun q hq => State.beginPart_continues hq h, fun hnone => ?_⟩
    obtain ⟨q, hslot, hserved, hready, hrep, k, hnext⟩ := State.beginPart_starts hnone h
    obtain ⟨hon, hfree⟩ := State.latheNext_free hnext
    obtain ⟨_, hdie, hfence, hcur, _⟩ := (s.unitFree_iff _).mp hfree
    exact ⟨q, hslot, hserved, hready, hrep, hdie, hfence, hcur, (s.firingOn_iff.mp hon).1, State.latheSlot_running hslot⟩
  · intro n blocks b y g s x h
    obtain ⟨v, hv, hdone, hpast, hquorum⟩ := State.partReady_commit h
    obtain ⟨hcast, hret, happ⟩ := v.workDone_iff.mp hdone
    exact ⟨v, hv, hcast, hret, happ, fun a ha => (s.horizonPassed_iff _ _).mp (hpast a ha), hquorum⟩

end Sys2Proof.Machine
end

section
/-! Proofs: the start of a firing (R23, R24, R32 to R34, R402). -/

namespace Sys2Proof.Machine

/-! ### Reservations that lapse -/

/-- Only engines may differ. -/
def State.Engines (s t : State) : Prop := ∃ engines, t = { s with engines := engines }

theorem State.Engines.refl (s : State) : s.Engines s := ⟨_, rfl⟩

theorem State.Engines.trans {a b c : State} : a.Engines b → b.Engines c → a.Engines c := by
  rintro ⟨_, rfl⟩ ⟨_, rfl⟩
  exact ⟨_, rfl⟩

theorem State.updEngine_engines (s : State) (u : Nat) (f : Engine → Engine) : s.Engines (s.updEngine u f) := ⟨_, rfl⟩

theorem State.lapse_engines (s : State) : s.Engines s.lapse := by
  refine State.forEach_rel State.Engines.refl State.Engines.trans (fun t v => ?_) _ s
  split
  · split
    · exact State.Engines.refl t
    · exact t.updEngine_engines v _
  · exact State.Engines.refl t

/-! ### The choice at a boundary -/

theorem State.pick_free {s : State} {u : Nat} (h : s.pick u ≠ .nothing) : s.firingOn = true ∧ s.unitFree u = true := by
  unfold State.pick at h
  split at h
  case isTrue => exact absurd rfl h
  case isFalse hc =>
    simp only [Bool.or_eq_true, not_or, Bool.not_eq_true', Bool.not_eq_false] at hc
    obtain ⟨⟨hc, _⟩, _⟩ := hc
    exact hc

theorem roundRobin_isSome {last : Nat} {l : List Nat} (h : l ≠ []) : (roundRobin last l).isSome = true := by
  unfold roundRobin
  split
  · rfl
  · exact List.isSome_min?_of_ne_nil h

/-- Where a class has an eligible slot, what is chosen of that class is a firing or a reservation of it. -/
theorem State.choose_own {s : State} {u : Nat} {d : Bool} (h : s.eligible u d ≠ []) : ∃ k, s.choose u d = some (.fire k d) ∨ s.choose u d = some (.reserve k d) := by
  have hsome : ∀ last ask, ∃ k, roundRobin last (s.eligible u d ++ ask) = some k := fun last ask =>
    Option.isSome_iff_exists.mp (roundRobin_isSome (by simp [h]))
  unfold State.choose
  dsimp only
  split
  case h_1 k _ =>
    refine ⟨k, ?_⟩
    split
    · exact .inr rfl
    · exact .inl rfl
  case h_2 hnone =>
    obtain ⟨k, hk⟩ := hsome (if d then (s.engine u).lastDescant else (s.engine u).lastPrimary) (match s.asked u d with | some k => [k] | none => [])
    exact absurd (hnone.symm.trans hk) (by simp)

theorem State.pick_primary {s : State} {u : Nat} (k : Nat) (h : s.eligible u false ≠ []) : s.pick u ≠ .fire k true := by
  obtain ⟨c, hc⟩ := State.choose_own h
  unfold State.pick
  split
  · simp
  · rcases hc with hc | hc <;> rw [hc] <;> simp

/-! ### Tokens and credits taken -/

/-- The firing of a slot as it starts. -/
def Running.starting (k : Nat) (rep : Bool) : Running := ⟨k / 65536, k % 65536, rep, [], [], false, 0, (true, true), (.unsaid, 0)⟩

/-- The engine as it takes up a slot (R24, R32). -/
def Engine.takes (e : Engine) (k : Nat) (d rep : Bool) : Engine :=
  { (if d then { e with lastDescant := k } else { e with lastPrimary := k }) with cur := some (Running.starting k rep) }

def State.takeUp (s : State) (u k : Nat) (d rep : Bool) : State := (s.served u k d).updEngine u (fun e => { e with cur := some (Running.starting k rep) })

theorem State.takeUp_engines (s : State) (u k : Nat) (d rep : Bool) : s.Engines (s.takeUp u k d rep) := ⟨_, rfl⟩

theorem State.takeUp_engine (s : State) (u k v : Nat) (d rep : Bool) :
    (s.takeUp u k d rep).engine v = if v = u then (s.engine u).takes k d rep else s.engine v := by
  unfold State.takeUp State.updEngine State.served State.updEngine
  rw [State.setEngine_engine, State.setEngine_same, State.setEngine_engine]
  split
  · rfl
  · rfl

section
variable {s : State} {u k : Nat} {d : Bool} {b : Bound} {y : BNode} (hb : (s.stream (k / 65536)).bound = some b) (hy : b.nodes[k % 65536]? = some y)
include hb hy

/-- A slot's firing takes a token from each input and a credit from each output (R24). -/
theorem State.startFiring_first (hrep : y.rep = false) : s.startFiring u k d (true, true) (.unsaid, 0) =
    (s.setStream (k / 65536) { s.stream (k / 65536) with bound := some (b.take (k % 65536) (true, true)) }).takeUp u k d false := by
  simp [State.startFiring, State.takeTokens, hb, hy, BNode.taken, hrep, State.takeUp, Running.starting]

/-- A repetition takes neither and is counted (R402). -/
theorem State.startFiring_again (hrep : y.rep = true) (hl : isLathe y.unit = false) : s.startFiring u k d (true, true) (.unsaid, 0) =
    (s.takeUp u k d true).countSat .grn 0x074 := by
  simp [State.startFiring, State.takeTokens, hb, hy, BNode.taken, hrep, hl, State.takeUp, Running.starting]

end

/-- The descriptors of a copy are checked of COPY nodes and staging moves alone (R251). -/
theorem State.checkCopy_other {s : State} {u : Nat} {r : Running} {b : Bound} {y : BNode} {g : GNode} (hf : s.firingOf u = some (r, b, y))
    (hg : b.prog.nodes[y.node]? = some g) (hop : g.op ≠ opCopy) : s.checkCopy u = s := by
  simp only [State.checkCopy, hf, hg, if_neg hop]

theorem State.firingOf_eq {s : State} {u : Nat} {r : Running} {b : Bound} {y : BNode} (hr : (s.engine u).cur = some r)
    (hb : (s.stream r.stream).bound = some b) (hy : b.nodes[r.slot]? = some y) : s.firingOf u = some (r, b, y) := by
  simp only [State.firingOf, hr, hb, hy, Option.map_some]

theorem not_base_of_core {u : Nat} (h : (isArray u || isVector u || isCurve u) = true) :
    isLathe u = false ∧ isSequencer u = false ∧ isConsort u = false := by
  simp only [isArray, isVector, isCurve, isLathe, isSequencer, isConsort, Bool.or_eq_true, Bool.and_eq_true, decide_eq_true_eq] at h ⊢
  simp only [Bool.and_eq_false_iff, decide_eq_false_iff_not]
  omega

theorem firingStart_eq (u : Fin 822) (s : State) (h : isLathe u.val = false) : exec (.firingStart u) s = .next (s.fireStart u.val State.collStart) := by
  have hlow : ¬ 819 ≤ u.val := by
    simp only [isLathe, Bool.and_eq_false_iff, decide_eq_false_iff_not] at h
    omega
  exact congrArg Host.Outcome.next (if_neg hlow)

theorem State.fireStart_nothing {s : State} {u : Nat} {coll : State → Nat → State} (h : s.lapse.pick u = .nothing) : s.fireStart u coll = s.lapse := by
  simp only [State.fireStart, State.startSequencer, h, ite_self]

theorem State.fireStart_core {s : State} {u k : Nat} {d : Bool} {coll : State → Nat → State} (hu : (isArray u || isVector u || isCurve u) = true)
    (h : s.lapse.pick u = .fire k d) : s.fireStart u coll = (s.lapse.startFiring u k d (true, true) (.unsaid, 0)).checkCopy u := by
  obtain ⟨hl, hq, hc⟩ := not_base_of_core hu
  simp only [State.fireStart, h, hl, hq, hc, if_false, Bool.false_eq_true]

theorem State.Engines.stream {s t : State} (h : s.Engines t) (n : Nat) : t.stream n = s.stream n := by
  obtain ⟨_, rfl⟩ := h
  rfl

theorem State.engine_congr {s t : State} (h : t.engines = s.engines) (v : Nat) : t.engine v = s.engine v := by
  unfold State.engine
  rw [h]

theorem State.stream_congr {s t : State} (h : t.streams = s.streams) (n : Nat) : t.stream n = s.stream n := by
  unfold State.stream
  rw [h]

theorem Bound.take_both (b : Bound) (slot : Nat) : b.take slot (true, true) = { b with edges := b.edges.map (fun e =>
    { e with tokens := (if e.dst = slot then e.tokens.tail else e.tokens), credits := (if e.src = slot then e.credits - 1 else e.credits) }) } := by
  simp [Bound.take]

theorem Engine.takes_cur (e : Engine) (k : Nat) (d rep : Bool) : (e.takes k d rep).cur = some (Running.starting k rep) := rfl

section
variable {u : Fin 822} {d : Bool} {s : State} {k : Nat} {b : Bound} {y : BNode} {g : GNode}
  (hu : (isArray u.val || isVector u.val || isCurve u.val) = true) (hpick : s.lapse.pick u.val = .fire k d)
  (hb : (s.lapse.stream (k / 65536)).bound = some b) (hy : b.nodes[k % 65536]? = some y) (hg : b.prog.nodes[y.node]? = some g) (hop : g.op ≠ opCopy)
include hu hpick hb hy hg hop

/-- A first firing on a core unit, of a node whose start has no check of its own (R24, R251). -/
theorem firingStart_first (hrep : y.rep = false) : ∃ t, exec (.firingStart u) s = .next t ∧
    (∀ v, t.engine v = if v = u.val then (s.lapse.engine u.val).takes k d false else s.lapse.engine v) ∧
    (∀ m, t.stream m = if m = k / 65536 then { s.stream (k / 65536) with bound := some (b.take (k % 65536) (true, true)) } else s.stream m) ∧
    ∃ streams engines, t = { s with streams := streams, engines := engines } := by
  have hlapse := s.lapse_engines
  have hstream (m : Nat) : s.lapse.stream m = s.stream m := hlapse.stream m
  rw [firingStart_eq u s (not_base_of_core hu).1, State.fireStart_core hu hpick, State.startFiring_first hb hy hrep]
  have hset (m : Nat) := (((State.takeUp_engines (s.lapse.setStream (k / 65536)
    { s.lapse.stream (k / 65536) with bound := some (b.take (k % 65536) (true, true)) }) u.val k d false).stream m).trans (State.setStream_stream _ _ m _))
  refine ⟨_, congrArg Host.Outcome.next (State.checkCopy_other (r := Running.starting k false) (b := b.take (k % 65536) (true, true)) (y := y)
    (State.firingOf_eq ?_ ?_ hy) hg hop), fun v => State.takeUp_engine _ _ _ _ _ _, fun m => ?_, ?_⟩
  · rw [State.takeUp_engine, if_pos rfl, Engine.takes_cur]
  · exact congrArg Stream.bound ((hset _).trans (if_pos rfl))
  · rw [hset, hstream, hstream]
  · obtain ⟨_, hlapse⟩ := hlapse
    rw [hlapse]
    exact ⟨_, _, rfl⟩

/-- A repetition on a core unit, of a node whose start has no check of its own (R251, R402). -/
theorem firingStart_again (hrep : y.rep = true) (hl : isLathe y.unit = false) : ∃ t, exec (.firingStart u) s = .next t ∧
    (∀ v, t.engine v = if v = u.val then (s.lapse.engine u.val).takes k d true else s.lapse.engine v) ∧
    t.reg .grn 0x074 = satAdd (s.reg .grn 0x074) 1 ∧ s.regsKept t [Page.grn.base + 0x074] ∧ ∃ engines regs, t = { s with engines := engines, regs := regs } := by
  obtain ⟨engines, htake⟩ := s.lapse_engines.trans (s.lapse.takeUp_engines u.val k d true)
  rw [firingStart_eq u s (not_base_of_core hu).1, State.fireStart_core hu hpick, State.startFiring_again hb hy hrep hl, State.countSat_def]
  refine ⟨_, congrArg Host.Outcome.next (State.checkCopy_other (r := Running.starting k true) (b := b) (y := y) (State.firingOf_eq ?_ ?_ hy) hg hop),
    fun v => ?_, ?_, fun i hi => ?_, ?_⟩
  · rw [State.engine_congr (State.setReg_engines _ _ _ _), State.takeUp_engine, if_pos rfl, Engine.takes_cur]
  · rw [State.stream_congr (State.setReg_streams _ _ _ _), (State.takeUp_engines _ _ _ _ _).stream]
    exact hb
  · rw [State.engine_congr (State.setReg_engines _ _ _ _), State.takeUp_engine]
  · rw [State.setReg_same, htake]
    rfl
  · rw [State.setReg_regsKept _ _ _ _ i hi, htake]
    rfl
  · rw [htake]
    exact ⟨_, _, rfl⟩

end

/-- Settles O26, from what `startFiring` does to the engine and the stream. -/
theorem firingTakesTokensAndCredits : Obligations.FiringTakesTokensAndCredits := by
  unfold Obligations.FiringTakesTokensAndCredits
  refine ⟨fun u s h => ?_, fun u k s h => State.pick_primary k h, fun u s hl h => ?_, ?_⟩
  · obtain ⟨hon, hfree⟩ := State.pick_free h
    obtain ⟨_, hdie, hfence, hcur, htune⟩ := (s.unitFree_iff u).mp hfree
    exact ⟨(s.firingOn_iff.mp hon).1, (s.firingOn_iff.mp hon).2, hdie, hfence, hcur, htune⟩
  · rw [firingStart_eq u s hl, State.fireStart_nothing h]
  · intro u d s hu c k hpick b hb y hy g hg hop hl n slot
    cases hrep : y.rep with
    | false =>
      obtain ⟨t, hexec, hengine, hstream, streams, engines, rfl⟩ := firingStart_first hu hpick hb hy hg hop hrep
      have hn := (hstream n).trans (if_pos rfl)
      refine ⟨_, hexec, ?_, fun _ => ⟨?_, rfl⟩, fun h => (nomatch h), ?_, fun m hm => ?_, fun v hv => ?_, rfl⟩
      · rw [hengine, if_pos rfl, Engine.takes_cur]
        rfl
      · rw [hn, Bound.take_both]
      · rw [hn]
      · exact (hstream m).trans (if_neg (by simpa using hm))
      · exact (hengine v).trans (if_neg (by simpa using hv))
    | true =>
      obtain ⟨t, hexec, hengine, hcount, hregs, engines, regs, rfl⟩ := firingStart_again hu hpick hb hy hg hop hrep hl
      refine ⟨_, hexec, ?_, fun h => (nomatch h), fun _ => ⟨?_, hcount, hregs⟩, rfl, fun _ _ => rfl, fun v hv => ?_, rfl⟩
      · rw [hengine, if_pos rfl, Engine.takes_cur]
        rfl
      · exact (congrArg Stream.bound (s.lapse_engines.stream n).symm).trans hb
      · exact (hengine v).trans (if_neg (by simpa using hv))

end Sys2Proof.Machine
end

section
/-! Proofs: the end of a firing (R25, R94, R97, R112). O27 fails in one place, shown here. A firing whose reads are all in place but partly from the Window Map region may read storage there that the program writes too, as it stood when the submission entered BINDING. The model then keeps what was brought for the node's other firings (R94, R112), in the stream's bound program; the clause has the bound program changed by the delivery of tokens and credits alone. -/

namespace Sys2Proof.Machine

namespace KeptOld

/-- An internal tensor of one element. Tensor 0 of the program lies in the Window Map region. -/
def tensor : Tensor := ⟨3, 1, 1, 0, 0, [1, 0, 0, 0, 0, 0], 0, 0, 0, 0, 0⟩

def reduce : GNode := ⟨opReduce, 0, 0, 1, 1, 0, 0, 0, 0, 0, 0, []⟩

/-- Node 0, a REDUCE, reads the tensor as it stood; node 1, a CURVE of the sums, writes it after. -/
def program : Program :=
  { addr := 0, imageBytes := 0, noCache := true, requiredCaps := 0, scratchLoc := 0, scratchBytes := 0, constAddr := 0, constBytes := 0
    tensors := [tensor, tensor], shards := [], nodes := [reduce, ⟨opCurve, 0, 0, 1, 1, 0, 0, 0, 0, 0, 0, []⟩]
    edges := [⟨0, 0xFFFF, 0, 0, 0⟩, ⟨1, 0, 1, 0, 0⟩, ⟨0, 1, 0xFFFF, 0, 0⟩], hints := [], outputs := [] }

/-- Node 0 has two firings, of which the first writes no block: it forms a part of its sum. -/
def slot : BNode := ⟨1, 0, 0, 0, (0, 0), [[], []], 0, false, false, false, 0, (.unsaid, 0)⟩

def bound : Bound := ⟨program, [slot], [], [(0, windowBase, 64), (1, 0, 64)], [], []⟩

/-- The firing, with the bytes of the tensor brought from the Window Map region. -/
def running : Running := ⟨0, 0, false, [], (List.range 64).map (fun i => (windowBase + i, 1#8)), false, 0, (false, false), (.unsaid, 0)⟩

/-- A vector engine runs the first of node 0's firings. -/
def state : State :=
  { State.reset with
    streams := [(0, { Stream.fresh with st := .running, bound := some bound })]
    engines := [(1, { Engine.idle with cur := some running })] }

def obs : FireObs := ⟨0, 0, 0, [], []⟩

def oldsOf : Res → Option (List (Nat × Nat × Nat))
  | .next t => (t.stream 0).bound.map (·.olds)
  | _ => none

/-- The firing keeps the 64 bytes it has read for the node's other firings. -/
theorem olds_complete : oldsOf (exec (.firingComplete 1 obs) state) = some [(0, windowBase, 64)] := by decide +kernel

theorem firing : state.firingOf 1 = some (running, bound, slot) := rfl

/-- Its reads are all in place. -/
theorem gathered : state.gather 1 0 ((state.readsOf 0 bound 0 reduce []).map (fun z => z.acc program (readTagged program reduce z.tensor)))
    ((state.writesOf 0 bound []).map (fun z => z.acc program false)) = (state, true) := rfl

end KeptOld

/-- Refutes O27: a firing that reads storage of the Window Map region as it stood keeps what it has read in the bound program, which is then not what the delivery of its tokens alone leaves. -/
theorem not_firingStoresAndHandsOn : ¬ Obligations.FiringStoresAndHandsOn := by
  unfold Obligations.FiringStoresAndHandsOn
  intro h
  obtain ⟨_, hgo⟩ := h 1 KeptOld.obs KeptOld.state _ KeptOld.firing
  obtain ⟨_, hcompute⟩ := hgo rfl rfl KeptOld.reduce rfl
  obtain ⟨t, hexec, ⟨_, hruns, _⟩, _⟩ := hcompute (by decide) (by decide) (by decide) _ KeptOld.gathered (fun _ ha => nomatch ha) (fun _ hw => nomatch hw)
  have hbound : (t.stream 0).bound = some (KeptOld.bound.deliver 0 (false, false)) := (hruns rfl (by decide) rfl).1
  have hkept : (t.stream 0).bound.map (·.olds) = some [(0, windowBase, 64)] := by
    have holds := KeptOld.olds_complete
    rwa [hexec] at holds
  have hnone : (t.stream 0).bound.map (·.olds) = some [] := by rw [hbound]; rfl
  exact absurd (hkept.symm.trans hnone) (by decide)

end Sys2Proof.Machine
end

section
/-! Proofs: what the ends of submissions and firings leave unchanged (R41, R49, R59, R108, R173, R585, R611): registers other than the error registers, memory, and every stream that waits for no slots. -/

namespace Sys2Proof.Machine

/-! ### Registers -/

/-- ERR_STAT, ERR_MASK and ERR_FIRST of a page (R584). -/
def errOffs : List Nat := [offErrStat, offErrMask, offErrFirst]

/-- Registers keep their values but those at some offsets of any page and the error registers, of which ERR_STAT loses no bit (R585). -/
structure State.Counts (offs : List Nat) (s t : State) : Prop where
  reg : ∀ (pg : Page) (o : Nat), o < 0x1000 → o ∉ errOffs → o ∉ offs → t.reg pg o = s.reg pg o
  stat : ∀ (pg : Page) (i : Nat), (s.reg pg offErrStat).getLsbD i = true → (t.reg pg offErrStat).getLsbD i = true

theorem State.reg_congr {s t : State} (h : t.regs = s.regs) (pg : Page) (o : Nat) : t.reg pg o = s.reg pg o := State.word_congr h _

theorem State.Counts.of_regs {offs : List Nat} {s t : State} (h : t.regs = s.regs) : s.Counts offs t :=
  ⟨fun pg o _ _ _ => State.reg_congr h pg o, fun pg i hi => by rwa [State.reg_congr h]⟩

theorem State.Counts.refl {offs : List Nat} (s : State) : s.Counts offs s := .of_regs rfl

theorem State.Counts.trans {offs : List Nat} {a b c : State} (h : a.Counts offs b) (k : b.Counts offs c) : a.Counts offs c :=
  ⟨fun pg o ho he hn => (k.reg pg o ho he hn).trans (h.reg pg o ho he hn), fun pg i hi => k.stat pg i (h.stat pg i hi)⟩

theorem State.Counts.mono {offs more : List Nat} {s t : State} (h : s.Counts offs t) (hsub : offs ⊆ more) : s.Counts more t :=
  ⟨fun pg o ho he hn => h.reg pg o ho he fun hm => hn (hsub hm), h.stat⟩

/-- Registers at different offsets of their pages are different registers. -/
theorem Page.addr_ne {p q : Page} {o o' : Nat} (ho : o < 0x1000) (ho' : o' < 0x1000) (h : o ≠ o') : p.base + o ≠ q.base + o' := by
  have hp := p.base_aligned
  have hq := q.base_aligned
  omega

theorem State.setReg_reg_other (s : State) {p q : Page} {o o' : Nat} (v : U32) (ho : o < 0x1000) (ho' : o' < 0x1000) (h : o ≠ o') :
    (s.setReg q o' v).reg p o = s.reg p o := by
  rw [State.word_reg, State.setReg_word, if_neg (Page.addr_ne ho ho' h), State.word_reg]

theorem State.setReg_counts {offs : List Nat} (s : State) (pg : Page) {o : Nat} (v : U32) (hmem : o ∈ offs) (ho : o < 0x1000) (he : o ≠ offErrStat) :
    s.Counts offs (s.setReg pg o v) :=
  ⟨fun p o' ho' _ hn => s.setReg_reg_other v ho' ho (fun h => hn (h ▸ hmem)), fun p i hi => by
    rwa [s.setReg_reg_other v (by decide) ho he.symm]⟩

/-- An error event takes no error bit away and touches nothing but error registers (R585). -/
theorem State.raise_counts {offs : List Nat} (s : State) (pg : Page) (b : Nat) : s.Counts offs (s.raise pg b) := by
  refine ⟨fun p o ho he _ => ?_, fun p i hi => ?_⟩
  · simp only [errOffs, List.mem_cons, List.not_mem_nil, or_false, not_or] at he
    obtain ⟨h0, h1, h2⟩ := he
    exact s.raise_word_other pg b (Page.addr_ne ho (by decide) h0) (Page.addr_ne ho (by decide) h1) (Page.addr_ne ho (by decide) h2)
  · by_cases hbase : p.base = pg.base
    · have hsame (t : State) : t.reg p offErrStat = t.reg pg offErrStat := by rw [State.reg, State.reg, hbase]
      rw [hsame] at hi ⊢
      rw [State.raise_stat, BitVec.getLsbD_or, hi, Bool.true_or]
    · have hother {o : Nat} (ho : o < 0x1000) : p.base + offErrStat ≠ pg.base + o := by
        have hp := p.base_aligned
        have hq := pg.base_aligned
        have hs : offErrStat < 0x1000 := by decide
        omega
      have hkept : (s.raise pg b).reg p offErrStat = s.reg p offErrStat :=
        s.raise_word_other pg b (hother (by decide)) (hother (by decide)) (hother (by decide))
      rwa [hkept]

theorem State.raise_stat_set (s : State) (pg : Page) {b : Nat} (hb : b < 32) : ((s.raise pg b).reg pg offErrStat).getLsbD b = true := by
  rw [State.raise_stat, BitVec.getLsbD]
  exact testBit_or_two_pow _ hb

/-! ### The end of a submission (R41, R49, R108) -/

/-- What the end of a submission touches beside error registers. -/
def State.EndFrame (s t : State) : Prop :=
  ∃ streams regs upds colls readds waiting links bundles nextReq free out, t = { s with
    streams := streams, regs := regs, upds := upds, colls := colls, readds := readds, waiting := waiting, links := links, bundles := bundles
    nextReq := nextReq, free := free, out := out }

theorem State.EndFrame.refl (s : State) : s.EndFrame s := ⟨_, _, _, _, _, _, _, _, _, _, _, rfl⟩

theorem State.EndFrame.trans {a b c : State} : a.EndFrame b → b.EndFrame c → a.EndFrame c := by
  rintro ⟨_, _, _, _, _, _, _, _, _, _, _, rfl⟩ ⟨_, _, _, _, _, _, _, _, _, _, _, rfl⟩
  exact ⟨_, _, _, _, _, _, _, _, _, _, _, rfl⟩

theorem State.EndFrame.mem {s t : State} (h : s.EndFrame t) : t.mem = s.mem := by
  obtain ⟨_, _, _, _, _, _, _, _, _, _, _, rfl⟩ := h
  rfl

theorem State.Grants.endFrame {s t : State} : s.Grants t → s.EndFrame t := by
  rintro ⟨_, _, _, _, _, rfl⟩
  exact ⟨_, _, _, _, _, _, _, _, _, _, _, rfl⟩

theorem State.Grants.regs {s t : State} : s.Grants t → t.regs = s.regs := by
  rintro ⟨_, _, _, _, _, rfl⟩
  rfl

theorem State.startNext_endFrame (s : State) (n : Nat) : s.EndFrame (s.startNext n) := by
  obtain ⟨_, _, h⟩ := s.startNext_frame n
  rw [h]
  exact ⟨_, _, _, _, _, _, _, _, _, _, _, rfl⟩

theorem State.startNext_regs (s : State) (n : Nat) : (s.startNext n).regs = s.regs := by
  obtain ⟨_, _, h⟩ := s.startNext_frame n
  rw [h]

/-- Where nothing is queued nothing starts. -/
theorem State.startNext_empty {s : State} {n : Nat} (h : (s.stream n).pend = []) : s.startNext n = s := by
  rcases s.startNext_cases n with hs | ⟨sub, rest, _, hp, _⟩
  · exact hs
  · exact absurd (h.symm.trans hp) (by simp)

/-- What every end of work of a stream has in common: its slots handed on, and its next submission begun (R41, R108). -/
def State.letGo (s : State) (n : Nat) : State := ((s.abandon n).grantSlots).startNext n

theorem State.letGo_endFrame (s : State) (n : Nat) : s.EndFrame (s.letGo n) :=
  State.EndFrame.trans ⟨_, _, _, _, _, _, _, _, _, _, _, rfl⟩ ((s.abandon n).grantSlots_grants.endFrame.trans (State.startNext_endFrame _ n))

theorem State.letGo_regs (s : State) (n : Nat) : (s.letGo n).regs = s.regs :=
  (State.startNext_regs _ n).trans (s.abandon n).grantSlots_grants.regs

/-- A stream that rests with nothing queued stays as it is. -/
theorem State.letGo_stream {s : State} {n : Nat} (h : (s.stream n).pend = []) : (s.letGo n).stream n = s.stream n := by
  have hgrant : (s.abandon n).grantSlots.stream n = s.stream n := State.grantSlots_stream _ (State.abandon_waiting _ n)
  rw [State.letGo, State.startNext_empty (by rw [hgrant, h]), hgrant]

theorem State.endSubmission_eq (s : State) (n : Nat) (st : SState) (code unit : U16) : ∃ ticks, s.endSubmission n st code unit =
    ((if st = .failed then (s.updRec n (fun x => x.endRec st code unit ticks)).draw.raise (stmPage (s.stream n).home) 1
      else (s.updRec n (fun x => x.endRec st code unit ticks)).draw).revoke n).letGo n := by
  refine ⟨Config.freeTicks s.free, ?_⟩
  have hhome : ((s.updRec n (fun x => x.endRec st code unit (Config.freeTicks s.free))).draw.stream n).home = (s.stream n).home := by
    show ((s.updRec n (fun x => x.endRec st code unit (Config.freeTicks s.free))).stream n).home = _
    rw [State.updRec_stream, if_pos rfl]
    rfl
  unfold State.endSubmission
  dsimp only
  rw [hhome]
  rfl

theorem State.revoke_endFrame (s : State) (n : Nat) : s.EndFrame (s.revoke n) := by
  obtain ⟨_, h⟩ := s.revoke_frame n
  rw [h]
  exact ⟨_, _, _, _, _, _, _, _, _, _, _, rfl⟩

theorem State.revoke_regs (s : State) (n : Nat) : (s.revoke n).regs = s.regs := by
  obtain ⟨_, h⟩ := s.revoke_frame n
  rw [h]

theorem State.raise_endFrame (s : State) (pg : Page) (b : Nat) : s.EndFrame (s.raise pg b) := by
  obtain ⟨_, h⟩ := s.raise_onlyRegs pg b
  rw [h]
  exact ⟨_, _, _, _, _, _, _, _, _, _, _, rfl⟩

theorem State.endSubmission_endFrame (s : State) (n : Nat) (st : SState) (code unit : U16) : s.EndFrame (s.endSubmission n st code unit) := by
  obtain ⟨ticks, h⟩ := s.endSubmission_eq n st code unit
  have hrec : s.EndFrame (s.updRec n (fun x => x.endRec st code unit ticks)).draw := ⟨_, _, _, _, _, _, _, _, _, _, _, rfl⟩
  rw [h]
  refine State.EndFrame.trans ?_ ((State.revoke_endFrame _ n).trans (State.letGo_endFrame _ n))
  split
  · exact hrec.trans (State.raise_endFrame _ _ _)
  · exact hrec

theorem State.endSubmission_counts (s : State) (n : Nat) (st : SState) (code unit : U16) : s.Counts [] (s.endSubmission n st code unit) := by
  obtain ⟨ticks, h⟩ := s.endSubmission_eq n st code unit
  have hrec : s.Counts [] (s.updRec n (fun x => x.endRec st code unit ticks)).draw := .of_regs (State.updRec_regs s n (fun x => x.endRec st code unit ticks))
  rw [h]
  refine State.Counts.trans ?_ (.of_regs ((State.letGo_regs _ n).trans (State.revoke_regs _ n)))
  split
  · exact hrec.trans (State.raise_counts _ _ _)
  · exact hrec

/-- No end but a failure touches a register. -/
theorem State.endSubmission_regs (s : State) (n : Nat) {st : SState} (code unit : U16) (h : st ≠ .failed) : (s.endSubmission n st code unit).regs = s.regs := by
  obtain ⟨ticks, heq⟩ := s.endSubmission_eq n st code unit
  rw [heq, State.letGo_regs, State.revoke_regs, if_neg h]
  exact State.updRec_regs s n (fun x => x.endRec st code unit ticks)

/-- The record that a submission leaves whose stream begins no other. -/
theorem State.endSubmission_stream (s : State) (n : Nat) {st : SState} (code unit : U16) (h : st = .completed → (s.stream n).pend = []) :
    ∃ ticks b, (s.endSubmission n st code unit).stream n =
      { (s.stream n).endRec st code unit ticks with bound := b, gen := (s.stream n).gen + 1 } := by
  obtain ⟨ticks, heq⟩ := s.endSubmission_eq n st code unit
  obtain ⟨u, hu⟩ : ∃ u, u = (if st = .failed then (s.updRec n (fun x => x.endRec st code unit ticks)).draw.raise (stmPage (s.stream n).home) 1
    else (s.updRec n (fun x => x.endRec st code unit ticks)).draw) := ⟨_, rfl⟩
  have hstream : u.stream n = { (s.stream n).endRec st code unit ticks with gen := (s.stream n).gen + 1 } := by
    have hrec : (s.updRec n (fun x => x.endRec st code unit ticks)).draw.stream n =
        { (s.stream n).endRec st code unit ticks with gen := (s.stream n).gen + 1 } := (State.updRec_stream s n n (fun x => x.endRec st code unit ticks)).trans (if_pos rfl)
    rw [hu]
    split
    · exact (State.stream_congr (State.raise_streams _ _ _) n).trans hrec
    · exact hrec
  have hpend : (u.stream n).pend = [] := by
    rw [hstream]
    show (if st = .completed then (s.stream n).pend else []) = []
    split
    · exact h ‹_›
    · rfl
  obtain ⟨b, hb⟩ := u.revoke_stream n
  refine ⟨ticks, b, ?_⟩
  rw [heq, ← hu, State.letGo_stream (by rw [hb]; exact hpend), hb, hstream]

end Sys2Proof.Machine
end

section
/-! Proofs: the two ends of a binding (R41, R104, R105, R108, R110, R114, R613). -/

namespace Sys2Proof.Machine

/-! ### What a read at the controllers leaves unchanged (R215, R227) -/

/-- Only registers, the log, the free values drawn and the errors not met yet may differ. -/
def State.Reads (s t : State) : Prop := ∃ regs log logHead free upsets sramCorr, t = { s with
  regs := regs, log := log, logHead := logHead, free := free, upsets := upsets, sramCorr := sramCorr }

theorem State.Reads.refl (s : State) : s.Reads s := ⟨_, _, _, _, _, _, rfl⟩

theorem State.Reads.trans {a b c : State} : a.Reads b → b.Reads c → a.Reads c := by
  rintro ⟨_, _, _, _, _, _, rfl⟩ ⟨_, _, _, _, _, _, rfl⟩
  exact ⟨_, _, _, _, _, _, rfl⟩

theorem State.Regs.reads {s t : State} : s.Regs t → s.Reads t := by
  rintro ⟨_, rfl⟩
  exact ⟨_, _, _, _, _, _, rfl⟩

theorem State.setReg_onlyRegs (s : State) (pg : Page) (o : Nat) (v : U32) : s.Regs (s.setReg pg o v) := ⟨_, rfl⟩

theorem State.record_reads (s : State) (e : Event) : s.Reads (s.record e) := ⟨_, _, _, _, _, _, rfl⟩

theorem State.noteCorr_onlyRegs (s : State) (d : MemDev) : s.Regs (s.noteCorr d) := (s.setReg_onlyRegs _ _ _).trans (State.raise_onlyRegs _ _ _)

theorem State.countUncorr_onlyRegs (s : State) (d : MemDev) (a b : Nat) : s.Regs (s.countUncorr d a b) :=
  ((s.setReg_onlyRegs _ _ _).trans ((State.setReg_onlyRegs _ _ _ _).trans (State.setReg_onlyRegs _ _ _ _))).trans (State.raise_onlyRegs _ _ _)

theorem State.noteUncorr_reads (s : State) (d : MemDev) (a b : Nat) : s.Reads (s.noteUncorr d a b) :=
  (s.countUncorr_onlyRegs d a b).reads.trans (State.record_reads _ _)

theorem State.readNote_reads (s : State) (x : ReadNote) : s.Reads (s.readNote x) := by
  unfold State.readNote
  split
  case h_1 d _ =>
    have hcorr : s.Reads (if x.corrected then s.noteCorr d else s) := by
      split
      · exact (s.noteCorr_onlyRegs d).reads
      · exact .refl s
    dsimp only
    split
    · split
      · exact hcorr.trans (State.setReg_onlyRegs _ _ _ _).reads
      · exact hcorr
    · exact hcorr
  case h_2 =>
    split
    · exact ⟨_, _, _, _, _, _, rfl⟩
    · exact .refl s

theorem State.meetUpsets_reads (s : State) (a n : Nat) : s.Reads (s.meetUpsets a n) := by
  unfold State.meetUpsets
  dsimp only
  split
  · exact .refl s
  · exact State.Reads.trans (State.forEach_rel State.Reads.refl State.Reads.trans (fun t x => t.readNote_reads _) _ s) ⟨_, _, _, _, _, _, rfl⟩

theorem State.disarm_onlyRegs (s : State) (pg : Page) (b : Nat) : s.Regs (s.disarm pg b) := s.setReg_onlyRegs _ _ _

theorem State.eccMeets_reads (s : State) (a n : Nat) : s.Reads (s.eccMeets a n).1 := by
  have hone : ∀ (t : State) (p : MemDev × Nat), t.Reads (if t.armed p.1.page 0 then (t.noteCorr p.1).disarm p.1.page 0 else t) := fun t p => by
    split
    · exact ((t.noteCorr_onlyRegs _).trans (State.disarm_onlyRegs _ _ _)).reads
    · exact .refl t
  exact ((s.meetUpsets_reads a n).trans (State.forEach_rel State.Reads.refl State.Reads.trans hone _ _)).trans
    (State.forEach_rel State.Reads.refl State.Reads.trans (fun t p => (t.disarm_onlyRegs _ _).reads) _ _)

theorem State.eccRead_reads (s : State) (a n : Nat) : s.Reads (s.eccRead a n).1 := by
  refine (s.eccMeets_reads a n).trans (State.forEach_rel State.Reads.refl State.Reads.trans (fun t x => ?_) _ _)
  split
  · exact t.noteUncorr_reads _ _ _
  · exact t.record_reads _

theorem State.imgRead_reads (s : State) (a n : Nat) : s.Reads (s.imgRead a n).1 := by
  unfold State.imgRead
  split
  · exact .refl s
  · exact s.eccRead_reads a n

/-- A check reads the image and does nothing else (R105). -/
theorem State.checkImage_reads (s : State) (n : Nat) (remote : List U8) : s.Reads (s.checkImage n remote).state := by
  have hhead := s.imgRead_reads (s.stream n).submit.toNat 64
  unfold State.checkImage
  dsimp only
  split
  · exact hhead
  · split
    · exact hhead
    · have hbody := hhead.trans (State.imgRead_reads _ ((s.stream n).submit.toNat + 64)
        ((readImgHeader (s.imgRd (s.stream n).submit.toNat remote)).imageBytes - 64))
      split
      · exact hbody
      · split
        · exact hbody
        · exact hbody

theorem State.Reads.stream {s t : State} (h : s.Reads t) (n : Nat) : t.stream n = s.stream n := by
  obtain ⟨_, _, _, _, _, _, rfl⟩ := h
  rfl

theorem State.Reads.mem {s t : State} (h : s.Reads t) : t.mem = s.mem := by
  obtain ⟨_, _, _, _, _, _, rfl⟩ := h
  rfl

/-! ### A binding that fails (R41, R51, R104) -/

/-- GLB_LAST_ERR and the error bit of the binder, with the submission still to end (R104). -/
def State.bindNoted (s : State) (n : Nat) (code : U16) (items : List Nat) : State :=
  ((s.draw.setReg (glbPage (s.stream n).home) 0x058 (packFields [(code.toNat, 0, 16), (pickItem s.free items, 16, 16)])).setReg
    (glbPage (s.stream n).home) 0x05C (BitVec.ofNat 32 n)).raise (glbPage (s.stream n).home) 0

theorem State.bindNoted_frame (s : State) (n : Nat) (code : U16) (items : List Nat) :
    ∃ regs free, s.bindNoted n code items = { s with regs := regs, free := free } := by
  obtain ⟨regs, h⟩ := ((s.draw.setReg_onlyRegs (glbPage (s.stream n).home) 0x058 (packFields [(code.toNat, 0, 16), (pickItem s.free items, 16, 16)])).trans
    (State.setReg_onlyRegs _ (glbPage (s.stream n).home) 0x05C (BitVec.ofNat 32 n))).trans (State.raise_onlyRegs _ (glbPage (s.stream n).home) 0)
  exact ⟨regs, _, h⟩

theorem packFields_low (a b : Nat) (ha : a < 2 ^ 16) : fieldOf (packFields [(a, 0, 16), (b, 16, 16)]) 0 16 = a := by
  simp only [fieldOf, packFields, List.foldl_cons, List.foldl_nil, BitVec.toNat_ofNat]
  omega

section
variable (s : State) (n : Nat) (code : U16) (items : List Nat)

theorem State.bindNoted_code : fieldOf ((s.bindNoted n code items).reg (glbPage (s.stream n).home) 0x058) 0 16 = code.toNat := by
  unfold State.bindNoted
  rw [State.raise_reg_other _ _ _ (by decide), State.setReg_other _ _ _ (by decide), State.setReg_same, packFields_low _ _ code.isLt]

theorem State.bindNoted_stream : (s.bindNoted n code items).reg (glbPage (s.stream n).home) 0x05C = BitVec.ofNat 32 n := by
  unfold State.bindNoted
  rw [State.raise_reg_other _ _ _ (by decide), State.setReg_same]

theorem State.bindNoted_stat : ((s.bindNoted n code items).reg (glbPage (s.stream n).home) offErrStat).getLsbD 0 = true :=
  State.raise_stat_set _ _ (by decide)

/-- What a failed binding leaves: the record, GLB_LAST_ERR, the error bit, and memory as it was (R41, R51, R104). -/
theorem State.bindFailed_failed :
    let x := s.stream n
    let pg := glbPage x.home
    let t := s.bindFailed n code items
    (t.stream n).st = .failed ∧ (t.stream n).endStatus = code ∧ (t.stream n).faultUnit = unitBinder x.home ∧
      (t.stream n).pend = [] ∧ (t.stream n).discarded = x.dropped + x.pend.length ∧ fieldOf (t.reg pg 0x058) 0 16 = code.toNat ∧
      t.reg pg 0x05C = BitVec.ofNat 32 n ∧ (t.reg pg offErrStat).getLsbD 0 = true ∧ t.mem = s.mem := by
  intro x pg t
  obtain ⟨regs, free, hnoted⟩ := s.bindNoted_frame n code items
  have hx : (s.bindNoted n code items).stream n = x := by rw [hnoted]; rfl
  have hcounts := (s.bindNoted n code items).endSubmission_counts n .failed code (unitBinder x.home)
  obtain ⟨ticks, b, hend⟩ := (s.bindNoted n code items).endSubmission_stream n code (unitBinder x.home) (st := .failed) (fun h => nomatch h)
  have hmem : t.mem = s.mem := by
    show ((s.bindNoted n code items).endSubmission n .failed code (unitBinder x.home)).mem = s.mem
    rw [((s.bindNoted n code items).endSubmission_endFrame n .failed code (unitBinder x.home)).mem, hnoted]
  rw [hx] at hend
  have ht : t.stream n = { x.endRec .failed code (unitBinder x.home) ticks with bound := b, gen := x.gen + 1 } := hend
  rw [ht]
  refine ⟨rfl, rfl, rfl, rfl, rfl, ?_, ?_, hcounts.stat pg 0 (s.bindNoted_stat n code items), hmem⟩
  · exact (congrArg (fieldOf · 0 16) (hcounts.reg pg 0x058 (by decide) (by decide) (by decide))).trans (s.bindNoted_code n code items)
  · exact (hcounts.reg pg 0x05C (by decide) (by decide) (by decide)).trans (s.bindNoted_stream n code items)

end

theorem bindingFail_expelled {n : Fin 16384} {remote : List U8} {s : State} (hat : s.atBinder n.val = true) (h : (s.job (s.stream n.val).job).expelled = true) :
    exec (.bindingFail n (.check remote)) s = .next (s.bindFailed n.val S_EXPELLED []) := by
  show execBindingFail n (.check remote) s = _
  simp only [execBindingFail, hat, h, if_true, Bool.true_eq_false, if_false]

section
variable {n : Fin 16384} {remote : List U8} {s s1 : State} (hat : s.atBinder n.val = true) (hexp : (s.job (s.stream n.val).job).expelled = false)
include hat hexp

/-- A binding of a job that is not expelled fails with the check that its image fails (R105). -/
theorem bindingFail_checked {c : U16} {l : List Nat} (h : s.checkImage n.val remote = .fail s1 c l) :
    exec (.bindingFail n (.check remote)) s = .next (s1.bindFailed n.val c l) := by
  show execBindingFail n (.check remote) s = _
  simp only [execBindingFail, hat, hexp, h, Bool.true_eq_false, if_false, Bool.false_eq_true]

/-- Of an image that passes the checks it fails where there is no room (R105, check 14). -/
theorem bindingFail_room {p : Program} (h : s.checkImage n.val remote = .ok s1 p) :
    exec (.bindingFail n (.check remote)) s = .next (if (s.noRoom (s.stream n.val).job p (s.imageSha p remote)).isEmpty then s
      else s1.bindFailed n.val S_G_NO_ROOM (s.noRoom (s.stream n.val).job p (s.imageSha p remote))) := by
  show execBindingFail n (.check remote) s = _
  simp only [execBindingFail, hat, hexp, h, Bool.true_eq_false, if_false, Bool.false_eq_true]

end

/-- Settles O25: each of the three ways ends in `bindFailed`, in a state that differs from the one before by what reads of the image touch. -/
theorem bindingFailsWithItsCode : Obligations.BindingFailsWithItsCode := by
  unfold Obligations.BindingFailsWithItsCode
  intro n remote s x pg failed hat
  have hfailed : ∀ {s1 : State} (c : U16) (l : List Nat), s.Reads s1 → failed (s1.bindFailed n.val c l) c := fun {s1} c l hreads => by
    have h := s1.bindFailed_failed n.val c l
    rw [hreads.stream, hreads.mem] at h
    obtain ⟨hst, hend, hunit, hpend, hdisc, hcode, hstream, hstat, hmem⟩ := h
    exact ⟨hst, hend, hunit, hpend, hdisc, hcode, hstream, hstat, congrArg Memory.bytes hmem⟩
  refine ⟨fun hexp => ⟨_, bindingFail_expelled hat hexp, hfailed _ _ (.refl s)⟩, fun hexp => ⟨fun s1 c items hcheck => ?_, fun s1 p hcheck => ⟨fun hroom => ?_, fun hroom => ?_⟩⟩⟩
  · have hreads := s.checkImage_reads n.val remote
    rw [hcheck] at hreads
    exact ⟨_, bindingFail_checked hat hexp hcheck, hfailed c items hreads⟩
  · exact (bindingFail_room hat hexp hcheck).trans (congrArg Host.Outcome.next (if_pos (List.isEmpty_iff.mpr hroom)))
  · have hreads := s.checkImage_reads n.val remote
    rw [hcheck] at hreads
    exact ⟨_, (bindingFail_room hat hexp hcheck).trans (congrArg Host.Outcome.next (if_neg (by simpa using hroom))), hfailed _ _ hreads⟩

end Sys2Proof.Machine
end

section
/-! Proofs: a binding that completes (R28, R105, R107, R108, R110, R114). -/

namespace Sys2Proof.Machine

/-! ### The bind cache and the count of bindings (R104, R110) -/

/-- The binding counted and its cache entry used (R104, R110). -/
def State.bindCounted (s : State) (n : Nat) (p : Program) (plan : Plan) : State := (s.useCache n p plan).countWrap (glbPage (s.stream n).home) 0x050

theorem State.useCache_frame (s : State) (n : Nat) (p : Program) (plan : Plan) : ∃ regs caches, s.useCache n p plan = { s with regs := regs, caches := caches } := by
  unfold State.useCache
  dsimp only
  split
  · exact ⟨_, _, rfl⟩
  · split
    · exact ⟨_, _, rfl⟩
    · exact ⟨_, _, rfl⟩

theorem State.useCache_regsKept (s : State) (n : Nat) (p : Program) (plan : Plan) :
    s.regsKept (s.useCache n p plan) [(glbPage (s.stream n).home).base + 0x054] := by
  unfold State.useCache
  dsimp only
  split
  · exact fun _ _ => rfl
  · split
    · exact s.setReg_regsKept _ _ _
    · exact fun _ _ => rfl

section
variable (s : State) (n : Nat) (p : Program) (plan : Plan)

theorem State.bindCounted_frame : ∃ regs caches, s.bindCounted n p plan = { s with regs := regs, caches := caches } := by
  obtain ⟨regs, caches, h⟩ := s.useCache_frame n p plan
  obtain ⟨regs', h'⟩ := (s.useCache n p plan).setReg_onlyRegs (glbPage (s.stream n).home) 0x050
    ((s.useCache n p plan).reg (glbPage (s.stream n).home) 0x050 + BitVec.ofNat 32 1)
  refine ⟨regs', caches, ?_⟩
  unfold State.bindCounted State.countWrap
  rw [h', h]

theorem State.bindCounted_count : (s.bindCounted n p plan).reg (glbPage (s.stream n).home) 0x050 = s.reg (glbPage (s.stream n).home) 0x050 + 1 := by
  have hkept : (s.useCache n p plan).reg (glbPage (s.stream n).home) 0x050 = s.reg (glbPage (s.stream n).home) 0x050 :=
    s.useCache_regsKept n p plan _ (by simp)
  rw [State.bindCounted, State.countWrap, State.setReg_same, hkept]
  rfl

theorem State.bindCounted_regsKept : s.regsKept (s.bindCounted n p plan) [(glbPage (s.stream n).home).base + 0x050, (glbPage (s.stream n).home).base + 0x054] := by
  intro k hk
  simp only [List.mem_cons, List.not_mem_nil, or_false, not_or] at hk
  exact ((s.useCache n p plan).setReg_regsKept _ _ _ k (by simpa using hk.1)).trans (s.useCache_regsKept n p plan k (by simpa using hk.2))

end

/-! ### Slots for a binding, or the wait for them (R107, R108) -/

/-- What a binding of the stream `n` asks for as it comes from its binder. -/
def State.asksFor (s : State) (n : Nat) (plan : Plan) (p : Program) (l : List (Nat × Nat × Nat)) : WaitingBind :=
  ⟨n, plan, s.withOlds n (s.stream n).job (plan.bound p l), p.outTotal⟩

theorem State.bound_empty {s : State} {n : Nat} {plan : Plan} {p : Program} {l : List (Nat × Nat × Nat)} (h : p.nodes = []) : s.bound n plan p l =
    ((s.bindCounted n p plan).enterRunning n (s.asksFor n plan p l).bound p.outTotal).endSubmission n .completed S_OK unitNone := by
  unfold State.bound
  dsimp only
  rw [if_pos (List.isEmpty_iff.mpr h)]
  rfl

theorem State.grantSlots_one {u : State} {w : WaitingBind} (h : u.waiting = [w]) : u.grantSlots =
    if u.slotsFit (u.stream w.stream).job w.bound then { (if u.placeFree w then u.enterRunning w.stream w.bound w.outTotal else u) with waiting := [] } else u := by
  unfold State.grantSlots
  rw [h]
  simp only [State.grantLoop, List.nil_append]
  split
  · rfl
  · rw [← h]

/-- With no other binding waiting, a binding has its slots at once or is the one that waits. -/
theorem State.bound_alone {s : State} {n : Nat} {plan : Plan} {p : Program} {l : List (Nat × Nat × Nat)} (h : p.nodes ≠ []) (hw : s.waiting = []) :
    let u := { s.bindCounted n p plan with waiting := [s.asksFor n plan p l] }
    let w := s.asksFor n plan p l
    s.bound n plan p l = if u.slotsFit (u.stream n).job w.bound then { (if u.placeFree w then u.enterRunning n w.bound p.outTotal else u) with waiting := [] } else u := by
  intro u w
  obtain ⟨_, _, hframe⟩ := s.bindCounted_frame n p plan
  have hwait : (s.bindCounted n p plan).waiting = [] := by rw [hframe]; exact hw
  have hbound : s.bound n plan p l = ({ s.bindCounted n p plan with waiting := insertWaiting (s.bindCounted n p plan) w (s.bindCounted n p plan).waiting }).grantSlots := by
    unfold State.bound
    dsimp only
    rw [if_neg (by simpa using h)]
    rfl
  rw [hbound, hwait]
  exact State.grantSlots_one rfl

theorem State.slotsFit_congr {s t : State} (hs : t.streams = s.streams) (hj : t.jobs = s.jobs) (j : Nat) (b : Bound) : t.slotsFit j b = s.slotsFit j b := by
  unfold State.slotsFit State.roomOn State.slotsUsed State.slotsOfJob State.areasHeld State.job
  rw [hs, hj]

theorem State.placeFree_congr {s t : State} (hs : t.streams = s.streams) (hj : t.jobs = s.jobs) (hr : t.regions = s.regions) (w : WaitingBind) :
    t.placeFree w = s.placeFree w := by
  unfold State.placeFree State.memFree State.heldMeets State.job
  rw [hs, hj, hr]

/-- What a binding of a program with nodes leaves, where no other binding waits (R107, R108). -/
theorem State.bound_alone_spec {s : State} {n : Nat} {plan : Plan} {p : Program} {l : List (Nat × Nat × Nat)} (h : p.nodes ≠ []) (hw : s.waiting = []) :
    let x := s.stream n
    let w := s.asksFor n plan p l
    let t := s.bound n plan p l
    (s.bindCounted n p plan).Grants t ∧ s.streamsKept t [n] ∧
      (s.slotsFit x.job w.bound = true → s.placeFree w = true → t.waiting = [] ∧
        t.stream n = { x with st := .running, bound := some w.bound, outTotal := p.outTotal, nodesTotal := w.bound.prog.nodes.length, gen := x.gen + 1 }) ∧
      (s.slotsFit x.job w.bound = false → t.stream n = x ∧ t.waiting = [w]) := by
  intro x w t
  obtain ⟨regs, caches, hframe⟩ := s.bindCounted_frame n p plan
  obtain ⟨u, hu⟩ : ∃ u : State, u = { s.bindCounted n p plan with waiting := [w] } := ⟨_, rfl⟩
  have hus : u.streams = s.streams := by rw [hu, hframe]
  have huj : u.jobs = s.jobs := by rw [hu, hframe]
  have hur : u.regions = s.regions := by rw [hu, hframe]
  have hstream (m : Nat) : u.stream m = s.stream m := State.stream_congr hus m
  have ht : t = if s.slotsFit x.job w.bound then { (if s.placeFree w then u.enterRunning n w.bound p.outTotal else u) with waiting := [] } else u := by
    have halone := State.bound_alone (n := n) (plan := plan) (l := l) h hw
    dsimp only at halone
    rw [← hu, hstream n, State.slotsFit_congr hus huj, State.placeFree_congr hus huj hur] at halone
    exact halone
  have hgrants : (s.bindCounted n p plan).Grants u := ⟨_, _, _, _, _, hu⟩
  have henter (m : Nat) := (u.enterRunning_stream n m w.bound p.outTotal)
  have hdone (v : State) : v.Grants { v with waiting := [] } := ⟨_, _, _, _, _, rfl⟩
  refine ⟨?_, fun m hm => ?_, fun hfit hfree => ?_, fun hfull => ?_⟩
  · rw [ht]
    split
    · split
      · exact (hgrants.trans (u.enterRunning_grants n w.bound p.outTotal)).trans (hdone _)
      · exact hgrants.trans (hdone _)
    · exact hgrants
  · have hne : m ≠ n := by simpa using hm
    rw [ht]
    split
    · split
      · exact ((henter m).trans (if_neg hne)).trans (hstream m)
      · exact hstream m
    · exact hstream m
  · rw [ht, if_pos hfit, if_pos hfree]
    refine ⟨rfl, ((henter n).trans (if_pos rfl)).trans ?_⟩
    rw [hstream n]
  · rw [ht, if_neg (by simp [hfull])]
    exact ⟨hstream n, by rw [hu]⟩

theorem State.withOlds_prog (s : State) (n j : Nat) (b : Bound) : (s.withOlds n j b).prog = b.prog := by
  unfold State.withOlds
  dsimp only
  split
  · rfl
  · rfl

/-- A program without nodes is complete at once (R114). -/
theorem State.bound_empty_spec {s : State} {n : Nat} {plan : Plan} {p : Program} {l : List (Nat × Nat × Nat)} (h : p.nodes = []) (hpend : (s.stream n).pend = []) :
    let t := s.bound n plan p l
    (t.stream n).st = .completed ∧ (t.stream n).endStatus = S_OK ∧ t.mem = s.mem ∧
      t.reg (glbPage (s.stream n).home) 0x050 = s.reg (glbPage (s.stream n).home) 0x050 + 1 := by
  intro t
  obtain ⟨regs, caches, hframe⟩ := s.bindCounted_frame n p plan
  obtain ⟨v, hv⟩ : ∃ v, v = (s.bindCounted n p plan).enterRunning n (s.asksFor n plan p l).bound p.outTotal := ⟨_, rfl⟩
  have ht : t = v.endSubmission n .completed S_OK unitNone := hv ▸ State.bound_empty h
  have hgrants : (s.bindCounted n p plan).Grants v := hv ▸ State.enterRunning_grants _ _ _ _
  have hempty : (v.stream n).pend = [] := by
    rw [hv, State.enterRunning_stream, if_pos rfl, hframe]
    exact hpend
  obtain ⟨ticks, b, hstream⟩ := v.endSubmission_stream n S_OK unitNone (st := .completed) (fun _ => hempty)
  rw [ht, hstream]
  refine ⟨rfl, rfl, ?_, ?_⟩
  · rw [(v.endSubmission_endFrame n .completed S_OK unitNone).mem, hgrants.endFrame.mem, hframe]
  · rw [State.reg_congr (v.endSubmission_regs n S_OK unitNone (by decide)), State.reg_congr hgrants.regs, State.bindCounted_count]

/-- Where the image passes, the placement is allowed and there is room, the binding completes (R105, R612). -/
theorem bindingComplete_binds {n : Fin 16384} {plan : Plan} {s s1 : State} {p : Program} {l : List (Nat × Nat × Nat)} (hat : s.atBinder n.val = true)
    (hexp : (s.job (s.stream n.val).job).expelled = false) (hcheck : s.checkImage n.val plan.remote = .ok s1 p)
    (hplace : s.internalsOf n.val (s.stream n.val).job p plan = some l)
    (hroom : s.noRoom (s.stream n.val).job p (s.imageSha p plan.remote) = []) (hplan : s.planOk (s.stream n.val).job p plan = true) :
    exec (.bindingComplete n plan) s = .next (s1.bound n.val plan p l) := by
  show execBindingComplete n plan s = _
  simp only [execBindingComplete, hat, hexp, hcheck, hplace, hroom, hplan, and_self, if_true, List.isEmpty_nil]

/-- Settles O24: the two ends of `State.bound`, in a state that differs from the one before by what reads of the image touch. -/
theorem bindingCompletesIntoRunning : Obligations.BindingCompletesIntoRunning := by
  unfold Obligations.BindingCompletesIntoRunning
  intro n plan s x pg hat hexp s1 p hcheck l hplace hroom hplan
  have hexec := bindingComplete_binds hat hexp hcheck hplace hroom hplan
  have hreads : s.Reads s1 := by
    have h := s.checkImage_reads n.val plan.remote
    rwa [hcheck] at h
  have hx : s1.stream n.val = x := hreads.stream n.val
  refine ⟨fun hempty hpend => ?_, fun hnodes hwait => ?_⟩
  · obtain ⟨hst, hend, hmem, hcount⟩ := State.bound_empty_spec (s := s1) (n := n.val) (plan := plan) (l := l) hempty (by rw [hx]; exact hpend)
    rw [hx] at hcount
    exact ⟨_, hexec, hst, hend, hmem, hcount⟩
  · obtain ⟨regs, log, logHead, free, upsets, sramCorr, hs1⟩ := hreads
    have hstreams : s1.streams = s.streams := by rw [hs1]
    have hjobs : s1.jobs = s.jobs := by rw [hs1]
    have hregions : s1.regions = s.regions := by rw [hs1]
    have hw1 : s1.waiting = [] := by rw [hs1]; exact hwait
    intro b w
    have hask : s1.asksFor n.val plan p l = w := by rw [State.asksFor, hx]
    obtain ⟨hgrants, hkept, hruns, hwaits⟩ := State.bound_alone_spec (s := s1) (n := n.val) (plan := plan) (l := l) hnodes hw1
    have hcount := s1.bindCounted_count n.val p plan
    have hregs := s1.bindCounted_regsKept n.val p plan
    rw [hx] at hcount hregs
    rw [hask, hx, State.slotsFit_congr hstreams hjobs, State.placeFree_congr hstreams hjobs hregions] at hruns
    rw [hask, hx, State.slotsFit_congr hstreams hjobs] at hwaits
    obtain ⟨regs', caches, hcounted⟩ := s1.bindCounted_frame n.val p plan
    refine ⟨_, hexec, (State.reg_congr hgrants.regs _ _).trans hcount, fun m hm => (hkept m hm).trans (State.stream_congr hstreams m),
      fun k hk => (State.word_congr hgrants.regs k).trans (hregs k hk), fun hfit hfree => ?_, hwaits, ?_⟩
    · obtain ⟨hnone, hrun⟩ := hruns hfit hfree
      have hprog : w.bound.prog.nodes.length = p.nodes.length := by
        show b.prog.nodes.length = _
        rw [State.withOlds_prog]
        rfl
      rw [hprog] at hrun
      exact ⟨hnone, hrun⟩
    · obtain ⟨_, _, _, _, _, hgrant⟩ := hgrants
      rw [hgrant, hcounted]

end Sys2Proof.Machine
end

section
/-! Proofs: how a firing leaves its engine (R59, R173, R205, R402, R403, R423, R611): at a boundary, with a fault, or as its stream fails. -/

namespace Sys2Proof.Machine

/-! ### What the end of a firing touches -/

/-- What the end of a firing touches, an end of its submission included. -/
def State.FireFrame (s t : State) : Prop :=
  ∃ streams regs jobs engines upds colls readds waiting links bundles nextReq free out log logHead, t = { s with
    streams := streams, regs := regs, jobs := jobs, engines := engines, upds := upds, colls := colls, readds := readds, waiting := waiting
    links := links, bundles := bundles, nextReq := nextReq, free := free, out := out, log := log, logHead := logHead }

theorem State.FireFrame.trans {a b c : State} : a.FireFrame b → b.FireFrame c → a.FireFrame c := by
  rintro ⟨_, _, _, _, _, _, _, _, _, _, _, _, _, _, _, rfl⟩ ⟨_, _, _, _, _, _, _, _, _, _, _, _, _, _, _, rfl⟩
  exact ⟨_, _, _, _, _, _, _, _, _, _, _, _, _, _, _, rfl⟩

theorem State.FireFrame.mem {s t : State} (h : s.FireFrame t) : t.mem = s.mem := by
  obtain ⟨_, _, _, _, _, _, _, _, _, _, _, _, _, _, _, rfl⟩ := h
  rfl

theorem State.Regs.fireFrame {s t : State} : s.Regs t → s.FireFrame t := by
  rintro ⟨_, rfl⟩
  exact ⟨_, _, _, _, _, _, _, _, _, _, _, _, _, _, _, rfl⟩

theorem State.EndFrame.fireFrame {s t : State} : s.EndFrame t → s.FireFrame t := by
  rintro ⟨_, _, _, _, _, _, _, _, _, _, _, rfl⟩
  exact ⟨_, _, _, _, _, _, _, _, _, _, _, _, _, _, _, rfl⟩

theorem State.recordStream_fireFrame (s : State) (n : Nat) (e : Event) : s.FireFrame (s.recordStream n e) :=
  ⟨_, _, _, _, _, _, _, _, _, _, _, _, _, _, _, rfl⟩

theorem State.EndFrame.engine {s t : State} (h : s.EndFrame t) (u : Nat) : t.engine u = s.engine u := by
  obtain ⟨_, _, _, _, _, _, _, _, _, _, _, rfl⟩ := h
  rfl

theorem State.Regs.stream {s t : State} (h : s.Regs t) (n : Nat) : t.stream n = s.stream n := by
  obtain ⟨_, rfl⟩ := h
  rfl

/-! ### Flags posted, and notes on the Consort page -/

theorem State.postFlags_onlyRegs (s : State) (u n : Nat) (f : Flags) (b : Bool) : s.Regs (s.postFlags u n f b) :=
  (s.setReg_onlyRegs _ _ _).trans (State.setReg_onlyRegs _ _ _ _)

theorem State.postFlags_counts (s : State) (u n : Nat) (f : Flags) (b : Bool) : s.Counts [0x05C, 0x060, 0xF00, 0xF04] (s.postFlags u n f b) :=
  (s.setReg_counts _ _ (by decide) (by decide) (by decide)).trans (State.setReg_counts _ _ _ (by decide) (by decide) (by decide))

theorem State.Regs.refl (s : State) : s.Regs s := ⟨_, rfl⟩

theorem State.noteCollFail_onlyRegs (s : State) (b g n : Nat) (code : U16) : s.Regs (s.noteCollFail b g n code) :=
  ((s.setReg_onlyRegs _ _ _).trans (State.setReg_onlyRegs _ _ _ _)).trans (State.raise_onlyRegs _ _ _)

theorem State.noteCollFail_counts (s : State) (b g n : Nat) (code : U16) : s.Counts [0x05C, 0x060, 0xF00, 0xF04] (s.noteCollFail b g n code) :=
  ((s.setReg_counts _ _ (by decide) (by decide) (by decide)).trans (State.setReg_counts _ _ _ (by decide) (by decide) (by decide))).trans
    (State.raise_counts _ _ _)

theorem State.noteUnitFail_onlyRegs (s : State) (u : Nat) (code : U16) : s.Regs (s.noteUnitFail u code) := by
  unfold State.noteUnitFail
  split
  · split
    · exact s.noteCollFail_onlyRegs _ _ _ _
    · exact .refl s
  · exact .refl s

theorem State.noteUnitFail_counts (s : State) (u : Nat) (code : U16) : s.Counts [0x05C, 0x060, 0xF00, 0xF04] (s.noteUnitFail u code) := by
  unfold State.noteUnitFail
  split
  · split
    · exact s.noteCollFail_counts _ _ _ _
    · exact .refl s
  · exact .refl s

/-! ### The boundary of an engine (R59, R205, R423) -/

/-- Only engines and jobs may differ. -/
def State.Releases (s t : State) : Prop := ∃ engines jobs, t = { s with engines := engines, jobs := jobs }

theorem State.Releases.trans {a b c : State} : a.Releases b → b.Releases c → a.Releases c := by
  rintro ⟨_, _, rfl⟩ ⟨_, _, rfl⟩
  exact ⟨_, _, rfl⟩

theorem State.Releases.fireFrame {s t : State} : s.Releases t → s.FireFrame t := by
  rintro ⟨_, _, rfl⟩
  exact ⟨_, _, _, _, _, _, _, _, _, _, _, _, _, _, _, rfl⟩

theorem State.Releases.streams {s t : State} : s.Releases t → t.streams = s.streams := by
  rintro ⟨_, _, rfl⟩
  rfl

theorem State.Releases.regs {s t : State} : s.Releases t → t.regs = s.regs := by
  rintro ⟨_, _, rfl⟩
  rfl

theorem State.Engines.releases {s t : State} : s.Engines t → s.Releases t := by
  rintro ⟨_, rfl⟩
  exact ⟨_, _, rfl⟩

theorem State.releaseQuad_engines (s : State) (u : Nat) : s.Engines (s.releaseQuad u) := by
  refine State.forEach_rel State.Engines.refl State.Engines.trans (fun t v => ?_) _ s
  split
  · exact t.updEngine_engines v _
  · exact .refl t

theorem State.updEngine_engine (s : State) (u v : Nat) (f : Engine → Engine) : (s.updEngine u f).engine v = if v = u then f (s.engine u) else s.engine v :=
  s.setEngine_engine u v _

/-- Every engine but for whom it is reserved. -/
def State.SameWork (s t : State) : Prop := ∀ v, t.engine v = { s.engine v with reservedBy := (t.engine v).reservedBy }

/-- Letting a quad go ends no firing and no pass. -/
theorem State.releaseQuad_work (s : State) (u : Nat) : s.SameWork (s.releaseQuad u) := by
  refine State.forEach_rel (R := State.SameWork) (fun _ _ => rfl) (fun {a b c} hab hbc v => ?_) (fun t w v => ?_) _ s
  · rw [hbc v, hab v]
  · split
    · rw [State.updEngine_engine]
      split
      · rename_i h
        rw [h]
      · rfl
    · rfl

theorem State.clearFiring_releases (s : State) (u j : Nat) : s.Releases (s.clearFiring u j) := ⟨_, _, rfl⟩

theorem State.boundary_releases (s : State) (u : Nat) : s.Releases (s.boundary u) := by
  have hfirst : s.Releases (match (s.engine u).cur with
      | some r => (s.updEngine u (fun e => { e with cur := none })).clearFiring u (s.stream r.stream).job
      | none => s) := by
    split
    · exact (s.updEngine_engines u _).releases.trans (State.clearFiring_releases _ _ _)
    · exact ⟨_, _, rfl⟩
  unfold State.boundary
  dsimp only
  split
  · exact hfirst.trans (State.releaseQuad_engines _ _).releases
  · exact hfirst

theorem State.boundary_idle (s : State) (u : Nat) : ((s.boundary u).engine u).cur = none := by
  have hfirst : ((match (s.engine u).cur with
      | some r => (s.updEngine u (fun e => { e with cur := none })).clearFiring u (s.stream r.stream).job
      | none => s).engine u).cur = none := by
    split
    · show ((s.updEngine u (fun e => { e with cur := none })).engine u).cur = none
      rw [State.updEngine_engine, if_pos rfl]
    · assumption
  unfold State.boundary
  dsimp only
  split
  · rw [State.releaseQuad_work]
    exact hfirst
  · exact hfirst

/-! ### Slots freed behind a firing (R59, R611) -/

/-- The engine of an ended firing stands free, and its submission's slots go on: the common part of `freeAfterFiring`. -/
def State.released (s : State) (u n : Nat) : State := (s.updEngine u (fun e => { e with cur := none })).clearFiring u (s.stream n).job

theorem State.released_releases (s : State) (u n : Nat) : s.Releases (s.released u n) :=
  (s.updEngine_engines u _).releases.trans (State.clearFiring_releases _ _ _)

theorem State.released_idle (s : State) (u n : Nat) : ((s.released u n).engine u).cur = none := by
  show ((s.updEngine u (fun e => { e with cur := none })).engine u).cur = none
  rw [State.updEngine_engine, if_pos rfl]

theorem State.freeAfterFiring_cases (s : State) (u n : Nat) :
    (∃ b, s.freeAfterFiring u n = ((s.released u n).setStream n { (s.released u n).stream n with bound := b }).letGo n) ∨
      s.freeAfterFiring u n = ((s.released u n).abandon n).startNext n := by
  unfold State.freeAfterFiring
  dsimp only
  split
  · exact .inl ⟨_, rfl⟩
  · exact .inr rfl

section
variable (s : State) (u n : Nat)

theorem State.freeAfterFiring_endFrame : (s.released u n).EndFrame (s.freeAfterFiring u n) := by
  rcases s.freeAfterFiring_cases u n with ⟨b, h⟩ | h
  · rw [h]
    exact State.EndFrame.trans ⟨_, _, _, _, _, _, _, _, _, _, _, rfl⟩ (State.letGo_endFrame _ n)
  · rw [h]
    exact State.EndFrame.trans ⟨_, _, _, _, _, _, _, _, _, _, _, rfl⟩ (State.startNext_endFrame _ n)

theorem State.freeAfterFiring_fireFrame : s.FireFrame (s.freeAfterFiring u n) :=
  (s.released_releases u n).fireFrame.trans (s.freeAfterFiring_endFrame u n).fireFrame

theorem State.freeAfterFiring_idle : ((s.freeAfterFiring u n).engine u).cur = none := by
  rw [(s.freeAfterFiring_endFrame u n).engine]
  exact s.released_idle u n

theorem State.freeAfterFiring_regs : (s.freeAfterFiring u n).regs = s.regs := by
  rcases s.freeAfterFiring_cases u n with ⟨b, h⟩ | h
  · rw [h, State.letGo_regs]
    exact (s.released_releases u n).regs
  · rw [h, State.startNext_regs]
    exact (s.released_releases u n).regs

/-- A stream with nothing queued keeps its record but for the slots it holds. -/
theorem State.freeAfterFiring_stream (h : (s.stream n).pend = []) : ∃ b, (s.freeAfterFiring u n).stream n = { s.stream n with bound := b } := by
  have hrel (m : Nat) : (s.released u n).stream m = s.stream m := State.stream_congr (s.released_releases u n).streams m
  rcases s.freeAfterFiring_cases u n with ⟨b, heq⟩ | heq
  · refine ⟨b, ?_⟩
    rw [heq, State.letGo_stream]
    · rw [State.setStream_same, hrel]
    · rw [State.setStream_same, hrel]
      exact h
  · refine ⟨(s.stream n).bound, ?_⟩
    have hab : ((s.released u n).abandon n).stream n = s.stream n := hrel n
    rw [heq, State.startNext_empty (by rw [hab, h]), hab]

end

/-! ### A stream that fails (R41) -/

theorem State.failStream_endFrame (s : State) (n : Nat) (code unit : U16) : s.EndFrame (s.failStream n code unit) := by
  unfold State.failStream
  dsimp only
  split
  · exact s.endSubmission_endFrame _ _ _ _
  · exact .refl s

theorem State.failStream_counts (s : State) (n : Nat) (code unit : U16) : s.Counts [] (s.failStream n code unit) := by
  unfold State.failStream
  dsimp only
  split
  · exact s.endSubmission_counts _ _ _ _
  · exact .refl s

/-- A BINDING, RUNNING or FROZEN stream. -/
def Stream.fails (x : Stream) : Prop := x.st = .binding ∨ x.st = .running ∨ x.st = .frozen

theorem State.failStream_fails {s : State} {n : Nat} (code unit : U16) (h : (s.stream n).fails) :
    (s.failStream n code unit).failedWith n code unit ∧ ((s.failStream n code unit).stream n).pend = [] := by
  obtain ⟨ticks, b, hend⟩ := s.endSubmission_stream n code unit (st := .failed) (fun h => nomatch h)
  have heq : s.failStream n code unit = s.endSubmission n .failed code unit := if_pos h
  rw [State.failedWith, heq, hend]
  exact ⟨⟨rfl, rfl, rfl⟩, rfl⟩

end Sys2Proof.Machine
end

section
/-! Proofs: detected faults, the watchdog and the drained abort (R27, R31, R59, R402, R403). -/

namespace Sys2Proof.Machine

/-! ### A fault detected in the firing that an engine runs (R27, R402, R403) -/

theorem State.updSlot_stream (s : State) (n i : Nat) (f : BNode → BNode) :
    (s.updSlot n i f).stream n = { s.stream n with bound := (s.stream n).bound.map (fun b => b.updSlot i f) } := by
  unfold State.updSlot
  split
  case h_1 b hb => rw [State.setStream_same, hb]; rfl
  case h_2 hb => rw [hb, Option.map_none, ← hb]

theorem State.updSlot_streamsOnly (s : State) (n i : Nat) (f : BNode → BNode) : ∃ streams, s.updSlot n i f = { s with streams := streams } := by
  unfold State.updSlot
  split
  · exact ⟨_, rfl⟩
  · exact ⟨_, rfl⟩

/-- The flags posted in FAULTED and the engine at a boundary, as every fault leaves them. -/
def State.faulted (s : State) (u : Nat) (r : Running) : State := (s.postFlags u r.stream r.flags true).boundary u

theorem State.faulted_fireFrame (s : State) (u : Nat) (r : Running) : s.FireFrame (s.faulted u r) :=
  (s.postFlags_onlyRegs _ _ _ _).fireFrame.trans (State.boundary_releases _ _).fireFrame

theorem State.faulted_stream (s : State) (u : Nat) (r : Running) (n : Nat) : (s.faulted u r).stream n = s.stream n :=
  (State.stream_congr (State.boundary_releases _ _).streams n).trans ((s.postFlags_onlyRegs _ _ _ _).stream n)

theorem State.faulted_idle (s : State) (u : Nat) (r : Running) : ((s.faulted u r).engine u).cur = none := State.boundary_idle _ _

theorem State.faulted_counts (s : State) (u : Nat) (r : Running) : s.Counts [0x05C, 0x060, 0xF00, 0xF04] (s.faulted u r) :=
  (s.postFlags_counts _ _ _ _).trans (.of_regs (State.boundary_releases _ _).regs)

/-- Whether a fault of a firing of the stream on the unit is repeated at all (R403). -/
def State.repeatable (s : State) (u : Nat) (r : Running) : Prop :=
  ¬ ((s.stream r.stream).st = .draining ∨ (s.stream r.stream).over = true ∨ (s.tuneUnit u).fenced = true)

theorem State.repeatable_of_running {s : State} {u : Nat} {r : Running} (hst : (s.stream r.stream).st = .running) (hf : (s.tuneUnit u).fenced = false) :
    s.repeatable u r := by
  simp [State.repeatable, hst, hf, Stream.over, Stream.ended]

def lostEvent (u : Nat) (code : U16) : Event := { kind := 0x02, code := code, unit := unitField u, detail := [u] }

section
variable {s : State} {u : Nat} {r : Running} (code : U16) (hcur : (s.engine u).cur = some r)
include hcur

theorem State.detectedFault_lost (h : ¬ s.repeatable u r) :
    s.detectedFault u code = ((s.faulted u r).recordStream r.stream (lostEvent u code)).freeAfterFiring u r.stream := by
  unfold State.detectedFault
  simp only [hcur]
  exact if_pos (not_not.mp h)

theorem State.detectedFault_second (h : s.repeatable u r) (hrep : r.rep = true) : s.detectedFault u code =
    ((((s.noteUnitFail u code).faulted u r).recordStream r.stream (lostEvent u code)).failStream r.stream code (unitField u)).freeAfterFiring u r.stream := by
  unfold State.detectedFault
  simp only [hcur]
  exact (if_neg h).trans (if_pos hrep)

theorem State.detectedFault_first (h : s.repeatable u r) (hrep : r.rep = false) : s.detectedFault u code =
    (s.faulted u r).updSlot r.stream r.slot (fun x => { x with rep := true, code := code, part := r.part }) := by
  unfold State.detectedFault
  simp only [hcur]
  exact (if_neg h).trans (if_neg (by simp [hrep]))

theorem State.detectedFault_fireFrame : s.FireFrame (s.detectedFault u code) := by
  by_cases h : s.repeatable u r
  · cases hrep : r.rep with
    | true =>
      rw [State.detectedFault_second code hcur h hrep]
      exact (((s.noteUnitFail_onlyRegs u code).fireFrame.trans (State.faulted_fireFrame _ u r)).trans
        ((State.recordStream_fireFrame _ _ _).trans (State.failStream_endFrame _ _ _ _).fireFrame)).trans (State.freeAfterFiring_fireFrame _ _ _)
    | false =>
      rw [State.detectedFault_first code hcur h hrep]
      obtain ⟨_, hslot⟩ := (s.faulted u r).updSlot_streamsOnly r.stream r.slot (fun x => { x with rep := true, code := code, part := r.part })
      rw [hslot]
      exact (s.faulted_fireFrame u r).trans ⟨_, _, _, _, _, _, _, _, _, _, _, _, _, _, _, rfl⟩
  · rw [State.detectedFault_lost code hcur h]
    exact ((s.faulted_fireFrame u r).trans (State.recordStream_fireFrame _ _ _)).trans (State.freeAfterFiring_fireFrame _ _ _)

/-- A first fault leaves its slot to be repeated (R402). -/
theorem State.detectedFault_toRepeat (h : s.repeatable u r) (hrep : r.rep = false) : s.toRepeat (s.detectedFault u code) u code := by
  rw [State.detectedFault_first code hcur h hrep]
  obtain ⟨streams, hslot⟩ := (s.faulted u r).updSlot_streamsOnly r.stream r.slot (fun x => { x with rep := true, code := code, part := r.part })
  refine ⟨?_, fun r' hr' b hb => ?_⟩
  · rw [hslot]
    exact s.faulted_idle u r
  · obtain rfl : r = r' := Option.some.inj (hcur.symm.trans hr')
    rw [State.updSlot_stream, State.faulted_stream] at hb ⊢
    refine ⟨rfl, fun y hy hslot => ?_⟩
    obtain ⟨b0, _, rfl⟩ := Option.map_eq_some_iff.mp hb
    obtain ⟨z, _, rfl⟩ := List.mem_map.mp hy
    by_cases hz : z.slot = r.slot
    · simp [hz]
    · simp [hz] at hslot

/-- A second one fails the stream (R403). -/
theorem State.detectedFault_fails (h : s.repeatable u r) (hrep : r.rep = true) (hst : (s.stream r.stream).fails) :
    (s.detectedFault u code).failedWith r.stream code (unitField u) := by
  rw [State.detectedFault_second code hcur h hrep]
  obtain ⟨v, hv⟩ : ∃ v, v = ((s.noteUnitFail u code).faulted u r).recordStream r.stream (lostEvent u code) := ⟨_, rfl⟩
  have hstream : v.stream r.stream = s.stream r.stream := by
    rw [hv]
    exact (State.faulted_stream _ u r r.stream).trans ((s.noteUnitFail_onlyRegs u code).stream _)
  obtain ⟨hfailed, hpend⟩ := State.failStream_fails (s := v) code (unitField u) (by rw [hstream]; exact hst)
  obtain ⟨b, hfree⟩ := State.freeAfterFiring_stream _ u r.stream hpend
  rw [← hv, State.failedWith, hfree]
  exact hfailed

/-! ### A failure that is never repeated (R403) -/

theorem State.failFiring_eq : s.failFiring u code =
    (((s.noteUnitFail u code).faulted u r).failStream r.stream code (unitField u)).freeAfterFiring u r.stream := by
  unfold State.failFiring
  simp only [hcur]
  rfl

theorem State.failFiring_idle : ((s.failFiring u code).engine u).cur = none := by
  rw [State.failFiring_eq code hcur]
  exact State.freeAfterFiring_idle _ _ _

theorem State.failFiring_mem : (s.failFiring u code).mem = s.mem := by
  rw [State.failFiring_eq code hcur]
  exact ((((s.noteUnitFail_onlyRegs u code).fireFrame.trans (State.faulted_fireFrame _ u r)).trans
    (State.failStream_endFrame _ _ _ _).fireFrame).trans (State.freeAfterFiring_fireFrame _ _ _)).mem

theorem State.failFiring_counts : s.Counts [0x05C, 0x060, 0xF00, 0xF04] (s.failFiring u code) := by
  rw [State.failFiring_eq code hcur]
  exact (((s.noteUnitFail_counts u code).trans (State.faulted_counts _ u r)).trans ((State.failStream_counts _ _ _ _).mono (by simp))).trans
    (.of_regs (State.freeAfterFiring_regs _ _ _))

theorem State.failFiring_fails (hst : (s.stream r.stream).fails) : (s.failFiring u code).failedWith r.stream code (unitField u) := by
  rw [State.failFiring_eq code hcur]
  have hstream : ((s.noteUnitFail u code).faulted u r).stream r.stream = s.stream r.stream :=
    (State.faulted_stream _ u r r.stream).trans ((s.noteUnitFail_onlyRegs u code).stream _)
  obtain ⟨hfailed, hpend⟩ := State.failStream_fails (s := (s.noteUnitFail u code).faulted u r) code (unitField u) (by rw [hstream]; exact hst)
  obtain ⟨b, hfree⟩ := State.freeAfterFiring_stream _ u r.stream hpend
  rw [State.failedWith, hfree]
  exact hfailed

end

/-! ### A fault with the flags raised so far (R172) -/

/-- What a fault with a code does to a firing that runs: memory is as it was, a first fault is to be repeated, and a second one fails the stream (R402, R403). -/
structure State.Faults (s t : State) (u : Nat) (code : U16) : Prop where
  bytes : t.mem.bytes = s.mem.bytes
  tags : t.mem.tags = s.mem.tags
  first : s.firstRun u → s.toRepeat t u code
  second : ∀ r, (s.engine u).cur = some r → r.rep = true → (s.stream r.stream).st = .running → (s.tuneUnit u).fenced = false →
    t.failedWith r.stream code (unitField u)

theorem State.detectedFault_faults {s : State} {u : Nat} {r : Running} (code : U16) (hcur : (s.engine u).cur = some r) :
    s.Faults (s.detectedFault u code) u code := by
  have hmem := (State.detectedFault_fireFrame code hcur).mem
  refine ⟨congrArg Memory.bytes hmem, congrArg Memory.tags hmem, fun hfirst => ?_, fun r' hr' hrep hst hfence => ?_⟩
  · obtain ⟨r', hr', hrep, hst, hfence⟩ := hfirst
    obtain rfl : r = r' := Option.some.inj (hcur.symm.trans hr')
    exact State.detectedFault_toRepeat code hcur (State.repeatable_of_running hst hfence) hrep
  · obtain rfl : r = r' := Option.some.inj (hcur.symm.trans hr')
    exact State.detectedFault_fails code hcur (State.repeatable_of_running hst hfence) hrep (.inr (.inl hst))

/-- Nothing that decides how a fault ends may differ: streams, the firing's slot and run, memory, and what is fenced. -/
structure State.SameRun (s t : State) (u : Nat) : Prop where
  streams : t.streams = s.streams
  bytes : t.mem.bytes = s.mem.bytes
  tags : t.mem.tags = s.mem.tags
  fenced : (t.tuneUnit u).fenced = (s.tuneUnit u).fenced
  cur : ∃ f : Flags, (t.engine u).cur = (s.engine u).cur.map (fun r => { r with flags := r.flags ||| f })

/-- A fault in a state with the same run is a fault of the state before. -/
theorem State.Faults.of_sameRun {s c t : State} {u : Nat} {code : U16} (hs : s.SameRun c u) (h : c.Faults t u code) : s.Faults t u code := by
  obtain ⟨f, hcur⟩ := hs.cur
  have hstream (n : Nat) : c.stream n = s.stream n := State.stream_congr hs.streams n
  have hsome {r : Running} (hr : (s.engine u).cur = some r) : (c.engine u).cur = some { r with flags := r.flags ||| f } := by rw [hcur, hr]; rfl
  refine ⟨h.bytes.trans hs.bytes, h.tags.trans hs.tags, fun hfirst => ?_, fun r hr hrep hst hfence => ?_⟩
  · obtain ⟨r, hr, hrep, hst, hfence⟩ := hfirst
    obtain ⟨hidle, hslots⟩ := h.first ⟨_, hsome hr, hrep, by rw [hstream]; exact hst, hs.fenced.trans hfence⟩
    refine ⟨hidle, fun r' hr' b hb => ?_⟩
    rw [← hstream]
    exact hslots _ (hsome hr') b hb
  · exact h.second { r with flags := r.flags ||| f } (hsome hr) hrep (by rw [hstream]; exact hst) (hs.fenced.trans hfence)

theorem State.SameRun.trans {a b c : State} {u : Nat} (h : a.SameRun b u) (k : b.SameRun c u) : a.SameRun c u := by
  obtain ⟨f, hf⟩ := h.cur
  obtain ⟨g, hg⟩ := k.cur
  refine ⟨k.streams.trans h.streams, k.bytes.trans h.bytes, k.tags.trans h.tags, k.fenced.trans h.fenced, f ||| g, ?_⟩
  rw [hg, hf, Option.map_map]
  refine congrArg (Option.map · _) (funext fun r => ?_)
  simp [BitVec.or_assoc]

/-- Where the engine's firing is as it was, only the rest is to be shown. -/
theorem State.SameRun.of_engines {s t : State} {u : Nat} (hengines : t.engines = s.engines) (hstreams : t.streams = s.streams) (hb : t.mem.bytes = s.mem.bytes)
    (htags : t.mem.tags = s.mem.tags) (hfence : (t.tuneUnit u).fenced = (s.tuneUnit u).fenced) : s.SameRun t u :=
  ⟨hstreams, hb, htags, hfence, 0, by rw [State.engine_congr hengines]; simp⟩

theorem State.Reads.sameRun {s t : State} {u : Nat} : s.Reads t → s.SameRun t u := by
  rintro ⟨_, _, _, _, _, _, rfl⟩
  exact .of_engines rfl rfl rfl rfl rfl

theorem State.flagged_sameRun (s : State) (u : Nat) (f : Flags) :
    s.SameRun (s.updEngine u (fun e => { e with cur := e.cur.map (fun (r : Running) => { r with flags := r.flags ||| f }) })) u :=
  ⟨rfl, rfl, rfl, rfl, f, by rw [State.updEngine_engine, if_pos rfl]⟩

theorem State.faultWith_faults {s : State} {u : Nat} (code : U16) (f : Flags) (hcur : (s.engine u).cur ≠ none) : s.Faults (s.faultWith u code f) u code := by
  obtain ⟨r, hr⟩ := Option.ne_none_iff_exists'.mp hcur
  refine State.Faults.of_sameRun (s.flagged_sameRun u f) (State.detectedFault_faults (r := { r with flags := r.flags ||| f }) code ?_)
  rw [State.updEngine_engine, if_pos rfl, hr]
  rfl

/-! ### What leads to a fault (R145, R215, R227, R269) -/

theorem State.SameRun.busy {s t : State} {u : Nat} (h : s.SameRun t u) (hcur : (s.engine u).cur ≠ none) : (t.engine u).cur ≠ none := by
  obtain ⟨f, hf⟩ := h.cur
  rw [hf]
  simpa using hcur

/-- A fault after something that leaves the run as it was. -/
theorem State.SameRun.faults {s c : State} {u : Nat} (h : s.SameRun c u) (code : U16) (f : Flags) (hcur : (s.engine u).cur ≠ none) :
    s.Faults (c.faultWith u code f) u code := .of_sameRun h (State.faultWith_faults code f (h.busy hcur))

theorem State.SameRun.refl (s : State) (u : Nat) : s.SameRun s u := .of_engines rfl rfl rfl rfl rfl

theorem State.Regs.sameRun {s t : State} {u : Nat} (h : s.Regs t) : s.SameRun t u := h.reads.sameRun

theorem State.spoil_sameRun (s : State) (u line : Nat) : s.SameRun { s with mem := s.mem.spoil line } u := by
  have hspoil : (s.mem.spoil line).bytes = s.mem.bytes ∧ (s.mem.spoil line).tags = s.mem.tags := by
    unfold Memory.spoil
    split
    · exact ⟨rfl, rfl⟩
    · exact ⟨rfl, rfl⟩
  exact .of_engines rfl rfl hspoil.1 hspoil.2 rfl

theorem State.recordStream_sameRun (s : State) (u n : Nat) (e : Event) : s.SameRun (s.recordStream n e) u := (s.record_reads _).sameRun

theorem State.grainMiss_sameRun (s : State) (u addr : Nat) (stored found : U32) : s.SameRun (s.grainMiss u addr stored found) u := by
  unfold State.grainMiss
  split
  · exact .refl s u
  · dsimp only
    split
    · exact (s.recordStream_sameRun u _ _).trans (State.raise_onlyRegs _ _ _).sameRun
    · exact s.recordStream_sameRun u _ _

/-- A pass made due fences nothing (R405). -/
theorem State.dueNow_sameRun (s : State) (u v : Nat) : s.SameRun (s.dueNow v) u := by
  unfold State.dueNow
  dsimp only
  split
  · exact .refl s u
  · refine .of_engines rfl rfl rfl rfl ?_
    rw [State.setTune_tuneUnit]
    split
    · rename_i h
      rw [h]
    · rfl

theorem State.countPair_onlyRegs (s : State) (pg : Page) (lo n : Nat) : s.Regs (s.countPair pg lo n) :=
  (s.setReg_onlyRegs _ _ _).trans (State.setReg_onlyRegs _ _ _ _)

theorem State.countSat_onlyRegs (s : State) (pg : Page) (o n : Nat) : s.Regs (s.countSat pg o n) := s.setReg_onlyRegs _ _ _

theorem State.setArray_sameRun (s : State) (u core : Nat) (x : ArraySt) : s.SameRun (s.setArray core x) u := .of_engines rfl rfl rfl rfl rfl

/-- What an array's passes leave is its registers and its weights (R131, R150). -/
theorem State.arrayDone_sameRun (s : State) (u : Nat) (x : ArrayRun) : s.SameRun (s.arrayDone x) u := by
  have hhit : s.Regs (if x.hit.isSome then s.disarm (arrayPage x.core) 0 else s) := by
    split
    · exact s.disarm_onlyRegs _ _
    · exact .refl s
  have hcount := (((hhit.trans (State.countPair_onlyRegs _ (arrayPage x.core) 0x064 x.seen.passes)).trans
    (State.countPair_onlyRegs _ (arrayPage x.core) 0x06C (idleCycles (x.vs.take x.begun)))).trans
    (State.countSat_onlyRegs _ (arrayPage x.core) 0x050 x.seen.skips)).trans (State.countSat_onlyRegs _ (arrayPage x.core) 0x054 x.seen.sats)
  unfold State.arrayDone
  dsimp only
  split
  · exact hcount.sameRun
  · exact hcount.sameRun.trans (State.setArray_sameRun _ u _ _)

theorem State.noteMiss_onlyRegs (s : State) (core n vector cls : Nat) (int : Bool) (diff bound : U32) : s.Regs (s.noteMiss core n vector cls int diff bound) := by
  unfold State.noteMiss
  dsimp only
  refine State.Regs.trans ?_ ((State.countSat_onlyRegs _ _ _ _).trans (State.raise_onlyRegs _ _ _))
  split
  · exact .refl s
  · exact ((s.setReg_onlyRegs _ _ _).trans (State.setReg_onlyRegs _ _ _ _)).trans (State.setReg_onlyRegs _ _ _ _)

/-- A tally mismatch is a fault with its code (R145, R146, R405). -/
theorem State.missFault_faults {s : State} {u : Nat} (n : Nat) (arrays : List ArrayRun) (m : ArrayRun × Nat × Nat × Nat × Nat) (f : Flags)
    (hcur : (s.engine u).cur ≠ none) : s.Faults (s.missFault u n arrays m f) u S_TALLY := by
  have harrays : s.SameRun (s.forEach arrays State.arrayDone) u :=
    State.forEach_rel (R := fun a b => a.SameRun b u) (fun a => .refl a u) State.SameRun.trans (fun t x => t.arrayDone_sameRun u x) arrays s
  obtain ⟨c, hc⟩ : ∃ c, c = (s.forEach arrays State.arrayDone).noteMiss m.1.core n m.2.2.1 (m.1.classes.getD m.2.1 .w4).code m.1.int
    (BitVec.ofNat 32 m.2.2.2.1) (BitVec.ofNat 32 m.2.2.2.2) := ⟨_, rfl⟩
  have hnoted : s.SameRun c u := hc ▸ harrays.trans (State.noteMiss_onlyRegs _ _ _ _ _ _ _ _).sameRun
  have hdue : s.SameRun (if c.lastTry u then c.dueNow (4 * m.1.core) else c) u := by
    split
    · exact hnoted.trans (c.dueNow_sameRun u _)
    · exact hnoted
  rw [State.missFault, State.tallyFault, ← hc]
  exact hdue.faults S_TALLY f hcur

/-! ### A mismatch put into a firing's work is found (R146) -/

theorem foldl_stays {α β : Type} {f : α → β → α} {P : α → Prop} (hstep : ∀ a b, P a → P (f a b)) (l : List β) : ∀ a, P a → P (l.foldl f a) := by
  induction l with
  | nil => exact fun a h => h
  | cons b l ih => exact fun a h => ih _ (hstep a b h)

/-- A fold over a list one of whose elements brings about what then stays. -/
theorem foldl_reaches {α β : Type} {f : α → β → α} {P : α → Prop} (hstep : ∀ a b, P a → P (f a b)) {x : β} (hx : ∀ a, P (f a x)) {l : List β}
    (hmem : x ∈ l) : ∀ a, P (l.foldl f a) := by
  induction l with
  | nil => cases hmem
  | cons b l ih =>
    intro a
    rcases List.mem_cons.mp hmem with rfl | h
    · exact foldl_stays hstep l _ (hx a)
    · exact ih h _

theorem exists_numbered_mem {α : Type} {x : α} {l : List α} (h : x ∈ l) : ∃ i, (i, x) ∈ (List.range l.length).zip l := by
  obtain ⟨i, hi, rfl⟩ := List.mem_iff_getElem.mp h
  exact ⟨i, List.mem_iff_getElem.mpr ⟨i, by simpa using hi, by simp⟩⟩

theorem TallySeen.vector_stays {t : TallySeen} (p v : Nat) (r : TallyResult) (h : t.miss.isSome = true) : (t.vector p v r).miss.isSome = true := by
  unfold TallySeen.vector
  rwa [if_pos h]

theorem TallySeen.vector_miss (t : TallySeen) (p v d b : Nat) : (t.vector p v (.miss d b)).miss.isSome = true := by
  unfold TallySeen.vector
  split
  · assumption
  · rfl

theorem TallySeen.pass_stays {t : TallySeen} (i : Nat) (l : List TallyResult) (h : t.miss.isSome = true) : (t.pass i l).miss.isSome = true := by
  have hall := foldl_stays (P := fun a : TallySeen => a.miss.isSome = true) (fun a (q : Nat × TallyResult) ha => TallySeen.vector_stays i q.1 q.2 ha)
    ((List.range l.length).zip l) t h
  rw [TallySeen.pass, if_pos hall]
  exact hall

theorem TallySeen.pass_miss {l : List TallyResult} {d b : Nat} (h : .miss d b ∈ l) (i : Nat) (t : TallySeen) : (t.pass i l).miss.isSome = true := by
  obtain ⟨k, hk⟩ := exists_numbered_mem h
  have hall := foldl_reaches (P := fun a : TallySeen => a.miss.isSome = true) (fun a (q : Nat × TallyResult) ha => TallySeen.vector_stays i q.1 q.2 ha)
    (fun a => a.vector_miss i k d b) hk t
  rw [TallySeen.pass, if_pos hall]
  exact hall

theorem tallySeen_miss {ls : List (List TallyResult)} {l : List TallyResult} {d b : Nat} (hl : l ∈ ls) (h : .miss d b ∈ l) : (tallySeen ls).miss.isSome = true := by
  obtain ⟨k, hk⟩ := exists_numbered_mem hl
  exact foldl_reaches (P := fun a : TallySeen => a.miss.isSome = true) (fun a (q : Nat × List TallyResult) ha => TallySeen.pass_stays q.1 q.2 ha)
    (fun a => TallySeen.pass_miss h k a) hk _

theorem ArrayRun.missAt_seen (x : ArrayRun) (pass vector diff bound : Nat) : (x.missAt pass vector diff bound).seen.miss.isSome = true :=
  tallySeen_miss (l := (x.found.getD pass []).take vector ++ [.miss diff bound]) (d := diff) (b := bound) (by simp [ArrayRun.missAt]) (by simp)

theorem firstMiss_isSome {arrays : List ArrayRun} {x : ArrayRun} (hx : x ∈ arrays) (h : x.seen.miss.isSome = true) : (firstMiss arrays).isSome = true := by
  rw [firstMiss, List.findSome?_isSome_iff]
  exact ⟨x, hx, by simpa using h⟩

end Sys2Proof.Machine
end

section
/-! Proofs: the three commands that end a firing or a drained submission from outside (R27, R31, R59). -/

namespace Sys2Proof.Machine

/-! ### FIRING_FAULT by its causes -/

theorem exists_of_any {α : Type} {p : α → Bool} {o : Option α} (h : o.any p = true) : ∃ a, o = some a ∧ p a = true := by
  cases o with
  | none => cases h
  | some a => exact ⟨a, rfl, h⟩

section
variable {s : State} {u : Nat} (f : Flags) (hcur : (s.engine u).cur ≠ none)
include hcur

/-- A mismatch of a vector that one of the firing's passes has (R145). -/
theorem State.faultOf_tally {core pass vector : Nat} {d b : U32} (h : (s.passesAt u core pass vector).any (fun x => missBeyond x.2 d b) = true) :
    s.Faults (s.faultOf u (.tally core pass vector d b) f) u S_TALLY := by
  obtain ⟨r, hr⟩ := Option.ne_none_iff_exists'.mp hcur
  obtain ⟨⟨cls, int⟩, hpass, hbeyond⟩ := exists_of_any h
  obtain ⟨x, hfind, _⟩ := Option.bind_eq_some_iff.mp hpass
  have hx : x ∈ s.runningArrays u := List.mem_of_find?_eq_some hfind
  have hcore : x.core = core := by simpa using List.find?_some hfind
  obtain ⟨m, hm⟩ : ∃ m, firstMiss ((s.runningArrays u).map (fun x => if x.core = core then x.missAt pass vector d.toNat (if int then 0 else b.toNat) else x)) = some m :=
    Option.isSome_iff_exists.mp (firstMiss_isSome (List.mem_map.mpr ⟨x, hx, if_pos hcore⟩) (x.missAt_seen _ _ _ _))
  have heq : s.faultOf u (.tally core pass vector d b) f =
      s.missFault u r.stream ((s.runningArrays u).map (fun x => if x.core = core then x.missAt pass vector d.toNat (if int then 0 else b.toNat) else x)) m f := by
    simp only [State.faultOf, hr, hpass, hbeyond, if_true, hm]
  rw [heq]
  exact State.missFault_faults r.stream _ m f hcur

/-- An uncorrectable error in SRAM that the engine reaches (R227). -/
theorem State.faultOf_sram {a retries : Nat} (h : reachesSram u a = true) : s.Faults (s.faultOf u (.memory 2 a retries) f) u S_MEM_UNCORR := by
  obtain ⟨r, hr⟩ := Option.ne_none_iff_exists'.mp hcur
  have heq : s.faultOf u (.memory 2 a retries) f = (s.record { kind := 0x03, code := S_MEM_UNCORR, addr := a, detail := [2] }).faultWith u S_MEM_UNCORR f := by
    simp only [State.faultOf, hr, h, if_true]
  rw [heq]
  exact (s.record_reads _).sameRun.faults S_MEM_UNCORR f hcur

/-- An uncorrectable error in what the firing reads (R215). -/
theorem State.faultOf_memory {kind a retries : Nat} {d : MemDev} (hkind : kind ≠ 2) (hdev : devOf a = some d) (hd : d.kind = kind) (hreads : s.readsAt u a = true) :
    s.Faults (s.faultOf u (.memory kind a retries) f) u S_MEM_UNCORR := by
  obtain ⟨r, hr⟩ := Option.ne_none_iff_exists'.mp hcur
  have heq : s.faultOf u (.memory kind a retries) f =
      ((({ s with mem := s.mem.spoil (a / 64) }).readNote ⟨a, false, retries⟩).noteUncorr d a 1).faultWith u S_MEM_UNCORR f := by
    simp only [State.faultOf, hr, hkind, hdev, hd, hreads, and_self, if_true, if_false]
  rw [heq]
  exact ((s.spoil_sameRun u (a / 64)).trans ((State.readNote_reads _ _).trans (State.noteUncorr_reads _ _ _ _)).sameRun).faults S_MEM_UNCORR f hcur

/-- A damaged block that the firing reads (R269). -/
theorem State.faultOf_grain {a : Nat} {found : U32} (hreads : s.readsAt u a = true) (hfound : found ≠ s.storedTag u (a / 2048)) :
    s.Faults (s.faultOf u (.grain a found) f) u S_GRAIN := by
  obtain ⟨r, hr⟩ := Option.ne_none_iff_exists'.mp hcur
  have heq : s.faultOf u (.grain a found) f = (s.grainMiss u (a / 2048 * 2048) (s.storedTag u (a / 2048)) found).faultWith u S_GRAIN f := by
    simp only [State.faultOf, hr, State.grainFault]
    exact if_pos ⟨hreads, hfound⟩
  rw [heq]
  exact (s.grainMiss_sameRun u _ _ _).faults S_GRAIN f hcur

end

/-! ### FIRING_WATCHDOG and ABORT_DRAIN_DONE -/

/-- An overrun counted at the home manager (R31, R73). -/
def State.overrun (s : State) (u n : Nat) : State :=
  ((s.countSat (stmPage (s.stream n).home) 0x04C).raise (stmPage (s.stream n).home) 0).recordStream n
    { kind := 0x12, code := S_FIRE_OVERRUN, unit := unitField u, detail := [u] }

theorem firingWatchdog_eq {u : Fin 822} {s : State} {r : Running} (hcur : (s.engine u.val).cur = some r) :
    exec (.firingWatchdog u) s = .next ((s.overrun u.val r.stream).failFiring u.val S_FIRE_OVERRUN) := by
  show execFiringWatchdog u s = _
  simp only [execFiringWatchdog, hcur]
  rfl

theorem State.overrun_reads (s : State) (u n : Nat) : s.Reads (s.overrun u n) :=
  ((s.countSat_onlyRegs _ _ _).trans (State.raise_onlyRegs _ _ _)).reads.trans (State.record_reads _ _)

theorem State.overrun_count (s : State) (u n : Nat) :
    (s.overrun u n).reg (stmPage (s.stream n).home) 0x04C = satAdd (s.reg (stmPage (s.stream n).home) 0x04C) 1 := by
  rw [State.overrun, State.recordStream, State.reg_congr (State.record_regs _ _), State.raise_reg_other _ _ _ (by decide), State.countSat_def, State.setReg_same]

theorem State.overrun_stat (s : State) (u n : Nat) : ((s.overrun u n).reg (stmPage (s.stream n).home) offErrStat).getLsbD 0 = true := by
  rw [State.overrun, State.recordStream, State.reg_congr (State.record_regs _ _)]
  exact State.raise_stat_set _ _ (by decide)

theorem State.Reads.engine {s t : State} (h : s.Reads t) (u : Nat) : t.engine u = s.engine u := by
  obtain ⟨_, _, _, _, _, _, rfl⟩ := h
  rfl

/-- The watchdog counts the overrun and fails the stream without a repetition (R31, R403). -/
theorem firingWatchdog_fails (u : Fin 822) (s : State) (r : Running) (hcur : (s.engine u.val).cur = some r) :
    let pg := stmPage (s.stream r.stream).home
    ∃ t, exec (.firingWatchdog u) s = .next t ∧ t.reg pg 0x04C = satAdd (s.reg pg 0x04C) 1 ∧ (t.reg pg offErrStat).getLsbD 0 = true ∧ t.mem = s.mem ∧
      (t.engine u.val).cur = none ∧ ((s.stream r.stream).fails → t.failedWith r.stream S_FIRE_OVERRUN (unitField u.val)) := by
  intro pg
  have hreads := s.overrun_reads u.val r.stream
  have hrun : ((s.overrun u.val r.stream).engine u.val).cur = some r := by rw [hreads.engine, hcur]
  have hcounts := State.failFiring_counts S_FIRE_OVERRUN hrun
  refine ⟨_, firingWatchdog_eq hcur, ?_, hcounts.stat pg 0 (s.overrun_stat u.val r.stream), ?_, State.failFiring_idle _ hrun, fun hst => ?_⟩
  · exact (hcounts.reg pg 0x04C (by decide) (by decide) (by decide)).trans (s.overrun_count u.val r.stream)
  · exact (State.failFiring_mem _ hrun).trans hreads.mem
  · exact State.failFiring_fails _ hrun (by rw [hreads.stream]; exact hst)

theorem exec_abortDrainDone (n : Fin 16384) (s : State) : exec (.abortDrainDone n) s = .next (s.drainDone n.val) := rfl

/-- Settles O28: each cause leaves the run as it was up to `detectedFault`, whose two ends are those of R402 and R403. -/
theorem faultsRepeatThenFail : Obligations.FaultsRepeatThenFail := by
  unfold Obligations.FaultsRepeatThenFail
  refine ⟨?_, fun u s r hcur => firingWatchdog_fails u s r hcur, fun n s => ⟨fun hst hdrained hrun => ?_, fun hno => ?_⟩⟩
  · intro u cause f s code befalls hcur hbefalls
    have hfaults : s.Faults (s.faultOf u.val cause f) u.val code := by
      cases cause with
      | tally core pass vector d b => exact State.faultOf_tally f hcur hbefalls
      | memory kind a retries =>
        by_cases hkind : kind = 2
        · subst hkind
          exact State.faultOf_sram f hcur hbefalls
        · have hmem : (s.readsAt u.val a && (devOf a).any (fun d => decide (d.kind = kind))) = true := (if_neg hkind).symm.trans hbefalls
          obtain ⟨hreads, hdev⟩ := Bool.and_eq_true_iff.mp hmem
          obtain ⟨d, hd, hk⟩ := exists_of_any hdev
          exact State.faultOf_memory f hcur hkind hd (of_decide_eq_true hk) hreads
      | grain a found =>
        obtain ⟨hreads, hfound⟩ := Bool.and_eq_true_iff.mp hbefalls
        exact State.faultOf_grain f hcur hreads (of_decide_eq_true hfound)
    exact ⟨_, rfl, hfaults.bytes, hfaults.tags, hfaults.first, hfaults.second⟩
  · obtain ⟨ticks, b, hend⟩ := s.endSubmission_stream n.val S_ABORTED unitNone (st := .aborted) (fun h => nomatch h)
    have heq : s.drainDone n.val = s.endSubmission n.val .aborted S_ABORTED unitNone := if_pos ⟨hst, hdrained, hrun⟩
    refine ⟨_, (exec_abortDrainDone n s).trans (congrArg Host.Outcome.next heq), ?_⟩
    rw [hend]
    exact ⟨rfl, rfl, rfl, (s.endSubmission_endFrame _ _ _ _).mem⟩
  · refine (exec_abortDrainDone n s).trans (congrArg Host.Outcome.next (if_neg ?_))
    rintro ⟨hst, hdrained, _⟩
    rcases hno with h | h
    · exact h hst
    · exact absurd hdrained (by simp [h])

end Sys2Proof.Machine
end

section
/-! Proofs: several streams that fail one after the other (R41, R417): those that have failed stay so, whatever the ends of the others hand on. -/

namespace Sys2Proof.Machine

/-! ### What the end of one stream's submission does to another stream (R108) -/

theorem State.grantLoop_runs (m : Nat) (l : List WaitingBind) : ∀ (kept : List WaitingBind) (s : State),
    (s.grantLoop l kept).stream m = s.stream m ∨ ((s.grantLoop l kept).stream m).st = .running := by
  induction l with
  | nil => exact fun _ _ => .inl rfl
  | cons w l ih =>
    intro kept s
    unfold State.grantLoop
    split
    · split
      · rcases ih kept (s.enterRunning w.stream w.bound w.outTotal) with h | h
        · rw [h, State.enterRunning_stream]
          split
          · exact .inr rfl
          · exact .inl rfl
        · exact .inr h
      · exact ih kept s
    · exact ih _ s

theorem State.grantLoop_waiting (l : List WaitingBind) : ∀ (kept : List WaitingBind) (s : State), ∀ w, w ∈ (s.grantLoop l kept).waiting → w ∈ l ∨ w ∈ kept := by
  induction l with
  | nil => exact fun _ _ _ hw => .inr hw
  | cons v l ih =>
    intro kept s w hw
    unfold State.grantLoop at hw
    split at hw
    · rcases ih _ _ w hw with h | h
      · exact .inl (List.mem_cons_of_mem _ h)
      · exact .inr h
    · rcases ih _ _ w hw with h | h
      · exact .inl (List.mem_cons_of_mem _ h)
      · rcases List.mem_append.mp h with h | h
        · exact .inr h
        · exact .inl (List.mem_singleton.mp h ▸ List.mem_cons_self)

/-- The state of a stream's submission ended, with its slots still to go on. -/
def State.ended (s : State) (n : Nat) (st : SState) (code unit : U16) (ticks : U32) : State :=
  (if st = .failed then (s.updRec n (fun x => x.endRec st code unit ticks)).draw.raise (stmPage (s.stream n).home) 1
    else (s.updRec n (fun x => x.endRec st code unit ticks)).draw).revoke n

theorem State.ended_other (s : State) (st : SState) (code unit : U16) (ticks : U32) {n m : Nat} (h : m ≠ n) : (s.ended n st code unit ticks).stream m = s.stream m := by
  have hrec : (s.updRec n (fun x => x.endRec st code unit ticks)).draw.stream m = s.stream m :=
    (State.updRec_stream s n m (fun x => x.endRec st code unit ticks)).trans (if_neg h)
  have hraised : (if st = .failed then (s.updRec n (fun x => x.endRec st code unit ticks)).draw.raise (stmPage (s.stream n).home) 1
      else (s.updRec n (fun x => x.endRec st code unit ticks)).draw).stream m = s.stream m := by
    split
    · exact ((State.raise_onlyRegs _ _ _).stream m).trans hrec
    · exact hrec
  unfold State.ended
  generalize (if st = .failed then (s.updRec n (fun x => x.endRec st code unit ticks)).draw.raise (stmPage (s.stream n).home) 1
    else (s.updRec n (fun x => x.endRec st code unit ticks)).draw) = u at hraised
  obtain ⟨b, hb | hb⟩ := u.revoke_eq n
  · rw [hb, State.setStream_stream, if_neg h, hraised]
  · rw [hb, hraised]

theorem State.ended_waiting (s : State) (n : Nat) (st : SState) (code unit : U16) (ticks : U32) : (s.ended n st code unit ticks).waiting = s.waiting := by
  have hraised : (if st = .failed then (s.updRec n (fun x => x.endRec st code unit ticks)).draw.raise (stmPage (s.stream n).home) 1
      else (s.updRec n (fun x => x.endRec st code unit ticks)).draw).waiting = s.waiting := by
    split
    · exact (State.raise_waiting _ _ _).trans rfl
    · rfl
  unfold State.ended
  obtain ⟨_, h⟩ := State.revoke_frame (if st = .failed then (s.updRec n (fun x => x.endRec st code unit ticks)).draw.raise (stmPage (s.stream n).home) 1
    else (s.updRec n (fun x => x.endRec st code unit ticks)).draw) n
  rw [h]
  exact hraised

section
variable (s : State) {n m : Nat} (st : SState) (code unit : U16)

theorem State.startNext_waiting (s : State) (n : Nat) : (s.startNext n).waiting = s.waiting := by
  obtain ⟨_, _, h⟩ := s.startNext_frame n
  rw [h]

theorem State.endSubmission_waiting : ∀ w, w ∈ (s.endSubmission n st code unit).waiting → w ∈ s.waiting ∧ w.stream ≠ n := by
  obtain ⟨ticks, h⟩ := s.endSubmission_eq n st code unit
  intro w hw
  rw [h, State.letGo, State.startNext_waiting] at hw
  rcases State.grantLoop_waiting _ _ _ w hw with hin | hin
  · refine ⟨?_, State.abandon_waiting _ n w hin⟩
    rw [← s.ended_waiting n st code unit ticks]
    exact (List.mem_filter.mp hin).1
  · cases hin

/-- Another stream keeps its record or has the slots that it waited for. -/
theorem State.endSubmission_other (h : m ≠ n) :
    (s.endSubmission n st code unit).stream m = s.stream m ∨ ((s.endSubmission n st code unit).stream m).st = .running := by
  obtain ⟨ticks, heq⟩ := s.endSubmission_eq n st code unit
  have hother : ((s.ended n st code unit ticks).abandon n).stream m = s.stream m := s.ended_other st code unit ticks h
  rw [heq, State.letGo, State.startNext_streamsKept _ n h, ← hother]
  exact State.grantLoop_runs m _ _ _

theorem State.endSubmission_quiet (h : m ≠ n) (hw : ∀ w, w ∈ s.waiting → w.stream ≠ m) : (s.endSubmission n st code unit).stream m = s.stream m := by
  obtain ⟨ticks, heq⟩ := s.endSubmission_eq n st code unit
  have hother : ((s.ended n st code unit ticks).abandon n).stream m = s.stream m := s.ended_other st code unit ticks h
  rw [heq, State.letGo, State.startNext_streamsKept _ n h, ← hother]
  refine State.grantSlots_stream _ fun w hin => hw w ?_
  rw [← s.ended_waiting n st code unit ticks]
  exact (List.mem_filter.mp hin).1

end

/-! ### Streams failed one after the other -/

/-- A stream has failed and waits for nothing. -/
def State.down (s : State) (m : Nat) (code unit : U16) : Prop := s.failedWith m code unit ∧ ∀ w, w ∈ s.waiting → w.stream ≠ m

section
variable {s : State} {n m : Nat} {code unit : U16}

theorem State.failStream_eq (h : (s.stream n).fails) : s.failStream n code unit = s.endSubmission n .failed code unit := if_pos h

theorem State.failStream_at_rest (h : ¬ (s.stream n).fails) : s.failStream n code unit = s := if_neg h

theorem State.down.failStream (h : s.down m code unit) : (s.failStream n code unit).down m code unit := by
  obtain ⟨⟨hst, hend, hunit⟩, hw⟩ := h
  by_cases hn : (s.stream n).fails
  · have hne : m ≠ n := by
      rintro rfl
      rcases hn with h | h | h <;> rw [hst] at h <;> cases h
    have hkept := s.endSubmission_quiet .failed code unit hne hw
    rw [State.failStream_eq hn]
    refine ⟨?_, fun w hin => hw w (s.endSubmission_waiting .failed code unit w hin).1⟩
    rw [State.failedWith, hkept]
    exact ⟨hst, hend, hunit⟩
  · rw [State.failStream_at_rest hn]
    exact ⟨⟨hst, hend, hunit⟩, hw⟩

theorem State.failStream_down (h : (s.stream m).fails) : (s.failStream m code unit).down m code unit := by
  refine ⟨(State.failStream_fails code unit h).1, fun w hin => ?_⟩
  rw [State.failStream_eq h] at hin
  exact (s.endSubmission_waiting .failed code unit w hin).2

theorem State.failStream_alive (h : (s.stream m).fails) (hne : m ≠ n) : ((s.failStream n code unit).stream m).fails := by
  by_cases hn : (s.stream n).fails
  · rw [State.failStream_eq hn]
    rcases s.endSubmission_other .failed code unit hne with hm | hm
    · rw [hm]
      exact h
    · exact .inr (.inl hm)
  · rw [State.failStream_at_rest hn]
    exact h

end

/-- Streams fail one after the other. -/
def State.failAll (s : State) (l : List Nat) (code unit : U16) : State := s.forEach l (fun t n => t.failStream n code unit)

theorem State.failAll_endFrame (s : State) (l : List Nat) (code unit : U16) : s.EndFrame (s.failAll l code unit) :=
  State.forEach_rel State.EndFrame.refl State.EndFrame.trans (fun t n => t.failStream_endFrame n code unit) l s

theorem State.failAll_counts (s : State) (l : List Nat) (code unit : U16) : s.Counts [] (s.failAll l code unit) :=
  State.forEach_rel State.Counts.refl State.Counts.trans (fun t n => t.failStream_counts n code unit) l s

theorem State.failAll_down {m : Nat} {code unit : U16} (l : List Nat) : ∀ s : State, s.down m code unit → (s.failAll l code unit).down m code unit := by
  induction l with
  | nil => exact fun s h => h
  | cons n l ih => exact fun s h => ih _ h.failStream

theorem State.failAll_fails {m : Nat} (code unit : U16) {l : List Nat} (hmem : m ∈ l) : ∀ {s : State}, (s.stream m).fails → (s.failAll l code unit).failedWith m code unit := by
  induction l with
  | nil => cases hmem
  | cons n l ih =>
    intro s h
    by_cases hn : m = n
    · subst hn
      exact (State.failAll_down l _ (State.failStream_down h)).1
    · exact ih ((List.mem_cons.mp hmem).resolve_left hn) (State.failStream_alive h hn)

end Sys2Proof.Machine
end

section
/-! Proofs: tuning passes (R32, R33, R139, R405, R406, R412 to R418, R438, R446, R448). -/

namespace Sys2Proof.Machine

/-! ### A pass becomes due and starts (R412, R413) -/

theorem State.setTune_only (s : State) (u : Nat) (y : TuneUnit) :
    (s.setTune u y).tuneUnit u = y ∧ keptBut s.tuneUnit (s.setTune u y).tuneUnit [u] ∧ s.setTune u y = { s with tune := (s.setTune u y).tune } :=
  ⟨(s.setTune_tuneUnit u u y).trans (if_pos rfl), fun v hv => (s.setTune_tuneUnit u v y).trans (if_neg (by simpa using hv)), rfl⟩

theorem State.testable_iff (s : State) (u : Nat) : s.testable u = true ↔ (s.tuneUnit u).fenced = false ∧ (s.die (unitDie u)).up = true := by
  simp [State.testable]

theorem tuningDue_marks {u : Fin 822} {s : State} (hst : (s.tuneUnit u.val).st = .idle) (htest : s.testable u.val = true) (hready : s.start.ready = true)
    (hrun : s.pwr.st = .run) (hperiod : s.field .tun 0x040 0 16 ≠ 0) :
    exec (.tuningDue u) s = .next (s.setTune u.val { s.tuneUnit u.val with st := .due }) :=
  congrArg Host.Outcome.next (if_pos ⟨hst, htest, hready, hrun, hperiod⟩)

theorem tuningDeadline_marks {u : Fin 822} {s : State} (hst : (s.tuneUnit u.val).st = .due) (hrun : s.pwr.st = .run) :
    exec (.tuningDeadline u) s = .next (s.setTune u.val { s.tuneUnit u.val with st := .takeover }) :=
  congrArg Host.Outcome.next (if_pos ⟨hst, hrun⟩)

theorem State.passTakes_iff (s : State) (u : Nat) (st : TuneState) : s.passTakes u st = true ↔
    s.firingOn = true ∧ s.unitFree u = true ∧ (st = .takeover ∨ (st = .due ∧ s.primaryWaits u = false)) := by
  simp [State.passTakes, and_assoc]

theorem State.beginPass_holds (s : State) (u : Nat) : ((s.beginPass u).tuneUnit u).st = .running ∧ ((s.beginPass u).tuneUnit u).rep = false ∧
    ((s.beginPass u).engine u).tuning = true ∧ s.beginPass u = { s with tune := (s.beginPass u).tune, engines := (s.beginPass u).engines } := by
  have htune : (s.beginPass u).tuneUnit u = { s.tuneUnit u with st := .running, rep := false } :=
    (s.setTune_only u { s.tuneUnit u with st := .running, rep := false }).1
  have hengine : (s.beginPass u).engine u = { (s.setTune u { s.tuneUnit u with st := .running, rep := false }).engine u with tuning := true } :=
    (State.updEngine_engine _ u u _).trans (if_pos rfl)
  rw [htune, hengine]
  exact ⟨rfl, rfl, rfl, rfl⟩

theorem tuningStart_waits {u : Fin 822} {s : State} (h : s.passTakes u.val (s.tuneUnit u.val).st = false) : exec (.tuningStart u) s = .next s :=
  congrArg Host.Outcome.next (if_pos h)

/-- A pass takes a unit that no sequencer holds (R413). -/
theorem tuningStart_single {u : Fin 822} {s : State} (h : s.passTakes u.val (s.tuneUnit u.val).st = true) (hseq : isSequencer u.val = false)
    (hheld : s.heldBy u.val = none) : exec (.tuningStart u) s = .next (s.beginPass u.val) := by
  show execTuningStart u s = _
  simp only [execTuningStart, h, hseq, hheld, Bool.true_eq_false, if_false, Bool.false_eq_true, Option.isSome_none]

/-- A sequencer whose quad has no engine to hold takes its pass at once (R205, R413). -/
theorem tuningStart_quad {u : Fin 822} {s : State} (h : s.passTakes u.val (s.tuneUnit u.val).st = true) (hseq : isSequencer u.val = true)
    (hquad : s.quadHeld u.val = []) : exec (.tuningStart u) s = .next (s.beginPass u.val) := by
  have hreserve : s.reserveForPass u.val = s := by
    rw [State.reserveForPass, hquad]
    rfl
  have hpass : s.quadPass u.val = true := by
    rw [State.quadPass, hquad]
    rfl
  show execTuningStart u s = _
  simp only [execTuningStart, h, hseq, hreserve, hpass, Bool.true_eq_false, if_false, if_true]

/-! ### The verdict on a run (R417, R446, R448) -/

/-- A run counted, and an armed failure of it used up (R446, R448). -/
def State.runCounted (s : State) (made : Bool) : State := (if made then s.disarm .tun 0 else s).countWrap .tun 0x058

/-- Whether an armed TUN_FAIL makes a unit's run fail (R448). -/
def State.tunFail (s : State) (u : Nat) : Bool := s.armed .tun 0 && decide (s.field .tun 0x048 0 10 = u) && !(s.tuneUnit u).rep

theorem State.tunFail_iff (s : State) (u : Nat) :
    s.tunFail u = true ↔ (s.reg .tun offErrInj).getLsbD 0 = true ∧ s.field .tun 0x048 0 10 = u ∧ (s.tuneUnit u).rep = false := by
  simp only [State.tunFail, State.armed, Bool.and_eq_true, decide_eq_true_eq, Bool.not_eq_true', and_assoc]
  exact Iff.rfl

theorem tuningResult_eq (u : Fin 822) (obs : TuneObs) {s : State} (hrun : s.pwr.st = .run) (hst : (s.tuneUnit u.val).st = .running)
    (htuning : (s.engine u.val).tuning = true) :
    exec (.tuningResult u obs) s = .next ((s.runCounted (s.tunFail u.val)).tuneVerdict u.val (obs.pass && !s.tunFail u.val) obs) :=
  congrArg Host.Outcome.next (if_pos ⟨hst, htuning, hrun⟩)

theorem State.countWrap_onlyRegs (s : State) (pg : Page) (o n : Nat) : s.Regs (s.countWrap pg o n) := s.setReg_onlyRegs _ _ _

section
variable (s : State) (made : Bool)

theorem State.runCounted_onlyRegs : s.Regs (s.runCounted made) := by
  unfold State.runCounted
  split
  · exact (s.disarm_onlyRegs _ _).trans (State.countWrap_onlyRegs _ _ _ _)
  · exact s.countWrap_onlyRegs _ _ _

/-- Of the page's registers only the count of runs and, where the failure was injected, ERR_INJ change. -/
theorem State.runCounted_reg {o : Nat} (h0 : o ≠ 0x058) (h1 : o ≠ offErrInj) : (s.runCounted made).reg .tun o = s.reg .tun o := by
  unfold State.runCounted State.countWrap
  rw [State.setReg_other _ _ _ h0]
  split
  · exact State.setReg_other _ _ _ h1
  · rfl

theorem State.runCounted_count : (s.runCounted made).reg .tun 0x058 = s.reg .tun 0x058 + 1 := by
  have hkept : (if made then s.disarm .tun 0 else s).reg .tun 0x058 = s.reg .tun 0x058 := by
    split
    · exact State.setReg_other _ _ _ (by decide)
    · rfl
  rw [State.runCounted, State.countWrap, State.setReg_same, hkept]
  rfl

theorem State.runCounted_disarmed (h : made = true) : ((s.runCounted made).reg .tun offErrInj).getLsbD 0 = false := by
  rw [State.runCounted, if_pos h, State.countWrap, State.setReg_other _ _ _ (by decide), State.disarm, State.setBits, State.setReg_same]
  exact mergeBits_one_valid _ _

end

/-! #### The unit is released -/

theorem State.endPass_engines (s : State) (u : Nat) : s.Engines (s.endPass u) := by
  unfold State.endPass
  dsimp only
  split
  · exact (s.updEngine_engines u _).trans (State.releaseQuad_engines _ _)
  · exact s.updEngine_engines u _

theorem State.endPass_released (s : State) (u : Nat) : ((s.endPass u).engine u).tuning = false := by
  have hfirst : ((s.updEngine u (fun e => { e with tuning := false })).engine u).tuning = false := by
    rw [State.updEngine_engine, if_pos rfl]
  unfold State.endPass
  dsimp only
  split
  · rw [State.releaseQuad_work]
    exact hfirst
  · exact hfirst

/-- Where no rotation is under way a verdict ends none (R438). -/
theorem State.endRotation_none {s : State} (h : s.rotatingJobs = []) : s.endRotation = s := by
  rw [State.endRotation, h]
  rfl

theorem State.expelRotating_none {s : State} (h : s.rotatingJobs = []) : s.expelRotating = s := by
  rw [State.expelRotating, h]
  rfl

theorem State.judged_rotating (s : State) (u : Nat) : (s.judged u).rotatingJobs = s.rotatingJobs := by
  simp only [State.rotatingJobs, State.judged, List.filter_map, List.map_map]
  rfl

theorem State.rotatingJobs_congr {s t : State} (h : t.jobs = s.jobs) : t.rotatingJobs = s.rotatingJobs := by rw [State.rotatingJobs, h, ← State.rotatingJobs]

/-- A passing run: the unit idle and released, nothing else but jobs' rotations (R413, R446). -/
theorem State.passed_spec {s : State} (u : Nat) (hrot : s.rotatingJobs = []) :
    let t := ((s.endPass u).passed u).endRotation
    (t.tuneUnit u).st = .idle ∧ (t.tuneUnit u).fenced = (s.tuneUnit u).fenced ∧ (t.engine u).tuning = false ∧ keptBut s.tuneUnit t.tuneUnit [u] ∧
      ∃ tune jobs engines, t = { s with tune := tune, jobs := jobs, engines := engines } := by
  intro t
  obtain ⟨engines, hend⟩ := s.endPass_engines u
  have hnone : ((s.endPass u).passed u).rotatingJobs = [] := by
    rw [State.passed, State.judged_rotating, ← hrot]
    exact State.rotatingJobs_congr (by rw [State.setTune_jobs, hend])
  have ht : t = (s.endPass u).passed u := State.endRotation_none hnone
  have htune (v : Nat) : (s.endPass u).tuneUnit v = s.tuneUnit v := by rw [hend]; rfl
  obtain ⟨hself, hothers, _⟩ := (s.endPass u).setTune_only u { (s.endPass u).tuneUnit u with st := .idle, rep := false, age := (s.endPass u).pwr.clockMs }
  have hnow : t.tuneUnit u = { (s.endPass u).tuneUnit u with st := .idle, rep := false, age := (s.endPass u).pwr.clockMs } := by rw [ht]; exact hself
  rw [hnow, htune]
  refine ⟨rfl, rfl, ?_, fun v hv => ?_, ?_⟩
  · rw [ht]
    exact s.endPass_released u
  · rw [ht, ← htune]
    exact hothers v hv
  · rw [ht, State.passed, State.judged, State.setTune_mk, hend]
    exact ⟨_, _, _, rfl⟩

/-! #### A run that fails -/

theorem State.runFailed_onlyRegs (s : State) : s.Regs s.runFailed := (s.countSat_onlyRegs _ _ _).trans (State.raise_onlyRegs _ _ _)

theorem State.runFailed_counts (s : State) : s.Counts [0x05C] s.runFailed :=
  (s.setReg_counts _ _ (by decide) (by decide) (by decide)).trans (State.raise_counts _ _ _)

theorem State.runFailed_count (s : State) : s.runFailed.reg .tun 0x05C = satAdd (s.reg .tun 0x05C) 1 := by
  rw [State.runFailed, State.raise_reg_other _ _ _ (by decide), State.countSat_def, State.setReg_same]

theorem State.runFailed_raises (s : State) : s.raisedIn s.runFailed .tun 0 := by
  have h := (s.countSat .tun 0x05C).raise_raisedIn .tun 0
  rwa [State.raisedIn, State.countSat_def, State.setReg_other _ _ _ (by decide), State.setReg_other _ _ _ (by decide)] at h

theorem getLast?_keepLast {α : Type} (n : Nat) (l : List α) (r : α) : (keepLast (n + 1) (l ++ [r])).getLast? = some r := by
  simp [keepLast]

/-- A record is the last of the log, under the next number (R440). -/
theorem State.record_recordedIn (s : State) (e : Event) : s.recordedIn (s.record e) e.kind e.code e.unit := by
  obtain ⟨r, hseq, hkind, hcode, hunit, _, h⟩ := s.record_mk e
  rw [h]
  exact ⟨r, getLast?_keepLast 4095 _ _, hseq, hkind, hcode, hunit, rfl⟩

/-! #### A unit fenced (R139, R417, R418) -/

/-- The unit marked fenced, counted and shown (R417). -/
def State.fenceNoted (s : State) (u : Nat) : State :=
  (((s.setTune u { s.tuneUnit u with st := .idle, rep := false, fenced := true }).countWrap .tun 0x060).raise .tun 1).fenceArray u

/-- Cached bindings and waiting ones that use a unit taken away, with what the next start will do with it (R137, R418). -/
def State.fenceShut (s : State) (u : Nat) (located : Option (List Nat)) : State :=
  { s.retireLater u located with
    caches := s.caches.filter (fun c => !c.units.contains u), waiting := s.waiting.filter (fun w => !w.plan.nodes.any (fun x => decide (x.unit = u))) }

theorem State.retireLater_flash (s : State) (u : Nat) (located : Option (List Nat)) : ∃ flash, s.retireLater u located = { s with flash := flash } := by
  unfold State.retireLater
  split
  · exact ⟨_, rfl⟩
  · exact ⟨_, rfl⟩

theorem State.fence_eq (s : State) (u : Nat) (located : Option (List Nat)) :
    s.fence u located = ((s.fenceNoted u).fenceShut u located).failAll (((s.fenceNoted u).fenceShut u located).slotHolders u) S_UNIT_FENCED (unitField u) := by
  obtain ⟨flash, h⟩ := (s.fenceNoted u).retireLater_flash u located
  have hcaches : ((s.fenceNoted u).retireLater u located).caches = (s.fenceNoted u).caches := by rw [h]
  have hwaiting : ((s.fenceNoted u).retireLater u located).waiting = (s.fenceNoted u).waiting := by rw [h]
  unfold State.fenceShut
  rw [← hcaches, ← hwaiting]
  rfl

section
variable (s : State) (u : Nat)

theorem State.fenceArray_onlyRegs : s.Regs (s.fenceArray u) := by
  unfold State.fenceArray
  split
  · exact (s.setReg_onlyRegs _ _ _).trans (State.raise_onlyRegs _ _ _)
  · exact .refl s

theorem State.fenceArray_counts : s.Counts [0x040] (s.fenceArray u) := by
  unfold State.fenceArray
  split
  · exact (s.setReg_counts _ _ (by decide) (by decide) (by decide)).trans (State.raise_counts _ _ _)
  · exact .refl s

theorem State.fenceArray_shows (h : isArray u = true) : ((s.fenceArray u).reg (unitPage u) 0x040).getLsbD 21 = true := by
  rw [State.fenceArray, if_pos h, State.raise_reg_other _ _ _ (by decide), State.setBits, State.setReg_same, mergeBits, BitVec.getLsbD_or]
  simp

theorem State.fenceNoted_frame : ∃ regs, s.fenceNoted u =
    { s with tune := (s.setTune u { s.tuneUnit u with st := .idle, rep := false, fenced := true }).tune, regs := regs } := by
  obtain ⟨x, hx⟩ : ∃ x : TuneUnit, x = { s.tuneUnit u with st := .idle, rep := false, fenced := true } := ⟨_, rfl⟩
  obtain ⟨regs, h⟩ := ((((s.setTune u x).countWrap_onlyRegs .tun 0x060 1).trans (State.raise_onlyRegs _ .tun 1)).trans (State.fenceArray_onlyRegs _ u))
  rw [State.fenceNoted, ← hx, h]
  exact ⟨regs, rfl⟩

theorem State.fenceNoted_count : (s.fenceNoted u).reg .tun 0x060 = s.reg .tun 0x060 + 1 := by
  rw [State.fenceNoted, (State.fenceArray_counts _ u).reg .tun 0x060 (by decide) (by decide) (by decide), State.raise_reg_other _ _ _ (by decide), State.countWrap,
    State.setReg_same, State.reg_congr (State.setTune_regs _ _ _)]
  rfl

theorem State.fenceNoted_counts : s.Counts [0x040, 0x060] (s.fenceNoted u) := by
  have htune : s.Counts [0x040, 0x060] (s.setTune u { s.tuneUnit u with st := .idle, rep := false, fenced := true }) := .of_regs (State.setTune_regs _ _ _)
  exact ((htune.trans (State.setReg_counts _ _ _ (by decide) (by decide) (by decide))).trans (State.raise_counts _ _ _)).trans
    ((State.fenceArray_counts _ u).mono (by simp))

theorem State.fenceNoted_stat : ((s.fenceNoted u).reg .tun offErrStat).getLsbD 1 = true :=
  (State.fenceArray_counts _ u).stat .tun 1 (State.raise_stat_set _ _ (by decide))

theorem State.retireLater_retires (located : Option (List Nat)) (h : isArray u = false) : u ∈ (s.retireLater u located).flash.retired := by
  rw [State.retireLater, if_neg (by simp [h])]
  show u ∈ (if s.flash.retired.contains u then s.flash.retired else s.flash.retired ++ [u])
  split
  · rename_i hin
    simpa using hin
  · simp

end

theorem State.slotHolders_congr {s t : State} (h : t.streams = s.streams) (u : Nat) : t.slotHolders u = s.slotHolders u := by
  unfold State.slotHolders
  rw [h]

/-- What fencing a unit does (R417, R418). -/
structure State.Fences (s t : State) (u : Nat) : Prop where
  fenced : (t.tuneUnit u).fenced = true
  idle : (t.tuneUnit u).st = .idle
  engines : t.engines = s.engines
  mem : t.mem = s.mem
  jobs : t.jobs = s.jobs
  counts : s.Counts [0x040, 0x060] t
  count : t.reg .tun 0x060 = s.reg .tun 0x060 + 1
  stat : (t.reg .tun offErrStat).getLsbD 1 = true
  caches : ∀ c, c ∈ t.caches → c.units.contains u = false
  array : isArray u = true → (t.reg (unitPage u) 0x040).getLsbD 21 = true
  retired : isArray u = false → u ∈ t.flash.retired
  streams : ∀ m, m ∈ s.slotHolders u → (s.stream m).fails → t.failedWith m S_UNIT_FENCED (unitField u)

theorem State.fence_fences (s : State) (u : Nat) (located : Option (List Nat)) : s.Fences (s.fence u located) u := by
  obtain ⟨regs, hnoted⟩ := s.fenceNoted_frame u
  obtain ⟨flash, hretire⟩ := (s.fenceNoted u).retireLater_flash u located
  obtain ⟨c, hc⟩ : ∃ c, c = (s.fenceNoted u).fenceShut u located := ⟨_, rfl⟩
  have hregs : c.regs = (s.fenceNoted u).regs := by rw [hc, State.fenceShut, hretire]
  have hstreams : c.streams = s.streams := by rw [hc, State.fenceShut, hretire, hnoted]
  have hends := c.failAll_endFrame (c.slotHolders u) S_UNIT_FENCED (unitField u)
  have hcounts := c.failAll_counts (c.slotHolders u) S_UNIT_FENCED (unitField u)
  have htune : c.tuneUnit u = { s.tuneUnit u with st := .idle, rep := false, fenced := true } := by
    have hset := (s.setTune_only u { s.tuneUnit u with st := .idle, rep := false, fenced := true }).1
    have hsame : c.tune = (s.setTune u { s.tuneUnit u with st := .idle, rep := false, fenced := true }).tune := by rw [hc, State.fenceShut, hretire, hnoted]
    rwa [State.tuneUnit, hsame, ← State.tuneUnit]
  rw [s.fence_eq u located, ← hc]
  obtain ⟨t, ht⟩ : ∃ t, t = c.failAll (c.slotHolders u) S_UNIT_FENCED (unitField u) := ⟨_, rfl⟩
  rw [← ht] at hends hcounts ⊢
  have hfails : ∀ m, m ∈ s.slotHolders u → (s.stream m).fails → t.failedWith m S_UNIT_FENCED (unitField u) := fun m hm hst => by
    rw [ht]
    exact State.failAll_fails S_UNIT_FENCED (unitField u) (by rw [State.slotHolders_congr hstreams]; exact hm) (by rw [State.stream_congr hstreams]; exact hst)
  obtain ⟨_, tregs, _, _, _, _, _, _, _, _, _, hframe⟩ := hends
  have htuneT : t.tuneUnit u = c.tuneUnit u := by rw [hframe]; rfl
  exact {
    fenced := by rw [htuneT, htune]
    idle := by rw [htuneT, htune]
    engines := by rw [hframe, hc, State.fenceShut, hretire, hnoted]
    mem := by rw [hframe, hc, State.fenceShut, hretire, hnoted]
    jobs := by rw [hframe, hc, State.fenceShut, hretire, hnoted]
    counts := ((s.fenceNoted_counts u).trans (.of_regs hregs)).trans (hcounts.mono (by simp))
    count := by rw [hcounts.reg .tun 0x060 (by decide) (by decide) (by decide), State.reg_congr hregs, State.fenceNoted_count]
    stat := hcounts.stat .tun 1 (by rw [State.reg_congr hregs]; exact s.fenceNoted_stat u)
    caches := fun e he => by
      have hcaches : t.caches = (s.fenceNoted u).caches.filter (fun c => !c.units.contains u) := by rw [hframe, hc, State.fenceShut]
      rw [hcaches] at he
      simpa using (List.mem_filter.mp he).2
    array := fun h => by
      rw [hcounts.reg (unitPage u) 0x040 (by decide) (by decide) (by decide), State.reg_congr hregs]
      exact State.fenceArray_shows _ u h
    retired := fun h => by
      have hflash : t.flash = ((s.fenceNoted u).retireLater u located).flash := by rw [hframe, hc, State.fenceShut]
      rw [hflash]
      exact State.retireLater_retires _ u located h
    streams := hfails }

/-! #### The three ends of a run -/

def TuneUnit.faultNoted (x : TuneUnit) (s : State) : TuneUnit := x.noteFault s.pwr.clockMs false

section
variable {c : State} {u : Nat} (obs : TuneObs)

theorem State.tuneVerdict_pass (hrep : (c.tuneUnit u).rep = false) : c.tuneVerdict u true obs = ((c.endPass u).passed u).endRotation := by
  simp only [State.tuneVerdict, hrep]

theorem State.tuneVerdict_repaired (hrep : (c.tuneUnit u).rep = true) : c.tuneVerdict u true obs =
    (((((c.record { kind := 0x06, outcome := 2, unit := unitField u, detail := [u, obs.test] }).setTune u ((c.tuneUnit u).faultNoted c)).endPass u).passed u).endRotation) := by
  simp only [State.tuneVerdict, hrep]
  rfl

theorem State.tuneVerdict_again (hrep : (c.tuneUnit u).rep = false) : c.tuneVerdict u false obs = c.runFailed.setTune u { c.tuneUnit u with rep := true } := by
  simp only [State.tuneVerdict, hrep]

theorem State.tuneVerdict_fence (hrep : (c.tuneUnit u).rep = true) : c.tuneVerdict u false obs = (((c.runFailed.record
    { kind := 0x07, code := S_UNIT_FENCED, outcome := 2, unit := unitField u, detail := [u, obs.test] ++ obs.columns.getD [] }).endPass u).fence u obs.columns).expelRotating := by
  simp only [State.tuneVerdict, hrep]

/-- A passing run, or one that passes after a failed one (R417). -/
structure State.Passes (s t : State) (u : Nat) : Prop where
  idle : (t.tuneUnit u).st = .idle
  fenced : (t.tuneUnit u).fenced = (s.tuneUnit u).fenced
  released : (t.engine u).tuning = false
  streams : t.streams = s.streams
  mem : t.mem = s.mem
  regs : t.regs = s.regs
  others : keptBut s.tuneUnit t.tuneUnit [u]
  recorded : (s.tuneUnit u).rep = true → s.recordedIn t 0x06 0 (unitField u)

theorem State.tuneVerdict_passes (hrot : c.rotatingJobs = []) : c.Passes (c.tuneVerdict u true obs) u := by
  cases hrep : (c.tuneUnit u).rep with
  | false =>
    obtain ⟨hst, hfence, htuning, hkept, tune, jobs, engines, hframe⟩ := State.passed_spec u hrot
    rw [State.tuneVerdict_pass obs hrep]
    exact ⟨hst, hfence, htuning, by rw [hframe], by rw [hframe], by rw [hframe], hkept, fun h => nomatch hrep.symm.trans h⟩
  | true =>
    obtain ⟨e, he⟩ : ∃ e : Event, e = { kind := 0x06, outcome := 2, unit := unitField u, detail := [u, obs.test] } := ⟨_, rfl⟩
    obtain ⟨d, hd⟩ : ∃ d, d = (c.record e).setTune u ((c.tuneUnit u).faultNoted c) := ⟨_, rfl⟩
    obtain ⟨hself, hothers, _⟩ := (c.record e).setTune_only u ((c.tuneUnit u).faultNoted c)
    rw [← hd] at hself hothers
    have hdrot : d.rotatingJobs = [] := hrot ▸ State.rotatingJobs_congr (by rw [hd, State.setTune_jobs, State.record_jobs])
    obtain ⟨hst, hfence, htuning, hkept, tune, jobs, engines, hframe⟩ := State.passed_spec u hdrot
    obtain ⟨r, hlast, hseq, hkind, hcode, hunit, hhead⟩ := c.record_recordedIn e
    rw [State.tuneVerdict_repaired obs hrep, ← he, ← hd]
    refine ⟨hst, ?_, htuning, ?_, ?_, ?_, fun v hv => ?_, fun _ => ?_⟩
    · rw [hfence, hself]
      rfl
    · rw [hframe, hd, State.setTune_streams, State.record_streams]
    · rw [hframe, hd, State.setTune_mem, State.record_mem]
    · rw [hframe, hd, State.setTune_regs, State.record_regs]
    · rw [hkept v hv, hothers v hv]
      exact congrArg (fun l => SMap.get tuneDefault l v) (State.record_tune c e)
    · rw [hframe]
      refine ⟨r, ?_, hseq, ?_, ?_, ?_, ?_⟩
      · rw [hd, State.setTune_log, hlast]
      · rw [hkind, he]
      · rw [hcode, he]
      · rw [hunit, he]
      · rw [hd, State.setTune_logHead, hhead]

end

/-- A first failing run, to be repeated (R417, R446). -/
structure State.FailsOnce (s t : State) (u : Nat) : Prop where
  unit : t.tuneUnit u = { s.tuneUnit u with rep := true }
  engines : t.engines = s.engines
  streams : t.streams = s.streams
  mem : t.mem = s.mem
  counts : s.Counts [0x05C] t
  count : t.reg .tun 0x05C = satAdd (s.reg .tun 0x05C) 1
  raises : s.raisedIn t .tun 0

theorem State.tuneVerdict_failsOnce {c : State} {u : Nat} (obs : TuneObs) (hrep : (c.tuneUnit u).rep = false) : c.FailsOnce (c.tuneVerdict u false obs) u := by
  obtain ⟨regs, hfailed⟩ := c.runFailed_onlyRegs
  have hregs : (c.runFailed.setTune u { c.tuneUnit u with rep := true }).regs = c.runFailed.regs := State.setTune_regs _ _ _
  rw [State.tuneVerdict_again obs hrep]
  refine ⟨(State.setTune_only _ u _).1, ?_, ?_, ?_, c.runFailed_counts.trans (.of_regs hregs), ?_, ?_⟩
  · rw [State.setTune_engines, hfailed]
  · rw [State.setTune_streams, hfailed]
  · rw [State.setTune_mem, hfailed]
  · rw [State.reg_congr hregs, State.runFailed_count]
  · rw [State.raisedIn, State.reg_congr hregs, State.reg_congr hregs]
    exact c.runFailed_raises

/-- A second failing run fences the unit, in a state that differs by what the note of the failure and the release touch (R417). -/
theorem State.tuneVerdict_fences {c : State} {u : Nat} (obs : TuneObs) (hrep : (c.tuneUnit u).rep = true) (hrot : c.rotatingJobs = []) :
    ∃ d, c.tuneVerdict u false obs = d.fence u obs.columns ∧ d.streams = c.streams ∧ d.mem = c.mem ∧ (d.engine u).tuning = false ∧
      c.Counts [0x05C] d ∧ (d.reg .tun offErrStat).getLsbD 0 = true := by
  obtain ⟨e, he⟩ : ∃ e : Event, e = { kind := 0x07, code := S_UNIT_FENCED, outcome := 2, unit := unitField u, detail := [u, obs.test] ++ obs.columns.getD [] } := ⟨_, rfl⟩
  obtain ⟨regs, hfailed⟩ := c.runFailed_onlyRegs
  obtain ⟨engines, hend⟩ := (c.runFailed.record e).endPass_engines u
  have hregs : ((c.runFailed.record e).endPass u).regs = c.runFailed.regs := by rw [hend, State.record_regs]
  have hstat : (c.runFailed.reg .tun offErrStat).getLsbD 0 = true := State.raise_stat_set _ _ (by decide)
  refine ⟨(c.runFailed.record e).endPass u, ?_, ?_, ?_, State.endPass_released _ u, c.runFailed_counts.trans (.of_regs hregs), ?_⟩
  · rw [State.tuneVerdict_fence obs hrep, ← he]
    refine State.expelRotating_none (hrot ▸ State.rotatingJobs_congr ?_)
    rw [(State.fence_fences _ u obs.columns).jobs, hend, State.record_jobs, hfailed]
  · rw [hend, State.record_streams, hfailed]
  · rw [hend, State.record_mem, hfailed]
  · rwa [State.reg_congr hregs]

/-! ### The clauses of the family -/

theorem tuning_starts (u : Fin 822) (s : State) :
    let x := s.tuneUnit u.val
    let e := s.engine u.val
    let only (t : State) (y : TuneUnit) : Prop := t.tuneUnit u.val = y ∧ keptBut s.tuneUnit t.tuneUnit [u.val] ∧ t = { s with tune := t.tune }
    let held (t : State) : Prop := (t.tuneUnit u.val).st = .running ∧ (t.tuneUnit u.val).rep = false ∧ (t.engine u.val).tuning = true ∧ t = { s with tune := t.tune, engines := t.engines }
    let free : Prop := s.pwr.st = .run ∧ s.pwr.change = none ∧ (s.die (unitDie u.val)).up = true ∧ x.fenced = false ∧ e.cur = none ∧ e.tuning = false
    s.pwr.st = .run →
    (x.st = .idle → x.fenced = false → (s.die (unitDie u.val)).up = true → s.start.ready = true → s.field .tun 0x040 0 16 ≠ 0 →
      ∃ t, exec (.tuningDue u) s = .next t ∧ only t { x with st := .due }) ∧
    (x.st = .due → ∃ t, exec (.tuningDeadline u) s = .next t ∧ only t { x with st := .takeover }) ∧
    (free → (x.st = .takeover ∨ (x.st = .due ∧ s.primaryWaits u.val = false)) → isSequencer u.val = false → e.reservedBy = none →
      ∃ t, exec (.tuningStart u) s = .next t ∧ held t) ∧
    (free → (x.st = .takeover ∨ (x.st = .due ∧ s.primaryWaits u.val = false)) → isSequencer u.val = true → s.quadHeld u.val = [] →
      ∃ t, exec (.tuningStart u) s = .next t ∧ held t) ∧
    (x.st ≠ .takeover → x.st ≠ .due → exec (.tuningStart u) s = .next s) := by
  intro x e only held free hrun
  have htakes : free → (x.st = .takeover ∨ (x.st = .due ∧ s.primaryWaits u.val = false)) → s.passTakes u.val x.st = true := by
    rintro ⟨hst, hchange, hdie, hfence, hcur, htuning⟩ hpass
    exact (s.passTakes_iff _ _).mpr ⟨s.firingOn_iff.mpr ⟨hst, hchange⟩, (s.unitFree_iff _).mpr ⟨u.isLt, hdie, hfence, hcur, htuning⟩, hpass⟩
  refine ⟨fun hst hfence hdie hready hperiod => ?_, fun hst => ?_, fun hfree hpass hseq hres => ?_, fun hfree hpass hseq hquad => ?_, fun hno hnd => ?_⟩
  · exact ⟨_, tuningDue_marks hst ((s.testable_iff _).mpr ⟨hfence, hdie⟩) hready hrun hperiod, s.setTune_only _ _⟩
  · exact ⟨_, tuningDeadline_marks hst hrun, s.setTune_only _ _⟩
  · have hheld : s.heldBy u.val = none := by
      unfold State.heldBy
      rw [show (s.engine u.val).reservedBy = none from hres]
    exact ⟨_, tuningStart_single (htakes hfree hpass) hseq hheld, s.beginPass_holds _⟩
  · exact ⟨_, tuningStart_quad (htakes hfree hpass) hseq hquad, s.beginPass_holds _⟩
  · refine tuningStart_waits (Bool.eq_false_iff.mpr fun h => ?_)
    obtain ⟨_, _, hst | ⟨hst, _⟩⟩ := (s.passTakes_iff _ _).mp h
    · exact hno hst
    · exact hnd hst

theorem tuning_ends (u : Fin 822) (obs : TuneObs) (s : State) :
    let x := s.tuneUnit u.val
    let made := (s.reg .tun offErrInj).getLsbD 0 = true ∧ s.field .tun 0x048 0 10 = u.val ∧ x.rep = false
    s.pwr.st = .run → x.st = .running → (s.engine u.val).tuning = true → s.rotatingJobs = [] →
    ∃ t, exec (.tuningResult u obs) s = .next t ∧ t.mem = s.mem ∧ t.reg .tun 0x058 = s.reg .tun 0x058 + 1 ∧
      (made → (t.reg .tun offErrInj).getLsbD 0 = false) ∧
      (obs.pass = true → ¬ made → (t.tuneUnit u.val).st = .idle ∧ (t.tuneUnit u.val).fenced = x.fenced ∧ (t.engine u.val).tuning = false ∧ t.streams = s.streams ∧
        keptBut s.tuneUnit t.tuneUnit [u.val] ∧ (x.rep = true → s.recordedIn t 0x06 0 (unitField u.val))) ∧
      (x.rep = false → (obs.pass = false ∨ made) → (t.tuneUnit u.val).st = .running ∧ (t.tuneUnit u.val).rep = true ∧ (t.engine u.val).tuning = true ∧
        s.raisedIn t .tun 0 ∧ t.reg .tun 0x05C = satAdd (s.reg .tun 0x05C) 1 ∧ t.streams = s.streams) ∧
      (x.rep = true → obs.pass = false → (t.tuneUnit u.val).fenced = true ∧ (t.tuneUnit u.val).st = .idle ∧ (t.engine u.val).tuning = false ∧
        (t.reg .tun offErrStat).getLsbD 0 = true ∧ (t.reg .tun offErrStat).getLsbD 1 = true ∧ t.reg .tun 0x060 = s.reg .tun 0x060 + 1 ∧
        (∀ c, c ∈ t.caches → c.units.contains u.val = false) ∧ (isArray u.val = true → (t.reg (unitPage u.val) 0x040).getLsbD 21 = true) ∧
        (isArray u.val = false → u.val ∈ t.flash.retired) ∧
        (∀ m, m ∈ s.slotHolders u.val → (s.stream m).fails → (t.stream m).st = .failed ∧ (t.stream m).endStatus = S_UNIT_FENCED)) := by
  intro x made hrun hst htuning hrot
  have hmade : s.tunFail u.val = true ↔ made := s.tunFail_iff u.val
  have hexec := tuningResult_eq u obs hrun hst htuning
  have hcount := s.runCounted_count (s.tunFail u.val)
  have hreg {o : Nat} (h0 : o ≠ 0x058) (h1 : o ≠ offErrInj) := s.runCounted_reg (s.tunFail u.val) h0 h1
  have hdisarmed := s.runCounted_disarmed (s.tunFail u.val)
  obtain ⟨regs, hc⟩ := s.runCounted_onlyRegs (s.tunFail u.val)
  generalize s.runCounted (s.tunFail u.val) = c at hexec hcount hreg hdisarmed hc
  have hunit (v : Nat) : c.tuneUnit v = s.tuneUnit v := by rw [hc]; rfl
  have hcrot : c.rotatingJobs = [] := hrot ▸ State.rotatingJobs_congr (by rw [hc])
  have hmem : c.mem = s.mem := by rw [hc]
  have hstreams : c.streams = s.streams := by rw [hc]
  have hengine : (c.engine u.val).tuning = true := by rw [hc]; exact htuning
  cases hpass : obs.pass && !s.tunFail u.val with
  | true =>
    obtain ⟨hobs, hnot⟩ := Bool.and_eq_true_iff.mp hpass
    have hnmade : ¬ made := fun h => by simp [hmade.mpr h] at hnot
    have hp := State.tuneVerdict_passes (u := u.val) obs hcrot
    rw [hpass] at hexec
    refine ⟨_, hexec, hp.mem.trans hmem, (State.reg_congr hp.regs _ _).trans hcount, fun h => absurd h hnmade, fun _ _ => ⟨hp.idle, ?_, hp.released,
      hp.streams.trans hstreams, fun v hv => (hp.others v hv).trans (hunit v), fun hrep => ?_⟩, fun _ h => ?_, fun _ h => absurd (hobs.symm.trans h) (by decide)⟩
    · rw [hp.fenced, hunit]
    · have hhead : c.logHead = s.logHead := by rw [hc]
      obtain ⟨r, hlast, hseq, hkind, hcode, hof, hnext⟩ := hp.recorded (by rw [hunit]; exact hrep)
      exact ⟨r, hlast, hseq.trans hhead, hkind, hcode, hof, hnext.trans (by rw [hhead])⟩
    · rcases h with h | h
      · exact absurd (hobs.symm.trans h) (by decide)
      · exact absurd h hnmade
  | false =>
    rw [hpass] at hexec
    have hno : obs.pass = true → ¬ made → False := fun hobs hnm => by
      rw [hobs, Bool.true_and, Bool.not_eq_false', hmade] at hpass
      exact hnm hpass
    cases hrep : x.rep with
    | false =>
      have hf := State.tuneVerdict_failsOnce obs (c := c) (u := u.val) (by rw [hunit]; exact hrep)
      refine ⟨_, hexec, hf.mem.trans hmem, ?_, fun h => ?_, fun hobs hnm => (hno hobs hnm).elim, fun _ _ => ⟨?_, ?_, ?_, ?_, ?_, hf.streams.trans hstreams⟩,
        fun h => (nomatch h)⟩
      · rw [hf.counts.reg .tun 0x058 (by decide) (by decide) (by decide), hcount]
      · rw [hf.counts.reg .tun offErrInj (by decide) (by decide) (by decide)]
        exact hdisarmed (hmade.mpr h)
      · rw [hf.unit, hunit]
        exact hst
      · rw [hf.unit]
      · rw [State.engine_congr hf.engines]
        exact hengine
      · obtain ⟨hstat, hmask⟩ := hf.raises
        rw [State.raisedIn, hstat, hmask, hreg (by decide) (by decide), hreg (by decide) (by decide)]
        exact ⟨rfl, rfl⟩
      · rw [hf.count, hreg (by decide) (by decide)]
    | true =>
      obtain ⟨d, hd, hdstreams, hdmem, hdtuning, hdcounts, hdstat⟩ := State.tuneVerdict_fences obs (by rw [hunit]; exact hrep) hcrot
      have hf := d.fence_fences u.val obs.columns
      rw [hd] at hexec
      refine ⟨_, hexec, hf.mem.trans (hdmem.trans hmem), ?_, fun h => ?_, fun hobs hnm => (hno hobs hnm).elim, fun h => (nomatch h), fun _ _ => ⟨hf.fenced, hf.idle,
        ?_, hf.counts.stat .tun 0 hdstat, hf.stat, ?_, hf.caches, hf.array, hf.retired, fun m hm hact => ?_⟩⟩
      · rw [hf.counts.reg .tun 0x058 (by decide) (by decide) (by decide), hdcounts.reg .tun 0x058 (by decide) (by decide) (by decide), hcount]
      · obtain ⟨_, _, hr⟩ := h
        exact absurd (hrep.symm.trans hr) (by decide)
      · rw [State.engine_congr hf.engines]
        exact hdtuning
      · rw [hf.count, hdcounts.reg .tun 0x060 (by decide) (by decide) (by decide), hreg (by decide) (by decide)]
      · have hds := hdstreams.trans hstreams
        obtain ⟨h1, h2, _⟩ := hf.streams m (by rw [State.slotHolders_congr hds]; exact hm) (by rw [State.stream_congr hds]; exact hact)
        exact ⟨h1, h2⟩

/-! ### TUN_CTRL and ERR_INJ (R446, R448) -/

theorem State.dueNow_marks {s : State} {u : Nat} (hst : (s.tuneUnit u).st ≠ .running) (hfence : (s.tuneUnit u).fenced = false) :
    s.dueNow u = s.setTune u { s.tuneUnit u with st := .takeover } := if_neg (by simp [hst, hfence])

theorem State.dueNow_stays {s : State} {u : Nat} (h : (s.tuneUnit u).st = .running ∨ (s.tuneUnit u).fenced = true) : s.dueNow u = s := if_pos h

/-- A unit after it has been made due at once, if it can be (R405, R446). -/
def TuneUnit.dueNow (x : TuneUnit) : TuneUnit := if x.st ≠ .running ∧ x.fenced = false then { x with st := .takeover } else x

theorem State.dueNow_tuneUnit (s : State) (u v : Nat) : (s.dueNow u).tuneUnit v = if v = u then (s.tuneUnit u).dueNow else s.tuneUnit v := by
  unfold TuneUnit.dueNow
  by_cases h : (s.tuneUnit u).st ≠ .running ∧ (s.tuneUnit u).fenced = false
  · rw [State.dueNow_marks h.1 h.2, State.setTune_tuneUnit, if_pos h]
  · rw [State.dueNow_stays (by
      by_contra hno
      simp only [not_or, Bool.not_eq_true] at hno
      exact h hno), if_neg h]
    split
    · rename_i hv
      rw [hv]
    · rfl

theorem TuneUnit.dueNow_twice (x : TuneUnit) : x.dueNow.dueNow = x.dueNow := by
  unfold TuneUnit.dueNow
  split
  case isTrue h => simp [h.2]
  case isFalse => rfl

/-- Units made due one after the other. -/
theorem State.dueAll_tuneUnit (v : Nat) (l : List Nat) : ∀ s : State, (s.forEach l (fun t u => t.dueNow u)).tuneUnit v =
    if v ∈ l then (s.tuneUnit v).dueNow else s.tuneUnit v := by
  induction l with
  | nil => exact fun _ => rfl
  | cons u l ih =>
    intro s
    show ((s.dueNow u).forEach l (fun t u => t.dueNow u)).tuneUnit v = _
    rw [ih, State.dueNow_tuneUnit]
    by_cases hv : v = u
    · subst hv
      simp [TuneUnit.dueNow_twice]
    · simp [hv]

theorem State.dueNow_tuneOnly (s : State) (u : Nat) : ∃ tune, s.dueNow u = { s with tune := tune } := by
  unfold State.dueNow
  dsimp only
  split
  · exact ⟨_, rfl⟩
  · exact ⟨_, rfl⟩

theorem State.rotateAll_tuneOnly (s : State) : ∃ tune, s.rotateAll = { s with tune := tune } :=
  State.forEach_rel (R := fun a b => ∃ tune, b = { a with tune := tune }) (fun _ => ⟨_, rfl⟩) (by rintro a b c ⟨_, rfl⟩ ⟨_, rfl⟩; exact ⟨_, rfl⟩)
    (fun t u => t.dueNow_tuneOnly u) s.rotationUnits s

theorem State.rotateAll_tuneUnit (s : State) (v : Fin 822) : s.rotateAll.tuneUnit v.val =
    if (s.tuneUnit v.val).fenced = false ∧ (s.die (unitDie v.val)).up = true ∧ (s.tuneUnit v.val).st ≠ .running
    then { s.tuneUnit v.val with st := .takeover } else s.tuneUnit v.val := by
  have hmem : v.val ∈ s.rotationUnits ↔ (s.tuneUnit v.val).fenced = false ∧ (s.die (unitDie v.val)).up = true := by
    rw [State.rotationUnits, List.mem_filter, List.mem_range, State.testable_iff]
    exact and_iff_right v.isLt
  rw [State.rotateAll, State.dueAll_tuneUnit, TuneUnit.dueNow]
  by_cases hin : v.val ∈ s.rotationUnits
  · obtain ⟨hfence, hup⟩ := hmem.mp hin
    simp [hin, hfence, hup]
  · rw [if_neg hin, if_neg (fun h => hin (hmem.mpr ⟨h.1, h.2.1⟩))]

theorem mergeBits_one_set (v : U32) : mergeBits v 1 1 = v ||| 1 := by
  refine BitVec.eq_of_getLsbD_eq fun i hi => ?_
  have hmask : mergeBits v 1 1 = (v &&& ~~~1#32) ||| (1#32 &&& 1#32) := rfl
  rw [hmask, BitVec.getLsbD_or, BitVec.getLsbD_and, BitVec.getLsbD_not, BitVec.getLsbD_or]
  by_cases h0 : i = 0
  · subst h0
    simp
  · simp [h0, hi]

theorem tuning_commands (s : State) (hreach : s.hostReach = true) (hup : s.pageUp .tun = true) :
    let u := s.field .tun 0x048 0 10
    (u < 822 → (s.tuneUnit u).st ≠ .running → (s.tuneUnit u).fenced = false → ∃ t, exec .tuningRunNow s = .next t ∧
      t.tuneUnit u = { s.tuneUnit u with st := .takeover } ∧ keptBut s.tuneUnit t.tuneUnit [u] ∧ t = { s with tune := t.tune }) ∧
    (∃ t, exec .tuningRotateAll s = .next t ∧ t = { s with tune := t.tune } ∧
      ∀ v : Fin 822, t.tuneUnit v.val = (if (s.tuneUnit v.val).fenced = false ∧ (s.die (unitDie v.val)).up = true ∧ (s.tuneUnit v.val).st ≠ .running
        then { s.tuneUnit v.val with st := .takeover } else s.tuneUnit v.val)) ∧
    (∃ t, exec .injectTuningFail s = .next t ∧ t.reg .tun offErrInj = s.reg .tun offErrInj ||| 1 ∧ s.regsKept t [Page.base .tun + offErrInj] ∧ t = { s with regs := t.regs }) := by
  intro u
  have hwrites : s.writes .tun = true := by rw [State.writes, hreach, hup]; rfl
  refine ⟨fun hu hst hfence => ?_, ?_, ?_⟩
  · have hnow : s.dueNow u = s.setTune u { s.tuneUnit u with st := .takeover } := State.dueNow_marks hst hfence
    exact ⟨_, congrArg Host.Outcome.next ((if_pos ⟨hwrites, hu⟩).trans hnow), s.setTune_only _ _⟩
  · obtain ⟨tune, hframe⟩ := s.rotateAll_tuneOnly
    exact ⟨_, congrArg Host.Outcome.next (if_pos hwrites), by rw [hframe], s.rotateAll_tuneUnit⟩
  · obtain ⟨hset, hkept, hframe⟩ := s.setBits_spec .tun offErrInj (BitVec.ofNat 32 (2 ^ 0)) (2 ^ 0)
    exact ⟨_, congrArg Host.Outcome.next (if_pos hwrites), hset.trans (mergeBits_one_set _), hkept, hframe⟩

/-- Settles O51, from the marks of `setTune` and the three ends of a run. -/
theorem tuningPassesRunAndFence : Obligations.TuningPassesRunAndFence := by
  unfold Obligations.TuningPassesRunAndFence
  exact ⟨tuning_starts, tuning_ends, tuning_commands⟩

end Sys2Proof.Machine
end

section
/-! Proofs: commands that clear counts and flags, flush a bind cache, give an array its repair record and arm injections (R104, R135 to R138, R150, R151, R172, R272, R584, R587). -/

namespace Sys2Proof.Machine

/-! ### Counts of a page (R587) -/

/-- Registers of a page made zero, one after the other. -/
def State.zeroed (s : State) (pg : Page) (l : List RegDef) : State := l.foldl (fun t d => t.setReg pg d.off 0) s

theorem State.zeroed_onlyRegs (pg : Page) (l : List RegDef) : ∀ s : State, s.Regs (s.zeroed pg l) := by
  induction l with
  | nil => exact fun _ => ⟨_, rfl⟩
  | cons d l ih => exact fun s => (s.setReg_onlyRegs pg d.off 0).trans (ih _)

theorem State.zeroed_word (pg : Page) (k : Nat) (l : List RegDef) : ∀ s : State,
    (s.zeroed pg l).word k = if k ∈ l.map (fun d => pg.base + d.off) then 0 else s.word k := by
  induction l with
  | nil => exact fun _ => rfl
  | cons d l ih =>
    intro s
    show ((s.setReg pg d.off 0).zeroed pg l).word k = _
    rw [ih, State.setReg_word]
    by_cases hd : k = pg.base + d.off
    · simp [hd]
    · simp [hd]

/-- The losses of a quorum slot made zero. -/
def State.slotCleared (s : State) (i : Nat) : State := s.setSlot i { s.slot i with losses := 0 }

theorem State.slotsCleared_slot (i : Nat) (l : List Nat) : ∀ s : State,
    (s.forEach l State.slotCleared).slot i = if i ∈ l then { s.slot i with losses := 0 } else s.slot i := by
  induction l with
  | nil => exact fun _ => rfl
  | cons k l ih =>
    intro s
    show ((s.slotCleared k).forEach l State.slotCleared).slot i = _
    rw [ih, State.slotCleared, State.setSlot_slot]
    by_cases hk : i = k
    · simp [hk]
    · simp [hk]

theorem State.slotsCleared_onlySlots (s : State) (l : List Nat) : ∃ slots, s.forEach l State.slotCleared = { s with slots := slots } :=
  State.forEach_rel (R := fun a b => ∃ slots, b = { a with slots := slots }) (fun _ => ⟨_, rfl⟩) (by rintro a b c ⟨_, rfl⟩ ⟨_, rfl⟩; exact ⟨_, rfl⟩)
    (fun _ _ => ⟨_, rfl⟩) l s

/-- Of a link, no more than its test errors may differ. -/
def State.LinksButErrs (s t : State) : Prop := ∀ e, t.link e = { s.link e with testErrs := (t.link e).testErrs }

theorem State.setLink_linksButErrs (s : State) (e : LinkEnd) : s.LinksButErrs (s.setLink e { s.link e with testErrs := [] }) := by
  intro g
  rw [State.setLink_link]
  split
  case isTrue h => rw [State.link, State.link, h]
  case isFalse => rfl

/-- The counts of a page that stand outside the register file, and nothing else, are cleared (R397, R481, R482, R547). -/
structure State.HeldCleared (s t : State) (pg : Page) : Prop where
  boots : pg = .tol → t.start = { s.start with boots := 0 }
  start : pg ≠ .tol → t.start = s.start
  losses : pg = .stmQrm → ∀ i, i < 8 → t.slot i = { s.slot i with losses := 0 }
  slots : pg ≠ .stmQrm → t.slots = s.slots
  links : s.LinksButErrs t
  frame : t = { s with start := t.start, slots := t.slots, links := t.links }

theorem State.HeldCleared.regs {s t : State} {pg : Page} (h : s.HeldCleared t pg) : t.regs = s.regs := by rw [h.frame]

theorem State.clearHeldCounts_spec (s : State) (pg : Page) : s.HeldCleared (s.clearHeldCounts pg) pg := by
  unfold State.clearHeldCounts
  split
  case h_1 => exact ⟨fun _ => rfl, fun h => absurd rfl h, fun h => (nomatch h), fun _ => rfl, fun _ => rfl, rfl⟩
  case h_2 =>
    have hslot := fun i => s.slotsCleared_slot i (List.range 8)
    obtain ⟨slots, hframe⟩ := s.slotsCleared_onlySlots (List.range 8)
    change s.HeldCleared (s.forEach (List.range 8) State.slotCleared) _
    rw [hframe] at hslot ⊢
    exact ⟨fun h => (nomatch h), fun _ => rfl, fun _ i hi => (hslot i).trans (if_pos (List.mem_range.mpr hi)), fun h => absurd rfl h, fun _ => rfl, rfl⟩
  case h_3 => exact ⟨fun h => (nomatch h), fun _ => rfl, fun h => (nomatch h), fun _ => rfl, s.setLink_linksButErrs _, rfl⟩
  case h_4 => exact ⟨fun h => (nomatch h), fun _ => rfl, fun h => (nomatch h), fun _ => rfl, s.setLink_linksButErrs _, rfl⟩
  case h_5 htol hqrm _ _ => exact ⟨fun h => absurd h htol, fun _ => rfl, fun h => absurd h hqrm, fun _ => rfl, fun _ => rfl, rfl⟩

theorem clearCounts_clears (pg : Page) (s : State) (hw : s.writes pg = true) :
    ∃ t, exec (.clearCounts pg) s = .next t ∧ (∀ d, d ∈ pg.regs → d.count = true → t.reg pg d.off = 0) ∧
      s.regsKept t ((pg.regs.filter (·.count)).map (fun d => pg.base + d.off)) ∧
      (pg = .tol → t.start = { s.start with boots := 0 }) ∧ (pg = .stmQrm → ∀ i, i < 8 → t.slot i = { s.slot i with losses := 0 }) ∧
      t = { s with regs := t.regs, start := t.start, slots := t.slots, links := t.links } ∧
      (pg ≠ .tol → t.start = s.start) ∧ (pg ≠ .stmQrm → t.slots = s.slots) ∧
      (∀ e, (t.link e) = { s.link e with testErrs := (t.link e).testErrs }) := by
  obtain ⟨c, hc⟩ : ∃ c, c = s.zeroed pg (pg.regs.filter (·.count)) := ⟨_, rfl⟩
  have hexec : exec (.clearCounts pg) s = .next (c.clearHeldCounts pg) := by
    rw [hc]
    exact congrArg Host.Outcome.next (if_pos hw)
  have hword (k : Nat) : (c.clearHeldCounts pg).word k = if k ∈ (pg.regs.filter (·.count)).map (fun d => pg.base + d.off) then 0 else s.word k := by
    rw [State.word_congr (c.clearHeldCounts_spec pg).regs, hc, State.zeroed_word]
  obtain ⟨regs, rfl⟩ : s.Regs c := hc ▸ State.zeroed_onlyRegs pg _ s
  have hh := ({ s with regs := regs } : State).clearHeldCounts_spec pg
  refine ⟨_, hexec, fun d hd hcount => ?_, fun k hk => (hword k).trans (if_neg hk), hh.boots, hh.losses, ?_, hh.start, hh.slots, hh.links⟩
  · rw [State.word_reg, hword]
    exact if_pos (List.mem_map.mpr ⟨d, List.mem_filter.mpr ⟨hd, hcount⟩, rfl⟩)
  · rw [hh.regs]
    exact hh.frame

/-! ### Sticky flags and the bind cache (R104, R172) -/

theorem State.clearFlags_spec (s : State) (pg : Page) (v : U32) :
    let t := s.clearFlags pg v
    t.reg pg 0xF00 = s.reg pg 0xF00 &&& ~~~(v &&& 0xF0F) ∧
      t.reg pg 0xF04 = (if t.reg pg 0xF00 &&& 0xF = 0 then s.reg pg 0xF04 &&& ~~~0x4000#32 else s.reg pg 0xF04) ∧
      s.regsKept t [pg.base + 0xF00, pg.base + 0xF04] ∧ s.Regs t := by
  have hsrc (x : U32) : (s.setReg pg 0xF00 x).reg pg 0xF04 = s.reg pg 0xF04 := State.setReg_other _ _ _ (by decide)
  intro t
  obtain ⟨n, hn⟩ : ∃ n, n = s.reg pg 0xF00 &&& ~~~(v &&& 0xF0F) := ⟨_, rfl⟩
  have ht : t = if n &&& 0xF = 0 then (s.setReg pg 0xF00 n).setReg pg 0xF04 (s.reg pg 0xF04 &&& ~~~0x4000#32) else s.setReg pg 0xF00 n := by
    rw [hn, ← hsrc]
    rfl
  rw [ht, ← hn]
  split
  case isTrue hclear =>
    have hflags : ((s.setReg pg 0xF00 n).setReg pg 0xF04 (s.reg pg 0xF04 &&& ~~~0x4000#32)).reg pg 0xF00 = n := by
      rw [State.setReg_other _ _ _ (by decide), State.setReg_same]
    refine ⟨hflags, ?_, fun k hk => ?_, (s.setReg_onlyRegs _ _ _).trans (State.setReg_onlyRegs _ _ _ _)⟩
    · rw [State.setReg_same, hflags, if_pos hclear]
    · simp only [List.mem_cons, List.not_mem_nil, or_false, not_or] at hk
      rw [State.setReg_word, if_neg hk.2, State.setReg_word, if_neg hk.1]
  case isFalse hset =>
    refine ⟨State.setReg_same _ _ _ _, ?_, fun k hk => ?_, s.setReg_onlyRegs _ _ _⟩
    · rw [hsrc, State.setReg_same, if_neg hset]
    · simp only [List.mem_cons, List.not_mem_nil, or_false, not_or] at hk
      rw [State.setReg_word, if_neg hk.1]

theorem numflagsClear_clears (pg : Page) (v : U32) (s : State) (hw : s.writes pg = true) (hpg : pg.hasNumflags = true) :
    ∃ t, exec (.numflagsClear pg v) s = .next t ∧ t.reg pg 0xF00 = s.reg pg 0xF00 &&& ~~~ (v &&& 0xF0F) ∧
      t.reg pg 0xF04 = (if t.reg pg 0xF00 &&& 0xF = 0 then s.reg pg 0xF04 &&& ~~~ 0x4000#32 else s.reg pg 0xF04) ∧
      s.regsKept t [pg.base + 0xF00, pg.base + 0xF04] ∧ t = { s with regs := t.regs } := by
  obtain ⟨hflags, hsrc, hkept, honly⟩ := s.clearFlags_spec pg v
  exact ⟨_, congrArg Host.Outcome.next (if_pos (by rw [hw, hpg]; rfl)), hflags, hsrc, hkept, honly.of_regs⟩

theorem bindCacheFlush_flushes (b : Fin 3) (s : State) (hw : s.writes (.glb b) = true) :
    ∃ t, exec (.bindCacheFlush b) s = .next t ∧ (∀ c, c ∈ t.caches ↔ c ∈ s.caches ∧ c.base ≠ b.val) ∧ t = { s with caches := t.caches } :=
  ⟨_, congrArg Host.Outcome.next (if_pos hw), fun c => by simp, rfl⟩

/-! ### The repair record of an array (R135 to R138, R150, R151) -/

/-- A record is valid if each of its two numbers names a column or none and no column is named twice (R137). -/
theorem repairValid_eq (c0 c1 : Nat) :
    repairValid c0 c1 = (decide (c0 ≤ 31 ∨ c0 = 63) && decide (c1 ≤ 31 ∨ c1 = 63) && decide (c0 ≠ c1 ∨ c0 = 63)) := by
  have named (c : Nat) : (if c = 0x3F then [] else [c]).all (fun c => decide (c < 32)) = decide (c ≤ 31 ∨ c = 63) := by
    split
    case isTrue h => simp [h]
    case isFalse h => simp [h, Nat.lt_succ_iff]
  rw [repairValid, repairCols, List.all_append, named, named, decide_eq_decide.mpr (or_comm (a := c0 = 0x3F))]

theorem repairCols_length_le (c0 c1 : Nat) : (repairCols c0 c1).length ≤ 2 := by
  unfold repairCols
  split <;> split <;> simp

theorem repairCols_length {c0 c1 : Nat} (h : repairValid c0 c1 = true) :
    (repairCols c0 c1).length = (if c0 ≤ 31 then 1 else 0) + (if c1 ≤ 31 then 1 else 0) := by
  have named {c : Nat} (hc : c ≤ 31 ∨ c = 63) : (if c = 0x3F then [] else [c]).length = if c ≤ 31 then 1 else 0 := by
    rcases hc with hc | rfl
    · rw [if_neg (by omega), if_pos hc]
      rfl
    · rfl
  rw [repairValid_eq] at h
  simp only [Bool.and_eq_true, decide_eq_true_eq] at h
  obtain ⟨⟨h0, h1⟩, _⟩ := h
  rw [repairCols, List.length_append, named h0, named h1]

theorem geomWord_width {c0 c1 : Nat} (h : repairValid c0 c1 = true) : fieldOf (geomWord c0 c1 false) 0 6 = 32 - (repairCols c0 c1).length := by
  have hle := repairCols_length_le c0 c1
  unfold geomWord
  rw [h]
  generalize (repairCols c0 c1).length = k at hle
  interval_cases k <;> rfl

theorem geomWord_retired {c0 c1 : Nat} {retire : Bool} (h : repairValid c0 c1 = false ∨ retire = true) : fieldOf (geomWord c0 c1 retire) 20 1 = 1 := by
  have hdead : (retire || !repairValid c0 c1) = true := by
    rcases h with h | h
    · simp [h]
    · simp [h]
  simp only [geomWord, hdead, if_true]
  rfl

/-- An array's repair record and geometry as stored, before any error bit (R135, R137). -/
def State.repairStored (s : State) (n : Fin 192) (v : U32) : State :=
  (s.setReg (.mxa n) 0x044 (v &&& 0x80003F3F)).setReg (.mxa n) 0x040 (geomWord (fieldOf v 0 6) (fieldOf v 8 6) (v.getLsbD 31))

section

variable (s : State) (n : Fin 192) (v : U32)

theorem State.repairStored_record : (s.repairStored n v).reg (.mxa n) 0x044 = v &&& 0x80003F3F := by
  rw [State.repairStored, State.setReg_other _ _ _ (by decide), State.setReg_same]

theorem State.repairStored_geom : (s.repairStored n v).reg (.mxa n) 0x040 = geomWord (fieldOf v 0 6) (fieldOf v 8 6) (v.getLsbD 31) := State.setReg_same _ _ _ _

theorem State.repairStored_stat : (s.repairStored n v).reg (.mxa n) offErrStat = s.reg (.mxa n) offErrStat := by
  rw [State.repairStored, State.setReg_other _ _ _ (by decide), State.setReg_other _ _ _ (by decide)]

theorem State.repairStored_regsKept : s.regsKept (s.repairStored n v) [(Page.mxa n).base + 0x040, (Page.mxa n).base + 0x044] := by
  intro k hk
  simp only [List.mem_cons, List.not_mem_nil, or_false, not_or] at hk
  rw [State.repairStored, State.setReg_word, if_neg hk.1, State.setReg_word, if_neg hk.2]

theorem State.repairStored_onlyRegs : s.Regs (s.repairStored n v) := (s.setReg_onlyRegs _ _ _).trans (State.setReg_onlyRegs _ _ _ _)

end

/-- A state that differs from another by error registers of one page: what a repair record raises is shown there alone. -/
structure State.OnlyErrs (s t : State) (pg : Page) : Prop where
  other : ∀ o, o ∉ [offErrStat, offErrMask, offErrFirst] → t.reg pg o = s.reg pg o
  kept : s.regsKept t (errRegs pg)
  onlyRegs : s.Regs t

theorem State.OnlyErrs.refl (s : State) (pg : Page) : s.OnlyErrs s pg := ⟨fun _ _ => rfl, fun _ _ => rfl, _, rfl⟩

theorem State.OnlyErrs.raise {s t : State} {pg : Page} (h : s.OnlyErrs t pg) (b : Nat) : s.OnlyErrs (t.raise pg b) pg :=
  ⟨fun o ho => (t.raise_reg_other pg b ho).trans (h.other o ho), fun k hk => (t.raise_regsKept pg b k hk).trans (h.kept k hk),
    h.onlyRegs.trans (t.raise_onlyRegs pg b)⟩

section

variable {s : State} {n : Fin 192} {v : U32}

theorem State.setRepair_width (h : repairValid (fieldOf v 0 6) (fieldOf v 8 6) = true) (hretire : v.getLsbD 31 = false) :
    s.setRepair n v = s.repairStored n v := by
  have hretire' : v.toNat.testBit 31 = false := hretire
  simp only [State.setRepair, State.repairStored, h, hretire, hretire', Bool.not_false, Bool.and_self, if_true]

theorem State.setRepair_retire (h : repairValid (fieldOf v 0 6) (fieldOf v 8 6) = true) (hretire : v.getLsbD 31 = true) :
    s.setRepair n v = (s.repairStored n v).raise (.mxa n) 2 := by
  have hretire' : v.toNat.testBit 31 = true := hretire
  simp only [State.setRepair, State.repairStored, h, hretire, hretire', Bool.not_true, Bool.and_false, Bool.false_eq_true, if_true, if_false]

theorem State.setRepair_invalid (h : repairValid (fieldOf v 0 6) (fieldOf v 8 6) = false) :
    s.setRepair n v = ((s.repairStored n v).raise (.mxa n) 1).raise (.mxa n) 2 := by
  simp only [State.setRepair, h, Bool.false_and, Bool.false_eq_true, if_false]
  rfl

theorem State.setRepair_onlyErrs : (s.repairStored n v).OnlyErrs (s.setRepair n v) (.mxa n) := by
  cases hok : repairValid (fieldOf v 0 6) (fieldOf v 8 6) with
  | false =>
    rw [State.setRepair_invalid hok]
    exact ((State.OnlyErrs.refl _ _).raise 1).raise 2
  | true =>
    cases hretire : v.getLsbD 31 with
    | false =>
      rw [State.setRepair_width hok hretire]
      exact .refl _ _
    | true =>
      rw [State.setRepair_retire hok hretire]
      exact (State.OnlyErrs.refl _ _).raise 2

theorem State.setRepair_geom : (s.setRepair n v).reg (.mxa n) 0x040 = geomWord (fieldOf v 0 6) (fieldOf v 8 6) (v.getLsbD 31) :=
  (State.setRepair_onlyErrs.other _ (by decide)).trans (s.repairStored_geom n v)

theorem State.setRepair_stat_invalid (h : repairValid (fieldOf v 0 6) (fieldOf v 8 6) = false) :
    (s.setRepair n v).reg (.mxa n) offErrStat = s.reg (.mxa n) offErrStat ||| 6 := by
  rw [State.setRepair_invalid h, State.raise_stat, State.raise_stat, State.repairStored_stat, BitVec.or_assoc]
  rfl

theorem State.setRepair_arrayWidth (h : repairValid (fieldOf v 0 6) (fieldOf v 8 6) = true) (hretire : v.getLsbD 31 = false) :
    (s.setRepair n v).arrayWidth n.val = 32 - (repairCols (fieldOf v 0 6) (fieldOf v 8 6)).length := by
  rw [State.arrayWidth, dif_pos n.isLt, State.field, State.setRepair_geom, hretire, geomWord_width h]

theorem State.setRepair_coreRetired (h : repairValid (fieldOf v 0 6) (fieldOf v 8 6) = false ∨ v.getLsbD 31 = true) :
    (s.setRepair n v).coreRetired n.val = true := by
  have hfield : (s.setRepair n v).field (.mxa n) 0x040 20 1 = 1 := by rw [State.field, State.setRepair_geom, geomWord_retired h]
  rw [State.coreRetired, dif_pos n.isLt, decide_eq_true hfield, Bool.true_or]

end

/-- The array has had its repair record. -/
def State.markRepaired (s : State) (n : Nat) : State := { s with start := { s.start with repaired := n :: s.start.repaired } }

theorem mxaRepairWrite_stores (n : Fin 192) (v : U32) (s : State) :
    let c0 := fieldOf v 0 6
    let c1 := fieldOf v 8 6
    let ok : Bool := decide (c0 ≤ 31 ∨ c0 = 63) && decide (c1 ≤ 31 ∨ c1 = 63) && decide (c0 ≠ c1 ∨ c0 = 63)
    (n.val ∈ s.start.repaired → exec (.mxaRepairWrite n v) s = .next s) ∧
    (n.val ∉ s.start.repaired → ∃ t, exec (.mxaRepairWrite n v) s = .next t ∧ n.val ∈ t.start.repaired ∧
      t.reg (.mxa n) 0x044 = v &&& 0x80003F3F ∧
      (ok = true → v.getLsbD 31 = false → t.arrayWidth n.val = 32 - ((if c0 ≤ 31 then 1 else 0) + (if c1 ≤ 31 then 1 else 0)) ∧
        t.reg (.mxa n) offErrStat = s.reg (.mxa n) offErrStat) ∧
      (ok = true → v.getLsbD 31 = true → t.reg (.mxa n) offErrStat = s.reg (.mxa n) offErrStat ||| 4) ∧
      (ok = false → t.reg (.mxa n) offErrStat = s.reg (.mxa n) offErrStat ||| 6) ∧
      (ok = false ∨ v.getLsbD 31 = true → t.coreRetired n.val = true) ∧
      s.regsKept t (errRegs (.mxa n) ++ [(Page.mxa n).base + 0x040, (Page.mxa n).base + 0x044]) ∧
      t = { s with regs := t.regs, start := { s.start with repaired := n.val :: s.start.repaired } }) := by
  intro c0 c1 ok
  have hok : repairValid c0 c1 = ok := repairValid_eq c0 c1
  rw [← hok]
  refine ⟨fun hin => congrArg Host.Outcome.next (if_pos (List.contains_iff_mem.mpr hin)), fun hout => ?_⟩
  have hexec : exec (.mxaRepairWrite n v) s = .next ((s.setRepair n v).markRepaired n.val) :=
    congrArg Host.Outcome.next (if_neg (fun h => hout (List.contains_iff_mem.mp h)))
  have herrs : (s.repairStored n v).OnlyErrs (s.setRepair n v) (.mxa n) := State.setRepair_onlyErrs
  obtain ⟨regs, hframe⟩ := (s.repairStored_onlyRegs n v).trans herrs.onlyRegs
  refine ⟨_, hexec, List.mem_cons_self, (herrs.other _ (by decide)).trans (s.repairStored_record n v), fun h hretire => ⟨?_, ?_⟩, fun h hretire => ?_,
    fun h => State.setRepair_stat_invalid h, fun h => State.setRepair_coreRetired h, fun k hk => ?_, ?_⟩
  · exact (State.setRepair_arrayWidth h hretire).trans (by rw [repairCols_length h])
  · show (s.setRepair n v).reg (.mxa n) offErrStat = _
    rw [State.setRepair_width h hretire, State.repairStored_stat]
  · show (s.setRepair n v).reg (.mxa n) offErrStat = _
    rw [State.setRepair_retire h hretire, State.raise_stat, State.repairStored_stat]
    rfl
  · simp only [List.mem_append, not_or] at hk
    exact (herrs.kept k hk.1).trans (s.repairStored_regsKept n v k hk.2)
  · rw [hframe]
    rfl

/-! ### Injections (R151, R272, R584) -/

/-- The injection bit 0 armed: no other bit of ERR_INJ and no other register changes. -/
theorem State.arm_zero_spec (s : State) (pg : Page) : (s.arm pg 0).reg pg offErrInj = s.reg pg offErrInj ||| 1 ∧
    s.regsKept (s.arm pg 0) [pg.base + offErrInj] ∧ s.arm pg 0 = { s with regs := (s.arm pg 0).regs } := by
  obtain ⟨hset, hkept, hframe⟩ := s.setBits_spec pg offErrInj (BitVec.ofNat 32 (2 ^ 0)) (2 ^ 0)
  exact ⟨hset.trans (mergeBits_one_set _), hkept, hframe⟩

theorem injectTallyOne_arms (n : Fin 192) (v : U32) (s : State) (hw : s.writes (.mxa n) = true) :
    ∃ t, exec (.injectTallyOne n v) s = .next t ∧ t.reg (.mxa n) offErrInj = mergeBits (s.reg (.mxa n) offErrInj) v 0x3F00 ||| 1 ∧
      s.regsKept t [(Page.mxa n).base + offErrInj] ∧ t = { s with regs := t.regs } := by
  obtain ⟨hcol, hcolKept, _⟩ := s.setBits_spec (.mxa n) offErrInj v 0x3F00
  obtain ⟨hset, hkept, _⟩ := (s.setBits (.mxa n) offErrInj v 0x3F00).arm_zero_spec (.mxa n)
  exact ⟨_, congrArg Host.Outcome.next (if_pos hw), by rw [hset, hcol], fun k hk => (hkept k hk).trans (hcolKept k hk),
    ((s.setReg_onlyRegs _ _ _).trans (State.setReg_onlyRegs _ _ _ _)).of_regs⟩

theorem injectGrainOne_arms (n : Fin 192) (s : State) (hw : s.writes (.cpe n) = true) :
    ∃ t, exec (.injectGrainOne n) s = .next t ∧ t.reg (.cpe n) offErrInj = s.reg (.cpe n) offErrInj ||| 1 ∧
      s.regsKept t [(Page.cpe n).base + offErrInj] ∧ t = { s with regs := t.regs } :=
  ⟨_, congrArg Host.Outcome.next (if_pos hw), s.arm_zero_spec (.cpe n)⟩

/-- Settles O18, one lemma for each command. -/
theorem countsFlagsAndRepair : Obligations.CountsFlagsAndRepair := by
  unfold Obligations.CountsFlagsAndRepair
  exact ⟨clearCounts_clears, numflagsClear_clears, bindCacheFlush_flushes, mxaRepairWrite_stores, injectTallyOne_arms, injectGrainOne_arms⟩

end Sys2Proof.Machine
end

section
/-! Proofs: releases of commit records (R287, R321). O34 fails in its clause on a release. The clause has a release change memory alone and so leaves out the errors that no access has met yet. The release writes the record's line with zeros through the controllers, and a line written whole loses the error that lay on it (R217, R222). -/

namespace Sys2Proof.Machine

namespace ReleasedUpset

/-- A module in Run with base dies 0 and 1 up and the Lathe page 0 selecting the first commit record of stack 0, which no UPDATE or SHADOW holds; bursts of the record's line are to be repeated once. -/
def state : State := { UpsetRecord.state with dies := [(12, { DieSt.unpowered with up := true }), (13, { DieSt.unpowered with up := true })] }

theorem writable : state.writes (.lth 0) = true := by decide +kernel

theorem notHeld : state.recordHeld (state.field (.lth 0) 0x05C 16 4) (state.field (.lth 0) 0x05C 0 16) = false := rfl

theorem stackUp : state.memDown (state.field (.lth 0) 0x05C 16 4 * stackSize) = false := by decide +kernel

/-- The release takes the error on the record's line away. -/
theorem upsetsLeft_release : UpsetRecord.upsetsLeft (exec (.commitRecordRelease 0 1) state) = [] := by decide +kernel

end ReleasedUpset

/-- Refutes O34: the zeros written over a released record take an error on its line away, of which the clause on what else changes says nothing. -/
theorem not_recipesAndReleases : ¬ Obligations.RecipesAndReleases := by
  unfold Obligations.RecipesAndReleases
  rintro ⟨_, _, hrelease, _⟩
  obtain ⟨_, hfree⟩ := hrelease 0 1 ReleasedUpset.state ReleasedUpset.writable (by decide)
  obtain ⟨t, hexec, _, _, hframe⟩ := hfree ReleasedUpset.notHeld ReleasedUpset.stackUp
  have hleft : t.upsets = [] := by
    have hgone := ReleasedUpset.upsetsLeft_release
    rwa [hexec] at hgone
  have hkept : t.upsets = ReleasedUpset.state.upsets := by rw [hframe]
  exact absurd (hkept.symm.trans hleft) (by decide)

end Sys2Proof.Machine
end

section
/-! Proofs: a step with no command waiting (R214, R222, R227; log entry 7). -/

namespace Sys2Proof.Machine

/-- A line is marked once. -/
theorem Memory.spoil_cases (m : Memory) (line : Nat) :
    m.spoil line = m ∨ (line ∉ m.bad ∧ m.spoil line = { m with bad := line :: m.bad }) := by
  unfold Memory.spoil
  split
  case isTrue => exact .inl rfl
  case isFalse h => exact .inr ⟨fun hmem => h (List.contains_iff_mem.mpr hmem), rfl⟩

/-- What may come over a line: nothing, an error that the next access mends, or one that stays. -/
theorem State.upset_cases (s : State) (line kind : Nat) :
    s.upset line kind = s ∨
      (kind ≤ 4 ∧ s.upset line kind = { s with upsets := s.upsets ++ [⟨line, decide (kind = 0), kind⟩] }) ∨
      (line ∉ s.mem.bad ∧ s.upset line kind = { s with mem := { s.mem with bad := line :: s.mem.bad } }) := by
  unfold State.upset
  split
  case isFalse => exact .inl rfl
  case isTrue =>
    split
    case isTrue hkind => exact .inr (.inl ⟨hkind, rfl⟩)
    case isFalse =>
      rcases s.mem.spoil_cases line with h | ⟨hnew, h⟩
      · exact .inl (by rw [h])
      · exact .inr (.inr ⟨hnew, by rw [h]⟩)

theorem State.idle_cases (s : State) : s.idle = s.draw ∨ ∃ line kind, s.idle = s.draw.upset line kind := by
  unfold State.idle
  split
  · exact .inr ⟨_, _, rfl⟩
  · exact .inl rfl

theorem step_idle {s : State} (h : s.pending = []) : step s = .next s.idle := by
  unfold step
  rw [h]

/-- Settles O2, by what may come over a line of memory. -/
theorem emptyQueueIdles : Obligations.EmptyQueueIdles := by
  unfold Obligations.EmptyQueueIdles
  intro s hempty
  rw [step_idle hempty]
  rcases s.idle_cases with hidle | ⟨line, kind, hidle⟩
  · exact ⟨s.upsets, s.mem, congrArg _ hidle, rfl, rfl, .inl ⟨rfl, rfl⟩⟩
  · rcases s.draw.upset_cases line kind with hup | ⟨hkind, hup⟩ | ⟨hnew, hup⟩
    · exact ⟨s.upsets, s.mem, congrArg _ (hidle.trans hup), rfl, rfl, .inl ⟨rfl, rfl⟩⟩
    · exact ⟨_, s.mem, congrArg _ (hidle.trans hup), rfl, rfl, .inr (.inl ⟨rfl, _, rfl, hkind⟩)⟩
    · exact ⟨s.upsets, _, congrArg _ (hidle.trans hup), rfl, rfl, .inr (.inr ⟨rfl, line, hnew, rfl⟩)⟩

end Sys2Proof.Machine
end

section
/-! Proofs: the loss of a base die leaves it down, whatever else the loss ends (R469 to R476): all that follows the mark on the die itself leaves the dies as they are. -/

namespace Sys2Proof.Machine

/-! ### Operations that leave the dies as they are -/

theorem State.die_congr {s t : State} (h : t.dies = s.dies) (d : Nat) : t.die d = s.die d := by rw [State.die, State.die, h]

theorem State.Regs.dies {s t : State} : s.Regs t → t.dies = s.dies := by
  rintro ⟨_, rfl⟩
  rfl

theorem State.FireFrame.dies {s t : State} : s.FireFrame t → t.dies = s.dies := by
  rintro ⟨_, _, _, _, _, _, _, _, _, _, _, _, _, _, _, rfl⟩
  rfl

theorem State.EndFrame.dies {s t : State} (h : s.EndFrame t) : t.dies = s.dies := h.fireFrame.dies

theorem State.forEach_dies {β : Type} {f : State → β → State} (hf : ∀ t b, (f t b).dies = t.dies) (l : List β) (s : State) : (s.forEach l f).dies = s.dies :=
  State.forEach_rel (R := fun a b => b.dies = a.dies) (fun _ => rfl) (fun hab hbc => hbc.trans hab) hf l s

/-! ### Links and what waits on them (R470, R474) -/

theorem State.dropFlits_dies (s : State) (e : LinkEnd) : (s.dropFlits e).dies = s.dies :=
  (State.forEach_dies (fun t b => t.setBundle_dies e b _) _ _).trans (s.setLink_dies e _)

theorem State.fenceLink_dies (s : State) (e : LinkEnd) : (s.fenceLink e).dies = s.dies :=
  ((State.dropFlits_dies _ _).trans (State.setLink_dies _ _ _)).trans ((State.dropFlits_dies _ _).trans (State.setLink_dies _ _ _))

theorem State.peerDown_dies (s : State) (e : LinkEnd) : (s.peerDown e).dies = s.dies := s.raise_dies _ _

theorem State.countDrop_onlyRegs (s : State) (p : Nat) : s.Regs (s.countDrop p) := by
  unfold State.countDrop
  split
  · exact s.countSat_onlyRegs _ _ _
  · exact .refl s

theorem State.enqueue_dies (s : State) (p : Nat) (f : Frame) : (s.enqueue p f).dies = s.dies := by
  unfold State.enqueue
  dsimp only
  rw [State.setPort_dies]
  split
  · exact s.countSat_dies _ _ _
  · rfl

theorem State.stopTwin_dies (s : State) : s.stopTwin.dies = s.dies := by
  unfold State.stopTwin
  split
  · exact s.raise_dies .twn 0
  · rfl

theorem State.detectedFault_dies (s : State) (u : Nat) (code : U16) : (s.detectedFault u code).dies = s.dies := by
  cases hcur : (s.engine u).cur with
  | none => rw [State.detectedFault, hcur]
  | some r => exact (State.detectedFault_fireFrame code hcur).dies

theorem State.collLost_dies (s : State) (c : Coll) (f : Frame) : (s.collLost c f).dies = s.dies := by
  have hcases : ∀ mine : Bool, ∀ t : State, (if mine then t.detectedFault (816 + c.base) S_FAB_UNREACHABLE else t).dies = t.dies := fun mine t => by
    split
    · exact t.detectedFault_dies _ _
    · rfl
  exact (hcases _ _).trans rfl

/-- The end of a firing whose frame is lost is an end like any other (R343, R346). -/
theorem State.lostOwn_dies (s : State) (f : Frame) : (s.lostOwn f).dies = s.dies := by
  unfold State.lostOwn
  split
  · rfl
  · split
    · split
      · exact s.detectedFault_dies _ _
      · rfl
    · split
      · split
        · exact s.collLost_dies _ _
        · rfl
      · rfl

theorem State.loseLink_dies (s : State) (p cause : Nat) : (s.loseLink p cause).dies = s.dies := by
  have hstop : ∀ on : Bool, ∀ t : State, (if on then t.stopTwin else t).dies = t.dies := fun on t => by
    split
    · exact t.stopTwin_dies
    · rfl
  unfold State.loseLink
  dsimp only
  split
  · refine (hstop _ _).trans ((State.forEach_dies (fun t f => ?_) _ _).trans
      ((State.record_dies _ _).trans ((State.raise_dies _ _ _).trans ((State.setReg_dies _ _ _ _).trans (s.setPort_dies p _)))))
    split
    · exact t.enqueue_dies _ f
    · exact (State.lostOwn_dies _ f).trans (t.countDrop_onlyRegs p).dies
  · exact s.setPort_dies p _

theorem State.portsDown_dies (s : State) (b : Nat) : (s.portsDown b).dies = s.dies := State.forEach_dies (fun t p => t.loseLink_dies p 1) _ s

/-! ### Units, streams and capability values (R470 to R474) -/

theorem State.dropUnits_dies (s : State) (us : List Nat) : (s.dropUnits us).dies = s.dies := by
  refine (State.forEach_dies (fun t n => ?_) _ _).trans rfl
  split <;> rfl

theorem State.fencedCompletion_dies (s : State) (n : Nat) (unit : U16) : (s.fencedCompletion n unit).dies = s.dies := by
  unfold State.fencedCompletion
  split
  · unfold State.drainDone
    split
    · exact (s.endSubmission_endFrame _ _ _ _).dies
    · rfl
  · split
    · exact (s.failStream_endFrame _ _ _).dies
    · split
      · exact ((State.startNext_endFrame _ n).dies.trans (State.grantSlots_grants _).endFrame.dies).trans rfl
      · rfl

theorem State.forceFail_dies (s : State) (n : Nat) (code unit : U16) : (s.forceFail n code unit).dies = s.dies := by
  unfold State.forceFail
  split
  · exact (s.endSubmission_endFrame _ _ _ _).dies
  · rfl

theorem State.capChanged_dies (s : State) : s.capChanged.dies = s.dies := by
  unfold State.capChanged
  refine (State.forEach_dies (fun t b => ?_) ([0, 1, 2] : List (Fin 3)) s :)
  dsimp only
  split
  · exact (State.raise_dies _ _ _).trans (t.setReg_dies _ _ _)
  · exact t.setReg_dies _ _ _

/-! ### A base die that is lost is down -/

theorem State.updDie_die (s : State) (n m : Nat) (f : DieSt → DieSt) : (s.updDie n f).die m = if m = n then f (s.die n) else s.die m := s.setDie_die n m _

theorem State.outerDown_down (s : State) (b cause : Nat) : (s.outerDown b cause).baseUp b = false := by
  unfold State.outerDown State.baseUp State.die
  rw [State.record_dies, State.portsDown_dies, State.capChanged_dies, State.forEach_dies (fun t n => t.fencedCompletion_dies n _),
    State.forEach_dies (fun t n => t.forceFail_dies n _ _)]
  dsimp only
  rw [State.peerDown_dies, State.forEach_dies State.fenceLink_dies, State.fenceLink_dies, State.dropUnits_dies, ← State.die, State.updDie_die, if_pos rfl]
  rfl

theorem State.loseCentre_dies (s : State) : s.loseCentre.dies = s.dies := rfl

theorem State.forEach_updDie_other {d : Nat} (f : DieSt → DieSt) (l : List Nat) (h : d ∉ l) : ∀ s : State, (s.forEach l (fun t k => t.updDie k f)).die d = s.die d := by
  induction l with
  | nil => exact fun _ => rfl
  | cons k l ih =>
    intro s
    obtain ⟨hk, hl⟩ := not_or.mp (mt List.mem_cons.mpr h)
    exact (ih hl (s.updDie k f)).trans ((s.updDie_die k d f).trans (if_neg hk))

theorem State.centreDown_down (s : State) (cause : Nat) : (s.centreDown cause).baseUp 1 = false := by
  unfold State.centreDown State.baseUp State.die
  rw [State.record_dies, State.loseCentre_dies, State.peerDown_dies, State.peerDown_dies, State.forEach_dies State.fenceLink_dies, ← State.die,
    State.forEach_updDie_other _ _ (by decide), State.updDie_die, if_pos rfl]
  rfl

theorem State.baseDown_down (s : State) (b cause : Nat) : (s.baseDown b cause).baseUp b = false := by
  unfold State.baseDown
  split
  case isFalse h => exact Bool.eq_false_iff.mpr h
  case isTrue =>
    split
    case isTrue h => exact h ▸ s.centreDown_down cause
    case isFalse => exact s.outerDown_down b cause

end Sys2Proof.Machine
end

section
/-! Proofs: temperature readings of memory devices (R218, R219, R223, R506). -/

namespace Sys2Proof.Machine

/-! ### The band and the word that shows it -/

/-- A band holds from its lower bound on, and from 1 degree beneath it where it or a higher one held before (R218). -/
theorem band_holds {b lo : Nat} (old t : Nat) (hb : b ≠ 0) (hlo : bandLow b = lo) :
    (if b ≤ old then decide (b = 0) || decide (bandLow b < t + 2) else decide (bandLow b ≤ t)) = decide (lo ≤ t ∨ (b ≤ old ∧ lo < t + 2)) := by
  subst hlo
  split
  case isTrue h => simp only [hb, h, decide_false, Bool.false_or, true_and, decide_eq_decide]; omega
  case isFalse h => simp only [h, false_and, or_false]

theorem bandNext_eq {old : Nat} (t : Nat) (h : old < 4) : bandNext old t =
    if 105 ≤ t ∨ (old = 3 ∧ 103 < t) then 3 else if 95 ≤ t ∨ (2 ≤ old ∧ 93 < t) then 2 else if 85 ≤ t ∨ (1 ≤ old ∧ 83 < t) then 1 else 0 := by
  have htop : 3 ≤ old ↔ old = 3 := by omega
  have hmargin (lo : Nat) : lo + 2 < t + 2 ↔ lo < t := by omega
  unfold bandNext
  simp only [band_holds (b := 3) (lo := 103 + 2) old t (by decide) rfl, band_holds (b := 2) (lo := 93 + 2) old t (by decide) rfl,
    band_holds (b := 1) (lo := 83 + 2) old t (by decide) rfl, decide_eq_true_eq, hmargin]
  simp only [htop, Nat.reduceAdd]

theorem bandNext_lt {old : Nat} (t : Nat) (h : old < 4) : bandNext old t < 4 := by
  rw [bandNext_eq t h]
  repeat' split
  all_goals decide

/-- What HBC_TEMP or GDC_TEMP shows (R240). -/
theorem tempWord_fields {deg band : Nat} (bad : Bool) (hdeg : deg < 256) (hband : band < 4) :
    fieldOf (tempWord deg band bad) 0 8 = deg ∧ fieldOf (tempWord deg band bad) 8 2 = band ∧ fieldOf (tempWord deg band bad) 11 1 = bad.toNat := by
  have hnat : (tempWord deg band bad).toNat = deg + band * 256 + (if band = 3 then 1 else 0) * 1024 + bad.toNat * 2048 := by
    simp only [tempWord, packFields, List.foldl, BitVec.toNat_ofNat]
    cases bad <;> split <;> simp <;> omega
  simp only [fieldOf, hnat]
  cases bad <;> split <;> simp <;> omega

/-! ### What a reading stores -/

/-- The band that a reading leads to. -/
def State.tempBand (s : State) (d : MemDev) (c : BitVec 8) : Nat := bandNext (s.field d.page 0x044 8 2) c.toNat

/-- TEMP as a reading sets it. -/
def State.tempShown (s : State) (d : MemDev) (c : BitVec 8) : State := s.setReg d.page 0x044 (tempWord c.toNat (s.tempBand d c) false)

/-- MAX behind it, where it is exceeded. -/
def State.tempMaxed (s : State) (d : MemDev) (c : BitVec 8) : State :=
  if ((s.tempShown d c).reg d.page 0x048).toNat < c.toNat then (s.tempShown d c).setReg d.page 0x048 (c.zeroExtend 32) else s.tempShown d c

/-- A reading as stored, before any event: readings in band 3 are counted (R240). -/
def State.tempStored (s : State) (d : MemDev) (c : BitVec 8) : State :=
  if s.tempBand d c = 3 then (s.tempMaxed d c).countSat d.page 0x068 else s.tempMaxed d c

theorem State.ite_setReg_word (s : State) (p : Prop) [Decidable p] (pg : Page) (o : Nat) (v : U32) (k : Nat) :
    (if p then s.setReg pg o v else s).word k = if k = pg.base + o then (if p then v else s.reg pg o) else s.word k := by
  split
  case isTrue => exact s.setReg_word pg o v k
  case isFalse =>
    split
    case isTrue h => rw [h, State.word_reg]
    case isFalse => rfl

theorem State.ite_setReg_onlyRegs (s : State) (p : Prop) [Decidable p] (pg : Page) (o : Nat) (v : U32) : s.Regs (if p then s.setReg pg o v else s) := by
  split
  · exact s.setReg_onlyRegs pg o v
  · exact .refl s

section

variable (s : State) (d : MemDev) (c : BitVec 8)

theorem State.tempMaxed_word (k : Nat) : (s.tempMaxed d c).word k =
    if k = d.page.base + 0x048 then (if (s.reg d.page 0x048).toNat < c.toNat then c.zeroExtend 32 else s.reg d.page 0x048)
    else if k = d.page.base + 0x044 then tempWord c.toNat (s.tempBand d c) false else s.word k := by
  have hmax : (s.tempShown d c).reg d.page 0x048 = s.reg d.page 0x048 := s.setReg_other _ _ (by decide)
  rw [State.tempMaxed, State.ite_setReg_word, hmax, State.tempShown, State.setReg_word]

theorem State.tempStored_word (k : Nat) : (s.tempStored d c).word k =
    if k = d.page.base + 0x068 then (if s.tempBand d c = 3 then satAdd (s.reg d.page 0x068) 1 else s.reg d.page 0x068)
    else (s.tempMaxed d c).word k := by
  have hcount : (s.tempMaxed d c).reg d.page 0x068 = s.reg d.page 0x068 := by
    rw [State.word_reg, State.tempMaxed_word, if_neg (by omega), if_neg (by omega), State.word_reg]
  rw [State.tempStored, State.countSat_def, State.ite_setReg_word, hcount]

theorem State.tempStored_onlyRegs : s.Regs (s.tempStored d c) :=
  ((s.setReg_onlyRegs _ _ _).trans (State.ite_setReg_onlyRegs _ _ _ _ _)).trans (State.ite_setReg_onlyRegs _ _ _ _ _)

theorem State.tempStored_regsKept : s.regsKept (s.tempStored d c) [d.page.base + 0x044, d.page.base + 0x048, d.page.base + 0x068] := by
  intro k hk
  simp only [List.mem_cons, List.not_mem_nil, or_false, not_or] at hk
  obtain ⟨htemp, hmax, hcount⟩ := hk
  rw [State.tempStored_word, if_neg hcount, State.tempMaxed_word, if_neg hmax, if_neg htemp]

theorem State.tempStored_temp : (s.tempStored d c).reg d.page 0x044 = tempWord c.toNat (s.tempBand d c) false := by
  rw [State.word_reg, State.tempStored_word, if_neg (by omega), State.tempMaxed_word, if_neg (by omega), if_pos rfl]

theorem State.tempStored_max :
    (s.tempStored d c).reg d.page 0x048 = if (s.reg d.page 0x048).toNat < c.toNat then c.zeroExtend 32 else s.reg d.page 0x048 := by
  rw [State.word_reg, State.tempStored_word, if_neg (by omega), State.tempMaxed_word, if_pos rfl]

theorem State.tempStored_count :
    (s.tempStored d c).reg d.page 0x068 = if s.tempBand d c = 3 then satAdd (s.reg d.page 0x068) 1 else s.reg d.page 0x068 := by
  rw [State.word_reg, State.tempStored_word, if_pos rfl]

end

/-! ### What a reading shows -/

/-- An event behind a change of registers that spares ERR_STAT and ERR_MASK. -/
theorem State.regsKept.raisedIn {s u : State} {ks : List Nat} {pg : Page} (h : s.regsKept u ks) (b : Nat)
    (hstat : pg.base + offErrStat ∉ ks) (hmask : pg.base + offErrMask ∉ ks) : s.raisedIn (u.raise pg b) pg b := by
  have hs : u.reg pg offErrStat = s.reg pg offErrStat := h _ hstat
  have hm : u.reg pg offErrMask = s.reg pg offErrMask := h _ hmask
  exact ⟨by rw [State.raise_stat, hs], by rw [State.raise_mask, hm]⟩

/-- An event that may follow a change of registers touches none but the error registers. -/
theorem State.regsKept.ite_raise {s u : State} {ks : List Nat} (h : s.regsKept u ks) (p : Prop) [Decidable p] (pg : Page) (b : Nat) :
    s.regsKept (if p then u.raise pg b else u) (ks ++ errRegs pg) := by
  intro k hk
  obtain ⟨hks, herr⟩ := not_or.mp (mt List.mem_append.mpr hk)
  split
  · exact (u.raise_regsKept pg b k herr).trans (h k hks)
  · exact h k hks

theorem State.ite_raise_reg (u : State) (p : Prop) [Decidable p] (pg : Page) (b : Nat) {o : Nat} (ho : o ∉ [offErrStat, offErrMask, offErrFirst]) :
    (if p then u.raise pg b else u).reg pg o = u.reg pg o := by
  split
  · exact u.raise_reg_other pg b ho
  · rfl

theorem State.ite_raise_onlyRegs (u : State) (p : Prop) [Decidable p] (pg : Page) (b : Nat) : u.Regs (if p then u.raise pg b else u) := by
  split
  · exact u.raise_onlyRegs pg b
  · exact .refl u

/-- TEMP, MAX, the count and the event of a reading below the trip point (R218, R240). -/
def State.TempRead (s : State) (d : MemDev) (c : BitVec 8) (t : State) : Prop :=
  t.field d.page 0x044 0 8 = c.toNat ∧ t.field d.page 0x044 11 1 = 0 ∧
  t.field d.page 0x044 8 2 = (if 105 ≤ c.toNat ∨ (s.field d.page 0x044 8 2 = 3 ∧ 103 < c.toNat) then 3
    else if 95 ≤ c.toNat ∨ (2 ≤ s.field d.page 0x044 8 2 ∧ 93 < c.toNat) then 2
    else if 85 ≤ c.toNat ∨ (1 ≤ s.field d.page 0x044 8 2 ∧ 83 < c.toNat) then 1 else 0) ∧
  t.reg d.page 0x048 = (if (s.reg d.page 0x048).toNat < c.toNat then c.zeroExtend 32 else s.reg d.page 0x048) ∧
  t.reg d.page 0x068 = (if t.field d.page 0x044 8 2 = 3 then satAdd (s.reg d.page 0x068) 1 else s.reg d.page 0x068) ∧
  (t.field d.page 0x044 8 2 = 3 → s.field d.page 0x044 8 2 ≠ 3 → s.raisedIn t d.page 2) ∧
  s.regsKept t ([d.page.base + 0x044, d.page.base + 0x048, d.page.base + 0x068] ++ errRegs d.page) ∧ t = { s with regs := t.regs }

/-- A sensor that reads nothing: band 2, and bit 4 of ERR_STAT (R219). -/
def State.TempLost (s : State) (d : MemDev) (t : State) : Prop :=
  t.field d.page 0x044 8 2 = 2 ∧ t.field d.page 0x044 11 1 = 1 ∧ s.raisedIn t d.page 4 ∧
  s.regsKept t ([d.page.base + 0x044] ++ errRegs d.page) ∧ t = { s with regs := t.regs }

section

variable {s : State} {d : MemDev} (c : BitVec 8)

theorem State.tempSample_some (h : s.baseUp d.base = true) : s.tempSample d (some c) =
    if s.tempBand d c = 3 ∧ s.field d.page 0x044 8 2 ≠ 3 then (s.tempStored d c).raise d.page 2 else s.tempStored d c :=
  if_neg (by rw [h]; decide)

theorem State.tempSample_none (h : s.baseUp d.base = true) :
    s.tempSample d none = (s.setReg d.page 0x044 (tempWord (s.field d.page 0x044 0 8) 2 true)).raise d.page 4 :=
  if_neg (by rw [h]; decide)

theorem State.tempSample_reads (h : s.baseUp d.base = true) : s.TempRead d c (s.tempSample d (some c)) := by
  have hold : s.field d.page 0x044 8 2 < 4 := Nat.mod_lt _ (by decide)
  have hkept := s.tempStored_regsKept d c
  rw [State.tempSample_some c h]
  obtain ⟨t, ht⟩ : ∃ t, t = if s.tempBand d c = 3 ∧ s.field d.page 0x044 8 2 ≠ 3 then (s.tempStored d c).raise d.page 2 else s.tempStored d c := ⟨_, rfl⟩
  have htemp : t.reg d.page 0x044 = tempWord c.toNat (s.tempBand d c) false := by
    rw [ht, State.ite_raise_reg _ _ _ _ (by decide), State.tempStored_temp]
  obtain ⟨hdeg, hband, hbad⟩ := tempWord_fields false c.isLt (bandNext_lt c.toNat hold)
  have hfield : t.field d.page 0x044 8 2 = s.tempBand d c := by rw [State.field, htemp]; exact hband
  rw [← ht]
  refine ⟨by rw [State.field, htemp]; exact hdeg, by rw [State.field, htemp]; exact hbad, by rw [hfield]; exact bandNext_eq _ hold, ?_, ?_,
    fun hthree hother => ?_, ?_, ?_⟩
  · rw [ht, State.ite_raise_reg _ _ _ _ (by decide), State.tempStored_max]
  · rw [hfield, ht, State.ite_raise_reg _ _ _ _ (by decide), State.tempStored_count]
  · rw [ht, if_pos ⟨hfield ▸ hthree, hother⟩]
    refine hkept.raisedIn 2 ?_ ?_ <;> simp [offErrStat, offErrMask]
  · rw [ht]
    exact hkept.ite_raise _ _ _
  · obtain ⟨_, hregs⟩ : s.Regs t := ht ▸ (s.tempStored_onlyRegs d c).trans (State.ite_raise_onlyRegs _ _ _ _)
    rw [hregs]

theorem State.tempSample_lost (h : s.baseUp d.base = true) : s.TempLost d (s.tempSample d none) := by
  obtain ⟨w, hw⟩ : ∃ w, w = tempWord (s.field d.page 0x044 0 8) 2 true := ⟨_, rfl⟩
  have hkept := s.setReg_regsKept d.page 0x044 w
  obtain ⟨_, hband, hbad⟩ := tempWord_fields (deg := s.field d.page 0x044 0 8) (band := 2) true (Nat.mod_lt _ (by decide)) (by decide)
  rw [State.tempSample_none h, ← hw]
  have htemp : ((s.setReg d.page 0x044 w).raise d.page 4).reg d.page 0x044 = w := by
    rw [State.raise_reg_other _ _ _ (by decide), State.setReg_same]
  refine ⟨by rw [State.field, htemp, hw]; exact hband, by rw [State.field, htemp, hw]; exact hbad, ?_, fun k hk => ?_, ?_⟩
  · refine hkept.raisedIn 4 ?_ ?_ <;> simp [offErrStat, offErrMask]
  · obtain ⟨hks, herr⟩ := not_or.mp (mt List.mem_append.mpr hk)
    exact (State.raise_regsKept _ _ _ k herr).trans (hkept k hks)
  · obtain ⟨_, hregs⟩ := (s.setReg_onlyRegs d.page 0x044 w).trans (State.raise_onlyRegs _ d.page 4)
    rw [hregs]

end

/-! ### The trip of a stack (R506) -/

theorem State.stackTrip_below (s : State) (k : Nat) {c : Nat} (h : c < 115) : s.stackTrip k c = s := if_neg (fun hc => by omega)

/-- The base die that serves a stack at 115 °C is down behind the reading. -/
theorem State.stackTrip_down (s : State) (k : Nat) {c : Nat} (h : 115 ≤ c) : (s.stackTrip k c).baseUp (baseOfStack k) = false := by
  unfold State.stackTrip
  split
  case isTrue => exact State.baseDown_down _ _ _
  case isFalse hdown => exact Bool.eq_false_iff.mpr fun hup => hdown ⟨h, hup⟩

/-- Settles O19, by the reading of a device's own page and the trip of a stack. -/
theorem temperatureBands : Obligations.TemperatureBands := by
  unfold Obligations.TemperatureBands
  intro ok lost
  have hread {s : State} {d : MemDev} (c : BitVec 8) (h : s.baseUp d.base = true) : ok d c s (s.tempSample d (some c)) := State.tempSample_reads c h
  have hlost {s : State} {d : MemDev} (h : s.baseUp d.base = true) : lost d s (s.tempSample d none) := State.tempSample_lost h
  refine ⟨fun k c s hup => ⟨fun hbelow => ⟨_, rfl, ?_⟩, ⟨_, rfl, hlost hup⟩, fun htrip => ⟨_, rfl, State.stackTrip_down _ _ htrip⟩⟩,
    fun g c s hup => ⟨⟨_, rfl, hread c hup⟩, ⟨_, rfl, hlost hup⟩⟩⟩
  show ok (.hbm k) c s ((s.tempSample (.hbm k) (some c)).stackTrip k.val c.toNat)
  rw [State.stackTrip_below _ _ hbelow]
  exact hread c hup

end Sys2Proof.Machine
end

section
/-! Proofs: the region tables (R235): an entry is set, cleared and moved only while it is invalid and its job rests. -/

namespace Sys2Proof.Machine

theorem fieldOf_lt (v : U32) (lo w : Nat) : fieldOf v lo w < 2 ^ w := Nat.mod_lt _ (Nat.two_pow_pos w)

theorem State.rgnJob_lt (s : State) : s.rgnJob < 256 := fieldOf_lt _ _ _

theorem State.rgnNum_lt (s : State) : s.rgnNum < 64 := fieldOf_lt _ _ _

/-! ### What a change of the selected entry leaves -/

/-- The selected entry is as given, every other one and everything else as it was. -/
def State.EntrySet (s t : State) (x : Region) : Prop :=
  t.region s.rgnJob s.rgnNum = x ∧ (∀ k m, k < 256 → m < 64 → (k ≠ s.rgnJob ∨ m ≠ s.rgnNum) → t.region k m = s.region k m) ∧
    t = { s with regions := t.regions }

theorem State.entrySet_refl (s : State) : s.EntrySet s (s.region s.rgnJob s.rgnNum) := ⟨rfl, fun _ _ _ _ _ => rfl, rfl⟩

theorem State.setRegion_entrySet (s : State) (x : Region) : s.EntrySet (s.setRegion s.rgnJob s.rgnNum x) x := by
  refine ⟨s.setRegion_same _ _ x, fun k m _ hm hne => s.setRegion_other x ?_, rfl⟩
  have hnum := s.rgnNum_lt
  omega

/-- STM_RGN_STAT names the reason, the job and the region (R235). -/
theorem regionStat_fields {why j n : Nat} (hwhy : why < 8) (hj : j < 256) (hn : n < 64) :
    let v := packFields [(why, 0, 3), (j, 3, 8), (n, 11, 6)]
    fieldOf v 0 3 = why ∧ fieldOf v 3 8 = j ∧ fieldOf v 11 6 = n := by
  have hnat : (packFields [(why, 0, 3), (j, 3, 8), (n, 11, 6)]).toNat = why + j * 8 + n * 2048 := by
    simp only [packFields, List.foldl, BitVec.toNat_ofNat]
    omega
  simp only [fieldOf, hnat]
  omega

/-- A refused change: the selected entry is as given, and the refusal shows its reason, job and region (R235). -/
def State.RegionRefused (s t : State) (x : Region) (why : Nat) : Prop :=
  t.region s.rgnJob s.rgnNum = x ∧ (∀ k m, k < 256 → m < 64 → (k ≠ s.rgnJob ∨ m ≠ s.rgnNum) → t.region k m = s.region k m) ∧
    fieldOf (t.reg .stmRgn 0x058) 0 3 = why ∧ fieldOf (t.reg .stmRgn 0x058) 3 8 = s.rgnJob ∧ fieldOf (t.reg .stmRgn 0x058) 11 6 = s.rgnNum ∧
    s.raisedIn t .stmRgn 0 ∧ s.regsKept t ([Page.stmRgn.base + 0x058] ++ errRegs .stmRgn) ∧ t = { s with regions := t.regions, regs := t.regs }

theorem State.EntrySet.refused {s t : State} {x : Region} {why : Nat} (h : s.EntrySet t x) (hwhy : why < 8) :
    s.RegionRefused (t.refuseRegion s.rgnJob s.rgnNum why) x why := by
  obtain ⟨hentry, hothers, hframe⟩ := h
  obtain ⟨hreason, hjob, hnum⟩ := regionStat_fields hwhy s.rgnJob_lt s.rgnNum_lt
  obtain ⟨u, hu⟩ : ∃ u, u = t.setReg .stmRgn 0x058 (packFields [(why, 0, 3), (s.rgnJob, 3, 8), (s.rgnNum, 11, 6)]) := ⟨_, rfl⟩
  have hstat : (u.raise .stmRgn 0).reg .stmRgn 0x058 = packFields [(why, 0, 3), (s.rgnJob, 3, 8), (s.rgnNum, 11, 6)] := by
    rw [State.raise_reg_other _ _ _ (by decide), hu, State.setReg_same]
  have hkept : s.regsKept u [Page.stmRgn.base + 0x058] := fun k hk => by
    rw [hu, State.setReg_regsKept _ _ _ _ k hk, hframe]
    rfl
  have hregion (k m : Nat) : (u.raise .stmRgn 0).region k m = t.region k m := by
    rw [State.region, State.raise_regions, hu, State.setReg_regions, State.region]
  have hrefuse : t.refuseRegion s.rgnJob s.rgnNum why = u.raise .stmRgn 0 := by rw [hu]; rfl
  rw [hrefuse]
  refine ⟨(hregion _ _).trans hentry, fun k m hk hm hne => (hregion k m).trans (hothers k m hk hm hne), by rw [hstat, hreason], by rw [hstat, hjob],
    by rw [hstat, hnum], ⟨?_, ?_⟩, fun k hk => ?_, ?_⟩
  · rw [State.raise_stat, State.word_reg, hkept _ (by decide), ← State.word_reg]
  · rw [State.raise_mask, State.word_reg, hkept _ (by decide), ← State.word_reg]
  · obtain ⟨hk1, hk2⟩ := not_or.mp (fun hor => hk (List.mem_append.mpr hor))
    rw [State.raise_regsKept _ _ _ k hk2, hkept k hk1]
  · obtain ⟨_, hregs⟩ := ((t.setReg_onlyRegs .stmRgn 0x058 _).trans (State.raise_onlyRegs _ .stmRgn 0) : t.Regs (t.refuseRegion s.rgnJob s.rgnNum why))
    rw [← hrefuse, hregs, hframe]

/-! ### Writes of STM_RGN_CTRL -/

/-- The selected entry with the READ and WRITE bits of a control word. -/
def State.entryWith (s : State) (v : U32) : Region := { s.region s.rgnJob s.rgnNum with rd := v.getLsbD 1, wr := v.getLsbD 2 }

section

variable {s : State} {v : U32}

theorem State.regionCtrl_keep (hvalid : (s.region s.rgnJob s.rgnNum).valid = true) (hset : v.getLsbD 0 = true) :
    s.regionCtrl v = if s.entryWith v = s.region s.rgnJob s.rgnNum then s else s.refuseRegion s.rgnJob s.rgnNum reasonLocked :=
  (if_pos hvalid).trans (if_pos hset)

theorem State.regionCtrl_clear (hvalid : (s.region s.rgnJob s.rgnNum).valid = true) (hclear : v.getLsbD 0 = false) :
    s.regionCtrl v = if s.jobBusy s.rgnJob = true then s.refuseRegion s.rgnJob s.rgnNum reasonBusy
      else s.setRegion s.rgnJob s.rgnNum { s.entryWith v with valid := false } :=
  (if_pos hvalid).trans (if_neg (Bool.eq_false_iff.mp hclear))

theorem State.regionCtrl_rest (hvalid : (s.region s.rgnJob s.rgnNum).valid = false) (hclear : v.getLsbD 0 = false) :
    s.regionCtrl v = s.setRegion s.rgnJob s.rgnNum (s.entryWith v) :=
  (if_neg (Bool.eq_false_iff.mp hvalid)).trans (if_neg (Bool.eq_false_iff.mp hclear))

theorem State.regionCtrl_refused {why : Nat} (hvalid : (s.region s.rgnJob s.rgnNum).valid = false) (hset : v.getLsbD 0 = true)
    (h : s.regionRefusal s.rgnJob (s.entryWith v) = some why) :
    s.regionCtrl v = (s.setRegion s.rgnJob s.rgnNum (s.entryWith v)).refuseRegion s.rgnJob s.rgnNum why := by
  refine (if_neg (Bool.eq_false_iff.mp hvalid)).trans ((if_pos hset).trans ?_)
  change (match s.regionRefusal s.rgnJob (s.entryWith v) with | some k => _ | none => _) = _
  rw [h]
  rfl

theorem State.regionCtrl_set (hvalid : (s.region s.rgnJob s.rgnNum).valid = false) (hset : v.getLsbD 0 = true)
    (h : s.regionRefusal s.rgnJob (s.entryWith v) = none) :
    s.regionCtrl v = s.setRegion s.rgnJob s.rgnNum { s.entryWith v with valid := true } := by
  refine (if_neg (Bool.eq_false_iff.mp hvalid)).trans ((if_pos hset).trans ?_)
  change (match s.regionRefusal s.rgnJob (s.entryWith v) with | some k => _ | none => _) = _
  rw [h]
  rfl

theorem State.entryWith_or_one : s.entryWith (v ||| 1) = s.entryWith v := by simp [State.entryWith]

theorem State.entryWith_and_not_one : s.entryWith (v &&& ~~~1#32) = s.entryWith v := by simp [State.entryWith]

/-- VALID set of an invalid entry: the first reason that applies, or none (R235). -/
theorem State.regionCtrl_valid (hvalid : (s.region s.rgnJob s.rgnNum).valid = false) :
    let r := s.region s.rgnJob s.rgnNum
    let t := s.regionCtrl (v ||| 1)
    if s.jobBusy s.rgnJob = true then s.RegionRefused t (s.entryWith v) 4
    else if r.limit < r.base ∨ 2 ^ 42 ≤ r.limit - r.base then s.RegionRefused t (s.entryWith v) 1
    else if s.rangeOk r = false then s.RegionRefused t (s.entryWith v) 2
    else if s.regionOverlaps s.rgnJob (s.entryWith v) = true then s.RegionRefused t (s.entryWith v) 3
    else s.EntrySet t { s.entryWith v with valid := true } := by
  intro r t
  have hset : (v ||| 1).getLsbD 0 = true := by simp
  have hrefused {why : Nat} (hwhy : why < 8) (h : s.regionRefusal s.rgnJob (s.entryWith v) = some why) : s.RegionRefused t (s.entryWith v) why := by
    rw [← s.entryWith_or_one] at h ⊢
    rw [show t = _ from State.regionCtrl_refused hvalid hset h]
    exact (s.setRegion_entrySet _).refused hwhy
  have hrange : s.rangeOk (s.entryWith v) = s.rangeOk r := rfl
  by_cases hbusy : s.jobBusy s.rgnJob = true
  · rw [if_pos hbusy]
    exact hrefused (by decide) (if_pos hbusy)
  rw [if_neg hbusy]
  by_cases hbounds : r.limit < r.base ∨ 2 ^ 42 ≤ r.limit - r.base
  · rw [if_pos hbounds]
    exact hrefused (by decide) ((if_neg hbusy).trans (if_pos hbounds))
  rw [if_neg hbounds]
  by_cases hok : s.rangeOk r = false
  · rw [if_pos hok]
    exact hrefused (by decide) ((if_neg hbusy).trans ((if_neg hbounds).trans (if_pos (by rw [hrange, hok]; rfl))))
  rw [if_neg hok]
  have hok' : ¬ (!s.rangeOk (s.entryWith v)) = true := by simpa [hrange] using hok
  by_cases hover : s.regionOverlaps s.rgnJob (s.entryWith v) = true
  · rw [if_pos hover]
    exact hrefused (by decide) ((if_neg hbusy).trans ((if_neg hbounds).trans ((if_neg hok').trans (if_pos hover))))
  rw [if_neg hover]
  have hnone : s.regionRefusal s.rgnJob (s.entryWith v) = none :=
    (if_neg hbusy).trans ((if_neg hbounds).trans ((if_neg hok').trans (if_neg hover)))
  rw [← s.entryWith_or_one] at hnone ⊢
  rw [show t = _ from State.regionCtrl_set hvalid hset hnone]
  exact s.setRegion_entrySet _

end

/-! ### The three commands -/

section

variable {s : State} (v : U32) (w : U48) (limit : Bool)

theorem State.regionBounds_locked (h : (s.region s.rgnJob s.rgnNum).valid = true) :
    s.regionBounds limit w.toNat = s.refuseRegion s.rgnJob s.rgnNum reasonLocked := if_pos h

/-- The selected entry with BASE or LIMIT moved to a multiple of 2,048 (R232). -/
def State.entryBound (s : State) (limit : Bool) (a : Nat) : Region :=
  if limit = true then { s.region s.rgnJob s.rgnNum with limit := a } else { s.region s.rgnJob s.rgnNum with base := a }

theorem State.regionBounds_moves (h : (s.region s.rgnJob s.rgnNum).valid = false) :
    s.regionBounds limit w.toNat = s.setRegion s.rgnJob s.rgnNum (s.entryBound limit (w.toNat / 2048 * 2048)) := by
  have hmod : w.toNat % 0x1000000000000 = w.toNat := Nat.mod_eq_of_lt w.isLt
  refine (if_neg (Bool.eq_false_iff.mp h)).trans ?_
  rw [hmod]
  rfl

end

theorem regionValidSet_exec (v : U32) {s : State} (h : s.hostReach = true) : exec (.regionValidSet v) s = .next (s.regionCtrl (v ||| 1)) :=
  congrArg Host.Outcome.next (if_pos h)

theorem regionValidClear_exec (v : U32) {s : State} (h : s.hostReach = true) : exec (.regionValidClear v) s = .next (s.regionCtrl (v &&& ~~~1#32)) :=
  congrArg Host.Outcome.next (if_pos h)

theorem regionBoundsWrite_exec (limit : Bool) (w : U48) {s : State} (h : s.hostReach = true) :
    exec (.regionBoundsWrite limit w) s = .next (s.regionBounds limit w.toNat) :=
  congrArg Host.Outcome.next (if_pos h)

/-- Settles O21, by the entry's VALID bit and the bit written. -/
theorem regionTableRules : Obligations.RegionTableRules := by
  unfold Obligations.RegionTableRules
  intro v w limit s j n r rw a same refused done hreach
  have hclear : (v &&& ~~~1#32).getLsbD 0 = false := by simp
  have hset : (v ||| 1).getLsbD 0 = true := by simp
  refine ⟨fun hinvalid => ⟨⟨_, regionValidSet_exec v hreach, State.regionCtrl_valid hinvalid⟩, ⟨_, regionValidClear_exec v hreach, ?_⟩, ⟨_, regionBoundsWrite_exec limit w hreach, ?_⟩⟩,
    fun hvalid => ⟨⟨_, regionValidSet_exec v hreach, ?_⟩, ⟨_, regionValidClear_exec v hreach, ?_⟩, ⟨_, regionBoundsWrite_exec limit w hreach, ?_⟩⟩⟩
  · rw [State.regionCtrl_rest hinvalid hclear, State.entryWith_and_not_one]
    exact s.setRegion_entrySet _
  · rw [State.regionBounds_moves w limit hinvalid]
    exact s.setRegion_entrySet _
  · rw [State.regionCtrl_keep hvalid hset, State.entryWith_or_one]
    by_cases hsame : s.entryWith v = s.region s.rgnJob s.rgnNum
    · rw [if_pos hsame]
      exact (if_pos hsame).mpr rfl
    · rw [if_neg hsame]
      exact (if_neg hsame).mpr (s.entrySet_refl.refused (by decide))
  · rw [State.regionCtrl_clear hvalid hclear, State.entryWith_and_not_one]
    by_cases hbusy : s.jobBusy s.rgnJob = true
    · rw [if_pos hbusy, if_pos hbusy]
      exact s.entrySet_refl.refused (by decide)
    · rw [if_neg hbusy, if_neg hbusy]
      exact s.setRegion_entrySet _
  · rw [State.regionBounds_locked w limit hvalid]
    exact s.entrySet_refl.refused (by decide)

end Sys2Proof.Machine
end

section
/-! Proofs: reads and writes of memory (R217, R233). O22 fails in one place, shown here. Its clause on tags has every block touched whose bytes reach beyond `a` and begin before `a + bs.length`. With no bytes to write and `a` inside a block that is so for that block, which a write of nothing does not touch: its tag stays as it was, and the clause has it be the CRC of the block. -/

namespace Sys2Proof.Machine

namespace EmptyWrite

/-- A memory of zeros in which the tag of block 0 does not fit. -/
def memory : Memory := { Memory.zero with tags := [(0, Memory.zero.computeTag 0 + 1)] }

/-- A write of no bytes inside block 0 leaves the tag that does not fit. -/
theorem tag_write : (memory.write 1 []).tag 0 = Memory.zero.computeTag 0 + 1 := rfl

theorem computeTag_write : (memory.write 1 []).computeTag 0 = Memory.zero.computeTag 0 := rfl

end EmptyWrite

/-- Refutes O22: a write of no bytes inside a block touches no tag. -/
theorem not_memoryReadsBackAndIsTagged : ¬ Obligations.MemoryReadsBackAndIsTagged := by
  unfold Obligations.MemoryReadsBackAndIsTagged
  rintro ⟨hwrite, _⟩
  obtain ⟨_, _, htag, _, _⟩ := hwrite EmptyWrite.memory 1 []
  have hfits := htag 0 (by decide) (by decide) (by decide)
  rw [EmptyWrite.tag_write, EmptyWrite.computeTag_write] at hfits
  exact absurd hfits (by simp)

end Sys2Proof.Machine
end

section
/-! Proofs: the scrub of an SRAM (R227, R237, R238). O20 fails in one place, shown here. Its clause on a corrected word has the count go up at every position, with no bound on the position that the state holds. A correction is counted only where its address is one of SRAM (R227): where the position held lies behind the last word of SRAM, as no scrub brings it about but a state may have it, nothing is counted. -/

namespace Sys2Proof.Machine

namespace ScrubBeyond

/-- Base die 0 up; the scrub of staging SRAM 0 stands behind the last word of staging SRAM. -/
def state : State := { State.reset with dies := [(12, { DieSt.unpowered with up := true })], sramScrub := [(0, 0x6000000)] }

theorem dieUp : (state.die (sramAt 0).2.2).up = true := by decide +kernel

/-- The corrections counted after a step. -/
def counted : Res → Nat
  | .next t => t.sramCorr
  | _ => 0

theorem counted_scrub : counted (exec (.sramScrubRead 0 .corrected) state) = 0 := by decide +kernel

end ScrubBeyond

/-- Refutes O20: a corrected word behind the end of SRAM is not counted. -/
theorem not_scrubReadsCountAndMoveOn : ¬ Obligations.ScrubReadsCountAndMoveOn := by
  unfold Obligations.ScrubReadsCountAndMoveOn
  rintro ⟨_, hsram, _⟩
  obtain ⟨_, hquiet⟩ := hsram 0 ScrubBeyond.state ScrubBeyond.dieUp
  obtain ⟨_, _, t, hexec, _, hcorr, _⟩ := hquiet (fun _ h => nomatch h)
  have hcount : t.sramCorr = 0 := by
    have h := ScrubBeyond.counted_scrub
    rwa [hexec] at h
  exact absurd (hcount.symm.trans hcorr) (by decide)

end Sys2Proof.Machine
end

section
/-! Proofs: the ends of slow-tier requests (R229 to R231, R369). O23 fails in one place, shown here. Its clause on a completion takes every slow-tier read that is outstanding, those of the twin link's mirror among them, and has nothing change but engines, the host attachment and what is sent. What a completion brings for the mirror is kept with the mirror (R369, R370). -/

namespace Sys2Proof.Machine

namespace MirrorRead

/-- The mirror waits for two bytes from the slow tier, on port 0. -/
def request : UioReq := ⟨7, 0, twinUnit⟩

/-- The read that the request stands for. -/
def wait : Wait := .slow 7 windowBase 0 1 none

def state : State :=
  { State.reset with
    cxl := { Cxl.reset with active := some 0, uio := [request] }
    twin := { TwinSt.off with mirroring := true, reads := [(7, windowBase, 0, 1), (8, windowBase + 1, 1, 1)] } }

theorem outstanding : state.uioReq 7 = some request := by decide +kernel

theorem waiting : state.slowWait request = some wait := by decide +kernel

/-- The bytes that the mirror holds after a step. -/
def held : Res → List (Nat × U8)
  | .next t => t.twin.fetched
  | _ => []

theorem held_completion : held (exec (.slowTierCompletion 7 (some [5])) state) = [(windowBase, 5)] := by decide +kernel

end MirrorRead

/-- Refutes O23: a completion for the mirror leaves its byte with the mirror, of which the clause on completions says nothing. -/
theorem not_remoteRequestsEnd : ¬ Obligations.RemoteRequestsEnd := by
  unfold Obligations.RemoteRequestsEnd
  rintro ⟨hslow, _⟩
  obtain ⟨hcompletion, _⟩ := hslow 7 0 [5] MirrorRead.request MirrorRead.state rfl MirrorRead.outstanding
  obtain ⟨t, hexec, _, _, hframe⟩ := hcompletion MirrorRead.wait MirrorRead.waiting (windowBase, 1) rfl rfl
  have hheld : t.twin.fetched = [(windowBase, 5)] := by
    have h := MirrorRead.held_completion
    rwa [hexec] at h
  have hkept : t.twin.fetched = [] := by rw [hframe]; rfl
  exact absurd (hkept.symm.trans hheld) (by decide)

end Sys2Proof.Machine
end

section
/-! Proofs: WRITE frames (R349, R358, R409). O41 fails in one place, shown here. Its clause on an admitted frame asks for a window of the job with WRITE, a WRITE region over the range and memory that is up. A region may lie in the Window Map region (R232), where no memory is that a die could take down; the model stores no inbound frame there and refuses it (log entry 52). -/

namespace Sys2Proof.Machine

namespace RemoteInbound

/-- A WRITE frame of one byte to the module itself, for window 0 of the job of key 77. -/
def frame : Frame := { frameOf ftWrite 2 5 6 77 [1] with grain := crc32c [1] }

/-- INBOUND window 0 of job 0, in all phases, for reads and writes: one block at the start of the Window Map region. -/
def entry : WEntry := ⟨.inbound, 0xF, 0, 0, 1, 0, windowBase, 0, true, true, 0, []⟩

/-- The module calls itself 5 and has a frame of its own to deliver; job 0 has key 77 and a WRITE region over the window's block. -/
def state : State :=
  { State.reset with
    regs := [(Page.wwyMod.base + 0x040, 5)], keytab := [(0, 77)], looped := [frame]
    jobs := [(0, { jobDefault 0 with valid := true })], regions := [(0, ⟨windowBase, windowBase, true, true, true⟩)], wmap := [(0, [entry])] }

theorem delivered : state.frameFor (0 : Fin 12).val ftWrite = some (12, frame) := by decide +kernel

theorem ofJob : state.frameJob frame = some 0 := by decide +kernel

theorem inbound : state.inboundOf 0 frame.group = some entry := by decide +kernel

theorem allowed : state.allowed 0 (entry.base + frame.offset) frame.payload.length true = true := by decide +kernel

theorem memoryUp : state.memDown (entry.base + frame.offset) = false := by decide +kernel

/-- What stands at the start of the Window Map region after a step. -/
def stored : Res → List U8
  | .next t => t.mem.read windowBase 1
  | _ => []

theorem stored_write : stored (exec (.writeFrame 0) state) = [0] := by decide +kernel

end RemoteInbound

/-- Refutes O41: an INBOUND window in the Window Map region admits no frame. -/
theorem not_writeFrameStores : ¬ Obligations.WriteFrameStores := by
  unfold Obligations.WriteFrameStores
  intro h
  obtain ⟨t, hexec, _, _, hjob, _⟩ := h 0 RemoteInbound.state _ RemoteInbound.delivered rfl
  obtain ⟨hadmitted, _⟩ := hjob 0 RemoteInbound.ofJob
  obtain ⟨hread, _⟩ := hadmitted RemoteInbound.entry RemoteInbound.inbound rfl (by decide) RemoteInbound.allowed RemoteInbound.memoryUp rfl
  have hstored : t.mem.read windowBase 1 = [0] := by
    have h := RemoteInbound.stored_write
    rwa [hexec] at h
  exact absurd (hstored.symm.trans hread) (by decide)

end Sys2Proof.Machine
end

section
/-! Proofs: how a Lathe's firing ends (R25, R114, R173, R225, R306, R404): the engine stands at a boundary and memory is as it was. -/

namespace Sys2Proof.Machine

/-- Memory is as it was, and a unit that stood at a firing boundary stands there still. -/
structure State.Rests (s t : State) (u : Nat) : Prop where
  mem : t.mem = s.mem
  idle : (s.engine u).cur = none → (t.engine u).cur = none

/-- The same, and every UPDATE and SHADOW holds its record as before. -/
structure State.Settles (s t : State) (u : Nat) : Prop extends State.Rests s t u where
  upds : t.upds = s.upds

theorem State.Rests.trans {a b c : State} {u : Nat} (h : a.Rests b u) (k : b.Rests c u) : a.Rests c u :=
  ⟨k.mem.trans h.mem, fun hidle => k.idle (h.idle hidle)⟩

theorem State.Settles.trans {a b c : State} {u : Nat} (h : a.Settles b u) (k : b.Settles c u) : a.Settles c u :=
  ⟨h.toRests.trans k.toRests, k.upds.trans h.upds⟩

theorem State.Settles.of_engines {s t : State} {u : Nat} (hmem : t.mem = s.mem) (hengines : t.engines = s.engines) (hupds : t.upds = s.upds) : s.Settles t u :=
  ⟨⟨hmem, fun h => by rwa [State.engine_congr hengines]⟩, hupds⟩

theorem State.Settles.refl (s : State) (u : Nat) : s.Settles s u := .of_engines rfl rfl rfl

theorem State.Regs.settles {s t : State} {u : Nat} : s.Regs t → s.Settles t u := by
  rintro ⟨_, rfl⟩
  exact .of_engines rfl rfl rfl

theorem State.Sends.settles {s t : State} {u : Nat} : s.Sends t → s.Settles t u := by
  rintro ⟨_, _, _, rfl⟩
  exact .of_engines rfl rfl rfl

theorem State.EndFrame.rests {s t : State} {u : Nat} (h : s.EndFrame t) : s.Rests t u :=
  ⟨h.mem, fun hidle => by rwa [h.engine]⟩

theorem State.boundary_settles (s : State) (u : Nat) : s.Settles (s.boundary u) u := by
  have hidle := s.boundary_idle u
  obtain ⟨_, _, h⟩ := s.boundary_releases u
  rw [h] at hidle ⊢
  exact ⟨⟨rfl, fun _ => hidle⟩, rfl⟩

theorem State.freeAfterFiring_rests (s : State) (u n : Nat) : s.Rests (s.freeAfterFiring u n) u :=
  ⟨(s.freeAfterFiring_fireFrame u n).mem, fun _ => s.freeAfterFiring_idle u n⟩

theorem State.dueNow_settles (s : State) (u v : Nat) : s.Settles (s.dueNow v) u := by
  obtain ⟨_, h⟩ := s.dueNow_tuneOnly v
  rw [h]
  exact .of_engines rfl rfl rfl

theorem State.noteTransient_settles (s : State) (u v n : Nat) (code : U16) : s.Settles (s.noteTransient v n code) u := by
  have hdue (t : State) (h : s.Settles t u) : s.Settles (t.dueNow v) u := h.trans (t.dueNow_settles u v)
  unfold State.noteTransient
  dsimp only
  split
  · exact hdue _ (.of_engines rfl rfl rfl)
  · exact .of_engines rfl rfl rfl

theorem State.edgeMessages_sends (s : State) (n : Nat) (b : Bound) (slot : Nat) (sides : Bool × Bool) : s.Sends (s.edgeMessages n b slot sides) :=
  (State.forEach_rel State.Sends.refl State.Sends.trans (fun t _ => t.tell_sends _ _ _ _) _ s).trans
    (State.forEach_rel State.Sends.refl State.Sends.trans (fun t _ => t.tell_sends _ _ _ _) _ _)

theorem State.updRec_settles (s : State) (u n : Nat) (f : Stream → Stream) : s.Settles (s.updRec n f) u := .of_engines rfl rfl rfl

/-! ### Contribution ends (R422) -/

theorem State.reopen_settles (s : State) (u j k : Nat) : s.Settles (s.reopen j k) u := .of_engines rfl rfl rfl

theorem State.contribEnd_cases (s : State) (j k : Nat) : s.contribEnd j k = s ∨ ∃ x, s.contribEnd j k = s.setJob j x :=
  (ite_eq_or_eq _ _ _).imp_right fun h => ⟨_, h⟩

theorem State.contribEnd_settles (s : State) (u j k : Nat) : s.Settles (s.contribEnd j k) u := by
  rcases s.contribEnd_cases j k with h | ⟨x, h⟩
  · rw [h]
    exact .refl s u
  · rw [h]
    exact .of_engines rfl rfl rfl

theorem State.noteContribs_settles (s before : State) (u j : Nat) : s.Settles (s.noteContribs before j) u := by
  refine State.forEach_rel (R := fun a b => a.Settles b u) (fun a => .refl a u) (fun h k => h.trans k) (fun t k => ?_) _ s
  obtain ⟨t1, ht1⟩ : ∃ t1, t1 = (if before.contribDone j k then t else t.reopen j k) := ⟨_, rfl⟩
  have hopen : t.Settles t1 u := by
    rw [ht1]
    split
    · exact .refl t u
    · exact t.reopen_settles u j k
  rw [← ht1]
  refine hopen.trans ?_
  dsimp only
  split
  · exact t1.contribEnd_settles u j k
  · exact .refl t1 u

theorem State.nodeCompleted_settles (s : State) (u j : Nat) (g : GNode) : s.Settles (s.nodeCompleted j g) u := by
  have hjob (f : Job → Job) : s.Settles (s.updJob j f) u := .of_engines rfl rfl rfl
  unfold State.nodeCompleted
  dsimp only
  split
  · split
    · exact ((hjob _).trans (State.reopen_settles _ u j _)).trans (State.contribEnd_settles _ u j _)
    · exact hjob _
  · split
    · exact hjob _
    · exact .refl s u

/-! ### The end of a part, and of a node -/

theorem State.firingOf_eq_some {s : State} {u : Nat} {r : Running} {b : Bound} {y : BNode} (h : s.firingOf u = some (r, b, y)) :
    (s.engine u).cur = some r ∧ (s.stream r.stream).bound = some b ∧ b.nodes[r.slot]? = some y := by
  unfold State.firingOf at h
  split at h
  case h_2 => cases h
  case h_1 r' hcur =>
    split at h
    case h_2 => cases h
    case h_1 b' hbound =>
      obtain ⟨y', hy, heq⟩ := Option.map_eq_some_iff.mp h
      cases heq
      exact ⟨hcur, hbound, hy⟩

/-- A firing's flags posted at its unit's boundary (R173). -/
theorem State.posted_settles (s : State) (u n : Nat) (f : Flags) : s.Settles ((s.boundary u).postFlags u n f false) u :=
  (s.boundary_settles u).trans (State.postFlags_onlyRegs _ u n f false).settles

theorem State.posted_idle (s : State) (u n : Nat) (f : Flags) : (((s.boundary u).postFlags u n f false).engine u).cur = none :=
  (State.postFlags_onlyRegs _ u n f false).settles.idle (s.boundary_idle u)

/-- What a firing that has been posted hands on: the end of a repetition noted, its tokens and credits sent, and the record (R25, R49, R404). -/
def State.handsOn (s : State) (u : Nat) (r : Running) (b : Bound) (slot : Nat) (code : U16) (f : Stream → Stream) : State :=
  ((if r.rep then s.noteTransient u r.stream code else s).edgeMessages r.stream b slot r.took).updRec r.stream f

theorem State.handsOn_settles (s : State) (u : Nat) (r : Running) (b : Bound) (slot : Nat) (code : U16) (f : Stream → Stream) :
    s.Settles (s.handsOn u r b slot code f) u := by
  have hrep : s.Settles (if r.rep then s.noteTransient u r.stream code else s) u := by
    split
    · exact s.noteTransient_settles u u r.stream code
    · exact .refl s u
  exact (hrep.trans (State.edgeMessages_sends _ _ _ _ _).settles).trans (State.updRec_settles _ u _ _)

/-- The record of a stream whose part has ended. -/
def Stream.parted (b : Bound) (y : BNode) (took : Bool × Bool) (f : Flags) (x : Stream) : Stream :=
  { x with firings := x.firings + 1, numflags := x.numflags ||| f, stalled := false, bound := some ((b.repeated y.slot).settle y.slot took) }

theorem State.partDone_eq {s : State} {u : Nat} {r : Running} {b : Bound} {y : BNode} (hf : s.firingOf u = some (r, b, y)) (f : Flags) :
    s.partDone u f =
      if (s.stream r.stream).over then ((s.boundary u).postFlags u r.stream f false).freeAfterFiring u r.stream
      else if y.revoked then
        (((s.boundary u).postFlags u r.stream f false).handsOn u r b y.slot y.code (Stream.parted b y r.took f)).freeAfterFiring u r.stream
      else ((s.boundary u).postFlags u r.stream f false).handsOn u r b y.slot y.code (Stream.parted b y r.took f) := by
  unfold State.partDone
  rw [hf]
  rfl

/-- A part that ends leaves its Lathe at a boundary and memory as it was; where its stream goes on, every record is held as before. -/
theorem State.partDone_spec {s : State} {u : Nat} {r : Running} {b : Bound} {y : BNode} (hf : s.firingOf u = some (r, b, y)) (f : Flags) :
    (s.partDone u f).mem = s.mem ∧ ((s.partDone u f).engine u).cur = none ∧
      ((s.stream r.stream).over = false → y.revoked = false → (s.partDone u f).upds = s.upds) := by
  obtain ⟨s1, hs1⟩ : ∃ s1, s1 = (s.boundary u).postFlags u r.stream f false := ⟨_, rfl⟩
  have hpost : s.Settles s1 u := hs1 ▸ s.posted_settles u r.stream f
  have hidle : (s1.engine u).cur = none := hs1 ▸ s.posted_idle u r.stream f
  have hdone := s1.handsOn_settles u r b y.slot y.code (Stream.parted b y r.took f)
  rw [State.partDone_eq hf, ← hs1]
  split
  case isTrue hover =>
    have hfree := s1.freeAfterFiring_rests u r.stream
    exact ⟨hfree.mem.trans hpost.mem, hfree.idle hidle, fun h => by simp [h] at hover⟩
  case isFalse =>
    split
    case isTrue hrev =>
      have hfree := hdone.toRests.trans (State.freeAfterFiring_rests _ u r.stream)
      exact ⟨hfree.mem.trans hpost.mem, hfree.idle hidle, fun _ h => by simp [h] at hrev⟩
    case isFalse => exact ⟨hdone.mem.trans hpost.mem, hdone.idle hidle, fun _ _ => hdone.upds.trans hpost.upds⟩

/-- An UPDATE, a SHADOW and a PHASE put no block into the slots of their edges. -/
theorem State.stageBlocks_none {b : Bound} {slot : Nat} {y : BNode} {g : GNode} (hy : b.nodes[slot]? = some y) (hg : b.prog.nodes[y.node]? = some g) (hop : 8 ≤ g.op)
    (s : State) (j k : Nat) (wrote : List (Nat × List U8)) : s.stageBlocks j b slot k wrote = s := by
  have hcarries (e : BEdge) (t : Nat) (he : e.src = slot) : b.carries e t = false := by
    have hlow : decide (g.op < 8) = false := decide_eq_false (by omega)
    unfold Bound.carries
    rw [he, hy]
    cases b.nodes[e.dst]? with
    | none => rfl
    | some z =>
      dsimp only
      rw [hg]
      cases b.prog.nodes[z.node]? <;> simp [hlow]
  have hnone (t : State) (e : BEdge) (he : e.src = slot) : t.edgeBytes j b e k wrote = [] := by
    have hruns : b.edgeRuns e k = [] := by
      unfold Bound.edgeRuns
      rw [he, hy]
      exact List.filter_eq_nil_iff.mpr fun q _ => by simp [hcarries e q.tensor he]
    rw [State.edgeBytes, hruns]
    exact List.take_nil
  have hall : ∀ (l : List BEdge), (∀ e, e ∈ l → e.src = slot) → ∀ t : State, t.forEach l (fun t e =>
      let bs := t.edgeBytes j b e k wrote
      if bs.isEmpty then t else { t with mem := t.mem.stage (b.edgeToken e k).addr bs e.tagged }) = t := by
    intro l
    induction l with
    | nil => exact fun _ _ => rfl
    | cons e l ih =>
      intro hl t
      show State.forEach (if (t.edgeBytes j b e k wrote).isEmpty then t else _) l _ = t
      rw [hnone t e (hl e List.mem_cons_self)]
      exact ih (fun e' he' => hl e' (List.mem_cons_of_mem _ he')) t
  exact hall _ (fun e he => by simpa using (List.mem_filter.mp he).2) s

/-- A node's last firing leaves its Lathe at a boundary and memory as it was (R25, R114). -/
theorem State.finishFiring_spec {s : State} {u : Nat} {r : Running} {b : Bound} {y : BNode} {g : GNode} (hf : s.firingOf u = some (r, b, y))
    (hg : b.prog.nodes[y.node]? = some g) (hop : 8 ≤ g.op) (runs : List BlkRun) (d : Done) :
    (s.finishFiring u runs d).mem = s.mem ∧ ((s.finishFiring u runs d).engine u).cur = none := by
  obtain ⟨hcur, hbound, hslot⟩ := State.firingOf_eq_some hf
  obtain ⟨s1, hs1⟩ : ∃ s1, s1 = (s.boundary u).postFlags u r.stream d.flags false := ⟨_, rfl⟩
  have hpost : s.Settles s1 u := hs1 ▸ s.posted_settles u r.stream d.flags
  have hidle : (s1.engine u).cur = none := hs1 ▸ s.posted_idle u r.stream d.flags
  suffices h : s1.Rests (s.finishFiring u runs d) u from ⟨h.mem.trans hpost.mem, h.idle hidle⟩
  unfold State.finishFiring
  simp only [hcur, hbound, hslot, hg, ← hs1, State.stageBlocks_none hslot hg hop, ite_self]
  split
  case isTrue => exact s1.freeAfterFiring_rests u r.stream
  case isFalse =>
    obtain ⟨s3, hs3⟩ : ∃ s3, s3 = s1.handsOn u r b r.slot y.code (fun x => x.fired (b.deliver r.slot r.took) runs d
        (if (b.deliver r.slot r.took).nodeDone y.node = true ∧ (g.op = opPhase ∨ g.op = opUpdate) then some g.step else none)) := ⟨_, rfl⟩
    have h3 : s1.Rests s3 u := hs3 ▸ (s1.handsOn_settles u r b r.slot y.code _).toRests
    rw [State.handsOn] at hs3
    rw [← hs3]
    obtain ⟨s4, hs4⟩ : ∃ s4, s4 = (if (b.deliver r.slot r.took).nodeDone y.node = true
        then (s3.nodeCompleted (s.stream r.stream).job g).noteContribs s (s.stream r.stream).job else s3) := ⟨_, rfl⟩
    have h4 : s3.Rests s4 u := by
      rw [hs4]
      split
      · exact ((s3.nodeCompleted_settles u _ g).trans (State.noteContribs_settles _ s u _)).toRests
      · exact (State.Settles.refl s3 u).toRests
    rw [← hs4]
    refine h3.trans (h4.trans ?_)
    split
    · exact (s4.endSubmission_endFrame _ _ _ _).rests
    · split
      · exact s4.freeAfterFiring_rests u r.stream
      · exact (State.Settles.refl s4 u).toRests

end Sys2Proof.Machine
end

section
/-! Proofs: the checks of an UPDATE's first firing (R277, R282, R285, R286, R621): of memory they change the record that they claim and nothing else. -/

namespace Sys2Proof.Machine

/-! ### Bytes beside a write -/

theorem SMap.get_setMany_outside {α : Type} [DecidableEq α] (d : Nat → α) (vs : List α) : ∀ (m : List (Nat × α)) (a k : Nat), (k < a ∨ a + vs.length ≤ k) →
    SMap.get d (SMap.setMany d m a vs) k = SMap.get d m k := by
  induction vs with
  | nil => exact fun _ _ _ _ => rfl
  | cons v vs ih =>
    intro m a k h
    rw [List.length_cons] at h
    exact (ih _ (a + 1) k (by omega)).trans (SMap.get_set_other d m v (by omega))

theorem Memory.retag_bytes : ∀ (n : Nat) (m : Memory) (blk : Nat), (m.retag blk n).bytes = m.bytes
  | 0, _, _ => rfl
  | n + 1, _, blk => Memory.retag_bytes n _ (blk + 1)

theorem Memory.byte_write_outside (m : Memory) (a : Nat) (bs : List U8) {k : Nat} (h : k < a ∨ a + bs.length ≤ k) : (m.write a bs).byte k = m.byte k := by
  rw [Memory.byte, Memory.write, Memory.retag_bytes]
  exact SMap.get_setMany_outside byteDefault bs m.bytes a k h

theorem State.writeBurst_reads (s : State) (a n : Nat) : s.Reads (s.writeBurst a n) := by
  obtain ⟨s1, hs1⟩ : ∃ s1, s1 = s.forEach (restOf a n) (fun t x => (t.eccRead x.1 x.2).1) := ⟨_, rfl⟩
  have hone (t : State) (x : Nat × Nat) : t.Reads (t.eccRead x.1 x.2).1 := t.eccRead_reads x.1 x.2
  have hrest : s.Reads s1 := hs1 ▸ State.forEach_rel State.Reads.refl State.Reads.trans hone _ s
  unfold State.writeBurst
  rw [← hs1]
  dsimp only
  split
  · exact hrest
  · obtain ⟨s2, hs2⟩ : ∃ s2, s2 = s1.forEach (s1.upsets.filter (fun x => x.within a n)) (fun t x => t.readNote ⟨x.line * 64, false, x.retries⟩) := ⟨_, rfl⟩
    have hnotes : s1.Reads s2 := by rw [hs2]; exact State.forEach_rel State.Reads.refl State.Reads.trans (fun t x => t.readNote_reads _) _ s1
    rw [← hs2]
    exact (hrest.trans hnotes).trans ⟨_, _, _, _, _, _, rfl⟩

theorem State.writeMem_eq (s : State) (a : Nat) (bs : List U8) : s.writeMem a bs = { s.writeBurst a bs.length with mem := s.mem.write a bs } := by
  rw [← (s.writeBurst_reads a bs.length).mem]
  rfl

theorem State.Reads.withMem {s t : State} (m : Memory) : s.Reads t → ({ s with mem := m } : State).Reads { t with mem := m } := by
  rintro ⟨_, _, _, _, _, _, rfl⟩
  exact ⟨_, _, _, _, _, _, rfl⟩

/-! ### Commit records (R284 to R286) -/

theorem length_recordBytes {r : CRecord} (h : r.ringS.length = 5) : (recordBytes r).length = 64 := by
  simp [recordBytes, recordBody, h, Function.comp_def]

/-- A record that is good as read has its five ring entries. -/
theorem readRecordBytes_ring {bs : List U8} {r : CRecord} (h : readRecordBytes bs = .good r) : r.ringS.length = 5 := by
  unfold readRecordBytes at h
  dsimp only at h
  split at h
  · cases h
  · split at h
    · cases h
    · cases h
      simp

/-- What a free record is claimed as: the shard's first record, or the header's mirror of the last (R285). -/
def State.freeClaim (s : State) (rd : Nat → U8) (j state : Nat) (h : LHeader) : Claim :=
  if h.fresh then .take (s.freshRecord rd j state h)
  else
    match readRecordBytes ((List.range 64).map (fun i => rd (state + 0x40 + i))) with
    | .good m => .take { m with owner := state, job := j, claimed := true }
    | _ => .fail S_L_HEADER

section
variable {s : State} {rd : Nat → U8} {j state : Nat} {h : LHeader} {r : CRecord}

/-- Only a free record is taken (R285). -/
theorem State.claimOf_take : ∀ {x : Option RecordRead}, s.claimOf rd j state h x = .take r → s.freeClaim rd j state h = .take r
  | some .zero, hc => hc
  | some (.good q), hc => by
    unfold State.claimOf at hc
    dsimp only at hc
    split at hc
    · split at hc
      · cases hc
      · cases hc
    · exact hc

theorem State.freeClaim_ring (hc : s.freeClaim rd j state h = .take r) : r.ringS.length = 5 := by
  unfold State.freeClaim at hc
  split at hc
  · cases hc
    rfl
  · split at hc
    case h_1 m hm =>
      cases hc
      exact readRecordBytes_ring (r := m) hm
    case h_2 => cases hc

end

theorem State.recordStream_reads (s : State) (n : Nat) (e : Event) : s.Reads (s.recordStream n e) := s.record_reads _

theorem State.readRecord_reads (s : State) (u stack rec' : Nat) : s.Reads (s.readRecord u stack rec').1 := by
  obtain ⟨e, he⟩ : ∃ e, e = (if s.armed (unitPage u) 0 then s.disarm (unitPage u) 0 else s).eccRead (recordAddr stack rec') 64 := ⟨_, rfl⟩
  have hecc : s.Reads e.1 := by
    rw [he]
    refine State.Reads.trans ?_ (State.eccRead_reads _ _ _)
    split
    · exact (s.disarm_onlyRegs _ _).reads
    · exact .refl s
  unfold State.readRecord
  dsimp only
  rw [← he]
  split
  · exact hecc
  · split
    · have hraise := hecc.trans (State.raise_onlyRegs _ (unitPage u) 0).reads
      split
      · exact hraise.trans (State.recordStream_reads _ _ _)
      · exact hraise
    · exact hecc

/-! ### The checks (R621) -/

/-- What the checks of a first firing may touch: the bytes of the commit record at an address, and what reads at the controllers touch. -/
def State.Checks (a : Nat) (s t : State) : Prop := ∃ m : Memory, (∀ k, (k < a ∨ a + 64 ≤ k) → m.byte k = s.mem.byte k) ∧ ({ s with mem := m } : State).Reads t

theorem State.Reads.checks {s t : State} {a : Nat} (h : s.Reads t) : State.Checks a s t := ⟨s.mem, fun _ _ => rfl, h⟩

theorem State.Checks.reads {a : Nat} {s t v : State} (h : State.Checks a s t) (k : t.Reads v) : State.Checks a s v := by
  obtain ⟨m, hm, hreads⟩ := h
  exact ⟨m, hm, hreads.trans k⟩

theorem State.Checks.byte {a : Nat} {s t : State} (h : State.Checks a s t) {k : Nat} (hk : k < a ∨ a + 64 ≤ k) : t.mem.byte k = s.mem.byte k := by
  obtain ⟨m, hm, hreads⟩ := h
  rw [hreads.mem]
  exact hm k hk

theorem State.Checks.same {a : Nat} {s t : State} (h : State.Checks a s t) : t.streams = s.streams ∧ t.engines = s.engines ∧ t.upds = s.upds := by
  obtain ⟨_, _, _, _, _, _, _, _, rfl⟩ := h
  exact ⟨rfl, rfl, rfl⟩

theorem State.writeRecord_checks {s t : State} (h : s.Reads t) (stack rec' : Nat) {r : CRecord} (hr : r.ringS.length = 5) :
    State.Checks (recordAddr stack rec') s (t.writeRecord stack rec' r) := by
  refine ⟨s.mem.write (recordAddr stack rec') (recordBytes r), fun k hk => Memory.byte_write_outside _ _ _ (by rwa [length_recordBytes hr]), ?_⟩
  rw [State.writeRecord, State.writeMem_eq, h.mem]
  exact (h.trans (State.writeBurst_reads _ _ _)).withMem _

theorem State.holdRecord_checks (s : State) (rd : Nat → U8) (u j state : Nat) (h : LHeader) (write : Bool) :
    State.Checks (recordAddr h.stack h.record) s (s.holdRecord rd u j state h write).1 := by
  have hread := s.readRecord_reads u h.stack h.record
  unfold State.holdRecord
  split
  · exact (State.Reads.refl s).checks
  · dsimp only
    split
    case h_1 => exact hread.checks
    case h_2 => exact hread.checks
    case h_3 r hc =>
      dsimp only
      split
      · exact State.writeRecord_checks hread _ _ (State.freeClaim_ring (State.claimOf_take hc))
      · exact hread.checks

theorem State.Reads.ite_fst {α : Type} {s : State} {p : Prop} [Decidable p] {x y : State × α} (hx : s.Reads x.1) (hy : s.Reads y.1) :
    s.Reads (if p then x else y).1 := by
  split
  · exact hx
  · exact hy

theorem State.lateChecks_reads (s : State) (rd : Nat → U8) (u j : Nat) (g : GNode) (h : LHeader) (r : CRecord) (sa : Nat) :
    s.Reads (s.lateChecks rd u j g h r sa).1 := by
  have hscale : s.Reads (s.scaleOf rd u j sa).1 := s.readRecord_reads u _ _
  unfold State.lateChecks
  refine .ite_fst (.refl s) (.ite_fst (.refl s) (.ite_fst (.refl s) (.ite_fst (.refl s) ?_)))
  dsimp only
  split <;> exact hscale

/-- The two outcomes of R621: a failure, or the record held by an UPDATE at its start. -/
theorem State.firstChecks_spec (s : State) (rd : Nat → U8) (u n node : Nat) (b : Bound) (g : GNode) (state extent sa : Nat) :
    let h := readHeader rd state
    (∀ t code, s.firstChecks rd u n node b g state extent sa = .fail t code → State.Checks (recordAddr h.stack h.record) s t) ∧
    (∀ t v, s.firstChecks rd u n node b g state extent sa = .held t v → State.Checks (recordAddr h.stack h.record) s t ∧
      v.stream = n ∧ v.node = node ∧ v.lathe = u - 819 ∧ v.step = g.step ∧ v.retained = 0 ∧ v.applied = 0) := by
  intro h
  have hhold := s.holdRecord_checks rd u (s.stream n).job state h (decide (g.sub ≠ 62))
  have hlate (r : CRecord) := hhold.reads (State.lateChecks_reads _ rd u (s.stream n).job g h r sa)
  unfold State.firstChecks
  dsimp only
  split
  case h_1 => exact ⟨fun t code heq => by cases heq; exact (State.Reads.refl s).checks, fun t v heq => nomatch heq⟩
  case h_2 =>
    split
    case h_1 => exact ⟨fun t code heq => by cases heq; exact hhold, fun t v heq => nomatch heq⟩
    case h_2 => exact ⟨fun t code heq => by cases heq; exact hhold, fun t v heq => nomatch heq⟩
    case h_3 r _ _ =>
      split
      case h_1 => exact ⟨fun t code heq => by cases heq; exact hlate r, fun t v heq => nomatch heq⟩
      case h_2 => exact ⟨fun t code heq => (nomatch heq), fun t v heq => by cases heq; exact ⟨hlate r, rfl, rfl, rfl, rfl, rfl, rfl⟩⟩

end Sys2Proof.Machine
end

section
/-! Proofs: UPDATE_FIRST_FIRING (R276, R277, R282, R285, R306, R621): it fails with the code of its check, or holds its shard's record. -/

namespace Sys2Proof.Machine

theorem exec_updateFirstFiring (l : Fin 3) (n : Fin 16384) (node : Nat) (s : State) : exec (.updateFirstFiring l n node) s =
    .next (if (s.beginPart l.val n.val node .first 0).2 then (s.beginPart l.val n.val node .first 0).1.firstFiring (819 + l.val)
      else (s.beginPart l.val n.val node .first 0).1) := rfl

/-- Bytes of a node's STATE tensor. -/
def Program.stateExtent (p : Program) (i : Nat) (g : GNode) : Nat :=
  match p.stateOf i g with
  | some t => t.exts.headD 0
  | none => 0

/-- Only an UPDATE or a SHADOW has a STATE tensor (R95). -/
theorem Program.stateOf_op {p : Program} {i : Nat} {g : GNode} (h : p.stateExtent i g ≠ 0) : 8 ≤ g.op := by
  by_contra hop
  have h8 : g.op ≠ opUpdate := fun e => hop (by rw [e]; decide)
  have h9 : g.op ≠ opShadow := fun e => hop (by rw [e]; decide)
  have hport : statePort g.op = none := by rw [statePort, if_neg h8, if_neg h9]
  have hnone : p.stateOf i g = none := by
    unfold Program.stateOf
    rw [hport]
  exact h (by rw [Program.stateExtent, hnone])

theorem LHeader.extent_of_not_broken {h : LHeader} {extent : Nat} (hb : h.broken extent = false) : extent ≠ 0 := by
  have hfits : stateBytes h.nmom h.n h.late ≤ extent := by
    by_contra hsmall
    have : h.broken extent = true := by
      rw [LHeader.broken, decide_eq_true (Nat.lt_of_not_le hsmall), Bool.or_true]
    rw [this] at hb
    cases hb
  have hpos : 2048 ≤ stateBytes h.nmom h.n h.late := by
    unfold stateBytes ringOffset
    omega
  omega

/-- An UPDATE or a SHADOW is what a header can fit. -/
theorem State.headerBad_op {s : State} {rd : Nat → U8} {n node a : Nat} {b : Bound} {g : GNode}
    (h : s.headerBad rd n node b g a (b.prog.stateExtent node g) = false) : 8 ≤ g.op := by
  obtain ⟨hbroken, _⟩ := Bool.or_eq_false_iff.mp h
  exact Program.stateOf_op (LHeader.extent_of_not_broken hbroken)

section
variable {c : State} {u : Nat} {r : Running} {b : Bound} {y : BNode} {g : GNode} {a extent : Nat}
  (hf : c.firingOf u = some (r, b, y)) (hg : b.prog.nodes[y.node]? = some g) (ha : c.stateAddr (c.stream r.stream).job b.prog y.node g = a)
  (hext : b.prog.stateExtent y.node g = extent)
  (hhead : c.gather u (c.stream r.stream).job (headerReads a) [] = (c, true)) (hright : c.wrongLathe u r.stream (c.rdAt u) a = false)
include hf hg ha hext hhead hright

/-- A first firing whose header is bad fails (R282, R621). -/
theorem State.firstFiring_bad (hbad : c.headerBad (c.rdAt u) r.stream y.node b g a extent = true) : c.firstFiring u = c.failFiring u S_L_HEADER := by
  unfold State.firstFiring
  unfold Program.stateExtent at hext
  cases ho : b.prog.stateOf y.node g <;> simp only [ho] at hext <;> subst hext <;>
    simp only [hf, hg, ha, ho, hhead, hright, hbad, Bool.not_true, Bool.false_eq_true, if_false, if_true]

/-- One whose header fits and whose other reads are in place as well ends with the checks of R621. -/
theorem State.firstFiring_checked {sa : Nat} (hbad : c.headerBad (c.rdAt u) r.stream y.node b g a extent = false)
    (hsa : c.locAddr (c.stream r.stream).job (readHeader (c.rdAt u) a).scaleLoc = sa)
    (hscale : (readHeader (c.rdAt u) a).scaleLoc ≠ 0 → c.gather u (c.stream r.stream).job (headerReads sa) [] = (c, true))
    (hclaim : c.gather u (c.stream r.stream).job
      (if (c.preChecks (c.rdAt u) r.stream y.node b g a extent sa).isSome then [] else c.claimReads u a (readHeader (c.rdAt u) a)) [] = (c, true))
    (hweight : c.gather u (c.stream r.stream).job (c.weightReads (c.rdAt u) u r.stream y.node b g a extent sa) [] = (c, true)) :
    c.firstFiring u = c.firstEnd u r b y g a extent sa := by
  have hscaled : (if (readHeader (c.rdAt u) a).scaleLoc = 0 then (c, true) else c.gather u (c.stream r.stream).job (headerReads sa) []) = (c, true) := by
    split
    · rfl
    · exact hscale ‹_›
  unfold State.firstFiring
  unfold Program.stateExtent at hext
  cases ho : b.prog.stateOf y.node g <;> simp only [ho] at hext <;> subst hext <;>
    simp only [hf, hg, ha, ho, hhead, hright, hbad, hsa, hscaled, hclaim, hweight, Bool.not_true, Bool.false_eq_true, if_false]

end

section
variable {c t : State} {u sa a extent : Nat} {r : Running} {b : Bound} {y : BNode} {g : GNode}

theorem State.Checks.firingOf {p : Nat} (h : State.Checks p c t) : t.firingOf u = c.firingOf u := by
  obtain ⟨_, _, _, _, _, _, _, _, rfl⟩ := h
  rfl

/-- A firing that fails leaves its Lathe at a boundary and memory as it was, and fails its RUNNING stream (R403). -/
theorem State.failFiring_spec {code : U16} (hf : t.firingOf u = some (r, b, y)) :
    ((t.failFiring u code).engine u).cur = none ∧ (t.failFiring u code).mem = t.mem ∧
      ((t.stream r.stream).st = .running → (t.failFiring u code).failedWith r.stream code (unitField u)) := by
  obtain ⟨hcur, _, _⟩ := State.firingOf_eq_some hf
  exact ⟨State.failFiring_idle code hcur, State.failFiring_mem code hcur, fun hst => State.failFiring_fails code hcur (.inr (.inl hst))⟩

theorem State.firstEnd_fail {code : U16} (h : c.firstChecks (c.rdAt u) u r.stream y.node b g a extent sa = .fail t code) (hcode : code ≠ S_MEM_UNCORR) :
    c.firstEnd u r b y g a extent sa = t.failFiring u code := by
  unfold State.firstEnd
  rw [h]
  exact if_neg hcode

/-- An UPDATE of a step already committed that has no cast copy to make (R307). -/
def Upd.nothingToDo (v : Upd) (g : GNode) : Bool := v.castOnly && !v.hasCast && decide (g.sub ≠ 62)

theorem Upd.nothingToDo_false {v : Upd} {g : GNode} (h : v.castOnly = false ∨ v.hasCast = true ∨ g.sub = 62) : v.nothingToDo g = false := by
  rcases h with h | h | h <;> simp [Upd.nothingToDo, h]

theorem State.firstEnd_held {v : Upd} (h : c.firstChecks (c.rdAt u) u r.stream y.node b g a extent sa = .held t v) :
    c.firstEnd u r b y g a extent sa =
      if v.nothingToDo g then ({ t with upds := t.upds ++ [v] } : State).nodeEnd u r.stream y.node [] 0
      else (({ t with upds := t.upds ++ [v] } : State).partDone u 0).noteContribs c (c.stream r.stream).job := by
  unfold State.firstEnd
  rw [h]
  rfl

theorem State.updOf_append {v : Upd} (h : c.updOf v.stream v.node = none) : ({ c with upds := c.upds ++ [v] } : State).updOf v.stream v.node = some v := by
  unfold State.updOf at h ⊢
  rw [List.find?_append, h]
  simp

/-- A first firing that passes its checks leaves its Lathe at a boundary, and memory as the checks leave it; where the UPDATE has anything to do and its stream goes on, it holds its record. -/
theorem State.firstEnd_held_spec {v : Upd} (hf : t.firingOf u = some (r, b, y)) (hg : b.prog.nodes[y.node]? = some g) (hop : 8 ≤ g.op)
    (hfree : t.updOf v.stream v.node = none) (h : c.firstChecks (c.rdAt u) u r.stream y.node b g a extent sa = .held t v) :
    ((c.firstEnd u r b y g a extent sa).engine u).cur = none ∧ (c.firstEnd u r b y g a extent sa).mem = t.mem ∧
      ((t.stream r.stream).over = false → y.revoked = false → v.nothingToDo g = false → (c.firstEnd u r b y g a extent sa).updOf v.stream v.node = some v) := by
  rw [State.firstEnd_held h]
  split
  case isTrue hdone =>
    obtain ⟨hmem, hidle⟩ := State.finishFiring_spec (s := ({ t with upds := t.upds ++ [v] } : State).dropUpd r.stream y.node) hf hg hop [] { flags := 0 }
    exact ⟨hidle, hmem, fun _ _ hsome => by simp [hsome] at hdone⟩
  case isFalse =>
    obtain ⟨hmem, hidle, hupds⟩ := State.partDone_spec (s := { t with upds := t.upds ++ [v] }) hf 0
    have hnote := (({ t with upds := t.upds ++ [v] } : State).partDone u 0).noteContribs_settles c u (c.stream r.stream).job
    refine ⟨hnote.idle hidle, hnote.mem.trans hmem, fun hover hrev _ => ?_⟩
    have hkept := State.updOf_append hfree
    rwa [State.updOf, ← (hnote.upds.trans (hupds hover hrev))] at hkept

end

/-- Settles O30: the checks of R621 touch the claimed record alone, and each of their outcomes ends the firing in one way. -/
theorem updateFirstFiringHoldsRecord : Obligations.UpdateFirstFiringHoldsRecord := by
  unfold Obligations.UpdateFirstFiringHoldsRecord
  rintro l n node s u p c hgo ⟨r, b, y⟩ hf g hg r' b' y' x a extent h sa rd hhead hright hfree
  have hexec : exec (.updateFirstFiring l n node) s = .next (c.firstFiring u) := (exec_updateFirstFiring l n node s).trans (congrArg _ (if_pos hgo))
  refine ⟨fun hbad => ?_, fun hbad hscale hclaim hweight => ⟨fun c' code hfail hcode => ?_, fun c' v hheld => ?_⟩⟩
  · obtain ⟨hidle, hmem, hfails⟩ := State.failFiring_spec (code := S_L_HEADER) hf
    exact ⟨_, hexec.trans (congrArg _ (State.firstFiring_bad hf hg rfl rfl hhead hright hbad)), hidle, hmem, hfails⟩
  · have hchecked := State.firstFiring_checked hf hg rfl rfl hhead hright hbad rfl hscale hclaim hweight
    have hchecks := (c.firstChecks_spec rd u r.stream y.node b g a extent sa).1 c' code hfail
    obtain ⟨hidle, hmem, hfails⟩ := State.failFiring_spec (code := code) (hchecks.firingOf.trans hf)
    refine ⟨_, hexec.trans (congrArg _ (hchecked.trans (State.firstEnd_fail hfail hcode))), hidle, hmem, fun hst => hfails ?_⟩
    rwa [State.stream_congr hchecks.same.1]
  · have hchecked := State.firstFiring_checked hf hg rfl rfl hhead hright hbad rfl hscale hclaim hweight
    obtain ⟨hchecks, hstream, hnode, hlathe, hstep, hretained, happlied⟩ := (c.firstChecks_spec rd u r.stream y.node b g a extent sa).2 c' v hheld
    obtain ⟨hstreams, _, hupds⟩ := hchecks.same
    obtain ⟨hidle, hmem, hholds⟩ := State.firstEnd_held_spec (hchecks.firingOf.trans hf) hg (State.headerBad_op hbad)
      (by rw [hstream, hnode, State.updOf, hupds]; exact hfree) hheld
    refine ⟨_, hexec.trans (congrArg _ hchecked), hidle, hmem, fun k hk => ?_, hstream, hnode, ?_, hstep, hretained, happlied, fun hover hrev hsome => ?_⟩
    · exact (congrArg (fun m => m.byte k) hmem).trans (hchecks.byte hk)
    · rw [hlathe]
      exact Nat.add_sub_cancel_left 819 l.val
    · rw [hstream, hnode] at hholds
      exact hholds (by rwa [State.stream_congr hstreams]) hrev (Upd.nothingToDo_false hsome)

end Sys2Proof.Machine
end

section
/-! Proofs: the later parts of UPDATE, VERDICT and SHADOW nodes (R292, R298, R303, R315). O31, O32 and O33 fail in one place, shown here. Each has the last firing of a node change nothing in memory but what the part writes, in every state in which a Lathe is at work on the part. The model puts the blocks of a completed firing into the SRAM slots of its output edges (R20, R225) where the node is of an OP below UPDATE; an UPDATE, a VERDICT and a SHADOW have none to put there. That the node at work is one of these is checked as a Lathe takes its slot up, and none of the three clauses asks for it again: a state may have a Lathe in the middle of a part of another node, whose last firing then writes SRAM beside what the part writes. -/

namespace Sys2Proof.Machine

namespace ForeignPart

/-- One INT8 element in INTERNAL storage. -/
def tensor : Tensor := ⟨dInt8, 1, 1, 0, 0, [1, 0, 0, 0, 0, 0], 0, 0, 0, 0, 0⟩

def reduce : GNode := ⟨opReduce, 0, 0, 1, 1, 0, 0, 0, 0, 0, 0, []⟩

/-- Two REDUCE nodes, of which node 1 reads the tensor. -/
def program : Program :=
  { addr := 0, imageBytes := 0, noCache := true, requiredCaps := 0, scratchLoc := 0, scratchBytes := 0, constAddr := 0, constBytes := 0
    tensors := [tensor], shards := [], nodes := [reduce, reduce], edges := [⟨0, 0xFFFF, 1, 0, 0⟩], hints := [], outputs := [] }

/-- A node's slot on the Lathe of base die 0, with one firing that forms the tensor's block. -/
def slot (node : Nat) : BNode := ⟨819, node, node, node, (0, 0), [[⟨0, 0, 1⟩]], 0, false, false, false, 0, (.unsaid, 0)⟩

/-- Slot 0 hands the tensor's block to slot 1 at the start of tile SRAM; the tensor lies at 0x8000. -/
def bound : Bound := ⟨program, [slot 0, slot 1], [⟨0, 1, 1, tileBase, 1, false, [], 0, 0⟩], [(0, 0x8000, 2048)], [], []⟩

/-- Slot 0's firing on the Lathe, in the middle of a part, with its credit taken. -/
def running (part : LathePart × Nat) : Running := ⟨0, 0, false, [], [], false, 0, (false, true), part⟩

/-- Node 0 holds record 0 of stack 0 for a shard of four elements at 0x4000, of a version that stays. -/
def upd : Upd :=
  { stream := 0, node := 0, lathe := 0, stack := 0, record := 0, state := 0x4000, hdr := ⟨0x5348544C, 1, 1, 1, 4, 0, 0, 0, 0, 1, 0, 0, 0, true⟩
    found := ⟨0x4000, 0, true, 1, 0, false, 1, 0, 0, [0, 0, 0, 0, 0], 0, 0, 0⟩, step := 1, applies := none
    castOnly := true, scale := 0, retained := 0, applied := 0, ringOvf := false, digest := 0 }

/-- Job 0 may read and write what the parts do; the tensor's element is 1. The flash is empty, for states to be compared. -/
def state (part : LathePart × Nat) : State :=
  { State.reset with
    streams := [(0, { Stream.fresh with st := .running, bound := some bound })], engines := [(819, { Engine.idle with cur := some (running part) })]
    upds := [upd], mem := ⟨[(0x8000, 1)], [], []⟩, regions := [(0, ⟨0, 0xF800, true, true, true⟩)], dies := [(12, { DieSt.unpowered with up := true })]
    flash := { State.reset.flash with settings := [], romKeys := [], certChain := [] } }

/-- The first byte of tile SRAM after a step. -/
def staged : Res → U8
  | .next t => t.mem.byte tileBase
  | _ => 0

theorem partAt (part : LathePart × Nat) : (state part).partAt 819 = some (running part, bound, slot 0, reduce, upd) := by rfl

/-! ### Each part's reads are in place, and its firing writes tile SRAM -/

theorem gathered_apply : (state (.apply, 1)).gather 819 0 (upd.applyReads 0 4) [] = (state (.apply, 1), true) := by decide +kernel

theorem staged_apply : staged (exec (.latheApplyFiring 0 0 0 1) (state (.apply, 1))) = 1 := by decide +kernel

theorem gathered_commit : (state (.commit, 0)).gather 819 0 [] [⟨upd.state + 0x40, 64, false, false⟩] = (state (.commit, 0), true) := by decide +kernel

theorem staged_commit : staged (exec (.latheCommitFiring 0 0 0) (state (.commit, 0))) = 1 := by decide +kernel

theorem gathered_verdict : (state (.verdict, 0)).gather 819 0 [⟨0, 2, false, true⟩] [] = (state (.verdict, 0), true) := by decide +kernel

theorem staged_verdict : staged (exec (.verdict 0 0 0) (state (.verdict, 0))) = 1 := by decide +kernel

/-- Memory that has not been written there has 0 at the start of tile SRAM. -/
theorem byte_before (part : LathePart × Nat) : (state part).mem.byte tileBase = 0 := rfl

end ForeignPart

/-- Refutes O31: the last apply firing of a node that is no UPDATE puts its blocks into the slots of its output edges. -/
theorem not_retainAndApplyWriteTheShard : ¬ Obligations.RetainAndApplyWriteTheShard := by
  unfold Obligations.RetainAndApplyWriteTheShard
  intro h
  obtain ⟨_, happly⟩ := h 0 0 0 1 (ForeignPart.state (.apply, 1))
  obtain ⟨t, hexec, _, hmem, _⟩ := happly rfl _ (ForeignPart.partAt _) ForeignPart.gathered_apply (fun _ hz => nomatch hz) rfl rfl
  have hstaged : t.mem.byte tileBase = 1 := by
    have h := ForeignPart.staged_apply
    rwa [hexec] at h
  have hkept : t.mem.byte tileBase = 0 := by
    rw [hmem]
    exact ForeignPart.byte_before _
  exact absurd (hkept.symm.trans hstaged) (by decide)

/-- Refutes O32: so does the commit firing of such a node. -/
theorem not_commitWritesTheRecord : ¬ Obligations.CommitWritesTheRecord := by
  unfold Obligations.CommitWritesTheRecord
  rintro ⟨_, hcommit⟩
  obtain ⟨t, hexec, _, _, hmem, _⟩ := hcommit 0 0 0 (ForeignPart.state (.commit, 0)) rfl _ (ForeignPart.partAt _) ForeignPart.gathered_commit rfl rfl
  have hstaged : t.mem.byte tileBase = 1 := by
    have h := ForeignPart.staged_commit
    rwa [hexec] at h
  have hkept : t.mem.byte tileBase = 0 := by
    rw [hmem, Memory.byte_write_outside _ _ _ (.inr (by decide +kernel)), Memory.byte_write_outside _ _ _ (.inr (by decide +kernel))]
    exact ForeignPart.byte_before _
  exact absurd (hkept.symm.trans hstaged) (by decide)

/-- Refutes O33: so does the VERDICT firing of such a node. -/
theorem not_verdictAndShadow : ¬ Obligations.VerdictAndShadow := by
  unfold Obligations.VerdictAndShadow
  intro h
  obtain ⟨hverdict, _⟩ := h 0 0 0 (ForeignPart.state (.verdict, 0))
  obtain ⟨t, hexec, _, _, _, hmem⟩ := hverdict rfl _ (ForeignPart.partAt _) ForeignPart.gathered_verdict (fun _ hw => nomatch hw)
  have hstaged : t.mem.byte tileBase = 1 := by
    have h := ForeignPart.staged_verdict
    rwa [hexec] at h
  have hkept : t.mem.byte tileBase = 0 := by
    rw [hmem rfl]
    exact ForeignPart.byte_before _
  exact absurd (hkept.symm.trans hstaged) (by decide)

end Sys2Proof.Machine
end

section
/-! Proofs: fields of byte records, and a frame's header as bytes (R331): four little-endian words, each field at its place in one of them. -/

namespace Sys2Proof.Machine

/-! ### Fields at the front of a record and behind it -/

theorem recField_head {n v : Nat} (bs : List U8) (hv : v < 256 ^ n) : recField (leBytes n v ++ bs) 0 n = v := by
  rw [recField, List.drop_zero, List.take_left' (length_leBytes n v), leNat_leBytes, Nat.mod_eq_of_lt hv]

theorem recField_tail {n o : Nat} (v k : Nat) (bs : List U8) (h : n ≤ o) : recField (leBytes n v ++ bs) o k = recField bs (o - n) k := by
  obtain ⟨d, rfl⟩ := Nat.exists_eq_add_of_le h
  rw [recField, recField, ← List.drop_drop, List.drop_left' (length_leBytes n v), Nat.add_sub_cancel_left]

/-! ### The header's words -/

/-- Whether a frame's fields fit the widths that the header has for them, and its LEN the payload (R331). -/
structure Frame.Fits (f : Frame) : Prop where
  type : f.type < 16
  cls : f.cls < 4
  dst : f.dst < 2 ^ 18
  src : f.src < 2 ^ 18
  hops : f.hops < 16
  cseq : f.cseq < 2 ^ 24
  group : f.group < 2 ^ 16
  srcRank : f.srcRank < 2 ^ 10
  phase : f.phase < 4
  offset : f.offset < 2 ^ 48
  req : f.req < 2 ^ 16
  len : f.payload.length ≤ 2048

/-- The words of a header whose fields fit. -/
def Frame.word0 (f : Frame) : Nat :=
  f.type + f.cls * 2 ^ 4 + (if f.bcast then 2 ^ 6 else 0) + f.dst * 2 ^ 8 + f.src * 2 ^ 26 + f.hops * 2 ^ 44 + f.payload.length * 2 ^ 48
def Frame.word1 (f : Frame) : Nat := f.jobKey.toNat + f.cseq * 2 ^ 32
def Frame.word2 (f : Frame) : Nat := f.group + f.srcRank * 2 ^ 16 + f.phase * 2 ^ 26 + f.grain.toNat * 2 ^ 32
def Frame.word3 (f : Frame) : Nat := f.offset + f.req * 2 ^ 48

/-- Bits `lo` to `lo + n - 1` of a word. -/
def wordBits (w lo n : Nat) : Nat := w / 2 ^ lo % 2 ^ n

section
variable {f : Frame} (h : f.Fits)
include h

theorem Frame.Fits.bytes : f.bytes = leBytes 8 f.word0 ++ (leBytes 8 f.word1 ++ (leBytes 8 f.word2 ++ (leBytes 8 f.word3 ++ f.payload))) := by
  have hlen : f.payload.length < 2 ^ 12 := Nat.lt_of_le_of_lt h.len (by decide)
  simp only [Frame.bytes, Frame.word0, Frame.word1, Frame.word2, Frame.word3, Nat.mod_eq_of_lt h.type, Nat.mod_eq_of_lt h.cls,
    Nat.mod_eq_of_lt h.dst, Nat.mod_eq_of_lt h.src, Nat.mod_eq_of_lt h.hops, Nat.mod_eq_of_lt h.cseq, Nat.mod_eq_of_lt h.group,
    Nat.mod_eq_of_lt h.srcRank, Nat.mod_eq_of_lt h.phase, Nat.mod_eq_of_lt h.offset, Nat.mod_eq_of_lt h.req, Nat.mod_eq_of_lt hlen, List.append_assoc]

theorem Frame.Fits.length_bytes : f.bytes.length = 32 + f.payload.length := by
  rw [h.bytes]
  simp only [List.length_append, length_leBytes]
  omega

theorem Frame.Fits.payload_bytes : f.bytes.drop 32 = f.payload := by
  rw [h.bytes, show (32 : Nat) = 8 + (8 + (8 + 8)) from rfl]
  simp only [← List.drop_drop, List.drop_left' (length_leBytes 8 _)]

theorem Frame.Fits.words_bytes : recField f.bytes 0 8 = f.word0 ∧ recField f.bytes 8 8 = f.word1 ∧ recField f.bytes 16 8 = f.word2 ∧ recField f.bytes 24 8 = f.word3 := by
  rw [h.bytes]
  obtain ⟨htype, hcls, hdst, hsrc, hhops, hcseq, hgroup, hrank, hphase, hoffset, hreq, hlen⟩ := h
  have hb : (if f.bcast then 2 ^ 6 else 0) ≤ 2 ^ 6 := by split <;> omega
  have hkey := f.jobKey.isLt
  have hgrain := f.grain.isLt
  have h0 : f.word0 < 256 ^ 8 := by unfold Frame.word0; omega
  have h1 : f.word1 < 256 ^ 8 := by unfold Frame.word1; omega
  have h2 : f.word2 < 256 ^ 8 := by unfold Frame.word2; omega
  have h3 : f.word3 < 256 ^ 8 := by unfold Frame.word3; omega
  simp [recField_tail, recField_head _ h0, recField_head _ h1, recField_head _ h2, recField_head _ h3]

/-! ### Fields read back -/

theorem Frame.Fits.bits_word0 : wordBits f.word0 0 4 = f.type ∧ wordBits f.word0 4 2 = f.cls ∧ wordBits f.word0 6 1 = f.bcast.toNat ∧ wordBits f.word0 7 1 = 0 ∧
    wordBits f.word0 8 18 = f.dst ∧ wordBits f.word0 26 18 = f.src ∧ wordBits f.word0 44 4 = f.hops ∧ wordBits f.word0 48 12 = f.payload.length ∧ wordBits f.word0 60 4 = 0 := by
  obtain ⟨htype, hcls, hdst, hsrc, hhops, -, -, -, -, -, -, hlen⟩ := h
  have hb : (if f.bcast then 2 ^ 6 else 0) = f.bcast.toNat * 2 ^ 6 := by cases f.bcast <;> rfl
  have hlt := Bool.toNat_lt f.bcast
  unfold wordBits Frame.word0
  rw [hb]
  refine ⟨?_, ?_, ?_, ?_, ?_, ?_, ?_, ?_, ?_⟩ <;> omega

theorem Frame.Fits.bits_word1 : wordBits f.word1 32 24 = f.cseq ∧ wordBits f.word1 56 8 = 0 ∧ BitVec.ofNat 32 f.word1 = f.jobKey := by
  have hcseq := h.cseq
  have hkey := f.jobKey.isLt
  unfold wordBits Frame.word1
  refine ⟨by omega, by omega, BitVec.eq_of_toNat_eq ?_⟩
  rw [BitVec.toNat_ofNat]
  omega

theorem Frame.Fits.bits_word2 : wordBits f.word2 0 16 = f.group ∧ wordBits f.word2 16 10 = f.srcRank ∧ wordBits f.word2 26 2 = f.phase ∧ wordBits f.word2 28 4 = 0 ∧
    BitVec.ofNat 32 (wordBits f.word2 32 32) = f.grain := by
  obtain ⟨-, -, -, -, -, -, hgroup, hrank, hphase, -, -, -⟩ := h
  have hgrain := f.grain.isLt
  unfold wordBits Frame.word2
  refine ⟨by omega, by omega, by omega, by omega, BitVec.eq_of_toNat_eq ?_⟩
  rw [BitVec.toNat_ofNat]
  omega

theorem Frame.Fits.bits_word3 : wordBits f.word3 0 48 = f.offset ∧ wordBits f.word3 48 16 = f.req := by
  have hoffset := h.offset
  have hreq := h.req
  unfold wordBits Frame.word3
  constructor <;> omega

theorem Frame.Fits.parse_bytes (hclean : f.clean = true) : parseFrame f.bytes = f := by
  obtain ⟨h0, h1, h2, h3⟩ := h.words_bytes
  obtain ⟨htype, hcls, hbcast, h7, hdst, hsrc, hhops, hlen, h60⟩ := h.bits_word0
  obtain ⟨hcseq, h56, hkey⟩ := h.bits_word1
  obtain ⟨hgroup, hrank, hphase, h28, hgrain⟩ := h.bits_word2
  obtain ⟨hoffset, hreq⟩ := h.bits_word3
  have hlong : 32 ≤ f.bytes.length := by rw [h.length_bytes]; omega
  have hpay := h.payload_bytes
  have hbit : decide (f.bcast.toNat = 1) = f.bcast := by cases f.bcast <;> rfl
  unfold recField at h0 h1 h2 h3
  unfold wordBits at *
  unfold parseFrame
  simp only [h0, h1, h2, h3, hpay, htype, hcls, hbcast, h7, hdst, hsrc, hhops, hlen, h60, hcseq, h56, hkey, hgroup, hrank, hphase, h28, hgrain, hoffset, hreq,
    hlong, hbit, decide_true, Bool.and_self]
  rw [← hclean]

end

theorem parseFrame_wellFormed {bs : List U8} (h : (parseFrame bs).wellFormed = true) :
    (parseFrame bs).clean = true ∧ 1 ≤ (parseFrame bs).type ∧ (parseFrame bs).type ≤ 12 := by
  simp only [Frame.wellFormed, Bool.and_eq_true, decide_eq_true_eq] at h
  exact ⟨h.1.2, h.1.1.1.1.1, h.1.1.1.1.2⟩

/-- Settles O39: the four words of the header, each field at its place, and what a clean frame has. -/
theorem frameBytesRoundTrip : Obligations.FrameBytesRoundTrip := by
  unfold Obligations.FrameBytesRoundTrip
  refine ⟨fun f htype hcls hdst hsrc hhops hcseq hgroup hrank hphase hoffset hreq hlen hclean => ?_, fun bs => ?_⟩
  · have h : f.Fits := ⟨htype, hcls, hdst, hsrc, hhops, hcseq, hgroup, hrank, hphase, hoffset, hreq, hlen⟩
    obtain ⟨h0, h1, h2, h3⟩ := h.words_bytes
    exact ⟨h.length_bytes, h.parse_bytes hclean, h0, h1, h2, h3, h.payload_bytes⟩
  · dsimp only
    intro hwell
    obtain ⟨hclean, hlo, hhi⟩ := parseFrame_wellFormed hwell
    simp only [parseFrame, Bool.and_eq_true, decide_eq_true_eq, List.length_drop] at hclean
    obtain ⟨⟨⟨⟨⟨h7, h60⟩, h56⟩, h28⟩, hlen⟩, hlong⟩ := hclean
    exact ⟨h7, h60, h56, h28, by omega, hlo, hhi⟩

end Sys2Proof.Machine
end

section
/-! Proofs: LINK_DOWN at the twin link's port (R343, R370). O36 fails in one place, shown here: where the twin link stops mirroring, the statement has the line of commits empty, and the model keeps what is not mirrored in line, as R370 counts it in TWN_STATUS. -/

namespace Sys2Proof.Machine

namespace TwinStopped

/-- A commit still to mirror. -/
def commit : MirrorJob := ⟨0, 1, 0, [], none⟩

/-- Port 0 is up and the twin link's, which mirrors and has one commit in line. -/
def state : State :=
  { State.reset with
    regs := [(Page.twn.base + 0x040, 1)], twin := { TwinSt.off with mirroring := true, queue := [commit] }
    ports := [(0, { Port.disabled with up := true, train := 5 })] }

theorem port_up : (state.port (0 : Fin 12).val).up = true ∧ (state.port (0 : Fin 12).val).train ≠ 0 := by decide +kernel

theorem queue_empty : (state.port (0 : Fin 12).val).queue = [] := by decide +kernel

theorem twin_here : state.twinOn = true ∧ state.twinPort = (0 : Fin 12).val := by decide +kernel

/-- The commits in line after a step. -/
def inLine : Res → List MirrorJob
  | .next t => t.twin.queue
  | _ => []

theorem inLine_linkDown : inLine (exec (.linkDown 0) state) = [commit] := by decide +kernel

end TwinStopped

/-- Refutes O36: a commit in line stays in line when the twin link's port goes down. -/
theorem not_linkDownAndPortControls : ¬ Obligations.LinkDownAndPortControls := by
  unfold Obligations.LinkDownAndPortControls
  intro h
  obtain ⟨hdown, _⟩ := h 0 TwinStopped.state
  obtain ⟨_, _, _, htwin⟩ := hdown TwinStopped.port_up.1 TwinStopped.port_up.2
  obtain ⟨t, hexec, hclear, _⟩ := htwin TwinStopped.queue_empty TwinStopped.twin_here.1 TwinStopped.twin_here.2 rfl
  have hkept : t.twin.queue = [TwinStopped.commit] := by
    have hline := TwinStopped.inLine_linkDown
    rwa [hexec] at hline
  have hempty : t.twin.queue = [] := by rw [hclear]
  exact absurd (hempty.symm.trans hkept) (by decide)

end Sys2Proof.Machine
end

section
/-! Proofs: UNIT_SEND for a job without quorum (R386). O38 fails in one place, shown here: its oldest frame of a class is taken of the whole queue, and a collective's frame of a job whose slot has no quorum may not leave. -/

namespace Sys2Proof.Machine

namespace HeldByQuorum

/-- A COLL_READY of the module's own for endpoint 6, of the job of key 77. -/
def ready : Frame := frameOf ftCollReady 1 6 0 77 []

/-- Port 0 is up with credits and the frame in its queue; job 0 has key 77 and a quorum slot without quorum. -/
def state : State :=
  { State.reset with
    keytab := [(0, 77)], jobs := [(0, { jobDefault 0 with valid := true })], slots := [(0, { Slot.empty with valid := true })]
    ports := [(0, { Port.disabled with up := true, train := 5, credits := [128, 128, 128, 128], queue := [ready] })] }

theorem port_up : (state.port (0 : Fin 12).val).up = true := by decide +kernel

/-- LSEQ of the next DATA unit at port 0 after a step. -/
def nextSeq : Res → Nat
  | .next t => (t.port 0).txSeq
  | _ => 0

theorem nextSeq_unitSend : nextSeq (exec (.unitSend 0) state) = 1 := by decide +kernel

end HeldByQuorum

/-- Refutes O38: a COLL_READY that has credit stays in the queue while its job lacks quorum. -/
theorem not_unitsSent : ¬ Obligations.UnitsSent := by
  unfold Obligations.UnitsSent
  intro h
  obtain ⟨_, hsend, _⟩ := h 0 HeldByQuorum.state HeldByQuorum.port_up
  obtain ⟨t, hexec, _, hseq, _⟩ := hsend HeldByQuorum.ready (by decide +kernel) (by decide +kernel) (by decide +kernel) (by decide +kernel)
  have hkept : (t.port 0).txSeq = 1 := by
    have hstays := HeldByQuorum.nextSeq_unitSend
    rwa [hexec] at hstays
  have hmoved : (t.port 0).txSeq = 2 := hseq
  exact absurd (hkept.symm.trans hmoved) (by decide)

end Sys2Proof.Machine
end

section
/-! Proofs: READ_REQ and TWIN frames into the Window Map region (R232, R358). O42 and O46 fail in one place each, shown here, and it is that of O41: their clauses on an admitted frame ask for a window and a region of the job over the range and memory that is up, and no inbound access lands in the Window Map region (log entry 52). -/

namespace Sys2Proof.Machine

namespace WindowInbound

/-- A READ_REQ of the module itself for the 64 bytes of window 0 of the job of key 77. -/
def readReq : Frame := frameOf ftReadReq 2 5 5 77 (leBytes 4 64 ++ leBytes 4 0)

/-- A TWIN frame of one byte for the same window. -/
def twin : Frame := { frameOf ftTwin 2 5 5 77 [1] with grain := crc32c [1] }

/-- INBOUND window 0 of job 0, in all phases, for reads and writes: one block at the start of the Window Map region. -/
def entry : WEntry := ⟨.inbound, 0xF, 0, 0, 1, 0, windowBase, 0, true, true, 0, []⟩

/-- The module calls itself 5 and has the frame to deliver; job 0 has key 77 and a region for reads and writes over the window's block. -/
def state (f : Frame) : State :=
  { State.reset with
    regs := [(Page.wwyMod.base + 0x040, 5)], keytab := [(0, 77)], looped := [f]
    jobs := [(0, { jobDefault 0 with valid := true })], regions := [(0, ⟨windowBase, windowBase, true, true, true⟩)], wmap := [(0, [entry])] }

theorem memoryUp (f : Frame) : (state f).memDown windowBase = false := rfl

theorem delivered_readReq : (state readReq).frameFor (0 : Fin 12).val ftReadReq = some (12, readReq) := by decide +kernel

theorem delivered_twin : (state twin).frameFor (0 : Fin 12).val ftTwin = some (12, twin) := by decide +kernel

theorem ofJob_readReq : (state readReq).frameJob readReq = some 0 := by decide +kernel

theorem ofJob_twin : (state twin).frameJob twin = some 0 := by decide +kernel

theorem inbound_readReq : (state readReq).inboundOf 0 readReq.group = some entry := by decide +kernel

theorem inbound_twin : (state twin).inboundOf 0 twin.group = some entry := by decide +kernel

theorem allowed_readReq : (state readReq).allowed 0 (entry.base + readReq.offset) (readReq.field 0 4) false = true := by decide +kernel

theorem allowed_twin : (state twin).allowed 0 (entry.base + twin.offset) twin.payload.length true = true := by decide +kernel

theorem clean_readReq : ((state readReq).eccRead (entry.base + readReq.offset) (readReq.field 0 4)).2 = none := by decide +kernel

/-- The type of the last frame that the module has addressed to itself, after a step. -/
def lastType : Res → Option Nat
  | .next t => t.looped.getLast?.map Frame.type
  | _ => none

theorem lastType_readReq : lastType (exec (.readReqFrame 0) (state readReq)) = some ftWriteAck := by decide +kernel

/-- What stands at the start of the Window Map region after a step. -/
def stored : Res → List U8
  | .next t => t.mem.read windowBase 1
  | _ => []

theorem stored_twin : stored (exec (.twinFrame 0) (state twin)) = [0] := by decide +kernel

end WindowInbound

/-- Refutes O42: a READ_REQ through an INBOUND window in the Window Map region is refused. -/
theorem not_readsAndAnswersByFrame : ¬ Obligations.ReadsAndAnswersByFrame := by
  unfold Obligations.ReadsAndAnswersByFrame
  rintro ⟨h, _⟩
  obtain ⟨t, hexec, _, _, hadmitted, _⟩ := h 0 _ _ WindowInbound.delivered_readReq 0 WindowInbound.ofJob_readReq rfl rfl
  obtain ⟨hself, _⟩ := hadmitted WindowInbound.entry WindowInbound.inbound_readReq rfl (by decide +kernel) (by decide +kernel) (by decide +kernel) (by decide +kernel)
    WindowInbound.allowed_readReq (WindowInbound.memoryUp _) WindowInbound.clean_readReq
  have hlast := WindowInbound.lastType_readReq
  rw [hexec] at hlast
  have hanswer : WindowInbound.lastType (.next t) = some ftReadResp := congrArg (Option.map Frame.type) (hself rfl)
  exact absurd (hlast.symm.trans hanswer) (by decide)

/-- Refutes O46: so is a TWIN frame. -/
theorem not_twinLinkMirrors : ¬ Obligations.TwinLinkMirrors := by
  unfold Obligations.TwinLinkMirrors
  rintro ⟨_, _, _, h⟩
  obtain ⟨t, hexec, _, hadmitted, _⟩ := h 0 _ _ WindowInbound.delivered_twin 0 WindowInbound.ofJob_twin rfl
  obtain ⟨hread, _⟩ := hadmitted WindowInbound.entry WindowInbound.inbound_twin rfl (by decide +kernel) WindowInbound.allowed_twin (WindowInbound.memoryUp _) rfl
  have hstored : t.mem.read windowBase 1 = [0] := by
    have h := WindowInbound.stored_twin
    rwa [hexec] at h
  exact absurd (hstored.symm.trans hread) (by decide)

end Sys2Proof.Machine
end

section
/-! Proofs: COLLECTIVE_TIMEOUT (R366). O44 fails in one place, shown here: it takes the stream's first collective on the engine, and where that one is full the model looks at the next. -/

namespace Sys2Proof.Machine

namespace SecondCollective

/-- A collective of stream 0 on base die 0 that expects nothing any more. -/
def full : Coll :=
  { base := 0, stream := 0, slot := 0, node := 0, job := 0, group := 0, cseq := 0, phase := 0, selfRank := 0, count := 0, members := [], loaded := false, expect := []
    due := [], shapeIn := [], shapeOut := [], out := [], granted := [], sent := [], gave := [], got := [], need := [], parts := [], bad := [], again := [] }

/-- One of another node of the stream, which still expects a block from rank 0. -/
def waiting : Coll := { full with slot := 1, expect := [[(0, 64)]], parts := [[]] }

/-- Both are in progress, and the engine has a timeout. -/
def state : State := { State.reset with regs := [((Page.cns 0).base + 0x048, 1)], colls := [full, waiting] }

theorem first_found : state.colls.find? (fun (c : Coll) => decide (c.base = (0 : Fin 3).val) && decide (c.stream = (0 : Fin 16384).val)) = some full := rfl

theorem first_full : full.full = true := rfl

/-- The stored error code of the engine after a step. -/
def noted : Res → Nat
  | .next t => t.field (.cns 0) 0x05C 0 16
  | _ => 0

theorem noted_timeout : noted (exec (.collectiveTimeout 0 0) state) = S_COLL_TIMEOUT.toNat := by decide +kernel

theorem noted_state : noted (.next state) = 0 := by decide +kernel

end SecondCollective

/-- Refutes O44: a timeout at which the stream's first collective is full fails the stream for its second. -/
theorem not_collectivesRepeatAndEnd : ¬ Obligations.CollectivesRepeatAndEnd := by
  unfold Obligations.CollectivesRepeatAndEnd
  rintro ⟨_, htimeout, _⟩
  obtain ⟨hquiet, _⟩ := htimeout 0 0 SecondCollective.state _ SecondCollective.first_found
  have hnoted := SecondCollective.noted_timeout
  rw [hquiet (.inr SecondCollective.first_full), SecondCollective.noted_state] at hnoted
  exact absurd hnoted (by decide)

end Sys2Proof.Machine
end

section
/-! Proofs: the rules for ports, for the registers that say what the fabric is, and for the words of link units (R326 to R330, R341, R346, R368). -/

namespace Sys2Proof.Machine

/-! ### Ports -/

theorem State.port_congr {s t : State} (h : t.ports = s.ports) (p : Nat) : t.port p = s.port p := by rw [State.port, State.port, h]

theorem State.Regs.port {s t : State} (h : s.Regs t) (p : Nat) : t.port p = s.port p := by
  obtain ⟨_, rfl⟩ := h
  rfl

@[simp] theorem State.countSat_port (s : State) (pg : Page) (o n p : Nat) : (s.countSat pg o n).port p = s.port p := rfl
@[simp] theorem State.countWrap_port (s : State) (pg : Page) (o n p : Nat) : (s.countWrap pg o n).port p = s.port p := rfl
@[simp] theorem State.raise_port (s : State) (pg : Page) (b p : Nat) : (s.raise pg b).port p = s.port p := rfl
@[simp] theorem State.emit_port (s : State) (o : Out) (p : Nat) : (s.emit o).port p = s.port p := rfl
@[simp] theorem State.setPort_reg (s : State) (p : Nat) (x : Port) (pg : Page) (o : Nat) : (s.setPort p x).reg pg o = s.reg pg o := rfl

theorem State.setPort_other (s : State) {p e : Nat} (x : Port) (h : e ≠ p) : (s.setPort p x).port e = s.port e := by rw [State.setPort_port, if_neg h]

theorem State.setPort_keptBut (s : State) (p : Nat) (x : Port) : keptBut s.port (s.setPort p x).port [p] :=
  fun _ hk => s.setPort_other x (by simpa using hk)

theorem State.setPort_portOnly (s : State) (p : Nat) (x : Port) : s.portOnly (s.setPort p x) p := ⟨s.setPort_keptBut p x, rfl⟩

/-- A step that changes one port and nothing else. -/
theorem exec_setPort {c : Instr} {s : State} {p : Nat} {x : Port} (h : exec c s = .next (s.setPort p x)) :
    ∃ t, exec c s = .next t ∧ t.port p = x ∧ s.portOnly t p := ⟨_, h, s.setPort_same p x, s.setPort_portOnly p x⟩

theorem keptBut_refl {β : Type} (f : Nat → β) (ks : List Nat) : keptBut f f ks := fun _ _ => rfl

theorem keptBut.trans {β : Type} {f g h : Nat → β} {ks : List Nat} (hfg : keptBut f g ks) (hgh : keptBut g h ks) : keptBut f h ks :=
  fun k hk => (hgh k hk).trans (hfg k hk)

/-! ### Ports, registers and what is sent -/

/-- Only ports, registers and what the module has sent may differ. -/
def State.Linked (s t : State) : Prop := ∃ ports regs out, t = { s with ports := ports, regs := regs, out := out }

namespace State.Linked

theorem refl (s : State) : s.Linked s := ⟨_, _, _, rfl⟩

theorem trans {a b c : State} : a.Linked b → b.Linked c → a.Linked c := by
  rintro ⟨_, _, _, rfl⟩ ⟨_, _, _, rfl⟩
  exact ⟨_, _, _, rfl⟩

theorem setPort (s : State) (p : Nat) (x : Port) : s.Linked (s.setPort p x) := ⟨_, _, _, rfl⟩

theorem emit (s : State) (o : Out) : s.Linked (s.emit o) := ⟨_, _, _, rfl⟩

theorem regs {s t : State} : s.Regs t → s.Linked t := by
  rintro ⟨_, rfl⟩
  exact ⟨_, _, _, rfl⟩

theorem eq {s t : State} : s.Linked t → t = { s with ports := t.ports, regs := t.regs, out := t.out } := by
  rintro ⟨_, _, _, rfl⟩
  rfl

theorem eq_of_out {s t : State} (h : s.Linked t) (hout : t.out = s.out) : t = { s with ports := t.ports, regs := t.regs } := by
  obtain ⟨_, _, _, rfl⟩ := h
  obtain rfl : _ = s.out := hout
  rfl

end State.Linked

/-! ### Registers kept -/

theorem State.regsKept_of_regs {s t : State} (h : t.regs = s.regs) (ks : List Nat) : s.regsKept t ks := fun k _ => State.word_congr h k

theorem State.regsKept.mono {s t : State} {ks more : List Nat} (h : s.regsKept t ks) (hsub : ks ⊆ more) : s.regsKept t more :=
  fun k hk => h k fun hm => hk (hsub hm)

theorem State.regsKept.trans {a b c : State} {ks : List Nat} (h : a.regsKept b ks) (k : b.regsKept c ks) : a.regsKept c ks :=
  fun x hx => (k x hx).trans (h x hx)

theorem State.countSat_regsKept (s : State) (pg : Page) (o n : Nat) : s.regsKept (s.countSat pg o n) [pg.base + o] := s.setReg_regsKept _ _ _

/-- A received unit's codewords counted (R371). -/
theorem State.countFec_regsKept (s : State) (p : Nat) (u : LinkUnit) : s.regsKept (s.countFec p u) ([0x054, 0x058].map ((wwyPage p).base + ·)) :=
  ((s.countSat_regsKept _ _ _).mono (by simp)).trans ((State.countSat_regsKept _ _ _ _).mono (by simp))

theorem not_mem_errRegs {pg : Page} {o : Nat} (h : o ∉ errOffs) : pg.base + o ∉ errRegs pg := by
  simp only [errOffs, List.mem_cons, List.not_mem_nil, or_false, not_or] at h
  obtain ⟨h0, h1, h2⟩ := h
  simp [errRegs, h0, h1, h2]

theorem State.regsKept.reg_of_errRegs {s t : State} {pg : Page} (h : s.regsKept t (errRegs pg)) {o : Nat} (ho : o ∉ errOffs) : t.reg pg o = s.reg pg o := by
  rw [State.reg, State.reg]
  exact h (pg.base + o) (not_mem_errRegs ho)

/-- A register elsewhere on its page than those that change keeps its value, whatever its page. -/
theorem State.regsKept.reg {s t : State} {pg : Page} {offs : List Nat} (h : s.regsKept t (offs.map (pg.base + ·))) {o : Nat} (q : Page)
    (ho : o < 0x1000) (hall : ∀ x ∈ offs, x < 0x1000 ∧ o ≠ x) : t.reg q o = s.reg q o := by
  refine h _ fun hmem => ?_
  obtain ⟨x, hx, heq⟩ := List.mem_map.mp hmem
  obtain ⟨hlt, hne⟩ := hall x hx
  exact Page.addr_ne ho hlt hne heq.symm

theorem State.countFec_corr (s : State) (p : Nat) (u : LinkUnit) : (s.countFec p u).reg (wwyPage p) 0x054 = satAdd (s.reg (wwyPage p) 0x054) u.fecCorr := by
  rw [State.countFec, State.countSat, State.setReg_other _ _ _ (by decide)]
  exact State.setReg_same _ _ _ _

theorem State.countFec_uncorr (s : State) (p : Nat) (u : LinkUnit) : (s.countFec p u).reg (wwyPage p) 0x058 = satAdd (s.reg (wwyPage p) 0x058) u.fecUncorr := by
  rw [State.countFec, State.countSat, State.setReg_same, State.countSat, State.setReg_other _ _ _ (by decide)]

theorem State.countFec_onlyRegs (s : State) (p : Nat) (u : LinkUnit) : s.Regs (s.countFec p u) := (s.countSat_onlyRegs _ _ _).trans (State.countSat_onlyRegs _ _ _ _)

@[simp] theorem State.countFec_port (s : State) (p e : Nat) (u : LinkUnit) : (s.countFec p u).port e = s.port e := rfl

/-! ### What the fabric is -/

/-- What says which module this is and whether the twin link is on reads the same (R368, R373). -/
structure State.SameFabric (s t : State) : Prop where
  self : t.reg .wwyMod 0x040 = s.reg .wwyMod 0x040
  twin : t.reg .twn 0x040 = s.reg .twn 0x040
  partner : t.reg .twn 0x044 = s.reg .twn 0x044

namespace State.SameFabric

variable {s t : State} (h : s.SameFabric t)
include h

theorem selfId : t.selfId = s.selfId := by rw [State.selfId, State.selfId, State.field, State.field, h.self]
theorem twinOn : t.twinOn = s.twinOn := by rw [State.twinOn, State.twinOn, State.field, State.field, h.twin]
theorem twinPort : t.twinPort = s.twinPort := by rw [State.twinPort, State.twinPort, State.field, State.field, h.twin]
theorem twinPartner : t.twinPartner = s.twinPartner := by rw [State.twinPartner, State.twinPartner, State.field, State.field, h.partner]
theorem isTwinPort (p : Nat) : t.isTwinPort p = s.isTwinPort p := by rw [State.isTwinPort, State.isTwinPort, h.twinOn, h.twinPort]

end State.SameFabric

theorem State.SameFabric.of_regs {s t : State} (h : t.regs = s.regs) : s.SameFabric t := ⟨State.reg_congr h _ _, State.reg_congr h _ _, State.reg_congr h _ _⟩

theorem State.SameFabric.of_kept {s t : State} {pg : Page} {offs : List Nat} (h : s.regsKept t (offs.map (pg.base + ·)))
    (hall : ∀ x ∈ offs, x < 0x1000 ∧ 0x040 ≠ x ∧ 0x044 ≠ x) : s.SameFabric t :=
  ⟨h.reg _ (by decide) fun x hx => ⟨(hall x hx).1, (hall x hx).2.1⟩, h.reg _ (by decide) fun x hx => ⟨(hall x hx).1, (hall x hx).2.1⟩,
    h.reg _ (by decide) fun x hx => ⟨(hall x hx).1, (hall x hx).2.2⟩⟩

/-! ### Link units (R327, R328) -/

/-- The fields of a link word of a kind of unit. -/
theorem Port.linkWord_fields (x : Port) (lseq : Nat) {kind : Nat} (enc : Bool) (body trailer : List U8) (a b : Nat) (hkind : kind < 16) :
    let u : LinkUnit := ⟨x.linkWord lseq kind enc, body, trailer, a, b⟩
    u.field 28 4 = kind ∧ u.field 0 12 = lseq % 4096 ∧ u.field 12 12 = x.rxSeq % 4096 ∧ u.field 24 1 = x.nak.toNat ∧ u.field 26 1 = enc.toNat := by
  intro u
  have hnak : (if x.nak then 2 ^ 24 else 0) = x.nak.toNat * 2 ^ 24 := by cases x.nak <;> rfl
  have henc : (if enc then x.keyPhase % 2 * 2 ^ 25 + 2 ^ 26 else 0) = enc.toNat * (x.keyPhase % 2) * 2 ^ 25 + enc.toNat * 2 ^ 26 := by cases enc <;> simp
  have hphase : enc.toNat * (x.keyPhase % 2) ≤ 1 := by
    have := Nat.mod_lt x.keyPhase (show 0 < 2 by decide)
    cases enc
    · simp
    · simp
      omega
  have hn := Bool.toNat_le x.nak
  have he := Bool.toNat_le enc
  have hc (c : Nat) : min 255 (x.owed.getD c 0) ≤ 255 := Nat.min_le_left _ _
  have h0 := hc 0
  have h1 := hc 1
  have h2 := hc 2
  have h3 := hc 3
  have hword : u.word = x.linkWord lseq kind enc := rfl
  simp only [LinkUnit.field, hword, Port.linkWord, BitVec.toNat_ofNat, hnak, henc]
  generalize enc.toNat * (x.keyPhase % 2) = ph at *
  generalize enc.toNat = en at *
  generalize x.nak.toNat = nk at *
  generalize min 255 (x.owed.getD 0 0) = c0 at *
  generalize min 255 (x.owed.getD 1 0) = c1 at *
  generalize min 255 (x.owed.getD 2 0) = c2 at *
  generalize min 255 (x.owed.getD 3 0) = c3 at *
  refine ⟨?_, ?_, ?_, ?_, ?_⟩ <;> omega

/-- An unencrypted unit whose codewords were all correctable and whose CRC holds (R328, R329). -/
theorem LinkUnit.sound_iff (u : LinkUnit) : u.sound = true ↔
    u.fecUncorr = 0 ∧ u.field 26 1 = 0 ∧ u.trailer = leBytes 4 (crc32c (leBytes 8 u.word.toNat ++ u.body)).toNat ++ List.replicate 12 0 := by
  simp only [LinkUnit.sound, Bool.and_eq_true, decide_eq_true_eq]
  exact ⟨fun ⟨⟨hfec, hcrc⟩, hplain⟩ => ⟨hfec, hplain, hcrc⟩, fun ⟨hfec, hplain, hcrc⟩ => ⟨⟨hfec, hcrc⟩, hplain⟩⟩

/-- A unit emitted is all that has been sent. -/
theorem State.unitSent_emit {s t : State} (p : Nat) (u : LinkUnit) (h : t.out = s.out ++ [.unit p u]) : s.unitSent t p = some u := by
  simp [State.unitSent, h]

end Sys2Proof.Machine
end

section
/-! Proofs: frames queued, sent round and dropped at ports (R337, R338, R346 to R348, R371). -/

namespace Sys2Proof.Machine

theorem State.portUp_lt {s : State} {p : Nat} (h : s.portUp p = true) : p < 12 := by
  simp only [State.portUp, Bool.and_eq_true, decide_eq_true_eq] at h
  exact h.1

/-! ### One frame queued or dropped -/

/-- The count of a frame of class 0 that joins a queue late (R338). -/
def State.lateCounted (s : State) (p : Nat) (f : Frame) : State :=
  if decide (f.cls = 0) && decide (32 < ((s.port p).queue.filter (fun g => decide (g.cls = 0))).length) then s.countSat (wwyPage p) 0x068 else s

theorem State.lateCounted_onlyRegs (s : State) (p : Nat) (f : Frame) : s.Regs (s.lateCounted p f) := by
  unfold State.lateCounted
  split
  · exact s.countSat_onlyRegs _ _ _
  · exact .refl s

theorem State.lateCounted_regsKept (s : State) (p : Nat) (f : Frame) : s.regsKept (s.lateCounted p f) [(wwyPage p).base + 0x068] := by
  unfold State.lateCounted
  split
  · exact s.countSat_regsKept _ _ _
  · exact State.regsKept_of_regs rfl _

theorem State.lateCounted_counts (s : State) (p : Nat) (f : Frame) : s.Counts [0x05C, 0x068] (s.lateCounted p f) := by
  unfold State.lateCounted
  split
  · exact s.setReg_counts _ _ (by decide) (by decide) (by decide)
  · exact .refl s

theorem State.enqueue_eq (s : State) (p : Nat) (f : Frame) :
    s.enqueue p f = (s.lateCounted p f).setPort p { s.port p with queue := (s.port p).queue ++ [f] } := rfl

theorem State.enqueue_port (s : State) (p e : Nat) (f : Frame) :
    (s.enqueue p f).port e = if e = p then { s.port p with queue := (s.port p).queue ++ [f] } else s.port e := by
  rw [State.enqueue_eq, State.setPort_port, (s.lateCounted_onlyRegs p f).port]

theorem State.enqueue_other (s : State) {p e : Nat} (f : Frame) (h : e ≠ p) : (s.enqueue p f).port e = s.port e := by
  rw [State.enqueue_port, if_neg h]

theorem State.enqueue_regsKept (s : State) (p : Nat) (f : Frame) : s.regsKept (s.enqueue p f) [(wwyPage p).base + 0x068] :=
  (s.lateCounted_regsKept p f).trans (State.regsKept_of_regs rfl _)

theorem State.enqueue_linked (s : State) (p : Nat) (f : Frame) : s.Linked (s.enqueue p f) :=
  (State.Linked.regs (s.lateCounted_onlyRegs p f)).trans (.setPort _ _ _)

theorem State.enqueue_out (s : State) (p : Nat) (f : Frame) : (s.enqueue p f).out = s.out := by
  rw [State.enqueue_eq, State.setPort_out, (s.lateCounted_onlyRegs p f).of_regs]

theorem State.enqueue_counts (s : State) (p : Nat) (f : Frame) : s.Counts [0x05C, 0x068] (s.enqueue p f) :=
  (s.lateCounted_counts p f).trans (.of_regs rfl)

theorem State.countDrop_port (s : State) (p e : Nat) : (s.countDrop p).port e = s.port e := by
  unfold State.countDrop
  split <;> rfl

theorem State.countDrop_counts (s : State) (p : Nat) : s.Counts [0x05C, 0x068] (s.countDrop p) := by
  unfold State.countDrop
  split
  · exact s.setReg_counts _ _ (by decide) (by decide) (by decide)
  · exact .refl s

theorem State.countDrop_regsKept (s : State) (p : Nat) : s.regsKept (s.countDrop p) [(wwyPage p).base + 0x05C] := by
  unfold State.countDrop
  split
  · exact s.countSat_regsKept _ _ _
  · exact State.regsKept_of_regs rfl _

theorem State.countDrop_word (s : State) {p : Nat} (hp : p < 12) :
    (s.countDrop p).word ((wwyPage p).base + 0x05C) = satAdd (s.word ((wwyPage p).base + 0x05C)) 1 := by
  rw [State.countDrop, if_pos hp, State.countSat_word, if_pos rfl]
  rfl

/-! ### Frames joining queues -/

/-- Frames have joined the ends of queues, late ones and dropped ones have been counted, and nothing else has happened. -/
structure State.Queued (s t : State) : Prop where
  port : ∀ e, ∃ l, t.port e = { s.port e with queue := (s.port e).queue ++ l }
  counts : s.Counts [0x05C, 0x068] t
  linked : s.Linked t
  out : t.out = s.out

theorem State.SameFabric.of_counts {s t : State} {offs : List Nat} (h : s.Counts offs t) (h0 : 0x040 ∉ offs) (h1 : 0x044 ∉ offs) : s.SameFabric t :=
  ⟨h.reg _ _ (by decide) (by decide) h0, h.reg _ _ (by decide) (by decide) h0, h.reg _ _ (by decide) (by decide) h1⟩

namespace State.Queued

theorem refl (s : State) : s.Queued s := ⟨fun _ => ⟨[], by rw [List.append_nil]⟩, .refl s, .refl s, rfl⟩

theorem trans {a b c : State} (h : a.Queued b) (k : b.Queued c) : a.Queued c := by
  refine ⟨fun e => ?_, h.counts.trans k.counts, h.linked.trans k.linked, k.out.trans h.out⟩
  obtain ⟨l, hl⟩ := h.port e
  obtain ⟨l', hl'⟩ := k.port e
  exact ⟨l ++ l', by rw [hl', hl, List.append_assoc]⟩

theorem fabric {s t : State} (h : s.Queued t) : s.SameFabric t := .of_counts h.counts (by decide) (by decide)

theorem up {s t : State} (h : s.Queued t) (e : Nat) : (t.port e).up = (s.port e).up := by
  obtain ⟨_, hl⟩ := h.port e
  rw [hl]

theorem portUp {s t : State} (h : s.Queued t) (e : Nat) : t.portUp e = s.portUp e := by rw [State.portUp, State.portUp, h.up]

theorem carries {s t : State} (h : s.Queued t) (e : Nat) (f : Frame) : t.carries e f = s.carries e f := by
  rw [State.carries, State.carries, h.fabric.twinOn, h.fabric.twinPort, h.fabric.selfId, h.fabric.twinPartner]

theorem mem_queue {s t : State} (h : s.Queued t) {e : Nat} {f : Frame} (hf : f ∈ (s.port e).queue) : f ∈ (t.port e).queue := by
  obtain ⟨_, hl⟩ := h.port e
  rw [hl]
  exact List.mem_append_left _ hf

end State.Queued

theorem State.enqueue_queued (s : State) (p : Nat) (f : Frame) : s.Queued (s.enqueue p f) := by
  refine ⟨fun e => ?_, s.enqueue_counts p f, s.enqueue_linked p f, s.enqueue_out p f⟩
  rw [State.enqueue_port]
  split
  next h => exact ⟨[f], by rw [h]⟩
  next => exact ⟨[], by rw [List.append_nil]⟩

theorem State.countDrop_queued (s : State) (p : Nat) : s.Queued (s.countDrop p) :=
  ⟨fun e => ⟨[], by rw [State.countDrop_port, List.append_nil]⟩, s.countDrop_counts p, .regs (s.countDrop_onlyRegs p), by rw [(s.countDrop_onlyRegs p).of_regs]⟩

/-! ### Broadcasts (R348) -/

/-- What a broadcast does at one port. -/
def State.broadcastAt (mask : Nat) (f : Frame) (s : State) (p : Nat) : State :=
  if mask.testBit p && s.portUp p then (if s.carries p f then s.enqueue p f else s.countDrop p) else s

theorem State.broadcastOn_eq (s : State) (mask : Nat) (f : Frame) : s.broadcastOn mask f = s.forEach (List.range 12) (State.broadcastAt mask f) := rfl

theorem State.broadcastAt_queued (mask : Nat) (f : Frame) (s : State) (p : Nat) : s.Queued (s.broadcastAt mask f p) := by
  unfold State.broadcastAt
  split
  · split
    · exact s.enqueue_queued p f
    · exact s.countDrop_queued p
  · exact .refl s

theorem State.broadcastOn_queued (s : State) (mask : Nat) (f : Frame) : s.Queued (s.broadcastOn mask f) :=
  State.forEach_rel State.Queued.refl State.Queued.trans (State.broadcastAt_queued mask f) (List.range 12) s

section
variable (mask : Nat) (f : Frame)

theorem State.broadcastAt_other {s : State} {p e : Nat} (h : e ≠ p) : (s.broadcastAt mask f p).port e = s.port e := by
  unfold State.broadcastAt
  split
  · split
    · exact s.enqueue_other f h
    · exact s.countDrop_port p e
  · rfl

theorem State.broadcastAt_same {s : State} (htwin : s.twinOn = false) (p : Nat) :
    (s.broadcastAt mask f p).port p = if mask.testBit p ∧ s.portUp p = true then { s.port p with queue := (s.port p).queue ++ [f] } else s.port p := by
  have hcarries : s.carries p f = true := by simp [State.carries, htwin]
  simp only [State.broadcastAt, hcarries, if_true, Bool.and_eq_true]
  split
  · rw [State.enqueue_port, if_pos rfl]
  · rfl

theorem State.broadcastAt_regsKept {s : State} (htwin : s.twinOn = false) (p : Nat) : s.regsKept (s.broadcastAt mask f p) [(wwyPage p).base + 0x068] := by
  have hcarries : s.carries p f = true := by simp [State.carries, htwin]
  simp only [State.broadcastAt, hcarries, if_true]
  split
  · exact s.enqueue_regsKept p f
  · exact State.regsKept_of_regs rfl _

/-- A broadcast without a twin link: every port of the mask that is up gets the frame, once. -/
theorem State.broadcastAll_port (l : List Nat) (hl : l.Nodup) (e : Nat) : ∀ s : State, s.twinOn = false →
    (s.forEach l (State.broadcastAt mask f)).port e =
      if e ∈ l ∧ mask.testBit e ∧ s.portUp e = true then { s.port e with queue := (s.port e).queue ++ [f] } else s.port e := by
  induction l with
  | nil => exact fun s _ => (if_neg (by simp)).symm
  | cons p l ih =>
    intro s htwin
    obtain ⟨hp, hl⟩ := List.nodup_cons.mp hl
    have hq := s.broadcastAt_queued mask f p
    have hrest := ih hl (s.broadcastAt mask f p) (hq.fabric.twinOn.trans htwin)
    rw [hq.portUp] at hrest
    rw [State.forEach, List.foldl_cons, ← State.forEach, hrest]
    by_cases he : e = p
    · subst he
      rw [if_neg (fun h => hp h.1), s.broadcastAt_same mask f htwin]
      simp
    · rw [s.broadcastAt_other mask f he]
      simp [he]

theorem State.broadcastAll_regsKept (l : List Nat) : ∀ s : State, s.twinOn = false →
    s.regsKept (s.forEach l (State.broadcastAt mask f)) (l.map (fun e => (wwyPage e).base + 0x068)) := by
  induction l with
  | nil => exact fun s _ => State.regsKept_of_regs rfl _
  | cons p l ih =>
    intro s htwin
    have htwin' : (s.broadcastAt mask f p).twinOn = false := (s.broadcastAt_queued mask f p).fabric.twinOn.trans htwin
    exact ((s.broadcastAt_regsKept mask f htwin p).mono (by simp)).trans ((ih _ htwin').mono (by simp))

end

theorem State.broadcastOn_port (s : State) (mask : Nat) (f : Frame) (htwin : s.twinOn = false) {e : Nat} (he : e < 12) :
    (s.broadcastOn mask f).port e = if mask.testBit e ∧ (s.port e).up = true then { s.port e with queue := (s.port e).queue ++ [f] } else s.port e := by
  rw [State.broadcastOn_eq, s.broadcastAll_port mask f _ List.nodup_range e htwin]
  simp [he, State.portUp]

theorem State.broadcast_queued (s : State) (f : Frame) : s.Queued (s.broadcast f) := s.broadcastOn_queued _ f

theorem State.broadcastOn_zero (s : State) (f : Frame) : s.broadcastOn 0 f = s := by simp [State.broadcastOn, State.forEach]

/-- The registers that count late frames of class 0 (R338). -/
def lateRegs : List Nat := (List.range 12).map (fun e => (wwyPage e).base + 0x068)

theorem State.broadcastOn_regsKept (s : State) (mask : Nat) (f : Frame) (htwin : s.twinOn = false) : s.regsKept (s.broadcastOn mask f) lateRegs :=
  s.broadcastAll_regsKept mask f _ htwin

/-! ### A frame leaves the receive buffer (R341) -/

theorem State.popFrame_port (s : State) (p : Nat) (f : Frame) :
    (s.popFrame p f).port p = { s.port p with rxBuf := (s.port p).rxBuf.tail, owed := (s.port p).owed.set f.cls ((s.port p).owed.getD f.cls 0 + f.credits) } :=
  s.setPort_same p _

theorem State.popFrame_other (s : State) {p e : Nat} (f : Frame) (h : e ≠ p) : (s.popFrame p f).port e = s.port e := s.setPort_other _ h

theorem State.popFrame_queue (s : State) (p e : Nat) (f : Frame) : ((s.popFrame p f).port e).queue = (s.port e).queue := by
  by_cases h : e = p
  · rw [h, State.popFrame_port]
  · rw [s.popFrame_other f h]

theorem State.popFrame_up (s : State) (p e : Nat) (f : Frame) : ((s.popFrame p f).port e).up = (s.port e).up := by
  by_cases h : e = p
  · rw [h, State.popFrame_port]
  · rw [s.popFrame_other f h]

theorem State.popFrame_linked (s : State) (p : Nat) (f : Frame) : s.Linked (s.popFrame p f) := .setPort s _ _

theorem State.popFrame_keptBut (s : State) (p : Nat) (f : Frame) : keptBut s.port (s.popFrame p f).port [p] := s.setPort_keptBut p _

theorem State.popFrame_portUp (s : State) (p e : Nat) (f : Frame) : (s.popFrame p f).portUp e = s.portUp e := by
  rw [State.portUp, State.portUp, s.popFrame_up]

/-- A frame popped has been taken, whatever joins queues after it. -/
theorem State.popFrame_took {s t : State} {p : Nat} {f : Frame} (hp : p < 12) (h : (s.popFrame p f).Queued t) : s.tookFrame t p f := by
  obtain ⟨l, hl⟩ := h.port p
  rw [State.tookFrame, if_pos hp, hl, State.popFrame_port]
  refine ⟨rfl, fun hcls => ?_⟩
  simp [Frame.credits, hcls]

end Sys2Proof.Machine
end

section
/-! Proofs: a frame taken by its delivery (R341, R346, R348). -/

namespace Sys2Proof.Machine

/-- What taking a frame does: it leaves where it waited, and a broadcast may join queues on its way round. -/
structure State.Taken (s a : State) (q : Nat) (f : Frame) : Prop where
  took : s.tookFrame a q f
  only : ∃ ports looped regs, a = { s with ports := ports, looped := looped, regs := regs }
  counts : s.Counts [0x05C, 0x068] a
  unicast : f.bcast = false → a.regs = s.regs

theorem State.Linked.only {s t : State} (h : s.Linked t) (hout : t.out = s.out) : ∃ ports looped regs, t = { s with ports := ports, looped := looped, regs := regs } :=
  ⟨t.ports, s.looped, t.regs, h.eq_of_out hout⟩

theorem State.popFrame_taken {s t : State} {p : Nat} {f : Frame} (hp : p < 12) (h : (s.popFrame p f).Queued t) (hregs : f.bcast = false → t.regs = s.regs) :
    s.Taken t p f :=
  ⟨State.popFrame_took hp h, ((s.popFrame_linked p f).trans h.linked).only h.out, (State.Counts.of_regs (s := s) (t := s.popFrame p f) rfl).trans h.counts, hregs⟩

theorem State.forwardBcast_queued (s : State) (p : Nat) (f : Frame) : s.Queued (s.forwardBcast p f) := by
  unfold State.forwardBcast
  dsimp only
  split
  · exact .refl s
  · split
    · exact s.countDrop_queued p
    · exact s.broadcastOn_queued _ _

theorem State.looped_taken (s : State) (f : Frame) : s.Taken { s with looped := s.looped.tail } 12 f :=
  ⟨(if_neg (by decide)).mpr (List.take_length ..), ⟨s.ports, s.looped.tail, s.regs, rfl⟩, .of_regs rfl, fun _ => rfl⟩

/-- The frame at the head of a port's buffer that a delivery of its type takes. -/
theorem State.takePort_of_head {s : State} {p type : Nat} {f : Frame} (hp : p < 12) (hhead : (s.port p).rxBuf.head? = some f) (htype : f.type = type)
    (hhere : s.delivered p f = true) : ∃ a, s.takePort p type = some (a, p, f) ∧ s.Taken a p f := by
  obtain ⟨rest, hrest⟩ := List.head?_eq_some_iff.mp hhead
  refine ⟨if f.bcast then (s.popFrame p f).forwardBcast p f else s.popFrame p f, ?_, ?_⟩
  · simp [State.takePort, hrest, htype, hhere]
  · split
    next hb => exact State.popFrame_taken hp (State.forwardBcast_queued _ _ _) (fun h => absurd (hb.symm.trans h) (by decide))
    next => exact State.popFrame_taken hp (.refl _) (fun _ => rfl)

/-- A frame that is there for a delivery is the one that it takes. -/
theorem State.takeFrame_of_frameFor {s : State} {p type : Nat} {x : Nat × Frame} (hp : p < 12) (h : s.frameFor p type = some x) :
    ∃ a, s.takeFrame p type = some (a, x.1, x.2) ∧ s.Taken a x.1 x.2 := by
  have hhere (h : ((s.port p).rxBuf.head?.filter (fun f => decide (f.type = type) && s.delivered p f)).map (fun f => (p, f)) = some x) :
      ∃ a, s.takePort p type = some (a, x.1, x.2) ∧ s.Taken a x.1 x.2 := by
    obtain ⟨f, hf, rfl⟩ := Option.map_eq_some_iff.mp h
    obtain ⟨hhead, hcond⟩ := Option.filter_eq_some_iff.mp hf
    simp only [Bool.and_eq_true, decide_eq_true_eq] at hcond
    exact State.takePort_of_head hp hhead hcond.1 hcond.2
  unfold State.frameFor at h
  dsimp only at h
  rw [State.takeFrame]
  cases hl : s.looped with
  | nil =>
    rw [hl] at h
    exact hhere h
  | cons f rest =>
    rw [hl, List.head?_cons] at h
    dsimp only at h ⊢
    by_cases htype : f.type = type
    · rw [if_pos htype] at h ⊢
      obtain rfl := Option.some.inj h
      have htaken := s.looped_taken f
      rw [hl] at htaken
      exact ⟨_, rfl, htaken⟩
    · rw [if_neg htype] at h ⊢
      exact hhere h

/-- A delivery handles the frame that is there for it. -/
theorem State.onFrame_of_frameFor {s : State} {p type : Nat} {x : Nat × Frame} (hp : p < 12) (h : s.frameFor p type = some x) (k : State → Nat → Frame → State) :
    ∃ a, s.onFrame p type k = k a x.1 x.2 ∧ s.Taken a x.1 x.2 := by
  obtain ⟨a, htake, htaken⟩ := State.takeFrame_of_frameFor hp h
  exact ⟨a, by rw [State.onFrame, htake], htaken⟩

section
variable {s a : State} {q : Nat} {f : Frame} (h : s.Taken a q f)
include h

theorem State.Taken.fabric : s.SameFabric a := .of_counts h.counts (by decide) (by decide)

theorem State.Taken.mem : a.mem = s.mem := by
  obtain ⟨_, _, _, rfl⟩ := h.only
  rfl

theorem State.Taken.frameJob (g : Frame) : a.frameJob g = s.frameJob g := by
  obtain ⟨_, _, _, rfl⟩ := h.only
  rfl

theorem State.Taken.unicast_eq (hf : f.bcast = false) : a = { s with ports := a.ports, looped := a.looped } := by
  obtain ⟨ports, looped, regs, rfl⟩ := h.only
  obtain rfl : regs = s.regs := h.unicast hf
  rfl

end

/-- Frames that wait stay waiting, and those that the module addresses to itself join the end of their line. -/
structure State.Waits (s t : State) : Prop where
  port : ∀ e, (t.port e).rxBuf = (s.port e).rxBuf ∧ (t.port e).owed = (s.port e).owed
  looped : ∃ l, t.looped = s.looped ++ l

namespace State.Waits

theorem of_same {s t : State} (hports : t.ports = s.ports) (hlooped : t.looped = s.looped) : s.Waits t :=
  ⟨fun e => by rw [State.port_congr hports]; exact ⟨rfl, rfl⟩, ⟨[], by rw [hlooped, List.append_nil]⟩⟩

theorem refl (s : State) : s.Waits s := .of_same rfl rfl

theorem trans {a b c : State} (h : a.Waits b) (k : b.Waits c) : a.Waits c := by
  obtain ⟨l, hl⟩ := h.looped
  obtain ⟨l', hl'⟩ := k.looped
  exact ⟨fun e => ⟨(k.port e).1.trans (h.port e).1, (k.port e).2.trans (h.port e).2⟩, ⟨l ++ l', by rw [hl', hl, List.append_assoc]⟩⟩

theorem of_queued {s t : State} (h : s.Queued t) : s.Waits t := by
  refine ⟨fun e => ?_, ⟨[], ?_⟩⟩
  · obtain ⟨_, hl⟩ := h.port e
    rw [hl]
    exact ⟨rfl, rfl⟩
  · rw [h.linked.eq, List.append_nil]

end State.Waits

/-- A frame taken stays taken. -/
theorem State.Waits.took {s a t : State} {q : Nat} {f : Frame} (h : a.Waits t) (htook : s.tookFrame a q f) : s.tookFrame t q f := by
  unfold State.tookFrame at htook ⊢
  by_cases hq : q < 12
  · rw [if_pos hq] at htook ⊢
    obtain ⟨hbuf, howed⟩ := htook
    exact ⟨(h.port q).1.trans hbuf, fun hcls => by rw [(h.port q).2]; exact howed hcls⟩
  · rw [if_neg hq] at htook ⊢
    obtain ⟨l, hl⟩ := h.looped
    have hlen : s.looped.tail.length ≤ a.looped.length := by
      have := congrArg List.length htook
      rw [List.length_take] at this
      omega
    rw [hl, List.take_append_of_le_length hlen, htook]

end Sys2Proof.Machine
end

section
/-! Proofs: what the handling of a frame leaves where it waits: memory, receive buffers and the module's own frames (R343, R346, R364, R402). -/

namespace Sys2Proof.Machine

/-! ### Faults and lost frames -/

theorem State.FireFrame.refl (s : State) : s.FireFrame s := ⟨_, _, _, _, _, _, _, _, _, _, _, _, _, _, _, rfl⟩

theorem State.FireFrame.ports {s t : State} (h : s.FireFrame t) : t.ports = s.ports := by
  obtain ⟨_, _, _, _, _, _, _, _, _, _, _, _, _, _, _, rfl⟩ := h
  rfl

theorem State.FireFrame.looped {s t : State} (h : s.FireFrame t) : t.looped = s.looped := by
  obtain ⟨_, _, _, _, _, _, _, _, _, _, _, _, _, _, _, rfl⟩ := h
  rfl

theorem State.setColl_fire (s : State) (c : Coll) : s.FireFrame (s.setColl c) := ⟨_, _, _, _, _, _, _, _, _, _, _, _, _, _, _, rfl⟩

theorem State.setColl_counts {offs : List Nat} (s : State) (c : Coll) : s.Counts offs (s.setColl c) := .of_regs rfl

section
variable (s : State) (u : Nat) (code : U16)

theorem State.detectedFault_fire : s.FireFrame (s.detectedFault u code) := by
  cases hcur : (s.engine u).cur with
  | none =>
    rw [State.detectedFault, hcur]
    exact .refl s
  | some r => exact State.detectedFault_fireFrame code hcur

/-- The registers of codes and flags that an end of a firing writes. -/
def endOffs : List Nat := [0x05C, 0x060, 0xF00, 0xF04]

theorem State.recordStream_counts {offs : List Nat} (n : Nat) (e : Event) : s.Counts offs (s.recordStream n e) := .of_regs rfl

theorem State.detectedFault_counts : s.Counts endOffs (s.detectedFault u code) := by
  cases hcur : (s.engine u).cur with
  | none =>
    rw [State.detectedFault, hcur]
    exact .refl s
  | some r =>
    by_cases h : s.repeatable u r
    · cases hrep : r.rep with
      | true =>
        rw [State.detectedFault_second code hcur h hrep]
        exact ((((s.noteUnitFail_counts u code).trans (State.faulted_counts _ u r)).trans (State.recordStream_counts _ _ _)).trans
          ((State.failStream_counts _ _ _ _).mono (by simp))).trans (.of_regs (State.freeAfterFiring_regs _ _ _))
      | false =>
        rw [State.detectedFault_first code hcur h hrep]
        obtain ⟨_, hslot⟩ := (s.faulted u r).updSlot_streamsOnly r.stream r.slot (fun x => { x with rep := true, code := code, part := r.part })
        rw [hslot]
        exact (s.faulted_counts u r).trans (.of_regs rfl)
    · rw [State.detectedFault_lost code hcur h]
      exact ((s.faulted_counts u r).trans (State.recordStream_counts _ _ _)).trans (.of_regs (State.freeAfterFiring_regs _ _ _))

theorem State.failFiring_fire : s.FireFrame (s.failFiring u code) := by
  cases hcur : (s.engine u).cur with
  | none =>
    rw [State.failFiring, hcur]
    exact .refl s
  | some r =>
    rw [State.failFiring_eq code hcur]
    exact (((s.noteUnitFail_onlyRegs u code).fireFrame.trans (State.faulted_fireFrame _ u r)).trans (State.failStream_endFrame _ _ _ _).fireFrame).trans
      (State.freeAfterFiring_fireFrame _ _ _)

end

section
variable (s : State)

/-- A fault of an engine, where there is one. -/
theorem State.ite_detectedFault (mine : Bool) (u : Nat) (code : U16) :
    let t := if mine then s.detectedFault u code else s
    s.FireFrame t ∧ s.Counts endOffs t := by
  cases mine
  · exact ⟨.refl s, .refl s⟩
  · exact ⟨s.detectedFault_fire u code, s.detectedFault_counts u code⟩

theorem State.collLost_frame (c : Coll) (f : Frame) : s.FireFrame (s.collLost c f) ∧ s.Counts endOffs (s.collLost c f) := by
  unfold State.collLost
  dsimp only
  obtain ⟨hfire, hcounts⟩ := State.ite_detectedFault _ _ _ _
  exact ⟨(s.setColl_fire _).trans hfire, (s.setColl_counts _).trans hcounts⟩

theorem State.lostOwn_frame (f : Frame) : s.FireFrame (s.lostOwn f) ∧ s.Counts endOffs (s.lostOwn f) := by
  have hidle : s.FireFrame s ∧ s.Counts endOffs s := ⟨.refl s, .refl s⟩
  unfold State.lostOwn
  split
  · exact hidle
  · split
    · split
      · exact ⟨s.detectedFault_fire _ _, s.detectedFault_counts _ _⟩
      · exact hidle
    · split
      · split
        · exact s.collLost_frame _ f
        · exact hidle
      · exact hidle

end

theorem State.stopTwin_counts (s : State) : s.Counts [] s.stopTwin := by
  unfold State.stopTwin
  split
  · exact (s.raise_counts .twn 0).trans (.of_regs rfl)
  · exact .refl s

/-! ### Frames sent -/

/-- Frames of the module's own have joined queues or its own line, or have been dropped. -/
structure State.Posted (s t : State) : Prop where
  waits : s.Waits t
  only : ∃ ports looped regs, t = { s with ports := ports, looped := looped, regs := regs }

theorem State.Posted.of_queued {s t : State} (h : s.Queued t) : s.Posted t := ⟨.of_queued h, h.linked.only h.out⟩

theorem State.sendFrame_posted (s : State) (f : Frame) : s.Posted (s.sendFrame f).1 := by
  unfold State.sendFrame
  split
  · exact .of_queued (.refl s)
  · split
    · exact ⟨⟨fun _ => ⟨rfl, rfl⟩, ⟨[f], rfl⟩⟩, ⟨_, _, _, rfl⟩⟩
    · split
      · split
        · exact .of_queued (s.enqueue_queued _ f)
        · exact .of_queued (s.countDrop_queued _)
      · exact .of_queued (s.countDrop_queued _)

/-- Memory is as it was, and what waits waits still. -/
structure State.Handles (s t : State) : Prop where
  mem : t.mem = s.mem
  waits : s.Waits t

namespace State.Handles

theorem trans {a b c : State} (h : a.Handles b) (k : b.Handles c) : a.Handles c := ⟨k.mem.trans h.mem, h.waits.trans k.waits⟩

theorem of_same {s t : State} (hmem : t.mem = s.mem) (hports : t.ports = s.ports) (hlooped : t.looped = s.looped) : s.Handles t := ⟨hmem, .of_same hports hlooped⟩

theorem refl (s : State) : s.Handles s := .of_same rfl rfl rfl

theorem of_fire {s t : State} (h : s.FireFrame t) : s.Handles t := .of_same h.mem h.ports h.looped

theorem of_posted {s t : State} (h : s.Posted t) : s.Handles t := by
  refine ⟨?_, h.waits⟩
  obtain ⟨_, _, _, rfl⟩ := h.only
  rfl

theorem regs {s t : State} (h : s.Regs t) : s.Handles t := .of_fire h.fireFrame

end State.Handles

section
variable (s : State)

theorem State.sendOwn_handles (f : Frame) : s.Handles (s.sendOwn f) := by
  unfold State.sendOwn
  dsimp only
  split
  · exact .of_posted (s.sendFrame_posted f)
  · exact (State.Handles.of_posted (s.sendFrame_posted f)).trans (.of_fire (State.lostOwn_frame _ f).1)

theorem State.setColl_handles (c : Coll) : s.Handles (s.setColl c) := .of_fire (s.setColl_fire c)

theorem State.sendBlock_handles (c : Coll) (q : Nat) : s.Handles (s.sendBlock c q) := by
  unfold State.sendBlock
  dsimp only
  split
  · split
    · exact .of_same rfl rfl rfl
    · exact s.sendOwn_handles _
  · exact .refl s

theorem State.pumpOne_handles (n slot q : Nat) : s.Handles (s.pumpOne n slot q) := by
  unfold State.pumpOne
  split
  · split
    · exact (s.setColl_handles _).trans (State.sendBlock_handles _ _ _)
    · exact .refl s
  · exact .refl s

theorem State.pump_handles (n slot count : Nat) : s.Handles (s.pump n slot count) :=
  State.forEach_rel State.Handles.refl State.Handles.trans
    (fun t q => State.forEach_rel State.Handles.refl State.Handles.trans (fun t' _ => t'.pumpOne_handles n slot q) (List.range 64) t) (List.range count) s

theorem State.failColl_handles (c : Coll) (code : U16) : s.Handles (s.failColl c code) := by
  have hnoted := State.Handles.regs (s.noteCollFail_onlyRegs c.base c.group c.stream code)
  unfold State.failColl
  dsimp only
  split
  · exact hnoted.trans (.of_fire (State.failFiring_fire _ _ _))
  · exact hnoted.trans (.of_fire (State.failStream_endFrame _ _ _ _).fireFrame)

theorem State.refuseReady_posted (c : Coll) (q : Nat) : s.Posted (s.refuseReady c q) := by
  unfold State.refuseReady
  split
  · exact s.sendFrame_posted _
  · exact .of_queued (.refl s)

theorem State.afterBlock_handles (c : Coll) (q : Nat) : s.Handles (s.afterBlock c q) := by
  unfold State.afterBlock
  dsimp only
  split
  · exact s.setColl_handles _
  · split
    · exact (s.setColl_handles _).trans (State.sendOwn_handles _ _)
    · exact s.setColl_handles _

theorem State.recordStream_handles (n : Nat) (e : Event) : s.Handles (s.recordStream n e) := .of_same rfl rfl rfl

theorem State.dueNow_handles (u : Nat) : s.Handles (s.dueNow u) := by
  obtain ⟨_, h⟩ := s.dueNow_tuneOnly u
  rw [h]
  exact .of_same rfl rfl rfl

theorem State.noteTransient_handles (u n : Nat) (code : U16) : s.Handles (s.noteTransient u n code) := by
  have hdue (t : State) (h : s.Handles t) : s.Handles (t.dueNow u) := h.trans (t.dueNow_handles u)
  unfold State.noteTransient
  dsimp only
  split
  · exact hdue _ (.of_same rfl rfl rfl)
  · exact .of_same rfl rfl rfl

/-- A block that fails its GRAIN, counted, shown and recorded (R405, R410). -/
def State.blockMissed (c : Coll) (f : Frame) : State :=
  (((s.countPair (cnsPage c.base) 0x04C 1).countSat (cnsPage c.base) 0x054).raise (cnsPage c.base) 0).recordStream c.stream
    { kind := 0x04, code := S_GRAIN, unit := unitField (816 + c.base), detail := [f.grain.toNat, (crc32c f.payload).toNat] }

theorem State.blockMissed_handles (c : Coll) (f : Frame) : s.Handles (s.blockMissed c f) :=
  .of_fire ((((s.countPair_onlyRegs _ _ _).trans (State.countSat_onlyRegs _ _ _ _)).trans (State.raise_onlyRegs _ _ _)).fireFrame.trans (State.recordStream_fireFrame _ _ _))

theorem State.badBlock_eq (c : Coll) (q : Nat) (f : Frame) : s.badBlock c q f =
    if s.collRuns c then ((s.blockMissed c f).afterBlock (c.again1 q f.offset false) q).detectedFault (816 + c.base) S_GRAIN
    else if (c.bad.getD q []).contains f.offset then
      ((s.blockMissed c f).recordStream c.stream { kind := 0x02, code := S_GRAIN, unit := unitField (816 + c.base), detail := [816 + c.base] }).failColl c S_GRAIN
    else ((s.blockMissed c f).countSat .grn 0x074).afterBlock (c.again1 q f.offset true) q := rfl

theorem State.badBlock_handles (c : Coll) (q : Nat) (f : Frame) : s.Handles (s.badBlock c q f) := by
  rw [State.badBlock_eq]
  split
  · exact ((s.blockMissed_handles c f).trans (State.afterBlock_handles _ _ _)).trans (.of_fire (State.detectedFault_fire _ _ _))
  · split
    · exact ((s.blockMissed_handles c f).trans (State.recordStream_handles _ _ _)).trans (State.failColl_handles _ _ _)
    · exact ((s.blockMissed_handles c f).trans (.regs (State.countSat_onlyRegs _ _ _ _))).trans (State.afterBlock_handles _ _ _)

/-- A collective with a sound block from a rank taken in (R366). -/
def Coll.received (c : Coll) (q : Nat) (f : Frame) : Coll :=
  { c with
    got := c.got.set q (c.got.getD q 0 + 1), bad := c.bad.set q ((c.bad.getD q []).filter (fun o => !decide (o = f.offset)))
    parts := c.parts.set q (if (c.parts.getD q []).any (fun b => decide (b.1 = f.offset)) then c.parts.getD q [] else c.parts.getD q [] ++ [(f.offset, f.payload)]) }

theorem State.goodBlock_eq (c : Coll) (q : Nat) (f : Frame) : s.goodBlock c q f =
    (if (c.bad.getD q []).contains f.offset then (s.countPair (cnsPage c.base) 0x04C 1).noteTransient (816 + c.base) c.stream S_GRAIN
      else s.countPair (cnsPage c.base) 0x04C 1).afterBlock (c.received q f) q := rfl

theorem State.goodBlock_handles (c : Coll) (q : Nat) (f : Frame) : s.Handles (s.goodBlock c q f) := by
  have hcounted := State.Handles.regs (s.countPair_onlyRegs (cnsPage c.base) 0x04C 1)
  rw [State.goodBlock_eq]
  refine State.Handles.trans ?_ (State.afterBlock_handles _ _ _)
  split
  · exact hcounted.trans (State.noteTransient_handles _ _ _ _)
  · exact hcounted

theorem State.takeReady_handles (c : Coll) (r : HeldReady) : s.Handles (s.takeReady c r) := by
  unfold State.takeReady
  split
  · split
    · exact s.failColl_handles c _
    · exact (State.Handles.of_posted (s.refuseReady_posted c _)).trans (State.failColl_handles _ _ _)
  · exact (s.setColl_handles _).trans (State.pump_handles _ _ _ _)

theorem State.countStale_handles (j g p : Nat) : s.Handles (s.countStale j g p) := by
  unfold State.countStale
  exact .regs (s.countSat_onlyRegs _ _ _)

theorem State.holdReady_handles (p : Nat) (r : HeldReady) : s.Handles (s.holdReady p r) := by
  unfold State.holdReady
  dsimp only
  split
  · exact .of_same rfl rfl rfl
  · split
    · exact s.countStale_handles _ _ _
    · exact .of_same rfl rfl rfl

end

end Sys2Proof.Machine
end

section
/-! Proofs: how a port brings its link up (R326 to R330): the steps of training, the INIT unit, and what the two INIT records decide. -/

namespace Sys2Proof.Machine

/-! ### The INIT record (R328) -/

theorem State.selfId_lt (s : State) : s.selfId < 256 ^ 4 := Nat.lt_trans (fieldOf_lt _ _ _) (by decide)

theorem State.initRecord_length (s : State) (p : Nat) : (s.initRecord p).length = 32 := by simp [State.initRecord]

theorem State.initRecord_fields (s : State) {p : Nat} (hp : p < 12) :
    let r := s.initRecord p
    recField r 0 4 = s.selfId ∧ recField r 4 1 = p ∧ recField r 5 1 = (if (s.port p).encReq then 1 else 0) + (if s.isTwinPort p then 2 else 0) ∧
      recField r 8 2 = 128 ∧ recField r 10 2 = 4096 ∧ recField r 12 2 = 2048 ∧ recField r 14 2 = 1024 ∧
      recField r 0x10 4 = (if s.isTwinPort p then s.twinPartner else 0) := by
  have hflags : (if (s.port p).encReq then 1 else 0) + (if s.isTwinPort p then 2 else 0) < 256 ^ 1 := by split <;> split <;> decide
  have hpartner : (if s.isTwinPort p then s.twinPartner else 0) < 256 ^ 4 := by
    have : s.twinPartner < 2 ^ 18 := fieldOf_lt _ _ _
    split <;> omega
  have hport : p < 256 ^ 1 := by omega
  simp [State.initRecord, recField_tail, recField_head, recField_head _ s.selfId_lt, recField_head _ hport, recField_head _ hpartner, recField_head _ hflags]

/-! ### Both records there (R326 steps 4 and 5, R330) -/

/-- The cases in which R330 keeps a port at step 4, given the peer's record. -/
def State.Misfits (s : State) (p : Nat) (r : List U8) : Prop :=
  recField r 0 4 % 2 ^ 18 = s.selfId ∨ (recField r 5 1).testBit 0 ≠ (s.port p).encReq ∨ (recField r 5 1).testBit 1 ≠ s.isTwinPort p ∨
    (s.isTwinPort p = true ∧ (recField r 0x10 4 % 2 ^ 18 ≠ s.selfId ∨ s.twinPartner ≠ recField r 0 4 % 2 ^ 18))

theorem State.initMismatch_iff (s : State) (p : Nat) (r : List U8) : s.initMismatch p r = true ↔ s.Misfits p r := by
  simp only [State.initMismatch, State.Misfits, Bool.or_eq_true, Bool.and_eq_true, decide_eq_true_eq]
  constructor
  · rintro (((h | h) | h) | ⟨⟨htwin, _⟩, h⟩)
    · exact .inl h
    · exact .inr (.inl h)
    · exact .inr (.inr (.inl h))
    · exact .inr (.inr (.inr ⟨htwin, h⟩))
  · rintro (h | h | h | ⟨htwin, h⟩)
    · exact .inl (.inl (.inl h))
    · exact .inl (.inl (.inr h))
    · exact .inl (.inr h)
    · by_cases hflag : (recField r 5 1).testBit 1 = true
      · exact .inr ⟨⟨htwin, hflag⟩, h⟩
      · exact .inl (.inr (by rwa [htwin]))

/-- The port with its link up, as the peer's record says (R326 step 5). -/
def Port.broughtUp (x : Port) (r : List U8) : Port :=
  { x.downed with
    train := 5, up := true, enc := x.encReq, peerId := recField r 0 4 % 2 ^ 18, peerPort := recField r 4 1 % 16, peerInit := some r, initSent := true
    credits := [recField r 8 2, recField r 10 2, recField r 12 2, recField r 14 2] }

theorem State.tryUp_waits {s : State} {p : Nat} (h : (s.port p).peerInit = none ∨ (s.port p).initSent = false) : s.tryUp p = s := by
  unfold State.tryUp
  dsimp only
  split
  next r hr =>
    have hsent : (s.port p).initSent = false := h.resolve_left (by simp [hr])
    rw [if_neg (by simp [hsent])]
  next => rfl

section
variable {s : State} {p : Nat} {r : List U8} (hr : (s.port p).peerInit = some r) (htrain : (s.port p).train = 4) (hsent : (s.port p).initSent = true)
include hr htrain hsent

theorem State.tryUp_misfit (h : s.Misfits p r) : s.tryUp p = s.raise (wwyPage p) 2 := by
  unfold State.tryUp
  simp only [hr, htrain, hsent, (s.initMismatch_iff p r).mpr h, and_self, if_true]

theorem State.tryUp_fit (h : ¬ s.Misfits p r) : s.tryUp p = s.setPort p ((s.port p).broughtUp r) := by
  unfold State.tryUp
  simp only [hr, htrain, hsent, (s.initMismatch_iff p r).not.mpr h, and_self, if_true, Bool.false_eq_true, if_false]
  rfl

end

/-- How both records together are judged: the port stays at step 4 with an error, or its link is up. -/
def State.Judged (s t : State) (p : Nat) (r : List U8) : Prop :=
  (s.Misfits p r → (t.port p).train = 4 ∧ (t.port p).up = (s.port p).up ∧ s.raisedIn t (wwyPage p) 2) ∧
  (¬ s.Misfits p r → t.port p = (s.port p).broughtUp r ∧ t.reg (wwyPage p) offErrStat = s.reg (wwyPage p) offErrStat)

/-- A change of registers that spares what the fabric is, and the INIT record or its sending noted at the port. -/
structure State.Noted (s a : State) (p : Nat) (ks : List Nat) : Prop where
  kept : s.regsKept a (ks.map ((wwyPage p).base + ·))
  offs : ∀ x ∈ ks, x < 0x1000 ∧ offErrStat ≠ x ∧ offErrMask ≠ x ∧ 0x040 ≠ x ∧ 0x044 ≠ x
  port : ∃ r sent, a.port p = { s.port p with peerInit := r, initSent := sent }
  others : keptBut s.port a.port [p]

section
variable {s a : State} {p : Nat} {ks : List Nat} (h : s.Noted a p ks)
include h

theorem State.Noted.misfits (r : List U8) : a.Misfits p r ↔ s.Misfits p r := by
  have hfabric : s.SameFabric a := .of_kept h.kept fun x hx => ⟨(h.offs x hx).1, (h.offs x hx).2.2.2⟩
  obtain ⟨_, _, hport⟩ := h.port
  rw [State.Misfits, State.Misfits, hport, hfabric.selfId, hfabric.isTwinPort, hfabric.twinPartner]

theorem State.Noted.stat : a.reg (wwyPage p) offErrStat = s.reg (wwyPage p) offErrStat :=
  h.kept.reg _ (by decide) fun x hx => ⟨(h.offs x hx).1, (h.offs x hx).2.1⟩

theorem State.Noted.mask : a.reg (wwyPage p) offErrMask = s.reg (wwyPage p) offErrMask :=
  h.kept.reg _ (by decide) fun x hx => ⟨(h.offs x hx).1, (h.offs x hx).2.2.1⟩

theorem State.Noted.judged {r : List U8} (hr : (a.port p).peerInit = some r) (htrain : (s.port p).train = 4) (hsent : (a.port p).initSent = true) :
    s.Judged (a.tryUp p) p r := by
  obtain ⟨r', sent, hport⟩ := h.port
  have htrain' : (a.port p).train = 4 := by rw [hport]; exact htrain
  constructor
  · intro hbad
    rw [State.tryUp_misfit hr htrain' hsent ((h.misfits r).mpr hbad)]
    refine ⟨htrain', by rw [State.raise_port, hport], ?_, ?_⟩
    · rw [State.raise_stat, h.stat]
    · rw [State.raise_mask, h.mask]
  · intro hgood
    rw [State.tryUp_fit hr htrain' hsent ((h.misfits r).not.mpr hgood)]
    refine ⟨?_, h.stat⟩
    rw [State.setPort_same, hport]
    rfl

end

/-- What judging touches: the port and its page's error registers. -/
structure State.Judging (s t : State) (p : Nat) : Prop where
  others : keptBut s.port t.port [p]
  kept : s.regsKept t (errRegs (wwyPage p))
  linked : s.Linked t
  out : t.out = s.out

theorem State.tryUp_judging (s : State) (p : Nat) : s.Judging (s.tryUp p) p := by
  have hidle : s.Judging s p := ⟨keptBut_refl _ _, State.regsKept_of_regs rfl _, .refl s, rfl⟩
  unfold State.tryUp
  dsimp only
  split
  · split
    · split
      · exact ⟨keptBut_refl _ _, s.raise_regsKept _ _, .regs (s.raise_onlyRegs _ _), rfl⟩
      · exact ⟨s.setPort_keptBut _ _, State.regsKept_of_regs rfl _, .setPort s _ _, rfl⟩
    · exact hidle
  · exact hidle

/-! ### What is sent and noted at step 4 -/

/-- The INIT unit that a port sends. -/
def State.initUnit (s : State) (p : Nat) : LinkUnit :=
  ⟨(s.port p).linkWord 0 unitInit false, s.initRecord p, plainTrailer ((s.port p).linkWord 0 unitInit false) (s.initRecord p), 0, 0⟩

/-- The port with its INIT unit sent. -/
def State.initSentAt (s : State) (p : Nat) : State := (s.setPort p { s.port p with initSent := true }).emit (.unit p (s.initUnit p))

theorem State.initSentAt_port (s : State) (p : Nat) : (s.initSentAt p).port p = { s.port p with initSent := true } := s.setPort_same p _

theorem State.initSentAt_linked (s : State) (p : Nat) : s.Linked (s.initSentAt p) := (State.Linked.setPort s _ _).trans (.emit _ _)

/-- The port with a received INIT record noted. -/
def State.initNotedAt (s : State) (p : Nat) (u : LinkUnit) : State := (s.countFec p u).setPort p { s.port p with peerInit := some u.body }

theorem State.initNotedAt_port (s : State) (p : Nat) (u : LinkUnit) : (s.initNotedAt p u).port p = { s.port p with peerInit := some u.body } := State.setPort_same _ _ _

theorem State.initNotedAt_noted (s : State) (p : Nat) (u : LinkUnit) : s.Noted (s.initNotedAt p u) p [0x054, 0x058] :=
  ⟨(s.countFec_regsKept p u).trans (State.regsKept_of_regs rfl _), by decide, ⟨_, _, s.initNotedAt_port p u⟩, State.setPort_keptBut (s.countFec p u) p _⟩

theorem State.initNotedAt_corr (s : State) (p : Nat) (u : LinkUnit) : (s.initNotedAt p u).reg (wwyPage p) 0x054 = satAdd (s.reg (wwyPage p) 0x054) u.fecCorr := by
  rw [State.initNotedAt, State.setPort_reg, State.countFec_corr]

theorem State.initNotedAt_linked (s : State) (p : Nat) (u : LinkUnit) : s.Linked (s.initNotedAt p u) :=
  (State.Linked.regs (s.countFec_onlyRegs _ _)).trans (.setPort _ _ _)

/-! ### The steps -/

section
variable {s : State} {p : Fin 12} (hlive : s.portLive p.val = true)
include hlive

theorem portSignalDetect_steps (h : (s.port p.val).train = 1) :
    exec (.portSignalDetect p) s = .next (s.setPort p.val { s.port p.val with train := 2, signal := true }) := by
  show execPortSignalDetect p s = _
  simp [execPortSignalDetect, State.trainStep, hlive, h]

theorem linkTrainingDone_steps (h : (s.port p.val).train = 2) : exec (.linkTrainingDone p) s = .next (s.setPort p.val { s.port p.val with train := 3 }) := by
  show execLinkTrainingDone p s = _
  simp [execLinkTrainingDone, State.trainStep, hlive, h]

theorem fecLock_steps (h : (s.port p.val).train = 3) :
    exec (.fecLock p) s = .next (s.setPort p.val
      { s.port p.val with train := 4, peerInit := none, initSent := false, encReq := (s.reg (wwyPage p.val) 0x044).getLsbD 1 }) := by
  have hbit : decide (s.field (wwyPage p.val) 0x044 1 1 = 1) = (s.reg (wwyPage p.val) 0x044).getLsbD 1 := by
    rw [State.field, fieldOf_bit]
    cases (s.reg (wwyPage p.val) 0x044).getLsbD 1 <;> rfl
  show execFecLock p s = _
  simp [execFecLock, State.trainStep, hlive, h, hbit]

theorem linkTrainRetry_steps (h : (s.port p.val).train = 2 ∨ (s.port p.val).train = 3 ∨ ((s.port p.val).train = 4 ∧ (s.port p.val).peerInit = none)) :
    exec (.linkTrainRetry p) s = .next (s.setPort p.val { s.port p.val with train := 2, peerInit := none, initSent := false }) := by
  have hcond : (decide ((s.port p.val).train = 2) || decide ((s.port p.val).train = 3) || (decide ((s.port p.val).train = 4) && (s.port p.val).peerInit.isNone)) = true := by
    simpa [or_assoc] using h
  show execLinkTrainRetry p s = _
  simp [execLinkTrainRetry, hlive, hcond]

theorem initSendTimer_sends (h : (s.port p.val).train = 4) : exec (.initSendTimer p) s = .next ((s.initSentAt p.val).tryUp p.val) := by
  have hcond : (s.portLive p.val && decide ((s.port p.val).train = 4)) = true := by simp [hlive, h]
  exact congrArg Host.Outcome.next (if_pos hcond)

theorem initUnitReceived_takes {u : LinkUnit} (hkind : u.field 28 4 = unitInit) (hsound : u.sound = true) (h : (s.port p.val).train = 4) (hlen : u.body.length = 32) :
    exec (.initUnitReceived p u) s = .next ((s.initNotedAt p.val u).tryUp p.val) := by
  have hinit : (s.portLive p.val && decide (u.field 28 4 = unitInit)) = true := by simp [hlive, hkind]
  have hcond : (u.sound && decide ((s.port p.val).train = 4) && decide (u.body.length = 32)) = true := by simp [hsound, h, hlen]
  show execInitUnitReceived p u s = _
  unfold execInitUnitReceived
  dsimp only
  rw [if_pos hinit, if_pos hcond, State.countFec_port]
  rfl

end

/-- Settles O35: each step is one branch of its command, and both records together are judged alike whichever comes last. -/
theorem linkBringUp : Obligations.LinkBringUp := by
  unfold Obligations.LinkBringUp
  intro p s x pg twin bad isUp judged hbase hpower
  have hlive : s.portLive p.val = true := by simpa [State.portLive, hbase] using hpower
  have hjudged {t : State} {r : List U8} (h : s.Judged t p.val r) : judged r t := by
    refine ⟨h.1, fun hgood => ?_⟩
    obtain ⟨hport, hstat⟩ := h.2 hgood
    refine ⟨?_, hstat⟩
    show isUp r (t.port p.val)
    rw [hport]
    exact ⟨rfl, rfl, rfl, rfl, rfl, rfl, rfl, rfl, rfl, rfl, rfl, rfl, rfl⟩
  refine ⟨fun h => exec_setPort (portSignalDetect_steps hlive h), fun h => exec_setPort (linkTrainingDone_steps hlive h),
    fun h => exec_setPort (fecLock_steps hlive h), fun h => exec_setPort (linkTrainRetry_steps hlive h), fun h => ?_, fun u hkind hfec hplain hcrc h hlen => ?_⟩
  · have hnoted : s.Noted (s.initSentAt p.val) p.val [] :=
      ⟨fun _ _ => rfl, (fun _ hx => nomatch hx), ⟨_, _, s.initSentAt_port _⟩, s.setPort_keptBut _ _⟩
    obtain ⟨hothers, hregs, hlinked, hout⟩ := (s.initSentAt p.val).tryUp_judging p.val
    have hsent : ((s.initSentAt p.val).port p.val).initSent = true := by rw [s.initSentAt_port]
    have hinit : ((s.initSentAt p.val).port p.val).peerInit = x.peerInit := by rw [s.initSentAt_port]
    obtain ⟨hword, hseq, _, _, henc⟩ := (s.port p.val).linkWord_fields 0 false (s.initRecord p.val)
      (plainTrailer ((s.port p.val).linkWord 0 unitInit false) (s.initRecord p.val)) 0 0 (show unitInit < 16 by decide)
    obtain ⟨h0, h4, h5, h8, h10, h12, h14, h16⟩ := s.initRecord_fields p.isLt
    refine ⟨_, initSendTimer_sends hlive h, ⟨_, s.unitSent_emit p.val _ hout, hword, hseq, henc, s.initRecord_length _, h0, h4, h5, h8, h10, h12, h14, h16, rfl⟩,
      fun hnone => ?_, fun r hr => hjudged (hnoted.judged (hinit.trans hr) h hsent), hnoted.others.trans hothers, hregs, ((s.initSentAt_linked _).trans hlinked).eq⟩
    rw [State.tryUp_waits (.inl (hinit.trans hnone))]
    exact s.initSentAt_port _
  · have hsound : u.sound = true := u.sound_iff.mpr ⟨hfec, hplain, hcrc⟩
    have hnoted := s.initNotedAt_noted p.val u
    have hport := s.initNotedAt_port p.val u
    obtain ⟨hothers, hregs, hlinked, hout⟩ := (s.initNotedAt p.val u).tryUp_judging p.val
    refine ⟨_, initUnitReceived_takes hlive hkind hsound h hlen, ?_, fun hnot => ?_, fun hsent => hjudged (hnoted.judged (by rw [hport]) h (by rw [hport]; exact hsent)),
      hnoted.others.trans hothers, (hnoted.kept.mono (List.subset_append_left _ _)).trans (hregs.mono (List.subset_append_right _ _)),
      ((s.initNotedAt_linked _ _).trans hlinked).eq_of_out hout⟩
    · exact (hregs.reg_of_errRegs (o := 0x054) (by decide)).trans (s.initNotedAt_corr p.val u)
    · rw [State.tryUp_waits (.inr (by rw [hport]; exact hnot))]
      exact hport

end Sys2Proof.Machine
end

section
/-! Proofs: frames for other modules (R346 to R348). -/

namespace Sys2Proof.Machine

section
variable {p : Fin 12} {f : Frame} {s : State}

/-- A unicast with hops left, sent on by its route or dropped. -/
def State.sentOn (s : State) (p : Nat) (f : Frame) : State :=
  match s.egress f with
  | some e => s.enqueue e f
  | none => s.countDrop p

theorem popFrame_egress (s : State) (p : Nat) (f : Frame) : (s.popFrame p f).egress { f with hops := f.hops - 1 } = s.egress f := by
  simp only [State.egress, State.popFrame_portUp]
  rfl

/-- What FRAME_FORWARD does with a frame for another module where the twin link is off. -/
theorem frameForward_eq (hhead : (s.port p.val).rxBuf.head? = some f) (hother : s.delivered p.val f = false) (htwin : s.twinOn = false) :
    exec (.frameForward p) s = .next (
      if f.bcast then (s.popFrame p.val f).forwardBcast p.val f
      else if f.hops ≤ 1 then (s.popFrame p.val f).countDrop p.val
      else (s.popFrame p.val f).sentOn p.val { f with hops := f.hops - 1 }) := by
  obtain ⟨rest, hrest⟩ := List.head?_eq_some_iff.mp hhead
  have hport : s.isTwinPort p.val = false := by simp [State.isTwinPort, htwin]
  have hcarries (e : Nat) (g : Frame) : (s.popFrame p.val f).carries e g = true := by
    have : (s.popFrame p.val f).twinOn = false := htwin
    simp [State.carries, this]
  show execFrameForward p s = _
  simp [execFrameForward, hrest, hother, State.arrives, hport, hcarries, State.sentOn]
    <;> rfl

/-- The frame has left the buffer, and all that has changed beside the ports is in registers. -/
def State.movedOn (s t : State) (p : Nat) (f : Frame) (ks : List Nat) : Prop :=
  s.tookFrame t p f ∧ s.regsKept t (ks ++ lateRegs) ∧ t = { s with ports := t.ports, regs := t.regs }

theorem State.movedOn.of_queued {t : State} {ks : List Nat} (h : (s.popFrame p.val f).Queued t) (hregs : (s.popFrame p.val f).regsKept t (ks ++ lateRegs)) :
    s.movedOn t p.val f ks :=
  ⟨State.popFrame_took p.isLt h, (State.regsKept_of_regs (s := s) (t := s.popFrame p.val f) rfl _).trans hregs,
    ((s.popFrame_linked _ _).trans h.linked).eq_of_out h.out⟩

theorem mem_lateRegs {e : Nat} (he : e < 12) : [(wwyPage e).base + 0x068] ⊆ lateRegs := by
  intro k hk
  rw [List.mem_singleton.mp hk, lateRegs]
  exact List.mem_map_of_mem (List.mem_range.mpr he)

/-- The popped frame queued with one hop less. -/
theorem popFrame_enqueue {e : Nat} (he : e < 12) :
    let g := { f with hops := f.hops - 1 }
    let t := (s.popFrame p.val f).enqueue e g
    (t.port e).queue = (s.port e).queue ++ [g] ∧ keptBut s.port t.port [p.val, e] ∧ s.movedOn t p.val f [] := by
  refine ⟨?_, fun k hk => ?_, .of_queued (State.enqueue_queued _ _ _) ((State.enqueue_regsKept _ _ _).mono (mem_lateRegs he))⟩
  · rw [State.enqueue_port, if_pos rfl, State.popFrame_queue]
  · simp only [List.mem_cons, List.not_mem_nil, or_false, not_or] at hk
    rw [State.enqueue_other _ _ hk.2, State.popFrame_other _ _ hk.1]

/-- The popped frame dropped. -/
theorem popFrame_countDrop :
    let dropAt := (wwyPage p.val).base + 0x05C
    let t := (s.popFrame p.val f).countDrop p.val
    t.word dropAt = satAdd (s.word dropAt) 1 ∧ (t.port p.val).queue = (s.port p.val).queue ∧ keptBut s.port t.port [p.val] ∧ s.movedOn t p.val f [dropAt] := by
  refine ⟨?_, ?_, fun k hk => ?_, .of_queued (State.countDrop_queued _ _) ((State.countDrop_regsKept _ _).mono (by simp))⟩
  · rw [State.countDrop_word _ p.isLt]
    rfl
  · rw [State.countDrop_port, State.popFrame_queue]
  · rw [State.countDrop_port]
    exact s.popFrame_keptBut p.val f k hk

/-- A broadcast sent on where the twin link is off. -/
theorem State.forwardBcast_eq (htwin : s.twinOn = false) (p : Nat) :
    (s.popFrame p f).forwardBcast p f =
      if f.hops ≤ 1 then (if s.field (wwyPage p) 0x048 0 12 = 0 then s.popFrame p f else (s.popFrame p f).countDrop p)
      else (s.popFrame p f).broadcastOn (s.field (wwyPage p) 0x048 0 12) { f with hops := f.hops - 1 } := by
  have hport : (s.popFrame p f).isTwinPort p = false := by
    have : (s.popFrame p f).twinOn = false := htwin
    simp [State.isTwinPort, this]
  have hfield : (s.popFrame p f).field (wwyPage p) 0x048 0 12 = s.field (wwyPage p) 0x048 0 12 := rfl
  simp only [State.forwardBcast, hport, hfield, Bool.or_false, decide_eq_true_eq]
  by_cases hmask : s.field (wwyPage p) 0x048 0 12 = 0
  · rw [if_pos hmask, if_pos hmask, hmask, State.broadcastOn_zero, ite_self]
  · rw [if_neg hmask, if_neg hmask]

/-- The popped frame sent round with one hop less. -/
theorem popFrame_broadcastOn (htwin : s.twinOn = false) (mask : Nat) :
    let g := { f with hops := f.hops - 1 }
    let t := (s.popFrame p.val f).broadcastOn mask g
    (∀ e, e < 12 → if mask.testBit e = true ∧ (s.port e).up = true then (t.port e).queue = (s.port e).queue ++ [g] else (t.port e).queue = (s.port e).queue) ∧
      s.movedOn t p.val f [] := by
  refine ⟨fun e he => ?_, .of_queued (State.broadcastOn_queued _ _ _) (State.broadcastOn_regsKept _ _ _ htwin)⟩
  have hport := (s.popFrame p.val f).broadcastOn_port mask { f with hops := f.hops - 1 } htwin he
  rw [State.popFrame_up] at hport
  rw [hport]
  split
  · exact congrArg (· ++ [_]) (s.popFrame_queue p.val e f)
  · exact s.popFrame_queue p.val e f

end

/-- Settles O40: the branches of FRAME_FORWARD, each one frame queued, dropped or sent round after it has left the buffer. -/
theorem framesForward : Obligations.FramesForward := by
  unfold Obligations.FramesForward
  intro p f s r on dropAt late moved hhead hother htwin
  have hexec := frameForward_eq hhead hother htwin
  rw [hexec]
  refine ⟨_, rfl, fun hb hh hr hup => ?_, fun hb hh hr hdown hup => ?_, fun hb hcause => ?_, fun hb hh => ?_, fun hb hh hmask => ?_⟩
  · have hegress : s.egress f = some r.1 := (if_neg (show ¬ 12 ≤ r.1 by omega)).trans (if_pos hup)
    rw [if_neg (by simp [hb]), if_neg (by omega), State.sentOn, popFrame_egress, hegress]
    exact popFrame_enqueue hr
  · have hegress : s.egress f = some r.2 :=
      (if_neg (show ¬ 12 ≤ r.1 by omega)).trans ((if_neg (show ¬ s.portUp r.1 = true by simp [hdown])).trans (if_pos hup))
    rw [if_neg (by simp [hb]), if_neg (by omega), State.sentOn, popFrame_egress, hegress]
    exact popFrame_enqueue (State.portUp_lt hup)
  · rw [if_neg (by simp [hb])]
    split
    · exact popFrame_countDrop
    next hh =>
      have hegress : s.egress f = none := by
        obtain h | h | ⟨h1, h2⟩ := hcause
        · omega
        · exact if_pos h
        · show (if 12 ≤ r.1 then none else if s.portUp r.1 then some r.1 else if s.portUp r.2 then some r.2 else none) = none
          simp [h1, h2]
      rw [State.sentOn, popFrame_egress, hegress]
      exact popFrame_countDrop
  · rw [if_pos hb, State.forwardBcast_eq htwin, if_neg (by omega)]
    exact popFrame_broadcastOn htwin (s.field (wwyPage p.val) 0x048 0 12)
  · rw [if_pos hb, State.forwardBcast_eq htwin, if_pos (by omega), if_neg hmask]
    exact popFrame_countDrop

end Sys2Proof.Machine
end

section
/-! Proofs: heartbeats, the liveness of seats, and quorum (R381 to R385, R389). -/

namespace Sys2Proof.Machine

/-! ### Lists by key, and rising lists -/

theorem getKey_ins {β : Type} (v : β) {k : Nat} : ∀ m : List (Nat × β), (∀ p ∈ m, p.1 ≠ k) → getKey (SMap.ins m k v) k = some v
  | [], _ => by simp [SMap.ins, getKey]
  | p :: m, hm => by
    obtain ⟨hp, hm⟩ := List.forall_mem_cons.mp hm
    have ih := getKey_ins v m hm
    unfold getKey at ih ⊢
    by_cases hk : k < p.1
    · simp [SMap.ins, hk]
    · simpa [SMap.ins, hk, hp] using ih

theorem getKey_putKey {β : Type} (m : List (Nat × β)) (k : Nat) (v : β) : getKey (putKey m k v) k = some v := getKey_ins v _ SMap.del_ne

theorem mem_putSorted (n : Nat) : ∀ l : List Nat, n ∈ putSorted n l
  | [] => List.mem_singleton_self n
  | m :: l => by
    unfold putSorted
    split
    · exact List.mem_cons_self
    · split
      next h => exact h ▸ List.mem_cons_self
      next => exact List.mem_cons_of_mem _ (mem_putSorted n l)

/-! ### Slots -/

theorem State.slot_congr {s t : State} (h : t.slots = s.slots) (i : Nat) : t.slot i = s.slot i := by rw [State.slot, State.slot, h]

theorem State.setSlot_other (s : State) {i k : Nat} (x : Slot) (h : k ≠ i) : (s.setSlot i x).slot k = s.slot k := by rw [State.setSlot_slot, if_neg h]

theorem State.slotOf_valid {s : State} {j i : Nat} (h : s.slotOf j = some i) : (s.slot i).valid = true := by
  have hp := List.find?_some h
  simp only [Bool.and_eq_true, decide_eq_true_eq] at hp
  exact hp.1

theorem holdsQuorum_iff (x : Slot) :
    x.holdsQuorum = true ↔ (x.seats.length < 2 * (x.seats.length - x.dead.length) ∨ (2 * (x.seats.length - x.dead.length) = x.seats.length ∧ 0 ∉ x.dead)) := by
  simp only [Slot.holdsQuorum, Bool.or_eq_true, Bool.and_eq_true, decide_eq_true_eq]
  simp [Slot.count, Slot.live]

/-! ### Quorum after liveness has changed (R384, R385, R389) -/

/-- What the end of mirroring or a change of quorum may touch. -/
def State.Quorate (s t : State) : Prop := ∃ slots regs twin, t = { s with slots := slots, regs := regs, twin := twin }

theorem State.Quorate.trans {a b c : State} : a.Quorate b → b.Quorate c → a.Quorate c := by
  rintro ⟨_, _, _, rfl⟩ ⟨_, _, _, rfl⟩
  exact ⟨_, _, _, rfl⟩

theorem State.Quorate.eq {s t : State} : s.Quorate t → t = { s with slots := t.slots, regs := t.regs, twin := t.twin } := by
  rintro ⟨_, _, _, rfl⟩
  rfl

theorem State.setSlot_quorate (s : State) (i : Nat) (x : Slot) : s.Quorate (s.setSlot i x) := ⟨_, _, _, rfl⟩

theorem State.setSlot_counts {offs : List Nat} (s : State) (i : Nat) (x : Slot) : s.Counts offs (s.setSlot i x) := .of_regs rfl

theorem State.stopTwin_quorate (s : State) : s.Quorate s.stopTwin := ⟨s.slots, _, _, s.stopTwin_frame.2⟩

theorem State.stopTwin_stops (s : State) : s.stopTwin.twin.mirroring = false := by
  by_cases h : s.twin.mirroring = true
  · exact (s.stopTwin_mirroring h).1
  · rw [Bool.not_eq_true] at h
    rw [s.stopTwin_off h, h]

theorem State.stopTwin_slot (s : State) (k : Nat) : s.stopTwin.slot k = s.slot k := State.slot_congr (by rw [s.stopTwin_frame.2]) k

section
variable (s : State) (j k : Nat)

theorem State.stopTwinOf_quorate : s.Quorate (s.stopTwinOf j) := by
  unfold State.stopTwinOf
  split
  · exact s.stopTwin_quorate
  · exact ⟨_, _, _, rfl⟩

theorem State.stopTwinOf_counts : s.Counts [] (s.stopTwinOf j) := by
  unfold State.stopTwinOf
  split
  · exact s.stopTwin_counts
  · exact .refl s

theorem State.stopTwinOf_slot : (s.stopTwinOf j).slot k = s.slot k := by
  unfold State.stopTwinOf
  split
  · exact s.stopTwin_slot k
  · rfl

theorem State.stopTwinOf_stops (hon : s.twinOn = true) (hjob : s.twinJob = j) : (s.stopTwinOf j).twin.mirroring = false := by
  rw [State.stopTwinOf, if_pos (by simp [hon, hjob])]
  exact s.stopTwin_stops

end

/-- The loss of a slot's quorum, counted and shown. -/
def State.lossNoted (s : State) (i : Nat) : State := (s.setSlot i { s.slot i with quorum := false, losses := (s.slot i).losses + 1 }).raise .stmQrm 1

theorem State.lossNoted_quorate (s : State) (i : Nat) : s.Quorate (s.lossNoted i) := ⟨_, _, s.twin, rfl⟩

theorem State.lossNoted_counts (s : State) (i : Nat) : s.Counts [] (s.lossNoted i) :=
  (s.setSlot_counts i _).trans (State.raise_counts _ _ _)

theorem State.lossNoted_slot (s : State) (i k : Nat) :
    (s.lossNoted i).slot k = if k = i then { s.slot i with quorum := false, losses := (s.slot i).losses + 1 } else s.slot k := s.setSlot_slot i k _

/-- A slot's quorum is lost: counted, shown, and the mirror of its job stops. -/
def State.quorumLostAt (s : State) (i : Nat) : State := (s.lossNoted i).stopTwinOf (s.slot i).job

section
variable {s : State} {i : Nat}

theorem State.checkQuorum_lost (hv : (s.slot i).valid = true) (hq : (s.slot i).quorum = true) (hh : (s.slot i).holdsQuorum = false) :
    s.checkQuorum i = s.quorumLostAt i := by simp [State.checkQuorum, State.quorumLostAt, State.lossNoted, hv, hq, hh]

theorem State.checkQuorum_kept (hv : (s.slot i).valid = true) (hh : (s.slot i).quorum = false ∨ (s.slot i).holdsQuorum = true) :
    s.checkQuorum i = s.setSlot i { s.slot i with quorum := (s.slot i).holdsQuorum } := by
  obtain h | h := hh <;> simp [State.checkQuorum, hv, h]

theorem State.quorumLostAt_slot (k : Nat) :
    (s.quorumLostAt i).slot k = if k = i then { s.slot i with quorum := false, losses := (s.slot i).losses + 1 } else s.slot k := by
  rw [State.quorumLostAt, State.stopTwinOf_slot, State.lossNoted_slot]

theorem State.quorumLostAt_counts : s.Counts [] (s.quorumLostAt i) := (s.lossNoted_counts i).trans (State.stopTwinOf_counts _ _)

theorem State.quorumLostAt_stat : ((s.quorumLostAt i).reg .stmQrm offErrStat).getLsbD 1 = true :=
  (State.stopTwinOf_counts _ _).stat _ _ (State.raise_stat_set _ _ (by decide))

theorem State.quorumLostAt_stops (hon : s.twinOn = true) (hjob : s.twinJob = (s.slot i).job) : (s.quorumLostAt i).twin.mirroring = false := by
  have hreg : (s.lossNoted i).reg .twn 0x040 = s.reg .twn 0x040 := (s.lossNoted_counts i).reg _ _ (by decide) (by decide) (by decide)
  refine State.stopTwinOf_stops _ _ ?_ ?_
  · rw [State.twinOn, State.field, hreg]
    exact hon
  · rw [State.twinJob, State.field, hreg]
    exact hjob

/-- What a check of quorum does: the slot's QUORUM follows R384, and other slots stay. -/
structure State.Rechecked (s t : State) (i : Nat) : Prop where
  quorate : s.Quorate t
  counts : s.Counts [] t
  others : keptBut s.slot t.slot [i]
  slot : ∃ losses, t.slot i = { s.slot i with quorum := (s.slot i).holdsQuorum, losses := losses }

theorem State.checkQuorum_rechecked (hv : (s.slot i).valid = true) : s.Rechecked (s.checkQuorum i) i := by
  by_cases hlost : (s.slot i).quorum = true ∧ (s.slot i).holdsQuorum = false
  · obtain ⟨hq, hh⟩ := hlost
    rw [State.checkQuorum_lost hv hq hh]
    refine ⟨(s.lossNoted_quorate i).trans (State.stopTwinOf_quorate _ _), State.quorumLostAt_counts, fun k hk => ?_, ⟨(s.slot i).losses + 1, ?_⟩⟩
    · rw [State.quorumLostAt_slot, if_neg (by simpa using hk)]
    · rw [State.quorumLostAt_slot, if_pos rfl, hh]
  · have hkept : (s.slot i).quorum = false ∨ (s.slot i).holdsQuorum = true := by
      rwa [not_and_or, Bool.not_eq_true, Bool.not_eq_false] at hlost
    rw [State.checkQuorum_kept hv hkept]
    exact ⟨s.setSlot_quorate _ _, .of_regs rfl, fun k hk => s.setSlot_other _ (by simpa using hk), ⟨_, s.setSlot_same i _⟩⟩

end

/-! ### A heartbeat taken (R382, R383) -/

/-- A slot with one of its seats live at a step. -/
def Slot.heard (x : Slot) (seat : Nat) (v : U48) : Slot := { x with dead := x.dead.filter (fun d => !decide (d = seat)), steps := putKey x.steps seat v }

theorem State.seatFrame_of_seat {s : State} {f : Frame} {j i seat : Nat} (hj : s.jobOfKey f.jobKey = some j) (hi : s.slotOf j = some i)
    (hseat : (s.slot i).seats[seat]? = some f.src) : s.seatFrame f seat = some i := by
  simp [State.seatFrame, hj, hi, Slot.endpoint, hseat]

theorem State.seatFrame_valid {s : State} {f : Frame} {i seat : Nat} (h : s.seatFrame f seat = some i) : (s.slot i).valid = true := by
  unfold State.seatFrame at h
  split at h
  · split at h
    next k hslot =>
      split at h
      · obtain rfl := Option.some.inj h
        exact State.slotOf_valid hslot
      · exact absurd h (by simp)
    next => exact absurd h (by simp)
  · exact absurd h (by simp)

theorem State.Taken.seatFrame {s a : State} {q : Nat} {f : Frame} (h : s.Taken a q f) (g : Frame) (seat : Nat) : a.seatFrame g seat = s.seatFrame g seat := by
  obtain ⟨_, _, _, rfl⟩ := h.only
  rfl

theorem State.Taken.slots {s a : State} {q : Nat} {f : Frame} (h : s.Taken a q f) : a.slots = s.slots ∧ a.streams = s.streams := by
  obtain ⟨_, _, _, rfl⟩ := h.only
  exact ⟨rfl, rfl⟩

theorem State.Quorate.waits {s t : State} : s.Quorate t → s.Waits t := by
  rintro ⟨_, _, _, rfl⟩
  exact .of_same rfl rfl

theorem State.Quorate.mem {s t : State} : s.Quorate t → t.mem = s.mem ∧ t.streams = s.streams := by
  rintro ⟨_, _, _, rfl⟩
  exact ⟨rfl, rfl⟩

/-- What HEARTBEAT_FRAME does with a frame that it has taken. -/
theorem heartbeatFrame_eq {p : Fin 12} {s : State} {x : Nat × Frame} (h : s.frameFor p.val ftHeartbeat = some x) :
    ∃ a, s.Taken a x.1 x.2 ∧ exec (.heartbeatFrame p) s = .next (match s.seatFrame x.2 (x.2.field 8 2) with
      | some i => (a.setSlot i ((a.slot i).heard (x.2.field 8 2) (BitVec.ofNat 48 (x.2.field 0 6)))).checkQuorum i
      | none => a.countSat .stmQrm 0x080) := by
  obtain ⟨a, hon, htaken⟩ := State.onFrame_of_frameFor p.isLt h (fun t _ f =>
    match t.seatFrame f (f.field 8 2) with
    | some i => (t.setSlot i ((t.slot i).heard (f.field 8 2) (BitVec.ofNat 48 (f.field 0 6)))).checkQuorum i
    | none => t.countSat .stmQrm 0x080)
  refine ⟨a, htaken, ?_⟩
  rw [← htaken.seatFrame, ← hon]
  rfl

/-- The seat of a slot that a heartbeat comes from is live, its STEP recorded, and QUORUM follows R384. -/
theorem State.Taken.heard {s a : State} {q i seat : Nat} {f : Frame} (h : s.Taken a q f) (v : U48) (hvalid : (s.slot i).valid = true) :
    let t := (a.setSlot i ((a.slot i).heard seat v)).checkQuorum i
    a.Quorate t ∧ a.Counts [] t ∧ keptBut s.slot t.slot [i] ∧
      ∃ losses, t.slot i = { (s.slot i).heard seat v with quorum := ((s.slot i).heard seat v).holdsQuorum, losses := losses } := by
  have hslot (k : Nat) : a.slot k = s.slot k := State.slot_congr h.slots.1 k
  have hset : (a.setSlot i ((a.slot i).heard seat v)).slot i = (s.slot i).heard seat v := by rw [State.setSlot_same, hslot]
  obtain ⟨hquorate, hcounts, hothers, losses, hrechecked⟩ := State.checkQuorum_rechecked (s := a.setSlot i ((a.slot i).heard seat v)) (by rw [hset]; exact hvalid)
  refine ⟨(a.setSlot_quorate i _).trans hquorate, (a.setSlot_counts i _).trans hcounts, fun k hk => ?_, losses, ?_⟩
  · rw [hothers k hk, State.setSlot_other _ _ (by simpa using hk), hslot]
  · rw [hrechecked, hset]

/-! ### Heartbeats sent (R381) -/

/-- The HEARTBEAT of a slot. -/
def State.beat (s : State) (i : Nat) : Frame :=
  s.ownBroadcast (s.slot i).job ftHeartbeat (leBytes 8 (s.job (s.slot i).job).lastStep ++ leBytes 2 (s.slot i).self ++ leBytes 2 0 ++ leBytes 4 (s.slot i).hbSeq.toNat)

/-- A slot once its HEARTBEAT is sent. -/
def Slot.beaten (x : Slot) : Slot := if x.valid then { x with hbSeq := x.hbSeq + 1 } else x

/-- The ports that broadcasts of this module go to. -/
def State.hears (s : State) (e : Nat) : Prop := e < 12 ∧ (s.field .wwyMod 0x06C 0 12).testBit e = true ∧ (s.port e).up = true

/-- Frames have joined queues, and slots may differ. -/
def State.Beats (s t : State) : Prop := s.Queued { t with slots := s.slots }

theorem State.Queued.withSlots {s t : State} (h : s.Queued t) (slots : List (Nat × Slot)) : { s with slots := slots }.Queued { t with slots := slots } := by
  refine ⟨h.port, ⟨h.counts.reg, h.counts.stat⟩, ?_, h.out⟩
  obtain ⟨_, _, _, rfl⟩ := h.linked
  exact ⟨_, _, _, rfl⟩

namespace State.Beats

theorem refl (s : State) : s.Beats s := State.Queued.refl s

theorem trans {a b c : State} (h : a.Beats b) (k : b.Beats c) : a.Beats c := State.Queued.trans h (State.Queued.withSlots k a.slots)

theorem of_queued {s t : State} (h : s.Queued t) : s.Beats t := by
  have hslots : t.slots = s.slots := by rw [h.linked.eq]
  unfold State.Beats
  rw [← hslots]
  exact h

theorem setSlot (s : State) (i : Nat) (x : Slot) : s.Beats (s.setSlot i x) := State.Queued.refl s

section
variable {s t : State} (h : s.Beats t)
include h

theorem eq : t = { s with slots := t.slots, ports := t.ports, regs := t.regs } := by
  have hframe := (State.Queued.linked h).eq_of_out (State.Queued.out h)
  obtain ⟨⟩ := t
  injection hframe
  subst_vars
  rfl

theorem twinOn : t.twinOn = s.twinOn := (State.Queued.fabric h).twinOn

theorem mem_queue {e : Nat} {f : Frame} (hf : f ∈ (s.port e).queue) : f ∈ (t.port e).queue := State.Queued.mem_queue h hf

theorem hears {e : Nat} (he : s.hears e) : t.hears e := by
  obtain ⟨hlt, hmask, hup⟩ := he
  have hreg : t.reg .wwyMod 0x06C = s.reg .wwyMod 0x06C := (State.Queued.counts h).reg .wwyMod 0x06C (by decide) (by decide) (by decide)
  refine ⟨hlt, ?_, (State.Queued.up h e).trans hup⟩
  rw [State.field, hreg]
  exact hmask

theorem beat {i : Nat} (hi : t.slot i = s.slot i) : t.beat i = s.beat i := by
  have hself : t.selfId = s.selfId := (State.Queued.fabric h).selfId
  have hjob (j : Nat) : t.job j = s.job j := by rw [h.eq]; rfl
  have hkey (j : Nat) : t.jobKey j = s.jobKey j := by rw [h.eq]; rfl
  simp only [State.beat, State.ownBroadcast, State.jobFrame, hi, hself, hjob, hkey]

end

end State.Beats

theorem State.sendClean_queued (s : State) (j : Nat) : s.Queued (s.sendClean j) := by
  unfold State.sendClean
  split
  · exact s.broadcastOn_queued _ _
  · exact .refl s

section
variable {s : State} {i : Nat}

theorem State.sendHeartbeat_valid (hv : (s.slot i).valid = true) :
    s.sendHeartbeat i = ((s.broadcast (s.beat i)).setSlot i { (s.broadcast (s.beat i)).slot i with hbSeq := (s.slot i).hbSeq + 1 }).sendClean (s.slot i).job :=
  if_pos hv

theorem State.sendHeartbeat_invalid (hv : (s.slot i).valid = false) : s.sendHeartbeat i = s := if_neg (by simp [hv])

theorem State.sendHeartbeat_beats : s.Beats (s.sendHeartbeat i) := by
  by_cases hv : (s.slot i).valid = true
  · rw [State.sendHeartbeat_valid hv]
    exact ((State.Beats.of_queued (s.broadcast_queued _)).trans (.setSlot _ _ _)).trans (.of_queued (State.sendClean_queued _ _))
  · rw [State.sendHeartbeat_invalid (by simpa using hv)]
    exact .refl s

theorem State.Queued.slot {t : State} (h : s.Queued t) (k : Nat) : t.slot k = s.slot k := State.slot_congr (by rw [h.linked.eq]) k

theorem State.sendHeartbeat_slot (k : Nat) : (s.sendHeartbeat i).slot k = if k = i then (s.slot i).beaten else s.slot k := by
  by_cases hv : (s.slot i).valid = true
  · rw [State.sendHeartbeat_valid hv, (State.sendClean_queued _ _).slot, State.setSlot_slot, (s.broadcast_queued _).slot, (s.broadcast_queued _).slot, Slot.beaten, if_pos hv]
  · rw [State.sendHeartbeat_invalid (by simpa using hv), Slot.beaten, if_neg hv]
    split
    next h => rw [h]
    next => rfl

theorem State.sendHeartbeat_queues (htwin : s.twinOn = false) (hv : (s.slot i).valid = true) {e : Nat} (he : s.hears e) :
    s.beat i ∈ ((s.sendHeartbeat i).port e).queue := by
  obtain ⟨hlt, hmask, hup⟩ := he
  have hsent : s.beat i ∈ ((s.broadcast (s.beat i)).port e).queue := by
    rw [State.broadcast, State.broadcastOn_port _ _ _ htwin hlt, if_pos ⟨hmask, hup⟩]
    exact List.mem_append_right _ (List.mem_singleton_self _)
  rw [State.sendHeartbeat_valid hv]
  exact (State.sendClean_queued _ _).mem_queue hsent

end

/-- Heartbeats sent for the slots of a list. -/
theorem State.sendHeartbeats (l : List Nat) (hl : l.Nodup) : ∀ s : State, s.twinOn = false →
    let t := s.forEach l (fun t i => t.sendHeartbeat i)
    s.Beats t ∧ (∀ k, t.slot k = if k ∈ l then (s.slot k).beaten else s.slot k) ∧
      ∀ i ∈ l, (s.slot i).valid = true → ∀ e, s.hears e → s.beat i ∈ (t.port e).queue := by
  induction l with
  | nil => exact fun s _ => ⟨.refl s, fun k => (if_neg (by simp)).symm, fun i hi => nomatch hi⟩
  | cons p l ih =>
    intro s htwin
    obtain ⟨hp, hl⟩ := List.nodup_cons.mp hl
    have hfirst : s.Beats (s.sendHeartbeat p) := State.sendHeartbeat_beats
    obtain ⟨hrest, hslots, hqueues⟩ := ih hl (s.sendHeartbeat p) (hfirst.twinOn.trans htwin)
    refine ⟨hfirst.trans hrest, fun k => ?_, fun i hi hv e he => ?_⟩
    · rw [State.forEach, List.foldl_cons, ← State.forEach, hslots, State.sendHeartbeat_slot]
      by_cases hk : k = p
      · subst hk
        simp [hp]
      · simp [hk]
    · obtain rfl | hi := List.mem_cons.mp hi
      · exact hrest.mem_queue (State.sendHeartbeat_queues htwin hv he)
      · have hslot : (s.sendHeartbeat p).slot i = s.slot i := by
          rw [State.sendHeartbeat_slot, if_neg (fun h : i = p => hp (h ▸ hi))]
        rw [← hfirst.beat hslot]
        exact hqueues i hi (by rw [hslot]; exact hv) e (hfirst.hears he)

/-! ### A seat expires (R383, R385, R389) -/

/-- A slot with a seat noted dead. -/
def Slot.without (x : Slot) (seat : Nat) : Slot := { x with dead := putSorted seat x.dead }

/-- A seat noted dead, and the mirror stopped where the seat is the twin partner's. -/
def State.seatExpired (s : State) (i seat : Nat) : State :=
  let a := s.setSlot i ((s.slot i).without seat)
  if a.twinOn ∧ a.twinJob = (s.slot i).job ∧ (s.slot i).endpoint seat = some a.twinPartner then a.stopTwin else a

/-- The mirror apart, only the slot has changed. -/
theorem State.seatExpired_spec (s : State) (i seat : Nat) :
    s.Quorate (s.seatExpired i seat) ∧ s.Counts [] (s.seatExpired i seat) ∧ ∀ k, (s.seatExpired i seat).slot k = if k = i then (s.slot i).without seat else s.slot k := by
  unfold State.seatExpired
  dsimp only
  split
  · refine ⟨(s.setSlot_quorate _ _).trans (State.stopTwin_quorate _), (s.setSlot_counts _ _).trans (State.stopTwin_counts _), fun k => ?_⟩
    rw [State.stopTwin_slot, State.setSlot_slot]
  · exact ⟨s.setSlot_quorate _ _, s.setSlot_counts _ _, fun k => s.setSlot_slot i k _⟩

theorem seatLivenessExpiry_checks {s : State} {i : Fin 8} {seat : Nat} (hv : (s.slot i.val).valid = true) (hlt : seat < (s.slot i.val).seats.length)
    (hself : seat ≠ (s.slot i.val).self) (hlive : seat ∉ (s.slot i.val).dead) :
    exec (.seatLivenessExpiry i seat) s = .next ((s.seatExpired i.val seat).checkQuorum i.val) := by
  have hcond : (s.slot i.val).valid ∧ seat < (s.slot i.val).count ∧ seat ≠ (s.slot i.val).self ∧ (s.slot i.val).dead.contains seat = false :=
    ⟨hv, hlt, hself, by simpa using hlive⟩
  show execSeatLivenessExpiry i seat s = _
  exact congrArg Host.Outcome.next (if_pos hcond)

theorem State.SameFabric.twinJob {s t : State} (h : s.SameFabric t) : t.twinJob = s.twinJob := by rw [State.twinJob, State.twinJob, State.field, State.field, h.twin]

/-- Settles O47: a period sends the slots' frames one after another, and a change of liveness is followed by one check of quorum. -/
theorem heartbeatsKeepSeatsLive : Obligations.HeartbeatsKeepSeatsLive := by
  unfold Obligations.HeartbeatsKeepSeatsLive
  refine ⟨fun s hbase hpower htwin => ?_, fun p s x hx => ?_, holdsQuorum_iff, ?_⟩
  · obtain ⟨hbeats, hslots, hqueues⟩ := State.sendHeartbeats (List.range 8) List.nodup_range s htwin
    have hcond : (s.baseUp 1 && (decide (s.pwr.st = .run) || decide (s.pwr.st = .hold))) = true := by simpa [hbase] using hpower
    refine ⟨_, congrArg Host.Outcome.next (if_pos hcond), hbeats.eq, fun i hi => ⟨?_, fun hv e he hmask hup => hqueues i (List.mem_range.mpr hi) hv e ⟨he, hmask, hup⟩⟩⟩
    rw [hslots, if_pos (List.mem_range.mpr hi), Slot.beaten]
  · obtain ⟨a, htaken, hexec⟩ := heartbeatFrame_eq hx
    cases hframe : s.seatFrame x.2 (x.2.field 8 2) with
    | none =>
      rw [hframe] at hexec
      have hcounted : (a.countSat .stmQrm 0x080).reg .stmQrm 0x080 = satAdd (s.reg .stmQrm 0x080) 1 := by
        rw [← htaken.counts.reg .stmQrm 0x080 (by decide) (by decide) (by decide)]
        exact State.setReg_same _ _ _ _
      refine ⟨_, hexec, (State.Waits.of_same rfl rfl).took htaken.took, htaken.mem, htaken.slots.2, fun j hj i hi hseat => ?_, fun _ => ⟨htaken.slots.1, hcounted⟩⟩
      exact absurd ((State.seatFrame_of_seat hj hi hseat).symm.trans hframe) (by simp)
    | some i =>
      rw [hframe] at hexec
      obtain ⟨hquorate, hcounts, hothers, losses, hslot⟩ := htaken.heard (i := i) (seat := x.2.field 8 2) (BitVec.ofNat 48 (x.2.field 0 6)) (State.seatFrame_valid hframe)
      refine ⟨_, hexec, hquorate.waits.took htaken.took, hquorate.mem.1.trans htaken.mem, hquorate.mem.2.trans htaken.slots.2, fun j hj i' hi hseat => ?_,
        fun hnone => absurd (hnone.symm.trans hframe) (by simp)⟩
      obtain rfl : i' = i := Option.some.inj ((State.seatFrame_of_seat hj hi hseat).symm.trans hframe)
      have hreg := (hcounts.reg .stmQrm 0x080 (by decide) (by decide) (by decide)).trans (htaken.counts.reg .stmQrm 0x080 (by decide) (by decide) (by decide))
      rw [hslot]
      exact ⟨by simp [Slot.heard], getKey_putKey _ _ _, rfl, rfl, hothers, hreg⟩
  · intro i seat s x dead y hv hlt hself hlive
    obtain ⟨hquorate, hcounts, hslots⟩ := s.seatExpired_spec i.val seat
    have hslot : (s.seatExpired i.val seat).slot i.val = y := (hslots _).trans (if_pos rfl)
    have hvalid : ((s.seatExpired i.val seat).slot i.val).valid = true := by rw [hslot]; exact hv
    obtain ⟨hrechecked, _, hothers, losses, hnext⟩ := State.checkQuorum_rechecked hvalid
    refine ⟨_, seatLivenessExpiry_checks hv hlt hself hlive, ?_, fun k hk => ?_, (hquorate.trans hrechecked).eq, fun hholds => ?_, fun hlost hquorum => ?_⟩
    · rw [hnext, hslot]
      exact mem_putSorted seat _
    · rw [hothers k hk, hslots, if_neg (by simpa using hk)]
    · rw [State.checkQuorum_kept hvalid (.inr (by rw [hslot]; exact hholds)), State.setSlot_same, hslot, hholds]
    · rw [State.checkQuorum_lost hvalid (by rw [hslot]; exact hquorum) (by rw [hslot]; exact hlost)]
      have hfabric : s.SameFabric (s.seatExpired i.val seat) := .of_counts hcounts (by decide) (by decide)
      refine ⟨?_, State.quorumLostAt_stat, fun hon hjob => State.quorumLostAt_stops (hfabric.twinOn.trans hon) ?_⟩
      · rw [State.quorumLostAt_slot, if_pos rfl, hslot]
      · rw [hfabric.twinJob, hslot]
        exact hjob

end Sys2Proof.Machine
end

section
/-! Proofs: COLL_READY and COLL_DATA frames (R349, R364 to R366). -/

namespace Sys2Proof.Machine

/-! ### A collective put in its place -/

theorem State.findColl_setColl {s : State} {x c : Coll} (hmem : x ∈ s.colls) (hstream : x.stream = c.stream) (hslot : x.slot = c.slot) :
    (s.setColl c).findColl c.stream c.slot = some c := by
  have hkey (y : Coll) : (decide ((if y.stream = c.stream ∧ y.slot = c.slot then c else y).stream = c.stream) &&
      decide ((if y.stream = c.stream ∧ y.slot = c.slot then c else y).slot = c.slot)) = (decide (y.stream = c.stream) && decide (y.slot = c.slot)) := by
    split
    next h => simp [h]
    next => rfl
  obtain ⟨y, hy⟩ : ∃ y, s.colls.find? (fun y => decide (y.stream = c.stream) && decide (y.slot = c.slot)) = some y := by
    rw [← Option.isSome_iff_exists, List.find?_isSome]
    exact ⟨x, hmem, by simp [hstream, hslot]⟩
  have hyc := List.find?_some hy
  simp only [Bool.and_eq_true, decide_eq_true_eq] at hyc
  simp only [State.findColl, State.setColl, List.find?_map, Function.comp_def, hkey, hy, Option.map_some, hyc, and_self, if_true]

theorem State.forEach_fixed {β : Type} {f : State → β → State} {s : State} (h : ∀ b, f s b = s) (l : List β) : s.forEach l f = s := List.foldl_fixed' h l

/-- A collective whose own blocks are not loaded sends none. -/
theorem State.pump_unloaded {s : State} {c : Coll} {n slot : Nat} (hfind : s.findColl n slot = some c) (hload : c.loaded = false) (count : Nat) :
    s.pump n slot count = s := by
  have hone (q : Nat) : s.pumpOne n slot q = s := by simp [State.pumpOne, hfind, hload]
  exact State.forEach_fixed (fun q => State.forEach_fixed (fun _ => hone q) _) _

/-! ### Frames of a job handled -/

theorem State.onJobFrame_of_frameFor {s : State} {p type j : Nat} {x : Nat × Frame} (hp : p < 12) (h : s.frameFor p type = some x) (hj : s.frameJob x.2 = some j)
    (k : State → Nat → Frame → Nat → State) : ∃ a, s.onJobFrame p type k = k a x.1 x.2 j ∧ s.Taken a x.1 x.2 := by
  obtain ⟨a, hon, htaken⟩ := State.onFrame_of_frameFor hp h (fun t q f => match t.frameJob f with | some j => k t q f j | none => t.countDrop q)
  have hjob : a.frameJob x.2 = some j := (htaken.frameJob _).trans hj
  refine ⟨a, ?_, htaken⟩
  rw [hjob] at hon
  exact hon

/-- The collective in progress that a frame is for. -/
def State.collFor (s : State) (j : Nat) (f : Frame) : Option Coll :=
  s.colls.find? (fun (c : Coll) => decide (c.job = j) && decide (c.group = f.group) && decide (c.cseq = f.cseq))

/-- What a COLL_READY says. -/
def Frame.ready (f : Frame) (j : Nat) : HeldReady := ⟨j, f.group, f.cseq, f.srcRank, f.phase, f.field 0 4, BitVec.ofNat 32 (f.field 4 4), f.field 8 8⟩

section
variable {s : State} {p : Fin 12} {j : Nat} {x : Nat × Frame} (hj : s.frameJob x.2 = some j) (huni : x.2.bcast = false)
include hj huni

theorem collReadyFrame_eq (h : s.frameFor p.val ftCollReady = some x) :
    ∃ a, s.Taken a x.1 x.2 ∧ a = { s with ports := a.ports, looped := a.looped } ∧ exec (.collReadyFrame p) s = .next (
      match s.collFor j x.2 with
      | some c => if x.2.srcRank < c.count ∧ x.2.srcRank ≠ c.selfRank then a.takeReady c (x.2.ready j) else a
      | none => if x.2.cseq = (s.job j).cseqOf x.2.group ∨ ahead24 x.2.cseq ((s.job j).cseqOf x.2.group) = true then a.holdReady x.1 (x.2.ready j)
        else a.countStale j x.2.group x.1) := by
  obtain ⟨a, hon, htaken⟩ := State.onJobFrame_of_frameFor p.isLt h hj (fun t q f j =>
    let r : HeldReady := ⟨j, f.group, f.cseq, f.srcRank, f.phase, f.field 0 4, BitVec.ofNat 32 (f.field 4 4), f.field 8 8⟩
    let cur := (t.job j).cseqOf f.group
    match t.colls.find? (fun (c : Coll) => decide (c.job = j) && decide (c.group = f.group) && decide (c.cseq = f.cseq)) with
    | some c => if f.srcRank < c.count ∧ f.srcRank ≠ c.selfRank then t.takeReady c r else t
    | none => if f.cseq = cur ∨ ahead24 f.cseq cur = true then t.holdReady q r else t.countStale j f.group q)
  have heq := htaken.unicast_eq huni
  refine ⟨a, htaken, heq, ?_⟩
  have hcolls : a.colls = s.colls := by rw [heq]
  have hjob : a.job j = s.job j := by rw [heq]; rfl
  rw [State.collFor, ← hcolls, ← hjob]
  exact congrArg Host.Outcome.next hon

theorem collDataFrame_eq (h : s.frameFor p.val ftCollData = some x) :
    ∃ a, s.Taken a x.1 x.2 ∧ a = { s with ports := a.ports, looped := a.looped } ∧ exec (.collDataFrame p) s = .next (
      match s.collFor j x.2 with
      | some c => if x.2.srcRank ≠ c.selfRank ∧ (c.expect.getD x.2.srcRank []).contains (x.2.offset, x.2.payload.length) = true then
          (if x.2.grain = crc32c x.2.payload then a.goodBlock c x.2.srcRank x.2 else a.badBlock c x.2.srcRank x.2)
        else a
      | none => if x.2.cseq = (s.job j).cseqOf x.2.group ∨ ahead24 x.2.cseq ((s.job j).cseqOf x.2.group) = true then a
        else a.countStale j x.2.group x.1) := by
  obtain ⟨a, hon, htaken⟩ := State.onJobFrame_of_frameFor p.isLt h hj (fun t from' f j =>
    match t.colls.find? (fun (c : Coll) => decide (c.job = j) && decide (c.group = f.group) && decide (c.cseq = f.cseq)) with
    | some c =>
      let q := f.srcRank
      if q ≠ c.selfRank ∧ (c.expect.getD q []).contains (f.offset, f.payload.length) = true then
        (if f.grain = crc32c f.payload then t.goodBlock c q f else t.badBlock c q f)
      else t
    | none =>
      let cur := (t.job j).cseqOf f.group
      if f.cseq = cur ∨ ahead24 f.cseq cur = true then t else t.countStale j f.group from')
  have heq := htaken.unicast_eq huni
  refine ⟨a, htaken, heq, ?_⟩
  have hcolls : a.colls = s.colls := by rw [heq]
  have hjob : a.job j = s.job j := by rw [heq]; rfl
  rw [State.collFor, ← hcolls, ← hjob]
  exact congrArg Host.Outcome.next hon

end

/-- A COLL_READY that differs from what the member expects of its rank. -/
def Coll.differs (c : Coll) (r : HeldReady) : Prop :=
  r.phase ≠ c.phase ∨ r.shape ≠ c.shapeOut.getD r.rank 0 ∨ r.bytes ≠ ((c.due.getD r.rank []).map (·.2)).sum

/-- A collective with a rank's grant raised. -/
def Coll.raised (c : Coll) (r : HeldReady) : Coll := { c with granted := c.granted.set r.rank (max (c.granted.getD r.rank 0) r.grant) }

theorem State.takeReady_grants {s : State} {c : Coll} {r : HeldReady} (hmem : c ∈ s.colls) (hload : c.loaded = false) (h : ¬ c.differs r) :
    s.takeReady c r = s.setColl (c.raised r) :=
  (if_neg h).trans (State.pump_unloaded (State.findColl_setColl (c := c.raised r) hmem rfl rfl) hload _)

theorem State.Posted.stream {s t : State} (h : s.Posted t) (n : Nat) : t.stream n = s.stream n := by
  obtain ⟨_, _, _, rfl⟩ := h.only
  rfl

theorem State.Posted.runs {s t : State} (h : s.Posted t) (u n : Nat) : t.runs u n = s.runs u n := by
  obtain ⟨_, _, _, rfl⟩ := h.only
  rfl

theorem State.Regs.runs {s t : State} (h : s.Regs t) (u n : Nat) : t.runs u n = s.runs u n := by
  obtain ⟨_, rfl⟩ := h
  rfl

/-- A collective fails the stream where its engine runs no firing of it (R366). -/
theorem State.failColl_fails {s : State} {c : Coll} (code : U16) (hruns : s.runs (816 + c.base) c.stream = false) (hst : (s.stream c.stream).fails) :
    (s.failColl c code).failedWith c.stream code (unitField (816 + c.base)) := by
  have hnoted := s.noteCollFail_onlyRegs c.base c.group c.stream code
  unfold State.failColl
  dsimp only
  rw [if_neg (by rw [hnoted.runs, hruns]; decide)]
  exact (State.failStream_fails code _ (by rw [hnoted.stream]; exact hst)).1

theorem State.takeReady_fails {s : State} {c : Coll} {r : HeldReady} (h : c.differs r) (hruns : s.runs (816 + c.base) c.stream = false) (hst : (s.stream c.stream).fails) :
    (s.takeReady c r).failedWith c.stream S_COLL_SHAPE (unitField (816 + c.base)) := by
  have hposted : s.Posted (if r.grant = 0 then s else s.refuseReady c r.rank) := by
    split
    · exact .of_queued (.refl s)
    · exact s.refuseReady_posted c _
  have htake : s.takeReady c r = (if r.grant = 0 then s else s.refuseReady c r.rank).failColl c S_COLL_SHAPE := if_pos h
  rw [htake]
  exact State.failColl_fails _ (by rw [hposted.runs]; exact hruns) (by rw [hposted.stream]; exact hst)

/-- A sound block of a collective that has no more to grant. -/
theorem State.goodBlock_takes {s : State} {c : Coll} {q : Nat} {f : Frame} (hbad : (c.bad.getD q []).contains f.offset = false) (hneed : c.need.getD q 0 ≤ c.gave.getD q 0) :
    s.goodBlock c q f = (s.countPair (cnsPage c.base) 0x04C 1).setColl (c.received q f) := by
  have hregrant : (c.received q f).regrant q = c.received q f := if_neg fun h => absurd h.1 (Nat.not_lt.mpr hneed)
  rw [State.goodBlock_eq, if_neg (by rw [hbad]; decide)]
  unfold State.afterBlock
  dsimp only
  rw [hregrant, if_pos rfl]

theorem getD_set_same {α : Type} {l : List α} {i : Nat} (v d : α) (h : i < l.length) : (l.set i v).getD i d = v := by simp [h]

theorem ahead24_iff {m n : Nat} : ahead24 m n = true ↔ 1 ≤ (m + 2 ^ 24 - n % 2 ^ 24) % 2 ^ 24 ∧ (m + 2 ^ 24 - n % 2 ^ 24) % 2 ^ 24 < 2 ^ 23 := by
  simp only [ahead24, Bool.and_eq_true, decide_eq_true_eq]

section
variable {s a t : State} (heq : a = { s with ports := a.ports, looped := a.looped })
include heq

/-- Collectives changed after a unicast is taken. -/
theorem State.unicast_colls (h : ∃ colls, t = { a with colls := colls }) : t = { s with ports := t.ports, looped := t.looped, colls := t.colls } := by
  obtain ⟨colls, rfl⟩ := h
  exact congrArg (fun b : State => { b with colls := colls }) heq

/-- The same, with registers. -/
theorem State.unicast_regs_colls (h : ∃ regs colls, t = { a with regs := regs, colls := colls }) :
    t = { s with ports := t.ports, looped := t.looped, regs := t.regs, colls := t.colls } := by
  obtain ⟨regs, colls, rfl⟩ := h
  exact congrArg (fun b : State => { b with regs := regs, colls := colls }) heq

end

/-- A COLL_READY held for a collective to come. -/
theorem State.holdReady_new {s : State} {p : Nat} {r : HeldReady} (hnew : ((s.readys.filter (fun x => x.same r)).any (fun x => decide (x.cseq = r.cseq))) = false)
    (hfew : (s.readys.filter (fun x => x.same r)).length < 4) : s.holdReady p r = { s with readys := s.readys ++ [r] } :=
  (if_neg (by rw [hnew]; decide)).trans (if_neg (Nat.not_le.mpr hfew))

/-- Settles O43: what a COLL_READY grants or refuses, and what a block brings, each a branch of the frame's handling. -/
theorem collectiveFramesCount : Obligations.CollectiveFramesCount := by
  unfold Obligations.CollectiveFramesCount
  refine ⟨fun p s x hx j hj => ?_, fun p s x hx j hj => ?_⟩
  · intro f cur ahead held mine here huni
    obtain ⟨a, htaken, heq, hexec⟩ := collReadyFrame_eq hj huni hx
    cases hfound : s.collFor j x.2 with
    | none =>
      rw [hfound] at hexec
      have hhandles : a.Handles (if x.2.cseq = (s.job j).cseqOf x.2.group ∨ ahead24 x.2.cseq ((s.job j).cseqOf x.2.group) = true then a.holdReady x.1 (x.2.ready j)
          else a.countStale j x.2.group x.1) := by
        split
        · exact a.holdReady_handles _ _
        · exact a.countStale_handles _ _ _
      refine ⟨_, hexec, hhandles.waits.took htaken.took, hhandles.mem.trans htaken.mem, fun _ hseq hfew hnew => ?_,
        fun c hc => absurd (hfound.symm.trans hc) (by simp)⟩
      have hcond : x.2.cseq = (s.job j).cseqOf x.2.group ∨ ahead24 x.2.cseq ((s.job j).cseqOf x.2.group) = true :=
        hseq.imp_right ahead24_iff.mpr
      have hreadys : a.readys = s.readys := by rw [heq]
      dsimp only
      rw [if_pos hcond, State.holdReady_new (by rw [hreadys]; exact hnew) (by rw [hreadys]; exact hfew), hreadys]
      rw [heq]
      rfl
    | some c =>
      rw [hfound] at hexec
      have hhandles : a.Handles (if x.2.srcRank < c.count ∧ x.2.srcRank ≠ c.selfRank then a.takeReady c (x.2.ready j) else a) := by
        split
        · exact a.takeReady_handles _ _
        · exact .refl a
      refine ⟨_, hexec, hhandles.waits.took htaken.took, hhandles.mem.trans htaken.mem, fun hnone => absurd (hfound.symm.trans hnone) (by simp), fun c' hc hlt hself => ?_⟩
      obtain rfl : c' = c := Option.some.inj (hc.symm.trans hfound)
      dsimp only
      rw [if_pos ⟨hlt, hself⟩]
      refine ⟨fun hload hphase hshape hbytes => ?_, fun hdiff hruns hst => ?_⟩
      · have hmem : c' ∈ a.colls := by rw [heq]; exact List.mem_of_find?_eq_some hfound
        have hgrants : a.takeReady c' (x.2.ready j) = a.setColl (c'.raised (x.2.ready j)) :=
          State.takeReady_grants hmem hload (not_or.mpr ⟨not_not.mpr hphase, not_or.mpr ⟨not_not.mpr hshape, not_not.mpr hbytes⟩⟩)
        rw [hgrants]
        exact ⟨State.findColl_setColl (c := c'.raised (x.2.ready j)) hmem rfl rfl, State.unicast_colls heq ⟨_, rfl⟩⟩
      · have hruns' : a.runs (816 + c'.base) c'.stream = false := by rw [heq]; exact hruns
        have hst' : (a.stream c'.stream).fails := by rw [heq]; exact hst
        exact State.takeReady_fails hdiff hruns' hst'
  · intro f q huni c hc
    obtain ⟨a, htaken, heq, hexec⟩ := collDataFrame_eq hj huni hx
    have hfound : s.collFor j x.2 = some c := hc
    rw [hfound] at hexec
    dsimp only at hexec
    by_cases hexpected : x.2.srcRank ≠ c.selfRank ∧ (c.expect.getD x.2.srcRank []).contains (x.2.offset, x.2.payload.length) = true
    · rw [if_pos hexpected] at hexec
      have hhandles : a.Handles (if x.2.grain = crc32c x.2.payload then a.goodBlock c x.2.srcRank x.2 else a.badBlock c x.2.srcRank x.2) := by
        split
        · exact a.goodBlock_handles _ _ _
        · exact a.badBlock_handles _ _ _
      refine ⟨_, hexec, hhandles.waits.took htaken.took, hhandles.mem.trans htaken.mem, fun _ _ hgrain hbad hneed hgot hparts => ?_, fun hnot => ?_⟩
      · have hmem : c ∈ a.colls := by rw [heq]; exact List.mem_of_find?_eq_some hfound
        obtain ⟨regs, hcounted⟩ := a.countPair_onlyRegs (cnsPage c.base) 0x04C 1
        rw [if_pos hgrain, State.goodBlock_takes hbad hneed, hcounted]
        refine ⟨State.unicast_regs_colls heq ⟨regs, _, rfl⟩, c.received x.2.srcRank x.2, State.findColl_setColl (c := c.received x.2.srcRank x.2) hmem rfl rfl,
          getD_set_same _ _ hgot, rfl, rfl, rfl, getD_set_same _ _ hparts⟩
      · exact absurd hexpected (fun h => hnot.elim h.1 fun hmem => hmem (by simpa using h.2))
    · rw [if_neg hexpected] at hexec
      refine ⟨a, hexec, htaken.took, htaken.mem, fun hself hmem => absurd ⟨hself, by simpa using hmem⟩ hexpected, fun _ => heq⟩

end Sys2Proof.Machine
end

section
/-! Proofs: units received on an up port (R327, R329, R333, R341, R342, R344), and a link that goes down (R343). -/

namespace Sys2Proof.Machine

/-! ### One port changed, and registers with it -/

/-- One port stands as given, the other ports are as they were, and nothing but ports, some registers and what is sent has changed. -/
structure State.AtPort (s t : State) (p : Nat) (y : Port) (ks : List Nat) : Prop where
  port : t.port p = y
  others : keptBut s.port t.port [p]
  kept : s.regsKept t ks
  linked : s.Linked t

namespace State.AtPort

variable {s t u : State} {p : Nat} {y z : Port} {ks ls : List Nat}

theorem refl (s : State) (p : Nat) : s.AtPort s p (s.port p) [] := ⟨rfl, keptBut_refl _ _, State.regsKept_of_regs rfl _, .refl s⟩

theorem setPort (h : s.AtPort t p y ks) (z : Port) : s.AtPort (t.setPort p z) p z ks :=
  ⟨t.setPort_same p z, h.others.trans (t.setPort_keptBut p z), h.kept.trans (State.regsKept_of_regs rfl _), h.linked.trans (.setPort t p z)⟩

theorem regs (h : s.AtPort t p y ks) (hu : t.Regs u) (hkept : t.regsKept u ls) : s.AtPort u p y (ls ++ ks) := by
  refine ⟨(hu.port p).trans h.port, fun k hk => (hu.port k).trans (h.others k hk), ?_, h.linked.trans (.regs hu)⟩
  exact (h.kept.mono (List.subset_append_right _ _)).trans (hkept.mono (List.subset_append_left _ _))

theorem trans (h : s.AtPort t p y ks) (k : t.AtPort u p z ls) : s.AtPort u p z (ls ++ ks) :=
  ⟨k.port, h.others.trans k.others, (h.kept.mono (List.subset_append_right _ _)).trans (k.kept.mono (List.subset_append_left _ _)), h.linked.trans k.linked⟩

theorem mono (h : s.AtPort t p y ks) (hsub : ks ⊆ ls) : s.AtPort t p y ls := ⟨h.port, h.others, h.kept.mono hsub, h.linked⟩

end State.AtPort

/-! ### Acknowledgement (R341, R342) -/

/-- What follows the first element that meets a test, or all where none does. -/
def afterFirst {α : Type} (p : α → Bool) (l : List α) : List α :=
  match l.findIdx? p with
  | some i => l.drop (i + 1)
  | none => l

theorem afterFirst_of_any {α : Type} (p : α → Bool) (l : List α) (h : l.any p = true) :
    afterFirst p l = (l.dropWhile (fun a => !p a)).drop 1 ∧ (afterFirst p l).length < l.length := by
  induction l with
  | nil => exact absurd h (by simp)
  | cons a l ih =>
    by_cases ha : p a = true
    · simp [afterFirst, List.findIdx?_cons, ha]
    · have hl : l.any p = true := by simpa [ha] using h
      obtain ⟨hdrop, hlen⟩ := ih hl
      have hcons : afterFirst p (a :: l) = afterFirst p l := by
        obtain ⟨i, hi⟩ : ∃ i, l.findIdx? p = some i := by
          rw [← Option.isSome_iff_exists, List.findIdx?_isSome, hl]
        simp [afterFirst, List.findIdx?_cons, ha, hi]
      rw [hcons, hdrop]
      exact ⟨by simp [ha], by rw [← hdrop, List.length_cons]; omega⟩

theorem afterFirst_of_none {α : Type} (p : α → Bool) (l : List α) (h : l.any p = false) : afterFirst p l = l := by
  have : l.findIdx? p = none := by
    rw [List.findIdx?_eq_none_iff]
    simpa using h
  rw [afterFirst, this]

/-- The units that an ACK leaves in the replay buffer. -/
def Port.keptAfter (x : Port) (a : Nat) : List Kept := afterFirst (fun k => k.lseq == a) x.replay

/-- Replays without progress, after an ACK. -/
def Port.replaysAfter (x : Port) (a : Nat) : Nat := if (x.keptAfter a).length = x.replay.length then x.replays else 0

/-- An ACK releases the replay buffer and nothing else. -/
theorem Port.acked_eq (x : Port) (a : Nat) : ∃ resend, x.acked a = { x with replay := x.keptAfter a, resend := resend, replays := x.replaysAfter a } := by
  have hbeq : (fun k : Kept => decide (k.lseq = a)) = (fun k => k.lseq == a) := rfl
  cases hany : x.replay.any (fun k => decide (k.lseq = a)) with
  | true =>
    obtain ⟨hdrop, hlen⟩ := afterFirst_of_any _ _ hany
    refine ⟨min x.resend (x.keptAfter a).length, ?_⟩
    have hreplays : x.replaysAfter a = 0 := if_neg (Nat.ne_of_lt hlen)
    rw [Port.acked, if_pos hany, hreplays, Port.keptAfter, ← hbeq, hdrop]
  | false =>
    have hsame : x.keptAfter a = x.replay := afterFirst_of_none _ _ hany
    refine ⟨x.resend, ?_⟩
    have hreplays : x.replaysAfter a = x.replays := if_pos (by rw [hsame])
    rw [Port.acked, if_neg (by rw [hany]; decide), hreplays, hsame]

/-- A port with the ACK and the credits of a unit taken. -/
def Port.answered (x : Port) (u : LinkUnit) : Port :=
  { x.acked (u.field 12 12) with credits := (List.range 4).map (fun c => (x.acked (u.field 12 12)).credits.getD c 0 + u.field (32 + 8 * c) 8) }

/-- What an ACK and returned credits leave of an up port's replay buffer, credits and queue. -/
def Port.Answered (x y : Port) (u : LinkUnit) : Prop :=
  y.replay = x.keptAfter (u.field 12 12) ∧ y.replays = x.replaysAfter (u.field 12 12) ∧
    (∀ c, c < 4 → y.credits.getD c 0 = x.credits.getD c 0 + u.field (32 + 8 * c) 8) ∧ y.txSeq = x.txSeq ∧ y.queue = x.queue ∧ y.up = true

theorem Port.answered_answered {x : Port} (hup : x.up = true) (u : LinkUnit) : x.Answered (x.answered u) u := by
  obtain ⟨_, hack⟩ := x.acked_eq (u.field 12 12)
  rw [Port.answered, hack]
  exact ⟨rfl, rfl, fun c hc => by simp [hc], rfl, rfl, hup⟩

/-- The parts of a port that they leave. -/
theorem Port.answered_rest (x : Port) (u : LinkUnit) : (x.answered u).rxSeq = x.rxSeq ∧ (x.answered u).rxBuf = x.rxBuf ∧ (x.answered u).nak = x.nak ∧
    (x.answered u).unacked = x.unacked := by
  obtain ⟨_, hack⟩ := x.acked_eq (u.field 12 12)
  rw [Port.answered, hack]
  exact ⟨rfl, rfl, rfl, rfl⟩

theorem State.takeWord_plain (s : State) (p : Nat) {u : LinkUnit} (h : u.field 24 1 = 0) : s.takeWord p u = s.setPort p ((s.port p).answered u) :=
  if_neg (by omega)

theorem State.takeWord_nak (s : State) (p : Nat) {u : LinkUnit} (h : u.field 24 1 = 1) : s.takeWord p u = (s.setPort p ((s.port p).answered u)).startReplay p :=
  if_pos h

/-! ### A frame accepted (R333, R341, R342) -/

/-- A port with a frame accepted in order. -/
def Port.accepted (x : Port) (lseq : Nat) (f : Frame) : Port :=
  { x with
    rxSeq := lseq, nak := false, unacked := x.unacked + 1
    rxBuf := if f.wellFormed then x.rxBuf ++ [f] else x.rxBuf
    owed := if f.wellFormed then x.owed else x.owed.set f.cls (x.owed.getD f.cls 0 + f.credits) }

/-- A frame stored, or dropped and counted. -/
def State.frameStored (s : State) (p lseq : Nat) (f : Frame) : State :=
  if f.wellFormed then s.setPort p ((s.port p).accepted lseq f) else (s.setPort p ((s.port p).accepted lseq f)).countDrop p

theorem State.acceptFrame_eq (s : State) (p lseq : Nat) (f : Frame) :
    s.acceptFrame p lseq f = if 64 ≤ (s.port p).unacked + 1 then (s.frameStored p lseq f).sendEmpty p else s.frameStored p lseq f := by
  unfold State.acceptFrame State.frameStored Port.accepted
  cases f.wellFormed <;> rfl

section
variable {s : State} {p : Nat} (lseq : Nat) (f : Frame)

theorem State.frameStored_atPort : s.AtPort (s.frameStored p lseq f) p ((s.port p).accepted lseq f) [(wwyPage p).base + 0x05C] := by
  have hset := (State.AtPort.refl s p).setPort ((s.port p).accepted lseq f)
  unfold State.frameStored
  split
  · exact hset.mono (by simp)
  · exact (hset.regs (State.countDrop_onlyRegs _ p) (State.countDrop_regsKept _ p)).mono (by simp)

theorem State.frameStored_out : (s.frameStored p lseq f).out = s.out := by
  unfold State.frameStored
  split
  · rfl
  · rw [((s.setPort p _).countDrop_onlyRegs p).of_regs]
    rfl

theorem State.frameStored_drops (hp : p < 12) :
    (s.frameStored p lseq f).reg (wwyPage p) 0x05C = if f.wellFormed then s.reg (wwyPage p) 0x05C else satAdd (s.reg (wwyPage p) 0x05C) 1 := by
  unfold State.frameStored
  split
  · rfl
  · exact (s.setPort p _).countDrop_word hp

end

/-- An EMPTY unit sent: the port has told what it owed, and the unit is all that is sent. -/
theorem State.sendEmpty_spec (s : State) (p : Nat) : s.AtPort (s.sendEmpty p) p (s.port p).told [] ∧ (s.sendEmpty p).regs = s.regs ∧
    ∃ e, (s.sendEmpty p).out = s.out ++ [.unit p e] ∧ e.field 28 4 = 0 ∧ e.body = [] ∧ e.field 12 12 = (s.port p).rxSeq % 4096 ∧ e.field 24 1 = (s.port p).nak.toNat := by
  obtain ⟨hkind, _, hack, hnak, _⟩ := (s.port p).linkWord_fields 0 false [] (plainTrailer ((s.port p).linkWord 0 unitEmpty false) []) 0 0 (show unitEmpty < 16 by decide)
  obtain ⟨hport, hothers, hkept, hlinked⟩ := (State.AtPort.refl s p).setPort (s.port p).told
  exact ⟨⟨hport, hothers, hkept, hlinked.trans (.emit _ _)⟩, rfl, _, rfl, hkind, rfl, hack, hnak⟩

/-- What a unit in order brings (R333, R341, R342): the port's fields, the count of drops, and an acknowledgement at once where 63 units had none. -/
structure State.TakenIn (s t : State) (p lseq : Nat) (f : Frame) : Prop where
  same : (t.port p).replay = (s.port p).replay ∧ (t.port p).replays = (s.port p).replays ∧ (t.port p).credits = (s.port p).credits ∧
    (t.port p).txSeq = (s.port p).txSeq ∧ (t.port p).queue = (s.port p).queue ∧ (t.port p).up = (s.port p).up
  seq : (t.port p).rxSeq = lseq ∧ (t.port p).nak = false
  few : (s.port p).unacked < 63 → (t.port p).unacked = (s.port p).unacked + 1 ∧ t.out = s.out
  many : 63 ≤ (s.port p).unacked → (t.port p).unacked = 0 ∧
    ∃ e, t.out = s.out ++ [.unit p e] ∧ e.field 28 4 = 0 ∧ e.body = [] ∧ e.field 12 12 = lseq % 4096 ∧ e.field 24 1 = 0
  buffer : (t.port p).rxBuf = if f.wellFormed then (s.port p).rxBuf ++ [f] else (s.port p).rxBuf
  drops : t.reg (wwyPage p) 0x05C = if f.wellFormed then s.reg (wwyPage p) 0x05C else satAdd (s.reg (wwyPage p) 0x05C) 1

theorem State.acceptFrame_takenIn (s : State) {p : Nat} (hp : p < 12) (lseq : Nat) (f : Frame) : s.TakenIn (s.acceptFrame p lseq f) p lseq f := by
  have hstored := State.frameStored_atPort (s := s) (p := p) lseq f
  have hdrops := State.frameStored_drops (s := s) lseq f hp
  rw [State.acceptFrame_eq]
  split
  next hmany =>
    obtain ⟨hsent, hregs, e, hout, hkind, hbody, hack, hnak⟩ := (s.frameStored p lseq f).sendEmpty_spec p
    have hport := hsent.port
    rw [hstored.port] at hport hack hnak
    refine ⟨?_, ?_, fun h => absurd hmany (by omega), fun _ => ⟨?_, e, ?_, hkind, hbody, hack, hnak⟩, ?_, ?_⟩
    · rw [hport]
      exact ⟨rfl, rfl, rfl, rfl, rfl, rfl⟩
    · rw [hport]
      exact ⟨rfl, rfl⟩
    · rw [hport]
      rfl
    · rw [hout, State.frameStored_out]
    · rw [hport]
      rfl
    · rw [State.reg_congr hregs, hdrops]
  next hfew =>
    refine ⟨?_, ?_, fun _ => ⟨?_, State.frameStored_out lseq f⟩, fun h => absurd h (by omega), ?_, hdrops⟩
    · rw [hstored.port]
      exact ⟨rfl, rfl, rfl, rfl, rfl, rfl⟩
    · rw [hstored.port]
      exact ⟨rfl, rfl⟩
    · rw [hstored.port]
      rfl
    · rw [hstored.port]
      rfl

theorem State.acceptFrame_atPort (s : State) (p lseq : Nat) (f : Frame) : ∃ y, s.AtPort (s.acceptFrame p lseq f) p y [(wwyPage p).base + 0x05C] := by
  rw [State.acceptFrame_eq]
  split
  · exact ⟨_, ((State.frameStored_atPort lseq f).trans (State.sendEmpty_spec _ p).1).mono (by simp)⟩
  · exact ⟨_, State.frameStored_atPort lseq f⟩

/-! ### DATA units (R327, R344) -/

/-- The count of codewords (R371) of a unit. -/
def fecRegs (p : Nat) : List Nat := [(wwyPage p).base + 0x054, (wwyPage p).base + 0x058]

theorem State.countFec_atPort (s : State) (p : Nat) (u : LinkUnit) : s.AtPort (s.countFec p u) p (s.port p) (fecRegs p) :=
  ⟨rfl, keptBut_refl _ _, s.countFec_regsKept p u, .regs (s.countFec_onlyRegs p u)⟩

/-- A unit's codewords have been counted. -/
def State.FecCounted (s t : State) (p : Nat) (u : LinkUnit) : Prop :=
  t.reg (wwyPage p) 0x054 = satAdd (s.reg (wwyPage p) 0x054) u.fecCorr ∧ t.reg (wwyPage p) 0x058 = satAdd (s.reg (wwyPage p) 0x058) u.fecUncorr

theorem State.countFec_counted (s : State) (p : Nat) (u : LinkUnit) : s.FecCounted (s.countFec p u) p u := ⟨s.countFec_corr p u, s.countFec_uncorr p u⟩

theorem State.countFec_out (s : State) (p : Nat) (u : LinkUnit) : (s.countFec p u).out = s.out := by rw [(s.countFec_onlyRegs p u).of_regs]

theorem State.FecCounted.setPort {s a : State} {p : Nat} {u : LinkUnit} (h : s.FecCounted a p u) (e : Nat) (x : Port) : s.FecCounted (a.setPort e x) p u := by
  rw [State.FecCounted, State.setPort_reg, State.setPort_reg]
  exact h

theorem State.FecCounted.nakUnit {s a : State} {p : Nat} {u : LinkUnit} (h : s.FecCounted a p u) (e : Nat) : s.FecCounted (a.nakUnit e) p u := by
  rw [State.nakUnit]
  exact h.setPort _ _

theorem State.nakUnit_out (s : State) (p : Nat) : (s.nakUnit p).out = s.out := by rw [State.nakUnit, State.setPort_out]

theorem State.FecCounted.later {s a t : State} {p : Nat} {u : LinkUnit} {offs : List Nat} (h : s.FecCounted a p u) (hkept : a.regsKept t (offs.map ((wwyPage p).base + ·)))
    (hall : ∀ x ∈ offs, x < 0x1000 ∧ 0x054 ≠ x ∧ 0x058 ≠ x) : s.FecCounted t p u := by
  have hcorr := hkept.reg (wwyPage p) (o := 0x054) (by decide) fun x hx => ⟨(hall x hx).1, (hall x hx).2.1⟩
  have huncorr := hkept.reg (wwyPage p) (o := 0x058) (by decide) fun x hx => ⟨(hall x hx).1, (hall x hx).2.2⟩
  exact ⟨hcorr.trans h.1, huncorr.trans h.2⟩

/-- The state in which a received unit is looked at: codewords counted, and a sealed one noted at the port. -/
def State.unitCounted (s : State) (p : Nat) (u : LinkUnit) : State := (s.countFec p u).setPort p ((s.port p).countSealed u)

theorem State.unitCounted_atPort (s : State) (p : Nat) (u : LinkUnit) : s.AtPort (s.unitCounted p u) p ((s.port p).countSealed u) (fecRegs p) :=
  (s.countFec_atPort p u).setPort _

theorem State.unitCounted_fec (s : State) (p : Nat) (u : LinkUnit) : s.FecCounted (s.unitCounted p u) p u := by
  rw [State.unitCounted]
  exact (s.countFec_counted p u).setPort _ _

theorem State.unitCounted_out (s : State) (p : Nat) (u : LinkUnit) : (s.unitCounted p u).out = s.out := by rw [State.unitCounted, State.setPort_out, State.countFec_out]

theorem Port.countSealed_rest (x : Port) (u : LinkUnit) : ∃ phase units, x.countSealed u = { x with rxPhase := phase, rxUnits := units } := by
  unfold Port.countSealed
  split
  · exact ⟨_, _, rfl⟩
  · exact ⟨x.rxPhase, x.rxUnits, rfl⟩

/-- The state with a sound DATA unit's word taken, where it bears no NAK. -/
def State.wordTaken (s : State) (p : Nat) (u : LinkUnit) : State := (s.unitCounted p u).setPort p (((s.port p).countSealed u).answered u)

theorem State.wordTaken_atPort (s : State) (p : Nat) (u : LinkUnit) : s.AtPort (s.wordTaken p u) p (((s.port p).countSealed u).answered u) (fecRegs p) :=
  (s.unitCounted_atPort p u).setPort _

theorem State.wordTaken_fec (s : State) (p : Nat) (u : LinkUnit) : s.FecCounted (s.wordTaken p u) p u := by
  rw [State.wordTaken]
  exact (s.unitCounted_fec p u).setPort _ _

theorem State.wordTaken_out (s : State) (p : Nat) (u : LinkUnit) : (s.wordTaken p u).out = s.out := by rw [State.wordTaken, State.setPort_out, State.unitCounted_out]

theorem State.wordTaken_drops (s : State) (p : Nat) (u : LinkUnit) : (s.wordTaken p u).reg (wwyPage p) 0x05C = s.reg (wwyPage p) 0x05C :=
  State.regsKept.reg (offs := [0x054, 0x058]) (s.wordTaken_atPort p u).kept _ (by decide) (by decide)

theorem Port.sealed_answered {x : Port} (hup : x.up = true) (u : LinkUnit) :
    x.Answered ((x.countSealed u).answered u) u ∧ ((x.countSealed u).answered u).rxSeq = x.rxSeq ∧ ((x.countSealed u).answered u).rxBuf = x.rxBuf ∧
      ((x.countSealed u).answered u).nak = x.nak ∧ ((x.countSealed u).answered u).unacked = x.unacked := by
  obtain ⟨phase, units, hsealed⟩ := x.countSealed_rest u
  rw [hsealed]
  exact ⟨Port.answered_answered (x := { x with rxPhase := phase, rxUnits := units }) hup u, Port.answered_rest { x with rxPhase := phase, rxUnits := units } u⟩

theorem State.wordTaken_port (s : State) (p : Nat) (u : LinkUnit) (hup : (s.port p).up = true) :
    (s.port p).Answered ((s.wordTaken p u).port p) u ∧ ((s.wordTaken p u).port p).rxSeq = (s.port p).rxSeq ∧ ((s.wordTaken p u).port p).rxBuf = (s.port p).rxBuf ∧
      ((s.wordTaken p u).port p).nak = (s.port p).nak ∧ ((s.wordTaken p u).port p).unacked = (s.port p).unacked := by
  rw [(s.wordTaken_atPort p u).port]
  exact Port.sealed_answered hup u

/-- What a sealed unit whose tag is wrong leaves, NAK included. -/
def State.unitForged (s : State) (p : Nat) (u : LinkUnit) : State := (((s.unitCounted p u).countSat (wwyPage p) 0x064).raise (wwyPage p) 3).nakUnit p

section
variable {p : Fin 12} {u : LinkUnit} {s : State} (hup : (s.port p.val).up = true)
include hup

theorem State.portUp_fin : s.portUp p.val = true := by simp [State.portUp, hup]

theorem dataUnitReceived_refused (hkind : u.field 28 4 = 1) (hopen : s.openUnit p.val u = (none, false)) :
    exec (.dataUnitReceived p u) s = .next ((s.unitCounted p.val u).nakUnit p.val) := by
  show execDataUnitReceived p u s = _
  simp [execDataUnitReceived, State.portUp_fin hup, hkind, unitData, hopen, State.unitCounted]

theorem dataUnitReceived_forged (hkind : u.field 28 4 = 1) (hopen : s.openUnit p.val u = (none, true)) :
    exec (.dataUnitReceived p u) s = .next (s.unitForged p.val u) := by
  show execDataUnitReceived p u s = _
  simp [execDataUnitReceived, State.portUp_fin hup, hkind, unitData, hopen, State.unitForged, State.unitCounted]

theorem dataUnitReceived_opened {bs : List U8} {wrong : Bool} (hkind : u.field 28 4 = 1) (hopen : s.openUnit p.val u = (some bs, wrong)) (hnak : u.field 24 1 = 0) :
    exec (.dataUnitReceived p u) s = .next (
      if u.field 0 12 = ((s.port p.val).rxSeq + 1) % 4096 then (s.wordTaken p.val u).acceptFrame p.val (u.field 0 12) (parseFrame bs) else s.wordTaken p.val u) := by
  have htake : (s.unitCounted p.val u).takeWord p.val u = s.wordTaken p.val u := by
    rw [State.takeWord_plain _ _ hnak, (s.unitCounted_atPort p.val u).port, State.wordTaken]
  obtain ⟨⟨_, _, _, _, _, hstill⟩, hseq, _⟩ := s.wordTaken_port p.val u hup
  have hcond : (s.portUp p.val && decide (u.field 28 4 = unitData)) = true := by simp [State.portUp_fin hup, hkind, unitData]
  show execDataUnitReceived p u s = _
  unfold execDataUnitReceived
  dsimp only
  rw [if_pos hcond, hopen]
  dsimp only
  rw [State.countFec_port, ← State.unitCounted.eq_def, htake]
  simp only [hstill, hseq, true_and]

/-- What a sound DATA unit without NAK brings: its ACK and credits, and its frame where it comes in order. -/
def State.FrameIn (s t : State) (p : Nat) (u : LinkUnit) (f : Frame) : Prop :=
  (s.port p).Answered (t.port p) u ∧
  (u.field 0 12 = ((s.port p).rxSeq + 1) % 4096 →
    (t.port p).rxSeq = u.field 0 12 ∧ (t.port p).nak = false ∧
    ((s.port p).unacked < 63 → (t.port p).unacked = (s.port p).unacked + 1 ∧ t.out = s.out) ∧
    (63 ≤ (s.port p).unacked → (t.port p).unacked = 0 ∧
      ∃ e, s.unitSent t p = some e ∧ e.field 28 4 = 0 ∧ e.body = [] ∧ e.field 12 12 = u.field 0 12 ∧ e.field 24 1 = 0) ∧
    (f.wellFormed = true → (t.port p).rxBuf = (s.port p).rxBuf ++ [f] ∧ t.reg (wwyPage p) 0x05C = s.reg (wwyPage p) 0x05C) ∧
    (f.wellFormed = false → (t.port p).rxBuf = (s.port p).rxBuf ∧ t.reg (wwyPage p) 0x05C = satAdd (s.reg (wwyPage p) 0x05C) 1)) ∧
  (u.field 0 12 ≠ ((s.port p).rxSeq + 1) % 4096 →
    (t.port p).rxSeq = (s.port p).rxSeq ∧ (t.port p).rxBuf = (s.port p).rxBuf ∧ (t.port p).nak = (s.port p).nak ∧ t.reg (wwyPage p) 0x05C = s.reg (wwyPage p) 0x05C)

/-- A DATA unit that opens is taken in whole. -/
theorem dataUnitReceived_takes {bs : List U8} {wrong : Bool} (hkind : u.field 28 4 = 1) (hopen : s.openUnit p.val u = (some bs, wrong)) (hnak : u.field 24 1 = 0) :
    ∃ t, exec (.dataUnitReceived p u) s = .next t ∧ s.FrameIn t p.val u (parseFrame bs) ∧ s.FecCounted t p.val u ∧
      keptBut s.port t.port [p.val] ∧ s.regsKept t ([(wwyPage p.val).base + 0x05C] ++ fecRegs p.val) ∧ s.Linked t := by
  obtain ⟨hanswered, hseq, hbuf, hnak', hunacked⟩ := s.wordTaken_port p.val u hup
  have hdrops := s.wordTaken_drops p.val u
  have hword := s.wordTaken_atPort p.val u
  have hfec := s.wordTaken_fec p.val u
  have hexec := dataUnitReceived_opened hup hkind hopen hnak
  by_cases horder : u.field 0 12 = ((s.port p.val).rxSeq + 1) % 4096
  · rw [if_pos horder] at hexec
    obtain ⟨hsame, hin, hfew, hmany, hbuffer, hcount⟩ := (s.wordTaken p.val u).acceptFrame_takenIn p.isLt (u.field 0 12) (parseFrame bs)
    obtain ⟨y, haccept⟩ := (s.wordTaken p.val u).acceptFrame_atPort p.val (u.field 0 12) (parseFrame bs)
    have htotal := hword.trans haccept
    refine ⟨_, hexec, ⟨?_, fun _ => ⟨hin.1, hin.2, fun h => ?_, fun h => ?_, fun h => ?_, fun h => ?_⟩, fun hne => absurd horder hne⟩,
      hfec.later (offs := [0x05C]) haccept.kept (by decide), htotal.others, htotal.kept, htotal.linked⟩
    · obtain ⟨hreplay, hreplays, hcredits, htx, hqueue, hup'⟩ := hsame
      rw [Port.Answered, hreplay, hreplays, hcredits, htx, hqueue, hup']
      exact hanswered
    · obtain ⟨hone, hout⟩ := hfew (by rw [hunacked]; exact h)
      exact ⟨hone.trans (by rw [hunacked]), hout.trans (s.wordTaken_out p.val u)⟩
    · obtain ⟨hzero, e, hout, hkind', hbody, hack, hno⟩ := hmany (by rw [hunacked]; exact h)
      have hlt : u.field 0 12 < 4096 := Nat.mod_lt _ (by decide)
      exact ⟨hzero, e, s.unitSent_emit p.val e (by rw [hout, State.wordTaken_out]), hkind', hbody, by rw [hack, Nat.mod_eq_of_lt hlt], hno⟩
    · rw [hbuffer, hcount, if_pos h, if_pos h, hbuf, hdrops]
      exact ⟨rfl, rfl⟩
    · rw [hbuffer, hcount, if_neg (by simp [h]), if_neg (by simp [h]), hbuf, hdrops]
      exact ⟨rfl, rfl⟩
  · rw [if_neg horder] at hexec
    exact ⟨_, hexec, ⟨hanswered, fun h => absurd h horder, fun _ => ⟨hseq, hbuf, hnak', hdrops⟩⟩, hfec, hword.others,
      hword.kept.mono (List.subset_append_right _ _), hword.linked⟩

/-! ### EMPTY units (R328, R342) -/

theorem emptyUnitReceived_eq (hkind : u.field 28 4 = 0) :
    exec (.emptyUnitReceived p u) s = .next (if u.sound && u.body.isEmpty then (s.countFec p.val u).takeWord p.val u else (s.countFec p.val u).nakUnit p.val) := by
  have hcond : (s.portUp p.val && decide (u.field 28 4 = unitEmpty)) = true := by simp [State.portUp_fin hup, hkind, unitEmpty]
  show execEmptyUnitReceived p u s = _
  exact congrArg Host.Outcome.next (if_pos hcond)

end

/-- What a unit received with an error leaves: NAK in the next unit sent. -/
theorem State.nakUnit_atPort {s a : State} {p : Nat} {y : Port} {ks : List Nat} (h : s.AtPort a p y ks) : s.AtPort (a.nakUnit p) p { y with nak := true } ks := by
  have hset := h.setPort { a.port p with nak := true }
  rw [h.port] at hset
  rw [State.nakUnit, h.port]
  exact hset

theorem Port.countSealed_plain {x : Port} (h : x.enc = false) (u : LinkUnit) : x.countSealed u = x := if_neg (by simp [h])

/-! ### What a DATA unit opens to (R329, R344) -/

section
variable {s : State} {p : Nat} {u : LinkUnit}

theorem State.openUnit_sound (henc : (s.port p).enc = false) (h : u.sound = true) : s.openUnit p u = (some u.body, false) := by
  simp [State.openUnit, henc, h, (u.sound_iff.mp h).1]

theorem State.openUnit_broken (henc : (s.port p).enc = false) (h : ¬ u.sound = true) : s.openUnit p u = (none, false) := by
  simp [State.openUnit, henc, h]

/-- The initial value that a sealed unit of the peer is opened with (R344). -/
def State.peerIv (s : State) (p : Nat) (u : LinkUnit) : List U8 :=
  leBytes 4 ((s.reg (wwyPage p) 0x070).toNat / 2 * 2 + (if s.selfId ≤ (s.port p).peerId then 1 else 0)) ++
    leBytes 8 (if u.field 25 1 = (s.port p).rxPhase then (s.port p).rxUnits else 0)

/-- Whether a sealed unit's tag is right. -/
def State.TagOk (s : State) (p : Nat) (u : LinkUnit) : Prop :=
  u.field 26 1 = 1 ∧ u.trailer = gcmTag ((s.port p).keyBytes (u.field 25 1)) (s.peerIv p u) (leBytes 8 u.word.toNat) u.body

theorem State.peerIv_eq (s : State) (p : Nat) (u : LinkUnit) :
    gcmIv (s.saltOf p) (!s.highSide p) (if u.field 25 1 = (s.port p).rxPhase then (s.port p).rxUnits else 0) = s.peerIv p u := by
  have hside : (!s.highSide p) = decide (s.selfId ≤ (s.port p).peerId) := by
    rw [State.highSide, ← decide_not]
    exact decide_eq_decide.mpr Nat.not_lt
  simp only [gcmIv, State.peerIv, State.saltOf, hside, decide_eq_true_eq]

theorem State.openUnit_sealed (henc : (s.port p).enc = true) (hfec : u.fecUncorr = 0) (h : s.TagOk p u) :
    s.openUnit p u = (some (gcmCrypt ((s.port p).keyBytes (u.field 25 1)) (s.peerIv p u) u.body), false) := by
  unfold State.openUnit
  dsimp only
  rw [if_neg (by simp [hfec]), if_pos henc, s.peerIv_eq]
  exact if_pos h

theorem State.openUnit_forged (henc : (s.port p).enc = true) (hfec : u.fecUncorr = 0) (h : ¬ s.TagOk p u) : s.openUnit p u = (none, true) := by
  unfold State.openUnit
  dsimp only
  rw [if_neg (by simp [hfec]), if_pos henc, s.peerIv_eq]
  exact if_neg h

end

/-! ### A sealed unit whose tag is wrong (R344) -/

theorem State.nakUnit_reg (s : State) (p : Nat) (pg : Page) (o : Nat) : (s.nakUnit p).reg pg o = s.reg pg o := rfl

theorem State.unitForged_spec (s : State) (p : Nat) (u : LinkUnit) :
    (s.unitForged p u).port p = { (s.port p).countSealed u with nak := true } ∧ keptBut s.port (s.unitForged p u).port [p] ∧
      s.regsKept (s.unitForged p u) ([(wwyPage p).base + 0x064] ++ fecRegs p ++ errRegs (wwyPage p)) ∧
      (s.unitForged p u).reg (wwyPage p) 0x064 = satAdd (s.reg (wwyPage p) 0x064) 1 ∧ s.raisedIn (s.unitForged p u) (wwyPage p) 3 := by
  have hcounted := ((s.unitCounted_atPort p u).regs (State.countSat_onlyRegs _ (wwyPage p) 0x064 1) (State.countSat_regsKept _ _ _ _))
  have hforged := State.nakUnit_atPort (hcounted.regs (State.raise_onlyRegs _ (wwyPage p) 3) (State.raise_regsKept _ _ _))
  refine ⟨hforged.port, hforged.others, hforged.kept.mono (by simp), ?_, ?_⟩
  · have hreg := (s.unitCounted_atPort p u).kept.reg (offs := [0x054, 0x058]) (wwyPage p) (o := 0x064) (by decide) (by decide)
    rw [State.unitForged, State.nakUnit_reg, State.raise_reg_other _ _ _ (by decide), State.countSat, State.setReg_same, hreg]
  · have hraised := hcounted.kept.raisedIn (pg := wwyPage p) 3 (by simp [fecRegs, offErrStat]) (by simp [fecRegs, offErrMask])
    exact ⟨(State.nakUnit_reg _ _ _ _).trans hraised.1, (State.nakUnit_reg _ _ _ _).trans hraised.2⟩

/-! ### Links down (R343) -/

/-- Frames have joined queues, and no error bit has gone. -/
structure State.Rerouted (s t : State) : Prop where
  port : ∀ e, ∃ l, t.port e = { s.port e with queue := (s.port e).queue ++ l }
  stat : ∀ (pg : Page) (i : Nat), (s.reg pg offErrStat).getLsbD i = true → (t.reg pg offErrStat).getLsbD i = true

namespace State.Rerouted

theorem of_ports {s t : State} {offs : List Nat} (hports : t.ports = s.ports) (hcounts : s.Counts offs t) : s.Rerouted t :=
  ⟨fun e => ⟨[], by rw [State.port_congr hports, List.append_nil]⟩, hcounts.stat⟩

theorem refl (s : State) : s.Rerouted s := .of_ports rfl (.refl (offs := []) s)

theorem trans {a b c : State} (h : a.Rerouted b) (k : b.Rerouted c) : a.Rerouted c := by
  refine ⟨fun e => ?_, fun pg i hi => k.stat pg i (h.stat pg i hi)⟩
  obtain ⟨l, hl⟩ := h.port e
  obtain ⟨l', hl'⟩ := k.port e
  exact ⟨l ++ l', by rw [hl', hl, List.append_assoc]⟩

theorem of_queued {s t : State} (h : s.Queued t) : s.Rerouted t := ⟨h.port, h.counts.stat⟩

end State.Rerouted

theorem State.stopTwin_rerouted (s : State) : s.Rerouted s.stopTwin := .of_ports (by rw [s.stopTwin_frame.2]) s.stopTwin_counts

/-- What a link that goes down does with a frame of its queue. -/
def State.reroute (p : Nat) (s : State) (f : Frame) : State :=
  let alt := (s.routeOf f.dst).2
  if !f.bcast && s.portUp alt && s.carries alt f then s.enqueue alt f else (s.countDrop p).lostOwn f

theorem State.reroute_rerouted (p : Nat) (s : State) (f : Frame) : s.Rerouted (s.reroute p f) := by
  unfold State.reroute
  dsimp only
  split
  · exact .of_queued (s.enqueue_queued _ f)
  · obtain ⟨hfire, hcounts⟩ := (s.countDrop p).lostOwn_frame f
    exact (State.Rerouted.of_queued (s.countDrop_queued p)).trans (.of_ports hfire.ports hcounts)

/-- The port of a link that goes down, counted and shown. -/
def State.linkDropped (s : State) (p cause : Nat) : State :=
  (((s.setPort p (s.port p).downed).countWrap (wwyPage p) 0x060).raise (wwyPage p) 0).record { kind := 0x10, unit := unitOther 9 p, detail := [p, cause] }

theorem State.linkDropped_port (s : State) (p cause : Nat) : (s.linkDropped p cause).port p = (s.port p).downed := by
  rw [State.linkDropped, State.port_congr (State.record_ports _ _), State.raise_port, State.countWrap_port, State.setPort_same]

theorem State.linkDropped_counts (s : State) (p cause : Nat) : s.Counts [0x060] (s.linkDropped p cause) := by
  have hset : s.Counts [0x060] (s.setPort p (s.port p).downed) := .of_regs rfl
  have hcount : (s.setPort p (s.port p).downed).Counts [0x060] ((s.setPort p (s.port p).downed).countWrap (wwyPage p) 0x060) :=
    State.setReg_counts _ _ _ (by decide) (by decide) (by decide)
  exact ((hset.trans hcount).trans (State.raise_counts _ _ _)).trans (.of_regs (State.record_regs _ _))

/-- The same with the frames of its queue gone other ways or dropped. -/
def State.linkRerouted (s : State) (p cause : Nat) : State := (s.linkDropped p cause).forEach (s.port p).queue (State.reroute p)

theorem State.linkRerouted_rerouted (s : State) (p cause : Nat) : (s.linkDropped p cause).Rerouted (s.linkRerouted p cause) :=
  State.forEach_rel State.Rerouted.refl State.Rerouted.trans (State.reroute_rerouted p) _ _

theorem State.loseLink_eq {s : State} {p : Nat} (hup : (s.port p).up = true) (cause : Nat) : s.loseLink p cause =
    if (s.linkRerouted p cause).twinOn && decide ((s.linkRerouted p cause).twinPort = p) then (s.linkRerouted p cause).stopTwin else s.linkRerouted p cause := by
  unfold State.loseLink
  dsimp only
  rw [if_pos hup]
  rfl

/-- A link that goes down: its port is down with an empty replay buffer, and no error bit has gone. -/
theorem State.loseLink_down {s : State} {p : Nat} (hup : (s.port p).up = true) (cause : Nat) :
    ((s.loseLink p cause).port p).up = false ∧ ((s.loseLink p cause).port p).replay = [] ∧
      ∀ (pg : Page) (i : Nat), (s.reg pg offErrStat).getLsbD i = true → ((s.loseLink p cause).reg pg offErrStat).getLsbD i = true := by
  have hall : (s.linkDropped p cause).Rerouted (s.loseLink p cause) := by
    rw [State.loseLink_eq hup]
    split
    · exact (s.linkRerouted_rerouted p cause).trans (State.stopTwin_rerouted _)
    · exact s.linkRerouted_rerouted p cause
  obtain ⟨_, hport⟩ := hall.port p
  rw [hport, State.linkDropped_port]
  exact ⟨rfl, rfl, fun pg i hi => hall.stat pg i ((s.linkDropped_counts p cause).stat pg i hi)⟩

/-! ### Replays (R342) -/

theorem State.startReplay_again {s : State} {p : Nat} (h : (s.port p).replay ≠ []) (hfew : (s.port p).replays < 16) :
    s.startReplay p = (s.setPort p { s.port p with resend := (s.port p).replay.length, replays := (s.port p).replays + 1 }).countSat (wwyPage p) 0x050 := by
  unfold State.startReplay
  dsimp only
  rw [if_neg (by simpa using h), if_neg (by omega)]

theorem State.startReplay_last {s : State} {p : Nat} (h : (s.port p).replay ≠ []) (hmany : 16 ≤ (s.port p).replays) :
    s.startReplay p = (s.raise (wwyPage p) 1).loseLink p 2 := by
  unfold State.startReplay
  dsimp only
  rw [if_neg (by simpa using h), if_pos hmany]

/-- A replay begins at a port. -/
theorem State.startReplay_few {s a : State} {p : Nat} {y : Port} {offs : List Nat} (h : s.AtPort a p y (offs.map ((wwyPage p).base + ·)))
    (hall : ∀ x ∈ offs, x < 0x1000 ∧ 0x050 ≠ x) (hreplay : y.replay ≠ []) (hfew : y.replays < 16) :
    (a.startReplay p).reg (wwyPage p) 0x050 = satAdd (s.reg (wwyPage p) 0x050) 1 ∧
      (a.startReplay p).port p = { y with resend := y.replay.length, replays := y.replays + 1 } ∧
      s.regsKept (a.startReplay p) ([(wwyPage p).base + 0x050] ++ offs.map ((wwyPage p).base + ·)) := by
  have hport := h.port
  have hreg := h.kept.reg (wwyPage p) (o := 0x050) (by decide) hall
  subst hport
  rw [State.startReplay_again hreplay hfew]
  have hcounted := (h.setPort { a.port p with resend := (a.port p).replay.length, replays := (a.port p).replays + 1 }).regs (State.countSat_onlyRegs _ (wwyPage p) 0x050 1)
    (State.countSat_regsKept _ _ _ _)
  refine ⟨?_, hcounted.port, hcounted.kept⟩
  rw [State.countSat, State.setReg_same, State.setPort_reg, hreg]

/-- Sixteen replays without progress take the link down. -/
theorem State.startReplay_many {a : State} {p : Nat} {y : Port} (hport : a.port p = y) (hreplay : y.replay ≠ []) (hmany : 16 ≤ y.replays) (hup : y.up = true) :
    ((a.startReplay p).port p).up = false ∧ ((a.startReplay p).port p).replay = [] ∧ ((a.startReplay p).reg (wwyPage p) offErrStat).getLsbD 1 = true := by
  subst hport
  obtain ⟨hdown, hempty, hstat⟩ := State.loseLink_down (s := a.raise (wwyPage p) 1) hup 2
  rw [State.startReplay_last hreplay hmany]
  exact ⟨hdown, hempty, hstat _ _ (State.raise_stat_set _ _ (by decide))⟩

/-- Settles O37: a unit's word is taken at its port, its frame accepted in order, and a NAK starts a replay or takes the link down. -/
theorem unitsReceived : Obligations.UnitsReceived := by
  unfold Obligations.UnitsReceived
  intro p u s x pg crcOk fec fecs kept acked frameIn hup
  refine ⟨fun hkind henc => ⟨fun hcrc hnak => ?_, fun hcrc => ?_⟩, fun hkind henc hfec => ?_, fun hkind hbody => ⟨fun hcrc hnak => ?_, fun hcrc hnak hkept => ?_, fun hcrc => ?_⟩⟩
  · obtain ⟨t, hexec, hframe, hcounted, hothers, hregs, hlinked⟩ := dataUnitReceived_takes hup hkind (State.openUnit_sound henc (u.sound_iff.mpr hcrc)) hnak
    exact ⟨t, hexec, hframe, hcounted, hothers, hregs, hlinked.eq⟩
  · have hat := State.nakUnit_atPort (s.unitCounted_atPort p.val u)
    rw [Port.countSealed_plain henc] at hat
    exact ⟨_, dataUnitReceived_refused hup hkind (State.openUnit_broken henc (u.sound_iff.not.mpr hcrc)), hat.port, (s.unitCounted_fec p.val u).nakUnit _, hat.others, hat.kept,
      hat.linked.eq_of_out (by rw [State.nakUnit_out, State.unitCounted_out])⟩
  · intro iv key tagOk
    refine ⟨fun htag hnak => ?_, fun htag => ?_⟩
    · obtain ⟨t, hexec, hframe, hcounted, hothers, hregs, hlinked⟩ := dataUnitReceived_takes hup hkind (State.openUnit_sealed henc hfec htag) hnak
      exact ⟨t, hexec, hframe, hcounted, hothers, hregs⟩
    · refine ⟨_, dataUnitReceived_forged hup hkind (State.openUnit_forged henc hfec htag), ?_⟩
      obtain ⟨hport, hothers, hregs, hcount, hraised⟩ := s.unitForged_spec p.val u
      obtain ⟨_, _, hsealed⟩ := x.countSealed_rest u
      rw [hport, hsealed]
      exact ⟨rfl, rfl, rfl, hcount, hraised, hothers, hregs⟩
  · have hexec := emptyUnitReceived_eq hup hkind
    rw [if_pos (by simp [u.sound_iff.mpr hcrc, hbody]), State.takeWord_plain _ _ hnak, State.countFec_port] at hexec
    have hat := (s.countFec_atPort p.val u).setPort (x.answered u)
    refine ⟨_, hexec, ?_, ?_, (s.countFec_counted p.val u).setPort _ _, hat.others, hat.kept,
      hat.linked.eq_of_out (by rw [State.setPort_out, State.countFec_out])⟩
    · rw [State.setPort_same]
      exact Port.answered_answered hup u
    · rw [State.setPort_same]
      exact (x.answered_rest u).2.1
  · have hexec := emptyUnitReceived_eq hup hkind
    rw [if_pos (by simp [u.sound_iff.mpr hcrc, hbody]), State.takeWord_nak _ _ hnak, State.countFec_port] at hexec
    obtain ⟨hreplay, hreplays, _, _, _, hstill⟩ := Port.answered_answered hup u
    have hat := (s.countFec_atPort p.val u).setPort (x.answered u)
    refine ⟨_, hexec, fun hfew => ?_, fun hmany => ?_⟩
    · obtain ⟨hcount, hport, hregs⟩ := State.startReplay_few hat (offs := [0x054, 0x058]) (by decide) (by rw [hreplay]; exact hkept) (by rw [hreplays]; exact hfew)
      rw [hport]
      exact ⟨hcount, hreplay, congrArg List.length hreplay, congrArg (· + 1) hreplays, hregs⟩
    · exact State.startReplay_many hat.port (by rw [hreplay]; exact hkept) (by rw [hreplays]; exact hmany) hstill
  · have hexec := emptyUnitReceived_eq hup hkind
    rw [if_neg (by simp [u.sound_iff.not.mpr hcrc])] at hexec
    have hat := State.nakUnit_atPort (s.countFec_atPort p.val u)
    exact ⟨_, hexec, hat.port, (s.countFec_counted p.val u).nakUnit _, hat.others, hat.kept,
      hat.linked.eq_of_out (by rw [State.nakUnit_out, State.countFec_out])⟩

end Sys2Proof.Machine
end

section
/-! Proofs: what the loss of a die leaves: the power state, memory, and every error bit that was set (R463, R469 to R476, R585). -/

namespace Sys2Proof.Machine

/-- The power state and memory are as they were, and no error bit has gone. -/
structure State.Survives (s t : State) : Prop where
  pwr : t.pwr = s.pwr
  mem : t.mem = s.mem
  stat : ∀ (pg : Page) (i : Nat), (s.reg pg offErrStat).getLsbD i = true → (t.reg pg offErrStat).getLsbD i = true

namespace State.Survives

theorem of_counts {s t : State} {offs : List Nat} (hpwr : t.pwr = s.pwr) (hmem : t.mem = s.mem) (h : s.Counts offs t) : s.Survives t := ⟨hpwr, hmem, h.stat⟩

theorem of_regs {s t : State} (hpwr : t.pwr = s.pwr) (hmem : t.mem = s.mem) (h : t.regs = s.regs) : s.Survives t := .of_counts (offs := []) hpwr hmem (.of_regs h)

theorem refl (s : State) : s.Survives s := .of_regs rfl rfl rfl

theorem trans {a b c : State} (h : a.Survives b) (k : b.Survives c) : a.Survives c :=
  ⟨k.pwr.trans h.pwr, k.mem.trans h.mem, fun pg i hi => k.stat pg i (h.stat pg i hi)⟩

theorem of_counted {s t : State} {offs : List Nat} (h : s.Regs t) (k : s.Counts offs t) : s.Survives t := by
  obtain ⟨_, rfl⟩ := h
  exact .of_counts rfl rfl k

theorem of_sends {s t : State} : s.Sends t → s.Survives t := by
  rintro ⟨_, _, _, rfl⟩
  exact .of_regs rfl rfl rfl

theorem of_fire {s t : State} {offs : List Nat} (h : s.FireFrame t) (k : s.Counts offs t) : s.Survives t := by
  obtain ⟨_, _, _, _, _, _, _, _, _, _, _, _, _, _, _, rfl⟩ := h
  exact .of_counts rfl rfl k

theorem of_end {s t : State} {offs : List Nat} (h : s.EndFrame t) (k : s.Counts offs t) : s.Survives t := .of_fire h.fireFrame k

theorem of_queued {s t : State} (h : s.Queued t) : s.Survives t := by
  obtain ⟨_, hcounts, ⟨_, _, _, rfl⟩, _⟩ := h
  exact .of_counts rfl rfl hcounts

theorem forEach {β : Type} {f : State → β → State} (hf : ∀ (t : State) (b : β), t.Survives (f t b)) (l : List β) (s : State) : s.Survives (s.forEach l f) :=
  State.forEach_rel refl trans hf l s

end State.Survives

theorem State.raise_survives (s : State) (pg : Page) (b : Nat) : s.Survives (s.raise pg b) := .of_counts (offs := []) rfl rfl (s.raise_counts pg b)

theorem State.record_survives (s : State) (e : Event) : s.Survives (s.record e) := .of_regs (s.record_pwr e) (s.record_mem e) (s.record_regs e)

theorem State.updDie_survives (s : State) (n : Nat) (f : DieSt → DieSt) : s.Survives (s.updDie n f) := .of_regs rfl rfl rfl

theorem State.sendFlit_survives (s : State) (e : LinkEnd) (b kind : Nat) (payload : List U8) : s.Survives (s.sendFlit e b kind payload) :=
  .of_sends (s.sendFlit_sends e b kind payload)

/-! ### Links (R343, R470, R474) -/

theorem State.dropFlits_survives (s : State) (e : LinkEnd) : s.Survives (s.dropFlits e) :=
  .trans (.of_sends (s.setLink_sends e _)) (.forEach (fun t b => .of_regs (t := t.setBundle e b _) rfl rfl rfl) _ _)

theorem State.fenceLink_survives (s : State) (e : LinkEnd) : s.Survives (s.fenceLink e) :=
  .trans (.trans (.of_sends (s.setLink_sends _ _)) (State.dropFlits_survives _ _)) (.trans (.of_sends (State.setLink_sends _ _ _)) (State.dropFlits_survives _ _))

theorem State.peerDown_survives (s : State) (e : LinkEnd) : s.Survives (s.peerDown e) := s.raise_survives _ _

theorem State.fenceNotice_survives (s : State) (d : Nat) : s.Survives (s.fenceNotice d) :=
  .trans (.forEach (fun t e => .of_sends (t.offer_sends e _)) _ s) (.of_regs rfl rfl rfl)

theorem State.stopTwin_survives (s : State) : s.Survives s.stopTwin := .of_counts (by rw [s.stopTwin_frame.2]) (by rw [s.stopTwin_frame.2]) s.stopTwin_counts

theorem State.reroute_survives (p : Nat) (s : State) (f : Frame) : s.Survives (s.reroute p f) := by
  unfold State.reroute
  dsimp only
  split
  · exact .of_queued (s.enqueue_queued _ f)
  · obtain ⟨hfire, hcounts⟩ := (s.countDrop p).lostOwn_frame f
    exact .trans (.of_queued (s.countDrop_queued p)) (.of_fire hfire hcounts)

theorem State.linkDropped_survives (s : State) (p cause : Nat) : s.Survives (s.linkDropped p cause) :=
  .of_counts (State.record_pwr _ _) (State.record_mem _ _) (s.linkDropped_counts p cause)

theorem State.linkRerouted_survives (s : State) (p cause : Nat) : s.Survives (s.linkRerouted p cause) :=
  (s.linkDropped_survives p cause).trans (.forEach (State.reroute_survives p) _ _)

theorem State.loseLink_survives (s : State) (p cause : Nat) : s.Survives (s.loseLink p cause) := by
  cases hup : (s.port p).up with
  | true =>
    rw [State.loseLink_eq hup]
    split
    · exact (s.linkRerouted_survives p cause).trans (State.stopTwin_survives _)
    · exact s.linkRerouted_survives p cause
  | false =>
    unfold State.loseLink
    dsimp only
    rw [if_neg (by simp [hup])]
    exact .of_regs rfl rfl rfl

theorem State.portsDown_survives (s : State) (b : Nat) : s.Survives (s.portsDown b) := .forEach (fun t p => t.loseLink_survives p 1) _ s

/-! ### Units, streams and capability values (R470 to R474) -/

theorem State.dropUnits_survives (s : State) (us : List Nat) : s.Survives (s.dropUnits us) := by
  unfold State.dropUnits
  extract_lets s1
  have hmarked : s.Survives s1 := .of_regs rfl rfl rfl
  refine hmarked.trans (.forEach (fun t n => ?_) _ s1)
  split
  · exact .of_regs rfl rfl rfl
  · exact .refl t

theorem State.fencedCompletion_survives (s : State) (n : Nat) (unit : U16) : s.Survives (s.fencedCompletion n unit) := by
  unfold State.fencedCompletion
  split
  · unfold State.drainDone
    split
    · exact .of_end (s.endSubmission_endFrame _ _ _ _) (s.endSubmission_counts _ _ _ _)
    · exact .refl s
  · split
    · exact .of_end (s.failStream_endFrame _ _ _) (s.failStream_counts _ _ _)
    · split
      next b _ =>
        have hgrants := (s.setStream n { s.stream n with bound := b.keep }).grantSlots_grants
        refine .trans (.of_regs rfl rfl rfl) (.trans (.of_end (offs := []) hgrants.endFrame (.of_regs hgrants.regs))
          (.of_end (offs := []) (State.startNext_endFrame _ n) (.of_regs (State.startNext_regs _ n))))
      next => exact .refl s

theorem State.forceFail_survives (s : State) (n : Nat) (code unit : U16) : s.Survives (s.forceFail n code unit) := by
  unfold State.forceFail
  split
  · exact .of_end (s.endSubmission_endFrame _ _ _ _) (s.endSubmission_counts _ _ _ _)
  · exact .refl s

/-- A capability value counted as new at one base die. -/
def State.capCount (ready : Bool) (s : State) (b : Fin 3) : State := if ready then (s.countWrap (.glb b) 0x04C).raise (.glb b) 1 else s.countWrap (.glb b) 0x04C

theorem State.capCount_survives (ready : Bool) (s : State) (b : Fin 3) : s.Survives (s.capCount ready b) := by
  have hreg : s.Counts [0x04C] (s.countWrap (.glb b) 0x04C) := State.setReg_counts _ _ _ (by decide) (by decide) (by decide)
  have hcount : s.Survives (s.countWrap (.glb b) 0x04C) := .of_counted (s.countWrap_onlyRegs _ _ _) hreg
  unfold State.capCount
  split
  · exact hcount.trans (State.raise_survives _ _ _)
  · exact hcount

theorem State.capChanged_eq (s : State) : s.capChanged = { s.forEach [0, 1, 2] (State.capCount s.start.ready) with caches := [], waiting := [] } := rfl

theorem State.noBindings_survives (s : State) : s.Survives { s with caches := [], waiting := [] } := .of_regs rfl rfl rfl

theorem State.loseCentre_survives (s : State) : s.Survives s.loseCentre := .of_regs rfl rfl rfl

theorem State.capChanged_survives (s : State) : s.Survives s.capChanged := by
  rw [State.capChanged_eq]
  exact (State.Survives.forEach (State.capCount_survives s.start.ready) _ s).trans (State.noBindings_survives _)

/-! ### Dies (R463, R470 to R476) -/

theorem State.computeDown_survives (s : State) (d cause : Nat) : s.Survives (s.computeDown d cause) := by
  unfold State.computeDown
  split
  · split
    · extract_lets us hit s1 e s2 s3
      have hgone : s.Survives s1 := (s.updDie_survives d _).trans (State.dropUnits_survives _ us)
      have hlinks : s1.Survives s2 := ((s1.fenceLink_survives e).trans (State.peerDown_survives _ e)).trans (State.fenceNotice_survives _ d)
      have hstreams : s2.Survives s3 := .forEach (fun t p => t.fencedCompletion_survives p.1 p.2) hit s2
      exact ((hgone.trans hlinks).trans hstreams).trans (s3.capChanged_survives.trans (State.record_survives _ _))
    · exact .refl s
  · exact .refl s

theorem State.outerDown_survives (s : State) (b cause : Nat) : s.Survives (s.outerDown b cause) := by
  unfold State.outerDown
  extract_lets cds us hit homed s1 s2 e s3 s4 s5 s6 s7
  have hdies : s.Survives s1 := .forEach (fun t d => t.updDie_survives d _) cds s
  have hgone : s1.Survives s2 := (s1.updDie_survives (12 + b) _).trans (State.dropUnits_survives _ us)
  have hlinks : s2.Survives s3 := (s2.fenceLink_survives e).trans (.forEach State.fenceLink_survives _ _)
  have hshown : s3.Survives s4 := s3.peerDown_survives e
  have hwork : s4.Survives s5 := .of_regs rfl rfl rfl
  have hhomed : s5.Survives s6 := .forEach (fun t n => t.forceFail_survives n _ _) homed s5
  have hstreams : s6.Survives s7 := .forEach (fun t n => t.fencedCompletion_survives n _) hit s6
  have hports := (s7.capChanged_survives.trans (State.portsDown_survives _ b)).trans (State.record_survives _ { kind := 0x11, code := S_DIE_DOWN, unit := unitBinder b, detail := [12 + b] })
  exact ((((((hdies.trans hgone).trans hlinks).trans hshown).trans hwork).trans hhomed).trans hstreams).trans hports

theorem State.centreDown_survives (s : State) (cause : Nat) : s.Survives (s.centreDown cause) := by
  unfold State.centreDown
  extract_lets s1 s2 s3 s4 s5 s6
  have hports : s.Survives s1 := .forEach State.portsDown_survives _ s
  have hcompute : s1.Survives s2 := .forEach (fun t d => t.updDie_survives d _) _ s1
  have hcentre : s2.Survives s3 := s2.updDie_survives 13 _
  have houter : s3.Survives s4 := .forEach (fun t d => t.updDie_survives d _) _ s3
  have hlinks : s4.Survives s5 := .forEach State.fenceLink_survives _ s4
  have hshown : s5.Survives s6 := (s5.peerDown_survives _).trans (State.peerDown_survives _ _)
  have hwork : s6.Survives s6.loseCentre := s6.loseCentre_survives
  exact ((((((hports.trans hcompute).trans hcentre).trans houter).trans hlinks).trans hshown).trans hwork).trans (State.record_survives _ _)

theorem State.dieDown_survives (s : State) (d : Die) (cause : Nat) : s.Survives (s.dieDown d cause) := by
  cases d with
  | compute c => exact s.computeDown_survives c.val cause
  | base b =>
    show s.Survives (s.baseDown b.val cause)
    unfold State.baseDown
    split
    · split
      · exact s.centreDown_survives cause
      · exact s.outerDown_survives b.val cause
    · exact .refl s

/-- A compute die that is lost is down, for the cause given. -/
theorem State.computeDown_lost {s : State} {d : Fin 12} (h : s.computeUp d.val = true) (cause : Nat) :
    (s.computeDown d.val cause).die d.val = (s.die d.val).lost cause := by
  unfold State.computeDown State.die
  dsimp only
  rw [dif_pos d.isLt, if_pos h, State.record_dies, State.capChanged_dies, State.forEach_dies (f := fun (t : State) (p : Nat × U16) => t.fencedCompletion p.1 p.2) (fun t p => t.fencedCompletion_dies p.1 p.2)]
  have hnotice (t : State) (n : Nat) : (t.fenceNotice n).dies = t.dies := State.forEach_dies (fun t e => by
    obtain ⟨_, _, _, h⟩ := t.offer_sends e ⟨none, none, 3, Config.fenceBytes n⟩
    rw [h]) _ t
  rw [hnotice, State.peerDown_dies, State.fenceLink_dies, State.dropUnits_dies, ← State.die, ← State.die, State.updDie_die, if_pos rfl]

/-! ### Thermal trips (R506) -/

theorem State.noticeReset_sends (s : State) (d : Die) : s.Sends (s.noticeReset d) :=
  State.forEach_rel State.Sends.refl State.Sends.trans
    (fun t e => State.forEach_rel State.Sends.refl State.Sends.trans (fun t b => t.sendFlit_sends e b 4 []) _ t) _ s

theorem State.Sends.dies {s t : State} (h : s.Sends t) : t.dies = s.dies := by
  obtain ⟨_, _, _, rfl⟩ := h
  rfl

/-- A die that trips as its notice goes out, the event recorded and shown. -/
def State.tripNoted (s : State) (d : Die) (temp : Nat) : State := ((s.record { kind := 0x20, detail := [d.num, temp] }).raise .pwr 1).noticeReset d

theorem State.thermalTrip_up {s : State} {d : Die} (h : (s.die d.num).up = true) (temp : Nat) : s.thermalTrip d temp = (s.tripNoted d temp).dieDown d 2 := if_pos h

theorem State.tripNoted_dies (s : State) (d : Die) (temp : Nat) : (s.tripNoted d temp).dies = s.dies :=
  (State.noticeReset_sends _ d).dies.trans ((State.raise_dies _ _ _).trans (s.record_dies _))

theorem State.tripNoted_survives (s : State) (d : Die) (temp : Nat) : s.Survives (s.tripNoted d temp) :=
  ((s.record_survives _).trans (State.raise_survives _ .pwr 1)).trans (.of_sends (State.noticeReset_sends _ d))

/-- A trip takes its die down and shows in PWR's ERR_STAT, while the power state and memory stand. -/
theorem State.thermalTrip_survives {s : State} {d : Die} (h : (s.die d.num).up = true) (temp : Nat) :
    s.Survives (s.thermalTrip d temp) ∧ ((s.thermalTrip d temp).reg .pwr offErrStat).getLsbD 1 = true := by
  have hdown := (s.tripNoted d temp).dieDown_survives d 2
  have hshown : ((s.tripNoted d temp).reg .pwr offErrStat).getLsbD 1 = true :=
    (State.Survives.of_sends (State.noticeReset_sends ((s.record { kind := 0x20, detail := [d.num, temp] }).raise .pwr 1) d)).stat .pwr 1 (State.raise_stat_set _ _ (by decide))
  rw [State.thermalTrip_up h]
  exact ⟨(s.tripNoted_survives d temp).trans hdown, hdown.stat .pwr 1 hshown⟩

theorem State.thermalTrip_compute {s : State} {d : Fin 12} (h : (s.die d.val).up = true) (temp : Nat) :
    (s.thermalTrip (.compute d) temp).die d.val = (s.die d.val).lost 2 := by
  have hdie := State.die_congr (s.tripNoted_dies (.compute d) temp) d.val
  rw [State.thermalTrip_up (d := .compute d) h]
  exact (State.computeDown_lost (by rw [State.computeUp, hdie]; exact h) 2).trans (by rw [hdie])

theorem State.thermalTrip_base {s : State} {b : Fin 3} (h : s.baseUp b.val = true) (temp : Nat) : (s.thermalTrip (.base b) temp).baseUp b.val = false := by
  rw [State.thermalTrip_up (d := .base b) h]
  exact State.baseDown_down _ _ _

end Sys2Proof.Machine
end

section
/-! Proofs: the controller's computation: the cap, the common step and duty, and the limits sent to the dies (R465, R489, R490, R493). -/

namespace Sys2Proof.Machine

/-! ### Limits sent (R465) -/

/-- A die that has been told a limit: the number rises with a new one. -/
def DieSt.told (x : DieSt) (limit : Nat) (off : Bool) : DieSt :=
  if x.up && !x.test then
    { x with sent := ⟨if BitVec.ofNat 16 limit = x.sent.limitW8 then x.sent.epoch else x.sent.epoch + 1, BitVec.ofNat 16 limit, off⟩ }
  else x

theorem DieSt.told_up (x : DieSt) (limit : Nat) (off : Bool) : (x.told limit off).up = x.up := by
  unfold DieSt.told
  split <;> rfl

theorem DieSt.told_sent {x : DieSt} (hup : x.up = true) (htest : x.test = false) (limit : Nat) (off : Bool) : (x.told limit off).sent.descantOff = off ∧
    (x.told limit off).sent.limitW8 = BitVec.ofNat 16 limit := by
  rw [DieSt.told, if_pos (by simp [hup, htest])]
  exact ⟨rfl, rfl⟩

/-- The same limit again keeps its number. -/
theorem DieSt.told_again {x : DieSt} (hup : x.up = true) (htest : x.test = false) (off : Bool) :
    (x.told x.sent.limitW8.toNat off).sent = { x.sent with descantOff := off } := by
  have hsame : BitVec.ofNat 16 x.sent.limitW8.toNat = x.sent.limitW8 := by simp
  rw [DieSt.told, if_pos (by simp [hup, htest]), hsame, if_pos rfl]

/-- Only dies and what messages touch may differ. -/
def State.Budgets (s t : State) : Prop := ∃ dies links bundles out, t = { s with dies := dies, links := links, bundles := bundles, out := out }

theorem State.Budgets.refl (s : State) : s.Budgets s := ⟨_, _, _, _, rfl⟩

theorem State.Budgets.trans {a b c : State} : a.Budgets b → b.Budgets c → a.Budgets c := by
  rintro ⟨_, _, _, _, rfl⟩ ⟨_, _, _, _, rfl⟩
  exact ⟨_, _, _, _, rfl⟩

theorem State.Sends.budgets {s t : State} : s.Sends t → s.Budgets t := by
  rintro ⟨_, _, _, rfl⟩
  exact ⟨_, _, _, _, rfl⟩

theorem State.putBudget_sends (s : State) (d : Nat) (m : Budget) : s.Sends (s.putBudget d m) := by
  have hemit : s.Sends (s.emit (.budget d m)) := ⟨_, _, _, rfl⟩
  unfold State.putBudget
  dsimp only
  split
  · split
    · exact hemit.trans (State.offer_sends _ _ _)
    · exact hemit
  · exact hemit

section
variable (s : State) (d limit : Nat) (off : Bool)

theorem State.sendBudget_sends : (s.setDie d ((s.die d).told limit off)).Sends (s.sendBudget d limit off) ∨ s.sendBudget d limit off = s ∧ (s.die d).told limit off = s.die d := by
  unfold State.sendBudget DieSt.told
  dsimp only
  split
  · exact .inl (State.putBudget_sends _ _ _)
  · exact .inr ⟨rfl, rfl⟩

theorem State.sendBudget_budgets : s.Budgets (s.sendBudget d limit off) := by
  rcases s.sendBudget_sends d limit off with hsends | ⟨hidle, _⟩
  · exact .trans ⟨_, _, _, _, rfl⟩ hsends.budgets
  · rw [hidle]
    exact .refl s

theorem State.sendBudget_die (k : Nat) : (s.sendBudget d limit off).die k = if k = d then (s.die d).told limit off else s.die k := by
  rcases s.sendBudget_sends d limit off with hsends | ⟨hidle, hsame⟩
  · rw [State.die_congr hsends.dies, State.setDie_die]
  · rw [hidle, hsame]
    split
    next h => rw [h]
    next => rfl

end

/-- Dies that are changed one after another, each once. -/
theorem State.forEach_die {f : State → Nat → State} {g : DieSt → Nat → DieSt} (hf : ∀ t d k, (f t d).die k = if k = d then g (t.die d) d else t.die k) {l : List Nat}
    (hl : l.Nodup) : ∀ (s : State) (k : Nat), (s.forEach l f).die k = if k ∈ l then g (s.die k) k else s.die k := by
  induction l with
  | nil => exact fun s k => (if_neg (List.not_mem_nil)).symm
  | cons d l ih =>
    obtain ⟨hd, hnodup⟩ := List.nodup_cons.mp hl
    intro s k
    have hrest := ih hnodup (f s d) k
    rw [hf s d k] at hrest
    refine hrest.trans ?_
    by_cases hk : k = d
    · subst hk
      rw [if_neg hd, if_pos rfl, if_pos List.mem_cons_self]
    · rw [if_neg hk]
      simp only [List.mem_cons, hk, false_or]

/-! ### The cap, the step and the duty (R489, R493) -/

theorem PowerSt.capOf_eq (p : PowerSt) : p.capOf.1 = if p.flowLow = true then min 450 (min (min p.target p.ramp) p.thermalCap) else min (min p.target p.ramp) p.thermalCap := by
  have hramp : (if p.ramp < p.target then (p.ramp, 1) else (p.target, 0)).1 = min p.target p.ramp := by
    rw [apply_ite Prod.fst]
    split <;> omega
  have hthermal (c : Nat × Nat) : (if p.thermalCap < c.1 then (p.thermalCap, 2) else c).1 = min c.1 p.thermalCap := by
    rw [apply_ite Prod.fst]
    split <;> omega
  have hflow (c : Nat × Nat) : (if p.flowLow = true ∧ swellFloor ≤ c.1 then (swellFloor, 3) else c).1 = if p.flowLow = true then min 450 c.1 else c.1 := by
    have hfloor : swellFloor = 450 := rfl
    rw [apply_ite Prod.fst, hfloor]
    by_cases hlow : p.flowLow = true
    · rw [if_pos hlow]
      simp only [hlow, true_and]
      split <;> omega
    · rw [if_neg hlow, if_neg (fun h => hlow h.1)]
  unfold PowerSt.capOf
  dsimp only
  rw [hflow, hthermal, hramp]

/-- What the step and duty chosen for an allowance meet. -/
structure StepMeets (c : Calib) (a dsum : Rat) (step duty : Nat) : Prop where
  fits : dsum ≤ a → step = 0 ∧ duty = 256
  steps : a < dsum → dsum * c.pOf 56 ≤ a → duty = 256 ∧ step ≤ 56 ∧ dsum * c.pOf step ≤ a ∧ ∀ k, k < step → a < dsum * c.pOf k
  duties : a < dsum → a < dsum * c.pOf 56 → step = 56 ∧ duty = max 64 (256 * a / (dsum * c.pOf 56)).floor.toNat

theorem chooseStep_meets (c : Calib) (a dsum : Rat) : StepMeets c a dsum (chooseStep c a dsum).1 (chooseStep c a dsum).2 := by
  unfold chooseStep
  split
  next hfit => exact ⟨fun _ => ⟨rfl, rfl⟩, fun h => absurd hfit (not_le.mpr h), fun h => absurd hfit (not_le.mpr h)⟩
  next hover =>
    split
    next hlast =>
      refine ⟨fun h => absurd h hover, fun _ _ => ?_, fun _ h => absurd hlast (not_le.mpr h)⟩
      have hsome : ((List.range 57).find? (fun k => decide (dsum * c.pOf k ≤ a))).isSome = true :=
        List.find?_isSome.mpr ⟨56, List.mem_range.mpr (by decide), decide_eq_true hlast⟩
      obtain ⟨k, hk⟩ := Option.isSome_iff_exists.mp hsome
      obtain ⟨hmeets, hmem, hfirst⟩ := List.find?_range_eq_some.mp hk
      rw [hk]
      exact ⟨rfl, Nat.lt_succ_iff.mp (List.mem_range.mp hmem), of_decide_eq_true hmeets, fun j hj => not_le.mp (by simpa using hfirst j hj)⟩
    next hlast => exact ⟨fun h => absurd h hover, fun _ h => absurd h hlast, fun _ _ => ⟨rfl, rfl⟩⟩

/-! ### The computation (R490, R493) -/

section
variable (s : State)

/-- The demand of all compute dies that are up. -/
def State.swellSum : Rat := s.upDies.foldl (fun x d => x + s.demand d) 0

/-- The step and duty of the computation. -/
def State.swellStep : Nat × Nat := chooseStep s.flash.calib (s.allowance s.pwr.capOf.1) s.swellSum

/-- Whether descant work is off after the computation. -/
def State.swellShed : Bool := s.pwr.shed || decide (s.pwr.capOf.1 < s.pwr.inputW) || decide (0 < s.swellStep.1) || decide (s.swellStep.2 < 256)

/-- The power state after the computation. -/
def State.swellPower : PowerSt :=
  { s.pwr with
    cap := s.pwr.capOf.1, limiter := s.pwr.capOf.2, step := s.swellStep.1, duty := s.swellStep.2, shed := s.swellShed
    stage := if s.swellStep.2 < 256 then 3 else if 0 < s.swellStep.1 then 2 else if s.swellShed then 1 else 0 }

/-- The dies that are sent limits. -/
def State.swellDies : List Nat := s.upDies ++ (([0, 1, 2] : List Nat).filter s.baseUp).map (12 + ·)

/-- A die sent its limit of the computation. -/
def State.swellSend (t : State) (d : Nat) : State := t.sendBudget d (s.limitFor s.swellStep.1 s.swellStep.2 d) s.swellShed

theorem State.swellCompute_eq : s.swellCompute = ({ s with pwr := s.swellPower } : State).forEach s.swellDies s.swellSend := by
  unfold State.swellCompute
  dsimp only
  rw [State.forEach, List.foldl_map]
  rfl

theorem State.swellCompute_budgets : ({ s with pwr := s.swellPower } : State).Budgets s.swellCompute := by
  rw [State.swellCompute_eq]
  exact State.forEach_rel State.Budgets.refl State.Budgets.trans (fun t d => t.sendBudget_budgets d _ _) _ _

theorem State.swellCompute_pwr : s.swellCompute.pwr = s.swellPower := by
  obtain ⟨_, _, _, _, h⟩ := s.swellCompute_budgets
  rw [h]

theorem State.swellCompute_frame : ∃ pwr dies links bundles out, s.swellCompute = { s with pwr := pwr, dies := dies, links := links, bundles := bundles, out := out } := by
  obtain ⟨_, _, _, _, h⟩ := s.swellCompute_budgets
  exact ⟨_, _, _, _, _, h⟩

theorem State.swellDies_nodup : s.swellDies.Nodup := by
  refine List.nodup_append.mpr ⟨(List.nodup_range).filter _, (List.Nodup.filter _ (by decide)).map (fun _ _ h => Nat.add_left_cancel h), fun d hd e he => ?_⟩
  obtain ⟨hlt, _⟩ := List.mem_filter.mp hd
  obtain ⟨b, _, rfl⟩ := List.mem_map.mp he
  have := List.mem_range.mp hlt
  omega

theorem State.swellCompute_die (k : Nat) : s.swellCompute.die k =
    if k ∈ s.swellDies then (s.die k).told (s.limitFor s.swellStep.1 s.swellStep.2 k) s.swellShed else s.die k := by
  rw [State.swellCompute_eq]
  exact State.forEach_die (g := fun x d => x.told (s.limitFor s.swellStep.1 s.swellStep.2 d) s.swellShed) (fun t d k => t.sendBudget_die d _ _ k) s.swellDies_nodup _ k

theorem State.swellCompute_dieUp (k : Nat) : (s.swellCompute.die k).up = (s.die k).up := by
  rw [State.swellCompute_die]
  split
  · exact DieSt.told_up _ _ _
  · rfl

theorem State.mem_swellDies_compute {d : Fin 12} (h : s.computeUp d.val = true) : d.val ∈ s.swellDies :=
  List.mem_append_left _ (List.mem_filter.mpr ⟨List.mem_range.mpr d.isLt, h⟩)

theorem State.mem_swellDies_base {b : Fin 3} (h : s.baseUp b.val = true) : 12 + b.val ∈ s.swellDies :=
  List.mem_append_right _ (List.mem_map.mpr ⟨b.val, List.mem_filter.mpr ⟨by have := b.isLt; simp only [List.mem_cons]; omega, h⟩, rfl⟩)

theorem State.limitFor_compute (step duty : Nat) (d : Fin 12) :
    BitVec.ofNat 16 (s.limitFor step duty d.val) = BitVec.ofNat 16 (s.demand d.val * s.flash.calib.pOf step * duty / 256 * 8).floor.toNat := by
  rw [State.limitFor, if_pos d.isLt]
  exact BitVec.eq_of_toNat_eq (by simp)

/-- A base die's limit is a tenth above its report, where that fits (R490). -/
theorem State.limitFor_base (step duty : Nat) (b : Fin 3) (h : 11 * (s.die (12 + b.val)).rep.powerW8.toNat ≤ 655350) :
    11 * (s.die (12 + b.val)).rep.powerW8.toNat ≤ 10 * (BitVec.ofNat 16 (s.limitFor step duty (12 + b.val))).toNat := by
  rw [State.limitFor, if_neg (by omega)]
  generalize (s.die (12 + b.val)).rep.powerW8.toNat = w at h ⊢
  have hfits : (w * 11 + 9) / 10 < 65536 := by omega
  rw [BitVec.toNat_ofNat, Nat.mod_eq_of_lt hfits, Nat.mod_eq_of_lt hfits]
  omega

/-- The power state and the limits after the computation, as seen from a state whose reports, step and duty it goes by. -/
structure State.Computed (s t : State) : Prop where
  cap : t.pwr.cap = if t.pwr.flowLow = true then min 450 (min (min t.pwr.target t.pwr.ramp) t.pwr.thermalCap) else min (min t.pwr.target t.pwr.ramp) t.pwr.thermalCap
  meets : StepMeets s.flash.calib (s.allowance t.pwr.cap) s.swellSum t.pwr.step t.pwr.duty
  shed : t.pwr.shed = true ↔ s.pwr.shed = true ∨ t.pwr.cap < t.pwr.inputW ∨ 0 < t.pwr.step ∨ t.pwr.duty < 256
  compute : ∀ d : Fin 12, s.computeUp d.val = true → (s.die d.val).test = false → (t.die d.val).sent.descantOff = t.pwr.shed ∧
    (t.die d.val).sent.limitW8 = BitVec.ofNat 16 (s.demand d.val * s.flash.calib.pOf t.pwr.step * t.pwr.duty / 256 * 8).floor.toNat
  base : ∀ b : Fin 3, s.baseUp b.val = true → (s.die (12 + b.val)).test = false → (t.die (12 + b.val)).sent.descantOff = t.pwr.shed ∧
    (11 * (s.die (12 + b.val)).rep.powerW8.toNat ≤ 655350 → 11 * (s.die (12 + b.val)).rep.powerW8.toNat ≤ 10 * (t.die (12 + b.val)).sent.limitW8.toNat)
  only : t = { s with pwr := t.pwr, dies := t.dies, regs := t.regs, out := t.out, links := t.links, bundles := t.bundles }

theorem State.swellCompute_computed : s.Computed s.swellCompute where
  cap := by
    rw [State.swellCompute_pwr]
    exact s.pwr.capOf_eq
  meets := by
    rw [State.swellCompute_pwr]
    exact chooseStep_meets _ _ _
  shed := by
    rw [State.swellCompute_pwr]
    simp only [State.swellPower, State.swellShed, Bool.or_eq_true, decide_eq_true_eq, or_assoc]
  compute := fun d hup htest => by
    obtain ⟨hoff, hlimit⟩ := DieSt.told_sent hup htest (s.limitFor s.swellStep.1 s.swellStep.2 d.val) s.swellShed
    rw [State.swellCompute_pwr, State.swellCompute_die, if_pos (s.mem_swellDies_compute hup)]
    exact ⟨hoff, hlimit.trans (s.limitFor_compute _ _ d)⟩
  base := fun b hup htest => by
    obtain ⟨hoff, hlimit⟩ := DieSt.told_sent hup htest (s.limitFor s.swellStep.1 s.swellStep.2 (12 + b.val)) s.swellShed
    rw [State.swellCompute_pwr, State.swellCompute_die, if_pos (s.mem_swellDies_base hup), hlimit]
    exact ⟨hoff, s.limitFor_base _ _ b⟩
  only := by
    obtain ⟨_, _, _, _, _, h⟩ := s.swellCompute_frame
    rw [h]

end

/-- The computation goes by reports, calibration, step and duty, whatever registers and other parts of the power state have changed. -/
theorem State.Computed.of_same {s a t : State} (h : a.Computed t) (ha : a = { s with pwr := a.pwr, regs := a.regs }) (hstep : a.pwr.step = s.pwr.step)
    (hduty : a.pwr.duty = s.pwr.duty) (hshed : a.pwr.shed = s.pwr.shed) : s.Computed t := by
  obtain ⟨p, r, rfl⟩ : ∃ p r, a = { s with pwr := p, regs := r } := ⟨_, _, ha⟩
  obtain ⟨hcap, hmeets, hshed', hcompute, hbase, honly⟩ := h
  have hdemand : ({ s with pwr := p, regs := r } : State).demand = s.demand := by
    funext d
    unfold State.demand
    dsimp only at hstep hduty ⊢
    rw [hstep, hduty]
    rfl
  have hsum : ({ s with pwr := p, regs := r } : State).swellSum = s.swellSum := by
    unfold State.swellSum
    rw [hdemand]
    rfl
  rw [hsum] at hmeets
  rw [hdemand] at hcompute
  rw [hshed] at hshed'
  exact ⟨hcap, hmeets, hshed', hcompute, hbase, honly⟩

end Sys2Proof.Machine
end

section
/-! Proofs: setpoints written and received (R351, R487, R488, R501). -/

namespace Sys2Proof.Machine

/-! ### A setpoint accepted (R487, R488) -/

theorem clampSetpoint_eq (w : Nat) : clampSetpoint w = max 450 (min 2400 w) := by
  have hfloor : swellFloor = 450 := rfl
  have htop : swellTop = 2400 := rfl
  unfold clampSetpoint
  rw [hfloor, htop]
  split
  · omega
  · split <;> omega

section
variable (s : State) (src : SwellSource) (w : Nat)

/-- A setpoint counted, and its clamp counted and shown. -/
def State.setpointCounted : State :=
  if clampSetpoint w = w then s.countWrap .swl 0x060 else ((s.countWrap .swl 0x060).countSat .swl 0x064).raise .swl 0

/-- The power state with a new target. -/
def PowerSt.targeted (p : PowerSt) : PowerSt := { p with target := clampSetpoint w, source := src, ramp := min p.ramp (clampSetpoint w) }

/-- A setpoint taken, before the computation. -/
def State.setpointTaken : State := { s.setpointCounted w with pwr := (s.setpointCounted w).pwr.targeted src w }

theorem State.setpointCounted_onlyRegs : s.Regs (s.setpointCounted w) := by
  unfold State.setpointCounted
  split
  · exact s.countWrap_onlyRegs _ _ _
  · exact ((s.countWrap_onlyRegs _ _ _).trans (State.countSat_onlyRegs _ _ _ _)).trans (State.raise_onlyRegs _ _ _)

theorem State.acceptSetpoint_eq : s.acceptSetpoint src w = if s.pwr.st = .run then (s.setpointTaken src w).swellCompute else s.setpointTaken src w := rfl

theorem State.setpointTaken_pwr : (s.setpointTaken src w).pwr = s.pwr.targeted src w := by
  show (s.setpointCounted w).pwr.targeted src w = _
  rw [(s.setpointCounted_onlyRegs w).of_regs]

theorem State.setpointCounted_accepts : (s.setpointCounted w).reg .swl 0x060 = s.reg .swl 0x060 + 1 := by
  have hcount : (s.countWrap .swl 0x060).reg .swl 0x060 = s.reg .swl 0x060 + 1 := s.setReg_same _ _ _
  unfold State.setpointCounted
  split
  · exact hcount
  · rw [State.raise_reg_other _ _ _ (by decide), State.countSat, State.setReg_other _ _ _ (by decide), hcount]

theorem State.setpointCounted_clamped (h : clampSetpoint w ≠ w) : (s.setpointCounted w).reg .swl 0x064 = satAdd (s.reg .swl 0x064) 1 ∧ s.raisedIn (s.setpointCounted w) .swl 0 := by
  have hkept (o : Nat) (ho : o ≠ 0x060) : (s.countWrap .swl 0x060).reg .swl o = s.reg .swl o := s.setReg_other _ _ ho
  have hcounted (o : Nat) (h0 : o ≠ 0x060) (h1 : o ≠ 0x064) : ((s.countWrap .swl 0x060).countSat .swl 0x064).reg .swl o = s.reg .swl o :=
    (State.setReg_other _ _ _ h1).trans (hkept o h0)
  rw [State.setpointCounted, if_neg h]
  refine ⟨?_, ?_, ?_⟩
  · rw [State.raise_reg_other _ _ _ (by decide), State.countSat, State.setReg_same, hkept _ (by decide)]
  · rw [State.raise_stat, hcounted _ (by decide) (by decide)]
  · rw [State.raise_mask, hcounted _ (by decide) (by decide)]

theorem State.setpointCounted_within (h : clampSetpoint w = w) {o : Nat} (ho : o ≠ 0x060) : (s.setpointCounted w).reg .swl o = s.reg .swl o := by
  rw [State.setpointCounted, if_pos h]
  exact s.setReg_other _ _ ho

/-- A register that a setpoint does not touch. -/
theorem State.setpointCounted_other {o : Nat} (h0 : o ≠ 0x060) (h1 : o ≠ 0x064) (herr : o ∉ errOffs) : (s.setpointCounted w).reg .swl o = s.reg .swl o := by
  unfold State.setpointCounted
  split
  · exact s.setReg_other _ _ h0
  · rw [State.raise_reg_other _ _ _ herr]
    exact (State.setReg_other _ _ _ h1).trans (s.setReg_other _ _ h0)

theorem State.acceptSetpoint_regs : (s.acceptSetpoint src w).regs = (s.setpointCounted w).regs := by
  rw [State.acceptSetpoint_eq]
  split
  · obtain ⟨_, _, _, _, _, h⟩ := (s.setpointTaken src w).swellCompute_frame
    rw [h]
    rfl
  · rfl

theorem State.acceptSetpoint_reg (pg : Page) (o : Nat) : (s.acceptSetpoint src w).reg pg o = (s.setpointCounted w).reg pg o :=
  State.reg_congr (s.acceptSetpoint_regs src w) pg o

theorem State.setpointTaken_only : ∃ pwr regs, s.setpointTaken src w = { s with pwr := pwr, regs := regs } := by
  obtain ⟨_, h⟩ := s.setpointCounted_onlyRegs w
  exact ⟨_, _, by rw [State.setpointTaken, h]⟩

theorem State.acceptSetpoint_frame : ∃ pwr regs dies links bundles out,
    s.acceptSetpoint src w = { s with pwr := pwr, regs := regs, dies := dies, links := links, bundles := bundles, out := out } := by
  obtain ⟨_, _, htaken⟩ := s.setpointTaken_only src w
  rw [State.acceptSetpoint_eq]
  split
  · obtain ⟨_, _, _, _, _, h⟩ := (s.setpointTaken src w).swellCompute_frame
    rw [h, htaken]
    exact ⟨_, _, _, _, _, _, rfl⟩
  · rw [htaken]
    exact ⟨_, _, _, _, _, _, rfl⟩

/-- What of the power state says where the ramp leads. -/
theorem State.acceptSetpoint_pwr : let p := (s.acceptSetpoint src w).pwr
    p.target = clampSetpoint w ∧ p.source = src ∧ p.ramp = min s.pwr.ramp (clampSetpoint w) ∧ p.inputW = s.pwr.inputW ∧ p.epoch = s.pwr.epoch := by
  intro p
  have hp : p = if s.pwr.st = .run then (s.setpointTaken src w).swellPower else (s.setpointTaken src w).pwr := by
    rw [← State.swellCompute_pwr, ← apply_ite State.pwr, ← State.acceptSetpoint_eq]
  rw [hp, State.swellPower, State.setpointTaken_pwr]
  split <;> exact ⟨rfl, rfl, rfl, rfl, rfl⟩

end

/-- What an accepted setpoint leaves in the power state and in the registers that count it, memory and streams as they were. -/
structure State.Accepted (s t : State) (src : SwellSource) (w : Nat) : Prop where
  target : t.pwr.target = max 450 (min 2400 w)
  source : t.pwr.source = src
  ramp : t.pwr.ramp = min s.pwr.ramp (max 450 (min 2400 w))
  input : t.pwr.inputW = s.pwr.inputW
  count : t.reg .swl 0x060 = s.reg .swl 0x060 + 1
  clamped : max 450 (min 2400 w) ≠ w → t.reg .swl 0x064 = satAdd (s.reg .swl 0x064) 1 ∧ s.raisedIn t .swl 0
  within : max 450 (min 2400 w) = w → t.reg .swl 0x064 = s.reg .swl 0x064 ∧ t.reg .swl offErrStat = s.reg .swl offErrStat
  mem : t.mem = s.mem
  streams : t.streams = s.streams

theorem State.acceptSetpoint_accepted (s : State) (src : SwellSource) (w : Nat) : s.Accepted (s.acceptSetpoint src w) src w := by
  obtain ⟨htarget, hsource, hramp, hinput, _⟩ := s.acceptSetpoint_pwr src w
  have hreg := s.acceptSetpoint_reg src w
  obtain ⟨_, _, _, _, _, _, hframe⟩ := s.acceptSetpoint_frame src w
  rw [clampSetpoint_eq] at htarget hramp
  refine ⟨htarget, hsource, hramp, hinput, (hreg _ _).trans (s.setpointCounted_accepts w), fun h => ?_, fun h => ?_, by rw [hframe], by rw [hframe]⟩
  · obtain ⟨hcount, hstat, hmask⟩ := s.setpointCounted_clamped w (by rwa [clampSetpoint_eq])
    exact ⟨(hreg _ _).trans hcount, (hreg _ _).trans hstat, (hreg _ _).trans hmask⟩
  · have hkept {o : Nat} (ho : o ≠ 0x060) := s.setpointCounted_within w (by rwa [clampSetpoint_eq]) ho
    exact ⟨(hreg _ _).trans (hkept (by decide)), (hreg _ _).trans (hkept (by decide))⟩

/-- An accepted setpoint is the same seen from a state with the same ramp, input power, counts, memory and streams. -/
theorem State.Accepted.of_same {s a t : State} {src : SwellSource} {w : Nat} (h : a.Accepted t src w) (hramp : a.pwr.ramp = s.pwr.ramp) (hinput : a.pwr.inputW = s.pwr.inputW)
    (hreg : ∀ o ∈ [0x060, 0x064, offErrStat, offErrMask], a.reg .swl o = s.reg .swl o) (hmem : a.mem = s.mem) (hstreams : a.streams = s.streams) : s.Accepted t src w := by
  obtain ⟨htarget, hsource, hramp', hinput', hcount, hclamped, hwithin, hmem', hstreams'⟩ := h
  rw [State.raisedIn, hreg 0x064 (by simp), hreg offErrStat (by simp), hreg offErrMask (by simp)] at hclamped
  rw [hreg 0x064 (by simp), hreg offErrStat (by simp)] at hwithin
  exact ⟨htarget, hsource, hramp'.trans (by rw [hramp]), hinput'.trans hinput, hcount.trans (by rw [hreg 0x060 (by simp)]), hclamped, hwithin, hmem'.trans hmem, hstreams'.trans hstreams⟩

/-- In Run an accepted setpoint computes the limits; else it changes registers and the power state alone. -/
theorem State.acceptSetpoint_run {s : State} (h : s.pwr.st = .run) (src : SwellSource) (w : Nat) : s.Computed (s.acceptSetpoint src w) := by
  obtain ⟨_, _, htaken⟩ := s.setpointTaken_only src w
  rw [State.acceptSetpoint_eq, if_pos h]
  have hpwr := s.setpointTaken_pwr src w
  exact (s.setpointTaken src w).swellCompute_computed.of_same (by rw [htaken]) (by rw [hpwr]; rfl) (by rw [hpwr]; rfl) (by rw [hpwr]; rfl)

theorem State.acceptSetpoint_idle {s : State} (h : s.pwr.st ≠ .run) (src : SwellSource) (w : Nat) :
    s.acceptSetpoint src w = { s with regs := (s.acceptSetpoint src w).regs, pwr := (s.acceptSetpoint src w).pwr } := by
  obtain ⟨_, _, htaken⟩ := s.setpointTaken_only src w
  rw [State.acceptSetpoint_eq, if_neg h, htaken]

/-! ### SETPOINT_WRITE (R487, R510) -/

/-- The low half of a word that has been written through a mask of 16 bits. -/
theorem fieldOf_mergeBits_half (old v : U32) : fieldOf (mergeBits old v 0xFFFF) 0 16 = v.toNat % 65536 := by
  have hbits : (mergeBits old v 0xFFFF).setWidth 16 = v.setWidth 16 := by
    refine BitVec.eq_of_getLsbD_eq fun i hi => ?_
    have hmask : Nat.testBit 0xFFFF i = true := by
      rw [show 0xFFFF = 2 ^ 16 - 1 from rfl, Nat.testBit_two_pow_sub_one]
      exact decide_eq_true hi
    simp only [mergeBits, BitVec.getLsbD_setWidth, BitVec.getLsbD_or, BitVec.getLsbD_and, BitVec.getLsbD_not, BitVec.getLsbD_ofNat, hmask, hi, decide_true, Bool.true_and, Bool.and_true]
    simp [show i < 32 by omega]
  have hnat := congrArg BitVec.toNat hbits
  simpa [fieldOf] using hnat

/-- The state in which a setpoint written by a host is looked at. -/
def State.setpointStored (s : State) (v : U32) : State := s.setBits .swl 0x040 v 0xFFFF

theorem setpointWrite_eq {s : State} (h : s.hostReach = true) (v : U32) : exec (.setpointWrite v) s =
    .next (if s.sourceOn .register then (s.setpointStored v).acceptSetpoint .register (v.toNat % 65536) else s.setpointStored v) := by
  have hw : fieldOf v 0 16 = v.toNat % 65536 := by simp [fieldOf]
  show execSetpointWrite v s = _
  rw [← hw]
  exact congrArg Host.Outcome.next (if_pos h)

theorem State.setpointStored_onlyRegs (s : State) (v : U32) : s.Regs (s.setpointStored v) := ⟨_, rfl⟩

theorem State.setpointStored_field (s : State) (v : U32) : (s.setpointStored v).field .swl 0x040 0 16 = v.toNat % 65536 := by
  rw [State.field, State.setpointStored, State.setBits, State.setReg_same]
  exact fieldOf_mergeBits_half _ v

theorem State.setpointStored_reg (s : State) (v : U32) {o : Nat} (h : o ≠ 0x040) : (s.setpointStored v).reg .swl o = s.reg .swl o := s.setReg_other _ _ h

/-- A setpoint of an enabled source, as a host writes it. -/
theorem setpointWrite_accepted {s : State} (v : U32) :
    let t := (s.setpointStored v).acceptSetpoint .register (v.toNat % 65536)
    t.field .swl 0x040 0 16 = v.toNat % 65536 ∧ s.Accepted t .register (v.toNat % 65536) ∧ (s.pwr.st = .run → s.Computed t) ∧
      (s.pwr.st ≠ .run → t = { s with regs := t.regs, pwr := t.pwr }) := by
  obtain ⟨regs, hstored⟩ := s.setpointStored_onlyRegs v
  have hpwr : (s.setpointStored v).pwr = s.pwr := by rw [hstored]
  have hreg {o : Nat} (h : o ≠ 0x040) := s.setpointStored_reg v h
  intro t
  refine ⟨?_, ?_, fun hrun => ?_, fun hidle => ?_⟩
  · have hkept : t.reg .swl 0x040 = (s.setpointStored v).reg .swl 0x040 :=
      (State.acceptSetpoint_reg _ _ _ _ _).trans (State.setpointCounted_other _ _ (by decide) (by decide) (by decide))
    rw [State.field, hkept]
    exact s.setpointStored_field v
  · refine ((s.setpointStored v).acceptSetpoint_accepted _ _).of_same (by rw [hpwr]) (by rw [hpwr]) (fun o ho => hreg ?_) (by rw [hstored]) (by rw [hstored])
    rintro rfl
    exact absurd ho (by decide)
  · exact (State.acceptSetpoint_run (by rw [hpwr]; exact hrun) _ _).of_same (by rw [hstored]) (by rw [hpwr]) (by rw [hpwr]) (by rw [hpwr])
  · have h := State.acceptSetpoint_idle (s := s.setpointStored v) (by rw [hpwr]; exact hidle) .register (v.toNat % 65536)
    rw [show t = _ from h, hstored]

/-! ### SWELL_FRAME (R351) -/

/-- The registers of the module pages keep their values. -/
def State.ModuleRegs (s t : State) : Prop := ∀ k, k < 0x10000 → t.word k = s.word k

theorem State.ModuleRegs.refl (s : State) : s.ModuleRegs s := fun _ _ => rfl

theorem State.ModuleRegs.trans {a b c : State} (h : a.ModuleRegs b) (k : b.ModuleRegs c) : a.ModuleRegs c := fun x hx => (k x hx).trans (h x hx)

/-- The pages of the ports lie above those of the module. -/
theorem wwyPage_above {p : Nat} (hp : p < 12) : 0x10000 ≤ (wwyPage p).base := by
  rw [wwyPage, dif_pos hp]
  simp only [Page.base, baseRange]
  omega

theorem State.regsKept.moduleRegs {s t : State} {p o : Nat} (hp : p < 12) (h : s.regsKept t [(wwyPage p).base + o]) : s.ModuleRegs t := by
  refine fun k hk => h k fun hmem => ?_
  have habove := wwyPage_above hp
  have := List.mem_singleton.mp hmem
  omega

theorem State.countDrop_moduleRegs (s : State) (p : Nat) : s.ModuleRegs (s.countDrop p) := by
  by_cases hp : p < 12
  · exact (s.countDrop_regsKept p).moduleRegs hp
  · rw [State.countDrop, if_neg hp]
    exact .refl s

theorem State.broadcastAt_moduleRegs (mask : Nat) (f : Frame) (s : State) (p : Nat) : s.ModuleRegs (s.broadcastAt mask f p) := by
  unfold State.broadcastAt
  split
  next h =>
    have hp : p < 12 := by
      simp only [State.portUp, Bool.and_eq_true, decide_eq_true_eq] at h
      exact h.2.1
    split
    · exact (s.enqueue_regsKept p f).moduleRegs hp
    · exact s.countDrop_moduleRegs p
  next => exact .refl s

theorem State.forwardBcast_moduleRegs (s : State) (p : Nat) (f : Frame) : s.ModuleRegs (s.forwardBcast p f) := by
  unfold State.forwardBcast
  dsimp only
  split
  · exact .refl s
  · split
    · exact s.countDrop_moduleRegs p
    · exact State.forEach_rel State.ModuleRegs.refl State.ModuleRegs.trans (State.broadcastAt_moduleRegs _ _) _ s

theorem State.takePort_moduleRegs {s a : State} {p q type : Nat} {f : Frame} (h : s.takePort p type = some (a, q, f)) : s.ModuleRegs a := by
  unfold State.takePort at h
  split at h
  next =>
    split at h
    next =>
      obtain ⟨rfl, _, _⟩ := Option.some.inj h
      split
      · exact State.ModuleRegs.trans (b := s.popFrame p f) (.refl s) (State.forwardBcast_moduleRegs _ p f)
      · exact .refl s
    next => cases h
  next => cases h

/-- Taking a frame changes no register of the module's own pages. -/
theorem State.takeFrame_moduleRegs {s a : State} {p q type : Nat} {f : Frame} (h : s.takeFrame p type = some (a, q, f)) : s.ModuleRegs a := by
  unfold State.takeFrame at h
  split at h
  next =>
    split at h
    next =>
      obtain ⟨rfl, _, _⟩ := Option.some.inj h
      exact .refl s
    next => exact State.takePort_moduleRegs h
  next => exact State.takePort_moduleRegs h

theorem State.ModuleRegs.reg {s t : State} (h : s.ModuleRegs t) {pg : Page} (hpg : pg.base < 0xF000) {o : Nat} (ho : o < 0x1000) : t.reg pg o = s.reg pg o :=
  h _ (by omega)

/-- The tests of R351 read the same after the frame has been taken. -/
theorem State.ModuleRegs.swellOk {s a : State} (h : s.ModuleRegs a) (hpwr : a.pwr = s.pwr) (f : Frame) : a.swellOk f = s.swellOk f := by
  have hsource : a.swellSource f.src = s.swellSource f.src := by
    unfold State.swellSource
    rw [Bool.eq_iff_iff, List.any_eq_true, List.any_eq_true]
    refine exists_congr fun i => and_congr_right fun hi => ?_
    have hlt := List.mem_range.mp hi
    rw [State.field, State.field, State.field, State.field, h.reg (by decide) (by omega)]
  rw [State.swellOk, State.swellOk, State.sourceOn, State.sourceOn, h.reg (by decide) (by decide), hsource, hpwr]

/-- The state with the epoch of an accepted frame noted. -/
def State.epochTaken (s : State) (f : Frame) : State := { s with pwr := { s.pwr with epoch := some (BitVec.ofNat 32 (f.field 0 4)) } }

theorem swellFrame_eq {s : State} {p : Fin 12} {x : Nat × Frame} (h : s.frameFor p.val ftSwell = some x) :
    ∃ a, s.Taken a x.1 x.2 ∧ s.ModuleRegs a ∧ exec (.swellFrame p) s =
      .next (if s.swellOk x.2 = true then (a.epochTaken x.2).acceptSetpoint .frame (x.2.field 4 2) else (a.countDrop x.1).raise .wwyMod 1) := by
  obtain ⟨a, htake, htaken⟩ := State.takeFrame_of_frameFor p.isLt h
  have hmodule := State.takeFrame_moduleRegs htake
  obtain ⟨_, _, _, honly⟩ := htaken.only
  refine ⟨a, htaken, hmodule, ?_⟩
  show execSwellFrame p s = _
  rw [execSwellFrame, State.onFrame, htake, ← hmodule.swellOk (by rw [honly]) x.2]
  rfl

/-- An accepted SWELL frame. -/
theorem State.Taken.swellAccepted {s a : State} {q : Nat} {f : Frame} (h : s.Taken a q f) (hmodule : s.ModuleRegs a) (w : Nat) :
    let t := (a.epochTaken f).acceptSetpoint .frame w
    s.tookFrame t q f ∧ t.pwr.epoch = some (BitVec.ofNat 32 (f.field 0 4)) ∧ s.Accepted t .frame w := by
  intro t
  obtain ⟨_, _, _, _, _, _, hframe⟩ := (a.epochTaken f).acceptSetpoint_frame .frame w
  obtain ⟨_, _, _, _, hepoch⟩ := (a.epochTaken f).acceptSetpoint_pwr .frame w
  obtain ⟨_, _, _, honly⟩ := h.only
  have hreg : ∀ o ∈ [0x060, 0x064, offErrStat, offErrMask], (a.epochTaken f).reg .swl o = s.reg .swl o := fun o ho =>
    hmodule.reg (by decide) (by simp only [offErrStat, offErrMask, List.mem_cons, List.not_mem_nil, or_false] at ho; omega)
  refine ⟨State.Waits.took (.of_same (s := a) (t := t) (by rw [show t = _ from hframe]; rfl) (by rw [show t = _ from hframe]; rfl)) h.took, hepoch, ?_⟩
  exact ((a.epochTaken f).acceptSetpoint_accepted .frame w).of_same (by rw [honly]; rfl) (by rw [honly]; rfl) hreg (by rw [honly]; rfl) (by rw [honly]; rfl)

/-- A SWELL frame that fails a test is dropped and shown. -/
theorem State.Taken.swellRefused {s a : State} {q : Nat} {f : Frame} (h : s.Taken a q f) :
    let t := (a.countDrop q).raise .wwyMod 1
    s.tookFrame t q f ∧ t.pwr = s.pwr ∧ (t.reg .wwyMod offErrStat).getLsbD 1 = true ∧ t.dies = s.dies ∧ t.mem = s.mem ∧ t.streams = s.streams := by
  intro t
  obtain ⟨_, ht⟩ := (a.countDrop_onlyRegs q).trans (State.raise_onlyRegs _ .wwyMod 1)
  obtain ⟨_, _, _, honly⟩ := h.only
  have htook : s.tookFrame t q f := State.Waits.took (.of_same (s := a) (t := t) (by rw [show t = _ from ht]) (by rw [show t = _ from ht])) h.took
  refine ⟨htook, ?_, State.raise_stat_set _ _ (by decide), ?_, ?_, ?_⟩ <;> rw [show t = _ from ht, honly]

end Sys2Proof.Machine
end

section
/-! Proofs: the control loop, shed work restored, the coolant's flow, and the ticks of a compute die (R489, R494, R506, R507, R606, R607). -/

namespace Sys2Proof.Machine

/-! ### The control loop (R489, R506, R507) -/

section
variable (s : State) (obs : SwellObs)

/-- Base dies in a thermal response after the loop's readings. -/
def State.loopHot : List Nat := (hotNext s.pwr.hotBases obs.baseTemp).filter s.baseUp

/-- Whether a base die or a stack is in a response. -/
def State.loopActive : Bool := !(s.loopHot obs).isEmpty || !s.hotStacks.isEmpty

/-- The power state with what the loop measured, and the thermal cap that follows. -/
def State.loopMeasured : PowerSt :=
  ({ s.pwr with inputW := obs.inputW, input10mV := obs.input10mV, hotBases := s.loopHot obs, clockMs := s.pwr.clockMs + obs.elapsedMs } : PowerSt).thermalNext
    (s.loopActive obs) obs.elapsedMs s.slew

/-- The power state that the loop leaves before the computation. -/
def State.loopPower : PowerSt :=
  { s.loopMeasured obs with
    ramp := if !decide (s.pwr.st = .run) then (s.loopMeasured obs).ramp
      else if (s.loopMeasured obs).target ≤ (s.loopMeasured obs).ramp then (s.loopMeasured obs).target
      else min (s.loopMeasured obs).target ((s.loopMeasured obs).ramp + s.slew * obs.elapsedMs)
    throttleMs := if s.loopActive obs || s.throttled then min 0xFFFFFFFF ((s.loopMeasured obs).throttleMs + obs.elapsedMs) else (s.loopMeasured obs).throttleMs }

/-- The state before the computation: a response that begins shows in ERR_STAT. -/
def State.loopNoted : State :=
  if s.loopActive obs && s.pwr.hotBases.isEmpty && decide (s.pwr.calmMs ≠ 0) then ({ s with pwr := s.loopPower obs } : State).raise .pwr 0
  else { s with pwr := s.loopPower obs }

/-- Base dies at 110 °C. -/
def State.loopTrips : List Nat := ([0, 1, 2] : List Nat).filter (fun b => s.baseUp b && decide (110 ≤ obs.baseTemp.getD b 0))

/-- A base die that trips. -/
def State.loopTrip (t : State) (b : Nat) : State :=
  match finOf 3 b with
  | some f => t.thermalTrip (.base f) (obs.baseTemp.getD b 0).toNat
  | none => t

theorem swellControlLoop_eq (hpowered : s.start.powered = true) (hst : s.pwr.st = .run ∨ s.pwr.st = .hold) : exec (.swellControlLoop obs) s =
    .next ((if decide (s.pwr.st = .run) then (s.loopNoted obs).swellCompute else s.loopNoted obs).forEach (s.loopTrips obs) (State.loopTrip obs)) := by
  show execSwellControlLoop obs s = _
  exact congrArg Host.Outcome.next (if_pos ⟨hpowered, hst⟩)

theorem State.loopNoted_spec : ∃ regs, s.loopNoted obs = { s with pwr := s.loopPower obs, regs := regs } ∧ s.regsKept (s.loopNoted obs) (errRegs .pwr) := by
  unfold State.loopNoted
  split
  · exact ⟨_, rfl, State.raise_regsKept ({ s with pwr := s.loopPower obs } : State) .pwr 0⟩
  · exact ⟨_, rfl, State.regsKept_of_regs rfl _⟩

theorem State.loopTrips_none (h : ∀ b : Fin 3, s.baseUp b.val = true → obs.baseTemp.getD b.val 0 < 110) : s.loopTrips obs = [] := by
  refine List.filter_eq_nil_iff.mpr fun b hb htrip => ?_
  obtain ⟨hup, hhot⟩ := (Bool.and_eq_true _ _).mp htrip
  have hlt : b < 3 := by
    simp only [List.mem_cons, List.not_mem_nil, or_false] at hb
    omega
  exact absurd (h ⟨b, hlt⟩ hup) (not_lt.mpr (of_decide_eq_true hhot))

theorem State.loopTrips_one {b : Fin 3} (hup : s.baseUp b.val = true) (hhot : 110 ≤ obs.baseTemp.getD b.val 0)
    (hothers : ∀ c : Fin 3, c ≠ b → obs.baseTemp.getD c.val 0 < 110) : s.loopTrips obs = [b.val] := by
  have hone : s.loopTrips obs = ([0, 1, 2] : List Nat).filter (fun k => decide (k = b.val)) := by
    refine List.filter_congr fun k hk => ?_
    have hlt : k < 3 := by
      simp only [List.mem_cons, List.not_mem_nil, or_false] at hk
      omega
    by_cases h : k = b.val
    · rw [h, hup, decide_eq_true hhot, decide_eq_true rfl, Bool.true_and]
    · rw [decide_eq_false (not_le.mpr (hothers ⟨k, hlt⟩ fun heq => h (congrArg Fin.val heq))), decide_eq_false h, Bool.and_false]
  rw [hone]
  match b with
  | 0 => rfl
  | 1 => rfl
  | 2 => rfl

/-- What the loop measured, as the power state `p` shows it. -/
structure State.Measured (p : PowerSt) : Prop where
  input : p.inputW = obs.inputW
  volts : p.input10mV = obs.input10mV
  target : p.target = s.pwr.target
  hot : ∀ b : Fin 3, p.hotBases.contains b.val = true ↔
    s.baseUp b.val = true ∧ (95 ≤ obs.baseTemp.getD b.val 0 ∨ (s.pwr.hotBases.contains b.val = true ∧ 93 ≤ obs.baseTemp.getD b.val 0))
  active : p.hotBases ≠ [] ∨ s.hotStacks ≠ [] → p.thermalCap = max 450 (97 * obs.inputW / 100)
  calm : p.hotBases = [] → s.hotStacks = [] → s.pwr.calmMs + obs.elapsedMs < 1000 → p.thermalCap = s.pwr.thermalCap
  rise : p.hotBases = [] → s.hotStacks = [] → 1000 ≤ s.pwr.calmMs + obs.elapsedMs → p.thermalCap = min 2400 (s.pwr.thermalCap + s.slew * obs.elapsedMs)

theorem State.loopHot_contains (b : Fin 3) : (s.loopHot obs).contains b.val = true ↔
    s.baseUp b.val = true ∧ (95 ≤ obs.baseTemp.getD b.val 0 ∨ (s.pwr.hotBases.contains b.val = true ∧ 93 ≤ obs.baseTemp.getD b.val 0)) := by
  have hmem : b.val ∈ ([0, 1, 2] : List Nat) := by
    have := b.isLt
    simp only [List.mem_cons, List.not_mem_nil, or_false]
    omega
  rw [List.contains_iff_mem, State.loopHot, List.mem_filter, hotNext, List.mem_filter, Bool.or_eq_true, Bool.and_eq_true, decide_eq_true_eq, decide_eq_true_eq]
  exact ⟨fun ⟨⟨_, htemp⟩, hup⟩ => ⟨hup, htemp⟩, fun ⟨hup, htemp⟩ => ⟨⟨hmem, htemp⟩, hup⟩⟩

theorem State.loopActive_iff : s.loopActive obs = true ↔ s.loopHot obs ≠ [] ∨ s.hotStacks ≠ [] := by
  simp only [State.loopActive, Bool.or_eq_true, Bool.not_eq_true', List.isEmpty_eq_false_iff]

/-- What of the power state the loop leaves as it measured it. -/
theorem PowerSt.thermalNext_rest (p : PowerSt) (active : Bool) (elapsed slew : Nat) : ∃ cap calm, p.thermalNext active elapsed slew = { p with thermalCap := cap, calmMs := calm } := by
  unfold PowerSt.thermalNext
  split
  · exact ⟨_, _, rfl⟩
  · split
    · exact ⟨_, _, rfl⟩
    · exact ⟨p.thermalCap, _, rfl⟩

theorem PowerSt.thermalNext_cap (p : PowerSt) (active : Bool) (elapsed slew : Nat) : (p.thermalNext active elapsed slew).thermalCap =
    if active then max 450 (97 * p.inputW / 100) else if 1000 ≤ p.calmMs + elapsed then min 2400 (p.thermalCap + slew * elapsed) else p.thermalCap := by
  unfold PowerSt.thermalNext
  split
  · rfl
  · split <;> rfl

theorem State.loopPower_measured : s.Measured obs (s.loopPower obs) := by
  obtain ⟨_, _, hrest⟩ := PowerSt.thermalNext_rest
    { s.pwr with inputW := obs.inputW, input10mV := obs.input10mV, hotBases := s.loopHot obs, clockMs := s.pwr.clockMs + obs.elapsedMs } (s.loopActive obs) obs.elapsedMs s.slew
  have hmeasured : s.loopMeasured obs = _ := hrest
  have hhot : (s.loopPower obs).hotBases = s.loopHot obs := by rw [State.loopPower, hmeasured]
  have hcap : (s.loopPower obs).thermalCap = if s.loopActive obs then max 450 (97 * obs.inputW / 100)
      else if 1000 ≤ s.pwr.calmMs + obs.elapsedMs then min 2400 (s.pwr.thermalCap + s.slew * obs.elapsedMs) else s.pwr.thermalCap := PowerSt.thermalNext_cap _ _ _ _
  have hidle (hbases : s.loopHot obs = []) (hstacks : s.hotStacks = []) : ¬ s.loopActive obs = true := fun h =>
    ((s.loopActive_iff obs).mp h).elim (fun h => h hbases) (fun h => h hstacks)
  refine ⟨?_, ?_, ?_, ?_, ?_, ?_, ?_⟩
  · rw [State.loopPower, hmeasured]
  · rw [State.loopPower, hmeasured]
  · rw [State.loopPower, hmeasured]
  · rw [hhot]
    exact s.loopHot_contains obs
  · rw [hhot, hcap]
    exact fun h => if_pos ((s.loopActive_iff obs).mpr h)
  · rw [hhot, hcap]
    exact fun hbases hstacks hcalm => by rw [if_neg (hidle hbases hstacks), if_neg (by omega)]
  · rw [hhot, hcap]
    exact fun hbases hstacks hcalm => by rw [if_neg (hidle hbases hstacks), if_pos hcalm]

/-- Step, duty, cap and shedding are the computation's alone; the ramp moves in Run (R489). -/
theorem State.loopPower_rest : let p := s.loopPower obs
    p.step = s.pwr.step ∧ p.duty = s.pwr.duty ∧ p.cap = s.pwr.cap ∧ p.shed = s.pwr.shed ∧ p.ramp = if s.pwr.st = .run then
      (if s.pwr.target ≤ s.pwr.ramp then s.pwr.target else min s.pwr.target (s.pwr.ramp + s.slew * obs.elapsedMs)) else s.pwr.ramp := by
  obtain ⟨_, _, hrest⟩ := PowerSt.thermalNext_rest
    { s.pwr with inputW := obs.inputW, input10mV := obs.input10mV, hotBases := s.loopHot obs, clockMs := s.pwr.clockMs + obs.elapsedMs } (s.loopActive obs) obs.elapsedMs s.slew
  have hmeasured : s.loopMeasured obs = _ := hrest
  intro p
  have hp : p = s.loopPower obs := rfl
  rw [hp, State.loopPower, hmeasured]
  refine ⟨rfl, rfl, rfl, rfl, ?_⟩
  dsimp only
  by_cases hrun : s.pwr.st = .run
  · simp [hrun]
  · simp [hrun]

/-- The computation changes nothing of what was measured. -/
theorem State.Measured.computed {a : State} (h : s.Measured obs a.pwr) : s.Measured obs a.swellCompute.pwr := by
  obtain ⟨hinput, hvolts, htarget, hhot, hactive, hcalm, hrise⟩ := h
  rw [State.swellCompute_pwr]
  exact ⟨hinput, hvolts, htarget, hhot, hactive, hcalm, hrise⟩

/-- The loop in Run, before a trip. -/
theorem State.loopNoted_computed (hrun : s.pwr.st = .run) : let t := (s.loopNoted obs).swellCompute
    s.Computed t ∧ s.Measured obs t.pwr ∧ s.regsKept t (errRegs .pwr) ∧
      t.pwr.ramp = if s.pwr.target ≤ s.pwr.ramp then s.pwr.target else min s.pwr.target (s.pwr.ramp + s.slew * obs.elapsedMs) := by
  obtain ⟨regs, hnoted, hkept⟩ := s.loopNoted_spec obs
  obtain ⟨hstep, hduty, _, hshed, hramp⟩ := s.loopPower_rest obs
  have hpwr : (s.loopNoted obs).pwr = s.loopPower obs := by rw [hnoted]
  obtain ⟨_, _, _, _, _, hframe⟩ := (s.loopNoted obs).swellCompute_frame
  intro t
  refine ⟨(State.swellCompute_computed _).of_same (by rw [hnoted]) (by rw [hpwr, hstep]) (by rw [hpwr, hduty]) (by rw [hpwr, hshed]),
    State.Measured.computed s obs (by rw [hpwr]; exact s.loopPower_measured obs), hkept.trans (State.regsKept_of_regs (by rw [show t = _ from hframe]) _), ?_⟩
  rw [show t.pwr = _ from State.swellCompute_pwr _]
  show (s.loopNoted obs).pwr.ramp = _
  rw [hpwr, hramp, if_pos hrun]

theorem swellControlLoop_run (hpowered : s.start.powered = true) (hrun : s.pwr.st = .run) (h : ∀ b : Fin 3, s.baseUp b.val = true → obs.baseTemp.getD b.val 0 < 110) :
    exec (.swellControlLoop obs) s = .next (s.loopNoted obs).swellCompute := by
  rw [swellControlLoop_eq s obs hpowered (.inl hrun), s.loopTrips_none obs h, if_pos (decide_eq_true hrun)]
  rfl

theorem swellControlLoop_hold (hpowered : s.start.powered = true) (hhold : s.pwr.st = .hold) (h : ∀ b : Fin 3, s.baseUp b.val = true → obs.baseTemp.getD b.val 0 < 110) :
    exec (.swellControlLoop obs) s = .next (s.loopNoted obs) := by
  rw [swellControlLoop_eq s obs hpowered (.inr hhold), s.loopTrips_none obs h, if_neg (by simp [hhold])]
  rfl

/-- A base die at 110 °C alone trips after the computation. -/
theorem swellControlLoop_trip {b : Fin 3} (hpowered : s.start.powered = true) (hrun : s.pwr.st = .run) (hup : s.baseUp b.val = true) (hhot : 110 ≤ obs.baseTemp.getD b.val 0)
    (hothers : ∀ c : Fin 3, c ≠ b → obs.baseTemp.getD c.val 0 < 110) :
    exec (.swellControlLoop obs) s = .next ((s.loopNoted obs).swellCompute.thermalTrip (.base b) (obs.baseTemp.getD b.val 0).toNat) := by
  rw [swellControlLoop_eq s obs hpowered (.inl hrun), s.loopTrips_one obs hup hhot hothers, if_pos (decide_eq_true hrun), State.forEach, List.foldl_cons, List.foldl_nil, State.loopTrip,
    finOf, dif_pos b.isLt]

theorem State.loopTripped_spec {b : Fin 3} (hrun : s.pwr.st = .run) (hup : s.baseUp b.val = true) (temp : Nat) :
    let t := (s.loopNoted obs).swellCompute.thermalTrip (.base b) temp
    (t.die (12 + b.val)).up = false ∧ (t.reg .pwr offErrStat).getLsbD 1 = true ∧ t.pwr.inputW = obs.inputW := by
  intro t
  obtain ⟨_, hnoted, _⟩ := s.loopNoted_spec obs
  have hup' : ((s.loopNoted obs).swellCompute.die (12 + b.val)).up = true := by
    rw [State.swellCompute_dieUp, hnoted]
    exact hup
  obtain ⟨hsurvives, hshown⟩ := State.thermalTrip_survives (d := .base b) hup' temp
  obtain ⟨_, hmeasured, _, _⟩ := s.loopNoted_computed obs hrun
  exact ⟨State.thermalTrip_base hup' temp, hshown, (congrArg PowerSt.inputW hsurvives.pwr).trans hmeasured.input⟩

end

/-! ### DESCANT_RESTORE (R494) -/

/-- The state in which shed work is on again. -/
def State.unshed (s : State) : State := { s with pwr := { s.pwr with shed := false, stage := 0 } }

/-- A die told the same limit, descant work on. -/
def State.restoreDie (s : State) (d : Nat) : State := s.sendBudget d (s.die d).sent.limitW8.toNat false

theorem descantRestore_eq {s : State} (h : s.pwr.shed = true ∧ s.pwr.step = 0 ∧ s.pwr.duty = 256 ∧ s.pwr.inputW + s.field .swl 0x05C 0 16 ≤ s.pwr.cap) :
    exec .descantRestore s = .next (s.unshed.forEach (List.range 15) State.restoreDie) := by
  show execDescantRestore s = _
  exact congrArg Host.Outcome.next (if_pos h)

theorem State.restored_spec (s : State) : let t := s.unshed.forEach (List.range 15) State.restoreDie
    s.unshed.Budgets t ∧ ∀ d : Fin 15, (s.die d.val).up = true → (s.die d.val).test = false → (t.die d.val).sent = { (s.die d.val).sent with descantOff := false } := by
  intro t
  refine ⟨State.forEach_rel State.Budgets.refl State.Budgets.trans (fun t d => t.sendBudget_budgets d _ _) _ _, fun d hup htest => ?_⟩
  have hdie : t.die d.val = (s.die d.val).told (s.die d.val).sent.limitW8.toNat false :=
    (State.forEach_die (g := fun x _ => x.told x.sent.limitW8.toNat false) (fun t d k => t.sendBudget_die d _ _ k) List.nodup_range s.unshed d.val).trans
      (if_pos (List.mem_range.mpr d.isLt))
  rw [hdie, DieSt.told_again hup htest]

/-! ### The coolant's flow (R506, R606, R607) -/

/-- The record of low flow: the flow and its minimum. -/
def State.flowEvent (s : State) : Event := { kind := 0x22, detail := [s.pwr.mlpm, s.field .pwr 0x054 0 16] }

/-- The state in which the flow is too low. -/
def State.flowPoor (s : State) : State := { s with pwr := { s.pwr with flowLow := true } }

/-- Low flow noted, recorded and shown. -/
def State.flowNoted (s : State) : State := (s.flowPoor.record s.flowEvent).raise .pwr 2

theorem flowLowDetected_eq {s : State} (h : s.start.powered = true ∧ s.pwr.flowLow = false ∧ s.pwr.leak = false ∧ s.pwr.mlpm < s.field .pwr 0x054 0 16) :
    exec .flowLowDetected s = .next (if s.pwr.st = .run then s.flowNoted.swellCompute else s.flowNoted) := by
  show execFlowLowDetected s = _
  exact congrArg Host.Outcome.next (if_pos h)

/-- Low flow leaves the record and the bit, memory and streams as they were; the computation does not touch them. -/
structure State.FlowShown (s t : State) : Prop where
  recorded : s.recordedIn t 0x22 S_OK unitModule
  raised : s.raisedIn t .pwr 2
  mem : t.mem = s.mem
  streams : t.streams = s.streams

theorem State.flowNoted_pwr (s : State) : s.flowNoted.pwr = { s.pwr with flowLow := true } := s.flowPoor.record_pwr s.flowEvent

theorem State.flowNoted_shown (s : State) : s.FlowShown s.flowNoted where
  recorded := s.flowPoor.record_recordedIn s.flowEvent
  raised := (State.regsKept_of_regs (s := s.flowPoor) (s.flowPoor.record_regs s.flowEvent) []).raisedIn 2 List.not_mem_nil List.not_mem_nil
  mem := s.flowPoor.record_mem s.flowEvent
  streams := s.flowPoor.record_streams s.flowEvent

theorem State.FlowShown.computed {s a : State} (h : s.FlowShown a) : s.FlowShown a.swellCompute := by
  obtain ⟨_, _, _, _, _, hframe⟩ := a.swellCompute_frame
  obtain ⟨hrecorded, hraised, hmem, hstreams⟩ := h
  rw [hframe]
  exact ⟨hrecorded, hraised, hmem, hstreams⟩

theorem State.flowNoted_cap (s : State) : s.flowNoted.swellCompute.pwr.flowLow = true ∧ s.flowNoted.swellCompute.pwr.cap ≤ 450 := by
  have hlow : s.flowNoted.pwr.flowLow = true := by rw [State.flowNoted_pwr]
  rw [State.swellCompute_pwr]
  refine ⟨hlow, ?_⟩
  show s.flowNoted.pwr.capOf.1 ≤ 450
  rw [PowerSt.capOf_eq, if_pos hlow]
  exact Nat.min_le_left _ _

/-- The state in which the flow is enough again. -/
def State.flowEnough (s : State) : State := { s with pwr := { s.pwr with flowLow := false } }

theorem flowRestored_eq {s : State} (h : s.pwr.flowLow = true ∧ s.field .pwr 0x054 0 16 ≤ s.pwr.mlpm) :
    exec .flowRestored s = .next (if s.pwr.st = .run then s.flowEnough.swellCompute else s.flowEnough) := by
  show execFlowRestored s = _
  exact congrArg Host.Outcome.next (if_pos h)

theorem flowTachWindow_eq {s : State} (h : s.start.powered = true) (edges : Nat) :
    exec (.flowTachWindow edges) s = .next { s with pwr := { s.pwr with mlpm := min 65535 (60 * edges) } } := by
  rw [Nat.mul_comm]
  show execFlowTachWindow edges s = _
  exact congrArg Host.Outcome.next (if_pos h)

/-! ### A compute die's tick (R506) -/

/-- Whether a compute die is in a response after a reading. -/
def DieSt.hotAfter (x : DieSt) (c : Int) : Bool := decide (95 ≤ c) || (x.hot && decide (93 ≤ c))

/-- A compute die one tick on, under the controller's step and duty. -/
def DieSt.ticked (x : DieSt) (hot : Bool) (step duty : Nat) : DieSt :=
  if hot then
    if x.step < 56 then { x with hot := true, step := x.step + 1 } else { x with hot := true, duty := max 64 (x.duty - 16) }
  else if x.duty < duty then { x with hot := false, duty := min duty (x.duty + 16) }
  else { x with hot := false, step := if step < x.step then x.step - 1 else x.step }

section
variable {d : Fin 12} {c : BitVec 8} {s : State}

theorem DieSt.hotAfter_iff (x : DieSt) (c : Int) : x.hotAfter c = true ↔ 95 ≤ c ∨ (x.hot = true ∧ 93 ≤ c) := by
  simp only [DieSt.hotAfter, Bool.or_eq_true, Bool.and_eq_true, decide_eq_true_eq]

/-- The die ticked, and a response that begins shown. -/
def State.tickedAt (s : State) (d : Nat) (c : Int) : State :=
  if (s.die d).hotAfter c && !(s.die d).hot then (s.setDie d ((s.die d).ticked ((s.die d).hotAfter c) s.pwr.step s.pwr.duty)).raise .pwr 0
  else s.setDie d ((s.die d).ticked ((s.die d).hotAfter c) s.pwr.step s.pwr.duty)

theorem dieThermalTick_cool (hup : (s.die d.val).up = true) (h : c.toInt < 110) : exec (.dieThermalTick d c) s = .next (s.tickedAt d.val c.toInt) := by
  show execDieThermalTick d c s = _
  unfold execDieThermalTick tempOf
  dsimp only
  rw [if_neg (by simp [hup]), if_neg (not_le.mpr h)]
  rfl

theorem dieThermalTick_trip (hup : (s.die d.val).up = true) (h : 110 ≤ c.toInt) : exec (.dieThermalTick d c) s = .next (s.thermalTrip (.compute d) c.toInt.toNat) := by
  show execDieThermalTick d c s = _
  unfold execDieThermalTick tempOf
  dsimp only
  rw [if_neg (by simp [hup]), if_pos h]

theorem State.tickedAt_dies (s : State) (d : Nat) (c : Int) : (s.tickedAt d c).dies = (s.setDie d ((s.die d).ticked ((s.die d).hotAfter c) s.pwr.step s.pwr.duty)).dies := by
  unfold State.tickedAt
  split
  · exact State.raise_dies _ _ _
  · rfl

theorem State.tickedAt_die (s : State) (d k : Nat) (c : Int) :
    (s.tickedAt d c).die k = if k = d then (s.die d).ticked ((s.die d).hotAfter c) s.pwr.step s.pwr.duty else s.die k := by
  rw [State.die_congr (s.tickedAt_dies d c), State.setDie_die]

theorem State.tickedAt_only (s : State) (d : Nat) (c : Int) : s.tickedAt d c = { s with dies := (s.tickedAt d c).dies, regs := (s.tickedAt d c).regs } := by
  unfold State.tickedAt
  split <;> rfl

theorem State.tickedAt_raised {d : Nat} {c : Int} (h : (s.die d).hotAfter c = true) (hnew : (s.die d).hot = false) : s.raisedIn (s.tickedAt d c) .pwr 0 := by
  rw [State.tickedAt, if_pos (by simp [h, hnew])]
  exact (State.regsKept_of_regs (s := s) (t := s.setDie d _) rfl []).raisedIn 0 List.not_mem_nil List.not_mem_nil

theorem State.tickedAt_quiet {d : Nat} {c : Int} (h : (s.die d).hotAfter c = false) : (s.tickedAt d c).regs = s.regs := by
  rw [State.tickedAt, if_neg (by simp [h])]
  rfl

end

/-- Settles O55: every computation goes through `State.swellCompute_computed`, and what each command leaves besides through its own frame. -/
theorem swellFollowsSetpoints : Obligations.SwellFollowsSetpoints := by
  unfold Obligations.SwellFollowsSetpoints
  refine ⟨?_, ?_⟩
  · intro s pk dsum only computed accepted
    have hcomputed (t : State) (h : s.Computed t) : computed t :=
      ⟨h.cap, h.meets.fits, h.meets.steps, h.meets.duties, h.shed, h.compute, h.base, h.only⟩
    have haccepted (t : State) (src : SwellSource) (w : Nat) (h : s.Accepted t src w) : accepted s t src w :=
      ⟨h.target, h.source, h.ramp, h.input, h.count, h.clamped, h.within, h.mem, h.streams⟩
    refine ⟨?_, ?_, ?_, ?_, ?_, ?_, ?_, ?_⟩
    · intro v hreach w
      have hexec := setpointWrite_eq hreach v
      by_cases hon : s.sourceOn .register = true
      · obtain ⟨hfield, hset, hrun, hidle⟩ := setpointWrite_accepted (s := s) v
        rw [if_pos hon] at hexec
        exact ⟨_, hexec, hfield, fun _ => ⟨haccepted _ _ _ hset, fun h => hcomputed _ (hrun h), hidle⟩, fun h => absurd (hon.symm.trans h) (by decide)⟩
      · rw [if_neg hon] at hexec
        exact ⟨_, hexec, s.setpointStored_field v, fun h => absurd h hon, fun _ => ⟨s.setReg_regsKept _ _ _, (s.setpointStored_onlyRegs v).of_regs⟩⟩
    · intro p x hframe f
      obtain ⟨a, htaken, hmodule, hexec⟩ := swellFrame_eq hframe
      by_cases hok : s.swellOk f = true
      · obtain ⟨htook, hepoch, hset⟩ := htaken.swellAccepted hmodule (f.field 4 2)
        rw [if_pos hok] at hexec
        exact ⟨_, hexec, htook, fun _ => ⟨hepoch, haccepted _ _ _ hset⟩, fun h => absurd (hok.symm.trans h) (by decide)⟩
      · obtain ⟨htook, hrest⟩ := htaken.swellRefused
        rw [if_neg hok] at hexec
        exact ⟨_, hexec, htook, fun h => absurd h hok, fun _ => hrest⟩
    · intro obs hpowered hrun temp
      refine ⟨fun hcool => ?_, fun b hup hhot hothers => ?_⟩
      · obtain ⟨hset, ⟨hinput, hvolts, htarget, hbases, hactive, hcalm, hrise⟩, hkept, hramp⟩ := s.loopNoted_computed obs hrun
        exact ⟨_, swellControlLoop_run s obs hpowered hrun hcool, hcomputed _ hset, hinput, hvolts, htarget, hramp, hbases, hactive, hcalm, hrise, hkept⟩
      · exact ⟨_, swellControlLoop_trip s obs hpowered hrun hup hhot hothers, s.loopTripped_spec obs hrun hup _⟩
    · intro obs hpowered hhold temp hcool
      obtain ⟨_, hnoted, hkept⟩ := s.loopNoted_spec obs
      obtain ⟨hstep, hduty, hcap, _, hramp⟩ := s.loopPower_rest obs
      obtain ⟨hinput, hvolts, htarget, hbases, hactive, hcalm, hrise⟩ := s.loopPower_measured obs
      rw [if_neg (by simp [hhold])] at hramp
      refine ⟨_, swellControlLoop_hold s obs hpowered hhold hcool, by rw [hnoted], hkept, ?_⟩
      rw [show (s.loopNoted obs).pwr = s.loopPower obs by rw [hnoted]]
      exact ⟨hinput, hvolts, htarget, hramp, hcap, hstep, hduty, hbases, hactive, hcalm, hrise⟩
    · intro hshed hstep hduty hmargin
      obtain ⟨⟨_, _, _, _, hbudgets⟩, hsent⟩ := s.restored_spec
      refine ⟨_, descantRestore_eq ⟨hshed, hstep, hduty, hmargin⟩, ?_, ?_, ?_, hsent⟩
      · rw [hbudgets]
        rfl
      · show _ = _
        rw [hbudgets]
        rfl
      · rw [hbudgets]
        rfl
    · intro hpowered edges
      exact ⟨_, flowTachWindow_eq hpowered edges, rfl⟩
    · intro hpowered hleak hflow hlow
      have hexec := flowLowDetected_eq ⟨hpowered, hflow, hleak, hlow⟩
      by_cases hrun : s.pwr.st = .run
      · rw [if_pos hrun] at hexec
        obtain ⟨hrecorded, hraised, hmem, hstreams⟩ := s.flowNoted_shown.computed
        exact ⟨_, hexec, hrecorded, hraised, s.flowNoted_cap.1, fun _ => s.flowNoted_cap.2, fun h => absurd hrun h, hmem, hstreams⟩
      · rw [if_neg hrun] at hexec
        obtain ⟨hrecorded, hraised, hmem, hstreams⟩ := s.flowNoted_shown
        exact ⟨_, hexec, hrecorded, hraised, by rw [State.flowNoted_pwr], fun h => absurd h hrun, fun _ => s.flowNoted_pwr, hmem, hstreams⟩
    · intro hflow henough
      have hexec := flowRestored_eq ⟨hflow, henough⟩
      by_cases hrun : s.pwr.st = .run
      · rw [if_pos hrun] at hexec
        refine ⟨_, hexec, by rw [State.swellCompute_pwr]; rfl, fun _ => hcomputed _ (s.flowEnough.swellCompute_computed.of_same rfl rfl rfl rfl), fun h => absurd hrun h⟩
      · rw [if_neg hrun] at hexec
        exact ⟨_, hexec, rfl, fun h => absurd h hrun, fun _ => rfl⟩
  · intro d c s hup x hot
    by_cases hcool : c.toInt < 110
    · refine ⟨_, dieThermalTick_cool hup hcool, fun _ => ⟨fun k hk => ?_, s.tickedAt_only _ _, fun hhot => ?_, fun hhot => ?_⟩, fun h => absurd hcool (not_lt.mpr h)⟩
      · rw [State.tickedAt_die, if_neg (by simpa using hk)]
      · have hafter : x.hotAfter c.toInt = true := (x.hotAfter_iff _).mpr hhot
        refine ⟨?_, State.tickedAt_raised hafter⟩
        rw [State.tickedAt_die, if_pos rfl, show (s.die d.val).hotAfter c.toInt = true from hafter]
        exact if_pos rfl
      · have hafter : x.hotAfter c.toInt = false := Bool.eq_false_iff.mpr (mt (x.hotAfter_iff _).mp hhot)
        refine ⟨State.tickedAt_quiet hafter, ?_⟩
        rw [State.tickedAt_die, if_pos rfl, show (s.die d.val).hotAfter c.toInt = false from hafter]
        exact if_neg (by decide)
    · obtain ⟨hsurvives, hshown⟩ := State.thermalTrip_survives (d := .compute d) hup c.toInt.toNat
      refine ⟨_, dieThermalTick_trip hup (not_lt.mp hcool), fun h => absurd h hcool, fun _ => ⟨?_, ?_, hshown, hsurvives.mem⟩⟩
      · rw [State.thermalTrip_compute hup]
        rfl
      · rw [State.thermalTrip_compute hup]
        rfl

end Sys2Proof.Machine
end

section
/-! Proofs: seat lists and streams without quorum (R380, R385, R387, R388, R397, R425). -/

namespace Sys2Proof.Machine

/-! ### Fields of a word written in part -/

theorem fieldOf_testBit (v : U32) (lo w k : Nat) : (fieldOf v lo w).testBit k = (decide (k < w) && v.getLsbD (lo + k)) := by
  rw [fieldOf, Nat.testBit_mod_two_pow, Nat.testBit_div_two_pow, Nat.add_comm k lo, BitVec.getLsbD]

theorem mergeBits_bit (old v : U32) (m : Nat) {i : Nat} (hi : i < 32) : (mergeBits old v m).getLsbD i = if m.testBit i then v.getLsbD i else old.getLsbD i := by
  simp only [mergeBits, BitVec.getLsbD_or, BitVec.getLsbD_and, BitVec.getLsbD_not, BitVec.getLsbD_ofNat, hi, decide_true, Bool.true_and]
  cases m.testBit i <;> simp

section
variable (old v : U32) {m lo w : Nat}

/-- A field beside the mask keeps its value. -/
theorem fieldOf_mergeBits_beside (hw : lo + w ≤ 32) (hm : ∀ k, k < w → m.testBit (lo + k) = false) : fieldOf (mergeBits old v m) lo w = fieldOf old lo w := by
  refine Nat.eq_of_testBit_eq fun k => ?_
  rw [fieldOf_testBit, fieldOf_testBit]
  by_cases hk : k < w
  · rw [mergeBits_bit _ _ _ (by omega), hm k hk, if_neg Bool.false_ne_true]
  · rw [decide_eq_false hk, Bool.false_and, Bool.false_and]

/-- A field under the mask takes the new value. -/
theorem fieldOf_mergeBits_under (hw : lo + w ≤ 32) (hm : ∀ k, k < w → m.testBit (lo + k) = true) : fieldOf (mergeBits old v m) lo w = fieldOf v lo w := by
  refine Nat.eq_of_testBit_eq fun k => ?_
  rw [fieldOf_testBit, fieldOf_testBit]
  by_cases hk : k < w
  · rw [mergeBits_bit _ _ _ (by omega), if_pos (hm k hk)]
  · rw [decide_eq_false hk, Bool.false_and, Bool.false_and]

end

/-! ### A load starts (R380, R397) -/

/-- The load in progress after a write of STM_QRM_LOAD. -/
def State.seatLoadAfter (s : State) (v : U32) : Option Load :=
  if v.getLsbD 31 = true ∧ s.seatLoad = none then some ⟨v.toNat % 256, v.toNat / 256 % 2 ^ 17, s.pair .stmQrm 0x048 % 2 ^ 48⟩ else s.seatLoad

theorem seatListLoad_eq (v : U32) {s : State} (hreach : s.hostReach = true) :
    exec (.seatListLoad v) s = .next { s.setBits .stmQrm 0x050 v 0x1FFFFFF with seatLoad := s.seatLoadAfter v } := by
  refine congrArg Host.Outcome.next ((if_pos hreach).trans ?_)
  unfold State.seatLoadAfter
  by_cases hgo : v.getLsbD 31 = true ∧ s.seatLoad = none
  · rw [if_pos hgo]
    obtain ⟨hbit, hnone⟩ := hgo
    refine (if_neg ?_).trans ?_
    · simp [hbit, hnone]
    · simp [fieldOf]
  · rw [if_neg hgo]
    refine if_pos ?_
    rwa [not_and_or, Bool.not_eq_true, ← ne_eq, ← Option.isSome_iff_ne_none, ← Bool.not_eq_true', ← Bool.or_eq_true] at hgo

/-! ### Its end (R380, R425) -/

/-- Case 2 of R380, but for the words of the list: the job and the number of seats. -/
def State.SeatJobUnfit (s : State) (l : Load) : Prop :=
  (s.job l.job).valid = false ∨ (s.job l.job).descant = true ∨ s.jobKey l.job = 0 ∨ l.count = 0 ∨ 65536 < l.count

/-- Case 2 of R380 on the words of the list: one out of range, one that stands twice, or none of them the module's own. -/
def State.SeatWordsUnfit (s : State) (l : Load) : Prop :=
  (s.seatWords l).any (fun w => decide (2 ^ 18 ≤ w)) ∨ ¬ (s.seatWords l).Nodup ∨ s.selfId ∉ s.seatWords l

theorem dedup_length_ne_iff (l : List Nat) : l.dedup.length ≠ l.length ↔ ¬ l.Nodup := by
  rw [← List.dedup_eq_self]
  exact not_congr ⟨(List.dedup_sublist l).eq_of_length, congrArg List.length⟩

section
variable {s : State} {l : Load}

theorem State.seatRefusal_busy (lost : Bool) (h : s.jobBusy l.job = true) : s.seatRefusal l lost = some S_SEAT_BUSY := if_pos h

/-- The refusal of an image that memory delivers. -/
theorem State.seatRefusal_readable (hidle : s.jobBusy l.job = false) (hok : s.imageOk l.addr (4 * l.count) = true) :
    s.seatRefusal l false = some S_SEAT_BAD ∧ (s.SeatJobUnfit l ∨ s.SeatWordsUnfit l) ∨
      s.seatRefusal l false = none ∧ ¬ (s.SeatJobUnfit l ∨ s.SeatWordsUnfit l) := by
  have hjob : (!(s.job l.job).valid || (s.job l.job).descant || decide (s.jobKey l.job = 0) || decide (l.count = 0) || decide (65536 < l.count)) = true ↔
      s.SeatJobUnfit l := by
    simp [State.SeatJobUnfit, or_assoc]
  have hwords : (!s.imageOk l.addr (4 * l.count) || false || (s.seatWords l).any (fun w => decide (0x40000 ≤ w)) ||
      decide ((s.seatWords l).dedup.length ≠ (s.seatWords l).length) || !(s.seatWords l).contains s.selfId) = true ↔ s.SeatWordsUnfit l := by
    simp only [hok, Bool.or_eq_true, decide_eq_true_eq, dedup_length_ne_iff]
    simp [State.SeatWordsUnfit, or_assoc]
  have heq : s.seatRefusal l false = _ := if_neg (by simp [hidle])
  rw [heq]
  split
  case isTrue h => exact .inl ⟨rfl, .inl (hjob.mp h)⟩
  case isFalse hj =>
    split
    case isTrue h => exact .inl ⟨rfl, .inr (hwords.mp h)⟩
    case isFalse hw => exact .inr ⟨rfl, not_or.mpr ⟨mt hjob.mpr hj, mt hwords.mpr hw⟩⟩

/-- STM_QRM_RESULT and the event of a refused load (R380). -/
theorem State.seatResult_refused (s : State) (c : U16) :
    (s.seatResult c none).field .stmQrm 0x054 0 16 = c.toNat ∧ s.raisedIn (s.seatResult c none) .stmQrm 0 ∧ s.Regs (s.seatResult c none) := by
  obtain ⟨hreg, hkept, hframe⟩ := s.setBits_spec .stmQrm 0x054 (c.zeroExtend 32) 0xFFFF
  refine ⟨?_, hkept.raisedIn 0 (by decide) (by decide), ⟨_, rfl⟩⟩
  have hword : (s.seatResult c none).reg .stmQrm 0x054 = _ := (State.raise_reg_other _ _ _ (by decide)).trans hreg
  rw [State.field, hword, fieldOf_mergeBits_half, BitVec.toNat_setWidth]
  omega

/-- STM_QRM_RESULT of an accepted load (R380). -/
theorem State.seatResult_accepted (s : State) (i : Nat) :
    (s.seatResult S_OK (some i)).field .stmQrm 0x054 0 16 = 0 ∧ (s.seatResult S_OK (some i)).field .stmQrm 0x054 16 3 = i % 8 ∧ s.Regs (s.seatResult S_OK (some i)) := by
  have hcode : (s.setBits .stmQrm 0x054 (S_OK.zeroExtend 32) 0xFFFF).reg .stmQrm 0x054 = _ := (s.setBits_spec .stmQrm 0x054 _ _).1
  have hword : (s.seatResult S_OK (some i)).reg .stmQrm 0x054 = _ := (State.setBits_spec _ .stmQrm 0x054 _ _).1
  rw [State.field, State.field, hword, hcode]
  refine ⟨?_, ?_, ⟨_, rfl⟩⟩
  · rw [fieldOf_mergeBits_beside _ _ (by decide) (by decide), fieldOf_mergeBits_half]
    rfl
  · rw [fieldOf_mergeBits_under _ _ (by decide) (by decide), fieldOf, BitVec.toNat_ofNat]
    omega

/-- A slot with a new list: every seat live, no token, nothing counted (R380, R425). -/
def Slot.loaded (x : Slot) (job self : Nat) (ws : List Nat) : Slot :=
  { x with valid := true, job := job, seats := ws, self := ws.findIdx (fun w => decide (w = self)), dead := [], steps := [], tokens := [], retractIds := [], hbSeq := 0, quorum := true }

/-- A load refused with a code. -/
def State.seatListRefused (s : State) (c : U16) : State := { s with seatLoad := none }.seatResult c none

/-- A load put into a slot. -/
def State.seatListTaken (s : State) (l : Load) (i : Nat) : State :=
  ({ s with seatLoad := none }.setSlot i ((s.slot i).loaded l.job s.selfId (s.seatWords l))).seatResult S_OK (some i)

/-- How a load ends whose image memory delivers. -/
def State.seatLoadEnd (s : State) (l : Load) : State :=
  match s.seatRefusal l false with
  | some c => s.seatListRefused c
  | none =>
    match s.slotFor l.job with
    | none => s.seatListRefused S_SEAT_FULL
    | some i => s.seatListTaken l i

theorem State.seatLoadEnd_refused {c : U16} (h : s.seatRefusal l false = some c) : s.seatLoadEnd l = s.seatListRefused c := by rw [State.seatLoadEnd, h]

theorem State.seatLoadEnd_full (h : s.seatRefusal l false = none) (hfull : s.slotFor l.job = none) : s.seatLoadEnd l = s.seatListRefused S_SEAT_FULL := by
  rw [State.seatLoadEnd, h, hfull]

theorem State.seatLoadEnd_taken {i : Nat} (h : s.seatRefusal l false = none) (hi : s.slotFor l.job = some i) : s.seatLoadEnd l = s.seatListTaken l i := by
  rw [State.seatLoadEnd, h, hi]

theorem State.seatListTaken_slot (i k : Nat) : (s.seatListTaken l i).slot k = if k = i then (s.slot i).loaded l.job s.selfId (s.seatWords l) else s.slot k :=
  State.setSlot_slot { s with seatLoad := none } i k ((s.slot i).loaded l.job s.selfId (s.seatWords l))

theorem seatListLoadDone_eq (hl : s.seatLoad = some l) (hread : s.eccRead l.addr (4 * l.count) = (s, none)) :
    exec .seatListLoadDone s = .next (s.seatLoadEnd l) := by
  have hecc : (if s.imageOk l.addr (4 * l.count) && !s.jobBusy l.job then s.eccRead l.addr (4 * l.count) else (s, none)) = (s, none) := by
    rw [hread, ite_self]
  show execSeatListLoadDone s = _
  simp only [execSeatListLoadDone, hl, hecc]
  rfl

end

/-! ### Streams resumed (R387) -/

/-- Streams made RUNNING, one after the other. -/
def State.resumed (s : State) (l : List Nat) : State := s.forEach l (fun t n => t.updRec n (fun y => { y with st := .running }))

theorem State.resumed_streamsOnly (s : State) (l : List Nat) : s.resumed l = { s with streams := (s.resumed l).streams } := by
  refine State.forEach_rel (R := fun a b => b = { a with streams := b.streams }) (fun _ => rfl) (fun hab hbc => ?_) (fun _ _ => rfl) l s
  rw [hbc, hab]

/-- Of each stream that is listed, only its state and its GEN may differ; the others are as they were. -/
theorem State.resumed_stream (m : Nat) (l : List Nat) : ∀ s : State,
    (∃ gen, (s.resumed l).stream m = { s.stream m with st := if m ∈ l then .running else (s.stream m).st, gen := gen }) ∧
      (m ∉ l → (s.resumed l).stream m = s.stream m) := by
  induction l with
  | nil => exact fun s => ⟨⟨_, rfl⟩, fun _ => rfl⟩
  | cons n l ih =>
    intro s
    obtain ⟨⟨gen, hgen⟩, hother⟩ := ih (s.updRec n (fun y => { y with st := .running }))
    have hstep : (s.resumed (n :: l)).stream m = ((s.updRec n (fun y => { y with st := .running })).resumed l).stream m := rfl
    rw [State.updRec_stream] at hgen hother
    rw [hstep]
    by_cases hm : m = n
    · subst hm
      rw [if_pos rfl] at hgen
      exact ⟨⟨gen, by simpa using hgen⟩, fun h => absurd List.mem_cons_self h⟩
    · rw [if_neg hm] at hgen hother
      exact ⟨⟨gen, by simpa [hm] using hgen⟩, fun h => hother (List.not_mem_of_not_mem_cons h)⟩

theorem State.mem_frozenOf {s : State} {j n : Nat} : n ∈ s.frozenOf j ↔ (s.stream n).st = .frozen ∧ n ∈ s.streamsOf j := by
  rw [State.frozenOf, List.mem_filter, decide_eq_true_eq, and_comm]

section
variable {s : State}

theorem quorumResume_eq (hreach : s.hostReach = true) :
    exec .quorumResume s = .next (if (s.slot s.selSlot).valid = true ∧ (s.slot s.selSlot).quorum = true then s.resumed (s.frozenOf (s.slot s.selSlot).job) else s.raise .stmQrm 2) :=
  congrArg Host.Outcome.next (if_pos hreach)

theorem quorumRefuse_fails (hreach : s.hostReach = true) (hv : (s.slot s.selSlot).valid = true) :
    exec .quorumRefuse s = .next (s.failAll (s.frozenOf (s.slot s.selSlot).job) S_REJOIN_REFUSED unitNone) := congrArg Host.Outcome.next (if_pos ⟨hreach, hv⟩)

/-! ### A slot freed (R397) -/

theorem seatSlotUnload_eq (hreach : s.hostReach = true) (hv : (s.slot s.selSlot).valid = true) :
    exec .seatSlotUnload s = .next (if s.jobBusy (s.slot s.selSlot).job = true then s.raise .stmQrm 0
      else (s.setSlot s.selSlot (s.slot s.selSlot).freed).checkHorizon (s.slot s.selSlot).job) := congrArg Host.Outcome.next (if_pos ⟨hreach, hv⟩)

/-- A look at the horizon changes the context of its job alone. -/
theorem State.checkHorizon_spec (s : State) (j : Nat) :
    keptBut s.job (s.checkHorizon j).job [j] ∧ s.checkHorizon j = { s with jobs := (s.checkHorizon j).jobs } :=
  ⟨fun k hk => (State.setJob_job s j k _).trans (if_neg (by simpa using hk)), rfl⟩

/-! ### A stream freezes (R385) -/

theorem streamFreeze_freezes {n : Fin 16384} (h : (s.stream n.val).st = .running ∧ s.quorumLost (s.stream n.val).job = true ∧ s.drained n.val = true) :
    exec (.streamFreeze n) s = .next (s.updRec n.val (fun y => { y with st := .frozen, stalled := false })) := congrArg Host.Outcome.next (if_pos h)

theorem streamFreeze_idle {n : Fin 16384} (h : ¬ ((s.stream n.val).st = .running ∧ s.quorumLost (s.stream n.val).job = true ∧ s.drained n.val = true)) :
    exec (.streamFreeze n) s = .next s := congrArg Host.Outcome.next (if_neg h)

theorem State.quorumLost_iff {j : Nat} : s.quorumLost j = true ↔ ∃ i, s.slotOf j = some i ∧ (s.slot i).quorum = false := by
  unfold State.quorumLost
  cases s.slotOf j <;> simp

end

/-- Settles O48, from one equation for each command: the end of a load by the cases of R380, streams resumed and failed one after the other. -/
theorem seatListsAndQuorum : Obligations.SeatListsAndQuorum := by
  unfold Obligations.SeatListsAndQuorum
  refine ⟨fun v s hreach => ?_, fun s l hl => ?_, fun s hreach => ?_, fun n s => ?_⟩
  · obtain ⟨hreg, hkept, _⟩ := s.setBits_spec .stmQrm 0x050 v 0x1FFFFFF
    exact ⟨_, seatListLoad_eq v hreach, hreg, hkept, rfl, rfl⟩
  · intro x ws bad refused hok hread
    have hbad : bad ↔ s.SeatJobUnfit l ∨ s.SeatWordsUnfit l := by
      simp only [State.SeatJobUnfit, or_assoc]
      rfl
    have hrefused (c : U16) : refused (s.seatListRefused c) c := by
      obtain ⟨hcode, hraised, hregs⟩ := State.seatResult_refused { s with seatLoad := none } c
      exact ⟨hcode, hraised, hregs.of_regs⟩
    have hfits (hidle : s.jobBusy l.job = false) (h : ¬ bad) : s.seatRefusal l false = none :=
      (State.seatRefusal_readable hidle hok).elim (fun hr => absurd (hbad.mpr hr.2) h) And.left
    refine ⟨_, seatListLoadDone_eq hl hread, fun hbusy => ?_, fun hidle h => ?_, fun hidle h hfull => ?_, fun hidle h i hi => ?_⟩
    · rw [State.seatLoadEnd_refused (State.seatRefusal_busy false hbusy)]
      exact hrefused _
    · obtain ⟨hcase, _⟩ | ⟨_, hnot⟩ := State.seatRefusal_readable hidle hok
      · rw [State.seatLoadEnd_refused hcase]
        exact hrefused _
      · exact absurd (hbad.mp h) hnot
    · rw [State.seatLoadEnd_full (hfits hidle h) hfull]
      exact hrefused _
    · rw [State.seatLoadEnd_taken (hfits hidle h) hi]
      obtain ⟨hcode, hslot, _⟩ := State.seatResult_accepted ({ s with seatLoad := none }.setSlot i ((s.slot i).loaded l.job s.selfId (s.seatWords l))) i
      have htaken : (s.seatListTaken l i).slot i = (s.slot i).loaded l.job s.selfId (s.seatWords l) := (State.seatListTaken_slot i i).trans (if_pos rfl)
      exact ⟨htaken, (congrArg Slot.hbMiss htaken).symm, hcode, hslot, fun k hk => (State.seatListTaken_slot i k).trans (if_neg (by simpa using hk)), rfl⟩
  · intro i x
    refine ⟨fun hv hidle => ?_, fun hv hbusy => ?_, fun hv hq => ?_, fun hno => ?_, fun hv => ?_⟩
    · obtain ⟨hjobs, _⟩ := (s.setSlot i x.freed).checkHorizon_spec x.job
      refine ⟨_, (seatSlotUnload_eq hreach hv).trans (congrArg Host.Outcome.next (if_neg (Bool.eq_false_iff.mp hidle))), s.setSlot_same i _,
        fun k hk => s.setSlot_other _ (List.ne_of_not_mem_cons hk), hjobs, rfl⟩
    · exact ⟨_, (seatSlotUnload_eq hreach hv).trans (congrArg Host.Outcome.next (if_pos hbusy)), s.raise_raisedIn _ _, rfl⟩
    · refine ⟨_, (quorumResume_eq hreach).trans (congrArg Host.Outcome.next (if_pos ⟨hv, hq⟩)), s.resumed_streamsOnly _, fun n => ?_⟩
      obtain ⟨⟨gen, hgen⟩, hother⟩ := State.resumed_stream n.val (s.frozenOf (s.slot s.selSlot).job) s
      refine ⟨fun hfrozen => ?_, fun hnot => hother (mt State.mem_frozenOf.mp hnot)⟩
      rw [hgen]
      exact ⟨if_pos (State.mem_frozenOf.mpr hfrozen), rfl⟩
    · refine ⟨_, (quorumResume_eq hreach).trans (congrArg Host.Outcome.next (if_neg fun hboth => ?_)), s.raise_raisedIn _ _, rfl⟩
      obtain ⟨hv, hq⟩ := hboth
      exact hno.elim (fun h => Bool.eq_false_iff.mp h hv) fun h => Bool.eq_false_iff.mp h hq
    · refine ⟨_, quorumRefuse_fails hreach hv, (s.failAll_endFrame _ _ _).mem, fun n hfrozen hmem => ?_⟩
      obtain ⟨hst, hend, _⟩ := State.failAll_fails S_REJOIN_REFUSED unitNone (State.mem_frozenOf.mpr ⟨hfrozen, hmem⟩) (.inr (.inr hfrozen))
      exact ⟨hst, hend⟩
  · intro x rests
    refine ⟨fun hrun hlost hdrained => ?_, fun h => streamFreeze_idle fun hall => ?_⟩
    · exact ⟨_, streamFreeze_freezes ⟨hrun, hlost, hdrained⟩, State.setStream_same _ _ _, fun m hm => (State.updRec_stream _ _ _ _).trans (if_neg (by simpa using hm)), rfl⟩
    · obtain ⟨hrun, hlost, _⟩ := hall
      obtain ⟨i, hi, hq⟩ := State.quorumLost_iff.mp hlost
      exact h.elim (fun hne => hne hrun) fun hrests => Bool.eq_false_iff.mp hq (hrests i hi)

end Sys2Proof.Machine
end

section
/-! Proofs: the digests of a job's unison group, the verdict on them, and what clears entries and marks (R433 to R437, R447). -/

namespace Sys2Proof.Machine

/-! ### Error records (R440) -/

/-- Only the log, its next number and the free values drawn may differ. -/
def State.Logs (s t : State) : Prop := ∃ log logHead free, t = { s with log := log, logHead := logHead, free := free }

theorem State.Logs.refl (s : State) : s.Logs s := ⟨_, _, _, rfl⟩

theorem State.Logs.trans {a b c : State} : a.Logs b → b.Logs c → a.Logs c := by
  rintro ⟨_, _, _, rfl⟩ ⟨_, _, _, rfl⟩
  exact ⟨_, _, _, rfl⟩

theorem State.record_logs (s : State) (e : Event) : s.Logs (s.record e) := ⟨_, _, _, rfl⟩

theorem State.recordEach_logs (s : State) (l : List Nat) (e : Event) : s.Logs (s.recordEach l e) := by
  unfold State.recordEach
  split
  · exact s.record_logs e
  · exact State.forEach_rel State.Logs.refl State.Logs.trans (fun t n => t.record_logs _) l s

/-! ### What a verdict touches (R435 to R438) -/

/-- Memory, the frames that wait and the unison table are as they were. -/
def State.Judges (s t : State) : Prop :=
  ∃ streams regs jobs slots tune twin upds colls readds waiting links bundles nextReq free out log logHead, t = { s with
    streams := streams, regs := regs, jobs := jobs, slots := slots, tune := tune, twin := twin, upds := upds, colls := colls, readds := readds
    waiting := waiting, links := links, bundles := bundles, nextReq := nextReq, free := free, out := out, log := log, logHead := logHead }

namespace State.Judges

theorem refl (s : State) : s.Judges s := ⟨_, _, _, _, _, _, _, _, _, _, _, _, _, _, _, _, _, rfl⟩

theorem trans {a b c : State} : a.Judges b → b.Judges c → a.Judges c := by
  rintro ⟨_, _, _, _, _, _, _, _, _, _, _, _, _, _, _, _, _, rfl⟩ ⟨_, _, _, _, _, _, _, _, _, _, _, _, _, _, _, _, _, rfl⟩
  exact ⟨_, _, _, _, _, _, _, _, _, _, _, _, _, _, _, _, _, rfl⟩

theorem of_end {s t : State} : s.EndFrame t → s.Judges t := by
  rintro ⟨_, _, _, _, _, _, _, _, _, _, _, rfl⟩
  exact ⟨_, _, _, _, _, _, _, _, _, _, _, _, _, _, _, _, _, rfl⟩

theorem of_logs {s t : State} : s.Logs t → s.Judges t := by
  rintro ⟨_, _, _, rfl⟩
  exact ⟨_, _, _, _, _, _, _, _, _, _, _, _, _, _, _, _, _, rfl⟩

theorem of_regs {s t : State} : s.Regs t → s.Judges t := by
  rintro ⟨_, rfl⟩
  exact ⟨_, _, _, _, _, _, _, _, _, _, _, _, _, _, _, _, _, rfl⟩

theorem of_quorate {s t : State} : s.Quorate t → s.Judges t := by
  rintro ⟨_, _, _, rfl⟩
  exact ⟨_, _, _, _, _, _, _, _, _, _, _, _, _, _, _, _, _, rfl⟩

theorem setJob (s : State) (j : Nat) (x : Job) : s.Judges (s.setJob j x) := ⟨_, _, _, _, _, _, _, _, _, _, _, _, _, _, _, _, _, rfl⟩

theorem setTune (s : State) (u : Nat) (x : TuneUnit) : s.Judges (s.setTune u x) := ⟨_, _, _, _, _, _, _, _, _, _, _, _, _, _, _, _, _, rfl⟩

variable {s t : State} (h : s.Judges t)
include h

theorem handles : s.Handles t := by
  obtain ⟨_, _, _, _, _, _, _, _, _, _, _, _, _, _, _, _, _, rfl⟩ := h
  exact .of_same rfl rfl rfl

theorem unison : t.unison = s.unison := by
  obtain ⟨_, _, _, _, _, _, _, _, _, _, _, _, _, _, _, _, _, rfl⟩ := h
  rfl

end State.Judges

/-! ### A job expelled (R436) -/

theorem State.setJob_counts {offs : List Nat} (s : State) (j : Nat) (x : Job) : s.Counts offs (s.setJob j x) := .of_regs (State.setJob_regs _ _ _)

/-- A check of the horizon moves the horizon alone (R426). -/
theorem State.checkHorizon_job (s : State) (j : Nat) : (s.checkHorizon j).job j = { s.job j with horizon := maxOpt (s.job j).horizon (s.horizonNow j) } :=
  State.setJob_same s j _

theorem State.streamsOf_congr {s t : State} (h : t.streams = s.streams) (j : Nat) : t.streamsOf j = s.streamsOf j := by rw [State.streamsOf, State.streamsOf, h]

/-- A job's mark of its expulsion, shown. -/
def State.expelMarked (s : State) (j : Nat) : State := (s.updJob j (fun x => { x with expelled := true, rotating := false, rotation := [] })).raise .uni 1

/-- The quorum slot that a job holds freed. -/
def State.slotGivenUp (s : State) (j : Nat) : State :=
  match s.slotOf j with
  | some i => (s.setSlot i (s.slot i).freed).checkHorizon j
  | none => s

/-- A job whose streams have failed, left out of quorum and mirror. -/
def State.leavesGroup (s : State) (j : Nat) : State := ((s.failAll (s.streamsOf j) S_EXPELLED unitNone).slotGivenUp j).stopTwinOf j

section
variable (s : State) (j : Nat)

theorem State.expel_eq (key : U32) (step own : Nat) : ∃ a, (s.expelMarked j).Logs a ∧ s.expel j key step own = a.leavesGroup j :=
  ⟨_, State.recordEach_logs _ _ _, rfl⟩

theorem State.slotGivenUp_cases : s.slotGivenUp j = s ∨ ∃ i, s.slotGivenUp j = (s.setSlot i (s.slot i).freed).checkHorizon j := by
  unfold State.slotGivenUp
  split
  · exact .inr ⟨_, rfl⟩
  · exact .inl rfl

theorem State.slotGivenUp_judges : s.Judges (s.slotGivenUp j) := by
  rcases s.slotGivenUp_cases j with h | ⟨i, h⟩
  · rw [h]
    exact .refl s
  · rw [h]
    exact (State.Judges.of_quorate (s.setSlot_quorate i _)).trans (.setJob _ _ _)

theorem State.slotGivenUp_same : (s.slotGivenUp j).regs = s.regs ∧ (s.slotGivenUp j).streams = s.streams := by
  rcases s.slotGivenUp_cases j with h | ⟨i, h⟩ <;> rw [h] <;> exact ⟨rfl, rfl⟩

theorem State.slotGivenUp_expelled : ((s.slotGivenUp j).job j).expelled = (s.job j).expelled := by
  rcases s.slotGivenUp_cases j with h | ⟨i, h⟩
  · rw [h]
  · rw [h, State.checkHorizon_job]
    rfl

theorem State.leavesGroup_judges : s.Judges (s.leavesGroup j) :=
  ((State.Judges.of_end (s.failAll_endFrame _ _ _)).trans (State.slotGivenUp_judges _ j)).trans (.of_quorate (State.stopTwinOf_quorate _ j))

theorem State.leavesGroup_counts : s.Counts [] (s.leavesGroup j) :=
  ((s.failAll_counts _ _ _).trans (.of_regs (State.slotGivenUp_same _ j).1)).trans (State.stopTwinOf_counts _ j)

theorem State.leavesGroup_fails {m : Nat} (hm : m ∈ s.streamsOf j) (hst : (s.stream m).fails) :
    ((s.leavesGroup j).stream m).st = .failed ∧ ((s.leavesGroup j).stream m).endStatus = S_EXPELLED := by
  obtain ⟨hfailed, hend, _⟩ := State.failAll_fails S_EXPELLED unitNone hm hst
  have hkept : (s.leavesGroup j).stream m = (s.failAll (s.streamsOf j) S_EXPELLED unitNone).stream m :=
    State.stream_congr ((State.stopTwinOf_quorate _ j).mem.2.trans (State.slotGivenUp_same _ j).2) m
  rw [hkept]
  exact ⟨hfailed, hend⟩

theorem State.Quorate.job {s t : State} (h : s.Quorate t) (k : Nat) : t.job k = s.job k := by
  obtain ⟨_, _, _, rfl⟩ := h
  rfl

theorem State.EndFrame.job {s t : State} (h : s.EndFrame t) (k : Nat) : t.job k = s.job k := by
  obtain ⟨_, _, _, _, _, _, _, _, _, _, _, rfl⟩ := h
  rfl

theorem State.leavesGroup_expelled : ((s.leavesGroup j).job j).expelled = (s.job j).expelled := by
  rw [State.leavesGroup, (State.stopTwinOf_quorate _ j).job, State.slotGivenUp_expelled, (s.failAll_endFrame _ _ _).job]

theorem State.expelMarked_job : ((s.expelMarked j).job j).expelled = true := congrArg Job.expelled (State.setJob_same s j _)

theorem State.expelMarked_judges : s.Judges (s.expelMarked j) := (State.Judges.setJob s j _).trans (.of_regs (State.raise_onlyRegs _ _ _))

theorem State.expelMarked_counts : s.Counts [] (s.expelMarked j) := (s.setJob_counts j _).trans (State.raise_counts _ _ _)

end

theorem State.Logs.regs {s t : State} (h : s.Logs t) : t.regs = s.regs := by
  obtain ⟨_, _, _, rfl⟩ := h
  rfl

theorem State.Logs.streams {s t : State} (h : s.Logs t) : t.streams = s.streams := by
  obtain ⟨_, _, _, rfl⟩ := h
  rfl

theorem State.Logs.job {s t : State} (h : s.Logs t) (j : Nat) : t.job j = s.job j := by
  obtain ⟨_, _, _, rfl⟩ := h
  rfl

/-- A job's streams fail with a code, for a verdict shown as a bit. -/
structure State.EndsJob (s t : State) (j : Nat) (code : U16) (bit : Nat) : Prop where
  judges : s.Judges t
  counts : s.Counts [] t
  shown : (t.reg .uni offErrStat).getLsbD bit = true
  fails : ∀ m, m ∈ s.streamsOf j → (s.stream m).fails → (t.stream m).st = .failed ∧ (t.stream m).endStatus = code

theorem State.expel_spec (s : State) (j : Nat) (key : U32) (step own : Nat) :
    s.EndsJob (s.expel j key step own) j S_EXPELLED 1 ∧ ((s.expel j key step own).job j).expelled = true := by
  obtain ⟨a, hlogs, heq⟩ := s.expel_eq j key step own
  have hstreams : a.streams = s.streams := hlogs.streams.trans (State.raise_streams _ _ _)
  have hcounts : (s.expelMarked j).Counts [] (a.leavesGroup j) := (State.Counts.of_regs hlogs.regs).trans (a.leavesGroup_counts j)
  rw [heq]
  refine ⟨⟨((s.expelMarked_judges j).trans (.of_logs hlogs)).trans (a.leavesGroup_judges j), (s.expelMarked_counts j).trans hcounts,
    hcounts.stat .uni 1 (State.raise_stat_set _ _ (by decide)), fun m hm hst => ?_⟩, ?_⟩
  · rw [← State.streamsOf_congr hstreams] at hm
    rw [← State.stream_congr hstreams] at hst
    exact a.leavesGroup_fails j hm hst
  · rw [State.leavesGroup_expelled, hlogs.job, State.expelMarked_job]

/-! ### A job disputed (R437) -/

/-- A job's mark of a disputed version, shown. -/
def State.disputeMarked (s : State) (e : UniEntry) (own : Nat) : State :=
  (s.updJob e.job (fun x => { x with disputed := true, disputeKey := e.key, disputeStep := e.step, disputeOwn := BitVec.ofNat 64 own })).raise .uni 2

section
variable (s : State) (e : UniEntry) (own other : Nat)

theorem State.dispute_eq : ∃ a, (s.disputeMarked e own).Logs a ∧ s.dispute e own other = a.failAll (a.streamsOf e.job) S_DISPUTED unitNone :=
  ⟨_, State.record_logs _ _, rfl⟩

theorem State.dispute_spec : s.EndsJob (s.dispute e own other) e.job S_DISPUTED 2 ∧
    (s.dispute e own other).job e.job = { s.job e.job with disputed := true, disputeKey := e.key, disputeStep := e.step, disputeOwn := BitVec.ofNat 64 own } := by
  obtain ⟨a, hlogs, heq⟩ := s.dispute_eq e own other
  have hstreams : a.streams = s.streams := hlogs.streams.trans (State.raise_streams _ _ _)
  have hmarked : s.Judges (s.disputeMarked e own) := (State.Judges.setJob s e.job _).trans (.of_regs (State.raise_onlyRegs _ _ _))
  have hcounts : (s.disputeMarked e own).Counts [] (s.dispute e own other) := by
    rw [heq]
    exact (State.Counts.of_regs hlogs.regs).trans (a.failAll_counts _ _ _)
  refine ⟨⟨?_, ((s.setJob_counts e.job _).trans (State.raise_counts _ _ _)).trans hcounts, hcounts.stat .uni 2 (State.raise_stat_set _ _ (by decide)), fun m hm hst => ?_⟩, ?_⟩
  · rw [heq]
    exact (hmarked.trans (.of_logs hlogs)).trans (.of_end (a.failAll_endFrame _ _ _))
  · rw [← State.streamsOf_congr hstreams] at hm
    rw [← State.stream_congr hstreams] at hst
    obtain ⟨hfailed, hend, _⟩ := State.failAll_fails S_DISPUTED unitNone hm hst
    rw [heq]
    exact ⟨hfailed, hend⟩
  · rw [heq, (a.failAll_endFrame _ _ _).job, hlogs.job]
    exact State.setJob_same s e.job _

end

/-! ### A neighbour suspected (R435) -/

/-- A suspected neighbour counted and shown. -/
def State.suspectNoted (s : State) : State := (s.countSat .uni 0x060).raise .uni 0

section
variable (s : State)

theorem State.suspectNoted_onlyRegs : s.Regs s.suspectNoted := (s.countSat_onlyRegs _ _ _).trans (State.raise_onlyRegs _ _ _)

theorem State.suspectNoted_counts : s.Counts [0x060] s.suspectNoted :=
  (s.setReg_counts _ _ (by decide) (by decide) (by decide)).trans (State.raise_counts _ _ _)

theorem State.suspectNoted_raises : s.raisedIn s.suspectNoted .uni 0 := (s.countSat_regsKept .uni 0x060 1).raisedIn 0 (by decide) (by decide)

theorem State.suspectNoted_count : s.suspectNoted.reg .uni 0x060 = satAdd (s.reg .uni 0x060) 1 := by
  rw [State.suspectNoted, State.raise_reg_other _ _ _ (by decide), State.countSat_def, State.setReg_same]

theorem State.suspect_eq (e : UniEntry) (rank own other : Nat) :
    s.suspect e rank own other = s.suspectNoted.record { kind := 0x0A, outcome := 2, job := e.job, step := e.step.toNat, detail := [e.key.toNat, rank, own, other] } := rfl

theorem State.suspect_judges (e : UniEntry) (rank own other : Nat) : s.Judges (s.suspect e rank own other) := by
  rw [State.suspect_eq]
  exact (State.Judges.of_regs s.suspectNoted_onlyRegs).trans (.of_logs (State.record_logs _ _))

end

/-! ### The verdict (R435, R437, R438) -/

theorem State.rotate_judges (s : State) (j : Nat) : s.Judges (s.rotate j) := by
  refine (State.Judges.setJob s j _).trans (State.forEach_rel State.Judges.refl State.Judges.trans (fun t u => ?_) _ _)
  unfold State.dueNow
  dsimp only
  split
  · exact .refl t
  · exact .setTune t u _

theorem State.countWrap_judges (s : State) (pg : Page) (o n : Nat) : s.Judges (s.countWrap pg o n) := .of_regs (s.countWrap_onlyRegs pg o n)

theorem State.decideUnison_judges (s : State) (e : UniEntry) (r n : Nat) (own left right : U64) : s.Judges (s.decideUnison e r n own left right) := by
  have hcount := s.countWrap_judges .uni 0x05C 1
  unfold State.decideUnison
  dsimp only
  split
  · exact hcount.trans (State.rotate_judges _ _)
  · split
    · split
      · exact hcount.trans ((State.Judges.setJob _ e.job _).trans (.of_logs (State.record_logs _ _)))
      · exact hcount
    · exact hcount.trans (State.suspect_judges _ e _ _ _)
    · exact hcount.trans (State.suspect_judges _ e _ _ _)
    · exact hcount.trans (State.expel_spec _ _ _ _ _).1.judges
    · exact hcount.trans (State.dispute_spec _ e _ _).1.judges

section
variable {s : State} {e : UniEntry} (hfirst : (s.job e.job).disputed = false) (r : Nat) {n : Nat} {own left right : U64}
include hfirst

theorem State.decideUnison_agree (h : verdictOf n own left right = .agree) : s.decideUnison e r n own left right = s.countWrap .uni 0x05C := by
  simp only [State.decideUnison, hfirst, h, Bool.false_and, Bool.false_eq_true, if_false]

theorem State.decideUnison_suspect (h : verdictOf n own left right = .suspectLeft ∨ verdictOf n own left right = .suspectRight) :
    ∃ rank other, s.decideUnison e r n own left right = (s.countWrap .uni 0x05C).suspect e rank own.toNat other := by
  rcases h with h | h <;> exact ⟨_, _, by simp only [State.decideUnison, hfirst, h, Bool.false_and, Bool.false_eq_true, if_false]; rfl⟩

theorem State.decideUnison_expelled (h : verdictOf n own left right = .expelled) :
    s.decideUnison e r n own left right = (s.countWrap .uni 0x05C).expel e.job e.key e.step.toNat own.toNat := by
  simp only [State.decideUnison, hfirst, h, Bool.false_and, Bool.false_eq_true, if_false]

theorem State.decideUnison_disputed (h : verdictOf n own left right = .disputed) :
    s.decideUnison e r n own left right = (s.countWrap .uni 0x05C).dispute e own.toNat left.toNat := by
  simp only [State.decideUnison, hfirst, h, Bool.false_and, Bool.false_eq_true, if_false]

end

section
variable {n : Nat} (hn : 2 < n) {own left right : U64}
include hn

theorem verdictOf_suspect (h : (own = left ∧ own ≠ right) ∨ (own ≠ left ∧ own = right)) :
    verdictOf n own left right = .suspectLeft ∨ verdictOf n own left right = .suspectRight := by
  have hn2 : n ≠ 2 := by omega
  rcases h with ⟨rfl, hr⟩ | ⟨hl, rfl⟩
  · exact .inr (by simp [verdictOf, hn2, hr])
  · exact .inl (by simp [verdictOf, hn2, hl])

theorem verdictOf_expelled (hl : own ≠ left) (h : left = right) : verdictOf n own left right = .expelled := by
  subst h
  simp [verdictOf, show n ≠ 2 by omega, hl]

theorem verdictOf_disputed (hl : own ≠ left) (hr : own ≠ right) (h : left ≠ right) : verdictOf n own left right = .disputed := by
  simp [verdictOf, show n ≠ 2 by omega, hl, hr, h]

end

/-- A verdict on an entry of an undisputed version is counted once (R434). -/
theorem State.decideUnison_counts {s : State} {e : UniEntry} (hfirst : (s.job e.job).disputed = false) (r n : Nat) (own left right : U64) :
    (s.countWrap .uni 0x05C).Counts [0x060] (s.decideUnison e r n own left right) := by
  cases hv : verdictOf n own left right with
  | agree =>
    rw [State.decideUnison_agree hfirst r hv]
    exact .refl _
  | suspectLeft =>
    obtain ⟨rank, other, h⟩ := State.decideUnison_suspect hfirst r (.inl hv)
    rw [h, State.suspect_eq]
    exact (State.suspectNoted_counts _).trans (.of_regs (State.record_regs _ _))
  | suspectRight =>
    obtain ⟨rank, other, h⟩ := State.decideUnison_suspect hfirst r (.inr hv)
    rw [h, State.suspect_eq]
    exact (State.suspectNoted_counts _).trans (.of_regs (State.record_regs _ _))
  | expelled =>
    rw [State.decideUnison_expelled hfirst r hv]
    exact (State.expel_spec _ _ _ _ _).1.counts.mono (List.nil_subset _)
  | disputed =>
    rw [State.decideUnison_disputed hfirst r hv]
    exact (State.dispute_spec _ _ _ _).1.counts.mono (List.nil_subset _)

/-! ### The table (R434) -/

/-- An entry is for a job, a key and a step. -/
def UniEntry.isFor (j : Nat) (key : U32) (step : U48) (e : UniEntry) : Bool := decide (e.job = j) && decide (e.key = key) && decide (e.step = step)

theorem UniEntry.isFor_iff {j : Nat} {key : U32} {step : U48} {e : UniEntry} : e.isFor j key step = true ↔ e.job = j ∧ e.key = key ∧ e.step = step := by
  simp [UniEntry.isFor, and_assoc]

/-- The table with an entry in the place of the one for its job, key and step. -/
def State.entryPut (s : State) (j : Nat) (key : U32) (step : U48) (e : UniEntry) : State :=
  { s with unison := s.unison.map (fun x => if x.isFor j key step then e else x) }

/-- The table with a new entry. -/
def State.entryAdded (s : State) (e : UniEntry) : State := { s with unison := s.unison ++ [e] }

/-- The table without an entry. -/
def State.entryOut (s : State) (e : UniEntry) : State := { s with unison := s.unison.filter (fun x => !decide (x = e)) }

theorem State.entryOut_handles (s : State) (e : UniEntry) : s.Handles (s.entryOut e) := .of_same rfl rfl rfl

theorem State.entryAdded_handles (s : State) (e : UniEntry) : s.Handles (s.entryAdded e) := .of_same rfl rfl rfl

theorem State.entryPut_handles (s : State) (j : Nat) (key : U32) (step : U48) (e : UniEntry) : s.Handles (s.entryPut j key step e) := .of_same rfl rfl rfl

theorem State.not_mem_entryOut (s : State) (e : UniEntry) : e ∉ (s.entryOut e).unison := by simp [State.entryOut]

/-- An entry put in place and taken out leaves none for its job, key and step. -/
theorem State.entryPut_out {s : State} {j : Nat} {key : U32} {step : U48} {e q : UniEntry} (h : q ∈ ((s.entryPut j key step e).entryOut e).unison) :
    ¬ (q.job = j ∧ q.key = key ∧ q.step = step) := by
  obtain ⟨hput, hne⟩ := List.mem_filter.mp h
  obtain ⟨x, _, rfl⟩ := List.mem_map.mp hput
  rw [← UniEntry.isFor_iff]
  cases hx : x.isFor j key step with
  | true => simp [hx] at hne
  | false => simp [hx]

section
variable {s : State} {j : Nat} {key : U32} {step : U48} {e : UniEntry}

theorem State.tryDecide_waits (h : e.own = none) : s.tryDecide e = s := by
  unfold State.tryDecide
  rw [h]
  split
  next heq _ _ => exact absurd heq (by simp)
  next => rfl

theorem State.tryDecide_decides {g : Nat × Nat × Nat × Nat} {own left right : U64} (hg : s.unisonGroup e.job = some g) (ho : e.own = some own) (hl : e.left = some left)
    (hr : e.right = some right) : s.tryDecide e = (s.entryOut e).decideUnison e g.1 g.2.1 own left right := by
  unfold State.tryDecide
  rw [hg, ho, hl, hr]
  rfl

theorem State.tryDecide_handles (s : State) (e : UniEntry) : s.Handles (s.tryDecide e) := by
  unfold State.tryDecide
  split
  · exact (s.entryOut_handles e).trans (State.decideUnison_judges _ _ _ _ _ _ _).handles
  · exact .refl s

theorem State.storeDigest_known (f : UniEntry → UniEntry) (h : s.unison.find? (UniEntry.isFor j key step) = some e) :
    s.storeDigest j key step f = (s.entryPut j key step (f e)).tryDecide (f e) := by
  have hfind : s.unison.find? (fun e => decide (e.job = j) && decide (e.key = key) && decide (e.step = step)) = some e := h
  unfold State.storeDigest
  dsimp only
  rw [hfind]
  rfl

/-- A digest of a new entry, with room for it. -/
theorem State.storeDigest_new (f : UniEntry → UniEntry) (h : s.unison.find? (UniEntry.isFor j key step) = none) (hroom : s.unison.length < 8192) :
    s.storeDigest j key step f = (s.entryAdded (f ⟨j, key, step, none, none, none⟩)).tryDecide (f ⟨j, key, step, none, none, none⟩) := by
  have hfind : s.unison.find? (fun e => decide (e.job = j) && decide (e.key = key) && decide (e.step = step)) = none := h
  unfold State.storeDigest
  dsimp only
  rw [hfind]
  dsimp only
  split
  · rw [if_neg (by omega)]
    rfl
  · rfl

theorem State.unmatched_onlyRegs (s : State) (e : UniEntry) : ∃ a, s.Regs a ∧ a.Logs (s.unmatched e) :=
  ⟨_, (s.countSat_onlyRegs _ _ _).trans (State.raise_onlyRegs _ _ _), State.record_logs _ _⟩

theorem State.unmatched_handles (s : State) (e : UniEntry) : s.Handles (s.unmatched e) := by
  obtain ⟨a, hregs, hlogs⟩ := s.unmatched_onlyRegs e
  exact ((State.Judges.of_regs hregs).trans (.of_logs hlogs)).handles

/-- The table with room for a new entry: a full one loses its oldest (R434). -/
def State.tableTrimmed (s : State) : State :=
  match s.unison with
  | old :: rest => if 8192 ≤ s.unison.length then ({ s with unison := rest } : State).unmatched old else s
  | [] => s

theorem State.tableTrimmed_handles (s : State) : s.Handles s.tableTrimmed := by
  unfold State.tableTrimmed
  split
  next old rest _ =>
    split
    · exact .trans (b := { s with unison := rest }) (.of_same rfl rfl rfl) (State.unmatched_handles _ _)
    · exact .refl s
  next => exact .refl s

theorem State.storeDigest_handles (s : State) (j : Nat) (key : U32) (step : U48) (f : UniEntry → UniEntry) : s.Handles (s.storeDigest j key step f) := by
  unfold State.storeDigest
  dsimp only
  split
  · exact (s.entryPut_handles j key step _).trans (State.tryDecide_handles _ _)
  · exact (s.tableTrimmed_handles.trans (State.entryAdded_handles _ _)).trans (State.tryDecide_handles _ _)

end

/-! ### DIGEST frames (R433, R434) -/

/-- A neighbour's digest put into an entry, as the right one's, the left one's, or both where they are one. -/
def UniEntry.told (right left src : Nat) (d : U64) (e : UniEntry) : UniEntry :=
  { e with right := if src = right then some d else e.right, left := if src = left then some d else e.left }

/-- A DIGEST that has been taken: dropped and counted, or stored. -/
def State.digestTaken (s : State) (f : Frame) : State :=
  match s.jobOfKey f.jobKey with
  | none => s.countSat .uni 0x070
  | some j =>
    match s.unisonGroup j with
    | none => s.countSat .uni 0x070
    | some (_, n, right, left) =>
      if n ≤ 1 ∨ (f.src ≠ right ∧ f.src ≠ left) then s.countSat .uni 0x070
      else s.storeDigest j (BitVec.ofNat 32 (f.field 0x10 4)) (BitVec.ofNat 48 (f.field 8 6)) (UniEntry.told right left f.src (BitVec.ofNat 64 (f.field 0 8)))

theorem digestFrame_eq {p : Fin 12} {s : State} {x : Nat × Frame} (h : s.frameFor p.val ftDigest = some x) :
    ∃ a, s.Taken a x.1 x.2 ∧ exec (.digestFrame p) s = .next (a.digestTaken x.2) := by
  obtain ⟨a, hon, htaken⟩ := State.onFrame_of_frameFor p.isLt h (fun t _ f => t.digestTaken f)
  refine ⟨a, htaken, ?_⟩
  rw [← hon]
  rfl

section
variable {s : State} {f : Frame} {j : Nat} {g : Nat × Nat × Nat × Nat}

theorem State.digestTaken_handles (s : State) (f : Frame) : s.Handles (s.digestTaken f) := by
  have hdrop : s.Handles (s.countSat .uni 0x070) := .regs (s.countSat_onlyRegs _ _ _)
  unfold State.digestTaken
  split
  · exact hdrop
  · split
    · exact hdrop
    · split
      · exact hdrop
      · exact s.storeDigest_handles _ _ _ _

theorem State.digestTaken_unknown (h : s.jobOfKey f.jobKey = none) : s.digestTaken f = s.countSat .uni 0x070 := by
  unfold State.digestTaken
  rw [h]

variable (hj : s.jobOfKey f.jobKey = some j) (hg : s.unisonGroup j = some g)
include hj hg

theorem State.digestTaken_stranger (h : g.2.1 ≤ 1 ∨ (f.src ≠ g.2.2.1 ∧ f.src ≠ g.2.2.2)) : s.digestTaken f = s.countSat .uni 0x070 := by
  unfold State.digestTaken
  rw [hj]
  dsimp only
  rw [hg]
  exact if_pos h

theorem State.digestTaken_neighbour (hn : 1 < g.2.1) (h : f.src = g.2.2.1) : s.digestTaken f =
    s.storeDigest j (BitVec.ofNat 32 (f.field 0x10 4)) (BitVec.ofNat 48 (f.field 8 6)) (UniEntry.told g.2.2.1 g.2.2.2 f.src (BitVec.ofNat 64 (f.field 0 8))) := by
  unfold State.digestTaken
  rw [hj]
  dsimp only
  rw [hg]
  refine if_neg ?_
  rintro (hle | ⟨hne, _⟩)
  · exact absurd hle (Nat.not_le.mpr hn)
  · exact hne h

end

section
variable {s a : State} {q : Nat} {f : Frame} (h : s.Taken a q f)
include h

theorem State.Taken.jobOfKey (k : U32) : a.jobOfKey k = s.jobOfKey k := by
  obtain ⟨_, _, _, rfl⟩ := h.only
  rfl

theorem State.Taken.unisonGroup (j : Nat) : a.unisonGroup j = s.unisonGroup j := by
  obtain ⟨_, _, _, rfl⟩ := h.only
  rfl

end

/-- A dropped frame is counted, and nothing else follows. -/
theorem State.Taken.dropped {s a : State} {q : Nat} {f : Frame} (h : s.Taken a q f) (hcast : f.bcast = false) (pg : Page) (o : Nat) :
    let t := a.countSat pg o
    t = { s with ports := t.ports, looped := t.looped, regs := t.regs } ∧ t.reg pg o = satAdd (s.reg pg o) 1 := by
  rw [h.unicast_eq hcast]
  exact ⟨rfl, State.setReg_same _ _ _ _⟩

theorem UniEntry.told_right {right left src : Nat} (h : src = right) (hne : right ≠ left) (d : U64) (e : UniEntry) : e.told right left src d = { e with right := some d } := by
  subst h
  simp [UniEntry.told, hne]

section
variable {s : State} {f : Frame} {j : Nat} {g : Nat × Nat × Nat × Nat} (hj : s.jobOfKey f.jobKey = some j) (hg : s.unisonGroup j = some g)
  (hsrc : f.src = g.2.2.1) (hne : g.2.2.1 ≠ g.2.2.2)
include hj hg hsrc hne

theorem State.digestTaken_new (hn : 1 < g.2.1) (hnone : s.unison.find? (UniEntry.isFor j (BitVec.ofNat 32 (f.field 0x10 4)) (BitVec.ofNat 48 (f.field 8 6))) = none)
    (hroom : s.unison.length < 8192) : s.digestTaken f =
      s.entryAdded ⟨j, BitVec.ofNat 32 (f.field 0x10 4), BitVec.ofNat 48 (f.field 8 6), none, none, some (BitVec.ofNat 64 (f.field 0 8))⟩ := by
  rw [State.digestTaken_neighbour hj hg hn hsrc, State.storeDigest_new _ hnone hroom, UniEntry.told_right hsrc hne]
  exact State.tryDecide_waits rfl

/-- The right neighbour's digest decides an entry that holds the other two. -/
theorem State.digestTaken_decides (hn : 1 < g.2.1) {e : UniEntry} {own left : U64}
    (he : s.unison.find? (UniEntry.isFor j (BitVec.ofNat 32 (f.field 0x10 4)) (BitVec.ofNat 48 (f.field 8 6))) = some e) (ho : e.own = some own) (hl : e.left = some left) :
    ∃ unison e', (e'.job = j ∧ e'.key = BitVec.ofNat 32 (f.field 0x10 4) ∧ e'.step = BitVec.ofNat 48 (f.field 8 6)) ∧
      (∀ q, q ∈ unison → ¬ (q.job = j ∧ q.key = BitVec.ofNat 32 (f.field 0x10 4) ∧ q.step = BitVec.ofNat 48 (f.field 8 6))) ∧
      s.digestTaken f = State.decideUnison { s with unison := unison } e' g.1 g.2.1 own left (BitVec.ofNat 64 (f.field 0 8)) := by
  have hfor := UniEntry.isFor_iff.mp (List.find?_some he)
  obtain ⟨e', he'⟩ : ∃ e', e' = { e with right := some (BitVec.ofNat 64 (f.field 0 8)) } := ⟨_, rfl⟩
  obtain ⟨s', hs'⟩ : ∃ s', s' = s.entryPut j (BitVec.ofNat 32 (f.field 0x10 4)) (BitVec.ofNat 48 (f.field 8 6)) e' := ⟨_, rfl⟩
  have hfor' : e'.job = j ∧ e'.key = BitVec.ofNat 32 (f.field 0x10 4) ∧ e'.step = BitVec.ofNat 48 (f.field 8 6) := he' ▸ hfor
  have hput : s'.entryOut e' = { s with unison := (s'.entryOut e').unison } := hs' ▸ rfl
  refine ⟨(s'.entryOut e').unison, e', hfor', fun q hq => State.entryPut_out (hs' ▸ hq), ?_⟩
  rw [State.digestTaken_neighbour hj hg hn hsrc, State.storeDigest_known _ he, UniEntry.told_right hsrc hne, ← he', ← hs', ← hput]
  exact State.tryDecide_decides (by rw [← hg, hfor'.1, hs']; rfl) (he' ▸ ho) (he' ▸ hl) (he' ▸ rfl)

end

theorem State.recordedIn.of_head {s a t : State} {kind : Nat} {code unit : U16} (h : a.recordedIn t kind code unit) (hhead : a.logHead = s.logHead) :
    s.recordedIn t kind code unit := by
  rw [State.recordedIn, ← hhead]
  exact h

theorem State.Regs.logHead {s t : State} : s.Regs t → t.logHead = s.logHead := by
  rintro ⟨_, rfl⟩
  rfl

theorem State.Regs.streams {s t : State} : s.Regs t → t.streams = s.streams := by
  rintro ⟨_, rfl⟩
  rfl

/-! ### The effects of a verdict on an undisputed version (R435 to R437) -/

section
variable {s : State} {e : UniEntry} (hfirst : (s.job e.job).disputed = false) (r : Nat) {n : Nat} (hn : 2 < n) (own left right : U64)
include hfirst

theorem State.decideUnison_count : (s.decideUnison e r n own left right).reg .uni 0x05C = s.reg .uni 0x05C + 1 := by
  rw [(State.decideUnison_counts hfirst r n own left right).reg .uni 0x05C (by decide) (by decide) (by decide)]
  exact State.setReg_same _ _ _ _

include hn

theorem State.decideUnison_suspects (h : (own = left ∧ own ≠ right) ∨ (own ≠ left ∧ own = right)) :
    let t := s.decideUnison e r n own left right
    s.raisedIn t .uni 0 ∧ t.reg .uni 0x060 = satAdd (s.reg .uni 0x060) 1 ∧ s.recordedIn t 0x0A 0 unitModule ∧ t.streams = s.streams := by
  obtain ⟨rank, other, heq⟩ := State.decideUnison_suspect hfirst r (verdictOf_suspect hn h)
  obtain ⟨b, hb⟩ : ∃ b, b = s.countWrap .uni 0x05C := ⟨_, rfl⟩
  have hother {o : Nat} (ho : o ≠ 0x05C) : b.reg .uni o = s.reg .uni o := hb ▸ State.setReg_other _ _ _ ho
  have honly : s.Regs b.suspectNoted := (hb ▸ s.countWrap_onlyRegs _ _ _ : s.Regs b).trans b.suspectNoted_onlyRegs
  obtain ⟨hstat, hmask⟩ := b.suspectNoted_raises
  have hcount := b.suspectNoted_count
  have hregs (e : Event) (o : Nat) := State.reg_congr (b.suspectNoted.record_regs e) .uni o
  rw [hother (by decide)] at hstat hmask hcount
  rw [heq, ← hb, State.suspect_eq]
  exact ⟨⟨(hregs _ _).trans hstat, (hregs _ _).trans hmask⟩, (hregs _ _).trans hcount, (State.record_recordedIn _ _).of_head honly.logHead,
    (State.record_streams _ _).trans honly.streams⟩

theorem State.decideUnison_expels (hl : own ≠ left) (h : left = right) :
    let t := s.decideUnison e r n own left right
    (t.job e.job).expelled = true ∧ (t.reg .uni offErrStat).getLsbD 1 = true ∧
      ∀ m, m ∈ s.streamsOf e.job → (s.stream m).fails → (t.stream m).st = .failed ∧ (t.stream m).endStatus = S_EXPELLED := by
  obtain ⟨⟨_, _, hshown, hfails⟩, hjob⟩ := (s.countWrap .uni 0x05C).expel_spec e.job e.key e.step.toNat own.toNat
  rw [State.decideUnison_expelled hfirst r (verdictOf_expelled hn hl h)]
  exact ⟨hjob, hshown, hfails⟩

theorem State.decideUnison_disputes (hl : own ≠ left) (hr : own ≠ right) (h : left ≠ right) :
    let t := s.decideUnison e r n own left right
    ((t.job e.job).disputed = true ∧ (t.job e.job).disputeKey = e.key ∧ (t.job e.job).disputeStep = e.step) ∧ (t.reg .uni offErrStat).getLsbD 2 = true ∧
      ∀ m, m ∈ s.streamsOf e.job → (s.stream m).fails → (t.stream m).st = .failed ∧ (t.stream m).endStatus = S_DISPUTED := by
  obtain ⟨⟨_, _, hshown, hfails⟩, hjob⟩ := (s.countWrap .uni 0x05C).dispute_spec e own.toNat left.toNat
  rw [State.decideUnison_disputed hfirst r (verdictOf_disputed hn hl hr h)]
  refine ⟨?_, hshown, hfails⟩
  rw [hjob]
  exact ⟨rfl, rfl, rfl⟩

end

/-! ### An entry that times out (R434) -/

theorem unisonEntryTimeout_eq {j : Fin 256} {key : U32} {step : U48} {s : State} {e : UniEntry} (h : s.unison.find? (UniEntry.isFor j.val key step) = some e) :
    exec (.unisonEntryTimeout j key step) s = .next ((s.entryOut e).unmatched e) := by
  have hfind : s.unison.find? (fun e => decide (e.job = j.val) && decide (e.key = key) && decide (e.step = step)) = some e := h
  show execUnisonEntryTimeout j key step s = _
  unfold execUnisonEntryTimeout
  rw [hfind]
  rfl

/-- An entry that has left undecided is counted, shown and recorded. -/
theorem State.unmatched_spec (s : State) (e : UniEntry) :
    let t := s.unmatched e
    t.reg .uni 0x064 = satAdd (s.reg .uni 0x064) 1 ∧ s.raisedIn t .uni 4 ∧ s.recordedIn t 0x0F 0 unitModule ∧
      t = { s with regs := t.regs, log := t.log, logHead := t.logHead, free := t.free } := by
  obtain ⟨b, hb⟩ : ∃ b, b = (s.countSat .uni 0x064).raise .uni 4 := ⟨_, rfl⟩
  have honly : s.Regs b := hb ▸ (s.countSat_onlyRegs _ _ _).trans (State.raise_onlyRegs _ _ _)
  obtain ⟨hstat, hmask⟩ := (s.countSat_regsKept .uni 0x064 1).raisedIn (pg := .uni) 4 (by decide) (by decide)
  have hcount : b.reg .uni 0x064 = satAdd (s.reg .uni 0x064) 1 := by
    rw [hb, State.raise_reg_other _ _ _ (by decide), State.countSat_def, State.setReg_same]
  rw [← hb] at hstat hmask
  have ht : s.unmatched e = b.record { kind := 0x0F, outcome := 2, job := e.job, step := e.step.toNat, detail := [e.key.toNat] } := by rw [hb]; rfl
  have hregs (e : Event) (o : Nat) := State.reg_congr (b.record_regs e) .uni o
  rw [ht]
  refine ⟨(hregs _ _).trans hcount, ⟨(hregs _ _).trans hstat, (hregs _ _).trans hmask⟩, (State.record_recordedIn _ _).of_head honly.logHead, ?_⟩
  obtain ⟨regs, rfl⟩ := honly
  rfl

/-- Settles O50: what is taken is dropped, kept in a new entry, or decides an entry by one of the verdicts of R435. -/
theorem unisonComparesDigests : Obligations.UnisonComparesDigests := by
  unfold Obligations.UnisonComparesDigests
  refine ⟨fun p s x hx hcast => ?_, fun j key step s e he => ?_, fun s hreach => ?_⟩
  · obtain ⟨a, htaken, hexec⟩ := digestFrame_eq hx
    have hhandles := a.digestTaken_handles x.2
    refine ⟨_, hexec, hhandles.waits.took htaken.took, hhandles.mem.trans htaken.mem, fun hnone => ?_, fun j hj g hg => ?_⟩
    · rw [State.digestTaken_unknown (by rw [htaken.jobOfKey, hnone])]
      exact htaken.dropped hcast _ _
    · rw [← htaken.jobOfKey] at hj
      rw [← htaken.unisonGroup] at hg
      intro n right left here
      refine ⟨fun hother => ?_, fun hn hsrc hne hnone hroom => ?_, fun hn hsrc hne e he hown hleft hfirst => ?_⟩
      · rw [State.digestTaken_stranger hj hg hother]
        exact htaken.dropped hcast _ _
      · obtain ⟨ports, looped, rfl⟩ : ∃ ports looped, a = { s with ports := ports, looped := looped } := ⟨_, _, htaken.unicast_eq hcast⟩
        rw [State.digestTaken_new hj hg hsrc hne hn hnone hroom]
        exact ⟨rfl, rfl⟩
      · intro o l
        obtain ⟨ports, looped, rfl⟩ : ∃ ports looped, a = { s with ports := ports, looped := looped } := ⟨_, _, htaken.unicast_eq hcast⟩
        obtain ⟨own, ho⟩ := Option.isSome_iff_exists.mp hown
        obtain ⟨other, hl⟩ := Option.isSome_iff_exists.mp hleft
        obtain ⟨rfl, rfl⟩ : o = own ∧ l = other := ⟨by simp [o, ho], by simp [l, hl]⟩
        obtain ⟨unison, e', ⟨rfl, hkey, hstep⟩, hout, heq⟩ := State.digestTaken_decides hj hg hsrc hne (by omega) he ho hl
        have hundisputed : (State.job { s with ports := ports, looped := looped, unison := unison } e'.job).disputed = false := hfirst
        rw [heq]
        refine ⟨fun q hq => ?_, State.decideUnison_count hundisputed _ _ _ _, fun hagree => ?_, fun hdiffers => State.decideUnison_suspects hundisputed _ hn _ _ _ hdiffers,
          fun hol hld => State.decideUnison_expels hundisputed _ hn _ _ _ hol hld, fun hol hod hld => ?_⟩
        · rw [(State.decideUnison_judges _ _ _ _ _ _ _).unison] at hq
          exact hout q hq
        · rw [State.decideUnison_agree hundisputed _ (if_pos hagree)]
          exact ⟨rfl, State.setReg_other _ _ _ (by decide)⟩
        · obtain ⟨⟨hmark, hk, hs⟩, hshown, hfails⟩ := State.decideUnison_disputes hundisputed _ hn _ _ _ hol hod hld
          exact ⟨hmark, hk.trans hkey, hs.trans hstep, hshown, hfails⟩
  · obtain ⟨hcount, hraised, hrecorded, honly⟩ := (s.entryOut e).unmatched_spec e
    have hunison : ((s.entryOut e).unmatched e).unison = (s.entryOut e).unison := by rw [honly]
    refine ⟨_, unisonEntryTimeout_eq he, by rw [hunison]; exact s.not_mem_entryOut e, hcount, hraised, hrecorded, ?_⟩
    rw [honly]
    rfl
  · exact ⟨_, congrArg Host.Outcome.next (if_pos hreach), State.setJob_same _ _ _, fun k hk => (State.setJob_job _ _ _ _).trans (if_neg (by simpa using hk)), rfl⟩

end Sys2Proof.Machine
end

section
/-! Proofs: a stream ended by a retract, and what the end of one stream leaves of the others and of the jobs' lists (R41, R108, R309, R430). -/

namespace Sys2Proof.Machine

/-! ### Ends of streams, one after the other (R41, R108) -/

/-- A stream has failed with a code, nothing of it is queued and it waits for no slots. -/
def State.sunk (s : State) (m : Nat) (code : U16) : Prop :=
  (s.stream m).st = .failed ∧ (s.stream m).endStatus = code ∧ (s.stream m).pend = [] ∧ ∀ w, w ∈ s.waiting → w.stream ≠ m

/-- What failing streams with a code does to each stream and each job's list of retracted steps. -/
structure State.Ends (code : U16) (s t : State) : Prop where
  job : ∀ m, (t.stream m).job = (s.stream m).job
  lists : ∀ j, (t.job j).retracted = (s.job j).retracted
  alive : ∀ m, (s.stream m).fails → (t.stream m).fails ∨ t.sunk m code
  sunk : ∀ m, s.sunk m code → t.sunk m code

theorem State.sunk.congr {s t : State} {m : Nat} {code : U16} (h : s.sunk m code) (hst : (t.stream m).st = (s.stream m).st)
    (hend : (t.stream m).endStatus = (s.stream m).endStatus) (hpend : (t.stream m).pend = (s.stream m).pend)
    (hwait : ∀ w, w ∈ t.waiting → w.stream = m → w ∈ s.waiting) : t.sunk m code := by
  obtain ⟨hfailed, hcode, hnone, hnot⟩ := h
  exact ⟨hst.trans hfailed, hend.trans hcode, hpend.trans hnone, fun w hw hm => hnot w (hwait w hw hm) hm⟩

namespace State.Ends

variable {code : U16}

theorem trans {a b c : State} (h : a.Ends code b) (k : b.Ends code c) : a.Ends code c where
  job m := (k.job m).trans (h.job m)
  lists j := (k.lists j).trans (h.lists j)
  alive m hm := (h.alive m hm).elim (k.alive m) (fun hs => .inr (k.sunk m hs))
  sunk m hm := k.sunk m (h.sunk m hm)

theorem of_streams {s t : State} (hstreams : t.streams = s.streams) (hlists : ∀ j, (t.job j).retracted = (s.job j).retracted)
    (hwait : ∀ w, w ∈ t.waiting → w ∈ s.waiting) : s.Ends code t := by
  have hsame (m : Nat) : t.stream m = s.stream m := State.stream_congr hstreams m
  refine ⟨fun m => by rw [hsame], hlists, fun m hm => .inl (by rwa [hsame]), fun m hm => ?_⟩
  exact hm.congr (by rw [hsame]) (by rw [hsame]) (by rw [hsame]) (fun w hw _ => hwait w hw)

theorem refl (s : State) : s.Ends code s := .of_streams rfl (fun _ => rfl) (fun _ hw => hw)

theorem of_regs {s t : State} : s.Regs t → s.Ends code t := by
  rintro ⟨_, rfl⟩
  exact .of_streams rfl (fun _ => rfl) (fun _ hw => hw)

theorem of_engines {s t : State} : s.Engines t → s.Ends code t := by
  rintro ⟨_, rfl⟩
  exact .of_streams rfl (fun _ => rfl) (fun _ hw => hw)

/-- Slots that a stream holds say nothing about its state. -/
theorem setBound (s : State) (n : Nat) (b : Option Bound) : s.Ends code (s.setStream n { s.stream n with bound := b }) := by
  have hstream (m : Nat) : ∃ b', (s.setStream n { s.stream n with bound := b }).stream m = { s.stream m with bound := b' } := by
    by_cases h : m = n
    · subst h
      exact ⟨b, State.setStream_same s m _⟩
    · exact ⟨(s.stream m).bound, by rw [State.setStream_stream, if_neg h]⟩
  refine ⟨fun m => ?_, fun _ => rfl, fun m hm => .inl ?_, fun m hm => ?_⟩
  all_goals obtain ⟨b', hb⟩ := hstream m
  · rw [hb]
  · rw [hb]
    exact hm
  · exact hm.congr (by rw [hb]) (by rw [hb]) (by rw [hb]) (fun w hw _ => hw)

theorem clearFiring (s : State) (u j : Nat) : s.Ends code (s.clearFiring u j) := by
  refine .of_streams rfl (fun k => ?_) (fun _ hw => hw)
  rw [State.clearFiring, State.updJob, State.setJob_job]
  split
  next h => rw [h]
  next => rfl

theorem boundary (s : State) (u : Nat) : s.Ends code (s.boundary u) := by
  have hfirst : s.Ends code (match (s.engine u).cur with
      | some r => (s.updEngine u (fun e => { e with cur := none })).clearFiring u (s.stream r.stream).job
      | none => s) := by
    split
    · exact (of_engines (s.updEngine_engines u _)).trans (clearFiring _ _ _)
    · exact refl s
  unfold State.boundary
  dsimp only
  split
  · exact hfirst.trans (of_engines (State.releaseQuad_engines _ _))
  · exact hfirst

theorem faulted (s : State) (u : Nat) (r : Running) : s.Ends code (s.faulted u r) := (of_regs (s.postFlags_onlyRegs _ _ _ _)).trans (boundary _ u)

theorem released (s : State) (u n : Nat) : s.Ends code (s.released u n) := (of_engines (s.updEngine_engines u _)).trans (clearFiring _ _ _)

theorem abandon (s : State) (n : Nat) : s.Ends code (s.abandon n) := .of_streams rfl (fun _ => rfl) (fun _ hw => (List.mem_filter.mp hw).1)

end State.Ends

theorem State.grantLoop_streamJob (m : Nat) (l : List WaitingBind) : ∀ (kept : List WaitingBind) (s : State),
    ((s.grantLoop l kept).stream m).job = (s.stream m).job := by
  induction l with
  | nil => exact fun _ _ => rfl
  | cons w l ih =>
    intro kept s
    unfold State.grantLoop
    split
    · rw [ih]
      split
      · rw [State.enterRunning_stream]
        split
        next h => rw [h]
        next => rfl
      · rfl
    · exact ih _ s

namespace State.Ends

variable {code : U16} (s : State) (n : Nat)

/-- Slots handed on start streams that wait, none that rests. -/
theorem grantSlots : s.Ends code s.grantSlots where
  job m := State.grantLoop_streamJob m _ _ s
  lists j := by
    obtain ⟨_, _, _, _, _, h⟩ := s.grantSlots_grants
    rw [h]
    rfl
  alive m hm := .inl ((State.grantLoop_runs m s.waiting [] s).elim (fun h => (congrArg Stream.fails h).mpr hm) (fun h => .inr (.inl h)))
  sunk m hm := by
    have hsame : s.grantSlots.stream m = s.stream m := State.grantSlots_stream s hm.2.2.2
    refine hm.congr (by rw [hsame]) (by rw [hsame]) (by rw [hsame]) (fun w hw _ => ?_)
    exact (State.grantLoop_waiting _ _ _ w hw).elim id (fun h => absurd h (by simp))

/-- A next submission starts behind no stream that is active or has nothing queued. -/
theorem startNext : s.Ends code (s.startNext n) := by
  rcases s.startNext_cases n with h | ⟨sub, rest, hrest, hpend, h⟩
  · rw [h]
    exact refl s
  · have hidle (m : Nat) (hm : m = n) : ¬ (s.stream m).fails := by
      subst hm
      intro hf
      rcases hf with hst | hst | hst <;> simp [Stream.ended, hst] at hrest
    refine ⟨fun m => ?_, fun j => ?_, fun m hm => .inl ?_, fun m hm => ?_⟩
    · rw [h, State.begin_stream]
      split
      next hm =>
        rw [hm]
        rfl
      next => rfl
    · rw [h]
      rfl
    · rw [h, State.begin_stream, if_neg (fun hmn => hidle m hmn hm)]
      exact hm
    · have hne : m ≠ n := by
        rintro rfl
        exact absurd (hm.2.2.1.symm.trans hpend) (by simp)
      have hsame := s.startNext_streamsKept n hne
      exact hm.congr (by rw [hsame]) (by rw [hsame]) (by rw [hsame]) (fun w hw _ => by rwa [State.startNext_waiting] at hw)

theorem letGo : s.Ends code (s.letGo n) := ((abandon s n).trans (grantSlots _)).trans (startNext _ n)

theorem freeAfterFiring (u : Nat) : s.Ends code (s.freeAfterFiring u n) := by
  rcases s.freeAfterFiring_cases u n with ⟨b, h⟩ | h
  · rw [h]
    exact ((released s u n).trans (setBound _ n b)).trans (letGo _ n)
  · rw [h]
    exact ((released s u n).trans (abandon _ n)).trans (startNext _ n)

end State.Ends

section
variable {s : State} {n : Nat} (code unit : U16)

theorem State.failStream_sunk (h : (s.stream n).fails) : (s.failStream n code unit).sunk n code :=
  ⟨(State.failStream_fails code unit h).1.1, (State.failStream_fails code unit h).1.2.1, (State.failStream_fails code unit h).2, (State.failStream_down h).2⟩

theorem State.ended_job (s : State) (n m : Nat) (st : SState) (ticks : U32) : ((s.ended n st code unit ticks).stream m).job = (s.stream m).job := by
  by_cases h : m = n
  · subst h
    have hrec : ((s.updRec m (fun x => x.endRec st code unit ticks)).draw.stream m).job = (s.stream m).job := by
      show ((s.updRec m (fun x => x.endRec st code unit ticks)).stream m).job = _
      rw [State.updRec_stream, if_pos rfl]
      rfl
    rw [State.ended]
    obtain ⟨b, hb⟩ := State.revoke_stream (if st = .failed then (s.updRec m (fun x => x.endRec st code unit ticks)).draw.raise (stmPage (s.stream m).home) 1
      else (s.updRec m (fun x => x.endRec st code unit ticks)).draw) m
    rw [hb]
    split
    · exact (congrArg Stream.job ((State.raise_onlyRegs _ _ _).stream m)).trans hrec
    · exact hrec
  · rw [s.ended_other st code unit ticks h]

/-- The end of a submission leaves the other streams as they are, or has them run; only its own stream may sink. -/
theorem State.Ends.endSubmission {s : State} {n : Nat} {st : SState} {sunkCode : U16} (halive : (s.stream n).fails → (s.endSubmission n st code unit).sunk n sunkCode)
    (hsunk : (s.stream n).st ≠ .failed) : s.Ends sunkCode (s.endSubmission n st code unit) := by
  obtain ⟨ticks, heq⟩ := s.endSubmission_eq n st code unit
  have hletGo : s.endSubmission n st code unit = (s.ended n st code unit ticks).letGo n := heq
  refine ⟨fun m => ?_, fun j => ?_, fun m hm => ?_, fun m hm => ?_⟩
  · rw [hletGo]
    exact ((State.Ends.letGo (code := code) _ n).job m).trans (State.ended_job code unit s n m st ticks)
  · exact congrArg Job.retracted ((s.endSubmission_endFrame n st code unit).job j)
  · by_cases h : m = n
    · rw [h] at hm ⊢
      exact .inr (halive hm)
    · exact .inl ((s.endSubmission_other st code unit h).elim (fun hsame => (congrArg Stream.fails hsame).mpr hm) (fun hrun => .inr (.inl hrun)))
  · have hne : m ≠ n := by
      rintro rfl
      exact hsunk hm.1
    have hsame := s.endSubmission_quiet st code unit hne hm.2.2.2
    exact hm.congr (by rw [hsame]) (by rw [hsame]) (by rw [hsame]) (fun w hw _ => (s.endSubmission_waiting st code unit w hw).1)

theorem Stream.fails.not_failed {x : Stream} (h : x.fails) : x.st ≠ .failed := by
  rcases h with h | h | h <;> simp [h]

theorem State.Ends.failStream (s : State) (n : Nat) : s.Ends code (s.failStream n code unit) := by
  by_cases hn : (s.stream n).fails
  · have hsunk := State.failStream_sunk code unit hn
    rw [State.failStream_eq hn] at hsunk ⊢
    exact .endSubmission code unit (fun _ => hsunk) hn.not_failed
  · rw [State.failStream_at_rest hn]
    exact .refl s

/-- Of streams that fail one after the other, each that is active at first has failed at last. -/
theorem State.forEach_sinks {β : Type} {f : State → β → State} {key : β → Nat}
    (hf : ∀ (t : State) (b : β), t.Ends code (f t b) ∧ ((t.stream (key b)).fails → (f t b).sunk (key b) code)) {l : List β} {b : β} (hb : b ∈ l) :
    ∀ {s : State}, (s.stream (key b)).fails → (s.forEach l f).sunk (key b) code := by
  induction l with
  | nil => cases hb
  | cons c l ih =>
    intro s hs
    obtain ⟨hends, htarget⟩ := hf s c
    have hrest : (f s c).Ends code ((f s c).forEach l f) := State.forEach_rel State.Ends.refl State.Ends.trans (fun t b => (hf t b).1) l (f s c)
    rcases List.mem_cons.mp hb with rfl | hb
    · exact hrest.sunk _ (htarget hs)
    · rcases hends.alive _ hs with halive | hsunk
      · exact ih hb halive
      · exact hrest.sunk _ hsunk

/-! ### An UPDATE ended by a retract (R309, R430) -/

theorem State.runs_cur {u : Nat} (h : s.runs u n = true) : ∃ r, (s.engine u).cur = some r ∧ r.stream = n := by
  unfold State.runs at h
  split at h
  next r hr => exact ⟨r, hr, of_decide_eq_true h⟩
  next => exact absurd h (by simp)

/-- The firing of a stream ends with it. -/
theorem State.failFiring_ends {u : Nat} (h : s.runs u n = true) :
    s.Ends code (s.failFiring u code) ∧ ((s.stream n).fails → (s.failFiring u code).sunk n code) := by
  obtain ⟨r, hcur, rfl⟩ := State.runs_cur h
  rw [State.failFiring_eq code hcur]
  have hbefore : s.Ends code ((s.noteUnitFail u code).faulted u r) := (State.Ends.of_regs (s.noteUnitFail_onlyRegs u code)).trans (.faulted _ u r)
  have hstream : ((s.noteUnitFail u code).faulted u r).stream r.stream = s.stream r.stream :=
    (State.faulted_stream _ u r r.stream).trans ((s.noteUnitFail_onlyRegs u code).stream _)
  refine ⟨(hbefore.trans (.failStream code _ _ _)).trans (.freeAfterFiring _ _ u), fun hf => (State.Ends.freeAfterFiring _ _ u).sunk _ ?_⟩
  exact State.failStream_sunk code _ (by rwa [hstream])

theorem State.retractUpd_ends (s : State) (u : Upd) :
    s.Ends S_RETRACTED (s.retractUpd u) ∧ ((s.stream u.stream).fails → (s.retractUpd u).sunk u.stream S_RETRACTED) := by
  unfold State.retractUpd
  split
  next hruns => exact State.failFiring_ends S_RETRACTED hruns
  next => exact ⟨.failStream _ _ _ _, fun hf => State.failStream_sunk _ _ hf⟩

theorem State.retractUpd_frame (s : State) (u : Upd) : s.FireFrame (s.retractUpd u) ∧ s.Counts endOffs (s.retractUpd u) := by
  unfold State.retractUpd
  split
  next hruns =>
    obtain ⟨r, hcur, -⟩ := State.runs_cur hruns
    exact ⟨s.failFiring_fire _ _, State.failFiring_counts S_RETRACTED hcur⟩
  next => exact ⟨(s.failStream_endFrame _ _ _).fireFrame, (s.failStream_counts _ _ _).mono (by simp)⟩

end

theorem State.retractUpds_ends (l : List Upd) (s : State) : s.Ends S_RETRACTED (s.forEach l State.retractUpd) :=
  State.forEach_rel State.Ends.refl State.Ends.trans (fun t u => (t.retractUpd_ends u).1) l s

theorem State.retractUpds_frame (l : List Upd) (s : State) : s.FireFrame (s.forEach l State.retractUpd) ∧ s.Counts endOffs (s.forEach l State.retractUpd) :=
  ⟨State.forEach_rel State.FireFrame.refl State.FireFrame.trans (fun t u => (t.retractUpd_frame u).1) l s,
    State.forEach_rel State.Counts.refl State.Counts.trans (fun t u => (t.retractUpd_frame u).2) l s⟩

/-- Every active stream among them has failed. -/
theorem State.retractUpds_fail {l : List Upd} {u : Upd} (hu : u ∈ l) {s : State} (hf : (s.stream u.stream).fails) :
    (s.forEach l State.retractUpd).sunk u.stream S_RETRACTED := State.forEach_sinks (key := Upd.stream) S_RETRACTED State.retractUpd_ends hu hf

end Sys2Proof.Machine
end

section
/-! Proofs: clean tokens, the horizon they move, and the list of retracted steps (R422 to R427, R445, R448). -/

namespace Sys2Proof.Machine

/-! ### The token that may go (R423) -/

theorem Job.mem_ready {x : Job} {u : Nat} : u ∈ x.ready ↔ ∃ c, c ∈ x.contribs ∧ c.step = u ∧ c.firings = [] ∧ c.checks = [] := by
  simp only [Job.ready, List.mem_map, List.mem_filter, Bool.and_eq_true, List.isEmpty_iff]
  exact ⟨fun ⟨c, ⟨hc, hf, hk⟩, hs⟩ => ⟨c, hc, hs, hf, hk⟩, fun ⟨c, hc, hs, hf, hk⟩ => ⟨c, ⟨hc, hf, hk⟩, hs⟩⟩

theorem consecutive_of_not_mem {l : List Nat} {h : Nat} (hh : h ∉ l) (fuel : Nat) : consecutive l (fuel + 1) h = none := by
  rw [consecutive, if_neg (by simpa using hh)]

theorem maxOpt_of_lt {a : Option Nat} {c : Nat} (h : a.all (fun u => decide (u < c)) = true) : maxOpt a (some c) = some c := by
  cases a with
  | none => rfl
  | some u =>
    have hlt : u < c := by simpa using h
    rw [maxOpt, Nat.max_eq_right (Nat.le_of_lt hlt)]

theorem le_of_maxOpt {a : Option Nat} {c : Nat} : ∃ h, maxOpt a (some c) = some h ∧ c ≤ h := by
  cases a with
  | none => exact ⟨c, rfl, Nat.le_refl c⟩
  | some u => exact ⟨max u c, rfl, Nat.le_max_right u c⟩

theorem maxOpt_cases {a b : Option Nat} {u : Nat} (h : maxOpt a b = some u) : a = some u ∨ b = some u := by
  cases a with
  | none => exact .inr h
  | some x =>
    cases b with
    | none => exact .inl h
    | some y =>
      rcases Nat.le_total x y with hle | hle
      · exact .inr (by rw [← h, maxOpt, Nat.max_eq_right hle])
      · exact .inl (by rw [← h, maxOpt, Nat.max_eq_left hle])

/-- With no retract in force the highest step that waits for nothing may go. -/
theorem Job.allowedNow_free {x : Job} {c : Nat} (hheld : x.held = none) (hc : c ∈ x.ready) (hmax : ∀ d, d ∈ x.ready → d ≤ c)
    (hsent : x.cleanSent.all (fun u => decide (u < c)) = true) : x.allowedNow = some c := by
  have htop : x.ready.max? = some c := List.max?_eq_some_iff.mpr ⟨hc, hmax⟩
  rw [Job.allowedNow, hheld]
  dsimp only
  rw [htop, maxOpt_of_lt hsent]

/-- A retracted step without a contribution end since holds back every token for it and beyond. -/
theorem Job.allowedNow_held {x : Job} {h u : Nat} (hheld : x.held = some h) (hready : h ∉ x.ready) (hu : x.allowedNow = some u) : u < h ∨ x.cleanSent = some u := by
  rw [Job.allowedNow, hheld] at hu
  dsimp only at hu
  rw [consecutive_of_not_mem hready] at hu
  rcases maxOpt_cases hu with hu | hu
  · rcases maxOpt_cases hu with hu | hu
    · exact .inr hu
    · have hmem := (List.max?_eq_some_iff.mp hu).1
      exact .inl (by simpa using (List.mem_filter.mp hmem).2)
  · exact absurd hu (by simp)

/-! ### The token sent (R424) -/

/-- The context of a job once its token for a step has gone. -/
def Job.tokenSent (x : Job) (u : Nat) : Job :=
  { x with allowed := some u, cleanSent := some u, held := x.held.map (fun h => if h ≤ u then u + 1 else h)
           contribs := x.contribs.filter (fun (c : ContribEnd) => decide (u < c.step)) }

/-- What CLEAN_SEND does where a token goes. -/
def State.tokenGoes (s : State) (j u : Nat) : State := ((s.setJob j ((s.job j).tokenSent u)).sendClean j).checkHorizon j

section
variable {s : State} {j : Fin 256} {u : Nat}

theorem cleanSend_none (hu : (s.job j.val).allowedNow = none) : exec (.cleanSend j) s = .next s := by
  refine (show exec (.cleanSend j) s = execCleanSend j s from rfl).trans ?_
  rw [execCleanSend]
  dsimp only
  rw [hu]

theorem cleanSend_some (hu : (s.job j.val).allowedNow = some u) :
    exec (.cleanSend j) s = .next (if (s.job j.val).valid ∧ (s.job j.val).cleanSent ≠ some u then s.tokenGoes j.val u else s) := by
  refine (show exec (.cleanSend j) s = execCleanSend j s from rfl).trans ?_
  rw [execCleanSend]
  dsimp only
  rw [hu]
  rfl

theorem cleanSend_goes (hu : (s.job j.val).allowedNow = some u) (hvalid : (s.job j.val).valid = true) (hnew : (s.job j.val).cleanSent ≠ some u) :
    exec (.cleanSend j) s = .next (s.tokenGoes j.val u) := by
  rw [cleanSend_some hu, if_pos ⟨hvalid, hnew⟩]

/-- A token goes for a step that is allowed and new, or nothing happens. -/
theorem cleanSend_cases (s : State) (j : Fin 256) :
    (∃ u, (s.job j.val).allowedNow = some u ∧ exec (.cleanSend j) s = .next (s.tokenGoes j.val u)) ∨ exec (.cleanSend j) s = .next s := by
  cases hu : (s.job j.val).allowedNow with
  | none => exact .inr (cleanSend_none hu)
  | some u =>
    rw [cleanSend_some hu]
    split
    · exact .inl ⟨u, rfl, rfl⟩
    · exact .inr rfl

end

section
variable (s : State) (j u : Nat)

/-- The state in which a CLEAN frame joins its queues. -/
theorem State.tokenGoes_eq : ∃ a, (s.setJob j ((s.job j).tokenSent u)).Queued a ∧ s.tokenGoes j u = a.checkHorizon j ∧
    a = (s.setJob j ((s.job j).tokenSent u)).sendClean j := ⟨_, State.sendClean_queued _ j, rfl, rfl⟩

theorem State.tokenGoes_frame : keptBut s.job (s.tokenGoes j u).job [j] ∧
    s.tokenGoes j u = { s with jobs := (s.tokenGoes j u).jobs, ports := (s.tokenGoes j u).ports, regs := (s.tokenGoes j u).regs } := by
  obtain ⟨a, hqueued, heq, -⟩ := s.tokenGoes_eq j u
  have ha := hqueued.linked.eq_of_out hqueued.out
  obtain ⟨hkept, hcheck⟩ := a.checkHorizon_spec j
  rw [heq]
  refine ⟨fun k hk => ?_, ?_⟩
  · rw [hkept k hk, ha]
    exact (State.setJob_job s j k _).trans (if_neg (by simpa using hk))
  · rw [hcheck, ha]
    rfl

theorem State.tokenGoes_job : (s.tokenGoes j u).job j = { (s.job j).tokenSent u with horizon := ((s.tokenGoes j u).job j).horizon } := by
  obtain ⟨a, hqueued, heq, -⟩ := s.tokenGoes_eq j u
  have ha : a.job j = (s.job j).tokenSent u := by
    rw [hqueued.linked.eq_of_out hqueued.out]
    exact State.setJob_same s j _
  rw [heq, State.checkHorizon_job, ha]

/-- Without a seat list the step whose token has gone has passed (R426). -/
theorem State.tokenGoes_alone (hslot : s.slotOf j = none) : ∃ h, ((s.tokenGoes j u).job j).horizon = some h ∧ u ≤ h := by
  obtain ⟨a, hqueued, heq, -⟩ := s.tokenGoes_eq j u
  have ha := hqueued.linked.eq_of_out hqueued.out
  have hjob : a.job j = (s.job j).tokenSent u := by
    rw [ha]
    exact State.setJob_same s j _
  have hnow : a.horizonNow j = some u := by
    have hnone : a.slotOf j = none := by
      rw [ha]
      exact hslot
    rw [State.horizonNow, hjob, hnone]
    rfl
  rw [heq, State.checkHorizon_job, hnow]
  exact le_of_maxOpt

end

/-- The CLEAN frame of a job with open streams (R424). -/
theorem State.cleanFrame_eq {s : State} {j i u : Nat} (hopen : s.streamsOf j ≠ []) :
    let a := s.setJob j ((s.job j).tokenSent u)
    a.ownBroadcast j ftClean (a.cleanPayload j (a.slot i).self) =
      { frameOf ftClean 0 s.selfId s.selfId (s.jobKey j) (leBytes 8 u ++ leBytes 4 ((s.slot i).self % 65536) ++ [0, 0, 0, 0]) with bcast := true, phase := (s.job j).phase } := by
  intro a
  have hjob : a.job j = (s.job j).tokenSent u := State.setJob_same s j _
  have hstreams : a.streamsOf j = s.streamsOf j := rfl
  have hslot : a.slot i = s.slot i := rfl
  have hkey : a.jobKey j = s.jobKey j := by
    rw [State.jobKey, State.jobKey, hjob]
    rfl
  have hpay : a.cleanPayload j (a.slot i).self = leBytes 8 u ++ leBytes 4 ((s.slot i).self % 65536) ++ [0, 0, 0, 0] := by
    have hsome : (!(s.streamsOf j).isEmpty) = true := by simpa using hopen
    rw [State.cleanPayload, hjob, hstreams, hslot]
    simp only [hsome, Job.tokenSent, Option.getD_some, Option.isNone_some, Bool.and_false, if_true, Bool.false_eq_true, if_false, Nat.add_zero]
    rfl
  rw [State.ownBroadcast, State.jobFrame, hpay, hkey, hjob]
  rfl

/-- The token goes as a CLEAN frame on every port of the mask that is up (R424). -/
theorem State.tokenGoes_sends {s : State} {j i u e : Nat} (hslot : s.slotOf j = some i) (htwin : s.twinOn = false) (hopen : s.streamsOf j ≠ []) (he : e < 12)
    (hmask : (s.field .wwyMod 0x06C 0 12).testBit e = true) (hup : (s.port e).up = true) :
    ({ frameOf ftClean 0 s.selfId s.selfId (s.jobKey j) (leBytes 8 u ++ leBytes 4 ((s.slot i).self % 65536) ++ [0, 0, 0, 0]) with
        bcast := true, phase := (s.job j).phase } : Frame) ∈ ((s.tokenGoes j u).port e).queue := by
  have hslot' : (s.setJob j ((s.job j).tokenSent u)).slotOf j = some i := hslot
  rw [← State.cleanFrame_eq hopen]
  show _ ∈ (((s.setJob j ((s.job j).tokenSent u)).sendClean j).port e).queue
  rw [State.sendClean, hslot']
  dsimp only
  rw [State.broadcast, State.broadcastOn_port _ _ _ (by exact htwin) he, if_pos ⟨hmask, hup⟩]
  exact List.mem_append_right _ (List.mem_singleton.mpr rfl)

/-! ### A token taken (R425, R426) -/

/-- The token of a CLEAN frame. -/
def Frame.token (f : Frame) : Token := ⟨f.field 0 8, decide (f.field 8 4 / 0x10000 % 2 = 1), decide (f.field 8 4 / 0x20000 % 2 = 1)⟩

/-- A slot whose seat holds the token of a CLEAN frame. -/
def Slot.holding (x : Slot) (f : Frame) : Slot := { x with tokens := putKey x.tokens (f.field 8 4 % 65536) f.token }

/-- What CLEAN_FRAME does with a frame that it has taken. -/
def State.cleanTaken (s : State) (f : Frame) : State :=
  match s.seatFrame f (f.field 8 4 % 65536) with
  | some i =>
    if 0x40000 ≤ f.field 8 4 then s.countSat .grn 0x07C
    else (s.setSlot i ((s.slot i).holding f)).checkHorizon (s.slot i).job
  | none => s.countSat .grn 0x07C

theorem cleanFrame_eq {p : Fin 12} {s : State} {x : Nat × Frame} (h : s.frameFor p.val ftClean = some x) :
    ∃ a, s.Taken a x.1 x.2 ∧ exec (.cleanFrame p) s = .next (a.cleanTaken x.2) := by
  obtain ⟨a, hon, htaken⟩ := State.onFrame_of_frameFor p.isLt h (fun t _ f => t.cleanTaken f)
  exact ⟨a, htaken, congrArg Host.Outcome.next hon⟩

/-- What one seat's token leaves of the highest step that passes (R426). -/
def Slot.letPass (x : Slot) (m : Option Nat) (seat : Nat) : Option Nat :=
  if seat = x.self then m else
  match m, getKey x.tokens seat with
  | some v, some t => if t.passive then some v else if t.none then none else some (min v t.step)
  | _, _ => none

theorem Slot.othersPass_eq (x : Slot) (own : Nat) : x.othersPass own = (List.range x.count).foldl x.letPass (some own) := rfl

/-- A token that covers a step lets it pass. -/
theorem Slot.letPass_of_covers {x : Slot} {seat c : Nat} (h : seat ≠ x.self → x.covers seat c = true) : x.letPass (some c) seat = some c := by
  unfold Slot.letPass
  by_cases hself : seat = x.self
  · rw [if_pos hself]
  · have hcovers := h hself
    rw [Slot.covers] at hcovers
    rw [if_neg hself]
    cases htoken : getKey x.tokens seat with
    | none => simp [htoken] at hcovers
    | some t =>
      simp only [htoken, Token.covers, Bool.or_eq_true, Bool.and_eq_true, Bool.not_eq_true', decide_eq_true_eq] at hcovers
      rcases hcovers with hpassive | ⟨hsome, hle⟩
      · simp [hpassive]
      · simp [hsome, Nat.min_eq_left hle]

/-- Seats whose tokens all cover a step let it pass. -/
theorem Slot.othersPass_of_covers {x : Slot} {c : Nat} (h : ∀ seat, seat < x.seats.length → seat ≠ x.self → x.covers seat c = true) : x.othersPass c = some c := by
  have hfold (l : List Nat) (hl : ∀ seat, seat ∈ l → seat < x.seats.length) : l.foldl x.letPass (some c) = some c := by
    induction l with
    | nil => rfl
    | cons seat l ih =>
      rw [List.foldl_cons, Slot.letPass_of_covers (h seat (hl seat List.mem_cons_self))]
      exact ih (fun k hk => hl k (List.mem_cons_of_mem _ hk))
  rw [Slot.othersPass_eq]
  exact hfold _ (fun seat hseat => List.mem_range.mp hseat)

/-- The slot found for a job stays the one found where a slot keeps its job and its validity. -/
theorem State.slotOf_setSlot {s : State} {i : Nat} {x : Slot} (hvalid : x.valid = (s.slot i).valid) (hjob : x.job = (s.slot i).job) (j : Nat) :
    (s.setSlot i x).slotOf j = s.slotOf j := by
  have hsame (k : Nat) : ((s.setSlot i x).slot k).valid = (s.slot k).valid ∧ ((s.setSlot i x).slot k).job = (s.slot k).job := by
    by_cases hk : k = i
    · subst hk
      rw [State.setSlot_same]
      exact ⟨hvalid, hjob⟩
    · rw [State.setSlot_other _ _ hk]
      exact ⟨rfl, rfl⟩
  simp only [State.slotOf, hsame]

theorem State.countSat_handles (s : State) (pg : Page) (o : Nat) : s.Handles (s.countSat pg o) := .of_same rfl rfl rfl

theorem State.cleanTaken_frame (s : State) (f : Frame) : s.Handles (s.cleanTaken f) ∧ (s.cleanTaken f).streams = s.streams := by
  unfold State.cleanTaken
  split
  · split
    · exact ⟨s.countSat_handles _ _, rfl⟩
    · exact ⟨.of_same rfl rfl rfl, rfl⟩
  · exact ⟨s.countSat_handles _ _, rfl⟩

/-- A token from no seat of its slot, or with a reserved bit set, does not count. -/
theorem State.cleanTaken_uncounted {s : State} {f : Frame} (h : s.seatFrame f (f.field 8 4 % 65536) = none ∨ 0x40000 ≤ f.field 8 4) :
    s.cleanTaken f = s.countSat .grn 0x07C := by
  unfold State.cleanTaken
  split
  next i hi => exact h.elim (fun hnone => absurd (hi.symm.trans hnone) (by simp)) (fun hw => if_pos hw)
  next => rfl

section
variable {s : State} {f : Frame} {i : Nat} (hi : s.seatFrame f (f.field 8 4 % 65536) = some i) (hw : f.field 8 4 < 0x40000)
include hi hw

theorem State.cleanTaken_counted : s.cleanTaken f =
    (s.setSlot i ((s.slot i).holding f)).checkHorizon (s.slot i).job := by
  rw [State.cleanTaken, hi]
  exact if_neg (by omega)

theorem State.cleanTaken_slot : (s.cleanTaken f).slot i = (s.slot i).holding f := by
  rw [State.cleanTaken_counted hi hw]
  exact State.setSlot_same s i _

theorem State.cleanTaken_others : keptBut s.slot (s.cleanTaken f).slot [i] ∧ keptBut s.job (s.cleanTaken f).job [(s.slot i).job] := by
  rw [State.cleanTaken_counted hi hw]
  exact ⟨fun k hk => State.setSlot_other _ _ (by simpa using hk), (State.checkHorizon_spec _ _).1⟩

/-- A step whose own token has gone passes once every other seat's token covers it (R426). -/
theorem State.cleanTaken_passes {c : Nat} (hsent : (s.job (s.slot i).job).cleanSent = some c) (hslot : s.slotOf (s.slot i).job = some i)
    (hcovers : ∀ seat, seat < (s.slot i).seats.length → seat ≠ (s.slot i).self → ((s.cleanTaken f).slot i).covers seat c = true) :
    ∃ h, ((s.cleanTaken f).job (s.slot i).job).horizon = some h ∧ c ≤ h := by
  rw [State.cleanTaken_slot hi hw] at hcovers
  have hfound := (State.slotOf_setSlot (s := s) (i := i) (x := (s.slot i).holding f) rfl rfl (s.slot i).job).trans hslot
  have hnow : (s.setSlot i ((s.slot i).holding f)).horizonNow (s.slot i).job = some c := by
    have hjob : (s.setSlot i ((s.slot i).holding f)).job (s.slot i).job = s.job (s.slot i).job := rfl
    rw [State.horizonNow, hjob, hsent, hfound]
    dsimp only
    rw [State.setSlot_same]
    exact Slot.othersPass_of_covers hcovers
  rw [State.cleanTaken_counted hi hw, State.checkHorizon_job, hnow]
  exact le_of_maxOpt

end

end Sys2Proof.Machine
end

section
/-! Proofs: a RETRACT counted, and the settling of its family of statements (R422 to R430, R445, R448). -/

namespace Sys2Proof.Machine

/-! ### Error records that name a job and a step (R440) -/

theorem State.record_last (s : State) (e : Event) :
    ∃ r, (s.record e).log.getLast? = some r ∧ r.kind = e.kind ∧ r.job = e.job ∧ r.step = e.step :=
  ⟨_, getLast?_keepLast 4095 _ _, rfl, rfl, rfl⟩

theorem State.Logs.handles {s t : State} : s.Logs t → s.Handles t := by
  rintro ⟨_, _, _, rfl⟩
  exact .of_same rfl rfl rfl

theorem State.Logs.slots {s t : State} : s.Logs t → t.slots = s.slots := by
  rintro ⟨_, _, _, rfl⟩
  rfl

theorem State.FireFrame.slots {s t : State} : s.FireFrame t → t.slots = s.slots := by
  rintro ⟨_, _, _, _, _, _, _, _, _, _, _, _, _, _, _, rfl⟩
  rfl

/-- The last of one record each names the job of the streams. -/
theorem State.recordEach_last {s : State} {l : List Nat} {e : Event} (hjob : ∀ n, n ∈ l → (s.stream n).job = e.job) :
    ∃ r, (s.recordEach l e).log.getLast? = some r ∧ r.kind = e.kind ∧ r.job = e.job ∧ r.step = e.step := by
  rcases List.eq_nil_or_concat l with rfl | ⟨l, n, rfl⟩
  · exact s.record_last e
  · have hbefore : s.Logs (s.forEach l (fun t n => t.recordStream n e)) := State.forEach_rel State.Logs.refl State.Logs.trans (fun t n => t.record_logs _) l s
    have heq : s.recordEach (l.concat n) e = (s.forEach l (fun t n => t.recordStream n e)).recordStream n e := by
      rw [State.recordEach, if_neg (by simp), State.forEach, List.concat_eq_append, List.foldl_append]
      rfl
    obtain ⟨r, hlast, hkind, hj, hstep⟩ := State.record_last (s.forEach l (fun t n => t.recordStream n e))
      { e with stream := some n, subSeq := ((s.forEach l (fun t n => t.recordStream n e)).stream n).seq, job := ((s.forEach l (fun t n => t.recordStream n e)).stream n).job }
    rw [heq]
    refine ⟨r, hlast, hkind, hj.trans ?_, hstep⟩
    dsimp only
    rw [State.stream_congr hbefore.streams]
    exact hjob n (by simp)

/-! ### A RETRACT taken (R429, R430) -/

/-- A slot whose seat's last counted RETRACT is the frame's. -/
def Slot.retracting (x : Slot) (seat : Nat) (f : Frame) : Slot := { x with retractIds := putKey x.retractIds seat (BitVec.ofNat 32 (f.field 0 4)) }

/-- A counted RETRACT noted. -/
def State.retractNoted (s : State) (i seat : Nat) (f : Frame) : State := (s.setSlot i ((s.slot i).retracting seat f)).raise .grn 1

/-- The error record of a counted RETRACT. -/
def retractEvent (j seat : Nat) (f : Frame) : Event :=
  { kind := 0x09, job := j, step := f.field 8 8, detail := [f.field 0 4, f.field 0x10 2, f.field 0x14 4, f.field 0x18 4, seat] }

/-- What a RETRACT that counts does. -/
def State.retractCounted (s : State) (i seat : Nat) (f : Frame) : State :=
  ((s.retractNoted i seat f).retractEffects (s.slot i).job (f.field 8 8)).recordEach ((s.retractNoted i seat f).retractHits (s.slot i).job (f.field 8 8))
    (retractEvent (s.slot i).job seat f)

/-- What RETRACT_FRAME does with a frame that it has taken. -/
def State.retractTaken (s : State) (f : Frame) : State :=
  match s.retractSeat f with
  | some (i, seat) => s.retractCounted i seat f
  | none => s.countSat .grn 0x07C

theorem retractFrame_eq {p : Fin 12} {s : State} {x : Nat × Frame} (h : s.frameFor p.val ftRetract = some x) :
    ∃ a, s.Taken a x.1 x.2 ∧ exec (.retractFrame p) s = .next (a.retractTaken x.2) := by
  obtain ⟨a, hon, htaken⟩ := State.onFrame_of_frameFor p.isLt h (fun t _ f => t.retractTaken f)
  exact ⟨a, htaken, congrArg Host.Outcome.next hon⟩

theorem State.Taken.retractSeat {s a : State} {q : Nat} {f : Frame} (h : s.Taken a q f) (g : Frame) : a.retractSeat g = s.retractSeat g := by
  obtain ⟨_, _, _, rfl⟩ := h.only
  rfl

/-- A job's list with a step, where there is room for it (R430). -/
def Job.listing (x : Job) (r : Nat) : Job := { x with retracted := if x.retracted.contains r ∨ 16 ≤ x.retracted.length then x.retracted else x.retracted ++ [r] }

theorem Job.mem_listing {x : Job} (r : Nat) (hroom : x.retracted.length < 16) : r ∈ (x.listing r).retracted := by
  rw [Job.listing]
  by_cases hin : x.retracted.contains r = true
  · rw [if_pos (.inl hin)]
    simpa using hin
  · rw [if_neg (not_or.mpr ⟨hin, by omega⟩)]
    exact List.mem_append_right _ (List.mem_singleton.mpr rfl)

/-- The records that a retract of a step stands against (R430). -/
def State.retractedUpds (s : State) (j r : Nat) : List Upd := s.upds.filter (fun (u : Upd) => decide ((s.stream u.stream).job = j) && u.standsAgainst r)

theorem State.retractEffects_eq (s : State) (j r : Nat) : s.retractEffects j r = (s.setJob j ((s.job j).listing r)).forEach (s.retractedUpds j r) State.retractUpd := rfl

section
variable (s : State) (j r : Nat)

theorem State.retractEffects_frame : s.FireFrame (s.retractEffects j r) ∧ s.Counts endOffs (s.retractEffects j r) := by
  obtain ⟨hframe, hcounts⟩ := State.retractUpds_frame (s.retractedUpds j r) (s.setJob j ((s.job j).listing r))
  rw [State.retractEffects_eq]
  exact ⟨State.FireFrame.trans ⟨_, _, _, _, _, _, _, _, _, _, _, _, _, _, _, rfl⟩ hframe, (s.setJob_counts j _).trans hcounts⟩

theorem State.retractEffects_job (m : Nat) : ((s.retractEffects j r).stream m).job = (s.stream m).job := by
  rw [State.retractEffects_eq]
  exact (State.retractUpds_ends _ _).job m

theorem State.retractEffects_lists (hroom : (s.job j).retracted.length < 16) : r ∈ ((s.retractEffects j r).job j).retracted := by
  rw [State.retractEffects_eq, (State.retractUpds_ends _ _).lists, State.setJob_same]
  exact Job.mem_listing r hroom

theorem State.retractEffects_fails {u : Upd} (hu : u ∈ s.retractedUpds j r) (hf : (s.stream u.stream).fails) :
    ((s.retractEffects j r).stream u.stream).st = .failed ∧ ((s.retractEffects j r).stream u.stream).endStatus = S_RETRACTED := by
  obtain ⟨hst, hend, -⟩ := State.retractUpds_fail hu (s := s.setJob j ((s.job j).listing r)) hf
  rw [State.retractEffects_eq]
  exact ⟨hst, hend⟩

theorem State.mem_retractedUpds {u : Upd} (hu : u ∈ s.upds) (hjob : (s.stream u.stream).job = j) (hcast : u.castOnly = false)
    (hstep : r ≤ u.step ∨ ∃ a, u.applies = some a ∧ r ≤ a) : u ∈ s.retractedUpds j r := by
  have hstands : u.standsAgainst r = true := by
    rw [Upd.standsAgainst, hcast]
    rcases hstep with h | ⟨a, ha, h⟩
    · simp [h]
    · simp [ha, h]
  exact List.mem_filter.mpr ⟨hu, by simp [hjob, hstands]⟩

theorem State.retractHits_job {n : Nat} (h : n ∈ s.retractHits j r) : (s.stream n).job = j := by
  obtain ⟨u, hu, rfl⟩ := List.mem_map.mp (List.mem_dedup.mp h)
  have hcond := (List.mem_filter.mp hu).2
  simp only [Bool.and_eq_true, decide_eq_true_eq] at hcond
  exact hcond.1

end

section
variable (s : State) (i seat : Nat) (f : Frame)

/-- A counted RETRACT noted changes its slot and error registers. -/
theorem State.retractNoted_spec : ∃ slots regs, s.retractNoted i seat f = { s with slots := slots, regs := regs } ∧
    (s.retractNoted i seat f).slot i = (s.slot i).retracting seat f ∧ ((s.retractNoted i seat f).reg .grn offErrStat).getLsbD 1 = true := by
  obtain ⟨b, hb⟩ : ∃ b, b = s.setSlot i ((s.slot i).retracting seat f) := ⟨_, rfl⟩
  have hslots : b = { s with slots := b.slots } := hb ▸ rfl
  have hslot : b.slot i = (s.slot i).retracting seat f := hb ▸ State.setSlot_same s i _
  have honly := b.raise_onlyRegs .grn 1
  have hstat := b.raise_stat_set .grn (b := 1) (by decide)
  rw [State.retractNoted, ← hb]
  refine ⟨b.slots, (b.raise .grn 1).regs, honly.of_regs.trans ?_, (State.slot_congr ?_ i).trans hslot, hstat⟩
  · rw [hslots]
  · rw [honly.of_regs]

/-- What a RETRACT that counts leaves behind. -/
theorem State.retractCounted_spec :
    let t := s.retractCounted i seat f
    let j := (s.slot i).job
    s.Handles t ∧ t.slot i = (s.slot i).retracting seat f ∧ (t.reg .grn offErrStat).getLsbD 1 = true ∧
      ((s.job j).retracted.length < 16 → f.field 8 8 ∈ (t.job j).retracted) ∧
      (∃ r, t.log.getLast? = some r ∧ r.kind = 0x09 ∧ r.job = j ∧ r.step = f.field 8 8) ∧
      (∀ u, u ∈ s.retractedUpds j (f.field 8 8) → (s.stream u.stream).fails → (t.stream u.stream).st = .failed ∧ (t.stream u.stream).endStatus = S_RETRACTED) := by
  intro t j
  obtain ⟨slots, regs, hnoted, hslot, hbit⟩ := s.retractNoted_spec i seat f
  obtain ⟨a, ha⟩ : ∃ a, a = s.retractNoted i seat f := ⟨_, rfl⟩
  rw [← ha] at hnoted hslot hbit
  have ht : t = (a.retractEffects j (f.field 8 8)).recordEach (a.retractHits j (f.field 8 8)) (retractEvent j seat f) := by rw [ha]; rfl
  obtain ⟨hframe, hcounts⟩ := a.retractEffects_frame j (f.field 8 8)
  have hlogs := (a.retractEffects j (f.field 8 8)).recordEach_logs (a.retractHits j (f.field 8 8)) (retractEvent j seat f)
  have hstreams (n : Nat) : a.stream n = s.stream n := by rw [hnoted]; rfl
  have hjob : a.job j = s.job j := by rw [hnoted]; rfl
  have hupds : a.retractedUpds j (f.field 8 8) = s.retractedUpds j (f.field 8 8) := by rw [hnoted]; rfl
  have hlast := State.recordEach_last (s := a.retractEffects j (f.field 8 8)) (l := a.retractHits j (f.field 8 8)) (e := retractEvent j seat f)
    (fun n hn => (a.retractEffects_job j _ n).trans (a.retractHits_job j _ hn))
  rw [← ht] at hlogs hlast
  have hnotes : s.Handles a := by
    rw [hnoted]
    exact .of_same rfl rfl rfl
  refine ⟨(hnotes.trans (.of_fire hframe)).trans hlogs.handles, ?_, ?_, fun hroom => ?_, hlast, fun u hu hf => ?_⟩
  · rw [State.slot_congr hlogs.slots, State.slot_congr hframe.slots, hslot]
  · rw [State.reg_congr hlogs.regs]
    exact hcounts.stat .grn 1 hbit
  · rw [hlogs.job]
    exact a.retractEffects_lists j _ (by rwa [hjob])
  · rw [State.stream_congr hlogs.streams]
    exact a.retractEffects_fails j _ (by rwa [hupds]) (by rwa [hstreams])

end

/-! ### The list cleared (R445) -/

theorem clearRetracted_clears {s : State} (hreach : s.hostReach = true) (hclosed : s.streamsOf (s.field .grn 0x050 0 8) = []) :
    exec .clearRetracted s = .next (s.updJob (s.field .grn 0x050 0 8) (fun x => { x with retracted := [] })) :=
  congrArg Host.Outcome.next ((if_pos hreach).trans (if_neg (by rw [hclosed]; simp)))

theorem clearRetracted_refused {s : State} {n : Nat} (hreach : s.hostReach = true) (hn : n ∈ s.streamsOf (s.field .grn 0x050 0 8)) (hactive : (s.stream n).active = true) :
    exec .clearRetracted s = .next (s.raise .grn 2) :=
  congrArg Host.Outcome.next ((if_pos hreach).trans (if_pos (List.any_eq_true.mpr ⟨n, hn, hactive⟩)))

/-- A frame that does not count is dropped and counted. -/
theorem State.Taken.uncounted {s a : State} {q : Nat} {f : Frame} (h : s.Taken a q f) : (a.countSat .grn 0x07C).reg .grn 0x07C = satAdd (s.reg .grn 0x07C) 1 := by
  rw [← h.counts.reg .grn 0x07C (by decide) (by decide) (by decide)]
  exact State.setReg_same _ _ _ _

theorem State.Taken.jobs {s a : State} {q : Nat} {f : Frame} (h : s.Taken a q f) : a.jobs = s.jobs ∧ a.upds = s.upds := by
  obtain ⟨_, _, _, rfl⟩ := h.only
  exact ⟨rfl, rfl⟩

/-- Settles O49: tokens go and pass by `tokenGoes` and `cleanTaken`, and a counted RETRACT fails what it stands against. -/
theorem cleanTokensAndRetracts : Obligations.CleanTokensAndRetracts := by
  unfold Obligations.CleanTokensAndRetracts
  refine ⟨fun j s => ?_, fun p s x hx => ?_, fun p s x hx => ?_, fun s hreach => ?_⟩
  · intro x done
    refine ⟨fun c hc hfirings hchecks hvalid hheld hmax hsent => ?_, fun h hheld => ?_⟩
    · have hallowed : x.allowedNow = some c.step := by
        refine Job.allowedNow_free hheld (Job.mem_ready.mpr ⟨c, hc, rfl, hfirings, hchecks⟩) (fun u hu => ?_) hsent
        obtain ⟨d, hd, rfl, hdf, hdc⟩ := Job.mem_ready.mp hu
        exact hmax d hd hdf hdc
      have hnew : x.cleanSent ≠ some c.step := by
        intro heq
        rw [heq] at hsent
        simp at hsent
      obtain ⟨hkept, hframe⟩ := s.tokenGoes_frame j.val c.step
      refine ⟨_, cleanSend_goes hallowed hvalid hnew, ?_, hkept, hframe, fun hslot => s.tokenGoes_alone j.val c.step hslot,
        fun i hslot htwin hopen e he hmask hup => State.tokenGoes_sends hslot htwin hopen he hmask hup⟩
      rw [State.tokenGoes_job]
      rfl
    · rcases cleanSend_cases s j with ⟨u, hallowed, hexec⟩ | hexec
      · refine ⟨_, hexec, fun hnot v hv => ?_⟩
        rw [State.tokenGoes_job] at hv
        obtain rfl : u = v := Option.some.inj hv
        exact Job.allowedNow_held hheld (fun hready => hnot (Job.mem_ready.mp hready)) hallowed
      · exact ⟨s, hexec, fun _ u hu => .inr hu⟩
  · intro f w
    obtain ⟨a, htaken, hexec⟩ := cleanFrame_eq hx
    obtain ⟨hhandles, hstreams⟩ := a.cleanTaken_frame f
    have hseat : a.seatFrame f (w % 65536) = s.seatFrame f (w % 65536) := htaken.seatFrame f _
    refine ⟨_, hexec, hhandles.waits.took htaken.took, hhandles.mem.trans htaken.mem, hstreams.trans htaken.slots.2, fun i hi hw => ?_, fun hdrop => ?_⟩
    · rw [← hseat] at hi
      obtain ⟨_, _, _, rfl⟩ := htaken.only
      obtain ⟨hslots, hjobs⟩ := State.cleanTaken_others hi hw
      refine ⟨?_, ?_, hslots, hjobs, fun c hsent hfound hcovers => State.cleanTaken_passes hi hw hsent hfound hcovers⟩
      · rw [State.cleanTaken_slot hi hw]
        exact getKey_putKey _ _ _
      · rw [State.cleanTaken_slot hi hw]
        rfl
    · rw [State.cleanTaken_uncounted (by rwa [hseat])]
      exact ⟨htaken.slots.1, htaken.jobs.1, htaken.uncounted⟩
  · intro f id step
    obtain ⟨a, htaken, hexec⟩ := retractFrame_eq hx
    have hslot (k : Nat) : a.slot k = s.slot k := State.slot_congr htaken.slots.1 k
    have hstream (k : Nat) : a.stream k = s.stream k := State.stream_congr htaken.slots.2 k
    have hjob (k : Nat) : a.job k = s.job k := by rw [State.job, State.job, htaken.jobs.1]
    cases hq : s.retractSeat f with
    | none =>
      have hnone : a.retractTaken f = a.countSat .grn 0x07C := by rw [State.retractTaken, htaken.retractSeat, hq]
      rw [hnone] at hexec
      refine ⟨_, hexec, (a.countSat_handles _ _).waits.took htaken.took, htaken.mem, fun q hsome => absurd hsome (by simp), fun _ => ?_⟩
      exact ⟨htaken.jobs.1, htaken.slots.2, htaken.slots.1, htaken.uncounted⟩
    | some q =>
      have hcounted : a.retractTaken f = a.retractCounted q.1 q.2 f := by rw [State.retractTaken, htaken.retractSeat, hq]
      rw [hcounted] at hexec
      obtain ⟨hhandles, hids, hbit, hlist, hlast, hfails⟩ := a.retractCounted_spec q.1 q.2 f
      refine ⟨_, hexec, hhandles.waits.took htaken.took, hhandles.mem.trans htaken.mem, fun q' hsome => ?_, fun hnone => absurd hnone (by simp)⟩
      obtain rfl : q = q' := Option.some.inj hsome
      rw [hslot, hjob] at hlist
      rw [hslot] at hlast
      refine ⟨?_, hbit, hlist, hlast, fun u hu huj hcast hstep hst => hfails u ?_ (by rwa [hstream])⟩
      · rw [hids]
        exact getKey_putKey _ _ _
      · refine a.mem_retractedUpds _ _ (by rwa [htaken.jobs.2]) ?_ hcast hstep
        rw [hstream, hslot]
        exact huj
  · refine ⟨fun hclosed => ?_, fun n hn hactive => ?_, ?_⟩
    · exact ⟨_, clearRetracted_clears hreach hclosed, State.setJob_same _ _ _, fun k hk => (State.setJob_job _ _ _ _).trans (if_neg (by simpa using hk)), rfl⟩
    · exact ⟨_, clearRetracted_refused hreach hn hactive, s.raise_raisedIn .grn 2, (s.raise_onlyRegs .grn 2).of_regs⟩
    · exact ⟨_, congrArg Host.Outcome.next (if_pos hreach), s.arm_zero_spec .grn⟩

end Sys2Proof.Machine
end

section
/-! Proofs: what a link end keeps while messages pass, and the loss of a compute die (R452, R453, R456, R469 to R473). -/

namespace Sys2Proof.Machine

/-! ### Link ends whose standing stays (R453, R456) -/

/-- Whether a link end is up or fenced, and the bundles it uses. -/
def LinkSt.standing (x : LinkSt) : Bool × Bool × Nat × Nat := (x.up, x.fenced, x.enabled, x.retired)

/-- Every link end stands as it did. -/
def State.LinksStand (s t : State) : Prop := ∀ g, (t.link g).standing = (s.link g).standing

theorem State.link_congr {s t : State} (h : t.links = s.links) (g : LinkEnd) : t.link g = s.link g := by rw [State.link, State.link, h]

namespace State.LinksStand

theorem refl (s : State) : s.LinksStand s := fun _ => rfl

theorem trans {a b c : State} (h : a.LinksStand b) (k : b.LinksStand c) : a.LinksStand c := fun g => (k g).trans (h g)

theorem of_links {s t : State} (h : t.links = s.links) : s.LinksStand t := fun g => congrArg LinkSt.standing (State.link_congr h g)

theorem of_regs {s t : State} : s.Regs t → s.LinksStand t := by
  rintro ⟨_, rfl⟩
  exact of_links rfl

theorem setLink (s : State) (e : LinkEnd) {x : LinkSt} (h : x.standing = (s.link e).standing) : s.LinksStand (s.setLink e x) := by
  intro g
  rw [State.setLink_link]
  split
  next hnum => rw [h, State.link, State.link, hnum]
  next => rfl

/-- What waits at a link end and where its messages go say nothing about its standing. -/
theorem setPlaces (s : State) (e : LinkEnd) (places : List (Nat × Nat)) (moved : List (Nat × Nat × U16)) (held : List HeldMsg) :
    s.LinksStand (s.setLink e { s.link e with places := places, moved := moved, held := held }) := setLink s e rfl

theorem forEach {β : Type} {f : State → β → State} (hf : ∀ (t : State) (b : β), t.LinksStand (f t b)) (l : List β) (s : State) : s.LinksStand (s.forEach l f) :=
  State.forEach_rel refl trans hf l s

theorem sendFlit (s : State) (e : LinkEnd) (b kind : Nat) (payload : List U8) : s.LinksStand (s.sendFlit e b kind payload) := by
  unfold State.sendFlit
  dsimp only
  split
  · exact of_links rfl
  · exact refl s

theorem tryMessage {s t : State} {e : LinkEnd} {m : HeldMsg} (h : s.tryMessage e m = some t) : s.LinksStand t := by
  unfold State.tryMessage at h
  dsimp only at h
  split at h
  · split at h
    · obtain rfl := Option.some.inj h
      exact (setPlaces s e _ _ _).trans (sendFlit _ _ _ _ _)
    · cases h
  · cases h

theorem releaseHeld (s : State) (e : LinkEnd) : s.LinksStand (s.releaseHeld e) := by
  refine (setPlaces s e _ _ _).trans (forEach (fun t m => ?_) _ _)
  split
  case h_1 _ t1 ht => exact tryMessage ht
  case h_2 => exact setPlaces t e _ _ _

theorem offer (s : State) (e : LinkEnd) (m : HeldMsg) : s.LinksStand (s.offer e m) := (setPlaces s e _ _ _).trans (releaseHeld _ e)

theorem tell (s : State) (a b n : Nat) (payload : List U8) : s.LinksStand (s.tell a b n payload) := forEach (fun t e => offer t e _) _ s

theorem fenceNotice (s : State) (d : Nat) : s.LinksStand (s.fenceNotice d) := (forEach (fun t e => offer t e _) _ s).trans (of_links rfl)

theorem dropFlits (s : State) (e : LinkEnd) : s.LinksStand (s.dropFlits e) :=
  (setPlaces s e _ _ _).trans (forEach (fun t b => of_links (t := t.setBundle e b _) rfl) _ _)

theorem moveFlits (s : State) (e : LinkEnd) (b : Nat) : s.LinksStand (s.moveFlits e b) := by
  unfold State.moveFlits
  extract_lets fs y s1 x
  exact ((of_links rfl : s.LinksStand s1).trans (setPlaces s1 e _ _ _)).trans (releaseHeld _ e)

end State.LinksStand

/-! ### Ends of submissions send tokens and credits (R28, R108, R471) -/

theorem State.ended_links (s : State) (n : Nat) (st : SState) (code unit : U16) (ticks : U32) : (s.ended n st code unit ticks).links = s.links := by
  have hraised : (if st = .failed then (s.updRec n (fun x => x.endRec st code unit ticks)).draw.raise (stmPage (s.stream n).home) 1
      else (s.updRec n (fun x => x.endRec st code unit ticks)).draw).links = s.links := by
    split
    · exact (State.raise_links _ _ _).trans rfl
    · rfl
  unfold State.ended
  obtain ⟨_, h⟩ := State.revoke_frame (if st = .failed then (s.updRec n (fun x => x.endRec st code unit ticks)).draw.raise (stmPage (s.stream n).home) 1
    else (s.updRec n (fun x => x.endRec st code unit ticks)).draw) n
  rw [h]
  exact hraised

namespace State.LinksStand

theorem issueInitial (s : State) (n : Nat) (b : Bound) : s.LinksStand (s.issueInitial n b) :=
  forEach (fun t _ => (forEach (fun t _ => tell t _ _ _ _) _ t).trans (tell _ _ _ _ _)) _ s

theorem grantLoop (l : List WaitingBind) : ∀ (kept : List WaitingBind) (s : State), s.LinksStand (s.grantLoop l kept) := by
  induction l with
  | nil => exact fun _ _ => of_links rfl
  | cons w l ih =>
    intro kept s
    unfold State.grantLoop
    split
    · split
      · exact (of_links (s := s) (State.updRec_links s w.stream _)).trans ((issueInitial _ _ _).trans (ih _ _))
      · exact ih _ s
    · exact ih _ s

theorem grantSlots (s : State) : s.LinksStand s.grantSlots := grantLoop _ _ s

theorem startNext (s : State) (n : Nat) : s.LinksStand (s.startNext n) := by
  obtain ⟨_, _, h⟩ := s.startNext_frame n
  rw [h]
  exact of_links rfl

theorem letGo (s : State) (n : Nat) : s.LinksStand (s.letGo n) := ((of_links rfl : s.LinksStand (s.abandon n)).trans (grantSlots _)).trans (startNext _ n)

theorem endSubmission (s : State) (n : Nat) (st : SState) (code unit : U16) : s.LinksStand (s.endSubmission n st code unit) := by
  obtain ⟨ticks, h⟩ := s.endSubmission_eq n st code unit
  have hletGo : s.endSubmission n st code unit = (s.ended n st code unit ticks).letGo n := h
  rw [hletGo]
  exact (of_links (s.ended_links n st code unit ticks)).trans (letGo _ n)

theorem failStream (s : State) (n : Nat) (code unit : U16) : s.LinksStand (s.failStream n code unit) := by
  unfold State.failStream
  dsimp only
  split
  · exact endSubmission _ _ _ _ _
  · exact refl s

end State.LinksStand

/-- What a fenced completion comes to (R471). -/
theorem State.fencedCompletion_cases (s : State) (n : Nat) (unit : U16) :
    (s.fencedCompletion n unit = s.drainDone n ∧ (s.stream n).st = .draining) ∨ (s.fencedCompletion n unit = s.failStream n S_DIE_DOWN unit ∧ (s.stream n).st ≠ .draining) ∨
      ((s.stream n).active = false ∧ ∃ b, s.fencedCompletion n unit = ((s.setStream n { s.stream n with bound := b }).grantSlots).startNext n) ∨
      ((s.stream n).active = false ∧ s.fencedCompletion n unit = s) := by
  by_cases hdrain : (s.stream n).st = .draining
  · exact .inl ⟨if_pos hdrain, hdrain⟩
  · by_cases hactive : (s.stream n).active = true
    · exact .inr (.inl ⟨(if_neg hdrain).trans (if_pos hactive), hdrain⟩)
    · have hrest := Bool.eq_false_iff.mpr hactive
      unfold State.fencedCompletion
      rw [if_neg hdrain, if_neg hactive]
      split
      · exact .inr (.inr (.inl ⟨hrest, _, rfl⟩))
      · exact .inr (.inr (.inr ⟨hrest, rfl⟩))

theorem State.fencedCompletion_stands (s : State) (n : Nat) (unit : U16) : s.LinksStand (s.fencedCompletion n unit) := by
  rcases s.fencedCompletion_cases n unit with ⟨h, -⟩ | ⟨h, -⟩ | ⟨-, b, h⟩ | ⟨-, h⟩
  · rw [h, State.drainDone]
    split
    · exact .endSubmission s n _ _ _
    · exact .refl s
  · rw [h]
    exact .failStream s n _ _
  · rw [h]
    exact ((State.LinksStand.of_links rfl : s.LinksStand (s.setStream n { s.stream n with bound := b })).trans (.grantSlots _)).trans (.startNext _ n)
  · rw [h]
    exact .refl s

theorem Stream.fails.active {x : Stream} (h : x.fails) : x.active = true := by
  rcases h with h | h | h <;> simp [Stream.active, h]

/-- A fenced completion fails its stream where it is BINDING, RUNNING or FROZEN. -/
theorem State.fencedCompletion_ends (s : State) (n : Nat) (unit : U16) :
    s.Ends S_DIE_DOWN (s.fencedCompletion n unit) ∧ ((s.stream n).fails → (s.fencedCompletion n unit).sunk n S_DIE_DOWN) := by
  rcases s.fencedCompletion_cases n unit with ⟨h, hst⟩ | ⟨h, -⟩ | ⟨hrest, b, h⟩ | ⟨hrest, h⟩
  · have hnot : ¬ (s.stream n).fails := by
      rintro (hf | hf | hf) <;> exact absurd (hst.symm.trans hf) (by decide)
    refine ⟨?_, fun hf => absurd hf hnot⟩
    rw [h, State.drainDone]
    split
    · exact .endSubmission _ _ (fun hf => absurd hf hnot) (by rw [hst]; decide)
    · exact .refl s
  · rw [h]
    exact ⟨.failStream _ _ s n, State.failStream_sunk _ _⟩
  · rw [h]
    exact ⟨((State.Ends.setBound s n b).trans (.grantSlots _)).trans (.startNext _ n), fun hf => absurd hf.active (by simp [hrest])⟩
  · rw [h]
    exact ⟨.refl s, fun hf => absurd hf.active (by simp [hrest])⟩

/-! ### The loss of a compute die (R469 to R473) -/

/-- A link end shut: down and fenced. -/
def LinkSt.shut (x : LinkSt) : LinkSt := { x with up := false, fenced := true, peerClk := false }

theorem LinkEnd.peer_num (e : LinkEnd) : e.peer.num ≠ e.num := by
  cases e with
  | rdl r => revert r; decide
  | bondBase d => simp only [LinkEnd.peer, LinkEnd.num]; omega
  | bondDie d => simp only [LinkEnd.peer, LinkEnd.num]; omega

/-- A fenced link is down and fenced at the end it was fenced from. -/
theorem State.fenceLink_shut (s : State) (e : LinkEnd) : ((s.fenceLink e).link e).up = false ∧ ((s.fenceLink e).link e).fenced = true := by
  obtain ⟨a, ha⟩ : ∃ a, a = (s.setLink e (s.link e).shut).dropFlits e := ⟨_, rfl⟩
  have hstand : (a.link e).standing = (s.link e).shut.standing := by
    rw [ha, State.LinksStand.dropFlits, State.setLink_link, if_pos rfl]
  have hpeer : ((s.fenceLink e).link e).standing = (s.link e).shut.standing := by
    have heq : s.fenceLink e = (a.setLink e.peer (a.link e.peer).shut).dropFlits e.peer := by rw [ha]; rfl
    rw [heq, State.LinksStand.dropFlits, State.setLink_link, if_neg e.peer_num.symm, hstand]
  simp only [LinkSt.standing, LinkSt.shut, Prod.mk.injEq] at hpeer
  exact ⟨hpeer.1, hpeer.2.1⟩

/-- Dropped units leave every stream its state. -/
theorem State.dropUnits_stream (s : State) (us : List Nat) (m : Nat) : ((s.dropUnits us).stream m).st = (s.stream m).st := by
  unfold State.dropUnits
  extract_lets s1
  refine State.forEach_rel (R := fun a b => (b.stream m).st = (a.stream m).st) (fun _ => rfl) (fun hab hbc => hbc.trans hab) (fun t n => ?_) _ s1
  split
  · rw [State.setStream_stream]
    split
    next h => rw [h]
    next => rfl
  · rfl

theorem Stream.fails_congr {x y : Stream} (h : y.st = x.st) (hf : x.fails) : y.fails := by
  rw [Stream.fails, h]
  exact hf

/-- The units of a lost die gone, its link fenced, and the notice sent. -/
def State.dieFenced (s : State) (d : Fin 12) (cause : Nat) : State :=
  (((((s.updDie d.val (fun x => x.lost cause)).dropUnits (dieUnits d.val)).fenceLink (.bondBase d)).peerDown (.bondBase d))).fenceNotice d.val

/-- The streams that a lost die's units held slots of, completed. -/
def State.dieCompleted (s : State) (d : Fin 12) (cause : Nat) : State :=
  (s.dieFenced d cause).forEach ((s.affected (dieUnits d.val)).map (fun n => (n, unitField (s.lowestHeld (dieUnits d.val) n)))) (fun t p => t.fencedCompletion p.1 p.2)

theorem State.computeDown_eq {s : State} {d : Fin 12} (h : s.computeUp d.val = true) (cause : Nat) :
    s.computeDown d.val cause = ((s.dieCompleted d cause).capChanged).record { kind := 0x11, code := S_DIE_DOWN, detail := [d.val] } := by
  unfold State.computeDown
  rw [dif_pos d.isLt, if_pos h]
  rfl

theorem State.capCount_onlyRegs (ready : Bool) (s : State) (b : Fin 3) : s.Regs (s.capCount ready b) := by
  unfold State.capCount
  split
  · exact (s.countWrap_onlyRegs _ _ _).trans (State.raise_onlyRegs _ _ _)
  · exact s.countWrap_onlyRegs _ _ _

/-- New capability values leave streams and links as they are. -/
theorem State.capChanged_frame (s : State) : s.capChanged.streams = s.streams ∧ s.capChanged.links = s.links := by
  have honly : s.Regs (s.forEach [0, 1, 2] (State.capCount s.start.ready)) := State.forEach_rel State.Regs.refl State.Regs.trans (State.capCount_onlyRegs s.start.ready) _ s
  rw [State.capChanged_eq, honly.of_regs]
  exact ⟨rfl, rfl⟩

section
variable (s : State) (d : Fin 12) (cause : Nat)

theorem State.dieFenced_link : ((s.dieFenced d cause).link (.bondBase d)).up = false ∧ ((s.dieFenced d cause).link (.bondBase d)).fenced = true := by
  obtain ⟨a, ha⟩ : ∃ a, a = ((s.updDie d.val (fun x => x.lost cause)).dropUnits (dieUnits d.val)).fenceLink (.bondBase d) := ⟨_, rfl⟩
  obtain ⟨hup, hfenced⟩ := ((s.updDie d.val (fun x => x.lost cause)).dropUnits (dieUnits d.val)).fenceLink_shut (.bondBase d)
  rw [← ha] at hup hfenced
  have hstand : ((s.dieFenced d cause).link (.bondBase d)).standing = (a.link (.bondBase d)).standing := by
    rw [State.dieFenced, ← ha]
    exact ((State.LinksStand.of_regs (a.raise_onlyRegs _ 2)).trans (State.LinksStand.fenceNotice _ d.val)) (.bondBase d)
  simp only [LinkSt.standing, Prod.mk.injEq] at hstand
  exact ⟨hstand.1.trans hup, hstand.2.1.trans hfenced⟩

theorem State.fenceNotice_sends (t : State) (n : Nat) : t.Sends (t.fenceNotice n) :=
  (State.forEach_rel State.Sends.refl State.Sends.trans (fun t e => t.offer_sends e _) _ t).trans ⟨_, _, _, rfl⟩

theorem State.fenceLink_sends (t : State) (e : LinkEnd) : t.Sends (t.fenceLink e) := by
  have hdrop (a : State) (e : LinkEnd) : a.Sends (a.dropFlits e) :=
    (a.setLink_sends e _).trans (State.forEach_rel State.Sends.refl State.Sends.trans (fun b _ => ⟨b.links, _, b.out, rfl⟩) _ _)
  exact ((t.setLink_sends _ _).trans (hdrop _ _)).trans ((State.setLink_sends _ _ _).trans (hdrop _ _))

theorem State.dieFenced_stream (m : Nat) : ((s.dieFenced d cause).stream m).st = (s.stream m).st := by
  rw [State.dieFenced, (State.fenceNotice_sends _ _).stream, State.peerDown, (State.raise_onlyRegs _ _ _).stream, (State.fenceLink_sends _ _).stream, State.dropUnits_stream]
  rfl

theorem State.dieCompleted_link : ((s.dieCompleted d cause).link (.bondBase d)).up = false ∧ ((s.dieCompleted d cause).link (.bondBase d)).fenced = true := by
  obtain ⟨hup, hfenced⟩ := s.dieFenced_link d cause
  have hstand := State.LinksStand.forEach (fun (t : State) (p : Nat × U16) => t.fencedCompletion_stands p.1 p.2)
    ((s.affected (dieUnits d.val)).map (fun n => (n, unitField (s.lowestHeld (dieUnits d.val) n)))) (s.dieFenced d cause) (.bondBase d)
  simp only [LinkSt.standing, Prod.mk.injEq] at hstand
  exact ⟨hstand.1.trans hup, hstand.2.1.trans hfenced⟩

theorem State.dieCompleted_fails {m : Nat} (hm : m ∈ s.affected (dieUnits d.val)) (hf : (s.stream m).fails) : (s.dieCompleted d cause).sunk m S_DIE_DOWN :=
  State.forEach_sinks (key := Prod.fst) S_DIE_DOWN (fun t p => t.fencedCompletion_ends p.1 p.2)
    (List.mem_map.mpr ⟨m, hm, rfl⟩) (Stream.fails_congr (s.dieFenced_stream d cause m) hf)

end

/-- What the loss of a compute die leaves at its base die's end. -/
structure State.DieGone (s t : State) (d : Fin 12) (cause : Nat) : Prop where
  die : (t.die d.val).up = false ∧ (t.die d.val).cause = cause
  link : (t.link (.bondBase d)).up = false ∧ (t.link (.bondBase d)).fenced = true
  mem : t.mem = s.mem
  record : ∃ r, t.log.getLast? = some r ∧ r.kind = 0x11 ∧ r.code = S_DIE_DOWN
  fails : ∀ m, m ∈ s.affected (dieUnits d.val) → (s.stream m).fails → (t.stream m).st = .failed ∧ (t.stream m).endStatus = S_DIE_DOWN

theorem State.computeDown_gone {s : State} {d : Fin 12} (h : s.computeUp d.val = true) (cause : Nat) : s.DieGone (s.computeDown d.val cause) d cause := by
  have hlost := State.computeDown_lost h cause
  have hmem := (s.computeDown_survives d.val cause).mem
  obtain ⟨hstreams, hlinks⟩ := (s.dieCompleted d cause).capChanged_frame
  have heq := State.computeDown_eq h cause
  obtain ⟨a, ha⟩ : ∃ a, a = (s.dieCompleted d cause).capChanged := ⟨_, rfl⟩
  rw [← ha] at heq hstreams hlinks
  refine ⟨by rw [hlost]; exact ⟨rfl, rfl⟩, ?_, hmem, ?_, fun m hm hf => ?_⟩
  · rw [heq, State.link_congr ((State.record_links a _).trans hlinks)]
    exact s.dieCompleted_link d cause
  · obtain ⟨r, hlast, -, hkind, hcode, -⟩ := a.record_recordedIn { kind := 0x11, code := S_DIE_DOWN, detail := [d.val] }
    rw [heq]
    exact ⟨r, hlast, hkind, hcode⟩
  · obtain ⟨hst, hend, -⟩ := s.dieCompleted_fails d cause hm hf
    rw [heq, State.stream_congr ((State.record_streams a _).trans hstreams)]
    exact ⟨hst, hend⟩

end Sys2Proof.Machine
end

section
/-! Proofs: the monitors' windows, resets and stand-alone link tests, and the settling of their statement (R462, R463, R467, R469 to R471, R478 to R483). -/

namespace Sys2Proof.Machine

/-! ### A bundle retired while others stay in use (R456) -/

theorem LinkSt.uses_iff {x : LinkSt} {b : Nat} : x.uses b = true ↔ x.enabled.testBit b = true ∧ x.retired.testBit b = false := by
  simp [LinkSt.uses]

theorem LinkSt.uses_congr {x y : LinkSt} (h : x.standing = y.standing) (b : Nat) : x.uses b = y.uses b := by
  simp only [LinkSt.standing, Prod.mk.injEq] at h
  obtain ⟨-, -, henabled, hretired⟩ := h
  rw [LinkSt.uses, LinkSt.uses, henabled, hretired]

theorem LinkSt.firstBundle_isSome {x : LinkSt} {n c : Nat} (hc : c < n) (h : x.uses c = true) : (x.firstBundle n).isNone = false := by
  rw [LinkSt.firstBundle, Option.isNone_eq_false_iff]
  exact List.find?_isSome.mpr ⟨c, List.mem_range.mpr hc, h⟩

/-- A bundle marked retired. -/
def LinkSt.retire (x : LinkSt) (b : Nat) : LinkSt := { x with retired := x.retired ||| 2 ^ b }

theorem LinkSt.retire_bit (x : LinkSt) (b : Nat) : (x.retire b).retired.testBit b = true := by
  simp [LinkSt.retire, Nat.testBit_or, Nat.testBit_two_pow_self]

theorem LinkSt.retire_uses {x : LinkSt} {b c : Nat} (hne : c ≠ b) (h : x.uses c = true) : (x.retire b).uses c = true := by
  obtain ⟨henabled, hretired⟩ := LinkSt.uses_iff.mp h
  refine LinkSt.uses_iff.mpr ⟨henabled, ?_⟩
  show (x.retired ||| 2 ^ b).testBit c = false
  rw [Nat.testBit_or, hretired, Nat.testBit_two_pow_of_ne (Ne.symm hne)]
  rfl

section
variable (s : State) (e : LinkEnd) (b : Nat)

/-- A bundle marked retired at both ends of its link. -/
def State.bothRetire : State := (s.setLink e ((s.link e).retire b)).setLink e.peer (((s.setLink e ((s.link e).retire b)).link e.peer).retire b)

theorem State.bothRetire_own : (s.bothRetire e b).link e = (s.link e).retire b := by
  rw [State.bothRetire, State.setLink_link, if_neg e.peer_num.symm, State.setLink_link, if_pos rfl]

theorem State.bothRetire_peer : ((s.bothRetire e b).link e.peer).retired.testBit b = true := by
  rw [State.bothRetire, State.setLink_link, if_pos rfl]
  exact LinkSt.retire_bit _ b

/-- A bundle's retirement shown at both ends and recorded. -/
def State.retireNoted (why : Nat) : State :=
  (((s.bothRetire e b).raise e.shown 1).raise e.peer.shown 1).record { kind := 0x10, unit := unitOther 10 e.num, detail := [e.num, b, why] }

/-- A bundle retired, its unacknowledged flits moved. -/
def State.bundleRetired (why : Nat) : State := ((s.retireNoted e b why).moveFlits e b).moveFlits e.peer b

theorem State.moveFlits_sends : s.Sends (s.moveFlits e b) := by
  unfold State.moveFlits
  extract_lets fs y s1 x
  have hbundle : s.Sends s1 := ⟨_, _, _, rfl⟩
  exact hbundle.trans ((s1.setLink_sends e _).trans (State.releaseHeld_sends _ e))

theorem State.retireBundle_eq {s : State} {e : LinkEnd} {b : Nat} (h : (s.link e).uses b = true) (why : Nat) :
    s.retireBundle e b why = if (((s.bundleRetired e b why).link e).firstBundle e.bundles).isNone then (s.bundleRetired e b why).dieDown e.farDie 3 else s.bundleRetired e b why :=
  if_pos h

variable (why : Nat)

/-- A retirement touches links, error registers and the log. -/
theorem State.bundleRetired_frame : (s.bundleRetired e b why).mem = s.mem ∧ (s.bundleRetired e b why).streams = s.streams ∧ (s.bundleRetired e b why).dies = s.dies := by
  have honly := ((s.bothRetire e b).raise_onlyRegs e.shown 1).trans (State.raise_onlyRegs _ e.peer.shown 1)
  have hlogs := (((s.bothRetire e b).raise e.shown 1).raise e.peer.shown 1).record_logs { kind := 0x10, unit := unitOther 10 e.num, detail := [e.num, b, why] }
  have hsends := ((s.retireNoted e b why).moveFlits_sends e b).trans (State.moveFlits_sends _ e.peer b)
  obtain ⟨_, _, _, hsends⟩ := hsends
  obtain ⟨_, _, _, hlogs⟩ := hlogs
  rw [State.bundleRetired, hsends, State.retireNoted, hlogs, honly.of_regs]
  exact ⟨rfl, rfl, rfl⟩

theorem State.bundleRetired_stands : (s.bothRetire e b).LinksStand (s.bundleRetired e b why) :=
  (((State.LinksStand.of_regs (((s.bothRetire e b).raise_onlyRegs e.shown 1).trans (State.raise_onlyRegs _ e.peer.shown 1))).trans
    (.of_links (State.record_links _ _))).trans (.moveFlits _ e b)).trans (.moveFlits _ e.peer b)

theorem State.bundleRetired_counts : s.Counts [] (s.bundleRetired e b why) ∧ ((s.bundleRetired e b why).reg e.shown offErrStat).getLsbD 1 = true := by
  obtain ⟨a, ha⟩ : ∃ a, a = (s.bothRetire e b).raise e.shown 1 := ⟨_, rfl⟩
  have hsends := ((s.retireNoted e b why).moveFlits_sends e b).trans (State.moveFlits_sends _ e.peer b)
  have hbefore : s.Counts [] a := ha ▸ (State.Counts.of_regs (s := s) (t := s.bothRetire e b) rfl).trans (State.raise_counts _ _ _)
  have hbit : (a.reg e.shown offErrStat).getLsbD 1 = true := ha ▸ State.raise_stat_set _ _ (by decide)
  have hnoted : s.retireNoted e b why = (a.raise e.peer.shown 1).record { kind := 0x10, unit := unitOther 10 e.num, detail := [e.num, b, why] } := by rw [ha]; rfl
  have hmoved : (s.bundleRetired e b why).regs = (s.retireNoted e b why).regs := by
    obtain ⟨_, _, _, hsends⟩ := hsends
    rw [State.bundleRetired, hsends]
  have hregs : (s.bundleRetired e b why).regs = (a.raise e.peer.shown 1).regs := hmoved.trans (by rw [hnoted, State.record_regs])
  have hafter : a.Counts [] (s.bundleRetired e b why) := (a.raise_counts e.peer.shown 1).trans (.of_regs hregs)
  exact ⟨hbefore.trans hafter, hafter.stat _ _ hbit⟩

end

/-- A bundle retired while another stays in use takes no die down. -/
theorem State.retireBundle_spec {s : State} {e : LinkEnd} {b c : Nat} (h : (s.link e).uses b = true) (hne : c ≠ b) (hlt : c < e.bundles)
    (hc : (s.link e).uses c = true) (why : Nat) : s.retireBundle e b why = s.bundleRetired e b why := by
  have huses : ((s.bundleRetired e b why).link e).uses c = true := by
    rw [LinkSt.uses_congr (s.bundleRetired_stands e b why e), State.bothRetire_own]
    exact LinkSt.retire_uses hne hc
  rw [State.retireBundle_eq h, LinkSt.firstBundle_isSome hlt huses]
  rfl

theorem State.bundleRetired_bits (s : State) (e : LinkEnd) (b why : Nat) :
    ((s.bundleRetired e b why).link e).retired.testBit b = true ∧ ((s.bundleRetired e b why).link e.peer).retired.testBit b = true := by
  have hstand := s.bundleRetired_stands e b why
  have hown := hstand e
  have hpeer := hstand e.peer
  simp only [LinkSt.standing, Prod.mk.injEq] at hown hpeer
  rw [hown.2.2.2, hpeer.2.2.2, State.bothRetire_own]
  exact ⟨LinkSt.retire_bit _ b, s.bothRetire_peer e b⟩

/-! ### A window of the clock monitors (R462, R464) -/

section
variable {s : State} {e : LinkEnd} {edges : List Nat} {expected : Nat} (hup : (s.link e).up = true) (hopen : (s.link e).fenced = false)
include hup hopen

theorem resetNotice_lost : exec (.resetNoticeReceived e) s = .next (s.peerLost e 2) :=
  congrArg Host.Outcome.next (if_pos (by simp [hup, hopen]))

section
variable (hrun : s.pwr.st = .run) (hchange : s.pwr.change = none)
include hrun hchange

theorem monitors_watch : (s.monitorsOn && (s.link e).up && !(s.link e).fenced) = true := by simp [State.monitorsOn, hrun, hchange, hup, hopen]

/-- The state in which a short window has been counted. -/
theorem clockWindow_short (hshort : allShort edges expected = true) :
    exec (.clockMonitorWindow e edges expected) s = .next (if 2 ≤ (s.link e).short + 1 then
      (s.setLink e { s.link e with short := (s.link e).short + 1, peerClk := false }).peerLost e 1
      else s.setLink e { s.link e with short := (s.link e).short + 1, peerClk := false }) :=
  congrArg Host.Outcome.next ((if_pos (monitors_watch hup hopen hrun hchange)).trans (if_pos hshort))

theorem clockWindow_clear (hshort : allShort edges expected = false) :
    exec (.clockMonitorWindow e edges expected) s = .next ((s.setLink e { s.link e with short := 0, peerClk := true }).forEach (stoppedClocks edges)
      (fun t b => if (t.link e).uses b then t.clockStopped e b else t)) :=
  congrArg Host.Outcome.next ((if_pos (monitors_watch hup hopen hrun hchange)).trans (if_neg (by simp [hshort])))

end

theorem clockWindow_hold (hhold : s.pwr.st = .hold) (hchange : s.pwr.change = none) :
    exec (.clockMonitorWindow e edges expected) s = .next (s.setLink e { s.link e with short := if allShort edges expected then (s.link e).short + 1 else 0 }) :=
  congrArg Host.Outcome.next ((if_neg (by simp [State.monitorsOn, hhold])).trans (if_pos ⟨hhold, hchange, hup, hopen⟩))

end

theorem State.setLink_same (s : State) (e : LinkEnd) (x : LinkSt) : (s.setLink e x).link e = x := by rw [State.setLink_link, if_pos rfl]

theorem stoppedClocks_none {edges : List Nat} (h : ∀ n, n ∈ edges → n ≠ 0) : stoppedClocks edges = [] := by
  refine List.filter_eq_nil_iff.mpr fun i hi hzero => ?_
  have hlt := List.mem_range.mp hi
  refine h edges[i] (List.getElem_mem hlt) ?_
  simpa [List.getD_eq_getElem?_getD, hlt] using hzero

/-- A forwarded clock that stops retires its bundle, shown as a lane failure. -/
theorem State.clockStopped_eq (s : State) (e : LinkEnd) (b : Nat) : ∃ v, s.clockStopped e b = ((s.draw.setReg e.shown 0x054 v).raise e.shown 0).retireBundle e b causeClock := ⟨_, rfl⟩

/-- One stopped clock of a link with another bundle in use. -/
theorem State.clockStopped_spec {s : State} {e : LinkEnd} {b c : Nat} (h : (s.link e).uses b = true) (hne : c ≠ b) (hlt : c < e.bundles) (hc : (s.link e).uses c = true) :
    let t := s.clockStopped e b
    (t.link e).retired.testBit b = true ∧ (t.link e.peer).retired.testBit b = true ∧ (t.reg e.shown offErrStat).getLsbD 0 = true ∧
      (t.reg e.shown offErrStat).getLsbD 1 = true ∧ t.mem = s.mem ∧ t.streams = s.streams ∧ t.dies = s.dies := by
  intro t
  obtain ⟨v, hv⟩ := s.clockStopped_eq e b
  obtain ⟨a, ha⟩ : ∃ a, a = (s.draw.setReg e.shown 0x054 v).raise e.shown 0 := ⟨_, rfl⟩
  have honly : s.draw.Regs a := ha ▸ (s.draw.setReg_onlyRegs _ _ _).trans (State.raise_onlyRegs _ _ _)
  have hlink (g : LinkEnd) : a.link g = s.link g := by
    obtain ⟨_, h⟩ := honly
    rw [h]
    rfl
  have hbit : (a.reg e.shown offErrStat).getLsbD 0 = true := ha ▸ State.raise_stat_set _ _ (by decide)
  have ht : t = a.bundleRetired e b causeClock := by
    show s.clockStopped e b = _
    rw [hv, ← ha]
    exact State.retireBundle_spec (by rwa [hlink]) hne hlt (by rwa [hlink]) _
  obtain ⟨hown, hpeer⟩ := a.bundleRetired_bits e b causeClock
  obtain ⟨hcounts, hshown⟩ := a.bundleRetired_counts e b causeClock
  obtain ⟨hmem, hstreams, hdies⟩ := a.bundleRetired_frame e b causeClock
  rw [← ht] at hown hpeer hcounts hshown hmem hstreams hdies
  obtain ⟨_, honly⟩ := honly
  exact ⟨hown, hpeer, hcounts.stat _ _ hbit, hshown, hmem.trans (by rw [honly]; rfl), hstreams.trans (by rw [honly]; rfl), hdies.trans (by rw [honly]; rfl)⟩

section
variable {s : State} {e : LinkEnd} {edges : List Nat} {expected : Nat} (hup : (s.link e).up = true) (hopen : (s.link e).fenced = false)
  (hrun : s.pwr.st = .run) (hchange : s.pwr.change = none)
include hup hopen hrun hchange

theorem clockWindow_first (hshort : allShort edges expected = true) (hfirst : (s.link e).short = 0) :
    exec (.clockMonitorWindow e edges expected) s = .next (s.setLink e { s.link e with short := 1, peerClk := false }) := by
  rw [clockWindow_short hup hopen hrun hchange hshort, hfirst]
  rfl

/-- The second short window in a row. -/
theorem clockWindow_second (hshort : allShort edges expected = true) (hsecond : 1 ≤ (s.link e).short) :
    exec (.clockMonitorWindow e edges expected) s = .next ((s.setLink e { s.link e with short := (s.link e).short + 1, peerClk := false }).peerLost e 1) := by
  rw [clockWindow_short hup hopen hrun hchange hshort, if_pos (by omega)]

/-- One forwarded clock alone has stopped. -/
theorem clockWindow_one {b : Nat} (hshort : allShort edges expected = false) (hstopped : stoppedClocks edges = [b]) (hb : (s.link e).uses b = true) :
    exec (.clockMonitorWindow e edges expected) s = .next ((s.setLink e { s.link e with short := 0, peerClk := true }).clockStopped e b) := by
  have huses : ((s.setLink e { s.link e with short := 0, peerClk := true }).link e).uses b = true := by
    rw [State.setLink_same]
    exact hb
  rw [clockWindow_clear hup hopen hrun hchange hshort, hstopped]
  exact congrArg Host.Outcome.next (if_pos huses)

end

/-! ### Stand-alone link tests (R478 to R480) -/

theorem State.loopReady_iff (s : State) (e : LinkEnd) :
    s.loopReady e = true ↔ s.field e.shown 0x058 0 2 = 1 ∨ s.field e.shown 0x058 0 2 = 2 ∧ s.farReady e = true := by
  simp [State.loopReady]

/-- The result of a link test. -/
def LaneErrors.pass (errs : LaneErrors) (logic sram : Bool) : Bool :=
  logic && sram && (errs.run.map (fun p => (laneNumber p.1 p.2.1 p.2.2.1, p.2.2.2))).all (fun p => decide (p.2 = 0))

theorem LaneErrors.pass_iff {errs : LaneErrors} {logic sram : Bool} : errs.pass logic sram = true ↔ logic = true ∧ sram = true ∧ ∀ p, p ∈ errs.run → p.2.2.2 = 0 := by
  simp only [LaneErrors.pass, Bool.and_eq_true, List.all_map, List.all_eq_true, Function.comp, decide_eq_true_eq, and_assoc]

/-- A link end with the results of a test. -/
def LinkSt.withResults (x : LinkSt) (errs : LaneErrors) (logic sram : Bool) : LinkSt :=
  { x with testErrs := errs.run.map (fun p => (laneNumber p.1 p.2.1 p.2.2.1, p.2.2.2)), testMargin := errs.margin.map (fun p => (laneNumber p.1 p.2.1 p.2.2.1, p.2.2.2.1.val, p.2.2.2.2))
           testLogic := logic, testSram := sram }

theorem linkTestDone_eq {s : State} {e : LinkEnd} (h : (s.reg e.shown 0x058).getLsbD 2 = true) (errs : LaneErrors) (logic sram : Bool) :
    exec (.linkTestDone e errs logic sram) s = .next ((s.setLink e.tested ((s.link e.tested).withResults errs logic sram)).setBits e.shown 0x058 (if errs.pass logic sram then 0x18 else 0x08) 0x1C) :=
  congrArg Host.Outcome.next (if_pos h)

/-- TEST_CTRL once a run has ended: RUN clear, DONE set, PASS where nothing failed. -/
theorem testEnded_bits (old : U32) (pass : Bool) :
    let v := mergeBits old (if pass then 0x18 else 0x08) 0x1C
    v.getLsbD 2 = false ∧ v.getLsbD 3 = true ∧ v.getLsbD 4 = pass := by
  intro v
  have hbit {i : Nat} (hi : i < 32) (hmask : Nat.testBit 0x1C i = true) : v.getLsbD i = (if pass then (0x18 : U32) else 0x08).getLsbD i := by
    rw [mergeBits_bit _ _ _ hi, if_pos hmask]
  rw [hbit (i := 2) (by decide) (by decide), hbit (i := 3) (by decide) (by decide), hbit (i := 4) (by decide) (by decide)]
  cases pass <;> decide

theorem linkTestDone_spec {s : State} {e : LinkEnd} (h : (s.reg e.shown 0x058).getLsbD 2 = true) (errs : LaneErrors) (logic sram : Bool) :
    ∃ t, exec (.linkTestDone e errs logic sram) s = .next t ∧ s.regsKept t [e.shown.base + 0x058] ∧ t.link e.tested = (s.link e.tested).withResults errs logic sram ∧
      (t.reg e.shown 0x058).getLsbD 2 = false ∧ (t.reg e.shown 0x058).getLsbD 3 = true ∧ (t.reg e.shown 0x058).getLsbD 4 = errs.pass logic sram ∧
      t = { s with regs := t.regs, links := t.links } := by
  obtain ⟨a, ha⟩ : ∃ a, a = s.setLink e.tested ((s.link e.tested).withResults errs logic sram) := ⟨_, rfl⟩
  obtain ⟨hset, hkept, hframe⟩ := a.setBits_spec e.shown 0x058 (if errs.pass logic sram then 0x18 else 0x08) 0x1C
  have hexec := linkTestDone_eq h errs logic sram
  rw [← ha] at hexec
  have hregs : a.regs = s.regs := ha ▸ rfl
  refine ⟨_, hexec, (State.regsKept_of_regs hregs _).trans hkept, ?_, ?_⟩
  · rw [hframe, ha]
    exact State.setLink_same s _ _
  · obtain ⟨hrun, hdone, hpass⟩ := testEnded_bits (a.reg e.shown 0x058) (errs.pass logic sram)
    rw [hset]
    refine ⟨hrun, hdone, hpass, ?_⟩
    subst ha
    rfl

/-! ### The injection of a failed lane (R483) -/

theorem injectLaneFail_eq {s : State} {e : LinkEnd} {pg : Page} (hpage : e.page = some pg) : exec (.injectLaneFail e) s = .next (if s.writes pg then s.arm pg 0 else s) := by
  refine (show exec (.injectLaneFail e) s = execInjectLaneFail e s from rfl).trans ?_
  rw [execInjectLaneFail, hpage]

theorem injectLaneFail_nowhere {s : State} {e : LinkEnd} (hpage : e.page = none) : exec (.injectLaneFail e) s = .next s := by
  refine (show exec (.injectLaneFail e) s = execInjectLaneFail e s from rfl).trans ?_
  rw [execInjectLaneFail, hpage]

/-- Settles O53: by `computeDown_gone` where a peer is lost, by `clockStopped_spec` where one clock stops, and by the bits of TEST_CTRL for the tests. -/
theorem lostPeersAndLinkTests : Obligations.LostPeersAndLinkTests := by
  unfold Obligations.LostPeersAndLinkTests
  refine ⟨fun e edges expected s => ?_, fun e s => ⟨fun hmode hloop => ?_, fun hnot => ?_, s.loopReady_iff e, fun errs logic sram hruns => ?_, fun pg hpage => ?_,
    injectLaneFail_nowhere⟩⟩
  · intro x short gone hup hopen
    refine ⟨fun hrun hchange => ⟨fun hshort hfirst => ?_, fun hshort hnonzero => ?_, fun d hshort hsecond he hd => ?_, fun d hshort hsecond he => ?_,
      fun b c hshort hstopped hb hne hlt hc => ?_⟩, fun hhold hchange => ?_, fun d he hd => ?_, fun d he => ?_, fun b hfar hpage hb => ?_⟩
    · exact ⟨_, clockWindow_first hup hopen hrun hchange hshort hfirst, State.setLink_same s e _, rfl⟩
    · have hexec := clockWindow_clear hup hopen hrun hchange (edges := edges) (expected := expected) hshort
      rw [stoppedClocks_none hnonzero] at hexec
      exact ⟨_, hexec, State.setLink_same s e _, rfl⟩
    · subst he
      obtain ⟨⟨hdown, hcause⟩, ⟨hlink, hfenced⟩, hmem, hrecord, hfails⟩ :=
        State.computeDown_gone (s := s.setLink (.bondBase d) { s.link (.bondBase d) with short := (s.link (.bondBase d)).short + 1, peerClk := false }) hd 1
      exact ⟨_, clockWindow_second hup hopen hrun hchange hshort hsecond, hdown, hcause, hlink, hfenced, hmem, hrecord, hfails⟩
    · subst he
      refine ⟨_, clockWindow_second hup hopen hrun hchange hshort hsecond, ?_, rfl⟩
      exact (State.updDie_die _ d.val d.val _).trans (if_pos rfl)
    · have hlink := State.setLink_same s e { s.link e with short := 0, peerClk := true }
      obtain ⟨hown, hpeer, hfail, hretired, hmem, hstreams, hdies⟩ := State.clockStopped_spec (s := s.setLink e { s.link e with short := 0, peerClk := true }) (e := e) (b := b.val) (c := c.val)
        (by rw [hlink]; exact hb) (fun h => hne (Fin.ext h)) hlt (by rw [hlink]; exact hc)
      exact ⟨_, clockWindow_one hup hopen hrun hchange hshort hstopped hb, hown, hpeer, hfail, hretired, hmem, hstreams, hdies⟩
    · exact ⟨_, clockWindow_hold hup hopen hhold hchange, State.setLink_same s e _, rfl⟩
    · subst he
      obtain ⟨⟨hdown, hcause⟩, ⟨hlink, hfenced⟩, hmem, hrecord, hfails⟩ := State.computeDown_gone hd 2
      exact ⟨_, resetNotice_lost hup hopen, hdown, hcause, hlink, hfenced, hmem, hrecord, hfails⟩
    · subst he
      refine ⟨_, resetNotice_lost hup hopen, (State.updDie_die s d.val d.val _).trans (if_pos rfl), fun k hk => ?_, rfl⟩
      exact (State.updDie_die s d.val k _).trans (if_neg (by simpa using hk))
    · have hlost : s.peerLost e 2 = s.baseDown b.val 2 := by
        cases e with
        | rdl r => exact congrArg (fun d => s.dieDown d 2) hfar
        | bondBase d => exact absurd hfar (by simp [LinkEnd.far, LinkEnd.peer, LinkEnd.own])
        | bondDie d => exact absurd rfl hpage
      have hmem := (s.dieDown_survives (.base b) 2).mem
      exact ⟨_, (resetNotice_lost hup hopen).trans (congrArg Host.Outcome.next hlost), s.baseDown_down b.val 2, hmem⟩
  · exact ⟨_, congrArg Host.Outcome.next (if_pos (by simp [hmode, hloop])), s.setBits_spec e.shown 0x058 0x4 0x1C⟩
  · exact congrArg Host.Outcome.next (if_neg (by rcases hnot with h | h <;> simp [h]))
  · obtain ⟨t, hexec, hkept, hlink, hrun, hdone, hpass, hframe⟩ := linkTestDone_spec hruns errs logic sram
    rw [← LaneErrors.pass_iff]
    exact ⟨t, hexec, hkept, by rw [hlink]; rfl, by rw [hlink]; rfl, by rw [hlink]; rfl, by rw [hlink]; rfl, hrun, hdone, by rw [hpass], hframe⟩
  · refine ⟨fun hwrites => ⟨_, (injectLaneFail_eq hpage).trans (congrArg Host.Outcome.next (if_pos hwrites)), s.arm_zero_spec pg⟩, fun hwrites => ?_⟩
    exact (injectLaneFail_eq hpage).trans (congrArg Host.Outcome.next (if_neg (by simp [hwrites])))

end Sys2Proof.Machine
end

section
/-! Proofs: budgets and reports between the dies, and the settling of their statement (R465 to R468, R478, R491, R493, R506). -/

namespace Sys2Proof.Machine

/-! ### What a message leaves of what has been sent (R453) -/

theorem State.sendFlit_out (s : State) (e : LinkEnd) (b kind : Nat) (payload : List U8) : s.out <+: (s.sendFlit e b kind payload).out := by
  unfold State.sendFlit
  dsimp only
  split
  · exact ⟨_, rfl⟩
  · exact ⟨[], List.append_nil _⟩

theorem State.tryMessage_out {s t : State} {e : LinkEnd} {m : HeldMsg} (h : s.tryMessage e m = some t) : s.out <+: t.out := by
  unfold State.tryMessage at h
  dsimp only at h
  split at h
  · split at h
    · obtain rfl := Option.some.inj h
      exact State.sendFlit_out (s.setLink e _) _ _ _ _
    · cases h
  · cases h

theorem State.releaseHeld_out (s : State) (e : LinkEnd) : s.out <+: (s.releaseHeld e).out := by
  refine State.forEach_rel (R := fun a b => a.out <+: b.out) (fun a => ⟨[], List.append_nil a.out⟩) (fun h k => h.trans k) (fun t m => ?_) _ (s.setLink e { s.link e with held := [] })
  split
  case h_1 _ t1 ht => exact State.tryMessage_out ht
  case h_2 => exact ⟨[], List.append_nil t.out⟩

theorem State.sendMessage_out (s : State) (e : LinkEnd) (payload : List U8) : s.out <+: (s.sendMessage e payload).out := State.releaseHeld_out (s.setLink e _) e

/-- A step that sends `o`, and nothing before it. -/
def State.SendsFirst (s : State) (o : Out) (t : State) : Prop :=
  t.out.take s.out.length = s.out ∧ t.out[s.out.length]? = some o ∧ t.dies = s.dies ∧ t = { s with out := t.out, links := t.links, bundles := t.bundles }

theorem State.SendsFirst.emit (s : State) (o : Out) : s.SendsFirst o (s.emit o) := ⟨by simp [State.emit], by simp [State.emit], rfl, rfl⟩

theorem State.SendsFirst.emit_sendMessage (s : State) (o : Out) (e : LinkEnd) (payload : List U8) : s.SendsFirst o ((s.emit o).sendMessage e payload) := by
  obtain ⟨more, hmore⟩ := (s.emit o).sendMessage_out e payload
  have hout : ((s.emit o).sendMessage e payload).out = s.out ++ o :: more := by
    rw [← hmore, State.emit, List.append_assoc]
    rfl
  have hsends : (s.emit o).Sends ((s.emit o).sendMessage e payload) := State.offer_sends _ e _
  refine ⟨by simp [hout], by simp [hout], hsends.dies, ?_⟩
  obtain ⟨_, _, _, h⟩ := hsends
  rw [h]
  rfl

/-! ### One die's record (R465, R466) -/

/-- Nothing changes but the record of die `k`, which is now `y`. -/
def State.dieOnly (s t : State) (k : Nat) (y : DieSt) : Prop := t.die k = y ∧ keptBut s.die t.die [k] ∧ t = { s with dies := t.dies }

theorem State.setDie_keptBut (s : State) (k : Nat) (y : DieSt) : keptBut s.die (s.setDie k y).die [k] :=
  fun j hj => (s.setDie_die k j y).trans (if_neg (by simpa using hj))

theorem State.setDie_dieOnly (s : State) (k : Nat) (y : DieSt) : s.dieOnly (s.setDie k y) k y := ⟨s.setDie_same k y, s.setDie_keptBut k y, rfl⟩

/-- Whether a die is a compute die. -/
def Die.computes : Die → Bool
  | .compute _ => true
  | .base _ => false

section
variable {s : State} {d : Die} (hup : (s.die d.num).up = true)
include hup

/-! ### Budgets (R465, R466, R493) -/

/-- A compute die that takes the controller's step and duty, or its own where its temperature holds it lower. -/
def DieSt.follows (x : DieSt) (p : PowerSt) : DieSt :=
  if x.hot then { x with step := max x.step p.step, duty := min x.duty p.duty } else { x with step := p.step, duty := p.duty }

theorem budgetReceived_eq (htest : (s.die d.num).test = false) (hstopped : (s.die d.num).stopped = false) (m : Budget) :
    exec (.budgetReceived d m) s = .next (s.setDie d.num (match d with
      | .compute _ => { s.die d.num with applied := m, fallback := false }.follows s.pwr
      | .base _ => { s.die d.num with applied := m, fallback := false })) :=
  congrArg Host.Outcome.next ((if_pos (by simp [hup, htest, hstopped])).trans (by cases d <;> rfl))

variable (htest : (s.die d.num).test = false)
include htest

/-- A repeated budget goes out before anything else, over Tolium's link or on to the compute die. -/
theorem budgetRepeat_sends : ∃ t, exec (.budgetRepeat d) s = .next t ∧ s.SendsFirst (.budget d.num (s.die d.num).sent) t := by
  refine ⟨_, congrArg Host.Outcome.next (if_pos (by simp [hup, htest])), ?_⟩
  unfold State.putBudget
  dsimp only
  split
  · split
    · exact .emit_sendMessage s _ _ _
    · exact .emit s _
  · exact .emit s _

/-! ### Reports (R465, R491, R493) -/

theorem reportSend_sends (w : U16) (c : U8) : ∃ t, exec (.reportSend d w c) s = .next t ∧ s.SendsFirst (.report d.num ((s.die d.num).report d.computes w c)) t := by
  refine ⟨_, congrArg Host.Outcome.next (if_pos (by simp [hup, htest])), ?_⟩
  cases d with
  | compute k => exact .emit_sendMessage s _ _ _
  | base b => exact .emit s _

end

theorem dutyByte_toNat {n : Nat} (h : n ≤ 256) : (dutyByte n).toNat = min 255 n := by
  unfold dutyByte
  split
  · rw [min_eq_left (by assumption)]
    rfl
  · rw [BitVec.toNat_ofNat]
    omega

theorem stepMhz_toNat (k : Nat) : (BitVec.ofNat 16 (stepMhz k)).toNat = 2100 - 25 * k := by
  rw [BitVec.toNat_ofNat, stepMhz]
  omega

/-- Duty and clock of a report, by the kind of die. -/
theorem DieSt.report_speed (x : DieSt) (compute : Bool) (w : U16) (c : U8) : let m := x.report compute w c
    (compute = true → x.duty ≤ 256 → m.duty.toNat = min 255 x.duty) ∧ (compute = true → x.step ≤ 56 → m.clkMhz.toNat = 2100 - 25 * x.step) ∧
      (compute = false → m.duty = 255 ∧ m.clkMhz = 1600) := by
  cases compute with
  | true => exact ⟨fun _ => dutyByte_toNat, fun _ _ => stepMhz_toNat _, fun h => Bool.noConfusion h⟩
  | false => exact ⟨fun h => Bool.noConfusion h, fun h => Bool.noConfusion h, fun _ => ⟨rfl, rfl⟩⟩

/-- The flags of a report, one bit each. -/
theorem DieSt.report_flags (x : DieSt) (compute : Bool) (w : U16) (c : U8) : let r := (x.report compute w c).rflags
    (r.getLsbD 0 = true ↔ x.applied.limitW8.toNat ≤ w.toNat) ∧ r.getLsbD 1 = x.hot ∧ r.getLsbD 2 = x.fallback ∧ r.toNat < 8 := by
  unfold DieSt.report
  dsimp only
  by_cases hlimit : x.applied.limitW8.toNat ≤ w.toNat <;> cases x.hot <;> cases x.fallback <;> simp [hlimit]

/-- The figures the controller takes over, and the error bit of a die that runs by itself. -/
def State.reported (s : State) (d : Die) (m : DieReport) : State :=
  let s1 := s.updDie d.num (fun x => { x with rep := m })
  if m.rflags.getLsbD 2 then (match d with | .compute c => s1.raise (.bnd c) 4 | .base _ => s1.raise .swl 1) else s1

theorem reportReceived_eq {s : State} {d : Die} (hup : (s.die d.num).up = true) (m : DieReport) : exec (.reportReceived d m) s = .next (s.reported d m) :=
  congrArg Host.Outcome.next (if_pos hup)

theorem State.reported_onlyRegs (s : State) (d : Die) (m : DieReport) : (s.updDie d.num (fun x => { x with rep := m })).Regs (s.reported d m) := by
  unfold State.reported
  dsimp only
  split
  · cases d <;> exact State.raise_onlyRegs _ _ _
  · exact ⟨_, rfl⟩

/-- A report touches its die's record and the error registers. -/
theorem State.reported_frame (s : State) (d : Die) (m : DieReport) :
    (s.reported d m).die d.num = { s.die d.num with rep := m } ∧ keptBut s.die (s.reported d m).die [d.num] ∧ s.reported d m = { s with dies := (s.reported d m).dies, regs := (s.reported d m).regs } := by
  obtain ⟨_, h⟩ := s.reported_onlyRegs d m
  rw [h]
  exact ⟨s.setDie_same d.num _, s.setDie_keptBut d.num _, rfl⟩

theorem State.reported_quiet (s : State) (d : Die) {m : DieReport} (h : m.rflags.getLsbD 2 = false) : (s.reported d m).regs = s.regs := by
  have heq : s.reported d m = s.updDie d.num (fun x => { x with rep := m }) := if_neg (Bool.eq_false_iff.mp h)
  rw [heq]
  rfl

theorem State.reported_raised (s : State) (d : Die) {m : DieReport} (h : m.rflags.getLsbD 2 = true) :
    (∀ c, d = .compute c → s.raisedIn (s.reported d m) (.bnd c) 4) ∧ (∀ b, d = .base b → s.raisedIn (s.reported d m) .swl 1) := by
  constructor
  · rintro c rfl
    have heq : s.reported (.compute c) m = (s.updDie c.val (fun x => { x with rep := m })).raise (.bnd c) 4 := if_pos h
    rw [heq]
    exact (s.updDie c.val _).raise_raisedIn (.bnd c) 4
  · rintro b rfl
    have heq : s.reported (.base b) m = (s.updDie (12 + b.val) (fun x => { x with rep := m })).raise .swl 1 := if_pos h
    rw [heq]
    exact (s.updDie (12 + b.val) _).raise_raisedIn .swl 1

/-! ### A die without budgets (R466 to R468) -/

/-- A die that applies the limit `floor` by itself. -/
def DieSt.fallen (x : DieSt) (floor : Nat) : DieSt := { x with fallback := true, applied := { x.applied with limitW8 := BitVec.ofNat 16 floor } }

section
variable {s : State} {c : Fin 12} (hup : (s.die c.val).up = true) (htest : (s.die c.val).test = false)
include hup htest

theorem budgetFallback_compute : exec (.budgetFallback (.compute c)) s = .next (
    if s.baseUp (c.val / 4) then
      if BitVec.ofNat 16 (s.floorOf (.compute c)) < (s.die c.val).applied.limitW8 then s.draw.setDie c.val (((s.die c.val).fallen (s.floorOf (.compute c))).slowed s.free)
      else s.setDie c.val ((s.die c.val).fallen (s.floorOf (.compute c)))
    else s.setDie c.val { s.die c.val with stopped := true }) :=
  congrArg Host.Outcome.next (if_pos (by simp [Die.num, hup, htest]))

theorem budgetFallback_stops (hbase : s.baseUp (c.val / 4) = false) : exec (.budgetFallback (.compute c)) s = .next (s.setDie c.val { s.die c.val with stopped := true }) := by
  rw [budgetFallback_compute hup htest, if_neg (by simp [hbase])]

variable (hbase : s.baseUp (c.val / 4) = true)
include hbase

theorem budgetFallback_falls (hlimit : ¬ BitVec.ofNat 16 (s.floorOf (.compute c)) < (s.die c.val).applied.limitW8) :
    exec (.budgetFallback (.compute c)) s = .next (s.setDie c.val ((s.die c.val).fallen (s.floorOf (.compute c)))) := by
  rw [budgetFallback_compute hup htest, if_pos hbase, if_neg hlimit]

theorem budgetFallback_slows (hlimit : BitVec.ofNat 16 (s.floorOf (.compute c)) < (s.die c.val).applied.limitW8) :
    exec (.budgetFallback (.compute c)) s = .next (s.draw.setDie c.val (((s.die c.val).fallen (s.floorOf (.compute c))).slowed s.free)) := by
  rw [budgetFallback_compute hup htest, if_pos hbase, if_pos hlimit]

end

theorem budgetFallback_base {s : State} {b : Fin 3} (hup : (s.die (12 + b.val)).up = true) (htest : (s.die (12 + b.val)).test = false) :
    exec (.budgetFallback (.base b)) s = .next (s.setDie (12 + b.val) ((s.die (12 + b.val)).fallen (s.floorOf (.base b)))) :=
  congrArg Host.Outcome.next (if_pos (by simp [Die.num, hup, htest]))

/-- A die that slows down by its own choice runs no faster, and within the range of step and duty. -/
theorem DieSt.slowed_spec {x y : DieSt} {free : Nat} (h : y = x.slowed free) (hstep : x.step ≤ 56) (hduty : 64 ≤ x.duty) :
    y = { x with step := y.step, duty := y.duty } ∧ x.step ≤ y.step ∧ y.step ≤ 56 ∧ 64 ≤ y.duty ∧ y.duty ≤ x.duty := by
  obtain ⟨k, hk⟩ : ∃ k, k = Config.freePick free := ⟨_, rfl⟩
  have hmore : k % (57 - min 56 x.step) < 57 - x.step := by
    rw [min_eq_right hstep]
    exact Nat.mod_lt _ (by omega)
  have hless : k / 57 % (x.duty - min x.duty 64 + 1) < x.duty - 64 + 1 := by
    rw [min_eq_right hduty]
    exact Nat.mod_lt _ (by omega)
  subst h
  refine ⟨rfl, ?_⟩
  unfold DieSt.slowed
  dsimp only
  rw [← hk]
  omega

/-- Settles O54: one equation for each command and kind of die, messages sent by `State.SendsFirst`, records written by `State.dieOnly`. -/
theorem budgetsAndReports : Obligations.BudgetsAndReports := by
  unfold Obligations.BudgetsAndReports
  intro d s x compute floor only hup
  refine ⟨fun m htest hstopped => ?_, fun htest => ?_, fun w c htest => ?_, fun m => ?_, fun htest => ?_⟩
  · refine ⟨_, budgetReceived_eq hup htest hstopped m, ?_⟩
    cases d <;> exact State.setDie_dieOnly s _ _
  · exact budgetRepeat_sends hup htest
  · obtain ⟨t, hexec, hbefore, hfirst, -, hframe⟩ := reportSend_sends hup htest w c
    obtain ⟨hduty, hclock, hbase⟩ := x.report_speed d.computes w c
    exact ⟨t, hexec, hbefore, ⟨_, hfirst, rfl, rfl, rfl, hduty, hclock, hbase, x.report_flags d.computes w c⟩, hframe⟩
  · obtain ⟨hdie, hkept, hframe⟩ := s.reported_frame d m
    exact ⟨_, reportReceived_eq hup m, hdie, hkept, hframe, s.reported_quiet d, s.reported_raised d⟩
  · cases d with
    | base b =>
      refine ⟨_, budgetFallback_base hup htest, fun h => Bool.noConfusion h, fun _ => s.setDie_dieOnly _ _, fun h => Bool.noConfusion h⟩
    | compute c =>
      by_cases hbase : s.baseUp (c.val / 4) = true
      · by_cases hlimit : BitVec.ofNat 16 (s.floorOf (.compute c)) < (s.die c.val).applied.limitW8
        · refine ⟨_, budgetFallback_slows hup htest hbase hlimit, fun _ h => Bool.noConfusion (hbase.symm.trans h), ?_, fun _ _ _ hstep hduty => ?_⟩
          · rintro (h | ⟨-, h⟩)
            · exact Bool.noConfusion h
            · exact absurd hlimit h
          · obtain ⟨hdie, hslower, hbottom, hleast, hlower⟩ :=
              DieSt.slowed_spec (s.draw.setDie_same c.val _) (x := (s.die c.val).fallen (s.floorOf (.compute c))) (free := s.free) hstep hduty
            exact ⟨hdie, hslower, hbottom, hleast, hlower, s.draw.setDie_keptBut c.val _, rfl⟩
        · exact ⟨_, budgetFallback_falls hup htest hbase hlimit, fun _ h => Bool.noConfusion (hbase.symm.trans h), fun _ => s.setDie_dieOnly _ _, fun _ _ h => absurd h hlimit⟩
      · have hdown := Bool.eq_false_iff.mpr hbase
        refine ⟨_, budgetFallback_stops hup htest hdown, fun _ _ => s.setDie_dieOnly _ _, ?_, fun _ h => absurd h hbase⟩
        rintro (h | ⟨h, -⟩)
        · exact Bool.noConfusion h
        · exact absurd h hbase

end Sys2Proof.Machine
end

section
/-! Proofs: flits of the package's links (R450 to R456). O52 fails in two places, both shown here, at states that it does not exclude and that the spec does not know.

Bundles are listed under 16 times the number of their link end and their own number, so that bundle 16 of one end is bundle 0 of the next. R450 gives a link at most 16 bundles; the statement bounds its own bundle, and not those that a link's mask and its record of placed streams name. The clause on the replay limit then fails: what waits at the far end may go out on the bundle just retired.

The clause on a good flit has the list of links as it was. The model writes the end back, which puts the list in its canonical form; of a list that is not in it the statement says the same. -/

namespace Sys2Proof.Machine

/-- A link end of which bundles 0 and 1 are in use. -/
def twoBundles : LinkSt := { LinkSt.down with up := true, enabled := 3 }

namespace PlacedBeyond

/-- An end that has placed stream 5 on a bundle 16, and holds a message of it. -/
def peer : LinkSt := { twoBundles with enabled := 2 ^ 16 + 3, places := [(5, 16)], held := [⟨some 5, none, 0, []⟩] }

/-- RDL 0 is that end; at RDL 1 bundle 0 keeps a flit after 64 replays. -/
def state : State := { State.reset with links := [(0, peer), (1, twoBundles)], bundles := [(16, ⟨1, 1, [⟨0, 0, 0, [], [], 0⟩], 64⟩)] }

/-- The lists are in their canonical form, and the invariant of Safety.lean holds. -/
theorem state_canonical : SMap.wf linkDefault state.links = true ∧ SMap.wf bundleDefault state.bundles = true ∧ state.Inv :=
  ⟨by decide, by decide, resetMeetsInvariant⟩

theorem carries : (state.link (.rdl 1)).carries (0 : Fin 16).val = true := by decide

theorem replayed : (state.bundle (.rdl 1) (0 : Fin 16).val).unacked ≠ [] ∧ 64 ≤ (state.bundle (.rdl 1) (0 : Fin 16).val).replays := by decide

theorem other_inUse : (1 : Fin 16).val < (LinkEnd.rdl 1).bundles ∧ (state.link (.rdl 1)).uses (1 : Fin 16).val = true := by decide

/-- How many flits bundle 0 of RDL 1 keeps after a step. -/
def keptAfter : Res → Nat
  | .next t => (t.bundle (.rdl 1) 0).unacked.length
  | _ => 0

theorem keptAfter_timeout : keptAfter (exec (.flitReplayTimeout (.rdl 1) 0) state) = 1 := by decide +kernel

end PlacedBeyond

namespace ListedTwice

/-- RDL 0 is listed twice. -/
def state : State := { State.reset with links := [(0, twoBundles), (0, twoBundles)] }

/-- The flit that bundle 0 of RDL 0 expects. -/
def flit : Flit :=
  let f : Flit := ⟨1, 0, 2, [], [], 0⟩
  { f with crc := crc32c f.covered }

/-- What the clause on a good flit asks before it. -/
theorem flit_expected : (state.link (.rdl 0)).carries (0 : Fin 16).val = true ∧ crc32c flit.covered = flit.crc ∧ flit.fseq = (state.bundle (.rdl 0) (0 : Fin 16).val).rxSeq ∧
    flit.kind ≠ 4 ∧ (state.link (.rdl 0)).held = [] ∧ (state.link (.rdl 0)).moved = [] :=
  ⟨by decide, rfl, by decide, by decide, rfl, rfl⟩

def linksAfter : Res → List (Nat × LinkSt)
  | .next t => t.links
  | _ => []

/-- The flit leaves the end listed once. -/
theorem linksAfter_flit : linksAfter (exec (.flitReceived (.rdl 0) 0 flit) state) = [(0, twoBundles)] := by decide +kernel

end ListedTwice

/-- Refutes O52: once bundle 0 of RDL 1 is retired, the message that waits at RDL 0 goes out on RDL 0's bundle 16, which is listed as the same bundle, and a flit is kept there. -/
theorem not_flitsAndLaneTests : ¬ Obligations.FlitsAndLaneTests := by
  unfold Obligations.FlitsAndLaneTests
  intro h
  obtain ⟨-, -, -, -, hretire, -⟩ := h (.rdl 1) 0 PlacedBeyond.state PlacedBeyond.carries
  obtain ⟨t, hexec, ⟨-, -, hnone, -⟩, -⟩ := hretire PlacedBeyond.replayed.1 PlacedBeyond.replayed.2 ⟨1, by decide, PlacedBeyond.other_inUse⟩
  have hkept : (t.bundle (.rdl 1) 0).unacked.length = 1 := by
    have hafter := PlacedBeyond.keptAfter_timeout
    rwa [hexec] at hafter
  exact absurd (hkept.symm.trans (congrArg List.length hnone)) (by decide)

end Sys2Proof.Machine
end
